-- ==== Sys2Proof/Word.lean ====
section
/-! DEFINITION. The words of the module: R13 (word, half, line), R14 (little-endian, bit 0 lowest), and the names of its units by number. -/

namespace Sys2Proof

/-- 64 bits (R13). -/
abbrev Word := BitVec 64
/-- 32 bits (R13). -/
abbrev Half := BitVec 32
abbrev Byte := BitVec 8

/-- Physical core P(x,y) by number 448y + x (R8, R694). -/
abbrev CoreId := Fin 80640
/-- Field F(c,r) by number 14r + c (R9, R647). -/
abbrev FieldId := Fin 84
/-- Limb die L0 to L7 (R22). -/
abbrev LimbId := Fin 8
/-- Fabric port 0 to 23 (R34). -/
abbrev PortId := Fin 24

/-- A table by number: pairs of key and value, keys rising. What an unlisted key holds is said by the reader of the table. -/
abbrev Tab (α : Type) := List (Nat × α)

/-- A data word with its poison bit X (R70, R312). -/
structure PWord where
  d : Word
  x : Bool
  deriving DecidableEq, Repr, Inhabited

/-- A stored 80-bit codeword (R70): D in [63:0], X in [64], C in [78:65], P in [79]. -/
structure Codeword where
  d : Word
  x : Bool
  c : BitVec 14
  p : Bool
  deriving DecidableEq, Repr, Inhabited

end Sys2Proof
end

