-- ==== Sys2Proof/Syntax.lean ====
section
/-! DEFINITION. The commands and events of the module: one constructor of `Instr` for each row of the opcode table, with the data each event brings from outside (R1, and 95_what_each_step_holds.md). -/

namespace Sys2Proof

/-- A mesh packet (R315 to R318): its head flit's fields and its body, eight words a line. Beside the head flit: the bytes of the first and of the last body word that a partial write leaves alone (`keepLo`, `keepHi`; R68, R865), the outward port of an edge router that brought it (`port`, the skip-link port when true; R310), of a multicast in part delivered, the cores it still owes (`rest`; empty for all of them); and that its flits have reached its destination (`here`). -/
structure Packet where
  typ : Nat
  lastp : Bool
  exp : Bool
  plane : Bool
  det : Bool
  side : Bool
  dx : Nat
  dy : Nat
  sx : Nat
  sy : Nat
  daddr : Nat
  gen : Nat
  te : Bool
  tok : Nat
  q : Bool
  chq : Nat
  tag : Nat
  rlines : Nat
  status : Nat
  mcimg : List Word
  body : List PWord
  keepLo : Nat := 0
  keepHi : Nat := 0
  port : Bool := false
  rest : List Nat := []
  here : Bool := false
  deriving DecidableEq, Repr, Inhabited

/-- The kinds of link that carry sequenced flits (R306, R346). -/
inductive LinkKind where
  | core | skip | express | gateway | edge | seam
  deriving DecidableEq, Repr, Inhabited

/-- One direction of a link: its kind, the number of the router or gateway that sends, and the direction of travel 0 N, 1 E, 2 S, 3 W (R306, R694). -/
structure LinkRef where
  kind : LinkKind
  at_ : Nat
  dir : Nat
  deriving DecidableEq, Repr, Inhabited

/-- A flit as a link carries it (R311, R312): its eight content words and its sideband, the CRC in bits [63:32]. -/
structure Flit where
  words : List Word
  side : Word
  deriving DecidableEq, Repr, Inhabited

/-- A Meridian packet (R470): the header's fields, the payload and the tag. -/
structure MPkt where
  ver : Nat
  typ : Nat
  auth : Bool
  ackv : Bool
  dflow : Nat
  srcmod : Nat
  dstmod : Nat
  seq : Nat
  ackseq : Nat
  sack : Nat
  plen : Nat
  plan : Nat
  kind : Nat
  rtag : Nat
  addr : Nat
  payload : List Byte
  tag : List Byte
  deriving DecidableEq, Repr, Inhabited

/-- A received Ethernet frame as the port sees it (R464 to R469). -/
structure Frame where
  fcsOk : Bool
  pause : Bool
  ptp : Bool
  dmac : Nat
  v6 : Bool
  dip : Nat
  fragment : Bool
  udpOk : Bool
  dport : Nat
  ce : Bool
  bytes : Nat
  pkt : MPkt
  deriving DecidableEq, Repr, Inhabited

/-- How a PCIe request of the module ended at the host (R411, R412). -/
inductive HostStatus where
  | sc | ur | ca | ep
  deriving DecidableEq, Repr, Inhabited

/-- What one near-memory, vault or field-store word decoded as (R73, R416, R417): `bad` twice, `retried` well the second time. -/
inductive CellOutcome where
  | clean | corrected | bad | retried
  deriving DecidableEq, Repr, Inhabited

/-- A containment domain (R615). -/
inductive Dom where
  | core (c : CoreId)
  | field (f : FieldId)
  | limb (l : LimbId)
  | module
  deriving DecidableEq, Repr, Inhabited

/-- One vote of the neighbor test that found a mismatch (R700): the neighbor that votes, the core voted on, and which tests failed. -/
structure FailVote where
  voter : CoreId
  target : CoreId
  array : Bool
  router : Bool
  deriving DecidableEq, Repr, Inhabited

/-- The four diode readings of a unit in 1/16 °C, `none` for a diode that reads open or short (R670, R671). -/
structure Diodes where
  d0 : Option Int
  d1 : Option Int
  d2 : Option Int
  d3 : Option Int
  deriving DecidableEq, Repr, Inhabited

/-- The two input clips at a power sample: voltages in 0.1 V, currents in 0.1 A (R828, R832), and the input power in 10 W (R680). -/
structure ClipSample where
  va : Nat
  vb : Nat
  ia : Nat
  ib : Nat
  pwr : Nat
  deriving DecidableEq, Repr, Inhabited

/-- Currents of one unit's domains in 0.1 A and its rail in mV (R742): field C, S, T and rail; limb logic, near PHY, board PHY, SerDes, bridge. -/
structure CurrentSample where
  i0 : Nat
  i1 : Nat
  i2 : Nat
  i3 : Nat
  i4 : Nat
  deriving DecidableEq, Repr, Inhabited

/-- The commands and events, one for each row of the opcode table. -/
inductive Instr where
  -- resets, tray power and rack pins
  | coldReset | warmReset | modPwrenHigh | modPwrenLow | powerUpSequenceStep | railPowerGoodTimeout | perstAssert | epoN | inputLost
  | clipOvercurrent (b : Bool)
  | clipRestored
  | thermWarnNChange (asserted : Bool)
  | thermWarnNGlitch (samples : Nat)
  | thermWarnNReminder
  | thermWarnNNoisy
  | thermWarnNQuiet (low : Bool)
  | epoNGlitch (samples : Nat)
  | sync1ppsEdge | sync1ppsIgnored | ppsAbsent
  -- one instruction issued by a core's sequencer; the word is the one at the core's PC
  | add (c : CoreId) | sub (c : CoreId) | and (c : CoreId) | or (c : CoreId) | xor (c : CoreId)
  | shl (c : CoreId) | shr (c : CoreId) | sra (c : CoreId)
  | mul (c : CoreId) | mulhu (c : CoreId) | mulhs (c : CoreId)
  | min (c : CoreId) | max (c : CoreId) | minu (c : CoreId) | maxu (c : CoreId)
  | slt (c : CoreId) | sltu (c : CoreId) | seq (c : CoreId) | sel (c : CoreId)
  | faddD (c : CoreId) | fsubD (c : CoreId) | fmulD (c : CoreId) | fmaD (c : CoreId)
  | faddF (c : CoreId) | fsubF (c : CoreId) | fmulF (c : CoreId) | fmaF (c : CoreId)
  | fcvtFD (c : CoreId) | fcvtDF (c : CoreId) | fcvtID (c : CoreId) | fcvtDI (c : CoreId)
  | fltD (c : CoreId) | feqD (c : CoreId)
  | addi (c : CoreId) | andi (c : CoreId) | ori (c : CoreId) | xori (c : CoreId)
  | shli (c : CoreId) | shri (c : CoreId) | srai (c : CoreId) | slti (c : CoreId) | sltui (c : CoreId)
  | li (c : CoreId) | lih (c : CoreId)
  | ld (c : CoreId) | st (c : CoreId)
  | branch (c : CoreId) | jmp (c : CoreId) | call (c : CoreId) | jr (c : CoreId) | dbnz (c : CoreId)
  | nop (c : CoreId) | stop (c : CoreId) | brk (c : CoreId) | sysRd (c : CoreId) | sysWr (c : CoreId)
  | fenceT (c : CoreId) | fenceS (c : CoreId) | fence (c : CoreId)
  | vadd (c : CoreId) | vsub (c : CoreId) | vmul (c : CoreId) | vfma (c : CoreId)
  | vmin (c : CoreId) | vmax (c : CoreId) | vabs (c : CoreId) | vneg (c : CoreId)
  | vcmp (c : CoreId) | vsel (c : CoreId) | vdiv (c : CoreId) | vsqrt (c : CoreId)
  | vbcast (c : CoreId) | vext (c : CoreId) | vins (c : CoreId) | vcvt (c : CoreId) | vmov (c : CoreId)
  | vand (c : CoreId) | vor (c : CoreId) | vxor (c : CoreId)
  | vshl (c : CoreId) | vshr (c : CoreId) | vsra (c : CoreId) | vssq (c : CoreId) | vmvar (c : CoreId)
  | vld (c : CoreId) | vldP (c : CoreId) | vldS (c : CoreId) | vldX (c : CoreId) | vldB (c : CoreId)
  | vst (c : CoreId) | vstP (c : CoreId) | vstS (c : CoreId) | vstX (c : CoreId)
  | pset (c : CoreId) | pand (c : CoreId) | por (c : CoreId) | pxor (c : CoreId) | pandn (c : CoreId)
  | pnot (c : CoreId) | pfrom (c : CoreId) | pto (c : CoreId) | pcnt (c : CoreId)
  | tld (c : CoreId) | tmac (c : CoreId) | tclr (c : CoreId) | temit (c : CoreId) | tsumRow (c : CoreId) | tsumCol (c : CoreId)
  -- the array's two pipes: the load pipe when `mac` is false, the MAC pipe when it is true (R184)
  | arrayInstructionStart (c : CoreId) (mac : Bool)
  | arrayInstructionDone (c : CoreId) (mac : Bool)
  | send (c : CoreId) | sendMc (c : CoreId) | sendRead (c : CoreId)
  | waitTok (c : CoreId) | waitTokComplete (c : CoreId) | clrTok (c : CoreId) | sigTok (c : CoreId) | barCoh (c : CoreId)
  | barrierRelease (f : FieldId)
  | lateAdmissionBegin (c : CoreId)
  | tokenArrival (c : CoreId) (tok gen : Nat)
  -- control of one core
  | run (c : CoreId) (value : Bool)
  | halt (c : CoreId) | step1 (c : CoreId) | haltTaken (c : CoreId) | breakpointHit (c : CoreId)
  | sequencerWatchdog (c : CoreId) | waitLimitExceeded (c : CoreId)
  | counterWrap (c : CoreId) (busy : Bool)
  | correctedWriteback (c : CoreId) (instr : Bool) (word : Nat)
  -- mesh packets reaching their destination
  | wr (p : Packet) | wra (p : Packet) | rd (p : Packet) | rdata (p : Packet) | wack (p : Packet) | err (p : Packet)
  | fsw (p : Packet) | lsend (p : Packet) | mcw (p : Packet)
  | hb (c : CoreId) (dir : Nat)
  | hbSend (c : CoreId)
  | heartbeatLoss (c : CoreId) (dir : Nat)
  | reservedTypeDiscard (c : CoreId) (head : Word)
  -- links
  | flitReceive (k : LinkRef) (fl : Flit)
  | nak (k : LinkRef) (ackseq : Nat)
  | linkReplayTimeout (k : LinkRef) | linkRetrain (k : LinkRef)
  | linkRetrainDone (k : LinkRef) (failing : List Nat)
  | linkTraining (k : LinkRef) (failing : List Nat)
  -- seam; `east` names the half that acts
  | seamPartnerReset (east : Bool) (cut incomplete : Nat)
  | seamFlushDone (east : Bool) | seamPartnerRelease (east : Bool) | seamResetRelease (east : Bool)
  | seamPartnerOff (east : Bool) (cut incomplete : Nat)
  | seamClampOpen (east : Bool)
  -- store range
  /-- `mended`: image words that decode, each with whether only its second read did (R416, R417). -/
  | granuleRead (g first last : Nat) (engine : Bool) (bad : List Nat) (mended : List (Nat × Bool)) (malformed : List Nat)
  | granuleWrite (addr : Nat) (data : List PWord) (engine : Bool)
  | slotClose (l : LimbId) (g : Nat)
  | migrationDone (g : Nat)
  | eviction (l : LimbId)
  | scrubRead (l : LimbId) (vault : Bool) (addr : Nat) (o : CellOutcome) (last : Bool)
  | homeApply
  | hint (l : LimbId) (arg first count : Nat)
  | setelem (l : LimbId) (arg first count : Nat)
  | discard (l : LimbId) (first count : Nat)
  | flush (l : LimbId) (first count : Nat)
  | migCmdDone (l : LimbId)
  | hostWindowAccess (addr : Nat) (write : Bool) (len : Nat) (data : List Byte)
  -- Slew and the Occulter
  | arm (l : LimbId) (chan arg : Nat)
  | setgen (l : LimbId) (chan value : Nat)
  | slewCancel (l : LimbId) (chan : Nat)
  | slewChannelStart (l : LimbId)
  | slewTransferComplete (l : LimbId) (chan : Nat)
  | channelWindowWrite (l : LimbId) (chan word : Nat) (value : Word)
  | slwCqTailWrite (l : LimbId) (value : Nat)
  | fsmcDelivery (l : LimbId) (chan : Nat)
  | occulterSlotFilled (f : FieldId) (truth : Bool) (slot : Nat)
  | clear (f : FieldId)
  -- Meridian
  | frameReceive (port : PortId) (fr : Frame)
  | data (l : LimbId) | ack (l : LimbId) | roll (l : LimbId)
  | ackSend (l : LimbId) (flow : Nat)
  | resend (l : LimbId) (flow seq : Nat)
  | rollCallSend (l : LimbId)
  | peerAbsent (peer : Nat)
  | flowTableWrite (l : LimbId) (flow word : Nat) (value : Word)
  | peerTableWrite (l : LimbId) (peer word : Nat) (value : Word)
  | moduleIdWrite (value : Nat)
  | portEnable (port : PortId) (en : Bool)
  | start (l : LimbId) (plan rtag : Nat)
  | planCancel (l : LimbId) (plan : Nat)
  | planRunComplete (l : LimbId) (plan : Nat)
  | responseBoundExceeded (l : LimbId) (plan : Nat)
  | stepScalarBegin (l : LimbId) (plan : Nat)
  | gradientVectorClose | updateVectorClose
  | ptpSync (port : PortId) (t1 t2 correction : Int)
  | pdelayReq (port : PortId)
  | delayResp (port : PortId) (t4 correction : Int) (logInterval : Int)
  | delayReqSend (port : PortId)
  | announce (port : PortId)
  -- update engine and Ephemeris
  | stepOutcomeDecision | updateStart
  | directedSlotWrite (slot : Nat) (value : Word)
  | directedDeadline
  | uProgramBatch (l : LimbId) (seg : Nat)
  | sweepComplete (l : LimbId)
  | controlBankWrite
  | commit (steptag : Nat)
  | init
  -- Plate engine
  | take | plateCancel
  | verify (rsel : Bool) (slot shard : Nat)
  | restore (rsel : Bool) (slot shard : Nat)
  | delta (slot bslot : Nat)
  | plateApply (slot : Nat)
  | mark (slot : Nat)
  | plateCommandDone | snapDone | copyDone | digestDone | signDone
  | plateConfigWrite (off : Nat) (value : Word)
  -- error records and the night log
  | escalationArrival (d : Dom)
  | limbHoldEnd (l : LimbId)
  | clearActive (d : Dom) (nseq : Nat)
  | clearPending (d : Dom) (nseq : Nat)
  | correctedBatch (d : Dom)
  | nlogRecordWrite | nlogInterrupt
  -- power, clocks, thermal
  | fieldOff (f : Nat) | fieldOn (f : Nat) | hemiOff (t : Nat) | hemiOn (t : Nat)
  | domeRequestDone | bringup
  | sequenceStepDone (domain op : Nat) (ok : Bool)
  | dvfsStepDone (f : FieldId)
  | clockStretch (island : Nat) | lockLoss (island : Nat)
  | thermalSample (fields : List (FieldId × Diodes)) (limbs : List (LimbId × Diodes))
  | capTRise (f : FieldId) | capTFall (f : FieldId)
  | limbDiodesInvalid (l : LimbId) | limbUnthrottle (l : LimbId)
  | powerSample (smp : ClipSample)
  | capPRise | capPFall
  | sensorSample (fields : List (FieldId × CurrentSample)) (limbs : List (LimbId × CurrentSample)) (pcieSeam : CurrentSample)
  -- dark-frame test
  | neighborTestDone (votes : List FailVote)
  | sliceDue | runNext
  | sliceRun (q : Nat)
  | sliceCancel
  | nbr (f : Nat)
  | fuse
  | fuseDone (readback : Half)
  | sliceSaveDone
  | slicePatternsDone (ran : List (CoreId × List Word × Bool))
  | sliceRestoreDone
  -- Chronograph
  | siderealBroadcast
  | chrTimeSet (ns : Word)
  | lockLostTimeout
  | stallExceededSlack (f : FieldId) (stall : Nat)
  | durationSaturated (unit word : Nat)
  | chronographRecordWrite
  -- host interface
  | doorbell (ring : Nat) (prod : Half)
  | launchRingEnable (ring : Nat)
  | commandFetch (ring : Nat) (words : Option (List Word))
  | lrNop (ring : Nat) | launch (ring : Nat) | abandon (ring : Nat) | lrArm (ring : Nat) | lrPlan (ring : Nat)
  | load (ring : Nat) (source : Option (List Byte))
  | fstart (ring : Nat) | quiesce (ring : Nat) | lrWrite (ring : Nat)
  | fieldStart (f : FieldId) | fieldQuiesce (f : FieldId)
  | completionEntryWrite (ring : Nat)
  | clampRecordWrite
  | bar0Access (write : Bool) (off size : Nat) (value : Word)
  | bar2Access (write : Bool) (off len : Nat) (data : List Byte)
  | barReadTimeout (bar off : Nat)
  | linkDown
  | warm (value : Word)
  | serviceLevelChange
  | registerWrite (off : Nat) (value : Word)
  | registerRcRead (off : Nat)
  -- boot, identity, attestation
  | bootStageDone
  | extend | quote | getcert | bootChal | unlock | relock | flash | select | rollfwd
  | bootCommandDone (readbackOk : Bool)
  -- Eyepiece TAP
  | idcode | bypass | tapChal
  | token (bytes : List Byte)
  | xportRead (tag addr len : Nat)
  | xportWrite (tag addr len : Nat) (data : List Byte)
  | xportHalt (tag addr : Nat) | xportStep (tag addr : Nat) | xportResume (tag addr : Nat) | xportStatus (tag addr : Nat)
  -- links to the outside, pins
  | portLinkChange (port : PortId) (up : Bool)
  | hostLinkUp (rate width : Nat)
  | perstDeassert (refclk : Bool)
  | hostCompletion (tag : Nat) (status : HostStatus) (data : List Byte)
  | completionTimeout (tag : Nat)
  | epoLatchClear
  | inputRestored (b : Bool)
  | powerHoldOffEnd
  | supplyRecovery (island : Nat)
  | msixTableWrite (off : Nat) (value : Half)
  | pciPowerStateChange (d3hot : Bool)
  | uncorrectableErrorReceived (status : Half)
  deriving DecidableEq, Repr

end Sys2Proof
end

