-- ==== Sys2Proof/Machine/Bits.lean ====
section
/-! DEFINITION. Bit fields of a word ([hi:lo], R14, R15), sign extension, byte order, saturating counters, and tables by number. -/

namespace Sys2Proof.Machine

/-- Bits [hi:lo] of a natural number, inclusive at both ends. -/
def nbits (n hi lo : Nat) : Nat := (n >>> lo) % 2 ^ (hi + 1 - lo)

/-- Bits [hi:lo] of a word as an unsigned number (R15). -/
def bits (w : Word) (hi lo : Nat) : Nat := nbits w.toNat hi lo

/-- Bit i of a word. -/
def bit (w : Word) (i : Nat) : Bool := w.toNat.testBit i

/-- The word with bits [hi:lo] replaced by the low bits of n. -/
def setBits (w : Word) (hi lo n : Nat) : Word :=
  BitVec.ofNat 64 (((w.toNat >>> (hi + 1)) <<< (hi + 1)) + ((n % 2 ^ (hi + 1 - lo)) <<< lo) + w.toNat % 2 ^ lo)

/-- The word with bit i set to b. -/
def setBit (w : Word) (i : Nat) (b : Bool) : Word := setBits w i i b.toNat

/-- An n-bit two's complement number (R15). -/
def sx (n v : Nat) : Int := if 2 ^ (n - 1) ≤ v % 2 ^ n then (v % 2 ^ n : Nat) - (2 ^ n : Nat) else (v % 2 ^ n : Nat)

/-- The n-bit two's complement code of an integer. -/
def toBits (n : Nat) (i : Int) : Nat := (i % (2 ^ n : Nat)).toNat

/-- A word from a natural number, modulo 2^64. -/
def wd (n : Nat) : Word := BitVec.ofNat 64 n

/-- A counter of `w` bits that saturates at all ones (R56, R351). -/
def satAdd (w v n : Nat) : Nat := min (v + n) (2 ^ w - 1)

/-- Little-endian value of a byte list (R14). -/
def leNat : List Byte → Nat
  | [] => 0
  | b :: r => b.toNat + 256 * leNat r

/-- The n lowest bytes of a number, lowest first (R14). -/
def leBytes : Nat → Nat → List Byte
  | 0, _ => []
  | n + 1, v => BitVec.ofNat 8 v :: leBytes n (v / 256)

/-- The bytes of a list of words. -/
def wordsBytes (ws : List Word) : List Byte := ws.flatMap (fun w => leBytes 8 w.toNat)

/-- A byte list cut into words, the last one filled with zeros. -/
def bytesWords : Nat → List Byte → List Word
  | 0, _ => []
  | n + 1, bs => wd (leNat (bs.take 8)) :: bytesWords n (bs.drop 8)

/-- `n` is rounded down to a multiple of `k` (R783). -/
def alignDown (n k : Nat) : Nat := n / k * k

/-- Quotient rounded up. -/
def ceilDiv (a b : Nat) : Nat := (a + b - 1) / b

/-- What a table holds at a key, if it lists it. -/
def tfind {α : Type} : Tab α → Nat → Option α
  | [], _ => none
  | (k, v) :: r, i => if k = i then some v else tfind r i

/-- What a table holds at a key, `d` where it lists nothing. -/
def tget {α : Type} (d : α) (t : Tab α) (i : Nat) : α := (tfind t i).getD d

/-- The table with key i holding v, keys kept rising. -/
def tset {α : Type} : Tab α → Nat → α → Tab α
  | [], i, v => [(i, v)]
  | (k, w) :: r, i, v => if k = i then (i, v) :: r else if i < k then (i, v) :: (k, w) :: r else (k, w) :: tset r i v

/-- The table without key i. -/
def terase {α : Type} : Tab α → Nat → Tab α
  | [], _ => []
  | (k, w) :: r, i => if k = i then terase r i else (k, w) :: terase r i

/-- The table with key i holding v, where an unlisted key holds d: writing d removes the entry. -/
def tput {α : Type} [DecidableEq α] (d : α) (t : Tab α) (i : Nat) (v : α) : Tab α :=
  if v = d then terase t i else tset (terase t i) i v

/-- Bytes of a store from an address up: `n` of them, unlisted bytes reading `d`. -/
def tspan {α : Type} (d : α) (t : Tab α) (a : Nat) : Nat → List α
  | 0 => []
  | n + 1 => tget d t a :: tspan d t (a + 1) n

/-- Apply `f` for every number of a list, in order. -/
def forEach {σ : Type} (l : List Nat) (f : Nat → σ → σ) (s : σ) : σ := l.foldl (fun t n => f n t) s

/-- The numbers of the 1 bits of the low w bits of n, rising. -/
def onesOf (w n : Nat) : List Nat := (List.range w).filter (fun i => n.testBit i)

/-- Number of 1 bits among the low w bits of n. -/
def popcount (w n : Nat) : Nat := (onesOf w n).length

/-- A list with element i replaced. -/
def lset {α : Type} (l : List α) (i : Nat) (v : α) : List α := l.set i v

/-- floor(log2 n), 0 for 0. -/
def flog2 (n : Nat) : Nat := n.log2

/-- Codes of w bits packed little-endian into bytes (R259). -/
def packCodes (w : Nat) (cs : List Nat) : List Byte :=
  leBytes ((w * cs.length + 7) / 8) (cs.foldr (fun c n => n * 2 ^ w + c % 2 ^ w) 0)

/-- n codes of w bits of a byte list. -/
def unpackCodes (w n : Nat) (bs : List Byte) : List Nat :=
  let v := leNat bs
  (List.range n).map (fun i => nbits v (w * i + w - 1) (w * i))

end Sys2Proof.Machine
end

