-- ==== Sys2Proof/Machine/Ecc.lean ====
section
/-! DEFINITION. The 80/64 code of R70 to R74: a BCH code of two errors over GF(2^7) with an overall parity bit, a poison bit and a folded address. -/

namespace Sys2Proof.Machine

/-- g(x): the minimal polynomials of α and α³ multiplied, α a root of x⁷ + x³ + 1 (R71): (x⁷+x³+1)(x⁷+x³+x²+x+1). -/
def bchG : Nat := 0x4377

/-- One step of the division by g(x): the remainder so far times x plus the next coefficient of x^14 · M(x). -/
def bchStep (r : Nat) (b : Bool) : Nat :=
  let f := (r.testBit 13) != b
  let r' := (r * 2) % 2 ^ 14
  if f then r' ^^^ (bchG % 2 ^ 14) else r'

/-- Remainder of x^14 · M(x) by g(x), the top n bits of an n-bit M first (R71). -/
def bchRem (m : Nat) : Nat → Nat → Nat
  | 0, r => r
  | n + 1, r => bchRem m n (bchStep r (m.testBit n))

/-- The 81-bit message M (R71). -/
def eccMsg (d : Word) (x : Bool) (f : Nat) : Nat := d.toNat * 2 ^ 17 + x.toNat * 2 ^ 16 + f % 2 ^ 16

/-- C[13:0] (R71). -/
def eccCheck (d : Word) (x : Bool) (f : Nat) : BitVec 14 := BitVec.ofNat 14 (bchRem (eccMsg d x f) 81 0)

/-- XOR of the low n bits of v. -/
def parityOf (v : Nat) : Nat → Bool
  | 0 => false
  | n + 1 => (v.testBit n) != parityOf v n

/-- The parity bits of an accumulator's eight segments of 76 bits, even parity as a stored bit (R230). -/
def accPar (n : BitVec 608) : BitVec 8 :=
  BitVec.ofNat 8 ((List.range 8).foldl (fun t g => t + (parityOf (n.toNat >>> (76 * g)) 76).toNat * 2 ^ g) 0)

/-- P: the XOR of D, X, C and F (R70). -/
def eccParity (d : Word) (x : Bool) (c : BitVec 14) (f : Nat) : Bool := parityOf (eccMsg d x f) 81 != parityOf c.toNat 14

/-- The codeword of a data word and its poison bit at folded address f (R70, R71). -/
def eccEncode (d : Word) (x : Bool) (f : Nat) : Codeword :=
  { d := d, x := x, c := eccCheck d x f, p := eccParity d x (eccCheck d x f) f }

/-- The outcomes of R73 as to the code: poison is the delivered word's own bit. -/
inductive Read73 where
  | clean (w : PWord)
  | corrected (w : PWord) (fixed : Codeword)
  | misaddressed
  | uncorrectable
  deriving DecidableEq, Repr

/-- x^j mod g(x): the syndrome of one wrong bit at position j of the code polynomial. -/
def bchPow : Nat → Nat
  | 0 => 1
  | j + 1 => let r := bchPow j * 2; if r.testBit 14 then r ^^^ bchG else r

/-- Syndromes of the single errors of the 95 positions: C at 0 to 13, F at 14 to 29, X at 30, D at 31 to 94. -/
def bchPows : List (Nat × Nat) := (List.range 95).map (fun j => (j, bchPow j))

/-- The one or two positions whose syndromes sum to s, if any (R73). -/
def bchLocate (s : Nat) : Option (List Nat) :=
  match bchPows.find? (fun p => p.2 == s) with
  | some p => some [p.1]
  | none =>
    (bchPows.findSome? (fun p =>
      match bchPows.find? (fun q => p.1 < q.1 && q.2 == s ^^^ p.2) with
      | some q => some [p.1, q.1]
      | none => none))

/-- A position lies in F (R73). -/
def inF (j : Nat) : Bool := 14 ≤ j && j < 30

/-- The codeword with one stored bit turned: C, X or D (R73). -/
def eccFlip (w : Codeword) (j : Nat) : Codeword :=
  if j < 14 then { w with c := w.c ^^^ BitVec.ofNat 14 (2 ^ j) }
  else if j = 30 then { w with x := !w.x }
  else { w with d := w.d ^^^ wd (2 ^ (j - 31)) }

/-- Reading a stored codeword with the address f that the reader intends (R72, R73). -/
def eccDecode (w : Codeword) (f : Nat) : Read73 :=
  let syn := (eccCheck w.d w.x f ^^^ w.c).toNat
  let bad := eccParity w.d w.x w.c f != w.p
  if syn = 0 then
    (if bad then .corrected ⟨w.d, w.x⟩ { w with p := !w.p } else .clean ⟨w.d, w.x⟩)
  else
    match bchLocate syn with
    | none => .uncorrectable
    | some js =>
      if bad && js.length == 2 then .uncorrectable
      else if js.any inF then .misaddressed
      else
        let w' := js.foldl eccFlip w
        .corrected ⟨w'.d, w'.x⟩ { w' with p := eccParity w'.d w'.x w'.c f }

/-- What a store of codewords holds at index i: an unlisted index holds the clean codeword of 0. -/
def cwRead (t : Tab Codeword) (i : Nat) : Read73 :=
  match tfind t i with
  | none => .clean ⟨0, false⟩
  | some w => eccDecode w i

/-- The store with a data word written at index i as a clean codeword (R70). -/
def cwWrite (t : Tab Codeword) (i : Nat) (w : PWord) : Tab Codeword := tset t i (eccEncode w.d w.x i)

end Sys2Proof.Machine
end

