-- ==== Sys2Proof/Machine/Operands.lean ====
section
/-! DEFINITION. The fields of a Felnen instruction word (R130 to R203) and the check of its encoding (R210). -/

namespace Sys2Proof.Machine

/-- CLASS (R130). -/
def iClass (w : Word) : Nat := bits w 63 60
/-- OP (R130). -/
def iOp (w : Word) : Nat := bits w 59 54
/-- PR (R130). -/
def iPR (w : Word) : Nat := bits w 53 51
/-- PN (R130). -/
def iPN (w : Word) : Bool := bit w 50

/-- Every one of the bit ranges holds 0 (R132). -/
def zeros (w : Word) (rs : List (Nat × Nat)) : Bool := rs.all (fun r => bits w r.1 r.2 == 0)

/-- Scalar operations that use SB (R138). -/
def scalarUsesB (op : Nat) : Bool := !(0x28 ≤ op && op ≤ 0x2B)
/-- Scalar operations that use SC (R138). -/
def scalarUsesC (op : Nat) : Bool := op == 0x12 || op == 0x23 || op == 0x27
/-- Scalar operations of the table (R138). -/
def scalarOp (op : Nat) : Bool := op ≤ 0x12 || (0x20 ≤ op && op ≤ 0x2D)

/-- CLASS 0x2 (R138): SD [49:45], SA [44:40], SB [39:35], SC [34:30]. -/
def okScalar (w : Word) : Bool :=
  scalarOp (iOp w) && zeros w [(29, 0)] && (scalarUsesB (iOp w) || zeros w [(39, 35)]) && (scalarUsesC (iOp w) || zeros w [(34, 30)])

/-- CLASS 0x3 (R142): SD [49:45], SA [44:40], IMM [31:0]. -/
def okImm (w : Word) : Bool :=
  iOp w ≤ 0xA && zeros w [(39, 32)] && (!(4 ≤ iOp w && iOp w ≤ 6) || zeros w [(31, 6)]) && (iOp w != 9 || zeros w [(44, 40)])

/-- CLASS 0x4 (R143): SD [49:45], SA [44:40], OFS [19:0]. -/
def okScalarMem (w : Word) : Bool := (iOp w ≤ 6 || (8 ≤ iOp w && iOp w ≤ 0xB)) && zeros w [(39, 20)]

/-- CLASS 0x0 (R145): SA [49:45], SB [44:40], SD [39:35], TGT [12:0]. -/
def okControl (w : Word) : Bool :=
  zeros w [(34, 13)] &&
  (if iOp w ≤ 5 then zeros w [(39, 35)]
   else if iOp w = 6 then zeros w [(49, 35)]
   else if iOp w = 7 then zeros w [(49, 40)]
   else if iOp w = 8 then zeros w [(44, 35), (12, 0)]
   else if iOp w = 9 then zeros w [(44, 35)]
   else false)

/-- CLASS 0x1 (R148, R149): SD [49:45], SA [44:40], SYS [3:0]. -/
def okSystem (w : Word) : Bool :=
  if iOp w = 3 then zeros w [(44, 4)] && bits w 3 0 ≤ 3
  else if iOp w = 4 then zeros w [(49, 45), (39, 4)] && bits w 3 0 == 1
  else iOp w ≤ 7 && zeros w [(49, 0)]

/-- Number of elements of a view (R151): F32, F64, BF16, F16, I32. -/
def viewCount (ty : Nat) : Nat := if ty = 1 then 8 else if ty = 2 ∨ ty = 3 then 32 else 16
/-- Element width in bits of a view (R260). -/
def viewWidth (ty : Nat) : Nat := 512 / viewCount ty

/-- The body fields that a vector arithmetic operation uses, as the bit ranges it does not use (R132, R150, R152). -/
def vecUnused (op : Nat) : List (Nat × Nat) :=
  if op = 3 then [(30, 13)]
  else if op = 6 ∨ op = 7 ∨ op = 0x0B ∨ op = 0x10 ∨ op = 0x19 then [(41, 34), (30, 13)]
  else if op = 8 then [(49, 46), (37, 34), (24, 13)]
  else if op = 9 then [(37, 34), (27, 13)]
  else if op = 0x0C then [(45, 34), (30, 25), (19, 13)]
  else if op = 0x0D then [(49, 46), (41, 34), (30, 25), (15, 13)]
  else if op = 0x0E then [(45, 34), (30, 25), (15, 13)]
  else if op = 0x0F then [(41, 34), (30, 16)]
  else if op = 0x18 then [(41, 38), (30, 13)]
  else [(37, 34), (30, 13)]

/-- The views in which a vector arithmetic operation is legal (R152, R156). -/
def vecViews (op cc : Nat) : List Nat :=
  if op = 3 then [0, 1, 2, 3]
  else if op = 8 then (if cc = 6 ∨ cc = 7 then [0, 1] else [0, 1, 4])
  else if op = 0x0A ∨ op = 0x0B then [0, 1]
  else if op = 0x0D ∨ op = 0x0E then [0, 1, 4]
  else if 0x11 ≤ op ∧ op ≤ 0x16 then [4]
  else if op = 0x18 ∨ op = 0x19 then [0]
  else [0, 1, 2, 3, 4]

/-- CLASS 0x5 (R150 to R158). -/
def okVec (w : Word) : Bool :=
  let op := iOp w
  (op ≤ 0x16 || op == 0x18 || op == 0x19) && zeros w [(12, 0)] && zeros w (vecUnused op) &&
  (vecViews op (bits w 27 25)).contains (bits w 33 31) &&
  (!(op == 0x0F) || (bits w 15 13 ≤ 4 && bits w 15 13 != bits w 33 31)) &&
  (!(op == 0x0D || op == 0x0E) || bits w 19 16 < viewCount (bits w 33 31))

/-- CLASS 0x6 (R159): VD [49:46], SA [45:41], SB [40:36], VI [35:32], OFS [19:0]. -/
def okVecMem (w : Word) : Bool :=
  let op := iOp w
  (op ≤ 4 || (8 ≤ op && op ≤ 0xB)) && zeros w [(31, 20)] &&
  (op % 8 == 2 || zeros w [(40, 36)]) && (op % 8 == 3 || zeros w [(35, 32)]) && (op % 8 != 1 || bits w 46 46 == 0)

/-- CLASS 0x7 (R165): PD [49:47], PA [46:44], PB [43:41], S [40:36], IMM [15:0]. -/
def okPred (w : Word) : Bool :=
  let op := iOp w
  if op = 0 then zeros w [(46, 16)]
  else if op ≤ 4 then zeros w [(40, 0)]
  else if op = 5 then zeros w [(43, 0)]
  else if op = 6 then zeros w [(46, 41), (35, 0)]
  else if op ≤ 8 then zeros w [(49, 47), (43, 41), (35, 0)]
  else false

/-- Lines of an array buffer (R166). -/
def bufLines (tgt : Nat) : Nat := if tgt = 0 ∨ tgt = 1 then 128 else if tgt = 4 then 64 else 8

/-- Operand bytes of A per cycle (R172). -/
def fmtA (fmt : Nat) : Nat := if fmt = 1 ∨ fmt = 2 then 48 else 32
/-- Operand bytes of B per cycle (R172, R173). -/
def fmtB (fmt : Nat) (sp : Bool) : Nat := fmtA fmt * (if sp then 2 else 1)
/-- Scale bytes per cycle of one operand (R172, R173). -/
def fmtScale (fmt : Nat) (sp : Bool) : Nat := (if fmt ≤ 2 then 2 else if fmt ≤ 5 then 1 else 0) * (if sp then 2 else 1)
/-- Metadata bytes per cycle (R172). -/
def fmtMeta (fmt : Nat) : Nat := if fmt ≤ 2 then 16 else if fmt ≤ 5 then 8 else 4
/-- K per cycle (R172). -/
def fmtK (fmt : Nat) : Nat := if fmt ≤ 2 then 4 else if fmt ≤ 5 then 2 else 1

/-- Lines that a TMAC of `cyc` cycles covers at `b` bytes a cycle (R174). -/
def tmacLines (cyc b : Nat) : Nat := ceilDiv (cyc * b) 64

/-- TMAC's checks (R173, R174, R210). -/
def okTmac (w : Word) : Bool :=
  let fmt := bits w 49 46
  let sp := bit w 45
  let cyc := bits w 44 37 + 1
  fmt ≤ 7 && zeros w [(10, 0)] && (sp || zeros w [(16, 11)]) && (fmt ≤ 5 || zeros w [(22, 17)]) &&
  bits w 36 30 + tmacLines cyc (fmtA fmt) ≤ 128 && bits w 29 23 + tmacLines cyc (fmtB fmt sp) ≤ 128 &&
  (5 < fmt || (bits w 22 20 + tmacLines cyc (fmtScale fmt sp) ≤ 8 && bits w 19 17 + tmacLines cyc (fmtScale fmt sp) ≤ 8)) &&
  (!sp || bits w 16 11 + tmacLines cyc (fmtMeta fmt) ≤ 64)

/-- CLASS 0x8 (R167 to R181). -/
def okTensor (w : Word) : Bool :=
  let op := iOp w
  if op = 0 then zeros w [(27, 0)] && bits w 44 42 ≤ 4 && bits w 41 35 + bits w 34 28 + 1 ≤ bufLines (bits w 44 42)
  else if op = 1 then okTmac w
  else if op = 2 then zeros w [(49, 0)]
  else if op = 3 then
    bits w 49 46 ≤ 8 && zeros w [(6, 0)] && (bit w 45 || zeros w [(38, 29)]) && (bits w 49 46 ≤ 5 || zeros w [(28, 24)]) &&
    (bits w 23 22 != 0 || zeros w [(21, 17)]) && (bits w 16 15 != 0 || zeros w [(14, 10)])
  else if op ≤ 5 then zeros w [(45, 0)]
  else false

/-- CLASS 0x9 (R188 to R196). -/
def okStream (w : Word) : Bool :=
  zeros w [(5, 0)] && (bit w 12 || zeros w [(11, 6)]) &&
  (if iOp w = 0 then
     (if bits w 49 48 = 0 then zeros w [(47, 45)] && bits w 44 36 ≤ 447 && bits w 35 28 ≤ 179
      else if bits w 49 48 = 1 then bits w 47 44 ≤ 13 && bits w 43 41 ≤ 5 && zeros w [(40, 28)]
      else zeros w [(44, 40)])
   else if iOp w = 1 then zeros w [(39, 28)]
   else false)

/-- CLASS 0xA (R202): T [49:44], GR [43], SG [42:38], N [37:30], GEN [15:0]. -/
def okSync (w : Word) : Bool :=
  zeros w [(29, 16)] &&
  (if iOp w = 0 then (if bit w 43 then zeros w [(15, 0)] else zeros w [(42, 38)])
   else if iOp w = 1 then zeros w [(43, 0)]
   else if iOp w = 2 then zeros w [(37, 30)] && (if bit w 43 then zeros w [(15, 0)] else zeros w [(42, 38)])
   else if iOp w = 3 then zeros w [(49, 0)]
   else false)

/-- The word is a legal encoding (R210). -/
def legal (w : Word) : Bool :=
  match iClass w with
  | 0 => okControl w
  | 1 => okSystem w
  | 2 => okScalar w
  | 3 => okImm w
  | 4 => okScalarMem w
  | 5 => okVec w
  | 6 => okVecMem w
  | 7 => okPred w
  | 8 => okTensor w
  | 9 => okStream w
  | 10 => okSync w
  | _ => false

end Sys2Proof.Machine
end

