-- ==== Sys2Proof/Config.lean ====
section
/-! DEFINITION. What one module has fixed and the manual does not number: fused fields, boot results, signatures, random bits, capacity. Every constant here has no body: a theorem that uses one holds for every value of it. -/

namespace Sys2Proof.Config

/-- The value of a fused register or field, by BAR0 offset (R17 "Fused", R652, R696, R791, R825). The meaning keeps only the bits of the fused field. -/
opaque fused : Nat → Word

/-- The n-th value of a random or otherwise open draw (R815's nonce, an unstated value); the state counts the draws. -/
opaque freeValue : Nat → Word

/-- The result of VADD (0), VSUB (1), VABS (6) or VNEG (7) in the I32 view where the exact one lies outside I32, by operation and operand elements: no rule states it, and R119 makes it the same on every core and in every run. -/
opaque i32Overflow : Nat → Nat → Nat → Half

/-- Whether an ECDSA brainpoolP384r1 signature verifies (R799, R806, R816): key number, digest bytes, signature bytes. The curve arithmetic is a published standard and not part of the manual. -/
opaque ecdsaOk : Nat → List Byte → List Byte → Bool

/-- The 96 signature bytes that the identity key of L0 (false) or L4 (true) gives over a message (R810, R823). -/
opaque ecdsaSign : Bool → List Byte → List Byte

/-- Bytes of the boot flash at shipment, by bank and offset (R798). -/
opaque flashByte : Bool → Nat → Byte

/-- The preferred-bank flag of the boot flash at shipment (R798, R825 "Flash"). -/
opaque prefBank : Bool

/-- The certificates of the boot flash's certificate area (R811, R812): the host limb's identity certificate by limb (0 or 4), the device CA (10) and the root (11). -/
opaque certificate : Nat → List Byte

/-- SHA-384 digest of the boot ROM (R795 stage 0, R808). -/
opaque romDigest : List Byte

/-- Which limbs trained their near memory at boot (R366, R368). -/
opaque nearTrained : BitVec 8

/-- GOLD of the golden tables (R711), by index: 16 words for each table, by its bank and SVN. The manual gives the table no layout. -/
opaque golden : Nat → Word

end Sys2Proof.Config
end

