-- ==== Sys2Proof/Machine/State.lean ====
section
/-! DEFINITION. The state of the module as plain data: every register and window of BAR0 by offset, the cores, the store range, the engines, the queues, the pins; and the reasons a step can stop. -/

namespace Sys2Proof.Machine

/-- Why the machine stops. Raised by no meaning of this model: every error of the manual is an effect on the error records (R614 to R626). -/
inductive Fault where
  /-- Raised by nobody. Safe. -/
  | none
  deriving DecidableEq, Repr

/-- Why a command has no meaning. -/
inductive Refusal where
  /-- Raised by an arm of `exec` that has no meaning yet, with the row's mnemonic. Safe. -/
  | notModelled (mnemonic : String)
  deriving DecidableEq, Repr

/-- One long accumulator: the 608-bit integer N and its sticky flags (R224), and the parity bits of its eight segments of 76 bits, segment g in bit g (R230). -/
structure Acc where
  n : BitVec 608
  nan : Bool
  pinf : Bool
  ninf : Bool
  par : BitVec 8
  deriving DecidableEq, Repr, Inhabited

def Acc.zero : Acc := { n := 0, nan := false, pinf := false, ninf := false, par := 0 }

/-- A tensor instruction in the array queue: its word, the scalar operands and system values read at issue (R134, R179), and whether it has started (R183 to R186). -/
structure ArrOp where
  word : Word
  sa : Word
  sd : Word
  sk : Word
  sn : Word
  ss : Word
  sadd : Word
  smul : Word
  step : Word
  mb : BitVec 16
  key0 : Word
  key1 : Word
  started : Bool
  /-- What a started TEMIT or TSUM will write when it completes: packed bytes, pst, vd. -/
  bytes : List Byte
  pst : BitVec 16
  vec : BitVec 512
  deriving DecidableEq, Repr, Inhabited

/-- A SEND or SEND.MC in the send queue: its word and the scalar operands read at issue (R134, R197). -/
structure SendOp where
  word : Word
  ssrc : Word
  sdst : Word
  sctl : Word
  deriving DecidableEq, Repr, Inhabited

/-- What one physical core holds beside its BAR0 window (R46, R47, R64, R78, R166, R183, R197, R224). -/
structure Core where
  /-- Scalar registers; s0 reads 0 (R47). -/
  s : Vector Word 32
  /-- Vector registers (R47). -/
  v : Vector (BitVec 512) 16
  /-- Predicate registers; p0 reads 0xFFFF (R47). -/
  p : Vector (BitVec 16) 8
  /-- sys.MB (R49). -/
  mb : BitVec 16
  /-- Instruction store by instruction index; an unlisted index holds the clean codeword of 0 (R78). -/
  istore : Tab Codeword
  /-- Core store by word index; an unlisted index holds the clean codeword of 0 (R64). -/
  store : Tab Codeword
  /-- Send queue, oldest first (R197). -/
  sendq : List SendOp
  /-- Array queue, oldest first (R183). -/
  arrayq : List ArrOp
  /-- Array buffers TA, TB, SCA, SCB, TM by 2048 × TGT + line × 8 + word (R166, R223). -/
  bufs : Tab Codeword
  /-- Accumulators by 16 × row + column; an unlisted one is zero (R224). -/
  acc : Tab Acc
  /-- Vector mode of the run: strict when true (R118). -/
  vmode : Bool
  /-- STATE that a halt in progress will end in (R120, R126). -/
  haltTo : Option Nat
  /-- The core has arrived at the barrier and the barrier has not released (R90, R95). -/
  arrived : Bool
  /-- Inbound packets held in the local-port buffer (R87). -/
  held : List Packet
  /-- This wait's deferred error has been recorded (R108). -/
  longRec : Bool
  /-- Token, generation and count of the WAIT.TOK in progress (R99, R134). -/
  wait : Option (Nat × Nat × Nat)
  /-- A watchpoint matched an access of this run and its halt is due (R60). -/
  wptHit : Bool
  /-- Words whose corrected codeword is to be written back: store (false) or instruction store (true), with the index (R73). -/
  wbq : List (Bool × Nat)
  deriving DecidableEq, Repr

def Core.reset : Core :=
  { s := Vector.replicate 32 0, v := Vector.replicate 16 0, p := Vector.replicate 8 0, mb := 0
    istore := [], store := [], sendq := [], arrayq := [], bufs := [], acc := [], vmode := false
    haltTo := none, arrived := false, held := [], longRec := false, wait := none, wptHit := false, wbq := [] }

/-- An open or closed Chronograph record: a field's, or the module's (R733 to R740). Durations are in ns: by phase code for a field (3 is STALL); for the module 0 COMPUTE, 1 REDUCE, 2 UPDATE, 3 PLATE, 4 SEAM. -/
structure Chr where
  isOpen : Bool
  step : Word
  start : Word
  /-- Start of the span that accrues to the phase in progress, by duration. -/
  since : Tab Word
  dur : Tab Nat
  late : Bool
  satWord : Option Nat
  bwdRan : Bool
  bwdReported : Bool
  tmax : Int
  effMax : Nat
  effMin : Nat
  /-- Energy in nJ (R743). -/
  energy : Nat
  peak : Nat
  attempt : Nat
  localmb : Nat
  busy0 : Nat
  deriving DecidableEq, Repr, Inhabited

def Chr.reset : Chr :=
  { isOpen := false, step := 0, start := 0, since := [], dur := [], late := false, satWord := none, bwdRan := false, bwdReported := false
    tmax := -32768, effMax := 0, effMin := 7, energy := 0, peak := 0, attempt := 0, localmb := 0, busy0 := 0 }

/-- One direction of a link (R345 to R349): 0 no training of it has been seen, 1 live, 2 retraining, 3 dead; the flits its sender holds unacknowledged in the replay buffer, oldest first; its next SEQ; the receiver's expected SEQ; consecutive resends; whether the receiver has answered a discard; the spared wires; by 2 × channel + sub-channel the flits whose credit has not come back (R323), where a channel is the virtual channel, over 4 × the lane of an express link at the seam (R352); flits that wait to be sent; and the channels of credits to be returned with its next flits. -/
structure LinkSt where
  status : Nat
  unacked : List Flit
  nextSeq : Nat
  expSeq : Nat
  resends : Nat
  discarding : Bool
  spared : List Nat
  owed : Tab Nat
  wait : List Flit
  crq : List Nat
  deriving DecidableEq, Repr, Inhabited

def LinkSt.reset : LinkSt := { status := 0, unacked := [], nextSeq := 0, expSeq := 0, resends := 0, discarding := false, spared := [], owed := [], wait := [], crq := [] }

/-- An input port of a router or gateway (R321): its buffered flits by 2 × channel + sub-channel, oldest first; by virtual channel, of each packet whose flits come in (two where a multicast's tree and side copy share the link), the channel and sub-channel as the same number and how many of its flits are still to come; by that number, of the packet whose head flit has left, the head's words and how many of its flits are still to leave (R322); and the flits of a packet that ends here, so far. -/
structure PortSt where
  q : Tab (List Flit)
  inn : Tab (List (Nat × Nat))
  hd : Tab (List Word × Nat)
  asm : Tab (List Flit)
  deriving DecidableEq, Repr, Inhabited

def PortSt.reset : PortSt := { q := [], inn := [], hd := [], asm := [] }

/-- An output's arbitration (R322): the virtual channel granted last, and by virtual channel the input granted last and the input that holds the output. -/
structure Grant where
  vc : Nat
  inp : Tab Nat
  held : Tab Nat
  deriving DecidableEq, Repr, Inhabited

def Grant.reset : Grant := { vc := 2, inp := [], held := [] }

/-- A read or answered write that a limb has sent into the wafer and that is not answered (R316 TAG): for whom (0 BAR2, 1 the debug transport, 3 an engine's read), its BAR2 offset, or the module address of an engine's read, the bytes wanted from the data, the data so far, and for an engine's read its whole length and this part's place in it. -/
structure MeshReq where
  who : Nat
  off : Nat
  write : Bool
  skip : Nat
  len : Nat
  got : List PWord
  total : Nat := 0
  part : Nat := 0
  deriving DecidableEq, Repr, Inhabited

/-- The debug transport (R857): a request is being performed; the response's RSTAT, OP, TAG, LEN, ADDR and data. -/
structure Xport where
  busy : Bool
  rstat : Nat
  op : Nat
  tag : Nat
  len : Nat
  addr : Nat
  data : List Byte
  deriving DecidableEq, Repr, Inhabited

def Xport.reset : Xport := { busy := false, rstat := 0, op := 0, tag := 0, len := 0, addr := 0, data := [] }

/-- An open staging slot (R380): its granule, and what the granule's bytes and poison bits were when it opened. -/
structure Slot where
  g : Nat
  oldB : Tab Byte
  oldX : Tab Bool
  deriving DecidableEq, Repr, Inhabited

/-- A running Slew transfer (R436): channel, its requester tag, its ARG and the launch ring that armed it; the entry and parameters as clamped at start; source and destination bases, whether the destination is the overflow base; step at start, arms since, fields clamped and their report; how it will end, whether a poisoned word was delivered; source words wanted, the first word and count of each read that is not answered, oldest first, and the words so far; whether its writes have been issued, the lines of each answered write outstanding, whether an FSMC delivery is made; lines written; and the port of the edge routers that it takes (R310). -/
structure Run where
  chan : Nat
  tag : Nat
  arg : Nat
  lring : Nat
  snap : List Word
  par : List Word
  src : Nat
  base : Nat
  ovf : Bool
  step : Nat
  rearms : Nat
  clamps : Nat
  report : Nat
  status : Nat
  poison : Bool
  want : Nat
  asked : List (Nat × Nat)
  got : Tab PWord
  issued : Bool
  acks : List Nat
  delivered : Bool
  lines : Nat
  port : Bool
  deriving DecidableEq, Repr, Inhabited

/-- A field's Occulter beside its registers (R458): filled predicted and true slots, the masks P, T and M by unit block as bits of a number, the OCCM transfers completed; the first address of each field-store transfer under way, by its source and TAG, and the slots (true ones with true) whose transfer has written its last packet. -/
structure Occ where
  fillP : List Nat
  fillT : List Nat
  p : Nat
  t : Nat
  m : Nat
  done : Nat
  first : Tab Nat
  due : List (Bool × Nat)
  deriving DecidableEq, Repr, Inhabited

def Occ.reset : Occ := { fillP := [], fillT := [], p := 0, t := 0, m := 0, done := 0, first := [], due := [] }

/-- What the launch of the step sampled (R276, R532, R550, R866): POLICY, the current banks, UPD_CFG and LOCALMB; `held` while a launch that is a replay uses them again; `last` is the step of the last launch, none after an accepted COMMIT (R575, R578). -/
structure Samp where
  policy : Nat
  pbank : Nat
  cbank : Nat
  cfg : Word
  localmb : Nat
  held : Bool
  last : Option Word
  deriving DecidableEq, Repr, Inhabited

def Samp.reset : Samp := { policy := 1, pbank := 0, cbank := 0, cfg := 0, localmb := 0, held := false, last := none }

/-- A packet of a flow that is not acknowledged (R479): its sequence number, resends so far, and the packet. -/
structure Unack where
  seq : Nat
  resends : Nat
  pkt : MPkt
  deriving DecidableEq, Repr, Inhabited

/-- A flow's send and receive state (R474, R476 to R480): SNXT, SUNA, RNEXT, the receive map (bit i: RNEXT + 1 + i), the packets in the replay pool, the packets that wait to be sent, accepted packets not yet acknowledged, and whether it stopped because its peer is absent (R485). -/
structure Flow where
  snxt : Nat
  suna : Nat
  rnext : Nat
  rmap : Nat
  unack : List Unack
  waitq : List MPkt
  ackDue : Nat
  stopped : Bool
  deriving DecidableEq, Repr, Inhabited

def Flow.reset : Flow := { snxt := 0, suna := 0, rnext := 0, rmap := 0, unack := [], waitq := [], ackDue := 0, stopped := false }

/-- A plan of one limb as it runs (R489 to R518): whether it runs, its current or last run tag, the launch ring that started it, and of the run: the status and module it will end with; SLOW; SPLITS; payload bytes accepted; owned blocks completed; blocks whose TOT has reached LOCALMB, and TOT by block; NF, ORIGIN and the norm sum; whether the exchange has begun; the UP payloads received, as child × 2 + half, and the halves of DOWN received or formed; the observation words combined so far; micro-batches received by packet, by owned block, and the sidereal time of the start or of the last packet accepted (R494). -/
structure PlanRun where
  running : Bool
  tag : Nat
  lring : Nat
  ending : Option (Nat × Nat)
  slow : Bool
  splits : Nat
  bytes : Nat
  done : Nat
  full : Nat
  tot : Tab Nat
  nf : Bool
  origin : Nat
  norm : Nat
  begun : Bool
  ups : List Nat
  downs : List Nat
  obs : Tab Nat
  remote : Tab Nat
  since : Word
  deriving DecidableEq, Repr, Inhabited

def PlanRun.reset : PlanRun :=
  { running := false, tag := 0, lring := 0xFF, ending := none, slow := false, splits := 0, bytes := 0, done := 0, full := 0, tot := []
    nf := false, origin := 0xFFFF, norm := 0, begun := false, ups := [], downs := [], obs := [], remote := [], since := 0 }

/-- A reduce-scatter run started since the last step-scalar run (R512): its limb and plan, its status once it has ended, whether it contributes to the norm, its NF, ORIGIN and norm sum, and the module that a status names. -/
structure RsRun where
  limb : Nat
  plan : Nat
  status : Option Nat
  normOn : Bool
  nf : Bool
  origin : Nat
  norm : Nat
  named : Nat
  deriving DecidableEq, Repr, Inhabited

/-- The exact sums of one group in the Seeing monitor (R567): Σ w², Σ (w′ − w)² in units of 2^-320, elements summed and left out. -/
structure See where
  w : Nat
  u : Nat
  n : Nat
  nonfin : Nat
  deriving DecidableEq, Repr, Inhabited

def See.reset : See := { w := 0, u := 0, n := 0, nonfin := 0 }

/-- What the module holds of the step in progress: the reduce-scatter runs since the last step-scalar run (R512) and whether one of the step ended with another status than OK, how the step-scalar and observation runs ended (R552, R555), the latched directed slots (R563, R566), whether the update has started and when, the Seeing sums by group, the groups reported as disabled by 1024 × limb + group (R547), and whether the control bank is written (R533). -/
structure StepSt where
  rs : List RsRun
  rsFail : Bool
  scalar : Option Nat
  obsG : Option Nat
  obsU : Option Nat
  dirLat : Tab Word
  updStarted : Bool
  updAt : Word
  see : Tab See
  offGroups : List Nat
  cbWritten : Bool
  deriving DecidableEq, Repr, Inhabited

def StepSt.reset : StepSt :=
  { rs := [], rsFail := false, scalar := none, obsG := none, obsU := none, dirLat := [], updStarted := false, updAt := 0, see := [], offGroups := [], cbWritten := false }

/-- What one limb holds beside its BAR0 block: staging slots, least recently written first (R380); the eviction's sweep pointer (R387); whether the vault is below VAULT_LOW (R404); the start queue and each queued channel's latest ARG and arming ring (R432); running transfers (R435); cached channel entries, most recent first, and those whose copy is the snapshot of an entry written since (R437); the next Slew SEQ (R442); flows by number; received Meridian packets with their port, oldest first (R467); the words of queue transfers not yet complete, by 4096 × source core + queue (R496); blocks of each segment that the sweep has processed (R549). -/
structure Limb where
  slots : List Slot
  sweep : Nat
  vlow : Bool
  startq : List Nat
  args : Tab (Nat × Nat)
  runs : List Run
  cache : List Nat
  stale : List Nat
  slwSeq : Nat
  flows : Tab Flow
  rxq : List (Nat × MPkt)
  rxc : Tab (List PWord)
  sweptBlocks : Tab Nat
  /-- The skip-link ports of the edge routers take the limb's next transfer (R310). -/
  edgePort : Bool
  /-- The generator key that the launch of the step brought (R110). -/
  sgkey : Nat
  deriving DecidableEq, Repr, Inhabited

def Limb.reset : Limb :=
  { sgkey := 0, edgePort := false, slots := [], sweep := 0, vlow := false, startq := [], args := [], runs := [], cache := [], stale := [], slwSeq := 0, flows := [], rxq := [], rxc := [], sweptBlocks := [] }

/-- The discipline of the sidereal counter (R725 to R731) and the copies that the units hold (R726): the part of a nanosecond not yet counted, in units of 10^-9 ns; the integral term; consecutive good phase measurements; when the last accepted measurement, phase measurement and SYNC_1PPS edge came; the last Sync's t2 − t1 − correction; when a Delay_Req left; the mean path delay; the interval that the master permits, as a power of 2 s; Announce messages by port; the copies: limb l under l, port p under 8 + p, field f under 32 + f, seam halves 116 and 117. -/
structure Sync where
  frac : Nat
  integ : Int
  good : Nat
  lastAcc : Option Word
  lastPhase : Option Word
  ppsLast : Option Word
  syncD : Option Int
  t3 : Option Word
  mpd : Int
  logIv : Int
  announces : Tab Nat
  copies : Tab Word
  deriving DecidableEq, Repr, Inhabited

def Sync.reset : Sync :=
  { frac := 0, integ := 0, good := 0, lastAcc := none, lastPhase := none, ppsLast := none, syncD := none, t3 := none, mpd := 0, logIv := -4, announces := [], copies := [] }

/-- A step of a power sequence (R663): its OP, its target domain or island by module index, and its argument. OP 16 sets a hemisphere's bit in DOME_STAT (target 0 West, 1 East), 17 sets DOME_STAT.STATE: the ends of the model's sequences. -/
structure PStep where
  op : Nat
  tgt : Nat
  arg : Nat
  deriving DecidableEq, Repr, Inhabited

/-- A sequence that the Dome runs: whether it belongs to the request or bring-up in progress, whose sequences run one after another, or is a thermal action, which runs at once (R662, R667, R669); the unit (field n, limb 84 + m, seam half 92 or 93, module 94); the steps left. -/
structure Job where
  chain : Bool
  unit : Nat
  steps : List PStep
  deriving DecidableEq, Repr, Inhabited

/-- The Dome beside its registers (R647 to R686): sequences, oldest first; whether a step of the request failed; domain states without a register (bridges have one): PCIe 292, 293 and seam halves 294, 295, encoded as DST_T; clocks of islands by point code, 0 stopped; islands whose reset is asserted; reset epochs; domains whose clamps are open; islands whose clock is stretched; the point that a field's DVFS step in progress leads to; diodes that read invalid, by 4 × unit + diode; limbs throttled for invalid diodes; whether the last power sample was above the limit; THERM_WARN_N glitches of the current second, and since when the input is asserted. -/
structure Power where
  jobs : List Job
  failed : Bool
  dst : Tab Nat
  clk : Tab Nat
  inReset : List Nat
  epoch : Tab Nat
  clamps : List Nat
  stretched : List Nat
  dvfs : Tab Nat
  badDiodes : List Nat
  stuck : List Nat
  excess : Bool
  glSec : Nat
  glCnt : Nat
  warnSince : Word
  deriving DecidableEq, Repr, Inhabited

def Power.reset : Power :=
  { jobs := [], failed := false, dst := [(292, 2)], clk := [], inReset := [], epoch := [], clamps := [], stretched := [], dvfs := [], badDiodes := []
    stuck := [], excess := false, glSec := 0, glCnt := 0, warnSince := 0 }

/-- The tray's discrete power sequencer and the pins (R826 to R851): clips OK and switches opened, A then B; MOD_PWREN as accepted; the hold-off and a high accepted during it; a low awaited after a failed rail or a trip; the EPO latch; the step of R848 reached (0 down, 6 up); MOD_PGOOD and MOD_READY; the HOSTSEL strap; PERST# asserted. -/
structure Tray where
  okA : Bool
  okB : Bool
  openA : Bool
  openB : Bool
  pwren : Bool
  holdOff : Bool
  pend : Bool
  needLow : Bool
  epo : Bool
  seq : Nat
  pgood : Bool
  ready : Bool
  hostsel : Bool
  perst : Bool
  deriving DecidableEq, Repr, Inhabited

/-- A tray that has come up to step 6 with both clips OK, PERST# still asserted (R844). DESIGN CHOICE (entry 93): the HOSTSEL strap reads low here, so that the host limb of State.reset is L0; R35 gives the strap no initial level, and every later release of cold reset samples an open one. -/
def Tray.up : Tray :=
  { okA := true, okB := true, openA := false, openB := false, pwren := true, holdOff := false, pend := false, needLow := false, epo := false
    seq := 6, pgood := true, ready := false, hostsel := false, perst := true }

/-- One shard of the plate in progress (R585, R588): its SHARD code, key, source (bank 0) and bank offset, granules, where its data and digest list begin in the slot, and whether a word of it is poisoned. -/
structure ShardRec where
  shard : Nat
  skey : Nat
  banked : Bool
  src : Nat
  boff : Nat
  ngran : Nat
  data : Nat
  dlist : Nat
  poison : Bool
  deriving DecidableEq, Repr, Inhabited

/-- The Plate engine beside its registers (R593 to R612): whether a TAKE waits; SEQ of the complete slots and of the slots marked mirrored, by slot; the plate in progress: its shards, whether the slot can hold them, the bank it copies, its SHA-384 of the directory, the header's MODULE, K, STEP and TIME, and whether its signature waits for a quote; and the command in progress: RSEL, SLOT, BSLOT and SHARD, the banks when it was written, and the status that its check gave. -/
structure Plate where
  takePend : Bool
  known : Tab Nat
  marked : Tab Nat
  shards : List ShardRec
  fits : Bool
  pbank : Nat
  cbank : Nat
  dirdig : List Byte
  hModule : Nat
  hK : Nat
  hStep : Word
  hTime : Word
  signWait : Bool
  rsel : Bool
  slot : Nat
  bslot : Nat
  shard : Nat
  cmdPbank : Nat
  cmdCbank : Nat
  cmdStatus : Nat
  deriving DecidableEq, Repr, Inhabited

def Plate.reset : Plate :=
  { takePend := false, known := [], marked := [], shards := [], fits := false, pbank := 0, cbank := 0, dirdig := [], hModule := 0, hK := 0, hStep := 0, hTime := 0, signWait := false
    rsel := false, slot := 0, bslot := 0, shard := 0, cmdPbank := 0, cmdCbank := 0, cmdStatus := 0 }

/-- The dark-frame test beside its registers (R699 to R719): the quadrant of the slice in progress, the cores whose inbound flits it holds, the cores it tests, the words saved of each by core-local word index, the cores that failed, and the RSTAT it will end with (4 abandoned, 5 aborted, else 0); the fields of the neighbor test in progress and whether it is the one at power-on; the record that a FUSE command is blowing. -/
structure Dark where
  slice : Option Nat
  held : List Nat
  tested : List Nat
  saved : Tab (List (Nat × PWord))
  fails : List Nat
  ending : Nat
  nbr : List Nat
  powerOn : Bool
  fuse : Option Half
  deriving DecidableEq, Repr

def Dark.reset : Dark := { slice := none, held := [], tested := [], saved := [], fails := [], ending := 0, nbr := [], powerOn := false, fuse := none }

/-- The boot block beside its registers (R795 to R822): the objects taken at this boot, by kind, as bank and SVN; the kinds tried; the operands of the command in progress and the mailbox bytes it read; the quote as captured; whether a quote waits for the signer; whether BOOT_CHAL holds a nonce that no attempt has consumed; the preferred-bank flag of the flash if it was written since shipment; flash bytes written since shipment, by bank × 2^26 + offset. -/
structure Boot where
  taken : Tab (Nat × Nat)
  tried : List Nat
  arg : Word
  arg2 : Word
  data : List Byte
  quote : List Byte
  quoteWait : Bool
  nonce : Bool
  pref : Option Bool
  flash : Tab Byte
  deriving DecidableEq, Repr

def Boot.reset : Boot :=
  { taken := [], tried := [], arg := 0, arg2 := 0, data := [], quote := [], quoteWait := false, nonce := false, pref := none, flash := [] }

/-- A command fetched and checked, not yet issued: its words as used, and its clamp report (R767, R768). -/
structure LrCmd where
  words : List Word
  report : Nat
  nclamp : Nat
  deriving DecidableEq, Repr, Inhabited

/-- The interrupts of a record ring (R639): when it last signalled in the holdoff in progress, and whether a record waits for the holdoff's end. -/
structure Irq where
  last : Option Word
  pend : Bool
  deriving DecidableEq, Repr, Inhabited

def Irq.reset : Irq := { last := none, pend := false }

/-- The endpoint beside its registers (R751 to R766): the commands fetched, by launch ring; the MSI-X table by 32-bit word; the pending bits that are set; interrupts by record ring; record rings stopped by a link loss; D3hot; the link; and the reference clock: the cable's REFCLK in common-clock mode when true, else SRIS (R843). -/
structure HostSt where
  cmds : Tab LrCmd
  msix : Tab Half
  pba : List Nat
  irq : Tab Irq
  stopped : List Nat
  d3hot : Bool
  linkUp : Bool
  common : Bool
  deriving DecidableEq, Repr, Inhabited

def HostSt.reset : HostSt := { cmds := [], msix := [], pba := [], irq := [], stopped := [], d3hot := false, linkUp := false, common := false }

/-- A read request to host memory that is not answered: its purpose (0 a Slew source, 1 an access that keeps no data, 2 the debug transport, 3 an engine's read), who asked, an index, the address and the length, and the host-window address that it translates, 0 for another request (R411, R752). -/
structure HostReq where
  who : Nat
  unit : Nat
  idx : Nat
  addr : Nat
  len : Nat
  win : Nat
  deriving DecidableEq, Repr, Inhabited

/-- A read that an engine of a limb has made outside the store range (R408, R411): the limb, the module address and length; the parts still to be answered, the status of R443 (0 while none failed), and the bytes that have come, by offset, each with its word's X bit. -/
structure EngRead where
  limb : Nat
  addr : Nat
  len : Nat
  left : Nat
  status : Nat
  used : Bool := false
  got : Tab (List (Byte × Bool))
  deriving DecidableEq, Repr, Inhabited

/-- Observation vectors (R287 to R293): recipe to word, the step's gradient and update vectors with their closes, late and carried observations, and the reduced vectors. -/
structure Obs where
  g : Tab Nat
  u : Tab Nat
  late : Tab Nat
  carried : Tab Nat
  gClosed : Bool
  uClosed : Bool
  redG : Tab Nat
  redU : Tab Nat
  deriving DecidableEq, Repr, Inhabited

def Obs.reset : Obs := { g := [], u := [], late := [], carried := [], gClosed := false, uClosed := false, redG := [], redU := [] }

/-- The Ethernet, IP and UDP headers of a frame that the module sends (R464, R465): MAC addresses, the VLAN identifier of a tagged frame, the IP version and addresses, DSCP and ECN as one byte, TTL or hop limit, DF, UDP ports and checksum. -/
structure NetHead where
  dmac : Nat
  smac : Nat
  vlan : Option Nat
  v6 : Bool
  sip : Nat
  dip : Nat
  tos : Nat
  ttl : Nat
  df : Bool
  sport : Nat
  dport : Nat
  udpSum : Nat
  deriving DecidableEq, Repr, Inhabited

/-- What has left the module, newest first: host writes and reads, interrupts, frames, link flits, TAP responses, pin levels. The model's own record of the outside world. -/
inductive Out where
  /-- A write request to host memory (R752), and whether its TLPs carry the No Snoop attribute (R410). -/
  | hostWrite (addr : Nat) (data : List Byte) (ns : Bool)
  /-- A read request to host memory, with its tag (R752), and the No Snoop attribute (R410). -/
  | hostRead (addr len tag : Nat) (ns : Bool)
  /-- An MSI-X message (R764). -/
  | msix (vec : Nat)
  /-- A Meridian frame at a port with its headers (R464, R465, R468, R470). -/
  | frame (port : Nat) (head : NetHead) (pkt : MPkt)
  /-- A PTP message at a port: 1 Delay_Req, 2 Pdelay_Resp, 3 Pdelay_Resp_Follow_Up (R520). -/
  | ptp (port kind : Nat)
  /-- A flit on a link, and whether it is sent again (R312, R346, R348). -/
  | flit (k : LinkRef) (fl : Flit) (resent : Bool)
  /-- A NAK on a link (R314). -/
  | nak (k : LinkRef) (ackseq : Nat)
  /-- A router heartbeat (R351). -/
  | hb (core dir : Nat)
  /-- A completion of a read of BAR0, BAR2 or BAR4: status 0 SC, 1 UR, 2 CA, 3 EP; value as bytes (R755 to R761). -/
  | readDone (status : Nat) (data : List Byte)
  /-- Bits shifted out of the TAP (R856). -/
  | tdo (data : List Byte)
  deriving DecidableEq, Repr

/-- The state of the module. -/
structure State where
  /-- Commands that wait, first in, first out: the model's own. -/
  pending : List Instr
  /-- BAR0 registers and windows by byte offset, a multiple of 8; an unlisted one holds its reset value (R51, R756, R757). -/
  regs : Tab Word
  /-- Cores by number; an unlisted core is as reset leaves it (R46). -/
  cores : Tab Core
  /-- Packets sent into the mesh and not yet delivered, oldest first (R315). -/
  net : List Packet
  /-- Links by `linkKey` (R306, R345 to R349). -/
  links : Tab LinkSt
  /-- Input ports by the key of the link that feeds them (R321). -/
  ports : Tab PortSt
  /-- Round-robin places of the outputs by the key of the link they feed (R322). -/
  grants : Tab Grant
  /-- Requests of the limbs into the wafer, by 4096 × limb + TAG. -/
  reqs : Tab MeshReq
  /-- Field stores by 4,194,304 × field + word index; an unlisted word holds the clean codeword of 0 (R365, R415, R865). -/
  fst : Tab Codeword
  /-- Store range by byte address; an unlisted byte reads 0 (R365, R370). -/
  mem : Tab Byte
  /-- Poisoned words of the store range by word address (R70, R416). -/
  memX : Tab Bool
  /-- Residency entries by granule; an unlisted one is FORM zero with ELEM opaque (R375, R398). -/
  res : Tab Word
  /-- ELEM that a granule's stored image was encoded with, by granule (R394); an unlisted one is opaque. -/
  felem : Tab Nat
  /-- Migrations in progress by granule: the pool and first sector of the copy (R385). -/
  migs : Tab (Nat × Nat)
  /-- Work-area bytes by limb × 2^28 + offset, as words: host window table and engine tables without a window of their own (R374). -/
  work : Tab Word
  /-- Staged loads by the same key (R781). -/
  staged : Tab Word
  limbs : Tab Limb
  /-- Occulters by field (R458). -/
  occ : Tab Occ
  samp : Samp
  /-- Plan runs by 256 × limb + plan (R487 to R493). -/
  plans : Tab PlanRun
  step : StepSt
  sync : Sync
  pwr : Power
  tray : Tray
  plate : Plate
  dark : Dark
  boot : Boot
  host : HostSt
  obs : Obs
  /-- Next clamp REPORT number (R784). -/
  report : Nat
  /-- Host reads that are not answered, by tag (R752, R411). -/
  hreqs : Tab HostReq
  /-- Engines' reads outside the store range that are under way or answered (R408, R411). -/
  engReads : List EngRead
  /-- Reads that the command in progress lacks, as limb, address and length: empty between commands, the model's own. -/
  engWant : List (Nat × Nat × Nat)
  /-- The response that the next XPORT scan shifts out (R857). -/
  xp : Xport
  /-- Queues of records on their way to host rings, oldest first, each record as its words: 0 night log, 1 Chronograph, 2 clamps, 16 + j completion ring j (R635, R741, R777, R784). -/
  rings : Tab (List (List Word))
  /-- Escalations sent by a domain and not yet received by its parent, by domain key (R624). -/
  escOut : Tab Nat
  /-- Corrected tally of a domain, by domain key (R630). -/
  tally : Tab Nat
  /-- Chronograph records: field f under f, the module's under 255 (R740). -/
  chr : Tab Chr
  /-- What has left the module, newest first. -/
  out : List Out
  /-- Draws made from `Config.freeValue`: the model's own. -/
  draws : Nat
  deriving DecidableEq, Repr

/-- The module right after cold reset: step 6 of R848, the host limb L0's logic and bridge domains ON (R661), everything else at its reset value. -/
def State.reset : State :=
  { pending := [], regs := [(0x106000, 0x202)], cores := [], net := [], links := [], ports := [], grants := [], reqs := [], fst := [], xp := Xport.reset, mem := [], memX := [], res := [], felem := [], migs := [], work := [], staged := [], limbs := [], occ := [], samp := Samp.reset, plans := [], step := StepSt.reset, sync := Sync.reset, pwr := Power.reset, tray := Tray.up, plate := Plate.reset, dark := Dark.reset, boot := Boot.reset, host := HostSt.reset, obs := Obs.reset, report := 0, hreqs := [], engReads := [], engWant := [], rings := [], escOut := [], tally := [], chr := [], out := [], draws := 0 }

end Sys2Proof.Machine
end

