-- ==== Sys2Proof/Machine/Regs.lean ====
section
/-! DEFINITION. The register map of BAR0: where each register stands (R51, R756, R757), its fields with their access codes and reset values (R17, and the register tables of the chapters), and the reading and writing of a register in the state. -/

namespace Sys2Proof.Machine

/-- The access codes of R17. -/
inductive Acc17 where
  | rw | ro | wo | w1c | w1s | rc | rws | rwl
  deriving DecidableEq, Repr

/-- A field [hi:lo] of a register, its access code and its reset value; `fuse` marks a reset value that is fused (R17). Bits in no field are reserved (R18). -/
structure RField where
  hi : Nat
  lo : Nat
  acc : Acc17
  rst : Nat
  fuse : Bool
  deriving DecidableEq, Repr

def fRW (hi lo : Nat) (r : Nat := 0) : RField := ⟨hi, lo, .rw, r, false⟩
def fRO (hi lo : Nat) (r : Nat := 0) : RField := ⟨hi, lo, .ro, r, false⟩
def fRC (hi lo : Nat) (r : Nat := 0) : RField := ⟨hi, lo, .rc, r, false⟩
def fWO (hi lo : Nat) (r : Nat := 0) : RField := ⟨hi, lo, .wo, r, false⟩
def fW1C (hi lo : Nat) (r : Nat := 0) : RField := ⟨hi, lo, .w1c, r, false⟩
def fW1S (hi lo : Nat) (r : Nat := 0) : RField := ⟨hi, lo, .w1s, r, false⟩
def fRWS (hi lo : Nat) (r : Nat := 0) : RField := ⟨hi, lo, .rws, r, false⟩
def fFused (hi lo : Nat) : RField := ⟨hi, lo, .ro, 0, true⟩
/-- A fused field that holds no more than `m`. -/
def fFusedMax (hi lo m : Nat) : RField := ⟨hi, lo, .ro, m, true⟩
/-- What a fused field can hold, by its bound: 0 for none; 20 for FLD_PWR.TRIM, a signed byte from −20 to +20 (R652); else the largest value. -/
def fuseBound (m v : Nat) : Nat := if m = 0 then v else if m = 20 then (if 128 ≤ v then max v 236 else min v 20) else min v m

/-- `count` registers of one layout, `stride` bytes apart, from offset `base` of a block. -/
structure RegRow where
  base : Nat
  stride : Nat
  count : Nat
  fields : List RField
  deriving DecidableEq, Repr

def reg1 (base : Nat) (fs : List RField) : RegRow := ⟨base, 8, 1, fs⟩

/-- The row that holds an offset, if the offset is a register's. -/
def findRow : List RegRow → Nat → Option RegRow
  | [], _ => none
  | r :: rs, o => if r.base ≤ o ∧ o < r.base + r.stride * r.count ∧ (o - r.base) % r.stride = 0 then some r else findRow rs o

/-! ### Where the blocks stand -/

/-- R756. -/
def limbBase (l : Nat) : Nat := 0x100000 + l * 0x100000
/-- R756. -/
def fieldBase (f : Nat) : Nat := 0x1000000 + f * 0x200000
/-- x of P(x,y) by core number. -/
def coreX (c : Nat) : Nat := c % 448
/-- y of P(x,y) by core number. -/
def coreY (c : Nat) : Nat := c / 448
/-- Core number of P(x,y). -/
def coreAt (x y : Nat) : Nat := 448 * y + x
/-- Field number 14r + c of the field that holds a core (R9). -/
def fieldOf (c : Nat) : Nat := 14 * (coreY c / 30) + coreX c / 32
/-- Index of a core in its field, row-major (R329, R756). -/
def coreIdx (c : Nat) : Nat := (coreY c % 30) * 32 + coreX c % 32
/-- The core of field f at index i (R329). -/
def coreOfField (f i : Nat) : Nat := coreAt (32 * (f % 14) + i % 32) (30 * (f / 14) + i / 32)
/-- The core window (R51, R756). -/
def coreWin (c : Nat) : Nat := fieldBase (fieldOf c) + 0x10000 + coreIdx c * 0x800

/-! ### Register tables -/

/-- A ring's STAT register: LOST, QDROP and QFILL of `w` bits (R645). -/
def ringStat (w : Nat) : List RField := [fRC 63 32, fRC 31 16, fRO (w - 1) 0]
/-- MOD_NLOG_INT and its likes (R645). -/
def ringInt : List RField := [fRW 47 32 0x10, fRW 11 11, fRW 10 0]
/-- The five registers of an error domain (R641 to R643), CORR present outside the core. -/
def errRows (b : Nat) (core : Bool) : List RegRow :=
  [reg1 b ([fRO 63 48, fRC 47 32] ++ (if core then [] else [fRC 31 16]) ++ [fRO 9 8, fRC 7 0]),
   ⟨b + 8, 8, 8, [fRO 63 0]⟩, reg1 (b + 0x48) [fWO 63 62, fWO 31 0]]

/-- Module global block, 0x0_0000 to 0x0_0FFF (R791). -/
def modRows0 : List RegRow :=
  [reg1 0x0 [fRO 47 32 0x0A71, fFused 31 24, fRO 4 4, fFused 0 0],
   reg1 0x8 [fRW 31 31, fRO 23 16, fRO 15 8, fRO 3 3, fRO 2 0],
   reg1 0x10 [fWO 15 8, fWO 0 0], reg1 0x18 [fRO 63 0], reg1 0x20 [fRO 0 0],
   reg1 0x800 [fRC 63 48, fRO 39 32, fRO 31 28], reg1 0x808 [fRW 15 0 0x1F4],
   reg1 0x810 [fRW 29 24, fRW 21 16, fRW 13 8, fRW 5 0],
   reg1 0x818 [fRC 63 48, fRC 47 32, fRC 31 16, fRC 15 0],
   ⟨0x880, 8, 16, [fRW 63 63, fRW 47 32]⟩,
   reg1 0x900 [fRW 63 22, fRW 0 0], reg1 0x908 [fRO 63 0], reg1 0x910 [fRWS 63 0], reg1 0x918 (ringStat 9), reg1 0x920 ringInt]

/-- Launch rings (R792), numerics (R274, R275), seam halves (R355), home limbs and host window (R366, R409). -/
def modRows1 : List RegRow :=
  [⟨0x1000, 0x40, 64, [fRW 63 12]⟩, ⟨0x1008, 0x40, 64, [fRW 63 63, fRW 59 56, fRW 53 48]⟩,
   ⟨0x1010, 0x40, 64, [fRO 63 0]⟩, ⟨0x1018, 0x40, 64, [fRO 63 63, fRO 55 48]⟩,
   reg1 0x2000 [fRW 17 16 1], reg1 0x2008 [fRC 47 32, fRWS 31 0],
   ⟨0x3000, 8, 2, [fRC 63 48, fRO 34 34 1, fRO 33 33, fRO 32 32 1, fRO 31 16, fRO 15 0]⟩,
   reg1 0x4000 [fRO 47 40, fRO 39 36, fW1C 17 17, fW1S 16 16, fRW 7 0 0xFF], reg1 0x4008 [fRW 63 63, fRW 23 0]]

/-- Meridian (R521), update engine (R571), Plate engine (R610). -/
def modRows2 : List RegRow :=
  [reg1 0x5000 [fRW 15 0 0xFFFF], reg1 0x5008 [fRW 15 0], ⟨0x5010, 8, 10, [fRO 63 0]⟩, reg1 0x5060 [fRO 16 16, fRO 15 0 0xFFFF],
   reg1 0x6000 [fRW 32 32, fRW 31 0], reg1 0x6008 [fRWS 63 16, fRWS 1 1, fRWS 0 0], reg1 0x6010 [fWO 63 62, fWO 15 0],
   reg1 0x6018 [fRC 63 48, fRC 47 32, fRO 2 0], reg1 0x6020 [fRO 63 0], reg1 0x6028 [fRO 63 32 0x3F800000, fRO 31 0 0x3F800000],
   reg1 0x6030 [fRW 47 20], reg1 0x6038 [fRW 47 20], reg1 0x6040 [fRC 63 48, fRC 47 32, fRW 15 0 0x7D0], reg1 0x6048 [fRO 63 0],
   ⟨0x6200, 8, 64, [fRW 63 32, fRW 31 0]⟩,
   reg1 0x7000 [fRW 63 48 0x64, fRW 47 44 3, fRW 23 8 0x40, fRW 2 2, fRW 1 1, fRW 0 0],
   ⟨0x7008, 8, 3, [fRW 47 16]⟩, reg1 0x7020 [fWO 63 60, fWO 59 59, fWO 55 52, fWO 51 48, fWO 41 32],
   reg1 0x7028 [fRC 63 48, fRC 47 32, fRWS 31 24, fRO 23 20, fRO 19 16, fRO 15 12, fRO 11 8, fRO 3 0],
   reg1 0x7030 [fRO 63 32, fRWS 31 0]]

/-- Module error domain and night log (R641 to R645), Dome sequencer (R692, R831), dark frame (R723). -/
def modRows3 : List RegRow :=
  errRows 0x8000 false ++
  [reg1 0x8080 [fRW 15 0 0x100], reg1 0x8088 [fRO 3 3, fRO 2 2, fRO 1 1, fRW 0 0], reg1 0x8090 [fRO 63 0], reg1 0x8098 [fRO 31 24, fRO 19 0],
   reg1 0x8100 [fRW 63 22, fRW 0 0], reg1 0x8108 [fRO 63 0], reg1 0x8110 [fRWS 63 0], reg1 0x8118 (ringStat 9), reg1 0x8120 ringInt,
   reg1 0x9000 [fRC 47 32, fRO 23 22, fRO 21 19, fRO 17 17, fRO 16 16, fRO 3 3, fRO 2 0], reg1 0x9008 [fWO 63 61, fWO 6 0],
   reg1 0x9010 [fRW 63 48 0x140, fRO 47 32, fRC 31 16], reg1 0x9018 [fRC 63 48, fRC 47 40, fRC 39 24, fRO 3 3, fRO 2 2, fRO 1 1, fRO 0 0],
   reg1 0x9020 [fRO 40 32, fRO 31 16, fRO 1 0], reg1 0x9028 [fRO 39 32 0x73, fRO 31 24 0x6E, fRO 23 16 0x5A, fRO 15 8 0x5F, fRO 2 0 3],
   reg1 0x9030 [fRO 63 48, fRO 47 32, fRO 31 22, fRO 21 12, fRC 11 4, fRO 2 2, fRO 1 1, fRO 0 0],
   reg1 0xA000 [fRW 47 32 0x18, fRW 0 0], reg1 0xA008 [fWO 63 61, fWO 8 0],
   reg1 0xA010 [fRO 63 48, fRO 40 40, fRO 39 31, fRO 30 22, fRO 15 12, fRO 11 8], reg1 0xA018 [fRO 63 32, fRC 31 16, fRC 15 8, fRC 7 0],
   reg1 0xA020 [fRW 31 0], reg1 0xA028 [fRO 63 32, fFusedMax 10 0 1024], ⟨0xA400, 8, 512, [fFused 63 0]⟩]

/-- Chronograph (R746), completion rings (R793), boot (R825). -/
def modRows4 : List RegRow :=
  [reg1 0xC000 [fRO 63 0], reg1 0xC008 [fWO 63 0], reg1 0xC010 [fRW 63 32, fRW 31 12 0x3E8, fRW 1 0],
   reg1 0xC018 [fRO 63 32, fRO 31 12, fRC 11 8, fRO 7 7, fRO 6 6, fRO 5 5],
   reg1 0xC020 [fRW 63 23, fRW 0 0], reg1 0xC028 [fRO 63 0], reg1 0xC030 [fRWS 63 0], reg1 0xC038 (ringStat 8), reg1 0xC040 ringInt, reg1 0xC048 [fRO 63 0],
   ⟨0xD000, 0x40, 64, [fRW 63 12, fRW 0 0]⟩, ⟨0xD008, 0x40, 64, [fRW 63 48 0x10, fRW 47 44, fRW 11 11, fRW 10 0]⟩,
   ⟨0xD010, 0x40, 64, [fRO 63 0]⟩, ⟨0xD018, 0x40, 64, [fRWS 63 0]⟩, ⟨0xD020, 0x40, 64, ringStat 7⟩,
   reg1 0xF000 [fRO 63 56, fRO 55 48, fRO 47 32, fRO 31 26, fRO 25 24, fRO 23 23, fRO 22 22, fRO 21 21, fRC 20 16, fRO 15 12, fRO 11 8, fRO 3 3, fRO 2 0],
   reg1 0xF008 [fWO 63 60], ⟨0xF010, 8, 2, [fRW 63 0]⟩, reg1 0xF020 [fFused 13 8, fFused 6 0], reg1 0xF028 [fFused 63 0], reg1 0xF030 [fFused 31 0],
   ⟨0xF040, 8, 4, [fRO 63 0]⟩, ⟨0xF100, 8, 48, [fRO 63 0]⟩, ⟨0xF400, 8, 128, [fRW 63 0]⟩, ⟨0xF800, 8, 256, [fRO 63 0]⟩]

/-- Port registers of one port (R523). -/
def portRows (b : Nat) : List RegRow :=
  [reg1 b [fRW 63 48 0xD7A4, fRW 47 42 0x1A, fRW 41 30, fRW 29 29, fRW 28 28, fRW 0 0], reg1 (b + 0x8) [⟨47, 0, .rw, 0, true⟩],
   reg1 (b + 0x10) [fRW 31 0], ⟨b + 0x18, 8, 2, [fRW 63 0]⟩, reg1 (b + 0x28) [fRO 63 63, fRO 62 62, fRO 55 48, fRC 47 32],
   ⟨b + 0x30, 8, 4, [fRO 63 0]⟩, ⟨b + 0x50, 8, 5, [fRC 63 32, fRC 31 0]⟩, reg1 (b + 0x78) [fRC 63 0], reg1 (b + 0x80) [fRC 31 0],
   reg1 (b + 0x90) [fRW 63 63, fRW 62 62, fRW 61 60, fRW 59 52, fRW 31 0]]

/-- Limb block (R402, R405, R391, R392, R419, R431, R439, R444, R489, R522, R523, R110, R573, R641, R690, R691, R745) and its windows (R420, R427, R481, R482, R495, R473, R588). -/
def limbRows : List RegRow :=
  [reg1 0x1000 [fRO 63 32, fRO 31 0], reg1 0x1008 [fRO 63 32, fRO 31 0], reg1 0x1010 [fRO 63 32, fRO 31 0],
   reg1 0x1018 [fRW 47 32 4, fRW 31 24 0x20, fRW 23 16 0x10, fRW 15 8 0x40, fRW 0 0 1],
   reg1 0x1020 [fRO 63 63, fRW 58 56, fRW 55 53, fRW 52 28, fRW 27 0], reg1 0x1028 [fRC 63 48, fRC 47 32, fRC 31 16, fRC 15 0],
   reg1 0x1030 [fRC 63 48, fRC 47 32, fRC 31 0], reg1 0x1038 [fRC 63 48, fRC 47 32, fRC 31 0], reg1 0x1040 [fRW 31 16 0x18, fRO 15 0],
   reg1 0x2000 [fWO 63 62, fWO 47 32, fWO 31 16, fWO 11 0], reg1 0x2008 [fRC 63 48, fRC 47 32, fRC 31 16, fRO 6 0],
   reg1 0x2010 [fRC 63 48, fRO 45 32, fRW 13 0], reg1 0x3008 [fWO 63 62, fWO 47 32, fWO 7 0], reg1 0x3010 [fRC 63 32, fRC 31 16],
   reg1 0x4000 [fRO 63 32, fRO 2 0], ⟨0x4010, 8, 2, [fRW 63 0]⟩]
  ++ portRows 0x3100 ++ portRows 0x3200 ++ portRows 0x3300 ++ errRows 0x5000 false ++
  [reg1 0x6000 [fRC 63 56, fRO 12 12, fRO 9 8, fRO 7 6, fRO 5 4, fRO 3 2, fRO 1 0],
   reg1 0x6008 [fRO 63 48 0x8000, fRO 47 32 0x8000, fRO 31 16 0x8000, fRO 15 0 0x8000], reg1 0x6010 [fRO 63 0], reg1 0x6018 [fRO 15 0],
   ⟨0x40000, 8, 0x8000, [fRW 63 0]⟩, ⟨0x80000, 8, 0x400, [fRW 63 0]⟩,
   ⟨0x82000, 32, 1024, [fRW 63 62, fRO 61 61, fRW 60 59, fRW 39 0]⟩, ⟨0x82008, 32, 1024, [fRO 63 0]⟩,
   ⟨0x82010, 32, 1024, [fRW 63 0]⟩, ⟨0x82018, 32, 1024, [fRW 63 0]⟩,
   ⟨0x8A000, 8, 0x400, [fRO 63 0]⟩, ⟨0x8C000, 8, 0x800, [fWO 63 0]⟩,
   ⟨0x90000, 16, 4095, [fRW 63 55, fRW 47 0]⟩, ⟨0x90008, 16, 4095, [fRW 35 0]⟩,
   ⟨0xA0000, 32, 4096, [fRW 63 32, fRW 28 24]⟩, ⟨0xA0008, 32, 4096, [fRW 47 0]⟩, ⟨0xA0010, 32, 4096, [fRW 63 0]⟩,
   ⟨0xC0000, 8, 0x8000, [fRO 63 0]⟩]

/-- Field block. Boot stage 4 loads the Finder table (R716). (R771, R325, R329, R351, R457, R462, R641, R644, R689, R690, R744, R722, R714, R336). -/
def fieldRows : List RegRow :=
  [reg1 0x0 [fW1S 1 1, fW1S 0 0], reg1 0x8 [fRO 15 8, fRO 1 1, fRO 0 0], reg1 0x100 [fRW 9 9, fRW 8 8, fRW 3 0 3],
   ⟨0x200, 8, 15, [fRW 63 0]⟩, reg1 0x300 [fRC 63 48, fRC 47 32, fRC 31 24, fRO 23 16, fRC 15 0],
   reg1 0x400 [fRW 63 48, fRW 47 42, fRW 41 23, fRW 22 4, fRW 3 2, fRW 0 0],
   reg1 0x408 [fRO 63 48, fRO 47 32, fRO 31 16, fRC 15 8, fRO 3 2, fW1S 0 0], reg1 0x410 [fRO 63 32, fRO 31 0]]
  ++ errRows 0x500 false ++
  [⟨0x580, 8, 15, [fRO 63 0]⟩,
   reg1 0x600 [fRC 63 56, fFusedMax 47 40 20, fRO 29 28, fRO 27 26, fRO 25 24, fRO 19 19, fRO 18 16, fRO 14 12 1, fRO 10 8 1, fRO 6 4 1, fRW 2 0 1],
   reg1 0x608 [fRO 63 48 0x8000, fRO 47 32 0x8000, fRO 31 16 0x8000, fRO 15 0 0x8000], reg1 0x610 [fRO 63 0],
   ⟨0x700, 8, 32, [fRW 63 63, fRW 52 48, fRW 15 0]⟩, ⟨0x800, 8, 15, [fRO 63 0]⟩, ⟨0x880, 8, 15, [fFused 63 0]⟩, ⟨0x900, 8, 30, [fRO 63 0]⟩,
   reg1 0xA00 [fRO 9 0], reg1 0xA08 [fRW 15 0 0xFFFF], reg1 0xA10 [fRO 63 32, fRO 31 16, fRO 4 0 2],
   ⟨0x1000, 8, 448, [fRO 63 63, fRO 55 48, fRO 41 32, fRO 31 31, fRO 23 16, fRO 9 0]⟩, ⟨0x8000, 8, 4096, [fRO 63 0]⟩]

/-- Core window (R52 to R60, R96, R109, R111, R641). -/
def coreRows : List RegRow :=
  [reg1 0x0 [fRW 35 35, fRW 34 34, fRW 33 26, fRW 25 17, fRO 16 9, fRO 8 0], reg1 0x8 [fRW 28 16, fRW 4 4 1, fRW 3 3, fW1S 2 2, fW1S 1 1, fRW 0 0],
   reg1 0x10 [fW1C 49 49, fW1C 48 48, fRO 47 32, fRO 20 8, fRO 4 4, fRO 3 3, fRO 2 0], reg1 0x18 [fRW 47 32 0x4000, fRW 15 0 0x1C00],
   ⟨0x20, 8, 3, [fRW 63 0]⟩, reg1 0x38 [fRC 15 0], ⟨0x40, 8, 2, [fRO 63 48, fRO 47 0]⟩,
   ⟨0x80, 8, 4, [fRW 63 63, fRW 12 0]⟩, ⟨0xA0, 8, 2, [fRW 63 63, fRW 61 60, fRW 18 3]⟩]
  ++ errRows 0x100 true ++ [⟨0x400, 8, 64, [fRC 31 24, fRW 23 16, fRW 15 0]⟩]

/-- The kinds of block of R756. -/
inductive Block where
  | modG | limb (l : Nat) | field (f : Nat) | core (c : Nat) | reserved
  deriving DecidableEq, Repr

/-- The block that holds a BAR0 offset, and the offset in it (R756). -/
def blockOf (off : Nat) : Block × Nat :=
  if off < 0x100000 then (.modG, off)
  else if off < 0x900000 then (.limb ((off - 0x100000) / 0x100000), (off - 0x100000) % 0x100000)
  else if 0x1000000 ≤ off ∧ off < 0xB800000 then
    let f := (off - 0x1000000) / 0x200000
    let o := (off - 0x1000000) % 0x200000
    if o < 0x10000 then (.field f, o)
    else if o < 0x10000 + 960 * 0x800 then (.core (coreOfField f ((o - 0x10000) / 0x800)), (o - 0x10000) % 0x800)
    else (.reserved, 0)
  else (.reserved, 0)

/-- The module global rows of the 4 KiB page that holds an offset (R757). -/
def modRows (o : Nat) : List RegRow :=
  if o < 0x1000 then modRows0 else if o < 0x5000 then modRows1 else if o < 0x8000 then modRows2
  else if o < 0xC000 then modRows3 else modRows4

/-- The fields of the register at a BAR0 offset; none where the offset is reserved (R18). -/
def regFields (off : Nat) : List RField :=
  let rows := match (blockOf off).1 with
    | .modG => modRows off
    | .limb _ => limbRows
    | .field _ => fieldRows
    | .core _ => coreRows
    | .reserved => []
  match findRow rows (blockOf off).2 with
  | some r => r.fields
  | none => []

/-- One field's reset value. -/
def RField.reset (off : Nat) (f : RField) : Nat := if f.fuse then fuseBound f.rst (bits (Config.fused off) f.hi f.lo) else f.rst

/-- The reset value of the register at a BAR0 offset (the register tables; CORE_ID.PY and PX are the position, R52). -/
def resetValue (off : Nat) : Word :=
  match blockOf off with
  | (.core c, 0) => wd (coreY c * 512 + coreX c)
  | _ => (regFields off).foldl (fun w f => setBits w f.hi f.lo (f.reset off)) 0

/-! ### Registers in the state -/

/-- The value stored at a BAR0 offset. -/
def State.rd (s : State) (off : Nat) : Word :=
  match tfind s.regs off with
  | some w => w
  | none => resetValue off

/-- The state with the value at a BAR0 offset replaced, whatever its access codes: the module's own update. -/
def State.wr (s : State) (off : Nat) (w : Word) : State := { s with regs := tset s.regs off w }

/-- Field [hi:lo] of the register at a BAR0 offset. -/
def State.fld (s : State) (off hi lo : Nat) : Nat := bits (s.rd off) hi lo

/-- The state with field [hi:lo] of a register set to n. -/
def State.setFld (s : State) (off hi lo n : Nat) : State := s.wr off (setBits (s.rd off) hi lo n)

/-- A counter field that saturates at all ones, n added. -/
def State.satFld (s : State) (off hi lo n : Nat) : State := s.setFld off hi lo (satAdd (hi + 1 - lo) (s.fld off hi lo) n)

/-- A counter field that wraps, n added. -/
def State.addFld (s : State) (off hi lo n : Nat) : State := s.setFld off hi lo (s.fld off hi lo + n)

/-- Bit i of a register. -/
def State.flag (s : State) (off i : Nat) : Bool := bit (s.rd off) i

/-- What one field reads as, and what it holds after the read (R17). -/
def RField.afterRead (off : Nat) (w : Word) (f : RField) : Word :=
  if f.acc = .rc then setBits w f.hi f.lo (f.reset off) else w

/-- What a software read of a register returns: reserved bits and WO fields read 0 (R17, R18). -/
def readValue (s : State) (off : Nat) : Word :=
  (regFields off).foldl (fun w f => if f.acc = .wo then w else setBits w f.hi f.lo (bits (s.rd off) f.hi f.lo)) 0

/-- A software read's effect: every RC field returns to its reset value (R17, R20). -/
def readEffect (s : State) (off : Nat) : State :=
  if (regFields off).any (fun f => f.acc = .rc) then
    s.wr off ((regFields off).foldl (fun w f => f.afterRead off w) (s.rd off))
  else s

/-- One field of a software write (R17). -/
def RField.write (old new : Word) (w : Word) (f : RField) : Word :=
  let o := bits old f.hi f.lo
  let n := bits new f.hi f.lo
  match f.acc with
  | .rw => setBits w f.hi f.lo n
  | .rws => setBits w f.hi f.lo n
  | .rwl => setBits w f.hi f.lo n
  | .w1c => setBits w f.hi f.lo (o &&& (n ^^^ (2 ^ (f.hi + 1 - f.lo) - 1)))
  | .w1s => setBits w f.hi f.lo (o ||| n)
  | .ro => w
  | .rc => w
  | .wo => w

/-- The value a register holds after a software write of `new` (R17, R18). -/
def writeValue (off : Nat) (old new : Word) : Word :=
  (regFields off).foldl (fun w f => f.write old new w) old

/-- A software write with no side effect beyond the access codes (R17). -/
def plainWrite (s : State) (off : Nat) (new : Word) : State :=
  if (regFields off).isEmpty then s else s.wr off (writeValue off (s.rd off) new)

end Sys2Proof.Machine
end

