-- ==== Sys2Proof/Machine/Ops.lean ====
section
/-! DEFINITION. The named operations that the commands share: core records, the night log and the other record queues (R635), error records, containment and escalation (R614 to R626), halts and quiesce (R120, R126), tokens (R98). -/

namespace Sys2Proof.Machine

/-- The outcome of every meaning. -/
abbrev Res := Host.Outcome State Fault Refusal

/-! ### Registers by name -/

def rCoreId (c : Nat) : Nat := coreWin c
def rCoreCtl (c : Nat) : Nat := coreWin c + 0x8
def rCoreStat (c : Nat) : Nat := coreWin c + 0x10
def rCoreWdog (c : Nat) : Nat := coreWin c + 0x18
def rCoreSgkey (c i : Nat) : Nat := coreWin c + 0x20 + 8 * i
def rCoreStep (c : Nat) : Nat := coreWin c + 0x30
def rCoreCorr (c : Nat) : Nat := coreWin c + 0x38
def rCoreWait (c : Nat) : Nat := coreWin c + 0x40
def rCoreBusy (c : Nat) : Nat := coreWin c + 0x48
def rCoreBkpt (c i : Nat) : Nat := coreWin c + 0x80 + 8 * i
def rCoreWpt (c i : Nat) : Nat := coreWin c + 0xA0 + 8 * i
def rCoreTok (c t : Nat) : Nat := coreWin c + 0x400 + 8 * t
def rFldCtl (f : Nat) : Nat := fieldBase f
def rFldStat (f : Nat) : Nat := fieldBase f + 0x8
def rFldXp (f : Nat) : Nat := fieldBase f + 0x100
def rFldDead (f i : Nat) : Nat := fieldBase f + 0x200 + 8 * i
def rFldLink (f : Nat) : Nat := fieldBase f + 0x300
def rFldErrCores (f i : Nat) : Nat := fieldBase f + 0x580 + 8 * i
def rFldPwr (f : Nat) : Nat := fieldBase f + 0x600
def rModSvc : Nat := 0x8
def rStepCnt : Nat := 0x18
def rHostStep : Nat := 0x20
def rHostLink : Nat := 0x800
def rHostStat : Nat := 0x818
def rModErrCfg : Nat := 0x8080
def rModFault : Nat := 0x8088
def rErrSum0 : Nat := 0x8090
def rErrSum1 : Nat := 0x8098
def rDomeStat : Nat := 0x9000
def rChrTime : Nat := 0xC000
def rPltStat : Nat := 0x7028

/-! ### Core records -/

/-- The record of a core. -/
def State.core (s : State) (c : Nat) : Core := tget Core.reset s.cores c
/-- The state with a core's record replaced. -/
def State.setCore (s : State) (c : Nat) (k : Core) : State := { s with cores := tset s.cores c k }
/-- The state with a core's record changed. -/
def State.modCore (s : State) (c : Nat) (f : Core → Core) : State := s.setCore c (f (s.core c))

/-- A domain of a field is ON (R689). -/
def transitOn (s : State) (f : Nat) : Bool := s.fld (rFldPwr f) 29 28 == 2
def storeOn (s : State) (f : Nat) : Bool := s.fld (rFldPwr f) 27 26 == 2
def computeOn (s : State) (f : Nat) : Bool := s.fld (rFldPwr f) 25 24 == 2

/-- CORE_STAT.STATE (R54). -/
def coreSt (s : State) (c : Nat) : Nat := s.fld (rCoreStat c) 2 0
/-- CORE_STAT.PC (R54). -/
def corePc (s : State) (c : Nat) : Nat := s.fld (rCoreStat c) 20 8
/-- CORE_STAT.WINDOW: the compute window when true (R54). -/
def coreWindow (s : State) (c : Nat) : Bool := s.flag (rCoreStat c) 3
/-- CORE_STAT.LATE (R54). -/
def coreLate (s : State) (c : Nat) : Bool := s.flag (rCoreStat c) 4
/-- CORE_ID.MAPPED (R52). -/
def coreMapped (s : State) (c : Nat) : Bool := s.flag (rCoreId c) 35
/-- STATE 1, 2 or 3. -/
def coreRunning (s : State) (c : Nat) : Bool := 1 ≤ coreSt s c && coreSt s c ≤ 3
/-- The sidereal counter (R725). -/
def sidereal (s : State) : Word := s.rd rChrTime
/-- The module step counter (R774). -/
def stepCnt (s : State) : Word := s.rd rStepCnt
/-- PLT_STAT.ATTEMPTS (R578). -/
def attempts (s : State) : Nat := s.fld rPltStat 31 24
/-- What leaves the module is recorded. -/
def State.emit (s : State) (o : Out) : State := { s with out := o :: s.out }
/-- A packet enters the mesh. -/
def State.send (s : State) (p : Packet) : State := { s with net := s.net ++ [p] }

/-- The cores of a field, by number (R329). -/
def coresOf (f : Nat) : List Nat := (List.range 960).map (coreOfField f)
/-- The mapped cores of a field. -/
def mappedOf (s : State) (f : Nat) : List Nat := (coresOf f).filter (coreMapped s)

/-! ### Record queues on their way to host rings (R635) -/

/-- A record queue: its number, the offsets of its BASE, HEAD, TAIL, STAT and interrupt registers, its capacity, the highest bit of QFILL, the ring's slots and the bytes of a record. -/
structure Ring where
  id : Nat
  base : Nat
  head : Nat
  tail : Nat
  stat : Nat
  int : Nat
  cap : Nat
  qhi : Nat
  slots : Nat
  bytes : Nat
  deriving DecidableEq, Repr

/-- The night log (R635, R636, R645). -/
def ringNlog : Ring := ⟨0, 0x8100, 0x8108, 0x8110, 0x8118, 0x8120, 256, 8, 65536, 64⟩
/-- The Chronograph ring (R741, R746). -/
def ringChr : Ring := ⟨1, 0xC020, 0xC028, 0xC030, 0xC038, 0xC040, 128, 7, 65536, 128⟩
/-- The clamp ring (R784, R791). -/
def ringClamp : Ring := ⟨2, 0x900, 0x908, 0x910, 0x918, 0x920, 64, 8, 65536, 64⟩
/-- Completion ring j; its slots follow SIZE (R777, R793). -/
def ringCq (s : State) (j : Nat) : Ring :=
  let b := 0xD000 + 0x40 * j
  ⟨16 + j, b, b + 0x10, b + 0x18, b + 0x20, b + 8, 64, 6, 2 ^ (min (s.fld (b + 8) 47 44) 8 + 8), 128⟩

/-- A queue's records. -/
def State.ringQ (s : State) (r : Ring) : List (List Word) := tget [] s.rings r.id

/-- A record enters a queue: it takes the next SEQ as its word 0; a full queue discards its oldest record and counts it in QDROP (R635, R636). -/
def ringPush (r : Ring) (body : List Word) (s : State) : State :=
  let seq := s.rd r.head
  let q := s.ringQ r
  let full := r.cap ≤ q.length
  let q' := (if full then q.tail else q) ++ [seq :: body]
  let s1 := { s with rings := tset s.rings r.id q' }
  let s2 := s1.wr r.head (seq + 1)
  let s3 := if full then s2.satFld r.stat 31 16 1 else s2
  s3.setFld r.stat r.qhi 0 q'.length

/-- Word 3 of a night-log record (R633). -/
def nlogWord3 (s : State) (kind cls dkind unit code rep : Nat) : Word :=
  wd (kind * 2 ^ 60 + cls * 2 ^ 58 + dkind * 2 ^ 56 + unit * 2 ^ 48 + code * 2 ^ 32 + rep * 2 ^ 16 + attempts s * 2 ^ 8 + s.fld rModSvc 2 0)

/-- A night-log record enters the queue (R633, R634). -/
def nlog (kind cls dkind unit code rep loc : Nat) (a0 a1 a2 : Word) (s : State) : State :=
  ringPush ringNlog [sidereal s, stepCnt s, nlogWord3 s kind cls dkind unit code rep, wd loc, a0, a1, a2] s

/-- An event record (R634). -/
def nlogEvent (dkind code loc : Nat) (a0 a1 : Word) (s : State) : State := nlog 3 0 dkind 0 code 0 loc a0 a1 0 s

/-! ### Domains and error records (R614 to R626) -/

/-- DKIND (R615). -/
def dkind : Dom → Nat
  | .core _ => 0
  | .field _ => 1
  | .limb _ => 2
  | .module => 3

/-- Base of a domain's error registers (R615). -/
def errBase : Dom → Nat
  | .core c => coreWin c.val + 0x100
  | .field f => fieldBase f.val + 0x500
  | .limb l => limbBase l.val + 0x5000
  | .module => 0x8000

/-- LOC of a domain (R620). -/
def locOf : Dom → Nat
  | .core c => coreY c.val * 512 + coreX c.val
  | .field f => (f.val / 14) * 16 + f.val % 14
  | .limb l => l.val
  | .module => 0

/-- A number for each domain, the key of the escalation and tally tables. -/
def domKey : Dom → Nat
  | .core c => c.val
  | .field f => 100000 + f.val
  | .limb l => 100100 + l.val
  | .module => 100200

/-- A field by number as a domain. -/
def domField (f : Nat) : Dom := .field (Fin.ofNat 84 f)
/-- A limb by number as a domain. -/
def domLimb (l : Nat) : Dom := .limb (Fin.ofNat 8 l)
/-- A core by number as a domain. -/
def domCore (c : Nat) : Dom := .core (Fin.ofNat 80640 c)

/-- The parent of a domain (R615). -/
def parentOf : Dom → Dom
  | .core c => domField (fieldOf c.val)
  | .field _ => .module
  | .limb _ => .module
  | .module => .module

/-- The FATAL latch (R619, R622). -/
def fatal (s : State) : Bool := s.flag rModFault 1

/-- ERR_STAT.STATE (R619). -/
def domState (s : State) (d : Dom) : Nat := s.fld (errBase d) 9 8

/-- A record's V bit and CLASS (R620). -/
def recV (w : Word) : Bool := bit w 63
def recClass (w : Word) : Nat := bits w 62 61
def recUnit (w : Word) : Nat := bits w 55 48

/-- A domain's state as its records and the FATAL latch give it (R619). -/
def stateOf (fat : Bool) (a p : Word) : Nat :=
  if fat then 3
  else if (recV a && 2 ≤ recClass a) || (recV p && 2 ≤ recClass p) then 2
  else if recV a || recV p then 1 else 0

/-- MOD_FAULT.PIN: FATAL or FORCE or PWR (R640). -/
def faultPin (s : State) : State := s.setFld rModFault 3 3 (s.flag rModFault 1 || s.flag rModFault 0 || s.flag rModFault 2).toNat

/-- The maps of domains that are not NORMAL follow a domain's state (R644, R645). -/
def errMaps (d : Dom) (st : Nat) (s : State) : State :=
  let b := (if st = 0 then 0 else 1)
  match d with
  | .core c => s.setFld (rFldErrCores (fieldOf c.val) (coreIdx c.val / 64)) (coreIdx c.val % 64) (coreIdx c.val % 64) b
  | .field f => if f.val < 64 then s.setFld rErrSum0 f.val f.val b else s.setFld rErrSum1 (f.val - 64) (f.val - 64) b
  | .limb l => s.setFld rErrSum1 (24 + l.val) (24 + l.val) b
  | .module => s

/-- ERR_STAT.STATE follows the records (R619). -/
def errRefresh (d : Dom) (s : State) : State :=
  let st := stateOf (decide (d = .module) && fatal s) (s.rd (errBase d + 0x8)) (s.rd (errBase d + 0x28))
  errMaps d st (s.setFld (errBase d) 9 8 st)

/-- The four words of a new error record (R620). -/
def newRecord (d : Dom) (cls unit cause : Nat) (info : Word) (s : State) : List Word :=
  [wd (2 ^ 63 + cls * 2 ^ 61 + dkind d * 2 ^ 59 + unit * 2 ^ 48 + cause * 2 ^ 32 + attempts s),
   wd ((s.rd ringNlog.head).toNat % 2 ^ 32 * 2 ^ 32 + locOf d), sidereal s, info]

/-- Four words written at consecutive offsets. -/
def wr4 (off : Nat) (ws : List Word) (s : State) : State :=
  (((s.wr off (ws.getD 0 0)).wr (off + 8) (ws.getD 1 0)).wr (off + 16) (ws.getD 2 0)).wr (off + 24) (ws.getD 3 0)

/-- A record holds an error of the same CLASS and UNIT, and for UNIT 0xFF of the same INFO (rule 1 of R621). -/
def repeats (s : State) (off cls unit : Nat) (info : Word) : Bool :=
  recV (s.rd off) && recClass (s.rd off) == cls && recUnit (s.rd off) == unit && (unit != 0xFF || s.rd (off + 24) == info)

/-- A new record is taken at `off` and written to the night log as KIND ERROR (rules 2 to 4 of R621, R634). -/
def takeRecord (d : Dom) (off cls unit cause : Nat) (info : Word) (s : State) : State :=
  nlog 0 cls (dkind d) unit cause 0 (locOf d) info 0 0 (wr4 off (newRecord d cls unit cause info s) s)

/-- The module's own escalation: FATAL, carried by one night-log record (R624). -/
def moduleEscalate (unit cause : Nat) (s : State) : State :=
  if fatal s then s.satFld (errBase .module) 47 32 1
  else
    let s1 := faultPin (s.setFld rModFault 1 1 1)
    errRefresh .module (nlog 0 3 3 0xFF 0x0FF1 0 0 (wd (unit * 2 ^ 16 + cause)) 0 0 s1)

/-- An error reaches a domain: the first rule of R621 that applies. -/
def recordError (d : Dom) (cls unit cause : Nat) (info : Word) (s : State) : State :=
  let b := errBase d
  let act := b + 0x8
  let pnd := b + 0x28
  if repeats s act cls unit info then s.satFld act 31 16 1
  else if repeats s pnd cls unit info then s.satFld pnd 31 16 1
  else if !recV (s.rd act) then errRefresh d (takeRecord d act cls unit cause info s)
  else if !recV (s.rd pnd) then errRefresh d (takeRecord d pnd cls unit cause info s)
  else if domState s d < 2 && 2 ≤ cls then errRefresh d (takeRecord d pnd cls unit cause info (s.satFld b 47 32 1))
  else if domState s d < 2 then nlog 1 cls (dkind d) unit cause 0 (locOf d) info 0 0 (s.satFld b 47 32 1)
  else match d with
    | .module => moduleEscalate unit cause s
    | _ => { (s.addFld b 63 48 1) with escOut := tset s.escOut (domKey d) (tget 0 s.escOut (domKey d) + 1) }

/-! ### Halts and quiesce (R120 to R126) -/

/-- Which of two halts in progress decides the STATE: a fault over a breakpoint over a quiesce over a request (R126, R616). -/
def haltRank (st : Nat) : Nat := if st = 6 then 3 else if st = 5 then 2 else if st = 7 then 1 else 0

/-- A started tensor instruction has not finished its accesses (R120 step 3). -/
def arrayBusy (k : Core) : Bool := k.arrayq.any (fun a => a.started)

/-- The core enters the halted STATE st: RUN, HALT and STEP1 clear, late admission ends, the wait is left (R106, R120, R121, R125). -/
def enterHalt (c st : Nat) (s : State) : State :=
  let s1 := s.setFld (rCoreStat c) 2 0 st
  let s2 := s1.setFld (rCoreStat c) 4 4 0
  let s3 := s2.setFld (rCoreCtl c) 2 0 0
  s3.modCore c (fun k => { k with haltTo := none, wait := none, wptHit := false })

/-- A halt into STATE st is requested of a running core: it is taken at once when the array has no access outstanding, and otherwise held until HALT_TAKEN (R120, R126, R616). -/
def reqHalt (c st : Nat) (s : State) : State :=
  if coreRunning s c then
    if arrayBusy (s.core c) && coreSt s c == 1 then
      s.modCore c (fun k => { k with haltTo := some (match k.haltTo with
        | some a => if haltRank a ≤ haltRank st then st else a
        | none => st) })
    else enterHalt c (match (s.core c).haltTo with
        | some a => if haltRank a ≤ haltRank st then st else a
        | none => st) s
  else s

/-- The field quiesces (R126): FLD_STAT follows, and every core in STATE 1, 2 or 3 halts into STATE 7. -/
def quiesceField (f : Nat) (s : State) : State :=
  forEach (coresOf f) (fun c t => reqHalt c 7 t) (s.setFld (rFldStat f) 1 0 2)

/-- The containment action of R616. The hold of a limb (R617) is the state of its records. -/
def contain (d : Dom) (s : State) : State :=
  match d with
  | .core c => quiesceField (fieldOf c.val) (reqHalt c.val 6 s)
  | .field f => quiesceField f.val s
  | .limb _ => s
  | .module => forEach (List.range 84) quiesceField s

/-- The module domain enters FATAL (R622). -/
def enterFatal (s : State) : State := errRefresh .module (faultPin (s.setFld rModFault 1 1 1))

/-- An error reaches a domain: it is recorded under R621, and a contained or fatal one starts the containment action (R616, R622). -/
def raise (d : Dom) (cls unit cause : Nat) (info : Word) (s : State) : State :=
  let s1 := recordError d cls unit cause info s
  let s2 := if cls = 3 then contain .module (enterFatal s1) else s1
  let s3 := if 2 ≤ cls then contain d s2 else s2
  if fatal s3 && !fatal s then contain .module s3 else s3

/-- A limb is held while its own domain or the module domain is CONTAINED or FATAL (R616 to R618). -/
def limbHeld (s : State) (l : Nat) : Bool := 2 ≤ domState s (domLimb l) || 2 ≤ domState s .module

/-- Any domain of the module is CONTAINED or FATAL (R623). -/
def anyContained (s : State) : Bool :=
  2 ≤ domState s .module || (List.range 8).any (fun l => 2 ≤ domState s (domLimb l)) ||
  (List.range 84).any (fun f => 2 ≤ domState s (domField f) ||
    (List.range 15).any (fun i => (s.rd (rFldErrCores f i) != 0) && (List.range 64).any (fun j => 2 ≤ domState s (domCore (coreOfField f (64 * i + j))))))

/-- Corrected errors of a domain other than a core (R630). -/
def corrected (d : Dom) (n : Nat) (s : State) : State :=
  let s1 := s.satFld (errBase d) 31 16 n
  { s1 with tally := tset s1.tally (domKey d) (tget 0 s1.tally (domKey d) + n) }

/-- A corrected read in a core: CORE_CNT_CORR, the tally, and the write-back that follows (R58, R73, R630). -/
def coreCorrected (c : Nat) (instr : Bool) (i : Nat) (s : State) : State :=
  let s1 := s.satFld (rCoreCorr c) 15 0 1
  let s2 := { s1 with tally := tset s1.tally c (tget 0 s1.tally c + 1) }
  s2.modCore c (fun k => { k with wbq := k.wbq ++ [(instr, i)] })

/-- A contained error of a core with its fault cause (R212, R628). -/
def coreFault (c unit cause : Nat) (info : Word) (s : State) : State := raise (domCore c) 2 unit cause info s

/-! ### Tokens (R96 to R102) -/

/-- A waiting WAIT.TOK on token t finds that the buffer has been refilled (R100). -/
def waitRefilled (s : State) (c t : Nat) : Bool :=
  match (s.core c).wait with
  | some (wt, g, _) => wt == t && 0 < (s.fld (rCoreTok c t) 15 0 + 65536 - g) % 65536 && (s.fld (rCoreTok c t) 15 0 + 65536 - g) % 65536 < 0x8000
  | none => false

/-- One arrival of generation g at token t (R98, R100, R102). -/
def tokArrive (c t g : Nat) (s : State) : State :=
  let r := rCoreTok c t
  let d := (g + 65536 - s.fld r 15 0) % 65536
  if d = 0 then s.satFld r 23 16 1
  else if d < 0x8000 then
    let s1 := s.setFld r 23 0 (65536 + g)
    if waitRefilled s1 c t then coreFault c 5 0x0008 (wd (t * 65536 + (s1.fld r 15 0))) s1 else s1
  else coreFault c 5 0x0007 (wd (t * 65536 + g)) (s.satFld r 31 24 1)

end Sys2Proof.Machine
end

