-- ==== Sys2Proof/Machine/Chrono.lean ====
section
/-! DEFINITION. Phases and records of the Chronograph (R732 to R743), and the commands of its family. -/

namespace Sys2Proof.Machine

def rChrPlan (f i : Nat) : Nat := fieldBase f + 0x700 + 8 * i
def rChrNow (f : Nat) : Nat := fieldBase f + 0xA10
def rChrSlack (f : Nat) : Nat := fieldBase f + 0xA08
/-- The key of the module's record. -/
def chrMod : Nat := 255

/-- A unit's Chronograph record. -/
def State.chrOf (s : State) (u : Nat) : Chr := tget Chr.reset s.chr u
/-- The state with a unit's Chronograph record changed. -/
def State.modChr (s : State) (u : Nat) (f : Chr → Chr) : State := { s with chr := tset s.chr u (f (s.chrOf u)) }

/-- A span in ns as ticks (R737). -/
def ticks (ns : Nat) : Nat := ns * 11 / 160

/-- The span of duration d that is running, if any, ends now and accrues. -/
def chrStop (now : Word) (d : Nat) (k : Chr) : Chr :=
  match tfind k.since d with
  | none => k
  | some t => { k with since := terase k.since d, dur := tset k.dur d (tget 0 k.dur d + (now - t).toNat) }

/-- A span of duration d begins now. -/
def chrStart (now : Word) (d : Nat) (k : Chr) : Chr := { k with since := tset k.since d now }

/-- PHASE codes 3 to 15 act as idle (R732). -/
def phaseCode (p : Nat) : Nat := if 3 ≤ p ∧ p ≤ 15 then 2 else p

/-- Entry i of a field's phase plan is valid, with its EPOCH and phase (R732). -/
def planEntry (s : State) (f i : Nat) : Option (Nat × Nat) :=
  let w := s.rd (rChrPlan f i)
  if bit w 63 then some (bits w 15 0, phaseCode (bits w 52 48)) else none

/-- The phase of the lowest-numbered valid entry with a given EPOCH (R733). -/
def planPhase (s : State) (f e : Nat) : Option Nat :=
  ((List.range 32).filterMap (planEntry s f)).findSome? (fun p => if p.1 = e then some p.2 else none)

/-- The plan holds a valid idle entry (R734). -/
def planHasIdle (s : State) (f : Nat) : Bool := ((List.range 32).filterMap (planEntry s f)).any (fun p => p.2 == 2)

/-- The field begins a phase: the running one closes, and the first transition into idle after a backward phase reports its end (R733, R734). -/
def beginPhase (f p : Nat) (s : State) : State :=
  let old := s.fld (rChrNow f) 4 0
  let now := sidereal s
  let s1 := s.setFld (rChrNow f) 4 0 p
  s1.modChr f (fun k =>
    let k1 := chrStart now p (chrStop now old k)
    { k1 with bwdRan := k1.bwdRan || p == 1, bwdReported := k1.bwdReported || (p == 2 && k1.bwdRan) })

/-- Busy cycles of the mapped cores of a field, summed (R740). -/
def busySum (s : State) (f : Nat) : Nat := ((mappedOf s f).map (fun c => (s.rd (rCoreBusy c)).toNat)).foldl (· + ·) 0

/-- A duration of a record in ticks, saturated (R737). -/
def durTicks (k : Chr) (d : Nat) : Nat := min (ticks (tget 0 k.dur d)) (2 ^ 32 - 1)

/-- nJ rounded to mJ (R743). -/
def toMJ (nj : Nat) : Nat := min ((nj + 500000) / 1000000) (2 ^ 32 - 1)

/-- Words 1 to 15 of a field record (R740). -/
def fieldRecord (s : State) (f : Nat) (abort : Bool) (k : Chr) : List Word :=
  let d := durTicks k
  let pr := fun i => wd (d (16 + 2 * i) + d (17 + 2 * i) * 2 ^ 32)
  [k.step, k.start, wd (f * 2 ^ 52 + k.satWord.isSome.toNat * 2 ^ 34 + k.late.toNat * 2 ^ 33 + abort.toNat * 2 ^ 32 + k.attempt * 2 ^ 8),
   wd (d 0 + d 1 * 2 ^ 32), wd (d 3 + d 2 * 2 ^ 32), pr 0, pr 1, pr 2, pr 3, pr 4, pr 5, pr 6, pr 7,
   wd (toBits 16 k.tmax + k.effMax * 2 ^ 16 + k.effMin * 2 ^ 20 + toMJ k.energy * 2 ^ 32),
   wd ((busySum s f + 2 ^ 64 - k.busy0) / 1024 % 2 ^ 32)]

/-- Words 1 to 15 of the module record (R740). -/
def moduleRecord (s : State) (abort : Bool) (k : Chr) : List Word :=
  let d := durTicks k
  let total := min (ticks (sidereal s - k.start).toNat) (2 ^ 32 - 1)
  [k.step, k.start, wd (2 ^ 60 + 0xFF * 2 ^ 52 + k.satWord.isSome.toNat * 2 ^ 34 + abort.toNat * 2 ^ 32 + k.localmb * 2 ^ 16 + k.attempt * 2 ^ 8),
   wd (d 0 + d 1 * 2 ^ 32), wd (d 2 + d 3 * 2 ^ 32), wd (d 4 + total * 2 ^ 32), 0, 0, 0, 0, 0, 0, 0,
   wd (k.peak + s.fld 0x6018 2 0 * 2 ^ 16 + toMJ k.energy * 2 ^ 32), 0]

/-- Every span that runs ends now. -/
def chrStopAll (now : Word) (k : Chr) : Chr := (k.since.map (·.1)).foldl (fun q d => chrStop now d q) k

/-- A duration saturates: SAT, and event 0x1306 once for that record (R737). `word` is the word index of the duration. -/
def satDur (unit word : Nat) (s : State) : State :=
  if (s.chrOf unit).satWord.isNone then
    nlogEvent (if unit = chrMod then 3 else 1) 0x1306 (if unit = chrMod then 0 else locOf (domField unit)) (wd unit) (wd word)
      (s.modChr unit (fun k => { k with satWord := some word }))
  else s

/-- The word of a record that holds a duration (R740). -/
def durWord (unit d : Nat) : Nat :=
  if unit = chrMod then (if d < 2 then 4 else if d < 4 then 5 else 6) else if d < 2 then 4 else if d < 4 then 5 else 6 + (d - 16) / 2

/-- The first duration of a record that is saturated as it closes, by its word; TOTAL of the module's is the span up to now. -/
def satAtClose (s : State) (unit : Nat) : Option Nat :=
  let k := s.chrOf unit
  match k.dur.find? (fun p => 2 ^ 32 ≤ ticks p.2) with
  | some p => some (durWord unit p.1)
  | none => if unit = chrMod ∧ 2 ^ 32 ≤ ticks (sidereal s - k.start).toNat then some 6 else none

/-- A record's spans end, and what is saturated is marked (R737, R739). -/
def chrClose (unit : Nat) (s : State) : State :=
  let s1 := s.modChr unit (fun k => { chrStopAll (sidereal s) k with isOpen := false })
  match satAtClose s1 unit with
  | some w => satDur unit w s1
  | none => s1

/-- A field's record closes and enters the Chronograph queue (R739 to R741). -/
def closeFieldRecord (abort : Bool) (f : Nat) (s : State) : State :=
  if (s.chrOf f).isOpen then
    let s1 := chrClose f s
    ringPush ringChr (fieldRecord s1 f abort (s1.chrOf f)) s1
  else s

/-- The module's record closes and enters the queue (R739 to R741). -/
def closeModuleRecord (abort : Bool) (s : State) : State :=
  if (s.chrOf chrMod).isOpen then
    let s1 := chrClose chrMod s
    ringPush ringChr (moduleRecord s1 abort (s1.chrOf chrMod)) s1
  else s

/-- Every open record closes (R739, R776). -/
def closeRecords (abort : Bool) (s : State) : State := closeModuleRecord abort (forEach (List.range 84) (closeFieldRecord abort) s)

/-- The launch reaches a field with a mapped core: a record still open closes with ABORT, a new one opens, and the first phase begins (R733, R734, R739). -/
def launchField (f : Nat) (s : State) : State :=
  let s1 := closeFieldRecord true f s
  let now := sidereal s1
  let eff := s1.fld (rFldPwr f) 18 16
  let p := (planPhase s1 f 0).getD 2
  let s2 := s1.modChr f (fun _ => { Chr.reset with
    isOpen := true, step := stepCnt s1, start := now, attempt := attempts s1, effMax := eff, effMin := eff
    since := [(p, now)], bwdRan := p == 1, bwdReported := !planHasIdle s1 f, busy0 := busySum s1 f })
  s2.wr (rChrNow f) (wd p)

/-- The phase change of a cohort barrier release (R733). -/
def releaseField (f : Nat) (s : State) : State :=
  let n := satAdd 16 (s.fld (rChrNow f) 31 16) 1
  let s1 := s.setFld (rChrNow f) 31 16 n
  match planPhase s1 f n with
  | some p => beginPhase f p s1
  | none => s1

/-- Every mapped field has reported the end of its backward phase (R291, R734). A field with no mapped core reports at launch. -/
def allBackwardDone (s : State) : Bool := (List.range 84).all (fun f => (mappedOf s f).isEmpty || (s.chrOf f).bwdReported)

/-- The module's record: duration d begins, if a record is open. -/
def modSpan (d : Nat) (s : State) : State :=
  if (s.chrOf chrMod).isOpen then s.modChr chrMod (chrStart (sidereal s) d) else s
/-- The module's record: duration d ends. -/
def modSpanEnd (d : Nat) (s : State) : State := s.modChr chrMod (chrStop (sidereal s) d)

/-- The launch at the host limb opens the module record and begins COMPUTE (R738, R739). PLATE runs too while a plate is in progress. -/
def launchModule (localmb : Nat) (s : State) : State :=
  let s1 := closeModuleRecord true s
  let now := sidereal s1
  s1.modChr chrMod (fun _ => { Chr.reset with
    isOpen := true, step := stepCnt s1, start := now, attempt := attempts s1, localmb := localmb
    since := (0, now) :: (if s1.fld rPltStat 3 0 = 0 then [] else [(3, now)]) })

/-! ### Stall (R735) -/

/-- A field is stalled: a mapped core is in STATE 2 with WINDOW = 1 (R735). -/
def fieldStalled (s : State) (f : Nat) : Bool := (mappedOf s f).any (fun c => coreSt s c == 2 && coreWindow s c)

/-- `ns` of stall accrue to a field's open record (R735); FLD_CHR_NOW.STALL shows it in ticks. -/
def accrueStall (ns : Nat) (f : Nat) (s : State) : State :=
  if (s.chrOf f).isOpen && fieldStalled s f then
    let s1 := s.modChr f (fun k => { k with dur := tset k.dur 3 (tget 0 k.dur 3 + ns) })
    s1.setFld (rChrNow f) 63 32 (durTicks (s1.chrOf f) 3)
  else s

/-- STALL of the attempt exceeds SLACK µs: LATE, and event 0x1303 once in the attempt (R736). `stall` is the stall that the field has measured, in ticks. -/
def execStallExceededSlack (f : FieldId) (stall : Nat) (s : State) : Res :=
  let slack := s.fld (rChrSlack f.val) 15 0
  if (s.chrOf f.val).isOpen && !(s.chrOf f.val).late && slack != 0xFFFF && slack * 1000 * 11 < stall * 160 then
    let s1 := s.modChr f.val (fun k => { k with late := true, dur := tset k.dur 3 ((stall * 160 + 10) / 11) })
    let s2 := s1.setFld (rChrNow f.val) 63 32 stall
    .next (nlogEvent 1 0x1303 (locOf (.field f)) (wd f.val) (wd stall) s2)
  else .next s

/-- DURATION_SATURATED in an open record (R737). -/
def execDurationSaturated (unit word : Nat) (s : State) : Res :=
  .next (if (s.chrOf unit).isOpen then satDur unit word s else s)

end Sys2Proof.Machine
end

