-- ==== Sys2Proof/Machine/Issue.lean ====
section
/-! DEFINITION. One instruction of a core: fetch (R83), the encoding check before the predicate (R211), the predicate (R135, R136), execution, retirement and the faults (R133, R210 to R214); and the register file and core store as instructions use them (R47, R64, R73). -/

namespace Sys2Proof.Machine

/-! ### The register file (R47) -/

/-- Element i of a vector, d beyond its end. -/
def vget {α : Type} {n : Nat} (v : Vector α n) (i : Nat) (d : α) : α := if h : i < n then v[i] else d
/-- The vector with element i replaced. -/
def vset {α : Type} {n : Nat} (v : Vector α n) (i : Nat) (x : α) : Vector α n := if h : i < n then v.set i x else v

/-- A scalar register; s0 reads 0. -/
def readS (k : Core) (i : Nat) : Word := if i = 0 then 0 else vget k.s i 0
/-- A scalar register written; a write of s0 is discarded. -/
def writeS (i : Nat) (x : Word) (k : Core) : Core := if i = 0 then k else { k with s := vset k.s i x }
/-- A vector register. -/
def readV (k : Core) (i : Nat) : BitVec 512 := vget k.v i 0
/-- A vector register written. -/
def writeV (i : Nat) (x : BitVec 512) (k : Core) : Core := { k with v := vset k.v i x }
/-- A predicate register; p0 reads 0xFFFF. -/
def readP (k : Core) (i : Nat) : BitVec 16 := if i = 0 then 0xFFFF else vget k.p i 0
/-- A predicate register written; a write of p0 is discarded. -/
def writeP (i : Nat) (x : BitVec 16) (k : Core) : Core := if i = 0 then k else { k with p := vset k.p i x }

/-- The effective predicate E of an instruction word (R135). -/
def effPred (k : Core) (w : Word) : BitVec 16 := if iPN w then readP k (iPR w) ^^^ 0xFFFF else readP k (iPR w)

/-! ### The core store (R64 to R68, R73, R76, R77) -/

/-- The sequencer, vector unit and array own the banks (R85, R86, R104). -/
def ownsBanks (s : State) (c : Nat) : Bool := coreWindow s c && !coreLate s c

/-- A read of core-store words by a consumer: the words, or the unit's contained error with its cause and word; corrected reads are counted. -/
inductive Rd where
  | ok (ws : List Word) (s : State)
  | bad (cause : Nat) (w : Nat) (s : State)

/-- A read of a list of words, in order (R73, R76, R77). -/
def readWords (c : Nat) : List Nat → State → Rd
  | [], s => .ok [] s
  | i :: r, s =>
    match cwRead (s.core c).store i with
    | .misaddressed => .bad 0x0001 i s
    | .uncorrectable => .bad 0x0001 i s
    | .clean w => if w.x then .bad 0x0003 i s else
        match readWords c r s with
        | .ok ws t => .ok (w.d :: ws) t
        | .bad a b t => .bad a b t
    | .corrected w _ => if w.x then .bad 0x0003 i (coreCorrected c false i s) else
        match readWords c r (coreCorrected c false i s) with
        | .ok ws t => .ok (w.d :: ws) t
        | .bad a b t => .bad a b t

/-- A core-store word written clean (R70). -/
def writeWord (c i : Nat) (w : PWord) (s : State) : State := s.modCore c (fun k => { k with store := cwWrite k.store i w })

/-- Words written at consecutive indices. -/
def writeWordsAt (c : Nat) : Nat → List PWord → State → State
  | _, [], s => s
  | i, w :: r, s => writeWordsAt c (i + 1) r (writeWord c i w s)

/-- Breakpoints and watchpoints act only while the Eyepiece port is unlocked: BOOT_STAT.DBG, and bit 0 of SCOPE (R60, R816). -/
def dbgUnlocked (s : State) : Bool := s.flag 0xF000 21 && s.flag 0xF000 24

/-- An access matches an enabled watchpoint (R60): kind 1 read, 2 write. -/
def wptMatch (s : State) (c kind word : Nat) : Bool :=
  dbgUnlocked s && (List.range 2).any (fun i =>
    s.flag (rCoreWpt c i) 63 && (s.fld (rCoreWpt c i) 61 60 == kind || s.fld (rCoreWpt c i) 61 60 == 3) && s.fld (rCoreWpt c i) 18 3 == word)

/-- Watchpoints see an access (R60). -/
def watch (c kind : Nat) (ws : List Nat) (s : State) : State :=
  if ws.any (wptMatch s c kind) then s.modCore c (fun k => { k with wptHit := true }) else s

/-! ### Issue and retirement -/

/-- What the execution of one instruction comes to. -/
inductive Eff where
  /-- It retires and the PC advances (R133). -/
  | done (s : State)
  /-- It is predicated off: one issue cycle and no fault (R136). At index 8,191 no rule gives the PC that follows, and it is a free value (entry 81). -/
  | skip (s : State)
  /-- It retires and control goes to `pc` (R145). -/
  | jump (s : State) (pc : Nat)
  /-- Its condition to issue does not hold: it stalls. -/
  | stall
  /-- A contained error; the instruction itself has no effect and PC holds it (R213). -/
  | trap (unit cause : Nat) (info : Word) (s : State)
  /-- It retires and the core halts into STATE st (R148). -/
  | halt (s : State) (st : Nat)
  /-- It does not retire yet: the core waits (R99). -/
  | wait (s : State)

/-- CORE_STAT.PC set. -/
def setPc (c pc : Nat) (s : State) : State := s.setFld (rCoreStat c) 20 8 pc

/-- The halts due after a retirement: what the instruction itself asks for, a completed STEP1 into STATE 4, a matched watchpoint into STATE 5 (R53, R60, R120, R148). -/
def haltsDue (c : Nat) (own : Option Nat) (s : State) : List Nat :=
  own.toList ++ (if s.flag (rCoreCtl c) 2 then [4] else []) ++ (if (s.core c).wptHit then [5] else [])

/-- After retirement the halt of the highest rank is taken (entry 16). -/
def afterRetire (c : Nat) (own : Option Nat) (s : State) : State :=
  match haltsDue c own s with
  | [] => s
  | st :: r => reqHalt c (r.foldl (fun a b => if haltRank a ≤ haltRank b then b else a) st) s

/-- The PC-overflow fault (R133, R147, R214). -/
def pcOverflow (c : Nat) (s : State) : State := coreFault c 0 0x0013 (wd (corePc s c)) s

/-- The end of one instruction. -/
def finish (c : Nat) (s : State) : Eff → State
  | .done t => if corePc t c = 8191 then pcOverflow c t else afterRetire c none (setPc c (corePc t c + 1) t)
  | .skip t => if corePc t c = 8191 then afterRetire c none (setPc c ((Config.freeValue t.draws).toNat % 8192) { t with draws := t.draws + 1 })
      else afterRetire c none (setPc c (corePc t c + 1) t)
  | .jump t pc => afterRetire c none (setPc c pc t)
  | .stall => s
  | .trap u cause info t => coreFault c u cause info t
  | .halt t st => if corePc t c = 8191 then pcOverflow c t else afterRetire c (some st) (setPc c (corePc t c + 1) t)
  | .wait t => t

/-- An enabled breakpoint stands at the PC (R59); a STEP1 passes it. -/
def atBreakpoint (s : State) (c : Nat) : Bool :=
  dbgUnlocked s && !s.flag (rCoreCtl c) 2 &&
  (List.range 4).any (fun i => s.flag (rCoreBkpt c i) 63 && s.fld (rCoreBkpt c i) 12 0 == corePc s c)

/-- The sequencer may issue: its field's compute domain is on (R41), STATE 1, no halt in progress, no breakpoint at the PC. -/
def canIssue (s : State) (c : Nat) : Bool := computeOn s (fieldOf c) && coreSt s c == 1 && (s.core c).haltTo.isNone && !atBreakpoint s c

/-- The instruction word at the PC, or none where the fetch is neither Clean nor Corrected (R83); a corrected fetch is counted. -/
def fetchWord (c : Nat) (s : State) : Option Word × State :=
  match cwRead (s.core c).istore (corePc s c) with
  | .clean w => (if w.x then none else some w.d, s)
  | .corrected w _ => (if w.x then none else some w.d, coreCorrected c true (corePc s c) s)
  | .misaddressed => (none, s)
  | .uncorrectable => (none, s)

/-- The classes executed element by element (R137). -/
def elementwise (cls : Nat) : Bool := cls == 5 || cls == 6

/-! ### The interlock with what the array delivers (R205) -/

/-- A vector arithmetic operation uses the register field [hi:lo] (R150, R152). -/
def vecUses (op hi lo : Nat) : Bool := !(vecUnused op).any (fun r => hi ≤ r.1 && r.2 ≤ lo)

/-- The vector registers that an instruction of the sequencer reads or writes (R150, R159). -/
def usesV (w : Word) : List Nat :=
  let op := iOp w
  if iClass w = 5 then ([(49, 46), (45, 42), (41, 38), (37, 34)].filter (fun r => vecUses op r.1 r.2)).map (fun r => bits w r.1 r.2)
  else if iClass w = 6 then
    bits w 49 46 :: (if op % 8 = 1 then [bits w 49 46 + 1] else []) ++ (if op % 8 = 3 then [bits w 35 32] else [])
  else []

/-- The predicate registers that an instruction of the sequencer reads or writes, its predicate among them (R135, R152, R165). -/
def usesP (w : Word) : List Nat :=
  let op := iOp w
  iPR w :: (if iClass w = 5 then (if op = 8 ∨ op = 9 then [bits w 30 28] else [])
    else if iClass w = 7 then
      (if op = 0 ∨ op = 6 then [bits w 49 47] else if op ≤ 4 then [bits w 49 47, bits w 46 44, bits w 43 41]
       else if op = 5 then [bits w 49 47, bits w 46 44] else [bits w 46 44])
    else [])

/-- A queued TEMIT has yet to deliver the predicate register that governs the instruction (R135, R205). -/
def predOwed (k : Core) (w : Word) : Bool := k.arrayq.any (fun a => iOp a.word == 3 && bits a.word 9 7 != 0 && bits a.word 9 7 == iPR w)

/-- A queued TEMIT has yet to deliver a predicate register, or a queued TSUM a vector register, that the instruction reads or writes (R205). Two deliveries keep the order of their pipe (R184). -/
def interlocked (k : Core) (w : Word) : Bool :=
  k.arrayq.any (fun a =>
    (iOp a.word == 3 && bits a.word 9 7 != 0 && (usesP w).contains (bits a.word 9 7)) ||
    ((iOp a.word == 4 || iOp a.word == 5) && (usesV w).contains (bits a.word 49 46)))

/-- One instruction of class `cls` whose OP is one of `ops` issues at the core: `body` is what it does when it executes. Where the sequencer cannot issue, or the word at the PC is another instruction, nothing occurs. -/
def issue (c : Nat) (cls : Nat) (ops : List Nat) (body : Word → State → Eff) (s : State) : State :=
  if !canIssue s c then s
  else
    let f := fetchWord c s
    match f.1 with
    | none => coreFault c 1 0x0002 (wd (corePc s c)) f.2
    | some w =>
      if !legal w then coreFault c 0 0x0010 (wd (corePc s c)) f.2
      else if iClass w != cls || !ops.contains (iOp w) then s
      else if predOwed (s.core c) w then f.2
      else if !elementwise cls && !(effPred (s.core c) w).getLsbD 0 then finish c s (.skip f.2)
      else if interlocked (s.core c) w then f.2
      else finish c s (body w f.2)

/-- A scalar register of the core is written and the instruction is done. -/
def doneS (c i : Nat) (x : Word) (s : State) : Eff := .done (s.modCore c (writeS i x))

end Sys2Proof.Machine
end

