-- ==== Sys2Proof/Machine/Formats.lean ====
section
/-! DEFINITION. Element formats, exact values, rounding, saturation, and the arithmetic of the vector unit (R255 to R273, R299 to R305). A finite value is ±m × 2^e. -/

namespace Sys2Proof.Machine

/-- The formats by number: 0 to 8 as TMAC's and TEMIT's FMT (R172, R176), 9 FP64. -/
def fmtBits (f : Nat) : Nat := [4, 6, 6, 8, 8, 8, 16, 16, 32, 64].getD f 64
/-- Mantissa bits (R255). -/
def fmtMant (f : Nat) : Nat := [1, 3, 2, 3, 2, 0, 7, 10, 23, 52].getD f 52
/-- Exponent bits (R255). -/
def fmtExp (f : Nat) : Nat := [2, 2, 3, 4, 5, 0, 8, 5, 8, 11].getD f 11
/-- Exponent bias (R255). -/
def fmtBias (f : Nat) : Nat := [1, 1, 3, 7, 15, 0, 127, 15, 127, 1023].getD f 1023
/-- Code of the largest finite magnitude (R255). -/
def fmtMax (f : Nat) : Nat :=
  [7, 0x1F, 0x1F, 0x7E, 0x7B, 0x7F, 0x7F7F, 0x7BFF, 0x7F7FFFFF, 0x7FEFFFFFFFFFFFFF].getD f 0
/-- Sign bit position. -/
def fmtSign (f : Nat) : Nat := fmtBits f - 1
/-- The format has an Inf code (R255). -/
def fmtHasInf (f : Nat) : Bool := f == 4 || 6 ≤ f
/-- Code of +Inf in a format that has one. -/
def fmtInf (f : Nat) : Nat := fmtMax f + 1
/-- The codes that R272 writes for NaN, +Inf and −Inf. -/
def fmtNonfin (f : Nat) : Nat × Nat × Nat :=
  [(0x7, 0x7, 0xF), (0x1F, 0x1F, 0x3F), (0x1F, 0x1F, 0x3F), (0x7F, 0x7F, 0xFF), (0x7E, 0x7C, 0xFC), (0x80, 0x7F, 0x81),
   (0x7FC0, 0x7F80, 0xFF80), (0x7E00, 0x7C00, 0xFC00), (0x7FC00000, 0x7F800000, 0xFF800000)].getD f
   (0x7FF8000000000000, 0x7FF0000000000000, 0xFFF0000000000000)

/-- A decoded number. -/
inductive Fl where
  | nan
  | inf (neg : Bool)
  | fin (neg : Bool) (m : Nat) (e : Int)
  deriving DecidableEq, Repr

/-- The magnitude part of a code. -/
def magOf (f c : Nat) : Nat := c % 2 ^ fmtSign f
/-- The sign of a code. -/
def signOf (f c : Nat) : Bool := c.testBit (fmtSign f)

/-- A code is a NaN of its format (R255, R257). -/
def isNaN (f c : Nat) : Bool :=
  if f = 3 then magOf f c == 0x7F else if fmtHasInf f then fmtInf f < magOf f c else false
/-- A code is an Inf of its format (R255). -/
def isInf (f c : Nat) : Bool := fmtHasInf f && magOf f c == fmtInf f
/-- A code is a nonzero subnormal of its format. -/
def isSub (f c : Nat) : Bool := f != 5 && 0 < magOf f c && magOf f c < 2 ^ fmtMant f

/-- The value of a code (R256, R257). -/
def decodeFl (f c : Nat) : Fl :=
  if f = 5 then (let i := sx 8 c; .fin (i < 0) i.natAbs 0)
  else if isNaN f c then .nan
  else if isInf f c then .inf (signOf f c)
  else
    let ex := magOf f c / 2 ^ fmtMant f
    let mt := magOf f c % 2 ^ fmtMant f
    if ex = 0 then .fin (signOf f c) mt (1 - fmtBias f - fmtMant f)
    else .fin (signOf f c) (2 ^ fmtMant f + mt) (ex - fmtBias f - fmtMant f)

/-! ### Rounding (R266 to R269) -/

/-- How a value is rounded: to nearest even, or stochastically with 16 random bits (R267, R268). -/
inductive RMode where
  | rne
  | sr (r : Nat)
  deriving DecidableEq, Repr

/-- Exponent of the ulp of the magnitude m × 2^e in a format (R266); 0 for INT8. -/
def ulpExp (f m : Nat) (e : Int) : Int :=
  if f = 5 then 0 else max ((m.log2 : Int) + e) (1 - fmtBias f) - fmtMant f

/-- The magnitude m × 2^e in units of 2^u: whole units, and the part left in units of 2^(-16) of a unit with a flag that something smaller is left; and the comparison of the part with a half. -/
def inUlps (m : Nat) (e u : Int) : Nat × Nat × Ordering :=
  if u ≤ e then (m * 2 ^ (e - u).toNat, 0, .lt)
  else
    let sh := (u - e).toNat
    let r := m % 2 ^ sh
    (m / 2 ^ sh, r * 2 ^ 16 / 2 ^ sh, compare (2 * r) (2 ^ sh))

/-- Whether the rounding takes hi in place of lo (R267, R268). -/
def takesHi (md : RMode) (q t : Nat) (half : Ordering) : Bool :=
  match md with
  | .rne => half == .gt || (half == .eq && q % 2 == 1)
  | .sr r => r < t

/-- The code of the rounded magnitude, its exponent range unbounded above (R266 to R268). -/
def roundMag (f : Nat) (md : RMode) (m : Nat) (e : Int) : Nat :=
  if m = 0 then 0
  else
    let u := ulpExp f m e
    let p := inUlps m e u
    let q := p.1 + (takesHi md p.1 p.2.1 p.2.2).toNat
    if f = 5 then q else (u + fmtMant f + fmtBias f - 1).toNat * 2 ^ fmtMant f + q

/-- The code with its sign; INT8 in two's complement (R269). -/
def withSign (f : Nat) (neg : Bool) (c : Nat) : Nat :=
  if f = 5 then (if neg then (256 - c) % 256 else c) else c + neg.toNat * 2 ^ fmtSign f

/-- m × 2^e is above Max of the format (R270). -/
def aboveMax (f m : Nat) (e : Int) : Bool :=
  match decodeFl f (fmtMax f) with
  | .fin _ mm me => if me ≤ e then mm < m * 2 ^ (e - me).toNat else mm * 2 ^ (me - e).toNat < m
  | _ => false

/-- Rounding with saturation: the code and the saturation indication (R270). -/
def satRound (f : Nat) (md : RMode) (neg : Bool) (m : Nat) (e : Int) : Nat × Bool :=
  (withSign f neg (min (roundMag f md m e) (fmtMax f)), aboveMax f m e)

/-- The code the units of R270 write for a value, finite or not (R270, R272), and the saturation indication. -/
def satCode (f : Nat) (md : RMode) : Fl → Nat × Bool
  | .nan => ((fmtNonfin f).1, false)
  | .inf false => ((fmtNonfin f).2.1, false)
  | .inf true => ((fmtNonfin f).2.2, false)
  | .fin neg m e => satRound f md neg m e

/-- Rounding without saturation: overflow gives ±Inf (R271). -/
def ieeeRound (f : Nat) (neg : Bool) (m : Nat) (e : Int) : Nat :=
  withSign f neg (min (roundMag f .rne m e) (fmtInf f))

/-! ### Exact arithmetic -/

/-- Sum of two finite values: x + (−x) is +0, and −0 + −0 is −0. -/
def addFin (n1 : Bool) (m1 : Nat) (e1 : Int) (n2 : Bool) (m2 : Nat) (e2 : Int) : Fl :=
  let e := min e1 e2
  let a : Int := (if n1 then -1 else 1) * (m1 * 2 ^ (e1 - e).toNat : Nat)
  let b : Int := (if n2 then -1 else 1) * (m2 * 2 ^ (e2 - e).toNat : Nat)
  let r := a + b
  if r = 0 then .fin (n1 && n2) 0 0 else .fin (r < 0) r.natAbs e

/-- Sum; `none` for an invalid operation. -/
def addFl : Fl → Fl → Option Fl
  | .fin n1 m1 e1, .fin n2 m2 e2 => some (addFin n1 m1 e1 n2 m2 e2)
  | .inf a, .inf b => if a = b then some (.inf a) else none
  | .inf a, .fin _ _ _ => some (.inf a)
  | .fin _ _ _, .inf b => some (.inf b)
  | .nan, _ => none
  | _, .nan => none

/-- Negation. -/
def negFl : Fl → Fl
  | .nan => .nan
  | .inf a => .inf (!a)
  | .fin n m e => .fin (!n) m e

/-- Product; `none` for an invalid operation. -/
def mulFl : Fl → Fl → Option Fl
  | .fin n1 m1 e1, .fin n2 m2 e2 => some (.fin (n1 != n2) (m1 * m2) (e1 + e2))
  | .inf a, .inf b => some (.inf (a != b))
  | .inf a, .fin n m _ => if m = 0 then none else some (.inf (a != n))
  | .fin n m _, .inf b => if m = 0 then none else some (.inf (n != b))
  | .nan, _ => none
  | _, .nan => none

/-- Quotient to enough bits for any rounding here, the last bit saying that something is left; `none` for an invalid operation. -/
def divFl : Fl → Fl → Option Fl
  | .fin n1 m1 e1, .fin n2 m2 e2 =>
    if m2 = 0 then (if m1 = 0 then none else some (.inf (n1 != n2)))
    else
      let k := m2.log2 + 60
      let q := m1 * 2 ^ k / m2
      some (.fin (n1 != n2) (2 * q + (if m1 * 2 ^ k % m2 = 0 then 0 else 1)) (e1 - e2 - k - 1))
  | .inf _, .inf _ => none
  | .inf a, .fin n _ _ => some (.inf (a != n))
  | .fin n _ _, .inf b => some (.fin (n != b) 0 0)
  | .nan, _ => none
  | _, .nan => none

/-- Integer square root by bits, from bit k down. -/
def isqrt (n : Nat) : Nat → Nat → Nat
  | 0, r => r
  | k + 1, r => if (r + 2 ^ k) * (r + 2 ^ k) ≤ n then isqrt n k (r + 2 ^ k) else isqrt n k r

/-- Square root to enough bits for any rounding here, the last bit saying that something is left. -/
def sqrtFl : Fl → Option Fl
  | .fin n m e =>
    if m = 0 then some (.fin n 0 0)
    else if n then none
    else
      let m' := if e % 2 = 0 then m * 2 ^ 130 else m * 2 ^ 131
      let e' := if e % 2 = 0 then e - 130 else e - 131
      let r := isqrt m' 100 0
      some (.fin false (2 * r + (if r * r = m' then 0 else 1)) (e' / 2 - 1))
  | .inf false => some (.inf false)
  | .inf true => none
  | .nan => none

/-- a < b of numbers that are no NaN. -/
def ltFl : Fl → Fl → Bool
  | .fin n1 m1 e1, .fin n2 m2 e2 => (match addFin n1 m1 e1 (!n2) m2 e2 with | .fin n m _ => n && m != 0 | _ => false)
  | .inf a, .inf b => a && !b
  | .inf a, .fin _ _ _ => a
  | .fin _ _ _, .inf b => !b
  | _, _ => false

/-- a = b of numbers that are no NaN; −0 equals +0. -/
def eqFl : Fl → Fl → Bool
  | .fin n1 m1 e1, .fin n2 m2 e2 => (match addFin n1 m1 e1 (!n2) m2 e2 with | .fin _ m _ => m == 0 | _ => false)
  | .inf a, .inf b => a == b
  | _, _ => false

/-! ### The vector unit's results (R299 to R305) -/

/-- A code as the mode reads it: in fast mode a subnormal reads as zero of the same sign (R303). -/
def readCode (f : Nat) (strict : Bool) (c : Nat) : Nat := if !strict && isSub f c then c - magOf f c else c

/-- A result code as the mode writes it (R303). -/
def writeCode (f : Nat) (strict : Bool) (c : Nat) : Nat := if !strict && isSub f c then c - magOf f c else c

/-- The default NaN (R300). -/
def defNaN (f : Nat) : Nat := (fmtNonfin f).1

/-- A NaN with its quiet bit set (R300). -/
def quiet (f c : Nat) : Nat := c ||| 2 ^ (fmtMant f - 1)

/-- The NaN that an operation returns: in strict mode the first NaN operand, quiet (R300); in fast mode the default NaN (R303). -/
def nanOf (f : Nat) (strict : Bool) (xs : List Nat) : Nat :=
  if strict then (match xs.find? (isNaN f) with | some x => quiet f x | none => defNaN f) else defNaN f

/-- The code of an exact result, or of an invalid operation (R299, R300, R303). -/
def codeOf (f : Nat) (strict : Bool) : Option Fl → Nat
  | some (.fin n m e) => writeCode f strict (ieeeRound f n m e)
  | some (.inf n) => withSign f n (fmtInf f)
  | _ => defNaN f

/-- One operation on codes of a format: NaNs first, then the exact result rounded once (R299 to R303). -/
def fpOp (f : Nat) (strict : Bool) (xs : List Nat) (g : List Fl → Option Fl) : Nat :=
  if xs.any (isNaN f) then nanOf f strict xs
  else codeOf f strict (g (xs.map (fun x => decodeFl f (readCode f strict x))))

def fpAdd (f : Nat) (st : Bool) (a b : Nat) : Nat := fpOp f st [a, b] (fun v => addFl (v.getD 0 .nan) (v.getD 1 .nan))
def fpSub (f : Nat) (st : Bool) (a b : Nat) : Nat := fpOp f st [a, b] (fun v => addFl (v.getD 0 .nan) (negFl (v.getD 1 .nan)))
def fpMul (f : Nat) (st : Bool) (a b : Nat) : Nat := fpOp f st [a, b] (fun v => mulFl (v.getD 0 .nan) (v.getD 1 .nan))
def fpDiv (f : Nat) (st : Bool) (a b : Nat) : Nat := fpOp f st [a, b] (fun v => divFl (v.getD 0 .nan) (v.getD 1 .nan))
def fpSqrt (f : Nat) (st : Bool) (a : Nat) : Nat := fpOp f st [a] (fun v => sqrtFl (v.getD 0 .nan))
/-- a × b + c with one rounding. -/
def fpFma (f : Nat) (st : Bool) (a b c : Nat) : Nat :=
  fpOp f st [a, b, c] (fun v => (mulFl (v.getD 0 .nan) (v.getD 1 .nan)).bind (fun p => addFl p (v.getD 2 .nan)))

/-- The smaller (or larger) operand; NaN-propagating. Equal operands: in strict mode −0 < +0; in fast mode va (R299, R303). -/
def fpMin (f : Nat) (st : Bool) (mx : Bool) (a b : Nat) : Nat :=
  if isNaN f a || isNaN f b then nanOf f st [a, b]
  else
    let a' := readCode f st a
    let b' := readCode f st b
    let x := decodeFl f a'
    let y := decodeFl f b'
    if eqFl x y then (if st && signOf f b' && !mx then b' else if st && signOf f a' && mx then b' else a')
    else if ltFl x y != mx then a' else b'

/-- The comparisons of CC (R156) on codes of a floating-point format. -/
def fpCmp (f : Nat) (st : Bool) (cc a b : Nat) : Bool :=
  let un := isNaN f a || isNaN f b
  let x := decodeFl f (readCode f st a)
  let y := decodeFl f (readCode f st b)
  match cc with
  | 0 => !un && eqFl x y
  | 1 => un || !eqFl x y
  | 2 => !un && ltFl x y
  | 3 => !un && (ltFl x y || eqFl x y)
  | 4 => !un && ltFl y x
  | 5 => !un && (ltFl y x || eqFl x y)
  | 6 => un
  | _ => !un

/-- convertFormat of a NaN: the sign and the high-order payload bits that fit, quiet; the default NaN with the sign when that payload is zero (R300). -/
def nanConv (f g c : Nat) : Nat :=
  let pl := c % 2 ^ (fmtMant f - 1)
  let pg := if fmtMant f ≤ fmtMant g then pl * 2 ^ (fmtMant g - fmtMant f) else pl / 2 ^ (fmtMant f - fmtMant g)
  withSign g (signOf f c) (fmtInf g + 2 ^ (fmtMant g - 1) + pg)

/-- Conversion between floating-point formats (R299, R300, R303). -/
def fpConv (f g : Nat) (st : Bool) (c : Nat) : Nat :=
  if isNaN f c then (if st then nanConv f g c else defNaN g)
  else codeOf g st (some (decodeFl f (readCode f st c)))

/-- An integer from an n-bit two's complement code, converted to a floating-point format under RNE (R299). -/
def fpFromInt (g : Nat) (st : Bool) (n c : Nat) : Nat :=
  codeOf g st (some (.fin (sx n c < 0) (sx n c).natAbs 0))

/-- m × 2^e rounded to the nearest integer, ties to even. -/
def roundInt (m : Nat) (e : Int) : Nat :=
  let p := inUlps m e 0
  p.1 + (takesHi .rne p.1 p.2.1 p.2.2).toNat

/-- Conversion to an n-bit signed integer: 0 for a NaN, the nearer end outside the range (R301, R303). -/
def fpToInt (f : Nat) (st : Bool) (n c : Nat) : Nat :=
  match decodeFl f (readCode f st c) with
  | .nan => 0
  | .inf neg => if neg then 2 ^ (n - 1) else 2 ^ (n - 1) - 1
  | .fin neg m e =>
    let r := roundInt m e
    if neg then (if 2 ^ (n - 1) ≤ r then 2 ^ (n - 1) else (2 ^ n - r) % 2 ^ n) else min r (2 ^ (n - 1) - 1)

end Sys2Proof.Machine
end

