-- ==== Sys2Proof/Machine/Scalar.lean ====
section
/-! DEFINITION. Scalar register, scalar immediate and scalar memory instructions (R138 to R144). -/

namespace Sys2Proof.Machine

/-- Vector mode in force for the run (R118, R140). -/
def strictOf (s : State) (c : Nat) : Bool := (s.core c).vmode

/-- A scalar register instruction: sd takes f of sa, sb, sc and the mode (R138). -/
def scalarOpEff (c : CoreId) (f : Bool → Word → Word → Word → Word) (w : Word) (s : State) : Eff :=
  let k := s.core c.val
  doneS c.val (bits w 49 45) (f (strictOf s c.val) (readS k (bits w 44 40)) (readS k (bits w 39 35)) (readS k (bits w 34 30))) s

/-- A scalar register instruction by its OP. -/
def scalarReg (c : CoreId) (op : Nat) (f : Bool → Word → Word → Word → Word) (s : State) : Res :=
  .next (issue c.val 2 [op] (scalarOpEff c f) s)

/-- 1 or 0 as a word. -/
def boolW (b : Bool) : Word := if b then 1 else 0

def execAdd (c : CoreId) (s : State) : Res := scalarReg c 0x00 (fun _ a b _ => a + b) s
def execSub (c : CoreId) (s : State) : Res := scalarReg c 0x01 (fun _ a b _ => a - b) s
def execAnd (c : CoreId) (s : State) : Res := scalarReg c 0x02 (fun _ a b _ => a &&& b) s
def execOr (c : CoreId) (s : State) : Res := scalarReg c 0x03 (fun _ a b _ => a ||| b) s
def execXor (c : CoreId) (s : State) : Res := scalarReg c 0x04 (fun _ a b _ => a ^^^ b) s
def execShl (c : CoreId) (s : State) : Res := scalarReg c 0x05 (fun _ a b _ => a <<< (b.toNat % 64)) s
def execShr (c : CoreId) (s : State) : Res := scalarReg c 0x06 (fun _ a b _ => a >>> (b.toNat % 64)) s
def execSra (c : CoreId) (s : State) : Res := scalarReg c 0x07 (fun _ a b _ => a.sshiftRight (b.toNat % 64)) s
def execMul (c : CoreId) (s : State) : Res := scalarReg c 0x08 (fun _ a b _ => a * b) s
def execMulhu (c : CoreId) (s : State) : Res := scalarReg c 0x09 (fun _ a b _ => wd (a.toNat * b.toNat / 2 ^ 64)) s
def execMulhs (c : CoreId) (s : State) : Res := scalarReg c 0x0A (fun _ a b _ => BitVec.ofInt 64 (a.toInt * b.toInt / 2 ^ 64)) s
def execMin (c : CoreId) (s : State) : Res := scalarReg c 0x0B (fun _ a b _ => if a.slt b then a else b) s
def execMax (c : CoreId) (s : State) : Res := scalarReg c 0x0C (fun _ a b _ => if a.slt b then b else a) s
def execMinu (c : CoreId) (s : State) : Res := scalarReg c 0x0D (fun _ a b _ => if a.ult b then a else b) s
def execMaxu (c : CoreId) (s : State) : Res := scalarReg c 0x0E (fun _ a b _ => if a.ult b then b else a) s
def execSlt (c : CoreId) (s : State) : Res := scalarReg c 0x0F (fun _ a b _ => boolW (a.slt b)) s
def execSltu (c : CoreId) (s : State) : Res := scalarReg c 0x10 (fun _ a b _ => boolW (a.ult b)) s
def execSeq (c : CoreId) (s : State) : Res := scalarReg c 0x11 (fun _ a b _ => boolW (a == b)) s
def execSel (c : CoreId) (s : State) : Res := scalarReg c 0x12 (fun _ a b d => if d = 0 then b else a) s

/-- An FP64 result from codes (R140). -/
def fpD (f : Bool → Nat → Nat → Nat → Nat) (st : Bool) (a b d : Word) : Word := wd (f st a.toNat b.toNat d.toNat)
/-- An FP32 result from bits [31:0], zero-extended (R138). -/
def fpF (f : Bool → Nat → Nat → Nat → Nat) (st : Bool) (a b d : Word) : Word :=
  wd (f st (a.toNat % 2 ^ 32) (b.toNat % 2 ^ 32) (d.toNat % 2 ^ 32))

def execFaddD (c : CoreId) (s : State) : Res := scalarReg c 0x20 (fpD (fun st a b _ => fpAdd 9 st a b)) s
def execFsubD (c : CoreId) (s : State) : Res := scalarReg c 0x21 (fpD (fun st a b _ => fpSub 9 st a b)) s
def execFmulD (c : CoreId) (s : State) : Res := scalarReg c 0x22 (fpD (fun st a b _ => fpMul 9 st a b)) s
def execFmaD (c : CoreId) (s : State) : Res := scalarReg c 0x23 (fpD (fun st a b d => fpFma 9 st a b d)) s
def execFaddF (c : CoreId) (s : State) : Res := scalarReg c 0x24 (fpF (fun st a b _ => fpAdd 8 st a b)) s
def execFsubF (c : CoreId) (s : State) : Res := scalarReg c 0x25 (fpF (fun st a b _ => fpSub 8 st a b)) s
def execFmulF (c : CoreId) (s : State) : Res := scalarReg c 0x26 (fpF (fun st a b _ => fpMul 8 st a b)) s
def execFmaF (c : CoreId) (s : State) : Res := scalarReg c 0x27 (fpF (fun st a b d => fpFma 8 st a b d)) s
def execFcvtFD (c : CoreId) (s : State) : Res := scalarReg c 0x28 (fpD (fun st a _ _ => fpConv 9 8 st a)) s
def execFcvtDF (c : CoreId) (s : State) : Res := scalarReg c 0x29 (fpF (fun st a _ _ => fpConv 8 9 st a)) s
def execFcvtID (c : CoreId) (s : State) : Res := scalarReg c 0x2A (fpD (fun st a _ _ => fpToInt 9 st 64 a)) s
def execFcvtDI (c : CoreId) (s : State) : Res := scalarReg c 0x2B (fpD (fun st a _ _ => fpFromInt 9 st 64 a)) s
def execFltD (c : CoreId) (s : State) : Res := scalarReg c 0x2C (fpD (fun st a b _ => (fpCmp 9 st 2 a b).toNat)) s
def execFeqD (c : CoreId) (s : State) : Res := scalarReg c 0x2D (fpD (fun st a b _ => (fpCmp 9 st 0 a b).toNat)) s

/-! ### Scalar immediate (R142) -/

/-- IMM sign-extended to 64 bits (R142). -/
def immW (w : Word) : Word := BitVec.ofInt 64 (sx 32 (bits w 31 0))

/-- A scalar immediate instruction: sd takes f of sa and the word's IMM field. -/
def scalarImm (c : CoreId) (op : Nat) (f : Word → Word → Word) (s : State) : Res :=
  .next (issue c.val 3 [op] (fun w t => doneS c.val (bits w 49 45) (f (readS (t.core c.val) (bits w 44 40)) w) t) s)

def execAddi (c : CoreId) (s : State) : Res := scalarImm c 0x00 (fun a w => a + immW w) s
def execAndi (c : CoreId) (s : State) : Res := scalarImm c 0x01 (fun a w => a &&& immW w) s
def execOri (c : CoreId) (s : State) : Res := scalarImm c 0x02 (fun a w => a ||| immW w) s
def execXori (c : CoreId) (s : State) : Res := scalarImm c 0x03 (fun a w => a ^^^ immW w) s
def execShli (c : CoreId) (s : State) : Res := scalarImm c 0x04 (fun a w => a <<< bits w 5 0) s
def execShri (c : CoreId) (s : State) : Res := scalarImm c 0x05 (fun a w => a >>> bits w 5 0) s
def execSrai (c : CoreId) (s : State) : Res := scalarImm c 0x06 (fun a w => a.sshiftRight (bits w 5 0)) s
def execSlti (c : CoreId) (s : State) : Res := scalarImm c 0x07 (fun a w => boolW (a.slt (immW w))) s
def execSltui (c : CoreId) (s : State) : Res := scalarImm c 0x08 (fun a w => boolW (a.ult (immW w))) s
def execLi (c : CoreId) (s : State) : Res := scalarImm c 0x09 (fun _ w => immW w) s
def execLih (c : CoreId) (s : State) : Res := scalarImm c 0x0A (fun a w => wd (a.toNat % 2 ^ 32 + bits w 31 0 * 2 ^ 32)) s

/-! ### Scalar memory (R143, R144) -/

/-- sa + OFS, modulo 2^64 (R143). -/
def memAddr (a w : Word) : Nat := (a + BitVec.ofInt 64 (sx 20 (bits w 19 0))).toNat

/-- Bytes of a scalar load by its OP (R143). -/
def ldSize (op : Nat) : Nat := 2 ^ (op / 2)

/-- The checks of a scalar access (R144): the cause of the fault, the address range first where both fail (DEDUCED). -/
def accessFault (a size : Nat) : Option Nat :=
  if 0x80000 < a + size then some 0x0011 else if a % size ≠ 0 then some 0x0012 else none

/-- A load: the bytes at the address, sign- or zero-extended (R143). -/
def loadValue (op : Nat) (d : Word) (a : Nat) : Word :=
  let n := 8 * ldSize op
  let v := (d.toNat >>> (8 * (a % 8))) % 2 ^ n
  if op % 2 = 1 ∨ op = 6 then wd v else BitVec.ofInt 64 (sx n v)

/-- LD (R143, R144, R76, R77, R85). DESIGN CHOICE (entry 94): a range or alignment fault is taken at once in the transfer window too; no rule orders it and the stall of R85. -/
def ldEff (c : Nat) (w : Word) (s : State) : Eff :=
  let a := memAddr (readS (s.core c) (bits w 44 40)) w
  match accessFault a (ldSize (iOp w)) with
  | some cause => .trap 0 cause (wd (corePc s c)) s
  | none =>
    if !ownsBanks s c then .stall
    else match readWords c [a / 8] s with
      | .bad cause i t => .trap 0 cause (wd i) t
      | .ok ws t => doneS c (bits w 49 45) (loadValue (iOp w) (ws.getD 0 0) a) (watch c 1 [a / 8] t)

def execLd (c : CoreId) (s : State) : Res := .next (issue c.val 4 [0, 1, 2, 3, 4, 5, 6] (ldEff c.val) s)

/-- The word with `size` bytes at byte b replaced by the low bytes of x. -/
def mergeBytes (d x : Word) (b size : Nat) : Word := setBits d (8 * (b + size) - 1) (8 * b) x.toNat

/-- ST: the low bytes of SD, a narrower store by read, merge and write (R68, R143, R144). DESIGN CHOICE (entry 94): a range or alignment fault is taken at once in the transfer window too. -/
def stEff (c : Nat) (w : Word) (s : State) : Eff :=
  let a := memAddr (readS (s.core c) (bits w 44 40)) w
  let size := 2 ^ (iOp w - 8)
  let x := readS (s.core c) (bits w 49 45)
  match accessFault a size with
  | some cause => .trap 0 cause (wd (corePc s c)) s
  | none =>
    if !ownsBanks s c then .stall
    else if size = 8 then .done (watch c 2 [a / 8] (writeWord c (a / 8) ⟨x, false⟩ s))
    else match readWords c [a / 8] s with
      | .bad cause i t => .trap 0 cause (wd i) t
      | .ok ws t => .done (watch c 2 [a / 8] (writeWord c (a / 8) ⟨mergeBytes (ws.getD 0 0) x (a % 8) size, false⟩ t))

def execSt (c : CoreId) (s : State) : Res := .next (issue c.val 4 [8, 9, 10, 11] (stEff c.val) s)

end Sys2Proof.Machine
end

