-- ==== Sys2Proof/Machine/Control.lean ====
section
/-! DEFINITION. Control, system and synchronization instructions, and the issue of stream instructions (R145 to R149, R188 to R204). -/

namespace Sys2Proof.Machine

/-! ### Control (R145 to R147) -/

/-- The comparison of a branch by its OP (R145). -/
def branchTaken (op : Nat) (a b : Word) : Bool :=
  match op with
  | 0 => a == b
  | 1 => a != b
  | 2 => a.slt b
  | 3 => !a.slt b
  | 4 => a.ult b
  | _ => !a.ult b

def branchEff (c : Nat) (w : Word) (s : State) : Eff :=
  let k := s.core c
  if branchTaken (iOp w) (readS k (bits w 49 45)) (readS k (bits w 44 40)) then .jump s (bits w 12 0) else .done s

def execBranch (c : CoreId) (s : State) : Res := .next (issue c.val 0 [0, 1, 2, 3, 4, 5] (branchEff c.val) s)

def execJmp (c : CoreId) (s : State) : Res := .next (issue c.val 0 [6] (fun w t => .jump t (bits w 12 0)) s)

/-- CALL: sd = PC + 1, control goes to TGT. -/
def execCall (c : CoreId) (s : State) : Res :=
  .next (issue c.val 0 [7] (fun w t =>
    .jump (t.modCore c.val (writeS (bits w 39 35) (wd (corePc t c.val + 1)))) (bits w 12 0)) s)

/-- JR: control goes to sa[12:0]; sa[63:13] ≠ 0 is the PC-overflow fault (R147). -/
def execJr (c : CoreId) (s : State) : Res :=
  .next (issue c.val 0 [8] (fun w t =>
    let a := readS (t.core c.val) (bits w 49 45)
    if bits a 63 13 ≠ 0 then .trap 0 0x0013 (wd (corePc t c.val)) t else .jump t (bits a 12 0)) s)

/-- DBNZ: sa = sa − 1, and a branch where the new value is not 0. -/
def execDbnz (c : CoreId) (s : State) : Res :=
  .next (issue c.val 0 [9] (fun w t =>
    let a := readS (t.core c.val) (bits w 49 45) - 1
    let t1 := t.modCore c.val (writeS (bits w 49 45) a)
    if a ≠ 0 then .jump t1 (bits w 12 0) else .done t1) s)

/-! ### System (R148, R149) -/

def execNop (c : CoreId) (s : State) : Res := .next (issue c.val 1 [0] (fun _ t => .done t) s)
def execStop (c : CoreId) (s : State) : Res := .next (issue c.val 1 [1] (fun _ t => .halt t 4) s)
def execBrk (c : CoreId) (s : State) : Res := .next (issue c.val 1 [2] (fun _ t => .halt t 5) s)

/-- The system registers as SYS.RD reads them (R47, R48, R149). -/
def sysReg (s : State) (c n : Nat) : Word :=
  match n with
  | 0 => s.rd (rCoreStep c)
  | 1 => wd (s.core c).mb.toNat
  | 2 => s.rd (rCoreId c)
  | _ => wd (s.fld (rCoreBusy c) 47 0)

def execSysRd (c : CoreId) (s : State) : Res :=
  .next (issue c.val 1 [3] (fun w t => doneS c.val (bits w 49 45) (sysReg t c.val (bits w 3 0)) t) s)

/-- SYS.WR: sys.MB takes sa, truncated (R148, R149). -/
def execSysWr (c : CoreId) (s : State) : Res :=
  .next (issue c.val 1 [4] (fun w t =>
    let a := readS (t.core c.val) (bits w 44 40)
    .done (t.modCore c.val (fun k => { k with mb := BitVec.ofNat 16 a.toNat }))) s)

/-- Every earlier tensor instruction has completed (R148). -/
def tensorIdle (s : State) (c : Nat) : Bool := (s.core c).arrayq.isEmpty
/-- Every earlier SEND has read its source data (R148). -/
def sendsRead (s : State) (c : Nat) : Bool := (s.core c).sendq.isEmpty

def execFenceT (c : CoreId) (s : State) : Res :=
  .next (issue c.val 1 [5] (fun _ t => if tensorIdle t c.val then .done t else .stall) s)
def execFenceS (c : CoreId) (s : State) : Res :=
  .next (issue c.val 1 [6] (fun _ t => if sendsRead t c.val then .done t else .stall) s)
def execFence (c : CoreId) (s : State) : Res :=
  .next (issue c.val 1 [7] (fun _ t => if tensorIdle t c.val && sendsRead t c.val then .done t else .stall) s)

/-! ### Synchronization (R202 to R204) -/

/-- The generation g of a synchronization instruction (R202). -/
def syncGen (k : Core) (w : Word) : Nat := if bit w 43 then (readS k (bits w 42 38)).toNat % 65536 else bits w 15 0

/-- A tensor instruction reads or writes the core store: TLD or TEMIT. -/
def usesStore (a : ArrOp) : Bool := iOp a.word == 0 || iOp a.word == 3

/-- Every outstanding core-store access of the array is complete (R103, R204, R864): in the compute window no TLD or TEMIT is left in the queue; in the transfer window none has started. -/
def drained (s : State) (c : Nat) : Bool :=
  (s.core c).arrayq.all (fun a => !usesStore a || (!coreWindow s c && !a.started))

/-- WAIT.TOK's condition holds (R99). -/
def waitHolds (s : State) (c t g n : Nat) : Bool := s.fld (rCoreTok c t) 15 0 == g && n ≤ s.fld (rCoreTok c t) 23 16

/-- WAIT.TOK (R99, R100, R103, R203). DESIGN CHOICE (entry 83): while it still completes outstanding store accesses the instruction stalls in STATE 1, and STATE 2 begins with the wait itself; no rule gives the STATE of that drain. -/
def waitEff (c : Nat) (w : Word) (s : State) : Eff :=
  let t := bits w 49 44
  let g := syncGen (s.core c) w
  let n := bits w 37 30
  if !drained s c then .stall
  else if waitHolds s c t g n then .done s
  else
    let s1 := s.modCore c (fun k => { k with wait := some (t, g, n), longRec := false })
    if waitRefilled s1 c t then .trap 5 0x0008 (wd (t * 65536 + s.fld (rCoreTok c t) 15 0)) s
    else .wait (s1.setFld (rCoreStat c) 2 0 2)

def execWaitTok (c : CoreId) (s : State) : Res := .next (issue c.val 10 [0] (waitEff c.val) s)

/-- The wait in progress completes: the core goes on after the WAIT.TOK, and late admission ends (R99, R106). A refilled buffer found at this point is the error of R100. -/
def execWaitTokComplete (c : CoreId) (s : State) : Res :=
  match (s.core c.val).wait with
  | none => .next s
  | some (t, g, n) =>
    if coreSt s c.val != 2 then .next s
    else if waitHolds s c.val t g n then
      let s1 := (s.setFld (rCoreStat c.val) 2 0 1).setFld (rCoreStat c.val) 4 4 0
      .next (finish c.val s (.done (s1.modCore c.val (fun k => { k with wait := none }))))
    else if waitRefilled s c.val t then
      .next (coreFault c.val 5 0x0008 (wd (t * 65536 + s.fld (rCoreTok c.val t) 15 0)) s)
    else .next s

def execClrTok (c : CoreId) (s : State) : Res :=
  .next (issue c.val 10 [1] (fun w t => .done (t.setFld (rCoreTok c.val (bits w 49 44)) 23 16 0)) s)

/-- SIG.TOK: one local arrival of generation g (R98, R202). -/
def execSigTok (c : CoreId) (s : State) : Res :=
  .next (issue c.val 10 [2] (fun w t => .done (tokArrive c.val (bits w 49 44) (syncGen (t.core c.val) w) t)) s)

/-- BAR.COH: after the drain the core arrives and waits in STATE 3; PC stands after it (R90, R122, R204). At index 8,191 it arrives and then faults (R214). -/
def barEff (c : Nat) (s : State) : Eff :=
  if !drained s c || (!coreWindow s c && !sendsRead s c) then .stall
  else
    let s1 := s.modCore c (fun k => { k with arrived := true, longRec := false })
    if corePc s c = 8191 then .done s1
    else .wait ((setPc c (corePc s c + 1) s1).setFld (rCoreStat c) 2 0 3)

def execBarCoh (c : CoreId) (s : State) : Res := .next (issue c.val 10 [3] (fun _ t => barEff c.val t) s)

/-! ### Stream instructions at issue (R188 to R201) -/

/-- LEN + 1 lines of a transfer (R191). -/
def sctlLines (w : Word) : Nat := bits w 33 24 + 1

/-- Offset of entry n of a field's multicast table (R336). -/
def mcEntry (f n : Nat) : Nat := fieldBase f + 0x8000 + 32 * n

/-- A multicast entry is valid (R337). -/
def mcValid (w0 w1 : Word) : Bool :=
  bit w0 63 && bits w0 59 58 != 0 && bits w0 8 0 ≤ bits w0 17 9 && bits w0 25 18 ≤ bits w0 33 26 &&
  bits w1 8 0 ≤ bits w1 17 9 && bits w1 25 18 ≤ bits w1 33 26

/-- The fault of a SEND or SEND.MC at issue (R192, R193, R201, R212). DESIGN CHOICE (entry 84): the address range first, then the alignment, then the multicast entry; no rule orders them. -/
def sendFault (s : State) (c : Nat) (w : Word) : Option Nat :=
  let k := s.core c
  let src := (readS k (bits w 27 23)).toNat
  let dst := (readS k (bits w 22 18)).toNat
  let n := 64 * sctlLines (readS k (bits w 17 13))
  let mc := iOp w == 1
  let dt := bits w 49 48
  if 0x80000 < src + n || ((mc || dt == 0) && 0x80000 < dst + n) || (!mc && dt == 1 && 0x2000000 < dst + n) then some 0x0011
  else if src % 64 ≠ 0 || ((mc || dt != 1) && dst % 64 ≠ 0) then some 0x0012
  else if mc && !mcValid (s.rd (mcEntry (fieldOf c) (bits w 49 40))) (s.rd (mcEntry (fieldOf c) (bits w 49 40) + 8)) then some 0x0014
  else none

/-- SEND and SEND.MC: the checks, then an entry of the send queue; a full queue stalls (R134, R197). DESIGN CHOICE (entry 84): the faults found at issue are recorded with UNIT 5, the router and local port's; no rule names the unit. -/
def sendEff (c : Nat) (w : Word) (s : State) : Eff :=
  match sendFault s c w with
  | some cause => .trap 5 cause (wd (corePc s c)) s
  | none =>
    if 8 ≤ (s.core c).sendq.length then .stall
    else
      let k := s.core c
      let op : SendOp := { word := w, ssrc := readS k (bits w 27 23), sdst := readS k (bits w 22 18), sctl := readS k (bits w 17 13) }
      .done (s.modCore c (fun k => { k with sendq := k.sendq ++ [op] }))

def execSend (c : CoreId) (s : State) : Res := .next (issue c.val 9 [0] (sendEff c.val) s)
def execSendMc (c : CoreId) (s : State) : Res := .next (issue c.val 9 [1] (sendEff c.val) s)

end Sys2Proof.Machine
end

