-- ==== Sys2Proof/Machine/CoreRegs.lean ====
section
/-! DEFINITION. The registers of the core window that act when written: CORE_ID (R52, R697, R717), CORE_CTL (R53, R89, R120 to R125), CORE_ERR_CLR (R626, R643). -/

namespace Sys2Proof.Machine

def rDisFuse (f i : Nat) : Nat := fieldBase f + 0x880 + 8 * i
def rFndChk (f : Nat) : Nat := fieldBase f + 0xA00
def rFinder (f w : Nat) : Nat := fieldBase f + 0x1000 + 8 * w

/-- Bit of a core in a 960-bit map of its field at `base` (R329). -/
def mapBit (s : State) (base : Nat → Nat → Nat) (c : Nat) : Bool :=
  s.flag (base (fieldOf c) (coreIdx c / 64)) (coreIdx c % 64)

/-- The core-disable fuse is blown (R696, R697). -/
def coreDisabled (s : State) (c : Nat) : Bool := mapBit s rDisFuse c

/-! ### Finder table (R714 to R717) -/

/-- Entry i of a field's Finder table (R714). -/
def finderEntry (s : State) (f i : Nat) : Nat := nbits (s.rd (rFinder f (i / 2))).toNat (32 * (i % 2) + 31) (32 * (i % 2))
/-- V of an entry (R714). -/
def feV (e : Nat) : Bool := e.testBit 31
/-- The core that an entry names (R714). -/
def feCore (f e : Nat) : Nat := coreAt (32 * (f % 14) + nbits e 4 0) (30 * (f / 14) + nbits e 9 5)

/-- The valid entries of a field's table: index and named core. -/
def finderValid (s : State) (f : Nat) : List (Nat × Nat) :=
  (List.range 896).filterMap (fun i => let e := finderEntry s f i; if feV e then some (i, feCore f e) else none)

/-- The mapping of one core disagrees with the table (R717). -/
def mismatched (s : State) (f : Nat) (fv : List (Nat × Nat)) (c : Nat) : Bool :=
  match fv.find? (fun p => p.2 == c) with
  | some p => !coreMapped s c || s.fld (rCoreId c) 25 17 != 32 * (f % 14) + p.1 % 32 || s.fld (rCoreId c) 33 26 != 28 * (f / 14) + p.1 / 32
  | none => coreMapped s c

/-- FLD_FND_CHK.MISMATCH is counted again (R717). -/
def recount (f : Nat) (s : State) : State :=
  s.setFld (rFndChk f) 9 0 ((coresOf f).filter (mismatched s f (finderValid s f))).length

/-! ### Starting, resuming and halting (R53, R89, R120 to R125) -/

/-- A start from STATE 0 or 7 (or by a field start, from any): PC, VMODE, windows and BAR_EPOCH as a run begins (R89, R123, R124). -/
def startCore (c : Nat) (s : State) : State :=
  let cohort := s.flag (rCoreId c) 34
  let s1 := s.setFld (rCoreStat c) 47 32 0
  let s2 := setPc c (s.fld (rCoreCtl c) 28 16) s1
  let s3 := s2.setFld (rCoreStat c) 4 0 (1 + (if cohort then 0 else 8))
  let s4 := s3.setFld (rCoreCtl c) 2 0 1
  s4.modCore c (fun k => { k with vmode := s.flag (rCoreCtl c) 3, arrived := false, haltTo := none, wait := none, longRec := false })

/-- A resume from STATE 4, 5 or 6: to STATE 3 when the core has arrived and the barrier has not released, else to STATE 1 (R122, R123). -/
def resumeCore (c : Nat) (s : State) : State :=
  let s1 := s.setFld (rCoreStat c) 2 0 (if (s.core c).arrived then 3 else 1)
  (s1.setFld (rCoreCtl c) 0 0 1).modCore c (fun k => { k with longRec := false })

/-- A write of RUN = 1 (R41, R123, R697). -/
def runCore (c : Nat) (s : State) : State :=
  let st := coreSt s c
  if coreDisabled s c || !computeOn s (fieldOf c) then s
  else if st = 0 ∨ st = 7 then startCore c s
  else if 4 ≤ st then resumeCore c s
  else s

/-- HALT = 1, or RUN = 0 of a running core (R53, R120). -/
def haltCore (c : Nat) (s : State) : State := if coreRunning s c then reqHalt c 4 (s.setFld (rCoreCtl c) 1 1 1) else s

/-- STEP1 = 1 (R41, R53): in STATE 4, 5 or 6 one instruction executes, RUN staying 0. DESIGN CHOICE (entry 82): a core that halted after its BAR.COH arrived returns to STATE 3, and the release completes that BAR.COH as the one instruction; R122 speaks of resuming alone. -/
def stepCore (c : Nat) (s : State) : State :=
  let st := coreSt s c
  if computeOn s (fieldOf c) = true ∧ (st = 4 ∨ st = 5 ∨ st = 6) then (s.setFld (rCoreCtl c) 2 2 1).setFld (rCoreStat c) 2 0 (if (s.core c).arrived then 3 else 1)
  else s

/-- A software write of CORE_CTL (R53): the stored fields, then RUN, HALT and STEP1. DESIGN CHOICE (entry 82): of RUN = 1 and STEP1 = 1 in one write in STATE 4, 5 or 6, RUN resumes the core and STEP1 is ignored; no rule says which acts. -/
def coreCtlWrite (c : Nat) (v : Word) (s : State) : State :=
  let s1 := (s.setFld (rCoreCtl c) 28 16 (bits v 28 16)).setFld (rCoreCtl c) 4 3 (bits v 4 3)
  let st := coreSt s c
  let s2 := if bit v 0 then runCore c s1 else if coreDisabled s c then s1 else haltCore c s1
  let s3 := if bit v 1 then (if 1 ≤ st ∧ st ≤ 3 then haltCore c s2 else s2) else s2
  if bit v 2 && !bit v 0 && 4 ≤ st && st ≤ 6 then stepCore c s3 else s3

/-- A software write of CORE_ID (R52, R62, R63, R697, R717). -/
def coreIdWrite (c : Nat) (v : Word) (s : State) : State :=
  let s1 := plainWrite s (rCoreId c) (if coreDisabled s c then setBit v 35 false else v)
  recount (fieldOf c) s1

/-! ### Clearing error records (R626, R643) -/

/-- The night-log record of an accepted clear (R626, R633). -/
def nlogCleared (d : Dom) (w0 w3 : Word) (s : State) : State :=
  nlog 2 (recClass w0) (dkind d) (recUnit w0) (bits w0 47 32) (bits w0 31 16) (locOf d) w3 0 0 s

/-- Four words of a record moved. -/
def recWords (s : State) (off : Nat) : List Word := [s.rd off, s.rd (off + 8), s.rd (off + 16), s.rd (off + 24)]

/-- NSEQ of a record (R620). -/
def recNseq (s : State) (off : Nat) : Nat := s.fld (off + 8) 63 32

/-- ERR_CLR OP 0b01 (R626). -/
def clearAct (d : Dom) (nseq : Nat) (s : State) : State :=
  let b := errBase d
  if recV (s.rd (b + 8)) && recNseq s (b + 8) == nseq then
    let s1 := wr4 (b + 8) (recWords s (b + 0x28)) s
    errRefresh d (nlogCleared d (s.rd (b + 8)) (s.rd (b + 0x20)) (wr4 (b + 0x28) [0, 0, 0, 0] s1))
  else s.satFld b 7 0 1

/-- ERR_CLR OP 0b10 (R626). -/
def clearPend (d : Dom) (nseq : Nat) (s : State) : State :=
  let b := errBase d
  if recV (s.rd (b + 0x28)) && recNseq s (b + 0x28) == nseq then
    errRefresh d (nlogCleared d (s.rd (b + 0x28)) (s.rd (b + 0x40)) (wr4 (b + 0x28) [0, 0, 0, 0] s))
  else s.satFld b 7 0 1

/-- A software write of ERR_CLR (R643). -/
def errClrWrite (d : Dom) (v : Word) (s : State) : State :=
  let op := bits v 63 62
  if op = 1 then clearAct d (bits v 31 0) s else if op = 2 then clearPend d (bits v 31 0) s else s

/-- A software write of a register of the core window, by its offset in the window (R51). -/
def coreRegWrite (c o : Nat) (v : Word) (s : State) : State :=
  if o = 0 then coreIdWrite c v s
  else if o = 8 then coreCtlWrite c v s
  else if o = 0x148 then errClrWrite (domCore c) v s
  else plainWrite s (coreWin c + o) v

end Sys2Proof.Machine
end

