-- ==== Sys2Proof/Machine/Fbc.lean ====
section
/-! DEFINITION. Felnen block compression: the codes of a chunk, their payloads, the image of a granule and its reading back (R393 to R401). -/

namespace Sys2Proof.Machine

/-- Up to a multiple of 8. -/
def roundup8 (n : Nat) : Nat := (n + 7) / 8 * 8
/-- ceil(log2 n) for n from 1. -/
def clog2 (n : Nat) : Nat := if n ≤ 1 then 0 else (n - 1).log2 + 1
/-- A chunk's elements of w bits (R396). -/
def chunkElems (w : Nat) : Nat → List Byte → List Nat
  | 0, _ => []
  | k + 1, bs => leNat (bs.take (w / 8)) :: chunkElems w k (bs.drop (w / 8))

/-- LEN of each code that represents a chunk and that ELEM permits, by code (R396 to R399). -/
def chunkCodes (elem : Nat) (bs : List Byte) : List (Nat × Nat) :=
  let w := if elem = 0 then 8 else if elem = 1 then 16 else 32
  let n := 8192 / w
  let es := chunkElems w n bs
  let units := chunkElems 256 32 bs
  let nxE := ((es.map (fun e => nbits e 30 23)).eraseDups).length
  let nxB := (bs.eraseDups).length
  [(0, 128)] ++ (if bs.all (· == 0) then [(1, 0)] else []) ++
  (if elem = 2 ∧ nxE ≤ 16 then [(2, (roundup8 (1 + nxE) + 32 * clog2 nxE + 768) / 8)] else []) ++
  (if elem ≤ 2 then [(3, (n / 8 + roundup8 ((es.filter (· != 0)).length * w / 8)) / 8)] else []) ++
  [(4, 1 + 4 * (units.filter (· != 0)).length)] ++
  (if elem = 0 ∧ nxB ≤ 16 then [(5, (roundup8 (1 + nxB) + 128 * clog2 nxB) / 8)] else [])

/-- The permitted code of smallest LEN, ties to the lower code (R399). -/
def chunkCode (elem : Nat) (bs : List Byte) : Nat × Nat :=
  (chunkCodes elem bs).foldl (fun a c => if c.2 < a.2 then c else a) (0, 128)

/-! ### Payloads (R396, R397) -/

/-- Zero bytes up to n. -/
def padTo (n : Nat) (bs : List Byte) : List Byte := bs ++ List.replicate (n - bs.length) 0
/-- The distinct values among `l`, below 256, rising. -/
def valueTable (l : List Nat) : List Nat := (List.range 256).filter (fun v => l.contains v)
/-- A dictionary and the indices into it: NX − 1, the table, zeros to a multiple of 8, and the indices in ceil(log2 NX) bits. -/
def dictPart (l : List Nat) : List Byte :=
  let t := valueTable l
  padTo (roundup8 (1 + t.length)) (leBytes 1 (t.length - 1) ++ t.flatMap (leBytes 1)) ++ packCodes (clog2 t.length) (l.map (fun v => t.idxOf v))
/-- A map of the pieces that are not zero, one bit each. -/
def keptMap (l : List Nat) : List Byte := packCodes 1 (l.map (fun v => if v = 0 then 0 else 1))

/-- Elements of a chunk (R396): their width by ELEM. -/
def elemWidth (elem : Nat) : Nat := if elem = 0 then 8 else if elem = 1 then 16 else 32

/-- The payload of a chunk under a code (R396, R397). -/
def chunkPayload (elem code : Nat) (bs : List Byte) : List Byte :=
  let w := elemWidth elem
  let es := chunkElems w (8192 / w) bs
  let units := chunkElems 256 32 bs
  match code with
  | 1 => []
  | 2 => dictPart (es.map (fun e => nbits e 30 23)) ++ packCodes 24 (es.map (fun e => nbits e 31 31 * 2 ^ 23 + nbits e 22 0))
  | 3 => keptMap es ++ (let k := (es.filter (· != 0)).flatMap (leBytes (w / 8)); padTo (roundup8 k.length) k)
  | 4 => keptMap units ++ List.replicate 4 0 ++ (units.filter (· != 0)).flatMap (leBytes 32)
  | 5 => dictPart (bs.map (·.toNat))
  | _ => bs

/-! ### The image (R393 to R395, R400) -/

/-- The header line (R394). -/
def imageHeader (elem len : Nat) : List Byte := padTo 64 (leBytes 1 1 ++ leBytes 1 (elem % 4) ++ [0, 0] ++ leBytes 4 len)

/-- The coded image of a granule's 64 chunks: header, directory, payloads, and zeros to its last sector (R393). -/
def codedImage (elem : Nat) (chunks : List (List Byte)) : List Byte :=
  let cs := chunks.map (fun bs => (chunkCode elem bs, bs))
  let pay := cs.flatMap (fun c => chunkPayload elem c.1.1 c.2)
  let all := imageHeader elem pay.length ++ cs.flatMap (fun c => leBytes 2 (c.1.1 * 2 ^ 13 + c.1.2)) ++ pay
  padTo (ceilDiv all.length 1024 * 1024) all

/-- CODE and LEN of directory entry c of an image (R395). -/
def fbcEntry (img : List Byte) (c : Nat) : Nat × Nat := let d := leNat ((img.drop (64 + 2 * c)).take 2); (nbits d 15 13, nbits d 7 0)
/-- Where the payload of chunk c begins (R393). -/
def payloadAt (img : List Byte) (c : Nat) : Nat := 192 + 8 * ((List.range c).map (fun i => (fbcEntry img i).2)).foldl (· + ·) 0

/-- LEN by the rule of a code, as a payload gives it (R396, R397). -/
def lenRule (elem code : Nat) (p : List Byte) : Nat :=
  let nx := (p.headD 0).toNat + 1
  let h := roundup8 (1 + nx)
  let n := 8192 / elemWidth elem
  match code with
  | 0 => 128
  | 1 => 0
  | 2 => (h + 32 * clog2 nx + 768) / 8
  | 3 => (n / 8 + roundup8 ((unpackCodes 1 n p).sum * elemWidth elem / 8)) / 8
  | 4 => 1 + 4 * (unpackCodes 1 32 p).sum
  | _ => (h + 128 * clog2 nx) / 8

/-- Chunk c of an image is malformed: VER, a reserved CODE, a LEN against its code's rule, or a payload beyond the image (R401). -/
def chunkMalformed (img : List Byte) (c : Nat) : Bool :=
  let e := fbcEntry img c
  let a := payloadAt img c
  (img.headD 0).toNat != 1 || 6 ≤ e.1 || img.length < a + 8 * e.2 || lenRule ((img.getD 1 0).toNat % 4) e.1 (img.drop a) != e.2

/-- The values of a dictionary part, n of them, and the bytes that it takes. -/
def dictRead (n : Nat) (p : List Byte) : List Nat × Nat :=
  let nx := (p.headD 0).toNat + 1
  let h := roundup8 (1 + nx)
  let b := clog2 nx
  ((unpackCodes b n (p.drop h)).map (fun i => (p.getD (1 + i) 0).toNat), h + n * b / 8)

/-- The pieces of k bytes that a map keeps, the others zero. -/
def keptRead (k : Nat) : List Nat → List Byte → List Byte
  | [], _ => []
  | 0 :: r, p => List.replicate k 0 ++ keptRead k r p
  | _ :: r, p => p.take k ++ keptRead k r (p.drop k)

/-- The 1,024 bytes that a payload decodes as (R396, R397). -/
def chunkDecode (elem code : Nat) (p : List Byte) : List Byte :=
  let w := elemWidth elem
  let n := 8192 / w
  match code with
  | 1 => List.replicate 1024 0
  | 2 =>
    let d := dictRead 256 p
    (d.1.zip (unpackCodes 24 256 (p.drop d.2))).flatMap (fun x => leBytes 4 (nbits x.2 23 23 * 2 ^ 31 + x.1 * 2 ^ 23 + nbits x.2 22 0))
  | 3 => keptRead (w / 8) (unpackCodes 1 n p) (p.drop (n / 8))
  | 4 => keptRead 32 (unpackCodes 1 32 p) (p.drop 8)
  | 5 => (dictRead 1024 p).1.flatMap (leBytes 1)
  | _ => p.take 1024

/-- Chunk c of a coded image; `none` where it is malformed (R401). -/
def imageChunk (img : List Byte) (c : Nat) : Option (List Byte) :=
  if chunkMalformed img c then none else some (chunkDecode ((img.getD 1 0).toNat % 4) (fbcEntry img c).1 (img.drop (payloadAt img c)))

end Sys2Proof.Machine
end

