-- ==== Sys2Proof/Machine/Store.lean ====
section
/-! DEFINITION. The store range: bytes and poison, home limbs, residency entries, pools, staging slots, Felnen block compression sizes, migration and hints (R363 to R405), memory errors (R414 to R419), and the host window (R409 to R413). -/

namespace Sys2Proof.Machine

/-! ### Bytes and words -/

/-- The canonical form of the memory list: addresses rising, and no listed byte equal to what an unlisted one reads as. -/
def Memory.wf (m : List Host.Cell) : Bool := (m.map (·.1)).Pairwise (· < ·) && m.all (fun c => c.2 != 0)

/-- One byte of the store range; an unlisted byte reads 0 (R370). -/
def memByte (s : State) (a : Nat) : Byte := tget 0 s.mem a
/-- One byte written. -/
def putByte (a : Nat) (b : Byte) (s : State) : State := { s with mem := tput 0 s.mem a b }
/-- The word at word address w with its poison bit. -/
def memWord (s : State) (w : Nat) : PWord := ⟨wd (leNat (tspan 0 s.mem (8 * w) 8)), tget false s.memX w⟩
/-- Bytes written from an address up. -/
def putBytes : Nat → List Byte → State → State
  | _, [], s => s
  | a, b :: r, s => putBytes (a + 1) r (putByte a b s)
/-- A word's poison bit set. -/
def putX (w : Nat) (x : Bool) (s : State) : State := { s with memX := tput false s.memX w x }
/-- One word written with its poison bit. -/
def putWord (w : Nat) (v : PWord) (s : State) : State := putX w v.x (putBytes (8 * w) (leBytes 8 v.d.toNat) s)
/-- Words written from a word address up. -/
def putWords : Nat → List PWord → State → State
  | _, [], s => s
  | w, v :: r, s => putWords (w + 1) r (putWord w v s)
/-- n words from a word address up. -/
def memWords (s : State) (w n : Nat) : List PWord := (List.range n).map (fun i => memWord s (w + i))

/-- Entries of a table in [a, b). -/
def tslice {α : Type} (t : Tab α) (a b : Nat) : Tab α := t.filter (fun p => a ≤ p.1 && p.1 < b)
/-- Entries of a table outside [a, b). -/
def tcut {α : Type} (t : Tab α) (a b : Nat) : Tab α := t.filter (fun p => !(a ≤ p.1 && p.1 < b))
/-- A table with the entries of another put in. -/
def tmerge {α : Type} (t u : Tab α) : Tab α := u.foldl (fun m p => tset m p.1 p.2) t
/-- The same where an unlisted key holds d. -/
def tmergeD {α : Type} [DecidableEq α] (d : α) (t u : Tab α) : Tab α := u.foldl (fun m p => tput d m p.1 p.2) t

/-! ### Home limbs and residency entries (R365 to R376) -/

/-- Bytes of a granule (R365). -/
def granule : Nat := 65536
/-- Granules of the store range. -/
def granules : Nat := 2 ^ 28

def rModHome : Nat := 0x4000
/-- Limbs in ACTIVE, rising (R366). -/
def activeLimbs (s : State) : List Nat := onesOf 8 (s.fld rModHome 47 40)
/-- Home limb of a granule; none while ACTIVE is empty (R367). -/
def homeLimb (s : State) (g : Nat) : Option Nat :=
  let a := activeLimbs s
  if a.isEmpty then none else a[g % a.length]?
/-- Local index of a granule (R367). -/
def localIndex (s : State) (g : Nat) : Nat := g / max 1 (activeLimbs s).length

def State.limb (s : State) (l : Nat) : Limb := tget Limb.reset s.limbs l
def State.modLimb (s : State) (l : Nat) (f : Limb → Limb) : State := { s with limbs := tset s.limbs l (f (s.limb l)) }

/-- An entry that nothing has written: FORM zero, ELEM opaque (R370, R398). -/
def resDefault : Word := 0x0300000000000000
/-- A granule's residency entry (R375). -/
def State.entry (s : State) (g : Nat) : Word := tget resDefault s.res g
def State.setEntry (s : State) (g : Nat) (w : Word) : State := { s with res := tput resDefault s.res g w }
def eForm (w : Word) : Nat := bits w 63 62
def eTier (w : Word) : Nat := bits w 61 61
def eBusy (w : Word) : Bool := bit w 60
def ePin (w : Word) : Nat := bits w 59 58
def eElem (w : Word) : Nat := bits w 57 56
def eSect (w : Word) : Nat := bits w 55 50
def eBase (w : Word) : Nat := bits w 29 0

/-! ### Pools (R371 to R373, R384, R402) -/

/-- Bytes of a residency slice: ceil(2^28 ÷ N) × 8, up to a multiple of 64 MiB (R373). -/
def sliceBytes (s : State) : Nat := ceilDiv (ceilDiv granules (max 1 (activeLimbs s).length) * 8) (2 ^ 26) * 2 ^ 26
/-- Sectors of the near pool of a limb in ACTIVE (R373). -/
def nearTotal (s : State) (l : Nat) : Nat := if (activeLimbs s).contains l then (2 ^ 37 - sliceBytes s - 2 ^ 28) / 1024 else 0
/-- Sectors of the vault of a limb in ACTIVE (R2, R372). -/
def vaultTotal (s : State) (l : Nat) : Nat :=
  if (activeLimbs s).contains l then (if s.fld 0 3 0 = 1 then 0x18000000 else 0x30000000) else 0
/-- Limb-near address of the work area, and of the residency slice (R373). -/
def workBase (s : State) : Nat := 2 ^ 37 - sliceBytes s - 2 ^ 28
def sliceBase (s : State) : Nat := 2 ^ 37 - sliceBytes s
/-- Limb-near address of the residency entry of a granule, at its home limb (R373). -/
def entryAddr (s : State) (g : Nat) : Nat := sliceBase s + 8 * localIndex s g

/-- Stack and stack offset of a limb-near byte address (R371): limb Lh has stacks 2h and 2h + 1 (R34). -/
def nearPlace (l a : Nat) : Nat × Nat := (2 * l + nbits a 10 10, nbits a 36 11 * 1024 + nbits a 9 0)
/-- DDR5 channel and channel offset of a sector of a limb's vault (R372): limb Lh has channels 6h to 6h + 5 (R34). -/
def vaultPlace (l sec : Nat) : Nat × Nat := (6 * l + sec % 6, sec / 6 * 1024)

/-- Folded address of a word of near-memory stack k (R415). -/
def nearFold (k wa : Nat) : Nat := nbits wa 15 0 ^^^ nbits wa 31 16 ^^^ (2 * (k % 16) + nbits wa 32 32)
/-- Folded address of a word of vault channel k (R415). -/
def vaultFold (k wa : Nat) : Nat := nbits wa 15 0 ^^^ nbits wa 31 16 ^^^ (4 * (k % 64) + nbits wa 33 32)
/-- Folded address of a word of a limb SRAM (R415). -/
def sramFold (wa : Nat) : Nat := nbits wa 15 0 ^^^ nbits wa 31 16 ^^^ nbits wa 47 32 ^^^ nbits wa 63 48

/-- Folded address of word i, from byte address 8i, of a pool's sectors (R371, R372, R415). -/
def poolFold (l tier i : Nat) : Nat :=
  if tier = 0 then (let p := nearPlace l (8 * i); nearFold p.1 (p.2 / 8))
  else (let p := vaultPlace l (i / 128); vaultFold p.1 ((p.2 + 8 * (i % 128)) / 8))

/-- Sectors of a pool: near 0, vault 1. -/
def poolTotal (s : State) (l tier : Nat) : Nat := if tier = 0 then nearTotal s l else vaultTotal s l

/-- The runs of sectors in use in a pool: images, and copies of migrations in progress. -/
def usedRuns (s : State) (l tier : Nat) : Tab Nat :=
  let img := (s.res.filter (fun p => eForm p.2 != 0 && eTier p.2 == tier && homeLimb s p.1 == some l)).map (fun p => (eBase p.2, eSect p.2 + 1))
  let cpy := (s.migs.filter (fun p => p.2.1 == tier && homeLimb s p.1 == some l)).map (fun p => (p.2.2, eSect (s.entry p.1) + 1))
  (img ++ cpy).foldl (fun t p => tset t p.1 p.2) []

/-- Free sectors of a pool. -/
def freeSectors (s : State) (l tier : Nat) : Nat := poolTotal s l tier - ((usedRuns s l tier).map (·.2)).foldl (· + ·) 0

/-- The lowest free run of n sectors past `cur`, between used runs in rising order. -/
def firstFit (total n : Nat) : Nat → Tab Nat → Option Nat
  | cur, [] => if cur + n ≤ total then some cur else none
  | cur, (b, k) :: r => if cur + n ≤ b then some cur else firstFit total n (max cur (b + k)) r

/-- The lowest-numbered free run that fits, in one pool (R384). -/
def allocIn (s : State) (l tier n : Nat) : Option Nat := firstFit (poolTotal s l tier) n 0 (usedRuns s l tier)

def rMigCtl (l : Nat) : Nat := limbBase l + 0x1018
def rMigCmd (l : Nat) : Nat := limbBase l + 0x1020
def rMigStat (l : Nat) : Nat := limbBase l + 0x1028
def nearLow (s : State) (l : Nat) : Nat := s.fld (rMigCtl l) 23 16 * 65536
def nearHigh (s : State) (l : Nat) : Nat := max (s.fld (rMigCtl l) 31 24) (s.fld (rMigCtl l) 23 16) * 65536
def vaultLow (s : State) (l : Nat) : Nat := s.fld (rMigCtl l) 15 8 * 65536

/-- The capacity registers follow the entries (R402), and a crossing of VAULT_LOW is reported once (R404). -/
def capRefresh (l : Nat) (s : State) : State :=
  let b := limbBase l
  let live := s.res.filter (fun p => eForm p.2 != 0 && homeLimb s p.1 == some l)
  let vf := freeSectors s l 1
  let s1 := s.wr (b + 0x1000) (wd (nearTotal s l * 2 ^ 32 + freeSectors s l 0))
  let s2 := s1.wr (b + 0x1008) (wd (vaultTotal s l * 2 ^ 32 + vf))
  let s3 := s2.wr (b + 0x1010) (wd (live.length * 2 ^ 32 + (live.filter (fun p => eForm p.2 == 1)).length))
  let low := decide (vf < vaultLow s l)
  let s4 := s3.modLimb l (fun k => { k with vlow := low })
  if low && !(s.limb l).vlow && (activeLimbs s).contains l then nlogEvent 2 0x1005 l (wd l) (wd vf) s4 else s4

/-! ### Felnen block compression (R393 to R400) -/

/-- The granule is open in a slot of its home limb. -/
def slotOpen (s : State) (l g : Nat) : Bool := (s.limb l).slots.any (fun k => k.g == g)

/-- The bytes that a granule's stored image holds: those that its slot found, while it is open (R380). -/
def storedTab (s : State) (g : Nat) : Tab Byte :=
  match homeLimb s g with
  | none => []
  | some l => match (s.limb l).slots.find? (fun k => k.g == g) with
    | some k => k.oldB
    | none => s.mem

/-- The 64 chunks of a granule's bytes. -/
def chunksOf (t : Tab Byte) (g : Nat) : List (List Byte) := (List.range 64).map (fun c => tspan 0 t (granule * g + 1024 * c) 1024)

/-- The codes and LENs of the chunks of a granule's bytes. -/
def granuleCodes (t : Tab Byte) (g elem : Nat) : List (Nat × Nat) := (chunksOf t g).map (chunkCode elem)

/-- FORM and sectors that a granule's bytes take (R399). -/
def imageOf (s : State) (g elem : Nat) : Nat × Nat :=
  let cs := granuleCodes s.mem g elem
  let n := 192 + 8 * (cs.map (·.2)).foldl (· + ·) 0
  if cs.all (fun c => c.1 == 1) then (0, 0) else if n ≤ 63 * 1024 then (2, ceilDiv n 1024) else (1, 64)

/-- ELEM of a granule's stored image (R394). -/
def imageElem (s : State) (g : Nat) : Nat := tget 3 s.felem g

/-- The image that a granule's sectors hold (R376, R393, R400). -/
def storedImage (s : State) (g : Nat) : List Byte :=
  let t := storedTab s g
  if eForm (s.entry g) = 0 then [] else if eForm (s.entry g) = 2 then codedImage (imageElem s g) (chunksOf t g) else tspan 0 t (granule * g) granule

/-- The chunks that word w of an image belongs to: in a plain image the one that it lies in, in a coded one all of them for header and directory, else the one whose payload holds it (R393, R401). -/
def chunksOfWord (form : Nat) (cs : List (Nat × Nat)) (w : Nat) : List Nat :=
  if form ≠ 2 then [w / 128 % 64]
  else if w < 24 then List.range 64
  else (List.range 64).filter (fun c =>
    let b := 24 + ((cs.take c).map (·.2)).foldl (· + ·) 0
    b ≤ w && w < b + (cs.getD c (0, 0)).2)

/-- The codes of a granule's stored image. -/
def storedCodes (s : State) (g : Nat) : List (Nat × Nat) := if eForm (s.entry g) = 2 then granuleCodes (storedTab s g) g (imageElem s g) else []

/-- A read of chunks first to last fetches image word w: of a coded image its first sector and the sectors of those chunks' payloads, of a plain one those chunks (R379). -/
def fetched (form : Nat) (cs : List (Nat × Nat)) (first last w : Nat) : Bool :=
  let at_ := fun (c : Nat) => 24 + ((cs.take c).map (·.2)).foldl (· + ·) 0
  if form ≠ 2 then first ≤ w / 128 && w / 128 ≤ last
  else w < 128 || (List.range 64).any (fun c => first ≤ c && c ≤ last && at_ c / 128 ≤ w / 128 && w / 128 ≤ (at_ c + (cs.getD c (0, 0)).2 - 1) / 128 && (cs.getD c (0, 0)).2 != 0)

/-- The words of a granule that a bad word of its stored image poisons: itself in a plain image, every word of its chunks in a coded one (R401). -/
def poisonWords (form g : Nat) (cs : List (Nat × Nat)) (w : Nat) : List Nat :=
  if form = 2 then (chunksOfWord form cs w).flatMap (fun c => (List.range 128).map (fun i => 8192 * g + 128 * c + i)) else [8192 * g + w % 8192]

/-- The module address that an image word stands for: its own in a plain image, its chunk's in a coded one, the granule's for header and directory. -/
def imageWordAddr (form g : Nat) (cs : List (Nat × Nat)) (w : Nat) : Nat :=
  if form ≠ 2 then granule * g + 8 * (w % 8192) else if w < 24 then granule * g else granule * g + 1024 * ((chunksOfWord form cs w).headD 0)

/-- The 80 bits that word w of a granule's image is stored as (R414, R415): its data, X where a word that it stands for is poisoned, and the check bits over the folded address of its place. -/
def storedCell (s : State) (g w : Nat) : Codeword :=
  let e := s.entry g
  let xs := poisonWords (eForm e) g (storedCodes s g) w
  let l := (homeLimb s g).getD 0
  eccEncode (wd (leNat (((storedImage s g).drop (8 * w)).take 8))) (xs.any (tget false s.memX)) (poolFold l (eTier e) (128 * eBase e + w))

/-! ### Migration (R384 to R390) -/

/-- LAST of a granule takes the step counter (R383). -/
def touch (g : Nat) (s : State) : State := s.setEntry g (setBits (s.entry g) 47 32 (stepCnt s).toNat)

/-- A migration is abandoned (R386). -/
def migAbort (l g : Nat) (s : State) : State :=
  if eBusy (s.entry g) then
    capRefresh l (({ s with migs := terase s.migs g }.setEntry g (setBit (s.entry g) 60 false)).satFld (rMigStat l) 63 48 1)
  else s

/-- A migration completes: TIER and BASE rewritten, BUSY cleared, the old sectors freed (R385). -/
def migDone (l g : Nat) (s : State) : State :=
  match tfind s.migs g with
  | none => s
  | some (tier, base) =>
    let w := setBits (setBits (setBit (s.entry g) 60 false) 61 61 tier) 29 0 base
    capRefresh l ({ s with migs := terase s.migs g }.setEntry g w)

/-- A migration to a pool begins where a run is free: BUSY is set (R385). -/
def migBegin (l g tier : Nat) (s : State) : Option State :=
  (allocIn s l tier (eSect (s.entry g) + 1)).map (fun base =>
    capRefresh l ({ s with migs := tset s.migs g (tier, base) }.setEntry g (setBit (s.entry g) 60 true)))

/-- A near granule that eviction may take: PIN none, not busy, not open, and old enough (R387). -/
def evictable (s : State) (l : Nat) (anyAge : Bool) (p : Nat × Word) : Bool :=
  homeLimb s p.1 == some l && eForm p.2 != 0 && eTier p.2 == 0 && ePin p.2 == 0 && !eBusy p.2 && !slotOpen s l p.1 &&
  (anyAge || s.fld (rMigCtl l) 47 32 ≤ ((stepCnt s).toNat + 65536 - bits p.2 47 32) % 65536)

/-- The granules of a limb in sweep order from its pointer (R387). -/
def sweepOrder (s : State) (l : Nat) : List (Nat × Word) :=
  let mine := s.res.filter (fun p => homeLimb s p.1 == some l)
  let here := (s.limb l).sweep
  mine.filter (fun p => here ≤ localIndex s p.1) ++ mine.filter (fun p => localIndex s p.1 < here)

/-- Free near sectors once the migrations out of the pool complete. -/
def nearComing (s : State) (l : Nat) : Nat :=
  freeSectors s l 0 + ((s.migs.filter (fun p => p.2.1 == 1 && homeLimb s p.1 == some l)).map (fun p => eSect (s.entry p.1) + 1)).foldl (· + ·) 0

/-- One sweep: granules go to the vault until the near pool reaches NEAR_HIGH. -/
def evictSweep (l : Nat) (anyAge : Bool) : List (Nat × Word) → State → State
  | [], s => s
  | p :: r, s =>
    if nearHigh s l ≤ nearComing s l then s
    else if evictable s l anyAge (p.1, s.entry p.1) then
      match migBegin l p.1 1 s with
      | some t => evictSweep l anyAge r ((migDone l p.1 t).modLimb l (fun k => { k with sweep := localIndex s p.1 + 1 }))
      | none => evictSweep l anyAge r s
    else evictSweep l anyAge r s

/-- A pinned granule in the other pool: its migration is tried again where its pool has room (R390). -/
def retryPinned (l : Nat) (s : State) : State :=
  let pinned := (s.res.map (fun p => (p.1, s.entry p.1))).filter (fun p => homeLimb s p.1 == some l && eForm p.2 != 0 && !eBusy p.2 && ((ePin p.2 == 1 && eTier p.2 == 1) || (ePin p.2 == 2 && eTier p.2 == 0)))
  pinned.foldl (fun t p =>
    let tier := ePin p.2 - 1
    if tier = 0 ∧ freeSectors t l 0 < nearLow t l + eSect p.2 + 1 then t else (migBegin l p.1 tier t).getD t) s

/-- Eviction: a first sweep by age, and a second with any age when that frees too little; then pinned granules are tried again (R387, R390). The copies are complete at once. -/
def evict (l : Nat) (s : State) : State :=
  if !s.flag (rMigCtl l) 0 then s
  else
    let s1 := evictSweep l false (sweepOrder s l) s
    retryPinned l (if nearHigh s1 l ≤ nearComing s1 l then s1 else evictSweep l true (sweepOrder s1 l) s1)

/-- Capacity fails (R403). -/
def capFail (l g : Nat) (s : State) : State := raise (domLimb l) 2 1 0x0205 (wd g) (s.satFld (rMigStat l) 47 32 1)

/-- Every near granule of the limb is pinned, busy or open, so that eviction can make no room (R390). -/
def nearFast (s : State) (l : Nat) : Bool :=
  s.res.all (fun p => !(homeLimb s p.1 == some l && eForm p.2 != 0 && eTier p.2 == 0) || ePin p.2 != 0 || eBusy p.2 || slotOpen s l p.1)

/-- A migration to the near pool, after eviction where it would take free sectors below NEAR_LOW (R390); without room the granule stays: counted alone where nothing could be evicted, else a capacity error (R403). -/
def migrateNear (l g : Nat) (s : State) : State :=
  let need := nearLow s l + eSect (s.entry g) + 1
  let s1 := if freeSectors s l 0 < need then evict l s else s
  if eBusy (s1.entry g) then s1
  else match if freeSectors s1 l 0 < need then none else migBegin l g 0 s1 with
    | some t => t
    | none => if nearFast s1 l then s1.satFld (rMigStat l) 47 32 1 else capFail l g s1

/-- A granule migrates to the vault or the near pool now, unless it is there or empty; a migration the other way is completed first (R385, R388, R390, R403). DESIGN CHOICE (entry 90): R388 says "now" of a granule whose migration the other way is in progress; the model completes that one first. -/
def migrate (g tier : Nat) (s : State) : State :=
  match homeLimb s g with
  | none => s
  | some l =>
    let away := match tfind s.migs g with
      | some m => m.1 != tier
      | none => false
    let s0 := if away then migDone l g s else s
    let e := s0.entry g
    if eForm e = 0 ∨ eTier e = tier ∨ eBusy e = true then s0
    else if tier = 0 then migrateNear l g s0
    else match migBegin l g 1 s0 with
      | some t => t
      | none => capFail l g s0

/-- A granule becomes FORM zero: bytes read zero, sectors and slot freed, ELEM and PIN kept (R382, R392). -/
def zeroGranule (g : Nat) (s : State) : State :=
  match homeLimb s g with
  | none => s
  | some l =>
    let s0 := migAbort l g s
    let s1 := { s0 with mem := tcut s0.mem (granule * g) (granule * (g + 1)), memX := tcut s0.memX (granule / 8 * g) (granule / 8 * (g + 1)) }
    let s2 := s1.modLimb l (fun k => { k with slots := k.slots.filter (fun x => x.g != g) })
    capRefresh l (s2.setEntry g (setBits (setBits (setBits (s2.entry g) 63 61 0) 55 50 0) 29 0 0))

/-- A granule's PIN is set. -/
def setPin (g n : Nat) (s : State) : State := s.setEntry g (setBits (s.entry g) 59 58 n)

/-- A migration hint on one granule (R388); code 7 acts as 6. -/
def applyHint (code g : Nat) (s : State) : State :=
  match code with
  | 0 => s
  | 1 => if ePin (s.entry g) = 2 then s else migrate g 0 s
  | 2 => migrate g 0 (setPin g 1 s)
  | 3 => migrate g 1 (setPin g 2 s)
  | 4 => setPin g 0 s
  | 5 => zeroGranule g s
  | _ => if ePin (s.entry g) = 1 then s else migrate g 1 s

/-! ### Encoding a granule (R380 to R384, R399, R403) -/

/-- Sectors for n of a granule's image in the pools that its PIN permits (R384). -/
def findRun0 (l g n : Nat) (s : State) : Option (Nat × Nat) :=
  let pin := ePin (s.entry g)
  let inPool := fun (t : Nat) => (allocIn s l t n).map (fun b => (t, b))
  if pin = 1 then inPool 0
  else if pin = 2 then inPool 1
  else if nearLow s l + n ≤ freeSectors s l 0 then (inPool 0).orElse (fun _ => inPool 1)
  else inPool 1

/-- Sectors for n of a granule's image, after eviction where the permitted pools have no run (R384, R403). -/
def allocate (l g n : Nat) (s : State) : Option (Nat × Nat) × State :=
  match findRun0 l g n s with
  | some r => (some r, s)
  | none => let s1 := evict l s; (findRun0 l g n s1, s1)

/-- The granule's bytes as they stand are encoded into new sectors and the entry rewritten; `none` where no pool can supply them. -/
def encodeGranule (l g : Nat) (s : State) : Option State :=
  let e := s.entry g
  let im := imageOf s g (eElem e)
  if im.1 = 0 then some (capRefresh l (s.setEntry g (setBits (setBits (setBits e 63 61 0) 55 50 0) 29 0 0)))
  else match allocate l g im.2 s with
    | (none, _) => none
    | (some (tier, base), u) =>
      let t := { u with felem := tput 3 u.felem g (eElem e) }
      some (capRefresh l (t.setEntry g (setBits (setBits (setBits (setBits (t.entry g) 63 62 im.1) 61 61 tier) 55 50 (im.2 - 1)) 29 0 base)))

/-- A slot closes; a slot that fails for capacity stays open with its data (R380, R403). -/
def closeSlot (l g : Nat) (s : State) : State :=
  if slotOpen s l g then
    match encodeGranule l g s with
    | some t => t.modLimb l (fun k => { k with slots := k.slots.filter (fun x => x.g != g) })
    | none => capFail l g s
  else s

/-- Slots close, least recently written first, until one is free. -/
def freeSlot (l : Nat) : Nat → State → State
  | 0, s => s
  | n + 1, s =>
    if (s.limb l).slots.length < 32 then s
    else match (s.limb l).slots[31 - n]? with
      | some k => freeSlot l n (closeSlot l k.g s)
      | none => s

/-- A granule's bytes and poison as they stand, for its slot. -/
def slotOf (s : State) (g : Nat) : Slot :=
  ⟨g, tslice s.mem (granule * g) (granule * (g + 1)), tslice s.memX (granule / 8 * g) (granule / 8 * (g + 1))⟩

/-- A granule is open in a slot as the most recently written one; false where all 32 slots stay open (R380, R403). -/
def openSlot (l g : Nat) (s : State) : Bool × State :=
  match (s.limb l).slots.find? (fun k => k.g == g) with
  | some k => (true, s.modLimb l (fun m => { m with slots := m.slots.filter (fun x => x.g != g) ++ [k] }))
  | none =>
    let s1 := freeSlot l 32 s
    if (s1.limb l).slots.length < 32 then (true, s1.modLimb l (fun m => { m with slots := m.slots ++ [slotOf s1 g] })) else (false, s1)

/-- A granule's bytes return to what its slot found, and the slot is discarded (R370). -/
def dropSlot (l : Nat) (k : Slot) (s : State) : State :=
  { s with
    mem := tmergeD 0 (tcut s.mem (granule * k.g) (granule * (k.g + 1))) k.oldB
    memX := tmergeD false (tcut s.memX (granule / 8 * k.g) (granule / 8 * (k.g + 1))) k.oldX }.modLimb l
    (fun m => { m with slots := m.slots.filter (fun x => x.g != k.g) })

/-! ### Reads and writes (R378 to R383, R386) -/

/-- A write of words inside one granule, and whether it succeeded; one that fails leaves the granule unchanged (R380, R381, R386, R403). -/
def writeGranule (g w : Nat) (ws : List PWord) (s : State) : Bool × State :=
  match homeLimb s g with
  | none => (false, s)
  | some l =>
    let s0 := migAbort l g s
    if ws.length = granule / 8 then
      match encodeGranule l g (putWords w ws (s0.modLimb l (fun k => { k with slots := k.slots.filter (fun x => x.g != g) }))) with
      | some t => (true, t)
      | none => (false, capFail l g s0)
    else
      let r := openSlot l g s0
      if r.1 then (true, putWords w ws r.2) else r

/-- The words of a write cut at granule boundaries: word address and words. -/
def cutGranules : Nat → Nat → List PWord → List (Nat × List PWord)
  | 0, _, _ => []
  | n + 1, w, ws =>
    let k := granule / 8 - w % (granule / 8)
    if ws.isEmpty then [] else (w, ws.take k) :: cutGranules n (w + k) (ws.drop k)

/-- A write to the store range from a word address up: the state, and whether every part succeeded. Engines set LAST (R383). -/
def writeStore (engine : Bool) (w : Nat) (ws : List PWord) (s : State) : Bool × State :=
  (cutGranules (ws.length / 8192 + 2) w ws).foldl (fun r p =>
    let g := p.1 / 8192
    let x := writeGranule g p.1 p.2 r.2
    (r.1 && x.1, if engine && x.1 then touch g x.2 else x.2)) (true, s)

/-- Bytes written to the store range at any address, word parts merged. -/
def writeBytes (engine : Bool) (a : Nat) (bs : List Byte) (s : State) : Bool × State :=
  let w0 := a / 8
  let n := (a % 8 + bs.length + 7) / 8
  let old := memWords s w0 n
  let bytes := wordsBytes (old.map (·.d))
  let new := bytes.take (a % 8) ++ bs ++ bytes.drop (a % 8 + bs.length)
  let xs := (List.range n).map (fun i => (old.getD i default).x && !(decide (a ≤ 8 * (w0 + i)) && decide (8 * (w0 + i) + 8 ≤ a + bs.length)))
  writeStore engine w0 ((bytesWords n new).zipWith (fun d x => ⟨d, x⟩) xs) s

/-- A read of words by an engine sets LAST of each granule (R383). -/
def readStore (engine : Bool) (w n : Nat) (s : State) : List PWord × State :=
  (memWords s w n,
   if engine && 0 < n then forEach ((List.range ((w + n - 1) / 8192 + 1 - w / 8192)).map (· + w / 8192)) touch s else s)

/-! ### Memory errors (R401, R416 to R419, R630) -/

def rMemErr (l : Nat) (vault : Bool) : Nat := limbBase l + (if vault then 0x1038 else 0x1030)

/-- A corrected near or vault read (R417, R419). -/
def memCorrected (l : Nat) (vault : Bool) (n : Nat) (s : State) : State :=
  if n = 0 then s else corrected (domLimb l) n (s.satFld (rMemErr l vault) 31 0 n)

/-- A near or vault word that decodes well when it is read once more: counted (R416, R419). -/
def memRetried (l : Nat) (vault : Bool) (n : Nat) (s : State) : State := if n = 0 then s else s.satFld (rMemErr l vault) 47 32 n

/-- A near or vault word that does not decode twice: counted, and a deferred error that names the module address (R416). -/
def memPoisoned (l : Nat) (vault : Bool) (addr : Nat) (s : State) : State :=
  raise (domLimb l) 1 (if vault then 3 else 2) (if vault then 0x0203 else 0x0202) (wd addr)
    ((s.satFld (rMemErr l vault) 47 32 1).satFld (rMemErr l vault) 63 48 1)

/-- A chunk that is malformed: its words are delivered with X = 1, and a deferred error (R401). -/
def chunkBad (l g c : Nat) (s : State) : State :=
  raise (domLimb l) 1 1 0x0204 (wd g) (((List.range 128).foldl (fun u i => putX (8192 * g + 128 * c + i) true u) s).satFld (rMigStat l) 15 0 1)

/-- What a read of chunks first to last of a granule's stored image meets: words corrected, words read well the second time, words poisoned, and chunks malformed (R379, R401, R416, R417). -/
def imageRead (l g first last : Nat) (bad retried corrected malformed : List Nat) (s : State) : State :=
  let form := eForm (s.entry g)
  let cs := storedCodes s g
  let vault := eTier (s.entry g) == 1
  let near := fun (ws : List Nat) => ws.filter (fetched form cs first last)
  let s1 := memRetried l vault (near retried).length (memCorrected l vault (near corrected).length s)
  let s2 := (near bad).foldl (fun t w => memPoisoned l vault (imageWordAddr form g cs w) ((poisonWords form g cs w).foldl (fun u x => putX x true u) t)) s1
  if form = 2 then (malformed.filter (fun c => first ≤ c && c ≤ last && c < 64)).foldl (fun t c => chunkBad l g c t) s2 else s2

/-- GRANULE_READ: the chunks covered are read from the stored image, or the granule's slot; `bad` are the image words that do not decode twice, `mended` those that decode with an error corrected, or, where marked, only when they are read once more, `malformed` the chunks (R379, R380, R383, R401, R416, R417). -/
def execGranuleRead (g first last : Nat) (engine : Bool) (bad : List Nat) (mended : List (Nat × Bool)) (malformed : List Nat) (s : State) : Res :=
  let g := g % granules
  match homeLimb s g with
  | none => .next s
  | some l =>
    let s1 := if eForm (s.entry g) = 0 ∨ last < first ∨ slotOpen s l g = true then s
      else imageRead l g first last bad ((mended.filter (·.2)).map (·.1)) ((mended.filter (fun w => !w.2)).map (·.1)) malformed s
    .next (if engine then touch g s1 else s1)

/-- GRANULE_WRITE: words are written at a module address, direct or through slots (R378, R380, R381). -/
def execGranuleWrite (addr : Nat) (data : List PWord) (engine : Bool) (s : State) : Res :=
  if 2 ^ 44 < addr + 8 * data.length then .next s
  else .next (writeStore engine (addr / 8) data s).2

/-- SLOT_CLOSE (R380, R382, R403). -/
def execSlotClose (l : LimbId) (g : Nat) (s : State) : Res := .next (closeSlot l.val g s)

/-- MIGRATION_DONE (R385). -/
def execMigrationDone (g : Nat) (s : State) : Res :=
  match homeLimb s g with
  | none => .next s
  | some l => .next (migDone l g s)

/-- EVICTION: below NEAR_LOW the limb evicts until NEAR_HIGH, and pinned granules' migrations are tried again (R387, R390). -/
def execEviction (l : LimbId) (s : State) : Res :=
  if s.flag (rMigCtl l.val) 0 && freeSectors s l.val 0 < nearLow s l.val && (activeLimbs s).contains l.val then
    .next (evict l.val s)
  else .next s

/-- The granule of a limb whose image holds a sector of a pool. -/
def sectorOwner (s : State) (l tier sec : Nat) : Option (Nat × Word) :=
  s.res.find? (fun p => homeLimb s p.1 == some l && eForm p.2 != 0 && eTier p.2 == tier && eBase p.2 ≤ sec && sec ≤ eBase p.2 + eSect p.2)

/-- A sector that a migration's copy is being written to (R418). -/
def sectorCopy (s : State) (l tier sec : Nat) : Bool :=
  s.migs.any (fun p => homeLimb s p.1 == some l && p.2.1 == tier && p.2.2 ≤ sec && sec ≤ p.2.2 + eSect (s.entry p.1))

/-- A word of a pool that belongs to no image does not decode twice; it has no module address, so the INFO is an open value, and what it would read as next is not seen before a write. -/
def freePoisoned (l : Nat) (vault : Bool) (s : State) : State :=
  let d := Config.freeValue s.draws
  raise (domLimb l) 1 (if vault then 3 else 2) (if vault then 0x0203 else 0x0202) d
    (({ s with draws := s.draws + 1 }.satFld (rMemErr l vault) 47 32 1).satFld (rMemErr l vault) 63 48 1)

/-- What the scrub of one word finds; `poison` is what a word bad twice does. -/
def scrubWord (l : Nat) (vault : Bool) (o : CellOutcome) (poison : State → State) (s : State) : State :=
  match o with
  | .clean => s
  | .corrected => memCorrected l vault 1 s
  | .retried => memRetried l vault 1 s
  | .bad => poison s

/-- SCRUB_READ of one word at byte address `addr` of a pool; words of busy granules, of a migration's copy or of open slots are skipped; `last` ends a pass (R416 to R419). -/
def execScrubRead (l : LimbId) (vault : Bool) (addr : Nat) (o : CellOutcome) (last : Bool) (s : State) : Res :=
  let r := limbBase l.val + 0x1040
  if s.fld r 31 16 = 0 then .next s
  else
    let fin := fun (t : State) => if last then t.satFld r 15 0 1 else t
    match sectorOwner s l.val vault.toNat (addr / 1024) with
    | none => .next (fin (if sectorCopy s l.val vault.toNat (addr / 1024) then s else scrubWord l.val vault o (freePoisoned l.val vault) s))
    | some (g, e) =>
      let cs := storedCodes s g
      let w := (addr - 1024 * eBase e) / 8
      .next (fin (if eBusy e || slotOpen s l.val g then s
        else scrubWord l.val vault o (fun t => memPoisoned l.val vault (imageWordAddr (eForm e) g cs w) ((poisonWords (eForm e) g cs w).foldl (fun u x => putX x true u) t)) s))

/-! ### Home limbs (R366, R368) -/

/-- Every limb's capacity registers. -/
def capAll (s : State) : State := forEach (List.range 8) capRefresh s

/-- The store range reads zero and every sector is free (R368, R370). -/
def emptyStore (s : State) : State :=
  capAll { s with mem := [], memX := [], res := [], felem := [], migs := [], limbs := s.limbs.map (fun p => (p.1, { p.2 with slots := [], vlow := false })) }

/-- ACTIVE and N set. -/
def setActive (m : Nat) (s : State) : State := (s.setFld rModHome 47 40 m).setFld rModHome 39 36 (popcount 8 m)

/-- APPLY takes MASK into ACTIVE, or is refused with BAD (R368). -/
def homeApply (s : State) : State :=
  let m := s.fld rModHome 7 0
  if m = 0 ∨ m &&& (Config.nearTrained.toNat ^^^ 255) ≠ 0 then (s.setFld rModHome 17 17 1).setFld rModHome 16 16 0
  else emptyStore ((setActive m s).setFld rModHome 16 16 0)

def execHomeApply (s : State) : Res := .next (homeApply s)

/-! ### LMB_MIG_CMD (R392) -/

/-- The granules of a command that this limb homes. -/
def cmdGranules (s : State) (l first count : Nat) : List Nat :=
  ((List.range (count % 2 ^ 25 + 1)).map (· + first % granules)).filter (fun g => g < granules && homeLimb s g == some l)

/-- A command starts with BUSY, or is discarded and counted. -/
def migCmd (l op arg first count : Nat) (eff : Nat → State → State) (s : State) : State :=
  if s.flag (rMigCmd l) 63 then s.satFld (rMigStat l) 31 16 1
  else
    let s1 := s.wr (rMigCmd l) (wd (2 ^ 63 + op * 2 ^ 56 + arg % 8 * 2 ^ 53 + count % 2 ^ 25 * 2 ^ 28 + first % granules))
    forEach (cmdGranules s1 l first count) eff s1

def execHint (l : LimbId) (arg first count : Nat) (s : State) : Res := .next (migCmd l.val 1 arg first count (applyHint (arg % 8)) s)
/-- SETELEM takes effect at each granule's next encoding. -/
def execSetelem (l : LimbId) (arg first count : Nat) (s : State) : Res :=
  .next (migCmd l.val 2 arg first count (fun g t => t.setEntry g (setBits (t.entry g) 57 56 arg)) s)
def execDiscard (l : LimbId) (first count : Nat) (s : State) : Res := .next (migCmd l.val 3 0 first count zeroGranule s)
def execFlush (l : LimbId) (first count : Nat) (s : State) : Res := .next (migCmd l.val 4 0 first count (fun g t => closeSlot l.val g t) s)
def execMigCmdDone (l : LimbId) (s : State) : Res := .next (s.setFld (rMigCmd l.val) 63 63 0)

/-- A register write of LMB_MIG_CMD (R392). -/
def migCmdWrite (l : Nat) (v : Word) (s : State) : State :=
  let op := bits v 58 56
  let arg := bits v 55 53
  let first := bits v 27 0
  let count := bits v 52 28
  match op with
  | 1 => migCmd l 1 arg first count (applyHint arg) s
  | 2 => migCmd l 2 arg first count (fun g t => t.setEntry g (setBits (t.entry g) 57 56 arg)) s
  | 3 => migCmd l 3 arg first count zeroGranule s
  | 4 => migCmd l 4 arg first count (fun g t => closeSlot l g t) s
  | _ => if s.flag (rMigCmd l) 63 then s.satFld (rMigStat l) 31 16 1 else plainWrite s (rMigCmd l) v

/-! ### Host window (R409 to R413) -/

/-- Host limb: L0, or L4 where HOSTSEL chose it (R35, R788). -/
def hostLimb (s : State) : Nat := if s.flag 0 4 then 4 else 0

/-- HOST_WIN_CTL.EN as it acts: 0 while the host limb is outside ACTIVE (R413). -/
def winEnabled (s : State) : Bool := s.flag 0x4008 63 && (activeLimbs s).contains (hostLimb s)

/-- A work-area word by limb and byte offset (R374). -/
def workWord (s : State) (l off : Nat) : Word := tget 0 s.work (l * 2 ^ 28 + off)
def setWork (l off : Nat) (w : Word) (s : State) : State := { s with work := tput 0 s.work (l * 2 ^ 28 + off) w }

/-- The window entry of page p (R374, R410). -/
def winEntry (s : State) (p : Nat) : Word := workWord s (hostLimb s) (0x4000000 + 8 * p)

/-- Translation of a host-window address to a host address and its No Snoop attribute; `none` for an error (R410, R411). -/
def winTranslate (s : State) (addr : Nat) (write : Bool) : Option (Nat × Bool) :=
  let p := (addr - 2 ^ 45) / 2 ^ 21
  let e := winEntry s p
  if winEnabled s && p < s.fld 0x4008 23 0 && bit e 0 && (!write || bit e 1) then some (bits e 63 21 * 2 ^ 21 + addr % 2 ^ 21, bit e 2) else none

/-- An address lies in the host window (R363). -/
def inHostWindow (a : Nat) : Bool := 0x200000000000 ≤ a && a < 0x300000000000

/-- A host-window access that fails (R411). -/
def winError (addr : Nat) (s : State) : State := raise (domLimb (hostLimb s)) 1 10 0x0206 (wd addr) s

/-- A fresh tag for a host read: one above every tag in use. -/
def freshTag {α : Type} (t : Tab α) : Nat := t.foldl (fun m p => max m (p.1 + 1)) 0

/-- A host read request leaves, to be answered by HOST_COMPLETION (R752). -/
def hostRead (q : HostReq) (ns : Bool) (s : State) : State :=
  let tag := freshTag s.hreqs
  { s with hreqs := tset s.hreqs tag q }.emit (.hostRead q.addr q.len tag ns)

/-- HOST_WINDOW_ACCESS: the host limb translates the access and issues the request, or records the error (R411). -/
def execHostWindowAccess (addr : Nat) (write : Bool) (len : Nat) (data : List Byte) (s : State) : Res :=
  if !inHostWindow addr then .next s
  else match winTranslate s addr write with
    | none => .next (winError addr s)
    | some h => .next (if write then s.emit (.hostWrite h.1 data h.2) else hostRead ⟨1, 0, 0, h.1, len, addr⟩ h.2 s)

end Sys2Proof.Machine
end

