-- ==== Sys2Proof/Machine/Mesh.lean ====
section
/-! DEFINITION. Packets on the wafer: injection and express choice (R315, R325, R326, R863), the path and what it meets (R324, R327, R333, R341, R360, R861), delivery at cores, field stores and limbs (R75 to R87, R97, R107, R317 to R320, R338, R344, R675, R865), and responses (R328). -/

namespace Sys2Proof.Machine

/-- A value the manual leaves open, and the state that has drawn it. -/
def State.draw (s : State) : Word × State := (Config.freeValue s.draws, { s with draws := s.draws + 1 })

/-! ### Places -/

/-- Attach field of a limb (R32). -/
def attachField (l : Nat) : Nat := 14 * ([0, 2, 3, 5].getD (l % 4) 0) + (if l < 4 then 0 else 13)
/-- The router that a field's gateway of a plane attaches to (R309). -/
def gwRouter (f plane : Nat) : Nat × Nat := (32 * (f % 14) + 15 + plane, 30 * (f / 14) + 14 + plane)
/-- Fields as distances count them (R325). -/
def fieldDist (a b : Nat) : Nat := (max (a % 14) (b % 14) - min (a % 14) (b % 14)) + (max (a / 14) (b / 14) - min (a / 14) (b / 14))
/-- The limb's bridge domain is ON (R690). -/
def bridgeOn (s : State) (l : Nat) : Bool := s.fld (limbBase l + 0x6000) 9 8 == 2
/-- A gateway of a field is in service (FLD_XP_CTL, R326). -/
def gwUp (s : State) (f plane : Nat) : Bool := !s.flag (rFldXp f) (8 + plane)
/-- The router is marked dead (R329). -/
def rtDead (s : State) (x y : Nat) : Bool := mapBit s (fun f i => fieldBase f + 0x200 + 8 * i) (coreAt x y)
/-- Field of a router. -/
def fieldXY (x y : Nat) : Nat := 14 * (y / 30) + x / 32

/-- The packet's source field: the core's, the field store's, or the limb's attach field. -/
def srcField (p : Packet) : Nat := if p.sx = 0x1FE then attachField p.sy else if p.sx = 0x1FF then p.sy else fieldXY p.sx p.sy
/-- The packet's destination field. -/
def dstField (p : Packet) : Nat := if p.dx = 0x1FE then attachField p.dy else if p.dx = 0x1FF then p.dy else fieldXY p.dx p.dy
/-- DX names no core (R316). -/
def toUnit (p : Packet) : Bool := p.dx == 0x1FE || p.dx == 0x1FF
/-- A destination as LOC (R620, R628). -/
def dstLoc (p : Packet) : Nat := if p.dx = 0x1FE then p.dy else if p.dx = 0x1FF then (p.dy / 14) * 16 + p.dy % 14 else p.dy * 512 + p.dx

/-! ### The path of a unicast packet -/

/-- What a packet's path comes to: it arrives; the router (x, y) before a dead destination; the router or gateway's router (x, y) that stands before a field without power; a seam half that discards, at the router (x, y); a seam half, a retraining or dead link, or a stopped credit that holds it. -/
inductive Route where
  | ok
  | dead (x y : Nat)
  | off (x y : Nat)
  | seamDrop (east : Bool) (x y : Nat)
  | seamHold
  | linkHold
  deriving DecidableEq, Repr

/-- The packet waits where it is. -/
def Route.holds (r : Route) : Bool := r == .seamHold || r == .linkHold

def rSeam (east : Bool) : Nat := if east then 0x3008 else 0x3000

/-! ### Links as the packets meet them (R306, R321, R323, R346) -/

def kindCode : LinkKind → Nat
  | .core => 0
  | .skip => 1
  | .express => 2
  | .gateway => 3
  | .edge => 4
  | .seam => 5

/-- The number of a link direction in the tables of links, ports and grants. -/
def linkKey (k : LinkRef) : Nat := (kindCode k.kind * 131072 + k.at_) * 4 + k.dir % 4

/-- The link that a key of the tables names. -/
def linkOfKey (k : Nat) : LinkRef :=
  { kind := [LinkKind.core, .skip, .express, .gateway, .edge].getD (k / 4 / 131072) .seam, at_ := k / 4 % 131072, dir := k % 4 }

def State.link (s : State) (k : LinkRef) : LinkSt := tget LinkSt.reset s.links (linkKey k)
def State.setLink (s : State) (k : LinkRef) (l : LinkSt) : State := { s with links := tset s.links (linkKey k) l }

/-- Virtual channel of a packet by its TYPE: 0 request, 1 response, 2 multicast, 3 control (R312, R317). -/
def vcOf (typ : Nat) : Nat := if typ = 4 ∨ typ = 5 ∨ typ = 6 then 1 else if typ = 0x10 then 2 else if typ = 0x20 then 3 else 0

/-- Direction of the step from a to b along x (1 E, 3 W) or y (0 N, 2 S). -/
def stepDir (hor : Bool) (a b : Nat) : Nat := if hor then (if a < b then 1 else 3) else (if a < b then 2 else 0)

/-- The core link or skip link from the router (x, y); a core link over the seam is the seam's. -/
def meshLink (skip : Bool) (x y dir : Nat) : LinkRef :=
  { kind := if skip then .skip else if (x == 223 && dir == 1) || (x == 224 && dir == 3) then .seam else .core, at_ := coreAt x y, dir := dir }

/-- The express link from a gateway: 2 × field + plane, to the neighboring field in a direction. -/
def expressLink (f plane dir : Nat) : LinkRef := ⟨.express, 2 * f + plane, dir⟩
/-- A gateway's port: direction 0 from the gateway into the mesh, 1 from its router into the gateway. -/
def gatewayLink (f plane : Nat) (into : Bool) : LinkRef := ⟨.gateway, 2 * f + plane, into.toNat⟩
/-- An edge port of a limb: the row of the attach field and the port, 2 × row + skip, over the limb's number. -/
def edgeLink (l row : Nat) (skip : Bool) : LinkRef := ⟨.edge, 8 * (2 * row + skip.toNat) + l, 0⟩

/-- The link crosses the seam (R306). -/
def crossesSeam (k : LinkRef) : Bool :=
  match k.kind with
  | .seam => true
  | .skip => let x := coreX k.at_; (k.dir == 1 && (x == 222 || x == 223)) || (k.dir == 3 && (x == 224 || x == 225))
  | .express => let c := (k.at_ / 2) % 14; (k.dir == 1 && c == 6) || (k.dir == 3 && c == 7)
  | _ => false

/-- Channel of a packet: its virtual channel, over 4 × the lane that it takes where an express link crosses the seam (R352). -/
def chanOf (p : Packet) : Nat := vcOf p.typ + 4 * ((p.sx + p.sy + p.dx + p.dy) % 2)

/-- The channel as a link's buffers count it: only an express link at the seam has lanes (R352). -/
def linkChan (k : LinkRef) (ch : Nat) : Nat := if k.kind = .express ∧ crossesSeam k = true then ch else ch % 4

/-- Entries of an input port for a sub-channel of a virtual channel: 8 and 4 on a mesh port, 16 on a gateway port (R321). -/
def chanRoom (k : LinkRef) (sub : Nat) : Nat := if k.kind = .express ∨ k.kind = .gateway then 16 else if sub = 0 then 8 else 4

/-- Flits that a table counts for a channel, both sub-channels. -/
def onChan (t : Tab Nat) (ch : Nat) : Nat := tget 0 t (2 * ch) + tget 0 t (2 * ch + 1)

/-- One more flit of a channel and sub-channel fits beside those that `t` counts: in the receiving port's channel, or in the 32 entries of a crossing FIFO, 2 of them each virtual channel's own and 24 shared (R321, R352). -/
def chanFits (k : LinkRef) (t : Tab Nat) (ch sub : Nat) : Bool :=
  let c := linkChan k ch
  if crossesSeam k then onChan t c < 2 || ((List.range 4).map (fun v => onChan t (c / 4 * 4 + v) - 2)).foldl (· + ·) 0 < 24
  else tget 0 t (2 * c + sub) < chanRoom k sub

/-- A gateway sends or receives: 64 flits may be unacknowledged, else 32 (R346). -/
def isGateway (k : LinkKind) : Bool := k == .express || k == .gateway
/-- At most this many unacknowledged sequenced flits (R346). -/
def linkDepth (k : LinkKind) : Nat := if isGateway k then 64 else 32

/-- A packet or flit may cross a link now: the link is neither retraining nor dead, nothing waits for it, the replay buffer has room and a credit is there (R323, R346, R349). A link without a record has been trained and holds nothing. -/
def linkFree (s : State) (k : LinkRef) (ch sub : Nat) : Bool :=
  let l := s.link k
  l.status != 2 && l.status != 3 && l.wait.isEmpty && l.unacked.length < linkDepth k.kind && chanFits k l.owed ch sub

/-- What was sent on a link has arrived. -/
def settled (s : State) (k : LinkRef) : Bool := (s.link k).expSeq == (s.link k).nextSeq

/-- n flits of a packet have crossed a live link: both ends' numbers go on and nothing is unacknowledged (R346, R347). -/
def passLink (n : Nat) (k : LinkRef) (s : State) : State :=
  let l := s.link k
  if l.status = 1 then s.setLink k { l with nextSeq := (l.nextSeq + n) % 256, expSeq := (l.expSeq + n) % 256, unacked := [], resends := 0 } else s

/-- Flits of a packet: the head and eight words each of the body (R315). -/
def flitsOf (p : Packet) : Nat := 1 + ceilDiv p.body.length 8

/-- n flits cross every link of a list. -/
def passLinks (n : Nat) (ks : List LinkRef) (s : State) : State := ks.foldl (fun t k => passLink n k t) s

/-! ### One hop -/

/-- A crossing of the seam from column x: what the sending half does (R356, R358, R360). -/
def seamCross (s : State) (x y : Nat) : Option Route :=
  let east := decide (224 ≤ x)
  if s.flag (rSeam east) 34 then some (.seamDrop east x y) else if s.flag (rSeam east) 32 then some .seamHold else none

/-- One step from the router (x, y): the router one further in x or y toward a coordinate. -/
def toward (a b : Nat) : Nat := if a < b then a + 1 else a - 1

/-- What stands between two routers one or two steps apart: the seam, then a field without power (R360, R861). -/
def crossing (s : State) (x y x' y' : Nat) : Option Route :=
  match (if (x < 224) == (x' < 224) then none else seamCross s x y) with
  | some r => some r
  | none => if fieldXY x y != fieldXY x' y' && !transitOn s (fieldXY x' y') then some (.off x y) else none

/-- One hop of a unicast packet on the core mesh. -/
inductive Hop where
  | arrive
  | stop (r : Route)
  | go (k : LinkRef) (x y : Nat) (det : Bool)
  deriving DecidableEq, Repr

/-- A hop over a link to (x', y'), if the crossing and the link let it. -/
def hopOver (s : State) (vc : Nat) (skip det hor : Bool) (x y x' y' : Nat) : Hop :=
  match crossing s x y x' y' with
  | some r => .stop r
  | none =>
    let k := meshLink skip x y (if hor then stepDir true x x' else stepDir false y y')
    if linkFree s k vc det.toNat then .go k x' y' det else .stop .linkHold

/-- A hop with its direction of travel chosen: the next router, the one behind it where it is dead, or the discard before a dead destination (R333). -/
def hopDir (s : State) (vc dx dy x y : Nat) (det hor : Bool) : Hop :=
  let x' := if hor then toward x dx else x
  let y' := if hor then y else toward y dy
  if !rtDead s x' y' then hopOver s vc false det hor x y x' y'
  else if x' = dx ∧ y' = dy then .stop (.dead x y)
  else hopOver s vc true det hor x y (if hor then toward x' dx else x') (if hor then y' else toward y' dy)

/-- The next hop toward (dx, dy): x first and then y; on the detour sub-channel y first, which a packet enters before a dead router in its column (R324, R333). -/
def meshHop (s : State) (vc dx dy x y : Nat) (det : Bool) : Hop :=
  if x = dx ∧ y = dy then .arrive
  else if det then hopDir s vc dx dy x y true (decide (y = dy))
  else if x = dx then hopDir s vc dx dy x y false false
  else if toward x dx = dx ∧ y ≠ dy ∧ rtDead s dx y = true then hopDir s vc dx dy x y true false
  else hopDir s vc dx dy x y false true

/-- A part of a path: what it comes to, whether it ends on the detour sub-channel, and its links. -/
structure Leg where
  route : Route
  det : Bool
  links : List LinkRef
  deriving DecidableEq, Repr

/-- The walk of a unicast packet on the core mesh from (x, y) to (dx, dy) (R324, R333). -/
def meshWalk (s : State) (vc dx dy : Nat) : Nat → Nat → Nat → Bool → Leg
  | 0, _, _, det => ⟨.ok, det, []⟩
  | n + 1, x, y, det =>
    match meshHop s vc dx dy x y det with
    | .arrive => ⟨.ok, det, []⟩
    | .stop r => ⟨r, det, []⟩
    | .go k x' y' det' => let r := meshWalk s vc dx dy n x' y' det'; { r with links := k :: r.links }

/-- Steps that no walk exceeds. -/
def walkFuel : Nat := 2000

/-- One hop on an express plane from field a toward field b: along columns first, then along rows; the gateway's router names where a discard happens (R327, R328, R360, R861). -/
def expressHop (s : State) (vc g b a : Nat) : Hop :=
  if a = b then .arrive
  else
    let col := a % 14 = b % 14
    let a' := if col then (if a < b then a + 14 else a - 14) else 14 * (a / 14) + toward (a % 14) (b % 14)
    let p := gwRouter a g
    match (if (a % 14 < 7) == (a' % 14 < 7) then none else seamCross s p.1 p.2) with
    | some r => .stop r
    | none =>
      if !transitOn s a' then .stop (.off p.1 p.2)
      else
        let k := expressLink a g (if col then stepDir false a a' else stepDir true a a')
        if linkFree s k vc 0 then .go k (a' % 14) (a' / 14) false else .stop .linkHold

/-- The express plane from field a to field b (R327). -/
def expressWalk (s : State) (vc g b : Nat) : Nat → Nat → Leg
  | 0, _ => ⟨.ok, false, []⟩
  | n + 1, a =>
    match expressHop s vc g b a with
    | .arrive => ⟨.ok, false, []⟩
    | .stop r => ⟨r, false, []⟩
    | .go k c r' _ => let r := expressWalk s vc g b n (14 * r' + c); { r with links := k :: r.links }

/-- One part of a path after another; the detour sub-channel is never left (R333). -/
def Leg.andThen (a : Leg) (b : Bool → Leg) : Leg :=
  if a.route = .ok then (let r := b a.det; ⟨r.route, a.det || r.det, a.links ++ r.links⟩) else a

/-- A single link as a part of a path. -/
def linkLeg (s : State) (vc : Nat) (k : LinkRef) (det : Bool) : Leg :=
  if linkFree s k vc det.toNat then ⟨.ok, det, [k]⟩ else ⟨.linkHold, det, []⟩

/-- The edge router that a limb's packet enters at: row 30 ra + (D mod 30), the next live one upward (R310). -/
def edgeRouter (s : State) (l d : Nat) : Nat × Nat :=
  let x := if l < 4 then 0 else 447
  let y0 := 30 * (attachField l / 14)
  match (List.range 30).find? (fun i => !rtDead s x (y0 + (d + i) % 30)) with
  | some i => (x, y0 + (d + i) % 30)
  | none => (x, y0 + d % 30)

/-- Slew's requests with DKIND CORE or MC carry tags 0 to 63, its other requests 64 to 127, and every other requester of a limb tags from 128 on. -/
def edgeTags : Nat := 64

/-- A packet that Slew sends with DKIND CORE for a core of the limb's own hemisphere takes an edge port (R310). -/
def byEdge (p : Packet) : Bool := p.sx == 0x1FE && !p.exp && !toUnit p && p.typ == 2 && p.tag < edgeTags && (p.sy < 4) == (p.dx < 224)

/-- A limb's packet at its bridge: the bridge's own domain, and the attach field's transit domain that every path of the limb runs through (R45, R690, R861). DESIGN CHOICE (entry 86): without the bridge's domain the packet waits; before an attach field without power it is discarded and counted in that field. -/
def limbGate (s : State) (l : Nat) : Route :=
  if !bridgeOn s l then .linkHold
  else if !transitOn s (attachField l) then (let g := gwRouter (attachField l) 0; .off g.1 g.2) else .ok

/-- The start of a packet's path: through a limb's bridge to its edge port or gateway, from a field store to a gateway, or at the core's own router. -/
def entryLeg (s : State) (p : Packet) : Leg × Nat × Nat :=
  let vc := chanOf p
  let g := gwRouter (srcField p) p.plane.toNat
  let gate : Leg := ⟨if p.sx = 0x1FE then limbGate s p.sy else .ok, p.det, []⟩
  if byEdge p then
    let e := edgeRouter s p.sy p.dy
    (gate.andThen (linkLeg s vc (edgeLink p.sy (e.2 % 30) p.port)), e)
  else if p.sx = 0x1FE ∨ p.sx = 0x1FF then
    (gate.andThen (fun d => if p.exp ∨ toUnit p = true then ⟨.ok, d, []⟩ else linkLeg s vc (gatewayLink (srcField p) p.plane.toNat false) d), g)
  else (gate, (p.sx, p.sy))

/-- The end of a path at a unit: the gateway's port, and the bridge of a limb that is to take the packet. -/
def exitLeg (s : State) (p : Packet) (fromMesh det : Bool) : Leg :=
  let f := dstField p
  let g := gwRouter f p.plane.toNat
  let a : Leg := if fromMesh then linkLeg s (chanOf p) (gatewayLink f p.plane.toNat true) det else ⟨.ok, det, []⟩
  a.andThen (fun d => ⟨if p.dx = 0x1FE ∧ bridgeOn s p.dy = false then .off g.1 g.2 else .ok, d, []⟩)

/-- The whole path of a unicast packet (R324, R327, R863). -/
def pathOf (s : State) (p : Packet) : Leg :=
  let vc := chanOf p
  let e := entryLeg s p
  let g := p.plane.toNat
  let unit := p.sx = 0x1FE ∨ p.sx = 0x1FF
  let a := gwRouter (srcField p) g
  let z := gwRouter (dstField p) g
  let atGw := decide unit && !byEdge p
  if p.here then ⟨.ok, p.det, []⟩
  else if p.exp then
    let toGw := e.1.andThen (fun d => if atGw then ⟨.ok, d, []⟩
      else (meshWalk s vc a.1 a.2 walkFuel e.2.1 e.2.2 d).andThen (linkLeg s vc (gatewayLink (srcField p) g true)))
    let crossed := toGw.andThen (fun d => { expressWalk s vc g (dstField p) 32 (srcField p) with det := d })
    crossed.andThen (fun d => if toUnit p then exitLeg s p false d
      else (linkLeg s vc (gatewayLink (dstField p) g false) d).andThen (fun d => meshWalk s vc p.dx p.dy walkFuel z.1 z.2 d))
  else if toUnit p then
    e.1.andThen (fun d => if atGw then exitLeg s p false d
      else (meshWalk s vc z.1 z.2 walkFuel e.2.1 e.2.2 d).andThen (exitLeg s p true))
  else e.1.andThen (meshWalk s vc p.dx p.dy walkFuel e.2.1 e.2.2)

/-- What a unicast packet's path comes to. -/
def routeOf (s : State) (p : Packet) : Route := (pathOf s p).route

/-! ### Discards and responses -/

/-- Packets discarded in a field (R351). -/
def discardAt (f n : Nat) (s : State) : State := s.satFld (rFldLink f) 15 0 n

/-- A response to a packet's source (R316, R328). -/
def respPkt (p : Packet) (typ status daddr : Nat) (lastp : Bool) (body : List PWord) : Packet :=
  { typ := typ, lastp := lastp, exp := false, plane := false, det := false, side := false
    dx := p.sx, dy := p.sy, sx := p.dx, sy := p.dy, daddr := daddr, gen := 0, te := false, tok := 0
    q := false, chq := 0, tag := p.tag, rlines := 0, status := status, mcimg := [], body := body }

/-- A packet that a gateway injects, for a limb or a field store: R326's plane is the gateway that it enters at. -/
def byGateway (p : Packet) : Bool := p.sx == 0x1FE || p.sx == 0x1FF

/-- EXP and PLANE of a packet at its injection; `none` where no plane is usable (R325, R326, R863). -/
def chooseExpress (s : State) (choice : Bool) (p : Packet) : Option Packet :=
  let a := srcField p
  let b := dstField p
  let ex := a != b && (toUnit p || (max 1 (s.fld (rFldXp a) 3 0)) ≤ fieldDist a b)
  if !ex && !toUnit p && !byGateway p then some { p with exp := false, plane := choice }
  else
    let ok := fun (g : Bool) => gwUp s a g.toNat && gwUp s b g.toNat
    if ok choice then some { p with exp := ex, plane := choice }
    else if ok (!choice) then some { p with exp := ex, plane := !choice }
    else none

/-- The plane that the injecting unit prefers: SX[0] for a core, DX[0] for a limb's gateway, 0 toward a unit (R326). -/
def planeChoice (p : Packet) : Bool := if p.sx = 0x1FE ∨ p.sx = 0x1FF then !toUnit p && p.dx % 2 == 1 else p.sx % 2 == 1

/-- The router at which a packet is injected: a core's own, or its source field's gateway router. -/
def injectAt (p : Packet) : Nat × Nat := if p.sx = 0x1FE ∨ p.sx = 0x1FF then gwRouter (srcField p) (planeChoice p).toNat else (p.sx, p.sy)

/-- A unicast packet is injected; without a usable plane it is discarded, and a WRA or RD answered with STATUS 0x06 by the injecting router, whose ERR takes no hop but the one back to the source (R326, R328). -/
def injectPkt (p : Packet) (s : State) : State :=
  match chooseExpress s (planeChoice p) p with
  | some q => s.send q
  | none =>
    let s1 := discardAt (srcField p) 1 s
    let r := injectAt p
    if p.typ = 2 ∨ p.typ = 3 then s1.send { respPkt p 6 6 0 true [] with sx := r.1, sy := r.2, plane := planeChoice p } else s1

/-- A response enters the mesh (R328). -/
def respond (p : Packet) (typ status daddr : Nat) (lastp : Bool) (body : List PWord) (s : State) : State :=
  injectPkt (respPkt p typ status daddr lastp body) s

/-- ERR for a WRA or RD (R318, R328). -/
def errTo (p : Packet) (status : Nat) (s : State) : State := if p.typ = 2 ∨ p.typ = 3 then respond p 6 status 0 true [] s else s

/-- ERR for a WRA or RD from the router (x, y) on the packet's path, or the gateway at it (R328). -/
def errFrom (x y : Nat) (p : Packet) (status : Nat) (s : State) : State :=
  if p.typ = 2 ∨ p.typ = 3 then injectPkt { respPkt p 6 status 0 true [] with sx := x, sy := y } s else s

/-- Packets that a seam half discards: DROP, and a contained error each; the INFO of 0x0301 names the crossing link in a form that no rule states (R356, R359). -/
def seamDiscard (east : Bool) (n : Nat) (s : State) : State :=
  forEach (List.range n) (fun _ t =>
    let d := t.draw
    raise .module 2 east.toNat 0x0301 d.1 d.2) (s.satFld (rSeam east) 63 48 n)

/-- A discard in a field: counted, and the contained error 0x0102 that names the destination (R333, R861). -/
def fieldDiscard (x y : Nat) (p : Packet) (s : State) : State :=
  raise (domField (fieldXY x y)) 2 0 0x0102 (wd (dstLoc p)) (discardAt (fieldXY x y) 1 s)

/-- What becomes of a packet on its path: `k` where it arrives, its flits having crossed the links (R333, R359, R360, R861). -/
def onRoute (p : Packet) (k : State → State) (s : State) : State :=
  let r := pathOf s p
  match r.route with
  | .ok => k (passLinks (flitsOf p) r.links s)
  | .dead x y => errFrom x y p 3 (fieldDiscard x y p s)
  | .off x y => errFrom x y p 3 (fieldDiscard x y p s)
  | .seamDrop east x y => errFrom x y p 4 (seamDiscard east 1 s)
  | .seamHold => s
  | .linkHold => s

/-- Two packets take one path on one virtual channel, so that they arrive in the order sent (R320, R324, R344). -/
def sameWay (p q : Packet) : Bool :=
  vcOf p.typ == vcOf q.typ && p.sx == q.sx && p.sy == q.sy && p.dx == q.dx && p.dy == q.dy && p.exp == q.exp && p.plane == q.plane &&
  p.port == q.port && p.mcimg == q.mcimg

/-- An earlier packet of the same way is still on it. -/
def follows (s : State) (p : Packet) : Bool := s.net.contains p && (s.net.takeWhile (fun q => q != p)).any (sameWay p)

/-- A packet cannot arrive yet: an earlier one of the same way is still on it, its path holds it, or flits are under way on it. -/
def waits (s : State) (p : Packet) : Bool :=
  let r := pathOf s p
  follows s p || r.route.holds || !r.links.all (settled s)

/-! ### The local port of a core (R75 to R87, R107) -/

/-- The local port owns the banks, or the core does not run (R84, R104, R107), and no dark-frame slice holds its flits (R709). -/
def admits (s : State) (c : Nat) : Bool := (!coreWindow s c || coreLate s c || !coreRunning s c) && !s.dark.held.contains c

/-- A read of one core-local word for an outbound transfer: a word that does not decode goes out with X = 1 and an open value, with a deferred error (R75, R77, R83). -/
def outWord (c i : Nat) (s : State) : PWord × State :=
  let instr := 65536 ≤ i
  let j := if instr then i - 65536 else i
  let r := if instr then cwRead (s.core c).istore j else cwRead (s.core c).store j
  let bad := fun (t : State) =>
    let d := t.draw
    ((⟨d.1, true⟩ : PWord), raise (domCore c) 1 5 0x0004 (wd i) d.2)
  match r with
  | .clean w => (w, s)
  | .corrected w _ => (w, coreCorrected c instr j s)
  | .misaddressed => bad s
  | .uncorrectable => bad s

/-- Outbound words in order: `read` is the unit's own read of one word. -/
def outWords (read : Nat → State → PWord × State) : List Nat → State → List PWord × State
  | [], s => ([], s)
  | i :: r, s =>
    let a := read i s
    let b := outWords read r a.2
    (a.1 :: b.1, b.2)

/-- A read of a core-local word by a request: core store, instruction store or register window (R78, R79). -/
def coreLocalRead (c i : Nat) (s : State) : PWord × State :=
  if i < 0x12000 then outWord c i s
  else
    let off := coreWin c + 8 * (i - 0x12000)
    (⟨readValue s off, false⟩, readEffect s off)

/-- A body word as a write stores it, the bytes that the write keeps coming from the word's present codeword, which is read, merged and written back with the OR of the X bits (R68, R865). -/
def mergeWord (read : State → PWord × State) (keepLo keepHi : Nat) (w : PWord) (s : State) : PWord × State :=
  if keepLo + keepHi = 0 then (w, s)
  else
    let r := read s
    let old := leBytes 8 r.1.d.toNat
    (⟨wd (leNat (old.take keepLo ++ ((leBytes 8 w.d.toNat).drop keepLo).take (8 - keepLo - keepHi) ++ old.drop (8 - keepHi))), r.1.x || w.x⟩, r.2)

/-- One core-local word takes w (R78 to R81); an instruction-store word is dropped while the core runs. -/
def coreLocalPut (c i : Nat) (w : PWord) (s : State) : State :=
  if i < 0x10000 then writeWord c i w s
  else if i < 0x12000 then
    (if coreRunning s c then s else s.modCore c (fun k => { k with istore := cwWrite k.istore (i - 0x10000) w }))
  else coreRegWrite c (8 * (i - 0x12000)) w.d s

/-- Words `ws` written at core-local word index i on: keepLo bytes of the first and keepHi bytes of the last stay as they are. -/
def coreLocalWrite (c : Nat) : Nat → Nat → Nat → List PWord → State → State
  | _, _, _, [], s => s
  | i, lo, hi, w :: r, s =>
    let m := mergeWord (coreLocalRead c i) lo (if r.isEmpty then hi else 0) w s
    coreLocalWrite c (i + 1) 0 hi r (coreLocalPut c i m.1 m.2)

/-- The packet's words fall in the core-local map (R79). -/
def inCoreMap (a n : Nat) : Bool := a + 8 * n ≤ 0x90800

/-- First word index of a packet. -/
def pktWord (p : Packet) : Nat := p.daddr / 8

/-- An instruction-store word among the packet's words while the core runs (R81). -/
def iswDrop (s : State) (c : Nat) (p : Packet) : Bool :=
  coreRunning s c && 0x10000 < pktWord p + p.body.length && pktWord p < 0x12000 && !p.body.isEmpty

/-- A write packet is written: ISW_DROP and its deferred error where it is dropped, then the token arrival after the last flit (R81, R97, R320, R344). -/
def coreWrite (c : Nat) (p : Packet) (s : State) : State :=
  if !inCoreMap p.daddr p.body.length then errTo p 1 s
  else
    let drop := iswDrop s c p
    let s1 := coreLocalWrite c (pktWord p) p.keepLo p.keepHi p.body s
    if drop then
      errTo p 2 (raise (domCore c) 1 5 0x0005 (wd (max (pktWord p) 0x10000 - 0x10000)) (s1.setFld (rCoreStat c) 49 49 1))
    else
      let s2 := if p.te && p.lastp then tokArrive c p.tok p.gen s1 else s1
      if p.typ = 2 then respond p 5 0 0 true [] s2 else s2

/-- The RDATA packets of a read, 32 lines each (R315, R317). -/
def rdataPkts (p : Packet) (ws : List PWord) (s : State) : State :=
  if ws.length ≤ 256 then respond p 4 0 p.daddr true ws s
  else respond p 4 0 (p.daddr + 2048) true (ws.drop 256) (respond p 4 0 p.daddr false (ws.take 256) s)

/-- A packet at the core's local port is served (R317). -/
def serveCore (c : Nat) (p : Packet) (s : State) : State :=
  if p.typ = 3 then
    let n := 8 * (p.rlines + 1)
    if !inCoreMap p.daddr n then errTo p 1 s
    else
      let r := outWords (coreLocalRead c) ((List.range n).map (· + pktWord p)) s
      rdataPkts p r.1 r.2
  else coreWrite c p s

/-- Held packets are admitted in order while the port admits (R84, R93, R105, R107). -/
def admitList (c : Nat) : List Packet → State → State
  | [], s => s
  | p :: r, s =>
    if admits s c then admitList c r (serveCore c p s)
    else s.modCore c (fun k => { k with held := p :: r })

/-- The local port admits what it holds. -/
def admitHeld (c : Nat) (s : State) : State :=
  if admits s c then admitList c (s.core c).held (s.modCore c (fun k => { k with held := [] })) else s

/-- The local-port buffer has an entry of its 16 flits free, or the port admits: a packet's head may enter, the flits that find no entry waiting upstream for credits (R87, R321). -/
def portRoom (s : State) (c : Nat) : Bool := admits s c || ((s.core c).held.map flitsOf).foldl (· + ·) 0 < 16

/-- A packet reaches the local port: served at once, or held behind those that wait (R87). -/
def arriveCore (c : Nat) (p : Packet) (s : State) : State :=
  admitHeld c (s.modCore c (fun k => { k with held := k.held ++ [p] }))

/-! ### Field stores (R415, R629, R865) -/

/-- Words of a field store. -/
def fsWords : Nat := 4194304
/-- The folded address of a field-store word: slices of 1 MiB in address order (R415). -/
def fsFold (w : Nat) : Nat := (w % 65536) ^^^ (2 * (w / 131072) + (w / 65536) % 2)

/-- The stored word written clean. -/
def fsPut (f w : Nat) (x : PWord) (s : State) : State :=
  { s with fst := tset s.fst (fsWords * f + w) (eccEncode x.d x.x (fsFold w)) }

/-- A field-store word that cannot be read: an open value, poisoned in place (R416). -/
def fsBad (f w : Nat) (s : State) : PWord × State :=
  let d := s.draw
  let i := d.2.draw
  (⟨d.1, true⟩, raise (domField f) 1 3 0x0106 i.1 (fsPut f w ⟨d.1, true⟩ i.2))

/-- One field-store read: a word that does not decode is read again, delivered with X = 1 and an open value, written back clean, and recorded (R629). The INFO's layout of slice and word is not stated. -/
def fsRead (f w : Nat) (s : State) : PWord × State :=
  match tfind s.fst (fsWords * f + w) with
  | none => (⟨0, false⟩, s)
  | some cw => match eccDecode cw (fsFold w) with
    | .clean x => (x, s)
    | .corrected x y => (x, corrected (domField f) 1 { s with fst := tset s.fst (fsWords * f + w) y })
    | .misaddressed => fsBad f w s
    | .uncorrectable => fsBad f w s

/-- The bytes of a list of words with the X bit of the word that supplies each. -/
def xBytes (ws : List PWord) : List (Byte × Bool) := ws.flatMap (fun w => (leBytes 8 w.d.toNat).map (fun b => (b, w.x)))

/-- The new bytes of one word: those that a write of `bs` at byte address `a` puts at byte i of word w. -/
def newByte (bs : List (Byte × Bool)) (a w i : Nat) : Option (Byte × Bool) := if 8 * w + i < a then none else bs[8 * w + i - a]?

/-- One field-store word under a write of bytes: whole words replaced, others read, merged and written back (R865). -/
def fsMergeWord (f a : Nat) (bs : List (Byte × Bool)) (w : Nat) (s : State) : State :=
  let nb := (List.range 8).map (newByte bs a w)
  let nx := nb.any (fun o => match o with | some q => q.2 | none => false)
  let val := fun (old : Nat) => leNat ((leBytes 8 old).zipWith (fun o n => match n with | some q => q.1 | none => o) nb)
  if nb.all Option.isSome then fsPut f w ⟨wd (val 0), nx⟩ s
  else
    let r := fsRead f w s
    fsPut f w ⟨wd (val r.1.d.toNat), r.1.x || nx⟩ r.2

/-- Bytes with their X bits written to a field store (R865); words beyond the store take nothing. -/
def fsWriteBytes (f a : Nat) (bs : List (Byte × Bool)) (s : State) : State :=
  forEach ((List.range ((a % 8 + bs.length + 7) / 8)).map (· + a / 8))
    (fun w t => if w < fsWords then fsMergeWord f a bs w t else t) s

/-- The bytes that a packet writes: its body without those it keeps (R865). -/
def pktBytes (p : Packet) : List (Byte × Bool) := let b := xBytes p.body; (b.take (b.length - p.keepHi)).drop p.keepLo

/-- A packet's words written to a field store (R865). -/
def fsWrite (f : Nat) (p : Packet) (s : State) : State := fsWriteBytes f (p.daddr + p.keepLo) (pktBytes p) s

/-! ### The Occulter's slots (R457, R458) -/

def rOccCfg (f : Nat) : Nat := fieldBase f + 0x400
def State.occAt (s : State) (f : Nat) : Occ := tget Occ.reset s.occ f
def State.setOcc (s : State) (f : Nat) (o : Occ) : State := { s with occ := tset s.occ f o }
/-- Lines of a slot. -/
def mlen (s : State) (f : Nat) : Nat := ceilDiv (s.fld (rOccCfg f) 63 48 + 1) 512
/-- The slots whose first line a field-store line is: predicted ones with false, true ones with true. -/
def slotsAt (s : State) (f line : Nat) : List (Bool × Nat) :=
  (List.range (s.fld (rOccCfg f) 47 42 + 1)).flatMap (fun k =>
    (if s.fld (rOccCfg f) 41 23 + k * mlen s f = line then [(false, k)] else []) ++ (if s.fld (rOccCfg f) 22 4 + k * mlen s f = line then [(true, k)] else []))

/-- A packet of a field-store transfer has been written: the Occulter in use keeps the transfer's first line, and after its last packet the slots that begin there are due (R458). -/
def occTrack (f : Nat) (p : Packet) (s : State) : State :=
  if !s.flag (rOccCfg f) 0 then s
  else
    let o := s.occAt f
    let key := (p.sx * 256 + p.sy) * 4096 + p.tag
    let a := (tfind o.first key).getD p.daddr
    s.setOcc f (if p.lastp then { o with first := terase o.first key, due := o.due ++ slotsAt s f (a / 64) } else { o with first := tset o.first key a })

/-! ### Delivery -/

/-- The packet is no longer on its way. -/
def State.taken (s : State) (p : Packet) : State := { s with net := s.net.erase p }

/-- A unicast packet for a core (R317, R333, R675, R861); where the local port has no entry free it waits (R87). -/
def deliverCore (p : Packet) (s : State) : State :=
  let c := coreAt p.dx p.dy
  if waits s p || (routeOf s p == .ok && computeOn s (dstField p) && !portRoom s c) then s
  else onRoute p (fun t =>
    let f := dstField p
    if !computeOn t f then errTo p 3 (discardAt f 1 t) else arriveCore c p t) (s.taken p)

/-- The destination is a core of the wafer. -/
def coreDest (p : Packet) : Bool := p.dx < 448 && p.dy < 180

/-- A packet for a field store: written, or read line by line (R317, R408, R675, R865). -/
def deliverStore (p : Packet) (s : State) : State :=
  if waits s p then s
  else onRoute p (fun t =>
    let f := p.dy
    if !storeOn t f then errTo p 3 (discardAt f 1 t)
    else if p.typ = 3 then
      let r := outWords (fun w u => if w < fsWords then fsRead f w u else (⟨0, false⟩, u)) ((List.range (8 * (p.rlines + 1))).map (· + pktWord p)) t
      rdataPkts p r.1 r.2
    else
      let t1 := occTrack f p (fsWrite f p t)
      if p.typ = 2 then respond p 5 0 0 true [] t1 else t1) (s.taken p)

/-- The destination is the field store of a field. -/
def storeDest (p : Packet) : Bool := p.dx == 0x1FF && p.dy < 84

/-- A request packet by its destination (R317). -/
def deliver (p : Packet) (s : State) : State :=
  if coreDest p then deliverCore p s else if storeDest p then deliverStore p s else s.taken p

def execWr (p : Packet) (s : State) : Res := .next (deliver { p with typ := 1 } s)
def execWra (p : Packet) (s : State) : Res := .next (deliver { p with typ := 2 } s)
def execRd (p : Packet) (s : State) : Res := .next (deliver { p with typ := 3 } s)
/-- A field-store write (R865). -/
def execFsw (p : Packet) (s : State) : Res := .next (if storeDest p then deliverStore { p with typ := 8 } s else s.taken p)

/-! ### Responses at a limb (R760, R857) -/

/-- BAR2_ERR (R760). -/
def bar2Err (s : State) : State := s.satFld rHostStat 63 48 1

/-- A part of an engine's read is answered: its bytes with their X bits, and status 0 or that of R443. -/
def engAnswer (l a n part st : Nat) (bs : List (Byte × Bool)) (s : State) : State :=
  { s with engReads := s.engReads.map (fun e =>
      if e.limb = l ∧ e.addr = a ∧ e.len = n then { e with left := e.left - 1, status := if e.status = 0 then st else e.status, got := tset e.got part bs } else e) }

/-- An outstanding request of a limb ends: `err` for an ERR response. BAR2 reads complete to the host, a lost BAR2 write is recorded, and the debug transport takes its response (R760, R857). -/
def reqDone (key : Nat) (q : MeshReq) (err : Bool) (s : State) : State :=
  let s1 := { s with reqs := terase s.reqs key }
  let data := ((q.got.flatMap (fun w => leBytes 8 w.d.toNat)).drop q.skip).take q.len
  let pois := q.got.any (fun w => w.x)
  if q.who = 3 then engAnswer (key / 4096) q.off q.total q.part (if err then 6 else 0) (((xBytes q.got).drop q.skip).take q.len) s1
  else if q.who = 1 then { s1 with xp := { s1.xp with busy := false, rstat := if err || pois then 3 else 0, data := if q.write then [] else data } }
  else if q.write then
    (if err then raise (domLimb (hostLimb s)) 1 10 0x0601 (wd q.skip) (bar2Err s1) else s1)
  else if err then bar2Err (s1.emit (.readDone 2 []))
  else s1.emit (.readDone (if pois then 3 else 0) data)

/-- A response reaches the limb that asked (R328); a response that nothing waits for is discarded (R761). -/
def limbResponse (p : Packet) (err : Bool) (s : State) : State :=
  if waits s p then s
  else onRoute p (fun t =>
    let key := 4096 * p.dy + p.tag
    if p.dx != 0x1FE then t
    else match tfind t.reqs key with
      | none => t
      | some q =>
        let q1 := { q with got := q.got ++ p.body }
        if err || p.lastp then reqDone key q1 err t else { t with reqs := tset t.reqs key q1 }) (s.taken p)

/-! ### Multicast (R336 to R344) -/

/-- The physical rectangle of a multicast image: PX0, PX1, PY0, PY1 (R336). -/
def mcRect (img : List Word) : Nat × Nat × Nat × Nat :=
  let w := img.getD 0 0
  (bits w 8 0, bits w 17 9, bits w 25 18, bits w 33 26)

/-- Exclusion entry i as v × 512 + u (R336). -/
def mcExcl (img : List Word) (i : Nat) : Nat := nbits (img.getD (2 + i / 2) 0).toNat (32 * (i % 2) + 16) (32 * (i % 2))

/-- A core accepts a multicast (R200, R338). -/
def mcAccept (s : State) (p : Packet) (c : Nat) : Bool :=
  let w0 := p.mcimg.getD 0 0
  let w1 := p.mcimg.getD 1 0
  let id := s.rd (rCoreId c)
  let lu := bits id 25 17
  let lv := bits id 33 26
  bit id 35 && bit w0 (58 + (bit id 34).toNat) && bits w1 8 0 ≤ lu && lu ≤ bits w1 17 9 && bits w1 25 18 ≤ lv && lv ≤ bits w1 33 26 &&
  (List.range (min 4 (bits w0 62 60))).all (fun i => mcExcl p.mcimg i != lv * 512 + lu) && !(p.sx == coreX c && p.sy == coreY c)

/-- One branch of a multicast tree: what it comes to, whether its copy is the side copy's, and its links. -/
structure Branch where
  route : Route
  side : Bool
  links : List LinkRef
  deriving DecidableEq, Repr

/-- The way of a branch along one line from (x, y) to coordinate d of x or of y, dead routers skipped, the last one dead or not (R340, R341). -/
def lineWalk (s : State) (hor sideCh : Bool) (d : Nat) : Nat → Nat → Nat → Leg
  | 0, _, _ => ⟨.ok, sideCh, []⟩
  | n + 1, x, y =>
    if (if hor then x else y) = d then ⟨.ok, sideCh, []⟩
    else
      let x' := if hor then toward x d else x
      let y' := if hor then y else toward y d
      let skip := rtDead s x' y' && decide ((if hor then x' else y') ≠ d)
      let x2 := if skip && hor then toward x' d else x'
      let y2 := if skip && !hor then toward y' d else y'
      match hopOver s 2 skip sideCh hor x y x2 y2 with
      | .go k a b _ => let r := lineWalk s hor sideCh d n a b; { r with links := k :: r.links }
      | .stop r => ⟨r, sideCh, []⟩
      | .arrive => ⟨.ok, sideCh, []⟩

/-- The branch of a tree from (x, y) to (cx, cy): along the row to the column and down the column (R340). Before a dead router in that column the side copy goes down the column before it, on the detour sub-channel, and takes its last step along x (R341). -/
def mcWalk (s : State) (cx cy x y : Nat) : Branch :=
  let before := if x < cx then cx - 1 else cx + 1
  if x ≠ cx ∧ rtDead s cx y = true ∧ cy ≠ y then
    let a := lineWalk s true false before walkFuel x y
    let b := a.andThen (fun _ => lineWalk s false true cy walkFuel before y)
    let c := b.andThen (fun _ => lineWalk s true true cx 1 before cy)
    ⟨c.route, true, c.links⟩
  else
    let a := (lineWalk s true false cx walkFuel x y).andThen (fun _ => lineWalk s false false cy walkFuel cx y)
    ⟨a.route, false, a.links⟩

/-- The distinct discards of a tree's branches. -/
def pruned (l : List Branch) : List Route := ((l.map (·.route)).filter (fun r => r != .ok && !r.holds)).eraseDups

/-- The discards of a tree's pruned branches (R360, R861). -/
def mcPrune (p : Packet) (l : List Route) (s : State) : State :=
  l.foldl (fun t r => match r with
    | .off x y => fieldDiscard x y p t
    | .seamDrop east _ _ => seamDiscard east 1 t
    | _ => t) s

/-- A core of the rectangle takes its copy (R338, R675). -/
def mcDeliver (p : Packet) (c : Nat) (s : State) : State :=
  if rtDead s (coreX c) (coreY c) then s
  else if !computeOn s (fieldOf c) then s
  else if mcAccept s p c then arriveCore c p s else s

/-- The cores of a rectangle, row by row. -/
def rectCores (x0 x1 y0 y1 : Nat) : List (Nat × Nat) :=
  (List.range (y1 + 1 - y0)).flatMap (fun j => (List.range (x1 + 1 - x0)).map (fun i => (x0 + i, y0 + j)))

/-- Copies dropped in transit-only fields, each field's counted once for each copy that reaches its routers (R675). -/
def mcDropOff (cs : List (Nat × Nat)) (s : State) : State :=
  cs.foldl (fun t c =>
    let f := fieldXY c.1 c.2
    if transitOn t f && !computeOn t f && !rtDead t c.1 c.2 then discardAt f 1 t else t) s

/-- The copy for a core waits: its branch is held, or the core that would take it has no entry of its local port free (R87, R340). -/
def mcHeld (s : State) (p : Packet) (c : Nat × Nat) (b : Branch) : Bool :=
  b.route.holds || !b.links.all (settled s) || (b.route == .ok && mcAccept s p (coreAt c.1 c.2) && !portRoom s (coreAt c.1 c.2))

/-- A multicast over the branches `walks` of its trees: pruned ones discarded, reached cores served, and what is held left on its way as the packet's rest (R340 to R344). -/
def mcServe (p : Packet) (walks : List ((Nat × Nat) × Branch)) (s : State) : State :=
  let owe := walks.filter (fun w => p.rest.isEmpty || p.rest.contains (coreAt w.1.1 w.1.2))
  let late := owe.filter (fun w => mcHeld s p w.1 w.2)
  let got := owe.filter (fun w => !mcHeld s p w.1 w.2 && w.2.route == .ok)
  let s1 := mcPrune p (pruned ((owe.filter (fun w => !mcHeld s p w.1 w.2)).map (·.2))) s
  let s2 := passLinks (flitsOf p) ((got.flatMap (fun w => w.2.links)).eraseDups) s1
  let s3 := got.foldl (fun t w => mcDeliver { p with rest := [], det := w.2.side, side := w.2.side } (coreAt w.1.1 w.1.2) t) (mcDropOff (got.map (·.1)) s2)
  if late.isEmpty then s3 else { s3 with net := { p with rest := late.map (fun w => coreAt w.1.1 w.1.2) } :: s3.net }

/-- The branches of a tree rooted at one router over cores. -/
def mcTree (s : State) (root : Nat × Nat) (cs : List (Nat × Nat)) : List ((Nat × Nat) × Branch) := cs.map (fun c => (c, mcWalk s c.1 c.2 root.1 root.2))

/-- The fields whose extent meets a rectangle. -/
def rectFields (x0 x1 y0 y1 : Nat) : List Nat :=
  (List.range 84).filter (fun f => 32 * (f % 14) ≤ x1 && x0 ≤ 32 * (f % 14) + 31 && 30 * (f / 14) ≤ y1 && y0 ≤ 30 * (f / 14) + 29)

/-- The branches of a multicast that enters the express plane g at field a: over the plane to each field of the rectangle, and a tree in it from its gateway's router (R342). -/
def mcPlane (s : State) (ch a g : Nat) (cs : List (Nat × Nat)) (fs : List Nat) : List ((Nat × Nat) × Branch) :=
  fs.flatMap (fun f =>
    let w := (expressWalk s ch g f 32 a).andThen (linkLeg s ch (gatewayLink f g false))
    let r := gwRouter f g
    (cs.filter (fun c => fieldXY c.1 c.2 == f)).map (fun c =>
      (c, if w.route = .ok then (let b := mcWalk s c.1 c.2 r.1 r.2; { b with links := w.links ++ b.links }) else ⟨w.route, false, []⟩)))

/-- The branches of a multicast packet: on its express plane, from an edge port of its limb, or from its core (R310, R340, R342). -/
def mcBranches (s : State) (p : Packet) : List ((Nat × Nat) × Branch) :=
  let r := mcRect p.mcimg
  let x1 := min 447 r.2.1
  let y1 := min 179 r.2.2.2
  let cs := rectCores r.1 x1 r.2.2.1 y1
  let gate := if p.sx = 0x1FE ∧ p.here = false then limbGate s p.sy else .ok
  let bs := if p.here then p.rest.map (fun c => ((coreX c, coreY c), ⟨.ok, p.side, []⟩))
    else if p.exp then mcPlane s (chanOf p) (srcField p) p.plane.toNat cs (rectFields r.1 x1 r.2.2.1 y1)
    else if p.sx = 0x1FE then
      (let e := edgeRouter s p.sy r.2.2.1
       (mcTree s e cs).map (fun w => (w.1, { w.2 with links := edgeLink p.sy (e.2 % 30) p.port :: w.2.links })))
    else mcTree s (p.sx, p.sy) cs
  if gate = .ok then bs else bs.map (fun w => (w.1, ⟨gate, false, []⟩))

/-- A multicast packet is delivered over its tree, behind the earlier packets of its transfer (R344). -/
def mcDeliverAll (p : Packet) (s : State) : State :=
  if follows s p then s
  else mcServe p (mcBranches s p) (s.taken p)

def execMcw (p : Packet) (s : State) : Res := .next (mcDeliverAll { p with typ := 0x10 } s)

/-- A head flit with a reserved TYPE at a router (R319). -/
def execReservedTypeDiscard (c : CoreId) (head : Word) (s : State) : Res :=
  if (bits head 63 56) ∈ [0x01, 0x02, 0x03, 0x04, 0x05, 0x06, 0x08, 0x09, 0x10, 0x20] then .next s
  else .next (raise (domField (fieldOf c.val)) 2 0 0x0101 head (discardAt (fieldOf c.val) 1 s))

/-! ### Queued SENDs (R188 to R201) -/

/-- The bodies of a transfer cut into packets of at most 32 flits, with each packet's offset (R315). -/
def cutBody : Nat → Nat → List PWord → List (Nat × Bool × List PWord)
  | 0, _, _ => []
  | n + 1, a, ws =>
    if ws.length ≤ 256 then [(a, true, ws)] else (a, false, ws.take 256) :: cutBody n (a + 2048) (ws.drop 256)

/-- The packet of a SEND or SEND.MC without its body (R189 to R191, R316). DESIGN CHOICE (entry 85): the words of a SEND.MC's multicast entry are taken when the transfer is read, its validity having been checked at issue; no rule says when the entry is taken. -/
def sendHead (s : State) (c : Nat) (op : SendOp) : Packet :=
  let w := op.word
  let mc := iOp w == 1
  let dt := bits w 49 48
  let img := if mc then (List.range 4).map (fun i => s.rd (mcE (fieldOf c) (bits w 49 40) + 8 * i)) else []
  let r := mcRect img
  { typ := if mc then 0x10 else if dt = 0 then 1 else if dt = 1 then 8 else 9
    lastp := false, exp := false, plane := false, det := false, side := false
    dx := if mc then r.1 else if dt = 0 then bits w 44 36 else if dt = 1 then 0x1FF else 0x1FE
    dy := if mc then r.2.2.1 else if dt = 0 then bits w 35 28 else if dt = 1 then 14 * bits w 43 41 + bits w 47 44 else bits w 47 45
    sx := coreX c, sy := coreY c, daddr := op.sdst.toNat
    gen := bits op.sctl 15 0, te := (mc || dt != 1) && bit op.sctl 22, tok := bits op.sctl 21 16
    q := !mc && dt == 3, chq := if mc || dt ≤ 1 then 0 else bits w 39 28, tag := 0, rlines := 0, status := 0, mcimg := img, body := [] }
where
  /-- Offset of a multicast entry (R336). -/
  mcE (f n : Nat) : Nat := fieldBase f + 0x8000 + 32 * n

/-- The local port reads the transfer at the head of the send queue and sends its packets; the sender's token follows the last line (R75, R77, R84, R88, R105, R107, R197, R198). -/
def sendHeadOfQueue (c : Nat) (s : State) : State :=
  match (s.core c).sendq with
  | [] => s
  | op :: rest =>
    let n := 8 * (bits op.sctl 33 24 + 1)
    let r := outWords (outWord c) ((List.range n).map (· + op.ssrc.toNat / 8)) (s.modCore c (fun k => { k with sendq := rest }))
    let h := sendHead r.2 c op
    let s1 := (cutBody 32 h.daddr r.1).foldl (fun t b => injectS { h with daddr := b.1, lastp := b.2.1, body := b.2.2 } t) r.2
    if bit op.word 12 then tokArrive c (bits op.word 11 6) (bits op.sctl 15 0) s1 else s1
where
  /-- A multicast of a core stays on the core mesh (R340). -/
  injectS (p : Packet) (s : State) : State := if p.typ = 0x10 then s.send p else injectPkt p s

/-- SEND_READ (R197): in the transfer window in any STATE, or during late admission. -/
def execSendRead (c : CoreId) (s : State) : Res :=
  if (!coreWindow s c.val || coreLate s c.val) && computeOn s (fieldOf c.val) then .next (sendHeadOfQueue c.val s) else .next s

end Sys2Proof.Machine
end

