-- ==== Sys2Proof/Machine/StreamGen.lean ====
section
/-! DEFINITION. The stream generator of the random bits for stochastic rounding (R109 to R114). -/

namespace Sys2Proof.Machine

/-- A 32-bit rotation to the left. -/
def rotl32 (v n : Nat) : Nat := (v * 2 ^ n) % 2 ^ 32 + (v % 2 ^ 32) / 2 ^ (32 - n)

/-- Addition modulo 2^32. -/
def add32 (a b : Nat) : Nat := (a + b) % 2 ^ 32

/-- The four words x[0] to x[3]. -/
structure SgState where
  x0 : Nat
  x1 : Nat
  x2 : Nat
  x3 : Nat
  deriving DecidableEq, Repr

/-- The four add, XOR and rotate lines of a round (R113). -/
def sgMix (x : SgState) : SgState :=
  let a0 := add32 x.x0 x.x1
  let a3 := rotl32 (x.x3 ^^^ a0) 16
  let a2 := add32 x.x2 a3
  let a1 := rotl32 (x.x1 ^^^ a2) 12
  let b0 := add32 a0 a1
  let b3 := rotl32 (a3 ^^^ b0) 8
  let b2 := add32 a2 b3
  let b1 := rotl32 (a1 ^^^ b2) 7
  ⟨b0, b1, b2, b3⟩

/-- The key injection of round r (R113). -/
def sgInject (k : List Nat) (r : Nat) (x : SgState) : SgState :=
  let v := (k.getD (r % 4) 0 + 0x6A5D39E1 * (r + 1)) % 2 ^ 32
  match (r + 1) % 4 with
  | 0 => { x with x0 := add32 x.x0 v }
  | 1 => { x with x1 := add32 x.x1 v }
  | 2 => { x with x2 := add32 x.x2 v }
  | _ => { x with x3 := add32 x.x3 v }

/-- The 128-bit output for a key and a counter (R113). -/
def sgOut (key : Nat) (c : List Nat) : Nat :=
  let k := (List.range 4).map (fun i => nbits key (32 * i + 31) (32 * i))
  let x0 : SgState := ⟨c.getD 0 0 ^^^ k.getD 0 0, c.getD 1 0 ^^^ k.getD 1 0, c.getD 2 0 ^^^ k.getD 2 0, c.getD 3 0 ^^^ k.getD 3 0⟩
  let x := (List.range 10).foldl (fun x r => sgInject k r (sgMix x)) x0
  x.x0 + x.x1 * 2 ^ 32 + x.x2 * 2 ^ 64 + x.x3 * 2 ^ 96

/-- The counter of sub-block j (R112). -/
def sgCounter (step mb tensor block j : Nat) : List Nat :=
  [step % 2 ^ 32, nbits step 47 32 + mb % 2 ^ 16 * 2 ^ 16, tensor % 2 ^ 24 + block % 2 ^ 8 * 2 ^ 24,
   nbits block 35 8 + j % 16 * 2 ^ 28]

/-- R_e: the 16 random bits of element e of a block (R114). -/
def sgBits (key step mb tensor block e : Nat) : Nat :=
  nbits (sgOut key (sgCounter step mb tensor block (e / 8))) (16 * (e % 8) + 15) (16 * (e % 8))

/-- The 16 random bits of element i of a tensor (R112, R114). -/
def sgElem (key step mb tensor i : Nat) : Nat := sgBits key step mb tensor (i / 32 % 2 ^ 36) (i % 32)

end Sys2Proof.Machine
end

