-- ==== Sys2Proof/Machine/Records.lean ====
section
/-! DEFINITION. Structure clamping and its records (R441, R783, R784), completion entries (R777, R778), the engine tables (R374, R524), the recipes' codes in force (R298) and the observations (R287 to R291). -/

namespace Sys2Proof.Machine

/-! ### The module range (R363, R364, R406, R407) -/

/-- Where an address lies (R363, R406, R407). -/
inductive Place where
  | store (a : Nat)
  | fs (f off : Nat)
  | core (c addr : Nat)
  | host (a : Nat)
  | reserved
  deriving DecidableEq, Repr

def placeOf (a : Nat) : Place :=
  if a < 2 ^ 44 then .store a
  else if a < 0x1000A8000000 then .fs ((a - 2 ^ 44) / 2 ^ 25) ((a - 2 ^ 44) % 2 ^ 25)
  else if 0x100100000000 ≤ a ∧ a < 0x100FC4000000 then .core ((a - 0x100100000000) / 0xC0000) ((a - 0x100100000000) % 0xC0000)
  else if inHostWindow a then .host a
  else if 2 ^ 48 ≤ a then .core ((a - 2 ^ 48) / 2 ^ 20) ((a - 2 ^ 48) % 2 ^ 20)
  else .reserved

/-- A reserved address: nothing changes, a deferred error (R364). -/
def addrError (l a : Nat) (s : State) : State := raise (domLimb l) 1 0 0x0201 (wd (a % 2 ^ 48)) s

/-- A packet of a limb's transfer without its body (R316). -/
def limbPkt (l tag typ dx dy daddr : Nat) : Packet :=
  { typ := typ, lastp := true, exp := false, plane := false, det := false, side := false, dx := dx, dy := dy, sx := 0x1FE, sy := l
    daddr := daddr, gen := 0, te := false, tok := 0, q := false, chq := 0, tag := tag, rlines := 0, status := 0, mcimg := [], body := [] }

/-- A packet enters the wafer: at an edge port where R310 says so, else at a gateway. -/
def limbInject (p : Packet) (s : State) : State := if byEdge p then s.send p else injectPkt p s

/-- Packets of at most 32 flits of one stretch of words (R315): offset, whether last, words. -/
def packets (a : Nat) (ws : List PWord) : List (Nat × Bool × List PWord) := cutBody (ws.length / 256 + 1) a ws

/-- The words that bytes from byte address `a` on cover, each with X where a byte of it brings it. -/
def coverWords (a : Nat) (bs : List (Byte × Bool)) : List PWord :=
  let n := ceilDiv (a % 8 + bs.length) 8
  let all := List.replicate (a % 8) ((0 : Byte), false) ++ bs ++ List.replicate 8 (0, false)
  (List.range n).map (fun i => let w := (all.drop (8 * i)).take 8; ⟨wd (leNat (w.map (·.1))), w.any (·.2)⟩)

/-- Bytes written to a core or field store of the wafer: packets of a TYPE, the first and the last of which leave the bytes beside them as they are (R408, R865). -/
def waferWrite (l tag typ dx dy a : Nat) (port : Bool) (bs : List (Byte × Bool)) (s : State) : State :=
  let hi := (8 - (a + bs.length) % 8) % 8
  ((packets (a / 8 * 8) (coverWords a bs)).zipIdx).foldl (fun t q =>
    limbInject { limbPkt l tag typ dx dy q.1.1 with lastp := q.1.2.1, body := q.1.2.2, port := port, keepLo := if q.2 = 0 then a % 8 else 0, keepHi := if q.1.2.1 then hi else 0 } t) s

/-- Bytes written by an engine of limb l at a module address: 0, or the status of R443 that the failure has (R364, R403, R411). To the wafer they go as packets of TYPE `typ`, or FSW (R408). -/
def modWrite (l tag typ a : Nat) (bs : List (Byte × Bool)) (s : State) : Nat × State :=
  match placeOf a with
  | .store b =>
    let w := writeBytes true b (bs.map (·.1)) s
    let bad := (bs.zipIdx.filter (fun p => p.1.2)).map (fun p => (b + p.2) / 8)
    if w.1 then (0, bad.foldl (fun t i => putX i true t) w.2) else (3, w.2)
  | .fs f off => (0, waferWrite l tag (if typ = 2 then 2 else 8) 0x1FF f off false bs s)
  | .core c b => (0, waferWrite l tag typ (coreX c) (coreY c) b false bs s)
  | .host b => (match winTranslate s b true with
    | some h => (0, s.emit (.hostWrite h.1 (bs.map (·.1)) h.2))
    | none => (5, winError b s))
  | .reserved => (1, addrError l a s)

/-- Tag of the posted writes of a limb's engines, which nothing answers. -/
def postedTag : Nat := 4095

/-- An engine's read outside the store range: what has come of it, or the command lacks it (R408, R411). -/
def askRead (l a n : Nat) (s : State) : Nat × List (Byte × Bool) × State :=
  match s.engReads.find? (fun e => e.limb == l && e.addr == a && e.len == n && e.left == 0) with
  | some e => (e.status, (e.got.flatMap (·.2) ++ List.replicate n ((0 : Byte), false)).take n, { s with engReads := s.engReads.map (fun x => if x = e then { x with used := true } else x) })
  | none => (7, List.replicate n (0, false), { s with engWant := s.engWant ++ [(l, a, n)] })

/-- n bytes read by an engine of limb l at a module address, with the X bit of each byte's word: 0, the status of R443 that the failure has, or 7 where the read is still to be answered. -/
def modRead (l a n : Nat) (s : State) : Nat × List (Byte × Bool) × State :=
  let zeros := List.replicate n ((0 : Byte), false)
  match placeOf a with
  | .store b => let r := readStore true (b / 8) ((b % 8 + n + 7) / 8) s; (0, (xBytes r.1).drop (b % 8) |>.take n, r.2)
  | .fs _ _ => askRead l a n s
  | .core _ _ => askRead l a n s
  | .host b => if (winTranslate s b false).isSome then askRead l a n s else (5, zeros, winError b s)
  | .reserved => (1, zeros, addrError l a s)

/-- A free TAG of a limb for requests that are not Slew's, 128 or more. -/
def reqTag (s : State) (l : Nat) : Nat := ((List.range 3900).find? (fun t => (tfind s.reqs (4096 * l + 128 + t)).isNone)).getD 0 + 128

/-- A packet with its request entry enters the wafer from limb l. -/
def askFrom (l : Nat) (q : MeshReq) (typ dx dy daddr lines keepLo keepHi : Nat) (body : List PWord) (s : State) : State :=
  let t := reqTag s l
  limbInject { limbPkt l t typ dx dy daddr with rlines := lines - 1, body := body, keepLo := keepLo, keepHi := keepHi } { s with reqs := tset s.reqs (4096 * l + t) q }

/-- The parts of a read of n bytes from byte address b on, of at most 64 lines each: place in the read, address and length (R315). -/
def readParts : Nat → Nat → Nat → Nat → List (Nat × Nat × Nat)
  | 0, _, _, _ => []
  | fuel + 1, o, b, n => if n = 0 then [] else let k := min n (4096 - b % 64); (o, b, k) :: readParts fuel (o + k) (b + k) (n - k)

/-- An engine's read of a unit of the wafer leaves as RD packets (R408). -/
def startWafer (l a n dx dy b : Nat) (s : State) : State :=
  let ps := readParts (n / 64 + 2) 0 b n
  ps.foldl (fun t p => askFrom l { who := 3, off := a, write := false, skip := p.2.1 % 64, len := p.2.2, got := [], total := n, part := p.1 } 3 dx dy (p.2.1 / 64 * 64) (ceilDiv (p.2.1 % 64 + p.2.2) 64) 0 0 [] t)
    { s with engReads := s.engReads ++ [⟨l, a, n, ps.length, 0, false, []⟩] }

/-- An engine's read leaves: RD packets into the wafer, or a request of the host limb (R408, R411). -/
def startRead (q : Nat × Nat × Nat) (s : State) : State :=
  let l := q.1
  let a := q.2.1
  let n := q.2.2
  if s.engReads.any (fun e => e.limb == l && e.addr == a && e.len == n) then s
  else match placeOf a with
    | .fs f b => startWafer l a n 0x1FF f b s
    | .core c b => startWafer l a n (coreX c) (coreY c) b s
    | .host b => (match winTranslate s b false with
      | some h => hostRead ⟨3, l, n, h.1, n, b⟩ h.2 { s with engReads := s.engReads ++ [⟨l, a, n, 1, 0, false, []⟩] }
      | none => s)
    | _ => s

/-- A command of an engine that reads the module range: where reads outside the store range are still to be answered, it makes them and waits, nothing else changed; the same command goes on when they have come. DESIGN CHOICE (entry 91). -/
def withReads (f : State → State) (s : State) : State :=
  let t := f s
  if t.engWant = s.engWant then { t with engReads := t.engReads.filter (fun e => !e.used || s.engReads.contains e) }
  else (t.engWant.drop s.engWant.length).foldl (fun u q => startRead q u) s

/-! ### Structure clamping (R783, R784) -/

/-- One field that was clamped: its lowest bit in the entry, its width, the value written and the value used. -/
structure Clamp where
  lo : Nat
  width : Nat
  written : Nat
  used : Nat
  deriving DecidableEq, Repr

/-- A field of an entry and the value used for each value written. -/
structure FieldRule where
  lo : Nat
  width : Nat
  use : Nat → Nat

/-- A field of an entry held as one number. -/
def fieldN (e lo width : Nat) : Nat := nbits e (lo + width - 1) lo
/-- An entry with one field replaced. -/
def putFieldN (e lo width v : Nat) : Nat := e / 2 ^ (lo + width) * 2 ^ (lo + width) + v % 2 ^ width * 2 ^ lo + e % 2 ^ lo
/-- An entry held as one number, from its words. -/
def wordsN : List Word → Nat
  | [] => 0
  | w :: r => w.toNat + 2 ^ 64 * wordsN r
/-- The first n words of an entry held as one number. -/
def nWords : Nat → Nat → List Word
  | 0, _ => []
  | n + 1, e => wd e :: nWords n (e / 2 ^ 64)

/-- One field checked. -/
def checkField (r : FieldRule) (x : Nat × List Clamp) : Nat × List Clamp :=
  let v := fieldN x.1 r.lo r.width
  let u := r.use v
  if u = v then x else (putFieldN x.1 r.lo r.width u, x.2 ++ [⟨r.lo, r.width, v, u⟩])

/-- An entry checked field by field: the entry used, and the clamps in the order of the rules. -/
def checkEntry (rs : List FieldRule) (e : Nat) : Nat × List Clamp := rs.foldl (fun x r => checkField r x) (e, [])

/-- A reserved field takes 0. -/
def rule0 (hi lo : Nat) : FieldRule := ⟨lo, hi + 1 - lo, fun _ => 0⟩
/-- A field with an upper end. -/
def ruleMax (hi lo m : Nat) : FieldRule := ⟨lo, hi + 1 - lo, fun v => min v m⟩
/-- A field with a lower and an upper end. -/
def ruleRange (hi lo a b : Nat) : FieldRule := ⟨lo, hi + 1 - lo, fun v => max a (min v b)⟩
/-- An address whose low k bits are cleared. -/
def ruleAlign (hi lo k : Nat) : FieldRule := ⟨lo, hi + 1 - lo, fun v => alignDown v (2 ^ k)⟩

/-- One clamp record (R784). -/
def clampRecord (source stype unit entry report nth : Nat) (c : Clamp) (s : State) : State :=
  ringPush ringClamp
    [wd (report % 2 ^ 32 * 2 ^ 32 + source * 2 ^ 28 + stype * 2 ^ 20 + unit * 2 ^ 12 + nth % 4096),
     wd (entry % 2 ^ 32 + c.lo % 65536 * 2 ^ 32 + c.width % 256 * 2 ^ 48), wd c.written, wd c.used, stepCnt s, sidereal s, 0] s

/-- The clamp records of one report, numbered from `nth`: each with the entry it belongs to. -/
def clampRecords (source stype unit report : Nat) : Nat → List (Nat × Clamp) → State → State
  | _, [], s => s
  | nth, (e, c) :: r, s => clampRecords source stype unit report (nth + 1) r (clampRecord source stype unit e report nth c s)

/-- The clamps of one check take the next REPORT number and are recorded; without clamps no number is taken. -/
def clampReport (source stype unit : Nat) (cl : List (Nat × Clamp)) (s : State) : Nat × State :=
  if cl.isEmpty then (0, s)
  else (s.report, clampRecords source stype unit s.report 0 cl { s with report := (s.report + 1) % 2 ^ 32 })

/-! ### Completion entries (R777, R778) -/

/-- A list filled with zero words up to n. -/
def padWords (n : Nat) (ws : List Word) : List Word := (ws ++ List.replicate n 0).take n

/-- A completion entry enters completion ring j. -/
def postTo (j src lring : Nat) (rec : List Word) (s : State) : State :=
  ringPush (ringCq s (j % 64)) (wd (src * 2 ^ 56 + lring * 2 ^ 48) :: padWords 14 (padWords 8 rec)) s

/-- The completion ring of a launch ring. -/
def lrCq (s : State) (lring : Nat) : Nat := s.fld (0x1008 + 0x40 * lring) 53 48

/-- The ring that HOST_CQ_ROUTE names for a source: 1 Slew, 2 plan run, 3 update engine, 4 Plate engine. -/
def routeCq (s : State) (src : Nat) : Nat := s.fld 0x810 (8 * (src - 1) + 5) (8 * (src - 1))

/-- A source record is posted: to its launch ring's completion ring, or where HOST_CQ_ROUTE says; lring 0xFF for none (R778). -/
def post (src lring : Nat) (rec : List Word) (s : State) : State :=
  postTo (if lring = 0xFF then routeCq s src else lrCq s lring) src lring rec s

/-! ### Engine tables -/

/-- Where the table of a structure type stands in the work area; the manual gives no offset. -/
def engTab (stype : Nat) : Nat := 0x400000 + 0x100000 * stype
/-- n words of an engine table from byte offset `off`. -/
def engWords (s : State) (l stype off n : Nat) : List Word := (List.range n).map (fun i => workWord s l (engTab stype + off + 8 * i))

/-! ### Recipes -/

/-- A step is launched (R774). -/
def launched (s : State) : Bool := s.flag rHostStep 0
/-- The current control and parameter banks: as the launch sampled them while a step is launched (R532). -/
def curCbank (s : State) : Nat := if launched s then s.samp.cbank else s.fld 0x6008 1 1
def curPbank (s : State) : Nat := if launched s then s.samp.pbank else s.fld 0x6008 0 0
/-- Module address of control bank k (R531). -/
def cbankBase (s : State) (k : Nat) : Nat := s.fld 0x6030 47 20 * 2 ^ 20 + k * 0x100000
/-- The code in force of a recipe (R294, R298). -/
def recipeCode (s : State) (n : Nat) : Nat := (memByte s (cbankBase s (curCbank s) + 32 * n)).toNat
/-- An engine of limb l has read a byte at a module address: LAST of the granule, or the error of a reserved address (R364, R383). -/
def byteUse (l a : Nat) (s : State) : State :=
  match placeOf a with
  | .store b => touch (b / granule) s
  | .reserved => addrError l a s
  | _ => s
/-- An engine of limb l has read a recipe's code. -/
def codeUse (l n : Nat) (s : State) : State := byteUse l (cbankBase s (curCbank s) + 32 * n) s
/-- ROUND of a recipe in a limb's table: stochastic rounding when true (R285). -/
def recipeSr (s : State) (l n : Nat) : Bool := bit (workWord s l (engTab 1 + 16 * n + 8)) 48
/-- The stream-generator key of the step: what the limb took when the launch reached it (R110). -/
def limbKey (s : State) (l : Nat) : Nat := (s.limb l).sgkey
/-- The key as LMB_SGKEY0 and LMB_SGKEY1 hold it (R110). -/
def keyCopy (s : State) (l : Nat) : Nat := (s.rd (limbBase l + 0x4010)).toNat + 2 ^ 64 * (s.rd (limbBase l + 0x4018)).toNat

/-! ### Observations -/

/-- Two observation words merged: NF and SAT by OR, PEAK by maximum (R291). -/
def obsMerge (a b : Nat) : Nat :=
  (if a.testBit 15 || b.testBit 15 then 2 ^ 15 else 0) + (if a.testBit 14 || b.testBit 14 then 2 ^ 14 else 0) + max (a % 256) (b % 256)

/-- An observation merged into a vector. -/
def obsPut (t : Tab Nat) (n w : Nat) : Tab Nat := if w = 0 then t else tset t n (obsMerge (tget 0 t n) w)
/-- Two vectors merged. -/
def obsJoin (a b : Tab Nat) : Tab Nat := b.foldl (fun t p => obsPut t p.1 p.2) a

/-- PEAK of the largest magnitude m × 2^e (R288). -/
def peakOf (m : Nat) (e : Int) : Nat := if m = 0 then 0 else (max 1 (min 254 ((m.log2 : Int) + e + 127))).toNat

/-- An observation word. -/
def obsWord (nf sat : Bool) (peak : Nat) : Nat := nf.toNat * 2 ^ 15 + sat.toNat * 2 ^ 14 + peak % 256

/-- A limb takes an observation for the update vector or the gradient vector; one that is late for the gradient vector is counted and recorded (R291). -/
def observe (l : Nat) (upd : Bool) (n w : Nat) (s : State) : State :=
  if w = 0 then s
  else if upd then { s with obs := { s.obs with u := obsPut s.obs.u n w } }
  else if s.obs.gClosed then
    raise (domLimb l) 1 7 0x0232 (wd n) ({ s with obs := { s.obs with late := obsPut s.obs.late n w } }.satFld 0x2008 47 32 1)
  else { s with obs := { s.obs with g := obsPut s.obs.g n w } }

/-- One element of a limb conversion: its code, and its part of the observation (R266 to R273, R288). -/
def limbConv (fmt code : Nat) (md : RMode) (v : Fl) : Nat × Nat :=
  let sc := match v with
    | .fin n m e => Fl.fin n m (if fmt ≤ 5 then e + 127 - code else e)
    | x => x
  let r := if fmt ≤ 5 ∧ code = 255 then ((fmtNonfin fmt).1, false) else satCode fmt md sc
  match v with
  | .fin _ m e => (r.1, if fmt ≤ 5 ∧ code = 255 then obsWord true false 0 else obsWord false r.2 (peakOf m e))
  | _ => (r.1, obsWord true false 0)

end Sys2Proof.Machine
end

