-- ==== Sys2Proof/Machine/Slew.lean ====
section
/-! DEFINITION. Slew: the channel table, arming, start, clamping, rows, reads and writes, conversion, completion records and cursors (R420 to R455), and the Occulter (R456 to R462). -/

namespace Sys2Proof.Machine

/-! ### Channel table and engine registers -/

/-- Offset of word w of channel n's entry (R420). -/
def chanOff (l n w : Nat) : Nat := limbBase l + 0x40000 + 64 * n + 8 * w
/-- Offset of word w of conversion parameter entry n (R427). -/
def parOff (l n w : Nat) : Nat := limbBase l + 0x80000 + 32 * n + 8 * w
def rSlwStat (l : Nat) : Nat := limbBase l + 0x2008
def rSlwCq (l : Nat) : Nat := limbBase l + 0x2010

def chanGen (s : State) (l n : Nat) : Nat := s.fld (chanOff l n 0) 63 48
def chanArmed (s : State) (l n : Nat) : Bool := s.flag (chanOff l n 0) 44
/-- The running transfer of a channel. -/
def findRun (s : State) (l n : Nat) : Option Run := (s.limb l).runs.find? (fun r => r.chan == n)
def isRunning (s : State) (l n : Nat) : Bool := (findRun s l n).isSome

/-- SLW_STAT.RUNNING follows the running transfers (R439). -/
def setRunning (l : Nat) (s : State) : State := s.setFld (rSlwStat l) 6 0 (s.limb l).runs.length
/-- The record of a running transfer replaced. -/
def putRun (l : Nat) (r : Run) (s : State) : State :=
  s.modLimb l (fun k => { k with runs := k.runs.map (fun x => if x.chan = r.chan then r else x) })
/-- A discarded window write or SETGEN (R433, R438, R444). -/
def wrDrop (l : Nat) (s : State) : State := s.satFld (rSlwStat l) 47 32 1

/-- ARM (R432). -/
def armChan (l n arg lring : Nat) (s : State) : State :=
  let busy := isRunning s l n || chanArmed s l n
  let s1 := s.setFld (chanOff l n 0) 63 48 (chanGen s l n + 1)
  let s2 := if busy then s1.satFld (chanOff l n 1) 55 48 1 else s1
  (s2.setFld (chanOff l n 0) 44 44 1).modLimb l (fun k =>
    { k with
      startq := if k.startq.contains n then k.startq else k.startq ++ [n]
      args := tset k.args n (arg, lring)
      runs := k.runs.map (fun r => if r.chan = n then { r with rearms := r.rearms + 1 } else r) })

/-- Removal from the start queue. -/
def unqueue (l n : Nat) (s : State) : State :=
  s.modLimb l (fun k => { k with startq := k.startq.filter (fun x => x != n), args := terase k.args n })

/-! ### Completion records (R440 to R445) -/

/-- A field of a record takes the number where it fits, and an open value otherwise. -/
def fitField (w n : Nat) (s : State) : Nat × State := if n < 2 ^ w then (n, s) else let d := s.draw; (d.1.toNat % 2 ^ w, d.2)

/-- A record enters the limb's ring (R442, R444), is posted where NOTIFY asks (R445), and its error is raised (R443). -/
def slewRecord (l chan gen rearms status : Nat) (ovf : Bool) (clamps base step lines : Nat) (notify : Bool) (lring : Nat) (s : State) : State :=
  let seq := (s.limb l).slwSeq
  let ra := fitField 8 rearms s
  let rec4 := [wd (gen % 65536 * 2 ^ 48 + chanGen s l chan * 2 ^ 32 + ra.1 * 2 ^ 24 + status * 2 ^ 20 + ovf.toNat * 2 ^ 19 + l * 2 ^ 16 + chan),
    wd (clamps % 65536 * 2 ^ 48 + base % 2 ^ 48), wd (step % 65536 * 2 ^ 48 + lines % 2 ^ 48), wd (seq % 2 ^ 32 * 2 ^ 32)]
  let head := s.fld (rSlwCq l) 45 32
  let tail := s.fld (rSlwCq l) 13 0
  let full := (head + 16384 - tail) % 16384 = 8192
  let s1 := wr4 (limbBase l + 0xC0000 + 32 * (head % 8192)) rec4 ra.2
  let s2 := if full then (s1.satFld (rSlwCq l) 63 48 1).setFld (rSlwCq l) 13 0 (tail + 1) else s1
  let s3 := (s2.setFld (rSlwCq l) 45 32 (head + 1)).modLimb l (fun k => { k with slwSeq := (k.slwSeq + 1) % 2 ^ 32 })
  let s4 := if notify then post 1 lring rec4 s3 else s3
  if status = 2 then raise (domLimb l) 1 0 0x0212 (wd chan) s4
  else if status ∈ [1, 3, 5, 6] then raise (domLimb l) 2 0 (0x0210 + status) (wd chan) s4
  else s4

/-! ### Structure check at start (R441) -/

/-- Entry bit position of bit b of word w. -/
def eb (w b : Nat) : Nat := 64 * w + b

/-- Checks that read no other field: HINT, SKIND, DKIND and the reserved fields. -/
def chanRules1 : List FieldRule :=
  [ruleMax (eb 0 47) (eb 0 45) 6, ruleMax (eb 0 33) (eb 0 31) 5, ruleMax (eb 0 30) (eb 0 28) 4,
   rule0 (eb 0 7) (eb 0 0), rule0 (eb 1 56) (eb 1 56), rule0 (eb 2 63) (eb 2 58), rule0 (eb 3 19) (eb 3 14), rule0 (eb 7 63) (eb 7 48)]

/-- SPILL, N2 and N3 by the kinds (R423, R441). -/
def chanRules2 (sk dk : Nat) (spill : Bool) : List FieldRule :=
  let ok := dk == 0 && (sk == 0 || sk == 1 || sk == 3)
  [⟨eb 0 41, 1, fun v => if ok then v else 0⟩] ++
  (if sk = 4 ∨ (spill ∧ ok) then [rule0 (eb 3 51) (eb 3 36), rule0 (eb 3 63) (eb 3 52)] else [])

/-- OP: above 4 becomes 4, and OCCP or OCCM where the transfer cannot be one becomes COPY (R426, R441). -/
def opRule (sk dk n2 n3 : Nat) : FieldRule :=
  ⟨eb 0 34, 4, fun v => let o := min v 4; if 3 ≤ o ∧ (sk ≠ 0 ∨ dk = 0 ∨ n2 ≠ 0 ∨ n3 ≠ 0) then 0 else o⟩

/-- Addresses, coordinates and strides by the kinds (R422, R423, R441). -/
def chanRules3 (sk dk dlen : Nat) (spill : Bool) : List FieldRule :=
  (if spill then [⟨eb 0 45, 3, fun v => if v = 3 then 3 else 6⟩] else []) ++
  (if sk = 1 then [ruleAlign (eb 1 19) (eb 1 0) 6, ruleMax (eb 1 28) (eb 1 20) 447, ruleMax (eb 1 36) (eb 1 29) 179]
   else if sk = 2 then [ruleAlign (eb 1 24) (eb 1 0) 6, ruleMax (eb 1 28) (eb 1 25) 13, ruleMax (eb 1 31) (eb 1 29) 5]
   else if sk = 0 ∨ sk = 4 then [ruleAlign (eb 1 47) (eb 1 0) 6] else []) ++
  (if dk = 1 then [ruleAlign (eb 2 19) (eb 2 0) 6, ruleMax (eb 2 28) (eb 2 20) 447, ruleMax (eb 2 36) (eb 2 29) 179]
   else if dk = 2 then [ruleAlign (eb 2 19) (eb 2 0) 6, ruleMax (eb 2 23) (eb 2 20) 13, ruleMax (eb 2 26) (eb 2 24) 5]
   else if dk = 0 then [ruleAlign (eb 2 47) (eb 2 0) 6]
   else [ruleAlign (eb 2 24) (eb 2 0) 6, ruleMax (eb 2 28) (eb 2 25) 13, ruleMax (eb 2 31) (eb 2 29) 5]) ++
  (if sk = 4 then [⟨eb 4 0, 48, fun v => max v 1⟩, ruleMax (eb 6 47) (eb 6 0) (max dlen 1 - 1)]
   else [ruleAlign (eb 4 31) (eb 4 0) 6, ruleAlign (eb 4 63) (eb 4 32) 6, ruleAlign (eb 5 31) (eb 5 0) 6]) ++
  [ruleAlign (eb 5 63) (eb 5 32) 6] ++
  (if spill then [ruleAlign (eb 6 47) (eb 6 0) 6]
   else if sk = 4 then [] else [ruleAlign (eb 6 31) (eb 6 0) 6, ruleAlign (eb 6 63) (eb 6 32) 6])

/-- A channel entry as used, with its clamps. -/
def checkChan (e : Nat) : Nat × List Clamp :=
  let x1 := checkEntry chanRules1 e
  let sk := fieldN x1.1 (eb 0 31) 3
  let dk := fieldN x1.1 (eb 0 28) 3
  let x2 := checkEntry (chanRules2 sk dk (fieldN x1.1 (eb 0 41) 1 == 1)) x1.1
  let x3 := checkEntry [opRule sk dk (fieldN x2.1 (eb 3 36) 16) (fieldN x2.1 (eb 3 52) 12)] x2.1
  let x4 := checkEntry (chanRules3 sk dk (fieldN x3.1 (eb 4 0) 48) (fieldN x3.1 (eb 0 41) 1 == 1)) x3.1
  (x4.1, x1.2 ++ x2.2 ++ x3.2 ++ x4.2)

/-- A conversion parameter entry as used (R427, R441). -/
def parRules (op : Nat) : List FieldRule :=
  [ruleRange (eb 0 3) (eb 0 0) 6 8, ruleMax (eb 0 7) (eb 0 4) 8, rule0 (eb 0 63) (eb 0 20), ruleAlign (eb 1 47) (eb 1 0) 6] ++
  (if op = 2 then [rule0 (eb 3 63) (eb 3 32)] else [])

/-- The entry of a channel in the table. -/
def chanEntry (s : State) (l n : Nat) : List Word := (List.range 8).map (fun w => s.rd (chanOff l n w))
/-- A parameter entry. -/
def parEntry (s : State) (l n : Nat) : List Word := (List.range 4).map (fun w => s.rd (parOff l n w))

/-! ### A transfer's fields -/

/-- Field [hi:lo] of word w of the snapshot. -/
def Run.f (r : Run) (w hi lo : Nat) : Nat := bits (r.snap.getD w 0) hi lo
/-- Field [hi:lo] of word w of the parameters. -/
def Run.pf (r : Run) (w hi lo : Nat) : Nat := bits (r.par.getD w 0) hi lo
def Run.op (r : Run) : Nat := r.f 0 37 34
def Run.sk (r : Run) : Nat := r.f 0 33 31
def Run.dk (r : Run) : Nat := r.f 0 30 28
def Run.hint (r : Run) : Nat := r.f 0 47 45
def Run.gen (r : Run) : Nat := r.f 0 63 48
def Run.spill (r : Run) : Bool := r.f 0 41 41 == 1
/-- Lines of a row at the source. -/
def Run.rowLines (r : Run) : Nat := r.f 3 13 0 + 1
def Run.n1 (r : Run) : Nat := r.f 3 35 20 + 1
def Run.n2 (r : Run) : Nat := r.f 3 51 36 + 1
def Run.n3 (r : Run) : Nat := r.f 3 63 52 + 1
/-- Rows of the shape (R424). -/
def Run.rows (r : Run) : Nat := r.n1 * r.n2 * r.n3

/-- An address with its low w bits advanced modulo 2^w (R424). -/
def advance (w v : Nat) (d : Int) : Nat := v / 2 ^ w * 2 ^ w + toBits w ((v % 2 ^ w : Nat) + d)

/-- An address as one number: a module address, or 2^48 + 2^20 × core + core-local address for a CORE kind. -/
def fsUnified (v : Nat) : Nat := 2 ^ 44 + (14 * nbits v 31 29 + nbits v 28 25) * 2 ^ 25 + nbits v 24 0
def coreUnified (v : Nat) : Nat := 2 ^ 48 + coreAt (nbits v 28 20) (nbits v 36 29) * 2 ^ 20 + nbits v 19 0

/-- Width of the part of a source address that strides advance, by SKIND. -/
def srcWidth (sk : Nat) : Nat := if sk = 1 then 20 else if sk = 2 then 25 else 48
/-- Width of the part of a destination address that strides advance, by DKIND. -/
def dstWidth (dk : Nat) : Nat := if dk = 1 ∨ dk = 2 then 20 else if dk = 0 then 48 else 25

/-- A signed stride. -/
def stride (r : Run) (w hi lo : Nat) : Int := sx 32 (r.f w hi lo)

/-- Row i as (i1, i2, i3) (R424). -/
def Run.idx (r : Run) (i : Nat) : Nat × Nat × Nat := (i % r.n1, i / r.n1 % r.n2, i / (r.n1 * r.n2))

/-- The source base in the unified form. -/
def Run.srcBase (r : Run) : Nat := if r.sk = 1 then coreUnified r.src else if r.sk = 2 then fsUnified r.src else r.src
/-- The destination base: unified, and for MC the core-local address alone. -/
def Run.dstBase (r : Run) : Nat :=
  if r.dk = 1 then coreUnified r.base else if r.dk = 2 then nbits r.base 19 0 else if r.dk = 0 then r.base else fsUnified r.base

/-- Source address of row i (R424, R448). -/
def Run.srcRow (r : Run) (i : Nat) : Nat :=
  let x := r.idx i
  if r.sk = 4 then
    let d := (r.f 6 47 0 + r.arg * r.n1 + i) % max 1 (r.f 4 47 0)
    (r.src + 64 * r.rowLines * d) % 2 ^ 48
  else advance (srcWidth r.sk) r.srcBase (x.1 * stride r 4 31 0 + x.2.1 * stride r 4 63 32 + x.2.2 * stride r 5 31 0)

/-- Destination address of row i (R424); the strides of word 6 are 0 for INPUT and SPILL (R423). -/
def Run.dstRow (r : Run) (i : Nat) : Nat :=
  let x := r.idx i
  let other : Int := if r.sk = 4 ∨ r.spill then 0 else x.2.1 * stride r 6 31 0 + x.2.2 * stride r 6 63 32
  advance (dstWidth r.dk) r.dstBase (x.1 * stride r 5 63 32 + other)

/-- A row of n lines cut at 1 MiB boundaries, within which its addresses rise and stay in one place: pieces as first line and count. -/
def cutLines (adr : Nat → Nat) : Nat → Nat → Nat → List (Nat × Nat)
  | 0, _, _ => []
  | fuel + 1, j, n =>
    if n = 0 then []
    else
      let k := max 1 (min n ((2 ^ 20 - adr j % 2 ^ 20) / 64))
      (j, k) :: cutLines adr fuel (j + k) (n - k)

/-- A transfer takes the first condition that ends it (R443). -/
def Run.fail (r : Run) (st : Nat) : Run := if r.status = 0 then { r with status := st } else r

/-! ### Reads -/

/-- RD packets for n lines at an address of a unit, 32 RDATA flits twice at most each (R315, R317). -/
def sendReads (l tag dx dy : Nat) (port : Bool) : Nat → Nat → Nat → State → State
  | 0, _, _, s => s
  | fuel + 1, a, n, s =>
    if n = 0 then s
    else
      let k := min n 64
      sendReads l tag dx dy port fuel (a + 64 * k) (n - k) (limbInject { limbPkt l tag 3 dx dy a with rlines := k - 1, port := port } s)

/-- The reads that `sendReads` leaves unanswered: first source word and count of each. -/
def readKeys : Nat → Nat → Nat → List (Nat × Nat)
  | 0, _, _ => []
  | fuel + 1, key, n => if n = 0 then [] else let k := min n 64; (key, 8 * k) :: readKeys fuel (key + 8 * k) (n - k)

/-- Words found, put at their source word numbers. -/
def putGot : Nat → List PWord → Tab PWord → Tab PWord
  | _, [], t => t
  | k, w :: r, t => putGot (k + 1) r (tset t k w)

/-- One piece of a row is read: n lines at an address, its first word numbered `key` (R364, R378, R408, R411). -/
def readPiece (l key a n : Nat) (x : Run × State) : Run × State :=
  let r := x.1
  let s := x.2
  match placeOf a with
  | .store b => let g := readStore true (b / 8) (8 * n) s; ({ r with got := putGot key g.1 r.got }, g.2)
  | .fs f off => ({ r with asked := r.asked ++ readKeys n key n }, sendReads l r.tag 0x1FF f r.port n off n s)
  | .core c b => ({ r with asked := r.asked ++ readKeys n key n }, sendReads l r.tag (coreX c) (coreY c) r.port n b n s)
  | .host b => (match winTranslate s b false with
    | some h => (r, hostRead ⟨0, 4096 * l + r.chan, key, h.1, 64 * n, b⟩ h.2 s)
    | none => (r.fail 5, winError b s))
  | .reserved => (r.fail 1, addrError l a s)

/-- One row is read: row number k among those wanted, at row index i. A row that fails ends the transfer after the rows before it. -/
def readRow (l k i : Nat) (x : Run × State) : Run × State :=
  if x.1.status ≠ 0 then x
  else
    let adr := fun j => advance (srcWidth x.1.sk) (x.1.srcRow i) (64 * j : Nat)
    let n := x.1.rowLines
    let y := (cutLines adr n 0 n).foldl (fun y p => if y.1.status ≠ 0 then y else readPiece l (8 * (n * k + p.1)) (adr p.1) p.2 y) x
    if y.1.status ≠ 0 then ({ y.1 with want := 8 * n * k }, y.2) else y

/-- Rows are read in order. -/
def readRows (l : Nat) : Nat → List Nat → Run × State → Run × State
  | _, [], x => x
  | k, i :: is, x => readRows l (k + 1) is (readRow l k i x)

/-- Store-range granules of a row. -/
def rowGranules (a n : Nat) : List Nat :=
  if a < 2 ^ 44 then (List.range ((a + 64 * n - 1) / granule + 1 - a / granule)).map (· + a / granule) else []

/-! ### The Occulter's registers (R457, R462) -/

def rOccStat (f : Nat) : Nat := fieldBase f + 0x408
def rOccTot (f : Nat) : Nat := fieldBase f + 0x410
def occState (s : State) (f : Nat) : Nat := s.fld (rOccStat f) 3 2

/-- The field of a transfer: that of its destination (R458). -/
def Run.field (r : Run) : Nat :=
  if r.dk = 1 then fieldOf (coreAt (nbits r.base 28 20) (nbits r.base 36 29))
  else if r.dk = 2 then 14 * nbits r.base 26 24 + nbits r.base 23 20
  else 14 * nbits r.base 31 29 + nbits r.base 28 25

/-- Rows that the transfer reads: all, or those its mask marks (R460). -/
def Run.picked (s : State) (r : Run) : List Nat :=
  if r.op = 3 then (List.range r.n1).filter (fun i => (s.occAt r.field).p.testBit i)
  else if r.op = 4 then (List.range r.n1).filter (fun i => (s.occAt r.field).m.testBit i)
  else List.range r.rows

/-! ### Writes -/

/-- The transfer's destination token is to be set by its last packet (R320, R434, R447). -/
def Run.arrives (r : Run) : Bool := r.f 1 63 63 == 1 && (r.dk == 1 || r.dk == 2) && r.status == 0

/-- The token fields of a packet. -/
def withToken (r : Run) (te lastp : Bool) (p : Packet) : Packet :=
  { p with lastp := lastp, te := te && lastp && r.arrives, tok := r.f 1 62 57, gen := r.gen }

/-- The multicast entry of a transfer: entry MCG of F(c,r)'s table (R422). -/
def Run.mcEntry (r : Run) : Nat := Sys2Proof.Machine.mcEntry r.field (r.f 2 57 48)
def mcImage (s : State) (off : Nat) : List Word := (List.range 4).map (fun i => s.rd (off + 8 * i))

/-- How a limb's multicast enters the wafer: EXP and PLANE, `none` without a usable plane (R310, R342). -/
def limbMcPlane (s : State) (l : Nat) (img : List Word) : Option (Bool × Bool) :=
  let q := mcRect img
  if (if l < 4 then decide (q.2.1 < 224) else decide (224 ≤ q.1)) then some (false, false)
  else
    let fs := attachField l :: rectFields q.1 (min 447 q.2.1) q.2.2.1 (min 179 q.2.2.2)
    let ok := fun (g : Bool) => fs.all (fun f => gwUp s f g.toNat)
    let c := q.1 % 2 == 1
    if ok c then some (true, c) else if ok (!c) then some (true, !c) else none

/-- The granules that a transfer writes take its ELEM where ELSET says so (R421). -/
def Run.setElem (r : Run) (gs : List Nat) (s : State) : State :=
  if r.f 0 40 40 = 1 then gs.foldl (fun t g => t.setEntry g (setBits (t.entry g) 57 56 (r.f 0 39 38))) s else s

/-- A stretch of words goes to consecutive addresses of one place; `fin` when it ends the transfer (or the piece of SEGMENT). -/
def writePiece (l a : Nat) (fin : Bool) (ws : List PWord) (x : Run × State) : Run × State :=
  let r := x.1
  let s := x.2
  let done := { r with lines := r.lines + ws.length / 8, poison := r.poison || ws.any (fun w => w.x) }
  if r.dk = 2 then
    let img := mcImage s r.mcEntry
    match limbMcPlane s l img with
    | none => (r.fail 6, discardAt (attachField l) (packets a ws).length s)
    | some (e, g) =>
      (done, (packets a ws).foldl (fun t b =>
        t.send { withToken r true (fin && b.2.1) (limbPkt l r.tag 0x10 (mcRect img).1 (mcRect img).2.2.1 b.1) with exp := e, plane := g, port := r.port, mcimg := img, body := b.2.2 }) s)
  else match placeOf a with
    | .store b =>
      let w := writeStore true (b / 8) ws (r.setElem (rowGranules b (ws.length / 8)) s)
      if w.1 then (done, w.2) else (r.fail 3, w.2)
    | .fs f off => (done, (packets off ws).foldl (fun t b => limbInject { limbPkt l r.tag 8 0x1FF f b.1 with lastp := fin && b.2.1, port := r.port, body := b.2.2 } t) s)
    | .core c b =>
      let ps := packets b ws
      ({ done with lines := r.lines, acks := r.acks ++ ps.map (fun q => q.2.2.length / 8) },
       ps.foldl (fun t q => limbInject { withToken r (r.dk == 1) (fin && q.2.1) (limbPkt l r.tag 2 (coreX c) (coreY c) q.1) with port := r.port, body := q.2.2 } t) s)
    | .host b => (match winTranslate s b true with
      | some h => (done, s.emit (.hostWrite h.1 (wordsBytes (ws.map (·.d))) h.2))
      | none => (r.fail 5, winError b s))
    | .reserved => (r.fail 1, addrError l a s)

/-- Words k to k + n of the source stream. -/
def Run.words (r : Run) (k n : Nat) : List PWord := (List.range n).map (fun i => tget default r.got (k + i))

/-- Stretches of a row for its destination: address and words. -/
def rowPieces (r : Run) (a : Nat) (ws : List PWord) : List (Nat × List PWord) :=
  let adr := fun j => advance (dstWidth r.dk) a (64 * j : Nat)
  (cutLines adr (ws.length / 8) 0 (ws.length / 8)).map (fun p => (adr p.1, (ws.drop (8 * p.1)).take (8 * p.2)))

/-- Stretches of the store range that follow one another are one write, so that whole granules are written directly (R381). -/
def coalesce : List (Nat × List PWord) → List (Nat × List PWord)
  | [] => []
  | [p] => [p]
  | p :: q :: r =>
    match coalesce (q :: r) with
    | [] => [p]
    | c :: cs => if p.1 + 8 * p.2.length = c.1 ∧ c.1 < 2 ^ 44 then (p.1, p.2 ++ c.2) :: cs else p :: c :: cs

/-- The packets of a multicast that finds no plane are counted, as the injecting field's discards (R342). -/
def mcDiscard (l : Nat) (ps : List (Nat × List PWord)) (x : Run × State) : Run × State :=
  if x.1.dk = 2 ∧ (limbMcPlane x.2 l (mcImage x.2 x.1.mcEntry)).isNone then (x.1, discardAt (attachField l) ((ps.map (fun p => (packets p.1 p.2).length)).sum) x.2) else x

/-- Stretches are written in order, the last one with the transfer's end, until one fails (R425, R443). -/
def writeAll (l : Nat) : List (Nat × List PWord) → Run × State → Run × State
  | [], x => x
  | p :: ps, x => if x.1.status ∈ [1, 3, 5, 6] then mcDiscard l (p :: ps) x else writeAll l ps (writePiece l p.1 ps.isEmpty p.2 x)

/-! ### CVT (R428, R429) -/

/-- The destination codes, scale bytes and observation of one row: its elements as values, the index of its first element. -/
def cvtRow (s : State) (l : Nat) (r : Run) (j0 : Nat) (vs : List Fl) : List Nat × List Byte × Nat :=
  let fmt := r.pf 0 7 4
  let code := recipeCode s (r.pf 0 19 8)
  let sk := r.par.getD 2 0
  let md := fun (j : Nat) => if recipeSr s l (r.pf 0 19 8) then .sr (sgElem (limbKey s l) r.step 0xFFFF (bits sk 63 40) (bits sk 39 0 + j)) else RMode.rne
  let es := (List.range vs.length).map (fun i => limbConv fmt code (md (j0 + i)) (vs.getD i .nan))
  (es.map (·.1), if fmt ≤ 5 then List.replicate (ceilDiv vs.length 32) (BitVec.ofNat 8 code) else [], es.foldl (fun o e => obsMerge o e.2) 0)

/-- X of each destination word: a poisoned source word supplied one of its elements. -/
def cvtPoison (ws wdst n : Nat) (src : List PWord) (i : Nat) : Bool :=
  (List.range (min n ((64 * i + 63) / wdst + 1))).any (fun k => 64 * i / wdst ≤ k && (src.getD (k * ws / 64) default).x)

/-- A row of words converted: the destination words, the scale bytes and the observation. -/
def cvtWords (s : State) (l : Nat) (r : Run) (row : Nat) : List PWord × List Byte × Nat :=
  let src := r.words (8 * r.rowLines * row) (8 * r.rowLines)
  let sf := r.pf 0 3 0
  let n := 512 * r.rowLines / fmtBits sf
  let vs := (unpackCodes (fmtBits sf) n (wordsBytes (src.map (·.d)))).map (decodeFl sf)
  let c := cvtRow s l r (n * row) vs
  let wdst := fmtBits (r.pf 0 7 4)
  let lines := ceilDiv (n * wdst) 512
  let bs := packCodes wdst c.1
  let words := bytesWords (8 * lines) bs
  ((List.range (8 * lines)).map (fun i => ⟨words.getD i 0, cvtPoison (fmtBits sf) wdst n src i⟩), c.2.1, c.2.2)

/-- The granules of the store range that n bytes at a lie in. -/
def byteGranules (a n : Nat) : List Nat := if a < 2 ^ 44 ∧ 0 < n then (List.range ((a + n - 1) / granule + 1 - a / granule)).map (· + a / granule) else []

/-- The scale bytes of a transfer are written from SBASE on, each row's behind the one's before (R428); into the wafer in answered writes, so that an ERR ends the transfer (R443). -/
def cvtScales (l : Nat) (sc : List Byte) (x : Run × State) : Run × State :=
  if sc.isEmpty ∨ x.1.status ∈ [1, 3, 5, 6] then x
  else
    let a := x.1.pf 1 47 0
    let w := modWrite l x.1.tag 2 a (sc.map (fun b => (b, false))) (x.1.setElem (byteGranules a sc.length) x.2)
    let n := match placeOf a with
      | .fs _ off => (packets (off / 8 * 8) (coverWords off (sc.map (fun b => (b, false))))).length
      | .core _ b => (packets (b / 8 * 8) (coverWords b (sc.map (fun b => (b, false))))).length
      | _ => 0
    let r := { x.1 with acks := x.1.acks ++ List.replicate n 0 }
    (if w.1 = 0 then r else r.fail w.1, w.2)

/-! ### Issue of a transfer's writes -/

/-- The header and list lines of an Occulter transfer (R460). -/
def occHeader (makeup : Bool) (idx : List Nat) : List PWord :=
  let hdr := wd (idx.length + makeup.toNat * 2 ^ 17) :: List.replicate 7 0
  let lst := padWords (8 * ceilDiv idx.length 32) (bytesWords (8 * ceilDiv idx.length 32) (idx.flatMap (fun i => leBytes 2 i)))
  (hdr ++ lst).map (fun d => ⟨d, false⟩)

/-- Rows whose words are wanted. -/
def Run.wantRows (r : Run) : Nat := r.want / (8 * r.rowLines)

/-- The writes of a CVT transfer: the scales, the rows, and the observation (R428, R429). -/
def issueCvt (l : Nat) (x : Run × State) : Run × State :=
  let cs := (List.range x.1.wantRows).map (fun row => (row, cvtWords x.2 l x.1 row))
  let y := cvtScales l (cs.flatMap (fun c => c.2.2.1)) (x.1, if x.1.pf 0 7 4 ≤ 5 then codeUse l (x.1.pf 0 19 8) x.2 else x.2)
  let z := writeAll l (coalesce (cs.flatMap (fun c => rowPieces y.1 (y.1.dstRow c.1) c.2.1))) y
  if x.1.pf 0 7 4 ≤ 5 then (z.1, observe l false (x.1.pf 0 19 8) (cs.foldl (fun o c => obsMerge o c.2.2.2) 0) z.2) else z

/-- The writes of every operation but SEGMENT. -/
def issueRows (l : Nat) (x : Run × State) : Run × State :=
  let r := x.1
  let y :=
    if r.op = 1 then issueCvt l x
    else if 3 ≤ r.op then
      let idx := r.picked x.2
      writeAll l (coalesce (rowPieces r r.dstBase (occHeader (r.op == 4) idx ++ r.words 0 r.want))) x
    else writeAll l (coalesce ((List.range r.wantRows).flatMap (fun row => rowPieces r (r.dstRow row) (r.words (8 * r.rowLines * row) (8 * r.rowLines))))) x
  ({ y.1 with issued := true }, y.2)

end Sys2Proof.Machine
end

