-- ==== Sys2Proof/Machine/Segment.lean ====
section
/-! DEFINITION. The segmenter: row-compressed tiles read, positions gathered, piece images built and delivered (R243 to R249, R430). -/

namespace Sys2Proof.Machine

/-- What has been read, by byte address of a word; `none` where a line is not here yet. -/
abbrev Look := Nat → Option PWord

/-- A word that the segmenter needs: from the store range at once, else from what the reads have brought. -/
def segLook (s : State) (r : Run) : Look := fun a => if a < 2 ^ 44 then some (memWord s (a / 8)) else tfind r.got (a / 8)

/-- The lines of a list that are not here. -/
def missing (look : Look) (lines : List Nat) : List Nat := (lines.eraseDups).filter (fun a => (look a).isNone)

/-- Bytes of n lines from a line address. -/
def lineBytes (look : Look) (a n : Nat) : List Byte := wordsBytes ((List.range (8 * n)).map (fun i => ((look (a + 8 * i)).getD default).d))

/-- A word of n lines from a line address is poisoned. -/
def linesX (look : Look) (a n : Nat) : Bool := (List.range (8 * n)).any (fun i => ((look (a + 8 * i)).getD default).x)

/-- One non-zero: slot, column offset and code. -/
structure NonZero where
  slot : Nat
  col : Nat
  code : Nat
  deriving DecidableEq, Repr

/-- A tile as read: its header's fields as used, its non-zeros in order, the clamps, and whether a word of it was poisoned. -/
structure Tile where
  kbase : Nat
  win : Nat
  fmt : Nat
  nnz : Nat
  scale : List Nat
  nz : List NonZero
  clamps : List Clamp
  x : Bool
  deriving DecidableEq, Repr

/-- The header's checks: FMT, and the reserved bytes (R243, R245). -/
def tileRules : List FieldRule := [ruleMax 87 80 7, rule0 95 88, rule0 351 288, rule0 415 352, rule0 479 416, rule0 511 480]

/-- Bytes of a segment record with n non-zeros of w bits, up to a line (R244). -/
def segLines (n w : Nat) : Nat := ceilDiv (8 + roundup8 (2 * n) + ceilDiv (n * w) 8) 64

/-- The segment records in order from a line address; the lines missing where one is not here. SLOT's reserved bits and offsets beyond the window are clamped (R244, R245, R783). -/
def readSegs (look : Look) (win w : Nat) : Nat → Nat → List NonZero → List Clamp → Bool → Except (List Nat) (List NonZero × List Clamp × Bool)
  | 0, _, nz, cl, x => .ok (nz, cl, x)
  | n + 1, a, nz, cl, x =>
    match missing look [a] with
    | [] =>
      let b0 := lineBytes look a 1
      let k := (b0.getD 1 0).toNat % 128 + 1
      let sz := segLines k w
      match missing look ((List.range sz).map (fun i => a + 64 * i)) with
      | [] =>
        let bs := lineBytes look a sz
        let slot := (bs.getD 0 0).toNat % 16
        let offs := (List.range k).map (fun i => leNat ((bs.drop (8 + 2 * i)).take 2))
        let codes := unpackCodes w k (bs.drop (8 + roundup8 (2 * k)))
        let new := (List.range k).map (fun i => ⟨slot, min (offs.getD i 0) (win - 1), codes.getD i 0⟩)
        let scl := if (bs.getD 0 0).toNat / 16 = 0 then [] else [⟨4, 4, (bs.getD 0 0).toNat / 16, 0⟩]
        let ncl := scl ++ (List.range k).filterMap (fun i => if win ≤ offs.getD i 0 then some ⟨64 + 16 * i, 16, offs.getD i 0, win - 1⟩ else none)
        readSegs look win w n (a + 64 * sz) (nz ++ new) (cl ++ ncl) (x || linesX look a sz)
      | m => .error m
    | m => .error m

/-- The whole tile (R243 to R245). -/
def readTile (look : Look) (a : Nat) : Except (List Nat) Tile :=
  match missing look [a] with
  | [] =>
    let h := checkEntry tileRules (leNat (lineBytes look a 1))
    let win := fieldN h.1 64 16 + 1
    let fmt := fieldN h.1 80 8
    match readSegs look win (fmtBits fmt) (fieldN h.1 96 16) (a + 64) [] [] (linesX look a 1) with
    | .ok (nz, cl, x) =>
      .ok { kbase := fieldN h.1 32 32, win := win, fmt := fmt, nnz := fieldN h.1 128 32
            scale := (List.range 16).map (fun i => fieldN h.1 (160 + 8 * i) 8), nz := nz, clamps := h.2 ++ cl, x := x }
    | .error m => .error m
  | m => .error m

/-- The occurrence of each non-zero among those of the same slot and column: each value contributes its own product (R245). -/
def layered : List NonZero → List NonZero → List (Nat × NonZero)
  | _, [] => []
  | seen, z :: r => ((seen.filter (fun y => y.slot == z.slot && y.col == z.col)).length, z) :: layered (seen ++ [z]) r

/-- The tile takes the dense path (R246). -/
def Tile.dense (t : Tile) : Bool := decide (16 * t.win < 2 * t.nnz)
/-- A column of K that the dense path delivers lies outside the tile's window, where a 32-column block is not wholly in it (R246, R248): nothing of B stands there. -/
def Tile.outside (t : Tile) (p : Nat × Nat) : Bool := t.dense && p.2 == 0 && (p.1 < t.kbase || t.kbase + t.win ≤ p.1)

/-- The K columns of the pieces, each with the layer of non-zeros it takes: first the positions of the chosen path, then for duplicated offsets the gathered positions of each further layer (R246, R247). -/
def positions (t : Tile) : List (Nat × Nat) :=
  let ls := layered [] t.nz
  let blk := decide (t.fmt ≤ 5)
  let ofCols := fun (ks : List Nat) => if blk then ((List.range ((t.kbase + t.win + 31) / 32)).filter (fun b => ks.any (fun k => k / 32 == b))).flatMap (fun b => (List.range 32).map (fun i => 32 * b + i))
    else (List.range (t.kbase + t.win)).filter (fun k => ks.contains k)
  let gath := fun (layer : Nat) => (ofCols ((ls.filter (fun p => p.1 == layer)).map (fun p => t.kbase + p.2.col))).map (fun k => (k, layer))
  let first := if t.dense then (ofCols ((List.range t.win).map (· + t.kbase))).map (fun k => (k, 0)) else gath 0
  first ++ ((List.range (ls.foldl (fun m p => max m (p.1 + 1)) 1)).drop 1).flatMap gath

/-- The A code of slot m at a position. -/
def aCode (t : Tile) (ls : List (Nat × NonZero)) (m : Nat) (p : Nat × Nat) : Nat :=
  match ls.find? (fun q => q.1 == p.2 && q.2.slot == m && t.kbase + q.2.col == p.1) with
  | some q => q.2.code
  | none => 0

/-- Byte addresses that hold bits [bit, bit + w) of a packed array at `a`. -/
def elemBytes (a bit w : Nat) : List Nat := (List.range ((bit % 8 + w + 7) / 8)).map (fun i => a + bit / 8 + i)

/-- One byte of what has been read. -/
def lookByte (look : Look) (a : Nat) : Byte := BitVec.ofNat 8 (((look (a / 8 * 8)).getD default).d.toNat / 2 ^ (8 * (a % 8)))

/-- Address of B's column n, and of its scales, each column's as many as its pitch holds (R430). -/
def bColumn (r : Run) (n : Nat) : Nat := r.pf 1 47 0 + n * r.pf 3 31 0
def bScale (r : Run) (fmt k n : Nat) : Nat := r.pf 2 47 0 + n * (8 * r.pf 3 31 0 / (32 * fmtBits fmt)) + k / 32

/-- The B code at column k of K for output column n. -/
def bCodeAt (look : Look) (r : Run) (fmt k n : Nat) : Nat :=
  let w := fmtBits fmt
  nbits (leNat ((elemBytes (bColumn r n) (k * w) w).map (lookByte look))) (k * w % 8 + w - 1) (k * w % 8)

/-- The lines that B and its scales need. -/
def bLines (r : Run) (t : Tile) (ps : List (Nat × Nat)) : List Nat :=
  let w := fmtBits t.fmt
  let one := fun (p : Nat × Nat) => (List.range 16).flatMap (fun n =>
    (elemBytes (bColumn r n) (p.1 * w) w).map (fun a => a / 64 * 64) ++ (if t.fmt ≤ 5 then [bScale r t.fmt p.1 n / 64 * 64] else []))
  (ps.flatMap one).eraseDups

/-- The image of one piece of L positions: header line, A, B and scale lines (R248). `pad` is the scale code of a block that is padding. -/
def pieceImage (look : Look) (r : Run) (t : Tile) (ls : List (Nat × NonZero)) (k len : Nat) (last : Bool) (pad : Byte) (ps : List (Nat × Nat)) : List Byte :=
  let kc := fmtK t.fmt
  let w := fmtBits t.fmt
  let order := (List.range (len / kc)).flatMap (fun i => (List.range 16).flatMap (fun m => (List.range kc).map (fun j => (m, ps[i * kc + j]?))))
  let a := packCodes w (order.map (fun q => match q.2 with | some p => aCode t ls q.1 p | none => 0))
  let b := packCodes w (order.map (fun q => match q.2 with | some p => if t.outside p then 0 else bCodeAt look r t.fmt p.1 q.1 | none => 0))
  let fill := fun (bs : List Byte) => bs ++ List.replicate ((64 - bs.length % 64) % 64) 0
  let blocks := (List.range (len / 32)).map (fun q => ps[32 * q]?)
  let sca := fill (blocks.flatMap (fun q => (List.range 16).map (fun m => match q with | some _ => BitVec.ofNat 8 (t.scale.getD m 0) | none => pad)))
  let scb := fill (blocks.flatMap (fun q => (List.range 16).map (fun n => match q with | some p => lookByte look (bScale r t.fmt p.1 n) | none => pad)))
  leBytes 8 (k + last.toNat * 2 ^ 32) ++ List.replicate 56 0 ++ a ++ b ++ (if t.fmt ≤ 5 then sca ++ scb else [])

/-- L at most, by format (R248). -/
def pieceMax (fmt : Nat) : Nat := if fmt = 6 ∨ fmt = 7 then 256 else if fmtBits fmt = 4 then 1024 else if fmtBits fmt = 6 then 640 else 512

/-- L of a transfer's pieces, and the clamp of L0 where it asks for more than the format's TA capacity (R248, R783). -/
def pieceLen (r : Run) (t : Tile) : Nat × List Clamp :=
  let m := pieceMax t.fmt / 32
  if r.rowLines ≤ m then (32 * r.rowLines, []) else (32 * m, [⟨eb 3 0, 14, r.rowLines - 1, m - 1⟩])

/-- Positions cut into pieces of L. -/
def cutPieces (len : Nat) : Nat → List (Nat × Nat) → List (List (Nat × Nat))
  | 0, _ => []
  | n + 1, ps => if ps.length ≤ len then [ps] else ps.take len :: cutPieces len n (ps.drop len)

/-- The lines that the tile or B still need, or the pieces' words and the clamps; a poisoned word of the tile or of B poisons every piece (R75). -/
def segmentTry (s : State) (r : Run) (pad : Byte) : Except (List Nat) (List (List PWord) × List Clamp) :=
  let look := segLook s r
  match readTile look r.srcBase with
  | .error m => .error m
  | .ok t =>
    let ps := positions t
    match missing look (bLines r t ps) with
    | [] =>
      let len := (pieceLen r t).1
      let cut := cutPieces len (ps.length + 1) ps
      let x := t.x || (bLines r t ps).any (fun a => linesX look a 1)
      let imgs := cut.zipIdx.map (fun p => pieceImage look r t (layered [] t.nz) p.2 len (p.2 + 1 == cut.length) pad p.1)
      .ok (imgs.map (fun bs => (bytesWords (bs.length / 8) bs).map (fun d => ⟨d, x⟩)), t.clamps ++ (pieceLen r t).2)
    | m => .error m

/-- Granules of the store range that hold lines. -/
def lineGranules (lines : List Nat) : List Nat := ((lines.filter (· < 2 ^ 44)).map (· / granule)).eraseDups

/-- The lines that a transfer reads: the tile's header and segment records, and those of B and its scales. -/
def segmentLines (look : Look) (r : Run) : List Nat :=
  match readTile look r.srcBase with
  | .error _ => []
  | .ok t =>
    let segs := ((List.range (fieldN (leNat (lineBytes look r.srcBase 1)) 96 16)).foldl (fun (p : Nat × List Nat) _ =>
      let k := segLines (((lineBytes look p.1 1).getD 1 0).toNat % 128 + 1) (fmtBits t.fmt)
      (p.1 + 64 * k, p.2 ++ (List.range k).map (fun i => p.1 + 64 * i))) (r.srcBase + 64, [])).2
    r.srcBase :: segs ++ bLines r t (positions t)

/-- The granules that a SEGMENT transfer reads: LAST, and its hint, taken as it has found all that it reads (R383, R388, R389). -/
def segmentHint (r : Run) (gs : List Nat) (s : State) : State :=
  let s1 := forEach gs touch s
  if r.hint ≠ 0 ∧ r.hint ≠ 5 then forEach gs (applyHint r.hint) s1 else s1

/-- Missing lines are asked for, those already asked for apart; a line that cannot be read ends the transfer. -/
def segmentAsk (l : Nat) (lines : List Nat) (x : Run × State) : Run × State :=
  (lines.filter (fun a => !(x.1.asked.any (fun q => q.1 == a / 8)) && !(x.2.hreqs.any (fun q => q.2.who == 0 && q.2.unit == 4096 * l + x.1.chan && q.2.idx == a / 8)))).foldl
    (fun y a => if y.1.status ≠ 0 then y else readPiece l (a / 8) a 1 y) x

/-- Piece k goes to the destination row of its number, counted through the shape (R424, R430). -/
def pieceRow (r : Run) (k : Nat) : Nat := r.dstRow (k % r.rows)

/-- The segmenter goes on: it asks for what is missing, or delivers every piece, each with its token arrival, and reports clamps in the channel's report (R248, R430, R784). -/
def segmentGo (l : Nat) (x : Run × State) : Run × State :=
  if x.1.status ∈ [1, 3, 5, 6] then ({ x.1 with issued := true }, x.2)
  else
    let d := x.2.draw
    match segmentTry x.2 x.1 (BitVec.ofNat 8 (d.1.toNat % 255)) with
    | .error lines => let y := segmentAsk l lines x; if y.1.status ≠ 0 then ({ y.1 with issued := true }, y.2) else y
    | .ok (imgs, cl) =>
      let r := x.1
      let rep := if r.clamps = 0 && !cl.isEmpty then (d.2.report, { d.2 with report := (d.2.report + 1) % 2 ^ 32 }) else (r.report, d.2)
      let gs := lineGranules (segmentLines (segLook x.2 r) r)
      let s1 := segmentHint r gs (clampRecords 2 0x12 l rep.1 r.clamps (cl.map (fun c => (r.chan, c))) rep.2)
      let y := imgs.zipIdx.foldl (fun y p => if y.1.status ∈ [1, 3, 5, 6] then y else writeAll l (rowPieces r (pieceRow r p.2) p.1) y) (r, s1)
      ({ y.1 with issued := true }, if r.hint = 5 then forEach gs zeroGranule y.2 else y.2)

end Sys2Proof.Machine
end

