-- ==== Sys2Proof/Machine/SlewRun.lean ====
section
/-! DEFINITION. Slew at work: starts, answers to its reads and writes, pushed lines, completion and restart, cancellation, window writes, cursors, FSMC delivery (R432 to R455), and the Occulter's commands (R456 to R462). -/

namespace Sys2Proof.Machine

/-! ### Issue -/

/-- Every source word that the transfer wants is here, and no read of it is unanswered. -/
def readsDone (s : State) (l : Nat) (r : Run) : Bool :=
  r.asked.isEmpty && !(s.hreqs.any (fun q => q.2.who == 0 && q.2.unit == 4096 * l + r.chan)) &&
  (r.op == 2 || (r.got.filter (fun p => p.1 < r.want)).length == r.want)

/-- The transfer's writes are issued once its reads are done (R425). -/
def tryIssue (l : Nat) (r : Run) (s : State) : State :=
  if r.issued ∨ r.sk = 3 ∨ fatal s = true then putRun l r s
  else if readsDone s l r then
    let y := if r.op = 2 then segmentGo l (r, s) else issueRows l (r, s)
    putRun l y.1 y.2
  else putRun l r s

/-! ### Start (R435, R436) -/

/-- Least free requester tag of a limb: 0 to 63 with DKIND CORE or MC, 64 to 127 otherwise. -/
def freeTag (s : State) (l : Nat) (edge : Bool) : Nat :=
  let b := if edge then 0 else 64
  ((List.range 64).map (· + b)).find? (fun t => (s.limb l).runs.all (fun r => r.tag != t)) |>.getD b

/-- 64 sectors for each granule that the destination rows touch in a home limb (R454). -/
def spillNeeds (s : State) (r : Run) : Tab Nat :=
  let gs := ((List.range r.rows).flatMap (fun i => rowGranules (r.dstRow i) r.rowLines)).eraseDups
  gs.foldl (fun t g => match homeLimb s g with | some h => tset t h (tget 0 t h + 64) | none => t) []

/-- SPILL takes the overflow base (R454). -/
def spills (s : State) (r : Run) : Bool := r.spill && (spillNeeds s r).any (fun p => freeSectors s p.1 1 < vaultLow s p.1 + p.2)

/-- Granules of the store range that the transfer reads, and all that its hint covers (R389). -/
def readGranules (s : State) (r : Run) : List Nat := if r.sk = 3 then [] else ((r.picked s).flatMap (fun i => rowGranules (r.srcRow i) r.rowLines)).eraseDups
/-- Lines of a destination row, and the rows as they are written: a CVT row has the length of its format, an Occulter transfer writes header, list and rows from DST on as one (R424, R428, R460). -/
def Run.dstRows (s : State) (r : Run) : List (Nat × Nat) :=
  if r.op = 1 then
    let n := ceilDiv (512 * r.rowLines / fmtBits (r.pf 0 3 0) * fmtBits (r.pf 0 7 4)) 512
    (List.range r.rows).map (fun i => (r.dstRow i, n))
  else if 3 ≤ r.op then (let idx := r.picked s; [(r.dstBase, 1 + ceilDiv idx.length 32 + idx.length * r.rowLines)])
  else (List.range r.rows).map (fun i => (r.dstRow i, r.rowLines))

/-- Scale bytes that a CVT transfer writes at SBASE (R428). -/
def Run.scaleBytes (r : Run) : Nat :=
  if r.op = 1 ∧ r.pf 0 7 4 ≤ 5 then r.rows * ceilDiv (512 * r.rowLines / fmtBits (r.pf 0 3 0)) 32 else 0

/-- The granules that a transfer's hint covers: all that it reads or writes (R389). -/
def coveredGranules (s : State) (r : Run) : List Nat :=
  (readGranules s r ++ (if r.dk = 0 then (r.dstRows s).flatMap (fun p => rowGranules p.1 p.2) else []) ++ byteGranules (r.pf 1 47 0) r.scaleBytes).eraseDups

/-- The snapshot of a channel: its run as it starts, its clamps reported (R436, R441, R448, R454, R455). -/
def snapshot (l n : Nat) (s : State) : Run × State :=
  let c := checkChan (wordsN (chanEntry s l n))
  let w := nWords 8 c.1
  let op := bits (w.getD 0 0) 37 34
  let sk := bits (w.getD 0 0) 33 31
  let dk := bits (w.getD 0 0) 30 28
  let cpx := bits (w.getD 0 0) 15 8
  let pc := if op = 1 ∨ op = 2 then checkEntry (parRules op) (wordsN (parEntry s l cpx)) else (wordsN (parEntry s l cpx), [])
  let total := c.2.length + pc.2.length
  let rep := if total = 0 then (0, s) else (s.report, { s with report := (s.report + 1) % 2 ^ 32 })
  let s1 := clampRecords 1 0x11 l rep.1 c.2.length (pc.2.map (fun x => (cpx, x))) (clampRecords 1 0x10 l rep.1 0 (c.2.map (fun x => (n, x))) rep.2)
  let a := tget (0, 0xFF) (s.limb l).args n
  let src := if sk = 5 then s.fld (chanOff l (bits (w.getD 1 0) 11 0) 7) 47 0 else bits (w.getD 1 0) 47 0
  let r : Run :=
    { chan := n, tag := freeTag s l (dk == 1 || dk == 2), arg := a.1, lring := a.2, snap := w, par := nWords 4 pc.1, src := src, base := bits (w.getD 2 0) 47 0
      ovf := false, step := (stepCnt s).toNat, rearms := 0, clamps := total, report := rep.1, status := 0, poison := false, want := 0
      asked := [], got := [], issued := false, acks := [], delivered := false, lines := 0, port := (s.limb l).edgePort }
  if spills s1 r then ({ r with base := r.f 6 47 0, ovf := true }, s1) else (r, s1)

/-- The channel's entry is cached: least recently used goes, snapshots stay; a copy that is the snapshot of an entry written since is a miss (R437, R439). -/
def cacheTouch (l n : Nat) (s : State) : State :=
  let hit := (s.limb l).cache.contains n && !(s.limb l).stale.contains n
  let s1 := if hit then s else s.satFld (rSlwStat l) 63 48 1
  s1.modLimb l (fun k =>
    let c := n :: k.cache.filter (fun x => x != n)
    let out := (c.reverse.find? (fun x => x != n && k.runs.all (fun r => r.chan != x))).getD n
    { k with cache := if 256 < c.length then c.filter (fun x => x != out) else c, stale := k.stale.filter (fun x => x != n) })

/-- An Occulter transfer is held (R458): by the entry as it would be used. -/
def occHeld (s : State) (l n : Nat) : Bool :=
  let c := nWords 8 (checkChan (wordsN (chanEntry s l n))).1
  let op := bits (c.getD 0 0) 37 34
  let dst := bits (c.getD 2 0) 47 0
  let dk := bits (c.getD 0 0) 30 28
  let f := if dk = 1 then fieldOf (coreAt (nbits dst 28 20) (nbits dst 36 29)) else if dk = 2 then 14 * nbits dst 26 24 + nbits dst 23 20 else 14 * nbits dst 31 29 + nbits dst 28 25
  (op == 3 && occState s f == 0) || (op == 4 && occState s f != 2)

/-- A transfer runs: the hint at start, the reads, RETIRE after them, and the writes when all is here (R388, R389, R436, R443). -/
def runBody (l : Nat) (r : Run) (s : State) : State :=
  let mcBad := (r.dk = 2 || r.dk = 4) && (let img := mcImage s r.mcEntry; !(mcValid (img.getD 0 0) (img.getD 1 0)))
  if mcBad then putRun l { r.fail 6 with issued := true } s
  else if r.op = 2 then
    let y := segmentGo l (r, s)
    putRun l y.1 y.2
  else
    let s1 := if r.hint ≠ 0 ∧ r.hint ≠ 5 then forEach (coveredGranules s r) (applyHint r.hint) s else s
    if r.sk = 3 then putRun l r s1
    else
      let idx := r.picked s1
      let y := readRows l 0 idx ({ r with want := 8 * r.rowLines * idx.length }, s1)
      let s2 := if r.hint = 5 then forEach ((idx.take y.1.wantRows).flatMap (fun i => rowGranules (r.srcRow i) r.rowLines)).eraseDups zeroGranule y.2 else y.2
      tryIssue l y.1 s2

/-- R436: the entry is read, clamped and kept; ARM clears; LASTBASE is written; the transfer runs; a transfer for the edge ports takes one of the two, in turn (R310). -/
def startChan (l n : Nat) (s : State) : State :=
  let x := snapshot l n (cacheTouch l n s)
  let s1 := unqueue l n x.2
  let s2 := (s1.setFld (chanOff l n 0) 44 44 0).setFld (chanOff l n 7) 47 0 x.1.base
  let flip := x.1.dk == 1 || x.1.dk == 2
  runBody l x.1 (setRunning l (s2.modLimb l (fun k => { k with runs := k.runs ++ [x.1], edgePort := k.edgePort != flip })))

/-- The channel that starts next: the first of the queue that the Occulter does not hold and that is not running (R425, R435, R617). -/
def nextSlew (s : State) (l : Nat) : Option Nat :=
  if limbHeld s l ∨ 64 ≤ (s.limb l).runs.length then none
  else (s.limb l).startq.find? (fun n => !isRunning s l n && !occHeld s l n)

/-- SLEW_CHANNEL_START (R435, R436). -/
def execSlewChannelStart (l : LimbId) (s : State) : Res :=
  match nextSlew s l.val with
  | some n => .next (startChan l.val n s)
  | none => .next s

/-! ### Answers (R328, R411, R443) -/

/-- A read that fails: the transfer keeps the rows before it. -/
def Run.cutAt (r : Run) (st key : Nat) : Run :=
  let w := 8 * r.rowLines
  { r.fail st with want := if r.op = 2 then r.want else min r.want (key / w * w) }

/-- RDATA, WACK or ERR for a running transfer by its tag. -/
def slewAnswer (l : Nat) (r : Run) (p : Packet) (err : Bool) (s : State) : State :=
  if p.typ = 4 then
    match r.asked with
    | [] => s
    | (key, n) :: rest =>
      let r1 := { r with got := putGot key p.body r.got, asked := if p.lastp ∨ n ≤ p.body.length then rest else (key + p.body.length, n - p.body.length) :: rest }
      tryIssue l r1 s
  else if err then
    (match r.asked with
     | (key, _) :: rest => tryIssue l { r.cutAt 6 key with asked := rest } s
     | [] => putRun l { r.fail 6 with acks := r.acks.tail } s)
  else putRun l { r with acks := r.acks.tail, lines := r.lines + r.acks.headD 0 } s

/-- A response reaches a limb (R328): a Slew transfer by its tag, or another request. -/
def limbAnswer (p : Packet) (err : Bool) (s : State) : State :=
  if p.tag < 128 ∧ p.dx = 0x1FE then
    if waits s p then s
    else onRoute p (fun t => match (t.limb p.dy).runs.find? (fun r => r.tag == p.tag) with
      | some r => slewAnswer p.dy r p err t
      | none => t) (s.taken p)
  else limbResponse p err s

def execRdata (p : Packet) (s : State) : Res := .next (limbAnswer { p with typ := 4 } false s)
def execWack (p : Packet) (s : State) : Res := .next (limbAnswer { p with typ := 5, lastp := true } false s)
def execErr (p : Packet) (s : State) : Res := .next (limbAnswer { p with typ := 6 } true s)

/-- A host read of a transfer is answered: its words, poisoned by EP (R412), or status 5 (R411). -/
def slewHostData (l n key : Nat) (st : HostStatus) (data : List Byte) (s : State) : State :=
  match findRun s l n with
  | none => s
  | some r =>
    match st with
    | .sc => tryIssue l { r with got := putGot key ((bytesWords (data.length / 8) data).map (fun d => ⟨d, false⟩)) r.got } s
    | .ep => tryIssue l { r with got := putGot key ((bytesWords (data.length / 8) data).map (fun d => ⟨d, true⟩)) r.got } s
    | _ => tryIssue l (r.cutAt 5 key) s

/-! ### Pushed lines (R451 to R453) -/

/-- A pushed line is discarded (R453). -/
def pushDrop (l n : Nat) (s : State) : State := raise (domLimb l) 1 0 0x0220 (wd n) (s.satFld (rSlwStat l) 31 16 1)

/-- One line pushed at byte offset o of the transfer; a granule of the store range whose last line it is is encoded at once, since the transfer writes it whole (R381). -/
def pushLine (l n o : Nat) (ws : List PWord) (s : State) : State :=
  match findRun s l n with
  | none => pushDrop l n s
  | some r =>
    let g := o / 64
    if fatal s = true ∨ r.sk ≠ 3 ∨ r.status ∈ [1, 3, 4, 5, 6] ∨ r.rows * r.rowLines ≤ g then pushDrop l n s
    else
      let a := advance (dstWidth r.dk) (r.dstRow (g / r.rowLines)) (64 * (g % r.rowLines) : Nat)
      let last := decide (r.want + 1 = r.rows * r.rowLines)
      let y := writePiece l a last ws ({ r with want := r.want + 1, got := if a < 2 ^ 44 then tset r.got (a / 64) default else r.got }, s)
      let whole := decide (a < 2 ^ 44) && (y.1.got.filter (fun e => e.1 / 1024 == a / granule)).length == 1024
      let s1 := if whole then (match homeLimb y.2 (a / granule) with | some h => closeSlot h (a / granule) y.2 | none => y.2) else y.2
      putRun l { y.1 with issued := last || y.1.status ∈ [1, 3, 5, 6] } s1

/-- The lines of a pushed packet. -/
def pushLines (l n : Nat) : Nat → Nat → List PWord → State → State
  | 0, _, _, s => s
  | fuel + 1, o, ws, s => if ws.isEmpty then s else pushLines l n fuel (o + 64) (ws.drop 8) (pushLine l n o (ws.take 8) s)

/-! ### Commands (R431 to R434) -/

/-- A cancelled transfer's packets on their way bring no token arrival (R434). -/
def noArrival (l tag : Nat) (s : State) : State :=
  let drop := fun (p : Packet) => if p.sx = 0x1FE ∧ p.sy = l ∧ p.tag = tag then { p with te := false } else p
  { s with net := s.net.map drop, cores := s.cores.map (fun c => (c.1, { c.2 with held := c.2.held.map drop })) }

/-- CANCEL (R434). -/
def cancelChan (l n : Nat) (s : State) : State :=
  let armed := chanArmed s l n
  let s1 := unqueue l n (s.setFld (chanOff l n 0) 44 44 0)
  match findRun s l n with
  | some r => noArrival l r.tag (putRun l { r.fail 4 with issued := r.issued || r.sk == 3 } s1)
  | none =>
    if armed then
      slewRecord l n (chanGen s l n) 0 4 false 0 0 (stepCnt s).toNat 0 (s.flag (chanOff l n 0) 42) (tget (0, 0xFF) (s.limb l).args n).2 s1
    else s

/-- SETGEN (R433). -/
def setGen (l n v : Nat) (s : State) : State := if isRunning s l n || chanArmed s l n then wrDrop l s else s.setFld (chanOff l n 0) 63 48 v

def execArm (l : LimbId) (chan arg : Nat) (s : State) : Res := .next (armChan l.val (chan % 4096) (arg % 65536) 0xFF s)
def execSetgen (l : LimbId) (chan value : Nat) (s : State) : Res := .next (setGen l.val (chan % 4096) value s)
def execSlewCancel (l : LimbId) (chan : Nat) (s : State) : Res := .next (cancelChan l.val (chan % 4096) s)

/-- A register write of SLW_ARM (R431). -/
def slwArmWrite (l : Nat) (v : Word) (s : State) : State :=
  let n := bits v 11 0
  match bits v 63 62 with
  | 0 => armChan l n (bits v 31 16) 0xFF s
  | 1 => setGen l n (bits v 47 32) s
  | 2 => cancelChan l n s
  | _ => s

/-- A window write (R437, R438). -/
def chanWrite (l n w : Nat) (v : Word) (s : State) : State :=
  let input := s.fld (chanOff l n 0) 33 31 = 4
  if chanArmed s l n ∨ (w = 6 ∧ input ∧ isRunning s l n = true) then wrDrop l s
  else
    let o := s.rd (chanOff l n w)
    let keep := fun (hi lo : Nat) (x : Word) => setBits x hi lo (bits o hi lo)
    let s1 := if isRunning s l n then s.modLimb l (fun k => { k with stale := if k.stale.contains n then k.stale else n :: k.stale }) else s
    s1.wr (chanOff l n w) (if w = 0 then keep 44 44 (keep 63 48 v) else if w = 1 then keep 55 48 v else if w = 7 then keep 47 0 v else v)

def execChannelWindowWrite (l : LimbId) (chan word : Nat) (value : Word) (s : State) : Res := .next (chanWrite l.val (chan % 4096) (word % 8) value s)

/-- A TAIL write (R444). -/
def cqTailWrite (l v : Nat) (s : State) : State :=
  if 8192 < (s.fld (rSlwCq l) 45 32 + 16384 - v % 16384) % 16384 then wrDrop l s else s.setFld (rSlwCq l) 13 0 v

def execSlwCqTailWrite (l : LimbId) (value : Nat) (s : State) : Res := .next (cqTailWrite l.val value s)

/-! ### Occulter (R457 to R462) -/

/-- The mask bits of slot k, from field-store line `base` + k × MLEN, of NBLK + 1 blocks. -/
def slotMask (f base k : Nat) (s : State) : Nat × State :=
  let n := mlen s f
  let r := outWords (fun w t => if w < fsWords then fsRead f w t else (⟨0, false⟩, t)) ((List.range (8 * n)).map (· + 8 * (base + k * n))) s
  (leNat (wordsBytes (r.1.map (·.d))) % 2 ^ (s.fld (rOccCfg f) 63 48 + 1), r.2)

/-- The OR of every slot's mask. -/
def allSlots (f base : Nat) (s : State) : Nat × State :=
  (List.range (s.fld (rOccCfg f) 47 42 + 1)).foldl (fun x k => let y := slotMask f base k x.2; (x.1 ||| y.1, y.2)) (0, s)

/-- The Occulter advances where its slots allow (R458). -/
def occAdvance (f : Nat) (s : State) : State :=
  let n := s.fld (rOccCfg f) 47 42 + 1
  let o := s.occAt f
  let s1 :=
    if occState s f = 0 ∧ o.fillP.length = n then
      let m := allSlots f (s.fld (rOccCfg f) 41 23) s
      (m.2.setOcc f { o with p := m.1 }).setFld (rOccStat f) 3 2 1
    else s
  let o1 := s1.occAt f
  if occState s1 f = 1 ∧ o1.fillT.length = n then
    let m := allSlots f (s1.fld (rOccCfg f) 22 4) s1
    (m.2.setOcc f { o1 with t := m.1, m := m.1 ^^^ (m.1 &&& o1.p) }).setFld (rOccStat f) 3 2 2
  else s1

/-- OCCULTER_SLOT_FILLED: a slot whose transfer has written its last packet is filled, or was filled before (R458, R459). -/
def execOcculterSlotFilled (f : FieldId) (isTrue : Bool) (slot : Nat) (s : State) : Res :=
  if !s.flag (rOccCfg f.val) 0 ∨ s.fld (rOccCfg f.val) 47 42 < slot ∨ !(s.occAt f.val).due.contains (isTrue, slot) then .next s
  else
    let o := { s.occAt f.val with due := (s.occAt f.val).due.erase (isTrue, slot) }
    let filled := if isTrue then o.fillT else o.fillP
    if filled.contains slot then .next (raise (domField f.val) 1 5 0x0105 (wd slot) ((s.setOcc f.val o).satFld (rOccStat f.val) 15 8 1))
    else .next (occAdvance f.val (s.setOcc f.val (if isTrue then { o with fillT := o.fillT ++ [slot] } else { o with fillP := o.fillP ++ [slot] })))

/-- Every slot emptied; state EMPTY. -/
def occEmpty (f : Nat) (s : State) : State := (s.setOcc f { s.occAt f with fillP := [], fillT := [], done := 0, due := [] }).setFld (rOccStat f) 3 2 0

def execClear (f : FieldId) (s : State) : Res := .next (occEmpty f.val s)

/-- Blocks set in a mask. -/
def maskCount (n : Nat) : Nat := popcount 65536 n

/-- An OCCM transfer of the field completed: after NMK + 1 of them the counters take the layer and the Occulter empties (R458, R462). -/
def occmDone (f : Nat) (s : State) : State :=
  let o := s.occAt f
  if o.done + 1 < s.fld (rOccCfg f) 3 2 + 1 then s.setOcc f { o with done := o.done + 1 }
  else
    let p := fitField 16 (maskCount o.p) s
    let t := fitField 16 (maskCount o.t) p.2
    let m := fitField 16 (maskCount o.m) t.2
    let s1 := ((m.2.setFld (rOccStat f) 63 48 p.1).setFld (rOccStat f) 47 32 t.1).setFld (rOccStat f) 31 16 m.1
    occEmpty f ((s1.satFld (rOccTot f) 63 32 1).satFld (rOccTot f) 31 0 (maskCount o.m))

/-! ### FSMC delivery (R446) -/

/-- A packet of limb l's transfer with a tag. -/
def ofTransfer (l tag : Nat) (p : Packet) : Bool := p.sx == 0x1FE && p.sy == l && p.tag == tag
/-- A packet of the transfer is on its way or held at a core. -/
def inFlight (s : State) (l tag : Nat) : Bool := s.net.any (ofTransfer l tag) || s.cores.any (fun c => c.2.held.any (ofTransfer l tag))
/-- A packet of a slice engine's delivery for a transfer is on its way or held at a core (R446). -/
def delivering (s : State) (r : Run) : Bool :=
  let mine := fun (p : Packet) => p.sx == 0x1FF && p.sy == r.field && p.tag == r.tag && p.typ == 0x10
  s.net.any mine || s.cores.any (fun c => c.2.held.any mine)

/-- One packet of the delivery reaches the cores of the field's rows that lie in the rectangle (R339, R343, R338). -/
def rowBus (f : Nat) (p : Packet) (s : State) : State :=
  let q := mcRect p.mcimg
  forEach ((coresOf f).filter (fun c => q.1 ≤ coreX c && coreX c ≤ q.2.1 && q.2.2.1 ≤ coreY c && coreY c ≤ q.2.2.2)) (mcDeliver p) s

/-- A field-store word; a word beyond the field store reads 0. -/
def fsAt (f a : Nat) (s : State) : PWord × State := if a < fsWords then fsRead f a s else (⟨0, false⟩, s)

/-- The words that the transfer has written to the field store, in its order (R446). -/
def fsmcWords (f : Nat) (r : Run) (s : State) : List PWord × State :=
  outWords (fsAt f) ((r.dstRows s).flatMap (fun p => (List.range (8 * p.2)).map (fun k => advance 25 p.1 (8 * k : Nat) % 2 ^ 25 / 8))) s

/-- The cores of a rectangle outside a field. -/
def otherCores (f : Nat) (q : Nat × Nat × Nat × Nat) : List Nat :=
  ((rectCores q.1 (min 447 q.2.1) q.2.2.1 (min 179 q.2.2.2)).filter (fun c => fieldXY c.1 c.2 != f)).map (fun c => coreAt c.1 c.2)

/-- FSMC_DELIVERY: after the last line is in the field store, a slice engine delivers it over the row buses, and over the express plane of its number to the other fields of the rectangle (R342, R446). Which of the two engines it is no rule says: an open value. -/
def fsmcDeliver (l : Nat) (r : Run) (s : State) : State :=
  let f := r.field
  let img := mcImage s r.mcEntry
  let q := mcRect img
  let d := s.draw
  let x := fsmcWords f r d.2
  let pk := fun (b : Nat × Bool × List PWord) =>
    { limbPkt l r.tag 0x10 q.1 q.2.2.1 b.1 with sx := 0x1FF, sy := f, lastp := b.2.1, te := r.f 1 63 63 == 1 && b.2.1, tok := r.f 1 62 57, gen := r.gen, mcimg := img, body := b.2.2 }
  let ps := (packets (64 * nbits r.base 44 32) x.1).map pk
  let s1 := ps.foldl (fun t p => rowBus f p t) x.2
  let others := rectFields q.1 (min 447 q.2.1) q.2.2.1 (min 179 q.2.2.2)
  let ok := fun (g : Bool) => (f :: others).all (fun h => gwUp s h g.toNat)
  let engine := d.1.toNat % 2 == 1
  let plane := if ok engine then some engine else if ok (!engine) then some (!engine) else none
  let s2 :=
    if (otherCores f q).isEmpty then s1
    else match plane with
      | none => raise (domField f) 2 4 0x0107 (wd (r.f 2 57 48)) (discardAt f ps.length s1)
      | some g => ps.foldl (fun t p => t.send { p with exp := true, plane := g, rest := otherCores f q }) s1
  putRun l { r with delivered := true } s2

/-- Some core of the field that would accept the delivery has no entry of its local port free (R87). -/
def rowsFull (s : State) (r : Run) : Bool :=
  let img := mcImage s r.mcEntry
  let q := mcRect img
  let p := { limbPkt 0 r.tag 0x10 0 0 0 with sx := 0x1FF, sy := r.field, mcimg := img }
  (coresOf r.field).any (fun c => q.1 ≤ coreX c && coreX c ≤ q.2.1 && q.2.2.1 ≤ coreY c && coreY c ≤ q.2.2.2 && mcAccept s p c && !portRoom s c)

def execFsmcDelivery (l : LimbId) (chan : Nat) (s : State) : Res :=
  match findRun s l.val chan with
  | some r => if r.dk = 4 ∧ r.issued ∧ r.status = 0 ∧ !r.delivered ∧ !inFlight s l.val r.tag ∧ !rowsFull s r then .next (fsmcDeliver l.val r s) else .next s
  | none => .next s

/-! ### Completion (R440) -/

/-- The transfer has nothing outstanding. -/
def runFinished (s : State) (l : Nat) (r : Run) : Bool :=
  r.issued && r.asked.isEmpty && r.acks.isEmpty && !inFlight s l r.tag && !delivering s r && (r.dk != 4 || r.status != 0 || r.delivered)

/-- R440: record, restart, chain; an OCCM transfer counts at its Occulter. -/
def completeRun (l : Nat) (r : Run) (s : State) : State :=
  let st := if r.status ≠ 0 then r.status else if r.poison then 2 else 0
  let s0 := setRunning l (s.modLimb l (fun k => { k with runs := k.runs.filter (fun x => x.chan != r.chan) }))
  let s1 := slewRecord l r.chan r.gen r.rearms st r.ovf r.clamps r.base r.step r.lines (r.f 0 42 42 == 1) r.lring s0
  let s2 := if r.op = 4 ∧ (st = 0 ∨ st = 2) then occmDone r.field s1 else s1
  let again := chanGen s2 l r.chan ≠ r.gen ∧ chanArmed s2 l r.chan = true
  let s3 :=
    if again then
      if limbHeld s2 l || occHeld s2 l r.chan then s2.modLimb l (fun k => { k with startq := r.chan :: k.startq.filter (fun x => x != r.chan) })
      else startChan l r.chan s2
    else s2
  if r.f 0 43 43 = 1 ∧ st = 0 then armChan l (r.f 0 27 16) r.arg 0xFF s3 else s3

def execSlewTransferComplete (l : LimbId) (chan : Nat) (s : State) : Res :=
  match findRun s l.val chan with
  | some r => if runFinished s l.val r && !fatal s then .next (completeRun l.val r s) else .next s
  | none => .next s

/-! ### Cursors (R449) -/

/-- Every INPUT channel of a limb advances when a step ends. -/
def cursorAdvance (s : State) : State :=
  forEach (List.range 8) (fun l t =>
    let chans := (t.regs.filter (fun p => limbBase l + 0x40000 ≤ p.1 && p.1 < limbBase l + 0x80000 && p.1 % 64 == 0 && bits p.2 33 31 == 4)).map (fun p => (p.1 - limbBase l - 0x40000) / 64)
    forEach chans (fun n u =>
      let dlen := max 1 (u.fld (chanOff l n 4) 47 0)
      let cur := min (u.fld (chanOff l n 6) 47 0) (dlen - 1)
      let sum := cur + u.fld (chanOff l n 5) 31 0
      (u.setFld (chanOff l n 6) 47 0 (sum % dlen)).setFld (chanOff l n 6) 63 48 (u.fld (chanOff l n 6) 63 48 + (if dlen ≤ sum then 1 else 0))) t) s

end Sys2Proof.Machine
end

