-- ==== Sys2Proof/Machine/Meridian.lean ====
section
/-! DEFINITION. Meridian ports, frames, flows and sequence numbers, acknowledgments and resends, authentication, peers and roll-call (R463 to R486, R867), and the module identity and port registers (R521, R523). -/

namespace Sys2Proof.Machine

/-! ### Ports (R463 to R469, R523) -/

/-- Base of port p's registers: port k of limb n is module port 3n + k (R523). -/
def portBase (p : Nat) : Nat := limbBase (p / 3) + 0x3100 + 0x100 * (p % 3)
def rMrdId : Nat := 0x5000
/-- MRD_ID.MODULE. -/
def moduleId (s : State) : Nat := s.fld rMrdId 15 0
/-- A 32-bit error counter of a port, at offset and high half. -/
def portCount (p off : Nat) (high : Bool) (s : State) : State :=
  s.satFld (portBase p + off) (if high then 63 else 31) (if high then 32 else 0) 1
def cntHdr (p : Nat) (s : State) : State := portCount p 0x50 false s
def cntOther (p : Nat) (s : State) : State := portCount p 0x58 false s
def cntOow (p : Nat) (s : State) : State := portCount p 0x60 false s
def cntStale (p : Nat) (s : State) : State := portCount p 0x70 true s

/-- The port has its link up and takes part. -/
def portUp (s : State) (p : Nat) : Bool := s.flag (portBase p) 0 && s.flag (portBase p + 0x28) 63

/-- Bytes of a frame from the destination MAC address to the FCS (R465, R523). -/
def frameBytes (s : State) (p : Nat) (k : MPkt) : Nat :=
  14 + (if s.flag (portBase p) 29 then 4 else 0) + (if s.flag (portBase p) 28 then 40 else 20) + 8 + 48 + k.payload.length + k.tag.length + 4

/-! ### The header (R470) -/

/-- The 48 header bytes. -/
def hdrBytes (k : MPkt) : List Byte :=
  [BitVec.ofNat 8 (k.ver % 16 * 16 + k.typ % 16), BitVec.ofNat 8 (k.auth.toNat + 2 * k.ackv.toNat)] ++ leBytes 2 (k.dflow % 4096) ++
  leBytes 2 k.srcmod ++ leBytes 2 k.dstmod ++ leBytes 4 k.seq ++ leBytes 4 k.ackseq ++ leBytes 8 k.sack ++ leBytes 2 k.plen ++
  leBytes 1 k.plan ++ leBytes 1 k.kind ++ leBytes 2 k.rtag ++ leBytes 2 0 ++ leBytes 8 k.addr ++ leBytes 8 0

/-! ### Flows (R473 to R480, R867) -/

/-- Word w of a flow entry. -/
def flowWord (s : State) (l f w : Nat) : Word := s.rd (limbBase l + 0xA0000 + 32 * f + 8 * w)
def flowPort (s : State) (l f : Nat) : Nat := bits (flowWord s l f 0) 28 24
def flowPeer (s : State) (l f : Nat) : Nat := bits (flowWord s l f 0) 41 32
/-- A flow is in service (R867). -/
def inService (s : State) (l f : Nat) : Bool := bit (flowWord s l f 0) 63 && flowPort s l f / 3 == l
/-- Word w of a peer entry. -/
def peerOff (l p w : Nat) : Nat := limbBase l + 0x82000 + 32 * p + 8 * w
def peerMod (s : State) (l p : Nat) : Nat := s.fld (peerOff l p 0) 15 0
def peerIsAbsent (s : State) (l p : Nat) : Bool := s.flag (peerOff l p 0) 61

def State.flow (s : State) (l f : Nat) : Flow := tget Flow.reset (s.limb l).flows f
def State.setFlow (s : State) (l f : Nat) (x : Flow) : State := s.modLimb l (fun k => { k with flows := tset k.flows f x })

/-- 32-bit differences (R475). -/
def sub32 (a b : Nat) : Nat := (a + 2 ^ 32 - b % 2 ^ 32) % 2 ^ 32

/-- Slots of the replay pool in use (R480). -/
def poolUsed (s : State) (l : Nat) : Nat := ((s.limb l).flows.map (fun p => p.2.unack.length)).foldl (· + ·) 0

/-- The addressing, AUTH and tag of a packet on flow f (R465, R470, R473, R481). -/
def sealPkt (s : State) (l f : Nat) (k : MPkt) : MPkt :=
  let w := flowWord s l f 0
  let a := bit w 62
  let k1 := { k with
    ver := 1, auth := a, dflow := bits w 53 42, srcmod := moduleId s, dstmod := peerMod s l (flowPeer s l f), plen := k.payload.length, tag := [] }
  let key := (wordsBytes ((List.range 6).map (fun i => s.rd (limbBase l + 0x8C000 + 64 * bits w 61 54 + 8 * i))))
  if a then { k1 with tag := (hmac384 key (hdrBytes k1 ++ k1.payload)).take 16 } else k1

/-- Sum of the 16-bit words of a byte string, first byte high. -/
def sum16 : List Byte → Nat
  | [] => 0
  | [a] => 256 * a.toNat
  | a :: b :: r => 256 * a.toNat + b.toNat + sum16 r

/-- A ones' complement sum folded to 16 bits. -/
def fold16 : Nat → Nat → Nat
  | 0, x => x
  | n + 1, x => if x < 65536 then x else fold16 n (x / 65536 + x % 65536)

/-- The checksum of UDP over the pseudo header and the datagram; 0 is sent as 0xFFFF (R465). -/
def udpChecksum (v6 : Bool) (sip dip sport dport : Nat) (body : List Byte) : Nat :=
  let n := if v6 then 16 else 4
  let len := 8 + body.length
  let c := 65535 - fold16 8 (sum16 (beBytes n sip ++ beBytes n dip) + 17 + len + sport + dport + len + sum16 body)
  if c = 0 then 65535 else c

/-- The headers of a packet that leaves on flow f at port p (R464, R465, R468). -/
def netHead (s : State) (l f p : Nat) (k : MPkt) : NetHead :=
  let b := portBase p
  let peer := flowPeer s l f
  let v6 := s.flag b 28
  let sip := if v6 then (s.rd (b + 0x20)).toNat * 2 ^ 64 + (s.rd (b + 0x18)).toNat else s.fld (b + 0x10) 31 0
  let dip := if v6 then (s.rd (peerOff l peer 3)).toNat * 2 ^ 64 + (s.rd (peerOff l peer 2)).toNat else s.fld (peerOff l peer 2) 31 0
  { dmac := bits (flowWord s l f 1) 47 0, smac := s.fld (b + 8) 47 0, vlan := if s.flag b 29 then some (s.fld b 41 30) else none
    v6 := v6, sip := sip, dip := dip, tos := s.fld b 47 42 * 4 + 2, ttl := 64, df := !v6, sport := 0xC000 + f, dport := s.fld b 63 48
    udpSum := udpChecksum v6 sip dip (0xC000 + f) (s.fld b 63 48) (hdrBytes k ++ k.payload ++ k.tag) }

/-- A packet leaves at the flow's port, unless the port is down, the module has no number, or the module is FATAL (R521, R622, R847). -/
def transmit (l f : Nat) (k : MPkt) (s : State) : State :=
  let p := flowPort s l f
  if moduleId s = 0xFFFF ∨ fatal s = true ∨ !portUp s p then s
  else ((s.addFld (portBase p + 0x30) 63 0 1).addFld (portBase p + 0x40) 63 0 (frameBytes s p k)).emit (.frame p (netHead s l f p k) k)

/-- A packet without a payload or sequence number. -/
def emptyPkt : MPkt :=
  { ver := 1, typ := 1, auth := false, ackv := false, dflow := 0, srcmod := 0, dstmod := 0, seq := 0, ackseq := 0, sack := 0, plen := 0
    plan := 0, kind := 0, rtag := 0, addr := 0, payload := [], tag := [] }

/-- Packets that wait are sent while the window, the pool and the module number allow (R478, R480, R521). -/
def pumpFlow (l f : Nat) : Nat → State → State
  | 0, s => s
  | n + 1, s =>
    let x := s.flow l f
    match x.waitq with
    | [] => s
    | k :: r =>
      if !inService s l f || x.stopped || moduleId s == 0xFFFF || fatal s || 64 ≤ sub32 x.snxt x.suna || 1024 ≤ poolUsed s l then s
      else
        let q := sealPkt s l f { k with seq := x.snxt }
        pumpFlow l f n (transmit l f q (s.setFlow l f { x with waitq := r, snxt := (x.snxt + 1) % 2 ^ 32, unack := x.unack ++ [⟨x.snxt, 0, q⟩] }))

/-- Every flow of a limb that has packets waiting. -/
def pumpLimb (l : Nat) (s : State) : State :=
  (s.limb l).flows.foldl (fun t p => pumpFlow l p.1 p.2.waitq.length t) s

/-- A DATA packet is given to a flow (R478); a flow that has stopped takes none (R485). -/
def sendData (l f : Nat) (k : MPkt) (s : State) : State :=
  let x := s.flow l f
  if x.stopped then s else pumpFlow l f 1 (s.setFlow l f { x with waitq := x.waitq ++ [k] })

/-- SACK from the receive map (R477). -/
def sackOf (x : Flow) : Nat := x.rmap % 2 ^ 64

/-- An ACK leaves on the paired flow (R477). -/
def sendAck (l f : Nat) (s : State) : State :=
  let x := s.flow l f
  if x.stopped || !inService s l f then s
  else transmit l f (sealPkt s l f { emptyPkt with typ := 2, ackv := true, ackseq := x.rnext, sack := sackOf x }) (s.setFlow l f { x with ackDue := 0 })

/-- An acknowledgment acts on the send state, or is discarded and counted (R478). -/
def takeAck (l f port ackseq sack : Nat) (s : State) : State :=
  let x := s.flow l f
  let span := sub32 ackseq x.suna
  if sub32 x.snxt x.suna < span then cntOow port s
  else
    let acked := fun (q : Nat) => sub32 q x.suna < span || (let b := sub32 q (ackseq + 1); b < 64 && sack.testBit b)
    pumpLimb l (pumpFlow l f (x.waitq.length) (s.setFlow l f { x with suna := ackseq % 2 ^ 32, unack := x.unack.filter (fun u => !acked u.seq) }))

/-- Number s has been accepted: RNEXT advances past consecutive numbers, or the map marks it (R476). The map's bit i is RNEXT + 1 + i. -/
def advanceMap : Nat → Nat → Nat → Nat × Nat
  | 0, r, m => (r, m)
  | n + 1, r, m => if m % 2 = 1 then advanceMap n ((r + 1) % 2 ^ 32) (m / 2) else (r, m / 2)

def markSeq (x : Flow) (d : Nat) : Flow :=
  if d = 0 then
    let a := advanceMap 65 ((x.rnext + 1) % 2 ^ 32) x.rmap
    { x with rnext := a.1, rmap := a.2, ackDue := x.ackDue + 1 }
  else { x with rmap := x.rmap ||| 2 ^ (d - 1), ackDue := x.ackDue + 1 }

/-- The number at distance d is marked already. -/
def marked (x : Flow) (d : Nat) : Bool := 0 < d && x.rmap.testBit (d - 1)

/-! ### Received frames (R467 to R472, R481) -/

/-- The packet of a frame: its payload is the PLEN bytes that the header names; more than the frame holds is found by R472. -/
def framePkt (k : MPkt) : MPkt := { k with payload := k.payload.take k.plen }

/-- FRAME_RECEIVE: the frame is counted and checked, and its packet waits for its engine (R464, R467, R469). -/
def execFrameReceive (port : PortId) (fr : Frame) (s : State) : Res :=
  let p := port.val
  let b := portBase p
  if !portUp s p then .next s
  else
    let s1 := (s.addFld (b + 0x38) 63 0 1).addFld (b + 0x48) 63 0 fr.bytes
    let v6 := s.flag b 28
    let own := if v6 then (s.rd (b + 0x20)).toNat * 2 ^ 64 + (s.rd (b + 0x18)).toNat else s.fld (b + 0x10) 31 0
    if !fr.fcsOk then .next (portCount p 0x50 true s1)
    else if fr.ptp && s.flag (b + 0x90) 63 then .next s1
    else if fr.pause || fr.ptp || fr.dmac != s.fld (b + 8) 47 0 then .next (cntOther p s1)
    else if fr.v6 != v6 || fr.dip != own || fr.fragment || !fr.udpOk || fr.dport != s.fld b 63 48 then .next (cntHdr p s1)
    else
      let s2 := if fr.ce then portCount p 0x70 false s1 else s1
      .next (s2.modLimb (p / 3) (fun k => { k with rxq := k.rxq ++ [(p, framePkt fr.pkt)] }))

/-- TYPE and KIND are not reserved, and ACK and ROLL carry neither KIND nor payload (R471). -/
def okType (k : MPkt) : Bool :=
  (k.typ == 1 && 1 ≤ k.kind && k.kind ≤ 7) || ((k.typ == 2 || k.typ == 3) && k.kind == 0 && k.plen == 0)

/-- The checks of R472. -/
def okHeader (s : State) (l : Nat) (k : MPkt) : Bool :=
  k.ver == 1 && okType k && k.dstmod == moduleId s && k.plen == k.payload.length && k.plen ≤ 4096 && k.dflow < 4096 &&
  inService s l k.dflow && k.srcmod == peerMod s l (flowPeer s l k.dflow)

/-- The tag check of R481. -/
def okTag (s : State) (l : Nat) (k : MPkt) : Bool :=
  let w := flowWord s l k.dflow 0
  if !bit w 62 then true
  else
    let key := (wordsBytes ((List.range 6).map (fun i => s.rd (limbBase l + 0x8C000 + 64 * bits w 61 54 + 8 * i))))
    k.auth && k.tag == (hmac384 key (hdrBytes k ++ k.payload)).take 16

/-- LAST of a peer in every limb's copy takes the sidereal time (R484). -/
def touchPeer (p : Nat) (s : State) : State := forEach (List.range 8) (fun l t => t.wr (peerOff l p 1) (sidereal t)) s

/-- The packet at the head of a limb's received packets, when it has the type; it passes the checks of R472, R481 and R485, or is discarded and counted. -/
def takeRx (l typ : Nat) (s : State) : Option (Nat × MPkt) × State :=
  match (s.limb l).rxq with
  | [] => (none, s)
  | (p, k) :: r =>
    let bad := !okHeader s l k
    if k.typ ≠ typ ∧ !(bad && typ == 1) then (none, s)
    else
      let s1 := s.modLimb l (fun m => { m with rxq := r })
      if bad then (none, cntHdr p s1)
      else if !okTag s l k then (none, portCount p 0x58 true s1)
      else if peerIsAbsent s l (flowPeer s l k.dflow) then (none, cntStale p s1)
      else (some (p, k), touchPeer (flowPeer s l k.dflow) s1)

/-- ROLL (R484). -/
def execRoll (l : LimbId) (s : State) : Res := .next (takeRx l.val 3 s).2

/-- ACK (R478). -/
def execAck (l : LimbId) (s : State) : Res :=
  let r := takeRx l.val 2 s
  match r.1 with
  | some (p, k) => .next (if k.ackv then takeAck l.val k.dflow p k.ackseq k.sack r.2 else r.2)
  | none => .next r.2

/-- ACK_SEND: packets accepted and not acknowledged (R477). -/
def execAckSend (l : LimbId) (flow : Nat) (s : State) : Res :=
  if (s.flow l.val flow).ackDue = 0 then .next s else .next (sendAck l.val flow s)

/-- RESEND (R479). -/
def execResend (l : LimbId) (flow seq : Nat) (s : State) : Res :=
  let x := s.flow l.val flow
  match x.unack.find? (fun u => u.seq == seq) with
  | none => .next s
  | some u =>
    if x.stopped || !inService s l.val flow || moduleId s == 0xFFFF || fatal s then .next s
    else
      let p := flowPort s l.val flow
      let s1 := s.setFlow l.val flow { x with unack := x.unack.map (fun v => if v.seq = seq then { v with resends := v.resends + 1 } else v) }
      let s2 := portCount p 0x60 true s1
      let s3 := if u.resends + 1 = 64 then raise (domLimb l.val) 1 (4 + p % 3) 0x0230 (wd flow) s2 else s2
      .next (transmit l.val flow u.pkt s3)

/-- Flows that roll-call a peer from this limb: RFLOW, and RFLOW2 where enabled (R483). -/
def rollFlows (s : State) (l p : Nat) : List Nat :=
  let w := s.rd (peerOff l p 0)
  if bit w 63 && bit w 62 then
    ((if inService s l (bits w 27 16) then [bits w 27 16] else []) ++ (if bit w 59 && inService s l (bits w 39 28) then [bits w 39 28] else [])).filter (fun f => !(s.flow l f).stopped)
  else []

/-- ROLL_CALL_SEND (R483). -/
def execRollCallSend (l : LimbId) (s : State) : Res :=
  .next (forEach (List.range 1024) (fun p t => forEach (rollFlows t l.val p) (fun f u => transmit l.val f (sealPkt u l.val f { emptyPkt with typ := 3 }) u) t) s)

/-! ### Table writes (R474, R482, R486, R521, R847) -/

/-- FLOW_TABLE_WRITE (R473, R474). -/
def flowWrite (l f w : Nat) (v : Word) (s : State) : State :=
  let off := limbBase l + 0xA0000 + 32 * f + 8 * w
  if s.flag (limbBase l + 0xA0000 + 32 * f) 63 then
    (if w = 0 ∧ bit v 63 = false then
       pumpLimb l ((s.wr off (writeValue off (s.rd off) v)).modLimb l (fun k => { k with flows := terase k.flows f }))
     else s)
  else
    let s1 := s.wr off (setBits (setBits v 31 29 0) 23 0 0)
    let s2 := s.wr off (setBits v 63 48 0)
    if w = 0 then
      (if bit v 63 then
         let t := s.rd (limbBase l + 0xA0000 + 32 * f + 16)
         s1.setFlow l f { Flow.reset with snxt := bits t 31 0, suna := bits t 31 0, rnext := bits t 63 32 }
       else s1)
    else if w = 1 then s2
    else if w = 2 then s.wr off v
    else s

def execFlowTableWrite (l : LimbId) (flow word : Nat) (value : Word) (s : State) : Res :=
  .next (flowWrite l.val (flow % 4096) (word % 4) value s)

/-- PEER_TABLE_WRITE: EN going from 0 to 1 clears ABSENT and sets LAST (R482, R486). -/
def peerWrite (l p w : Nat) (v : Word) (s : State) : State :=
  let off := peerOff l p w
  if w = 0 then
    let o := s.rd off
    let n := setBits (setBits v 58 40 0) 61 61 (bits o 61 61)
    if bit v 63 && !bit o 63 then (s.wr off (setBits n 61 61 0)).wr (peerOff l p 1) (sidereal s) else s.wr off n
  else if w = 1 then s
  else s.wr off v

def execPeerTableWrite (l : LimbId) (peer word : Nat) (value : Word) (s : State) : Res :=
  .next (peerWrite l.val (peer % 1024) (word % 4) value s)

/-- MODULE_ID_WRITE: packets that wait proceed (R521). -/
def moduleIdWrite (v : Nat) (s : State) : State := forEach (List.range 8) pumpLimb (s.setFld rMrdId 15 0 v)
def execModuleIdWrite (value : Nat) (s : State) : Res := .next (moduleIdWrite value s)

end Sys2Proof.Machine
end

