-- ==== Sys2Proof/Machine/Vector.lean ====
section
/-! DEFINITION. Vector arithmetic, vector memory and predicate instructions (R150 to R165, R251, R252, R860). -/

namespace Sys2Proof.Machine

/-! ### Elements (R260, R137, R860) -/

/-- Element i of width w. -/
def elem (w : Nat) (v : BitVec 512) (i : Nat) : Nat := (v.toNat >>> (w * i)) % 2 ^ w

/-- A register from its elements of width w, element 0 first; missing elements are 0. -/
def ofElems (w : Nat) : List Nat → Nat
  | [] => 0
  | x :: r => x % 2 ^ w + ofElems w r * 2 ^ w

/-- A register whose element i of n is f i. -/
def mkVec (w n : Nat) (f : Nat → Nat) : BitVec 512 := BitVec.ofNat 512 (ofElems w ((List.range n).map f))

/-- The format of a floating-point view: F32, F64, BF16, F16 (R151). -/
def viewFmt (ty : Nat) : Nat := if ty = 0 then 8 else if ty = 1 then 9 else if ty = 2 then 6 else 7

/-- The predicate bit that governs element i of a view (R137). -/
def governs (ty i : Nat) : Nat := if ty = 1 then 2 * i else if ty = 2 ∨ ty = 3 then i / 2 else i

/-- Element i of a view is active. -/
def active (e : BitVec 16) (ty i : Nat) : Bool := e.getLsbD (governs ty i)

/-- A register whose active elements are f i and whose inactive elements stay (R137). -/
def mergeVec (e : BitVec 16) (ty : Nat) (old : BitVec 512) (f : Nat → Nat) : BitVec 512 :=
  mkVec (viewWidth ty) (viewCount ty) (fun i => if active e ty i then f i else elem (viewWidth ty) old i)

/-- The 32-bit code of an integer, or none where it lies outside the format: the manual states no such result. -/
def i32 (x : Int) : Option Nat := if -(2 ^ 31) ≤ x ∧ x < 2 ^ 31 then some (toBits 32 x) else none

/-- The code of an exact I32 result of operation op; where it lies outside I32, the free value of these operands (R119, R152). -/
def codeI32 (op a b : Nat) (x : Int) : Nat := (i32 x).getD (Config.i32Overflow op a b).toNat

/-- A vector result written: vd takes it, and the instruction is done. -/
def doneV (c i : Nat) (x : BitVec 512) (s : State) : Eff := .done (s.modCore c (writeV i x))

/-- Fields of a vector arithmetic word and their registers. -/
structure VArg where
  ty : Nat
  e : BitVec 16
  vd : Nat
  d : BitVec 512
  a : BitVec 512
  b : BitVec 512
  c : BitVec 512

/-- The operands of a vector arithmetic instruction (R150). -/
def vArg (c : Nat) (w : Word) (s : State) : VArg :=
  let k := s.core c
  { ty := bits w 33 31, e := effPred k w, vd := bits w 49 46, d := readV k (bits w 49 46), a := readV k (bits w 45 42)
    b := readV k (bits w 41 38), c := readV k (bits w 37 34) }

/-- Element i of the operands. -/
def VArg.ea (x : VArg) (i : Nat) : Nat := elem (viewWidth x.ty) x.a i
def VArg.eb (x : VArg) (i : Nat) : Nat := elem (viewWidth x.ty) x.b i
def VArg.ec (x : VArg) (i : Nat) : Nat := elem (viewWidth x.ty) x.c i

/-- An element-wise instruction: active element i of vd is `f` of the operands' elements. -/
def vecMap (c : CoreId) (op : Nat) (f : Bool → VArg → Nat → Nat) (s : State) : Res :=
  .next (issue c.val 5 [op] (fun w t =>
    let x := vArg c.val w t
    doneV c.val x.vd (mergeVec x.e x.ty x.d (f (strictOf t c.val) x)) t) s)

/-- An element-wise instruction with an exact I32 result. -/
def vecMapI (c : CoreId) (op : Nat) (f : Bool → VArg → Nat → Nat) (g : VArg → Nat → Int) (s : State) : Res :=
  vecMap c op (fun st x i => if x.ty = 4 then codeI32 op (x.ea i) (if op ≤ 1 then x.eb i else 0) (g x i) else f st x i) s

/-- A signed 32-bit element. -/
def s32 (n : Nat) : Int := sx 32 n

def execVadd (c : CoreId) (s : State) : Res :=
  vecMapI c 0x00 (fun st x i => fpAdd (viewFmt x.ty) st (x.ea i) (x.eb i)) (fun x i => s32 (x.ea i) + s32 (x.eb i)) s
def execVsub (c : CoreId) (s : State) : Res :=
  vecMapI c 0x01 (fun st x i => fpSub (viewFmt x.ty) st (x.ea i) (x.eb i)) (fun x i => s32 (x.ea i) - s32 (x.eb i)) s
def execVmul (c : CoreId) (s : State) : Res :=
  vecMap c 0x02 (fun st x i => if x.ty = 4 then x.ea i * x.eb i % 2 ^ 32 else fpMul (viewFmt x.ty) st (x.ea i) (x.eb i)) s
def execVfma (c : CoreId) (s : State) : Res :=
  vecMap c 0x03 (fun st x i => fpFma (viewFmt x.ty) st (x.ea i) (x.eb i) (x.ec i)) s

/-- VMIN and VMAX; signed in the I32 view (R156, DEDUCED). -/
def vminmax (mx : Bool) (st : Bool) (x : VArg) (i : Nat) : Nat :=
  if x.ty = 4 then (if decide (s32 (x.ea i) < s32 (x.eb i)) != mx then x.ea i else x.eb i)
  else fpMin (viewFmt x.ty) st mx (x.ea i) (x.eb i)

def execVmin (c : CoreId) (s : State) : Res := vecMap c 0x04 (vminmax false) s
def execVmax (c : CoreId) (s : State) : Res := vecMap c 0x05 (vminmax true) s

/-- The code without its sign bit (R299, R305). -/
def absCode (ty n : Nat) : Nat := n % 2 ^ (viewWidth ty - 1)
/-- The code with its sign bit turned (R299, R305). -/
def negCode (ty n : Nat) : Nat := n ^^^ 2 ^ (viewWidth ty - 1)

def execVabs (c : CoreId) (s : State) : Res := vecMapI c 0x06 (fun _ x i => absCode x.ty (x.ea i)) (fun x i => |s32 (x.ea i)|) s
def execVneg (c : CoreId) (s : State) : Res := vecMapI c 0x07 (fun _ x i => negCode x.ty (x.ea i)) (fun x i => -s32 (x.ea i)) s

/-- CC on signed integers (R156). -/
def intCmp (cc : Nat) (a b : Int) : Bool :=
  match cc with
  | 0 => a == b
  | 1 => a != b
  | 2 => a < b
  | 3 => a ≤ b
  | 4 => b < a
  | _ => b ≤ a

/-- VCMP's predicate result: every bit that governs an active element takes the comparison (R860). -/
def vcmpBits (st : Bool) (cc : Nat) (x : VArg) (old : BitVec 16) : BitVec 16 :=
  let r := fun i => if x.ty = 4 then intCmp cc (s32 (x.ea i)) (s32 (x.eb i)) else fpCmp (viewFmt x.ty) st cc (x.ea i) (x.eb i)
  let sel := fun j =>
    let i := if x.ty = 1 then j / 2 else j
    if active x.e x.ty i then r i else old.getLsbD j
  BitVec.ofNat 16 (ofElems 1 ((List.range 16).map (fun j => (sel j).toNat)))

def execVcmp (c : CoreId) (s : State) : Res :=
  .next (issue c.val 5 [8] (fun w t =>
    let x := vArg c.val w t
    let pd := bits w 30 28
    .done (t.modCore c.val (writeP pd (vcmpBits (strictOf t c.val) (bits w 27 25) x (readP (t.core c.val) pd))))) s)

def execVsel (c : CoreId) (s : State) : Res :=
  .next (issue c.val 5 [9] (fun w t =>
    let x := vArg c.val w t
    let pd := readP (t.core c.val) (bits w 30 28)
    doneV c.val x.vd (mergeVec x.e x.ty x.d (fun i => if pd.getLsbD (governs x.ty i) then x.ea i else x.eb i)) t) s)

def execVdiv (c : CoreId) (s : State) : Res := vecMap c 0x0A (fun st x i => fpDiv (viewFmt x.ty) st (x.ea i) (x.eb i)) s
def execVsqrt (c : CoreId) (s : State) : Res := vecMap c 0x0B (fun st x i => fpSqrt (viewFmt x.ty) st (x.ea i)) s

def execVbcast (c : CoreId) (s : State) : Res :=
  .next (issue c.val 5 [0x0C] (fun w t =>
    let x := vArg c.val w t
    let v := (readS (t.core c.val) (bits w 24 20)).toNat
    doneV c.val x.vd (mergeVec x.e x.ty x.d (fun _ => v)) t) s)

def execVext (c : CoreId) (s : State) : Res :=
  .next (issue c.val 5 [0x0D] (fun w t =>
    let x := vArg c.val w t
    if active x.e x.ty (bits w 19 16) then doneS c.val (bits w 24 20) (wd (x.ea (bits w 19 16))) t else .done t) s)

def execVins (c : CoreId) (s : State) : Res :=
  .next (issue c.val 5 [0x0E] (fun w t =>
    let x := vArg c.val w t
    let lane := bits w 19 16
    let v := (readS (t.core c.val) (bits w 24 20)).toNat
    if active x.e x.ty lane then
      doneV c.val x.vd (mkVec (viewWidth x.ty) (viewCount x.ty) (fun i => if i = lane then v else elem (viewWidth x.ty) x.d i)) t
    else .done t) s)

/-- One element converted from view ty to view ty2 (R157, R299, R301). -/
def convElem (st : Bool) (ty ty2 n : Nat) : Nat :=
  if ty = 4 then fpFromInt (viewFmt ty2) st 32 n
  else if ty2 = 4 then fpToInt (viewFmt ty) st 32 n
  else fpConv (viewFmt ty) (viewFmt ty2) st n

/-- VCVT: pairs by index, governed in the view with fewer elements; a narrowing conversion clears the rest (R157, R860). -/
def vcvt (st : Bool) (ty ty2 : Nat) (e : BitVec 16) (d a : BitVec 512) : BitVec 512 :=
  let n := min (viewCount ty) (viewCount ty2)
  let tg := if viewCount ty < viewCount ty2 then ty else ty2
  mkVec (viewWidth ty2) n (fun i => if active e tg i then convElem st ty ty2 (elem (viewWidth ty) a i) else elem (viewWidth ty2) d i)

def execVcvt (c : CoreId) (s : State) : Res :=
  .next (issue c.val 5 [0x0F] (fun w t =>
    let x := vArg c.val w t
    doneV c.val x.vd (vcvt (strictOf t c.val) x.ty (bits w 15 13) x.e x.d x.a) t) s)

def execVmov (c : CoreId) (s : State) : Res := vecMap c 0x10 (fun _ x i => x.ea i) s
def execVand (c : CoreId) (s : State) : Res := vecMap c 0x11 (fun _ x i => x.ea i &&& x.eb i) s
def execVor (c : CoreId) (s : State) : Res := vecMap c 0x12 (fun _ x i => x.ea i ||| x.eb i) s
def execVxor (c : CoreId) (s : State) : Res := vecMap c 0x13 (fun _ x i => x.ea i ^^^ x.eb i) s
def execVshl (c : CoreId) (s : State) : Res := vecMap c 0x14 (fun _ x i => x.ea i * 2 ^ (x.eb i % 32)) s
def execVshr (c : CoreId) (s : State) : Res := vecMap c 0x15 (fun _ x i => x.ea i / 2 ^ (x.eb i % 32)) s
def execVsra (c : CoreId) (s : State) : Res := vecMap c 0x16 (fun _ x i => toBits 32 (s32 (x.ea i) / (2 ^ (x.eb i % 32) : Nat))) s

/-- VSSQ: two roundings, strict in both modes (R251, R253). -/
def execVssq (c : CoreId) (s : State) : Res :=
  vecMap c 0x18 (fun _ x i => fpAdd 8 true (x.ec i) (fpMul 8 true (x.ea i) (x.ea i))) s

/-- One sample folded into VMVAR's running state (R252). -/
def mvarStep (st : Nat × Nat × Nat) (a : Nat) : Nat × Nat × Nat :=
  let n := fpAdd 8 true st.1 0x3F800000
  let d := fpSub 8 true a st.2.1
  let mu := fpAdd 8 true st.2.1 (fpDiv 8 true d n)
  (n, mu, fpAdd 8 true st.2.2 (fpMul 8 true d (fpSub 8 true a mu)))

/-- VMVAR: the active elements fold, in ascending order, into lanes 0 to 2 of vd (R252, R253). -/
def mvar (x : VArg) : BitVec 512 :=
  let r := ((List.range 16).filter (active x.e 0)).foldl (fun st i => mvarStep st (x.ea i)) (elem 32 x.d 0, elem 32 x.d 1, elem 32 x.d 2)
  mkVec 32 16 (fun i => if i = 0 then r.1 else if i = 1 then r.2.1 else if i = 2 then r.2.2 else elem 32 x.d i)

def execVmvar (c : CoreId) (s : State) : Res :=
  .next (issue c.val 5 [0x19] (fun w t => let x := vArg c.val w t; doneV c.val x.vd (mvar x) t) s)

/-! ### Vector memory (R159 to R163) -/

/-- The byte address of element i of a vector memory instruction, modulo 2^64; elements 16 to 31 are those of vd + 1 (R159, R160). -/
def vmAddr (k : Core) (w : Word) (i : Nat) : Nat :=
  let base := readS k (bits w 45 41) + BitVec.ofInt 64 (sx 20 (bits w 19 0))
  match iOp w % 8 with
  | 2 => (base + BitVec.ofNat 64 i * readS k (bits w 40 36)).toNat
  | 3 => (base + wd (4 * elem 32 (readV k (bits w 35 32)) i)).toNat
  | 4 => base.toNat
  | _ => (base + wd (4 * i)).toNat

/-- Alignment of the base or of each element (R159). -/
def vmAlign (op : Nat) : Nat := if op % 8 = 0 then 64 else if op % 8 = 1 then 128 else 4

/-- The active elements, by number (R160). -/
def vmActive (e : BitVec 16) (op : Nat) : List Nat := (List.range (if op % 8 = 1 then 32 else 16)).filter (fun i => e.getLsbD (i % 16))

/-- The first fault of the active elements (R159, R161). -/
def vmFault (k : Core) (w : Word) (els : List Nat) : Option Nat :=
  let a0 := vmAddr k w 0
  els.findSome? (fun i =>
    if 0x80000 < vmAddr k w i + 4 then some 0x0011
    else if (if iOp w % 8 ≤ 1 then a0 % vmAlign (iOp w) ≠ 0 else vmAddr k w i % 4 ≠ 0) then some 0x0012 else none)

/-- The half of a word at a byte address. -/
def halfAt (d : Word) (a : Nat) : Nat := if a % 8 < 4 then d.toNat % 2 ^ 32 else d.toNat / 2 ^ 32

/-- A vector load: active elements take their 32-bit values (R159 to R161). DESIGN CHOICE (entry 94): a range or alignment fault is taken at once in the transfer window too. -/
def vldEff (c : Nat) (w : Word) (s : State) : Eff :=
  let k := s.core c
  let e := effPred k w
  let els := vmActive e (iOp w)
  match vmFault k w els with
  | some cause => .trap 3 cause (wd (corePc s c)) s
  | none =>
    if els.isEmpty then .done s
    else if !ownsBanks s c then .stall
    else
      let ws := (els.map (fun i => vmAddr k w i / 8)).dedup
      match readWords c ws s with
      | .bad cause i t => .trap 3 cause (wd i) t
      | .ok vs t =>
        let val := fun i => halfAt (vs.getD (ws.idxOf (vmAddr k w i / 8)) 0) (vmAddr k w i)
        let vd := bits w 49 46
        let r0 := mkVec 32 16 (fun i => if e.getLsbD i then val i else elem 32 (readV k vd) i)
        let r1 := mkVec 32 16 (fun i => if e.getLsbD i then val (16 + i) else elem 32 (readV k (vd + 1)) i)
        let t1 := t.modCore c (writeV vd r0)
        .done (watch c 1 ws (if iOp w % 8 = 1 then t1.modCore c (writeV (vd + 1) r1) else t1))

def execVld (c : CoreId) (s : State) : Res := .next (issue c.val 6 [0] (vldEff c.val) s)
def execVldP (c : CoreId) (s : State) : Res := .next (issue c.val 6 [1] (vldEff c.val) s)
def execVldS (c : CoreId) (s : State) : Res := .next (issue c.val 6 [2] (vldEff c.val) s)
def execVldX (c : CoreId) (s : State) : Res := .next (issue c.val 6 [3] (vldEff c.val) s)
def execVldB (c : CoreId) (s : State) : Res := .next (issue c.val 6 [4] (vldEff c.val) s)

/-- The value element i of a vector store stores. -/
def vstVal (k : Core) (w : Word) (i : Nat) : Nat := elem 32 (readV k (bits w 49 46 + i / 16)) (i % 16)

/-- The half of word j that the active elements of a store leave there: the highest-numbered element wins (R163). -/
def vstHalf (k : Core) (w : Word) (els : List Nat) (a : Nat) : Option Nat :=
  (els.reverse.find? (fun i => vmAddr k w i == a)).map (vstVal k w)

/-- The words that a store writes with only one active half: they are read and merged (R162). -/
def vstPartial (k : Core) (w : Word) (els : List Nat) (j : Nat) : Bool :=
  (vstHalf k w els (8 * j)).isNone || (vstHalf k w els (8 * j + 4)).isNone

/-- A vector store: active elements are stored, words with one active half by read, merge and write (R159 to R163). DESIGN CHOICE (entry 94): a range or alignment fault is taken at once in the transfer window too. -/
def vstEff (c : Nat) (w : Word) (s : State) : Eff :=
  let k := s.core c
  let els := vmActive (effPred k w) (iOp w)
  match vmFault k w els with
  | some cause => .trap 3 cause (wd (corePc s c)) s
  | none =>
    if els.isEmpty then .done s
    else if !ownsBanks s c then .stall
    else
      let ws := (els.map (fun i => vmAddr k w i / 8)).dedup
      let ms := ws.filter (vstPartial k w els)
      match readWords c ms s with
      | .bad cause i t => .trap 3 cause (wd i) t
      | .ok vs t =>
        let old := fun j => (vs.getD (ms.idxOf j) 0).toNat
        let lo := fun j => (vstHalf k w els (8 * j)).getD (old j % 2 ^ 32)
        let hi := fun j => (vstHalf k w els (8 * j + 4)).getD (old j / 2 ^ 32)
        .done (watch c 2 ws (forEach ws (fun j u => writeWord c j ⟨wd (lo j + hi j * 2 ^ 32), false⟩ u) t))

def execVst (c : CoreId) (s : State) : Res := .next (issue c.val 6 [8] (vstEff c.val) s)
def execVstP (c : CoreId) (s : State) : Res := .next (issue c.val 6 [9] (vstEff c.val) s)
def execVstS (c : CoreId) (s : State) : Res := .next (issue c.val 6 [10] (vstEff c.val) s)
def execVstX (c : CoreId) (s : State) : Res := .next (issue c.val 6 [11] (vstEff c.val) s)

/-! ### Predicates (R165) -/

/-- A predicate instruction: pd takes f of pa, pb and the word. -/
def predOp (c : CoreId) (op : Nat) (f : BitVec 16 → BitVec 16 → Word → BitVec 16) (s : State) : Res :=
  .next (issue c.val 7 [op] (fun w t =>
    let k := t.core c.val
    .done (t.modCore c.val (writeP (bits w 49 47) (f (readP k (bits w 46 44)) (readP k (bits w 43 41)) w)))) s)

def execPset (c : CoreId) (s : State) : Res := predOp c 0 (fun _ _ w => BitVec.ofNat 16 (bits w 15 0)) s
def execPand (c : CoreId) (s : State) : Res := predOp c 1 (fun a b _ => a &&& b) s
def execPor (c : CoreId) (s : State) : Res := predOp c 2 (fun a b _ => a ||| b) s
def execPxor (c : CoreId) (s : State) : Res := predOp c 3 (fun a b _ => a ^^^ b) s
def execPandn (c : CoreId) (s : State) : Res := predOp c 4 (fun a b _ => a &&& ~~~b) s
def execPnot (c : CoreId) (s : State) : Res := predOp c 5 (fun a _ _ => ~~~a) s

/-- PFROM: pd = s[15:0]. -/
def execPfrom (c : CoreId) (s : State) : Res :=
  .next (issue c.val 7 [6] (fun w t =>
    .done (t.modCore c.val (writeP (bits w 49 47) (BitVec.ofNat 16 (readS (t.core c.val) (bits w 40 36)).toNat)))) s)

/-- PTO: s = pa, zero-extended. -/
def execPto (c : CoreId) (s : State) : Res :=
  .next (issue c.val 7 [7] (fun w t => doneS c.val (bits w 40 36) (wd (readP (t.core c.val) (bits w 46 44)).toNat) t) s)

/-- PCNT: the number of 1 bits of pa. -/
def execPcnt (c : CoreId) (s : State) : Res :=
  .next (issue c.val 7 [8] (fun w t => doneS c.val (bits w 40 36) (wd (popcount 16 (readP (t.core c.val) (bits w 46 44)).toNat)) t) s)

end Sys2Proof.Machine
end

