-- ==== Sys2Proof/Machine/Tensor.lean ====
section
/-! DEFINITION. The tensor array: issue into its queue (R167 to R183), the start and completion of an instruction in its two pipes (R184 to R187, R222, R864), products and long accumulators (R215 to R230, R239 to R241), emit (R231 to R237, R265) and reductions (R250). -/

namespace Sys2Proof.Machine

/-! ### Issue (R134, R168 to R183, R864) -/

/-- Bytes of a fused-add or fused-multiply tile by ADDF or MULF (R233). -/
def fuseBytes (fm : Nat) : Nat := if fm = 0 then 0 else if fm = 1 then 1024 else 512
/-- Bytes that a TEMIT writes, with the scale byte (R177). -/
def emitBytes (fmt : Nat) : Nat := 32 * fmtBits fmt + (if fmt ≤ 5 then 1 else 0)

/-- Operands and system values as they stand at issue (R134, R179). -/
def captureArr (s : State) (c : Nat) (w : Word) : ArrOp :=
  let k := s.core c
  { word := w, sa := readS k (bits w 49 45), sd := readS k (bits w 43 39), sk := readS k (bits w 38 34), sn := readS k (bits w 33 29)
    ss := readS k (bits w 28 24), sadd := readS k (bits w 21 17), smul := readS k (bits w 14 10)
    step := s.rd (rCoreStep c), mb := k.mb, key0 := s.rd (rCoreSgkey c 0), key1 := s.rd (rCoreSgkey c 1)
    started := false, bytes := [], pst := 0, vec := 0 }

/-- The fault of a tensor instruction at issue (R169, R176, R212, R233), the address range before the alignment (DEDUCED). -/
def tensorFault (a : ArrOp) : Option Nat :=
  let w := a.word
  if iOp w = 0 then
    (if 0x80000 < a.sa.toNat + 64 * (bits w 34 28 + 1) then some 0x0011 else if a.sa.toNat % 64 ≠ 0 then some 0x0012 else none)
  else if iOp w = 3 then
    let ad := bits w 23 22
    let mu := bits w 16 15
    (if 0x80000 < a.sd.toNat + emitBytes (bits w 49 46) || (ad != 0 && 0x80000 < a.sadd.toNat + fuseBytes ad) ||
        (mu != 0 && 0x80000 < a.smul.toNat + fuseBytes mu) then some 0x0011
     else if a.sd.toNat % 64 ≠ 0 || (ad != 0 && a.sadd.toNat % 64 ≠ 0) || (mu != 0 && a.smul.toNat % 64 ≠ 0) then some 0x0012
     else none)
  else none

/-- A tensor instruction enters the array queue; a full queue stalls (R183, R864). DESIGN CHOICE (entry 80): a range or alignment fault found at issue is recorded with UNIT 4, the array's; no rule names the unit. -/
def tensorEff (c : Nat) (w : Word) (s : State) : Eff :=
  let a := captureArr s c w
  match tensorFault a with
  | some cause => .trap 4 cause (wd (corePc s c)) s
  | none => if 8 ≤ (s.core c).arrayq.length then .stall else .done (s.modCore c (fun k => { k with arrayq := k.arrayq ++ [a] }))

def execTld (c : CoreId) (s : State) : Res := .next (issue c.val 8 [0] (tensorEff c.val) s)
def execTmac (c : CoreId) (s : State) : Res := .next (issue c.val 8 [1] (tensorEff c.val) s)
def execTclr (c : CoreId) (s : State) : Res := .next (issue c.val 8 [2] (tensorEff c.val) s)
def execTemit (c : CoreId) (s : State) : Res := .next (issue c.val 8 [3] (tensorEff c.val) s)
def execTsumRow (c : CoreId) (s : State) : Res := .next (issue c.val 8 [4] (tensorEff c.val) s)
def execTsumCol (c : CoreId) (s : State) : Res := .next (issue c.val 8 [5] (tensorEff c.val) s)

/-! ### Buffer ranges and dependencies (R174, R185, R186) -/

/-- Buffer ranges that a tensor instruction reads: buffer, first line, lines. -/
def readRanges (a : ArrOp) : List (Nat × Nat × Nat) :=
  let w := a.word
  if iOp w = 1 then
    let fmt := bits w 49 46
    let sp := bit w 45
    let cyc := bits w 44 37 + 1
    [(0, bits w 36 30, tmacLines cyc (fmtA fmt)), (1, bits w 29 23, tmacLines cyc (fmtB fmt sp))] ++
    (if fmt ≤ 5 then [(2, bits w 22 20, tmacLines cyc (fmtScale fmt sp)), (3, bits w 19 17, tmacLines cyc (fmtScale fmt sp))] else []) ++
    (if sp then [(4, bits w 16 11, tmacLines cyc (fmtMeta fmt))] else [])
  else []

/-- The buffer range that a TLD writes. -/
def writeRanges (a : ArrOp) : List (Nat × Nat × Nat) :=
  if iOp a.word = 0 then [(bits a.word 44 42, bits a.word 41 35, bits a.word 34 28 + 1)] else []

/-- Two ranges share a line. -/
def overlap (a b : Nat × Nat × Nat) : Bool := a.1 == b.1 && a.2.1 < b.2.1 + b.2.2 && b.2.1 < a.2.1 + a.2.2

def anyOverlap (l m : List (Nat × Nat × Nat)) : Bool := l.any (fun a => m.any (overlap a))

/-- The instruction runs in the MAC pipe (R184). -/
def isMac (a : ArrOp) : Bool := iOp a.word != 0

/-- Entry n of the queue may start: it is the first unstarted one of its pipe, the pipe is free, and its dependencies are met (R184 to R186). -/
def mayStart (q : List ArrOp) (n : Nat) (a : ArrOp) : Bool :=
  let before := q.take n
  before.all (fun b => isMac b != isMac a) &&
  (if isMac a then before.all (fun b => !anyOverlap (writeRanges b) (readRanges a))
   else before.all (fun b => !anyOverlap (readRanges b ++ writeRanges b) (writeRanges a)))

/-- The entry that a pipe may start next. -/
def nextStart (q : List ArrOp) (mac : Bool) : Option Nat :=
  match q.findIdx? (fun a => isMac a == mac) with
  | some n => (match q[n]? with | some a => if !a.started && mayStart q n a then some n else none | none => none)
  | none => none

/-! ### Array buffers (R223) -/

/-- Words of a buffer range read in order: the words, or the index of the first that does not decode. -/
def bufWords (k : Core) (tgt : Nat) : List Nat → Option (List Word) × Nat
  | [] => (some [], 0)
  | i :: r =>
    let rd := match tfind k.bufs (2048 * tgt + i) with
      | none => some (0 : Word)
      | some cw => match eccDecode cw i with
        | .clean w => some w.d
        | .corrected w _ => some w.d
        | _ => none
    match rd with
    | none => (none, i)
    | some d => match bufWords k tgt r with
      | (some ws, j) => (some (d :: ws), j)
      | (none, j) => (none, j)

/-- The bytes of buffer lines from a first line on. -/
def bufBytes (k : Core) (r : Nat × Nat × Nat) : Option (List Byte) × Nat :=
  match bufWords k r.1 ((List.range (8 * r.2.2)).map (· + 8 * r.2.1)) with
  | (some ws, j) => (some (wordsBytes ws), j)
  | (none, j) => (none, j)

/-- Every range's bytes in order, or the buffer and word that do not decode. -/
def bufAll (k : Core) : List (Nat × Nat × Nat) → Except (Nat × Nat) (List (List Byte))
  | [] => .ok []
  | r :: rs =>
    match bufBytes k r with
    | (none, j) => .error (r.1, j)
    | (some b, _) => match bufAll k rs with
      | .ok l => .ok (b :: l)
      | .error e => .error e

/-! ### Long accumulators (R224 to R229) -/

/-- The value's integer N of a finite number that is a multiple of 2^-288. -/
def toN (neg : Bool) (m : Nat) (e : Int) : Int := (if neg then -1 else 1) * (if 0 ≤ e + 288 then (m * 2 ^ (e + 288).toNat : Nat) else (m / 2 ^ (-(e + 288)).toNat : Nat))

/-- An exact sum is added: out of range, the flag of its sign is set and the low 608 bits are kept (R227). -/
def accAdd (v : Int) (a : Acc) : Acc :=
  let r := a.n.toInt + v
  let n := BitVec.ofInt 608 r
  { a with n := n, par := accPar n, pinf := a.pinf || decide ((2 ^ 607 : Int) ≤ r), ninf := a.ninf || decide (r < -(2 ^ 607 : Int)) }

/-- The flags that one product or addend sets (R228). -/
def accFlag (x : Option Fl) (a : Acc) : Acc :=
  match x with
  | none => { a with nan := true }
  | some .nan => { a with nan := true }
  | some (.inf true) => { a with ninf := true }
  | some (.inf false) => { a with pinf := true }
  | some (.fin _ _ _) => a

/-- What one product or addend adds (R229). -/
def accVal : Option Fl → Int
  | some (.fin n m e) => toN n m e
  | _ => 0

/-- One Add stage: the products of a cycle (R221, R227 to R229). -/
def accStage (ps : List (Option Fl)) (a : Acc) : Acc :=
  accAdd (ps.foldl (fun t p => t + accVal p) 0) (ps.foldl (fun t p => accFlag p t) a)

/-- An accumulator of the core. -/
def accOf (k : Core) (i : Nat) : Acc := tget Acc.zero k.acc i

/-- The first segment of an accumulator whose parity bit disagrees with its bits (R230). -/
def badSegment (a : Acc) : Option Nat := (List.range 8).find? (fun g => a.par.getLsbD g != (accPar a.n).getLsbD g)

/-- The first accumulator of a list whose segments read with wrong parity: element and segment (R230). -/
def badParity (k : Core) (l : List Nat) : Option (Nat × Nat) := l.findSome? (fun i => (badSegment (accOf k i)).map (fun g => (i, g)))

/-! ### Products (R216 to R220, R239 to R241) -/

/-- Element e of width w of a chunk held as a little-endian number (R217). -/
def chunkElem (chunk w e : Nat) : Nat := nbits chunk (w * e + w - 1) (w * e)

/-- The operands of one TMAC: its fields, and its buffers cut into one chunk a cycle. -/
structure MacIn where
  fmt : Nat
  sp : Bool
  cyc : Nat
  a : List Nat
  b : List Nat
  sca : List Byte
  scb : List Byte
  tm : List Nat
  deriving DecidableEq, Repr

/-- A byte list cut into chunks of n bytes, as little-endian numbers. -/
def chunks (n : Nat) : Nat → List Byte → List Nat
  | 0, _ => []
  | k + 1, bs => leNat (bs.take n) :: chunks n k (bs.drop n)

/-- The B code that A position j of row m meets in cycle i at column n; `none` for no product (R217, R239 to R241). -/
def bCode (x : MacIn) (i m n j : Nat) : Option Nat :=
  let w := fmtBits x.fmt
  let kc := fmtK x.fmt
  if !x.sp then some (chunkElem (x.b.getD i 0) w (n * kc + j))
  else
    let ix := chunkElem (x.tm.getD i 0) 2 (m * kc + j)
    if kc = 1 then
      let ch := 2 * (i / 2) + ix / 2
      if x.cyc ≤ ch then none else some (chunkElem (x.b.getD ch 0) w (n * 2 + ix % 2))
    else some (chunkElem (x.b.getD i 0) w (n * (2 * kc) + 4 * (j / 2) + ix))

/-- A scaled operand pair's product (R220, R228). -/
def product (fmt a b sa sb : Nat) : Option Fl :=
  if fmt ≤ 5 ∧ (sa = 255 ∨ sb = 255) then none
  else match mulFl (decodeFl fmt a) (decodeFl fmt b) with
    | some (.fin n m e) => some (.fin n m (if fmt ≤ 5 then e + sa + sb - 254 else e))
    | r => r

/-- The products of element (m, n) in cycle i (R216, R218). -/
def macProducts (x : MacIn) (i m n : Nat) : List (Option Fl) :=
  let kc := fmtK x.fmt
  let kb := i * (if x.sp then 2 * kc else kc) / 32
  let sa := (x.sca.getD (16 * kb + m) 0).toNat
  let sb := (x.scb.getD (16 * kb + n) 0).toNat
  (List.range kc).filterMap (fun j =>
    (bCode x i m n j).map (fun b => product x.fmt (chunkElem (x.a.getD i 0) (fmtBits x.fmt) (m * kc + j)) b sa sb))

/-- The inputs of a TMAC from the bytes of its ranges, in the order of `readRanges`. -/
def macIn (w : Word) (bs : List (List Byte)) : MacIn :=
  let fmt := bits w 49 46
  let sp := bit w 45
  let cyc := bits w 44 37 + 1
  let blk := decide (fmt ≤ 5)
  { fmt := fmt, sp := sp, cyc := cyc, a := chunks (fmtA fmt) cyc (bs.getD 0 []), b := chunks (fmtB fmt sp) cyc (bs.getD 1 [])
    sca := if blk then bs.getD 2 [] else [], scb := if blk then bs.getD 3 [] else []
    tm := if sp then chunks (fmtMeta fmt) cyc (bs.getD (if blk then 4 else 2) []) else [] }

/-- The accumulators after a TMAC (R171, R221). -/
def macAll (x : MacIn) (k : Core) : Tab Acc :=
  (List.range 256).foldl (fun t e =>
    let a := (List.range x.cyc).foldl (fun a i => accStage (macProducts x i (e / 16) (e % 16)) a) (accOf k e)
    tput Acc.zero t e a) k.acc

/-! ### Emit (R231 to R237, R265) -/

/-- A fused source format: FP32, BF16 or FP16 (R176). -/
def fuseFmt (fm : Nat) : Nat := if fm = 1 then 8 else if fm = 2 then 6 else 7

/-- The 256 codes of a packed row-major tile. -/
def tileCodes (f : Nat) (bs : List Byte) : List Nat := (chunks (fmtBits f / 8) 256 bs)

/-- The copy of the accumulators that a TEMIT rounds, after the fused add (R233). -/
def emitCopy (k : Core) (adf : Nat) (add : List Nat) : List Acc :=
  (List.range 256).map (fun e =>
    if adf = 0 then accOf k e
    else
      let v := decodeFl (fuseFmt adf) (add.getD e 0)
      accAdd (accVal (some v)) (accFlag (some v) (accOf k e)))

/-- A copy carries any flag. -/
def accFlagged (a : Acc) : Bool := a.nan || a.pinf || a.ninf

/-- The code that a flagged element is written as (R236, R272). -/
def flagCode (f : Nat) (a : Acc) : Nat :=
  if a.nan || (a.pinf && a.ninf) then (fmtNonfin f).1 else if a.pinf then (fmtNonfin f).2.1 else (fmtNonfin f).2.2

/-- One element through Round and Fused multiply: its code, whether a rounding saturated, and the copy with its flags (R232, R234 to R236). -/
def emitElem (f ss muf mul : Nat) (md : RMode) (a : Acc) : Nat × Bool × Acc :=
  if accFlagged a then (flagCode f a, false, a)
  else
    let v := a.n.toInt
    let e : Int := if f ≤ 5 then -288 + 127 - ss else -288
    let r := satRound f md (decide (v < 0)) v.natAbs e
    if muf = 0 then (r.1, r.2, a)
    else
      let c := codeOf 8 true (some (decodeFl f r.1))
      let m := codeOf 8 true (some (decodeFl (fuseFmt muf) mul))
      let mn := if isNaN (fuseFmt muf) mul then defNaN 8 else m
      let p := decodeFl 8 (fpMul 8 true c mn)
      match p with
      | .fin n pm pe =>
        let q := satRound f md n pm pe
        (q.1, r.2 || q.2, a)
      | x => let a1 := accFlag (some x) a; (flagCode f a1, r.2, a1)

/-- The rounding mode of element (r, c) of a TEMIT (R179, R232). -/
def emitMode (x : ArrOp) (e : Nat) : RMode :=
  if bit x.word 45 then
    let i := (bits x.sk 39 0 + e / 16 * x.sn.toNat + e % 16) % 2 ^ 64
    .sr (sgElem (x.key0.toNat + x.key1.toNat * 2 ^ 64) x.step.toNat x.mb.toNat (bits x.sk 63 40) i)
  else .rne

/-- The packed tile of a TEMIT with its scale byte, and pst (R177, R180, R235, R265). -/
def emitTile (k : Core) (x : ArrOp) (add mul : List Nat) : List Byte × BitVec 16 :=
  let w := x.word
  let f := bits w 49 46
  let ss := bits x.ss 7 0
  let copy := emitCopy k (bits w 23 22) add
  if f ≤ 5 ∧ ss = 255 then
    (leBytes (32 * fmtBits f) ((List.range 256).foldl (fun t e => t + (fmtNonfin f).1 * 2 ^ (fmtBits f * e)) 0) ++ [255], 2)
  else
    let rs := copy.zipIdx.map (fun p => emitElem f ss (bits w 16 15) (mul.getD p.2 0) (emitMode x p.2) p.1)
    let n := rs.zipIdx.foldl (fun t p => t + p.1.1 * 2 ^ (fmtBits f * p.2)) 0
    (leBytes (32 * fmtBits f) n ++ (if f ≤ 5 then [BitVec.ofNat 8 ss] else []),
     BitVec.ofNat 16 ((rs.any (fun r => r.2.1)).toNat + 2 * (rs.any (fun r => accFlagged r.2.2)).toNat))

/-! ### TSUM (R181, R250) -/

/-- The FP32 sum of a list of accumulators (R250). -/
def sumAcc (l : List Acc) : Nat :=
  let p := l.any (fun a => a.pinf)
  let n := l.any (fun a => a.ninf)
  if l.any (fun a => a.nan) || (p && n) then (fmtNonfin 8).1
  else if p then (fmtNonfin 8).2.1
  else if n then (fmtNonfin 8).2.2
  else
    let v : Int := l.foldl (fun t a => t + a.n.toInt) 0
    ieeeRound 8 (decide (v < 0)) v.natAbs (-288)

/-- The vector of row or column sums. -/
def sumVec (k : Core) (col : Bool) : BitVec 512 :=
  mkVec 32 16 (fun i => sumAcc ((List.range 16).map (fun j => accOf k (if col then 16 * j + i else 16 * i + j))))

/-! ### Start (R185 to R187, R864) -/

/-- Queue entry n replaced. -/
def setArr (n : Nat) (a : ArrOp) (k : Core) : Core := { k with arrayq := k.arrayq.set n a }
/-- Queue entry n freed. -/
def dropArr (n : Nat) (k : Core) : Core := { k with arrayq := k.arrayq.eraseIdx n }

/-- An array read does not decode or is poisoned: the instruction is abandoned and the core faults (R76, R77, R223, R233). -/
def arrFault (c n cause : Nat) (info : Word) (s : State) : State := coreFault c 4 cause info (s.modCore c (dropArr n))

/-- An array access is seen by the watchpoints: the instruction has retired at issue, so a match halts the running core into STATE 5 at once, its outstanding accesses completed first (R60, R120). -/
def arrWatch (c kind : Nat) (ws : List Nat) (s : State) : State := if ws.any (wptMatch s c kind) then reqHalt c 5 s else s

/-- A TLD starts: it reads its source and fills its lines (R60, R168, R170, R223). -/
def startTld (c n : Nat) (a : ArrOp) (s : State) : State :=
  let cnt := 8 * (bits a.word 34 28 + 1)
  match readWords c ((List.range cnt).map (· + a.sa.toNat / 8)) s with
  | .bad cause w t => arrFault c n cause (wd w) t
  | .ok ws t =>
    let tgt := bits a.word 44 42
    let b0 := 8 * bits a.word 41 35
    arrWatch c 1 ((List.range cnt).map (· + a.sa.toNat / 8)) <| t.modCore c (fun k => setArr n { a with started := true }
      { k with bufs := ws.zipIdx.foldl (fun b p => tset b (2048 * tgt + b0 + p.2) (eccEncode p.1 false (b0 + p.2))) k.bufs })

/-- A TMAC starts: it reads its buffers and adds its products (R171, R221, R223, R230). -/
def startTmac (c n : Nat) (a : ArrOp) (s : State) : State :=
  match bufAll (s.core c) (readRanges a) with
  | .error (tgt, w) => arrFault c n 0x000B (wd (tgt * 256 + w % 256)) s
  | .ok bs =>
    match badParity (s.core c) (List.range 256) with
    | some (e, g) => arrFault c n 0x000A (wd (e * 8 + g)) s
    | none => s.modCore c (fun k => setArr n { a with started := true } { k with acc := macAll (macIn a.word bs) k })

/-- Words of a fused tile. -/
def tileWords (fm : Nat) (adr : Word) : List Nat := (List.range (fuseBytes fm / 8)).map (· + adr.toNat / 8)

/-- A TEMIT starts: it reads its tiles, and the word that its scale byte shares, and rounds (R60, R68, R230 to R236). -/
def startTemit (c n : Nat) (a : ArrOp) (s : State) : State :=
  match badParity (s.core c) (List.range 256) with
  | some (e, g) => arrFault c n 0x000A (wd (e * 8 + g)) s
  | none =>
    let adf := bits a.word 23 22
    let muf := bits a.word 16 15
    match readWords c (tileWords adf a.sadd) s with
    | .bad cause w t => arrFault c n cause (wd w) t
    | .ok aw t => match readWords c (tileWords muf a.smul) t with
      | .bad cause w u => arrFault c n cause (wd w) u
      | .ok mw u =>
        let fmt := bits a.word 49 46
        match readWords c (if fmt ≤ 5 then [(a.sd.toNat + 32 * fmtBits fmt) / 8] else []) u with
        | .bad cause w v => arrFault c n cause (wd w) v
        | .ok _ v =>
          let r := emitTile (v.core c) a (tileCodes (fuseFmt adf) (wordsBytes aw)) (tileCodes (fuseFmt muf) (wordsBytes mw))
          arrWatch c 1 (tileWords adf a.sadd ++ tileWords muf a.smul) (v.modCore c (setArr n { a with started := true, bytes := r.1, pst := r.2 }))

/-- A TSUM starts (R230, R250). -/
def startTsum (c n : Nat) (a : ArrOp) (s : State) : State :=
  match badParity (s.core c) (List.range 256) with
  | some (e, g) => arrFault c n 0x000A (wd (e * 8 + g)) s
  | none => s.modCore c (fun k => setArr n { a with started := true, vec := sumVec k (iOp a.word == 5) } k)

/-- ARRAY_INSTRUCTION_START: only in the compute window, outside late admission, of a running core that is not halting (R120, R184 to R186, R864). -/
def execArrayInstructionStart (c : CoreId) (mac : Bool) (s : State) : Res :=
  if !(ownsBanks s c.val && coreRunning s c.val && (s.core c.val).haltTo.isNone) then .next s
  else match nextStart (s.core c.val).arrayq mac with
    | none => .next s
    | some n =>
      match (s.core c.val).arrayq[n]? with
      | none => .next s
      | some a =>
        .next (match iOp a.word with
          | 0 => startTld c.val n a s
          | 1 => startTmac c.val n a s
          | 2 => s.modCore c.val (setArr n { a with started := true })
          | 3 => startTemit c.val n a s
          | _ => startTsum c.val n a s)

/-! ### Completion (R177, R180 to R182, R222, R225) -/

/-- Bytes written into the core store at a word-aligned address, the last word merged (R68, R177). -/
def storeBytes (c a : Nat) (bs : List Byte) (s : State) : State :=
  forEach (List.range (ceilDiv bs.length 8)) (fun i t =>
    let new := (bs.drop (8 * i)).take 8
    let old := match cwRead (t.core c).store (a / 8 + i) with
      | .clean w => w
      | .corrected w _ => w
      | _ => ⟨0, true⟩
    let merged := new ++ (leBytes 8 old.d.toNat).drop new.length
    writeWord c (a / 8 + i) ⟨wd (leNat merged), old.x && new.length != 8⟩ t) s

/-- ARRAY_INSTRUCTION_DONE: the started instruction of a pipe completes. DESIGN CHOICE (entry 80): its queue entry frees at completion, not at its start; R183 says only that an entry frees. -/
def execArrayInstructionDone (c : CoreId) (mac : Bool) (s : State) : Res :=
  match (s.core c.val).arrayq.findIdx? (fun a => a.started && isMac a == mac) with
  | none => .next s
  | some n =>
    match (s.core c.val).arrayq[n]? with
    | none => .next s
    | some a =>
      let s1 := s.modCore c.val (dropArr n)
      .next (match iOp a.word with
        | 2 => s1.modCore c.val (fun k => { k with acc := [] })
        | 3 =>
          let s2 := (storeBytes c.val a.sd.toNat a.bytes s1).modCore c.val (writeP (bits a.word 9 7) a.pst)
          arrWatch c.val 2 ((List.range (ceilDiv a.bytes.length 8)).map (· + a.sd.toNat / 8))
            (if bit a.word 44 then s2 else s2.modCore c.val (fun k => { k with acc := [] }))
        | 4 => s1.modCore c.val (writeV (bits a.word 49 46) a.vec)
        | 5 => s1.modCore c.val (writeV (bits a.word 49 46) a.vec)
        | _ => s1)

end Sys2Proof.Machine
end

