-- ==== Sys2Proof/Machine/Collect.lean ====
section
/-! DEFINITION. Collective plans and their runs, contributions from cores, partials, the owner's exact reduction, the step scalar and observation trees, all-gather and broadcast (R487 to R518), and the closes of the observation vectors (R291, R293). -/

namespace Sys2Proof.Machine

/-! ### Plans (R487, R488) -/

/-- Bytes of a plan. -/
def planStride : Nat := 2112
/-- The 64-byte header of plan n as one number. -/
def planN (s : State) (l n : Nat) : Nat := wordsN (engWords s l 7 (planStride * n) 8)
/-- Field [hi:lo] of a header. -/
def pf (h hi lo : Nat) : Nat := nbits h hi lo
def pKind (h : Nat) : Nat := pf h 3 0
/-- MODE, or VEC of an observation plan. -/
def pMode (h : Nat) : Nat := pf h 4 4
def pNorm (h : Nat) : Bool := pf h 5 5 == 1
def pWfmt (h : Nat) : Nat := pf h 11 8
def pOut (h : Nat) : Nat := pf h 15 12
/-- Members. -/
def pMem (h : Nat) : Nat := pf h 31 16 + 1
def pSelf (h : Nat) : Nat := pf h 47 32
/-- ROOT, or RADIX. -/
def pRoot (h : Nat) : Nat := pf h 63 48
def pNmb (h : Nat) : Nat := pf h 79 64
/-- BOUND in ns; 0 acts as 1 (R488). -/
def pBound (h : Nat) : Nat := max 1 (pf h 111 96) * 1000
def pRecipe (h : Nat) : Nat := pf h 91 80
def pHint (h : Nat) : Nat := pf h 114 112
def pTensor (h : Nat) : Nat := pf h 191 168
def pElem0 (h : Nat) : Nat := pf h 167 128
/-- NBLK of kind 0, LEN of kinds 1 and 2. -/
def pLen (h : Nat) : Nat := if pKind h = 0 then pf h 227 192 else pf h 239 192
def pSh (h : Nat) : Nat := pf h 319 256
def pSrc (h : Nat) : Nat := pf h 367 320
def pDst (h : Nat) : Nat := pf h 431 384
def pAbase (h : Nat) : Nat := pf h 495 448

/-- The flow that reaches member j. -/
def planFlow (s : State) (l n j : Nat) : Nat :=
  bits (workWord s l (engTab 7 + planStride * n + 64 + 8 * (j / 4))) (16 * (j % 4) + 11) (16 * (j % 4))

/-- What member j owns: from, up to (R488). -/
def share (h j : Nat) : Nat × Nat := (min (j * pSh h) (pLen h), min ((j + 1) * pSh h) (pLen h))
/-- Blocks or bytes that a member owns. -/
def shareLen (h j : Nat) : Nat := (share h j).2 - (share h j).1

/-- Parent and children of a member in the tree (R513). -/
def treeChildren (h : Nat) : List Nat := ((List.range (pRoot h)).map (fun i => pRoot h * pSelf h + 1 + i)).filter (fun j => j < pMem h)
def treeParent (h : Nat) : List Nat := if pSelf h = 0 then [] else [(pSelf h - 1) / pRoot h]

/-! ### Runs -/

def State.plan (s : State) (l n : Nat) : PlanRun := tget PlanRun.reset s.plans (256 * l + n)
def State.setPlan (s : State) (l n : Nat) (r : PlanRun) : State := { s with plans := tset s.plans (256 * l + n) r }
/-- The run is in progress and nothing has ended it. -/
def planActive (s : State) (l n : Nat) : Bool := (s.plan l n).running && (s.plan l n).ending.isNone

/-- The run will end with a status that names a module (R492, R493). -/
def planEnd (l n st m : Nat) (s : State) : State :=
  if planActive s l n then s.setPlan l n { s.plan l n with ending := some (st, m) } else s

/-- The member that sends on a flow. -/
def memberOf (s : State) (l n f : Nat) : Option Nat :=
  let h := planN s l n
  (List.range (pMem h)).find? (fun j => j != pSelf h && planFlow s l n j == f)

/-- ABORT to tree neighbors, `skip` apart, that can be reached (R471, R512, R513). -/
def sendAborts (l n st m : Nat) (skip : Option Nat) (s : State) : State :=
  let h := planN s l n
  forEach ((treeParent h ++ treeChildren h).filter (fun j => some j != skip)) (fun j t =>
    let f := planFlow t l n j
    if inService t l f && !(t.flow l f).stopped then
      sendData l f { emptyPkt with plan := n, rtag := (t.plan l n).tag, kind := 7, payload := leBytes 8 (m + st * 2 ^ 16) } t
    else t) s

/-- A run ends with a status of its own that names a module, 0xFFFF for none; a run of kind 3 or 4 sends ABORT, which names the absent module or this one (R485, R512). -/
def planStop (l n st m : Nat) (s : State) : State :=
  if planActive s l n then
    let t := planEnd l n st m s
    if 3 ≤ pKind (planN s l n) then sendAborts l n st (if m = 0xFFFF then moduleId s else m) none t else t
  else s

/-- A run ends with a status that names no module. -/
def planFail (l n st : Nat) (s : State) : State := planStop l n st 0xFFFF s

/-- A packet of the run to member j; a flow not in service ends the run (R867), one that stopped ends it with PEER_ABSENT (R485). -/
def sendMember (l n j kind addr : Nat) (body : List Byte) (s : State) : State :=
  let f := planFlow s l n j
  if !inService s l f then planFail l n 4 s
  else if (s.flow l f).stopped then planStop l n 1 (peerMod s l (flowPeer s l f)) s
  else sendData l f { emptyPkt with plan := n, rtag := (s.plan l n).tag, kind := kind, addr := addr, payload := body } s

/-- The status of a run for a failed access of its engine: capacity, or an error of the plan. -/
def accessStatus (st : Nat) : Nat := if st = 3 then 3 else 4

/-- An engine's write for a plan, with the plan's hint on the granules written (R408, R487, R517). -/
def planWrite (l n a : Nat) (bs : List Byte) (s : State) : State :=
  let w := modWrite l postedTag 1 a (bs.map (fun b => (b, false))) s
  let t := if w.1 = 0 then w.2 else planFail l n (accessStatus w.1) w.2
  let h := pHint (planN s l n)
  if h = 0 ∨ h = 5 then t else forEach (rowGranules a (ceilDiv bs.length 64)) (applyHint h) t

/-- An engine's read for a plan; one that is still to be answered fails nothing (`withReads`). -/
def planRead (l n a k : Nat) (s : State) : List Byte × State :=
  let r := modRead l a k s
  (r.2.1.map (·.1), if r.1 = 0 ∨ r.1 = 7 then r.2.2 else planFail l n (accessStatus r.1) r.2.2)

/-! ### The owner's reduction (R507 to R510) -/

/-- An owned block as the accumulation area holds it. -/
structure OwnBlk where
  mbcsum : Nat
  origin : Nat
  nf : Bool
  acc : List Acc
  deriving DecidableEq, Repr

/-- Bytes of an owned block's record. -/
def ownBytes : Nat := 2624

/-- The record of an owned block: zero where its RTAG is another run's (R507). -/
def ownParse (tag : Nat) (bs : List Byte) : OwnBlk :=
  let w := leNat (bs.take 8)
  if nbits w 15 0 ≠ tag then ⟨0, 0xFFFF, false, List.replicate 32 Acc.zero⟩
  else
    ⟨nbits w 31 16, nbits w 47 32, nbits w 48 48 == 1, (List.range 32).map (fun e =>
      let b := (bs.drop (64 + 80 * e)).take 80
      let fl := (b.getD 76 0).toNat
      { n := BitVec.ofNat 608 (leNat (b.take 76)), nan := fl.testBit 2, pinf := fl.testBit 1, ninf := fl.testBit 0, par := accPar (BitVec.ofNat 608 (leNat (b.take 76))) })⟩

/-- The bytes of an owned block's record. -/
def ownForm (tag : Nat) (o : OwnBlk) : List Byte :=
  leBytes 8 (tag + o.mbcsum * 2 ^ 16 + o.origin * 2 ^ 32 + o.nf.toNat * 2 ^ 48) ++ List.replicate 56 0 ++
  o.acc.flatMap (fun a => leBytes 76 a.n.toNat ++ leBytes 4 (a.nan.toNat * 4 + a.pinf.toNat * 2 + a.ninf.toNat))

/-- The value of an element of a RAW record (R262, R508). -/
def rawVal (fmt scale code : Nat) : Fl :=
  if scale = 255 then .nan
  else match decodeFl fmt code with
    | .fin n m e => .fin n m (e + scale - 127)
    | v => v

/-- What a record adds to a block (R508): form, scale or QE, payload. -/
def ownAdd (wfmt form aux : Nat) (body : List Byte) (o : OwnBlk) : OwnBlk :=
  match form with
  | 0 =>
    let cs := unpackCodes (fmtBits wfmt) 32 body
    { o with acc := (List.range 32).map (fun e =>
      let v := rawVal wfmt (aux % 256) (cs.getD e 0)
      accAdd (accVal (some v)) (accFlag (some v) (o.acc.getD e Acc.zero))) }
  | 1 =>
    { o with acc := (List.range 32).map (fun e =>
      let i := sx 32 (leNat ((body.drop (4 * e)).take 4))
      accAdd (toN (decide (i < 0)) i.natAbs (sx 9 aux)) (o.acc.getD e Acc.zero)) }
  | 3 => { o with nf := true, origin := min o.origin (leNat (body.take 2)) }
  | _ => o

/-- A completed element: its code in OUTFMT (R509). -/
def ownCode (fmt : Nat) (a : Acc) : Nat :=
  if accFlagged a then flagCode fmt a else (satRound fmt .rne (decide (a.n.toInt < 0)) a.n.toInt.natAbs (-288)).1

/-- The exact square of a written element in units of 2^-320 (R510). -/
def squareUnits (fmt c : Nat) : Nat :=
  match decodeFl fmt c with
  | .fin _ m e => m * m * 2 ^ (2 * e + 320).toNat
  | _ => 0

/-- A block completes: rounded, written, its NF, ORIGIN and squares into the run (R509 to R511). -/
def ownComplete (l n b : Nat) (o : OwnBlk) (s : State) : State :=
  let h := planN s l n
  let fmt := pOut h
  let cs := o.acc.map (ownCode fmt)
  let s1 := planWrite l n (pDst h + b * 32 * (fmtBits fmt / 8)) (packCodes (fmtBits fmt) cs) s
  let bad := o.acc.any accFlagged
  let nf := o.nf || bad
  let origin := if bad && !o.nf then min o.origin (moduleId s) else o.origin
  let r := s1.plan l n
  s1.setPlan l n { r with
    done := r.done + 1, nf := r.nf || nf, origin := min r.origin (if nf then origin else 0xFFFF)
    norm := r.norm + (if nf || !pNorm h then 0 else (cs.map (squareUnits fmt)).foldl (· + ·) 0) }

/-- A record reaches the owner of block b (R508, R509). -/
def ownRecord (l n b form mbc aux : Nat) (body : List Byte) (s : State) : State :=
  let h := planN s l n
  let tag := (s.plan l n).tag
  let a := pAbase h + ownBytes * (b - (share h (pSelf h)).1)
  let r := planRead l n a ownBytes s
  let o := ownAdd (pWfmt h) form aux body (ownParse tag r.1)
  let o1 := { o with mbcsum := o.mbcsum + mbc }
  if pNmb h < o1.mbcsum then planFail l n 4 r.2
  else
    let s1 := planWrite l n a (ownForm tag o1) r.2
    if o1.mbcsum = pNmb h ∧ 0 < mbc then ownComplete l n b o1 s1 else s1

/-! ### Contributions and partials (R496 to R505) -/

/-- A record's header (R505). -/
def recHead (mbc aux form b : Nat) : List Byte := leBytes 8 (mbc * 2 ^ 48 + aux % 512 * 2 ^ 39 + form * 2 ^ 36 + b)

/-- A record goes to the owner of its block: this module, or a member by packet. -/
def sendRecord (l n b form mbc aux : Nat) (body : List Byte) (s : State) : State :=
  let h := planN s l n
  let j := b / max 1 (pSh h)
  if j = pSelf h then ownRecord l n b form mbc aux body s
  else sendMember l n j 1 0 (recHead mbc aux form b ++ body) s

/-- Bytes filled up to a multiple of 8. -/
def pad8 (bs : List Byte) : List Byte := bs ++ List.replicate ((8 - bs.length % 8) % 8) 0

/-- An open partial (R499, R500). -/
structure Part where
  mbc : Nat
  tot : Nat
  qe : Int
  nf : Bool
  n : List Int
  deriving DecidableEq, Repr

/-- An exponent that no nonzero block has: QE of a block whose integers are all zero, which the manual does not give. -/
def noQe : Int := 255
def Part.empty : Part := ⟨0, 0, noQe, false, List.replicate 32 0⟩

/-- A partial as its area holds it; empty where the RTAG is another run's (R500). -/
def partParse (tag : Nat) (bs : List Byte) : Part :=
  let w := leNat (bs.take 8)
  if nbits w 15 0 ≠ tag then Part.empty
  else ⟨nbits w 31 16, nbits w 47 32, sx 9 (nbits w 56 48), nbits w 57 57 == 1, (List.range 32).map (fun e => sx 32 (leNat ((bs.drop (64 + 4 * e)).take 4)))⟩

def partForm (tag : Nat) (p : Part) : List Byte :=
  leBytes 8 (tag + p.mbc * 2 ^ 16 + p.tot * 2 ^ 32 + toBits 9 p.qe * 2 ^ 48 + p.nf.toNat * 2 ^ 57) ++ List.replicate 56 0 ++ p.n.flatMap (fun i => leBytes 4 (toBits 32 i))

/-- Exponent of the least significant set bit of m × 2^e, m nonzero. -/
def lsbExp : Nat → Nat → Int → Int
  | 0, _, e => e
  | k + 1, m, e => if m % 2 = 0 then lsbExp k (m / 2) (e + 1) else e

/-- A block in FX32 (R499): QE and the integers. -/
def toFx (vs : List Fl) : Int × List Int :=
  let q := vs.foldl (fun q v => match v with | .fin _ m e => if m = 0 then q else min q (lsbExp 64 m e) | _ => q) noQe
  (q, vs.map (fun v => match v with | .fin neg m e => (if neg then -1 else 1) * (if q ≤ e then (m * 2 ^ (e - q).toNat : Nat) else (m / 2 ^ (q - e).toNat : Nat)) | _ => 0))

/-- Two FX32 blocks combined (R499). -/
def fxAdd (a b : Int × List Int) : Int × List Int :=
  let q := min a.1 b.1
  (q, (List.range 32).map (fun i => a.2.getD i 0 * 2 ^ (a.1 - q).toNat + b.2.getD i 0 * 2 ^ (b.1 - q).toNat))

def fxFits (a : Int × List Int) : Bool := a.2.all (fun i => decide (-(2 ^ 31 : Int) ≤ i) && decide (i < 2 ^ 31))

/-- A NONFIN record's payload. -/
def originBytes (s : State) : List Byte := leBytes 8 (moduleId s)

/-- A closed partial is sent (R502 to R504). -/
def sendPart (l n b : Nat) (p : Part) (s : State) : State :=
  let h := planN s l n
  if p.nf then sendRecord l n b 3 p.mbc 0 (originBytes s) s
  else if p.n.all (· == 0) then sendRecord l n b 2 p.mbc 0 [] s
  else if pMode h = 1 then sendRecord l n b 1 p.mbc (toBits 9 p.qe) (p.n.flatMap (fun i => leBytes 4 (toBits 32 i))) s
  else
    let code := recipeCode s (pRecipe h)
    let md := fun (e : Nat) => if recipeSr s l (pRecipe h) then .sr (sgElem (limbKey s l) (stepCnt s).toNat 0xFFFE (pTensor h) (pElem0 h + b * 32 + e)) else RMode.rne
    let es := (List.range 32).map (fun e => let i := p.n.getD e 0; limbConv (pWfmt h) code (md e) (.fin (decide (i < 0)) i.natAbs p.qe))
    let s1 := observe l false (pRecipe h) (es.foldl (fun o e => obsMerge o e.2) 0) (codeUse l (pRecipe h) s)
    sendRecord l n b 0 p.mbc (code % 256) (pad8 (packCodes (fmtBits (pWfmt h)) (es.map (·.1)))) s1

def rQstat (l : Nat) : Nat := limbBase l + 0x3010
/-- A record or transfer discarded under R497. -/
def qDrop (l q : Nat) (s : State) : State := raise (domLimb l) 1 7 0x0249 (wd q) (s.satFld (rQstat l) 63 32 1)
/-- A contribution beyond LOCALMB (R501). -/
def overDrop (l q : Nat) (s : State) : State := raise (domLimb l) 2 7 0x024A (wd q) (s.satFld (rQstat l) 63 32 1)

/-- TOT of a block has reached LOCALMB. -/
def blockFull (l n : Nat) (s : State) : State := let r := s.plan l n; s.setPlan l n { r with full := r.full + 1 }

/-- One contribution block: its codes, scale and NFM bit (R498, R501). -/
def contribute (l q n b : Nat) (codes : List Nat) (scale : Nat) (nfm : Bool) (pbase : Nat) (s : State) : State :=
  let h := planN s l n
  let vs := codes.map (rawVal (pWfmt h) scale)
  let nf := nfm || vs.any (fun v => match v with | .fin _ _ _ => false | _ => true)
  let raw := pad8 (packCodes (fmtBits (pWfmt h)) codes)
  let zero := vs.all (fun v => match v with | .fin _ m _ => m == 0 | _ => false)
  let lmb := s.samp.localmb
  if lmb ≤ 1 then
    let r := s.plan l n
    if lmb ≤ tget 0 r.tot b then overDrop l q s
    else
      let s1 := blockFull l n (s.setPlan l n { r with tot := tset r.tot b 1 })
      if nf then sendRecord l n b 3 1 0 (originBytes s1) s1
      else if zero then sendRecord l n b 2 1 0 [] s1
      else sendRecord l n b 0 1 scale raw s1
  else
    let tag := (s.plan l n).tag
    let a := pbase + 192 * b
    let rd := planRead l n a 192 s
    let p := partParse tag rd.1
    if lmb ≤ p.tot then overDrop l q rd.2
    else
      let fx := toFx vs
      let p1 := { p with tot := p.tot + 1, nf := p.nf || nf }
      let sum := fxAdd (p1.qe, p1.n) fx
      let x : Part × State :=
        if fxFits sum then ({ p1 with mbc := p1.mbc + 1, qe := sum.1, n := sum.2 }, rd.2)
        else
          let s1 := if p1.mbc = 0 then rd.2 else
            (let t := sendPart l n b { p with nf := p1.nf } rd.2
             t.setPlan l n { t.plan l n with splits := (t.plan l n).splits + 1 })
          if fxFits fx then (⟨1, p1.tot, fx.1, nf, fx.2⟩, s1)
          else ({ Part.empty with tot := p1.tot }, if nf then sendRecord l n b 3 1 0 (originBytes s1) s1 else sendRecord l n b 0 1 scale raw s1)
      let full := x.1.tot = lmb
      let s2 := if full ∧ 0 < x.1.mbc then sendPart l n b x.1 x.2 else x.2
      let s3 := planWrite l n a (partForm tag (if full then { Part.empty with tot := x.1.tot } else x.1)) s2
      if full then blockFull l n s3 else s3

/-- A queue entry's words. -/
def queueWord (s : State) (l q w : Nat) : Word := s.rd (limbBase l + 0x90000 + 16 * q + 8 * w)

/-- The records of one transfer to a queue, header line and data lines (R496, R497). -/
def queueRecords (l q : Nat) : Nat → List Word → State → State
  | 0, _, s => s
  | fuel + 1, ws, s =>
    if ws.isEmpty then s
    else
      let w0 := ws.getD 0 0
      let nb := bits w0 40 36 + 1
      let e0 := queueWord s l q 0
      let n := bits e0 62 55
      let h := planN s l n
      let w := fmtBits (pWfmt h)
      let lines := ceilDiv (nb * 32 * w) 512
      let b0 := bits (queueWord s l q 1) 35 0 + bits w0 35 0
      let reserved := bits w0 47 41 ≠ 0 ∨ bits (ws.getD 1 0) 63 32 ≠ 0 ∨ ws.getD 6 0 ≠ 0 ∨ ws.getD 7 0 ≠ 0
      let rest := ws.drop (8 + 8 * lines)
      if bit e0 63 = false ∨ reserved ∨ !planActive s l n ∨ pKind h ≠ 0 ∨ pLen h ≤ b0 + (nb - 1) then queueRecords l q fuel rest (qDrop l q s)
      else
        let body := wordsBytes ((ws.drop 8).take (8 * lines))
        let cs := unpackCodes w (32 * nb) body
        let scales := wordsBytes ((ws.drop 2).take 4)
        let s1 := forEach (List.range nb) (fun j t =>
          contribute l q n (b0 + j) ((cs.drop (32 * j)).take 32) (scales.getD j 0).toNat (bit (ws.getD 1 0) j) (bits e0 47 0) t) s
        queueRecords l q fuel rest s1

/-- The clamps of one observation pair (R287, R290, R783): a recipe number from 4,096 to 0xFFFE, PEAK 255, and the reserved bits. -/
def pairClamps (p : Nat × Nat) : List Clamp :=
  (if 4096 ≤ p.1 then [⟨0, 16, p.1, 4095⟩] else []) ++ (if p.2 % 256 = 255 then [⟨16, 8, 255, 254⟩] else []) ++
  (if nbits p.2 13 8 ≠ 0 then [⟨24, 6, nbits p.2 13 8, 0⟩] else [])

/-- The observation word of a pair as used. -/
def pairWord (w : Nat) : Nat := nbits w 15 14 * 2 ^ 14 + min (w % 256) 254

/-- Observation pairs sent to queue 0xFFF (R290): what is clamped is reported. -/
def obsPairs (l : Nat) (ws : List Word) (s : State) : State :=
  let bs := wordsBytes ws
  let pairs := (List.range (bs.length / 4)).map (fun j => (leNat ((bs.drop (4 * j)).take 2), leNat ((bs.drop (4 * j + 2)).take 2)))
  let live := pairs.zipIdx.filter (fun p => p.1.1 != 0xFFFF)
  let cl := live.flatMap (fun p => (pairClamps p.1).map (fun k => (p.2, k)))
  let s1 := (clampReport 3 0x13 l cl s).2
  live.foldl (fun t p => observe l false (min p.1.1 4095) (pairWord p.1.2) t) s1

/-- Words of a queue transfer arrive; the transfer is read when its last packet is here (R290, R496). -/
def queuePacket (l : Nat) (p : Packet) (s : State) : State :=
  let key := 4096 * (512 * p.sy + p.sx) + p.chq
  let old := tfind (s.limb l).rxc key
  let bad := old.isNone && p.daddr != 0
  if bad then (if p.chq = 0xFFF then s else if p.lastp then qDrop l p.chq s else s)
  else
    let ws := old.getD [] ++ p.body
    if !p.lastp then s.modLimb l (fun k => { k with rxc := tset k.rxc key ws })
    else
      let s1 := s.modLimb l (fun k => { k with rxc := terase k.rxc key })
      let d := ws.map (·.d)
      if p.chq = 0xFFF then obsPairs l d s1 else queueRecords l p.chq (ws.length + 1) d s1

/-- LSEND: data for a Slew channel or a Meridian queue arrives at a limb (R190, R317, R451, R496). -/
def execLsend (p : Packet) (s : State) : Res :=
  let p := { p with typ := 9 }
  let s0 := s.taken p
  if p.dx ≠ 0x1FE ∨ 8 ≤ p.dy then .next s0
  else if waits s p then .next s
  else .next (withReads (fun u => onRoute p (fun t => if p.q then queuePacket p.dy p t else pushLines p.dy (p.chq % 4096) (p.body.length + 1) p.daddr p.body t) (u.taken p)) s)

/-! ### Step scalar and observation trees (R512 to R516) -/

/-- Half k of an observation vector as 4,096 bytes. -/
def obsHalf (v : Tab Nat) (k : Nat) : List Byte := (List.range 2048).flatMap (fun i => leBytes 2 (tget 0 v (2048 * k + i)))
/-- The words of a half. -/
def obsOfHalf (k : Nat) (bs : List Byte) : Tab Nat :=
  (List.range 2048).foldl (fun t i => obsPut t (2048 * k + i) (leNat ((bs.drop (2 * i)).take 2))) []

/-- The 96 bytes of a step scalar (R514). -/
def scalarBytes (sum origin : Nat) (nf : Bool) : List Byte := leBytes 80 sum ++ leBytes 2 origin ++ leBytes 1 nf.toNat ++ List.replicate 13 0

/-- N of R551: the square root of the norm sum in FP64. -/
def gnormOf (sum : Nat) : Nat := fpSqrt 9 true (ieeeRound 9 false sum (-320))

/-- CLIP of R551 for MAXNORM and N. -/
def clipOf (maxnorm n : Nat) : Nat :=
  match decodeFl 8 maxnorm with
  | .fin false m e =>
    if m = 0 ∨ !ltFl (.fin false m e) (decodeFl 9 n) then 0x3F800000
    else codeOf 8 true (divFl (.fin false m e) (decodeFl 9 n))
  | _ => 0x3F800000

/-- The step-scalar result in the registers, and what every engine computes from it (R515, R551). -/
def setScalar (sum origin : Nat) (nf : Bool) (s : State) : State :=
  let s1 := forEach (List.range 10) (fun i t => t.wr (0x5010 + 8 * i) (wd (nbits sum (64 * i + 63) (64 * i)))) s
  let n := gnormOf sum
  let s2 := (s1.wr 0x5060 (wd (origin + nf.toNat * 2 ^ 16))).wr 0x6020 (wd n)
  s2.setFld 0x6028 31 0 (clipOf (bits s.samp.cfg 31 0) n)

/-- The result of half k of a run at this member: kept, and sent down (R513, R515, R516). -/
def treeDown (l n k : Nat) (s : State) : State :=
  let h := planN s l n
  let r := s.plan l n
  let s1 := s.setPlan l n { r with downs := r.downs ++ [k] }
  if pKind h = 3 then
    let s2 := setScalar r.norm r.origin r.nf s1
    forEach (treeChildren h) (fun j t => sendMember l n j 4 0 (scalarBytes r.norm r.origin r.nf) t) s2
  else
    let v := r.obs.filter (fun p => p.1 / 2048 == k)
    let keep := fun (t : Tab Nat) => tmerge (t.filter (fun p => p.1 / 2048 != k)) v
    let s2 := if pMode h = 0 then { s1 with obs := { s1.obs with redG := keep s1.obs.redG } } else { s1 with obs := { s1.obs with redU := keep s1.obs.redU } }
    forEach (treeChildren h) (fun j t => sendMember l n j 6 (4096 * k) (obsHalf r.obs k) t) s2

/-- Half k of a run goes on when this member has begun and every child has sent it (R513). -/
def treeGo (l n k : Nat) (s : State) : State :=
  let h := planN s l n
  let r := s.plan l n
  if r.begun && planActive s l n && (treeChildren h).all (fun c => r.ups.contains (2 * c + k)) && !r.ups.contains (2 * 1024 + k) then
    let s1 := s.setPlan l n { r with ups := r.ups ++ [2 * 1024 + k] }
    if pSelf h = 0 then treeDown l n k s1
    else
      let body := if pKind h = 3 then scalarBytes r.norm r.origin r.nf else obsHalf r.obs k
      forEach (treeParent h) (fun j t => sendMember l n j (if pKind h = 3 then 3 else 5) (4096 * k) body t) s1
  else s

/-- An observation run begins its exchange with the module's vector (R516). -/
def obsBegin (l n : Nat) (s : State) : State :=
  let h := planN s l n
  let r := s.plan l n
  if planActive s l n && pKind h = 4 && !r.begun then
    let own := if pMode h = 0 then obsJoin s.obs.g s.obs.carried else s.obs.u
    treeGo l n 1 (treeGo l n 0 (s.setPlan l n { r with begun := true, obs := obsJoin r.obs own }))
  else s

/-- A step-scalar run ends as a reduce-scatter run of the step did: its record names the module that the status names, and its ABORT this module (R493, R512). -/
def scalarFail (l n st m : Nat) (s : State) : State := sendAborts l n st (moduleId s) none (planEnd l n st m s)

/-- STEP_SCALAR_BEGIN (R512). -/
def execStepScalarBegin (l : LimbId) (plan : Nat) (s : State) : Res :=
  let h := planN s l.val plan
  let r := s.plan l.val plan
  if planActive s l.val plan && pKind h = 3 && !r.begun then
    match s.step.rs.find? (fun x => match x.status with | some st => st != 0 | none => false) with
    | some x => .next (scalarFail l.val plan (x.status.getD 4) x.named s)
    | none =>
      if s.step.rs.all (fun x => x.status.isSome) then
        let sum := (s.step.rs.filter (fun x => x.normOn)).foldl (fun a x => a + x.norm) r.norm
        let r1 := { r with begun := true, norm := sum, nf := r.nf || s.step.rs.any (fun x => x.nf), origin := s.step.rs.foldl (fun a x => min a x.origin) r.origin }
        .next (treeGo l.val plan 0 (s.setPlan l.val plan r1))
      else .next s
  else .next s

/-! ### Packets of a run (R491, R505, R508, R513, R516 to R518) -/

/-- A packet that its run cannot take: counted in HDR, and the run ends with PLAN_ERROR. -/
def badPacket (l n port : Nat) (s : State) : State := planFail l n 4 (cntHdr port s)

/-- The block records of a PARTIAL payload (R505). -/
def partialRecords (l n port : Nat) : Nat → List Byte → State → State
  | 0, _, s => s
  | fuel + 1, bs, s =>
    if bs.length < 8 then s
    else
      let h := planN s l n
      let w := leNat (bs.take 8)
      let form := nbits w 37 36
      let len := if form = 0 then roundup8 (4 * fmtBits (pWfmt h)) else if form = 1 then 128 else if form = 3 then 8 else 0
      let b := nbits w 35 0
      let sh := share h (pSelf h)
      if b < sh.1 ∨ sh.2 ≤ b then badPacket l n port s
      else if !planActive s l n then s
      else
        let i := b - sh.1
        let r := s.plan l n
        let s1 := s.setPlan l n { r with remote := tset r.remote i (tget 0 r.remote i + nbits w 63 48) }
        partialRecords l n port fuel (bs.drop (8 + len)) (ownRecord l n b form (nbits w 63 48) (nbits w 47 39) ((bs.drop 8).take len) s1)

/-- A packet of the current run of plan n is processed. -/
def planPacket (l n port : Nat) (k : MPkt) (s : State) : State :=
  let h := planN s l n
  let r := s.plan l n
  let s1 := s.setPlan l n { r with bytes := r.bytes + k.payload.length }
  let r1 := s1.plan l n
  let from_ := memberOf s l n k.dflow
  let child := match from_ with | some j => (treeChildren h).contains j | none => false
  let parent := match from_ with | some j => (treeParent h).contains j | none => false
  match k.kind with
  | 1 => if pKind h = 0 then partialRecords l n port (k.payload.length + 1) k.payload s1 else badPacket l n port s1
  | 2 => if (pKind h = 1 ∨ pKind h = 2) ∧ k.addr + k.payload.length ≤ pLen h then planWrite l n (pDst h + k.addr) k.payload s1 else badPacket l n port s1
  | 3 =>
    if pKind h == 3 && child then
      let c := from_.getD 0
      if r1.ups.contains (2 * c) then s1
      else treeGo l n 0 (s1.setPlan l n { r1 with
        ups := r1.ups ++ [2 * c], norm := r1.norm + leNat (k.payload.take 80), origin := min r1.origin (leNat ((k.payload.drop 80).take 2))
        nf := r1.nf || (k.payload.getD 82 0).toNat % 2 == 1 })
    else badPacket l n port s1
  | 4 =>
    if pKind h == 3 && parent then
      treeDown l n 0 (s1.setPlan l n { r1 with norm := leNat (k.payload.take 80), origin := leNat ((k.payload.drop 80).take 2), nf := (k.payload.getD 82 0).toNat % 2 == 1 })
    else badPacket l n port s1
  | 5 =>
    if pKind h == 4 && child then
      let c := from_.getD 0
      let half := (if k.addr = 4096 then 1 else 0)
      if r1.ups.contains (2 * c + half) then s1
      else treeGo l n half (s1.setPlan l n { r1 with ups := r1.ups ++ [2 * c + half], obs := obsJoin r1.obs (obsOfHalf half k.payload) })
    else badPacket l n port s1
  | 6 =>
    if pKind h == 4 && parent then
      let half := (if k.addr = 4096 then 1 else 0)
      treeDown l n half (s1.setPlan l n { r1 with obs := tmerge (r1.obs.filter (fun p => p.1 / 2048 != half)) (obsOfHalf half k.payload) })
    else badPacket l n port s1
  | _ =>
    if 3 ≤ pKind h then
      let w := leNat (k.payload.take 8)
      sendAborts l n (nbits w 19 16) (nbits w 15 0) from_ (planEnd l n (nbits w 19 16) (nbits w 15 0) s1)
    else badPacket l n port s1

/-- A data packet is taken (R476, R491). -/
def takeData (l : Nat) (s : State) : State :=
  let t := takeRx l 1 s
  match t.1 with
  | none => t.2
  | some (port, k) =>
    let f := k.dflow
    if (t.2.flow l f).stopped then cntStale port t.2
    else
      let s1 := if k.ackv then takeAck l f port k.ackseq k.sack t.2 else t.2
      let x := s1.flow l f
      let d := sub32 k.seq x.rnext
      if 2 ^ 32 - 2 ^ 30 ≤ d ∨ (d < 64 ∧ marked x d = true) then sendAck l f (portCount port 0x68 true s1)
      else if 2 ^ 30 ≤ d then raise (domLimb l) 1 (4 + port % 3) 0x0231 (wd f) (cntOow port s1)
      else if 64 ≤ d then cntOow port s1
      else
        let r := s1.plan l k.plan
        let run := planActive s1 l k.plan
        let dt := (k.rtag + 65536 - r.tag) % 65536
        if 1 ≤ dt ∧ dt < 0x8000 then portCount port 0x68 false s1
        else
          let s2 := s1.setFlow l f (markSeq x d)
          let s3 := if run ∧ dt = 0 then planPacket l k.plan port k (s2.setPlan l k.plan { s2.plan l k.plan with since := sidereal s2 }) else cntStale port s2
          if 16 ≤ (s3.flow l f).ackDue then sendAck l f s3 else s3

/-- DATA (R476, R491). -/
def execData (l : LimbId) (s : State) : Res := .next (withReads (takeData l.val) s)

/-! ### Start, cancel, end (R489 to R494) -/

/-- A shard or region goes out as COPY packets of 4,096 bytes to a member (R517, R518). -/
def sendCopy (l n j : Nat) : Nat → Nat → Nat → State → State
  | 0, _, _, s => s
  | fuel + 1, a, e, s =>
    if e ≤ a then s
    else
      let h := planN s l n
      let k := min 4096 (e - a)
      let r := planRead l n (pSrc h + a) k s
      sendCopy l n j fuel (a + k) e (sendMember l n j 2 a r.1 r.2)

/-- An all-gather member's own shard is copied when SRC and DST differ (R517). -/
def copyOwn (l n : Nat) : Nat → Nat → Nat → State → State
  | 0, _, _, s => s
  | fuel + 1, a, e, s =>
    if e ≤ a then s
    else
      let h := planN s l n
      let k := min 4096 (e - a)
      let r := planRead l n (pSrc h + a) k s
      copyOwn l n fuel (a + k) e (planWrite l n (pDst h + a) r.1 r.2)

def cmdDrop (l : Nat) (s : State) : State := s.satFld (rQstat l) 31 16 1

/-- START (R489, R490, R512, R516 to R518). -/
def planStart (l n rtag lring : Nat) (s : State) : State :=
  if (s.plan l n).running ∨ limbHeld s l = true then cmdDrop l s
  else
    let h := planN s l n
    let s1 := s.setPlan l n { PlanRun.reset with running := true, tag := rtag % 65536, lring := lring, since := sidereal s }
    let others := (List.range (pMem h)).filter (fun j => j != pSelf h)
    match pKind h with
    | 0 => { s1 with step := { s1.step with rs := s1.step.rs ++ [⟨l, n, none, pNorm h, false, 0xFFFF, 0, 0xFFFF⟩] } }
    | 1 =>
      let sh := share h (pSelf h)
      let s2 := if pSrc h = pDst h then s1 else copyOwn l n (sh.2 / 4096 + 2) sh.1 sh.2 s1
      forEach others (fun j t => sendCopy l n j ((sh.2 - sh.1) / 4096 + 2) sh.1 sh.2 t) s2
    | 2 => if pRoot h = pSelf h then forEach others (fun j t => sendCopy l n j (pLen h / 4096 + 2) 0 (pLen h) t) s1 else s1
    | 3 => s1
    | _ => if launched s1 = true ∧ ((pMode h = 0 ∧ s1.obs.gClosed) ∨ (pMode h = 1 ∧ s1.obs.uClosed)) then obsBegin l n s1 else s1

def execStart (l : LimbId) (plan rtag : Nat) (s : State) : Res := .next (withReads (planStart l.val (plan % 256) rtag 0xFF) s)
/-- CANCEL (R492). -/
def planCancel (l n : Nat) (s : State) : State := planEnd l n 2 0xFFFF s
def execPlanCancel (l : LimbId) (plan : Nat) (s : State) : Res := .next (planCancel l.val (plan % 256) s)
/-- A register write of MRD_CMD (R489). -/
def mrdCmdWrite (l lring : Nat) (v : Word) (s : State) : State :=
  match bits v 63 62 with
  | 0 => planStart l (bits v 7 0) (bits v 47 32) lring s
  | 1 => planCancel l (bits v 7 0) s
  | _ => s

/-- A packet of the run is not acknowledged yet. -/
def planSending (s : State) (l n : Nat) : Bool :=
  (s.limb l).flows.any (fun p => p.2.unack.any (fun u => u.pkt.plan == n && u.pkt.rtag == (s.plan l n).tag) || p.2.waitq.any (fun k => k.plan == n && k.rtag == (s.plan l n).tag))

/-- The run has completed (R511, R513, R516 to R518). -/
def planDone (s : State) (l n : Nat) : Bool :=
  let h := planN s l n
  let r := s.plan l n
  match pKind h with
  | 0 => r.done == shareLen h (pSelf h) && (s.samp.localmb == 0 || r.full == pLen h) && !planSending s l n
  | 1 => r.bytes + shareLen h (pSelf h) == pLen h && !planSending s l n
  | 2 => if pRoot h = pSelf h then !planSending s l n else r.bytes == pLen h
  | 3 => r.downs.contains 0
  | _ => r.downs.contains 0 && r.downs.contains 1

/-- The run's record is posted, its error raised, and its outcome kept for the step (R493, R512, R555); the end of the step-scalar run ends REDUCE (R738), and a failed update observation run turns apply into failed (R555). -/
def planComplete (l n st m : Nat) (s : State) : State :=
  let h := planN s l n
  let r := s.plan l n
  let rec4 := [wd (r.tag * 2 ^ 48 + n * 2 ^ 40 + st * 2 ^ 36 + r.slow.toNat * 2 ^ 35 + l * 2 ^ 32 + m),
    if pKind h = 0 then wd (r.nf.toNat * 2 ^ 63 + r.origin * 2 ^ 32 + r.splits % 2 ^ 32) else 0, wd r.bytes, sidereal s]
  let s1 := post 2 r.lring rec4 (s.setPlan l n { r with running := false })
  let s2 := match pKind h with
    | 0 => { s1 with step := { s1.step with
        rsFail := s1.step.rsFail || st != 0
        rs := s1.step.rs.map (fun x => if x.limb = l ∧ x.plan = n ∧ x.status.isNone then { x with status := some st, nf := r.nf, origin := r.origin, norm := r.norm, named := m } else x) } }
    | 3 => modSpanEnd 1 { s1 with step := { s1.step with scalar := some st, rs := [] } }
    | 4 => if pMode h = 0 then { s1 with step := { s1.step with obsG := some st } }
      else if st = 0 ∨ s1.fld 0x6018 2 0 ≠ 1 then { s1 with step := { s1.step with obsU := some st } }
      else { s1.setFld 0x6018 2 0 3 with step := { s1.step with obsU := some st } }
    | _ => s1
  if st ∈ [1, 3, 4] then raise (domLimb l) 2 7 (0x0240 + st) (wd (n + m * 2 ^ 16)) s2 else s2

/-- PLAN_RUN_COMPLETE (R493). -/
def execPlanRunComplete (l : LimbId) (plan : Nat) (s : State) : Res :=
  let r := s.plan l.val plan
  if !r.running then .next s
  else match r.ending with
    | some (st, m) => .next (planComplete l.val plan st m s)
    | none => if planDone s l.val plan then .next (planComplete l.val plan 0 0xFFFF s) else .next s

/-- The run still needs a packet (R494). -/
def planNeeds (s : State) (l n : Nat) : Bool :=
  let h := planN s l n
  let r := s.plan l n
  match pKind h with
  | 0 => 1 < pMem h && (List.range (shareLen h (pSelf h))).any (fun i => tget 0 r.remote i + s.samp.localmb < pNmb h)
  | 1 => r.bytes + shareLen h (pSelf h) < pLen h
  | 2 => pRoot h != pSelf h && r.bytes < pLen h
  | _ => !planDone s l n && 1 < pMem h

/-- Every member but this module has its peer present. -/
def membersPresent (s : State) (l n : Nat) : Bool :=
  let h := planN s l n
  (List.range (pMem h)).all (fun j => j == pSelf h || !peerIsAbsent s l (flowPeer s l (planFlow s l n j)))

/-- RESPONSE_BOUND_EXCEEDED (R494). -/
def execResponseBoundExceeded (l : LimbId) (plan : Nat) (s : State) : Res :=
  let r := s.plan l.val plan
  if planActive s l.val plan && !r.slow && planNeeds s l.val plan && membersPresent s l.val plan &&
      decide (pBound (planN s l.val plan) ≤ (sidereal s - r.since).toNat) then
    .next (raise (domLimb l.val) 1 7 0x0248 (wd plan) (s.setPlan l.val plan { r with slow := true }))
  else .next s

/-- PEER_ABSENT (R484, R485). -/
def execPeerAbsent (peer : Nat) (s : State) : Res :=
  let off := peerOff 0 peer 0
  let last := s.rd (peerOff 0 peer 1)
  if !s.flag off 63 ∨ s.flag off 61 = true ∨ ((sidereal s).toNat + 2 ^ 64 - last.toNat) % 2 ^ 64 < 48000 then .next s
  else
    let m := peerMod s 0 peer
    let s1 := forEach (List.range 8) (fun l t => t.setFld (peerOff l peer 0) 61 61 1) s
    let s2 := forEach (List.range 8) (fun l t =>
      let fs := ((t.limb l).flows.filter (fun p => flowPeer t l p.1 == peer)).map (·.1)
      forEach fs (fun f u => u.setFlow l f { u.flow l f with stopped := true, unack := [], waitq := [] }) t) s1
    let runs := s2.plans.filter (fun p => p.2.running && p.2.ending.isNone &&
      (List.range (pMem (planN s2 (p.1 / 256) (p.1 % 256)))).any (fun j => j != pSelf (planN s2 (p.1 / 256) (p.1 % 256)) && flowPeer s2 (p.1 / 256) (planFlow s2 (p.1 / 256) (p.1 % 256) j) == peer))
    let s3 := runs.foldl (fun t p =>
      let l := p.1 / 256
      let n := p.1 % 256
      planStop l n 1 m t) s2
    .next (nlogEvent 3 0x1002 0 (wd (m + peer % 1024 * 2 ^ 16)) last s3)

/-! ### The closes of the observation vectors (R291, R293) -/

/-- A reduce-scatter run has every contribution of this tray. -/
def rsContributed (s : State) (x : RsRun) : Bool :=
  x.status.isSome || s.samp.localmb == 0 || (s.plan x.limb x.plan).full == pLen (planN s x.limb x.plan)

/-- GRADIENT_VECTOR_CLOSE (R291, R516). -/
def execGradientVectorClose (s : State) : Res :=
  if launched s && !s.obs.gClosed && allBackwardDone s && s.step.rs.all (rsContributed s) then
    .next (s.plans.foldl (fun t p => if pMode (planN t (p.1 / 256) (p.1 % 256)) = 0 then obsBegin (p.1 / 256) (p.1 % 256) t else t) (modSpan 1 (modSpanEnd 0 { s with obs := { s.obs with gClosed := true } })))
  else .next s

/-- A limb's logic domain is ON (R690). -/
def limbOn (s : State) (l : Nat) : Bool := s.fld (limbBase l + 0x6000) 1 0 == 2
/-- LMB_UPD... SWEEP of a limb (R573). -/
def sweepOf (s : State) (l : Nat) : Nat := s.fld (limbBase l + 0x4000) 2 0

/-- UPDATE_VECTOR_CLOSE (R293, R516). -/
def execUpdateVectorClose (s : State) : Res :=
  if launched s && !s.obs.uClosed && s.fld 0x6018 2 0 == 1 && (List.range 8).all (fun l => !limbOn s l || 3 ≤ sweepOf s l) then
    .next (s.plans.foldl (fun t p => if pMode (planN t (p.1 / 256) (p.1 % 256)) = 1 then obsBegin (p.1 / 256) (p.1 % 256) t else t) { s with obs := { s.obs with uClosed := true } })
  else .next s

end Sys2Proof.Machine
end

