-- ==== Sys2Proof/Machine/Flits.lean ====
section
/-! DEFINITION. Flits: their CRC and sideband (R311 to R314), the head flit's layout (R316, R317), replay buffers, credits and the buffers, virtual channels and arbitration of routers and gateways (R319, R321 to R323, R340 to R342, R346 to R348, R352). -/

namespace Sys2Proof.Machine

/-! ### CRC and sideband -/

/-- One bit of the reflected CRC-32 of 0x04C11DB7 (R313). -/
def crcBit (c : Nat) : Nat := if c % 2 = 1 then (c / 2) ^^^ 0xEDB88320 else c / 2
/-- One byte. -/
def crcByte (c : Nat) (b : Byte) : Nat := (List.range 8).foldl (fun a _ => crcBit a) (c ^^^ b.toNat)
/-- CRC-32 with initial value and final XOR 0xFFFFFFFF (R313). -/
def crc32 (bs : List Byte) : Nat := bs.foldl crcByte 0xFFFFFFFF ^^^ 0xFFFFFFFF

end Sys2Proof.Machine

namespace Sys2Proof

open Sys2Proof.Machine

/-- Content word w of a flit. -/
def Flit.word (fl : Flit) (w : Nat) : Word := fl.words.getD w 0
/-- The bytes that a flit's CRC covers: the content, then the sideband's low half (R313). -/
def Flit.covered (fl : Flit) : List Byte := (List.range 8).flatMap (fun w => leBytes 8 (fl.word w).toNat) ++ leBytes 4 (bits fl.side 31 0)
/-- The flit's CRC is right (R313). -/
def Flit.crcOk (fl : Flit) : Bool := bits fl.side 63 32 == crc32 fl.covered
/-- The poison bit of content word w (R312). -/
def Flit.poison (fl : Flit) (w : Nat) : Bool := bit fl.side (24 + w)
def Flit.seq (fl : Flit) : Nat := bits fl.side 23 16
def Flit.ackseq (fl : Flit) : Nat := bits fl.side 15 8
/-- ACKV, or NAK of an ack-only flit (R312). -/
def Flit.ackv (fl : Flit) : Bool := bit fl.side 7
def Flit.crv (fl : Flit) : Bool := bit fl.side 6
def Flit.crvc (fl : Flit) : Nat := bits fl.side 5 4
def Flit.vc (fl : Flit) : Nat := bits fl.side 3 2
/-- 0 idle, 1 head, 2 body, 3 ack-only (R312). -/
def Flit.kind (fl : Flit) : Nat := bits fl.side 1 0

/-- The flit with the CRC of what it carries. -/
def Flit.sealed (fl : Flit) : Flit := { fl with side := setBits fl.side 63 32 (crc32 fl.covered) }

/-- The words that a flit brings to a body, each with its poison bit (R314). -/
def Flit.pwords (fl : Flit) : List PWord := (List.range 8).map (fun w => ⟨fl.word w, fl.poison w⟩)

end Sys2Proof

namespace Sys2Proof.Machine

/-- A flit before it is sent: its content, poison bits, virtual channel and KIND. -/
def newFlit (ws : List PWord) (vc kind : Nat) : Flit :=
  { words := (List.range 8).map (fun w => (ws.getD w default).d)
    side := wd (((List.range 8).map (fun w => ((ws.getD w default).x).toNat * 2 ^ (24 + w))).foldl (· + ·) 0 + vc % 4 * 4 + kind % 4) }

/-! ### The head flit (R316) -/

/-- Words 0 to 7 of a packet's head flit. -/
def headWords (p : Packet) : List Word :=
  [wd (p.typ % 256 * 2 ^ 56 + ceilDiv p.body.length 8 % 64 * 2 ^ 50 + p.lastp.toNat * 2 ^ 49 + p.exp.toNat * 2 ^ 48 + p.plane.toNat * 2 ^ 47 +
      p.det.toNat * 2 ^ 46 + p.side.toNat * 2 ^ 45 + p.dx % 512 * 2 ^ 33 + p.dy % 256 * 2 ^ 25 + p.sx % 512 * 2 ^ 16 + p.sy % 256 * 2 ^ 8),
   wd p.daddr,
   wd (p.gen % 65536 * 2 ^ 48 + p.te.toNat * 2 ^ 47 + p.tok % 64 * 2 ^ 41 + p.q.toNat * 2 ^ 40 + p.chq % 4096 * 2 ^ 28 + p.tag % 4096 * 2 ^ 16),
   wd (p.rlines % 64 * 2 ^ 8 + p.status % 256)] ++ (List.range 4).map (fun i => p.mcimg.getD i 0)

/-- The packet of a head flit's words with a body. -/
def headPacket (ws : List Word) (body : List PWord) : Packet :=
  let w := fun i => ws.getD i 0
  { typ := bits (w 0) 63 56, lastp := bit (w 0) 49, exp := bit (w 0) 48, plane := bit (w 0) 47, det := bit (w 0) 46, side := bit (w 0) 45
    dx := bits (w 0) 41 33, dy := bits (w 0) 32 25, sx := bits (w 0) 24 16, sy := bits (w 0) 15 8, daddr := (w 1).toNat
    gen := bits (w 2) 63 48, te := bit (w 2) 47, tok := bits (w 2) 46 41, q := bit (w 2) 40, chq := bits (w 2) 39 28, tag := bits (w 2) 27 16
    rlines := bits (w 3) 13 8, status := bits (w 3) 7 0, mcimg := if bits (w 0) 63 56 = 0x10 then (List.range 4).map (fun i => w (4 + i)) else [], body := body }

/-- NBODY of a head flit's word 0. -/
def headBody (ws : List Word) : Nat := bits (ws.getD 0 0) 55 50

/-- Body lines of eight words. -/
def bodyLines : Nat → List PWord → List (List PWord)
  | 0, _ => []
  | n + 1, ws => if ws.isEmpty then [] else ws.take 8 :: bodyLines n (ws.drop 8)

/-- The flits of a packet: the head, then the body (R315). -/
def packetFlits (p : Packet) : List Flit :=
  newFlit ((headWords p).map (fun d => ⟨d, false⟩)) (vcOf p.typ) 1 :: (bodyLines 32 p.body).map (fun l => newFlit l (vcOf p.typ) 2)

/-! ### Ends of a link -/

/-- The sending unit's field (R306). -/
def linkField (k : LinkRef) : Nat :=
  if isGateway k.kind then (k.at_ / 2) % 84 else if k.kind = .edge then attachField (k.at_ % 8) else fieldOf k.at_

/-- A field one further in a direction: 0 N, 1 E, 2 S, 3 W. -/
def fieldStep (f dir : Nat) : Nat := if dir = 0 then f - 14 else if dir = 1 then f + 1 else if dir = 2 then f + 14 else f - 1
/-- A router n further in a direction. -/
def routerStep (c dir n : Nat) : Nat := if dir = 0 then c - 448 * n else if dir = 1 then c + n else if dir = 2 then c + 448 * n else c - n

/-- A unit that forwards flits (R306, R321): a router by its core's number, or a gateway. -/
inductive Node where
  | router (c : Nat)
  | gateway (f : Nat) (plane : Bool)
  deriving DecidableEq, Repr

/-- The edge router of an edge port (R310). -/
def edgeAt (k : LinkRef) : Nat :=
  let l := k.at_ % 8
  coreAt (if l < 4 then 0 else 447) (30 * (attachField l / 14) + k.at_ / 16 % 30)

/-- The router that a gateway attaches to (R309). -/
def gwCore (f : Nat) (plane : Bool) : Nat := let g := gwRouter f plane.toNat; coreAt g.1 g.2

/-- The unit that a link brings flits to. -/
def recvNode (k : LinkRef) : Node :=
  match k.kind with
  | .core => .router (routerStep k.at_ k.dir 1)
  | .skip => .router (routerStep k.at_ k.dir 2)
  | .seam => .router (routerStep k.at_ k.dir 1)
  | .express => .gateway (fieldStep (linkField k) k.dir) (k.at_ % 2 == 1)
  | .gateway => if k.dir = 1 then .gateway (linkField k) (k.at_ % 2 == 1) else .router (gwCore (linkField k) (k.at_ % 2 == 1))
  | .edge => .router (edgeAt k)

/-- The field of the unit that receives. -/
def linkRecvField (k : LinkRef) : Nat :=
  match recvNode k with
  | .router c => fieldOf c
  | .gateway f _ => f

/-- The reverse direction of a link. -/
def reverse (k : LinkRef) : LinkRef :=
  match k.kind with
  | .core => { k with at_ := routerStep k.at_ k.dir 1, dir := (k.dir + 2) % 4 }
  | .skip => { k with at_ := routerStep k.at_ k.dir 2, dir := (k.dir + 2) % 4 }
  | .seam => { k with at_ := routerStep k.at_ k.dir 1, dir := (k.dir + 2) % 4 }
  | .express => { k with at_ := 2 * fieldStep (linkField k) k.dir + k.at_ % 2, dir := (k.dir + 2) % 4 }
  | .gateway => { k with dir := 1 - k.dir % 2 }
  | .edge => { k with dir := (k.dir + 2) % 4 }

/-- The links that bring flits to a unit (R306, R309, R310). -/
def inLinks (n : Node) : List LinkRef :=
  match n with
  | .router c =>
    let x := coreX c
    let y := coreY c
    let back := fun (d m : Nat) => if d = 0 then y + m < 180 else if d = 1 then m ≤ x else if d = 2 then m ≤ y else x + m < 448
    let src := fun (d m : Nat) => routerStep c ((d + 2) % 4) m
    let f := fieldOf c
    ((List.range 4).filter (fun d => back d 1)).map (fun d => meshLink false (coreX (src d 1)) (coreY (src d 1)) d) ++
    ((List.range 4).filter (fun d => back d 2)).map (fun d => meshLink true (coreX (src d 2)) (coreY (src d 2)) d) ++
    (if c = gwCore f false then [gatewayLink f 0 false] else []) ++ (if c = gwCore f true then [gatewayLink f 1 false] else []) ++
    ((List.range 8).filter (fun l => f == attachField l && x == (if l < 4 then 0 else 447))).flatMap (fun l => [edgeLink l (y % 30) false, edgeLink l (y % 30) true])
  | .gateway f g =>
    ((List.range 4).filter (fun d => if d = 0 then f + 14 < 84 else if d = 1 then 0 < f % 14 else if d = 2 then 14 ≤ f else f % 14 < 13)).map
      (fun d => expressLink (fieldStep f ((d + 2) % 4)) g.toNat d) ++ [gatewayLink f g.toNat true]

/-! ### Sending (R314, R323, R346) -/

/-- A flit may leave on a link now: it is live, its replay buffer has room, and no seam half holds or discards what would cross (R346, R356, R358, R360). -/
def maySend (s : State) (k : LinkRef) : Bool :=
  let l := s.link k
  let east := match k.kind with
    | .express => decide (7 ≤ linkField k % 14)
    | _ => decide (224 ≤ coreX k.at_)
  l.status == 1 && l.unacked.length < linkDepth k.kind && !(crossesSeam k && (s.flag (rSeam east) 32 || s.flag (rSeam east) 34))

/-- A flit leaves with the next SEQ, the acknowledgment of the other direction and a credit where one is to be returned; it is kept until it is acknowledged (R312, R346). -/
def launchFlit (k : LinkRef) (fl : Flit) (s : State) : State :=
  let l := s.link k
  let ack := ((s.link (reverse k)).expSeq + 255) % 256
  let lo := bits fl.side 31 24 * 2 ^ 24 + l.nextSeq * 2 ^ 16 + ack * 2 ^ 8 + 2 ^ 7 + (!l.crq.isEmpty).toNat * 2 ^ 6 + l.crq.headD 0 % 4 * 2 ^ 4 + bits fl.side 3 0
  let out := { fl with side := wd lo }.sealed
  (s.setLink k { l with unacked := l.unacked ++ [out], nextSeq := (l.nextSeq + 1) % 256, crq := l.crq.tail }).emit (.flit k out false)

/-- The flits that wait for a link leave in order, and then an idle flit for each credit still to be returned (R314, R323). -/
def pump (k : LinkRef) : Nat → State → State
  | 0, s => s
  | n + 1, s =>
    let l := s.link k
    if !maySend s k then s
    else match l.wait with
      | fl :: rest => pump k n (launchFlit k fl (s.setLink k { l with wait := rest }))
      | [] => if l.crq.isEmpty then s else pump k n (launchFlit k (newFlit [] 0 0) s)

/-- Turns that empty what waits for a link. -/
def pumpAll (k : LinkRef) (s : State) : State := pump k ((s.link k).wait.length + (s.link k).crq.length) s

/-- A sequenced flit is sent, or waits for its link; a link that has never been trained, or is dead, takes none. -/
def sendFlit (k : LinkRef) (fl : Flit) (s : State) : State :=
  let l := s.link k
  if l.status = 1 ∨ l.status = 2 then pumpAll k (s.setLink k { l with wait := l.wait ++ [fl] }) else s

/-- A credit is to be returned for a flit that left a buffer (R323). -/
def returnCredit (k : LinkRef) (ch : Nat) (s : State) : State :=
  let r := reverse k
  pumpAll r (s.setLink r { s.link r with crq := (s.link r).crq ++ [ch % 4] })

/-- The sender takes a returned credit. DESIGN CHOICE (entry 87): CRVC names the virtual channel alone, so the credit goes to the first of its sub-channels and lanes that has flits uncredited. -/
def takeCredit (vc : Nat) (l : LinkSt) : LinkSt :=
  match [2 * vc, 2 * vc + 1, 2 * vc + 8, 2 * vc + 9].find? (fun i => 0 < tget 0 l.owed i) with
  | some i => { l with owed := tput 0 l.owed i (tget 0 l.owed i - 1) }
  | none => l

/-! ### Where a flit goes next (R324 to R327, R333, R340 to R342) -/

/-- What a unit does with a packet's flits: they go out on a link, with the head's DET and SIDE as given; they end here; they are discarded as a path that comes to `r`; or they wait. -/
inductive Aim where
  | out (k : LinkRef) (det side : Bool)
  | here
  | drop (r : Route)
  | hold
  deriving DecidableEq, Repr

/-- The aim of a step that a path takes. -/
def hopAim (h : Hop) (arrived : Aim) : Aim :=
  match h with
  | .arrive => arrived
  | .go k _ _ det => .out k det false
  | .stop r => if r.holds then .hold else .drop r

/-- A unicast packet at a router: toward the gateway of its plane in its source field or in the field of its unit, else to its core (R324, R327, R333, R863). -/
def aimRouter (s : State) (p : Packet) (c : Nat) : Aim :=
  let f := fieldOf c
  let toGw := if p.exp then f == srcField p else toUnit p
  let g := gwRouter f p.plane.toNat
  let t := if toGw then g else (p.dx, p.dy)
  hopAim (meshHop s (chanOf p) t.1 t.2 (coreX c) (coreY c) p.det) (if toGw then .out (gatewayLink f p.plane.toNat true) p.det false else .here)

/-- A unicast packet at a gateway: along the plane, into the mesh, or to its unit (R327, R863). -/
def aimGateway (s : State) (p : Packet) (f : Nat) (g : Bool) : Aim :=
  if p.exp ∧ f ≠ dstField p then hopAim (expressHop s (chanOf p) g.toNat (dstField p) f) .hold
  else if toUnit p then (let r := gwRouter f g.toNat; if p.dx = 0x1FE ∧ bridgeOn s p.dy = false then .drop (.off r.1 r.2) else .here)
  else .out (gatewayLink f g.toNat false) p.det false

/-- Direction of travel on a link into a router; none where a gateway or a limb brings the packet. -/
def travel (k : LinkRef) : Option Nat := if k.kind = .gateway ∨ k.kind = .edge then none else some k.dir

/-- One step of a multicast along a line from (x, y) toward coordinate `last`: past a dead router while more of the line is left, and not onto a dead last one (R340, R341). -/
def lineAim (s : State) (hor det side : Bool) (last x y : Nat) : List Aim :=
  let at_ := if hor then x else y
  if at_ = last then []
  else
    let a := toward at_ last
    let dead := if hor then rtDead s a y else rtDead s x a
    let b := if dead then toward a last else a
    if dead && a == last then []
    else match hopOver s 2 dead det hor x y (if hor then b else x) (if hor then y else b) with
      | .go k _ _ _ => [.out k det side]
      | .stop r => [if r.holds then .hold else .drop r]
      | .arrive => []

/-- The branch copies along a column from (x, y), in the direction of travel or from its start in both (R340). -/
def columnAims (s : State) (det side : Bool) (y0 y1 : Nat) (dir : Option Nat) (x y : Nat) : List Aim :=
  (if (dir = none ∨ dir = some 2) ∧ y < y1 then lineAim s false det side y1 x y else []) ++
  (if (dir = none ∨ dir = some 0) ∧ y0 < y then lineAim s false det side y0 x y else [])

/-- A multicast packet at a router that link `k` brought it to (R340, R341): the tree over the rectangle or, behind a gateway, over its part in this field. -/
def mcAimRouter (s : State) (p : Packet) (k : LinkRef) (c : Nat) : List Aim :=
  let r := mcRect p.mcimg
  let f := fieldOf c
  let lo := fun (a b : Nat) => if p.exp then max a b else a
  let hi := fun (a b : Nat) => if p.exp then Nat.min a b else a
  let x0 := lo r.1 (32 * (f % 14))
  let x1 := hi (min 447 r.2.1) (32 * (f % 14) + 31)
  let y0 := lo r.2.2.1 (30 * (f / 14))
  let y1 := hi (min 179 r.2.2.2) (30 * (f / 14) + 29)
  let x := coreX c
  let y := coreY c
  let t := travel k
  let ver := t = some 0 ∨ t = some 2
  let local_ := if x0 ≤ x ∧ x ≤ x1 ∧ y0 ≤ y ∧ y ≤ y1 then [Aim.here] else []
  let sideStep := fun (dx : Bool) => if dx then lineAim s true true true (x + 1) x y else lineAim s true true true (x - 1) x y
  let deadEast := decide (x < x1) && decide (x0 ≤ x + 1) && rtDead s (x + 1) (if p.exp then (gwRouter f p.plane.toNat).2 else rootRow)
  let deadWest := decide (x0 < x) && decide (x ≤ x1 + 1) && rtDead s (x - 1) (if p.exp then (gwRouter f p.plane.toNat).2 else rootRow)
  if p.side then
    (if ver then columnAims s true true y0 y1 t x y ++ (if y0 ≤ y ∧ y ≤ y1 then (if deadEast then sideStep true else []) ++ (if deadWest then sideStep false else []) else [])
     else local_)
  else if ver then columnAims s false false y0 y1 t x y ++ local_
  else
    let east := (t = none ∨ t = some 1) ∧ x < x1
    let west := (t = none ∨ t = some 3) ∧ x0 < x
    (if east then lineAim s true false false x1 x y else []) ++ (if west then lineAim s true false false x0 x y else []) ++
    (if east ∧ deadEast then columnAims s true true y0 y1 none x y else []) ++ (if west ∧ deadWest then columnAims s true true y0 y1 none x y else []) ++
    (if x0 ≤ x ∧ x ≤ x1 then columnAims s false false y0 y1 none x y else []) ++ local_
where
  /-- The row of the tree's first phase: the source's, or the edge router's. -/
  rootRow : Nat := if p.sx = 0x1FE then (edgeRouter s p.sy (mcRect p.mcimg).2.2.1).2 else p.sy

/-- A multicast packet at a gateway (R342): along field columns first and then along field rows to the fields that the rectangle meets, and into the mesh of such a field. -/
def mcAimGateway (s : State) (p : Packet) (k : LinkRef) (f : Nat) (g : Bool) : List Aim :=
  let r := mcRect p.mcimg
  let c0 := r.1 / 32
  let c1 := min 447 r.2.1 / 32
  let r0 := r.2.2.1 / 30
  let r1 := min 179 r.2.2.2 / 30
  let t := travel k
  let go := fun (b : Nat) => [hopAim (expressHop s (chanOf p) g.toNat b f) .hold]
  (if (t = none ∨ t = some 1) ∧ f % 14 < c1 then go (f + 1) else []) ++ (if (t = none ∨ t = some 3) ∧ c0 < f % 14 then go (f - 1) else []) ++
  (if c0 ≤ f % 14 ∧ f % 14 ≤ c1 then
    (if t ≠ some 0 ∧ f / 14 < r1 then go (f + 14) else []) ++ (if t ≠ some 2 ∧ r0 < f / 14 then go (f - 14) else []) ++
    (if r0 ≤ f / 14 ∧ f / 14 ≤ r1 then [.out (gatewayLink f g.toNat false) false false] else [])
  else [])

/-- TYPE is one of the table of R317. -/
def knownType (t : Nat) : Bool := [0x01, 0x02, 0x03, 0x04, 0x05, 0x06, 0x08, 0x09, 0x10, 0x20].contains t

/-- What the unit that link `k` feeds does with a packet (R319, R327, R342, R351). -/
def aims (s : State) (k : LinkRef) (p : Packet) : List Aim :=
  if p.typ = 0x20 then []
  else match recvNode k with
    | .router c => if !knownType p.typ then [] else if p.typ = 0x10 then mcAimRouter s p k c else [aimRouter s p c]
    | .gateway f g => if p.typ = 0x10 then mcAimGateway s p k f g else [aimGateway s p f g]

/-! ### Input ports and arbitration (R321, R322) -/

def State.port (s : State) (k : LinkRef) : PortSt := tget PortSt.reset s.ports (linkKey k)
def State.setPort (s : State) (k : LinkRef) (p : PortSt) : State := { s with ports := tset s.ports (linkKey k) p }
def State.grant (s : State) (k : LinkRef) : Grant := tget Grant.reset s.grants (linkKey k)
def State.setGrant (s : State) (k : LinkRef) (g : Grant) : State := { s with grants := tset s.grants (linkKey k) g }

/-- The words of the head flit of the packet at the front of a channel, and how many of its flits are still to leave with the front one. -/
def frontHead (p : PortSt) (i : Nat) (fl : Flit) : List Word × Nat :=
  match tfind p.hd i with
  | some h => h
  | none => (fl.words, 1 + headBody fl.words)

/-- A flit that may move: the port and channel it stands in, the flit, its packet's head and flits left, and its aims. -/
structure Move where
  k : LinkRef
  i : Nat
  fl : Flit
  head : List Word
  left : Nat
  aims : List Aim
  deriving DecidableEq, Repr

/-- The flit at the front of a channel of an input port. -/
def moveAt (s : State) (k : LinkRef) (i : Nat) : Option Move :=
  let p := s.port k
  match tget [] p.q i with
  | [] => none
  | fl :: _ =>
    let h := frontHead p i fl
    some ⟨k, i, fl, h.1, h.2, aims s k (headPacket h.1 [])⟩

/-- Its virtual channel. -/
def Move.vc (m : Move) : Nat := m.i / 2 % 4
/-- The input and channel that hold an output for its packet. -/
def Move.holder (m : Move) : Nat := linkKey m.k * 32 + m.i

/-- An output takes the flit: no packet of another input holds it, a credit is there, and the link is live with room (R322, R323). -/
def outFree (s : State) (m : Move) (k : LinkRef) (det : Bool) : Bool :=
  maySend s k && (s.link k).wait.isEmpty && chanFits k (s.link k).owed (m.i / 2) det.toNat &&
  (match tfind (s.grant k).held m.vc with
   | some key => key == m.holder
   | none => m.fl.kind == 1)

/-- The links with every credit of the seam's crossing links returned. -/
def seamCredits (s : State) : State :=
  { s with links := s.links.map (fun p => if crossesSeam (linkOfKey p.1) then (p.1, { p.2 with owed := [] }) else p) }

/-- A crossing link of the seam holds a flit that has no credit (R323, R738). -/
def seamWaits (s : State) : Bool :=
  s.ports.any (fun p => (List.range 16).any (fun i =>
    match moveAt (seamCredits s) (linkOfKey p.1) i with
    | some m => m.aims.any (fun a => match a with
      | .out k det _ => crossesSeam k && !chanFits k (s.link k).owed (m.i / 2) det.toNat
      | _ => false)
    | none => false))

/-- Every aim of a flit is free. -/
def movable (s : State) (m : Move) : Bool :=
  m.aims.all (fun a => match a with
    | .out k det _ => outFree s m k det
    | .here => true
    | .drop _ => true
    | .hold => false)

/-- The head flit's words with DET and SIDE as they go out. -/
def outWords8 (fl : Flit) (det side : Bool) : List Word := match fl.words with
  | w :: r => setBit (setBit w 46 det) 45 side :: r
  | [] => []

/-- A flit goes out on one link: a credit is used, the output's places follow, and the output is held to the packet's last flit (R322, R323). -/
def moveOut (m : Move) (k : LinkRef) (det side : Bool) (s : State) : State :=
  let g := s.grant k
  let l := s.link k
  let i := 2 * linkChan k (m.i / 2) + det.toNat
  let fl := if m.fl.kind = 1 then { m.fl with words := outWords8 m.fl det side } else m.fl
  let s1 := s.setGrant k { vc := m.vc, inp := tset g.inp m.vc (linkKey m.k), held := if m.left ≤ 1 then terase g.held m.vc else tset g.held m.vc m.holder }
  sendFlit k fl (s1.setLink k { l with owed := tput 0 l.owed i (tget 0 l.owed i + 1) })

/-- The packet of the flits that ended at a unit; a multicast's copy is for the router's core. -/
def arrivedPacket (k : LinkRef) (flits : List Flit) : Packet :=
  let p := headPacket ((flits.headD default).words) (flits.tail.flatMap Flit.pwords)
  { p with here := true, rest := match p.typ, recvNode k with
      | 0x10, .router c => [c]
      | _, _ => [] }

/-- A flit ends here: with its packet's last flit the packet is at its destination (R320, R338). -/
def moveHere (m : Move) (s : State) : State :=
  let p := s.port m.k
  let fs := tget [] p.asm m.i ++ [m.fl]
  if m.left ≤ 1 then (s.setPort m.k { p with asm := terase p.asm m.i }).send (arrivedPacket m.k fs)
  else s.setPort m.k { p with asm := tset p.asm m.i fs }

/-- A discarded packet is counted and reported with its head flit (R333, R359, R360, R861). -/
def moveDrop (m : Move) (r : Route) (s : State) : State :=
  if m.fl.kind ≠ 1 then s
  else
    let p := headPacket m.head []
    match r with
    | .dead x y => errFrom x y p 3 (fieldDiscard x y p s)
    | .off x y => errFrom x y p 3 (fieldDiscard x y p s)
    | .seamDrop east x y => errFrom x y p 4 (seamDiscard east 1 s)
    | _ => s

/-- A head flit with a reserved TYPE is discarded with its packet (R319). -/
def badHead (c : Nat) (head : Word) (s : State) : State := raise (domField (fieldOf c)) 2 0 0x0101 head (discardAt (fieldOf c) 1 s)

/-- A flit leaves its buffer: it goes where its aims say, and its credit returns (R322, R323). -/
def doMove (m : Move) (s : State) : State :=
  let p := s.port m.k
  let s1 := s.setPort m.k { p with q := tset p.q m.i (tget [] p.q m.i).tail, hd := if m.left ≤ 1 then terase p.hd m.i else tset p.hd m.i (m.head, m.left - 1) }
  let s2 := m.aims.foldl (fun t a => match a with
    | .out k det side => moveOut m k det side t
    | .here => moveHere m t
    | .drop r => moveDrop m r t
    | .hold => t) s1
  let s3 := match recvNode m.k with
    | .router c => if m.fl.kind = 1 ∧ knownType (bits (m.fl.word 0) 63 56) = false then badHead c (m.fl.word 0) s2 else s2
    | .gateway _ _ => s2
  returnCredit m.k (m.i / 2) s3

/-- The flits at the front of a unit's input ports. -/
def fronts (s : State) (n : Node) : List Move := (inLinks n).flatMap (fun k => (List.range 16).filterMap (moveAt s k))

/-- A list from behind the place of the last grant on, and round to it. -/
def roundFrom {α : Type} (last : α → Bool) (l : List α) : List α := (l.dropWhile (fun a => !last a)).tail ++ l.takeWhile (fun a => !last a) ++ (l.dropWhile (fun a => !last a)).take 1

/-- The flits of a unit that want an output, in the order in which it grants them: the control channel first, then request, response and multicast in turn, and in each channel the inputs in turn (R322). -/
def grantOrder (s : State) (k : LinkRef) (ms : List Move) : List Move :=
  let g := s.grant k
  let want := ms.filter (fun m => m.aims.any (fun a => match a with
    | .out j _ _ => j == k
    | _ => false))
  let ofVc := fun (v : Nat) => roundFrom (fun (m : Move) => linkKey m.k == tget 0 g.inp v) (want.filter (fun m => m.vc == v))
  ofVc 3 ++ ofVc ((g.vc + 1) % 3) ++ ofVc ((g.vc + 2) % 3) ++ ofVc (g.vc % 3)

/-- The outputs that a unit's front flits want. -/
def wantedOuts (ms : List Move) : List LinkRef := (ms.flatMap (fun m => m.aims.filterMap (fun a => match a with
  | .out k _ _ => some k
  | _ => none))).eraseDups

/-- The flit that moves next at a unit: the first that some output grants and that is free at all its aims, or one that only ends or is discarded here. -/
def nextMove (s : State) (n : Node) : Option Move :=
  let ms := fronts s n
  match (wantedOuts ms).findSome? (fun k => (grantOrder s k ms).find? (movable s)) with
  | some m => some m
  | none => ms.find? (movable s)

/-- A unit forwards flits while one can move. -/
def forward (n : Node) : Nat → State → State
  | 0, s => s
  | fuel + 1, s => match nextMove s n with
    | some m => forward n fuel (doMove m s)
    | none => s

/-- Flits that a unit can hold at most. -/
def forwardAll (n : Node) (s : State) : State := forward n 2048 s

/-! ### Receiving (R347) -/

/-- Flits of an input port by channel and sub-channel. -/
def portFlits (p : PortSt) : Tab Nat := p.q.map (fun e => (e.1, e.2.length))

/-- The packet that an incoming body flit belongs to: of those whose flits come in on its virtual channel, the first with the most still to come, since two copies of a multicast leave flit by flit. -/
def bodyOf (p : PortSt) (fl : Flit) : Nat × Nat := (tget [] p.inn fl.vc).foldl (fun a b => if a.2 < b.2 then b else a) (2 * fl.vc, 0)

/-- The channel and sub-channel of an incoming flit: a head's from its DET and its lane, a body flit's that of its packet (R322, R352). -/
def inChan (k : LinkRef) (p : PortSt) (fl : Flit) : Nat :=
  if fl.kind = 1 then (let h := headPacket fl.words []; 2 * linkChan k (fl.vc + 4 * ((h.sx + h.sy + h.dx + h.dy) % 2)) + h.det.toNat)
  else (bodyOf p fl).1

/-- An accepted head or body flit enters its buffer; a body flit that no head preceded goes nowhere. -/
def bufferFlit (k : LinkRef) (fl : Flit) (s : State) : State :=
  let p := s.port k
  let i := inChan k p fl
  let q := tset p.q i (tget [] p.q i ++ [fl])
  let coming := (tget [] p.inn fl.vc).filter (fun e => e.1 != i)
  let left := if fl.kind = 1 then headBody fl.words else (bodyOf p fl).2 - 1
  if fl.kind ≠ 1 ∧ (bodyOf p fl).2 = 0 then s
  else s.setPort k { p with q := q, inn := tset p.inn fl.vc (if left = 0 then coming else coming ++ [(i, left)]) }

/-- There is an entry free for an incoming flit (R321, R352). -/
def bufferRoom (s : State) (k : LinkRef) (fl : Flit) : Bool :=
  let i := inChan k (s.port k) fl
  fl.kind == 0 || chanFits k (portFlits (s.port k)) (i / 2) (i % 2)

/-- The sender drops what `ackseq` acknowledges: every number up to and with it (R346). An acknowledgment of none of them changes nothing. -/
def ackDrop (l : LinkSt) (ackseq : Nat) : LinkSt :=
  if l.unacked.any (fun fl => fl.seq == ackseq) then { l with unacked := (l.unacked.dropWhile (fun fl => fl.seq != ackseq)).tail, resends := 0 } else l

/-- An ack-only flit that acknowledges, or with NAK asks for a replay (R312, R347). -/
def ackOnly (nak : Bool) (ackseq : Nat) : Flit := { words := List.replicate 8 0, side := wd (ackseq % 256 * 2 ^ 8 + nak.toNat * 2 ^ 7 + 3) : Flit }.sealed

/-- A flit is discarded; the first discard is answered with a NAK (R347). -/
def flitDiscard (k : LinkRef) (s : State) : State :=
  let l := s.link k
  if l.discarding then s
  else
    let last := (l.expSeq + 255) % 256
    ((s.setLink k { l with discarding := true }).emit (.flit (reverse k) (ackOnly true last) false)).emit (.nak (reverse k) last)

/-- What a flit carries for the other direction: an acknowledgment and a returned credit; the sender it frees goes on (R312, R323, R346). -/
def flitReturns (k : LinkRef) (fl : Flit) (s : State) : State :=
  let r := reverse k
  let acks := if fl.kind = 3 then !fl.ackv else fl.ackv
  let s1 := if acks then s.setLink r (ackDrop (s.link r) fl.ackseq) else s
  let s2 := if fl.crv then s1.setLink r (takeCredit fl.crvc (s1.link r)) else s1
  if acks || fl.crv then pumpAll r s2 else s2

/-- An in-order flit is accepted and acknowledged; a head or body flit enters its buffer (R321, R347). DESIGN CHOICE (entry 87): the acknowledgment leaves at once in an ack-only flit. -/
def flitAccept (k : LinkRef) (fl : Flit) (s : State) : State :=
  let l := s.link k
  let s1 := s.setLink k { l with expSeq := (l.expSeq + 1) % 256, discarding := false }
  let s2 := s1.emit (.flit (reverse k) (ackOnly false l.expSeq) false)
  if fl.kind = 0 then s2 else bufferFlit k fl s2

/-- FLIT_RECEIVE: a CRC failure or an unexpected SEQ is discarded, the first discard answered with NAK; an in-order flit is accepted, and the receiving unit forwards what it can (R312 to R314, R323, R347). -/
def flitReceive (k : LinkRef) (fl : Flit) (s : State) : State :=
  let l := s.link k
  if l.status ≠ 1 then s
  else if !fl.crcOk then flitDiscard k (s.satFld (rFldLink (linkRecvField k)) 63 48 1)
  else
    let s1 := flitReturns k fl s
    let s2 := if fl.kind = 3 then s1 else if fl.seq ≠ l.expSeq ∨ bufferRoom s1 k fl = false then flitDiscard k s1 else flitAccept k fl s1
    forwardAll (recvNode k) s2

end Sys2Proof.Machine
end

