-- ==== Sys2Proof/Machine/Links.lean ====
section
/-! DEFINITION. Links: lane sparing, NAK and replay, retraining, heartbeats (R306, R345 to R351), and the seam's resets and clamps (R355 to R361). -/

namespace Sys2Proof.Machine

/-! ### Links -/

/-- The sender is the link's west or north unit (R350). -/
def senderWestNorth (k : LinkRef) : Bool := k.dir % 4 == 1 || k.dir % 4 == 2

/-- LOC of the router that names a link in cause 0x0103 (R628). -/
def linkLoc (k : LinkRef) : Nat := if isGateway k.kind then (linkField k / 14) * 16 + linkField k % 14 else coreY k.at_ * 512 + coreX k.at_

/-- The half that sends on a link across the seam: the East's when true. -/
def sendsEast (k : LinkRef) : Bool := k.dir % 4 == 3

/-- A link is left dead: counted, and a contained error in the field of its west or north router, or in the seam half that sends (R350). The INFO of 0x0302 names the crossing link in a form that no rule states. -/
def linkDead (k : LinkRef) (s : State) : State :=
  if crossesSeam k then
    let d := s.draw
    raise .module 2 (sendsEast k).toNat 0x0302 d.1 d.2
  else
    let f := if senderWestNorth k then linkField k else linkRecvField k
    let unit := if isGateway k.kind then 1 + k.at_ % 2 else 0
    raise (domField f) 2 unit 0x0103 (wd (k.dir % 4 * 2 ^ 17 + linkLoc k)) (s.satFld (rFldLink f) 23 16 1)

/-- No 32-lane group has more than 2 failing lanes of its 34 wires (R311, R345). -/
def sparable (failing : List Nat) : Bool := (List.range 18).all (fun g => ((failing.eraseDups).filter (fun w => w / 34 == g)).length ≤ 2)

/-- A link is trained against its failing wires: each group spares at most 2, or the link is left dead (R345, R350). -/
def trainLink (k : LinkRef) (failing : List Nat) (s : State) : State :=
  let l := s.link k
  if l.status = 3 then s
  else if sparable failing then s.setLink k { LinkSt.reset with status := 1, spared := failing.eraseDups }
  else linkDead k (s.setLink k { l with status := 3 })

/-- Resent flits leave again, oldest first. -/
def resendOut (k : LinkRef) (fls : List Flit) (s : State) : State := fls.foldl (fun t fl => t.emit (.flit k fl true)) s

/-- A resend starts from the flits that are left unacknowledged (R348, R351 REPLAY). -/
def startResend (k : LinkRef) (l : LinkSt) (s : State) : State :=
  resendOut k l.unacked ((s.satFld (rFldLink (linkField k)) 47 32 1).setLink k { l with resends := l.resends + 1 })

/-- A link is live again, or its seam half sends again: what waits for it leaves, and its sender forwards what it can. -/
def linkGo (k : LinkRef) (s : State) : State := forwardAll (recvNode (reverse k)) (pumpAll k s)

/-- FLIT_RECEIVE (R347). -/
def execFlitReceive (k : LinkRef) (fl : Flit) (s : State) : Res := .next (flitReceive k fl s)

/-- NAK: the sender resends its replay buffer from ACKSEQ + 1 (R348). -/
def execNak (k : LinkRef) (ackseq : Nat) (s : State) : Res :=
  let l := s.link k
  if l.status ≠ 1 ∨ l.unacked = [] then .next s
  else .next (startResend k (ackDrop l (ackseq % 256)) s)

/-- 64 cycles without progress while flits are unacknowledged: a resend from the oldest (R348). -/
def execLinkReplayTimeout (k : LinkRef) (s : State) : Res :=
  let l := s.link k
  if l.status ≠ 1 ∨ l.unacked = [] then .next s else .next (startResend k l s)

/-- 16 consecutive resends without progress: the link retrains (R349). -/
def execLinkRetrain (k : LinkRef) (s : State) : Res :=
  let l := s.link k
  if l.status ≠ 1 ∨ l.resends < 16 then .next s
  else .next ((s.satFld (rFldLink (linkField k)) 31 24 1).setLink k { l with status := 2 })

/-- Retraining ends: a resend from the oldest unacknowledged flit, then what waited, or the link is left dead (R345, R349, R350). -/
def retrainLink (k : LinkRef) (failing : List Nat) (s : State) : State :=
  let l := s.link k
  if l.status ≠ 2 then s
  else if sparable failing then
    let l1 := { l with status := 1, resends := 0, spared := failing.eraseDups }
    let s1 := if l.unacked.isEmpty then s else s.satFld (rFldLink (linkField k)) 47 32 1
    linkGo k (resendOut k l.unacked (s1.setLink k l1))
  else linkDead k (s.setLink k { l with status := 3 })

/-! ### Heartbeats (R351) -/

/-- A router has a neighbor in a direction. -/
def hasNeighbor (c dir : Nat) : Bool :=
  if dir = 0 then 448 ≤ c else if dir = 1 then coreX c < 447 else if dir = 2 then coreY c < 179 else decide (dir = 3) && 0 < coreX c

/-- A neighbor that exists and is not marked dead, in a field whose transit domain is on. -/
def liveNeighbor (s : State) (c dir : Nat) : Bool :=
  hasNeighbor c dir && (let n := routerStep c dir 1; !rtDead s (coreX n) (coreY n) && transitOn s (fieldOf n))

/-- An HB packet of a router to its neighbor (R317). -/
def hbPacket (c dir : Nat) : Packet :=
  let n := routerStep c dir 1
  { headPacket [] [] with typ := 0x20, lastp := true, dx := coreX n, dy := coreY n, sx := coreX c, sy := coreY c }

/-- A heartbeat leaves on the link to a neighbor, or waits for it while it retrains or its seam half holds (R349, R351, R356). -/
def sendHb (c dir : Nat) (s : State) : State :=
  let k := meshLink false (coreX c) (coreY c) dir
  (sendFlit k ((packetFlits (hbPacket c dir)).headD default) s).emit (.hb c dir)

/-- HB_SEND: a router sends an HB flit to every live neighbor (R351). -/
def execHbSend (c : CoreId) (s : State) : Res :=
  if !transitOn s (fieldOf c.val) then .next s
  else .next (forEach ((List.range 4).filter (liveNeighbor s c.val)) (sendHb c.val) s)

/-- A heartbeat is received: it shows that the neighbor lives, and is never forwarded (R317, R351). -/
def execHb (_c : CoreId) (_dir : Nat) (s : State) : Res := .next s

/-- No sequenced flit from a live neighbor for 4,096 cycles: a contained error that names it (R351). -/
def execHeartbeatLoss (c : CoreId) (dir : Nat) (s : State) : Res :=
  if transitOn s (fieldOf c.val) && liveNeighbor s c.val dir then
    let n := routerStep c.val dir 1
    .next (raise (domField (fieldOf c.val)) 2 0 0x0104 (wd (coreY n * 512 + coreX n)) s)
  else .next s

/-! ### The seam (R355 to R361) -/

/-- Gray code of a 16-bit count (R355). -/
def gray (n : Nat) : Nat := (n % 65536) ^^^ (n % 65536 / 2)
/-- The count of a Gray code. -/
def ungray (g : Nat) : Nat := (List.range 16).foldl (fun a i => a ^^^ (g >>> i)) 0 % 65536

/-- EPOCH of a half as a count. -/
def epochOf (s : State) (east : Bool) : Nat := ungray (s.fld (rSeam east) 15 0)
/-- A half's EPOCH as it stands in its register. -/
def epochCode (s : State) (east : Bool) : Nat := s.fld (rSeam east) 15 0
/-- A half's ECHO. -/
def echoCode (s : State) (east : Bool) : Nat := s.fld (rSeam east) 31 16
/-- A half's EPOCH advances by one (R355). -/
def epochNext (east : Bool) (s : State) : State := s.setFld (rSeam east) 15 0 (gray (epochOf s east + 1))

/-- The flits of a channel without a packet whose last flit has not come (R356). -/
def dropIncomplete (fls : List Flit) : List Flit := ((fls.reverse.dropWhile (fun fl => fl.kind != 1)).tail).reverse

/-- A receiving FIFO of the seam without its incomplete packets (R356). -/
def portFlush (p : PortSt) : PortSt :=
  let bad := (p.inn.flatMap (fun e => e.2)).map (·.1)
  { p with q := bad.foldl (fun t i => tset t i (dropIncomplete (tget [] t i))) p.q, inn := []
           hd := p.hd.filter (fun e => !bad.contains e.1), asm := p.asm.filter (fun e => !bad.contains e.1) }

/-- A packet whose head has crossed is drained from upstream: the rest of its flits goes nowhere (R356). -/
def portDrain (held : List Nat) (key : Nat) (p : PortSt) : PortSt :=
  { p with hd := p.hd.map (fun e => if held.contains (key * 32 + e.1) then (e.1, [0xFF00000000000000], e.2.2) else e) }

/-- The ports and outputs at the seam as a half flushes: incomplete packets leave its receiving FIFOs, and those cut short on their way out drain (R356). -/
def seamPorts (east : Bool) (s : State) : State :=
  let outs := s.grants.filter (fun g => crossesSeam (linkOfKey g.1) && sendsEast (linkOfKey g.1) == east)
  let held := outs.flatMap (fun g => g.2.held.map (·.2))
  { s with
    ports := s.ports.map (fun e => (e.1, portDrain held e.1 (if crossesSeam (linkOfKey e.1) && sendsEast (linkOfKey e.1) != east then portFlush e.2 else e.2)))
    grants := s.grants.map (fun g => if outs.any (fun o => o.1 == g.1) then (g.1, { g.2 with held := [] }) else g) }

/-- The link at the seam on a packet's path that a half sends on. -/
def crossingLink (s : State) (east : Bool) (p : Packet) : Option LinkRef := (pathOf s p).links.find? (fun k => crossesSeam k && sendsEast k == east)

/-- The router that stands at an end of a link across the seam. -/
def seamRouter (k : LinkRef) : Nat × Nat := if k.kind = .express then gwRouter (linkField k) (k.at_ % 2) else (coreX k.at_, coreY k.at_)

/-- The first n packets on their way across the seam from a half are gone; the requesters of WRA and RD get ERR with STATUS 0x04 from the half that discards: the sending half's router, or the receiving one's (R356, R359). -/
def seamLose (from_ receiving : Bool) (n : Nat) (s : State) : State :=
  let lost := ((s.net.filterMap (fun p => (crossingLink s from_ p).map (fun k => (p, k)))).take n)
  lost.foldl (fun t e => let r := seamRouter (if receiving then reverse e.2 else e.2); errFrom r.1 r.2 e.1 4 (t.taken e.1)) s

/-- A half holds, flushes and discards `cut` packets cut short on their way out and `incomplete` in its receiving FIFOs (R356, R359). -/
def seamFlush (east : Bool) (cut incomplete : Nat) (s : State) : State :=
  let s1 := seamLose (!east) true incomplete (seamLose east false cut s)
  seamDiscard east (cut + incomplete) (((seamPorts east s1).setFld (rSeam east) 32 32 1).setFld (rSeam east) 33 33 1)

/-- A half's reset asserts: its EPOCH becomes odd and its receiving FIFOs are cleared (R355). -/
def seamAssert (east : Bool) (s : State) : State :=
  let s1 := if epochOf s east % 2 = 0 then epochNext east s else s
  { s1.setFld (rSeam east) 32 32 1 with ports := s1.ports.filter (fun e => !(crossesSeam (linkOfKey e.1) && sendsEast (linkOfKey e.1) != east)) }

/-- A half's reset releases: its EPOCH becomes even (R355). -/
def seamRelease (east : Bool) (s : State) : State := if epochOf s east % 2 = 1 then epochNext east s else s

/-- A half loses power: its reset stands asserted, and it will see its partner's EPOCH as it is. -/
def seamDown (east : Bool) (s : State) : State :=
  let e := epochOf s east
  (({ s with regs := terase s.regs (rSeam east) }.setFld (rSeam east) 15 0 (gray (if e % 2 = 0 then e + 1 else e))).setFld (rSeam east) 31 16 (epochCode s (!east)))

/-- SEAM_PARTNER_RESET: the partner's reset is asserted, its epoch is odd, and this half flushes (R355, R356). -/
def execSeamPartnerReset (east : Bool) (cut incomplete : Nat) (s : State) : Res :=
  if (epochOf s (!east) % 2 = 1 ∧ echoCode s east = epochCode s (!east)) ∨ s.flag (rSeam east) 34 = true then .next s
  else .next (seamFlush east cut incomplete (seamAssert (!east) s))

/-- SEAM_FLUSH_DONE: FIFOs empty; FLUSHING clears and the odd epoch is echoed (R356). -/
def execSeamFlushDone (east : Bool) (s : State) : Res :=
  if s.flag (rSeam east) 33 then .next ((s.setFld (rSeam east) 33 33 0).setFld (rSeam east) 31 16 (epochCode s (!east))) else .next s

/-- The links across the seam with both directions' numbers 0 and every credit there (R357). -/
def seamSeqZero (s : State) : State :=
  { s with links := s.links.map (fun p =>
      if crossesSeam (linkOfKey p.1) then (p.1, { p.2 with unacked := [], nextSeq := 0, expSeq := 0, resends := 0, discarding := false, owed := [], crq := [] }) else p) }

/-- A half no longer holds: what waits for its crossing links leaves. -/
def seamGo (east : Bool) (s : State) : State :=
  ((s.links.map (fun e => linkOfKey e.1)).filter (fun k => crossesSeam k && sendsEast k == east)).foldl (fun t k => linkGo k t) s

/-- The even epoch of the partner is seen: credits full, numbers 0, the epoch echoed, and HOLD clears (R357). -/
def seamEven (east : Bool) (s : State) : State :=
  seamGo east (((seamSeqZero s).setFld (rSeam east) 31 16 (epochCode s (!east))).setFld (rSeam east) 32 32 0)

/-- SEAM_PARTNER_RELEASE: after the odd echo, the partner's reset releases and its even epoch is seen (R355, R357). -/
def execSeamPartnerRelease (east : Bool) (s : State) : Res :=
  let e := epochOf s (!east)
  let odd := gray (if e % 2 = 1 then e else e + 65535)
  if echoCode s east = odd ∧ s.flag (rSeam east) 33 = false ∧ s.flag (rSeam east) 34 = false then .next (seamEven east (seamRelease (!east) s))
  else .next s

/-- SEAM_RESET_RELEASE: a half that left reset has both epochs echoed; credits full and HOLD clear (R358). -/
def execSeamResetRelease (east : Bool) (s : State) : Res :=
  if epochOf s east % 2 = 0 ∧ echoCode s (!east) = epochCode s east ∧ s.flag (rSeam east) 34 = false then
    .next (seamGo east ((seamSeqZero s).setFld (rSeam east) 32 32 0))
  else .next s

/-- SEAM_PARTNER_OFF: the partner is powered off; the clamps close, the half flushes, and then it keeps HOLD and discards what would cross (R360). -/
def execSeamPartnerOff (east : Bool) (cut incomplete : Nat) (s : State) : Res :=
  .next (seamFlush east cut incomplete (s.setFld (rSeam east) 34 34 1))

/-- SEAM_CLAMP_OPEN: the opening counts as the partner's even epoch; the half that was up goes on as after its partner's release, and a half that has been powered up holds until its partner has echoed its epoch (R357, R358, R361). -/
def execSeamClampOpen (east : Bool) (s : State) : Res :=
  if s.flag (rSeam east) 34 then
    let s1 := seamRelease (!east) (seamRelease east (s.setFld (rSeam east) 34 34 0))
    .next (if echoCode s1 (!east) = epochCode s1 east then seamEven east s1 else s1.setFld (rSeam east) 31 16 (epochCode s1 (!east)))
  else .next s

end Sys2Proof.Machine
end

