-- ==== Sys2Proof/Machine/DarkOps.lean ====
section
/-! DEFINITION. What a dark-frame slice and the neighbor test do to the rest of the machine: the quadrant's cores and the flits they hold (R708, R709), how a slice is abandoned or aborted (R712), and how the neighbor test begins (R699). -/

namespace Sys2Proof.Machine

def rDkfStat : Nat := 0xA010
def rDkfCnt : Nat := 0xA018
/-- DKF_STAT.PHASE: 0 idle, 1 SAVE, 2 PATTERNS, 3 RESTORE, 4 neighbor test, 5 fuse (R723). -/
def dkfPhase (s : State) : Nat := s.fld rDkfStat 11 8
def setDkfPhase (n : Nat) (s : State) : State := s.setFld rDkfStat 11 8 n
/-- DKF_STAT.RSTAT. -/
def setRstat (n : Nat) (s : State) : State := s.setFld rDkfStat 15 12 n
def State.modDark (s : State) (f : Dark → Dark) : State := { s with dark := f s.dark }

/-- The cores of quadrant q, row-major (R704, R708). -/
def quadCores (q : Nat) : List Nat :=
  let f := q / 4
  let k := q % 4
  (List.range 240).map (fun i => coreAt (32 * (f % 14) + 16 * (k % 2) + i % 16) (30 * (f / 14) + 15 * (k / 2) + i / 16))

/-- The field of the slice in progress. -/
def sliceField (s : State) : Option Nat := s.dark.slice.map (· / 4)

/-- The slice gives its cores back: the held flits are admitted (R709). -/
def sliceFree (s : State) : State :=
  let cs := s.dark.held
  forEach cs admitHeld (s.modDark (fun d => { d with slice := none, held := [], tested := [], saved := [], fails := [], ending := 0 }))

/-- A slice on field f is abandoned during SAVE or PATTERNS: RESTORE runs (R712). -/
def sliceAbandon (f : Nat) (s : State) : State :=
  if sliceField s = some f ∧ (dkfPhase s = 1 ∨ dkfPhase s = 2) then setDkfPhase 3 (s.modDark (fun d => { d with ending := 4 })) else s

/-- A slice on field f ends ABORTED without restore (R712). -/
def sliceAbort (f : Nat) (s : State) : State :=
  if sliceField s = some f then sliceFree (setRstat 5 (setDkfPhase 0 s)) else s

/-- The fields whose three domains are on run the neighbor test together as the Dome enters RUN (R699). -/
def nbrPowerOn (s : State) : State :=
  (setDkfPhase 4 s).modDark (fun d => { d with nbr := (List.range 84).filter (fun f => transitOn s f && storeOn s f && computeOn s f), powerOn := true })

end Sys2Proof.Machine
end

