-- ==== Sys2Proof/Machine/Time.lean ====
section
/-! DEFINITION. The sidereal counter and its discipline (R725 to R731), SYNC_1PPS (R683, R686), PTP at the ports (R519, R520), and the port's data path (R847). -/

namespace Sys2Proof.Machine

def rChrSync : Nat := 0xC010
def rChrSyncStat : Nat := 0xC018
def rDomeIn : Nat := 0x9018
/-- DOME_STAT.STATE (R661). -/
def domeState (s : State) : Nat := s.fld rDomeStat 2 0

/-! ### The counter (R725 to R727) -/

/-- SRC as it acts: 3 acts as 2 (R728). -/
def timeSrc (s : State) : Nat := min (s.fld rChrSync 1 0) 2
/-- Pulses are present (R686). -/
def ppsPresent (s : State) : Bool := !s.flag rDomeIn 3
/-- PPS_USED follows the source and the pulses. -/
def ppsUsed (s : State) : State := s.setFld rChrSyncStat 5 5 (decide (timeSrc s = 1) && ppsPresent s).toNat

/-- rate in ppb (R730). -/
def rateOf (s : State) : Int := sx 20 (s.fld rChrSyncStat 31 12)
/-- The counter moves to a later time. -/
def setTime (ns : Word) (s : State) : State := s.wr rChrTime ns

/-- One nanosecond of the module reference: the counter advances at the corrected rate (R730). -/
def tickTime (s : State) : State :=
  let f := s.sync.frac + (1000000000 + rateOf s).toNat
  setTime (sidereal s + wd (f / 1000000000)) { s with sync := { s.sync with frac := f % 1000000000 } }

/-- CHR_TIME_SET (R727). -/
def timeSet (ns : Word) (s : State) : State :=
  if (sidereal s).toNat < ns.toNat then setTime ns s else s.satFld rChrSyncStat 11 8 1

def execChrTimeSet (ns : Word) (s : State) : Res := .next (timeSet ns s)

/-- Units that hold a copy: 8 limbs, 24 ports, 84 fields, 2 seam halves (R726). -/
def copyUnits : Nat := 118

/-- SIDEREAL_BROADCAST: every copy takes the master value, and one that is ahead holds (R726). -/
def execSiderealBroadcast (s : State) : Res :=
  .next { s with sync := { s.sync with copies := (List.range copyUnits).map (fun u =>
    (u, let c := tget 0 s.sync.copies u; if c.toNat < (sidereal s).toNat then sidereal s else c)) } }

/-! ### The servo (R729 to R731) -/

/-- STEP in ns; 0 acts as 1 µs (R729, R746). -/
def stepNs (s : State) : Int := (max 1 (s.fld rChrSync 31 12) * 1000 : Nat)

/-- LOCK clears, with its event (R731). -/
def loseLock (s : State) : State :=
  if s.flag rChrSyncStat 7 then
    nlogEvent 3 0x1305 0 (wd (s.fld rChrSync 1 0)) (wd (s.fld rChrSyncStat 63 32)) (s.setFld rChrSyncStat 7 7 0)
  else s

/-- LOCK follows a phase measurement (R731). -/
def lockStep (o : Int) (s : State) : State :=
  let good := if o.natAbs < 100 then s.sync.good + 1 else 0
  let s1 := { s with sync := { s.sync with good := good, lastPhase := some (sidereal s) } }
  if 1000 ≤ o.natAbs then loseLock s1
  else if 16 ≤ good ∧ s.flag rChrSyncStat 7 = false then
    nlogEvent 3 0x1304 0 (wd (s.fld rChrSync 1 0)) (wd (toBits 64 o)) (s1.setFld rChrSyncStat 7 7 1)
  else s1

/-- A number held between two ends. -/
def clampInt (lo hi v : Int) : Int := max lo (min hi v)

/-- The frequency correction of a phase measurement; where no time has passed since a measurement, or none came before, the manual gives none (R730). -/
def servoRate (o integ : Int) (s : State) : Int × State :=
  let t : Int := match s.sync.lastAcc with
    | some a => (sidereal s - a).toNat
    | none => 0
  if t = 0 then
    let d := s.draw
    (clampInt (-500000) 500000 (sx 64 d.1.toNat), d.2)
  else (clampInt (-500000) 500000 ((-(Int.tdiv o 2 + integ) * 1000000000).tdiv t), s)

/-- One accepted measurement of offset o, a step measurement, a phase measurement or both (R728, R730, R731). -/
def measure (stepM phaseM : Bool) (o : Int) (s : State) : State :=
  let lim : Int := 2 ^ 31 - 1
  let s0 := s.setFld rChrSyncStat 63 32 (toBits 32 (clampInt (-lim) lim o))
  let stp := stepNs s
  let acc := fun (t : State) => { t with sync := { t.sync with lastAcc := some (sidereal t) } }
  let s1 :=
    if o ≤ -stp ∧ stepM = true then
      let t := setTime (sidereal s0 + wd o.natAbs) { s0 with sync := { s0.sync with integ := 0 } }
      acc (nlogEvent 3 0x1301 0 (wd o.natAbs) 0 (t.setFld rChrSyncStat 6 6 0))
    else if stp ≤ o ∧ stepM = true then
      let t := (s0.setFld rChrSyncStat 31 12 (toBits 20 (-500000))).setFld rChrSyncStat 6 6 1
      acc (if s0.flag rChrSyncStat 6 then t else nlogEvent 3 0x1302 0 (wd o.natAbs) 0 t)
    else if phaseM = true ∧ -stp < o ∧ o < stp then
      let integ := s0.sync.integ + o.tdiv 16
      let r := servoRate o integ s0
      acc (({ r.2 with sync := { r.2.sync with integ := integ } }.setFld rChrSyncStat 31 12 (toBits 20 r.1)).setFld rChrSyncStat 6 6 0)
    else s0
  if phaseM then lockStep o s1 else s1

/-- LOCK_LOST_TIMEOUT: no phase measurement for 4 s (R731). -/
def execLockLostTimeout (s : State) : Res :=
  let due : Bool := match s.sync.lastPhase with
    | some t => decide (4000000000 ≤ (sidereal s - t).toNat)
    | none => true
  .next (if due then loseLock s else s)

/-- A register write of CHR_SYNC (R728, R731). -/
def chrSyncWrite (v : Word) (s : State) : State :=
  let s1 := ppsUsed (plainWrite s rChrSync v)
  if timeSrc s1 = 2 then loseLock s1 else s1

/-! ### SYNC_1PPS (R683, R686, R729) -/

/-- An edge comes within 900 ms of the last accepted one. -/
def ppsTooSoon (s : State) : Bool :=
  ppsPresent s && (match s.sync.ppsLast with
    | some t => decide ((sidereal s - t).toNat < 900000000)
    | none => false)

/-- SYNC_1PPS_EDGE: an accepted edge ends an absence and gives one phase measurement. -/
def execSync1ppsEdge (s : State) : Res :=
  if domeState s = 0 ∨ ppsTooSoon s = true then .next s
  else
    let s1 := if ppsPresent s then s else nlogEvent 3 0x110D 0 (wd (s.fld rDomeIn 39 24)) 0 (s.setFld rDomeIn 3 3 0)
    let s2 := ppsUsed { s1 with sync := { s1.sync with ppsLast := some (sidereal s1) } }
    if timeSrc s2 = 1 then
      let c : Int := (sidereal s2).toNat - sx 32 (s2.fld rChrSync 63 32)
      .next (measure false true ((c % 1000000000 + 500000000) % 1000000000 - 500000000) s2)
    else .next s2

/-- SYNC_1PPS_IGNORED. -/
def execSync1ppsIgnored (s : State) : Res :=
  if domeState s ≠ 0 ∧ ppsTooSoon s = true then .next (s.satFld rDomeIn 39 24 1) else .next s

/-- PPS_ABSENT: no accepted edge for 3 s. -/
def execPpsAbsent (s : State) : Res :=
  let due : Bool := match s.sync.ppsLast with
    | some t => decide (3000000000 ≤ (sidereal s - t).toNat)
    | none => true
  if domeState s ≠ 0 ∧ ppsPresent s = true ∧ due = true then
    .next (ppsUsed (nlogEvent 3 0x110C 0 (wd (s.fld rDomeIn 39 24)) 0 (s.setFld rDomeIn 3 3 1)))
  else .next s

/-! ### PTP (R519, R520, R729) -/

def rPptp (p : Nat) : Nat := portBase p + 0x90
/-- PTP messages pass a port: enabled, and its link up. -/
def ptpOn (s : State) (p : Nat) : Bool := s.flag (rPptp p) 63 && portUp s p
/-- The port that serves: the lowest-numbered one with SLAVE = 1. -/
def servingPort (s : State) : Option Nat := (List.range 24).find? (fun p => s.flag (rPptp p) 63 && s.flag (rPptp p) 62)

/-- PTP_SYNC on a port: timestamps in ns from the port's copy, corrected as R519 gives; the serving port's give one measurement (R729). -/
def execPtpSync (port : PortId) (t1 t2 correction : Int) (s : State) : Res :=
  if ptpOn s port.val ∧ servingPort s = some port.val then
    let d := t2 - t1 - correction
    let s1 := { s with sync := { s.sync with syncD := some d } }
    let o := d - s.sync.mpd
    match timeSrc s with
    | 0 => .next (measure true true o s1)
    | 1 => .next (measure true (!ppsPresent s) o s1)
    | _ => .next s1
  else .next s

/-- PDELAY_REQ: answered with Pdelay_Resp and Pdelay_Resp_Follow_Up. -/
def execPdelayReq (port : PortId) (s : State) : Res :=
  if ptpOn s port.val then .next ((s.emit (.ptp port.val 2)).emit (.ptp port.val 3)) else .next s

/-- DELAY_REQ_SEND: at the rate that the master permits, and at most 16 per second. -/
def execDelayReqSend (port : PortId) (s : State) : Res :=
  let iv := max 62500000 (if s.sync.logIv < 0 then 1000000000 / 2 ^ (-s.sync.logIv).toNat else 1000000000 * 2 ^ s.sync.logIv.toNat)
  let due : Bool := match s.sync.t3 with
    | some t => decide (iv ≤ (sidereal s - t).toNat)
    | none => true
  if ptpOn s port.val ∧ servingPort s = some port.val ∧ due = true then
    .next ({ s with sync := { s.sync with t3 := some (sidereal s) } }.emit (.ptp port.val 1))
  else .next s

/-- DELAY_RESP: the mean path delay of the end-to-end mechanism, and the interval that the master permits. -/
def execDelayResp (port : PortId) (t4 correction : Int) (logInterval : Int) (s : State) : Res :=
  if ptpOn s port.val ∧ servingPort s = some port.val then
    match s.sync.syncD, s.sync.t3 with
    | some d, some t3 => .next { s with sync := { s.sync with mpd := (d + (t4 - (t3.toNat : Int) - correction)).tdiv 2, logIv := logInterval } }
    | _, _ => .next s
  else .next s

/-- ANNOUNCE: counted, and otherwise ignored. -/
def execAnnounce (port : PortId) (s : State) : Res :=
  if ptpOn s port.val then .next { s with sync := { s.sync with announces := tset s.sync.announces port.val (tget 0 s.sync.announces port.val + 1) } }
  else .next s

/-! ### The port's data path (R847, R523) -/

/-- The link of a port goes down: counted (R523). -/
def portDown (p : Nat) (s : State) : State :=
  if s.flag (portBase p + 0x28) 63 then
    ((((s.setFld (portBase p + 0x28) 63 63 0).setFld (portBase p + 0x28) 62 62 0).setFld (portBase p + 0x28) 55 48 0).satFld (portBase p + 0x28) 47 32 1)
  else s

/-- PORT_ENABLE: EN set enables the data path, whose link then comes up; EN cleared holds the module in low-power mode, its link down. -/
def portEnableWrite (p : Nat) (en : Bool) (s : State) : State :=
  let s1 := s.setFld (portBase p) 0 0 en.toNat
  if en then s1 else portDown p s1

def execPortEnable (port : PortId) (en : Bool) (s : State) : Res := .next (portEnableWrite port.val en s)

/-- A port's link comes up or goes down (R847, R523): FEC aligned and 8 PMA lanes locked. A flow's packets that wait are sent. -/
def execPortLinkChange (port : PortId) (up : Bool) (s : State) : Res :=
  let p := port.val
  if up then
    (if s.flag (portBase p) 0 then
       .next (pumpLimb (p / 3) (((s.setFld (portBase p + 0x28) 63 63 1).setFld (portBase p + 0x28) 62 62 1).setFld (portBase p + 0x28) 55 48 0xFF))
     else .next s)
  else .next (portDown p s)

end Sys2Proof.Machine
end

