-- ==== Sys2Proof/Machine/Power.lean ====
section
/-! DEFINITION. Power domains, operating points and the Dome sequencer (R647 to R669, R674 to R678), temperature and power limits (R670 to R682, R828 to R832), THERM_WARN_N (R683, R684), and the current monitors (R742, R743). -/

namespace Sys2Proof.Machine

def rLmbPwr (l : Nat) : Nat := limbBase l + 0x6000
def rLmbTemp (l : Nat) : Nat := limbBase l + 0x6008
def rFldTemp (f : Nat) : Nat := fieldBase f + 0x608
def rDomePcap : Nat := 0x9010
def rDomeTrip : Nat := 0x9020
def rDomeBus : Nat := 0x9030

def State.modPwr (s : State) (f : Power → Power) : State := { s with pwr := f s.pwr }

/-! ### Domains (R647, R689, R691) -/

/-- The state of a domain: 0 OFF, 1 RAMP, 2 ON, 3 FAILED. -/
def domSt (s : State) (d : Nat) : Nat :=
  if d < 252 then s.fld (rFldPwr (d / 3)) (25 + 2 * (d % 3)) (24 + 2 * (d % 3))
  else if d < 284 then s.fld (rLmbPwr ((d - 252) / 4)) (2 * ((d - 252) % 4) + 1) (2 * ((d - 252) % 4))
  else if d < 292 then s.fld (rLmbPwr (d - 284)) 9 8
  else tget 0 s.pwr.dst d

/-- The state with a domain's state set. -/
def setDom (d v : Nat) (s : State) : State :=
  if d < 252 then s.setFld (rFldPwr (d / 3)) (25 + 2 * (d % 3)) (24 + 2 * (d % 3)) v
  else if d < 284 then s.setFld (rLmbPwr ((d - 252) / 4)) (2 * ((d - 252) % 4) + 1) (2 * ((d - 252) % 4)) v
  else if d < 292 then s.setFld (rLmbPwr (d - 284)) 9 8 v
  else s.modPwr (fun p => { p with dst := tset p.dst d v })

/-- All three domains of a field are ON. -/
def fieldOn3 (s : State) (f : Nat) : Bool := transitOn s f && storeOn s f && computeOn s f
/-- A field is transit-only (R651). -/
def transitOnly (s : State) (f : Nat) : Bool := transitOn s f && !storeOn s f && !computeOn s f

/-! ### Operating points (R651 to R654) -/

/-- REQ as it acts (R689). -/
def reqPoint (s : State) (f : Nat) : Nat := let r := s.fld (rFldPwr f) 2 0; if r = 0 then 1 else min r 4
/-- The effective point that REQ and the caps give (R653). -/
def effTarget (s : State) (f : Nat) : Nat :=
  max (max (reqPoint s f) (s.fld (rFldPwr f) 6 4)) (max (s.fld (rFldPwr f) 10 8) (s.fld (rFldPwr f) 14 12))
/-- FLD_PWR.EFF. -/
def effPoint (s : State) (f : Nat) : Nat := s.fld (rFldPwr f) 18 16

/-- EFF changes, and the open record follows it (R743). -/
def setEff (f e : Nat) (s : State) : State :=
  let s0 := if s.fld (rFldPwr f) 18 16 = e then s else sliceAbandon f s
  let s1 := s0.setFld (rFldPwr f) 18 16 e
  if (s1.chrOf f).isOpen then s1.modChr f (fun k => { k with effMax := max k.effMax e, effMin := min k.effMin e }) else s1

/-- A step toward the effective point begins where none is in progress (R654). -/
def dvfsKick (f : Nat) (s : State) : State :=
  let e := effPoint s f
  let t := effTarget s f
  if fieldOn3 s f && (tfind s.pwr.dvfs f).isNone && 1 ≤ e && e ≤ 4 && e != t then
    s.modPwr (fun p => { p with dvfs := tset p.dvfs f (if e < t then e + 1 else e - 1) })
  else s

/-- DVFS_STEP_DONE (R654). -/
def execDvfsStepDone (f : FieldId) (s : State) : Res :=
  match tfind s.pwr.dvfs f.val with
  | none => .next s
  | some e =>
    let s1 := s.modPwr (fun p => { p with dvfs := terase p.dvfs f.val })
    if fieldOn3 s f.val then
      .next (dvfsKick f.val (setEff f.val e (s1.modPwr (fun p => { p with clk := (List.range 6).foldl (fun t i => tset t (6 * f.val + i) e) p.clk }))))
    else .next s1

/-- A register write of FLD_PWR: REQ, and the move that follows. -/
def fldPwrWrite (f : Nat) (v : Word) (s : State) : State := dvfsKick f (plainWrite s (rFldPwr f) v)

/-! ### Steps of a sequence (R663 to R665) -/

/-- Registers of a range of BAR0 offsets return to their reset values. -/
def regsReset (a b : Nat) (s : State) : State := { s with regs := tcut s.regs a b }

/-- The compute domain of a field loses its contents: core windows at reset, cores in STATE 0, stores zero (R665). -/
def computeZero (f : Nat) (s : State) : State :=
  let s1 := regsReset (fieldBase f + 0x10000) (fieldBase f + 0x10000 + 960 * 0x800) s
  recount f { s1 with cores := s1.cores.filter (fun p => fieldOf p.1 != f) }

/-- The field store of a field reads zero, and its Occulter is EMPTY (R665). -/
def storeZero (f : Nat) (s : State) : State :=
  ({ s with fst := tcut s.fst (fsWords * f) (fsWords * (f + 1)), occ := terase s.occ f }).setFld (rOccStat f) 3 2 0

/-- A field's transit domain loses its contents: the registers below 0x1_0000 but the domain states, caps and fuses, and its links. -/
def transitZero (f : Nat) (s : State) : State :=
  { s with
    regs := s.regs.filter (fun p => !(fieldBase f ≤ p.1 && p.1 < fieldBase f + 0x10000) || p.1 == rFldPwr f || (rDisFuse f 0 ≤ p.1 && p.1 ≤ rDisFuse f 14))
    links := s.links.filter (fun p => linkField (linkOfKey p.1) != f && linkRecvField (linkOfKey p.1) != f)
    ports := s.ports.filter (fun p => linkRecvField (linkOfKey p.1) != f)
    grants := s.grants.filter (fun p => linkField (linkOfKey p.1) != f)
    chr := terase s.chr f }

/-- A limb's logic loses its contents: its registers but the domain states, its engines, its work area. -/
def limbZero (l : Nat) (s : State) : State :=
  { s with
    regs := s.regs.filter (fun p => !(limbBase l ≤ p.1 && p.1 < limbBase l + 0x100000) || p.1 == rLmbPwr l)
    limbs := terase s.limbs l, plans := tcut s.plans (256 * l) (256 * (l + 1)), reqs := tcut s.reqs (4096 * l) (4096 * (l + 1))
    work := tcut s.work (2 ^ 28 * l) (2 ^ 28 * (l + 1)), staged := tcut s.staged (2 ^ 28 * l) (2 ^ 28 * (l + 1)) }

/-- CLOSE: the domain is OFF and loses what it holds. -/
def closeDom (d : Nat) (s : State) : State :=
  let s1 := setDom d 0 s
  if d < 252 then (match d % 3 with | 0 => computeZero (d / 3) (sliceAbort (d / 3) s1) | 1 => storeZero (d / 3) s1 | _ => transitZero (d / 3) s1)
  else if d < 284 then
    (if (d - 252) % 4 = 0 then limbZero ((d - 252) / 4) s1
     else if (d - 252) % 4 = 3 then forEach (List.range 3) (fun k t => portDown (3 * ((d - 252) / 4) + k) t) s1
     else s1)
  else if d = 294 then seamDown false s1
  else if d = 295 then seamDown true s1
  else s1

/-- The point that a step's argument names: 7 is the effective point. -/
def pointOf (s : State) (f arg : Nat) : Nat := if arg = 7 then effTarget s f else arg

/-- The reset of a seam half's island asserts or releases: island 618 is the West half's, 619 the East's (R355, R649). -/
def seamIsland (tgt arg : Nat) (s : State) : State :=
  if tgt = 618 ∨ tgt = 619 then (if arg = 1 then seamAssert (decide (tgt = 619)) s else seamRelease (decide (tgt = 619)) s) else s

/-- A reset epoch advances (R659). -/
def epochStep (i : Nat) (s : State) : State := s.modPwr (fun p => { p with epoch := tset p.epoch i ((tget 0 p.epoch i + 1) % 65536) })

/-- What a step that waits for nothing does (R663). -/
def stepEffect (p : PStep) (s : State) : State :=
  match p.op with
  | 0x3 => closeDom p.tgt s
  | 0x4 => s.modPwr (fun q => { q with clamps := (q.clamps.erase p.tgt) ++ [p.tgt] })
  | 0x5 => s.modPwr (fun q => { q with clamps := q.clamps.erase p.tgt })
  | 0x6 =>
    let e := pointOf s (p.tgt / 6) p.arg
    let s1 := s.modPwr (fun q => { q with clk := tset q.clk p.tgt e })
    if p.tgt < 504 ∧ p.tgt % 6 = 5 then setEff (p.tgt / 6) e s1 else s1
  | 0x7 =>
    seamIsland p.tgt p.arg (epochStep p.tgt (s.modPwr (fun q => { q with inReset := if p.arg = 1 then q.inReset ++ [p.tgt] else q.inReset.erase p.tgt })))
  | 0x9 => if p.tgt < 252 then (match p.tgt % 3 with | 0 => computeZero (p.tgt / 3) s | 1 => storeZero (p.tgt / 3) s | _ => s) else s
  | 0xA => quiesceField p.tgt s
  | 16 =>
    let s1 := s.setFld rDomeStat (16 + p.tgt) (16 + p.tgt) (p.arg % 2)
    if p.arg = 2 ∨ p.arg = 3 then s1 else nlogEvent 3 (0x1105 + p.arg) 0 (wd p.tgt) 0 s1
  | 17 => nbrPowerOn (s.setFld rDomeStat 2 0 p.tgt)
  | _ => s

/-- A sequence runs up to its next RAIL or OPEN step. -/
def stepRun : List PStep → State → List PStep × State
  | [], s => ([], s)
  | p :: r, s =>
    if p.op = 1 then (p :: r, s)
    else if p.op = 2 then (if domSt s p.tgt = 2 then stepRun r s else (p :: r, setDom p.tgt 1 s))
    else stepRun r (stepEffect p s)

/-- Every sequence that may run does: one of the chain at a time, thermal actions at once (R667, R669). -/
def runList : Bool → List Job → State → List Job × State
  | _, [], s => ([], s)
  | busy, j :: r, s =>
    if j.chain && busy then let x := runList busy r s; (j :: x.1, x.2)
    else
      let y := stepRun j.steps s
      if y.1.isEmpty then runList busy r y.2
      else let x := runList (busy || j.chain) r y.2; ({ j with steps := y.1 } :: x.1, x.2)

/-- The Dome runs its sequences. -/
def runJobs (s : State) : State :=
  let x := runList false s.pwr.jobs s
  x.2.modPwr (fun p => { p with jobs := x.1 })

/-- Sequences are added and run. -/
def addJobs (js : List Job) (s : State) : State := runJobs (s.modPwr (fun p => { p with jobs := p.jobs ++ js }))

/-! ### The sequences (R662, R664, R681, R682) -/

def seqSix (f op arg : Nat) : List PStep := (List.range 6).map (fun i => ⟨op, 6 * f + i, arg⟩)
/-- Field bring-up. -/
def seqFieldUp (f : Nat) : List PStep :=
  [⟨1, 3 * f + 2, 7⟩, ⟨2, 3 * f + 2, 0⟩, ⟨2, 3 * f + 1, 0⟩, ⟨2, 3 * f, 0⟩, ⟨9, 3 * f + 1, 0⟩, ⟨9, 3 * f, 0⟩,
   ⟨4, 3 * f + 2, 0⟩, ⟨4, 3 * f + 1, 0⟩, ⟨4, 3 * f, 0⟩] ++ seqSix f 6 7 ++ seqSix f 7 0
/-- Field down to transit-only. -/
def seqFieldDown (f : Nat) : List PStep :=
  [⟨0xA, f, 0⟩] ++ (seqSix f 6 0).take 5 ++ [⟨5, 3 * f, 0⟩, ⟨5, 3 * f + 1, 0⟩, ⟨3, 3 * f, 0⟩, ⟨3, 3 * f + 1, 0⟩, ⟨6, 6 * f + 5, 5⟩, ⟨1, 3 * f + 2, 5⟩]
/-- Field compute on. -/
def seqComputeOn (f : Nat) : List PStep :=
  [⟨1, 3 * f + 2, 7⟩, ⟨2, 3 * f + 1, 0⟩, ⟨2, 3 * f, 0⟩, ⟨9, 3 * f + 1, 0⟩, ⟨9, 3 * f, 0⟩] ++ (seqSix f 7 1).take 5 ++
  [⟨4, 3 * f + 1, 0⟩, ⟨4, 3 * f, 0⟩] ++ seqSix f 6 7 ++ (seqSix f 7 0).take 5
/-- Field fully off. -/
def seqFieldOff (f : Nat) : List PStep := [⟨5, 3 * f + 2, 0⟩, ⟨6, 6 * f + 5, 0⟩, ⟨3, 3 * f + 2, 0⟩]
/-- A limb's domains, and its bridge. -/
def seqLimbUp (l : Nat) : List PStep := (List.range 4).map (fun j => ⟨2, 252 + 4 * l + j, 0⟩)
def seqLimbOff (l : Nat) : List PStep := (List.range 4).map (fun j => ⟨3, 252 + 4 * l + 3 - j, 0⟩)

/-- The fields of column c. -/
def columnFields (c : Nat) : List Nat := (List.range 6).map (fun r => 14 * r + c)
/-- The columns of a hemisphere from the seam. -/
def hemiColumns (t : Nat) : List Nat := if t = 0 then [6, 5, 4, 3, 2, 1, 0] else [7, 8, 9, 10, 11, 12, 13]
/-- The fields of a hemisphere from the seam. -/
def hemiFields (t : Nat) : List Nat := (hemiColumns t).flatMap columnFields
/-- The limbs of a hemisphere. -/
def hemiLimbs (t : Nat) : List Nat := (List.range 4).map (· + 4 * t)

/-- Module bring-up (R662). -/
def jobsBringup : List Job :=
  (List.range 8).map (fun l => ⟨true, 84 + l, seqLimbUp l ++ [⟨2, 284 + l, 0⟩]⟩) ++
  [⟨true, 92, [⟨2, 294, 0⟩]⟩, ⟨true, 93, [⟨2, 295, 0⟩]⟩] ++
  ((List.range 14).flatMap columnFields).map (fun f => ⟨true, f, seqFieldUp f⟩) ++
  [⟨true, 94, [⟨4, 294, 0⟩, ⟨4, 295, 0⟩, ⟨16, 0, 3⟩, ⟨16, 1, 3⟩, ⟨17, 2, 0⟩]⟩]

/-- HEMI_OFF (R681). -/
def jobsHemiOff (s : State) (t : Nat) : List Job :=
  [⟨true, 92 + t, [⟨5, 294 + t, 0⟩]⟩] ++
  (hemiFields t).map (fun f => ⟨true, f, (if transitOnly s f then [] else if transitOn s f then seqFieldDown f else []) ++ seqFieldOff f⟩) ++
  (hemiLimbs t).map (fun l => ⟨true, 84 + l, [⟨3, 284 + l, 0⟩]⟩) ++ (hemiLimbs t).map (fun l => ⟨true, 84 + l, seqLimbOff l⟩) ++
  [⟨true, 92 + t, [⟨3, 294 + t, 0⟩, ⟨16, t, 0⟩]⟩]

/-- HEMI_ON (R682). -/
def jobsHemiOn (t : Nat) : List Job :=
  [⟨true, 92 + t, [⟨2, 294 + t, 0⟩]⟩] ++ (hemiLimbs t).map (fun l => ⟨true, 84 + l, seqLimbUp l⟩) ++ (hemiLimbs t).map (fun l => ⟨true, 84 + l, [⟨2, 284 + l, 0⟩]⟩) ++
  (hemiFields t).map (fun f => ⟨true, f, seqFieldUp f⟩) ++ [⟨true, 92 + t, [⟨4, 294 + t, 0⟩, ⟨16, t, 1⟩]⟩]

/-! ### Requests (R666 to R668) -/

/-- Latest T_f of a field: its largest valid reading, in 1/16 °C (R670). -/
def tempOf (w : Word) : Option Int :=
  (((List.range 4).map (fun i => bits w (16 * i + 15) (16 * i))).filter (fun v => v != 0x8000)).foldl (fun m v => match m with | some a => some (max a (sx 16 v)) | none => some (sx 16 v)) none
/-- A temperature is at least t °C. -/
def atLeast (o : Option Int) (t : Int) : Bool := match o with | some v => decide (16 * t ≤ v) | none => false

/-- No core of a field runs (R868), or it is quiesced. -/
def fieldIdle (s : State) (f : Nat) : Bool := s.flag (rFldStat f) 1 || (coresOf f).all (fun c => !coreRunning s c)

/-- A request's condition at the time of the write (R666, R681). -/
def reqOk (s : State) (cmd t : Nat) : Bool :=
  match cmd with
  | 1 => t < 84 && fieldOn3 s t
  | 2 => t < 84 && transitOnly s t && (List.range 3).all (fun k => domSt s (3 * t + k) != 3) && !atLeast (tempOf (s.rd (rFldTemp t))) 95
  | 3 => t < 2 && t != hostLimb s / 4 && (hemiLimbs t).all (fun l => !(activeLimbs s).contains l) && (hemiFields t).all (fun f => fieldIdle s f || transitOnly s f)
  | _ => t < 2 && !s.flag rDomeStat (16 + t)

/-- The sequences of a request. -/
def reqJobs (s : State) (cmd t : Nat) : List Job :=
  match cmd with
  | 1 => [⟨true, t, seqFieldDown t⟩]
  | 2 => [⟨true, t, seqComputeOn t⟩]
  | 3 => jobsHemiOff s t
  | _ => jobsHemiOn t

/-- A request of the driver (R666, R667); TARGET is kept for its end. -/
def domeReq (cmd t : Nat) (s : State) : State :=
  if cmd = 0 ∨ 5 ≤ cmd then s
  else if s.fld rDomeStat 23 22 = 1 then s.satFld rDomeStat 47 32 1
  else
    let s1 := s.setFld rDomeStat 21 19 cmd
    if (domeState s = 1 ∨ domeState s = 2) ∧ reqOk s cmd t = true then
      addJobs (reqJobs s cmd t) ((s1.setFld rDomeStat 23 22 1).modPwr (fun p => { p with failed := false }))
    else s1.setFld rDomeStat 23 22 2

def execFieldOff (f : Nat) (s : State) : Res := .next (domeReq 1 f s)
def execFieldOn (f : Nat) (s : State) : Res := .next (domeReq 2 f s)
def execHemiOff (t : Nat) (s : State) : Res := .next (domeReq 3 t s)
def execHemiOn (t : Nat) (s : State) : Res := .next (domeReq 4 t s)

/-- DOME_REQUEST_DONE: the sequences of the request have ended. -/
def execDomeRequestDone (s : State) : Res :=
  if s.fld rDomeStat 23 22 = 1 ∧ s.pwr.jobs.all (fun j => !j.chain) = true then
    .next (s.setFld rDomeStat 23 22 (if s.pwr.failed then 3 else 0))
  else .next s

/-- A field's compute domains have come on: COFF clears, with its event (R674). -/
def computeRestored (f : Nat) (s : State) : State :=
  if s.flag (rFldPwr f) 19 then nlogEvent 1 0x1103 (locOf (domField f)) (wd f) 0 (s.setFld (rFldPwr f) 19 19 0) else s


/-- Where the error of a failed domain goes, and its class (R687). -/
def domOwner (s : State) (d : Nat) : Dom × Nat × Nat :=
  let limb := fun (m : Nat) => if m = hostLimb s then ((.module : Dom), 3, 2) else (domLimb m, 2, 12)
  if d < 252 then (domField (d / 3), 2, 7) else if d < 284 then limb ((d - 252) / 4) else if d < 292 then limb (d - 284) else (.module, 3, 2)

/-- Whether a job waits for a step on a domain: a RAIL step is one of the field's rail. -/
def awaits (domain op : Nat) (j : Job) : Bool :=
  match j.steps with
  | p :: _ => p.op == op && (if op = 1 then domain < 252 && p.tgt / 3 == domain / 3 else p.tgt == domain)
  | [] => false

/-- The jobs that run: the first of the chain, and every thermal action. -/
def running : Bool → List Job → List Job
  | _, [] => []
  | busy, j :: r => if j.chain && busy then running busy r else j :: running (busy || j.chain) r

/-- SEQUENCE_STEP_DONE: a RAIL or OPEN step reaches power good, or fails at its limit (R663). -/
def execSequenceStepDone (domain op : Nat) (ok : Bool) (s : State) : Res :=
  match (running false s.pwr.jobs).find? (awaits domain op) with
  | none => .next s
  | some j =>
    if ok then
      let s1 := if op = 2 then setDom domain 2 s else s
      let s2 := s1.modPwr (fun p => { p with jobs := p.jobs.map (fun q => if q = j then { q with steps := q.steps.tail } else q) })
      let s3 := runJobs s2
      .next (if domain < 252 ∧ fieldOn3 s3 (domain / 3) = true ∧ fieldOn3 s (domain / 3) = false then computeRestored (domain / 3) s3 else s3)
    else
      let o := domOwner s domain
      let s1 := (setDom domain 3 s).modPwr (fun p => { p with jobs := p.jobs.erase j, failed := p.failed || j.chain })
      .next (runJobs (raise o.1 o.2.1 o.2.2 0x0404 (wd (domain + op * 2 ^ 9)) s1))

/-! ### Islands (R655, R687) -/

/-- CLOCK_STRETCH and its end. -/
def execClockStretch (island : Nat) (s : State) : Res :=
  .next (if s.pwr.stretched.contains island then s else s.modPwr (fun p => { p with stretched := p.stretched ++ [island] }))
def execSupplyRecovery (island : Nat) (s : State) : Res := .next (s.modPwr (fun p => { p with stretched := p.stretched.erase island }))

/-- LOCK_LOSS: a contained error of the unit of the island. -/
def execLockLoss (island : Nat) (s : State) : Res :=
  if island < 504 then .next (raise (domField (island / 6)) 2 7 0x0405 (wd island) s)
  else if island < 616 then .next (raise (domLimb ((island - 504) / 14)) 2 12 0x0405 (wd island) s)
  else if island < 620 then .next (raise .module 2 2 0x0405 (wd island) s)
  else .next s

/-! ### Trip (R676, R677) -/

/-- A request that acts on a unit, or on any with `all`, ends ABORTED (R668). -/
def abortRequest (all : Bool) (unit : Nat) (s : State) : State :=
  if s.fld rDomeStat 23 22 = 1 ∧ (all = true ∨ s.pwr.jobs.any (fun j => j.chain && j.unit == unit) = true) then
    (s.setFld rDomeStat 23 22 3).modPwr (fun p => { p with jobs := p.jobs.filter (fun j => !j.chain) })
  else s

/-- A field goes fully off without quiescing. -/
def fieldDark (f : Nat) (s : State) : State :=
  (stepRun ([⟨3, 3 * f, 0⟩, ⟨3, 3 * f + 1, 0⟩] ++ seqSix f 6 0 ++ seqFieldOff f) s).2

/-- The domains that a trip turns off beside the fields. -/
def tripDomains (s : State) (whole : Bool) : List Nat :=
  let h := hostLimb s
  ((List.range 44).map (· + 252)).filter (fun d => whole || (d != 252 + 4 * h && d != 292 + h / 4))

/-- The tray goes down: MOD_PGOOD low, the sequencer at its start. -/
def trayLow (needLow : Bool) (s : State) : State :=
  { s with tray := { s.tray with seq := 0, pgood := false, ready := false, needLow := s.tray.needLow || needLow } }

/-- The module trips: the domain of the diode, its reading and the cause. -/
def trip (src : Nat) (temp cause : Nat) (s : State) : State :=
  if domeState s = 3 ∨ domeState s = 4 then s
  else
    let rec_ := wd (src * 2 ^ 32 + temp % 65536 * 2 ^ 16 + cause)
    let s1 := ((abortRequest true 0 s).setFld rDomeStat 2 0 3).wr rDomeTrip rec_
    let s2 := raise .module 3 2 0x0402 rec_ (faultPin (s1.setFld rModFault 2 2 1))
    let whole := decide (src = 252 + 4 * hostLimb s)
    let s3 := forEach (tripDomains s whole) closeDom (forEach (List.range 84) fieldDark (s2.modPwr (fun p => { p with jobs := [] })))
    if whole then trayLow true (s3.setFld rModFault 3 3 0) else s3

/-! ### Temperature (R670 to R674, R679) -/

/-- A reading as its register field holds it. -/
def diodeBits (o : Option Int) : Nat := match o with | some v => toBits 16 v | none => 0x8000
/-- A unit's four readings as its register. -/
def diodeWord (d : Diodes) : Word := wd (diodeBits d.d0 + diodeBits d.d1 * 2 ^ 16 + diodeBits d.d2 * 2 ^ 32 + diodeBits d.d3 * 2 ^ 48)

/-- Diodes that have become invalid are recorded, one deferred error each (R671). -/
def diodeErrors (dom : Dom) (unit errUnit : Nat) (d : Diodes) (s : State) : State :=
  ([d.d0, d.d1, d.d2, d.d3].zipIdx).foldl (fun t x =>
    let k := 4 * unit + x.2
    match x.1 with
    | some _ => t.modPwr (fun p => { p with badDiodes := p.badDiodes.erase k })
    | none => if t.pwr.badDiodes.contains k then t
      else raise dom 1 errUnit 0x0406 (wd x.2) (t.modPwr (fun p => { p with badDiodes := p.badDiodes ++ [k] }))) s

/-- The quadrant of the largest valid reading. -/
def hottest (w : Word) : Nat :=
  ((List.range 4).find? (fun i => bits w (16 * i + 15) (16 * i) != 0x8000 && some (sx 16 (bits w (16 * i + 15) (16 * i))) == tempOf w)).getD 0

/-- CAP_T changes, with its events (R673). -/
def setCapT (f n : Nat) (s : State) : State :=
  let o := s.fld (rFldPwr f) 6 4
  let t := (tempOf (s.rd (rFldTemp f))).getD (-32768)
  let s1 := s.setFld (rFldPwr f) 6 4 n
  let s2 := if o < n then s1.satFld (rFldPwr f) 63 56 1 else s1
  let s3 := if o = 1 ∧ n ≠ 1 then nlogEvent 1 0x1101 (locOf (domField f)) (wd f) (wd (toBits 64 t)) s2
    else if o ≠ 1 ∧ n = 1 then nlogEvent 1 0x1102 (locOf (domField f)) (wd f) (wd (toBits 64 t)) s2 else s2
  dvfsKick f s3

/-- A field's compute goes off for heat (R674); T_f as INFO, 0x8000 where no diode is valid. -/
def computeOff (f : Nat) (s : State) : State :=
  if computeOn s f && !s.flag (rFldPwr f) 19 then
    let w := s.rd (rFldTemp f)
    let info := wd (diodeBits (tempOf w) + hottest w * 2 ^ 16)
    let s1 := raise (domField f) 2 7 0x0401 info (abortRequest false f (sliceAbort f s))
    addJobs [⟨false, f, seqFieldDown f⟩] (s1.setFld (rFldPwr f) 19 19 1)
  else s

/-- One field's sample; of its errors the contained one comes first (R625). -/
def fieldSample (f : Nat) (d : Diodes) (s : State) : State :=
  let was := tempOf (s.rd (rFldTemp f))
  let s1 := s.wr (rFldTemp f) (diodeWord d)
  let now := tempOf (diodeWord d)
  let s2 := match now with
    | some t => if (s1.chrOf f).isOpen then s1.modChr f (fun k => { k with tmax := max k.tmax t }) else s1
    | none => s1
  let s3 := if atLeast now 95 && !atLeast was 95 && s2.fld (rFldPwr f) 6 4 < 4 then setCapT f (s2.fld (rFldPwr f) 6 4 + 1) s2 else s2
  let s4 := if atLeast now 95 then sliceAbandon f s3 else s3
  diodeErrors (domField f) f 7 d (if now.isNone || atLeast now 110 then computeOff f s4 else s4)

/-- One limb's sample (R671, R679). -/
def limbSample (l : Nat) (d : Diodes) (s : State) : State :=
  let was := tempOf (s.rd (rLmbTemp l))
  let s1 := diodeErrors (domLimb l) (84 + l) 12 d (s.wr (rLmbTemp l) (diodeWord d))
  let now := tempOf (diodeWord d)
  let s2 := if now.isNone && !s1.pwr.stuck.contains l then s1.modPwr (fun p => { p with stuck := p.stuck ++ [l] }) else s1
  let s3 := if (now.isNone || atLeast now 95) && !s2.flag (rLmbPwr l) 12 then (s2.setFld (rLmbPwr l) 12 12 1).satFld (rLmbPwr l) 63 56 1 else s2
  if atLeast now 110 && !atLeast was 110 then raise (domLimb l) 1 12 0x0407 (wd (diodeBits now)) s3 else s3

/-- The first unit of a sample with a diode at 115 °C or more: its domain and reading. -/
def tripOf (fields : List (FieldId × Diodes)) (limbs : List (LimbId × Diodes)) : Option (Nat × Nat) :=
  let hit := fun (dom : Nat) (d : Diodes) => let t := tempOf (diodeWord d); if atLeast t 115 then some (dom, diodeBits t) else none
  match fields.findSome? (fun p => hit (3 * p.1.val) p.2) with
  | some x => some x
  | none => limbs.findSome? (fun p => hit (252 + 4 * p.1.val) p.2)

/-- THERMAL_SAMPLE (R670 to R674, R676, R679): units whose readout has no power are not sampled. -/
def execThermalSample (fields : List (FieldId × Diodes)) (limbs : List (LimbId × Diodes)) (s : State) : Res :=
  if domeState s ≠ 1 ∧ domeState s ≠ 2 then .next s
  else
    let fs := fields.filter (fun p => transitOn s p.1.val)
    let ls := limbs.filter (fun p => domSt s (252 + 4 * p.1.val) == 2)
    let s1 := fs.foldl (fun t p => fieldSample p.1.val p.2 t) s
    let s2 := ls.foldl (fun t p => limbSample p.1.val p.2 t) s1
    match tripOf fs ls with
    | some (src, t) => .next (trip src t 1 s2)
    | none => .next s2

/-- CAP_T_RISE: 100 µs after a rise, the latest sample still at or above 95 °C (R673). -/
def execCapTRise (f : FieldId) (s : State) : Res :=
  let c := s.fld (rFldPwr f.val) 6 4
  if atLeast (tempOf (s.rd (rFldTemp f.val))) 95 && 2 ≤ c && c < 4 then .next (setCapT f.val (c + 1) s) else .next s

/-- CAP_T_FALL: every sample for 1 ms below 90 °C (R673). -/
def execCapTFall (f : FieldId) (s : State) : Res :=
  let c := s.fld (rFldPwr f.val) 6 4
  let t := tempOf (s.rd (rFldTemp f.val))
  if t.isSome && !atLeast t 90 && 2 ≤ c then .next (setCapT f.val (c - 1) s) else .next s

/-- LIMB_DIODES_INVALID for 1 s: the module trips (R671). -/
def execLimbDiodesInvalid (l : LimbId) (s : State) : Res :=
  if (domeState s = 1 ∨ domeState s = 2) ∧ s.pwr.stuck.contains l.val = true ∧ tempOf (s.rd (rLmbTemp l.val)) = none then
    .next (trip (252 + 4 * l.val) 0x8000 2 s)
  else .next s

/-- LIMB_UNTHROTTLE: 1 ms of samples all below 90 °C (R679). -/
def execLimbUnthrottle (l : LimbId) (s : State) : Res :=
  let t := tempOf (s.rd (rLmbTemp l.val))
  if t.isSome && !atLeast t 90 && !s.pwr.stuck.contains l.val then .next (s.setFld (rLmbPwr l.val) 12 12 0) else .next s

/-! ### Input power (R680, R828 to R832) -/

/-- CAP as it acts, in 100 W (R692). -/
def capActs (s : State) : Nat := max 0x64 (min 0x140 (s.fld rDomePcap 63 48))
/-- The limit in force, in 100 W: with one clip the smaller CAPE (R830). -/
def capLimit (s : State) : Nat :=
  if s.flag rDomeBus 2 then
    let v := if s.flag rDomeBus 0 then s.fld rDomeBus 31 22 else s.fld rDomeBus 21 12
    min (capActs s) (v * 350 * 95 / 100000)
  else capActs s
/-- CAP_P, the same on every field. -/
def capP (s : State) : Nat := s.fld (rFldPwr 0) 14 12
/-- CAP_P of every field is set; leaving 1 is counted and recorded (R680). -/
def setCapP (n : Nat) (s : State) : State :=
  let s1 := forEach (List.range 84) (fun f t => dvfsKick f (t.setFld (rFldPwr f) 14 12 n)) s
  if capP s = 1 ∧ n ≠ 1 then nlogEvent 3 0x1104 0 (wd (s.fld rDomePcap 47 32)) (wd (s.fld rDomePcap 63 48)) (s1.satFld rDomePcap 31 16 1) else s1

/-- A clip is OK: at least 44 V, its switch closed (R828, R829, R831). -/
def clipOk (v : Nat) (opened : Bool) : Bool := 440 ≤ v && !opened
/-- PWR exceeds the limit. -/
def overCap (s : State) : Bool := capLimit s * 10 < s.fld rDomePcap 47 32

/-- POWER_SAMPLE (R680, R740, R743, R830, R832). -/
def execPowerSample (smp : ClipSample) (s : State) : Res :=
  if domeState s ≠ 1 ∧ domeState s ≠ 2 then .next s
  else
    let a := clipOk smp.va s.tray.openA
    let b := clipOk smp.vb s.tray.openB
    let r := s.rd rDomeBus
    let w := setBits (setBits (setBits (setBits (setBits (setBits r 63 48 smp.ia) 47 32 smp.ib) 31 22 smp.va) 21 12 smp.vb) 1 1 b.toNat) 0 0 a.toNat
    let s1 := (s.wr rDomeBus w).setFld rDomePcap 47 32 smp.pwr
    let s2 := if (s1.chrOf chrMod).isOpen then s1.modChr chrMod (fun k => { k with peak := max k.peak smp.pwr, energy := k.energy + smp.pwr * 100000 }) else s1
    let s3 :=
      if a != b && !bit r 2 then
        nlogEvent 3 0x110E 0 (wd (if a then 1 else 0)) (wd (if a then smp.va else smp.vb)) (setCapP 4 ((s2.setFld rDomeBus 2 2 1).satFld rDomeBus 11 4 1))
      else s2
    let s4 := s3.modPwr (fun p => { p with excess := overCap s3 })
    .next (if overCap s3 && !s3.pwr.excess && capP s3 < 4 then setCapP (capP s3 + 1) s4 else s4)

/-- CAP_P_RISE: 100 µs of persistent excess (R680). -/
def execCapPRise (s : State) : Res := if overCap s && capP s < 4 then .next (setCapP (capP s + 1) s) else .next s
/-- CAP_P_FALL: 1 ms below 95% of the limit (R680). -/
def execCapPFall (s : State) : Res :=
  if s.fld rDomePcap 47 32 * 100 < capLimit s * 10 * 95 ∧ 2 ≤ capP s then .next (setCapP (capP s - 1) s) else .next s

/-- CLIP_RESTORED: both clips OK for 1 s (R831). -/
def execClipRestored (s : State) : Res :=
  if s.flag rDomeBus 2 && s.flag rDomeBus 1 && s.flag rDomeBus 0 then .next (nlogEvent 3 0x110F 0 0 0 (s.setFld rDomeBus 2 2 0)) else .next s

/-! ### THERM_WARN_N (R683, R684) -/

/-- CAP_W of every field. -/
def setCapW (n : Nat) (s : State) : State := forEach (List.range 84) (fun f t => dvfsKick f (t.setFld (rFldPwr f) 10 8 n)) s
/-- CAP_W follows WARN and NOISY. -/
def warnCaps (s : State) : State := setCapW (if s.flag rDomeIn 1 || s.flag rDomeIn 2 then s.fld 0x9028 2 0 else 1) s

/-- An accepted change (R684). -/
def execThermWarnNChange (asserted : Bool) (s : State) : Res :=
  if domeState s = 0 ∨ s.flag rDomeIn 1 = asserted then .next s
  else
    let s1 := (s.setFld rDomeIn 1 1 asserted.toNat).setFld rDomeIn 0 0 asserted.toNat
    let s2 := if asserted then s1.modPwr (fun p => { p with warnSince := sidereal s1 }) else s1
    .next (nlogEvent 3 (if asserted then 0x1107 else 0x1108) 0 0 0 (warnCaps s2))

/-- A run of 1 to 7 samples that differs from the accepted level (R683). -/
def execThermWarnNGlitch (samples : Nat) (s : State) : Res :=
  if domeState s = 0 ∨ samples = 0 ∨ 8 ≤ samples then .next s
  else
    let sec := (sidereal s).toNat / 1000000000
    .next ((s.satFld rDomeIn 63 48 1).modPwr (fun p => { p with glSec := sec, glCnt := if p.glSec = sec then p.glCnt + 1 else 1 }))

/-- More than 1,000 glitches within one second (R684). -/
def execThermWarnNNoisy (s : State) : Res :=
  if domeState s ≠ 0 ∧ s.flag rDomeIn 2 = false ∧ 1000 < s.pwr.glCnt then
    .next (nlogEvent 3 0x110A 0 (wd (s.fld rDomeIn 63 48)) 0 (warnCaps (s.setFld rDomeIn 2 2 1)))
  else .next s

/-- 1 s with no sample that differs from its predecessor: the accepted level is the sampled one (R684). -/
def execThermWarnNQuiet (low : Bool) (s : State) : Res :=
  if s.flag rDomeIn 2 then
    let s1 := ((s.setFld rDomeIn 2 2 0).setFld rDomeIn 1 1 low.toNat).setFld rDomeIn 0 0 low.toNat
    let s2 := s1.modPwr (fun p => { p with glCnt := 0, warnSince := if low && !s.flag rDomeIn 1 then sidereal s1 else p.warnSince })
    .next (nlogEvent 3 0x110B 0 (wd (s.fld rDomeIn 63 48)) 0 (warnCaps s2))
  else .next s

/-- Every 60 s of continued assertion (R684). -/
def execThermWarnNReminder (s : State) : Res :=
  if s.flag rDomeIn 1 then .next (nlogEvent 3 0x1109 0 (wd ((sidereal s - s.pwr.warnSince).toNat / 1000000000)) 0 s) else .next s

/-- A low run of 1 to 7 samples on EPO_N (R683). -/
def execEpoNGlitch (samples : Nat) (s : State) : Res :=
  if domeState s = 0 ∨ samples = 0 ∨ 8 ≤ samples then .next s else .next (s.satFld rDomeIn 47 40 1)

/-! ### Current monitors (R742 to R745) -/

/-- Four 16-bit readings, lowest first. -/
def word4 (a b c d : Nat) : Word := wd (a % 65536 + b % 65536 * 2 ^ 16 + c % 65536 * 2 ^ 32 + d % 65536 * 2 ^ 48)

/-- SENSOR_SAMPLE: every domain's current, a domain that is off reading 0; a field's energy in nJ. -/
def execSensorSample (fields : List (FieldId × CurrentSample)) (limbs : List (LimbId × CurrentSample)) (pcieSeam : CurrentSample) (s : State) : Res :=
  let on := fun (d v : Nat) => if domSt s d = 2 then v else 0
  let s1 := fields.foldl (fun t p =>
    let f := p.1.val
    let c := on (3 * f) p.2.i0
    let b := on (3 * f + 1) p.2.i1
    let a := on (3 * f + 2) p.2.i2
    let t1 := t.wr (fieldBase f + 0x610) (word4 c b a p.2.i3)
    if (t1.chrOf f).isOpen then t1.modChr f (fun k => { k with energy := k.energy + p.2.i3 * (a + b + c) }) else t1) s
  let s2 := limbs.foldl (fun t p =>
    let l := p.1.val
    let d := 252 + 4 * l
    (t.wr (limbBase l + 0x6010) (word4 (on d p.2.i0) (on (d + 1) p.2.i1) (on (d + 2) p.2.i2) (on (d + 3) p.2.i3))).wr (limbBase l + 0x6018) (word4 (on (284 + l) p.2.i4) 0 0 0)) s1
  .next (s2.wr 0xC048 (word4 (on 292 pcieSeam.i0) (on 293 pcieSeam.i1) (on 294 pcieSeam.i2) (on 295 pcieSeam.i3)))

end Sys2Proof.Machine
end

