-- ==== Sys2Proof/Machine/DarkFrame.lean ====
section
/-! DEFINITION. Dark-frame test and repair: the neighbor test (R699 to R703), slices (R704 to R713), the Finder table's checks (R714 to R716), and fuses (R694 to R697, R718, R719). -/

namespace Sys2Proof.Machine

/-! ### The neighbor test (R700 to R702) -/

/-- The golden table was taken at boot (R799). -/
def goldenTaken (s : State) : Bool := (tfind s.boot.taken 5).isSome

/-- The neighbor of a core in a direction, where the wafer has one. -/
def neighborOf (c dir : Nat) : Option Nat := if hasNeighbor c dir then some (routerStep c dir 1) else none

/-- The cores that vote on a core: neighbors with a live router in a field whose compute domain is on (R700). -/
def votersOf (s : State) (c : Nat) : List Nat :=
  ((List.range 4).filterMap (neighborOf c)).filter (fun n => !rtDead s (coreX n) (coreY n) && computeOn s (fieldOf n))

/-- A core runs the test's patterns (R700, R701). -/
def runsTest (s : State) (c : Nat) : Bool := !coreDisabled s c && !rtDead s (coreX c) (coreY c)

/-- The failing votes on a core, by voter, that count when the voters in `out` are ignored. -/
def failsOn (votes : List FailVote) (voters out : List Nat) (c : Nat) : List FailVote :=
  votes.filter (fun v => v.target.val == c && voters.contains v.voter.val && !out.contains v.voter.val && (v.array || v.router))

/-- Fail and pass votes on a core (R701). -/
def countVotes (s : State) (votes : List FailVote) (out : List Nat) (c : Nat) : Nat × Nat :=
  let vs := (votersOf s c).filter (fun n => !out.contains n)
  let f := (((failsOn votes vs out c).map (fun v => v.voter.val)).eraseDups).length
  (f, vs.length - f)

/-- The voters that round 2 ignores: those with more fail votes than pass votes in round 1. -/
def badVoters (s : State) (votes : List FailVote) : List Nat :=
  (((votes.map (fun v => v.target.val)).eraseDups).filter (runsTest s)).filter (fun c => (countVotes s votes [] c).2 < (countVotes s votes [] c).1)

/-- The verdict from fail and pass votes (R701). -/
def verdictOf (fails passes : Nat) : Nat := if fails + passes = 0 then 0 else if fails < passes then 1 else if passes < fails then 2 else 3

def rNbrRes (f i : Nat) : Nat := fieldBase f + 0x900 + 8 * i
/-- A core's neighbor verdict (R722). -/
def verdict (s : State) (c : Nat) : Nat := s.fld (rNbrRes (fieldOf c) (coreIdx c / 32)) (2 * (coreIdx c % 32) + 1) (2 * (coreIdx c % 32))

/-- One core's verdict: recorded, and a FAIL raises cause 0x0503 (R702, R720). -/
def giveVerdict (votes : List FailVote) (out : List Nat) (live : State) (c : Nat) (s : State) : State :=
  let n := if goldenTaken live && runsTest live c then countVotes live votes out c else (0, 0)
  let v := verdictOf n.1 n.2
  let s1 := s.setFld (rNbrRes (fieldOf c) (coreIdx c / 32)) (2 * (coreIdx c % 32) + 1) (2 * (coreIdx c % 32)) v
  if v = 2 then
    let arr := (failsOn votes (votersOf live c) out c).any (·.array)
    raise (domCore c) 1 (if arr then 4 else 6) 0x0503 (wd (n.1 + 16 * n.2)) s1
  else s1

/-- NEIGHBOR_TEST_DONE (R700 to R702). -/
def execNeighborTestDone (votes : List FailVote) (s : State) : Res :=
  if dkfPhase s ≠ 4 then .next s
  else
    let fs := s.dark.nbr
    let out := badVoters s votes
    let s1 := forEach fs computeZero s
    let s2 := forEach fs (fun f t => forEach (coresOf f) (giveVerdict votes out s) t) s1
    let n := ((fs.flatMap coresOf).filter (fun c => verdict s2 c == 2)).length
    let s3 := if s.dark.powerOn then s2.setFld rDkfStat 40 40 1 else setRstat 0 s2
    .next (nlogEvent 3 0x1204 0 (wd fs.length) (wd n) ((setDkfPhase 0 s3).modDark (fun d => { d with nbr := [], powerOn := false })))

/-- NBR on field n (R699). -/
def dkfNbr (n : Nat) (s : State) : State :=
  if n < 84 ∧ dkfPhase s = 0 ∧ fieldOn3 s n = true ∧ (coresOf n).all (fun c => coreSt s c == 0 || coreSt s c == 4 || coreSt s c == 7) = true then
    (setRstat 1 (setDkfPhase 4 s)).modDark (fun d => { d with nbr := [n], powerOn := false })
  else setRstat 2 s

def execNbr (f : Nat) (s : State) : Res := .next (dkfNbr f s)

/-! ### Slices (R704 to R713) -/

/-- SLICE_DUE: one more slice is due; at 14, event 0x1206 (R704, R713). -/
def execSliceDue (s : State) : Res :=
  if s.flag 0xA000 0 && s.fld 0xA000 47 32 != 0 then
    let n := satAdd 16 (s.fld rDkfStat 63 48) 1
    let s1 := s.setFld rDkfStat 63 48 n
    .next (if n = 14 then nlogEvent 3 0x1206 0 (wd n) (wd (s1.fld rDkfStat 39 31)) s1 else s1)
  else .next s

/-- The save limb of a field (R708). -/
def saveLimb (f : Nat) : Nat := (if f / 14 < 2 then 0 else if f / 14 = 2 then 1 else if f / 14 = 3 then 2 else 3) + (if f % 14 < 7 then 0 else 4)

/-- A slice of quadrant q is not refused (R706, R799). -/
def sliceOk (s : State) (q : Nat) : Bool :=
  let f := q / 4
  q < 336 && dkfPhase s == 0 && goldenTaken s && fieldOn3 s f && limbOn s (saveLimb f) && (activeLimbs s).contains (saveLimb f) &&
  (quadCores q).all (fun c => (coreSt s c == 0 || coreSt s c == 4 || coreSt s c == 5 || coreSt s c == 7) && (s.core c).sendq.isEmpty && (s.core c).arrayq.isEmpty)

/-- Nominal rail of a point in mV (R651). -/
def railNominal (e : Nat) : Int := [0, 780, 740, 700, 670, 620].getD e 0
/-- The rail set point of a field in mV (R652). -/
def railSet (s : State) (f : Nat) : Int := max 620 (min 800 (railNominal (effPoint s f) + sx 8 (s.fld (rFldPwr f) 47 40)))

/-- The limits of R707 that do not hold: bit 0 voltage, bit 1 clock, bit 2 temperature. -/
def sliceLimits (s : State) (f : Nat) : Nat :=
  (if 720 ≤ railSet s f ∧ railSet s f ≤ 800 then 0 else 1) + (if 1 ≤ effPoint s f ∧ effPoint s f ≤ 3 then 0 else 2) + (if atLeast (tempOf (s.rd (rFldTemp f))) 95 then 4 else 0)

/-- A slice of quadrant q is asked for (R705 to R709): refused, deferred, or begun with SAVE. -/
def sliceStart (q : Nat) (s : State) : State :=
  if !sliceOk s q then setRstat 2 s
  else
    let lim := sliceLimits s (q / 4)
    if lim ≠ 0 then nlogEvent 3 0x1202 0 (wd q) (wd lim) ((setRstat 3 s).satFld rDkfCnt 31 16 1)
    else
      let s1 := (setRstat 1 (setDkfPhase 1 s)).setFld rDkfStat 30 22 q
      s1.modDark (fun d => { d with slice := some q, held := quadCores q, tested := (quadCores q).filter (fun c => !rtDead s (coreX c) (coreY c)), saved := [], fails := [], ending := 0 })

/-- The quadrant of RUN_NEXT: DKF_STAT.NEXTQ. -/
def nextQ (s : State) : Nat := s.fld rDkfStat 39 31
def execRunNext (s : State) : Res := .next (sliceStart (nextQ s) s)
def execSliceRun (q : Nat) (s : State) : Res := .next (sliceStart q s)

/-- CANCEL abandons the slice (R712). -/
def sliceCancel (s : State) : State := match sliceField s with | some f => sliceAbandon f s | none => s
def execSliceCancel (s : State) : Res := .next (sliceCancel s)

/-- The core-local word indices that a save image of a core holds and that are listed: the core store and instruction words 7,680 to 8,191 (R708). -/
def saveWords (s : State) (c : Nat) : List Nat :=
  (s.core c).store.map (·.1) ++ (((s.core c).istore.map (·.1)).filter (fun i => 7680 ≤ i && i < 8192)).map (· + 65536)

/-- One core's words are saved. -/
def saveCore (c : Nat) (s : State) : State :=
  let ws := saveWords s c
  let r := outWords (coreLocalRead c) ws s
  r.2.modDark (fun d => { d with saved := tset d.saved c (ws.zip r.1) })

/-- The dark-frame save area of a limb as a slice in progress has filled it: the word at work-area offset `off` from 0x800_0000 on (R374, R708). -/
def saveAreaWord (s : State) (l off : Nat) : PWord :=
  match s.dark.slice with
  | none => default
  | some q =>
    let o := off - 0x8000000
    let word := fun (k i : Nat) => let c := (quadCores q).getD k 0; if s.dark.tested.contains c then tget default (tget [] s.dark.saved c) i else default
    let toks := 0x7800000 + 960 * 1024
    if l ≠ saveLimb (q / 4) then default
    else if o < 0x7800000 then word (o / 524288) (o % 524288 / 8)
    else if o < toks then word ((o - 0x7800000) / 4096) (65536 + 7680 + (o - 0x7800000) % 4096 / 8)
    else
      let c := (quadCores q).getD ((o - toks) / 512) 0
      if s.dark.tested.contains c ∧ dkfPhase s ≠ 1 then ⟨s.rd (rCoreTok c ((o - toks) % 512 / 8)), false⟩ else default

/-- SLICE_SAVE_DONE: PATTERNS begins (R709). -/
def execSliceSaveDone (s : State) : Res :=
  if dkfPhase s = 1 then .next (setDkfPhase 2 (forEach s.dark.tested saveCore s)) else .next s

/-- FLD_DKF_FAIL of a core (R711). -/
def setFail (c : Nat) (b : Bool) (s : State) : State := s.setFld (fieldBase (fieldOf c) + 0x800 + 8 * (coreIdx c / 64)) (coreIdx c % 64) (coreIdx c % 64) b.toNat

/-- S takes one result word (R710). -/
def misrStep (s d : Word) : Word := (s <<< 1) ^^^ (if s.getLsbD 63 then 0x1B else 0) ^^^ d
/-- A core's signature: its result words in program order, complemented where the core detected an error (R710). -/
def signature (ds : List Word) (err : Bool) : Word := let m := ds.foldl misrStep 0; if err then ~~~m else m

/-- A core's neighbor mask: which neighbors lie in its quadrant and have a live router (R711). -/
def goldMask (s : State) (c : Nat) : Nat :=
  ((List.range 4).map (fun d => if (match neighborOf c d with | some n => (quadCores (s.dark.slice.getD 0)).contains n && !rtDead s (coreX n) (coreY n) | none => false) then 2 ^ d else 0)).sum
/-- GOLD[m] of the golden table taken at boot; the manual gives the table no layout, so its words are open values. -/
def goldOf (s : State) (m : Nat) : Word := let k := tget (0, 0) s.boot.taken 5; Config.golden (m + 16 * (2 * k.2 + k.1))

/-- One tested core's comparison of S with GOLD[m] (R711); what it ran is its result words, and whether it detected an error. -/
def judge (ran : List (Nat × List Word × Bool)) (c : Nat) (s : State) : State :=
  let r := tget ([], false) ran c
  let sig := signature r.1 r.2
  if sig = goldOf s (goldMask s c) then setFail c false s
  else
    let s1 := (setFail c true s).modDark (fun d => { d with fails := d.fails ++ [c] })
    raise (domCore c) (if coreMapped s c then 2 else 1) 0 0x0501 sig s1

/-- SLICE_PATTERNS_DONE with what each core ran: RESTORE begins (R709 to R711). -/
def execSlicePatternsDone (ran : List (CoreId × List Word × Bool)) (s : State) : Res :=
  if dkfPhase s = 2 then .next (forEach s.dark.tested (judge (ran.map (fun p => (p.1.val, p.2)))) (setDkfPhase 3 s)) else .next s

/-! Registers that a slice does not preserve take open values (R709). -/

/-- w bits from the draws from n on. -/
def freeBits (n w : Nat) : Nat := ((List.range (ceilDiv w 64)).map (fun i => (Config.freeValue (n + i)).toNat * 2 ^ (64 * i))).foldl (· + ·) 0 % 2 ^ w

/-- Draws that one core's registers take. -/
def coreDraws : Nat := 9000

/-- A core's registers after a slice; n is the first draw. -/
def freeCore (n : Nat) (k : Core) : Core :=
  { k with
    s := Vector.ofFn (fun (i : Fin 32) => if i.val = 0 then 0 else Config.freeValue (n + i.val))
    v := Vector.ofFn (fun (i : Fin 16) => BitVec.ofNat 512 (freeBits (n + 32 + 8 * i.val) 512))
    p := Vector.ofFn (fun (i : Fin 8) => if i.val = 0 then 0xFFFF else BitVec.ofNat 16 (freeBits (n + 160 + i.val) 16))
    mb := BitVec.ofNat 16 (freeBits (n + 168) 16)
    acc := (List.range 256).map (fun i =>
      let f := freeBits (n + 170 + 11 * i) 11
      (i, ⟨BitVec.ofNat 608 (freeBits (n + 171 + 11 * i) 608), f.testBit 0, f.testBit 1, f.testBit 2, BitVec.ofNat 8 (f / 8)⟩))
    bufs := (List.range 5).flatMap (fun t => (List.range (8 * bufLines t)).map (fun j => (2048 * t + j, eccEncode (Config.freeValue (n + 3000 + 1024 * t + j)) false 0))) }

/-- One tested core takes its words back. -/
def restoreCore (c : Nat) (s : State) : State :=
  let s1 := (tget [] s.dark.saved c).foldl (fun t p => coreLocalWrite c p.1 0 0 [p.2] t) s
  { s1 with draws := s1.draws + coreDraws }.modCore c (freeCore s1.draws)

/-- The next quadrant of the rotation: the first after q whose field's compute domain is on (R705). -/
def nextQuad (s : State) (q : Nat) : Nat := ((List.range 336).map (fun i => (q + 1 + i) % 336)).find? (fun r => computeOn s (r / 4)) |>.getD q

/-- A slice ends DONE or FAILED (R705, R711, R721). -/
def sliceEnd (q fails : Nat) (s : State) : State :=
  let s1 := s.setFld rDkfStat 63 48 (s.fld rDkfStat 63 48 - 1)
  let s2 := s1.satFld rDkfCnt 63 32 1
  let s3 := setRstat (if fails = 0 then 0 else 6) (if fails = 0 then s2 else s2.satFld rDkfCnt 7 0 1)
  let s4 := if nextQ s3 = q then s3.setFld rDkfStat 39 31 (nextQuad s3 q) else s3
  nlogEvent 3 0x1201 0 (wd q) (wd fails) s4

/-- SLICE_RESTORE_DONE: the stores stand again, the slice ends, and the held flits are admitted (R709, R711, R712). -/
def execSliceRestoreDone (s : State) : Res :=
  if dkfPhase s ≠ 3 then .next s
  else
    let q := s.dark.slice.getD 0
    let s1 := setDkfPhase 0 (forEach s.dark.tested restoreCore s)
    let s2 := if s.dark.ending = 4 then nlogEvent 3 0x1203 0 (wd q) 0 ((setRstat 4 s1).satFld rDkfCnt 15 8 1) else sliceEnd q s.dark.fails.length s1
    .next (sliceFree s2)

/-! ### The Finder table (R714 to R716) -/

/-- A Finder entry's half of its register. -/
def setFinder (f i e : Nat) (s : State) : State := s.setFld (rFinder f (i / 2)) (32 * (i % 2) + 31) (32 * (i % 2)) e
/-- The core that an entry names may not serve: router dead, core disabled, or verdict FAIL (R715). -/
def barredCore (s : State) (c : Nat) : Bool := rtDead s (coreX c) (coreY c) || coreDisabled s c || verdict s c == 2

/-- A clamp of a Finder entry. -/
def finderClamp (lo w a b : Nat) : Clamp := ⟨lo, w, a, b⟩

/-- Entry i takes the 32 bits e: the values used, SUBS as it stands, and the clamps (R714, R715). -/
def finderEntryLoad (f i e : Nat) (x : List (Nat × Clamp) × State) : List (Nat × Clamp) × State :=
  let s := x.2
  let old := finderEntry s f i
  let py := nbits e 9 5
  let c1 := (if nbits e 30 24 = 0 then [] else [finderClamp 24 7 (nbits e 30 24) 0]) ++ (if nbits e 15 10 = 0 then [] else [finderClamp 10 6 (nbits e 15 10) 0]) ++
    (if 29 < py then [finderClamp 5 5 py 29] else [])
  let place := min py 29 * 32 + nbits e 4 0
  let bar := e.testBit 31 && barredCore s (feCore f place)
  let v := e.testBit 31 && !bar
  (x.1 ++ (c1 ++ (if bar then [finderClamp 31 1 1 0] else [])).map (fun c => (i, c)), setFinder f i (v.toNat * 2 ^ 31 + nbits old 23 16 * 2 ^ 16 + place) s)

/-- The check of a valid entry i: its core named by a valid entry of lower index is dropped (R715). The cores seen, the clamps and the state. -/
def dedupStep (f : Nat) (y : List Nat × List (Nat × Clamp) × State) (i : Nat) : List Nat × List (Nat × Clamp) × State :=
  let e := finderEntry y.2.2 f i
  if y.1.contains (nbits e 9 0) then (y.1, y.2.1 ++ [(i, finderClamp 31 1 1 0)], setFinder f i (nbits e 30 0) y.2.2)
  else (nbits e 9 0 :: y.1, y.2)

/-- The check of the whole table after a load, its valid entries in order (R715). -/
def finderDedup (f : Nat) (x : List (Nat × Clamp) × State) : List (Nat × Clamp) × State :=
  (((List.range 896).filter (fun i => feV (finderEntry x.2 f i))).foldl (dedupStep f) ([], x)).2

/-- SUBS of entry i counts one more where it was valid and is, and names another core than before (R714, R715). -/
def finderSubs (f : Nat) (s0 : State) (s : State) (i : Nat) : State :=
  let old := finderEntry s0 f i
  let e := finderEntry s f i
  if feV old && feV e && nbits old 9 0 != nbits e 9 0 then setFinder f i (e + (min 255 (nbits e 23 16 + 1) - nbits e 23 16) * 2 ^ 16) s else s

/-- A Finder update: entries from `first` on, then the whole-table check, SUBS and the recount (R715, R717). -/
def finderLoad (f first : Nat) (es : List Nat) (s : State) : List (Nat × Clamp) × State :=
  let r := finderDedup f ((es.zipIdx).foldl (fun x p => finderEntryLoad f (first + p.2) p.1 x) ([], s))
  (r.1, recount f (((List.range es.length).map (· + first)).foldl (finderSubs f s) r.2))

/-! ### Fuses (R694 to R697, R718, R719) -/

/-- Extension record j (R724). -/
def extRecord (s : State) (j : Nat) : Nat := s.fld (0xA400 + 8 * (j / 2)) (32 * (j % 2) + 31) (32 * (j % 2))
/-- The next extension record to blow. -/
def nextRecord (s : State) : Option Nat := (List.range 1024).find? (fun j => extRecord s j == 0)

/-- A FUSE command may run (R718). -/
def fuseOk (s : State) : Bool :=
  let kind := s.fld 0xA020 31 29
  !launched s && dkfPhase s == 0 && 1 ≤ kind && kind ≤ 3 && (nextRecord s).isSome &&
  (List.range 80640).all (fun c => !coreRunning s c && coreSt s c != 6)

/-- FUSE (R718). -/
def dkfFuse (s : State) : State :=
  if fuseOk s then (setRstat 1 (setDkfPhase 5 s)).modDark (fun d => { d with fuse := some (BitVec.ofNat 32 (s.fld 0xA020 31 0)) }) else setRstat 2 s

def execFuse (s : State) : Res := .next (dkfFuse s)

/-- A core-disable fuse is blown: the core stays in STATE 0 with MAPPED 0 (R697). -/
def disableCore (c : Nat) (s : State) : State :=
  let s1 := s.setFld (rDisFuse (fieldOf c) (coreIdx c / 64)) (coreIdx c % 64) (coreIdx c % 64) 1
  recount (fieldOf c) ((s1.setFld (rCoreId c) 35 35 0).setFld (rCoreStat c) 2 0 0)

/-- FUSE_DONE with what the fuses read back (R718, R719). -/
def execFuseDone (readback : Half) (s : State) : Res :=
  match s.dark.fuse with
  | none => .next s
  | some r =>
    let j := (nextRecord s).getD 1023
    let s1 := (setDkfPhase 0 s).modDark (fun d => { d with fuse := none })
    let s2 := s1.setFld (0xA400 + 8 * (j / 2)) (32 * (j % 2) + 31) (32 * (j % 2)) readback.toNat
    let kind := nbits r.toNat 31 29
    let cid := nbits r.toNat 28 12
    let s3 := if (kind = 1 ∨ kind = 2) ∧ cid < 80640 then disableCore cid s2 else s2
    if readback = r then .next (nlogEvent 3 0x1205 0 (wd r.toNat) (wd j) (setRstat 0 (s3.addFld 0xA028 10 0 1)))
    else .next (raise (domLimb (hostLimb s)) 1 12 0x0504 (wd r.toNat) (setRstat 6 s3))

/-- A register write of DKF_CMD (R723). -/
def dkfCmdWrite (v : Word) (s : State) : State :=
  let t := bits v 8 0
  match bits v 63 61 with
  | 1 => sliceStart (nextQ s) s
  | 2 => sliceStart t s
  | 3 => sliceCancel s
  | 4 => dkfNbr t s
  | 5 => dkfFuse s
  | _ => s

end Sys2Proof.Machine
end

