-- ==== Sys2Proof/Machine/Ephemeris.lean ====
section
/-! DEFINITION. The tables of the update engine (R524 to R528, R538, R545, R560), real functions rounded once (R561, R568), the step sizes of the Ephemeris engine (R561, R563), and the clamps of its tables (R526, R527, R546, R560). -/

namespace Sys2Proof.Machine

/-! ### One rounding of an exact real (R561) -/

/-- CR: an exact value rounded once to FP32. -/
def crFl (v : Option Fl) : Nat := codeOf 8 true v
/-- CR(p ÷ q). -/
def crRatio (p q : Nat) : Nat := crFl (divFl (.fin false p 0) (.fin false q 0))
/-- sqrt(p ÷ q), with a last bit that says that something is left; q nonzero. -/
def sqrtRatio (p q : Nat) : Fl :=
  if p = 0 then .fin false 0 0
  else
    let k := q.log2 / 2 + 80
    let n := p * 2 ^ (2 * k)
    let r := isqrt (n / q) (n.log2 / 2 + 2) 0
    .fin false (2 * r + (if r * r * q = n then 0 else 1)) (-k - 1)

/-- Fraction bits of the fixed-point circle functions. -/
def fixBits : Nat := 352
/-- Terms of atan(1/x): k odd, t = 2^352 ÷ x^k. -/
def atanTerms (x2 : Nat) : Nat → Nat → Nat → Bool → Int → Int
  | 0, _, _, _, a => a
  | n + 1, k, t, neg, a => atanTerms x2 n (k + 2) (t / x2) (!neg) (if neg then a - (t / k : Nat) else a + (t / k : Nat))
/-- atan(1/x). -/
def atanInv (x : Nat) : Int := atanTerms (x * x) 90 1 (2 ^ fixBits / x) false 0
/-- π, by Machin's formula. -/
def piFix : Nat := (4 * (4 * atanInv 5 - atanInv 239)).toNat
/-- Terms of sin t: k odd, u = t^k ÷ k!. -/
def sinTerms (t2 : Nat) : Nat → Nat → Nat → Bool → Int → Int
  | 0, _, _, _, a => a
  | n + 1, k, u, neg, a => sinTerms t2 n (k + 2) (u * t2 / 2 ^ (2 * fixBits) / ((k + 1) * (k + 2))) (!neg) (if neg then a - u else a + u)
/-- sin t of a fixed-point t below 1. -/
def sinFix (t : Nat) : Nat := (sinTerms (t * t) 45 1 t false 0).toNat

/-- (1 − cos(π n ÷ d)) ÷ 2 for n ≤ d: exact where it is rational, else to 2^-340 with a last bit set. -/
def havFl (n d : Nat) : Fl :=
  if n = 0 then .fin false 0 0
  else if n = d then .fin false 1 0
  else if 2 * n = d then .fin false 1 (-1)
  else if 3 * n = d then .fin false 1 (-2)
  else if 3 * n = 2 * d then .fin false 3 (-2)
  else if 2 * n < d then (let x := sinFix (piFix * n / (2 * d)); .fin false (2 * (x * x) + 1) (-(2 * fixBits : Nat) - 1))
  else (let x := sinFix (piFix * (d - n) / (2 * d)); .fin false (2 * (2 ^ (2 * fixBits) - x * x) + 1) (-(2 * fixBits : Nat) - 1))

/-! ### Tables -/

/-- Group entry g (R526), as one number. -/
def groupN (s : State) (l g : Nat) : Nat := wordsN (engWords s l 2 (64 * g) 8)
/-- Field [hi:lo] of word w of an entry. -/
def ef (e w hi lo : Nat) : Nat := nbits e (64 * w + hi) (64 * w + lo)
def gEn (e : Nat) : Bool := ef e 0 63 63 == 1
def gDir (e : Nat) : Bool := ef e 0 62 62 == 1
def gBc (e : Nat) : Bool := ef e 0 61 61 == 1
def gNoclip (e : Nat) : Bool := ef e 0 60 60 == 1
def gDslot (e : Nat) : Nat := ef e 0 59 54
def gProg (e : Nat) : Nat := ef e 0 53 46
def gCurve (e : Nat) : Nat := ef e 0 45 38
def gScale (e : Nat) : Nat := ef e 1 31 0
def gSeeLo (e : Nat) : Nat := ef e 2 31 0
def gSeeHi (e : Nat) : Nat := ef e 2 63 32
/-- H0 to H7. -/
def gH (e i : Nat) : Nat := ef e (3 + i / 2) (32 * (i % 2) + 31) (32 * (i % 2))
/-- The enabled groups of a limb's table. -/
def enabledGroups (s : State) (l : Nat) : List Nat := (List.range 1024).filter (fun g => gEn (groupN s l g))

/-- Segment entry k (R527). -/
def segN (s : State) (l k : Nat) : Nat := wordsN (engWords s l 4 (64 * k) 8)
def sgEn (e : Nat) : Bool := ef e 0 63 63 == 1
def sgPlan (e : Nat) : Nat := ef e 0 62 55
def sgGroup (e : Nat) : Nat := ef e 0 54 45
def sgM1f (e : Nat) : Nat := ef e 0 44 42
def sgM2f (e : Nat) : Nat := ef e 0 41 39
def sgCfmt (e : Nat) : Nat := ef e 0 38 35
def sgCrec (e : Nat) : Nat := ef e 0 34 23
def sgMrec (e : Nat) : Nat := ef e 0 22 11
def sgFirst (e : Nat) : Nat := ef e 1 35 0
def sgCount (e : Nat) : Nat := ef e 1 63 36
/-- WBASE, M1BASE, M2BASE, CBASE, CSBASE, BOFF by word. -/
def sgBase (e w : Nat) : Nat := ef e w 47 0

/-- Word p of the U-program directory (R545). -/
def uDir (s : State) (l p : Nat) : Word := workWord s l (engTab 5 + 8 * p)
def uWord (s : State) (l i : Nat) : Word := workWord s l (engTab 6 + 8 * i)
/-- The instructions of a program up to UEND; none where the directory entry is disabled (R545, R547). The last word acts as UEND where no earlier one is (R546). -/
def uProgram (s : State) (l p : Nat) : Option (List Word) :=
  let d := uDir s l p
  if bit d 63 then
    some (((List.range (bits d 28 16)).map (fun i => uWord s l (bits d 12 0 + i))).takeWhile (fun w => bits w 63 58 != 0x11))
  else none

/-! ### The control bank (R531, R533) -/

/-- n bytes of the current control bank as a number. -/
def bankNat (s : State) (off n : Nat) : Nat := leNat (tspan 0 s.mem (cbankBase s (curCbank s) + off) n)
/-- Group state of the current control bank: S, P1, P2, LRUSED, BAND. -/
def gsS (s : State) (g : Nat) : Nat := bankNat s (0x20000 + 32 * g) 8
def gsP1 (s : State) (g : Nat) : Nat := bankNat s (0x20000 + 32 * g + 8) 4
def gsP2 (s : State) (g : Nat) : Nat := bankNat s (0x20000 + 32 * g + 12) 4
def gsBand (s : State) (g : Nat) : Nat := bankNat s (0x20000 + 32 * g + 20) 1
/-- LCLIP of the current control bank. -/
def bankLclip (s : State) : Nat := bankNat s (0x28400 + 20) 4

/-! ### Step sizes (R561, R563) -/

def one32 : Nat := 0x3F800000
/-- d and L after the restarts of a growing period. -/
def restarts (mult : Nat) : Nat → Nat → Nat → Nat × Nat
  | 0, d, l => (d, l)
  | n + 1, d, l => if l ≤ d then restarts mult n (d - l) (min (l * mult) (2 ^ 64 - 1)) else (d, l)

/-- lr of a curve entry c at S applied steps. -/
def curveLr (c x : Nat) : Nat :=
  let wk := nbits c 1 0
  let dk := nbits c 5 4
  let rm := nbits c 15 8
  let ws := nbits c 63 32
  let rp := nbits c 127 96
  let init := nbits c 159 128
  let peak := nbits c 191 160
  let floor := nbits c 223 192
  if wk ≠ 0 ∧ x < ws then
    let f := if wk = 1 then crRatio x ws else crFl (some (havFl x ws))
    fpAdd 8 true init (fpMul 8 true f (fpSub 8 true peak init))
  else
    let u := if wk ≠ 0 then x - ws else x
    let dl := if rp = 0 then (u, nbits c 95 64) else if rm = 1 then (u % rp, rp) else restarts rm 80 u rp
    let h :=
      if dk = 0 then one32
      else if dk = 3 then crFl (some (sqrtRatio (max ws 1) (max ws 1 + dl.1)))
      else if dl.2 ≤ dl.1 then 0
      else if dk = 1 then crFl (some (havFl (dl.2 - dl.1) dl.2))
      else crRatio (dl.2 - dl.1) dl.2
    fpAdd 8 true floor (fpMul 8 true h (fpSub 8 true peak floor))

/-- LR of a group: the curve, or the latched directed value (R561, R563). -/
def groupLr (s : State) (l g : Nat) : Nat :=
  let e := groupN s l g
  let lr := if gDir e then bits (tget 0 s.step.dirLat (gDslot e)) 63 32 else curveLr (wordsN (engWords s l 3 (64 * gCurve e) 8)) (gsS s g)
  fpMul 8 true lr (gScale e)

/-- P1 and P2 of a group after this step if it is applied (R556). -/
def newP (s : State) (e g : Nat) : Nat × Nat :=
  if gBc e then (fpMul 8 true (gsP1 s g) (gH e 0), fpMul 8 true (gsP2 s g) (gH e 1)) else (gsP1 s g, gsP2 s g)
/-- BC1C and BC2C of the step (R556). -/
def biasC (s : State) (e g : Nat) : Nat × Nat :=
  if gBc e then (fpSub 8 true one32 (newP s e g).1, fpSub 8 true one32 (newP s e g).2) else (one32, one32)

/-- The constants k0 to k15 (R540); k1 follows R552 and R553. -/
def groupK (s : State) (l g : Nat) : List Nat :=
  let e := groupN s l g
  let clip := if bit s.samp.cfg 32 then bankLclip s else s.fld 0x6028 31 0
  [groupLr s l g, if gNoclip e then one32 else clip, (biasC s e g).1, (biasC s e g).2, one32, 0, 0, 0] ++ (List.range 8).map (gH e)

/-! ### Clamps (R526, R527, R546, R560) -/

/-- An FP32 field that takes 0 for NaN and negative values; −0 is no negative value. -/
def useNonneg (c : Nat) : Nat := if isNaN 8 c ∨ 0x80000000 < c then 0 else c
def rule32 (w hi lo : Nat) (use : Nat → Nat) : FieldRule := ⟨64 * w + lo, hi + 1 - lo, use⟩
/-- A reserved field of word w. -/
def ruleZero (w hi lo : Nat) : FieldRule := rule32 w hi lo (fun _ => 0)

/-- R526. -/
def groupRules : List FieldRule :=
  [ruleZero 0 37 0, rule32 1 31 0 (fun c => let u := useNonneg c; if 0x47800000 < u ∧ u < 0x80000000 then 0x47800000 else u), ruleZero 1 63 32,
   rule32 2 31 0 useNonneg, rule32 2 63 32 (fun c => if isNaN 8 c then 0x7F800000 else c), ruleZero 7 63 0]

/-- R560; the third step size field lies in bytes 24 to 27. -/
def curveRules : List FieldRule :=
  let sz := fun (lo : Nat) => (⟨lo, 32, fun c => let u := useNonneg c; if u = 0x7F800000 then 0x7F7FFFFF else u⟩ : FieldRule)
  [ruleMax 1 0 2, rule0 3 2, rule0 7 6, ruleRange 15 8 1 16, rule0 31 16, ruleRange 95 64 1 (2 ^ 32 - 1), sz 128, sz 160, sz 192, rule0 511 224]

/-- R527; a clamp of a base names the whole field. -/
def segRules : List FieldRule :=
  let al := fun (w k : Nat) => rule32 w 47 0 (fun v => alignDown v (2 ^ k))
  [rule32 0 44 42 (fun v => min v 3), rule32 0 41 39 (fun v => min v 4), rule32 0 38 35 (fun v => if 8 ≤ v ∧ v ≤ 14 then 7 else v), ruleZero 0 10 0,
   rule32 1 63 36 (fun v => max v 1), al 2 6, al 3 6, al 4 6, al 5 6, al 6 6, al 7 16,
   ruleZero 2 63 48, ruleZero 3 63 48, ruleZero 4 63 48, ruleZero 5 63 48, ruleZero 6 63 48, ruleZero 7 63 48]

/-- A directory entry's fields (R546): BASE + LEN takes the clamped LEN. -/
def dirRules (e : Nat) : List FieldRule :=
  let len := min (nbits e 28 16) 255 + 1
  [ruleMax 28 16 255, ruleRange 12 0 1024 (8192 - len), rule0 15 13, rule0 62 29]

/-- A program word's fields (R546). -/
def uwordRules (e : Nat) : List FieldRule :=
  let op := nbits e 63 58
  [ruleMax 63 58 0x11, ⟨34, 3, fun v => let p := min v 4; if op = 1 ∧ p = 4 then 3 else if op = 2 ∧ p = 0 then 1 else p⟩, ruleMax 41 37 15, rule0 33 0]

end Sys2Proof.Machine
end

