-- ==== Sys2Proof/Machine/Quote.lean ====
section
/-! DEFINITION. Quotes: the fields of BOOT_STAT and BOOT_FUSE they show, the measurement registers, and the capture of a quote's registers (R808, R813, R814). -/

namespace Sys2Proof.Machine

def rBoot : Nat := 0xF000
def State.modBoot (s : State) (f : Boot → Boot) : State := { s with boot := f s.boot }
/-- BOOT_FUSE.FLOOR (R806). -/
def floorOf (s : State) : Nat := s.fld 0xF020 6 0
/-- BOOT_STAT.PREFBANK. -/
def prefBank (s : State) : Nat := s.fld rBoot 23 23

def rMr (i : Nat) : Nat := 0xF100 + 0x30 * i
/-- A measurement register's bytes. -/
def mrBytes (s : State) (i : Nat) : List Byte := wordsBytes ((List.range 6).map (fun k => s.rd (rMr i + 8 * k)))

/-- A quote without its signature, from the registers as they stand (R813). -/
def quoteBody (s : State) (mask : Nat) (nonce : List Byte) : List Byte :=
  let regs := (onesOf 8 mask).flatMap (mrBytes s)
  let other := s.boot.taken.any (fun p => p.2.1 != prefBank s)
  leBytes 4 0x54515A44 ++ leBytes 1 1 ++ leBytes 1 (hostLimb s) ++ leBytes 1 mask ++ leBytes 1 (s.fld rBoot 22 21 + 4 * other.toNat) ++ leBytes 8 (s.rd 0xF028).toNat ++
  leBytes 1 (floorOf s) ++ leBytes 1 (s.fld 0xF020 13 8) ++ leBytes 2 (0x70 + regs.length + 96) ++ List.replicate 4 0 ++ leBytes 8 (sidereal s).toNat ++ leBytes 8 (stepCnt s).toNat ++
  List.replicate 24 0 ++ nonce ++ regs

/-- The quote in progress captures its registers. -/
def quoteCapture (s : State) : State := s.modBoot (fun b => { b with quoteWait := false, quote := quoteBody s (bits b.arg 7 0) (b.data.take 48) })

/-- The signature of a plate has ended, or the plate: a quote that waited starts now (R814). -/
def quoteStart (s : State) : State := if s.boot.quoteWait then quoteCapture s else s

end Sys2Proof.Machine
end

