-- ==== Sys2Proof/Machine/Plates.lean ====
section
/-! DEFINITION. The Plate engine: slots, headers and directories (R583 to R588), digests (R590, R591), the phases of a plate (R593 to R599), and the commands VERIFY, RESTORE, DELTA, APPLY and MARK (R600 to R613). -/

namespace Sys2Proof.Machine

def rPltCfg : Nat := 0x7000
def rPltSeq : Nat := 0x7030
def pltPhase (s : State) : Nat := s.fld rPltStat 3 0
/-- The command that runs, 0 for none. -/
def pltCmd (s : State) : Nat := s.fld rPltStat 11 8
def State.modPlate (s : State) (f : Plate → Plate) : State := { s with plate := f s.plate }
/-- The Plate engine stops its work while the module is FATAL (R622). -/
def pltStopped (s : State) : Bool := fatal s

/-! ### Slots (R583, R584, R594, R611) -/

/-- NSLOT; 0 and 1 act as 2. -/
def pltSlots (s : State) : Nat := max 2 (s.fld rPltCfg 47 44)
/-- Granules of a slot: SLOTGIB GiB, 0 acting as 1. -/
def slotGran (s : State) : Nat := max 1 (s.fld rPltCfg 23 8) * 16384
/-- First granule of slot k, own or received. -/
def slotBase (s : State) (rsel : Bool) (k : Nat) : Nat := s.fld (if rsel then 0x7010 else 0x7008) 47 16 + k * slotGran s
/-- n bytes of the store range. -/
def memBytes (s : State) (a n : Nat) : List Byte := tspan 0 s.mem a n
/-- An n-byte little-endian number of the store range. -/
def memNat (s : State) (a n : Nat) : Nat := leNat (memBytes s a n)

/-- Bytes of a slot's granule g. -/
def slotByte (s : State) (rsel : Bool) (k g : Nat) : Nat := granule * (slotBase s rsel k + g)
/-- The engine reads bytes of the store range: LAST of their granules, or the error of a reserved address (R364, R383). -/
def pltUse (a n : Nat) (s : State) : State :=
  match placeOf a with
  | .store b => forEach ((byteGranules b n).filter (fun g => (homeLimb s g).isSome)) touch s
  | .reserved => addrError (hostLimb s) a s
  | _ => s
/-- The engine reads the header and the directory of a slot. -/
def slotUse (rsel : Bool) (k : Nat) (s : State) : State := pltUse (slotByte s rsel k 0) (2 * granule) s
/-- A granule that the engine zeroes (R383). -/
def pltZero (g : Nat) (s : State) : State := if (homeLimb s g).isSome then touch g (zeroGranule g s) else s

/-- The header of a slot says COMPLETE (R584). -/
def slotComplete (s : State) (rsel : Bool) (k : Nat) : Bool := (memNat s (slotByte s rsel k 0) 4 == 0x4C50575A) && (memNat s (slotByte s rsel k 0 + 5) 1).testBit 0
/-- SEQ, STEP, NSHARD and SLOTGRAN of a slot's header. -/
def slotSeq (s : State) (rsel : Bool) (k : Nat) : Nat := memNat s (slotByte s rsel k 0 + 8) 4
def slotStep (s : State) (rsel : Bool) (k : Nat) : Nat := memNat s (slotByte s rsel k 0 + 16) 8
def slotShards (s : State) (rsel : Bool) (k : Nat) : Nat := memNat s (slotByte s rsel k 0 + 6) 2
def slotUsed (s : State) (rsel : Bool) (k : Nat) : Nat := memNat s (slotByte s rsel k 0 + 32) 8

/-- The engine reads the header of every slot (R611). -/
def learnSlots (s : State) : State :=
  (forEach (List.range (pltSlots s)) (fun k t => pltUse (slotByte s false k 0) 12 t) s).modPlate (fun p => { p with known := ((List.range (pltSlots s)).filter (slotComplete s false)).map (fun k => (k, slotSeq s false k)) })

/-- The largest number of a table. -/
def newest (t : Tab Nat) : Option (Nat × Nat) := t.foldl (fun m p => match m with | some q => if q.2 < p.2 then some p else m | none => some p) none

/-- The slot that a plate takes (R594). -/
def pickSlot (s : State) : Option Nat :=
  let p := s.plate
  let barred := fun k => (tfind p.known k).isSome && ((newest p.known).map (·.1) == some k || (newest p.marked).map (·.1) == some k || (tfind p.marked k).isNone)
  let free := (List.range (pltSlots s)).filter (fun k => !barred k)
  match free.find? (fun k => (tfind p.known k).isNone) with
  | some k => some k
  | none => free.foldl (fun m k => match m with | some j => if tget 0 p.known k < tget 0 p.known j then some k else m | none => some k) none

/-! ### The shard table and the layout of a slot (R583, R585, R586, R588) -/

/-- Shard-table entry i of the host limb. -/
def shardWord (s : State) (i w : Nat) : Word := s.rd (limbBase (hostLimb s) + 0x8A000 + 32 * i + 8 * w)

/-- The enabled entries, then CONTROL and STATE, each with no place yet. -/
def shardList (s : State) : List ShardRec :=
  (((List.range 256).filter (fun i => bit (shardWord s i 0) 63)).map (fun i =>
    let b := bit (shardWord s i 0) 62
    ⟨i, (shardWord s i 3).toNat, b, bits (shardWord s i 0) 47 0, if b then bits (shardWord s i 2) 47 0 else 0, bits (shardWord s i 1) 27 0, 0, 0, false⟩)) ++
  [⟨256, 0xFFFFFFFFFFFFFFFE, false, cbankBase s (curCbank s), 0, 3, 0, 0, false⟩, ⟨257, 0xFFFFFFFFFFFFFFFF, false, 0, 0, 9, 0, 0, false⟩]

/-- Granules of a digest list. -/
def dlistGran (n : Nat) : Nat := ceilDiv (48 * n) granule
/-- Digest lists placed from granule g on. -/
def placeLists : Nat → List ShardRec → List ShardRec
  | _, [] => []
  | g, r :: l => { r with dlist := g } :: placeLists (g + dlistGran r.ngran) l
/-- Shard data placed from granule g on. -/
def placeData : Nat → List ShardRec → List ShardRec
  | _, [] => []
  | g, r :: l => { r with data := g } :: placeData (g + r.ngran) l
/-- The shards with their places in the slot. -/
def placed (l : List ShardRec) : List ShardRec :=
  placeData (2 + (l.map (fun r => dlistGran r.ngran)).foldl (· + ·) 0) (placeLists 2 l)
/-- Granules of the slot in use. -/
def usedGran (l : List ShardRec) : Nat := l.foldl (fun m r => max m (r.data + r.ngran)) 2

/-- Granules [g, g + n) lie in the store range. -/
def inStore (g n : Nat) : Bool := g + n ≤ granules

/-- Bytes of the STATE shard (R587). -/
def stateBytes (s : State) : List Byte :=
  let h := hostLimb s
  let head := leBytes 8 (stepCnt s).toNat ++ leBytes 16 (keyCopy s h) ++ leBytes 8 (s.fld 0x2000 17 16) ++ leBytes 8 (s.rd 0x6000).toNat ++ leBytes 8 (s.fld 0x5000 15 0)
  (head ++ List.replicate (granule - head.length) 0) ++
  (List.range 8).flatMap (fun l => (List.range 4096).flatMap (fun n =>
    if s.fld (chanOff l n 0) 33 31 = 4 then leBytes 8 (s.rd (chanOff l n 6)).toNat ++ leBytes 8 (2 ^ 63 + s.fld (chanOff l n 4) 47 0) else List.replicate 16 0))

/-! ### Writing and hashing -/

/-- Bytes written whole by the engine; false where a write fails for capacity (R403, R599). -/
def pltWrite (a : Nat) (bs : List Byte) (s : State) : Bool × State := writeBytes true a bs s

/-- Granule `dst` takes the first n bytes of granule `src` with their poison, and zeros after them, with the ELEM of `src`; with `pin` also the hint PIN_VAULT (R381, R388, R598). -/
def copyGranule (pin : Bool) (n src dst : Nat) (s : State) : Bool × State :=
  match homeLimb s dst with
  | none => (false, s)
  | some l =>
    let b := tslice s.mem (granule * src) (granule * src + n)
    let x := tslice s.memX (granule / 8 * src) (granule / 8 * src + n / 8)
    let s0 := migAbort l dst (touch src s)
    let s1 := { s0 with
      mem := tmergeD 0 (tcut s0.mem (granule * dst) (granule * (dst + 1))) (b.map (fun (p : Nat × Byte) => (p.1 - granule * src + granule * dst, p.2)))
      memX := tmergeD false (tcut s0.memX (granule / 8 * dst) (granule / 8 * (dst + 1))) (x.map (fun (p : Nat × Bool) => (p.1 - granule / 8 * src + granule / 8 * dst, p.2))) }
    let s2 := s1.modLimb l (fun k => { k with slots := k.slots.filter (fun y => y.g != dst) })
    let s3 := s2.setEntry dst (setBits (s2.entry dst) 57 56 (eElem (s.entry src)))
    match encodeGranule l dst (if pin then setPin dst 2 s3 else s3) with
    | some t => (true, touch dst t)
    | none => (false, capFail l dst s)

/-- Granules copied in order, `bytes` of source bytes in all; stops at the first failure. -/
def copyGranules (pin : Bool) (src dst bytes : Nat) : Nat → Nat → State → Bool × State
  | 0, _, s => (true, s)
  | n + 1, i, s =>
    let r := copyGranule pin (min granule (bytes - granule * i)) (src + i) (dst + i) s
    if r.1 then copyGranules pin src dst bytes n (i + 1) r.2 else r

/-- A word of granules [g, g + n) is poisoned. -/
def anyPoison (s : State) (g n : Nat) : Bool := (tslice s.memX (granule / 8 * g) (granule / 8 * (g + n))).any (·.2)

/-- The digest of a granule (R590). -/
def granDigest (s : State) (g : Nat) : List Byte := sha384 (memBytes s (granule * g) granule)
/-- The digests of granules [g, g + n). -/
def granDigests (s : State) (g n : Nat) : List Byte := (List.range n).flatMap (fun i => granDigest s (g + i))
/-- The digest of a shard of n granules from g on (R591). -/
def shardDigest (s : State) (skey g n : Nat) : List Byte := sha384 (leBytes 8 skey ++ leBytes 8 n ++ granDigests s g n)

/-! ### Records and endings (R595, R599, R612, R613) -/

/-- A plate record is posted (R612). -/
def pltRecord (kind status slot : Nat) (rsel : Bool) (shard seq : Nat) (step : Word) (dig : List Byte) (s : State) : State :=
  post 4 0xFF ([wd (kind * 2 ^ 60 + status * 2 ^ 56 + slot % 16 * 2 ^ 52 + rsel.toNat * 2 ^ 51 + shard * 2 ^ 32 + seq % 2 ^ 32), step] ++ bytesWords 6 dig) s

/-- The error of a status, in the host limb's domain; the layout of its INFO is not stated (R613, R628). -/
def pltError (st : Nat) (s : State) : State :=
  let d := s.draw
  if st = 1 then raise (domLimb (hostLimb s)) 1 9 0x0261 d.1 d.2
  else if st = 2 ∨ st = 4 ∨ st = 8 ∨ st = 9 then raise (domLimb (hostLimb s)) 2 9 (0x0260 + st) d.1 d.2
  else s

/-- The plate in progress ends with a status (R599, R612). -/
def plateEnd (st : Nat) (s : State) : State :=
  let k := s.fld rPltStat 15 12
  let s1 := (s.setFld rPltStat 19 16 st).setFld rPltStat 3 0 0
  let s2 := modSpanEnd 3 s1
  let s3 := pltRecord 0 st k false 0x3FF (s2.fld rPltSeq 31 0) s2.plate.hStep s2.plate.dirdig s2
  let s4 := s3.modPlate (fun p => { p with shards := [], dirdig := [], signWait := false })
  quoteStart (if st = 1 then s4 else pltError st s4)

/-- The plate point is skipped (R594). The record's slot, SEQ and STEP name no slot: they are not stated. -/
def plateSkip (s : State) : State :=
  let d := s.draw
  let e := d.2.draw
  pltRecord 1 0 (bits d.1 35 32) false 0x3FF (bits d.1 31 0) e.1 [] (e.2.satFld rPltStat 63 48 1)

/-- SNAP begins; a STATE shard that cannot be written ends the plate CAPACITY (R584, R587, R594, R595, R599). -/
def plateBegin (k : Nat) (s : State) : State :=
  let l := placed (shardList s)
  let fits := decide (usedGran l ≤ slotGran s) && inStore (slotBase s false k) (slotGran s)
  let s1 := s.setFld rPltSeq 31 0 (s.fld rPltSeq 31 0 + 1)
  let s2 := (s1.setFld rPltStat 3 0 1).setFld rPltStat 15 12 k
  let s3 := s2.modPlate (fun p => { p with
    takePend := false, known := terase p.known k, marked := terase p.marked k, shards := l, fits := fits, pbank := curPbank s, cbank := curCbank s, dirdig := []
    hModule := s.fld 0x5000 15 0, hK := s.fld rPltCfg 63 48, hStep := stepCnt s, hTime := sidereal s })
  let s4 := modSpan 3 s3
  let mseq := (newest s4.plate.marked).map (·.2)
  let s5 := s4.setFld rPltSeq 63 32 (mseq.getD 0)
  let s6 := pltZero (slotBase s false k) s5
  if fits then
    let w := pltWrite (slotByte s false k ((l.getLast?.map (·.data)).getD 0)) (stateBytes s) s6
    if w.1 then w.2 else plateEnd 2 w.2
  else s6

/-- A plate is triggered (R593, R594): it takes a slot, or the point is skipped; a plate that has not ended leaves no engine for another. -/
def plateTrigger (s : State) : State :=
  let s1 := s.modPlate (fun p => { p with takePend := false })
  if pltPhase s ≠ 0 then plateSkip s1
  else match pickSlot s with
    | some k => plateBegin k s1
    | none => plateSkip s1

/-- The plate trigger of an accepted COMMIT (R593). -/
def plateAtCommit (s : State) : State :=
  let k := max 1 (s.fld rPltCfg 63 48)
  if (s.flag rPltCfg 0 && s.flag rPltCfg 1 && (stepCnt s).toNat % k == 0) || s.plate.takePend then plateTrigger s else s

/-! ### The phases of a plate -/

/-- SNAP_DONE: COPY begins, or the plate ends LAYOUT (R595, R599). -/
def execSnapDone (s : State) : Res :=
  if pltPhase s = 1 ∧ pltStopped s = false then
    .next (if s.plate.fits then s.setFld rPltStat 3 0 2 else plateEnd 8 s)
  else .next s

/-- One shard is copied from the recorded bank into the slot (R595, R598); the STATE shard stands there since SNAP. -/
def copyShard (base : Nat) (x : Bool × List ShardRec × State) (r : ShardRec) : Bool × List ShardRec × State :=
  let s := x.2.2
  if !x.1 || r.shard == 257 then (x.1, x.2.1 ++ [r], s)
  else
    let src := (r.src + (if r.banked then s.plate.pbank * r.boff else 0)) / granule
    let n := if r.shard = 256 then 0x28440 else granule * r.ngran
    if !inStore src r.ngran then (false, x.2.1 ++ [r], s)
    else
      let bad := anyPoison s src (ceilDiv n granule)
      let c := copyGranules true src (base + r.data) n r.ngran 0 s
      (c.1, x.2.1 ++ [{ r with poison := bad }], if bad then pltError 1 c.2 else c.2)

/-- COPY_DONE: every shard stands in the slot and DIGEST begins; a failed write ends the plate CAPACITY (R595, R598, R599). -/
def execCopyDone (s : State) : Res :=
  if pltPhase s = 2 ∧ pltStopped s = false then
    let base := slotBase s false (s.fld rPltStat 15 12)
    let x := s.plate.shards.foldl (copyShard base) (true, [], s)
    if x.1 then .next ((x.2.2.modPlate (fun p => { p with shards := x.2.1 })).setFld rPltStat 3 0 3)
    else .next (plateEnd 2 x.2.2)
  else .next s

/-- Directory entry of a shard (R585). -/
def dirEntry (s : State) (base : Nat) (r : ShardRec) : List Byte :=
  leBytes 2 r.shard ++ leBytes 1 (r.poison.toNat + 2 * r.banked.toNat) ++ List.replicate 5 0 ++ leBytes 8 r.skey ++ leBytes 8 r.ngran ++ leBytes 8 r.data ++ leBytes 8 r.dlist ++
  leBytes 8 r.src ++ leBytes 8 r.boff ++ shardDigest s r.skey (base + r.data) r.ngran ++ List.replicate 24 0

/-- The digest lists written, then the directory; false where a write fails. -/
def writeDigests (base : Nat) (l : List ShardRec) (s : State) : Bool × State :=
  let w := l.foldl (fun x r => if x.1 then pltWrite (granule * (base + r.dlist)) (granDigests x.2 (base + r.data) r.ngran) (pltUse (granule * (base + r.data)) (granule * r.ngran) x.2) else x) (true, s)
  if w.1 then
    let d := l.flatMap (dirEntry w.2 base)
    let v := pltWrite (granule * (base + 1)) (d ++ List.replicate (granule - d.length) 0) w.2
    (v.1, v.2.modPlate (fun p => { p with dirdig := sha384 d }))
  else w

/-- The host limb's signer is busy with a quote that came first (R814). -/
def quoteSigns (s : State) : Bool := s.flag 0xF000 3 && s.fld 0xF000 11 8 == 2 && !s.boot.quoteWait

/-- DIGEST_DONE: SIGN begins (R590 to R592, R595, R600). -/
def execDigestDone (s : State) : Res :=
  if pltPhase s = 3 ∧ pltCmd s = 0 ∧ pltStopped s = false then
    let r := writeDigests (slotBase s false (s.fld rPltStat 15 12)) s.plate.shards s
    if r.1 then .next ((r.2.setFld rPltStat 3 0 4).modPlate (fun p => { p with signWait := s.flag rPltCfg 2 && quoteSigns s }))
    else .next (plateEnd 2 r.2)
  else .next s

/-- The first 256 bytes of the header (R584). -/
def headerBytes (s : State) : List Byte :=
  let p := s.plate
  leBytes 4 0x4C50575A ++ leBytes 1 1 ++ leBytes 1 (1 + 2 * (s.flag rPltCfg 2).toNat + 4 * (p.shards.any (·.poison)).toNat) ++ leBytes 2 p.shards.length ++
  leBytes 4 (s.fld rPltSeq 31 0) ++ leBytes 2 p.hModule ++ leBytes 2 p.hK ++ leBytes 8 p.hStep.toNat ++ leBytes 8 p.hTime.toNat ++ leBytes 8 (usedGran p.shards) ++
  List.replicate 8 0 ++ p.dirdig ++ List.replicate 160 0

/-- SIGN_DONE: the header is written COMPLETE and the TAKEN record is posted (R584, R595, R811); a waiting quote then has the signer (R814). -/
def execSignDone (s : State) : Res :=
  if pltPhase s = 4 ∧ s.plate.signWait = false ∧ pltStopped s = false then
    let k := s.fld rPltStat 15 12
    let h := headerBytes s
    let sig := if s.flag rPltCfg 2 then Config.ecdsaSign (hostLimb s == 4) h else List.replicate 96 0
    let w := pltWrite (slotByte s false k 0) (h ++ sig ++ List.replicate (granule - 256 - sig.length) 0) s
    if w.1 then
      let t := w.2.modPlate (fun p => { p with known := tset p.known k (s.fld rPltSeq 31 0) })
      .next (plateEnd (if s.plate.shards.any (·.poison) then 1 else 0) t)
    else .next (plateEnd 2 w.2)
  else .next s

/-! ### Commands (R600 to R605, R610) -/

/-- A discarded command (R600). -/
def pltDrop (s : State) : State := s.satFld rPltStat 47 32 1

/-- A command may be taken: none runs and the plate in progress, if any, is past DIGEST (R600). -/
def pltFree (s : State) : Bool := pltCmd s == 0 && (pltPhase s == 0 || pltPhase s == 4)

/-- TAKE (R593, R600). -/
def pltTake (s : State) : State :=
  if !pltFree s then pltDrop s
  else if launched s then s.modPlate (fun p => { p with takePend := true })
  else plateTrigger s

def execTake (s : State) : Res := .next (pltTake s)

/-- The slot's header is COMPLETE and passes MAGIC, VER and DIRDIG (R605). -/
def slotGood (s : State) (rsel : Bool) (k : Nat) : Bool :=
  slotComplete s rsel k && memNat s (slotByte s rsel k 0 + 4) 1 == 1 &&
  memBytes s (slotByte s rsel k 0 + 48) 48 == sha384 (memBytes s (slotByte s rsel k 1) (128 * slotShards s rsel k))

/-- A command begins, with the status that its check gives. -/
def pltBegin (cmd : Nat) (rsel : Bool) (slot bslot shard st : Nat) (s : State) : State :=
  if !pltFree s then pltDrop s
  else ((slotUse rsel (slot % 16) (if cmd = 5 then slotUse false (bslot % 16) s else s)).setFld rPltStat 11 8 cmd).modPlate (fun p => { p with
    rsel := rsel, slot := slot % 16, bslot := bslot % 16, shard := min (shard % 1024) 257, cmdPbank := curPbank s, cmdCbank := curCbank s, cmdStatus := st })

def pltVerify (rsel : Bool) (slot shard : Nat) (s : State) : State := pltBegin 3 rsel slot 0 shard (if slotGood s rsel (slot % 16) then 0 else 9) s
/-- RESTORE is REFUSED while a step is launched, and MALFORMED for a slot whose header is bad (R605). -/
def pltRestore (rsel : Bool) (slot shard : Nat) (s : State) : State := pltBegin 4 rsel slot 0 shard (if launched s then 7 else if slotGood s rsel (slot % 16) then 0 else 9) s
def pltDelta (slot bslot : Nat) (s : State) : State :=
  pltBegin 5 false slot bslot 0x3FF (if slotGood s false (slot % 16) && slotGood s false (bslot % 16) then 0 else 9) s
def pltApply (slot : Nat) (s : State) : State := pltBegin 6 true slot 0 0x3FF 0 s
def pltMark (slot : Nat) (s : State) : State := pltBegin 7 false slot 0 0x3FF 0 s

def execVerify (rsel : Bool) (slot shard : Nat) (s : State) : Res := .next (pltVerify rsel slot shard s)
def execRestore (rsel : Bool) (slot shard : Nat) (s : State) : Res := .next (pltRestore rsel slot shard s)
def execDelta (slot bslot : Nat) (s : State) : Res := .next (pltDelta slot bslot s)
def execPlateApply (slot : Nat) (s : State) : Res := .next (pltApply slot s)
def execMark (slot : Nat) (s : State) : Res := .next (pltMark slot s)

/-- Directory entry i of a slot. -/
def dirN (s : State) (rsel : Bool) (k i : Nat) : Nat := memNat s (slotByte s rsel k 1 + 128 * i) 128
def dirField (e a n : Nat) : Nat := nbits e (8 * (a + n) - 1) (8 * a)
/-- The directory entry of a shard of a slot. -/
def findShard (s : State) (rsel : Bool) (k shard : Nat) : Option Nat :=
  ((List.range (min 512 (slotShards s rsel k))).map (dirN s rsel k)).find? (fun e => dirField e 0 2 == shard)

/-- The command in progress ends: its record, its error (R612, R613). -/
def cmdEnd (st : Nat) (dig : List Byte) (s : State) : State :=
  let c := pltCmd s
  let p := s.plate
  let s1 := ((slotUse p.rsel p.slot s).setFld rPltStat 23 20 st).setFld rPltStat 11 8 0
  let kind := c - 1
  let shard := if c = 3 ∨ c = 4 then p.shard else 0x3FF
  pltError (if st = 1 then 0 else st) (pltRecord kind st p.slot p.rsel shard (slotSeq s1 p.rsel p.slot) (wd (slotStep s1 p.rsel p.slot)) dig s1)

/-- VERIFY computes the digest of a shard; a shard that the directory does not name is REFUSED (R590, R591, R602). -/
def doVerify (s : State) : State :=
  let p := s.plate
  match findShard s p.rsel p.slot p.shard with
  | none => cmdEnd 7 [] s
  | some e =>
    let g := slotBase s p.rsel p.slot + dirField e 24 8
    if inStore g (dirField e 16 8) then cmdEnd 0 (shardDigest s (dirField e 8 8) g (dirField e 16 8)) (pltUse (granule * g) (granule * dirField e 16 8) s) else cmdEnd 9 [] s

/-- The STATE shard is restored from its granules: the counters and settings, then the cursors; true where a cursor was not written (R605). -/
def restoreState (g : Nat) (s : State) : Bool × State :=
  let a := granule * g
  let step := wd (memNat s a 8)
  let s1 := ((s.wr rStepCnt step).setFld 0x6008 63 16 (step.toNat % 2 ^ 48)).setFld 0x2000 17 16 (memNat s (a + 0x18) 1)
  let s2 := s1.wr 0x6000 (writeValue 0x6000 0 (wd (memNat s (a + 0x20) 8)))
  let s3 := forEach (List.range 8) (fun l t => (t.wr (limbBase l + 0x4010) (wd (memNat s (a + 8) 8))).wr (limbBase l + 0x4018) (wd (memNat s (a + 16) 8))) s2
  let s4 := { s3.setFld rPltStat 31 24 0 with samp := { s3.samp with held := false, last := none } }
  let recs := (List.range 8).flatMap (fun l => ((List.range 4096).filter (fun n => (memNat s (a + granule * (1 + l) + 16 * n + 8) 8).testBit 63)).map (fun n => (l, n)))
  recs.foldl (fun x r =>
    let l := r.1
    let n := r.2
    let t := x.2
    if t.fld (chanOff l n 0) 33 31 ≠ 4 ∨ chanArmed t l n = true ∨ isRunning t l n = true then (true, t)
    else (x.1, t.wr (chanOff l n 6) (wd (memNat s (a + granule * (1 + l) + 16 * n) 8)))) (false, s4)

/-- RESTORE copies a shard into place (R605). -/
def doRestore (s : State) : State :=
  let p := s.plate
  match findShard s p.rsel p.slot p.shard with
  | none => cmdEnd 7 [] s
  | some e =>
    let n := dirField e 16 8
    let g := slotBase s p.rsel p.slot + dirField e 24 8
    let dst := if p.shard = 256 then cbankBase s p.cmdCbank else dirField e 40 8 + (if (dirField e 2 1).testBit 1 then p.cmdPbank * dirField e 48 8 else 0)
    if !inStore g n || (p.shard != 257 && !inStore (dst / granule) n) then cmdEnd 9 [] s
    else
      let dig := shardDigest s (dirField e 8 8) g n
      if p.shard = 257 then
        let r := restoreState g (pltUse (granule * g) (granule * n) s)
        cmdEnd (if r.1 then 6 else 0) dig r.2
      else
        let r := copyGranules false g (dst / granule) (granule * n) n 0 s
        if r.1 then cmdEnd 0 dig r.2 else cmdEnd 2 dig r.2

/-- Shards of two slots agree in SHARD, NGRAN, DATA and DLIST. -/
def sameDirs (s : State) (a b : Nat) : Bool :=
  slotShards s false a == slotShards s false b &&
  (List.range (min 512 (slotShards s false a))).all (fun i =>
    let x := dirN s false a i
    let y := dirN s false b i
    dirField x 0 2 == dirField y 0 2 && dirField x 16 8 == dirField y 16 8 && dirField x 24 8 == dirField y 24 8 && dirField x 32 8 == dirField y 32 8)

/-- The granules of the slot that the delta image holds, rising (R603). -/
def deltaGranules (s : State) (a b : Nat) : List Nat :=
  let all := List.range (min (slotGran s) (slotUsed s false a))
  if !sameDirs s a b then all
  else
    let dirs := (List.range (min 512 (slotShards s false a))).map (dirN s false a)
    all.filter (fun g =>
      match dirs.find? (fun e => dirField e 24 8 ≤ g && g < dirField e 24 8 + dirField e 16 8) with
      | none => true
      | some e =>
        let o := granule * dirField e 32 8 + 48 * (g - dirField e 24 8)
        memBytes s (slotByte s false a 0 + o) 48 != memBytes s (slotByte s false b 0 + o) 48)

/-- The digest lists that DELTA compares. -/
def listsUse (a b : Nat) (s : State) : State :=
  if sameDirs s a b then
    forEach ((List.range (min 512 (slotShards s false a))).map (dirN s false a)) (fun e t =>
      let n := 48 * dirField e 16 8
      pltUse (slotByte s false b (dirField e 32 8)) n (pltUse (slotByte s false a (dirField e 32 8)) n t)) s
  else s

/-- The records of the image written from byte address `at_` on. -/
def writeDelta (base at_ : Nat) : List Nat → State → Bool × State
  | [], s => (true, s)
  | g :: r, s =>
    let bs := memBytes s (granule * (base + g)) granule
    let w := pltWrite at_ (leBytes 8 g ++ sha384 bs ++ List.replicate 8 0 ++ bs) (pltUse (granule * (base + g)) granule s)
    if w.1 then writeDelta base (at_ + 65600) r w.2 else w

/-- The end of DELTA: OK, or CAPACITY where a write failed. -/
def deltaEnd (w : Bool × State) : State := cmdEnd (if w.1 then 0 else 2) [] w.2

/-- DELTA (R603); an image that the store range cannot hold ends LAYOUT. -/
def doDelta (s : State) : State :=
  let p := s.plate
  let gs := deltaGranules s p.slot p.bslot
  let d := s.fld 0x7018 47 16 * granule
  let len := granule + 65600 * gs.length
  if 2 ^ 44 < d + len then cmdEnd 8 [] s
  else
    let head := leBytes 4 0x544C4544 ++ leBytes 4 (slotSeq s false p.bslot) ++ leBytes 4 (slotSeq s false p.slot) ++ leBytes 4 0 ++ leBytes 8 gs.length ++ leBytes 8 len
    let w := pltWrite d (head ++ List.replicate (granule - head.length) 0) (listsUse p.slot p.bslot s)
    deltaEnd (if w.1 then writeDelta (slotBase s false p.slot) (d + granule) gs w.2 else w)

/-- The status of a write, 0 or 2. -/
def writeStatus (w : Bool × State) : Nat × State := (if w.1 then 0 else 2, w.2)

/-- One record of a delta image at byte address a written to a received slot: 0, or the status it ends with. -/
def applyRecord (a base room : Nat) (s : State) : Nat × State :=
  let g := memNat s a 8
  let bs := memBytes s (a + 64) granule
  if room ≤ g then (9, s)
  else if memBytes s (a + 8) 48 ≠ sha384 bs then (4, pltUse a 65600 s)
  else writeStatus (pltWrite (granule * (base + g)) bs (pltUse a 65600 s))

/-- APPLY (R604). -/
def doApply (s : State) : State :=
  let p := s.plate
  let d := s.fld 0x7018 47 16 * granule
  let base := slotBase s true p.slot
  let n := memNat s (d + 16) 8
  if !(slotComplete s true p.slot && slotSeq s true p.slot == memNat s (d + 4) 4) then cmdEnd 5 [] s
  else if 2 ^ 44 < d + granule + 65600 * n ∨ inStore base (slotGran s) = false then cmdEnd 9 [] s
  else
    let recs := (List.range n).map (fun i => d + granule + 65600 * i)
    let order := recs.filter (fun a => memNat s a 8 != 0) ++ recs.filter (fun a => memNat s a 8 == 0)
    let r := order.foldl (fun x a => if x.1 = 0 then applyRecord a base (slotGran s) x.2 else x) (0, pltZero base (pltUse d 64 s))
    cmdEnd r.1 [] (if r.1 = 0 then r.2 else pltZero base r.2)

/-- MARK: the slot is mirrored (R610). -/
def doMark (s : State) : State :=
  let k := s.plate.slot
  let s1 := s.modPlate (fun p => { p with marked := tset p.marked k (slotSeq s false k) })
  cmdEnd 0 [] (s1.setFld rPltSeq 63 32 (((newest s1.plate.marked).map (·.2)).getD 0))

/-- PLATE_COMMAND_DONE: the running command has its effect and ends; it waits through SNAP and COPY (R600). -/
def execPlateCommandDone (s : State) : Res :=
  if pltCmd s = 0 ∨ pltPhase s = 1 ∨ pltPhase s = 2 ∨ pltStopped s = true then .next s
  else if s.plate.cmdStatus ≠ 0 then .next (cmdEnd s.plate.cmdStatus [] s)
  else .next (match pltCmd s with
    | 3 => doVerify s
    | 4 => doRestore s
    | 5 => doDelta s
    | 6 => doApply s
    | _ => doMark s)

/-- CANCEL ends the plate in progress, else the running command (R599, R610). -/
def pltCancel (s : State) : State :=
  if pltPhase s ≠ 0 then plateEnd 3 s else if pltCmd s ≠ 0 then cmdEnd 3 [] s else s

def execPlateCancel (s : State) : Res := .next (pltCancel s)

/-- A write of PLT_CFG, PLT_BASE, PLT_RBASE or PLT_DBASE: the engine reads the slots again (R611). -/
def pltConfigWrite (off : Nat) (v : Word) (s : State) : State := learnSlots (plainWrite s off v)

def execPlateConfigWrite (off : Nat) (value : Word) (s : State) : Res :=
  .next (if off = 0x7000 ∨ off = 0x7008 ∨ off = 0x7010 ∨ off = 0x7018 then pltConfigWrite off value s else s)

/-- A register write of PLT_CMD (R610). -/
def pltCmdWrite (v : Word) (s : State) : State :=
  let rsel := bit v 59
  let slot := bits v 55 52
  let bslot := bits v 51 48
  let shard := bits v 41 32
  match bits v 63 60 with
  | 1 => pltTake s
  | 2 => pltCancel s
  | 3 => pltVerify rsel slot shard s
  | 4 => pltRestore rsel slot shard s
  | 5 => pltDelta slot bslot s
  | 6 => pltApply slot s
  | 7 => pltMark slot s
  | _ => s

end Sys2Proof.Machine
end

