-- ==== Sys2Proof/Machine/Update.lean ====
section
/-! DEFINITION. The update engine: U-programs over planes (R528 to R544, R549), the outcome of a step (R282, R283, R551, R555), directed slots (R562 to R566), the sweep and its records (R559), the Seeing monitor (R567 to R570), the control bank and recipe states (R294 to R297, R533, R556, R557), COMMIT and INIT (R534 to R537). -/

namespace Sys2Proof.Machine

def rUpdStat : Nat := 0x6018
def rUpdDirctl : Nat := 0x6040
def rUpdLstat (l : Nat) : Nat := limbBase l + 0x4000
/-- UPD_STAT.OUTCOME: 0 undecided, 1 apply, 2 skip, 3 failed. -/
def outcome (s : State) : Nat := s.fld rUpdStat 2 0
/-- The limbs whose logic domain is ON. -/
def onLimbs (s : State) : List Nat := (List.range 8).filter (limbOn s)
/-- Clipping of the step is lagged (R550). -/
def lagged (s : State) : Bool := bit s.samp.cfg 32

/-! ### The end of a limb's sweep (R559) -/

/-- A limb's engine ends: its SWEEP, its completion record, and for status 2 and 4 its contained error; the last one ends UPDATE (R738). -/
def sweepEnd (l st g : Nat) (s : State) : State :=
  let s1 := s.setFld (rUpdLstat l) 2 0 (if st = 0 then 3 else if st = 1 then 4 else 5)
  let s2 := post 3 0xFF [wd ((stepCnt s).toNat % 2 ^ 16 * 2 ^ 48 + l * 2 ^ 45 + st * 2 ^ 42 + g % 1024 * 2 ^ 32), wd (s.fld (rUpdLstat l) 63 32), sidereal s, 0] s1
  let s3 := if st = 2 ∨ st = 4 then raise (domLimb l) 2 8 (0x250 + st) (wd g) s2 else s2
  if (onLimbs s3).all (fun k => 3 ≤ sweepOf s3 k) then modSpanEnd 2 s3 else s3

/-- Every limb ON that has not ended ends with a status. -/
def sweepEndAll (st g : Nat) (s : State) : State :=
  forEach ((onLimbs s).filter (fun l => sweepOf s l < 3)) (fun l t => sweepEnd l st g t) s

/-- An engine fails: the step's outcome becomes failed, and the other engines end too (R555, R559). -/
def engineFail (l g : Nat) (s : State) : State :=
  sweepEndAll 3 0x3FF (sweepEnd l 4 g (if outcome s < 2 then s.setFld rUpdStat 2 0 3 else s))

/-! ### Planes (R528, R530, R541, R542, R544) -/

/-- A plane's block: address, format (M2 block-factored: `bf`), scale address, recipe and micro-batch index of its conversion. -/
structure PlaneLoc where
  addr : Nat
  fmt : Nat
  bf : Bool
  scale : Option Nat
  recipe : Nat
  mb : Nat
  deriving DecidableEq, Repr

/-- Where plane pl of block b lies in bank k; none where the segment lacks it. -/
def planeLoc (sg h pl b k : Nat) : Option PlaneLoc :=
  let j := b - sgFirst sg
  let off := k * sgBase sg 7
  let moment := fun (f base mb : Nat) => match f with
    | 0 => (none : Option PlaneLoc)
    | 1 => some ⟨base + off + 128 * j, 8, false, none, 0, mb⟩
    | 2 => some ⟨base + off + 64 * j, 6, false, none, 0, mb⟩
    | 3 => some ⟨base + off + 32 * j, 3, false, some (base + off + (32 * sgCount sg + 63) / 64 * 64 + j), sgMrec sg, mb⟩
    | _ => some ⟨base + off + 4 * j, 8, true, none, 0, mb⟩
  match pl with
  | 0 => some ⟨pDst h + b * 4 * fmtBits (pOut h), pOut h, false, none, 0, 0⟩
  | 1 => some ⟨sgBase sg 2 + off + 128 * j, 8, false, none, 0, 0⟩
  | 2 => moment (sgM1f sg) (sgBase sg 3) 0xFFFC
  | 3 => moment (sgM2f sg) (sgBase sg 4) 0xFFFB
  | _ =>
    let f := sgCfmt sg
    if 8 ≤ f then none
    else some ⟨sgBase sg 5 + off + b * 4 * fmtBits f, f, false, if f ≤ 5 then some (sgBase sg 6 + off + b) else none, sgCrec sg, 0xFFFD⟩

/-- The granules that hold bytes of the store range take the ELEM of a plane; what is no plane leaves ELEM (R530). -/
def takeElem (a n : Nat) (elem : Option Nat) (s : State) : State :=
  match placeOf a, elem with
  | .store b, some elem => if n = 0 then s else forEach ((List.range ((b + n - 1) / granule + 1 - b / granule)).map (· + b / granule)) (fun g t => t.setEntry g (setBits (t.entry g) 57 56 elem)) s
  | _, _ => s

/-- ELEM of a format (R530). -/
def elemOf (fmt : Nat) : Nat := if fmt = 8 then 2 else if fmt = 6 ∨ fmt = 7 then 1 else 0

/-- An engine's read: the bytes, or none where the access fails or a word is poisoned (R555); one still to be answered gives none, and the command waits (`withReads`). -/
def engRead (l a n : Nat) (s : State) : Option (List Byte) × State :=
  let r := modRead l a n s
  (if r.1 = 0 ∧ r.2.1.all (fun b => !b.2) = true then some (r.2.1.map (·.1)) else none, r.2.2)

/-- An engine's write, and whether it succeeded. -/
def engWrite (l a : Nat) (elem : Option Nat) (bs : List Byte) (s : State) : Bool × State :=
  let w := modWrite l postedTag 1 a (bs.map (fun b => (b, false))) (takeElem a bs.length elem s)
  (w.1 == 0, w.2)

/-- ULD: the 32 lanes of a block as FP32 codes (R541, R544). -/
def uload (l sg h pl b k : Nat) (s : State) : Option (List Nat) × State :=
  match planeLoc sg h pl b k with
  | none => (some (List.replicate 32 0), s)
  | some p =>
    if p.bf then
      let r := engRead l p.addr 4 s
      (r.1.map (fun bs => List.replicate 32 (leNat bs)), r.2)
    else
      let r := engRead l p.addr (4 * fmtBits p.fmt) s
      let codes := r.1.map (unpackCodes (fmtBits p.fmt) 32)
      match p.scale with
      | none => (codes.map (fun cs => cs.map (fun c => if p.fmt = 8 then c else fpConv p.fmt 8 true c)), r.2)
      | some a =>
        let q := engRead l a 1 r.2
        (codes.bind (fun cs => q.1.map (fun sc => cs.map (fun c => codeOf 8 true (some (rawVal p.fmt (leNat sc) c))))), q.2)

/-- UST: a block stored in the plane's format, with its observation (R542, R544). -/
def ustore (l sg h pl b k : Nat) (x : List Nat) (s : State) : Bool × State :=
  match planeLoc sg h pl b k with
  | none => (true, s)
  | some p =>
    if p.bf then engWrite l p.addr (some 2) (leBytes 4 (x.getD 0 0)) s
    else if p.fmt = 8 then engWrite l p.addr (some 2) (packCodes 32 x) s
    else
      let code := recipeCode s p.recipe
      let md := fun (e : Nat) =>
        if p.scale.isSome && recipeSr s l p.recipe then .sr (sgBits (limbKey s l) (stepCnt s).toNat p.mb (pTensor h) ((pElem0 h + 32 * b) / 32 % 2 ^ 36) e) else RMode.rne
      let es := (List.range 32).map (fun e => limbConv p.fmt code (md e) (decodeFl 8 (x.getD e 0)))
      let w1 := engWrite l p.addr (some (elemOf p.fmt)) (packCodes (fmtBits p.fmt) (es.map (·.1))) (if p.fmt ≤ 5 then codeUse l p.recipe s else s)
      match p.scale with
      | none => w1
      | some a =>
        let w2 := engWrite l a (some 0) [BitVec.ofNat 8 code] w1.2
        (w1.1 && w2.1, observe l true p.recipe (es.foldl (fun o e => obsMerge o e.2) 0) w2.2)

/-! ### U-programs (R538 to R540, R549) -/

/-- A program as it runs on one block: block registers, W as loaded and as stored, and whether every access succeeded. -/
structure UBlk where
  r : List (List Nat)
  w0 : Option (List Nat)
  w1 : Option (List Nat)
  ok : Bool
  deriving DecidableEq, Repr

/-- Each lane of a source. -/
def lanes (f : Nat → Nat) : List Nat := (List.range 32).map f
/-- The exact sum of a block's lanes rounded once, times 2^-5 (UMEAN). -/
def umean (x : List Nat) : Nat :=
  fpMul 8 true (fpOp 8 true x (fun v => v.tail.foldl (fun a y => a.bind (fun z => addFl z y)) v.head?)) 0x3D000000
/-- USGN. -/
def usgn (c : Nat) : Nat := if magOf 8 c = 0 ∨ isNaN 8 c = true then c else withSign 8 (signOf 8 c) one32

/-- One U-instruction on one block (R539). -/
def uInstr (l sg h b : Nat) (ks : List Nat) (x : UBlk × State) (w : Word) : UBlk × State :=
  if !x.1.ok then x
  else
    let u := x.1
    let s := x.2
    let ud := bits w 57 54
    let a := u.r.getD (bits w 53 50) []
    let c := u.r.getD (bits w 49 46) []
    let d := u.r.getD (bits w 45 42) []
    let k := ks.getD (bits w 41 37) 0
    let pl := bits w 36 34
    let at_ := fun (v : List Nat) (i : Nat) => v.getD i 0
    let put := fun (v : List Nat) => ({ u with r := u.r.set ud v }, s)
    match bits w 63 58 with
    | 0x01 =>
      let r := uload l sg h pl b s.samp.pbank s
      (match r.1 with
       | some v => ({ u with r := u.r.set ud v, w0 := if pl = 1 then some v else u.w0 }, r.2)
       | none => ({ u with ok := false }, r.2))
    | 0x02 =>
      let r := ustore l sg h pl b (1 - s.samp.pbank) a s
      ({ u with ok := r.1, w1 := if pl = 1 then some a else u.w1 }, r.2)
    | 0x03 => put (lanes (fun i => fpAdd 8 true (at_ a i) (at_ c i)))
    | 0x04 => put (lanes (fun i => fpSub 8 true (at_ a i) (at_ c i)))
    | 0x05 => put (lanes (fun i => fpMul 8 true (at_ a i) (at_ c i)))
    | 0x06 => put (lanes (fun i => fpFma 8 true (at_ a i) (at_ c i) (at_ d i)))
    | 0x07 => put (lanes (fun i => fpDiv 8 true (at_ a i) (at_ c i)))
    | 0x08 => put (lanes (fun i => fpSqrt 8 true (at_ a i)))
    | 0x09 => put (lanes (fun i => fpMin 8 true false (at_ a i) (at_ c i)))
    | 0x0A => put (lanes (fun i => fpMin 8 true true (at_ a i) (at_ c i)))
    | 0x0B => put (lanes (fun i => magOf 8 (at_ a i)))
    | 0x0C => put (lanes (fun i => usgn (at_ a i)))
    | 0x0D => put (lanes (fun _ => k))
    | 0x0E => put (lanes (fun i => fpMul 8 true (at_ a i) k))
    | 0x0F => put (lanes (fun i => fpFma 8 true (at_ a i) k (at_ c i)))
    | 0x10 => put (lanes (fun _ => umean a))
    | _ => x

/-- What the block registers hold before a program has written them: open values. -/
def freshRegs (s : State) : List (List Nat) :=
  (List.range 16).map (fun r => (List.range 32).map (fun i => (Config.freeValue (s.draws + 32 * r + i)).toNat % 2 ^ 32))

/-- The exact squares that a block adds to its group's sums (R567). -/
def seeBlock (w0 w1 : List Nat) (x : See) : See :=
  (List.range 32).foldl (fun y i =>
    match decodeFl 8 (w0.getD i 0), decodeFl 8 (w1.getD i 0) with
    | .fin n m e, .fin n1 m1 e1 =>
      (match addFin n1 m1 e1 (!n) m e with
       | .fin _ dm de => { y with w := y.w + m * m * 2 ^ (2 * e + 320).toNat, u := y.u + dm * dm * 2 ^ (2 * de + 320).toNat, n := y.n + 1 }
       | _ => y)
    | _, _ => { y with nonfin := y.nonfin + 1 }) x

/-- A program runs on block b of a segment: the state, and whether every access succeeded. -/
def uBlock (l sg h g b : Nat) (prog : List Word) (ks : List Nat) (s : State) : Bool × State :=
  let r := prog.foldl (uInstr l sg h b ks) (⟨freshRegs s, none, none, true⟩, { s with draws := s.draws + 512 })
  let w := match r.1.w0 with | some w => some w | none => (uload l sg h 1 b s.samp.pbank r.2).1
  match w with
  | some w0 => (r.1.ok, { r.2 with step := { r.2.step with see := tset r.2.step.see g (seeBlock w0 (r.1.w1.getD w0) (tget See.reset r.2.step.see g)) } })
  | none => (r.1.ok, r.2)

/-- The blocks of a segment that this module updates: from, up to (R529). -/
def segShare (sg h : Nat) : Nat × Nat :=
  let sh := share h (pSelf h)
  (max (sgFirst sg) sh.1, min (sgFirst sg + sgCount sg) sh.2)

/-- The program of a segment, where the segment, its plan, group and program are in use (R527, R547). -/
def segProg (s : State) (l k : Nat) : Option (List Word) :=
  let sg := segN s l k
  let ge := groupN s l (sgGroup sg)
  if sgEn sg && pKind (planN s l (sgPlan sg)) == 0 && gEn ge then uProgram s l (gProg ge) else none

/-- Blocks of a segment that the sweep has processed. -/
def swept (s : State) (l k : Nat) : Nat := tget 0 (s.limb l).sweptBlocks k

/-- An owned block of the current run is complete (R509): its MBCSUM is NMB. -/
def ownedComplete (l n b : Nat) (s : State) : Bool × State :=
  let h := planN s l n
  let r := modRead l (pAbase h + ownBytes * (b - (share h (pSelf h)).1)) 8 s
  ((ownParse (s.plan l n).tag (r.2.1.map (·.1) ++ List.replicate (ownBytes - 8) 0)).mbcsum == pNmb h, r.2.2)

/-- Blocks in order while they are complete. -/
def completeBlocks (l n : Nat) : List Nat → State → List Nat × State
  | [], s => ([], s)
  | b :: r, s =>
    let x := ownedComplete l n b s
    if x.1 then (let y := completeBlocks l n r x.2; (b :: y.1, y.2)) else ([], x.2)

/-- The next blocks of a segment, at most 8, in ascending b; in lagged clipping those that are complete (R549, R553). -/
def nextBlocks (l k : Nat) (s : State) : List Nat × State :=
  let sg := segN s l k
  let n := sgPlan sg
  let sh := segShare sg (planN s l n)
  let from_ := sh.1 + swept s l k
  let bs := (List.range (min 8 (sh.2 - from_))).map (· + from_)
  if lagged s then completeBlocks l n bs s else (bs, s)

/-- Blocks in order until an access fails. -/
def runBlocks (l sg h g : Nat) (prog : List Word) (ks : List Nat) : List Nat → State → Bool × State
  | [], s => (true, s)
  | b :: r, s =>
    let x := uBlock l sg h g b prog ks s
    if x.1 then runBlocks l sg h g prog ks r x.2 else x

/-- A batch of a segment's blocks runs (R549, R553, R555). -/
def uBatch (l k : Nat) (s : State) : State :=
  if !launched s || sweepOf s l != 2 || limbHeld s l then s
  else match segProg s l k with
    | some prog =>
      let nb := nextBlocks l k s
      if nb.1.isEmpty then nb.2
      else
        let sg := segN s l k
        let g := sgGroup sg
        let x := runBlocks l sg (planN s l (sgPlan sg)) g prog (groupK s l g) nb.1 nb.2
        if x.1 then
          (x.2.setFld (rUpdLstat l) 63 32 (s.fld (rUpdLstat l) 63 32 + nb.1.length)).modLimb l (fun m => { m with
            sweptBlocks := tset m.sweptBlocks k (tget 0 m.sweptBlocks k + nb.1.length) })
        else engineFail l g x.2
    | none => s

/-- U_PROGRAM_BATCH. -/
def execUProgramBatch (l : LimbId) (seg : Nat) (s : State) : Res := .next (withReads (uBatch l.val (seg % 4096)) s)

/-- Every block that a limb updates has been processed. -/
def sweepDone (s : State) (l : Nat) : Bool :=
  (List.range 4096).all (fun k => (segProg s l k).isNone || (let sh := segShare (segN s l k) (planN s l (sgPlan (segN s l k))); sh.2 - sh.1 ≤ swept s l k))

/-- SWEEP_COMPLETE (R559): a running sweep of a held limb ends with ERROR (R617). -/
def execSweepComplete (l : LimbId) (s : State) : Res :=
  if launched s && sweepOf s l.val == 2 then
    (if limbHeld s l.val then .next (engineFail l.val 0x3FF s) else if sweepDone s l.val then .next (sweepEnd l.val 0 0x3FF s) else .next s)
  else .next s

/-! ### The outcome (R282, R283, R551, R555) -/

/-- Why the step is skipped, with the lowest-numbered recipe (R282, R283): 0 non-finite OR, 1 NF, 2 SAT. Only runs that ended OK count. -/
def skipCause (s : State) : Option (Nat × Nat) :=
  let obs := if s.step.obsG = some 0 then s.obs.redG else []
  let first := fun (i : Nat) => (obs.find? (fun p => p.2.testBit i)).map (·.1)
  if s.step.scalar = some 0 ∧ s.flag 0x5060 16 = true then some (0, 0xFFF)
  else match first 15 with
    | some n => some (1, n)
    | none => if s.samp.policy = 0 then none else (first 14).map (fun n => (2, n))

/-- STEP_OUTCOME_DECISION (R555). -/
def execStepOutcomeDecision (s : State) : Res :=
  if !launched s || outcome s != 0 || s.step.obsG.isNone || s.step.scalar.isNone then .next s
  else
    let s1 := modSpan 2 s
    match skipCause s with
    | some (c, r) =>
      let org := if c = 0 then s.fld 0x5060 15 0 else 0xFFFF
      let s2 := nlogEvent 3 0x1001 0 (wd (s.samp.policy + c * 2 ^ 8 + r * 2 ^ 16 + org * 2 ^ 32)) 0 (s1.setFld rUpdStat 2 0 2)
      .next { sweepEndAll 1 0x3FF s2 with obs := { s.obs with u := [] } }
    | none =>
      if s.step.obsG ≠ some 0 ∨ s.step.scalar ≠ some 0 ∨ s.step.rsFail = true then
        .next { sweepEndAll 3 0x3FF (s1.setFld rUpdStat 2 0 3) with obs := { s.obs with u := [] } }
      else .next (s1.setFld rUpdStat 2 0 1)

/-! ### Directed slots and update start (R547, R562 to R566) -/

def rUpdDir (i : Nat) : Nat := 0x6200 + 8 * i
/-- The slots that enabled directed groups name. -/
def slotsNamed (s : State) : List Nat :=
  let l := hostLimb s
  (((enabledGroups s l).filter (fun g => gDir (groupN s l g))).map (fun g => gDslot (groupN s l g))).eraseDups
/-- Slot i is latched for the current step. -/
def slotLatched (s : State) (i : Nat) : Bool :=
  match tfind s.step.dirLat i with
  | some w => bits w 31 0 == (stepCnt s).toNat % 2 ^ 32
  | none => false
/-- A value is finite and not negative. -/
def goodStep (c : Nat) : Bool := (match decodeFl 8 c with | .fin n m _ => !n || m == 0 | _ => false)

/-- A slot with the right tag latches, or counts a bad value (R563). -/
def tryLatch (i : Nat) (s : State) : State :=
  let w := s.rd (rUpdDir i)
  if slotLatched s i ∨ bits w 31 0 ≠ (stepCnt s).toNat % 2 ^ 32 then s
  else if goodStep (bits w 63 32) then { s.setFld 0x6048 i i 1 with step := { s.step with dirLat := tset s.step.dirLat i w } }
  else s.satFld rUpdDirctl 47 32 1

/-- The sweeps that wait go on once every slot is latched. -/
def sweepGo (s : State) : State :=
  if s.step.updStarted && (slotsNamed s).all (slotLatched s) && outcome s < 2 then
    forEach ((onLimbs s).filter (fun l => sweepOf s l == 1)) (fun l t => t.setFld (rUpdLstat l) 2 0 2) s
  else s

/-- Groups whose program is disabled are recorded, one deferred error for each and each limb (R547). -/
def offGroups (l : Nat) (s : State) : State :=
  forEach ((enabledGroups s l).filter (fun g => (uProgram s l (gProg (groupN s l g))).isNone)) (fun g t =>
    if t.step.offGroups.contains (1024 * l + g) then t
    else raise (domLimb l) 1 8 0x0250 (wd g) { t with step := { t.step with offGroups := t.step.offGroups ++ [1024 * l + g] } }) s

/-- Update start may come: outcome apply, or in lagged clipping the first owned block complete (R553, R563). -/
def updateReady (s : State) : Bool :=
  launched s && !s.step.updStarted && (outcome s == 1 || (lagged s && outcome s == 0 && s.plans.any (fun p => p.2.running && 0 < p.2.done)))

/-- UPDATE_START (R563). -/
def execUpdateStart (s : State) : Res :=
  if updateReady s then
    let s1 := { s with step := { s.step with updStarted := true, updAt := sidereal s } }
    .next (sweepGo (forEach (slotsNamed s1) tryLatch (forEach (onLimbs s1) offGroups s1)))
  else .next s

/-- A host write to slot i (R562, R563, R565). -/
def dirWrite (i : Nat) (v : Word) (s : State) : State :=
  if slotLatched s i && bits v 31 0 == (stepCnt s).toNat % 2 ^ 32 then s.satFld rUpdDirctl 63 48 1
  else
    let s1 := s.wr (rUpdDir i) v
    if s.step.updStarted && launched s && (slotsNamed s).contains i then sweepGo (tryLatch i s1) else s1

def execDirectedSlotWrite (slot : Nat) (value : Word) (s : State) : Res := .next (dirWrite (slot % 64) value s)

/-- DIRECTED_DEADLINE (R564). -/
def execDirectedDeadline (s : State) : Res :=
  let open_ := (slotsNamed s).filter (fun i => !slotLatched s i)
  let lim := max 1 (s.fld rUpdDirctl 15 0) * 1000
  if launched s && s.step.updStarted && outcome s < 2 && !open_.isEmpty && lim ≤ (sidereal s - s.step.updAt).toNat then
    let l := hostLimb s
    let g := ((enabledGroups s l).find? (fun g => gDir (groupN s l g) && open_.contains (gDslot (groupN s l g)))).getD 0x3FF
    .next (sweepEndAll 2 g ((s.setFld rUpdStat 2 0 3).satFld rUpdStat 47 32 1))
  else .next s

/-! ### Recipe states (R294 to R297) -/

/-- EMAX of a format (R296). -/
def emaxOf (f : Nat) : Nat := [2, 2, 4, 8, 15, 6].getD f 6
/-- Recipe entry n as one number (R284, R285). -/
def recipeN (s : State) (n : Nat) : Nat := wordsN (engWords s (hostLimb s) 1 (16 * n) 2)
/-- Byte i of an entry. -/
def nbyte (e i : Nat) : Nat := nbits e (8 * i + 7) (8 * i)
/-- A code clamped under R295: MAXC first, MINC second. -/
def clampCode (e : Nat) (c : Int) : Nat := (max (min c (nbyte e 5)) (nbyte e 4)).toNat

/-- The state for the next step of a recipe with entry e, state bytes st and observation o (R295). -/
def recipeNext (e : Nat) (st : List Byte) (o : Nat) (skip : Bool) : List Byte :=
  let v := leNat st
  let kind := nbits e 2 0
  let up := o.testBit 15 || o.testBit 14 || (skip && (kind == 2 || kind == 3))
  let hist := max 1 (min 16 (nbyte e 10))
  let code := nbyte v 0
  let head := nbyte v 1
  let fill := nbyte v 2
  let clean := nbits v 47 32
  let ring := (List.range 16).map (fun i => nbyte v (8 + i))
  let raises := if up then min (nbits v 63 48 + 1) 0xFFFF else nbits v 63 48
  let form := fun (c : Int) (head fill clean : Nat) (ring : List Nat) =>
    leBytes 1 (clampCode e c) ++ leBytes 1 head ++ leBytes 1 fill ++ leBytes 1 (nbyte v 3) ++ leBytes 2 clean ++ leBytes 2 raises ++ ring.map (BitVec.ofNat 8) ++ st.drop 24
  match nbyte e 2 with
  | 0 => form (nbyte e 3) head fill clean ring
  | 1 =>
    if up then form (code + nbyte e 6) head fill 0 ring
    else if max 1 (nbits e 79 64) ≤ clean + 1 then form ((code : Int) - nbyte e 7) head fill 0 ring
    else form code head fill (clean + 1) ring
  | _ =>
    let push := o % 256 ≠ 0
    let ring1 := if push then ring.set head (o % 256) else ring
    let head1 := if push then (head + 1) % hist else head
    let fill1 := if push then min (fill + 1) hist else fill
    let pk := (ring1.take fill1).foldl max 0
    let c : Int := if pk = 0 then code else (pk : Int) - emaxOf (nbyte e 1) + nbyte e 11
    form (if up then max c (code + nbyte e 6) else c) head1 fill1 clean ring1

/-- The initial state of a recipe (R297). -/
def recipeInit (e : Nat) : List Byte := leBytes 1 (clampCode e (nbyte e 3)) ++ List.replicate 31 0

/-! ### The Seeing monitor (R567 to R570) -/

/-- A group's ratio (R568). -/
def seeRatio (x : See) : Nat := if x.w = 0 then (if x.u = 0 then 0 else 0x7F800000) else crFl (some (sqrtRatio x.u x.w))
/-- A group's band: 0 INSIDE, 1 BELOW, 2 ABOVE (R568). -/
def seeBand (e : Nat) (ratio : Nat) : Nat := if fpCmp 8 true 2 ratio (gSeeLo e) then 1 else if fpCmp 8 true 4 ratio (gSeeHi e) then 2 else 0

/-- A Seeing record of 192 bytes (R570). -/
def seeRecord (apply : Bool) (band : Nat) (x : See) (step : Nat) : List Byte :=
  leBytes 4 (if apply then seeRatio x else 0) ++ leBytes 1 band ++ leBytes 1 (if apply then 1 else 2) ++ leBytes 2 0 ++
  leBytes 8 x.n ++ leBytes 8 x.nonfin ++ leBytes 80 x.u ++ leBytes 80 x.w ++ leBytes 8 step

/-! ### The control bank (R533, R554, R556, R557) -/

/-- Bytes of a control bank. -/
def bankBytes : Nat := 0x28440
/-- Bytes [off, off + n) of a bank. -/
def cut (bs : List Byte) (off n : Nat) : List Byte := (bs.drop off).take n

/-- Group state after an applied step. -/
def groupState (s : State) (g : Nat) : List Byte :=
  let l := hostLimb s
  let e := groupN s l g
  let p := newP s e g
  leBytes 8 (min (gsS s g + 1) (2 ^ 64 - 1)) ++ leBytes 4 p.1 ++ leBytes 4 p.2 ++ leBytes 4 (groupLr s l g) ++
  leBytes 1 (seeBand e (seeRatio (tget See.reset s.step.see g))) ++ List.replicate 11 0

/-- A directed slot after an applied step: the latched value, or the register unused (R566). -/
def slotState (s : State) (i : Nat) : List Byte :=
  let w := if slotLatched s i then tget 0 s.step.dirLat i else s.rd (rUpdDir i)
  leBytes 4 (bits w 63 32) ++ leBytes 4 (bits w 31 0) ++ leBytes 1 (slotLatched s i).toNat ++ List.replicate 7 0

/-- The bytes of the alternate control bank from those of the current one. -/
def nextBank (s : State) (apply : Bool) (old : List Byte) : List Byte :=
  let obs := if apply then obsJoin s.obs.redG s.obs.redU else s.obs.redG
  let on := enabledGroups s (hostLimb s)
  (List.range 4096).flatMap (fun n => recipeNext (recipeN s n) (cut old (32 * n) 32) (tget 0 obs n) (!apply)) ++
  (List.range 1024).flatMap (fun g => if apply && on.contains g then groupState s g else cut old (0x20000 + 32 * g) 32) ++
  (List.range 64).flatMap (fun i => if apply then slotState s i else cut old (0x28000 + 16 * i) 16) ++
  leBytes 8 (stepCnt s).toNat ++ leBytes 8 (s.rd 0x6020).toNat ++ leBytes 4 (s.fld 0x6028 31 0) ++
  leBytes 4 (if apply then s.fld 0x6028 31 0 else leNat (cut old (0x28400 + 20) 4)) ++ leBytes 1 (outcome s) ++ List.replicate 39 0

/-- One group's Seeing record and band event (R569, R570). -/
def seeWrite (apply : Bool) (g : Nat) (x : Bool × State) : Bool × State :=
  let s := x.2
  let l := hostLimb s
  let sums := if apply then tget See.reset s.step.see g else See.reset
  let band := if apply then seeBand (groupN s l g) (seeRatio sums) else gsBand s g
  let a := s.fld 0x6038 47 20 * 2 ^ 20 + (stepCnt s).toNat % 4 * 0x30000 + 192 * g
  let w := engWrite l a none (seeRecord apply band sums (stepCnt s).toNat) s
  (x.1 && w.1, if apply && band != gsBand s g then nlogEvent 3 0x1003 0 (wd (g + band * 2 ^ 16)) (wd (seeRatio sums)) w.2 else w.2)

/-- The alternate control bank and the Seeing records are written (R533, R569, R570). -/
def bankWrite (s : State) : State :=
  let apply := outcome s == 1
  if launched s && !s.step.cbWritten && (outcome s == 2 || (apply && s.step.obsU == some 0)) then
    let l := hostLimb s
    let r := engRead l (cbankBase s (curCbank s)) bankBytes s
    match r.1 with
    | none => engineFail l 0x3FF r.2
    | some old =>
      let w := engWrite l (cbankBase s (1 - curCbank s)) none (nextBank s apply old) r.2
      let x := (enabledGroups s l).foldl (fun x g => seeWrite apply g x) w
      if x.1 then { x.2 with step := { x.2.step with cbWritten := true } } else engineFail l 0x3FF x.2
  else s

/-- CONTROL_BANK_WRITE. -/
def execControlBankWrite (s : State) : Res := .next (withReads bankWrite s)

/-! ### COMMIT and INIT (R534 to R537, R597, R623) -/

/-- The conditions of a COMMIT. -/
def commitOk (s : State) (tag : Nat) : Bool :=
  launched s && tag % 65536 == (stepCnt s).toNat % 65536 && (outcome s == 1 || outcome s == 2) &&
  (onLimbs s).all (fun l => sweepOf s l == 3 || sweepOf s l == 4) && (outcome s == 2 || s.step.obsU == some 0) && s.step.cbWritten &&
  s.fld rPltStat 3 0 != 1 && s.fld rPltStat 3 0 != 2 && !anyContained s

/-- An accepted COMMIT: the records close, the banks flip, the step counter and the cursors advance, latches and held samples end, late observations carry, and a plate may be triggered (R283, R291, R449, R534, R566, R593, R739, R774, R866). -/
def commitAccept (s : State) : State :=
  let apply := outcome s == 1
  let s1 := closeRecords false s
  let n := stepCnt s + 1
  let j := s1.rd 0x6008
  let s2 := s1.wr 0x6008 (wd (bits n 47 0 * 2 ^ 16 + (1 - bits j 1 1) * 2 + (if apply then 1 - bits j 0 0 else bits j 0 0)))
  let s3 := (s2.wr rStepCnt n).setFld rHostStep 0 0 0
  let s4 := if apply then s3 else s3.satFld 0x2008 31 0 1
  let s5 := { s4 with samp := { s4.samp with held := false, last := none }, step := { s4.step with dirLat := [] }, obs := { Obs.reset with carried := s4.obs.late, gClosed := true } }
  plateAtCommit (cursorAdvance ((s5.wr 0x6048 0).setFld 0x6028 63 32 (bankLclip s5)))

/-- COMMIT (R534, R535). -/
def commit (tag : Nat) (s : State) : State :=
  if commitOk s tag then commitAccept s else raise .module 1 3 0x0310 (wd (tag % 65536)) (s.satFld rUpdStat 63 48 1)

def execCommit (steptag : Nat) (s : State) : Res := .next (commit steptag s)

/-- The bytes that INIT writes (R537). -/
def initBank (s : State) : List Byte :=
  (List.range 4096).flatMap (fun n => recipeInit (recipeN s n)) ++
  (List.range 1024).flatMap (fun _ => leBytes 8 0 ++ leBytes 4 one32 ++ leBytes 4 one32 ++ leBytes 4 0 ++ leBytes 1 3 ++ List.replicate 11 0) ++
  List.replicate 1024 0 ++ List.replicate 20 0 ++ leBytes 4 one32 ++ List.replicate 40 0

/-- INIT (R537). -/
def updInit (s : State) : State :=
  if launched s then s.satFld rUpdStat 63 48 1
  else
    let w := engWrite (hostLimb s) (cbankBase s (curCbank s)) none (initBank s) s
    w.2.setFld 0x6028 63 32 one32

def execInit (s : State) : Res := .next (updInit s)

/-- A register write of UPD_CMD (R571). -/
def updCmdWrite (v : Word) (s : State) : State :=
  match bits v 63 62 with
  | 1 => commit (bits v 15 0) s
  | 2 => updInit s
  | _ => s

/-! ### The signed optimizer library (R545, R548) -/

/-- A U-instruction word (R538). -/
def uI (op ud ua ub uc k pl : Nat) : Word := wd (op * 2 ^ 58 + ud * 2 ^ 54 + ua * 2 ^ 50 + ub * 2 ^ 46 + uc * 2 ^ 42 + k * 2 ^ 37 + pl * 2 ^ 34)
def uLd (d pl : Nat) : Word := uI 0x01 d 0 0 0 0 pl
def uSt (pl a : Nat) : Word := uI 0x02 0 a 0 0 0 pl
def u2 (op d a b : Nat) : Word := uI op d a b 0 0 0
def uK (op d a b k : Nat) : Word := uI op d a b 0 k 0
def uEnd : Word := uI 0x11 0 0 0 0 0 0

/-- PROG 0 and 3 but for the instructions that form v'. -/
def adamWith (v : List Word) : List Word :=
  [uLd 0 0, uK 0x0E 0 0 0 1, uLd 1 1, uLd 2 2, uLd 3 3, u2 0x04 4 2 0, uK 0x0F 2 4 0 8] ++ v ++
  [uSt 2 2, uSt 3 3, uK 0x0D 6 0 0 2, u2 0x07 4 2 6, uK 0x0D 7 0 0 3, u2 0x07 5 3 7, u2 0x08 5 5 0, uK 0x0D 6 0 0 10, u2 0x03 5 5 6, u2 0x07 4 4 5,
   uK 0x0F 4 1 4 11, uK 0x0E 4 4 0 0, u2 0x04 1 1 4, uSt 1 1, uSt 4 1, uEnd]

/-- PROG 0 to 3; the registers of 1 to 3 are the model's own where the manual names none. -/
def libPrograms : List (List Word) :=
  [adamWith [u2 0x05 5 0 0, u2 0x04 4 3 5, uK 0x0F 3 4 5 9],
   [uLd 0 0, uK 0x0E 0 0 0 1, uLd 1 1, uLd 2 2, u2 0x04 3 2 0, uK 0x0F 4 3 0 8, u2 0x0C 4 4 0, uK 0x0F 4 1 4 11, uK 0x0E 4 4 0 0, u2 0x04 1 1 4,
    uK 0x0F 2 3 0 9, uSt 2 2, uSt 1 1, uSt 4 1, uEnd],
   [uLd 0 0, uK 0x0E 0 0 0 1, uLd 1 1, uLd 2 2, uK 0x0F 2 2 0 8, uK 0x0F 4 1 2 11, uK 0x0E 4 4 0 0, u2 0x04 1 1 4, uSt 2 2, uSt 1 1, uSt 4 1, uEnd],
   adamWith [u2 0x05 5 0 0, u2 0x10 5 5 0, u2 0x04 4 3 5, uK 0x0F 3 4 5 9]]

/-- Program p and its words placed from `base` on in a limb's store. -/
def putPrograms (l : Nat) : Nat → Nat → List (List Word) → State → State
  | _, _, [], s => s
  | p, base, w :: r, s =>
    let s1 := setWork l (engTab 5 + 8 * p) (wd (2 ^ 63 + (w.length - 1) * 2 ^ 16 + base)) s
    putPrograms l (p + 1) (base + w.length) r ((w.zipIdx).foldl (fun t x => setWork l (engTab 6 + 8 * (base + x.2)) x.1 t) s1)

/-- The library stands in every limb (R545). -/
def loadLibrary (s : State) : State := forEach (List.range 8) (fun l t => putPrograms l 0 0 libPrograms t) s

end Sys2Proof.Machine
end

