-- ==== Sys2Proof/Machine/Boot.lean ====
section
/-! DEFINITION. Boot stages (R795 to R797), the boot flash and signed objects (R798 to R804), fuses (R806, R807), measurement registers and the log (R808 to R810), quotes (R811 to R814), the unlock of the Eyepiece port (R815 to R819), and the boot commands (R820 to R825). -/

namespace Sys2Proof.Machine

def bootStage (s : State) : Nat := s.fld rBoot 2 0
def bootBusy (s : State) : Bool := s.flag rBoot 3
/-- A key's revocation fuse (R802). -/
def revoked (s : State) (k : Nat) : Bool := s.flag 0xF020 (8 + k)
/-- The preferred-bank flag as the flash holds it. -/
def prefFlag (s : State) : Bool := s.boot.pref.getD Config.prefBank

/-! ### The flash (R798) -/

def flashByte (s : State) (bank o : Nat) : Byte := (tfind s.boot.flash (bank * 2 ^ 26 + o)).getD (Config.flashByte (bank == 1) o)
def flashBytes (s : State) (bank o n : Nat) : List Byte := (List.range n).map (fun i => flashByte s bank (o + i))
def flashNat (s : State) (bank o n : Nat) : Nat := leNat (flashBytes s bank o n)
/-- Directory entries of a bank that are not empty: KIND, offset, length. -/
def flashDir (s : State) (bank : Nat) : List (Nat × Nat × Nat) :=
  ((List.range 16).map (fun i => (flashNat s bank (16 * i) 2, flashNat s bank (16 * i + 4) 4, flashNat s bank (16 * i + 8) 8))).filter (fun e => e.1 != 0xFFFF)

/-! ### Signed objects (R800 to R804) -/

/-- Bytes [a, b] of a header as a number. -/
def hfield (h : List Byte) (a b : Nat) : Nat := leNat ((h.drop a).take (b + 1 - a))

/-- The reason that a directory entry's object is refused, 0 where it verifies: the first check of R803 that fails (R804). -/
def verifyObj (s : State) (bank : Nat) (e : Nat × Nat × Nat) : Nat :=
  let h := flashBytes s bank e.2.1 256
  let key := hfield h 6 6
  let serial := hfield h 0x18 0x1F
  if hfield h 0 3 ≠ 0x47535A44 ∨ hfield h 4 4 ≠ 1 ∨ hfield h 5 5 ≠ e.1 ∨ 6 < e.1 then 1
  else if hfield h 0x10 0x17 + 256 ≠ e.2.2 ∨ 2 ^ 26 < e.2.1 + e.2.2 then 2
  else if sha384 (flashBytes s bank (e.2.1 + 256) (hfield h 0x10 0x17)) ≠ (h.drop 0x20).take 48 then 3
  else if 3 < key ∨ revoked s key = true then 4
  else if Config.ecdsaOk key (sha384 (h.take 0x60)) ((h.drop 0x60).take 96) = false then 5
  else if hfield h 8 11 < floorOf s then 6
  else if (serial ≠ 0 ∨ e.1 = 4) ∧ serial ≠ (s.rd 0xF028).toNat then 7
  else 0

/-- An object is refused (R803, R823, R824). -/
def refuseObj (kind reason : Nat) (s : State) : State :=
  let s1 := s.satFld rBoot 55 48 1
  nlogEvent 3 0x1501 0 (wd kind) (wd reason) (raise (domLimb (hostLimb s)) 1 10 0x0701 (wd (kind + reason * 256)) s1)

/-- One bank is tried for a kind that is not taken: the first entry that names it (R799). -/
def tryBank (kind bank : Nat) (s : State) : State :=
  if (tfind s.boot.taken kind).isSome then s
  else match (flashDir s bank).find? (fun e => e.1 == kind) with
    | none => s
    | some e =>
      let r := verifyObj s bank e
      if r ≠ 0 then refuseObj kind r s
      else
        let s1 := s.modBoot (fun b => { b with taken := tset b.taken kind (bank, flashNat s bank (e.2.1 + 8) 4) })
        let s2 := s1.setFld rBoot (32 + kind) (32 + kind) bank
        if bank = prefBank s then s2 else nlogEvent 3 0x1502 0 (wd kind) 0 s2

/-- A kind is taken from the preferred bank, else from the other (R799). -/
def takeKind (kind : Nat) (s : State) : State :=
  if s.boot.tried.contains kind then s
  else
    let b := prefBank s
    (tryBank kind (1 - b) (tryBank kind b s)).modBoot (fun x => { x with tried := x.tried ++ [kind] })

/-- A kind was taken. -/
def tookKind (s : State) (kind : Nat) : Bool := (tfind s.boot.taken kind).isSome

/-- Bank and directory entry of a kind that was taken. -/
def takenEntry (s : State) (kind : Nat) : Option (Nat × Nat × Nat × Nat) :=
  match tfind s.boot.taken kind with
  | none => none
  | some (bank, _) => ((flashDir s bank).find? (fun e => e.1 == kind)).map (fun e => (bank, e))

/-! ### Measurement (R808 to R810) -/

/-- Words written from an offset up. -/
def wrWords : Nat → List Word → State → State
  | _, [], s => s
  | o, w :: r, s => wrWords (o + 8) r (s.wr o w)
/-- Log entries. -/
def logN (s : State) : Nat := s.fld rBoot 31 26

/-- MRi is extended with D, and the log takes an entry while it has room (R808, R809). -/
def extendMr (i kind svn bank : Nat) (d : List Byte) (s : State) : State :=
  let s1 := wrWords (rMr i) (bytesWords 6 (sha384 (mrBytes s i ++ d))) s
  let n := logN s
  if n < 32 then
    (wrWords (0xF800 + 64 * n) ([wd (i + kind * 256 + svn % 2 ^ 32 * 65536 + bank * 2 ^ 48)] ++ bytesWords 6 d ++ [sidereal s]) s1).setFld rBoot 31 26 (n + 1)
  else s1

/-- MRi is extended with the header of a kind that was taken. -/
def measureKind (i kind : Nat) (s : State) : State :=
  match tfind s.boot.taken kind, takenEntry s kind with
  | some (bank, svn), some e => extendMr i kind svn bank (sha384 (flashBytes s bank e.2.2.1 256)) s
  | _, _ => s

/-! ### Stages (R795, R796, R799) -/

def setStage (n : Nat) (s : State) : State := s.setFld rBoot 2 0 n

/-- The fuse block as hashed: SERIAL, FLOOR, KEYREVOKE. The manual gives no encoding. -/
def fuseBlock (s : State) : List Byte := leBytes 8 (s.rd 0xF028).toNat ++ leBytes 1 (floorOf s) ++ leBytes 1 (s.fld 0xF020 13 8)

/-- Body of a kind that was taken. -/
def kindBody (s : State) (kind o n : Nat) : List Byte :=
  match takenEntry s kind with
  | none => []
  | some e => flashBytes s e.1 (e.2.2.1 + 256 + o) n

/-- Every field's Finder table from the shipped map, or without valid entries (R695, R716, R799). -/
def loadFinders (s : State) : State :=
  if tookKind s 4 then
    let nrec := leNat (kindBody s 4 0 4)
    forEach (List.range 84) (fun f t =>
      let es := (List.range 896).map (fun i => 2 ^ 31 + leNat (kindBody s 4 (4 + 4 * nrec + 1792 * f + 2 * i) 2) % 1024)
      (finderLoad f 0 es t).2) (s.setFld 0xA028 63 32 nrec)
  else forEach (List.range 84) (fun f t => (finderLoad f 0 (List.replicate 896 0) t).2) s

/-- ACTIVE at the end of boot: every limb whose near memory passed training (R366); none without firmware (R799). -/
def bootActive (s : State) : Nat :=
  if tookKind s 0 then ((List.range 8).filter (fun l => Config.nearTrained.getLsbD l && domSt s (252 + 4 * l + 1) == 2)).foldl (fun m l => m + 2 ^ l) 0 else 0

/-- The work of a stage, and the next one (R795). Stage 2 does not end while a table is refused; stage 4 ends once BRINGUP has. -/
def stageDone (s : State) : State :=
  match bootStage s with
  | 0 => setStage 1 (extendMr 0 0xF1 0 0 (sha384 (fuseBlock s)) (extendMr 0 0xF0 0 0 Config.romDigest s))
  | 1 => setStage 2 (s.setFld rBoot 23 23 (prefFlag s).toNat)
  | 2 =>
    if [1, 2, 3].all s.boot.tried.contains then s
    else
      let s1 := takeKind 3 (takeKind 2 (takeKind 1 s))
      let s2 := measureKind 2 3 (measureKind 2 2 (measureKind 2 1 s1))
      if [1, 2, 3].all (tookKind s2) then setStage 3 (s2.setFld rDomeStat 2 0 1) else s2
  | 3 => setStage 4 (measureKind 1 0 (takeKind 0 s))
  | 4 =>
    if domeState s ≠ 2 then s
    else
      let s1 := takeKind 6 (takeKind 5 (takeKind 4 s))
      let s2 := measureKind 4 6 (measureKind 3 5 (measureKind 3 4 s1))
      let s3 := loadFinders s2
      let s4 := if tookKind s3 6 then loadLibrary s3 else s3
      capAll (setActive (bootActive s4) (setStage 5 s4))
  | _ => s

def execBootStageDone (s : State) : Res := .next (stageDone s)

/-- A limb's near-memory PHY, board PHY and port SerDes domains. -/
def phyDomain (d : Nat) : Bool := 252 ≤ d && d < 284 && (d - 252) % 4 != 0

/-- BRINGUP's sequences begin once stage 3 has verified the firmware (R662, R796); without firmware the limbs' PHY domains are left FAILED (R799). -/
def execBringup (s : State) : Res :=
  if domeState s = 1 ∧ 4 ≤ bootStage s ∧ s.pwr.jobs.all (fun j => !j.chain) = true then
    if tookKind s 0 then .next (addJobs jobsBringup s)
    else
      let s1 := forEach ((List.range 32).map (· + 252)) (fun d t => if phyDomain d then setDom d 3 t else t) s
      .next (addJobs (jobsBringup.map (fun j => { j with steps := j.steps.filter (fun p => !(p.op == 2 && phyDomain p.tgt)) })) s1)
  else .next s

/-! ### Commands (R810 to R822) -/

/-- n bytes of the mailbox. -/
def mailbox (s : State) (n : Nat) : List Byte := (wordsBytes ((List.range (ceilDiv n 8)).map (fun i => s.rd (0xF400 + 8 * i)))).take n
/-- Bytes written to the mailbox from byte 0. -/
def putMailbox (bs : List Byte) (s : State) : State :=
  let n := ceilDiv bs.length 8
  let old := mailbox s (8 * n)
  wrWords 0xF400 (bytesWords n (bs ++ old.drop bs.length)) s

/-- UNLOCK_FAILS has reached 16 (R818). -/
def unlockBarred (s : State) : Bool := 16 ≤ s.fld rBoot 63 56

/-- CHAL draws a nonce into BOOT_CHAL (R815, R818). -/
def chal (s : State) : Bool × State :=
  if unlockBarred s then (false, s)
  else
    let t := (List.range 4).foldl (fun (u : State) i => let d := u.draw; d.2.wr (0xF040 + 8 * i) d.1) s
    (true, t.modBoot (fun b => { b with nonce := true }))

/-- The nonce's bytes. -/
def nonceBytes (s : State) : List Byte := wordsBytes ((List.range 4).map (fun i => s.rd (0xF040 + 8 * i)))

/-- An unlock token is accepted (R816, R817). -/
def tokenOk (s : State) (t : List Byte) : Bool :=
  let key := hfield t 7 7
  hfield t 0 3 == 0x4B545A44 && hfield t 4 4 == 1 && hfield t 5 5 == hostLimb s && hfield t 6 6 < 4 && (key == 4 || key == 5) && !revoked s key &&
  hfield t 8 15 == (s.rd 0xF028).toNat && s.boot.nonce && (t.drop 16).take 32 == nonceBytes s && Config.ecdsaOk key (sha384 (t.take 48)) ((t.drop 48).take 96)

/-- UNLOCK with a token: true where it was accepted (R815, R817, R818). -/
def unlock (t : List Byte) (s : State) : Bool × State :=
  if unlockBarred s then (false, s)
  else
    let s1 := s.modBoot (fun b => { b with nonce := false })
    if tokenOk s t then
      let scope := hfield t 6 6
      let s2 := ((s1.setFld rBoot 21 21 1).setFld rBoot 22 22 1).setFld rBoot 25 24 scope
      (true, nlogEvent 3 0x1503 0 (wd scope) 0 (extendMr 5 0xF3 0 0 (sha384 (t.take 144)) s2))
    else
      let s2 := s1.satFld rBoot 63 56 1
      (false, nlogEvent 3 0x1505 0 (wd (s2.fld rBoot 63 56)) 0 (raise (domLimb (hostLimb s)) 1 10 0x0702 0 s2))

/-- RELOCK (R819). -/
def relock (s : State) : State := nlogEvent 3 0x1504 0 0 0 ((s.setFld rBoot 21 21 0).setFld rBoot 25 24 0)

/-- The plate in progress has the signer (R814). -/
def plateSigns (s : State) : Bool := pltPhase s == 4 && s.flag rPltCfg 2 && !s.plate.signWait

/-- A boot command is written: discarded while another runs, else it takes its operands (R822). -/
def bootBegin (cmd : Nat) (s : State) : State :=
  if bootBusy s then s.satFld rBoot 20 16 1
  else
    let s1 := ((s.setFld rBoot 11 8 cmd).setFld rBoot 3 3 1).modBoot (fun b => { b with arg := s.rd 0xF010, arg2 := s.rd 0xF018, data := mailbox s 1024, quote := [], quoteWait := cmd == 2 && plateSigns s })
    if cmd = 2 ∧ plateSigns s = false then quoteCapture s1 else s1

def execExtend (s : State) : Res := .next (bootBegin 1 s)
def execQuote (s : State) : Res := .next (bootBegin 2 s)
def execGetcert (s : State) : Res := .next (bootBegin 3 s)
def execBootChal (s : State) : Res := .next (bootBegin 4 s)
def execUnlock (s : State) : Res := .next (bootBegin 5 s)
def execRelock (s : State) : Res := .next (bootBegin 6 s)
def execFlash (s : State) : Res := .next (bootBegin 7 s)
def execSelect (s : State) : Res := .next (bootBegin 8 s)
def execRollfwd (s : State) : Res := .next (bootBegin 9 s)

/-- EXTEND: status and state (R810). -/
def doExtend (s : State) : Nat × State :=
  let i := bits s.boot.arg 2 0
  if i < 6 then (1, s) else if 32 ≤ logN s then (3, s) else (0, extendMr i 0xF2 0 0 (s.boot.data.take 48) s)

/-- QUOTE (R813). -/
def doQuote (s : State) : Nat × State := (0, putMailbox (s.boot.quote ++ Config.ecdsaSign (hostLimb s == 4) s.boot.quote) s)

/-- GETCERT (R812). -/
def doGetcert (s : State) : Nat × State :=
  let c := bits s.boot.arg 1 0
  if c = 3 then (1, s)
  else
    let bs := (Config.certificate (if c = 0 then hostLimb s else 9 + c)).take 1024
    (0, (putMailbox bs s).wr 0xF018 (wd bs.length))

/-- Every object of a bank is verified; refused ones are reported; false where any fails (R803, R820, R821). -/
def verifyBank (bank : Nat) (s : State) : Bool × State :=
  (flashDir s bank).foldl (fun x e => let r := verifyObj x.2 bank e; if r = 0 then x else (false, refuseObj e.1 r x.2)) (true, s)

/-- Bytes of the store range written to a bank from its start. -/
def writeFlash (bank a : Nat) (n : Nat) (s : State) : State :=
  s.modBoot (fun b => { b with flash := (List.range n).foldl (fun t i => tset t (bank * 2 ^ 26 + i) (memByte s (a + i))) b.flash })

/-- FLASH (R820). -/
def doFlash (s : State) : Nat × State :=
  let bank := bits s.boot.arg2 63 63
  let n := bits s.boot.arg2 25 0
  if bank = prefBank s ∨ 2 ^ 44 < s.boot.arg.toNat + n then (1, s)
  else
    let v := verifyBank bank (writeFlash bank s.boot.arg.toNat n s)
    (if v.1 then 0 else 2, v.2)

/-- SELECT (R821). -/
def doSelect (s : State) : Nat × State :=
  let bank := bits s.boot.arg 0 0
  let v := verifyBank bank s
  if v.1 then (0, nlogEvent 3 0x1507 0 (wd bank) 0 (v.2.modBoot (fun b => { b with pref := some (bank == 1) }))) else (2, v.2)

/-- ROLLFWD; fuses that do not read back leave FLOOR at an open value up to the target (R807). -/
def doRollfwd (ok : Bool) (s : State) : Nat × State :=
  let n := bits s.boot.arg 6 0
  if 64 < n ∨ n ≤ floorOf s ∨ s.boot.taken.any (fun p => p.2.2 < n) = true ∨ launched s = true then (1, s)
  else if ok then (0, nlogEvent 3 0x1506 0 (wd n) 0 (s.setFld 0xF020 6 0 n))
  else
    let d := s.draw
    let f := floorOf s + d.1.toNat % (n - floorOf s + 1)
    let s1 := d.2.setFld 0xF020 6 0 f
    (4, nlogEvent 3 0x1506 0 (wd f) 0 (raise (domLimb (hostLimb s)) 1 10 0x0703 0 s1))

/-- BOOT_COMMAND_DONE: the running command has its effect, its status is shown, and a plate that waits has the signer (R814, R822). -/
def execBootCommandDone (readbackOk : Bool) (s : State) : Res :=
  if !bootBusy s || s.boot.quoteWait then .next s
  else
    let r := match s.fld rBoot 11 8 with
      | 1 => doExtend s
      | 2 => doQuote s
      | 3 => doGetcert s
      | 4 => let c := chal s; (if c.1 then 0 else 1, c.2)
      | 5 => let u := unlock (s.boot.data.take 144) s; (if u.1 then 0 else 1, u.2)
      | 6 => (0, relock s)
      | 7 => doFlash s
      | 8 => doSelect s
      | _ => doRollfwd readbackOk s
    .next ((((r.2.setFld rBoot 15 12 r.1).setFld rBoot 3 3 0).modBoot (fun b => { b with quote := [], data := [] })).modPlate (fun p => { p with signWait := false }))

/-- A register write of BOOT_CMD (R825). -/
def bootCmdWrite (v : Word) (s : State) : State := if 1 ≤ bits v 63 60 ∧ bits v 63 60 ≤ 9 then bootBegin (bits v 63 60) s else s

/-! ### The TAP (R815, R817, R856) -/

def execIdcode (s : State) : Res := .next (s.emit (.tdo (leBytes 4 (s.fld 0xF030 31 0))))
def execBypass (s : State) : Res := .next (s.emit (.tdo (leBytes 1 0)))
/-- CHAL of the TAP: the nonce is shifted out (R815). -/
def execTapChal (s : State) : Res :=
  let c := chal s
  .next (c.2.emit (.tdo (nonceBytes c.2)))
def execToken (bytes : List Byte) (s : State) : Res := .next (unlock ((bytes ++ List.replicate 144 0).take 144) s).2

end Sys2Proof.Machine
end

