-- ==== Sys2Proof/Machine/Rings.lean ====
section
/-! DEFINITION. Record queues on their way to rings in host memory (R635 to R639, R741, R777, R784), and MSI-X (R764). -/

namespace Sys2Proof.Machine

def State.modHost (s : State) (f : HostSt → HostSt) : State := { s with host := f s.host }

/-- The function may issue requests: the link is up and the function is in D0 (R751, R753). -/
def hostUp (s : State) : Bool := s.host.linkUp && !s.host.d3hot

/-! ### MSI-X (R762, R764) -/

/-- A 32-bit word of the MSI-X table; Vector Control resets to masked. -/
def msixWord (s : State) (i : Nat) : Half := tget (if i % 4 = 3 then 1 else 0) s.host.msix i
/-- A vector's mask bit. -/
def masked (s : State) (vec : Nat) : Bool := (msixWord s (4 * vec + 3)).getLsbD 0

/-- A source signals its vector: a message, or its pending bit while it is masked (R764). -/
def msixSignal (vec : Nat) (s : State) : State :=
  if masked s vec || !hostUp s then s.modHost (fun h => { h with pba := vec :: h.pba.erase vec }) else s.emit (.msix vec)

/-- MSIX_TABLE_WRITE: a write of 32 bits at a BAR4 offset; an unmasked vector whose pending bit is set signals (R764). -/
def msixWrite (off : Nat) (v : Half) (s : State) : State :=
  if off % 4 = 0 ∧ off < 0x8000 then
    let i := off / 4
    let s1 := s.modHost (fun h => { h with msix := tset h.msix i (if i % 4 = 3 then v &&& 1 else if i % 4 = 0 then v &&& 0xFFFFFFFC else v) })
    let vec := i / 4
    if i % 4 = 3 ∧ masked s1 vec = false ∧ s1.host.pba.contains vec = true then msixSignal vec (s1.modHost (fun h => { h with pba := h.pba.erase vec })) else s1
  else s

def execMsixTableWrite (off : Nat) (value : Half) (s : State) : Res := .next (msixWrite off value s)

/-! ### Interrupts of a ring (R639, R793) -/

/-- HOLDOFF of a ring in ns; 0 acts as 1 µs. -/
def holdoff (r : Ring) (s : State) : Nat := max 1 (if 16 ≤ r.id then s.fld r.int 63 48 else s.fld r.int 47 32) * 1000
/-- The ring's interrupt state. -/
def State.irqOf (s : State) (id : Nat) : Irq := tget Irq.reset s.host.irq id
/-- The vector is signalled now and a holdoff begins. -/
def irqFire (r : Ring) (s : State) : State :=
  let s1 := msixSignal (s.fld r.int 10 0) s
  s1.modHost (fun h => { h with irq := tset h.irq r.id ⟨some (sidereal s), false⟩ })
/-- No holdoff runs. -/
def irqFree (r : Ring) (s : State) : Bool := match (s.irqOf r.id).last with | none => true | some t => holdoff r s ≤ (sidereal s - t).toNat

/-- A record of a ring has been written: its interrupt, at once where `urgent` or no holdoff runs (R639). -/
def irqRecord (r : Ring) (urgent : Bool) (s : State) : State :=
  if !s.flag r.int 11 then s
  else if urgent || irqFree r s then irqFire r s
  else s.modHost (fun h => { h with irq := tset h.irq r.id { s.irqOf r.id with pend := true } })

/-! ### Records to host memory (R636, R637, R741, R777) -/

/-- Records of a ring move: EN is 1, the function may issue requests, and no link loss has stopped the ring (R636, R753). -/
def ringRuns (r : Ring) (s : State) : Bool := s.flag r.base 0 && hostUp s && !s.host.stopped.contains r.id

/-- The oldest record of a queue goes to its slot: one write, or for 128 bytes two with word 0 in the last; a record not yet consumed may be overwritten and counts in LOST (R636, R637, R741). -/
def ringMove (r : Ring) (urgent : List Word → Bool) (s : State) : State :=
  match s.ringQ r with
  | [] => s
  | rec :: rest =>
    if !ringRuns r s then s
    else
      let seq := rec.getD 0 0
      let a := (s.rd r.base).toNat / 4096 * 4096 + r.bytes * (seq.toNat % r.slots)
      let bytes := wordsBytes (padWords (r.bytes / 8) rec)
      let s1 := if r.bytes = 128 then (s.emit (.hostWrite (a + 64) (bytes.drop 64) false)).emit (.hostWrite a (bytes.take 64) false) else s.emit (.hostWrite a bytes false)
      let s2 := if (s.rd r.tail).toNat + r.slots ≤ seq.toNat then s1.satFld r.stat 63 32 1 else s1
      let s3 := ({ s2 with rings := tset s2.rings r.id rest }).setFld r.stat r.qhi 0 rest.length
      irqRecord r (urgent rec) s3

/-- A night-log record that is signalled at once: an error of class contained or fatal, or event 0x1002 (R639). -/
def nlogUrgent (rec : List Word) : Bool :=
  let w := rec.getD 3 0
  (bits w 63 60 ≤ 1 && 2 ≤ bits w 59 58) || (bits w 63 60 == 3 && bits w 47 32 == 0x1002)
/-- A module record of the Chronograph (R740, R741). -/
def chrUrgent (rec : List Word) : Bool := bits (rec.getD 3 0) 63 60 == 1
/-- A completion entry that reports an error: a STATUS that is not 0 (R442, R493, R559, R612, R770, R794). -/
def cqUrgent (rec : List Word) : Bool :=
  let w := rec.getD 2 0
  match bits (rec.getD 1 0) 63 56 with
  | 1 => bits w 23 20 != 0
  | 2 => bits w 39 36 != 0
  | 3 => bits w 44 42 != 0
  | 4 => bits w 59 56 != 0
  | _ => bits w 55 52 != 0

/-- NLOG_RECORD_WRITE (R636). -/
def execNlogRecordWrite (s : State) : Res := .next (ringMove ringNlog nlogUrgent s)
/-- CHRONOGRAPH_RECORD_WRITE (R741). -/
def execChronographRecordWrite (s : State) : Res := .next (ringMove ringChr chrUrgent s)
/-- CLAMP_RECORD_WRITE (R784). -/
def execClampRecordWrite (s : State) : Res := .next (ringMove ringClamp (fun _ => false) s)
/-- COMPLETION_ENTRY_WRITE (R777). -/
def execCompletionEntryWrite (ring : Nat) (s : State) : Res := .next (ringMove (ringCq s (ring % 64)) cqUrgent s)

/-- A holdoff has ended: a ring with a record that waits signals (R639). -/
def irqEnd (r : Ring) (s : State) : State := if (s.irqOf r.id).pend && s.flag r.int 11 then irqFire r s else s

/-- NLOG_INTERRUPT: the holdoff of the night log and of every ring that follows its rules has ended (R639, R741, R777, R784). -/
def execNlogInterrupt (s : State) : Res :=
  .next (forEach (List.range 64) (fun j t => irqEnd (ringCq t j) t) (irqEnd ringClamp (irqEnd ringChr (irqEnd ringNlog s))))

end Sys2Proof.Machine
end

