-- ==== Sys2Proof/Machine/Resets.lean ====
section
/-! DEFINITION. Cold and warm reset (R16, R370), the tray's power sequencer and its pins (R828, R829, R835 to R840, R845, R848 to R850), EPO_N (R685, R838, R839), the PCIe link (R751, R753, R789, R790), and the service level (R785 to R787). -/

namespace Sys2Proof.Machine

def State.modTray (s : State) (f : Tray → Tray) : State := { s with tray := f s.tray }

/-! ### Cold reset (R16, R835, R850) -/

/-- A register through cold reset: blown fuses stay, everything else is at its reset value. -/
def coldReg (off : Nat) (w : Word) : Word := (regFields off).foldl (fun v f => if f.fuse && f.acc == .ro then setBits v f.hi f.lo (bits w f.hi f.lo) else v) (resetValue off)
/-- The registers that hold fuses. -/
def fuseRegs (rs : Tab Word) : Tab Word :=
  (rs.filter (fun (p : Nat × Word) => (regFields p.1).any (fun f => f.fuse && f.acc == .ro))).map (fun (p : Nat × Word) => (p.1, coldReg p.1 p.2))

/-- A tray that is down: rails off, MOD_PGOOD and MOD_READY low, both clip switches closed (R829, R850). -/
def Tray.down (t : Tray) : Tray := { t with seq := 0, pgood := false, ready := false, openA := false, openB := false }

/-- The module in cold reset: every domain off, every register at its reset value, the store range zero; the fuses, the boot flash and what stands outside the module stay. -/
def coldState (t : Tray) (s : State) : State :=
  { State.reset with
    pending := s.pending, out := s.out, draws := s.draws, tray := t, regs := fuseRegs s.regs, pwr := { Power.reset with dst := [] }
    boot := { Boot.reset with pref := s.boot.pref, flash := s.boot.flash } }

def execColdReset (s : State) : Res := .next (coldState s.tray.down s)

/-! ### The tray's power sequencer (R828, R829, R835, R838, R839, R848, R849) -/

/-- Some clip is OK, so the sequencer runs. -/
def inputOk (t : Tray) : Bool := (t.okA && !t.openA) || (t.okB && !t.openB)

/-- MOD_PWREN accepted high: step 2 of R848, at the end of the hold-off where one runs. -/
def pwrenHigh (t : Tray) : Tray :=
  if !inputOk t || t.epo || t.needLow then t
  else if t.holdOff then { t with pend := true }
  else if t.seq = 0 then { t with pwren := true, seq := 2 } else t
def execModPwrenHigh (s : State) : Res := .next (s.modTray pwrenHigh)

/-- MOD_PWREN accepted low: a cold reset, and 500 ms of hold-off. -/
def execModPwrenLow (s : State) : Res :=
  if inputOk s.tray then .next (coldState { s.tray.down with pwren := false, holdOff := true, pend := false, needLow := false } s) else .next s

def execPowerHoldOffEnd (s : State) : Res :=
  .next (if s.tray.holdOff then s.modTray (fun t => let u := { t with holdOff := false, pend := false }; if t.pend then pwrenHigh u else u) else s)

/-- HOSTSEL is sampled as cold reset ends, and MOD_PGOOD rises (R35). The level that stands on the strap is an open value: it comes from outside, and no command sets it. -/
def coldRelease (s : State) : State :=
  let d := s.draw
  let b := d.1.getLsbD 0
  (((d.2.setFld 0 4 4 b.toNat).setFld rDomeStat 3 3 b.toNat).setFld rDomeStat 2 0 0).modTray (fun t => { t with seq := 5, pgood := true, hostsel := b })

/-- The host limb's logic, bridge and PCIe domains are powered, and boot stage 0 begins. -/
def hostLimbOn (s : State) : State :=
  let h := hostLimb s
  (setDom (292 + h / 4) 2 (setDom (284 + h) 2 (setDom (252 + 4 * h) 2 s))).modTray (fun t => { t with seq := 6 })

/-- POWER_UP_SEQUENCE_STEP: the next step of R848 has completed. -/
def execPowerUpSequenceStep (s : State) : Res :=
  if inputOk s.tray && s.tray.pwren && !s.tray.epo then
    .next (match s.tray.seq with
      | 2 => s.modTray (fun t => { t with seq := 3 })
      | 3 => s.modTray (fun t => { t with seq := 4 })
      | 4 => coldRelease s
      | 5 => hostLimbOn s
      | _ => s)
  else .next s

/-- A rail is not good within 30 ms of step 3: the tray goes down until MOD_PWREN has been low. -/
def execRailPowerGoodTimeout (s : State) : Res := .next (if s.tray.seq = 3 then trayLow true s else s)

/-- EPO_N is accepted low: with MOD_PWREN high it latches and everything goes off, a cold reset; a Dome that had left RESET is in EPO (R661). -/
def execEpoN (s : State) : Res :=
  if s.tray.pwren && inputOk s.tray then
    let t := coldState { s.tray.down with epo := true } s
    .next (if domeState s = 0 then t else t.setFld rDomeStat 2 0 4)
  else .next s

/-- The busbar stayed below 40 V for 1 s: no clip is OK, and the latch is clear. -/
def execEpoLatchClear (s : State) : Res := .next (s.modTray (fun t => { t with epo := false, okA := false, okB := false }))

/-- No clip OK for 20 µs: as for MOD_PWREN low; what stops a retry until MOD_PWREN has been low stays. -/
def execInputLost (s : State) : Res := .next (coldState { s.tray.down with okA := false, okB := false, pwren := false, holdOff := true, pend := false } s)

/-- A clip's voltage is above the lockout again: A, or B where `b`. -/
def execInputRestored (b : Bool) (s : State) : Res := .next (s.modTray (fun t => if b then { t with okB := true } else { t with okA := true }))
/-- A clip's switch is opened until cold reset. -/
def execClipOvercurrent (b : Bool) (s : State) : Res := .next (s.modTray (fun t => if b then { t with openB := true } else { t with openA := true }))

/-! ### Warm reset (R16, R370, R632, R797) -/

/-- The fields beside RWS and fuses that warm reset keeps: R16's table, ISO of the seam halves as power state, and the conversion parameters, which lie in the work area (R370, R427). -/
def warmKept (off : Nat) : List (Nat × Nat) :=
  match blockOf off with
  | (.modG, o) =>
    if o = 0 ∨ o = 0x18 ∨ o = 0x908 ∨ o = 0x8108 ∨ o = 0xC028 ∨ o = 0xC000 ∨ o = 0x9020 ∨ o = 0xA028 ∨ (0xF100 ≤ o ∧ o < 0xF280) ∨ 0xF800 ≤ o ∨ (0xD000 ≤ o ∧ o < 0xE000 ∧ o % 0x40 = 0x10) then [(63, 0)]
    else if o = 0x918 ∨ o = 0x8118 then [(8, 0)]
    else if 0xD000 ≤ o ∧ o < 0xE000 ∧ o % 0x40 = 0x20 then [(6, 0)]
    else if o = 0x3000 ∨ o = 0x3008 then [(34, 34)]
    else if o = 0x4000 then [(47, 36)]
    else if o = 0x8088 then [(2, 2)]
    else if o = 0x9000 then [(23, 0)]
    else if o = 0x9018 then [(3, 0)]
    else if o = 0x9030 then [(63, 12), (2, 0)]
    else if o = 0xF000 then [(63, 26), (23, 22), (2, 0)]
    else []
  | (.limb _, o) => if o = 0x6000 then [(12, 0)] else if o = 0x1010 ∨ 0xC0000 ≤ o ∨ (0x80000 ≤ o ∧ o < 0x82000) then [(63, 0)] else []
  | (.field _, o) => if o = 0x600 then [(47, 0)] else if 0x1000 ≤ o ∧ o < 0x1E00 then [(63, 0)] else []
  | _ => []

/-- A register through warm reset. Fused fields are those of access RO; MRD_PMAC, which software writes (RW), takes its fused reset value: DESIGN CHOICE (entry 92). -/
def warmReg (off : Nat) (w : Word) : Word :=
  (warmKept off).foldl (fun v r => setBits v r.1 r.2 (bits w r.1 r.2))
    ((regFields off).foldl (fun v f => if f.acc = .rws || (f.fuse && f.acc == .ro) then setBits v f.hi f.lo (bits w f.hi f.lo) else v) (resetValue off))

/-- A core keeps its stores (R665) and nothing else. -/
def warmCore (k : Core) : Core := { Core.reset with istore := k.istore, store := k.store }
/-- A link keeps its training; its sequence numbers begin again. -/
def warmLink (k : LinkSt) : LinkSt := { LinkSt.reset with status := k.status, spared := k.spared }

/-- Migrations complete; slots close, or are discarded for capacity (R370). -/
def warmStore (s : State) : State :=
  let s1 := s.migs.foldl (fun t p => match homeLimb t p.1 with | some l => migDone l p.1 t | none => t) s
  forEach (List.range 8) (fun l t =>
    let u := ((t.limb l).slots.map (·.g)).foldl (fun v g => closeSlot l g v) t
    (u.limb l).slots.foldl (fun v k => dropSlot l k v) u) s1

/-- The record queues that survive: those that R635 governs; the Chronograph queue is not among them (R741). -/
def warmRings (r : Tab (List (List Word))) : Tab (List (List Word)) := r.filter (fun (p : Nat × List (List Word)) => p.1 != 1)

/-- Warm reset (R16). -/
def warmReset (s : State) : State :=
  let a := warmStore s
  let b := { a with
    regs := a.regs.map (fun (p : Nat × Word) => (p.1, warmReg p.1 p.2)), cores := a.cores.map (fun (p : Nat × Core) => (p.1, warmCore p.2)), net := [], ports := [], grants := []
    links := a.links.map (fun (p : Nat × LinkSt) => (p.1, warmLink p.2)), reqs := [], migs := []
    limbs := a.limbs.map (fun (p : Nat × Limb) => (p.1, { Limb.reset with sweep := p.2.sweep, vlow := p.2.vlow })), occ := [], samp := { a.samp with localmb := 0 }, plans := []
    step := StepSt.reset, sync := { Sync.reset with frac := a.sync.frac, copies := a.sync.copies }, plate := Plate.reset, dark := { Dark.reset with saved := a.dark.saved }
    boot := { a.boot with arg := 0, arg2 := 0, data := [], quote := [], quoteWait := false, nonce := false }
    host := { HostSt.reset with linkUp := a.host.linkUp, common := a.host.common }, obs := Obs.reset, hreqs := [], engReads := [], engWant := [], xp := Xport.reset, rings := warmRings a.rings, escOut := [], tally := [], chr := []
    tray := { a.tray with ready := false } }
  learnSlots (faultPin (capAll b))

def execWarmReset (s : State) : Res := .next (warmReset s)

/-- MOD_RESET (R791). -/
def warmWrite (v : Word) (s : State) : State := if bits v 15 8 = 0xA5 ∧ bit v 0 = true then warmReset s else s
def execWarm (value : Word) (s : State) : Res := .next (warmWrite value s)

/-! ### PERST# and the link (R751, R753, R789, R790, R844, R845) -/

/-- The endpoint is reset: the link is down, and the MSI-X table and the power state are at their reset values. -/
def endpointReset (s : State) : State :=
  ((s.setFld rHostLink 39 32 0).setFld rHostLink 31 28 0).modHost (fun h => { HostSt.reset with cmds := h.cmds, stopped := h.stopped, irq := h.irq })

/-- PERST# of the selected limb asserts: the endpoint alone before boot stage 5, a warm reset from then on. -/
def execPerstAssert (s : State) : Res :=
  let s1 := s.modTray (fun t => { t with perst := true })
  if s.tray.seq < 6 then .next s1
  else .next (endpointReset (if 5 ≤ bootStage s then warmReset s1 else s1))

/-- PERST# deasserts; the endpoint may train, in common-clock mode where the cable's REFCLK is present, else in SRIS (R843). -/
def execPerstDeassert (refclk : Bool) (s : State) : Res := .next ((s.modTray (fun t => { t with perst := false })).modHost (fun h => { h with common := refclk }))

/-- The host limb's PCIe domain is ON. -/
def pcieOn (s : State) : Bool := domSt s (292 + hostLimb s / 4) == 2

/-- HOST_LINK_UP: from boot stage 1 on (R796); below x16 at 32 GT/s it is an event. A link that a commanded warm reset kept up reports its rate and width again (entry 88). -/
def execHostLinkUp (rate width : Nat) (s : State) : Res :=
  let r := max 1 (min rate 5)
  let w := if 16 ≤ width then 16 else if 8 ≤ width then 8 else if 4 ≤ width then 4 else 1
  if s.tray.perst || (s.host.linkUp && s.fld rHostLink 39 32 != 0) || !pcieOn s || bootStage s = 0 then .next s
  else
    let s1 := ((s.setFld rHostLink 39 32 w).setFld rHostLink 31 28 r).modHost (fun h => { h with linkUp := true })
    .next (if r < 5 ∨ w < 16 then nlogEvent 3 0x1401 0 (wd r) (wd w) s1 else s1)

/-- Launch rings that are enabled, and the record rings that are. -/
def lrEnabled (s : State) : List Nat := (List.range 64).filter (fun i => s.flag (0x1008 + 0x40 * i) 63)
def recordRings (s : State) : List Ring := [ringNlog, ringChr, ringClamp] ++ (List.range 64).map (ringCq s)

/-- Every ring stands stopped until the driver enables it again. -/
def stopRings (s : State) : State :=
  let s1 := forEach (lrEnabled s) (fun i t => t.setFld (0x1018 + 0x40 * i) 63 63 1) s
  s1.modHost (fun h => { h with cmds := [], stopped := ((recordRings s).filter (fun r => s.flag r.base 0)).map (·.id) })

/-- LINK_DOWN without PERST# (R753); the requests that wait for the host stay until their timeout. -/
def execLinkDown (s : State) : Res :=
  if s.host.linkUp && !s.tray.perst then
    let info := s.rd rHostLink
    let s1 := (((s.satFld rHostLink 63 48 1).setFld rHostLink 39 32 0).setFld rHostLink 31 28 0).modHost (fun h => { h with linkUp := false })
    .next (raise (domLimb (hostLimb s)) 2 10 0x0604 info (stopRings s1))
  else .next s

def execPciPowerStateChange (d3hot : Bool) (s : State) : Res := .next (if s.host.linkUp then s.modHost (fun h => { h with d3hot := d3hot }) else s)

def execUncorrectableErrorReceived (status : Half) (s : State) : Res :=
  .next (if s.host.linkUp then raise (domLimb (hostLimb s)) 1 10 0x0605 (wd status.toNat) s else s)

/-! ### Answers of the host (R411, R412) -/

/-- A request of the module to the host ends: a failure is a deferred error of the host limb, 0x0206 for an access of the host window, and the data goes to the Slew transfer, the engine or the debug transport that asked (R411, R412, R628). -/
def hostAnswer (tag : Nat) (st : HostStatus) (data : List Byte) (s : State) : State :=
  match tfind s.hreqs tag with
  | none => s
  | some q =>
    let s1 := { s with hreqs := terase s.hreqs tag }
    let s2 := match st with
      | .sc => s1
      | .ep => s1
      | _ => if q.win ≠ 0 then winError q.win s1 else raise (domLimb (hostLimb s)) 1 10 0x0606 (wd q.addr) s1
    let d := (data ++ List.replicate q.len 0).take q.len
    if q.who = 0 then slewHostData (q.unit / 4096) (q.unit % 4096) q.idx st d s2
    else if q.who = 3 then engAnswer q.unit q.win q.idx 0 (if st = .sc ∨ st = .ep then 0 else 5) (d.map (fun b => (b, decide (st = .ep)))) s2
    else if q.who = 2 then { s2 with xp := { s2.xp with busy := false, rstat := if st = .sc then 0 else 3, data := if st = .sc then d else [] } }
    else s2

def execHostCompletion (tag : Nat) (status : HostStatus) (data : List Byte) (s : State) : Res := .next (if hostUp s then hostAnswer tag status data s else s)
def execCompletionTimeout (tag : Nat) (s : State) : Res := .next (hostAnswer tag .ca [] s)

/-! ### The service level (R785 to R787) -/

/-- A field has a mapped core. -/
def hasMapped (s : State) (f : Nat) : Bool := (coresOf f).any (coreMapped s)
/-- A gateway of a field is in service. -/
def anyGateway (s : State) (f : Nat) : Bool := gwUp s f 0 || gwUp s f 1
/-- The fields of the host limb's hemisphere. -/
def inHostHemi (s : State) (f : Nat) : Bool := decide (f % 14 / 7 = hostLimb s / 4)

/-- Whether the Diagnostic minimum holds. -/
def diagMin (s : State) : Bool :=
  let h := hostLimb s
  inputOk s.tray && domSt s (252 + 4 * h) == 2 && domSt s (284 + h) == 2 && pcieOn s && s.host.linkUp &&
  (List.range 84).any (fun f => inHostHemi s f && computeOn s f && transitOn s f && (coresOf f).any (fun c => verdict s c == 1))

/-- Whether a mapped field can be reached: compute and transit ON, a gateway, and across the seam both halves. -/
def fieldReached (s : State) (f : Nat) : Bool :=
  computeOn s f && transitOn s f && anyGateway s f &&
  (inHostHemi s f || (domSt s 294 == 2 && domSt s 295 == 2 && s.pwr.clamps.contains 294 && s.pwr.clamps.contains 295))

/-- Some port has a link. -/
def anyPort (s : State) : Bool := (List.range 24).any (fun p => s.flag (portBase p + 0x28) 63)
/-- Every mapped field is reached. -/
def routesOk (s : State) : Bool := (List.range 84).all (fun f => fieldReached s f || !hasMapped s f)
/-- Whether the Training minimum holds, the Diagnostic minimum apart. -/
def trainMin (s : State) : Bool := s.fld rModHome 47 40 != 0 && anyPort s && routesOk s
/-- One hemisphere is off. -/
def hemiOff (s : State) : Bool := !s.flag rDomeStat 16 || !s.flag rDomeStat 17
/-- A domain is not ON, the non-host limb's PCIe domain apart. -/
def domainOut (s : State) : Bool := (List.range 296).any (fun d => domSt s d != 2 && d != 293 - hostLimb s / 4)
/-- A field has a gateway down or is transit-only. -/
def fieldOut (s : State) : Bool := (List.range 84).any (fun f => !gwUp s f 0 || !gwUp s f 1 || transitOnly s f)

/-- The service level: the first condition that holds (R786). -/
def serviceLevel (s : State) : Nat :=
  if domeState s = 3 ∨ diagMin s = false then 0
  else if fatal s = true ∨ trainMin s = false then 1
  else if hemiOff s = true then 2
  else if s.flag rModSvc 31 = true ∨ domainOut s = true ∨ s.fld rModHome 47 40 ≠ 0xFF ∨ fieldOut s = true then 3
  else 4

/-- WHY, a bit for each condition (R791). -/
def serviceWhy (s : State) : Nat :=
  ((List.zip (List.range 8) [fatal s, hemiOff s, fieldOut s, domainOut s, s.fld rModHome 47 40 != 0xFF, !anyPort s, !routesOk s, domeState s == 3]).map (fun (p : Nat × Bool) => p.2.toNat * 2 ^ p.1)).sum

/-- The host limb evaluates the level: at a change it writes LEVEL, PREV, WHY and event 0x1006, and drives MOD_READY (R787). -/
def serviceEval (s : State) : State :=
  let old := s.fld rModSvc 2 0
  let new := serviceLevel s
  let r := decide (1 ≤ new)
  if old = new then s
  else
    let s1 := ((((s.setFld rModSvc 2 0 new).setFld rModSvc 15 8 old).setFld rModSvc 23 16 (serviceWhy s)).setFld rModSvc 3 3 r.toNat).modTray (fun t => { t with ready := r })
    nlogEvent 3 0x1006 0 (wd (old + new * 256)) 0 s1

/-- SERVICE_LEVEL_CHANGE; without a powered host limb nothing reports. -/
def execServiceLevelChange (s : State) : Res := .next (if domSt s (252 + 4 * hostLimb s) = 2 then serviceEval s else s)

end Sys2Proof.Machine
end

