-- ==== Sys2Proof/Machine/Loader.lean ====
section
/-! DEFINITION. Structure loading (R779 to R784): the structure types, the checks of recipes, plans, multicast and shard entries (R285, R336, R488, R588), and the header of user Almanac tables (R805, R810). -/

namespace Sys2Proof.Machine

/-! ### Checks (R285, R336, R488, R588) -/

/-- R285. -/
def recipeRules : List FieldRule :=
  [ruleMax 2 0 4, rule0 7 3, ruleMax 15 8 5, ruleMax 23 16 2, ruleMax 31 24 254, ruleMax 39 32 254, ruleMax 47 40 254, ruleMax 55 48 16, ruleMax 63 56 16,
   ruleRange 79 64 1 65535, ruleRange 87 80 1 16, ruleMax 95 88 8, ruleMax 103 96 7, ruleRange 111 104 1 8, rule0 119 113, rule0 127 120]

/-- A value raised to at least m. -/
def ruleMin (hi lo m : Nat) : FieldRule := ⟨lo, hi + 1 - lo, fun v => max v m⟩

/-- The header of a plan (R487, R488): KIND and NMEM as used decide what the fields that depend on them take. -/
def planRules (e : Nat) : List FieldRule :=
  let kind := min (nbits e 3 0) 4
  let nmem := min (nbits e 31 16) 1023
  let need := if kind = 0 then ceilDiv (nbits e 227 192) (nmem + 1) else 64 * ceilDiv (ceilDiv (nbits e 239 192) (nmem + 1)) 64
  [ruleMax 3 0 4, rule0 7 6, ruleMax 11 8 5, ⟨12, 4, fun v => if v = 6 then 6 else 8⟩, ruleMax 31 16 1023, ruleMax 47 32 nmem,
   if 3 ≤ kind then ruleRange 63 48 2 64 else ruleMax 63 48 nmem, ruleMin 79 64 1, ruleMax 95 80 4095, ruleMin 111 96 1, ruleMax 114 112 6, rule0 119 115, rule0 127 120] ++
  (if kind = 0 then [rule0 255 228, ruleMin 319 256 need]
   else if kind ≤ 2 then [rule0 255 240, ⟨256, 64, fun v => max (alignDown v 64) need⟩] else []) ++
  [ruleAlign 383 320 6, ruleAlign 447 384 6, ruleAlign 511 448 6]

/-- The flow list up to entry NMEM, entry SELF apart: bits [15:12] are reserved. -/
def planFlowRules (e : Nat) : List FieldRule :=
  ((List.range (min (nbits e 31 16) 1023 + 1)).filter (fun j => j != min (nbits e 47 32) (min (nbits e 31 16) 1023))).map (fun j => rule0 (512 + 16 * j + 15) (512 + 16 * j + 12))

/-- A logical core in bits [16:0] above `lo`: u and v. -/
def ruleCore (lo : Nat) : List FieldRule := [ruleMax (lo + 16) (lo + 9) 167, ruleMax (lo + 8) lo 447]
/-- R336. -/
def mcRules : List FieldRule :=
  [ruleMax 62 60 4, rule0 57 34, ruleMax 33 26 179, ruleMax 25 18 179, ruleMax 17 9 447, ruleMax 8 0 447,
   rule0 127 98, ruleMax 97 90 167, ruleMax 89 82 167, ruleMax 81 73 447, ruleMax 72 64 447] ++
  (List.range 4).flatMap (fun k => rule0 (128 + 32 * k + 31) (128 + 32 * k + 17) :: ruleCore (128 + 32 * k))

/-- R588. -/
def shardRules (e : Nat) : List FieldRule :=
  let src := fun (v : Nat) => min (alignDown v granule) 0x0FFFFFFF0000
  let room := 2 ^ 28 - src (nbits e 47 0) / granule
  [rule0 61 48, ⟨0, 48, src⟩, rule0 127 92, ⟨64, 28, fun v => min (max v 1) room⟩, rule0 191 176, ruleAlign 175 128 16, ⟨192, 64, fun v => min v (2 ^ 64 - 3)⟩]

/-! ### The structure types (R780) -/

/-- Stride in bytes. -/
def ldStride (st : Nat) : Nat := [0, 16, 64, 64, 64, 8, 8, 2112, 32, 4, 32].getD st 0
/-- Entries. -/
def ldEntries (st : Nat) : Nat := [0, 4096, 1024, 256, 4096, 256, 8192, 256, 1024, 896, 256].getD st 0
/-- The lowest entry that a host load may write (R545). -/
def ldFirst (st : Nat) : Nat := if st = 5 then 16 else if st = 6 then 1024 else 0

/-- The check of one entry; the last word of a program load becomes UEND where no earlier one is (R546). -/
def ldCheck (st e : Nat) (mustEnd : Bool) : Nat × List Clamp :=
  match st with
  | 1 => checkEntry recipeRules e
  | 2 => checkEntry groupRules e
  | 3 => checkEntry curveRules e
  | 4 => checkEntry segRules e
  | 5 => checkEntry (dirRules e) e
  | 6 => checkEntry (if mustEnd then [⟨58, 6, fun _ => 0x11⟩, rule0 33 0] else uwordRules e) e
  | 7 => checkEntry (planRules e ++ planFlowRules e) e
  | 8 => checkEntry mcRules e
  | 10 => checkEntry (shardRules e) e
  | _ => (e, [])

/-- Entries of a source, each as one number. -/
def ldSplit (stride : Nat) : Nat → List Byte → List Nat
  | 0, _ => []
  | n + 1, bs => leNat (bs.take stride) :: ldSplit stride n (bs.drop stride)

/-- Every entry checked; the clamps with the entry that each belongs to. -/
def ldCheckAll (st first : Nat) (es : List Nat) : List Nat × List (Nat × Clamp) :=
  let anyEnd := es.dropLast.any (fun e => nbits e 63 58 == 0x11 || (nbits e 63 58 > 0x11))
  let cs := (es.zipIdx).map (fun (p : Nat × Nat) => let c := ldCheck st p.1 (st == 6 && !anyEnd && p.2 + 1 == es.length); (c.1, c.2.map (fun (k : Clamp) => (first + p.2, k))))
  (cs.map (·.1), cs.flatMap (·.2))

/-! ### Writing the entries (R781) -/

/-- The words of an entry of whole words, one after another from an offset of the engine tables: staged, or written at once. -/
def putEngine (stage : Bool) (l off : Nat) (ws : List Word) (s : State) : State :=
  (ws.zipIdx).foldl (fun t p => if stage then { t with staged := tset t.staged (l * 2 ^ 28 + off + 8 * p.2) p.1 } else setWork l (off + 8 * p.2) p.1 t) s

/-- Entries written to the table that a structure type has in a limb, a field or the host limb. -/
def ldWrite (st unit first : Nat) (es : List Nat) (s : State) : State :=
  let n := ldStride st / 8
  (es.zipIdx).foldl (fun t p =>
    let ws := nWords n p.1
    let i := first + p.2
    if st = 8 then wrWords (fieldBase unit + 0x8000 + 32 * i) ws t
    else if st = 10 then wrWords (limbBase unit + 0x8A000 + 32 * i) ws t
    else putEngine (st ≤ 6) unit (engTab st + 8 * n * i) ws t) s

/-- What is staged in a limb is applied (R781). -/
def applyStaged (l : Nat) (s : State) : State :=
  let k := fun (p : Nat × Word) => decide (p.1 / 2 ^ 28 = l)
  (s.staged.filter k).foldl (fun t p => setWork l (p.1 % 2 ^ 28) p.2 t) { s with staged := s.staged.filter (fun p => !k p) }

/-! ### The header of a user table (R800, R805) -/

/-- The header as used, and its clamps: KEYID, SIG, SVN and SERIAL are ignored; a stated digest is reported by its first 8 bytes. -/
def userHeader (st count : Nat) (h body : List Byte) : List Byte × List Clamp :=
  let e := leNat h
  let dig := sha384 body
  let to_ := fun (hi lo v : Nat) => (⟨lo, hi + 1 - lo, fun _ => v⟩ : FieldRule)
  let c := checkEntry [to_ 31 0 0x47535A44, to_ 39 32 1, to_ 47 40 (if st = 1 then 7 else 8), rule0 63 56, rule0 127 96, to_ 191 128 (count * ldStride st), rule0 767 640, rule0 2047 1536] e
  let said := nbits e 639 256
  let d := leNat dig
  let e1 := putFieldN c.1 48 8 0
  let e2 := putFieldN e1 64 32 0
  let e3 := putFieldN e2 192 64 0
  let e4 := putFieldN e3 768 768 0
  (leBytes 256 (putFieldN e4 256 384 d), c.2 ++ (if said = d then [] else [⟨256, 64, said % 2 ^ 64, d % 2 ^ 64⟩]))

/-! ### LOAD (R779 to R782) -/

/-- FIRST and COUNT as used, and the clamps. -/
def ldRange (st first count : Nat) : (Nat × Nat) × List Clamp :=
  let f := max (ldFirst st) (min first (ldEntries st - 1))
  let c := min count (ldEntries st - f)
  ((f, c), (if f = first then [] else [⟨128, 32, first, f⟩]) ++ (if c = count then [] else [⟨160, 32, count, c⟩]))

/-- The limbs that a load reaches: those of the mask whose logic is ON. -/
def ldLimbs (s : State) (tgt : Nat) : List Nat := (onesOf 8 tgt).filter (limbOn s)

/-- The cases in which a load is refused (R781, R810). -/
def ldRefused (s : State) (st tgt first count : Nat) : Bool :=
  (st == 7 && (ldLimbs s tgt).any (fun l => (List.range count).any (fun i => (s.plan l (first + i)).running))) ||
  (st == 8 && !fieldIdle s tgt) ||
  (st == 9 && (coresOf tgt).any (coreRunning s)) ||
  ((st == 1 || st == 3) && 32 ≤ logN s)

/-- The source bytes: those that the host sent, or a read of the module range; none where a read failed. -/
def ldSource (space : Bool) (src n : Nat) (source : Option (List Byte)) (s : State) : Option (List Byte) × State :=
  if space then
    let r := modRead (hostLimb s) (src % 2 ^ 48) n s
    if r.1 = 0 ∧ r.2.1.all (fun b => !b.2) = true then (some (r.2.1.map (·.1)), r.2.2) else (none, r.2.2)
  else (source.map (fun b => (b ++ List.replicate n 0).take n), s.emit (.hostRead src n (freshTag s.hreqs) false))

/-- The clamp records of a load: range and header, then every unit's own, under one REPORT and rising NTH. -/
def ldReport (st : Nat) (head : List Clamp) (units : List Nat) (cl : List (Nat × Clamp)) (s : State) : State :=
  if head.isEmpty && (cl.isEmpty || units.isEmpty) then s
  else
    let s1 := clampRecords 0 st 0xFF s.report 0 (head.map (fun k => (2 ^ 32 - 1, k))) { s with report := (s.report + 1) % 2 ^ 32 }
    (units.zipIdx).foldl (fun t p => clampRecords 0 st p.1 s.report (head.length + p.2 * cl.length) cl t) s1

/-- The entries of a checked source take their place. -/
def ldApply (st tgt first : Nat) (hc : List Clamp) (es : List Nat) (s : State) : State :=
  if st = 9 then
    let r := finderLoad tgt first es s
    ldReport 9 hc [tgt] r.1 r.2
  else
    let c := ldCheckAll st first es
    let units := if st ≤ 7 then ldLimbs s tgt else if st = 8 then [tgt] else [hostLimb s]
    ldReport st hc units c.2 (units.foldl (fun t u => ldWrite st u first c.1 t) s)

/-- LOAD: the status (R770) and the state. -/
def doLoad (w1 w2 src : Word) (source : Option (List Byte)) (s : State) : Nat × State :=
  let st := bits w1 7 0
  let tgt := bits w1 15 8
  let r := ldRange st (bits w2 31 0) (bits w2 63 32)
  let first := r.1.1
  let count := r.1.2
  if st = 0 ∨ 10 < st then (0, s)
  else if ldRefused s st tgt first count then (1, s)
  else
    let hd := if st = 1 ∨ st = 3 then 256 else 0
    let x := ldSource (bit w1 16) src.toNat (hd + count * ldStride st) source s
    match x.1 with
    | none => (3, raise (domLimb (hostLimb s)) 1 10 0x0606 src x.2)
    | some bs =>
      let body := bs.drop hd
      let es := ldSplit (ldStride st) count body
      if hd = 0 then (0, ldApply st tgt first r.2 es x.2)
      else
        let h := userHeader st count (bs.take 256) body
        (0, ldApply st tgt first (r.2 ++ h.2) es (extendMr 7 0xF4 0 0 (sha384 h.1) x.2))

end Sys2Proof.Machine
end

