-- ==== Sys2Proof/Machine/Launch.lean ====
section
/-! DEFINITION. Step launch and ABANDON (R276, R532, R550, R561, R575 to R578, R596, R774 to R776, R866), field start and quiesce (R771 to R773). -/

namespace Sys2Proof.Machine

/-! ### LAUNCH (R775) -/

/-- The status of a LAUNCH: 0 OK, 2 STEP, 4 LEVEL. -/
def launchStatus (step : Word) (s : State) : Nat :=
  if step ≠ stepCnt s then 2 else if s.fld rModSvc 2 0 < 2 ∨ fatal s = true then 4 else 0

/-- What the launch samples; a replay keeps the policy and UPD_CFG that its first attempt sampled (R276, R532, R550, R866). -/
def launchSamples (s : State) : Samp :=
  let keep := s.samp.held && s.samp.last == some (stepCnt s)
  { policy := if keep then s.samp.policy else s.fld 0x2000 17 16
    cfg := if keep then s.samp.cfg else s.rd 0x6000
    pbank := s.fld 0x6008 0 0, cbank := s.fld 0x6008 1 1, localmb := s.fld 0x5008 15 0, held := true, last := some (stepCnt s) }

/-- ATTEMPTS of the launch (R578). -/
def launchAttempts (s : State) : Nat := if s.samp.last = some (stepCnt s) then satAdd 8 (attempts s) 1 else 1

/-- The launch reaches one limb: staged loads apply, the limb takes its key and reads the group states and LCLIP of the current control bank, and the update engine awaits the step (R110, R553, R561, R573, R781). -/
def launchLimb (l : Nat) (s : State) : State :=
  if limbOn s l then
    let s1 := byteUse l (cbankBase s (curCbank s) + 0x28414) (applyStaged l s)
    (s1.wr (rUpdLstat l) (wd 1)).modLimb l (fun k => { k with sweptBlocks := [], sgkey := keyCopy s l })
  else s.wr (rUpdLstat l) 0

/-- The launch reaches one field with a mapped core: CORE_STEP of its mapped cores, then the phase start (R111, R733). -/
def launchOne (f : Nat) (s : State) : State := launchField f (forEach (mappedOf s f) (fun c t => t.wr (rCoreStep c) (stepCnt s)) s)

/-- The carried observations as a launch finds them: also those that came late after a COMMIT and before the launch; those of an abandoned attempt are discarded with it (R291). -/
def obsCarried (s : State) : Tab Nat := if s.samp.held then s.obs.carried else obsJoin s.obs.carried s.obs.late

/-- An accepted LAUNCH. -/
def launchAccept (s : State) : State :=
  let s1 := ((s.setFld rPltStat 31 24 (launchAttempts s)).setFld rHostStep 0 0 1)
  let s2 := { s1 with samp := launchSamples s, step := { StepSt.reset with dirLat := s.step.dirLat }, obs := { Obs.reset with carried := obsCarried s } }
  let s3 := forEach (List.range 8) launchLimb (s2.setFld rUpdStat 2 0 0)
  let s4 := s3.setFld 0x6028 63 32 (bankLclip s3)
  forEach ((List.range 84).filter (hasMapped s4)) launchOne (launchModule s4.samp.localmb s4)

/-- ABANDON (R776). -/
def abandon (s : State) : State := closeRecords true (s.setFld rHostStep 0 0 0)

/-! ### Field start and quiesce (R771 to R773) -/

/-- A field start may be accepted (R772). -/
def startOk (s : State) (f : Nat) : Bool :=
  fieldOn3 s f && s.fld (rFndChk f) 9 0 == 0 && !(mappedOf s f).any (coreRunning s) && sliceField s != some f && !s.dark.nbr.contains f

/-- An accepted field start. -/
def fieldGo (f : Nat) (s : State) : State :=
  forEach (mappedOf s f) (fun c t => admitHeld c (startCore c t)) ((s.setFld (rFldStat f) 1 0 1).setFld (rFldStat f) 15 8 1)

/-- A field start, or its refusal. -/
def fieldStart (f : Nat) (s : State) : State := if startOk s f then fieldGo f s else s.setFld (rFldStat f) 15 8 2
/-- A field quiesce. -/
def fieldQuiesce (f : Nat) (s : State) : State := (quiesceField f s).setFld (rFldStat f) 15 8 3

def execFieldStart (f : FieldId) (s : State) : Res := .next (fieldStart f.val s)
def execFieldQuiesce (f : FieldId) (s : State) : Res := .next (fieldQuiesce f.val s)

/-- A write of FLD_CTL: QUIESCE wins over START (R773). -/
def fldCtlWrite (f : Nat) (v : Word) (s : State) : State := if bit v 1 then fieldQuiesce f s else if bit v 0 then fieldStart f s else s

/-- FSTART: one field, or every field with a mapped core, none of them where one refuses. -/
def doFstart (all : Bool) (f : Nat) (s : State) : Nat × State :=
  let fs := if all then (List.range 84).filter (hasMapped s) else [f]
  if fs.all (startOk s) then (0, forEach fs fieldGo s)
  else (1, forEach (fs.filter (fun g => !startOk s g)) (fun g t => t.setFld (rFldStat g) 15 8 2) s)

/-- QUIESCE: one field, or every field with a mapped core. -/
def doQuiesce (all : Bool) (f : Nat) (s : State) : State := forEach (if all then (List.range 84).filter (hasMapped s) else [f]) fieldQuiesce s

end Sys2Proof.Machine
end

