-- ==== Sys2Proof/Machine/Access.lean ====
section
/-! DEFINITION. BAR0: which offsets decode (R678, R755, R758, R796), what a write of each register does, reads (R17, R18, R20); BAR2 (R759 to R761); the debug transport (R857). -/

namespace Sys2Proof.Machine

/-! ### Which offsets decode -/

/-- A read-only structure window (R758). -/
def roWindow (off : Nat) : Bool :=
  match blockOf off with
  | (.field _, o) => (0x1000 ≤ o && o < 0x1E00) || (0x8000 ≤ o && o < 0x10000)
  | (.limb _, o) => 0x8A000 ≤ o && o < 0x8C000
  | _ => false

/-- The power domain of an offset's block is on; before boot stage 5 only identity, rings and boot decode (R755, R756, R796). -/
def decodes (s : State) (off : Nat) : Bool :=
  (5 ≤ bootStage s || off < 0x1000 || (0xF000 ≤ off && off < 0x10000)) &&
  (match (blockOf off).1 with
   | .modG => domSt s (252 + 4 * hostLimb s) == 2
   | .limb l => limbOn s l
   | .field f => transitOn s f
   | .core c => computeOn s (fieldOf c)
   | .reserved => true)

/-- While TRIPPED, writes other than of MOD_NLOG_TAIL and MOD_NLOG_BASE are ignored (R678). -/
def writable (s : State) (off : Nat) : Bool := decodes s off && (domeState s != 3 || off == 0x8110 || off == 0x8100)

def winDrop (s : State) : State := s.satFld rHostStat 15 0 1

/-! ### Writes -/

/-- HOST_LR_CTL: EN going to 1 clears PROD, CONS and what stopped the ring; EN = 0 drops a fetched command (R766). -/
def lrCtlWrite (i : Nat) (v : Word) (s : State) : State :=
  let was := s.flag (0x1008 + 0x40 * i) 63
  let s1 := plainWrite s (0x1008 + 0x40 * i) v
  if bit v 63 = was then s1
  else
    let s2 := s1.modHost (fun h => { h with cmds := terase h.cmds i })
    if was then s2 else (s2.wr (0x1010 + 0x40 * i) 0).wr (0x1018 + 0x40 * i) 0

/-- A record ring's BASE: EN = 1 enables a ring that a link loss stopped (R753). -/
def ringBaseWrite (id off : Nat) (v : Word) (s : State) : State :=
  let s1 := plainWrite s off v
  if bit v 0 then s1.modHost (fun h => { h with stopped := h.stopped.erase id }) else s1

/-- MOD_HOME: APPLY acts at once (R368). -/
def homeWrite (v : Word) (s : State) : State := let s1 := plainWrite s rModHome v; if bit v 16 then homeApply s1 else s1

/-- A write of the module global block. -/
def modWriteReg (o : Nat) (v : Word) (s : State) : State :=
  if o = 0x10 then warmWrite v s
  else if o = 0x900 then ringBaseWrite 2 o v s
  else if 0x1000 ≤ o ∧ o < 0x2000 ∧ o % 0x40 = 8 then lrCtlWrite ((o - 0x1000) / 0x40) v s
  else if o = 0x4000 then homeWrite v s
  else if o = 0x5000 then moduleIdWrite (bits v 15 0) s
  else if o = 0x6010 then updCmdWrite v s
  else if 0x6200 ≤ o ∧ o < 0x6400 then dirWrite ((o - 0x6200) / 8) v s
  else if o = 0x7000 ∨ o = 0x7008 ∨ o = 0x7010 ∨ o = 0x7018 then pltConfigWrite o v s
  else if o = 0x7020 then pltCmdWrite v s
  else if o = 0x8048 then errClrWrite .module v s
  else if o = 0x8088 then faultPin (plainWrite s o v)
  else if o = 0x8100 then ringBaseWrite 0 o v s
  else if o = 0x9008 then domeReq (bits v 63 61) (bits v 6 0) s
  else if o = 0xA008 then dkfCmdWrite v s
  else if o = 0xC008 then timeSet v s
  else if o = 0xC010 then chrSyncWrite v s
  else if o = 0xC020 then ringBaseWrite 1 o v s
  else if 0xD000 ≤ o ∧ o < 0xE000 ∧ o % 0x40 = 0 then ringBaseWrite (16 + (o - 0xD000) / 0x40) o v s
  else if o = 0xF008 then bootCmdWrite v s
  else plainWrite s o v

/-- A write of limb l's block; a key entry is write-only and kept (R481). -/
def limbWriteReg (l o : Nat) (v : Word) (s : State) : State :=
  let off := limbBase l + o
  if o = 0x1018 then capRefresh l (plainWrite s off v)
  else if o = 0x1020 then migCmdWrite l v s
  else if o = 0x2000 then slwArmWrite l v s
  else if o = 0x2010 then cqTailWrite l (bits v 13 0) s
  else if o = 0x3008 then mrdCmdWrite l 0xFF v s
  else if o = 0x3100 ∨ o = 0x3200 ∨ o = 0x3300 then portEnableWrite (3 * l + (o - 0x3100) / 0x100) (bit v 0) (plainWrite s off v)
  else if o = 0x5048 then errClrWrite (domLimb l) v s
  else if 0x40000 ≤ o ∧ o < 0x80000 then chanWrite l ((o - 0x40000) / 64) (o % 64 / 8) v s
  else if 0x82000 ≤ o ∧ o < 0x8A000 then peerWrite l ((o - 0x82000) / 32) ((o - 0x82000) % 32 / 8) v s
  else if 0x8C000 ≤ o ∧ o < 0x90000 then s.wr off v
  else if 0xA0000 ≤ o ∧ o < 0xC0000 then flowWrite l ((o - 0xA0000) / 32) (o % 32 / 8) v s
  else plainWrite s off v

/-- A write of field f's registers. -/
def fieldWriteReg (f o : Nat) (v : Word) (s : State) : State :=
  if o = 0 then fldCtlWrite f v s
  else if o = 0x408 then (if bit v 0 then occEmpty f s else s)
  else if o = 0x548 then errClrWrite (domField f) v s
  else if o = 0x600 then fldPwrWrite f v s
  else plainWrite s (fieldBase f + o) v

/-- A 64-bit software write of a BAR0 register: its access codes, and what the register does. -/
def regWrite (off : Nat) (v : Word) (s : State) : State :=
  match blockOf off with
  | (.modG, o) => modWriteReg o v s
  | (.limb l, o) => limbWriteReg l o v s
  | (.field f, o) => fieldWriteReg f o v s
  | (.core c, o) => if o = 8 then admitHeld c (coreRegWrite c o v s) else coreRegWrite c o v s
  | (.reserved, _) => s

/-- A 64-bit BAR0 write as BAR0 takes it. -/
def barWrite (off : Nat) (v : Word) (s : State) : State :=
  if !writable s off then s else if roWindow off then winDrop s else regWrite off v s

/-- What a 32-bit write writes: the half given, and for the other half what its RW fields hold and 0 for the rest. -/
def mergeHalf (s : State) (off : Nat) (half : Nat) : Word :=
  let o := s.rd (off / 8 * 8)
  let keep := (regFields (off / 8 * 8)).foldl (fun w f => if f.acc = .rw ∨ f.acc = .rws then setBits w f.hi f.lo (bits o f.hi f.lo) else w) (0 : Word)
  let lo := off % 8 * 8
  setBits keep (lo + 31) lo half

/-! ### Reads -/

/-- The value that a read returns; EN of the host window reads 0 outside ACTIVE (R413). -/
def regRead (s : State) (off : Nat) : Word := let w := readValue s off; if off = 0x4008 ∧ winEnabled s = false then setBits w 63 63 0 else w

/-- RC fields that overlap the addressed bits return to their reset value (R17, R20). -/
def readClear (off hi lo : Nat) (s : State) : State :=
  if (regFields off).any (fun f => f.acc == .rc && f.lo ≤ hi && lo ≤ f.hi) then
    s.wr off ((regFields off).foldl (fun w f => if f.lo ≤ hi ∧ lo ≤ f.hi then f.afterRead off w else w) (s.rd off))
  else s

/-- A BAR0 read of n bytes inside one 64-bit value (R755). -/
def barRead (off n : Nat) (s : State) : State :=
  let q := off / 8 * 8
  let k := min n (8 - off % 8)
  if decodes s off then
    (readClear q (8 * (off % 8 + k) - 1) (8 * (off % 8)) s).emit (.readDone 0 (((leBytes 8 (regRead s q).toNat).drop (off % 8)).take k))
  else (s.satFld rHostStat 31 16 1).emit (.readDone 0 (List.replicate k 0xFF))

/-- A BAR0 access (R755): natural 32-bit and 64-bit writes; in D3hot the BARs do not decode (R751). -/
def bar0 (write : Bool) (off size : Nat) (v : Word) (s : State) : State :=
  if !s.host.linkUp || 2 ^ 28 ≤ off then s
  else if s.host.d3hot then (if write then s else s.emit (.readDone 1 []))
  else if write then
    (if size = 8 ∧ off % 8 = 0 then barWrite off v s
     else if size = 4 ∧ off % 4 = 0 then barWrite (off / 8 * 8) (mergeHalf s off (bits v 31 0)) s
     else if writable s off then winDrop s else s)
  else if size = 0 then s else barRead off size s

def execBar0Access (write : Bool) (off size : Nat) (value : Word) (s : State) : Res := .next (withReads (bar0 write off size value) s)
/-- REGISTER_WRITE: one 64-bit write. -/
def execRegisterWrite (off : Nat) (value : Word) (s : State) : Res := .next (withReads (bar0 true (off / 8 * 8) 8 value) s)
/-- REGISTER_RC_READ: one 64-bit read. -/
def execRegisterRcRead (off : Nat) (s : State) : Res := .next (bar0 false (off / 8 * 8) 8 0 s)

/-! ### Requests of the host limb into the wafer (R408) -/

/-- A read of n bytes at byte address a of a core or field store. -/
def waferRead (who off a dx dy n : Nat) (s : State) : State :=
  askFrom (hostLimb s) { who := who, off := off, write := false, skip := a % 64, len := n, got := [] } 3 dx dy (a / 64 * 64) (min 64 (ceilDiv (a % 64 + n) 64)) 0 0 [] s

/-- A write that is answered: WRA packets, which leave the bytes beside them as they are (R68, R408, R865); `loc` is the module address. -/
def waferAsk (who loc dx dy a : Nat) (bs : List Byte) (s : State) : State :=
  let hi := (8 - (a + bs.length) % 8) % 8
  ((packets (a / 8 * 8) (coverWords a (bs.map (fun b => (b, false))))).zipIdx).foldl (fun t q =>
    askFrom (hostLimb s) { who := who, off := 0, write := true, skip := loc, len := 0, got := [] } 2 dx dy q.1.1 1 (if q.2 = 0 then a % 8 else 0) (if q.1.2.1 then hi else 0) q.1.2.2 t) s

/-- A write to a core: WRA, so that a lost one is reported (R760). -/
def coreAsk (who loc c a : Nat) (bs : List Byte) (s : State) : State := waferAsk who loc (coreX c) (coreY c) a bs s

/-- A write to a field store: FSW where no answer is needed, WRA for the debug transport. -/
def storeAsk (who loc f a : Nat) (bs : List Byte) (s : State) : State :=
  if who = 1 then waferAsk 1 loc 0x1FF f a bs s else waferWrite (hostLimb s) postedTag 8 0x1FF f a false (bs.map (fun b => (b, false))) s

/-! ### BAR2 (R759 to R761) -/

/-- A completion without data, for a read. -/
def noData (write : Bool) (st : Nat) (s : State) : State := if write then s else s.emit (.readDone st [])

/-- The poisoned words among n bytes of the store range at a. -/
def storePoison (s : State) (a n : Nat) : Bool := (memWords s (a / 8) (ceilDiv (a % 8 + n) 8)).any (fun w => w.x)
/-- n bytes of the store range at a. -/
def rangeBytes (s : State) (a n : Nat) : List Byte := tspan 0 s.mem a n

/-- An access at a module address. -/
def bar2At (write : Bool) (off addr n : Nat) (bs : List Byte) (s : State) : State :=
  match placeOf addr with
  | .store a =>
    if (homeLimb s (a / granule)).isNone then noData write 2 (bar2Err s)
    else if write then
      let w := writeBytes false a bs s
      if w.1 then w.2 else raise (domLimb (hostLimb s)) 1 10 0x0601 (wd addr) (bar2Err w.2)
    else s.emit (.readDone (if storePoison s a n then 3 else 0) (rangeBytes s a n))
  | .fs f a => if write then storeAsk 0 addr f a bs s else waferRead 0 off a 0x1FF f n s
  | .core c a => if write then coreAsk 0 addr c a bs s else waferRead 0 off a (coreX c) (coreY c) n s
  | .host _ => noData write 1 s
  | .reserved => noData write 1 (addrError (hostLimb s) addr s)

/-- A BAR2 access of at most 4,096 bytes. -/
def bar2 (write : Bool) (off len : Nat) (data : List Byte) (s : State) : State :=
  let o := off % 2 ^ 36
  let e := s.rd (0x880 + 8 * (o / 2 ^ 32))
  let bs := data.take 4096
  let n := if write then bs.length else min len 4096
  if !s.host.linkUp || n = 0 then s
  else if s.host.d3hot || bootStage s < 5 then noData write 1 s
  else if !bit e 63 then noData write 1 (bar2Err s)
  else if domeState s = 3 then noData write 2 s
  else bar2At write o (bits e 47 32 * 2 ^ 32 + o % 2 ^ 32) n bs s

def execBar2Access (write : Bool) (off len : Nat) (data : List Byte) (s : State) : Res := .next (bar2 write off len data s)

/-- A read that is not answered within RDLIMIT: Completer Abort (R761). BAR0 reads of this model are answered at once. -/
def execBarReadTimeout (bar off : Nat) (s : State) : Res :=
  match s.reqs.find? (fun p => p.2.who == 0 && !p.2.write && p.2.off == off) with
  | some p =>
    if bar = 2 then
      let s1 := ({ s with reqs := terase s.reqs p.1 }.satFld rHostStat 47 32 1).emit (.readDone 2 [])
      .next (raise (domLimb (hostLimb s)) 1 10 0x0602 (wd (2 * 2 ^ 62 + off % 2 ^ 36)) s1)
    else .next s
  | none => .next s

/-! ### The debug transport (R857) -/

/-- The frame that a scan shifts out. -/
def xpFrame (x : Xport) : List Byte :=
  leBytes 1 x.op ++ leBytes 1 (if x.busy then 4 else x.rstat) ++ leBytes 2 x.tag ++ leBytes 1 x.len ++ List.replicate 3 0 ++ leBytes 8 x.addr ++
  (if x.busy then List.replicate 64 0 else (x.data ++ List.replicate 64 0).take 64)

/-- A scan: the previous response leaves; the new request is performed unless the previous one has not completed. `need` is the SCOPE bits of which one is enough. -/
def xpScan (op tag addr len need : Nat) (act : State → State) (s : State) : State :=
  let s1 := s.emit (.tdo (xpFrame s.xp))
  if s.xp.busy then s1
  else
    let st := if !s.flag rBoot 21 then 1 else if s.fld rBoot 25 24 &&& need = 0 then 2 else 0
    let s2 := { s1 with xp := { Xport.reset with rstat := st, op := op, tag := tag % 65536, len := len % 256, addr := addr % 2 ^ 64 } }
    if st = 0 then act s2 else s2

/-- The response of the request in progress. -/
def xpDone (rstat : Nat) (data : List Byte) (s : State) : State := { s with xp := { s.xp with busy := false, rstat := rstat, data := data } }
/-- The request in progress waits for an answer. -/
def xpWait (s : State) : State := { s with xp := { s.xp with busy := true } }

/-- LEN is one of the four, and ADDR is aligned to it. -/
def xpAligned (addr len : Nat) : Bool := [8, 16, 32, 64].contains len && addr % len == 0

/-- READ at a module address. -/
def xpRead (addr len : Nat) (s : State) : State :=
  if !xpAligned addr len then xpDone 3 [] s
  else match placeOf (addr % 2 ^ 48) with
    | .store a => if storePoison s a len || (homeLimb s (a / granule)).isNone then xpDone 3 [] s else xpDone 0 (rangeBytes s a len) s
    | .fs f a => waferRead 1 0 a 0x1FF f len (xpWait s)
    | .core c a => waferRead 1 0 a (coreX c) (coreY c) len (xpWait s)
    | .host a => (match winTranslate s a false with
      | some h => hostRead ⟨2, 0, 0, h.1, len, a⟩ h.2 (xpWait s)
      | none => xpDone 3 [] (winError a s))
    | .reserved => xpDone 3 [] (addrError (hostLimb s) addr s)

/-- WRITE at a module address. -/
def xpWrite (addr len : Nat) (data : List Byte) (s : State) : State :=
  let bs := (data ++ List.replicate len 0).take len
  if !xpAligned addr len then xpDone 3 [] s
  else match placeOf (addr % 2 ^ 48) with
    | .store a => let w := writeBytes false a bs s; xpDone (if w.1 then 0 else 3) [] w.2
    | .fs f a => storeAsk 1 addr f a bs (xpWait s)
    | .core c a => coreAsk 1 addr c a bs (xpWait s)
    | .host a => (match winTranslate s a true with
      | some h => xpDone 0 [] (s.emit (.hostWrite h.1 bs h.2))
      | none => xpDone 3 [] (winError a s))
    | .reserved => xpDone 3 [] (addrError (hostLimb s) addr s)

/-- A core operation on the core that ADDR names; ERROR where there is none or its domain is off. -/
def xpCore (addr : Nat) (act : Nat → State → State) (s : State) : State :=
  let x := nbits addr 8 0
  let y := nbits addr 16 9
  if x < 448 ∧ y < 180 ∧ computeOn s (fieldOf (coreAt x y)) = true then act (coreAt x y) s else xpDone 3 [] s

/-- The TAP is powered with the host limb. -/
def tapOn (s : State) : Bool := domSt s (252 + 4 * hostLimb s) == 2

def execXportRead (tag addr len : Nat) (s : State) : Res := .next (if tapOn s then xpScan 1 tag addr len 2 (xpRead addr len) s else s)
def execXportWrite (tag addr len : Nat) (data : List Byte) (s : State) : Res := .next (if tapOn s then xpScan 2 tag addr len 2 (xpWrite addr len data) s else s)
def execXportHalt (tag addr : Nat) (s : State) : Res :=
  .next (if tapOn s then xpScan 3 tag addr 0 1 (xpCore addr (fun c t => admitHeld c (haltCore c t))) s else s)
def execXportStep (tag addr : Nat) (s : State) : Res := .next (if tapOn s then xpScan 4 tag addr 0 1 (xpCore addr stepCore) s else s)
def execXportResume (tag addr : Nat) (s : State) : Res :=
  .next (if tapOn s then xpScan 5 tag addr 0 1 (xpCore addr (fun c t => admitHeld c (runCore c t))) s else s)
def execXportStatus (tag addr : Nat) (s : State) : Res :=
  .next (if tapOn s then xpScan 6 tag addr 0 3 (xpCore addr (fun c t => xpDone 0 (leBytes 8 (t.rd (rCoreStat c)).toNat) t)) s else s)

end Sys2Proof.Machine
end

