-- ==== Sys2Proof/Machine/CoreCtl.lean ====
section
/-! DEFINITION. Control of one core, the cohort barrier, and the events of the containment domains (R53 to R60, R89 to R108, R120 to R128, R618, R624, R626, R630). -/

namespace Sys2Proof.Machine

/-! ### Control (R53, R120 to R125) -/

/-- A write of CORE_CTL.RUN (R123, R125). -/
def execRun (c : CoreId) (value : Bool) (s : State) : Res :=
  .next (admitHeld c.val (if value then runCore c.val s else if coreDisabled s c.val then s else haltCore c.val s))

/-- A write of CORE_CTL.HALT = 1 (R53, R120 to R122). -/
def execHalt (c : CoreId) (s : State) : Res := .next (admitHeld c.val (haltCore c.val s))

/-- A write of CORE_CTL.STEP1 = 1 (R53). -/
def execStep1 (c : CoreId) (s : State) : Res := .next (stepCore c.val s)

/-- The halt in progress is taken once the array's accesses are complete, and the port admits what it holds (R106, R107, R120, R126). -/
def execHaltTaken (c : CoreId) (s : State) : Res :=
  match (s.core c.val).haltTo with
  | some st => if arrayBusy (s.core c.val) then .next s else .next (admitHeld c.val (enterHalt c.val st s))
  | none => .next (admitHeld c.val s)

/-- A core halts into STATE 5 before it issues the instruction at an enabled breakpoint (R59). -/
def execBreakpointHit (c : CoreId) (s : State) : Res :=
  if coreSt s c.val = 1 ∧ (s.core c.val).haltTo = none ∧ atBreakpoint s c.val = true then .next (admitHeld c.val (reqHalt c.val 5 s))
  else .next s

/-- The watchdog reaches the effective SEQ_LIMIT (R127 to R129): it does not count while a started array instruction is at work. -/
def execSequencerWatchdog (c : CoreId) (s : State) : Res :=
  if coreSt s c.val = 1 ∧ s.flag (rCoreCtl c.val) 4 = true ∧ arrayBusy (s.core c.val) = false then .next (coreFault c.val 0 0x0009 (wd (corePc s c.val)) s) else .next s

/-- A wait in STATE 2 or 3 exceeds its limit: LONG_WAIT and one deferred error for that wait (R108). -/
def execWaitLimitExceeded (c : CoreId) (s : State) : Res :=
  if (coreSt s c.val = 2 ∨ coreSt s c.val = 3) ∧ s.flag (rCoreCtl c.val) 4 = true ∧ (s.core c.val).longRec = false then
    let s1 := (s.setFld (rCoreStat c.val) 48 48 1).modCore c.val (fun k => { k with longRec := true })
    .next (raise (domCore c.val) 1 0 0x0006 (wd (corePc s c.val)) s1)
  else .next s

/-- CYCLES of CORE_CNT_BUSY or CORE_CNT_WAIT wraps (R57): event 0x1004 with the register's BAR0 offset and the new count. -/
def execCounterWrap (c : CoreId) (busy : Bool) (s : State) : Res :=
  let r := if busy then rCoreBusy c.val else rCoreWait c.val
  let n := satAdd 16 (s.fld r 63 48) 1
  .next (nlogEvent 0 0x1004 (locOf (.core c)) (wd r) (wd n) ((s.setFld r 63 48 n).setFld r 47 0 0))

/-- The corrected codeword is written back at an idle cycle of the bank (R73), where the word still reads as corrected. -/
def execCorrectedWriteback (c : CoreId) (instr : Bool) (word : Nat) (s : State) : Res :=
  let k := s.core c.val
  if k.wbq.contains (instr, word) then
    let st := if instr then k.istore else k.store
    let st' := match tfind st word with
      | some w => match eccDecode w word with
        | .corrected _ fixed => tset st word fixed
        | _ => st
      | none => st
    .next (s.modCore c.val (fun k => { k with
      wbq := k.wbq.filter (fun q => q != (instr, word)), istore := if instr then st' else k.istore, store := if instr then k.store else st' }))
  else .next s

/-! ### The cohort barrier (R90 to R95, R733) -/

/-- The barrier may release: every mapped core has arrived, and the field is not quiesced (R91, R94, R95). -/
def barrierReady (s : State) (f : Nat) : Bool :=
  !(mappedOf s f).isEmpty && (mappedOf s f).all (fun c => (s.core c).arrived) && !s.flag (rFldStat f) 1

/-- One core at the release: it toggles its window, counts the epoch, and resumes from STATE 3; a STEP1 of its BAR.COH completes (R91, R93, R95). -/
def releaseCore (c : Nat) (s : State) : State :=
  let s1 := (s.setFld (rCoreStat c) 3 3 (1 + s.fld (rCoreStat c) 3 3)).addFld (rCoreStat c) 47 32 1
  let s2 := s1.modCore c (fun k => { k with arrived := false, longRec := false })
  let s3 := if coreSt s2 c = 3 then (let t := s2.setFld (rCoreStat c) 2 0 1; if t.flag (rCoreCtl c) 2 then reqHalt c 4 t else t) else s2
  admitHeld c s3

/-- BARRIER_RELEASE with its phase change (R91, R733). -/
def execBarrierRelease (f : FieldId) (s : State) : Res :=
  if barrierReady s f.val then .next (releaseField f.val (forEach (mappedOf s f.val) releaseCore s)) else .next s

/-- Late admission begins (R104): the compute window, STATE 2, and the drain complete. -/
def execLateAdmissionBegin (c : CoreId) (s : State) : Res :=
  if coreWindow s c.val && coreSt s c.val == 2 && drained s c.val then .next (admitHeld c.val (s.setFld (rCoreStat c.val) 4 4 1))
  else .next s

/-- A transfer's token arrival (R97, R98, R102). -/
def execTokenArrival (c : CoreId) (tok gen : Nat) (s : State) : Res := .next (tokArrive c.val (tok % 64) (gen % 65536) s)

/-! ### Containment domains -/

def execClearActive (d : Dom) (nseq : Nat) (s : State) : Res := .next (clearAct d (nseq % 2 ^ 32) s)
def execClearPending (d : Dom) (nseq : Nat) (s : State) : Res := .next (clearPend d (nseq % 2 ^ 32) s)

/-- One increment of a child's ESC count reaches its parent (R624). -/
def execEscalationArrival (d : Dom) (s : State) : Res :=
  let n := tget 0 s.escOut (domKey d)
  if n = 0 then .next s
  else .next (raise (parentOf d) 2 0xFF 0x0FF0 (wd (dkind d * 2 ^ 17 + locOf d)) { s with escOut := tset s.escOut (domKey d) (n - 1) })

/-- A held limb resumes (R618): the hold is the state of its records, and nothing else changes when it ends. -/
def execLimbHoldEnd (_l : LimbId) (s : State) : Res := .next s

/-- A domain's corrected tally reaches CORR_BATCH: event 0x1007 and a new tally (R630, R645). -/
def execCorrectedBatch (d : Dom) (s : State) : Res :=
  let n := tget 0 s.tally (domKey d)
  let lim := s.fld rModErrCfg 15 0
  if lim != 0 && lim ≤ n then .next (nlogEvent (dkind d) 0x1007 (locOf d) (wd n) 0 { s with tally := tset s.tally (domKey d) 0 })
  else .next s

end Sys2Proof.Machine
end

