-- ==== Sys2Proof/Machine/LaunchRing.lean ====
section
/-! DEFINITION. Launch rings: doorbells, enabling, fetching and checking commands (R763 to R768), and their issue (R769, R770, R777). -/

namespace Sys2Proof.Machine

def rLrBase (i : Nat) : Nat := 0x1000 + 0x40 * i
def rLrCtl (i : Nat) : Nat := 0x1008 + 0x40 * i
def rLrStat (i : Nat) : Nat := 0x1010 + 0x40 * i
def rLrErr (i : Nat) : Nat := 0x1018 + 0x40 * i
/-- PROD and CONS (R792). -/
def lrProd (s : State) (i : Nat) : Nat := s.fld (rLrStat i) 63 32
def lrCons (s : State) (i : Nat) : Nat := s.fld (rLrStat i) 31 0
/-- Entries of a ring; SIZE above 10 acts as 10. -/
def lrEntries (s : State) (i : Nat) : Nat := 2 ^ (min (s.fld (rLrCtl i) 59 56) 10 + 6)
/-- A ring is enabled and not stopped. -/
def lrRuns (s : State) (i : Nat) : Bool := i < 64 && s.flag (rLrCtl i) 63 && !s.flag (rLrErr i) 63

/-- A doorbell write (R763). -/
def execDoorbell (ring : Nat) (prod : Half) (s : State) : Res :=
  .next (if ring < 64 && hostUp s && domeState s != 3 then s.setFld (rLrStat ring) 63 32 prod.toNat else s)

/-- EN is written as 1 (R766). -/
def execLaunchRingEnable (ring : Nat) (s : State) : Res :=
  .next (if ring < 64 && hostUp s && writable s (rLrCtl ring) then lrCtlWrite ring (setBits (s.rd (rLrCtl ring)) 63 63 1) s else s)

/-- The ring stops: 1 overrun, 2 fetch error (R766, R789, R790). -/
def lrStop (i cause : Nat) (s : State) : State :=
  let s1 := (s.setFld (rLrErr i) 63 63 1).setFld (rLrErr i) 55 48 cause
  nlogEvent 3 0x1402 0 (wd i) (wd cause) (raise (domLimb (hostLimb s)) 1 10 0x0603 (wd (i * 256 + cause)) s1)

/-! ### Checking a command (R767, R768) -/

/-- Word w is reserved. -/
def zeroWords (ws : List Nat) : List FieldRule := ws.map (fun w => ruleZero w 63 0)

/-- OP as used: a reserved OP, and a LOAD with a reserved STYPE, become NOP. -/
def lrOp (e : Nat) : Nat :=
  let op := nbits e 63 56
  let st := nbits e 71 64
  if 8 < op then 0 else if op = 5 ∧ (st = 0 ∨ 10 < st) then 0 else op

/-- The fields of a command. -/
def lrRules (e : Nat) : List FieldRule :=
  let op := lrOp e
  [⟨56, 8, fun _ => op⟩, rule0 54 32] ++
  (match op with
   | 1 => zeroWords [2, 3, 4, 5, 6, 7]
   | 3 => [ruleZero 1 47 43, ruleZero 1 39 12] ++ zeroWords [2, 3, 4, 5, 6, 7]
   | 4 => [ruleZero 1 61 48, ruleZero 1 31 8] ++ zeroWords [2, 3, 4, 5, 6, 7]
   | 5 =>
     (if nbits e 71 64 = 8 ∨ nbits e 71 64 = 9 then [rule32 1 15 8 (fun v => min v 83)] else []) ++ [ruleZero 1 63 17, rule32 3 63 0 (fun v => alignDown v 64)] ++ zeroWords [4, 5, 6, 7]
   | 6 => [rule32 1 6 0 (fun v => min v 83), ruleZero 1 63 8] ++ zeroWords [2, 3, 4, 5, 6, 7]
   | 7 => [rule32 1 6 0 (fun v => min v 83), ruleZero 1 63 8] ++ zeroWords [2, 3, 4, 5, 6, 7]
   | 8 => [ruleZero 1 2 0, ruleZero 1 63 28] ++ zeroWords [3, 4, 5, 6, 7]
   | _ => zeroWords [1, 2, 3, 4, 5, 6, 7])

/-- A fetched command is checked and kept until it is issued; its clamps are reported with source COMMAND. -/
def lrTake (i : Nat) (ws : List Word) (s : State) : State :=
  let e := wordsN (padWords 8 ws)
  let c := checkEntry (lrRules e) e
  let r := clampReport 4 0x14 0xFF (c.2.map (fun k => (lrCons s i, k))) s
  r.2.modHost (fun h => { h with cmds := tset h.cmds i { words := nWords 8 c.1, report := r.1, nclamp := c.2.length } })

/-- COMMAND_FETCH: the next command of a ring is read, or the ring stops (R765, R766); `words` is what the host answered. -/
def execCommandFetch (ring : Nat) (words : Option (List Word)) (s : State) : Res :=
  let i := ring
  if !lrRuns s i || !hostUp s || lrProd s i == lrCons s i || (tfind s.host.cmds i).isSome then .next s
  else if lrEntries s i < (lrProd s i + 2 ^ 32 - lrCons s i) % 2 ^ 32 then .next (lrStop i 1 s)
  else
    let s1 := s.emit (.hostRead (s.fld (rLrBase i) 63 12 * 4096 + 64 * (lrCons s i % lrEntries s i)) 64 (freshTag s.hreqs) false)
    match words with
    | none => .next (lrStop i 2 s1)
    | some ws => .next (lrTake i ws s1)

/-! ### Issue (R769, R770) -/

/-- The command of a ring that is ready to issue, if its OP is the one asked. -/
def lrReady (s : State) (i op : Nat) : Option LrCmd :=
  match tfind s.host.cmds i with
  | some k => if lrRuns s i && bits (k.words.getD 0 0) 63 56 == op then some k else none
  | none => none

/-- The command record: OP, STATUS, CTAG; REPORT and NCLAMP; the ring index; the time of issue (R777). It is posted with CQ = 1, and for every status but OK. -/
def lrRecord (i cq st : Nat) (k : LrCmd) (idx report n : Nat) (now : Word) (s : State) : State :=
  let w0 := k.words.getD 0 0
  if bit w0 55 = true ∨ st ≠ 0 then
    postTo cq 5 i [wd (bits w0 63 56 * 2 ^ 56 + st * 2 ^ 52 + bits w0 31 0), wd (report * 2 ^ 32 + min n 65535 * 2 ^ 16), wd idx, now] s
  else s

/-- A command is issued: CONS moves on, the command acts, its record is posted. A LOAD that clamped reports its own clamps. -/
def lrIssue (i op : Nat) (act : LrCmd → State → Nat × State) (s : State) : State :=
  match lrReady s i op with
  | none => s
  | some k =>
    let idx := lrCons s i
    let now := sidereal s
    let cq := lrCq s i
    let s1 := (s.setFld (rLrStat i) 31 0 (idx + 1)).modHost (fun h => { h with cmds := terase h.cmds i })
    let r := act k s1
    let n := (r.2.rd ringClamp.head - s1.rd ringClamp.head).toNat
    let own := op == 5 && n != 0
    lrRecord i cq r.1 k idx (if own then s1.report else k.report) (if own then n else k.nclamp) now r.2

/-- Word w of a command. -/
def lrW (k : LrCmd) (w : Nat) : Word := k.words.getD w 0

def execLrNop (ring : Nat) (s : State) : Res := .next (lrIssue ring 0 (fun _ t => (0, t)) s)

/-- LAUNCH, which waits while a plate is in SNAP (R596, R775). -/
def execLaunch (ring : Nat) (s : State) : Res :=
  if pltPhase s = 1 ∧ launchStatus (((lrReady s ring 1).map (fun k => lrW k 1)).getD 0) s = 0 then .next s
  else .next (lrIssue ring 1 (fun k t => let st := launchStatus (lrW k 1) t; (st, if st = 0 then launchAccept t else t)) s)

def execAbandon (ring : Nat) (s : State) : Res := .next (lrIssue ring 2 (fun _ t => (0, abandon t)) s)

/-- ARM; REFUSED where the limb's logic is not ON. -/
def execLrArm (ring : Nat) (s : State) : Res :=
  .next (lrIssue ring 3 (fun k t =>
    let l := bits (lrW k 1) 42 40
    if limbOn t l then (0, armChan l (bits (lrW k 1) 11 0) (bits (lrW k 1) 63 48) ring t) else (1, t)) s)

/-- PLAN; REFUSED where the limb's logic is not ON. LIMB lies inside RTAG, as R767 states both. -/
def execLrPlan (ring : Nat) (s : State) : Res :=
  .next (withReads (lrIssue ring 4 (fun k t =>
    let l := bits (lrW k 1) 42 40
    if limbOn t l then (0, mrdCmdWrite l ring (lrW k 1) t) else (1, t))) s)

/-- LOAD; `source` is what the host answered for a source in host memory. -/
def execLoad (ring : Nat) (source : Option (List Byte)) (s : State) : Res :=
  .next (withReads (lrIssue ring 5 (fun k t => doLoad (lrW k 1) (lrW k 2) (lrW k 3) source t)) s)

def execFstart (ring : Nat) (s : State) : Res :=
  .next (lrIssue ring 6 (fun k t => doFstart (bit (lrW k 1) 7) (bits (lrW k 1) 6 0) t) s)
def execQuiesce (ring : Nat) (s : State) : Res :=
  .next (lrIssue ring 7 (fun k t => (0, doQuiesce (bit (lrW k 1) 7) (bits (lrW k 1) 6 0) t)) s)

/-- WRITE: one 64-bit BAR0 write; REFUSED in a read-only window. -/
def execLrWrite (ring : Nat) (s : State) : Res :=
  .next (withReads (lrIssue ring 8 (fun k t =>
    let off := bits (lrW k 1) 27 3 * 8
    if roWindow off then (1, t) else (0, barWrite off (lrW k 2) t))) s)

end Sys2Proof.Machine
end

