-- ==== Sys2Proof/Machine/Training.lean ====
section
/-! DEFINITION. Link training with the failing lanes of the defect catalogue: KIND 3 records of the factory table and of the fused extension (R345, R694, R695, R698). -/

namespace Sys2Proof.Machine

/-- The records of the factory catalogue, where it was taken at boot (R695). -/
def factoryRecords (s : State) : List Nat :=
  (List.range (leNat (kindBody s 4 0 4))).map (fun i => leNat (kindBody s 4 (4 + 4 * i) 4))

/-- The records of both parts of the catalogue. -/
def catalogue (s : State) : List Nat := factoryRecords s ++ (List.range 1024).map (extRecord s)

/-- The wire that a record names as failing on the link of core c's router toward `dir`, of its 34 wires a group. -/
def recordLane (c dir r : Nat) : Option Nat :=
  if nbits r 31 29 = 3 ∧ nbits r 28 12 = c ∧ nbits r 11 10 = dir ∧ nbits r 9 5 < 18 then some (34 * nbits r 9 5 + nbits r 4 0) else none

/-- The failing lanes of a link that the catalogue names. A record names the link of a router toward a neighbor; it counts for the direction that leaves the router. DESIGN CHOICE (entry 89). -/
def catalogueLanes (k : LinkRef) (s : State) : List Nat :=
  match k.kind with
  | .core => (catalogue s).filterMap (recordLane k.at_ (k.dir % 4))
  | .seam => (catalogue s).filterMap (recordLane k.at_ (k.dir % 4))
  | _ => []

/-- LINK_TRAINING (R345, R350): lanes that the PRBS pattern finds failing, and those of the catalogue. -/
def execLinkTraining (k : LinkRef) (failing : List Nat) (s : State) : Res := .next (trainLink k (failing ++ catalogueLanes k s) s)

/-- LINK_RETRAIN_DONE (R345, R349, R350). -/
def execLinkRetrainDone (k : LinkRef) (failing : List Nat) (s : State) : Res := .next (retrainLink k (failing ++ catalogueLanes k s) s)

end Sys2Proof.Machine
end

