-- ==== Sys2Proof/Machine/Dispatch.lean ====
section
/-! DEFINITION. One arm for each command: its meaning, called once. -/

namespace Sys2Proof.Machine

def exec (i : Instr) (s : State) : Host.Outcome State Fault Refusal :=
  match i with
  | .coldReset => Sys2Proof.Machine.execColdReset s
  | .warmReset => Sys2Proof.Machine.execWarmReset s
  | .modPwrenHigh => Sys2Proof.Machine.execModPwrenHigh s
  | .modPwrenLow => Sys2Proof.Machine.execModPwrenLow s
  | .powerUpSequenceStep => Sys2Proof.Machine.execPowerUpSequenceStep s
  | .railPowerGoodTimeout => Sys2Proof.Machine.execRailPowerGoodTimeout s
  | .perstAssert => Sys2Proof.Machine.execPerstAssert s
  | .epoN => Sys2Proof.Machine.execEpoN s
  | .inputLost => Sys2Proof.Machine.execInputLost s
  | .clipOvercurrent b => Sys2Proof.Machine.execClipOvercurrent b s
  | .clipRestored => Sys2Proof.Machine.execClipRestored s
  | .thermWarnNChange asserted => Sys2Proof.Machine.execThermWarnNChange asserted s
  | .thermWarnNGlitch samples => Sys2Proof.Machine.execThermWarnNGlitch samples s
  | .thermWarnNReminder => Sys2Proof.Machine.execThermWarnNReminder s
  | .thermWarnNNoisy => Sys2Proof.Machine.execThermWarnNNoisy s
  | .thermWarnNQuiet low => Sys2Proof.Machine.execThermWarnNQuiet low s
  | .epoNGlitch samples => Sys2Proof.Machine.execEpoNGlitch samples s
  | .sync1ppsEdge => Sys2Proof.Machine.execSync1ppsEdge s
  | .sync1ppsIgnored => Sys2Proof.Machine.execSync1ppsIgnored s
  | .ppsAbsent => Sys2Proof.Machine.execPpsAbsent s
  | .add c => Sys2Proof.Machine.execAdd c s
  | .sub c => Sys2Proof.Machine.execSub c s
  | .and c => Sys2Proof.Machine.execAnd c s
  | .or c => Sys2Proof.Machine.execOr c s
  | .xor c => Sys2Proof.Machine.execXor c s
  | .shl c => Sys2Proof.Machine.execShl c s
  | .shr c => Sys2Proof.Machine.execShr c s
  | .sra c => Sys2Proof.Machine.execSra c s
  | .mul c => Sys2Proof.Machine.execMul c s
  | .mulhu c => Sys2Proof.Machine.execMulhu c s
  | .mulhs c => Sys2Proof.Machine.execMulhs c s
  | .min c => Sys2Proof.Machine.execMin c s
  | .max c => Sys2Proof.Machine.execMax c s
  | .minu c => Sys2Proof.Machine.execMinu c s
  | .maxu c => Sys2Proof.Machine.execMaxu c s
  | .slt c => Sys2Proof.Machine.execSlt c s
  | .sltu c => Sys2Proof.Machine.execSltu c s
  | .seq c => Sys2Proof.Machine.execSeq c s
  | .sel c => Sys2Proof.Machine.execSel c s
  | .faddD c => Sys2Proof.Machine.execFaddD c s
  | .fsubD c => Sys2Proof.Machine.execFsubD c s
  | .fmulD c => Sys2Proof.Machine.execFmulD c s
  | .fmaD c => Sys2Proof.Machine.execFmaD c s
  | .faddF c => Sys2Proof.Machine.execFaddF c s
  | .fsubF c => Sys2Proof.Machine.execFsubF c s
  | .fmulF c => Sys2Proof.Machine.execFmulF c s
  | .fmaF c => Sys2Proof.Machine.execFmaF c s
  | .fcvtFD c => Sys2Proof.Machine.execFcvtFD c s
  | .fcvtDF c => Sys2Proof.Machine.execFcvtDF c s
  | .fcvtID c => Sys2Proof.Machine.execFcvtID c s
  | .fcvtDI c => Sys2Proof.Machine.execFcvtDI c s
  | .fltD c => Sys2Proof.Machine.execFltD c s
  | .feqD c => Sys2Proof.Machine.execFeqD c s
  | .addi c => Sys2Proof.Machine.execAddi c s
  | .andi c => Sys2Proof.Machine.execAndi c s
  | .ori c => Sys2Proof.Machine.execOri c s
  | .xori c => Sys2Proof.Machine.execXori c s
  | .shli c => Sys2Proof.Machine.execShli c s
  | .shri c => Sys2Proof.Machine.execShri c s
  | .srai c => Sys2Proof.Machine.execSrai c s
  | .slti c => Sys2Proof.Machine.execSlti c s
  | .sltui c => Sys2Proof.Machine.execSltui c s
  | .li c => Sys2Proof.Machine.execLi c s
  | .lih c => Sys2Proof.Machine.execLih c s
  | .ld c => Sys2Proof.Machine.execLd c s
  | .st c => Sys2Proof.Machine.execSt c s
  | .branch c => Sys2Proof.Machine.execBranch c s
  | .jmp c => Sys2Proof.Machine.execJmp c s
  | .call c => Sys2Proof.Machine.execCall c s
  | .jr c => Sys2Proof.Machine.execJr c s
  | .dbnz c => Sys2Proof.Machine.execDbnz c s
  | .nop c => Sys2Proof.Machine.execNop c s
  | .stop c => Sys2Proof.Machine.execStop c s
  | .brk c => Sys2Proof.Machine.execBrk c s
  | .sysRd c => Sys2Proof.Machine.execSysRd c s
  | .sysWr c => Sys2Proof.Machine.execSysWr c s
  | .fenceT c => Sys2Proof.Machine.execFenceT c s
  | .fenceS c => Sys2Proof.Machine.execFenceS c s
  | .fence c => Sys2Proof.Machine.execFence c s
  | .vadd c => Sys2Proof.Machine.execVadd c s
  | .vsub c => Sys2Proof.Machine.execVsub c s
  | .vmul c => Sys2Proof.Machine.execVmul c s
  | .vfma c => Sys2Proof.Machine.execVfma c s
  | .vmin c => Sys2Proof.Machine.execVmin c s
  | .vmax c => Sys2Proof.Machine.execVmax c s
  | .vabs c => Sys2Proof.Machine.execVabs c s
  | .vneg c => Sys2Proof.Machine.execVneg c s
  | .vcmp c => Sys2Proof.Machine.execVcmp c s
  | .vsel c => Sys2Proof.Machine.execVsel c s
  | .vdiv c => Sys2Proof.Machine.execVdiv c s
  | .vsqrt c => Sys2Proof.Machine.execVsqrt c s
  | .vbcast c => Sys2Proof.Machine.execVbcast c s
  | .vext c => Sys2Proof.Machine.execVext c s
  | .vins c => Sys2Proof.Machine.execVins c s
  | .vcvt c => Sys2Proof.Machine.execVcvt c s
  | .vmov c => Sys2Proof.Machine.execVmov c s
  | .vand c => Sys2Proof.Machine.execVand c s
  | .vor c => Sys2Proof.Machine.execVor c s
  | .vxor c => Sys2Proof.Machine.execVxor c s
  | .vshl c => Sys2Proof.Machine.execVshl c s
  | .vshr c => Sys2Proof.Machine.execVshr c s
  | .vsra c => Sys2Proof.Machine.execVsra c s
  | .vssq c => Sys2Proof.Machine.execVssq c s
  | .vmvar c => Sys2Proof.Machine.execVmvar c s
  | .vld c => Sys2Proof.Machine.execVld c s
  | .vldP c => Sys2Proof.Machine.execVldP c s
  | .vldS c => Sys2Proof.Machine.execVldS c s
  | .vldX c => Sys2Proof.Machine.execVldX c s
  | .vldB c => Sys2Proof.Machine.execVldB c s
  | .vst c => Sys2Proof.Machine.execVst c s
  | .vstP c => Sys2Proof.Machine.execVstP c s
  | .vstS c => Sys2Proof.Machine.execVstS c s
  | .vstX c => Sys2Proof.Machine.execVstX c s
  | .pset c => Sys2Proof.Machine.execPset c s
  | .pand c => Sys2Proof.Machine.execPand c s
  | .por c => Sys2Proof.Machine.execPor c s
  | .pxor c => Sys2Proof.Machine.execPxor c s
  | .pandn c => Sys2Proof.Machine.execPandn c s
  | .pnot c => Sys2Proof.Machine.execPnot c s
  | .pfrom c => Sys2Proof.Machine.execPfrom c s
  | .pto c => Sys2Proof.Machine.execPto c s
  | .pcnt c => Sys2Proof.Machine.execPcnt c s
  | .tld c => Sys2Proof.Machine.execTld c s
  | .tmac c => Sys2Proof.Machine.execTmac c s
  | .tclr c => Sys2Proof.Machine.execTclr c s
  | .temit c => Sys2Proof.Machine.execTemit c s
  | .tsumRow c => Sys2Proof.Machine.execTsumRow c s
  | .tsumCol c => Sys2Proof.Machine.execTsumCol c s
  | .arrayInstructionStart c mac => Sys2Proof.Machine.execArrayInstructionStart c mac s
  | .arrayInstructionDone c mac => Sys2Proof.Machine.execArrayInstructionDone c mac s
  | .send c => Sys2Proof.Machine.execSend c s
  | .sendMc c => Sys2Proof.Machine.execSendMc c s
  | .sendRead c => Sys2Proof.Machine.execSendRead c s
  | .waitTok c => Sys2Proof.Machine.execWaitTok c s
  | .waitTokComplete c => Sys2Proof.Machine.execWaitTokComplete c s
  | .clrTok c => Sys2Proof.Machine.execClrTok c s
  | .sigTok c => Sys2Proof.Machine.execSigTok c s
  | .barCoh c => Sys2Proof.Machine.execBarCoh c s
  | .barrierRelease f => Sys2Proof.Machine.execBarrierRelease f s
  | .lateAdmissionBegin c => Sys2Proof.Machine.execLateAdmissionBegin c s
  | .tokenArrival c tok gen => Sys2Proof.Machine.execTokenArrival c tok gen s
  | .run c value => Sys2Proof.Machine.execRun c value s
  | .halt c => Sys2Proof.Machine.execHalt c s
  | .step1 c => Sys2Proof.Machine.execStep1 c s
  | .haltTaken c => Sys2Proof.Machine.execHaltTaken c s
  | .breakpointHit c => Sys2Proof.Machine.execBreakpointHit c s
  | .sequencerWatchdog c => Sys2Proof.Machine.execSequencerWatchdog c s
  | .waitLimitExceeded c => Sys2Proof.Machine.execWaitLimitExceeded c s
  | .counterWrap c busy => Sys2Proof.Machine.execCounterWrap c busy s
  | .correctedWriteback c instr word => Sys2Proof.Machine.execCorrectedWriteback c instr word s
  | .wr p => Sys2Proof.Machine.execWr p s
  | .wra p => Sys2Proof.Machine.execWra p s
  | .rd p => Sys2Proof.Machine.execRd p s
  | .rdata p => Sys2Proof.Machine.execRdata p s
  | .wack p => Sys2Proof.Machine.execWack p s
  | .err p => Sys2Proof.Machine.execErr p s
  | .fsw p => Sys2Proof.Machine.execFsw p s
  | .lsend p => Sys2Proof.Machine.execLsend p s
  | .mcw p => Sys2Proof.Machine.execMcw p s
  | .hb c dir => Sys2Proof.Machine.execHb c dir s
  | .hbSend c => Sys2Proof.Machine.execHbSend c s
  | .heartbeatLoss c dir => Sys2Proof.Machine.execHeartbeatLoss c dir s
  | .reservedTypeDiscard c head => Sys2Proof.Machine.execReservedTypeDiscard c head s
  | .flitReceive k b => Sys2Proof.Machine.execFlitReceive k b s
  | .nak k ackseq => Sys2Proof.Machine.execNak k ackseq s
  | .linkReplayTimeout k => Sys2Proof.Machine.execLinkReplayTimeout k s
  | .linkRetrain k => Sys2Proof.Machine.execLinkRetrain k s
  | .linkRetrainDone k failing => Sys2Proof.Machine.execLinkRetrainDone k failing s
  | .linkTraining k failing => Sys2Proof.Machine.execLinkTraining k failing s
  | .seamPartnerReset east cut incomplete => Sys2Proof.Machine.execSeamPartnerReset east cut incomplete s
  | .seamFlushDone east => Sys2Proof.Machine.execSeamFlushDone east s
  | .seamPartnerRelease east => Sys2Proof.Machine.execSeamPartnerRelease east s
  | .seamResetRelease east => Sys2Proof.Machine.execSeamResetRelease east s
  | .seamPartnerOff east cut incomplete => Sys2Proof.Machine.execSeamPartnerOff east cut incomplete s
  | .seamClampOpen east => Sys2Proof.Machine.execSeamClampOpen east s
  | .granuleRead g first last engine bad mended malformed => Sys2Proof.Machine.execGranuleRead g first last engine bad mended malformed s
  | .granuleWrite addr data engine => Sys2Proof.Machine.execGranuleWrite addr data engine s
  | .slotClose l g => Sys2Proof.Machine.execSlotClose l g s
  | .migrationDone g => Sys2Proof.Machine.execMigrationDone g s
  | .eviction l => Sys2Proof.Machine.execEviction l s
  | .scrubRead l vault addr o last => Sys2Proof.Machine.execScrubRead l vault addr o last s
  | .homeApply => Sys2Proof.Machine.execHomeApply s
  | .hint l arg first count => Sys2Proof.Machine.execHint l arg first count s
  | .setelem l arg first count => Sys2Proof.Machine.execSetelem l arg first count s
  | .discard l first count => Sys2Proof.Machine.execDiscard l first count s
  | .flush l first count => Sys2Proof.Machine.execFlush l first count s
  | .migCmdDone l => Sys2Proof.Machine.execMigCmdDone l s
  | .hostWindowAccess addr write len data => Sys2Proof.Machine.execHostWindowAccess addr write len data s
  | .arm l chan arg => Sys2Proof.Machine.execArm l chan arg s
  | .setgen l chan value => Sys2Proof.Machine.execSetgen l chan value s
  | .slewCancel l chan => Sys2Proof.Machine.execSlewCancel l chan s
  | .slewChannelStart l => Sys2Proof.Machine.execSlewChannelStart l s
  | .slewTransferComplete l chan => Sys2Proof.Machine.execSlewTransferComplete l chan s
  | .channelWindowWrite l chan word value => Sys2Proof.Machine.execChannelWindowWrite l chan word value s
  | .slwCqTailWrite l value => Sys2Proof.Machine.execSlwCqTailWrite l value s
  | .fsmcDelivery l chan => Sys2Proof.Machine.execFsmcDelivery l chan s
  | .occulterSlotFilled f truth slot => Sys2Proof.Machine.execOcculterSlotFilled f truth slot s
  | .clear f => Sys2Proof.Machine.execClear f s
  | .frameReceive port fr => Sys2Proof.Machine.execFrameReceive port fr s
  | .data l => Sys2Proof.Machine.execData l s
  | .ack l => Sys2Proof.Machine.execAck l s
  | .roll l => Sys2Proof.Machine.execRoll l s
  | .ackSend l flow => Sys2Proof.Machine.execAckSend l flow s
  | .resend l flow seq => Sys2Proof.Machine.execResend l flow seq s
  | .rollCallSend l => Sys2Proof.Machine.execRollCallSend l s
  | .peerAbsent peer => Sys2Proof.Machine.execPeerAbsent peer s
  | .flowTableWrite l flow word value => Sys2Proof.Machine.execFlowTableWrite l flow word value s
  | .peerTableWrite l peer word value => Sys2Proof.Machine.execPeerTableWrite l peer word value s
  | .moduleIdWrite value => Sys2Proof.Machine.execModuleIdWrite value s
  | .portEnable port en => Sys2Proof.Machine.execPortEnable port en s
  | .start l plan rtag => Sys2Proof.Machine.execStart l plan rtag s
  | .planCancel l plan => Sys2Proof.Machine.execPlanCancel l plan s
  | .planRunComplete l plan => Sys2Proof.Machine.execPlanRunComplete l plan s
  | .responseBoundExceeded l plan => Sys2Proof.Machine.execResponseBoundExceeded l plan s
  | .stepScalarBegin l plan => Sys2Proof.Machine.execStepScalarBegin l plan s
  | .gradientVectorClose => Sys2Proof.Machine.execGradientVectorClose s
  | .updateVectorClose => Sys2Proof.Machine.execUpdateVectorClose s
  | .ptpSync port t1 t2 correction => Sys2Proof.Machine.execPtpSync port t1 t2 correction s
  | .pdelayReq port => Sys2Proof.Machine.execPdelayReq port s
  | .delayResp port t4 correction logInterval => Sys2Proof.Machine.execDelayResp port t4 correction logInterval s
  | .delayReqSend port => Sys2Proof.Machine.execDelayReqSend port s
  | .announce port => Sys2Proof.Machine.execAnnounce port s
  | .stepOutcomeDecision => Sys2Proof.Machine.execStepOutcomeDecision s
  | .updateStart => Sys2Proof.Machine.execUpdateStart s
  | .directedSlotWrite slot value => Sys2Proof.Machine.execDirectedSlotWrite slot value s
  | .directedDeadline => Sys2Proof.Machine.execDirectedDeadline s
  | .uProgramBatch l seg => Sys2Proof.Machine.execUProgramBatch l seg s
  | .sweepComplete l => Sys2Proof.Machine.execSweepComplete l s
  | .controlBankWrite => Sys2Proof.Machine.execControlBankWrite s
  | .commit steptag => Sys2Proof.Machine.execCommit steptag s
  | .init => Sys2Proof.Machine.execInit s
  | .take => Sys2Proof.Machine.execTake s
  | .plateCancel => Sys2Proof.Machine.execPlateCancel s
  | .verify rsel slot shard => Sys2Proof.Machine.execVerify rsel slot shard s
  | .restore rsel slot shard => Sys2Proof.Machine.execRestore rsel slot shard s
  | .delta slot bslot => Sys2Proof.Machine.execDelta slot bslot s
  | .plateApply slot => Sys2Proof.Machine.execPlateApply slot s
  | .mark slot => Sys2Proof.Machine.execMark slot s
  | .plateCommandDone => Sys2Proof.Machine.execPlateCommandDone s
  | .snapDone => Sys2Proof.Machine.execSnapDone s
  | .copyDone => Sys2Proof.Machine.execCopyDone s
  | .digestDone => Sys2Proof.Machine.execDigestDone s
  | .signDone => Sys2Proof.Machine.execSignDone s
  | .plateConfigWrite off value => Sys2Proof.Machine.execPlateConfigWrite off value s
  | .escalationArrival d => Sys2Proof.Machine.execEscalationArrival d s
  | .limbHoldEnd l => Sys2Proof.Machine.execLimbHoldEnd l s
  | .clearActive d nseq => Sys2Proof.Machine.execClearActive d nseq s
  | .clearPending d nseq => Sys2Proof.Machine.execClearPending d nseq s
  | .correctedBatch d => Sys2Proof.Machine.execCorrectedBatch d s
  | .nlogRecordWrite => Sys2Proof.Machine.execNlogRecordWrite s
  | .nlogInterrupt => Sys2Proof.Machine.execNlogInterrupt s
  | .fieldOff f => Sys2Proof.Machine.execFieldOff f s
  | .fieldOn f => Sys2Proof.Machine.execFieldOn f s
  | .hemiOff t => Sys2Proof.Machine.execHemiOff t s
  | .hemiOn t => Sys2Proof.Machine.execHemiOn t s
  | .domeRequestDone => Sys2Proof.Machine.execDomeRequestDone s
  | .bringup => Sys2Proof.Machine.execBringup s
  | .sequenceStepDone domain op ok => Sys2Proof.Machine.execSequenceStepDone domain op ok s
  | .dvfsStepDone f => Sys2Proof.Machine.execDvfsStepDone f s
  | .clockStretch island => Sys2Proof.Machine.execClockStretch island s
  | .lockLoss island => Sys2Proof.Machine.execLockLoss island s
  | .thermalSample fields limbs => Sys2Proof.Machine.execThermalSample fields limbs s
  | .capTRise f => Sys2Proof.Machine.execCapTRise f s
  | .capTFall f => Sys2Proof.Machine.execCapTFall f s
  | .limbDiodesInvalid l => Sys2Proof.Machine.execLimbDiodesInvalid l s
  | .limbUnthrottle l => Sys2Proof.Machine.execLimbUnthrottle l s
  | .powerSample smp => Sys2Proof.Machine.execPowerSample smp s
  | .capPRise => Sys2Proof.Machine.execCapPRise s
  | .capPFall => Sys2Proof.Machine.execCapPFall s
  | .sensorSample fields limbs pcieSeam => Sys2Proof.Machine.execSensorSample fields limbs pcieSeam s
  | .neighborTestDone votes => Sys2Proof.Machine.execNeighborTestDone votes s
  | .sliceDue => Sys2Proof.Machine.execSliceDue s
  | .runNext => Sys2Proof.Machine.execRunNext s
  | .sliceRun q => Sys2Proof.Machine.execSliceRun q s
  | .sliceCancel => Sys2Proof.Machine.execSliceCancel s
  | .nbr f => Sys2Proof.Machine.execNbr f s
  | .fuse => Sys2Proof.Machine.execFuse s
  | .fuseDone readback => Sys2Proof.Machine.execFuseDone readback s
  | .sliceSaveDone => Sys2Proof.Machine.execSliceSaveDone s
  | .slicePatternsDone ran => Sys2Proof.Machine.execSlicePatternsDone ran s
  | .sliceRestoreDone => Sys2Proof.Machine.execSliceRestoreDone s
  | .siderealBroadcast => Sys2Proof.Machine.execSiderealBroadcast s
  | .chrTimeSet ns => Sys2Proof.Machine.execChrTimeSet ns s
  | .lockLostTimeout => Sys2Proof.Machine.execLockLostTimeout s
  | .stallExceededSlack f stall => Sys2Proof.Machine.execStallExceededSlack f stall s
  | .durationSaturated unit word => Sys2Proof.Machine.execDurationSaturated unit word s
  | .chronographRecordWrite => Sys2Proof.Machine.execChronographRecordWrite s
  | .doorbell ring prod => Sys2Proof.Machine.execDoorbell ring prod s
  | .launchRingEnable ring => Sys2Proof.Machine.execLaunchRingEnable ring s
  | .commandFetch ring words => Sys2Proof.Machine.execCommandFetch ring words s
  | .lrNop ring => Sys2Proof.Machine.execLrNop ring s
  | .launch ring => Sys2Proof.Machine.execLaunch ring s
  | .abandon ring => Sys2Proof.Machine.execAbandon ring s
  | .lrArm ring => Sys2Proof.Machine.execLrArm ring s
  | .lrPlan ring => Sys2Proof.Machine.execLrPlan ring s
  | .load ring source => Sys2Proof.Machine.execLoad ring source s
  | .fstart ring => Sys2Proof.Machine.execFstart ring s
  | .quiesce ring => Sys2Proof.Machine.execQuiesce ring s
  | .lrWrite ring => Sys2Proof.Machine.execLrWrite ring s
  | .fieldStart f => Sys2Proof.Machine.execFieldStart f s
  | .fieldQuiesce f => Sys2Proof.Machine.execFieldQuiesce f s
  | .completionEntryWrite ring => Sys2Proof.Machine.execCompletionEntryWrite ring s
  | .clampRecordWrite => Sys2Proof.Machine.execClampRecordWrite s
  | .bar0Access write off size value => Sys2Proof.Machine.execBar0Access write off size value s
  | .bar2Access write off len data => Sys2Proof.Machine.execBar2Access write off len data s
  | .barReadTimeout bar off => Sys2Proof.Machine.execBarReadTimeout bar off s
  | .linkDown => Sys2Proof.Machine.execLinkDown s
  | .warm value => Sys2Proof.Machine.execWarm value s
  | .serviceLevelChange => Sys2Proof.Machine.execServiceLevelChange s
  | .registerWrite off value => Sys2Proof.Machine.execRegisterWrite off value s
  | .registerRcRead off => Sys2Proof.Machine.execRegisterRcRead off s
  | .bootStageDone => Sys2Proof.Machine.execBootStageDone s
  | .extend => Sys2Proof.Machine.execExtend s
  | .quote => Sys2Proof.Machine.execQuote s
  | .getcert => Sys2Proof.Machine.execGetcert s
  | .bootChal => Sys2Proof.Machine.execBootChal s
  | .unlock => Sys2Proof.Machine.execUnlock s
  | .relock => Sys2Proof.Machine.execRelock s
  | .flash => Sys2Proof.Machine.execFlash s
  | .select => Sys2Proof.Machine.execSelect s
  | .rollfwd => Sys2Proof.Machine.execRollfwd s
  | .bootCommandDone readbackOk => Sys2Proof.Machine.execBootCommandDone readbackOk s
  | .idcode => Sys2Proof.Machine.execIdcode s
  | .bypass => Sys2Proof.Machine.execBypass s
  | .tapChal => Sys2Proof.Machine.execTapChal s
  | .token bytes => Sys2Proof.Machine.execToken bytes s
  | .xportRead tag addr len => Sys2Proof.Machine.execXportRead tag addr len s
  | .xportWrite tag addr len data => Sys2Proof.Machine.execXportWrite tag addr len data s
  | .xportHalt tag addr => Sys2Proof.Machine.execXportHalt tag addr s
  | .xportStep tag addr => Sys2Proof.Machine.execXportStep tag addr s
  | .xportResume tag addr => Sys2Proof.Machine.execXportResume tag addr s
  | .xportStatus tag addr => Sys2Proof.Machine.execXportStatus tag addr s
  | .portLinkChange port up => Sys2Proof.Machine.execPortLinkChange port up s
  | .hostLinkUp rate width => Sys2Proof.Machine.execHostLinkUp rate width s
  | .perstDeassert refclk => Sys2Proof.Machine.execPerstDeassert refclk s
  | .hostCompletion tag status data => Sys2Proof.Machine.execHostCompletion tag status data s
  | .completionTimeout tag => Sys2Proof.Machine.execCompletionTimeout tag s
  | .epoLatchClear => Sys2Proof.Machine.execEpoLatchClear s
  | .inputRestored b => Sys2Proof.Machine.execInputRestored b s
  | .powerHoldOffEnd => Sys2Proof.Machine.execPowerHoldOffEnd s
  | .supplyRecovery island => Sys2Proof.Machine.execSupplyRecovery island s
  | .msixTableWrite off value => Sys2Proof.Machine.execMsixTableWrite off value s
  | .pciPowerStateChange d3hot => Sys2Proof.Machine.execPciPowerStateChange d3hot s
  | .uncorrectableErrorReceived status => Sys2Proof.Machine.execUncorrectableErrorReceived status s

end Sys2Proof.Machine
end

