-- ==== Sys2Proof/Machine/Tick.lean ====
section
/-! DEFINITION. What passes with time while no command waits: one nanosecond of the module reference (R725, R730, R735, R738). -/

namespace Sys2Proof.Machine

/-- SEAM of the module's open record accrues while a crossing link of the seam holds a flit without a credit (R738). -/
def accrueSeam (ns : Nat) (s : State) : State :=
  if (s.chrOf chrMod).isOpen && seamWaits s then s.modChr chrMod (fun k => { k with dur := tset k.dur 4 (tget 0 k.dur 4 + ns) }) else s

/-- One nanosecond: the sidereal counter counts, and SEAM and the stall of every stalled field with an open record accrue. Without a powered host limb nothing counts. -/
def tick (s : State) : State :=
  if domSt s (252 + 4 * hostLimb s) = 2 then accrueSeam 1 (forEach (List.range 84) (accrueStall 1) (tickTime s)) else s

end Sys2Proof.Machine
end

