-- ==== Sys2Proof/WellFormed.lean ====
section
/-! DEFINITION. Commands whose operands fit what carries them: the widths of the fields that the rules give. A meaning takes the low bits of an operand, so every command has one; what is well-formed is what the module's interfaces can send. -/

namespace Sys2Proof

/-- Every field of a head flit fits its bits (R316), and the body fits 32 flits. -/
def Packet.wf (p : Packet) : Bool :=
  p.typ < 256 && p.dx < 512 && p.dy < 256 && p.sx < 512 && p.sy < 256 && p.tok < 64 && p.gen < 65536 && p.chq < 4096 && p.tag < 4096 && p.rlines < 64 && p.status < 256 &&
  p.mcimg.length ≤ 4 && p.body.length ≤ 256 && p.keepLo < 8 && p.keepHi < 8

/-- A link direction of the wafer (R306): a router, gateway or edge port by number, and a direction. -/
def LinkRef.wf (k : LinkRef) : Bool := k.at_ < 80640 && k.dir < 4

/-- A flit's content is eight words (R311). -/
def Flit.wf (b : Flit) : Bool := b.words.length == 8

/-- Every field of a Meridian header fits its bits (R470). -/
def MPkt.wf (k : MPkt) : Bool :=
  k.ver < 16 && k.typ < 16 && k.dflow < 4096 && k.srcmod < 65536 && k.dstmod < 65536 && k.seq < 4294967296 && k.ackseq < 4294967296 &&
  k.sack < 18446744073709551616 && k.plen < 65536 && k.plan < 256 && k.kind < 256 && k.rtag < 65536 && k.addr < 18446744073709551616 && k.payload.length ≤ 4096 && k.tag.length ≤ 16

/-- The operands of a command fit the fields that carry them. -/
def Instr.wf : Instr → Bool
  | .thermWarnNGlitch s => 1 ≤ s && s ≤ 7
  | .epoNGlitch s => 1 ≤ s && s ≤ 7
  | .tokenArrival _ tok gen => tok < 64 && gen < 65536
  | .correctedWriteback _ _ word => word < 65536
  | .wr p => p.wf
  | .wra p => p.wf
  | .rd p => p.wf
  | .rdata p => p.wf
  | .wack p => p.wf
  | .err p => p.wf
  | .fsw p => p.wf
  | .lsend p => p.wf
  | .mcw p => p.wf
  | .hb _ dir => dir < 4
  | .heartbeatLoss _ dir => dir < 4
  | .flitReceive k b => k.wf && b.wf
  | .nak k ackseq => k.wf && ackseq < 256
  | .linkReplayTimeout k => k.wf
  | .linkRetrain k => k.wf
  | .linkRetrainDone k _ => k.wf
  | .linkTraining k _ => k.wf
  | .granuleRead g first last _ _ _ _ => g < 268435456 && first ≤ last && last < 64
  | .granuleWrite addr ws _ => addr % 8 == 0 && addr + 8 * ws.length ≤ 17592186044416
  | .slotClose _ g => g < 268435456
  | .migrationDone g => g < 268435456
  | .scrubRead _ _ addr _ _ => addr % 8 == 0
  | .hint _ arg first count => arg < 8 && first < 268435456 && count < 33554432
  | .setelem _ arg first count => arg < 4 && first < 268435456 && count < 33554432
  | .discard _ first count => first < 268435456 && count < 33554432
  | .flush _ first count => first < 268435456 && count < 33554432
  | .hostWindowAccess addr _ len _ => 0x200000000000 ≤ addr && addr + len ≤ 0x300000000000
  | .arm _ chan arg => chan < 4096 && arg < 65536
  | .setgen _ chan value => chan < 4096 && value < 65536
  | .slewCancel _ chan => chan < 4096
  | .slewTransferComplete _ chan => chan < 4096
  | .channelWindowWrite _ chan word _ => chan < 4096 && word < 8
  | .slwCqTailWrite _ value => value < 16384
  | .fsmcDelivery _ chan => chan < 4096
  | .occulterSlotFilled _ _ slot => slot < 64
  | .frameReceive _ fr => fr.pkt.wf
  | .ackSend _ flow => flow < 4096
  | .resend _ flow _ => flow < 4096
  | .peerAbsent peer => peer < 1024
  | .flowTableWrite _ flow word _ => flow < 4096 && word < 4
  | .peerTableWrite _ peer word _ => peer < 1024 && word < 4
  | .moduleIdWrite value => value < 65536
  | .start _ plan rtag => plan < 256 && rtag < 65536
  | .planCancel _ plan => plan < 256
  | .planRunComplete _ plan => plan < 256
  | .responseBoundExceeded _ plan => plan < 256
  | .stepScalarBegin _ plan => plan < 256
  | .directedSlotWrite slot _ => slot < 64
  | .uProgramBatch _ seg => seg < 4096
  | .commit steptag => steptag < 65536
  | .verify _ slot shard => slot < 16 && shard < 1024
  | .restore _ slot shard => slot < 16 && shard < 1024
  | .delta slot bslot => slot < 16 && bslot < 16
  | .plateApply slot => slot < 16
  | .mark slot => slot < 16
  | .plateConfigWrite off _ => off < 268435456
  | .clearActive _ nseq => nseq < 4294967296
  | .clearPending _ nseq => nseq < 4294967296
  | .fieldOff f => f < 128
  | .fieldOn f => f < 128
  | .hemiOff t => t < 128
  | .hemiOn t => t < 128
  | .sequenceStepDone domain op _ => domain < 512 && op < 16
  | .clockStretch island => island < 1024
  | .lockLoss island => island < 1024
  | .sliceRun q => q < 512
  | .nbr f => f < 512
  | .durationSaturated unit word => (unit < 84 || unit == 255) && word < 16
  | .doorbell ring _ => ring < 64
  | .launchRingEnable ring => ring < 64
  | .commandFetch ring _ => ring < 64
  | .lrNop ring => ring < 64
  | .launch ring => ring < 64
  | .abandon ring => ring < 64
  | .lrArm ring => ring < 64
  | .lrPlan ring => ring < 64
  | .load ring _ => ring < 64
  | .fstart ring => ring < 64
  | .quiesce ring => ring < 64
  | .lrWrite ring => ring < 64
  | .completionEntryWrite ring => ring < 64
  | .bar0Access _ off _ _ => off < 268435456
  | .bar2Access _ off len _ => off < 68719476736 && len ≤ 4096
  | .barReadTimeout bar off => bar ≤ 4 && off < 68719476736
  | .registerWrite off _ => off < 268435456 && off % 8 == 0
  | .registerRcRead off => off < 268435456 && off % 8 == 0
  | .xportRead tag _ len => tag < 65536 && [8, 16, 32, 64].contains len
  | .xportWrite tag _ len _ => tag < 65536 && [8, 16, 32, 64].contains len
  | .xportHalt tag _ => tag < 65536
  | .xportStep tag _ => tag < 65536
  | .xportResume tag _ => tag < 65536
  | .xportStatus tag _ => tag < 65536
  | .hostLinkUp rate width => 1 ≤ rate && rate ≤ 5 && [1, 4, 8, 16].contains width
  | .hostCompletion tag _ _ => tag < 1024
  | .completionTimeout tag => tag < 1024
  | .supplyRecovery island => island < 1024
  | .msixTableWrite off _ => off < 32768
  | .coldReset | .warmReset | .modPwrenHigh | .modPwrenLow | .powerUpSequenceStep | .railPowerGoodTimeout | .perstAssert | .epoN | .inputLost | .clipOvercurrent _
  | .clipRestored | .thermWarnNChange _ | .thermWarnNReminder | .thermWarnNNoisy | .thermWarnNQuiet _ | .sync1ppsEdge | .sync1ppsIgnored | .ppsAbsent | .add _
  | .sub _ | .and _ | .or _ | .xor _ | .shl _ | .shr _ | .sra _ | .mul _ | .mulhu _ | .mulhs _ | .min _ | .max _ | .minu _ | .maxu _ | .slt _ | .sltu _
  | .seq _ | .sel _ | .faddD _ | .fsubD _ | .fmulD _ | .fmaD _ | .faddF _ | .fsubF _ | .fmulF _ | .fmaF _ | .fcvtFD _ | .fcvtDF _ | .fcvtID _ | .fcvtDI _
  | .fltD _ | .feqD _ | .addi _ | .andi _ | .ori _ | .xori _ | .shli _ | .shri _ | .srai _ | .slti _ | .sltui _ | .li _ | .lih _ | .ld _ | .st _ | .branch _
  | .jmp _ | .call _ | .jr _ | .dbnz _ | .nop _ | .stop _ | .brk _ | .sysRd _ | .sysWr _ | .fenceT _ | .fenceS _ | .fence _ | .vadd _ | .vsub _ | .vmul _
  | .vfma _ | .vmin _ | .vmax _ | .vabs _ | .vneg _ | .vcmp _ | .vsel _ | .vdiv _ | .vsqrt _ | .vbcast _ | .vext _ | .vins _ | .vcvt _ | .vmov _ | .vand _
  | .vor _ | .vxor _ | .vshl _ | .vshr _ | .vsra _ | .vssq _ | .vmvar _ | .vld _ | .vldP _ | .vldS _ | .vldX _ | .vldB _ | .vst _ | .vstP _ | .vstS _ | .vstX _
  | .pset _ | .pand _ | .por _ | .pxor _ | .pandn _ | .pnot _ | .pfrom _ | .pto _ | .pcnt _ | .tld _ | .tmac _ | .tclr _ | .temit _ | .tsumRow _ | .tsumCol _
  | .arrayInstructionStart _ _ | .arrayInstructionDone _ _ | .send _ | .sendMc _ | .sendRead _ | .waitTok _ | .waitTokComplete _ | .clrTok _ | .sigTok _
  | .barCoh _ | .barrierRelease _ | .lateAdmissionBegin _ | .run _ _ | .halt _ | .step1 _ | .haltTaken _ | .breakpointHit _ | .sequencerWatchdog _ | .waitLimitExceeded _
  | .counterWrap _ _ | .hbSend _ | .reservedTypeDiscard _ _ | .seamPartnerReset _ _ _ | .seamFlushDone _ | .seamPartnerRelease _ | .seamResetRelease _
  | .seamPartnerOff _ _ _ | .seamClampOpen _ | .eviction _ | .homeApply | .migCmdDone _ | .slewChannelStart _ | .clear _ | .data _ | .ack _ | .roll _ | .rollCallSend _
  | .portEnable _ _ | .gradientVectorClose | .updateVectorClose | .ptpSync _ _ _ _ | .pdelayReq _ | .delayResp _ _ _ _ | .delayReqSend _ | .announce _
  | .stepOutcomeDecision | .updateStart | .directedDeadline | .sweepComplete _ | .controlBankWrite | .init | .take | .plateCancel | .plateCommandDone | .snapDone
  | .copyDone | .digestDone | .signDone | .escalationArrival _ | .limbHoldEnd _ | .correctedBatch _ | .nlogRecordWrite | .nlogInterrupt | .domeRequestDone
  | .bringup | .dvfsStepDone _ | .thermalSample _ _ | .capTRise _ | .capTFall _ | .limbDiodesInvalid _ | .limbUnthrottle _ | .powerSample _ | .capPRise
  | .capPFall | .sensorSample _ _ _ | .neighborTestDone _ | .sliceDue | .runNext | .sliceCancel | .fuse | .fuseDone _ | .sliceSaveDone | .slicePatternsDone _
  | .sliceRestoreDone | .siderealBroadcast | .chrTimeSet _ | .lockLostTimeout | .stallExceededSlack _ _ | .chronographRecordWrite | .fieldStart _ | .fieldQuiesce _
  | .clampRecordWrite | .linkDown | .warm _ | .serviceLevelChange | .bootStageDone | .extend | .quote | .getcert | .bootChal | .unlock | .relock | .flash
  | .select | .rollfwd | .bootCommandDone _ | .idcode | .bypass | .tapChal | .token _ | .portLinkChange _ _ | .perstDeassert _ | .epoLatchClear | .inputRestored _
  | .powerHoldOffEnd | .pciPowerStateChange _ | .uncorrectableErrorReceived _ => true

end Sys2Proof
end

