-- ==== Sys2Proof/Safety.lean ====
section
/-! DEFINITION. What a safe step is, the invariant of the state that claims use, and what every command keeps. -/

namespace Sys2Proof

/-- A step that answers a next state: the module goes on (R1, every error of the manual is an effect on the error records). -/
def Safe (s : Machine.State) : Prop := ∃ t, Machine.step s = .next t

/-- The keys of a table rise, so that each is listed once. -/
def RisingKeys {α : Type} (t : Tab α) : Prop := (t.map (fun (p : Nat × α) => p.1)).Pairwise (· < ·)

/-- The store range is in its canonical form (R365): addresses rising, no zero byte listed. -/
def MemInv (s : Machine.State) : Prop := Machine.Memory.wf s.mem = true

/-- The tables by address have one canonical form: the store range and its poison bits, the registers, the cores and the field stores. -/
structure StateInv (s : Machine.State) : Prop where
  mem : MemInv s
  poison : RisingKeys s.memX ∧ ∀ p ∈ s.memX, p.2 = true
  regs : RisingKeys s.regs
  cores : RisingKeys s.cores
  fieldStores : RisingKeys s.fst

/-- What holds between a state and one that any command leaves: the waiting commands are the same, the tables keep their canonical form, draws only go on, and what has left the module is not taken back. -/
structure Keeps (s t : Machine.State) : Prop where
  pending : t.pending = s.pending
  inv : StateInv s → StateInv t
  draws : s.draws ≤ t.draws
  out : s.out <:+ t.out

/-! ### What claims about an instruction of a core use -/

/-- The instruction word w stands at the PC of a core that issues, fetched clean, and its encoding is legal (R83, R211). -/
structure Fetches (c : Nat) (w : Word) (s : Machine.State) : Prop where
  issues : Machine.canIssue s c = true
  clean : Machine.cwRead (s.core c).istore (Machine.corePc s c) = .clean ⟨w, false⟩
  legal : Machine.legal w = true

/-- Nothing halts the core after this instruction: no STEP1, no watchpoint, and the PC has a successor (R53, R60, R133). -/
structure Goes (c : Nat) (s : Machine.State) : Prop where
  step1 : s.flag (Machine.rCoreCtl c) 2 = false
  watch : (s.core c).wptHit = false
  noMatch : ∀ kind word, Machine.wptMatch s c kind word = false
  pc : Machine.corePc s c < 8191

/-- The word w of class cls and operation op executes at core c: the array owes it no register, and its predicate bit 0 is true where the class needs it (R130, R135, R137, R205). -/
structure Executes (c cls op : Nat) (w : Word) (s : Machine.State) : Prop where
  fetches : Fetches c w s
  goes : Goes c s
  clsEq : Machine.iClass w = cls
  opEq : Machine.iOp w = op
  owed : Machine.predOwed (s.core c) w = false
  free : Machine.interlocked (s.core c) w = false
  pred : Machine.elementwise cls = true ∨ (Machine.effPred (s.core c) w).getLsbD 0 = true

/-- From s to t the PC of core c becomes pc and nothing else changes but that core's own record (and the count of draws, which is the model's own): no other register, no other core, no byte of memory. -/
structure OnlyCore (c pc : Nat) (s t : Machine.State) : Prop where
  pcEq : Machine.corePc t c = pc
  stat : ∀ hi lo, hi < 8 ∨ 20 < lo → t.fld (Machine.rCoreStat c) hi lo = s.fld (Machine.rCoreStat c) hi lo
  regs : ∀ off, off ≠ Machine.rCoreStat c → t.rd off = s.rd off
  cores : ∀ d, d ≠ c → t.core d = s.core d
  others : t = { s with regs := t.regs, cores := t.cores, draws := t.draws }

/-- Scalar register i of core c takes x (s0 stays 0), and nothing else of that core changes. -/
def ScalarWritten (c i : Nat) (x : Word) (s t : Machine.State) : Prop :=
  t.core c = { s.core c with s := (t.core c).s } ∧ ∀ j < 32, Machine.readS (t.core c) j = if j = i ∧ i ≠ 0 then x else Machine.readS (s.core c) j

/-- Vector register i of core c takes x, and nothing else of that core changes. -/
def VectorWritten (c i : Nat) (x : BitVec 512) (s t : Machine.State) : Prop :=
  t.core c = { s.core c with v := (t.core c).v } ∧ ∀ j < 16, Machine.readV (t.core c) j = if j = i then x else Machine.readV (s.core c) j

/-- Predicate register i of core c takes x (p0 stays all ones), and nothing else of that core changes. -/
def PredicateWritten (c i : Nat) (x : BitVec 16) (s t : Machine.State) : Prop :=
  t.core c = { s.core c with p := (t.core c).p } ∧ ∀ j < 8, Machine.readP (t.core c) j = if j = i ∧ i ≠ 0 then x else Machine.readP (s.core c) j

end Sys2Proof
end

