-- ==== Sys2Proof/Certificates/Slice0/Obligations.lean ====
section
/-! DEFINITION. The claims about the model: one proposition for each obligation. -/

open Sys2Proof Sys2Proof.Machine

/-! ### Instructions of a core -/

namespace Sys2Proof.Claims

/-- The integer scalar register instructions: command, OP and result (R138, R139). -/
def intOps : List ((CoreId → Instr) × Nat × (Word → Word → Word → Word)) :=
  [(.add, 0x00, fun a b _ => a + b), (.sub, 0x01, fun a b _ => a - b), (.and, 0x02, fun a b _ => a &&& b), (.or, 0x03, fun a b _ => a ||| b),
   (.xor, 0x04, fun a b _ => a ^^^ b), (.shl, 0x05, fun a b _ => a <<< bits b 5 0), (.shr, 0x06, fun a b _ => a >>> bits b 5 0),
   (.sra, 0x07, fun a b _ => a.sshiftRight (bits b 5 0)), (.mul, 0x08, fun a b _ => a * b),
   (.mulhu, 0x09, fun a b _ => BitVec.ofNat 64 (a.toNat * b.toNat / 2 ^ 64)), (.mulhs, 0x0A, fun a b _ => BitVec.ofInt 64 (a.toInt * b.toInt / 2 ^ 64)),
   (.min, 0x0B, fun a b _ => if a.toInt < b.toInt then a else b), (.max, 0x0C, fun a b _ => if a.toInt < b.toInt then b else a),
   (.minu, 0x0D, fun a b _ => if a.toNat < b.toNat then a else b), (.maxu, 0x0E, fun a b _ => if a.toNat < b.toNat then b else a),
   (.slt, 0x0F, fun a b _ => if a.toInt < b.toInt then 1 else 0), (.sltu, 0x10, fun a b _ => if a.toNat < b.toNat then 1 else 0),
   (.seq, 0x11, fun a b _ => if a = b then 1 else 0), (.sel, 0x12, fun a b c => if c ≠ 0 then a else b)]

/-- The low half of a word. -/
def lowHalf (w : Word) : Nat := w.toNat % 2 ^ 32

/-- The floating-point scalar instructions: command, OP and result in a mode, strict or fast (R138, R140). -/
def floatOps : List ((CoreId → Instr) × Nat × (Bool → Word → Word → Word → Nat)) :=
  [(.faddD, 0x20, fun m a b _ => fpAdd 9 m a.toNat b.toNat), (.fsubD, 0x21, fun m a b _ => fpSub 9 m a.toNat b.toNat),
   (.fmulD, 0x22, fun m a b _ => fpMul 9 m a.toNat b.toNat), (.fmaD, 0x23, fun m a b c => fpFma 9 m a.toNat b.toNat c.toNat),
   (.faddF, 0x24, fun m a b _ => fpAdd 8 m (lowHalf a) (lowHalf b)), (.fsubF, 0x25, fun m a b _ => fpSub 8 m (lowHalf a) (lowHalf b)),
   (.fmulF, 0x26, fun m a b _ => fpMul 8 m (lowHalf a) (lowHalf b)), (.fmaF, 0x27, fun m a b c => fpFma 8 m (lowHalf a) (lowHalf b) (lowHalf c)),
   (.fcvtFD, 0x28, fun m a _ _ => fpConv 9 8 m a.toNat), (.fcvtDF, 0x29, fun m a _ _ => fpConv 8 9 m (lowHalf a)),
   (.fcvtID, 0x2A, fun m a _ _ => fpToInt 9 m 64 a.toNat), (.fcvtDI, 0x2B, fun m a _ _ => fpFromInt 9 m 64 a.toNat),
   (.fltD, 0x2C, fun m a b _ => if fpCmp 9 m 2 a.toNat b.toNat then 1 else 0), (.feqD, 0x2D, fun m a b _ => if fpCmp 9 m 0 a.toNat b.toNat then 1 else 0)]

/-- The scalar immediate instructions: command, OP and result from sa and the instruction word (R142). -/
def immOps : List ((CoreId → Instr) × Nat × (Word → Word → Word)) :=
  [(.addi, 0x00, fun a w => a + BitVec.signExtend 64 (w.extractLsb 31 0)), (.andi, 0x01, fun a w => a &&& BitVec.signExtend 64 (w.extractLsb 31 0)),
   (.ori, 0x02, fun a w => a ||| BitVec.signExtend 64 (w.extractLsb 31 0)), (.xori, 0x03, fun a w => a ^^^ BitVec.signExtend 64 (w.extractLsb 31 0)),
   (.shli, 0x04, fun a w => a <<< bits w 5 0), (.shri, 0x05, fun a w => a >>> bits w 5 0), (.srai, 0x06, fun a w => a.sshiftRight (bits w 5 0)),
   (.slti, 0x07, fun a w => if a.toInt < (w.extractLsb 31 0).toInt then 1 else 0),
   (.sltui, 0x08, fun a w => if a.toNat < (BitVec.signExtend 64 (w.extractLsb 31 0)).toNat then 1 else 0),
   (.li, 0x09, fun _ w => BitVec.signExtend 64 (w.extractLsb 31 0)), (.lih, 0x0A, fun a w => (w.extractLsb 31 0) ++ (a.extractLsb 31 0))]

/-- The operand in a scalar register field of an instruction word. -/
def opnd (s : State) (c : Nat) (w : Word) (hi lo : Nat) : Word := readS (s.core c) (bits w hi lo)

end Sys2Proof.Claims

open Sys2Proof.Claims

/-- An integer scalar register instruction that executes writes the result of the table to sd, and nothing else of the state changes but the PC (R133, R138, R139, R136). -/
def Sys2Proof.Claims.IntegerScalarResult : Prop :=
  ∀ e ∈ intOps, ∀ (c : CoreId) (w : Word) (s : State), Executes c.val 2 e.2.1 w s →
    ∃ t, exec (e.1 c) s = .next t ∧ OnlyCore c.val (corePc s c.val + 1) s t ∧
      ScalarWritten c.val (bits w 49 45) (e.2.2 (opnd s c.val w 44 40) (opnd s c.val w 39 35) (opnd s c.val w 34 30)) s t

/-- A floating-point scalar instruction that executes writes its result in the run's mode, zero-extended (R138, R140). -/
def Obligations.FloatScalarResult : Prop :=
  ∀ e ∈ floatOps, ∀ (c : CoreId) (w : Word) (s : State), Executes c.val 2 e.2.1 w s →
    ∃ t, exec (e.1 c) s = .next t ∧ OnlyCore c.val (corePc s c.val + 1) s t ∧
      ScalarWritten c.val (bits w 49 45)
        (BitVec.ofNat 64 (e.2.2 (s.core c.val).vmode (opnd s c.val w 44 40) (opnd s c.val w 39 35) (opnd s c.val w 34 30))) s t

/-- A scalar immediate instruction that executes writes the result of the table to sd, and nothing else changes but the PC (R142). -/
def Sys2Proof.Claims.ImmediateScalarResult : Prop :=
  ∀ e ∈ immOps, ∀ (c : CoreId) (w : Word) (s : State), Executes c.val 3 e.2.1 w s →
    ∃ t, exec (e.1 c) s = .next t ∧ OnlyCore c.val (corePc s c.val + 1) s t ∧
      ScalarWritten c.val (bits w 49 45) (e.2.2 (opnd s c.val w 44 40) w) s t

namespace Sys2Proof.Claims

/-- Word j of core c's store reads clean as d (R70, R73). -/
def Holds (c j : Nat) (d : Word) (s : State) : Prop := cwRead (s.core c).store j = .clean ⟨d, false⟩

/-- From s to t core c's store changes only at the word indices of `js`, and nothing else of that core changes. -/
def StoreWritten (c : Nat) (js : Nat → Prop) (s t : State) : Prop :=
  t.core c = { s.core c with store := (t.core c).store } ∧ ∀ i, ¬ js i → tfind (t.core c).store i = tfind (s.core c).store i

/-- sa + OFS, modulo 2^64 (R143). -/
def scalarAddr (s : State) (c : Nat) (w : Word) : Nat := (opnd s c w 44 40 + BitVec.signExtend 64 (w.extractLsb 19 0)).toNat

/-- The comparisons of the six branches, by OP (R145). -/
def branches : List (Nat × (Word → Word → Prop)) :=
  [(0, fun a b => a = b), (1, fun a b => a ≠ b), (2, fun a b => a.toInt < b.toInt), (3, fun a b => b.toInt ≤ a.toInt),
   (4, fun a b => a.toNat < b.toNat), (5, fun a b => b.toNat ≤ a.toNat)]

end Sys2Proof.Claims

/-- LD: a load in range and aligned, of a word that reads clean while the sequencer owns the banks, writes the addressed bytes to sd, sign-extended in the even operations below 6 and zero-extended in the others; nothing else changes but the PC (R143, R144). -/
def Sys2Proof.Claims.LoadResult : Prop :=
  ∀ op < 7, ∀ (c : CoreId) (w d : Word) (s : State), Executes c.val 4 op w s → ownsBanks s c.val = true →
    scalarAddr s c.val w + 2 ^ (op / 2) ≤ 0x80000 → scalarAddr s c.val w % 2 ^ (op / 2) = 0 → Holds c.val (scalarAddr s c.val w / 8) d s →
    ∃ t, exec (.ld c) s = .next t ∧ OnlyCore c.val (corePc s c.val + 1) s t ∧
      ScalarWritten c.val (bits w 49 45)
        (if op % 2 = 1 ∨ op = 6 then BitVec.ofNat 64 (d.toNat / 2 ^ (8 * (scalarAddr s c.val w % 8)) % 2 ^ (8 * 2 ^ (op / 2)))
         else BitVec.ofInt 64 (sx (8 * 2 ^ (op / 2)) (d.toNat / 2 ^ (8 * (scalarAddr s c.val w % 8))))) s t

/-- ST: a store in range and aligned writes the low bytes of SD at the address and leaves every other word of the store and everything else but the PC as it was; a store narrower than a word keeps the other bytes of a word that reads clean (R68, R143, R144). -/
def Sys2Proof.Claims.StoreResult : Prop :=
  ∀ n < 4, ∀ (c : CoreId) (w d : Word) (s : State), Executes c.val 4 (8 + n) w s → ownsBanks s c.val = true →
    scalarAddr s c.val w + 2 ^ n ≤ 0x80000 → scalarAddr s c.val w % 2 ^ n = 0 → (n < 3 → Holds c.val (scalarAddr s c.val w / 8) d s) →
    ∃ t e, exec (.st c) s = .next t ∧ OnlyCore c.val (corePc s c.val + 1) s t ∧
      StoreWritten c.val (· = scalarAddr s c.val w / 8) s t ∧ Holds c.val (scalarAddr s c.val w / 8) e t ∧
      ∀ b < 8, e.toNat / 2 ^ (8 * b) % 256 =
        if scalarAddr s c.val w % 8 ≤ b ∧ b < scalarAddr s c.val w % 8 + 2 ^ n
        then (opnd s c.val w 49 45).toNat / 2 ^ (8 * (b - scalarAddr s c.val w % 8)) % 256
        else d.toNat / 2 ^ (8 * b) % 256

/-- A scalar access outside the core store, or one inside that is not aligned, has no effect of its own: the core takes the contained error 0x0011 or 0x0012 with the PC as INFO (R144, R213). -/
def Obligations.ScalarAccessFaults : Prop :=
  ∀ op < 12, op ≠ 7 → ∀ (c : CoreId) (w : Word) (s : State), Executes c.val 4 op w s →
    (0x80000 < scalarAddr s c.val w + 2 ^ (if op < 8 then op / 2 else op - 8) →
      exec (if op < 8 then .ld c else .st c) s = .next (coreFault c.val 0 0x0011 (wd (corePc s c.val)) s)) ∧
    (scalarAddr s c.val w + 2 ^ (if op < 8 then op / 2 else op - 8) ≤ 0x80000 → scalarAddr s c.val w % 2 ^ (if op < 8 then op / 2 else op - 8) ≠ 0 →
      exec (if op < 8 then .ld c else .st c) s = .next (coreFault c.val 0 0x0012 (wd (corePc s c.val)) s))

/-- Branches, JMP, CALL, JR and DBNZ: where control goes, and the one register each writes (R133, R145, R147). -/
def Obligations.ControlTransfer : Prop :=
  ∀ (c : CoreId) (w : Word) (s : State),
    (∀ b ∈ branches, Executes c.val 0 b.1 w s →
      ∃ t, exec (.branch c) s = .next t ∧ t.core c.val = s.core c.val ∧
        (b.2 (opnd s c.val w 49 45) (opnd s c.val w 44 40) → OnlyCore c.val (bits w 12 0) s t) ∧
        (¬ b.2 (opnd s c.val w 49 45) (opnd s c.val w 44 40) → OnlyCore c.val (corePc s c.val + 1) s t)) ∧
    (Executes c.val 0 6 w s → ∃ t, exec (.jmp c) s = .next t ∧ OnlyCore c.val (bits w 12 0) s t ∧ t.core c.val = s.core c.val) ∧
    (Executes c.val 0 7 w s → ∃ t, exec (.call c) s = .next t ∧ OnlyCore c.val (bits w 12 0) s t ∧
      ScalarWritten c.val (bits w 39 35) (BitVec.ofNat 64 (corePc s c.val + 1)) s t) ∧
    (Executes c.val 0 8 w s → (opnd s c.val w 49 45).toNat < 8192 →
      ∃ t, exec (.jr c) s = .next t ∧ OnlyCore c.val (opnd s c.val w 49 45).toNat s t ∧ t.core c.val = s.core c.val) ∧
    (Executes c.val 0 8 w s → 8192 ≤ (opnd s c.val w 49 45).toNat → exec (.jr c) s = .next (coreFault c.val 0 0x0013 (wd (corePc s c.val)) s)) ∧
    (Executes c.val 0 9 w s → ∃ t, exec (.dbnz c) s = .next t ∧
      OnlyCore c.val (if opnd s c.val w 49 45 = 1 then corePc s c.val + 1 else bits w 12 0) s t ∧
      ScalarWritten c.val (bits w 49 45) (opnd s c.val w 49 45 - 1) s t)

/-- NOP, SYS.RD, SYS.WR and the fences: NOP does nothing but advance; SYS.RD reads sys.STEP, sys.MB, sys.ID or sys.CYC; SYS.WR sets sys.MB; a fence whose condition holds does nothing but advance (R148, R149). -/
def Sys2Proof.Claims.SystemInstructions : Prop :=
  ∀ (c : CoreId) (w : Word) (s : State),
    (Executes c.val 1 0 w s → ∃ t, exec (.nop c) s = .next t ∧ OnlyCore c.val (corePc s c.val + 1) s t ∧ t.core c.val = s.core c.val) ∧
    (Executes c.val 1 3 w s → ∃ t, exec (.sysRd c) s = .next t ∧ OnlyCore c.val (corePc s c.val + 1) s t ∧
      ScalarWritten c.val (bits w 49 45)
        (if bits w 3 0 = 0 then s.rd (rCoreStep c.val) else if bits w 3 0 = 1 then BitVec.ofNat 64 (s.core c.val).mb.toNat
         else if bits w 3 0 = 2 then s.rd (rCoreId c.val) else BitVec.ofNat 64 (s.fld (rCoreBusy c.val) 47 0)) s t) ∧
    (Executes c.val 1 4 w s → ∃ t, exec (.sysWr c) s = .next t ∧ OnlyCore c.val (corePc s c.val + 1) s t ∧
      t.core c.val = { s.core c.val with mb := BitVec.ofNat 16 (opnd s c.val w 44 40).toNat }) ∧
    (Executes c.val 1 5 w s → (s.core c.val).arrayq = [] →
      ∃ t, exec (.fenceT c) s = .next t ∧ OnlyCore c.val (corePc s c.val + 1) s t ∧ t.core c.val = s.core c.val) ∧
    (Executes c.val 1 6 w s → (s.core c.val).sendq = [] →
      ∃ t, exec (.fenceS c) s = .next t ∧ OnlyCore c.val (corePc s c.val + 1) s t ∧ t.core c.val = s.core c.val) ∧
    (Executes c.val 1 7 w s → (s.core c.val).arrayq = [] → (s.core c.val).sendq = [] →
      ∃ t, exec (.fence c) s = .next t ∧ OnlyCore c.val (corePc s c.val + 1) s t ∧ t.core c.val = s.core c.val) ∧
    (Executes c.val 1 5 w s → (s.core c.val).arrayq ≠ [] → exec (.fenceT c) s = .next s) ∧
    (Executes c.val 1 6 w s → (s.core c.val).sendq ≠ [] → exec (.fenceS c) s = .next s) ∧
    (Executes c.val 1 7 w s → ((s.core c.val).arrayq ≠ [] ∨ (s.core c.val).sendq ≠ []) → exec (.fence c) s = .next s)

/-- STOP and BRK halt a core whose array has no access outstanding, into STATE 4 and 5, with the PC on the next instruction, RUN cleared, and no register of the core's file changed (R120, R148). -/
def Sys2Proof.Claims.StopAndBreakHalt : Prop :=
  ∀ p ∈ ([(.stop, 1, 4), (.brk, 2, 5)] : List ((CoreId → Instr) × Nat × Nat)), ∀ (c : CoreId) (w : Word) (s : State),
    Executes c.val 1 p.2.1 w s → (s.core c.val).arrayq.any (·.started) = false →
    ∃ t, exec (p.1 c) s = .next t ∧ coreSt t c.val = p.2.2 ∧ corePc t c.val = corePc s c.val + 1 ∧ t.fld (rCoreCtl c.val) 2 0 = 0 ∧
      (t.core c.val).s = (s.core c.val).s ∧ (t.core c.val).v = (s.core c.val).v ∧ (t.core c.val).p = (s.core c.val).p ∧
      (t.core c.val).store = (s.core c.val).store ∧ (∀ d, d ≠ c.val → t.core d = s.core d) ∧ t.mem = s.mem ∧ t.fst = s.fst

namespace Sys2Proof.Claims

/-- The element-wise vector instructions with one result per element: command, OP, and the result of element i from the fields and registers of the word, in a mode (R152, R154, R156, R251). -/
def elementOps : List ((CoreId → Instr) × Nat × (Bool → VArg → Nat → Nat)) :=
  [(.vmul, 0x02, fun m x i => if x.ty = 4 then x.ea i * x.eb i else fpMul (viewFmt x.ty) m (x.ea i) (x.eb i)),
   (.vfma, 0x03, fun m x i => fpFma (viewFmt x.ty) m (x.ea i) (x.eb i) (x.ec i)),
   (.vmin, 0x04, fun m x i => if x.ty = 4 then (if sx 32 (x.ea i) < sx 32 (x.eb i) then x.ea i else x.eb i) else fpMin (viewFmt x.ty) m false (x.ea i) (x.eb i)),
   (.vmax, 0x05, fun m x i => if x.ty = 4 then (if sx 32 (x.ea i) < sx 32 (x.eb i) then x.eb i else x.ea i) else fpMin (viewFmt x.ty) m true (x.ea i) (x.eb i)),
   (.vdiv, 0x0A, fun m x i => fpDiv (viewFmt x.ty) m (x.ea i) (x.eb i)), (.vsqrt, 0x0B, fun m x i => fpSqrt (viewFmt x.ty) m (x.ea i)),
   (.vmov, 0x10, fun _ x i => x.ea i), (.vand, 0x11, fun _ x i => x.ea i &&& x.eb i), (.vor, 0x12, fun _ x i => x.ea i ||| x.eb i),
   (.vxor, 0x13, fun _ x i => x.ea i ^^^ x.eb i), (.vshl, 0x14, fun _ x i => x.ea i * 2 ^ (x.eb i % 32)), (.vshr, 0x15, fun _ x i => x.ea i / 2 ^ (x.eb i % 32)),
   (.vsra, 0x16, fun _ x i => toBits 32 (sx 32 (x.ea i) / 2 ^ (x.eb i % 32))),
   (.vssq, 0x18, fun _ x i => fpAdd 8 true (x.ec i) (fpMul 8 true (x.ea i) (x.ea i)))]

/-- VADD, VSUB, VABS and VNEG: command, OP, the result of element i in a floating-point view, and the exact integer in the I32 view (R152, R299). -/
def sumOps : List ((CoreId → Instr) × Nat × (Bool → VArg → Nat → Nat) × (VArg → Nat → Int)) :=
  [(.vadd, 0x00, fun m x i => fpAdd (viewFmt x.ty) m (x.ea i) (x.eb i), fun x i => sx 32 (x.ea i) + sx 32 (x.eb i)),
   (.vsub, 0x01, fun m x i => fpSub (viewFmt x.ty) m (x.ea i) (x.eb i), fun x i => sx 32 (x.ea i) - sx 32 (x.eb i)),
   (.vabs, 0x06, fun _ x i => x.ea i % 2 ^ (viewWidth x.ty - 1), fun x i => |sx 32 (x.ea i)|),
   (.vneg, 0x07, fun _ x i => x.ea i ^^^ 2 ^ (viewWidth x.ty - 1), fun x i => -sx 32 (x.ea i))]

/-- From s to t register vd of core c holds, in each active element of view ty, the low bits of f, and its other elements stay; no other register of that core changes (R137). -/
def ElementsWritten (c : Nat) (e : BitVec 16) (ty vd : Nat) (f : Nat → Nat) (s t : State) : Prop :=
  t.core c = { s.core c with v := (t.core c).v } ∧ (∀ j < 16, j ≠ vd → readV (t.core c) j = readV (s.core c) j) ∧
    ∀ i < viewCount ty, elem (viewWidth ty) (readV (t.core c) vd) i = if active e ty i then f i % 2 ^ viewWidth ty else elem (viewWidth ty) (readV (s.core c) vd) i

/-- The comparison of VCMP by CC in the I32 view (R156). -/
def intCompare (cc : Nat) (a b : Int) : Prop :=
  (cc = 0 ∧ a = b) ∨ (cc = 1 ∧ a ≠ b) ∨ (cc = 2 ∧ a < b) ∨ (cc = 3 ∧ a ≤ b) ∨ (cc = 4 ∧ b < a) ∨ (cc = 5 ∧ b ≤ a)

end Sys2Proof.Claims

/-- An element-wise vector instruction writes the result of the table to the active elements of vd, whatever its predicate, and changes nothing else but the PC (R133, R137, R152). -/
def Obligations.ElementwiseResult : Prop :=
  ∀ e ∈ elementOps, ∀ (c : CoreId) (w : Word) (s : State), Executes c.val 5 e.2.1 w s →
    ∃ t, exec (e.1 c) s = .next t ∧ OnlyCore c.val (corePc s c.val + 1) s t ∧
      ElementsWritten c.val (effPred (s.core c.val) w) (bits w 33 31) (bits w 49 46) (e.2.2 (s.core c.val).vmode (vArg c.val w s)) s t

/-- VADD, VSUB, VABS and VNEG write the table's result to the active elements of vd; in the I32 view each active element whose exact result fits 32 bits takes it (what an element takes whose result does not fit is a value no rule states). -/
def Sys2Proof.Claims.VectorSumResult : Prop :=
  ∀ e ∈ sumOps, ∀ (c : CoreId) (w : Word) (s : State), Executes c.val 5 e.2.1 w s →
    ∃ t, exec (e.1 c) s = .next t ∧ OnlyCore c.val (corePc s c.val + 1) s t ∧
      (bits w 33 31 ≠ 4 → ElementsWritten c.val (effPred (s.core c.val) w) (bits w 33 31) (bits w 49 46) (e.2.2.1 (s.core c.val).vmode (vArg c.val w s)) s t) ∧
      (bits w 33 31 = 4 → t.core c.val = { s.core c.val with v := (t.core c.val).v } ∧ (∀ j < 16, j ≠ bits w 49 46 → readV (t.core c.val) j = readV (s.core c.val) j) ∧
        ∀ i < 16, (-(2 ^ 31) ≤ e.2.2.2 (vArg c.val w s) i ∧ e.2.2.2 (vArg c.val w s) i < 2 ^ 31 ∨ (effPred (s.core c.val) w).getLsbD i = false) →
          elem 32 (readV (t.core c.val) (bits w 49 46)) i =
            if (effPred (s.core c.val) w).getLsbD i then toBits 32 (e.2.2.2 (vArg c.val w s) i) else elem 32 (readV (s.core c.val) (bits w 49 46)) i)

/-- VSEL, VBCAST, VEXT and VINS: each element selected by the governing bit of PD; the low bits of ss in every active element; element LANE to ss; ss to element LANE alone (R152, R860). -/
def Sys2Proof.Claims.VectorMoveResult : Prop :=
  ∀ (c : CoreId) (w : Word) (s : State),
    (Executes c.val 5 0x09 w s → ∃ t, exec (.vsel c) s = .next t ∧ OnlyCore c.val (corePc s c.val + 1) s t ∧
      ElementsWritten c.val (effPred (s.core c.val) w) (bits w 33 31) (bits w 49 46)
        (fun i => if (readP (s.core c.val) (bits w 30 28)).getLsbD (governs (bits w 33 31) i) then (vArg c.val w s).ea i else (vArg c.val w s).eb i) s t) ∧
    (Executes c.val 5 0x0C w s → ∃ t, exec (.vbcast c) s = .next t ∧ OnlyCore c.val (corePc s c.val + 1) s t ∧
      ElementsWritten c.val (effPred (s.core c.val) w) (bits w 33 31) (bits w 49 46) (fun _ => (opnd s c.val w 24 20).toNat) s t) ∧
    (Executes c.val 5 0x0D w s → ∃ t, exec (.vext c) s = .next t ∧ OnlyCore c.val (corePc s c.val + 1) s t ∧
      if active (effPred (s.core c.val) w) (bits w 33 31) (bits w 19 16)
      then ScalarWritten c.val (bits w 24 20) (BitVec.ofNat 64 ((vArg c.val w s).ea (bits w 19 16))) s t else t.core c.val = s.core c.val) ∧
    (Executes c.val 5 0x0E w s → bits w 19 16 < viewCount (bits w 33 31) → ∃ t, exec (.vins c) s = .next t ∧ OnlyCore c.val (corePc s c.val + 1) s t ∧
      t.core c.val = { s.core c.val with v := (t.core c.val).v } ∧ (∀ j < 16, j ≠ bits w 49 46 → readV (t.core c.val) j = readV (s.core c.val) j) ∧
      ∀ i < viewCount (bits w 33 31), elem (viewWidth (bits w 33 31)) (readV (t.core c.val) (bits w 49 46)) i =
        if i = bits w 19 16 ∧ active (effPred (s.core c.val) w) (bits w 33 31) i then (opnd s c.val w 24 20).toNat % 2 ^ viewWidth (bits w 33 31)
        else elem (viewWidth (bits w 33 31)) (readV (s.core c.val) (bits w 49 46)) i)

/-- VCMP writes to every PD bit that governs an active element the comparison of its operands, and leaves the PD bits of inactive elements; p0 stays all ones, and nothing else changes but the PC (R137, R152, R156, R860). -/
def Sys2Proof.Claims.VectorCompareResult : Prop :=
  ∀ (c : CoreId) (w : Word) (s : State), Executes c.val 5 0x08 w s →
    ∃ (t : State) (r : BitVec 16), exec (.vcmp c) s = .next t ∧ OnlyCore c.val (corePc s c.val + 1) s t ∧ PredicateWritten c.val (bits w 30 28) r s t ∧
      ∀ j < 16, let i := if bits w 33 31 = 1 then j / 2 else j
        if active (effPred (s.core c.val) w) (bits w 33 31) i
        then (bits w 33 31 = 4 → bits w 27 25 ≤ 5 → (r.getLsbD j = true ↔ intCompare (bits w 27 25) (sx 32 ((vArg c.val w s).ea i)) (sx 32 ((vArg c.val w s).eb i)))) ∧
          (bits w 33 31 ≠ 4 → r.getLsbD j = fpCmp (viewFmt (bits w 33 31)) (s.core c.val).vmode (bits w 27 25) ((vArg c.val w s).ea i) ((vArg c.val w s).eb i))
        else r.getLsbD j = (readP (s.core c.val) (bits w 30 28)).getLsbD j

namespace Sys2Proof.Claims

/-- The running state of VMVAR, n, mean and M2, after one more sample, each operation rounded to FP32 (R252). -/
def withSample (q : Nat × Nat × Nat) (a : Nat) : Nat × Nat × Nat :=
  let n := fpAdd 8 true q.1 0x3F800000
  let d := fpSub 8 true a q.2.1
  let mean := fpAdd 8 true q.2.1 (fpDiv 8 true d n)
  (n, mean, fpAdd 8 true q.2.2 (fpMul 8 true d (fpSub 8 true a mean)))

end Sys2Proof.Claims

/-- VCVT converts by index: as many elements as the view with fewer has, governed in that view, inactive ones kept, and the elements of vd above them are cleared; VMVAR folds its active samples in ascending order into lanes 0 to 2 of vd and keeps the others; neither changes anything else but the PC (R137, R157, R252, R860). -/
def Obligations.VectorConvertResult : Prop :=
  ∀ (c : CoreId) (w : Word) (s : State),
    (Executes c.val 5 0x0F w s → ∃ (t : State) (r : BitVec 512), exec (.vcvt c) s = .next t ∧ OnlyCore c.val (corePc s c.val + 1) s t ∧ VectorWritten c.val (bits w 49 46) r s t ∧
      ∀ i < viewCount (bits w 15 13), elem (viewWidth (bits w 15 13)) r i =
        if min (viewCount (bits w 33 31)) (viewCount (bits w 15 13)) ≤ i then 0
        else if active (effPred (s.core c.val) w) (if viewCount (bits w 33 31) < viewCount (bits w 15 13) then bits w 33 31 else bits w 15 13) i
        then convElem (s.core c.val).vmode (bits w 33 31) (bits w 15 13) ((vArg c.val w s).ea i) % 2 ^ viewWidth (bits w 15 13)
        else elem (viewWidth (bits w 15 13)) (readV (s.core c.val) (bits w 49 46)) i) ∧
    (Executes c.val 5 0x19 w s → ∃ (t : State) (r : BitVec 512), exec (.vmvar c) s = .next t ∧ OnlyCore c.val (corePc s c.val + 1) s t ∧ VectorWritten c.val (bits w 49 46) r s t ∧
      (elem 32 r 0, elem 32 r 1, elem 32 r 2) =
        (((List.range 16).filter (fun i => (effPred (s.core c.val) w).getLsbD i)).map (vArg c.val w s).ea).foldl withSample
          (elem 32 (readV (s.core c.val) (bits w 49 46)) 0, elem 32 (readV (s.core c.val) (bits w 49 46)) 1, elem 32 (readV (s.core c.val) (bits w 49 46)) 2) ∧
      ∀ i < 16, 3 ≤ i → elem 32 r i = elem 32 (readV (s.core c.val) (bits w 49 46)) i)

/-- The predicate instructions write their result to PD, or to S for PTO and PCNT, and change nothing else but the PC (R165). -/
def Obligations.PredicateResult : Prop :=
  ∀ (c : CoreId) (w : Word) (s : State),
    (∀ e ∈ ([(.pset, 0, fun _ _ => BitVec.ofNat 16 (bits w 15 0)), (.pand, 1, fun a b => a &&& b), (.por, 2, fun a b => a ||| b), (.pxor, 3, fun a b => a ^^^ b),
        (.pandn, 4, fun a b => a &&& ~~~b), (.pnot, 5, fun a _ => ~~~a)] : List ((CoreId → Instr) × Nat × (BitVec 16 → BitVec 16 → BitVec 16))),
      Executes c.val 7 e.2.1 w s → ∃ t, exec (e.1 c) s = .next t ∧ OnlyCore c.val (corePc s c.val + 1) s t ∧
        PredicateWritten c.val (bits w 49 47) (e.2.2 (readP (s.core c.val) (bits w 46 44)) (readP (s.core c.val) (bits w 43 41))) s t) ∧
    (Executes c.val 7 6 w s → ∃ t, exec (.pfrom c) s = .next t ∧ OnlyCore c.val (corePc s c.val + 1) s t ∧
      PredicateWritten c.val (bits w 49 47) ((opnd s c.val w 40 36).setWidth 16) s t) ∧
    (Executes c.val 7 7 w s → ∃ t, exec (.pto c) s = .next t ∧ OnlyCore c.val (corePc s c.val + 1) s t ∧
      ScalarWritten c.val (bits w 40 36) ((readP (s.core c.val) (bits w 46 44)).setWidth 64) s t) ∧
    (Executes c.val 7 8 w s → ∃ t, exec (.pcnt c) s = .next t ∧ OnlyCore c.val (corePc s c.val + 1) s t ∧
      ScalarWritten c.val (bits w 40 36) (BitVec.ofNat 64 ((List.range 16).countP (fun i => (readP (s.core c.val) (bits w 46 44)).getLsbD i))) s t)

namespace Sys2Proof.Claims

/-- The active elements of a vector memory word: 16 of the 32-bit view, 32 in the paired forms, E bit i governing element i of both registers (R160). -/
def memElement (e : BitVec 16) (op i : Nat) : Prop := i < (if op % 8 = 1 then 32 else 16) ∧ e.getLsbD (i % 16) = true

/-- Every active element lies in the core store and the access is aligned as its operation asks (R159, R161). -/
def Reachable (k : Core) (op : Nat) (w : Word) : Prop :=
  ∀ i, memElement (effPred k w) op i → vmAddr k w i + 4 ≤ 0x80000 ∧
    (if op % 8 = 0 then vmAddr k w 0 % 64 = 0 else if op % 8 = 1 then vmAddr k w 0 % 128 = 0 else vmAddr k w i % 4 = 0)

end Sys2Proof.Claims

/-- A vector load whose active elements are reachable and whose words read clean writes each active element's 32 bits to vd (and vd + 1 in the paired form); inactive elements, other registers and everything else but the PC stay (R137, R159 to R161). -/
def Sys2Proof.Claims.VectorLoadResult : Prop :=
  ∀ p ∈ ([(.vld, 0), (.vldP, 1), (.vldS, 2), (.vldX, 3), (.vldB, 4)] : List ((CoreId → Instr) × Nat)), ∀ (c : CoreId) (w : Word) (m : Nat → Word) (s : State),
    Executes c.val 6 p.2 w s → ownsBanks s c.val = true → Reachable (s.core c.val) p.2 w →
    (∀ i, memElement (effPred (s.core c.val) w) p.2 i → Holds c.val (vmAddr (s.core c.val) w i / 8) (m (vmAddr (s.core c.val) w i / 8)) s) →
    ∃ t, exec (p.1 c) s = .next t ∧ OnlyCore c.val (corePc s c.val + 1) s t ∧ t.core c.val = { s.core c.val with v := (t.core c.val).v } ∧
      ∀ j < 16, ∀ i < 16, elem 32 (readV (t.core c.val) j) i =
        if (effPred (s.core c.val) w).getLsbD i = true ∧ (j = bits w 49 46 ∨ p.2 = 1 ∧ j = bits w 49 46 + 1)
        then halfAt (m (vmAddr (s.core c.val) w (i + 16 * (j - bits w 49 46)) / 8)) (vmAddr (s.core c.val) w (i + 16 * (j - bits w 49 46)))
        else elem 32 (readV (s.core c.val) j) i

/-- A vector store whose active elements are reachable, its partly written words reading clean, leaves at each addressed 32 bits the highest-numbered active element stored there, and keeps every other half and every other word; nothing else changes but the PC (R159 to R163). -/
def Sys2Proof.Claims.VectorStoreResult : Prop :=
  ∀ p ∈ ([(.vst, 8), (.vstP, 9), (.vstS, 10), (.vstX, 11)] : List ((CoreId → Instr) × Nat)), ∀ (c : CoreId) (w : Word) (m : Nat → Word) (s : State),
    Executes c.val 6 p.2 w s → ownsBanks s c.val = true → Reachable (s.core c.val) p.2 w →
    (∀ i, memElement (effPred (s.core c.val) w) p.2 i →
      (∃ a, a % 4 = 0 ∧ a / 8 = vmAddr (s.core c.val) w i / 8 ∧ ∀ h, memElement (effPred (s.core c.val) w) p.2 h → vmAddr (s.core c.val) w h ≠ a) →
      Holds c.val (vmAddr (s.core c.val) w i / 8) (m (vmAddr (s.core c.val) w i / 8)) s) →
    ∃ (t : State) (n : Nat → Word), exec (p.1 c) s = .next t ∧ OnlyCore c.val (corePc s c.val + 1) s t ∧
      StoreWritten c.val (fun j => ∃ i, memElement (effPred (s.core c.val) w) p.2 i ∧ vmAddr (s.core c.val) w i / 8 = j) s t ∧
      ∀ i, memElement (effPred (s.core c.val) w) p.2 i → Holds c.val (vmAddr (s.core c.val) w i / 8) (n (vmAddr (s.core c.val) w i / 8)) t ∧
        ∀ a, a % 4 = 0 → a / 8 = vmAddr (s.core c.val) w i / 8 →
          (∀ h, memElement (effPred (s.core c.val) w) p.2 h → vmAddr (s.core c.val) w h = a →
            (∀ g, memElement (effPred (s.core c.val) w) p.2 g → vmAddr (s.core c.val) w g = a → g ≤ h) →
            halfAt (n (a / 8)) a = elem 32 (readV (s.core c.val) (bits w 49 46 + h / 16)) (h % 16)) ∧
          ((∀ h, memElement (effPred (s.core c.val) w) p.2 h → vmAddr (s.core c.val) w h ≠ a) → halfAt (n (a / 8)) a = halfAt (m (a / 8)) a)

namespace Sys2Proof.Claims

/-- The tensor instructions and their OP (R167). -/
def tensorOps : List ((CoreId → Instr) × Nat) := [(.tld, 0), (.tmac, 1), (.tclr, 2), (.temit, 3), (.tsumRow, 4), (.tsumCol, 5)]

/-- Every instruction of a class that E bit 0 governs, with its class and OP (R130, R136). -/
def scalarPredicated : List ((CoreId → Instr) × Nat × List Nat) :=
  [(.branch, 0, [0, 1, 2, 3, 4, 5]), (.jmp, 0, [6]), (.call, 0, [7]), (.jr, 0, [8]), (.dbnz, 0, [9]), (.nop, 1, [0]), (.stop, 1, [1]), (.brk, 1, [2]), (.sysRd, 1, [3]),
   (.sysWr, 1, [4]), (.fenceT, 1, [5]), (.fenceS, 1, [6]), (.fence, 1, [7]), (.ld, 4, [0, 1, 2, 3, 4, 5, 6]), (.st, 4, [8, 9, 10, 11]), (.pset, 7, [0]), (.pand, 7, [1]),
   (.por, 7, [2]), (.pxor, 7, [3]), (.pandn, 7, [4]), (.pnot, 7, [5]), (.pfrom, 7, [6]), (.pto, 7, [7]), (.pcnt, 7, [8]), (.send, 9, [0]), (.sendMc, 9, [1]),
   (.waitTok, 10, [0]), (.clrTok, 10, [1]), (.sigTok, 10, [2]), (.barCoh, 10, [3])] ++
  intOps.map (fun e => (e.1, 2, [e.2.1])) ++ floatOps.map (fun e => (e.1, 2, [e.2.1])) ++ immOps.map (fun e => (e.1, 3, [e.2.1])) ++ tensorOps.map (fun e => (e.1, 8, [e.2]))

/-- Every instruction that E governs element by element, with its class and OP (R137). -/
def elementPredicated : List ((CoreId → Instr) × Nat × List Nat) :=
  [(.vcmp, 5, [0x08]), (.vsel, 5, [0x09]), (.vbcast, 5, [0x0C]), (.vext, 5, [0x0D]), (.vins, 5, [0x0E]), (.vcvt, 5, [0x0F]), (.vmvar, 5, [0x19]),
   (.vld, 6, [0]), (.vldP, 6, [1]), (.vldS, 6, [2]), (.vldX, 6, [3]), (.vldB, 6, [4]), (.vst, 6, [8]), (.vstP, 6, [9]), (.vstS, 6, [10]), (.vstX, 6, [11])] ++
  elementOps.map (fun e => (e.1, 5, [e.2.1])) ++ sumOps.map (fun e => (e.1, 5, [e.2.1]))

/-- Nothing of core c changes but the token register t. -/
def OnlyToken (c tok pc : Nat) (s t : State) : Prop :=
  corePc t c = pc ∧ (∀ off, off ≠ rCoreStat c → off ≠ rCoreTok c tok → t.rd off = s.rd off) ∧ (∀ d, t.core d = s.core d) ∧ t = { s with regs := t.regs }

end Sys2Proof.Claims

/-- An instruction of the control, system, scalar, predicate, tensor, stream and synchronization classes whose E bit 0 is 0, in a predicate register that the array does not owe, has no effect but the PC (R136). -/
def Obligations.PredicatedOff : Prop :=
  ∀ e ∈ scalarPredicated, ∀ op ∈ e.2.2, ∀ (c : CoreId) (w : Word) (s : State),
    Fetches c.val w s → Goes c.val s → iClass w = e.2.1 → iOp w = op → predOwed (s.core c.val) w = false → (effPred (s.core c.val) w).getLsbD 0 = false →
    ∃ t, exec (e.1 c) s = .next t ∧ OnlyCore c.val (corePc s c.val + 1) s t ∧ t.core c.val = s.core c.val ∧ t.draws = s.draws

/-- An illegal encoding faults before the predicate is looked at: whatever instruction is asked to issue, the core takes the contained error 0x0010 with the PC as INFO and nothing of the instruction happens (R211, R213). -/
def Obligations.IllegalEncodingFaults : Prop :=
  ∀ e ∈ scalarPredicated ++ elementPredicated, ∀ (c : CoreId) (w : Word) (s : State),
    canIssue s c.val = true → cwRead (s.core c.val).istore (corePc s c.val) = .clean ⟨w, false⟩ → legal w = false →
    exec (e.1 c) s = .next (coreFault c.val 0 0x0010 (wd (corePc s c.val)) s)

namespace Sys2Proof.Claims

/-- The ranges of the core store that a tensor instruction addresses: start and length of a TLD's source, and of a TEMIT's destination and fused tiles (R169, R177, R179). -/
def tensorRanges (c : Nat) (w : Word) (s : State) : List (Nat × Nat) :=
  if iOp w = 0 then [((opnd s c w 49 45).toNat, 64 * (bits w 34 28 + 1))]
  else if iOp w = 3 then
    ((opnd s c w 43 39).toNat, emitBytes (bits w 49 46)) ::
      ((if bits w 23 22 = 0 then [] else [((opnd s c w 21 17).toNat, fuseBytes (bits w 23 22))]) ++ (if bits w 16 15 = 0 then [] else [((opnd s c w 14 10).toNat, fuseBytes (bits w 16 15))]))
  else []

end Sys2Proof.Claims

/-- The tensor instructions enter the array queue with their operands and system values as they stand at issue, or stall while 8 entries are in it; a TLD or TEMIT whose ranges do not lie in the core store, or start off a line, is the contained error 0x0011 or 0x0012 with the PC as INFO instead (that the array is its UNIT is the model's choice, log entry 80) (R110, R134, R169, R179, R183, R212). -/
def Obligations.TensorIssue : Prop :=
  ∀ e ∈ tensorOps, ∀ (c : CoreId) (w : Word) (s : State), Executes c.val 8 e.2 w s →
    ((∀ r ∈ tensorRanges c.val w s, r.1 + r.2 ≤ 0x80000 ∧ r.1 % 64 = 0) →
      ((s.core c.val).arrayq.length < 8 → ∃ t a, exec (e.1 c) s = .next t ∧ OnlyCore c.val (corePc s c.val + 1) s t ∧
        t.core c.val = { s.core c.val with arrayq := (s.core c.val).arrayq ++ [a] } ∧ a.word = w ∧ a.started = false ∧ a.sa = opnd s c.val w 49 45 ∧
        a.sd = opnd s c.val w 43 39 ∧ a.sk = opnd s c.val w 38 34 ∧ a.sn = opnd s c.val w 33 29 ∧ a.ss = opnd s c.val w 28 24 ∧ a.sadd = opnd s c.val w 21 17 ∧
        a.smul = opnd s c.val w 14 10 ∧ a.step = s.rd (rCoreStep c.val) ∧ a.mb = (s.core c.val).mb ∧ a.key0 = s.rd (rCoreSgkey c.val 0) ∧ a.key1 = s.rd (rCoreSgkey c.val 1)) ∧
      (8 ≤ (s.core c.val).arrayq.length → exec (e.1 c) s = .next s)) ∧
    ((∃ r ∈ tensorRanges c.val w s, 0x80000 < r.1 + r.2) → exec (e.1 c) s = .next (coreFault c.val 4 0x0011 (wd (corePc s c.val)) s)) ∧
    ((∀ r ∈ tensorRanges c.val w s, r.1 + r.2 ≤ 0x80000) → (∃ r ∈ tensorRanges c.val w s, r.1 % 64 ≠ 0) →
      exec (e.1 c) s = .next (coreFault c.val 4 0x0012 (wd (corePc s c.val)) s))

/-- An instruction whose governing predicate register a queued TEMIT has yet to deliver does not issue, nor one that executes and reads or writes a predicate register of a queued TEMIT or a vector register of a queued TSUM (R205). -/
def Sys2Proof.Claims.Interlocks : Prop :=
  ∀ e ∈ scalarPredicated ++ elementPredicated, ∀ op ∈ e.2.2, ∀ (c : CoreId) (w : Word) (s : State), Fetches c.val w s → iClass w = e.2.1 → iOp w = op →
    (predOwed (s.core c.val) w = true ∨ (interlocked (s.core c.val) w = true ∧ (elementwise e.2.1 = true ∨ (effPred (s.core c.val) w).getLsbD 0 = true))) →
    exec (e.1 c) s = .next s

/-- A tensor instruction at the head of an idle array starts, and its completion frees its entry: TCLR clears the accumulators; TSUM writes the exact sums of the rows or columns, each rounded once to FP32, to VD and leaves the accumulators ; a TEMIT writes its packed tile to the core store, the conditions to its predicate register and, unless it keeps them, clears the accumulators (R177, R180 to R182, R184, R222, R225, R250). -/
def Sys2Proof.Claims.ArrayStartAndDone : Prop :=
  ∀ (c : CoreId) (s : State) (a : ArrOp), (s.core c.val).arrayq = [a] →
    (a.started = false → iOp a.word = 2 → ownsBanks s c.val = true → coreRunning s c.val = true → (s.core c.val).haltTo = none →
      ∃ t, exec (.arrayInstructionStart c true) s = .next t ∧ t.core c.val = { s.core c.val with arrayq := [{ a with started := true }] } ∧
        (∀ d, d ≠ c.val → t.core d = s.core d) ∧ t = { s with cores := t.cores }) ∧
    (a.started = true → iOp a.word = 2 → ∃ t, exec (.arrayInstructionDone c true) s = .next t ∧
      t.core c.val = { s.core c.val with arrayq := [], acc := [] } ∧ (∀ d, d ≠ c.val → t.core d = s.core d) ∧ t = { s with cores := t.cores }) ∧
    (a.started = true → iOp a.word = 4 ∨ iOp a.word = 5 → ∃ t, exec (.arrayInstructionDone c true) s = .next t ∧ (t.core c.val).arrayq = [] ∧
      (t.core c.val).acc = (s.core c.val).acc ∧ readV (t.core c.val) (bits a.word 49 46) = a.vec ∧
      (∀ j < 16, j ≠ bits a.word 49 46 → readV (t.core c.val) j = readV (s.core c.val) j) ∧ t = { s with cores := t.cores }) ∧
    (a.started = true → iOp a.word = 3 → (∀ kind word, wptMatch s c.val kind word = false) → ∃ t, exec (.arrayInstructionDone c true) s = .next t ∧ (t.core c.val).arrayq = [] ∧
      (∀ i < a.bytes.length / 8, Holds c.val (a.sd.toNat / 8 + i) (wd (leNat ((a.bytes.drop (8 * i)).take 8))) t) ∧
      (∀ j, (j < a.sd.toNat / 8 ∨ a.sd.toNat / 8 + ceilDiv a.bytes.length 8 ≤ j) → tfind (t.core c.val).store j = tfind (s.core c.val).store j) ∧
      (∀ p < 8, readP (t.core c.val) p = if p = bits a.word 9 7 ∧ p ≠ 0 then a.pst else readP (s.core c.val) p) ∧
      (t.core c.val).acc = (if bit a.word 44 then (s.core c.val).acc else []) ∧ (∀ d, d ≠ c.val → t.core d = s.core d) ∧ t = { s with cores := t.cores })

/-- What the array does when a TLD, a TMAC or a TSUM at the head of an idle array starts: a TLD whose source words read clean fills CNT + 1 lines from line BOFS of its buffer and leaves every other buffer word; a TMAC whose operands decode adds the products of its cycles exactly to every accumulator; a TSUM takes the sum of each row or column, rounded once to FP32; a TEMIT whose tiles read clean takes the packed tile and the conditions; accumulators with wrong parity in a segment are the contained error 0x000A that names the first, and the instruction is abandoned (R168, R171, R181, R221, R230 to R236). -/
def Sys2Proof.Claims.ArrayWork : Prop :=
  ∀ (c : CoreId) (s : State) (a : ArrOp), (s.core c.val).arrayq = [a] → a.started = false → ownsBanks s c.val = true → coreRunning s c.val = true →
    (s.core c.val).haltTo = none →
    (∀ m : Nat → Word, iOp a.word = 0 → (∀ i < 8 * (bits a.word 34 28 + 1), Holds c.val (i + a.sa.toNat / 8) (m i) s) →
      ∃ t, exec (.arrayInstructionStart c false) s = .next t ∧ (t.core c.val).arrayq = [{ a with started := true }] ∧
        (∀ i < 8 * (bits a.word 34 28 + 1), tfind (t.core c.val).bufs (2048 * bits a.word 44 42 + 8 * bits a.word 41 35 + i) = some (eccEncode (m i) false (8 * bits a.word 41 35 + i))) ∧
        (∀ j, (j < 2048 * bits a.word 44 42 + 8 * bits a.word 41 35 ∨ 2048 * bits a.word 44 42 + 8 * bits a.word 41 35 + 8 * (bits a.word 34 28 + 1) ≤ j) →
          tfind (t.core c.val).bufs j = tfind (s.core c.val).bufs j) ∧ (t.core c.val).acc = (s.core c.val).acc ∧ t = { s with cores := t.cores }) ∧
    (∀ bs, iOp a.word = 1 → bufAll (s.core c.val) (readRanges a) = .ok bs → badParity (s.core c.val) (List.range 256) = none →
      ∃ t, exec (.arrayInstructionStart c true) s = .next t ∧ (t.core c.val).arrayq = [{ a with started := true }] ∧ t = { s with cores := t.cores } ∧
        ∀ e < 256, accOf (t.core c.val) e = (List.range (bits a.word 44 37 + 1)).foldl
          (fun v i => accStage (macProducts (macIn a.word bs) i (e / 16) (e % 16)) v) (accOf (s.core c.val) e)) ∧
    (∀ col : Bool, iOp a.word = (if col then 5 else 4) → badParity (s.core c.val) (List.range 256) = none →
      ∃ t v, exec (.arrayInstructionStart c true) s = .next t ∧ t.core c.val = { s.core c.val with arrayq := [{ a with started := true, vec := v }] } ∧ t = { s with cores := t.cores } ∧
        ∀ i < 16, elem 32 v i = sumAcc ((List.range 16).map (fun j => accOf (s.core c.val) (if col then 16 * j + i else 16 * i + j))) % 2 ^ 32) ∧
    (∀ m : Nat → Word, iOp a.word = 3 → badParity (s.core c.val) (List.range 256) = none →
      (∀ j ∈ tileWords (bits a.word 23 22) a.sadd ++ tileWords (bits a.word 16 15) a.smul, Holds c.val j (m j) s) →
      (bits a.word 49 46 ≤ 5 → Holds c.val ((a.sd.toNat + 32 * fmtBits (bits a.word 49 46)) / 8) (m ((a.sd.toNat + 32 * fmtBits (bits a.word 49 46)) / 8)) s) →
      ∃ t, exec (.arrayInstructionStart c true) s = .next t ∧ (t.core c.val).store = (s.core c.val).store ∧ (t.core c.val).acc = (s.core c.val).acc ∧ t = { s with cores := t.cores } ∧
        ∀ r, r = emitTile (s.core c.val) a (tileCodes (fuseFmt (bits a.word 23 22)) (wordsBytes ((tileWords (bits a.word 23 22) a.sadd).map m)))
            (tileCodes (fuseFmt (bits a.word 16 15)) (wordsBytes ((tileWords (bits a.word 16 15) a.smul).map m))) →
          (t.core c.val).arrayq = [{ a with started := true, bytes := r.1, pst := r.2 }]) ∧
    (∀ e g bs, iOp a.word = 3 ∨ iOp a.word = 4 ∨ iOp a.word = 5 ∨ (iOp a.word = 1 ∧ bufAll (s.core c.val) (readRanges a) = .ok bs) →
      badParity (s.core c.val) (List.range 256) = some (e, g) →
      exec (.arrayInstructionStart c true) s = .next (coreFault c.val 4 0x000A (wd (e * 8 + g)) (s.modCore c.val (fun k => { k with arrayq := [] }))))

namespace Sys2Proof.Claims

/-- The core-store or field-store ranges that a SEND or SEND.MC addresses, each with the bytes of its store: the source, and the destination unless it is a limb (R191 to R193). -/
def sendRanges (c : Nat) (w : Word) (s : State) : List (Nat × Nat) :=
  ((opnd s c w 27 23).toNat, 0x80000) ::
    (if iOp w = 1 ∨ bits w 49 48 = 0 then [((opnd s c w 22 18).toNat, 0x80000)] else if bits w 49 48 = 1 then [((opnd s c w 22 18).toNat, 0x2000000)] else [])

/-- The lines of a SEND or SEND.MC in bytes (R191). -/
def sendBytes (c : Nat) (w : Word) (s : State) : Nat := 64 * (bits (opnd s c w 17 13) 33 24 + 1)

/-- Source and destination start on a line; a destination in a field store need not (R192, R193). -/
def SendAligned (c : Nat) (w : Word) (s : State) : Prop :=
  (opnd s c w 27 23).toNat % 64 = 0 ∧ (iOp w = 1 ∨ bits w 49 48 ≠ 1 → (opnd s c w 22 18).toNat % 64 = 0)

/-- A SEND.MC names a valid entry of its field's multicast table (R201, R337). -/
def SendEntry (c : Nat) (w : Word) (s : State) : Prop :=
  iOp w = 1 → mcValid (s.rd (mcEntry (fieldOf c) (bits w 49 40))) (s.rd (mcEntry (fieldOf c) (bits w 49 40) + 8)) = true

end Sys2Proof.Claims

/-- SEND and SEND.MC whose ranges lie in their stores, that are aligned and name a valid entry, enter the send queue with their operands as they stand at issue, or stall while 8 entries are in it; else the core takes the contained error 0x0011, 0x0012 or 0x0014, the first that applies, with the PC as INFO (that order and UNIT 5 are the model's choice, log entry 84) (R134, R191 to R193, R197, R201, R212). -/
def Sys2Proof.Claims.SendIssue : Prop :=
  ∀ e ∈ ([(.send, 0), (.sendMc, 1)] : List ((CoreId → Instr) × Nat)), ∀ (c : CoreId) (w : Word) (s : State), Executes c.val 9 e.2 w s →
    ((∀ r ∈ sendRanges c.val w s, r.1 + sendBytes c.val w s ≤ r.2) →
      (SendAligned c.val w s →
        (SendEntry c.val w s →
          ((s.core c.val).sendq.length < 8 → ∃ t, exec (e.1 c) s = .next t ∧ OnlyCore c.val (corePc s c.val + 1) s t ∧
            t.core c.val = { s.core c.val with sendq := (s.core c.val).sendq ++ [⟨w, opnd s c.val w 27 23, opnd s c.val w 22 18, opnd s c.val w 17 13⟩] }) ∧
          (8 ≤ (s.core c.val).sendq.length → exec (e.1 c) s = .next s)) ∧
        (¬ SendEntry c.val w s → exec (e.1 c) s = .next (coreFault c.val 5 0x0014 (wd (corePc s c.val)) s))) ∧
      (¬ SendAligned c.val w s → exec (e.1 c) s = .next (coreFault c.val 5 0x0012 (wd (corePc s c.val)) s))) ∧
    ((∃ r ∈ sendRanges c.val w s, r.2 < r.1 + sendBytes c.val w s) → exec (e.1 c) s = .next (coreFault c.val 5 0x0011 (wd (corePc s c.val)) s))

/-- The synchronization instructions: a WAIT.TOK whose condition holds completes at once; one that must wait leaves the core in STATE 2; a wait in progress completes once its condition holds; CLR.TOK clears CNT and keeps GEN; SIG.TOK counts an arrival of the current generation; BAR.COH arrives and waits in STATE 3 (R90, R99, R101, R202, R203). -/
def Obligations.Synchronization : Prop :=
  ∀ (c : CoreId) (w : Word) (s : State),
    (Executes c.val 10 0 w s → drained s c.val = true → s.fld (rCoreTok c.val (bits w 49 44)) 15 0 = syncGen (s.core c.val) w →
      bits w 37 30 ≤ s.fld (rCoreTok c.val (bits w 49 44)) 23 16 →
      ∃ t, exec (.waitTok c) s = .next t ∧ OnlyCore c.val (corePc s c.val + 1) s t ∧ t.core c.val = s.core c.val) ∧
    (Executes c.val 10 0 w s → drained s c.val = true → s.fld (rCoreTok c.val (bits w 49 44)) 15 0 = syncGen (s.core c.val) w →
      s.fld (rCoreTok c.val (bits w 49 44)) 23 16 < bits w 37 30 →
      ∃ t, exec (.waitTok c) s = .next t ∧ coreSt t c.val = 2 ∧ corePc t c.val = corePc s c.val ∧
        (t.core c.val).wait = some (bits w 49 44, syncGen (s.core c.val) w, bits w 37 30) ∧ (∀ off, off ≠ rCoreStat c.val → t.rd off = s.rd off)) ∧
    (∀ tok g n, (s.core c.val).wait = some (tok, g, n) → coreSt s c.val = 2 → Goes c.val s → s.fld (rCoreTok c.val tok) 15 0 = g → n ≤ s.fld (rCoreTok c.val tok) 23 16 →
      ∃ t, exec (.waitTokComplete c) s = .next t ∧ coreSt t c.val = 1 ∧ corePc t c.val = corePc s c.val + 1 ∧ coreLate t c.val = false ∧
        t.core c.val = { s.core c.val with wait := none }) ∧
    (Executes c.val 10 1 w s → ∃ t, exec (.clrTok c) s = .next t ∧ OnlyToken c.val (bits w 49 44) (corePc s c.val + 1) s t ∧
      t.fld (rCoreTok c.val (bits w 49 44)) 23 16 = 0 ∧ t.fld (rCoreTok c.val (bits w 49 44)) 15 0 = s.fld (rCoreTok c.val (bits w 49 44)) 15 0) ∧
    (Executes c.val 10 2 w s → s.fld (rCoreTok c.val (bits w 49 44)) 15 0 = syncGen (s.core c.val) w →
      ∃ t, exec (.sigTok c) s = .next t ∧ OnlyToken c.val (bits w 49 44) (corePc s c.val + 1) s t ∧
        t.fld (rCoreTok c.val (bits w 49 44)) 23 16 = min (s.fld (rCoreTok c.val (bits w 49 44)) 23 16 + 1) 255 ∧
        t.fld (rCoreTok c.val (bits w 49 44)) 15 0 = s.fld (rCoreTok c.val (bits w 49 44)) 15 0) ∧
    (Executes c.val 10 3 w s → drained s c.val = true → coreWindow s c.val = true →
      ∃ t, exec (.barCoh c) s = .next t ∧ coreSt t c.val = 3 ∧ corePc t c.val = corePc s c.val + 1 ∧ (t.core c.val).arrived = true ∧
        (∀ off, off ≠ rCoreStat c.val → t.rd off = s.rd off) ∧ (∀ d, d ≠ c.val → t.core d = s.core d))

/-! ### The machine -/

/-- A step with a command at the front of the queue is that command's effect on the state with the queue's rest. -/
def Obligations.StepRunsFrontCommand : Prop :=
  ∀ (c : Instr) (rest : List Instr) (s : State), step { s with pending := c :: rest } = exec c { s with pending := rest }

/-- With an empty queue a step lets one nanosecond pass (the model's own choice, log entry 3): every register but the sidereal counter and the fields' CHR_NOW, every core, the store range and what has left the module stay. -/
def Obligations.IdleStepFrame : Prop :=
  ∀ s : State, s.pending = [] → ∃ t, step s = .next t ∧ t.pending = [] ∧ (∀ off, off ≠ rChrTime → (∀ f < 84, off ≠ rChrNow f) → t.rd off = s.rd off) ∧ t.cores = s.cores ∧
    t.mem = s.mem ∧ t.memX = s.memX ∧ t.fst = s.fst ∧ t.out = s.out ∧ t.limbs = s.limbs ∧ t.links = s.links

/-- Every command answers a next state and leaves the commands that wait as they are. -/
def Sys2Proof.Claims.ExecKeepsQueue : Prop :=
  ∀ (c : Instr) (s : State), ∃ t, exec c s = .next t ∧ t.pending = s.pending

/-- Every step, from every state, keeps the canonical form of the tables by address: rising keys in the store range, its poison bits, the registers, the cores and the field stores, and no entry of the store range equal to what an unlisted byte reads as. -/
def Obligations.StepKeepsTables : Prop :=
  ∀ s t : State, StateInv s → step s = .next t → StateInv t

/-- The state after reset meets the invariant of the tables. -/
def Obligations.ResetMeetsInvariant : Prop := StateInv State.reset

/-- A step takes back nothing that has left the module, and runs exactly the front command: the queue that remains is the rest. -/
def Sys2Proof.Claims.StepConsumesQueue : Prop :=
  ∀ s t : State, step s = .next t → t.pending = s.pending.tail ∧ s.out <:+ t.out ∧ s.draws ≤ t.draws

namespace Sys2Proof.Claims

/-- Only core c's record and the registers of `offs` can differ between s and t; the other cores stay. -/
def OnlyAt (c : Nat) (offs : List Nat) (s t : State) : Prop :=
  t = { s with regs := t.regs, cores := t.cores } ∧ (∀ off, off ∉ offs → t.rd off = s.rd off) ∧ ∀ d, d ≠ c → t.core d = s.core d

/-- No halt waits for core c's array, and the local port holds no packet. -/
def Quiet (c : Nat) (s : State) : Prop := arrayBusy (s.core c) = false ∧ (s.core c).haltTo = none ∧ (s.core c).held = []

/-- A domain has room for an error that neither of its records repeats: its ACTIVE record is empty (R621). -/
def Empty (d : Dom) (s : State) : Prop := recV (s.rd (errBase d + 8)) = false ∧ recV (s.rd (errBase d + 0x28)) = false

end Sys2Proof.Claims

/-- Writes of CORE_CTL.RUN, HALT and STEP1 at a core whose port holds nothing: RUN = 1 in STATE 0 or 7 starts it at START_PC with BAR_EPOCH 0, in the compute window in cohort A and in the transfer window in cohort B; in STATE 4, 5 or 6 it resumes where it stood; RUN = 0 or HALT of a running core with no array access outstanding halts it into STATE 4; STEP1 lets a halted core issue with RUN = 0; in a field whose compute domain is off RUN changes nothing (R41, R53, R89, R120 to R123). -/
def Obligations.CoreControl : Prop :=
  ∀ (c : CoreId) (s : State), Quiet c.val s → coreDisabled s c.val = false →
    (computeOn s (fieldOf c.val) = false → ∃ t, exec (.run c true) s = .next t ∧ (∀ d, t.core d = s.core d) ∧ OnlyAt c.val [] s t) ∧ (computeOn s (fieldOf c.val) = true →
    (coreSt s c.val = 0 ∨ coreSt s c.val = 7 → ∃ t, exec (.run c true) s = .next t ∧ coreSt t c.val = 1 ∧ corePc t c.val = s.fld (rCoreCtl c.val) 28 16 ∧
      t.fld (rCoreStat c.val) 47 32 = 0 ∧ coreWindow t c.val = !s.flag (rCoreId c.val) 34 ∧ coreLate t c.val = false ∧ t.flag (rCoreCtl c.val) 0 = true ∧
      t.core c.val = { s.core c.val with vmode := s.flag (rCoreCtl c.val) 3, arrived := false, wait := none, longRec := false } ∧
      OnlyAt c.val [rCoreStat c.val, rCoreCtl c.val] s t) ∧
    (4 ≤ coreSt s c.val → coreSt s c.val ≤ 6 → ∃ t, exec (.run c true) s = .next t ∧ coreSt t c.val = (if (s.core c.val).arrived then 3 else 1) ∧
      corePc t c.val = corePc s c.val ∧ coreWindow t c.val = coreWindow s c.val ∧ t.flag (rCoreCtl c.val) 0 = true ∧
      t.core c.val = { s.core c.val with longRec := false } ∧ OnlyAt c.val [rCoreStat c.val, rCoreCtl c.val] s t) ∧
    (∀ i ∈ [Instr.run c false, Instr.halt c], coreRunning s c.val = true → ∃ t, exec i s = .next t ∧ coreSt t c.val = 4 ∧ corePc t c.val = corePc s c.val ∧
      coreLate t c.val = false ∧ coreWindow t c.val = coreWindow s c.val ∧ t.fld (rCoreCtl c.val) 2 0 = 0 ∧
      t.core c.val = { s.core c.val with wait := none, wptHit := false } ∧ OnlyAt c.val [rCoreStat c.val, rCoreCtl c.val] s t) ∧
    (4 ≤ coreSt s c.val → coreSt s c.val ≤ 6 → ∃ t, exec (.step1 c) s = .next t ∧ coreSt t c.val = (if (s.core c.val).arrived then 3 else 1) ∧
      t.flag (rCoreCtl c.val) 2 = true ∧ corePc t c.val = corePc s c.val ∧ (∀ d, t.core d = s.core d) ∧ OnlyAt c.val [rCoreStat c.val, rCoreCtl c.val] s t))

/-- The halts a core takes by itself, at a port that holds nothing: a halt in progress is taken once the array has no access outstanding; a breakpoint halts a core in STATE 1 into STATE 5 before the instruction issues (R59, R120, R126). -/
def Sys2Proof.Claims.HaltsTaken : Prop :=
  ∀ (c : CoreId) (s : State), arrayBusy (s.core c.val) = false → (s.core c.val).held = [] →
    (∀ st, (s.core c.val).haltTo = some st → st < 8 → ∃ t, exec (.haltTaken c) s = .next t ∧ coreSt t c.val = st ∧ corePc t c.val = corePc s c.val ∧
      t.fld (rCoreCtl c.val) 2 0 = 0 ∧ t.core c.val = { s.core c.val with haltTo := none, wait := none, wptHit := false } ∧ OnlyAt c.val [rCoreStat c.val, rCoreCtl c.val] s t) ∧
    ((s.core c.val).haltTo = none → coreSt s c.val = 1 → atBreakpoint s c.val = true → ∃ t, exec (.breakpointHit c) s = .next t ∧ coreSt t c.val = 5 ∧
      corePc t c.val = corePc s c.val ∧ t.fld (rCoreCtl c.val) 2 0 = 0 ∧ t.core c.val = { s.core c.val with wait := none, wptHit := false } ∧
      OnlyAt c.val [rCoreStat c.val, rCoreCtl c.val] s t)

/-- The limits on a core: the watchdog is the contained error 0x0009 with the PC as INFO in STATE 1 with no array instruction at work; a wait beyond its limit sets LONG_WAIT and is one deferred error 0x0006; both only with CORE_CTL bit 4. A counter's wrap adds 1 to its upper count up to 65,535, clears the lower one and is one night-log record (R57, R108, R127 to R129). -/
def Sys2Proof.Claims.CoreLimits : Prop :=
  ∀ (c : CoreId) (s : State),
    (coreSt s c.val = 1 → s.flag (rCoreCtl c.val) 4 = true → arrayBusy (s.core c.val) = false → exec (.sequencerWatchdog c) s = .next (raise (.core c) 2 0 0x0009 (wd (corePc s c.val)) s)) ∧
    (coreSt s c.val = 2 ∨ coreSt s c.val = 3 → s.flag (rCoreCtl c.val) 4 = true → (s.core c.val).longRec = false → Empty (.core c) s →
      ∃ t, exec (.waitLimitExceeded c) s = .next t ∧ t.flag (rCoreStat c.val) 48 = true ∧ coreSt t c.val = coreSt s c.val ∧ corePc t c.val = corePc s c.val ∧
        t.core c.val = { s.core c.val with longRec := true } ∧ recV (t.rd (errBase (.core c) + 8)) = true ∧ recClass (t.rd (errBase (.core c) + 8)) = 1 ∧
        t.fld (errBase (.core c) + 8) 47 32 = 0x0006 ∧ t.rd (errBase (.core c) + 0x20) = wd (corePc s c.val)) ∧
    (∀ busy, ∃ t, exec (.counterWrap c busy) s = .next t ∧ t.fld (if busy then rCoreBusy c.val else rCoreWait c.val) 47 0 = 0 ∧
      t.fld (if busy then rCoreBusy c.val else rCoreWait c.val) 63 48 = min (s.fld (if busy then rCoreBusy c.val else rCoreWait c.val) 63 48 + 1) 65535 ∧
      t.rd ringNlog.head = s.rd ringNlog.head + 1 ∧ t.cores = s.cores)

/-- The local port reads the send at the head of the queue in the transfer window, or in late admission: its lines, clean words, leave in packets of at most 32 flits with the head of R315, the last of them marked; the entry leaves the queue, and the sender's own token, if it asked for one, takes an arrival (R84, R197, R198, R315). -/
def Sys2Proof.Claims.SendReads : Prop :=
  ∀ (c : CoreId) (s : State) (op : SendOp) (rest : List SendOp) (m : Nat → Word), (s.core c.val).sendq = op :: rest → coreWindow s c.val = false ∨ coreLate s c.val = true →
    computeOn s (fieldOf c.val) = true → op.ssrc.toNat % 64 = 0 → op.ssrc.toNat + 64 * (bits op.sctl 33 24 + 1) ≤ 0x80000 →
    (∀ i < 8 * (bits op.sctl 33 24 + 1), Holds c.val (i + op.ssrc.toNat / 8) (m i) s) →
    ∀ sent, sent = (cutBody 32 op.sdst.toNat ((List.range (8 * (bits op.sctl 33 24 + 1))).map (fun i => (⟨m i, false⟩ : PWord)))).foldl
        (fun t b => if iOp op.word = 1 then t.send { sendHead s c.val op with daddr := b.1, lastp := b.2.1, body := b.2.2 }
          else injectPkt { sendHead s c.val op with daddr := b.1, lastp := b.2.1, body := b.2.2 } t) (s.modCore c.val (fun k => { k with sendq := rest })) →
      exec (.sendRead c) s = .next (if bit op.word 12 then tokArrive c.val (bits op.word 11 6) (bits op.sctl 15 0) sent else sent)

/-- A corrected codeword is written back where it still reads as corrected, and waits no longer (R73). -/
def Sys2Proof.Claims.CorrectedWriteBack : Prop :=
  ∀ (c : CoreId) (instr : Bool) (word : Nat) (s : State) (w fixed : Codeword) (d : PWord), (instr, word) ∈ (s.core c.val).wbq →
    tfind (if instr then (s.core c.val).istore else (s.core c.val).store) word = some w → eccDecode w word = .corrected d fixed →
    ∃ t, exec (.correctedWriteback c instr word) s = .next t ∧ (instr, word) ∉ (t.core c.val).wbq ∧
      tfind (if instr then (t.core c.val).istore else (t.core c.val).store) word = some fixed ∧
      (∀ j, j ≠ word → tfind (if instr then (t.core c.val).istore else (t.core c.val).store) j = tfind (if instr then (s.core c.val).istore else (s.core c.val).store) j) ∧
      (if instr then (t.core c.val).store = (s.core c.val).store else (t.core c.val).istore = (s.core c.val).istore) ∧ OnlyAt c.val [] s t

/-- The barrier, late admission and token arrivals: a barrier whose mapped cores have all arrived releases, and each of them, with a port that holds nothing and no STEP1, leaves STATE 3 for STATE 1, changes its window and counts the epoch; late admission begins at a drained wait in the compute window; an arrival of the token's generation counts up to 255, one of a later generation starts it at 1, and an earlier one is LATE and the contained error 0x0007 (R91, R97, R98, R102, R104). -/
def Obligations.BarrierAndTokens : Prop :=
  ∀ (s : State),
    (∀ (f : FieldId) (c : Nat), barrierReady s f.val = true → c ∈ mappedOf s f.val → coreSt s c = 3 → (∀ d ∈ mappedOf s f.val, (s.core d).held = [] ∧ s.flag (rCoreCtl d) 2 = false) →
      ∃ t, exec (.barrierRelease f) s = .next t ∧ coreSt t c = 1 ∧ coreWindow t c = !coreWindow s c ∧ t.fld (rCoreStat c) 47 32 = (s.fld (rCoreStat c) 47 32 + 1) % 65536 ∧
        corePc t c = corePc s c ∧ (t.core c).arrived = false) ∧
    (∀ c : CoreId, coreWindow s c.val = true → coreSt s c.val = 2 → drained s c.val = true → (s.core c.val).held = [] →
      ∃ t, exec (.lateAdmissionBegin c) s = .next t ∧ coreLate t c.val = true ∧ coreSt t c.val = 2 ∧ (∀ d, t.core d = s.core d) ∧ OnlyAt c.val [rCoreStat c.val] s t) ∧
    (∀ (c : CoreId) (tok gen : Nat), tok < 64 → gen < 65536 →
      (s.fld (rCoreTok c.val tok) 15 0 = gen → ∃ t, exec (.tokenArrival c tok gen) s = .next t ∧ t.fld (rCoreTok c.val tok) 23 16 = min (s.fld (rCoreTok c.val tok) 23 16 + 1) 255 ∧
        t.fld (rCoreTok c.val tok) 15 0 = gen ∧ t = { s with regs := t.regs } ∧ ∀ off, off ≠ rCoreTok c.val tok → t.rd off = s.rd off) ∧
      (0 < (gen + 65536 - s.fld (rCoreTok c.val tok) 15 0) % 65536 → (gen + 65536 - s.fld (rCoreTok c.val tok) 15 0) % 65536 < 0x8000 → ∃ t, exec (.tokenArrival c tok gen) s = .next t ∧
        t.fld (rCoreTok c.val tok) 23 16 = 1 ∧ t.fld (rCoreTok c.val tok) 15 0 = gen ∧
        ((s.core c.val).wait = none → t = { s with regs := t.regs } ∧ ∀ off, off ≠ rCoreTok c.val tok → t.rd off = s.rd off)) ∧
      (0x8000 ≤ (gen + 65536 - s.fld (rCoreTok c.val tok) 15 0) % 65536 →
        exec (.tokenArrival c tok gen) s = .next (coreFault c.val 5 0x0007 (wd (tok * 65536 + gen)) (s.satFld (rCoreTok c.val tok) 31 24 1))))

namespace Sys2Proof.Claims

/-- Words 0 to 3 of a domain's ACTIVE or PENDING record (R620, R641). -/
def record (d : Dom) (pending : Bool) (s : State) : List Word := recWords s (errBase d + if pending then 0x28 else 8)

/-- The record queues with the command that moves their oldest record (R636, R741, R777, R784). -/
def MovesRing (i : Instr) (r : Ring) (s : State) : Prop :=
  (i = .nlogRecordWrite ∧ r = ringNlog) ∨ (i = .chronographRecordWrite ∧ r = ringChr) ∨ (i = .clampRecordWrite ∧ r = ringClamp) ∨
    ∃ j < 64, i = .completionEntryWrite j ∧ r = ringCq s j

/-- Where the slot of a record stands in its host ring, by the record's SEQ (R636). -/
def slotAt (r : Ring) (rec : List Word) (s : State) : Nat := (s.rd r.base).toNat / 4096 * 4096 + r.bytes * ((rec.getD 0 0).toNat % r.slots)

/-- The writes that carry a record to its slot: one of 64 bytes, or two with word 0 in the last (R637, R741, R777). -/
def slotWrites (r : Ring) (rec : List Word) (s : State) : List Out :=
  let bs := wordsBytes (padWords (r.bytes / 8) rec)
  if r.bytes = 128 then [.hostWrite (slotAt r rec s) (bs.take 64) false, .hostWrite (slotAt r rec s + 64) (bs.drop 64) false] else [.hostWrite (slotAt r rec s) bs false]

end Sys2Proof.Claims

/-- A deferred or contained error that neither record repeats takes ACTIVE when it is empty and PENDING when only ACTIVE is in use: V, CLASS, DKIND, UNIT, CAUSE, REPEAT 0 and ATTEMPT, the low half of the next night-log number with LOC, the sidereal time and INFO; the other record stays, the night log takes one record, and ERR_STAT.STATE follows (R619, R620, R621). -/
def Obligations.ErrorTakesRecord : Prop :=
  ∀ (d : Dom) (cls unit cause : Nat) (info : Word) (s : State) (p : Bool), cls = 1 ∨ cls = 2 → unit < 256 → cause < 65536 → (d = .module → fatal s = false) →
    repeats s (errBase d + 8) cls unit info = false → repeats s (errBase d + 0x28) cls unit info = false →
    (if p then recV (s.rd (errBase d + 8)) = true ∧ recV (s.rd (errBase d + 0x28)) = false else recV (s.rd (errBase d + 8)) = false) →
    ∃ w0 w1, record d p (recordError d cls unit cause info s) = [w0, w1, sidereal s, info] ∧ recV w0 = true ∧ recClass w0 = cls ∧ bits w0 60 59 = dkind d ∧ recUnit w0 = unit ∧
      bits w0 47 32 = cause ∧ bits w0 31 16 = 0 ∧ bits w0 7 0 = attempts s ∧ bits w1 63 32 = (s.rd ringNlog.head).toNat % 2 ^ 32 ∧ bits w1 16 0 = locOf d ∧
      record d (!p) (recordError d cls unit cause info s) = record d (!p) s ∧ (recordError d cls unit cause info s).rd ringNlog.head = s.rd ringNlog.head + 1 ∧
      domState (recordError d cls unit cause info s) d =
        (if cls = 2 ∨ (recV (s.rd (errBase d + if p then 8 else 0x28)) = true ∧ 2 ≤ recClass (s.rd (errBase d + if p then 8 else 0x28))) then 2 else 1)

/-- Clearing a record by its NSEQ: ACTIVE takes what PENDING held and PENDING is empty; PENDING alone is emptied; one night-log record is written; an NSEQ that does not match, or an empty record, only counts CLR_DROP (R626). -/
def Obligations.ClearRecord : Prop :=
  ∀ (d : Dom) (nseq : Nat) (s : State), nseq < 2 ^ 32 →
    (recV (s.rd (errBase d + 8)) = true → recNseq s (errBase d + 8) = nseq → ∃ t, exec (.clearActive d nseq) s = .next t ∧ record d false t = record d true s ∧
      record d true t = [0, 0, 0, 0] ∧ t.rd ringNlog.head = s.rd ringNlog.head + 1 ∧ t.cores = s.cores) ∧
    (recV (s.rd (errBase d + 0x28)) = true → recNseq s (errBase d + 0x28) = nseq → ∃ t, exec (.clearPending d nseq) s = .next t ∧ record d false t = record d false s ∧
      record d true t = [0, 0, 0, 0] ∧ t.rd ringNlog.head = s.rd ringNlog.head + 1 ∧ t.cores = s.cores) ∧
    (recV (s.rd (errBase d + 8)) = false ∨ recNseq s (errBase d + 8) ≠ nseq → exec (.clearActive d nseq) s = .next (s.satFld (errBase d) 7 0 1)) ∧
    (recV (s.rd (errBase d + 0x28)) = false ∨ recNseq s (errBase d + 0x28) ≠ nseq → exec (.clearPending d nseq) s = .next (s.satFld (errBase d) 7 0 1))

/-- One increment of a child's ESC count reaches its parent: a contained error of UNIT 0xFF and CAUSE 0x0FF0 with the child's DKIND and LOC as INFO; a corrected tally at CORR_BATCH is event 0x1007 with the tally, which returns to 0; the end of a limb's hold changes no state of its own (R618, R624, R630). -/
def Sys2Proof.Claims.EscalationAndTally : Prop :=
  ∀ (d : Dom) (s : State),
    (0 < tget 0 s.escOut (domKey d) → ∃ u, exec (.escalationArrival d) s = .next (raise (parentOf d) 2 0xFF 0x0FF0 (wd (dkind d * 2 ^ 17 + locOf d)) u) ∧
      tget 0 u.escOut (domKey d) = tget 0 s.escOut (domKey d) - 1 ∧ u = { s with escOut := u.escOut }) ∧
    (0 < s.fld rModErrCfg 15 0 → s.fld rModErrCfg 15 0 ≤ tget 0 s.tally (domKey d) → ∃ t, exec (.correctedBatch d) s = .next t ∧ tget 0 t.tally (domKey d) = 0 ∧
      t.rd ringNlog.head = s.rd ringNlog.head + 1 ∧ (∀ e, domKey e ≠ domKey d → tget 0 t.tally (domKey e) = tget 0 s.tally (domKey e)) ∧ t.cores = s.cores) ∧
    (∀ l, exec (.limbHoldEnd l) s = .next s)

/-- A new record of a queue takes the next SEQ; a full queue drops its oldest record and counts it (R635, R636). -/
def Sys2Proof.Claims.RecordEntersQueue : Prop :=
  ∀ (i : Instr) (r : Ring) (body : List Word) (s : State), MovesRing i r s →
    (ringPush r body s).rd r.head = s.rd r.head + 1 ∧
    (ringPush r body s).ringQ r = (if r.cap ≤ (s.ringQ r).length then (s.ringQ r).tail else s.ringQ r) ++ [s.rd r.head :: body] ∧
    (ringPush r body s).fld r.stat 31 16 = (if r.cap ≤ (s.ringQ r).length then min (s.fld r.stat 31 16 + 1) 65535 else s.fld r.stat 31 16)

/-- The oldest record of an enabled queue goes to its slot of the host ring, and with interrupts on and no holdoff its vector is signalled; with the ring off or the link down nothing moves; an ended holdoff signals a record that waited (R636, R637, R639, R741, R777, R784). -/
def Sys2Proof.Claims.RecordsReachHost : Prop :=
  ∀ (s : State),
    (∀ i r, MovesRing i r s → ∀ rec rest, s.ringQ r = rec :: rest → ringRuns r s = true →
      (s.flag r.int 11 = false → ∃ t, exec i s = .next t ∧ t.ringQ r = rest ∧ t.out = slotWrites r rec s ++ s.out ∧ t.cores = s.cores ∧ t.mem = s.mem) ∧
      (s.flag r.int 11 = true → irqFree r s = true → masked s (s.fld r.int 10 0) = false →
        ∃ t, exec i s = .next t ∧ t.ringQ r = rest ∧ t.out = .msix (s.fld r.int 10 0) :: (slotWrites r rec s ++ s.out))) ∧
    (∀ i r, MovesRing i r s → ringRuns r s = false → exec i s = .next s) ∧
    ((s.irqOf 0).pend = true → s.flag ringNlog.int 11 = true → hostUp s = true → masked s (s.fld ringNlog.int 10 0) = false → (∀ id, id ≠ 0 → (s.irqOf id).pend = false) →
      ∃ t, exec .nlogInterrupt s = .next t ∧ t.out = .msix (s.fld ringNlog.int 10 0) :: s.out ∧ (t.irqOf 0).pend = false)

namespace Sys2Proof.Claims

/-- A register with no fuse. -/
def NoFuse (off : Nat) : Prop := (regFields off).any (fun f => f.fuse && f.acc == .ro) = false

/-- t is s in cold reset with the tray as `tr` (R16, R835, R850): registers without fuses at their reset values (DOME_STAT apart), cores, stores, mesh and engines as reset leaves them; the boot flash and what has left the module stay. -/
structure IsCold (tr : Tray) (s t : State) : Prop where
  tray : t.tray = tr
  regs : ∀ off, off ≠ rDomeStat → NoFuse off → t.rd off = resetValue off
  cores : ∀ c, t.core c = Core.reset
  stores : t.mem = [] ∧ t.memX = [] ∧ t.fst = [] ∧ t.res = [] ∧ t.migs = []
  engines : t.limbs = [] ∧ t.plans = [] ∧ t.net = [] ∧ t.links = [] ∧ t.reqs = [] ∧ t.rings = [] ∧ t.escOut = [] ∧ t.tally = []
  domains : ∀ d < 296, domSt t d = 0
  kept : t.boot.flash = s.boot.flash ∧ t.boot.pref = s.boot.pref ∧ t.out = s.out

/-- The register keeps no field through warm reset, by R16's table, as RWS or as a fuse, and is not one of the pools' totals (R16, R402). -/
def Resets (off : Nat) : Prop :=
  warmKept off = [] ∧ (∀ f ∈ regFields off, f.acc ≠ .rws ∧ (f.fuse && f.acc == .ro) = false) ∧ ∀ l < 8, off ≠ limbBase l + 0x1000 ∧ off ≠ limbBase l + 0x1008

/-- t is s after a warm reset in which no migration ran and no staging slot was open (R16, R370, R635): every register without a kept field is at its reset value; cores lose everything but their stores and stand in STATE 0; the store range, its granule entries (LAST apart in the two granules with the slot headers that the Plate engine then reads, R383, R611) and the field stores stay; the night log, the step counter and the sidereal counter stay; and the mesh and the engines are empty. -/
structure IsWarm (s t : State) : Prop where
  regs : ∀ off, Resets off → t.rd off = resetValue off
  cores : ∀ c, t.core c = warmCore (s.core c)
  states : ∀ c : CoreId, coreSt t c.val = 0 ∧ corePc t c.val = 0
  stores : t.mem = s.mem ∧ t.memX = s.memX ∧ t.fst = s.fst
  entries : ∀ g, setBits (t.entry g) 47 32 0 = setBits (s.entry g) 47 32 0 ∧ (g ≠ 0 → g ≠ 16384 → t.entry g = s.entry g)
  numbers : t.rd rStepCnt = s.rd rStepCnt ∧ sidereal t = sidereal s ∧ ((s.ringQ ringNlog).length ≤ 248 → s.ringQ ringNlog <+: t.ringQ ringNlog) ∧ t.ringQ ringChr = []
  clean : t.net = [] ∧ t.ports = [] ∧ t.grants = [] ∧ t.reqs = [] ∧ t.hreqs = [] ∧ t.engReads = [] ∧ t.migs = [] ∧ t.plans = [] ∧ t.escOut = [] ∧ t.tally = [] ∧ fatal t = false

end Sys2Proof.Claims

/-- What brings the whole module to cold reset: COLD_RESET itself; MOD_PWREN low and the loss of both inputs, which also begin the hold-off; EPO_N with MOD_PWREN high, which latches and leaves a Dome that had left RESET in EPO (R16, R685, R835, R838, R839, R850). -/
def Obligations.ColdResets : Prop :=
  ∀ s : State,
    (∃ t, exec .coldReset s = .next t ∧ IsCold s.tray.down s t ∧ domeState t = 0) ∧
    (inputOk s.tray = true → ∃ t, exec .modPwrenLow s = .next t ∧ IsCold { s.tray.down with pwren := false, holdOff := true, pend := false, needLow := false } s t ∧ domeState t = 0) ∧
    (∃ t, exec .inputLost s = .next t ∧ IsCold { s.tray.down with okA := false, okB := false, pwren := false, holdOff := true, pend := false } s t ∧ domeState t = 0) ∧
    (inputOk s.tray = true → s.tray.pwren = true → ∃ t, exec .epoN s = .next t ∧ IsCold { s.tray.down with epo := true } s t ∧ domeState t = (if domeState s = 0 then 0 else 4))

/-- Warm reset, by the command or by a write of MOD_RESET with its key, in a module with no migration in progress and no staging slot open (R16, R370, R635, R791). -/
def Sys2Proof.Claims.WarmResets : Prop :=
  ∀ s : State, s.migs = [] → (∀ l, (s.limb l).slots = []) →
    (∃ t, exec .warmReset s = .next t ∧ IsWarm s t) ∧
    (∀ v : Word, bits v 15 8 = 0xA5 → bit v 0 = true → ∃ t, exec (.warm v) s = .next t ∧ IsWarm s t)

/-- A write of MOD_RESET without its key or its bit does nothing (R791). -/
def Sys2Proof.Claims.WarmResetKey : Prop :=
  ∀ (s : State) (v : Word), bits v 15 8 ≠ 0xA5 ∨ bit v 0 = false → exec (.warm v) s = .next s

/-- The power-up sequence: MOD_PWREN high begins it at step 2, or waits out the hold-off; the hold-off's end takes a high that waits; the steps go on one by one, step 5 with MOD_PGOOD and the host strap's level, an open one, as sampled, step 6 with the host limb's domains ON; a rail that is not good in time takes the tray down until MOD_PWREN has been low; clips open, come back and clear the latch (R828, R829, R835, R839, R848, R849). -/
def Obligations.PowerUpSequence : Prop :=
  ∀ s : State,
    (inputOk s.tray = true → s.tray.epo = false → s.tray.needLow = false →
      (s.tray.holdOff = false → s.tray.seq = 0 → exec .modPwrenHigh s = .next { s with tray := { s.tray with pwren := true, seq := 2 } }) ∧
      (s.tray.holdOff = true → exec .modPwrenHigh s = .next { s with tray := { s.tray with pend := true } }) ∧
      (s.tray.holdOff = true → s.tray.pend = true → s.tray.seq = 0 →
        exec .powerHoldOffEnd s = .next { s with tray := { s.tray with holdOff := false, pend := false, pwren := true, seq := 2 } }) ∧
      (s.tray.holdOff = true → s.tray.pend = false → exec .powerHoldOffEnd s = .next { s with tray := { s.tray with holdOff := false } }) ∧
      (s.tray.pwren = true → s.tray.seq = 2 ∨ s.tray.seq = 3 → exec .powerUpSequenceStep s = .next { s with tray := { s.tray with seq := s.tray.seq + 1 } }) ∧
      (s.tray.pwren = true → s.tray.seq = 4 → ∃ t, exec .powerUpSequenceStep s = .next t ∧ t.tray = { s.tray with seq := 5, pgood := true, hostsel := t.tray.hostsel } ∧
        t.flag 0 4 = t.tray.hostsel ∧ t.flag rDomeStat 3 = t.tray.hostsel ∧ hostLimb t = (if t.tray.hostsel then 4 else 0) ∧ domeState t = 0 ∧ t.cores = s.cores ∧ ∀ off, off ≠ 0 → off ≠ rDomeStat → t.rd off = s.rd off) ∧
      (s.tray.pwren = true → s.tray.seq = 5 → ∃ t, exec .powerUpSequenceStep s = .next t ∧ t.tray = { s.tray with seq := 6 } ∧ domSt t (252 + 4 * hostLimb s) = 2 ∧
        domSt t (284 + hostLimb s) = 2 ∧ domSt t (292 + hostLimb s / 4) = 2)) ∧
    (s.tray.seq = 3 → exec .railPowerGoodTimeout s = .next { s with tray := { s.tray with seq := 0, pgood := false, ready := false, needLow := true } }) ∧
    exec .epoLatchClear s = .next { s with tray := { s.tray with epo := false, okA := false, okB := false } } ∧
    exec (.inputRestored false) s = .next { s with tray := { s.tray with okA := true } } ∧ exec (.inputRestored true) s = .next { s with tray := { s.tray with okB := true } } ∧
    exec (.clipOvercurrent false) s = .next { s with tray := { s.tray with openA := true } } ∧ exec (.clipOvercurrent true) s = .next { s with tray := { s.tray with openB := true } }

/-- The endpoint's link: PERST# before boot stage 5 resets the endpoint alone, and from then on the module too; it ends with the REFCLK of the cable choosing the clocking; with PERST# high the link comes up at its rate and width, an event when below x16 at 32 GT/s; a link loss without PERST# is counted, stops every enabled ring and is the contained error 0x0604; a power state and a received error follow (R751, R753, R789, R790, R843 to R845). -/
def Sys2Proof.Claims.EndpointLink : Prop :=
  ∀ s : State,
    (s.tray.seq = 6 → bootStage s < 5 → ∃ t, exec .perstAssert s = .next t ∧ t.tray = { s.tray with perst := true } ∧ t.fld rHostLink 39 28 = 0 ∧ t.host.linkUp = false ∧
      t.host.msix = [] ∧ t.cores = s.cores ∧ t.mem = s.mem ∧ ∀ off, off ≠ rHostLink → t.rd off = s.rd off) ∧
    (s.tray.seq = 6 → 5 ≤ bootStage s → s.migs = [] → (∀ l, (s.limb l).slots = []) → ∃ t, exec .perstAssert s = .next t ∧ IsWarm s t ∧ t.fld rHostLink 39 28 = 0 ∧ t.host.linkUp = false) ∧
    (s.tray.seq < 6 → exec .perstAssert s = .next { s with tray := { s.tray with perst := true } }) ∧
    (∀ b, exec (.perstDeassert b) s = .next { s with tray := { s.tray with perst := false }, host := { s.host with common := b } }) ∧
    (s.tray.perst = false → s.host.linkUp = false → pcieOn s = true → bootStage s ≠ 0 → ∀ rate ∈ [1, 2, 3, 4, 5], ∀ width ∈ [1, 4, 8, 16],
      ∃ t, exec (.hostLinkUp rate width) s = .next t ∧ t.host.linkUp = true ∧ t.fld rHostLink 39 32 = width ∧ t.fld rHostLink 31 28 = rate ∧ t.cores = s.cores ∧
        t.rd ringNlog.head = s.rd ringNlog.head + (if rate = 5 ∧ width = 16 then 0 else 1)) ∧
    (s.tray.perst = false → s.host.linkUp = true → ∃ u, exec .linkDown s = .next (raise (domLimb (hostLimb s)) 2 10 0x0604 (s.rd rHostLink) u) ∧ u.host.linkUp = false ∧
      u.fld rHostLink 39 28 = 0 ∧ u.fld rHostLink 63 48 = min (s.fld rHostLink 63 48 + 1) 65535 ∧ u.host.cmds = [] ∧ u.mem = s.mem ∧ u.cores = s.cores ∧
      ∀ i < 64, s.flag (0x1008 + 0x40 * i) 63 = true → u.flag (0x1018 + 0x40 * i) 63 = true) ∧
    (s.host.linkUp = true → (∀ b, exec (.pciPowerStateChange b) s = .next { s with host := { s.host with d3hot := b } }) ∧
      ∀ e, exec (.uncorrectableErrorReceived e) s = .next (raise (domLimb (hostLimb s)) 1 10 0x0605 (wd e.toNat) s))

/-- What a failed request of the module to the host records: a deferred error of the host limb, 0x0206 with the module address for an access of the host window, else 0x0606 with the host address (R411, R628). -/
def Sys2Proof.Claims.requestFailed (q : HostReq) (s : State) : State :=
  if q.win ≠ 0 then raise (domLimb (hostLimb s)) 1 10 0x0206 (wd q.win) s else raise (domLimb (hostLimb s)) 1 10 0x0606 (wd q.addr) s

/-- A request of the module to the host ends with its completion or, as if it had failed, its timeout, and is no longer outstanding; the debug transport takes the data, a Slew transfer its words and an engine its bytes, poisoned by EP, and a failure ends them with their status (R411, R412, R752). -/
def Sys2Proof.Claims.HostAnswers : Prop :=
  ∀ (s : State) (tag : Nat) (q : HostReq), tfind s.hreqs tag = some q → ∀ u, u = { s with hreqs := terase s.hreqs tag } →
    (∀ st data i, (st ≠ .sc ∧ st ≠ .ep ∧ hostUp s = true ∧ i = .hostCompletion tag st data) ∨ (st = .ca ∧ i = .completionTimeout tag) →
      (q.who = 1 → exec i s = .next (Claims.requestFailed q u)) ∧
      (q.who = 2 → ∃ t, t = Claims.requestFailed q u ∧ exec i s = .next { t with xp := { t.xp with busy := false, rstat := 3, data := [] } }) ∧
      (q.who = 0 → ∃ d, exec i s = .next (slewHostData (q.unit / 4096) (q.unit % 4096) q.idx st d (Claims.requestFailed q u))) ∧
      (q.who = 3 → ∃ d, exec i s = .next (engAnswer q.unit q.win q.idx 0 5 d (Claims.requestFailed q u)))) ∧
    (hostUp s = true → ∀ data, data.length = q.len → ∀ st, st = .sc ∨ st = .ep →
      (q.who = 1 → exec (.hostCompletion tag st data) s = .next u) ∧
      (q.who = 2 → exec (.hostCompletion tag st data) s = .next { u with xp := { u.xp with busy := false, rstat := if st = .sc then 0 else 3, data := if st = .sc then data else [] } }) ∧
      (q.who = 0 → exec (.hostCompletion tag st data) s = .next (slewHostData (q.unit / 4096) (q.unit % 4096) q.idx st data u)) ∧
      (q.who = 3 → exec (.hostCompletion tag st data) s = .next (engAnswer q.unit q.win q.idx 0 0 (data.map (fun b => (b, decide (st = .ep)))) u)))

/-- The service level follows the first condition of R786 that holds: a change writes LEVEL, PREV, WHY and MOD_READY with one event, and no change writes nothing (R786, R787). -/
def Obligations.ServiceLevel : Prop :=
  ∀ s : State, domSt s (252 + 4 * hostLimb s) = 2 →
    (serviceLevel s ≠ s.fld rModSvc 2 0 → ∃ t, exec .serviceLevelChange s = .next t ∧ t.fld rModSvc 2 0 = serviceLevel s ∧ t.fld rModSvc 15 8 = s.fld rModSvc 2 0 ∧
      t.fld rModSvc 23 16 = serviceWhy s ∧ t.tray = { s.tray with ready := decide (1 ≤ serviceLevel s) } ∧ t.flag rModSvc 3 = decide (1 ≤ serviceLevel s) ∧
      t.flag rModSvc 31 = s.flag rModSvc 31 ∧ t.rd ringNlog.head = s.rd ringNlog.head + 1 ∧ t.cores = s.cores ∧ t.mem = s.mem) ∧
    (serviceLevel s = s.fld rModSvc 2 0 → exec .serviceLevelChange s = .next s)

namespace Sys2Proof.Claims

/-- t counts k more night-log records than s. -/
def Logged (k : Nat) (s t : State) : Prop := t.rd ringNlog.head = s.rd ringNlog.head + wd k

/-- OFFSET as measured: o within 32 signed bits (R746). -/
def offsetField (o : Int) : Nat := toBits 32 (clampInt (-(2 ^ 31 - 1)) (2 ^ 31 - 1) o)

/-- The lock after a phase measurement of offset o: cleared from 1,000 ns on, set by the 16th in succession below 100 ns, each change an event; the measurement's time is kept (R731). -/
structure LockFollows (o : Int) (s t : State) : Prop where
  good : t.sync.good = if o.natAbs < 100 then s.sync.good + 1 else 0
  lock : t.flag rChrSyncStat 7 = if 1000 ≤ o.natAbs then false else s.flag rChrSyncStat 7 || decide (16 ≤ t.sync.good)
  time : t.sync.lastPhase = some (sidereal t)

/-- A phase measurement of offset o inside the step size: the integral and the rate of the servo, the rate an open value where no time has passed since an accepted measurement (R730); the counter does not jump. -/
structure ServoFollows (o : Int) (s t : State) : Prop where
  integ : t.sync.integ = s.sync.integ + o.tdiv 16
  rate : ∀ a, s.sync.lastAcc = some a → a ≠ sidereal s → rateOf t = clampInt (-500000) 500000 ((-(o.tdiv 2 + t.sync.integ) * 1000000000).tdiv (sidereal s - a).toNat)
  accepted : t.sync.lastAcc = some (sidereal s)
  slewing : t.flag rChrSyncStat 6 = false
  counter : sidereal t = sidereal s

end Sys2Proof.Claims

/-- The sidereal counter: a set moves it forward only, a set to no later a time is counted; the broadcast gives every copy the master value, one that is ahead holding; the lock is lost, with event 0x1305, when no phase measurement has come for 4 s, and not before (R726, R727, R731). -/
def Sys2Proof.Claims.SiderealCounter : Prop :=
  ∀ (s : State),
    (∀ ns : Word, (sidereal s).toNat < ns.toNat → exec (.chrTimeSet ns) s = .next (s.wr rChrTime ns)) ∧
    (∀ ns : Word, ns.toNat ≤ (sidereal s).toNat → exec (.chrTimeSet ns) s = .next (s.satFld rChrSyncStat 11 8 1)) ∧
    (∃ t, exec .siderealBroadcast s = .next t ∧ (∀ u < 118, (tget 0 t.sync.copies u).toNat = max (tget 0 s.sync.copies u).toNat (sidereal s).toNat) ∧
      t = { s with sync := { s.sync with copies := t.sync.copies } }) ∧
    (s.flag rChrSyncStat 7 = true → (∀ a, s.sync.lastPhase = some a → 4000000000 ≤ (sidereal s - a).toNat) →
      ∃ t, exec .lockLostTimeout s = .next t ∧ t.flag rChrSyncStat 7 = false ∧ Logged 1 s t ∧ sidereal t = sidereal s ∧ t.sync = s.sync ∧ t.cores = s.cores) ∧
    (s.flag rChrSyncStat 7 = false ∨ (∃ a, s.sync.lastPhase = some a ∧ (sidereal s - a).toNat < 4000000000) → exec .lockLostTimeout s = .next s)

/-- SYNC_1PPS once the Dome is out of RESET: an edge within 900 ms of the last is only counted; any other is accepted and kept as the last one, and ends an absence with event 0x110D; with SRC = 1 it is a phase measurement of the nearest whole second, PPS_DELAY taken off, which the servo takes inside the step size; no accepted edge for 3 s is the absence, with event 0x110C, and not before (R683, R686, R728 to R731). -/
def Sys2Proof.Claims.PulsePerSecond : Prop :=
  ∀ (s : State), domeState s ≠ 0 →
    (ppsTooSoon s = true → exec .sync1ppsIgnored s = .next (s.satFld rDomeIn 39 24 1) ∧ exec .sync1ppsEdge s = .next s) ∧
    (ppsTooSoon s = false → exec .sync1ppsIgnored s = .next s) ∧
    (ppsTooSoon s = false → timeSrc s ≠ 1 → ∃ t, exec .sync1ppsEdge s = .next t ∧ t.sync = { s.sync with ppsLast := some (sidereal s) } ∧ ppsPresent t = true ∧
      t.flag rChrSyncStat 5 = false ∧ Logged (if ppsPresent s then 0 else 1) s t ∧ sidereal t = sidereal s ∧ t.cores = s.cores) ∧
    (ppsTooSoon s = false → timeSrc s = 1 → ∀ c o : Int, c = (sidereal s).toNat - sx 32 (s.fld rChrSync 63 32) → o = (c % 1000000000 + 500000000) % 1000000000 - 500000000 →
      ∃ t, exec .sync1ppsEdge s = .next t ∧ t.sync.ppsLast = some (sidereal s) ∧ ppsPresent t = true ∧ t.flag rChrSyncStat 5 = true ∧
        t.fld rChrSyncStat 63 32 = offsetField o ∧ LockFollows o s t ∧ (o.natAbs < stepNs s → ServoFollows o s t) ∧
        (stepNs s ≤ o.natAbs → t.sync.integ = s.sync.integ ∧ t.sync.lastAcc = s.sync.lastAcc ∧ rateOf t = rateOf s ∧ t.flag rChrSyncStat 6 = s.flag rChrSyncStat 6) ∧
        Logged ((if ppsPresent s then 0 else 1) + if t.flag rChrSyncStat 7 = s.flag rChrSyncStat 7 then 0 else 1) s t ∧ sidereal t = sidereal s ∧ t.cores = s.cores) ∧
    (ppsPresent s = true → (∀ a, s.sync.ppsLast = some a → 3000000000 ≤ (sidereal s - a).toNat) → ∃ t, exec .ppsAbsent s = .next t ∧ ppsPresent t = false ∧
      t.flag rChrSyncStat 5 = false ∧ Logged 1 s t ∧ t.sync = s.sync ∧ t.cores = s.cores) ∧
    (ppsPresent s = false ∨ (∃ a, s.sync.ppsLast = some a ∧ (sidereal s - a).toNat < 3000000000) → exec .ppsAbsent s = .next s)

/-- What a Sync gives at the port that serves, of offset o: with SRC = 2 nothing more; otherwise OFFSET, and at a step size behind the counter jumps forward by it, with event 0x1301; at a step size ahead it slews at the lowest rate, with event 0x1302 unless it did already; inside the step size it is a phase measurement where PTP gives those, with SRC = 0 or while the pulses are absent (R728 to R731). -/
def Sys2Proof.Claims.SyncMeasured (o : Int) (s t : State) : Prop :=
  t.fld rChrSyncStat 63 32 = offsetField o ∧ t.cores = s.cores ∧
    (timeSrc s = 0 ∨ ppsPresent s = false → LockFollows o s t) ∧
    (timeSrc s = 1 → ppsPresent s = true → t.flag rChrSyncStat 7 = s.flag rChrSyncStat 7 ∧ t.sync.lastPhase = s.sync.lastPhase ∧ t.sync.good = s.sync.good) ∧
    (o ≤ -stepNs s → sidereal t = sidereal s + wd o.natAbs ∧ t.flag rChrSyncStat 6 = false ∧ t.sync.integ = 0 ∧ t.sync.lastAcc = some (sidereal t) ∧ rateOf t = rateOf s ∧
      Logged (1 + if t.flag rChrSyncStat 7 = s.flag rChrSyncStat 7 then 0 else 1) s t) ∧
    (stepNs s ≤ o → sidereal t = sidereal s ∧ t.flag rChrSyncStat 6 = true ∧ t.sync.integ = s.sync.integ ∧ t.sync.lastAcc = some (sidereal s) ∧ rateOf t = -500000 ∧
      Logged ((if s.flag rChrSyncStat 6 then 0 else 1) + if t.flag rChrSyncStat 7 = s.flag rChrSyncStat 7 then 0 else 1) s t) ∧
    (-stepNs s < o → o < stepNs s → Logged (if t.flag rChrSyncStat 7 = s.flag rChrSyncStat 7 then 0 else 1) s t ∧
      (timeSrc s = 0 ∨ ppsPresent s = false → ServoFollows o s t) ∧
      (timeSrc s = 1 → ppsPresent s = true → t.sync.integ = s.sync.integ ∧ t.sync.lastAcc = s.sync.lastAcc ∧ rateOf t = rateOf s ∧ sidereal t = sidereal s))

/-- The shortest time between two Delay_Req: what the master's last Delay_Resp permits, as a power of two of seconds, and at most 16 a second (R520). -/
def Sys2Proof.Claims.delayInterval (s : State) : Nat :=
  max 62500000 (if s.sync.logIv < 0 then 1000000000 / 2 ^ (-s.sync.logIv).toNat else 1000000000 * 2 ^ s.sync.logIv.toNat)

/-- PTP at the port that serves: a Sync with SRC = 2 only keeps its offset, and with SRC 0 or 1 it is a measurement; Delay_Req leaves when due and at no other time, and its answer gives the path delay; at any port that passes PTP a Pdelay_Req is answered by two messages and an Announce is counted (R519, R520, R728 to R730). -/
def Sys2Proof.Claims.PrecisionTime : Prop :=
  ∀ (s : State) (p : PortId), ptpOn s p.val = true →
    (exec (.pdelayReq p) s = .next { s with out := .ptp p.val 3 :: .ptp p.val 2 :: s.out }) ∧
    (∃ t, exec (.announce p) s = .next t ∧ tget 0 t.sync.announces p.val = tget 0 s.sync.announces p.val + 1 ∧ t = { s with sync := { s.sync with announces := t.sync.announces } }) ∧
    (servingPort s = some p.val →
      (timeSrc s = 2 → ∀ t1 t2 c, exec (.ptpSync p t1 t2 c) s = .next { s with sync := { s.sync with syncD := some (t2 - t1 - c) } }) ∧
      (timeSrc s ≠ 2 → ∀ t1 t2 c, ∃ t, exec (.ptpSync p t1 t2 c) s = .next t ∧ t.sync.syncD = some (t2 - t1 - c) ∧ Claims.SyncMeasured (t2 - t1 - c - s.sync.mpd) s t) ∧
      ((∀ a, s.sync.t3 = some a → Claims.delayInterval s ≤ (sidereal s - a).toNat) →
        exec (.delayReqSend p) s = .next { s with sync := { s.sync with t3 := some (sidereal s) }, out := .ptp p.val 1 :: s.out }) ∧
      (∀ a, s.sync.t3 = some a → (sidereal s - a).toNat < Claims.delayInterval s → exec (.delayReqSend p) s = .next s) ∧
      (∀ d t3, s.sync.syncD = some d → s.sync.t3 = some t3 → ∀ t4 c iv,
        exec (.delayResp p t4 c iv) s = .next { s with sync := { s.sync with mpd := (d + (t4 - (t3.toNat : Int) - c)).tdiv 2, logIv := iv } }) ∧
      (s.sync.syncD = none ∨ s.sync.t3 = none → ∀ t4 c iv, exec (.delayResp p t4 c iv) s = .next s))

namespace Sys2Proof.Claims

/-- The Dome is out of RESET and neither tripped nor off, and takes requests and samples (R661). -/
def DomeUp (s : State) : Prop := domeState s = 1 ∨ domeState s = 2

/-- No request runs, no sequence is left, and no dark-frame slice is in progress. -/
def DomeFree (s : State) : Prop := s.fld rDomeStat 23 22 ≠ 1 ∧ s.pwr.jobs = [] ∧ s.dark.slice = none

/-- The four requests of the driver with their CMD and TARGET (R666). -/
def Request (i : Instr) (cmd t : Nat) : Prop :=
  (i = .fieldOff t ∧ cmd = 1) ∨ (i = .fieldOn t ∧ cmd = 2) ∨ (i = .hemiOff t ∧ cmd = 3) ∨ (i = .hemiOn t ∧ cmd = 4)

/-- A sample with every diode valid and no reading of 95 °C or more. -/
def Cool (d : Diodes) : Prop :=
  (∀ o ∈ [d.d0, d.d1, d.d2, d.d3], o ≠ none) ∧ tempOf (diodeWord d) ≠ none ∧ atLeast (tempOf (diodeWord d)) 95 = false

end Sys2Proof.Claims

/-- The driver's requests: while one runs another is discarded and counted; one whose condition does not hold is REFUSED; an accepted one runs. FIELD_OFF has the field's compute and store domains OFF and its transit domain ON when the rail step begins; FIELD_ON waits for its rail; HEMI_ON ramps the seam half; HEMI_OFF runs its sequences. The request ends with RSTAT 0, or ABORTED where a step failed, which is the model's choice (log entry 64) (R666, R667, R668, R681, R682). -/
def Sys2Proof.Claims.DomeRequests : Prop :=
  ∀ (s : State),
    (∀ i cmd t, Request i cmd t → s.fld rDomeStat 23 22 = 1 → exec i s = .next (s.satFld rDomeStat 47 32 1)) ∧
    (∀ i cmd t, Request i cmd t → s.fld rDomeStat 23 22 ≠ 1 → ¬ DomeUp s ∨ reqOk s cmd t = false →
      exec i s = .next ((s.setFld rDomeStat 21 19 cmd).setFld rDomeStat 23 22 2)) ∧
    (DomeUp s → DomeFree s →
      (∀ f, reqOk s 1 f = true → ∃ t, exec (.fieldOff f) s = .next t ∧ t.fld rDomeStat 23 22 = 1 ∧ t.fld rDomeStat 21 19 = 1 ∧ computeOn t f = false ∧ storeOn t f = false ∧
        transitOn t f = true ∧ effPoint t f = 5 ∧ t.pwr.jobs = [⟨true, f, [⟨1, 3 * f + 2, 5⟩]⟩]) ∧
      (∀ f, reqOk s 2 f = true → ∃ t, exec (.fieldOn f) s = .next t ∧ t.fld rDomeStat 23 22 = 1 ∧ t.fld rDomeStat 21 19 = 2 ∧ t.pwr.jobs = [⟨true, f, seqComputeOn f⟩] ∧
        t.cores = s.cores ∧ ∀ off, off ≠ rDomeStat → t.rd off = s.rd off) ∧
      (∀ h, reqOk s 4 h = true → domSt s (294 + h) ≠ 2 → ∃ t, exec (.hemiOn h) s = .next t ∧ t.fld rDomeStat 23 22 = 1 ∧ t.fld rDomeStat 21 19 = 4 ∧
        t.pwr.jobs = jobsHemiOn h ∧ domSt t (294 + h) = 1 ∧ t.cores = s.cores) ∧
      (∀ h, reqOk s 3 h = true → ∃ u, exec (.hemiOff h) s = .next (addJobs (jobsHemiOff s h) u) ∧ u.fld rDomeStat 23 22 = 1 ∧ u.fld rDomeStat 21 19 = 3 ∧ u.cores = s.cores)) ∧
    (s.fld rDomeStat 23 22 = 1 → s.pwr.jobs = [] → ∃ t, exec .domeRequestDone s = .next t ∧ t.fld rDomeStat 23 22 = (if s.pwr.failed then 3 else 0) ∧
      t.fld rDomeStat 2 0 = s.fld rDomeStat 2 0 ∧ t = { s with regs := t.regs })

/-- The last step of a sequence, an OPEN of a domain or a RAIL step of a field, ends with the sequence gone, the domain of an OPEN ON and nothing else changed by a RAIL step; where it fails the domain is FAILED, the request is marked, and the error 0x0404 with the domain and the step is raised where the domain belongs; a step that no running sequence waits for does nothing (R663, R687). -/
def Sys2Proof.Claims.SequenceSteps : Prop :=
  ∀ (s : State),
    (∀ (j : Job) (d : Nat), d < 296 → s.pwr.jobs = [j] → j.steps = [⟨2, d, 0⟩] → ∃ t, exec (.sequenceStepDone d 2 true) s = .next t ∧ domSt t d = 2 ∧ t.pwr.jobs = [] ∧ t.cores = s.cores) ∧
    (∀ (j : Job) (d f e : Nat), f < 84 → d / 3 = f → s.pwr.jobs = [j] → j.steps = [⟨1, 3 * f + 2, e⟩] →
      exec (.sequenceStepDone d 1 true) s = .next { s with pwr := { s.pwr with jobs := [] } }) ∧
    (∀ (j : Job) (d op : Nat), (op = 2 ∧ d < 296 ∧ j.steps = [⟨2, d, 0⟩]) ∨ (op = 1 ∧ d < 252 ∧ ∃ e, j.steps = [⟨1, 3 * (d / 3) + 2, e⟩]) → s.pwr.jobs = [j] →
      ∃ u, exec (.sequenceStepDone d op false) s = .next (runJobs (raise (domOwner s d).1 (domOwner s d).2.1 (domOwner s d).2.2 0x0404 (wd (d + op * 2 ^ 9)) u)) ∧
        domSt u d = 3 ∧ u.pwr.failed = (s.pwr.failed || j.chain) ∧ u.pwr.jobs = [] ∧ u.cores = s.cores) ∧
    (∀ d op ok, (running false s.pwr.jobs).find? (awaits d op) = none → exec (.sequenceStepDone d op ok) s = .next s)

/-- Clocks: a DVFS step ends with EFF and all six clocks of the field at its point, and a further step toward the target begins where that is another; in a field no longer ON it has no effect; a stretched clock and its recovery; a loss of lock is the contained error 0x0405 of the unit that holds the island (R653, R654, R655, R687). -/
def Sys2Proof.Claims.OperatingPoints : Prop :=
  ∀ (s : State),
    (∀ (f : FieldId) e, tfind s.pwr.dvfs f.val = some e → e < 8 → fieldOn3 s f.val = true → s.dark.slice = none →
      ∃ t, exec (.dvfsStepDone f) s = .next t ∧ effPoint t f.val = e ∧
        tfind t.pwr.dvfs f.val = (if 1 ≤ e ∧ e ≤ 4 ∧ effTarget s f.val ≠ e then some (if e < effTarget s f.val then e + 1 else e - 1) else none) ∧ (∀ i < 6, tget 0 t.pwr.clk (6 * f.val + i) = e) ∧ t.cores = s.cores ∧
        ∀ off, off ≠ rFldPwr f.val → t.rd off = s.rd off) ∧
    (∀ f : FieldId, fieldOn3 s f.val = false → exec (.dvfsStepDone f) s = .next { s with pwr := { s.pwr with dvfs := terase s.pwr.dvfs f.val } }) ∧
    (∀ n ∈ s.pwr.stretched, exec (.clockStretch n) s = .next s) ∧
    (∀ n, n ∉ s.pwr.stretched → exec (.clockStretch n) s = .next { s with pwr := { s.pwr with stretched := s.pwr.stretched ++ [n] } }) ∧
    (∀ n, exec (.supplyRecovery n) s = .next { s with pwr := { s.pwr with stretched := s.pwr.stretched.erase n } }) ∧
    (∀ n < 504, exec (.lockLoss n) s = .next (raise (domField (n / 6)) 2 7 0x0405 (wd n) s)) ∧
    (∀ n, 504 ≤ n → n < 616 → exec (.lockLoss n) s = .next (raise (domLimb ((n - 504) / 14)) 2 12 0x0405 (wd n) s)) ∧
    (∀ n, 616 ≤ n → n < 620 → exec (.lockLoss n) s = .next (raise .module 2 2 0x0405 (wd n) s))

/-- Temperatures: a sample of powered fields and limbs with every diode valid below 95 °C only writes their registers; a field that first reaches 95 °C below 110 °C has CAP_T raised by one and counted; one that reaches 110 °C, or has no valid diode, has its compute and store domains turned off, and a diode at 115 °C trips the module; CAP_T goes on to rise while hot and falls by one after a cool spell; a limb leaves its throttle; a limb whose diodes stay invalid trips the module (R670 to R674, R676, R679). -/
def Sys2Proof.Claims.Temperatures : Prop :=
  ∀ (s : State),
    (DomeUp s → ∀ (fs : List (FieldId × Diodes)) (ls : List (LimbId × Diodes)), (fs.map (·.1)).Nodup → (ls.map (·.1)).Nodup →
      (∀ x ∈ fs, transitOn s x.1.val = true ∧ Cool x.2) → (∀ x ∈ ls, domSt s (252 + 4 * x.1.val) = 2 ∧ Cool x.2) →
      ∃ t, exec (.thermalSample fs ls) s = .next t ∧ (∀ x ∈ fs, t.rd (rFldTemp x.1.val) = diodeWord x.2) ∧ (∀ x ∈ ls, t.rd (rLmbTemp x.1.val) = diodeWord x.2) ∧ t.cores = s.cores ∧
        ∀ off, (∀ x ∈ fs, off ≠ rFldTemp x.1.val) → (∀ x ∈ ls, off ≠ rLmbTemp x.1.val) → t.rd off = s.rd off) ∧
    (DomeUp s → ∀ (f : FieldId) (d : Diodes), transitOn s f.val = true → s.dark.slice = none →
      ((∀ o ∈ [d.d0, d.d1, d.d2, d.d3], o ≠ none) → atLeast (tempOf (diodeWord d)) 95 = true → atLeast (tempOf (diodeWord d)) 110 = false →
        atLeast (tempOf (s.rd (rFldTemp f.val))) 95 = false → s.fld (rFldPwr f.val) 6 4 < 4 → ∃ t, exec (.thermalSample [(f, d)] []) s = .next t ∧
        t.fld (rFldPwr f.val) 6 4 = s.fld (rFldPwr f.val) 6 4 + 1 ∧ t.fld (rFldPwr f.val) 63 56 = min (s.fld (rFldPwr f.val) 63 56 + 1) 255 ∧ t.cores = s.cores) ∧
      (s.pwr.jobs = [] → computeOn s f.val = true → s.flag (rFldPwr f.val) 19 = false → tempOf (diodeWord d) = none ∨ atLeast (tempOf (diodeWord d)) 110 = true →
        atLeast (tempOf (diodeWord d)) 115 = false → ∃ t, exec (.thermalSample [(f, d)] []) s = .next t ∧ t.rd (rFldTemp f.val) = diodeWord d ∧
        t.flag (rFldPwr f.val) 19 = true ∧ computeOn t f.val = false ∧ storeOn t f.val = false ∧ transitOn t f.val = true) ∧
      (s.pwr.jobs = [] → atLeast (tempOf (diodeWord d)) 115 = true → ∃ u, exec (.thermalSample [(f, d)] []) s = .next (trip (3 * f.val) (diodeBits (tempOf (diodeWord d))) 1 u) ∧ u.rd (rFldTemp f.val) = diodeWord d)) ∧
    (∀ f : FieldId, atLeast (tempOf (s.rd (rFldTemp f.val))) 95 = true → 2 ≤ s.fld (rFldPwr f.val) 6 4 → s.fld (rFldPwr f.val) 6 4 < 4 →
      ∃ t, exec (.capTRise f) s = .next t ∧ t.fld (rFldPwr f.val) 6 4 = s.fld (rFldPwr f.val) 6 4 + 1 ∧ t.cores = s.cores ∧ t.rd (rFldTemp f.val) = s.rd (rFldTemp f.val)) ∧
    (∀ f : FieldId, tempOf (s.rd (rFldTemp f.val)) ≠ none → atLeast (tempOf (s.rd (rFldTemp f.val))) 90 = false → 2 ≤ s.fld (rFldPwr f.val) 6 4 →
      ∃ t, exec (.capTFall f) s = .next t ∧ t.fld (rFldPwr f.val) 6 4 = s.fld (rFldPwr f.val) 6 4 - 1 ∧ t.cores = s.cores) ∧
    (∀ l : LimbId, tempOf (s.rd (rLmbTemp l.val)) ≠ none → atLeast (tempOf (s.rd (rLmbTemp l.val))) 90 = false → l.val ∉ s.pwr.stuck →
      exec (.limbUnthrottle l) s = .next (s.setFld (rLmbPwr l.val) 12 12 0)) ∧
    (∀ l : LimbId, DomeUp s → l.val ∈ s.pwr.stuck → tempOf (s.rd (rLmbTemp l.val)) = none → exec (.limbDiodesInvalid l) s = .next (trip (252 + 4 * l.val) 0x8000 2 s))

/-- A trip of the Dome from RUN or bring-up, by a unit other than the host limb: DOME_STAT.STATE 3, the trip register with domain, reading and cause, the module fatal, and every field's domains OFF (R676, R677). -/
def Sys2Proof.Claims.TripEffect : Prop :=
  ∀ (s : State) (src temp cause : Nat), DomeUp s → src ≠ 252 + 4 * hostLimb s → s.dark.slice = none →
    domeState (trip src temp cause s) = 3 ∧ (trip src temp cause s).rd rDomeTrip = wd (src * 2 ^ 32 + temp % 65536 * 2 ^ 16 + cause) ∧ fatal (trip src temp cause s) = true ∧
    ∀ d < 252, domSt (trip src temp cause s) d = 0

/-- Input power: a sample writes the clip and power registers; with both clips OK and no excess nothing more, with excess that begins CAP_P of every field rises by one, and with one clip OK the one-clip state begins with its event and CAP_P 4; lasting excess raises CAP_P by one, and a spell below 95 % of the limit lowers it; both clips back for 1 s end the one-clip state with its event; a current sample writes the registers of its fields and limbs and of the seam and PCIe domains, domains that are off reading 0 (R680, R742, R743, R830 to R832). -/
def Sys2Proof.Claims.InputPower : Prop :=
  ∀ (s : State),
    (DomeUp s → ∀ smp : ClipSample, smp.va < 1024 → smp.vb < 1024 → smp.ia < 65536 → smp.ib < 65536 → smp.pwr < 65536 → s.tray.openA = false → s.tray.openB = false → s.flag rDomeBus 2 = false →
      ∃ t, exec (.powerSample smp) s = .next t ∧ t.fld rDomePcap 47 32 = smp.pwr ∧ t.fld rDomeBus 63 48 = smp.ia ∧ t.fld rDomeBus 47 32 = smp.ib ∧ t.fld rDomeBus 31 22 = smp.va ∧
        t.fld rDomeBus 21 12 = smp.vb ∧ t.cores = s.cores ∧ t.flag rDomeBus 0 = decide (440 ≤ smp.va) ∧ t.flag rDomeBus 1 = decide (440 ≤ smp.vb) ∧
        (440 ≤ smp.va → 440 ≤ smp.vb → smp.pwr ≤ capActs s * 10 → t.fld rDomeBus 2 0 = 3 ∧ t.pwr.excess = false ∧ ∀ off, off ≠ rDomeBus → off ≠ rDomePcap → t.rd off = s.rd off) ∧
        (440 ≤ smp.va → 440 ≤ smp.vb → capActs s * 10 < smp.pwr → s.pwr.excess = false → capP s < 4 → t.pwr.excess = true ∧ ∀ f < 84, t.fld (rFldPwr f) 14 12 = capP s + 1) ∧
        (decide (440 ≤ smp.va) ≠ decide (440 ≤ smp.vb) → t.flag rDomeBus 2 = true ∧ t.fld rDomeBus 11 4 = min (s.fld rDomeBus 11 4 + 1) 255 ∧ (∀ f < 84, t.fld (rFldPwr f) 14 12 = 4) ∧
          Logged (if capP s = 1 then 2 else 1) s t)) ∧
    (overCap s = true → capP s < 4 → ∃ t, exec .capPRise s = .next t ∧ (∀ f < 84, t.fld (rFldPwr f) 14 12 = capP s + 1) ∧ t.cores = s.cores) ∧
    (s.fld rDomePcap 47 32 * 100 < capLimit s * 10 * 95 → 2 ≤ capP s → ∃ t, exec .capPFall s = .next t ∧ (∀ f < 84, t.fld (rFldPwr f) 14 12 = capP s - 1) ∧ t.cores = s.cores) ∧
    (s.fld rDomeBus 2 0 = 7 → ∃ t, exec .clipRestored s = .next t ∧ t.fld rDomeBus 2 0 = 3 ∧ t.rd ringNlog.head = s.rd ringNlog.head + 1 ∧ t.cores = s.cores) ∧
    (∀ (fs : List (FieldId × CurrentSample)) (ls : List (LimbId × CurrentSample)) (p : CurrentSample), (fs.map (·.1)).Nodup → (ls.map (·.1)).Nodup → ∀ on : Nat → Nat → Nat,
      (∀ d v, on d v = if domSt s d = 2 then v else 0) → ∃ t, exec (.sensorSample fs ls p) s = .next t ∧
      (∀ x ∈ fs, t.rd (fieldBase x.1.val + 0x610) = word4 (on (3 * x.1.val) x.2.i0) (on (3 * x.1.val + 1) x.2.i1) (on (3 * x.1.val + 2) x.2.i2) x.2.i3) ∧
      (∀ x ∈ ls, t.rd (limbBase x.1.val + 0x6010) = word4 (on (252 + 4 * x.1.val) x.2.i0) (on (253 + 4 * x.1.val) x.2.i1) (on (254 + 4 * x.1.val) x.2.i2) (on (255 + 4 * x.1.val) x.2.i3) ∧
        t.rd (limbBase x.1.val + 0x6018) = word4 (on (284 + x.1.val) x.2.i4) 0 0 0) ∧
      t.rd 0xC048 = word4 (on 292 p.i0) (on 293 p.i1) (on 294 p.i2) (on 295 p.i3) ∧ t.cores = s.cores ∧
      ∀ off, off ≠ 0xC048 → (∀ x ∈ fs, off ≠ fieldBase x.1.val + 0x610) → (∀ x ∈ ls, off ≠ limbBase x.1.val + 0x6010 ∧ off ≠ limbBase x.1.val + 0x6018) → t.rd off = s.rd off)

/-- THERM_WARN_N and EPO_N once the Dome is out of RESET: an accepted change sets the level and CAP_W of every field, with one event, and the level as it was does nothing; runs of 1 to 7 samples are counted as glitches; more than 1,000 in a second are NOISY, which caps as an assertion does until the input is quiet; an assertion is reported again every 60 s (R683, R684, R685). -/
def Sys2Proof.Claims.WarningInput : Prop :=
  ∀ (s : State), domeState s ≠ 0 →
    (∀ v, s.flag rDomeIn 1 = v → exec (.thermWarnNChange v) s = .next s) ∧
    (∀ v, s.flag rDomeIn 1 = !v → ∃ t, exec (.thermWarnNChange v) s = .next t ∧ t.flag rDomeIn 1 = v ∧ t.flag rDomeIn 0 = v ∧
      (∀ f < 84, t.fld (rFldPwr f) 10 8 = if v || s.flag rDomeIn 2 then s.fld 0x9028 2 0 else 1) ∧ t.rd ringNlog.head = s.rd ringNlog.head + 1 ∧ t.cores = s.cores) ∧
    (∀ n, 0 < n → n < 8 → (∃ t, exec (.thermWarnNGlitch n) s = .next t ∧ t.fld rDomeIn 63 48 = min (s.fld rDomeIn 63 48 + 1) 65535 ∧ t.flag rDomeIn 1 = s.flag rDomeIn 1 ∧
        t = { s with regs := t.regs, pwr := { s.pwr with glSec := t.pwr.glSec, glCnt := t.pwr.glCnt } }) ∧
      exec (.epoNGlitch n) s = .next (s.satFld rDomeIn 47 40 1)) ∧
    (s.flag rDomeIn 2 = false → 1000 < s.pwr.glCnt → ∃ t, exec .thermWarnNNoisy s = .next t ∧ t.flag rDomeIn 2 = true ∧ (∀ f < 84, t.fld (rFldPwr f) 10 8 = s.fld 0x9028 2 0) ∧
      t.rd ringNlog.head = s.rd ringNlog.head + 1 ∧ t.cores = s.cores) ∧
    (∀ low, s.flag rDomeIn 2 = true → ∃ t, exec (.thermWarnNQuiet low) s = .next t ∧ t.flag rDomeIn 2 = false ∧ t.flag rDomeIn 1 = low ∧
      (∀ f < 84, t.fld (rFldPwr f) 10 8 = if low then s.fld 0x9028 2 0 else 1) ∧ t.pwr.glCnt = 0 ∧ t.rd ringNlog.head = s.rd ringNlog.head + 1 ∧ t.cores = s.cores) ∧
    (s.flag rDomeIn 1 = true → ∃ t, exec .thermWarnNReminder s = .next t ∧ t.rd ringNlog.head = s.rd ringNlog.head + 1 ∧ t.flag rDomeIn 1 = true ∧ t.cores = s.cores ∧ t.pwr = s.pwr)

namespace Sys2Proof.Claims

/-- A packet is taken from the mesh: its path is free, nothing of its transfer is before it, and its flits cross the path's links (R320, R324, R346). -/
structure Passes (p : Packet) (s : State) : Prop where
  route : routeOf s p = .ok
  turn : waits s p = false

/-- The state in which packet p has crossed its path and left the mesh. -/
def crossed (p : Packet) (s : State) : State := passLinks (flitsOf p) (pathOf s p).links (s.taken p)

/-- A packet for a core goes all the way, and the core's powered port admits it at once (R84, R107, R324). -/
structure Reaches (p : Packet) (s : State) : Prop extends Passes p s where
  dest : coreDest p = true
  power : computeOn s (dstField p) = true
  port : admits s (coreAt p.dx p.dy) = true
  empty : (s.core (coreAt p.dx p.dy)).held = []

/-- Body word i of a packet as a write lays it over the words m: the bytes that the packet does not carry stay as they are (R68, R865). -/
def laid (p : Packet) (m : Nat → Word) (i : Nat) (w : PWord) : Word :=
  wd (leNat ((List.range 8).map (fun b => (leBytes 8 (if (i = 0 ∧ b < p.keepLo) ∨ (i + 1 = p.body.length ∧ 8 ≤ b + p.keepHi) then m i else w.d).toNat).getD b 0)))

/-- A word of the body that a write merges with what is stored. -/
def merges (p : Packet) (i : Nat) : Prop := i < p.body.length ∧ ((i = 0 ∧ 0 < p.keepLo) ∨ (i + 1 = p.body.length ∧ 0 < p.keepHi))

/-- A packet that writes: whole words at a word's address, but for the bytes at its ends that it keeps. -/
def Writes (p : Packet) (limit : Nat) : Prop :=
  p.daddr % 8 = 0 ∧ p.body ≠ [] ∧ pktWord p + p.body.length ≤ limit ∧ p.keepLo < 8 ∧ p.keepHi < 8 ∧ (p.body.length = 1 → p.keepLo + p.keepHi < 8)

/-- The words of a packet, laid over m, stand in core c's store from its address on, and nothing else of that core or of another changed (R78, R79). -/
def BodyStored (c : Nat) (p : Packet) (m : Nat → Word) (s t : State) : Prop :=
  (∀ i w, p.body[i]? = some w → tfind (t.core c).store (pktWord p + i) = some (eccEncode (laid p m i w) w.x (pktWord p + i))) ∧
  (∀ j, (j < pktWord p ∨ pktWord p + p.body.length ≤ j) → tfind (t.core c).store j = tfind (s.core c).store j) ∧
  t.core c = { s.core c with store := (t.core c).store } ∧ ∀ d, d ≠ c → t.core d = s.core d

/-- The token arrival of a transfer's last packet (R97, R320). -/
def arrival (c : Nat) (p : Packet) (s : State) : State := if p.te && p.lastp then tokArrive c p.tok p.gen s else s

/-- A response of the destination of p: TYPE, STATUS 0, back to p's source with its TAG (R317, R328). -/
def Response (p q : Packet) (typ : Nat) : Prop :=
  q.typ = typ ∧ q.status = 0 ∧ q.dx = p.sx ∧ q.dy = p.sy ∧ q.sx = p.dx ∧ q.sy = p.dy ∧ q.tag = p.tag

/-- The answer of a read of n words m from word a on: RDATA, a second one from line 32 on (R315, R317). -/
def ReadAnswer (p : Packet) (m : Nat → Word) (net net' : List Packet) : Prop :=
  let ws := (List.range (8 * (p.rlines + 1))).map (fun i => (⟨m i, false⟩ : PWord))
  (p.rlines < 32 → ∃ q, net' = net ++ [q] ∧ Response p q 4 ∧ q.lastp = true ∧ q.daddr = p.daddr ∧ q.body = ws) ∧
  (32 ≤ p.rlines → ∃ q r, net' = net ++ [q, r] ∧ Response p q 4 ∧ q.lastp = false ∧ q.daddr = p.daddr ∧ q.body = ws.take 256 ∧
    Response p r 4 ∧ r.lastp = true ∧ r.daddr = p.daddr + 2048 ∧ r.body = ws.drop 256)

/-- An answer to p finds its way: p came from a field of the wafer, and both gateways of every field are in service (R326). -/
def Answers (p : Packet) (s : State) : Prop := srcField p < 84 ∧ ∀ f < 84, ∀ g < 2, gwUp s f g = true

/-- Word w of field f's store reads clean as d; one never written reads 0 (R415). -/
def FieldHolds (f w : Nat) (d : Word) (s : State) : Prop :=
  (tfind s.fst (fsWords * f + w) = none ∧ d = 0) ∨ ∃ cw, tfind s.fst (fsWords * f + w) = some cw ∧ eccDecode cw (fsFold w) = .clean ⟨d, false⟩

end Sys2Proof.Claims

/-- Write and read packets at a core: WR stores its words, merged with the stored ones at the bytes it keeps, and asks for no answer; with TE on its last packet the token takes an arrival after them; WRA is answered by WACK; RD of lines that read clean is answered by RDATA with the lines, at most 32 in each packet (R68, R78, R79, R97, R315 to R318, R320). -/
def Sys2Proof.Claims.CorePackets : Prop :=
  ∀ (p : Packet) (s : State) (m : Nat → Word) (c : Nat), c = coreAt p.dx p.dy →
    (Writes p 0x10000 → (∀ i, merges p i → Holds c (pktWord p + i) (m i) s) →
      (∀ q, q = { p with typ := 1 } → Reaches q s → ∃ u, exec (.wr p) s = .next (arrival c p u) ∧ BodyStored c p m s u ∧ u = { crossed q s with cores := u.cores }) ∧
      (∀ q, q = { p with typ := 2 } → Reaches q s → p.te = false → Answers p s → ∃ t r, exec (.wra p) s = .next t ∧ BodyStored c p m s t ∧ t.net = (s.net.erase q) ++ [r] ∧
        Response q r 5 ∧ r.lastp = true ∧ r.body = [] ∧ t = { crossed q s with cores := t.cores, net := t.net })) ∧
    (∀ q, q = { p with typ := 3 } → Reaches q s → p.rlines < 64 → p.daddr % 8 = 0 → pktWord p + 8 * (p.rlines + 1) ≤ 0x10000 → Answers p s →
      (∀ i < 8 * (p.rlines + 1), Holds c (pktWord p + i) (m i) s) →
      ∃ t, exec (.rd p) s = .next t ∧ ReadAnswer q m (s.net.erase q) t.net ∧ (∀ d, t.core d = s.core d) ∧ t.regs = s.regs)

/-- Packets at a field store with power: FSW and WRA store their words under the code of the folded address, merged with the stored ones at the bytes they keep, and other words stay; WRA is answered by WACK; RD of lines that read clean is answered by RDATA with the lines; the Occulter follows a write (R317, R415, R458, R865). -/
def Sys2Proof.Claims.FieldStoreWrite : Prop :=
  ∀ (p : Packet) (s : State) (m : Nat → Word), storeDest p = true → storeOn s p.dy = true →
    (∀ q, Writes p fsWords → (∀ i, merges p i → FieldHolds p.dy (pktWord p + i) (m i) s) → Passes q s →
      (q = { p with typ := 8 } → ∃ t, exec (.fsw p) s = .next t ∧ t = { crossed q s with fst := t.fst, occ := (occTrack p.dy q s).occ } ∧
        (∀ i w, p.body[i]? = some w → tfind t.fst (fsWords * p.dy + (pktWord p + i)) = some (eccEncode (laid p m i w) w.x (fsFold (pktWord p + i)))) ∧
        (∀ k, (k < fsWords * p.dy + pktWord p ∨ fsWords * p.dy + pktWord p + p.body.length ≤ k) → tfind t.fst k = tfind s.fst k)) ∧
      (q = { p with typ := 2 } → Answers p s → ∃ t r, exec (.wra p) s = .next t ∧ t = { crossed q s with fst := t.fst, occ := (occTrack p.dy q s).occ, net := t.net } ∧
        t.net = s.net.erase q ++ [r] ∧ Response q r 5 ∧ r.lastp = true ∧
        (∀ i w, p.body[i]? = some w → tfind t.fst (fsWords * p.dy + (pktWord p + i)) = some (eccEncode (laid p m i w) w.x (fsFold (pktWord p + i)))) ∧
        (∀ k, (k < fsWords * p.dy + pktWord p ∨ fsWords * p.dy + pktWord p + p.body.length ≤ k) → tfind t.fst k = tfind s.fst k))) ∧
    (∀ q, q = { p with typ := 3 } → Passes q s → p.rlines < 64 → p.daddr % 8 = 0 → pktWord p + 8 * (p.rlines + 1) ≤ fsWords → Answers p s →
      (∀ i < 8 * (p.rlines + 1), FieldHolds p.dy (pktWord p + i) (m i) s) →
      ∃ t, exec (.rd p) s = .next t ∧ ReadAnswer q m (s.net.erase q) t.net ∧ t.fst = s.fst ∧ t.cores = s.cores ∧ t.regs = s.regs)

namespace Sys2Proof.Claims

/-- A core takes its copy of a multicast: its router lives, its field computes, and it is one of those that accept it (R338, R675). -/
def takesCopy (p : Packet) (c : Nat) (s : State) : Bool := !rtDead s (coreX c) (coreY c) && computeOn s (fieldOf c) && mcAccept s p c

end Sys2Proof.Claims

/-- A multicast of whole words without a token, whose copies still owed have free branches and open ports: each core of its rectangle that accepts it stores its words, and no other core changes; in particular the one core east of its sender, in the sender's field with live routers and a free link, does (R336 to R342, R344). -/
def Sys2Proof.Claims.Multicasts : Prop :=
  ∀ (p : Packet) (s : State) (q : Packet), q = { p with typ := 0x10 } → follows s q = false → p.te = false → p.daddr % 8 = 0 → pktWord p + p.body.length ≤ 0x10000 → p.keepLo = 0 → p.keepHi = 0 →
    (p.rest.Nodup → (∀ w ∈ mcBranches s q, p.rest = [] ∨ coreAt w.1.1 w.1.2 ∈ p.rest → w.2.route = .ok ∧ mcHeld s q w.1 w.2 = false ∧
        admits s (coreAt w.1.1 w.1.2) = true ∧ (s.core (coreAt w.1.1 w.1.2)).held = []) →
      ∃ t, exec (.mcw p) s = .next t ∧
        (∀ w ∈ mcBranches s q, p.rest = [] ∨ coreAt w.1.1 w.1.2 ∈ p.rest → takesCopy q (coreAt w.1.1 w.1.2) s = true →
          (∀ i x, p.body[i]? = some x → tfind (t.core (coreAt w.1.1 w.1.2)).store (pktWord p + i) = some (eccEncode x.d x.x (pktWord p + i))) ∧
          (∀ j, (j < pktWord p ∨ pktWord p + p.body.length ≤ j) → tfind (t.core (coreAt w.1.1 w.1.2)).store j = tfind (s.core (coreAt w.1.1 w.1.2)).store j) ∧
          t.core (coreAt w.1.1 w.1.2) = { s.core (coreAt w.1.1 w.1.2) with store := (t.core (coreAt w.1.1 w.1.2)).store }) ∧
        (∀ c, (∀ w ∈ mcBranches s q, p.rest = [] ∨ coreAt w.1.1 w.1.2 ∈ p.rest → coreAt w.1.1 w.1.2 = c → takesCopy q c s = false) → t.core c = s.core c)) ∧
    (∀ x y : Nat, p.exp = false → p.here = false → p.rest = [] → p.sx + 1 = x → p.sy = y → x < 448 → y < 180 → fieldXY p.sx y = fieldXY x y → mcRect p.mcimg = (x, x, y, y) →
      transitOn s (fieldXY x y) = true → rtDead s x y = false → takesCopy q (coreAt x y) s = true → admits s (coreAt x y) = true → (s.core (coreAt x y)).held = [] →
      linkFree s (meshLink false p.sx p.sy 1) 2 0 = true → settled s (meshLink false p.sx p.sy 1) = true → ∃ t, exec (.mcw p) s = .next t ∧ BodyStored (coreAt x y) p (fun _ => 0) s t ∧ t.regs = s.regs)

/-- Answers at the limb that asked: RDATA of the last packet completes a BAR2 read with the bytes asked for, poisoned ones as such, and an earlier one is kept; ERR completes it with CA and counts BAR2_ERR; WACK ends a write, and one of a Slew transfer counts its lines; the debug transport and an engine take their answers; a line of an LSEND to a queue waits for its last packet; one to a channel that runs no input is dropped with error 0x0220; a packet of a reserved TYPE is discarded with the contained error 0x0101 (R190, R317, R319, R328, R443, R451, R453, R496, R760, R857). -/
def Obligations.LimbPackets : Prop :=
  ∀ (p : Packet) (s : State),
    (∀ q k, k = 4096 * p.dy + p.tag → p.dx = 0x1FE → tfind s.reqs k = some q → 128 ≤ p.tag → p.tag < 4096 →
      (∀ r u, r = { p with typ := 4 } → Passes r s → u = { crossed r s with reqs := terase s.reqs k } →
        (p.lastp = false → exec (.rdata p) s = .next { crossed r s with reqs := tset s.reqs k { q with got := q.got ++ p.body } }) ∧
        (q.who = 0 → p.lastp = true → q.write = false →
          exec (.rdata p) s = .next { u with out := .readDone (if (q.got ++ p.body).any (fun w => w.x) then 3 else 0) ((((q.got ++ p.body).flatMap (fun w => leBytes 8 w.d.toNat)).drop q.skip).take q.len) :: s.out }) ∧
        (q.who = 1 → p.lastp = true → q.write = false → (q.got ++ p.body).any (fun w => w.x) = false →
          exec (.rdata p) s = .next { u with xp := { s.xp with busy := false, rstat := 0, data := (((q.got ++ p.body).flatMap (fun w => leBytes 8 w.d.toNat)).drop q.skip).take q.len } }) ∧
        (q.who = 3 → p.lastp = true → exec (.rdata p) s = .next (engAnswer (k / 4096) q.off q.total q.part 0 (((xBytes (q.got ++ p.body)).drop q.skip).take q.len) u))) ∧
      (∀ r, r = { p with typ := 6 } → Passes r s → q.who = 0 → q.write = false → ∃ t, exec (.err p) s = .next t ∧ t.out = .readDone 2 [] :: s.out ∧
        t.fld rHostStat 63 48 = min (s.fld rHostStat 63 48 + 1) 65535 ∧ tfind t.reqs k = none ∧ t.cores = s.cores) ∧
      (∀ r, r = { p with typ := 5, lastp := true } → Passes r s → q.who = 0 → q.write = true → exec (.wack p) s = .next { crossed r s with reqs := terase s.reqs k })) ∧
    (∀ r run, r = { p with typ := 5, lastp := true } → Passes r s → p.dx = 0x1FE → p.tag < 128 → (s.limb p.dy).runs.find? (fun x => x.tag == p.tag) = some run →
      exec (.wack p) s = .next (putRun p.dy { run with acks := run.acks.tail, lines := run.lines + run.acks.headD 0 } (crossed r s))) ∧
    (∀ r, r = { p with typ := 9 } → Passes r s → p.dx = 0x1FE → p.dy < 8 →
      (p.q = true → p.lastp = false → p.daddr = 0 → ∃ t, exec (.lsend p) s = .next t ∧
        tfind (t.limb p.dy).rxc (4096 * (512 * p.sy + p.sx) + p.chq) = some ((tfind (s.limb p.dy).rxc (4096 * (512 * p.sy + p.sx) + p.chq)).getD [] ++ p.body) ∧
        t = { crossed r s with limbs := t.limbs }) ∧
      (p.q = false → p.body.length = 8 → findRun s p.dy (p.chq % 4096) = none → exec (.lsend p) s = .next (pushDrop p.dy (p.chq % 4096) (crossed r s)))) ∧
    (∀ (c : CoreId) (h : Word), bits h 63 56 ∉ [0x01, 0x02, 0x03, 0x04, 0x05, 0x06, 0x08, 0x09, 0x10, 0x20] →
      exec (.reservedTypeDiscard c h) s = .next (raise (domField (fieldOf c.val)) 2 0 0x0101 h (s.satFld (rFldLink (fieldOf c.val)) 15 0 1)))

namespace Sys2Proof.Claims

/-- Link k stands as l in t, all else as in s but the registers and what leaves. -/
def OnlyLink (k : LinkRef) (l : LinkSt) (s t : State) : Prop :=
  t.link k = l ∧ (∀ j, linkKey j ≠ linkKey k → t.link j = s.link j) ∧ t = { s with links := t.links, regs := t.regs, out := t.out }

/-- The flits of a replay buffer leave again, oldest first. -/
def resent (k : LinkRef) (fls : List Flit) : List Out := fls.reverse.map (fun fl => Out.flit k fl true)

/-- A flit carries neither an acknowledgment nor a credit (R312). -/
def Bare (fl : Flit) : Prop := fl.ackv = false ∧ fl.crv = false

end Sys2Proof.Claims

/-- A link's life: training brings it live with the lanes it spares, those of the catalogue among them, or leaves it dead with its error; a sequenced flit with a good CRC, the expected number and room is accepted, advances the number and is acknowledged; one with a bad CRC is counted too, and it or one out of order is discarded and answered once with a NAK; an ack-only flit frees the replay buffer up to its number; a NAK resends what it does not acknowledge, as does the replay timeout; 16 resends without progress retrain it; the end of retraining resends all, or leaves it dead (R311 to R314, R345 to R350). -/
def Sys2Proof.Claims.LinkLife : Prop :=
  ∀ (k : LinkRef) (s : State),
    (∀ fl all, all = fl ++ catalogueLanes k s → (s.link k).status ≠ 3 → sparable all = true →
      ∃ t, exec (.linkTraining k fl) s = .next t ∧ OnlyLink k { LinkSt.reset with status := 1, spared := all.eraseDups } s t ∧ t.regs = s.regs ∧ t.out = s.out) ∧
    (∀ fl, (s.link k).status ≠ 3 → sparable (fl ++ catalogueLanes k s) = false → ∃ u, exec (.linkTraining k fl) s = .next (linkDead k u) ∧ OnlyLink k { s.link k with status := 3 } s u ∧ u.regs = s.regs) ∧
    ((s.link k).status = 1 →
      (∀ fl : Flit, fl.crcOk = true → fl.kind ≠ 3 → fl.seq = (s.link k).expSeq → bufferRoom (flitReturns k fl s) k fl = true → ∃ t, exec (.flitReceive k fl) s = .next t ∧
        (t.link k).expSeq = ((s.link k).expSeq + 1) % 256 ∧ (t.link k).discarding = false) ∧
      (∀ fl : Flit, fl.crcOk = true → fl.kind = 0 → fl.seq = (s.link k).expSeq → Bare fl → s.ports = [] → ∃ t, exec (.flitReceive k fl) s = .next t ∧
        OnlyLink k { s.link k with expSeq := ((s.link k).expSeq + 1) % 256, discarding := false } s t ∧ t.regs = s.regs ∧ t.out = .flit (reverse k) (ackOnly false (s.link k).expSeq) false :: s.out) ∧
      (∀ fl : Flit, (fl.crcOk = false ∨ (Bare fl ∧ fl.kind ≠ 3 ∧ fl.seq ≠ (s.link k).expSeq ∧ s.ports = [])) → (s.link k).discarding = false → ∃ t, exec (.flitReceive k fl) s = .next t ∧
        OnlyLink k { s.link k with discarding := true } s t ∧ t.out = .nak (reverse k) (((s.link k).expSeq + 255) % 256) :: .flit (reverse k) (ackOnly true (((s.link k).expSeq + 255) % 256)) false :: s.out ∧
        t.fld (rFldLink (linkRecvField k)) 63 48 = min (s.fld (rFldLink (linkRecvField k)) 63 48 + if fl.crcOk then 0 else 1) 65535) ∧
      (∀ fl : Flit, fl.crcOk = true → fl.kind = 3 → Bare fl → (s.link (reverse k)).wait = [] → (s.link (reverse k)).crq = [] → s.ports = [] →
        ∃ t, exec (.flitReceive k fl) s = .next t ∧ OnlyLink (reverse k) (ackDrop (s.link (reverse k)) fl.ackseq) s t ∧ t.regs = s.regs ∧ t.out = s.out) ∧
      ((s.link k).unacked ≠ [] → (∀ a, ∃ t, exec (.nak k a) s = .next t ∧ OnlyLink k { ackDrop (s.link k) (a % 256) with resends := (ackDrop (s.link k) (a % 256)).resends + 1 } s t ∧
          t.fld (rFldLink (linkField k)) 47 32 = min (s.fld (rFldLink (linkField k)) 47 32 + 1) 65535 ∧ t.out = resent k (ackDrop (s.link k) (a % 256)).unacked ++ s.out) ∧
        (∃ t, exec (.linkReplayTimeout k) s = .next t ∧ OnlyLink k { s.link k with resends := (s.link k).resends + 1 } s t ∧ t.out = resent k (s.link k).unacked ++ s.out)) ∧
      (16 ≤ (s.link k).resends → ∃ t, exec (.linkRetrain k) s = .next t ∧ OnlyLink k { s.link k with status := 2 } s t ∧
        t.fld (rFldLink (linkField k)) 31 24 = min (s.fld (rFldLink (linkField k)) 31 24 + 1) 255 ∧ t.out = s.out)) ∧
    ((s.link k).status = 2 → ∀ fl all, all = fl ++ catalogueLanes k s →
      (sparable all = true → ∃ t, exec (.linkRetrainDone k fl) s = .next t ∧ (t.link k).status = 1 ∧ (t.link k).resends = 0 ∧ (t.link k).spared = all.eraseDups ∧
        ((s.link k).wait = [] → (s.link k).crq = [] → s.ports = [] → OnlyLink k { s.link k with status := 1, resends := 0, spared := all.eraseDups } s t ∧ t.out = resent k (s.link k).unacked ++ s.out)) ∧
      (sparable all = false → ∃ u, exec (.linkRetrainDone k fl) s = .next (linkDead k u) ∧ OnlyLink k { s.link k with status := 3 } s u ∧ u.regs = s.regs))

/-- The link of a core's router toward direction d. -/
def Sys2Proof.Claims.neighborLink (c : CoreId) (d : Nat) : LinkRef := meshLink false (coreX c.val) (coreY c.val) d

/-- Heartbeats: a powered router sends each live neighbor, over a link that may send and for which nothing waits, one sequenced flit of the control channel with an HB head and a good CRC, and no other link changes; receiving one changes nothing; missing one from a live neighbor is the contained error 0x0104 that names it (R312 to R314, R317, R346, R351). -/
def Sys2Proof.Claims.Heartbeats : Prop :=
  ∀ (c : CoreId) (s : State),
    (∀ dir, exec (.hb c dir) s = .next s) ∧
    (∀ dir, transitOn s (fieldOf c.val) = true → liveNeighbor s c.val dir = true → exec (.heartbeatLoss c dir) s =
      .next (raise (domField (fieldOf c.val)) 2 0 0x0104 (wd (coreY (routerStep c.val dir 1) * 512 + coreX (routerStep c.val dir 1))) s)) ∧
    (∀ dir, transitOn s (fieldOf c.val) = false ∨ liveNeighbor s c.val dir = false → exec (.heartbeatLoss c dir) s = .next s) ∧
    (transitOn s (fieldOf c.val) = false → exec (.hbSend c) s = .next s) ∧
    (transitOn s (fieldOf c.val) = true → (∀ d < 4, liveNeighbor s c.val d = true → maySend s (Claims.neighborLink c d) = true ∧ (s.link (Claims.neighborLink c d)).wait = [] ∧ (s.link (Claims.neighborLink c d)).crq = []) →
      ∃ t, exec (.hbSend c) s = .next t ∧ t = { s with links := t.links, out := t.out } ∧
        (∀ d < 4, liveNeighbor s c.val d = true → ∃ f : Flit, f.seq = (s.link (Claims.neighborLink c d)).nextSeq % 256 ∧ f.kind = 1 ∧ f.vc = 3 ∧ f.crcOk = true ∧ f.words = headWords (hbPacket c.val d) ∧
          t.link (Claims.neighborLink c d) = { s.link (Claims.neighborLink c d) with unacked := (s.link (Claims.neighborLink c d)).unacked ++ [f], nextSeq := ((s.link (Claims.neighborLink c d)).nextSeq + 1) % 256 } ∧
          Out.hb c.val d ∈ t.out ∧ Out.flit (Claims.neighborLink c d) f false ∈ t.out) ∧
        (∀ j, (∀ d < 4, liveNeighbor s c.val d = true → linkKey j ≠ linkKey (Claims.neighborLink c d)) → t.link j = s.link j))

namespace Sys2Proof.Claims

/-- The links across the seam for which nothing waits have their numbers 0 and every credit in both directions (R357). -/
def CrossingsFresh (s t : State) : Prop :=
  ∀ k : LinkRef, k.wf = true → crossesSeam k = true → (s.link k).wait = [] → (t.link k).nextSeq = 0 ∧ (t.link k).expSeq = 0 ∧ (t.link k).unacked = [] ∧ (t.link k).owed = []

end Sys2Proof.Claims

/-- The seam: the partner's reset leaves its epoch odd and sets HOLD on both halves and FLUSHING here; the flush's end clears FLUSHING and echoes the epoch; the partner's release, its odd epoch echoed, leaves its epoch even, which is echoed, and clears HOLD with the crossing links fresh; a release of the half itself clears HOLD once its even epoch is echoed; a partner without power closes the clamps with HOLD; opening the clamps leaves both epochs even and the partner's echoed, and clears HOLD where the partner has echoed this half's (R355 to R361). -/
def Sys2Proof.Claims.SeamHalves : Prop :=
  ∀ (e : Bool) (s : State),
    (¬ (epochOf s (!e) % 2 = 1 ∧ s.fld (rSeam e) 31 16 = s.fld (rSeam (!e)) 15 0) → s.flag (rSeam e) 34 = false → ∀ cut inc, ∃ t, exec (.seamPartnerReset e cut inc) s = .next t ∧ t.flag (rSeam e) 32 = true ∧
      t.flag (rSeam e) 33 = true ∧ t.flag (rSeam (!e)) 32 = true ∧ epochOf t (!e) = (if epochOf s (!e) % 2 = 0 then (epochOf s (!e) + 1) % 65536 else epochOf s (!e)) ∧
      t.fld (rSeam e) 63 48 = min (s.fld (rSeam e) 63 48 + (cut + inc)) 65535 ∧ (cut = 0 → inc = 0 → t = { s with regs := t.regs, ports := t.ports, grants := t.grants })) ∧
    ((epochOf s (!e) % 2 = 1 ∧ s.fld (rSeam e) 31 16 = s.fld (rSeam (!e)) 15 0) ∨ s.flag (rSeam e) 34 = true → ∀ cut inc, exec (.seamPartnerReset e cut inc) s = .next s) ∧
    (s.flag (rSeam e) 33 = true → ∃ t, exec (.seamFlushDone e) s = .next t ∧ t.flag (rSeam e) 33 = false ∧ t.fld (rSeam e) 31 16 = s.fld (rSeam (!e)) 15 0 ∧ t = { s with regs := t.regs }) ∧
    (epochOf s (!e) % 2 = 1 → s.fld (rSeam e) 31 16 = s.fld (rSeam (!e)) 15 0 → s.flag (rSeam e) 33 = false → s.flag (rSeam e) 34 = false → s.ports = [] → ∃ t, exec (.seamPartnerRelease e) s = .next t ∧
      epochOf t (!e) = (epochOf s (!e) + 1) % 65536 ∧ t.fld (rSeam e) 31 16 = t.fld (rSeam (!e)) 15 0 ∧ t.flag (rSeam e) 32 = false ∧ CrossingsFresh s t ∧ t = { s with regs := t.regs, links := t.links, out := t.out }) ∧
    (epochOf s e % 2 = 0 → s.fld (rSeam (!e)) 31 16 = s.fld (rSeam e) 15 0 → s.flag (rSeam e) 34 = false → s.ports = [] → ∃ t, exec (.seamResetRelease e) s = .next t ∧
      t = { s.setFld (rSeam e) 32 32 0 with links := t.links, out := t.out } ∧ CrossingsFresh s t) ∧
    (epochOf s e % 2 = 1 ∨ s.fld (rSeam (!e)) 31 16 ≠ s.fld (rSeam e) 15 0 ∨ s.flag (rSeam e) 34 = true → exec (.seamResetRelease e) s = .next s) ∧
    (∀ cut inc, ∃ t, exec (.seamPartnerOff e cut inc) s = .next t ∧ t.flag (rSeam e) 34 = true ∧ t.flag (rSeam e) 32 = true ∧ t.flag (rSeam e) 33 = true ∧
      t.fld (rSeam e) 63 48 = min (s.fld (rSeam e) 63 48 + (cut + inc)) 65535 ∧ (cut = 0 → inc = 0 → t = { s with regs := t.regs, ports := t.ports, grants := t.grants })) ∧
    (s.flag (rSeam e) 34 = true → s.ports = [] → ∃ t, exec (.seamClampOpen e) s = .next t ∧ t.flag (rSeam e) 34 = false ∧ epochOf t e % 2 = 0 ∧ epochOf t (!e) % 2 = 0 ∧
      t.fld (rSeam e) 31 16 = t.fld (rSeam (!e)) 15 0 ∧ (t.fld (rSeam (!e)) 31 16 = t.fld (rSeam e) 15 0 → t.flag (rSeam e) 32 = false ∧ CrossingsFresh s t) ∧
      (t.fld (rSeam (!e)) 31 16 ≠ t.fld (rSeam e) 15 0 → t.flag (rSeam e) 32 = s.flag (rSeam e) 32 ∧ t.links = s.links) ∧ t = { s with regs := t.regs, links := t.links, out := t.out }) ∧
    (s.flag (rSeam e) 34 = false → exec (.seamClampOpen e) s = .next s)

namespace Sys2Proof.Claims

/-- A part of one granule, whole words, at a granule that is not migrating and is homed at limb l, whose slots have room or hold it (R378, R380). -/
structure PartWrite (addr l : Nat) (data : List PWord) (s : State) : Prop where
  aligned : addr % 8 = 0
  inside : addr % granule + 8 * data.length ≤ granule
  part : 0 < data.length ∧ data.length < 8192
  home : homeLimb s (addr / granule) = some l
  idle : eBusy (s.entry (addr / granule)) = false
  room : (s.limb l).slots.length < 32 ∨ slotOpen s l (addr / granule) = true

/-- What a migration command does to a granule (R388, R392). -/
def commandEffect (op arg l : Nat) : Nat → State → State :=
  if op = 1 then applyHint arg else if op = 2 then fun g t => t.setEntry g (setBits (t.entry g) 57 56 arg) else if op = 3 then zeroGranule else fun g t => closeSlot l g t

/-- A migration command with its OP (R392). -/
def MigCommand (i : Instr) (l : LimbId) (op arg first count : Nat) : Prop :=
  (i = .hint l arg first count ∧ op = 1) ∨ (i = .setelem l arg first count ∧ op = 2) ∨ (i = .discard l first count ∧ op = 3 ∧ arg = 0) ∨ (i = .flush l first count ∧ op = 4 ∧ arg = 0)

end Sys2Proof.Claims

/-- A write of part of a granule: each word reads back with its poison bit, every byte outside reads as before, the granule stands open in a slot of its home limb, and only the store range, the limb's slots and, for an engine's write, LAST change; a write of a whole granule of zero words leaves it FORM zero without a slot; a write past the store range does nothing (R363, R378, R380 to R383). -/
def Sys2Proof.Claims.StoreRangeWrite : Prop :=
  ∀ (addr : Nat) (engine : Bool) (s : State),
    (∀ data l, PartWrite addr l data s → addr + 8 * data.length ≤ 2 ^ 44 →
      ∃ t, exec (.granuleWrite addr data engine) s = .next t ∧ (∀ i w, data[i]? = some w → memWord t (addr / 8 + i) = w) ∧
        (∀ a, (a < addr ∨ addr + 8 * data.length ≤ a) → memByte t a = memByte s a) ∧
        (∀ j, (j < addr / 8 ∨ addr / 8 + data.length ≤ j) → tget false t.memX j = tget false s.memX j) ∧
        t = { s with mem := t.mem, memX := t.memX, limbs := t.limbs, res := if engine then (touch (addr / granule) s).res else s.res } ∧ slotOpen t l (addr / granule) = true) ∧
    (∀ data l, data = List.replicate 8192 (⟨0, false⟩ : PWord) → addr % granule = 0 → addr + granule ≤ 2 ^ 44 → homeLimb s (addr / granule) = some l → eBusy (s.entry (addr / granule)) = false →
      ∃ t, exec (.granuleWrite addr data engine) s = .next t ∧ eForm (t.entry (addr / granule)) = 0 ∧ slotOpen t l (addr / granule) = false ∧
        (∀ a, memByte t a = if addr ≤ a ∧ a < addr + granule then 0 else memByte s a) ∧ ∀ g, g ≠ addr / granule → t.entry g = s.entry g) ∧
    (∀ data, 2 ^ 44 < addr + 8 * data.length → exec (.granuleWrite addr data engine) s = .next s)

/-- A read of a granule that decodes changes nothing, but for an engine's read, which sets LAST to the step; of the words that it fetches from a stored image, corrected ones and ones that decode the second time are counted at the home limb, a bad word of a plain image is poisoned in place with its error, and a malformed chunk of a coded one with its own; a read of an open granule meets none of that, and one with no home limb does nothing (R379, R380, R383, R401, R416, R417, R419). -/
def Sys2Proof.Claims.StoreRangeRead : Prop :=
  ∀ (g first last : Nat) (s : State), g < granules →
    exec (.granuleRead g first last false [] [] []) s = .next s ∧
    (homeLimb s g ≠ none → exec (.granuleRead g first last true [] [] []) s = .next (touch g s)) ∧
    (homeLimb s g = none → ∀ e b c m, exec (.granuleRead g first last e b c m) s = .next s) ∧
    (∀ l, homeLimb s g = some l → slotOpen s l g = true → ∀ b c m, exec (.granuleRead g first last false b c m) s = .next s) ∧
    (∀ l vault, homeLimb s g = some l → l < 8 → slotOpen s l g = false → eForm (s.entry g) ≠ 0 → first ≤ last → vault = (eTier (s.entry g) == 1) →
      (∀ (e : List Nat) n, n = (e.filter (fetched (eForm (s.entry g)) (storedCodes s g) first last)).length →
        (∃ t, exec (.granuleRead g first last false [] (e.map (fun w => (w, false))) []) s = .next t ∧ t.fld (rMemErr l vault) 31 0 = min (s.fld (rMemErr l vault) 31 0 + n) (2 ^ 32 - 1) ∧
          tget 0 t.tally (domKey (domLimb l)) = tget 0 s.tally (domKey (domLimb l)) + n ∧ t.mem = s.mem ∧ t.memX = s.memX ∧ t.res = s.res) ∧
        (∃ t, exec (.granuleRead g first last false [] (e.map (fun w => (w, true))) []) s = .next t ∧ t.fld (rMemErr l vault) 47 32 = min (s.fld (rMemErr l vault) 47 32 + n) 65535 ∧ t = { s with regs := t.regs })) ∧
      (∀ w, eForm (s.entry g) = 1 → w < 8192 → first ≤ w / 128 → w / 128 ≤ last →
        exec (.granuleRead g first last false [w] [] []) s = .next (memPoisoned l vault (granule * g + 8 * w) (putX (8192 * g + w) true s))) ∧
      (∀ c, eForm (s.entry g) = 2 → c < 64 → first ≤ c → c ≤ last → exec (.granuleRead g first last false [] [] [c]) s = .next (chunkBad l g c s)))

/-- A staging slot closes: a granule that holds only zero bytes into FORM zero without sectors, any other for which its pools have a run into the image's form and size there; the slot is free and no byte changes; one that is not open stays as it is; a migration's end rewrites TIER and BASE, clears BUSY and ends the migration (R380, R382, R384, R385, R399). -/
def Sys2Proof.Claims.SlotsAndMigrations : Prop :=
  ∀ (l : LimbId) (g : Nat) (s : State),
    (slotOpen s l.val g = true → (∀ a, granule * g ≤ a → a < granule * (g + 1) → memByte s a = 0) →
      ∃ t, exec (.slotClose l g) s = .next t ∧ slotOpen t l.val g = false ∧ eForm (t.entry g) = 0 ∧ eSect (t.entry g) = 0 ∧ t.mem = s.mem ∧ t.memX = s.memX ∧
        (∀ h, h ≠ g → t.entry h = s.entry h ∧ slotOpen t l.val h = slotOpen s l.val h)) ∧
    (∀ form n tier base, slotOpen s l.val g = true → imageOf s g (eElem (s.entry g)) = (form, n) → form ≠ 0 → findRun0 l.val g n s = some (tier, base) →
      ∃ t, exec (.slotClose l g) s = .next t ∧ slotOpen t l.val g = false ∧ eForm (t.entry g) = form ∧ eSect (t.entry g) = n - 1 ∧ eTier (t.entry g) = tier ∧ eBase (t.entry g) = base % 2 ^ 30 ∧
        t.mem = s.mem ∧ t.memX = s.memX ∧ (∀ h, h ≠ g → t.entry h = s.entry h ∧ slotOpen t l.val h = slotOpen s l.val h)) ∧
    (slotOpen s l.val g = false → exec (.slotClose l g) s = .next s) ∧
    (homeLimb s g = none ∨ tfind s.migs g = none → exec (.migrationDone g) s = .next s) ∧
    (∀ tier base, homeLimb s g ≠ none → tfind s.migs g = some (tier, base) → tier < 2 → base < 2 ^ 30 → ∃ t, exec (.migrationDone g) s = .next t ∧ eTier (t.entry g) = tier ∧
      eBase (t.entry g) = base ∧ eBusy (t.entry g) = false ∧ eForm (t.entry g) = eForm (s.entry g) ∧ tfind t.migs g = none ∧ t.mem = s.mem ∧ (∀ h, h ≠ g → t.entry h = s.entry h))

/-- EVICTION at a limb in ACTIVE with eviction on: below NEAR_LOW the sweeps run and then the migrations of pinned granules are tried again; no byte changes, and of the residency entries only those of granules of PIN none that go from the near pool to the vault, and BUSY of pinned granules in the other pool; otherwise nothing (R387, R390). -/
def Sys2Proof.Claims.Eviction : Prop :=
  ∀ (l : LimbId) (s : State),
    (s.flag (rMigCtl l.val) 0 = false ∨ l.val ∉ activeLimbs s ∨ nearLow s l.val ≤ freeSectors s l.val 0 → exec (.eviction l) s = .next s) ∧
    (s.flag (rMigCtl l.val) 0 = true → l.val ∈ activeLimbs s → freeSectors s l.val 0 < nearLow s l.val →
      ∃ t u, exec (.eviction l) s = .next t ∧ t = retryPinned l.val u ∧ ((u = evictSweep l.val false (sweepOrder s l.val) s ∧ nearHigh u l.val ≤ nearComing u l.val) ∨
          ∃ v, v = evictSweep l.val false (sweepOrder s l.val) s ∧ nearComing v l.val < nearHigh v l.val ∧ u = evictSweep l.val true (sweepOrder v l.val) v) ∧
        t.mem = s.mem ∧ t.memX = s.memX ∧ ∀ g, t.entry g = s.entry g ∨
          (ePin (s.entry g) = 0 ∧ eTier (s.entry g) = 0 ∧ t.entry g = setBits (setBits (s.entry g) 61 61 1) 29 0 (eBase (t.entry g))) ∨
          (((ePin (s.entry g) = 1 ∧ eTier (s.entry g) = 1) ∨ (ePin (s.entry g) = 2 ∧ eTier (s.entry g) = 0)) ∧ t.entry g = setBit (s.entry g) 60 true))

/-- The migration commands: while one runs another is counted and discarded; otherwise BUSY and its operands stand in LMB_MIG_CMD and its effect is taken at each of its granules that this limb homes; DISCARD leaves zero bytes and no sectors; the end of the command clears BUSY (R382, R388, R392). -/
def Sys2Proof.Claims.MigrationCommands : Prop :=
  ∀ (i : Instr) (l : LimbId) (op arg g count : Nat) (s : State), g < granules →
    (MigCommand i l op arg g count → s.flag (rMigCmd l.val) 63 = true → exec i s = .next (s.satFld (rMigStat l.val) 31 16 1)) ∧
    (MigCommand i l op arg g count → arg < 8 → s.flag (rMigCmd l.val) 63 = false → ∃ u, exec i s = .next (forEach (cmdGranules u l.val g count) (commandEffect op arg l.val) u) ∧
      u.flag (rMigCmd l.val) 63 = true ∧ u.fld (rMigCmd l.val) 58 56 = op ∧ u.fld (rMigCmd l.val) 55 53 = arg ∧ u.fld (rMigCmd l.val) 52 28 = count % 2 ^ 25 ∧ u.fld (rMigCmd l.val) 27 0 = g ∧
      u = s.wr (rMigCmd l.val) (u.rd (rMigCmd l.val))) ∧
    (s.flag (rMigCmd l.val) 63 = false → homeLimb s g = some l.val → ∃ t, exec (.discard l g 0) s = .next t ∧ eForm (t.entry g) = 0 ∧ slotOpen t l.val g = false ∧
      (∀ a, granule * g ≤ a → a < granule * (g + 1) → memByte t a = 0) ∧ (∀ a, (a < granule * g ∨ granule * (g + 1) ≤ a) → memByte t a = memByte s a)) ∧
    (s.flag (rMigCmd l.val) 63 = false → homeLimb s g = some l.val → arg < 4 → ∃ t, exec (.setelem l arg g 0) s = .next t ∧ eElem (t.entry g) = arg ∧ eForm (t.entry g) = eForm (s.entry g) ∧
      t.mem = s.mem) ∧
    (∃ t, exec (.migCmdDone l) s = .next t ∧ t.flag (rMigCmd l.val) 63 = false ∧ (∀ off, off ≠ rMigCmd l.val → t.rd off = s.rd off) ∧ t = { s with regs := t.regs })

/-- The scrubber reads a word: a corrected one is counted, as is one that decodes the second time; a bad one of a plain image is poisoned in place, and one that no image holds recorded, an open value naming it; sectors of busy granules, of open slots and of migrations are skipped; the last word of a pass counts the pass; with the rate 0 nothing happens. HOME_APPLY takes MASK into ACTIVE with its count and empties the store range, or is refused with BAD where MASK is 0 or names a limb whose near memory has not trained (R366, R368, R416 to R419). -/
def Sys2Proof.Claims.ScrubAndHome : Prop :=
  ∀ (s : State),
    (∀ (l : LimbId) (vault : Bool) (addr : Nat), s.fld (limbBase l.val + 0x1040) 31 16 ≠ 0 →
      (∀ o, (sectorOwner s l.val vault.toNat (addr / 1024) = none ∧ sectorCopy s l.val vault.toNat (addr / 1024) = true) ∨
          (∃ g e, sectorOwner s l.val vault.toNat (addr / 1024) = some (g, e) ∧ (eBusy e = true ∨ slotOpen s l.val g = true)) → exec (.scrubRead l vault addr o false) s = .next s) ∧
      ((sectorOwner s l.val vault.toNat (addr / 1024) = none ∧ sectorCopy s l.val vault.toNat (addr / 1024) = false) ∨
          (∃ g e, sectorOwner s l.val vault.toNat (addr / 1024) = some (g, e) ∧ eBusy e = false ∧ slotOpen s l.val g = false) →
        exec (.scrubRead l vault addr .clean false) s = .next s ∧ exec (.scrubRead l vault addr .clean true) s = .next (s.satFld (limbBase l.val + 0x1040) 15 0 1) ∧
        (∃ t, exec (.scrubRead l vault addr .corrected false) s = .next t ∧ t.fld (rMemErr l.val vault) 31 0 = min (s.fld (rMemErr l.val vault) 31 0 + 1) (2 ^ 32 - 1) ∧ t.mem = s.mem) ∧
        exec (.scrubRead l vault addr .retried false) s = .next (s.satFld (rMemErr l.val vault) 47 32 1) ∧
        (sectorOwner s l.val vault.toNat (addr / 1024) = none → exec (.scrubRead l vault addr .bad false) s = .next (freePoisoned l.val vault s)) ∧
        (∀ g e w, sectorOwner s l.val vault.toNat (addr / 1024) = some (g, e) → eForm e = 1 → w = (addr - 1024 * eBase e) / 8 → w < 8192 →
          exec (.scrubRead l vault addr .bad false) s = .next (memPoisoned l.val vault (granule * g + 8 * w) (putX (8192 * g + w) true s))))) ∧
    (∀ (l : LimbId) (vault : Bool) (addr : Nat) o last, s.fld (limbBase l.val + 0x1040) 31 16 = 0 → exec (.scrubRead l vault addr o last) s = .next s) ∧
    (∃ t, exec .homeApply s = .next t ∧ t.flag rModHome 16 = false ∧ t.fld rModHome 7 0 = s.fld rModHome 7 0 ∧
      (s.fld rModHome 7 0 = 0 ∨ (∃ i < 8, (s.fld rModHome 7 0).testBit i = true ∧ Config.nearTrained.getLsbD i = false) → t.flag rModHome 17 = true ∧ t = { s with regs := t.regs }) ∧
      (s.fld rModHome 7 0 ≠ 0 → (∀ i < 8, (s.fld rModHome 7 0).testBit i = true → Config.nearTrained.getLsbD i = true) → t.fld rModHome 47 40 = s.fld rModHome 7 0 ∧
        t.fld rModHome 39 36 = ((List.range 8).filter (fun i => (s.fld rModHome 7 0).testBit i)).length ∧ t.mem = [] ∧ t.memX = [] ∧ t.res = [] ∧ t.migs = [] ∧ ∀ l, (t.limb l).slots = []))

/-- A host-window access that translates sends its write or its read to host memory with its page's No Snoop attribute, the read to wait for its answer; one that does not is the deferred error 0x0206 with its address; one outside the window is nothing of it (R363, R410, R411). -/
def Sys2Proof.Claims.HostWindow : Prop :=
  ∀ (s : State) (addr len : Nat) (data : List Byte),
    (inHostWindow addr = true → ∀ write h, winTranslate s addr write = some h →
      (write = true → exec (.hostWindowAccess addr write len data) s = .next { s with out := .hostWrite h.1 data h.2 :: s.out }) ∧
      (write = false → ∃ t tag, exec (.hostWindowAccess addr write len data) s = .next t ∧ t.out = .hostRead h.1 len tag h.2 :: s.out ∧ tfind s.hreqs tag = none ∧
        tfind t.hreqs tag = some ⟨1, 0, 0, h.1, len, addr⟩ ∧ (∀ g, g ≠ tag → tfind t.hreqs g = tfind s.hreqs g) ∧ t.mem = s.mem)) ∧
    (inHostWindow addr = true → ∀ write, winTranslate s addr write = none → exec (.hostWindowAccess addr write len data) s = .next (raise (domLimb (hostLimb s)) 1 10 0x0206 (wd addr) s)) ∧
    (∀ write, inHostWindow addr = false → exec (.hostWindowAccess addr write len data) s = .next s)

namespace Sys2Proof.Claims

/-- The registers of limb l's Slew and its own record; the rest of the module as in s. -/
def OnlyLimb (l : Nat) (s t : State) : Prop := t = { s with regs := t.regs, limbs := t.limbs } ∧ ∀ m, m ≠ l → t.limb m = s.limb m

end Sys2Proof.Claims

/-- Arming: GEN advances, ARM is set and the channel waits once in the start queue with its latest argument; an ARM of a channel that is armed or runs is also an overrun; SETGEN writes GEN of an idle channel and is dropped and counted otherwise (R432, R433, R435). -/
def Sys2Proof.Claims.SlewArming : Prop :=
  ∀ (l : LimbId) (n v : Nat) (s : State), n < 4096 → v < 65536 →
    (∃ t, exec (.arm l n v) s = .next t ∧ chanGen t l.val n = (chanGen s l.val n + 1) % 65536 ∧ chanArmed t l.val n = true ∧ tget (0, 0) (t.limb l.val).args n = (v, 0xFF) ∧
      (t.limb l.val).startq = (if n ∈ (s.limb l.val).startq then (s.limb l.val).startq else (s.limb l.val).startq ++ [n]) ∧
      t.fld (chanOff l.val n 1) 55 48 = (if isRunning s l.val n || chanArmed s l.val n then min (s.fld (chanOff l.val n 1) 55 48 + 1) 255 else s.fld (chanOff l.val n 1) 55 48) ∧
      (∀ off, off ≠ chanOff l.val n 0 → off ≠ chanOff l.val n 1 → t.rd off = s.rd off) ∧ OnlyLimb l.val s t) ∧
    (isRunning s l.val n = false → chanArmed s l.val n = false → ∃ t, exec (.setgen l n v) s = .next t ∧ chanGen t l.val n = v ∧ (∀ off, off ≠ chanOff l.val n 0 → t.rd off = s.rd off) ∧
      t = { s with regs := t.regs }) ∧
    (isRunning s l.val n = true ∨ chanArmed s l.val n = true → exec (.setgen l n v) s = .next (s.satFld (rSlwStat l.val) 47 32 1))

/-- Window and tail writes: a word of a channel that is not armed takes the value, GEN and ARM of word 0, OVERRUN of word 1 and LASTBASE of word 7 kept; a write to an armed channel, or of word 6 of a running INPUT channel, is dropped and counted; a TAIL at most 8,192 behind HEAD is taken, another dropped (R437, R438, R444). -/
def Sys2Proof.Claims.SlewWindows : Prop :=
  ∀ (l : LimbId) (n w : Nat) (v : Word) (s : State), n < 4096 → w < 8 →
    (chanArmed s l.val n = false → ¬ (w = 6 ∧ s.fld (chanOff l.val n 0) 33 31 = 4 ∧ isRunning s l.val n = true) → ∃ t, exec (.channelWindowWrite l n w v) s = .next t ∧
      (w ∉ [0, 1, 7] → t.rd (chanOff l.val n w) = v) ∧
      (w = 0 → chanGen t l.val n = chanGen s l.val n ∧ chanArmed t l.val n = false ∧ t.fld (chanOff l.val n 0) 43 0 = bits v 43 0 ∧ t.fld (chanOff l.val n 0) 47 45 = bits v 47 45) ∧
      (w = 1 → t.fld (chanOff l.val n 1) 55 48 = s.fld (chanOff l.val n 1) 55 48 ∧ t.fld (chanOff l.val n 1) 47 0 = bits v 47 0) ∧
      (w = 7 → t.fld (chanOff l.val n 7) 47 0 = s.fld (chanOff l.val n 7) 47 0) ∧ (∀ off, off ≠ chanOff l.val n w → t.rd off = s.rd off) ∧ OnlyLimb l.val s t ∧
      (isRunning s l.val n = false → t.limbs = s.limbs)) ∧
    (chanArmed s l.val n = true ∨ (w = 6 ∧ s.fld (chanOff l.val n 0) 33 31 = 4 ∧ isRunning s l.val n = true) → exec (.channelWindowWrite l n w v) s = .next (s.satFld (rSlwStat l.val) 47 32 1)) ∧
    (∀ tail, tail < 16384 → ((s.fld (rSlwCq l.val) 45 32 + 16384 - tail) % 16384 ≤ 8192 → ∃ t, exec (.slwCqTailWrite l tail) s = .next t ∧ t.fld (rSlwCq l.val) 13 0 = tail ∧
        t.fld (rSlwCq l.val) 45 32 = s.fld (rSlwCq l.val) 45 32 ∧ t = { s with regs := t.regs }) ∧
      (8192 < (s.fld (rSlwCq l.val) 45 32 + 16384 - tail) % 16384 → exec (.slwCqTailWrite l tail) s = .next (s.satFld (rSlwStat l.val) 47 32 1)))

/-- A transfer's life: the channel that may start next and takes pushed lines leaves the queue, clears ARM, keeps the base it uses and runs, and with no channel that may start nothing happens; a finished transfer that ended well, was not armed again, chains nothing and asks no notice leaves one completion record of status 0 and runs no more; CANCEL of a channel that waits leaves the record of status 4, of a running one gives its transfer that status and its packets on their way no token, and of an idle one does nothing; an FSMC transfer whose lines are all in the field store is delivered (R434 to R436, R440, R442, R446). -/
def Obligations.SlewTransfers : Prop :=
  ∀ (l : LimbId) (n : Nat) (s : State),
    (nextSlew s l.val = none → exec (.slewChannelStart l) s = .next s) ∧
    (∀ r : Run, nextSlew s l.val = some n → (snapshot l.val n (cacheTouch l.val n s)).1 = r → r.sk = 3 → r.dk = 0 → r.op = 0 → r.hint = 0 →
      ∃ t, exec (.slewChannelStart l) s = .next t ∧ chanArmed t l.val n = false ∧ n ∉ (t.limb l.val).startq ∧ findRun t l.val n = some r ∧ t.fld (chanOff l.val n 7) 47 0 = r.base ∧
        t.fld (rSlwStat l.val) 6 0 = (s.limb l.val).runs.length + 1 ∧ t.cores = s.cores ∧ t.mem = s.mem) ∧
    (∀ r : Run, findRun s l.val n = some r → runFinished s l.val r = true → fatal s = false → r.status = 0 → r.poison = false → r.op ≠ 4 → r.f 0 43 42 = 0 →
      n < 4096 → chanArmed s l.val n = false → (s.limb l.val).runs.length ≤ 64 →
      ∃ t, exec (.slewTransferComplete l n) s = .next t ∧ findRun t l.val n = none ∧ t.fld (rSlwCq l.val) 45 32 = (s.fld (rSlwCq l.val) 45 32 + 1) % 16384 ∧
        bits (t.rd (limbBase l.val + 0xC0000 + 32 * (s.fld (rSlwCq l.val) 45 32 % 8192))) 23 20 = 0 ∧
        t.fld (rSlwStat l.val) 6 0 = ((s.limb l.val).runs.filter (fun x => x.chan != n)).length ∧ t.cores = s.cores ∧ t.mem = s.mem) ∧
    (n < 4096 → findRun s l.val n = none → chanArmed s l.val n = true → s.flag (chanOff l.val n 0) 42 = false →
      ∃ t, exec (.slewCancel l n) s = .next t ∧ chanArmed t l.val n = false ∧ n ∉ (t.limb l.val).startq ∧ t.fld (rSlwCq l.val) 45 32 = (s.fld (rSlwCq l.val) 45 32 + 1) % 16384 ∧
        bits (t.rd (limbBase l.val + 0xC0000 + 32 * (s.fld (rSlwCq l.val) 45 32 % 8192))) 23 20 = 4 ∧ t.cores = s.cores ∧ t.mem = s.mem) ∧
    (∀ r : Run, n < 4096 → findRun s l.val n = some r → r.status = 0 → ∃ t q, exec (.slewCancel l n) s = .next t ∧ findRun t l.val n = some q ∧ q.status = 4 ∧ chanArmed t l.val n = false ∧
      n ∉ (t.limb l.val).startq ∧ (∀ p ∈ t.net, p.sx = 0x1FE → p.sy = l.val → p.tag = r.tag → p.te = false) ∧ t.mem = s.mem) ∧
    (n < 4096 → findRun s l.val n = none → chanArmed s l.val n = false → exec (.slewCancel l n) s = .next s) ∧
    (∀ r : Run, findRun s l.val n = some r → r.dk = 4 → r.issued = true → r.status = 0 → r.delivered = false → inFlight s l.val r.tag = false → rowsFull s r = false →
      exec (.fsmcDelivery l n) s = .next (fsmcDeliver l.val r s))

/-- The Occulter, when a transfer that begins at a slot has been written: one that does not complete its kind is only marked; a slot filled twice is the deferred error 0x0105 and counted; the last predicted slot makes P the OR of the slots' masks and the state 1; the last true slot then makes M the true blocks that were not predicted and the state 2; without such a transfer nothing happens; CLEAR empties it (R457, R458, R459). -/
def Obligations.Occulter : Prop :=
  ∀ (f : FieldId) (slot : Nat) (s : State),
    (∀ b : Bool, s.flag (rOccCfg f.val) 0 = true → slot ≤ s.fld (rOccCfg f.val) 47 42 → (b, slot) ∈ (s.occAt f.val).due →
      (slot ∉ (if b then (s.occAt f.val).fillT else (s.occAt f.val).fillP) →
        (occState s f.val = 0 → (s.occAt f.val).fillP.length + (if b then 0 else 1) ≠ s.fld (rOccCfg f.val) 47 42 + 1) →
        (occState s f.val = 1 → (s.occAt f.val).fillT.length + (if b then 1 else 0) ≠ s.fld (rOccCfg f.val) 47 42 + 1) →
        ∃ t, exec (.occulterSlotFilled f b slot) s = .next t ∧ t = { s with occ := t.occ } ∧
          t.occAt f.val = { s.occAt f.val with due := (s.occAt f.val).due.erase (b, slot), fillT := if b then (s.occAt f.val).fillT ++ [slot] else (s.occAt f.val).fillT, fillP := if b then (s.occAt f.val).fillP else (s.occAt f.val).fillP ++ [slot] }) ∧
      (slot ∈ (if b then (s.occAt f.val).fillT else (s.occAt f.val).fillP) →
        exec (.occulterSlotFilled f b slot) s =
          .next (raise (.field f) 1 5 0x0105 (wd slot) ((s.setOcc f.val { s.occAt f.val with due := (s.occAt f.val).due.erase (b, slot) }).satFld (rOccStat f.val) 15 8 1)))) ∧
    (∀ b : Bool, s.flag (rOccCfg f.val) 0 = false ∨ s.fld (rOccCfg f.val) 47 42 < slot ∨ (b, slot) ∉ (s.occAt f.val).due → exec (.occulterSlotFilled f b slot) s = .next s) ∧
    (s.flag (rOccCfg f.val) 0 = true → slot ≤ s.fld (rOccCfg f.val) 47 42 → (false, slot) ∈ (s.occAt f.val).due → slot ∉ (s.occAt f.val).fillP → occState s f.val = 0 →
      (s.occAt f.val).fillP.length = s.fld (rOccCfg f.val) 47 42 → (s.occAt f.val).fillT.length ≤ s.fld (rOccCfg f.val) 47 42 →
      ∃ t u, exec (.occulterSlotFilled f false slot) s = .next t ∧ occState t f.val = 1 ∧ u = { s with occ := u.occ } ∧
        (t.occAt f.val).p = (allSlots f.val (s.fld (rOccCfg f.val) 41 23) u).1 ∧ (t.occAt f.val).fillP = (s.occAt f.val).fillP ++ [slot]) ∧
    (s.flag (rOccCfg f.val) 0 = true → slot ≤ s.fld (rOccCfg f.val) 47 42 → (true, slot) ∈ (s.occAt f.val).due → slot ∉ (s.occAt f.val).fillT → occState s f.val = 1 →
      (s.occAt f.val).fillT.length = s.fld (rOccCfg f.val) 47 42 →
      ∃ t u, exec (.occulterSlotFilled f true slot) s = .next t ∧ occState t f.val = 2 ∧ u = { s with occ := u.occ } ∧ (t.occAt f.val).t = (allSlots f.val (s.fld (rOccCfg f.val) 22 4) u).1 ∧
        ∀ i, (t.occAt f.val).m.testBit i = ((t.occAt f.val).t.testBit i && !(s.occAt f.val).p.testBit i)) ∧
    (∃ t, exec (.clear f) s = .next t ∧ occState t f.val = 0 ∧ (t.occAt f.val).fillP = [] ∧ (t.occAt f.val).fillT = [] ∧ (t.occAt f.val).done = 0 ∧
      (∀ off, off ≠ rOccStat f.val → t.rd off = s.rd off) ∧ t = { s with regs := t.regs, occ := t.occ })

namespace Sys2Proof.Claims

/-- No flow of any limb has a packet that waits to be sent. -/
def NoneWait (s : State) : Prop := ∀ l, ∀ p ∈ (s.limb l).flows, p.2.waitq = []

/-- The packet k of a type stands first among limb l's received packets, from port p, and passes the checks of R472, R481 and R485. -/
structure Received (l typ p : Nat) (k : MPkt) (s : State) : Prop where
  first : (s.limb l).rxq.head? = some (p, k)
  type : k.typ = typ
  header : okHeader s l k = true
  tag : okTag s l k = true
  present : peerIsAbsent s l (flowPeer s l k.dflow) = false

/-- Limb l may send on flow f: in service, not stopped, the module numbered and not FATAL, the port up (R473, R478, R485, R521, R622, R847). -/
structure MaySend (l f : Nat) (s : State) : Prop where
  service : inService s l f = true
  going : (s.flow l f).stopped = false
  number : moduleId s ≠ 0xFFFF
  alive : fatal s = false
  port : portUp s (flowPort s l f) = true

/-- The headers of a frame that leaves on flow f: its gateway's MAC address and the port's own, the port's VLAN tag, IP version, address and UDP port, the peer's address, ECT(0), TTL 64, Don't Fragment in IPv4, and the flow's source port (R464, R465, R468). -/
structure Headed (l f : Nat) (s : State) (h : NetHead) : Prop where
  macs : h.dmac = bits (flowWord s l f 1) 47 0 ∧ h.smac = s.fld (portBase (flowPort s l f) + 8) 47 0
  vlan : h.vlan = if s.flag (portBase (flowPort s l f)) 29 then some (s.fld (portBase (flowPort s l f)) 41 30) else none
  version : h.v6 = s.flag (portBase (flowPort s l f)) 28
  own : h.sip = if h.v6 then (s.rd (portBase (flowPort s l f) + 0x20)).toNat * 2 ^ 64 + (s.rd (portBase (flowPort s l f) + 0x18)).toNat else s.fld (portBase (flowPort s l f) + 0x10) 31 0
  peer : h.dip = if h.v6 then (s.rd (peerOff l (flowPeer s l f) 3)).toNat * 2 ^ 64 + (s.rd (peerOff l (flowPeer s l f) 2)).toNat else s.fld (peerOff l (flowPeer s l f) 2) 31 0
  ip : h.tos = s.fld (portBase (flowPort s l f)) 47 42 * 4 + 2 ∧ h.ttl = 64 ∧ h.df = !h.v6
  ports : h.sport = 0xC000 + f ∧ h.dport = s.fld (portBase (flowPort s l f)) 63 48

/-- One frame with the packet k has left at flow f's port since s. -/
def Sent (l f : Nat) (k : MPkt) (s t : State) : Prop :=
  (∃ h, Headed l f s h ∧ t.out = .frame (flowPort s l f) h k :: s.out) ∧ t.rd (portBase (flowPort s l f) + 0x30) = s.rd (portBase (flowPort s l f) + 0x30) + 1

/-- A frame for the port's own station: a good FCS, no PTP frame that the port takes, no PAUSE, and the port's MAC address (R464, R467). -/
def ForStation (p : Nat) (fr : Frame) (s : State) : Prop :=
  fr.fcsOk = true ∧ fr.ptp = false ∧ fr.pause = false ∧ fr.dmac = s.fld (portBase p + 8) 47 0

/-- A frame in the form the port takes: its IP version and address, no fragment, good UDP, and the port's UDP port (R465 to R468). -/
def InForm (p : Nat) (fr : Frame) (s : State) : Prop :=
  fr.v6 = s.flag (portBase p) 28 ∧
  fr.dip = (if s.flag (portBase p) 28 then (s.rd (portBase p + 0x20)).toNat * 2 ^ 64 + (s.rd (portBase p + 0x18)).toNat else s.fld (portBase p + 0x10) 31 0) ∧
  fr.fragment = false ∧ fr.udpOk = true ∧ fr.dport = s.fld (portBase p) 63 48

/-- A 32-bit counter of one more event, saturated. -/
def oneMore (n : Nat) : Nat := min (n + 1) (2 ^ 32 - 1)

end Sys2Proof.Claims

/-- A frame at a port with its link up is counted with its bytes, and at another port does nothing; a good one for the port joins the limb's received packets with the PLEN bytes of payload its header names, and counts in CE where it was marked; one with a bad FCS, one for another station, and one of another form or number only count in their own counters, and a PTP frame where the port takes them in none (R464 to R469, R523). -/
def Sys2Proof.Claims.FramesReceived : Prop :=
  ∀ (p : PortId) (fr : Frame) (s : State),
    (portUp s p.val = false → exec (.frameReceive p fr) s = .next s) ∧
    (portUp s p.val = true → ∃ t, exec (.frameReceive p fr) s = .next t ∧
      t.rd (portBase p.val + 0x38) = s.rd (portBase p.val + 0x38) + 1 ∧ t.rd (portBase p.val + 0x48) = s.rd (portBase p.val + 0x48) + wd fr.bytes ∧
      t = { s with regs := t.regs, limbs := t.limbs } ∧ (∀ off, off ∉ [portBase p.val + 0x38, portBase p.val + 0x48, portBase p.val + 0x50, portBase p.val + 0x58, portBase p.val + 0x70] → t.rd off = s.rd off) ∧
      (ForStation p.val fr s → InForm p.val fr s → (t.limb (p.val / 3)).rxq = (s.limb (p.val / 3)).rxq ++ [(p.val, { fr.pkt with payload := fr.pkt.payload.take fr.pkt.plen })] ∧
        t.rd (portBase p.val + 0x50) = s.rd (portBase p.val + 0x50) ∧ t.rd (portBase p.val + 0x58) = s.rd (portBase p.val + 0x58) ∧
        t.fld (portBase p.val + 0x70) 31 0 = if fr.ce then oneMore (s.fld (portBase p.val + 0x70) 31 0) else s.fld (portBase p.val + 0x70) 31 0) ∧
      (¬ (ForStation p.val fr s ∧ InForm p.val fr s) → t.limbs = s.limbs ∧ t.rd (portBase p.val + 0x70) = s.rd (portBase p.val + 0x70) ∧
        (fr.fcsOk = false → t.fld (portBase p.val + 0x50) 63 32 = oneMore (s.fld (portBase p.val + 0x50) 63 32) ∧ t.rd (portBase p.val + 0x58) = s.rd (portBase p.val + 0x58)) ∧
        (fr.fcsOk = true → fr.ptp = true → s.flag (portBase p.val + 0x90) 63 = true → t.rd (portBase p.val + 0x50) = s.rd (portBase p.val + 0x50) ∧ t.rd (portBase p.val + 0x58) = s.rd (portBase p.val + 0x58)) ∧
        (fr.fcsOk = true → (fr.ptp = true → s.flag (portBase p.val + 0x90) 63 = false) → ¬ ForStation p.val fr s →
          t.fld (portBase p.val + 0x58) 31 0 = oneMore (s.fld (portBase p.val + 0x58) 31 0) ∧ t.rd (portBase p.val + 0x50) = s.rd (portBase p.val + 0x50)) ∧
        (ForStation p.val fr s → t.fld (portBase p.val + 0x50) 31 0 = oneMore (s.fld (portBase p.val + 0x50) 31 0) ∧ t.rd (portBase p.val + 0x58) = s.rd (portBase p.val + 0x58))))

/-- Received packets: without one, or with a packet of another type first, a command does nothing; one that fails a check of R472, R481 or R485 is dropped and counted; a ROLL or any packet shows its peer alive at the present time in every limb; an ACK within the window moves SUNA and drops what it and its map acknowledge, one outside counts in OOW; in-order DATA advances RNEXT and owes an acknowledgment, and without a run that takes it counts as stale; DATA of the current run goes to its run, whose wait begins anew (R472, R475 to R478, R481, R484, R485, R491, R494). -/
def Obligations.PacketsReceived : Prop :=
  ∀ (l : LimbId) (p : Nat) (k : MPkt) (s : State), p < 24 →
    (∀ i ∈ [Instr.roll l, .ack l], (s.limb l.val).rxq = [] ∨ ((s.limb l.val).rxq.head? = some (p, k) ∧ k.typ = 1) → exec i s = .next s) ∧
    (∀ i ∈ [(Instr.roll l, 3), (.ack l, 2)], (s.limb l.val).rxq.head? = some (p, k) → k.typ = i.2 →
      (okHeader s l.val k = false → ∃ t, exec i.1 s = .next t ∧ (t.limb l.val).rxq = (s.limb l.val).rxq.tail ∧ (t.limb l.val).flows = (s.limb l.val).flows ∧
        t.fld (portBase p + 0x50) 31 0 = oneMore (s.fld (portBase p + 0x50) 31 0) ∧ t = { s with regs := t.regs, limbs := t.limbs }) ∧
      (okHeader s l.val k = true → okTag s l.val k = false → ∃ t, exec i.1 s = .next t ∧ (t.limb l.val).rxq = (s.limb l.val).rxq.tail ∧ (t.limb l.val).flows = (s.limb l.val).flows ∧
        t.fld (portBase p + 0x58) 63 32 = oneMore (s.fld (portBase p + 0x58) 63 32) ∧ t = { s with regs := t.regs, limbs := t.limbs }) ∧
      (okHeader s l.val k = true → okTag s l.val k = true → peerIsAbsent s l.val (flowPeer s l.val k.dflow) = true → ∃ t, exec i.1 s = .next t ∧ (t.limb l.val).rxq = (s.limb l.val).rxq.tail ∧
        (t.limb l.val).flows = (s.limb l.val).flows ∧ t.fld (portBase p + 0x70) 63 32 = oneMore (s.fld (portBase p + 0x70) 63 32) ∧ t = { s with regs := t.regs, limbs := t.limbs })) ∧
    (Received l.val 3 p k s → ∃ t, exec (.roll l) s = .next t ∧ (t.limb l.val).rxq = (s.limb l.val).rxq.tail ∧
      (∀ m < 8, t.rd (peerOff m (flowPeer s l.val k.dflow) 1) = sidereal s) ∧ (t.limb l.val).flows = (s.limb l.val).flows ∧ t = { s with regs := t.regs, limbs := t.limbs }) ∧
    (Received l.val 2 p k s → NoneWait s → k.ackv = true → sub32 k.ackseq (s.flow l.val k.dflow).suna ≤ sub32 (s.flow l.val k.dflow).snxt (s.flow l.val k.dflow).suna →
      ∃ t, exec (.ack l) s = .next t ∧ (t.flow l.val k.dflow).suna = k.ackseq % 2 ^ 32 ∧ (t.flow l.val k.dflow).snxt = (s.flow l.val k.dflow).snxt ∧
        (∀ u, u ∈ (t.flow l.val k.dflow).unack ↔ u ∈ (s.flow l.val k.dflow).unack ∧ sub32 k.ackseq (s.flow l.val k.dflow).suna ≤ sub32 u.seq (s.flow l.val k.dflow).suna ∧
          ¬ (sub32 u.seq (k.ackseq + 1) < 64 ∧ k.sack.testBit (sub32 u.seq (k.ackseq + 1)) = true)) ∧
        (∀ f, f ≠ k.dflow → t.flow l.val f = s.flow l.val f) ∧ (t.limb l.val).rxq = (s.limb l.val).rxq.tail) ∧
    (Received l.val 2 p k s → k.ackv = true → sub32 (s.flow l.val k.dflow).snxt (s.flow l.val k.dflow).suna < sub32 k.ackseq (s.flow l.val k.dflow).suna →
      ∃ t, exec (.ack l) s = .next t ∧ t.fld (portBase p + 0x60) 31 0 = oneMore (s.fld (portBase p + 0x60) 31 0) ∧ (t.limb l.val).flows = (s.limb l.val).flows) ∧
    (Received l.val 1 p k s → k.ackv = false → (s.flow l.val k.dflow).stopped = false → k.seq = (s.flow l.val k.dflow).rnext → (s.flow l.val k.dflow).rmap = 0 →
      (s.flow l.val k.dflow).rnext < 2 ^ 32 → k.rtag = (s.plan l.val k.plan).tag →
      (planActive s l.val k.plan = false → (s.flow l.val k.dflow).ackDue < 15 → ∃ t, exec (.data l) s = .next t ∧
        t.flow l.val k.dflow = { s.flow l.val k.dflow with rnext := ((s.flow l.val k.dflow).rnext + 1) % 2 ^ 32, ackDue := (s.flow l.val k.dflow).ackDue + 1 } ∧
        t.fld (portBase p + 0x70) 63 32 = oneMore (s.fld (portBase p + 0x70) 63 32) ∧ (t.limb l.val).rxq = (s.limb l.val).rxq.tail) ∧
      (planActive s l.val k.plan = true → ∃ u, exec (.data l) s = .next (withReads (fun _ => if 16 ≤ ((planPacket l.val k.plan p k u).flow l.val k.dflow).ackDue then sendAck l.val k.dflow (planPacket l.val k.plan p k u) else planPacket l.val k.plan p k u) s) ∧
        u.flow l.val k.dflow = { s.flow l.val k.dflow with rnext := ((s.flow l.val k.dflow).rnext + 1) % 2 ^ 32, ackDue := (s.flow l.val k.dflow).ackDue + 1 } ∧
        u.plan l.val k.plan = { s.plan l.val k.plan with since := sidereal s } ∧ u.mem = s.mem))

/-- Packets sent: an ACK owed leaves on its flow with RNEXT and the map, and without one nothing leaves; a resend leaves again and is counted, the 64th with the deferred error 0x0230, and a number that is not outstanding does nothing; a roll-call leaves for the one peer that is called, and for none nothing (R464, R465, R468, R477, R479, R483). -/
def Sys2Proof.Claims.PacketsSent : Prop :=
  ∀ (l : LimbId) (f : Nat) (s : State),
    ((s.flow l.val f).ackDue = 0 → exec (.ackSend l f) s = .next s) ∧
    (∀ seq, (∀ u ∈ (s.flow l.val f).unack, u.seq ≠ seq) → exec (.resend l f seq) s = .next s) ∧
    ((∀ q < 1024, rollFlows s l.val q = []) → exec (.rollCallSend l) s = .next s) ∧
    (MaySend l.val f s → f < 4096 →
      ((s.flow l.val f).ackDue ≠ 0 → ∃ t k, exec (.ackSend l f) s = .next t ∧ Sent l.val f k s t ∧ k.typ = 2 ∧ k.ackv = true ∧ k.ackseq = (s.flow l.val f).rnext ∧
        k.sack = (s.flow l.val f).rmap % 2 ^ 64 ∧ t.flow l.val f = { s.flow l.val f with ackDue := 0 }) ∧
      (∀ seq u, (s.flow l.val f).unack = [u] → u.seq = seq → u.resends ≠ 63 → ∃ t, exec (.resend l f seq) s = .next t ∧ Sent l.val f u.pkt s t ∧
        (t.flow l.val f).unack = [{ u with resends := u.resends + 1 }] ∧
        t.fld (portBase (flowPort s l.val f) + 0x60) 63 32 = oneMore (s.fld (portBase (flowPort s l.val f) + 0x60) 63 32)) ∧
      (∀ seq u, (s.flow l.val f).unack = [u] → u.seq = seq → u.resends = 63 → ∃ v, exec (.resend l f seq) s = .next (transmit l.val f u.pkt (raise (.limb l) 1 (4 + flowPort s l.val f % 3) 0x0230 (wd f) v)) ∧
        (v.flow l.val f).unack = [{ u with resends := 64 }] ∧ v = { s with regs := v.regs, limbs := v.limbs }) ∧
      (∀ p < 1024, rollFlows s l.val p = [f] → (∀ q < 1024, q ≠ p → rollFlows s l.val q = []) → ∃ t k, exec (.rollCallSend l) s = .next t ∧ Sent l.val f k s t ∧ k.typ = 3 ∧ k.payload = [] ∧
        t.limbs = s.limbs))

/-- A peer that has been silent for 48 µs is absent: every limb's copy says so, its flows stop and lose what they hold, and one event says it; a peer that is not enabled, absent already or heard within 48 µs is left as it is (R484, R485). -/
def Sys2Proof.Claims.PeerLost : Prop :=
  ∀ (peer : Nat) (s : State), peer < 1024 →
    (s.flag (peerOff 0 peer 0) 63 = false ∨ s.flag (peerOff 0 peer 0) 61 = true ∨ (sidereal s - s.rd (peerOff 0 peer 1)).toNat < 48000 → exec (.peerAbsent peer) s = .next s) ∧
    (s.flag (peerOff 0 peer 0) 63 = true → s.flag (peerOff 0 peer 0) 61 = false → 48000 ≤ (sidereal s - s.rd (peerOff 0 peer 1)).toNat → s.plans = [] →
      ∃ t, exec (.peerAbsent peer) s = .next t ∧ (∀ l < 8, t.flag (peerOff l peer 0) 61 = true) ∧ t.rd ringNlog.head = s.rd ringNlog.head + 1 ∧
        (∀ l < 8, ∀ f, tfind (s.limb l).flows f ≠ none → flowPeer s l f = peer → (t.flow l f).stopped = true ∧ (t.flow l f).unack = [] ∧ (t.flow l f).waitq = []) ∧
        (∀ l < 8, ∀ f, flowPeer s l f ≠ peer → t.flow l f = s.flow l f) ∧ t.mem = s.mem ∧ t.cores = s.cores)

/-- Tables and ports: a flow that is not enabled takes its words, and enabling it starts its numbers from word 2; an enabled flow takes only the write that disables it, which forgets it; enabling a peer clears ABSENT and sets LAST, an address word is stored, and LAST is not written; the module number and a port's enable are stored, a port's link comes up only where it is enabled, and a link that goes down is counted (R473, R474, R482, R486, R521, R523, R847). -/
def Sys2Proof.Claims.TablesAndPorts : Prop :=
  ∀ (l : LimbId) (n : Nat) (v : Word) (s : State), NoneWait s →
    (n < 4096 → s.flag (limbBase l.val + 0xA0000 + 32 * n) 63 = false →
      exec (.flowTableWrite l n 2 v) s = .next (s.wr (limbBase l.val + 0xA0000 + 32 * n + 16) v) ∧
      exec (.flowTableWrite l n 1 v) s = .next (s.wr (limbBase l.val + 0xA0000 + 32 * n + 8) (setBits v 63 48 0)) ∧
      (bit v 63 = false → exec (.flowTableWrite l n 0 v) s = .next (s.wr (limbBase l.val + 0xA0000 + 32 * n) (setBits (setBits v 31 29 0) 23 0 0))) ∧
      (bit v 63 = true → ∃ t, exec (.flowTableWrite l n 0 v) s = .next t ∧ t.rd (limbBase l.val + 0xA0000 + 32 * n) = setBits (setBits v 31 29 0) 23 0 0 ∧
        t.flow l.val n = { Flow.reset with snxt := bits (flowWord s l.val n 2) 31 0, suna := bits (flowWord s l.val n 2) 31 0, rnext := bits (flowWord s l.val n 2) 63 32 })) ∧
    (n < 4096 → s.flag (limbBase l.val + 0xA0000 + 32 * n) 63 = true →
      (∀ w ∈ [1, 2], exec (.flowTableWrite l n w v) s = .next s) ∧ (bit v 63 = true → exec (.flowTableWrite l n 0 v) s = .next s) ∧
      (bit v 63 = false → ∃ t, exec (.flowTableWrite l n 0 v) s = .next t ∧ t.flow l.val n = Flow.reset ∧ ∀ f, f ≠ n → t.flow l.val f = s.flow l.val f)) ∧
    (n < 1024 → bit v 63 = true → s.flag (peerOff l.val n 0) 63 = false → ∃ t, exec (.peerTableWrite l n 0 v) s = .next t ∧ t.flag (peerOff l.val n 0) 63 = true ∧
      t.flag (peerOff l.val n 0) 61 = false ∧ t.rd (peerOff l.val n 1) = sidereal s ∧ peerMod t l.val n = bits v 15 0 ∧ t = { s with regs := t.regs }) ∧
    (n < 1024 → bit v 63 = false ∨ s.flag (peerOff l.val n 0) 63 = true → ∃ t, exec (.peerTableWrite l n 0 v) s = .next t ∧ t.flag (peerOff l.val n 0) 63 = bit v 63 ∧
      t.flag (peerOff l.val n 0) 61 = s.flag (peerOff l.val n 0) 61 ∧ peerMod t l.val n = bits v 15 0 ∧ (∀ off, off ≠ peerOff l.val n 0 → t.rd off = s.rd off) ∧ t = { s with regs := t.regs }) ∧
    (n < 1024 → exec (.peerTableWrite l n 1 v) s = .next s ∧ ∀ w ∈ [2, 3], exec (.peerTableWrite l n w v) s = .next (s.wr (peerOff l.val n w) v)) ∧
    (n < 65536 → exec (.moduleIdWrite n) s = .next (s.setFld rMrdId 15 0 n)) ∧
    (∀ p : PortId, exec (.portEnable p true) s = .next (s.setFld (portBase p.val) 0 0 1) ∧
      (s.flag (portBase p.val) 0 = true → ∃ t, exec (.portLinkChange p true) s = .next t ∧ portUp t p.val = true ∧ t.fld (portBase p.val + 0x28) 55 48 = 0xFF ∧ t = { s with regs := t.regs }) ∧
      (s.flag (portBase p.val) 0 = false → exec (.portLinkChange p true) s = .next s) ∧
      (s.flag (portBase p.val + 0x28) 63 = false → exec (.portLinkChange p false) s = .next s ∧ exec (.portEnable p false) s = .next (s.setFld (portBase p.val) 0 0 0)) ∧
      (s.flag (portBase p.val + 0x28) 63 = true → ∀ i ∈ [Instr.portLinkChange p false, Instr.portEnable p false], ∃ t, exec i s = .next t ∧ portUp t p.val = false ∧
        t.fld (portBase p.val + 0x28) 47 32 = min (s.fld (portBase p.val + 0x28) 47 32 + 1) 65535 ∧ t = { s with regs := t.regs }))

/-- Plans: START of an idle reduce-scatter plan runs it with its tag, and it joins the step's runs, START of a broadcast at a member that is not its root or of a step-scalar plan runs it, and START of a running one is dropped and counted; CANCEL ends an active run with status 2 and leaves any other; a run that ends leaves one record in the completion queue that routes it and runs no more, and a run that neither has ended nor is done goes on; a run that has waited on present peers for its bound is slow, with the deferred error 0x0248, and not before; the step scalar begins with the sum of the step's reduce-scatter runs, fails as one of them failed, and waits for the others (R488, R489, R490, R492, R493, R494, R512, R518). -/
def Sys2Proof.Claims.PlanRuns : Prop :=
  ∀ (l : LimbId) (n tag : Nat) (s : State), n < 256 → tag < 65536 →
    ((s.plan l.val n).running = false → limbHeld s l.val = false →
      (pKind (planN s l.val n) = 0 → ∃ t, exec (.start l n tag) s = .next t ∧
        t.plan l.val n = { PlanRun.reset with running := true, tag := tag, since := sidereal s } ∧ (t.step.rs.getLast?).map (fun r => (r.limb, r.plan, r.status)) = some (l.val, n, none) ∧
        t = { s with plans := t.plans, step := t.step }) ∧
      ((pKind (planN s l.val n) = 2 ∧ pRoot (planN s l.val n) ≠ pSelf (planN s l.val n)) ∨ pKind (planN s l.val n) = 3 → ∃ t, exec (.start l n tag) s = .next t ∧
        t.plan l.val n = { PlanRun.reset with running := true, tag := tag, since := sidereal s } ∧ t = { s with plans := t.plans })) ∧
    ((s.plan l.val n).running = true ∨ limbHeld s l.val = true → exec (.start l n tag) s = .next (s.satFld (rQstat l.val) 31 16 1)) ∧
    (planActive s l.val n = true → ∃ t, exec (.planCancel l n) s = .next t ∧ t.plan l.val n = { s.plan l.val n with ending := some (2, 0xFFFF) } ∧ t = { s with plans := t.plans }) ∧
    (planActive s l.val n = false → exec (.planCancel l n) s = .next s) ∧
    ((s.plan l.val n).running = false ∨ ((s.plan l.val n).ending = none ∧ planDone s l.val n = false) → exec (.planRunComplete l n) s = .next s) ∧
    (∀ st m, (s.plan l.val n).running = true → (s.plan l.val n).ending = some (st, m) ∨ ((s.plan l.val n).ending = none ∧ planDone s l.val n = true ∧ st = 0 ∧ m = 0xFFFF) → st = 0 ∨ st = 2 →
      (s.plan l.val n).lring = 0xFF → pKind (planN s l.val n) < 3 → ∃ t, exec (.planRunComplete l n) s = .next t ∧
      (t.plan l.val n).running = false ∧ t.rd (ringCq s (routeCq s 2)).head = s.rd (ringCq s (routeCq s 2)).head + 1 ∧
      t.step.rsFail = (s.step.rsFail || (decide (pKind (planN s l.val n) = 0) && st != 0)) ∧ t.mem = s.mem ∧ t.cores = s.cores) ∧
    (planActive s l.val n = true → (s.plan l.val n).slow = false → planNeeds s l.val n = true → membersPresent s l.val n = true → pBound (planN s l.val n) ≤ (sidereal s - (s.plan l.val n).since).toNat → ∃ u,
      exec (.responseBoundExceeded l n) s = .next (raise (.limb l) 1 7 0x0248 (wd n) u) ∧ u.plan l.val n = { s.plan l.val n with slow := true } ∧ u = { s with plans := u.plans }) ∧
    (planActive s l.val n = false ∨ (s.plan l.val n).slow = true ∨ planNeeds s l.val n = false ∨ membersPresent s l.val n = false ∨ (sidereal s - (s.plan l.val n).since).toNat < pBound (planN s l.val n) →
      exec (.responseBoundExceeded l n) s = .next s) ∧
    (planActive s l.val n = true → pKind (planN s l.val n) = 3 → (s.plan l.val n).begun = false →
      ((∀ x ∈ s.step.rs, x.status = some 0) → ∃ u,
        exec (.stepScalarBegin l n) s = .next (treeGo l.val n 0 u) ∧ (u.plan l.val n).begun = true ∧ u = { s with plans := u.plans } ∧
        (u.plan l.val n).norm = (s.plan l.val n).norm + ((s.step.rs.filter (fun x => x.normOn)).map (fun x => x.norm)).sum ∧
        (u.plan l.val n).nf = ((s.plan l.val n).nf || s.step.rs.any (fun x => x.nf))) ∧
      (∀ x st, s.step.rs.head? = some x → x.status = some st → st ≠ 0 → ∃ u, exec (.stepScalarBegin l n) s = .next (sendAborts l.val n st (moduleId s) none u) ∧
        u.plan l.val n = { s.plan l.val n with ending := some (st, x.named) } ∧ u = { s with plans := u.plans }) ∧
      ((∀ x ∈ s.step.rs, x.status = some 0 ∨ x.status = none) → (∃ x ∈ s.step.rs, x.status = none) → exec (.stepScalarBegin l n) s = .next s))

/-- The closes of the observation vectors, in a step with no observation plan: the gradient vector closes once every field has reported its backward phase and every run has this tray's contributions, and REDUCE begins; the update vector closes once every powered limb has swept; neither closes twice, nor outside a step (R291, R293, R516). -/
def Sys2Proof.Claims.VectorCloses : Prop :=
  ∀ s : State,
    (s.plans = [] → launched s = true →
      (s.obs.gClosed = false → allBackwardDone s = true → (∀ x ∈ s.step.rs, rsContributed s x = true) → (s.chrOf chrMod).isOpen = true → ∃ t, exec .gradientVectorClose s = .next t ∧ t.obs = { s.obs with gClosed := true } ∧
        tfind (t.chrOf chrMod).since 0 = none ∧ tfind (t.chrOf chrMod).since 1 = some (sidereal s) ∧ t = { s with obs := t.obs, chr := t.chr }) ∧
      (s.obs.uClosed = false → s.fld 0x6018 2 0 = 1 → (∀ l < 8, limbOn s l = true → 3 ≤ sweepOf s l) → exec .updateVectorClose s = .next { s with obs := { s.obs with uClosed := true } })) ∧
    (launched s = false ∨ s.obs.gClosed = true ∨ allBackwardDone s = false ∨ (∃ x ∈ s.step.rs, rsContributed s x = false) → exec .gradientVectorClose s = .next s) ∧
    (launched s = false ∨ s.obs.uClosed = true ∨ s.fld 0x6018 2 0 ≠ 1 ∨ (∃ l < 8, limbOn s l = true ∧ sweepOf s l < 3) → exec .updateVectorClose s = .next s)

namespace Sys2Proof.Claims

/-- The step is skipped: a non-finite OR in the step scalar, NF in the reduced gradient observations, or SAT there unless the policy lets it pass; only runs that ended OK count (R282, R283). -/
def Skips (s : State) : Prop :=
  (s.step.scalar = some 0 ∧ s.flag 0x5060 16 = true) ∨
    (s.step.obsG = some 0 ∧ ∃ p ∈ s.obs.redG, p.2.testBit 15 = true ∨ (s.samp.policy ≠ 0 ∧ p.2.testBit 14 = true))

/-- A run that the decision waits for has failed (R555). -/
def StepFailed (s : State) : Prop := s.step.obsG ≠ some 0 ∨ s.step.scalar ≠ some 0 ∨ s.step.rsFail = true

/-- From s to t every engine of a powered limb that has not ended ends with SWEEP v; the others keep theirs. -/
def SweepsEnd (v : Nat) (s t : State) : Prop := ∀ l < 8, sweepOf t l = if limbOn s l = true ∧ sweepOf s l < 3 then v else sweepOf s l

/-- The decision waits for the observation and scalar runs; it then becomes skip, which ends every sweep SKIPPED and drops the update observations, or failed, which ends every sweep so, or apply, with UPDATE begun (R282, R283, R551, R555, R559). -/
def StepOutcome : Prop :=
  ∀ s : State,
    (launched s = false ∨ outcome s ≠ 0 ∨ s.step.obsG = none ∨ s.step.scalar = none → exec .stepOutcomeDecision s = .next s) ∧
    (launched s = true → outcome s = 0 → s.step.obsG ≠ none → s.step.scalar ≠ none →
      (Skips s → ∃ t, exec .stepOutcomeDecision s = .next t ∧ outcome t = 2 ∧ SweepsEnd 4 s t ∧ t.obs = { s.obs with u := [] } ∧ t.cores = s.cores ∧ t.mem = s.mem) ∧
      (¬ Skips s → StepFailed s → ∃ t, exec .stepOutcomeDecision s = .next t ∧ outcome t = 3 ∧ SweepsEnd 5 s t ∧ t.obs = { s.obs with u := [] } ∧ t.cores = s.cores ∧ t.mem = s.mem) ∧
      (¬ Skips s → ¬ StepFailed s → exec .stepOutcomeDecision s = .next ((modSpan 2 s).setFld rUpdStat 2 0 1)))

/-- Update start takes the time and latches the slots that are named; with none named every waiting sweep of a powered limb goes on. A host write to a directed slot is stored; a write of the current tag over a latched slot only counts; after update start a good value with the current tag latches its slot and a bad one is counted; past the deadline, and not before, the step fails with one more late (R562 to R566). -/
def DirectedSlots : Prop :=
  ∀ (s : State),
    (updateReady s = false → exec .updateStart s = .next s) ∧
    (updateReady s = true → (∀ l < 8, limbOn s l = true → ∀ g ∈ enabledGroups s l, uProgram s l (gProg (groupN s l g)) ≠ none) →
      exec .updateStart s = .next (sweepGo (forEach (slotsNamed s) tryLatch { s with step := { s.step with updStarted := true, updAt := sidereal s } })) ∧
      (slotsNamed s = [] → ∃ t, exec .updateStart s = .next t ∧ (∀ l < 8, sweepOf t l = if limbOn s l = true ∧ sweepOf s l = 1 then 2 else sweepOf s l) ∧
        t = { s with regs := t.regs, step := { s.step with updStarted := true, updAt := sidereal s } })) ∧
    (∀ i (v : Word), i < 64 →
      (slotLatched s i = true → bits v 31 0 = (stepCnt s).toNat % 2 ^ 32 → exec (.directedSlotWrite i v) s = .next (s.satFld rUpdDirctl 63 48 1)) ∧
      (slotLatched s i = false ∨ bits v 31 0 ≠ (stepCnt s).toNat % 2 ^ 32 → s.step.updStarted = false ∨ launched s = false ∨ i ∉ slotsNamed s → exec (.directedSlotWrite i v) s = .next (s.wr (rUpdDir i) v)) ∧
      (bits v 31 0 ≠ (stepCnt s).toNat % 2 ^ 32 → s.step.updStarted = true → launched s = true → i ∈ slotsNamed s → exec (.directedSlotWrite i v) s = .next (sweepGo (s.wr (rUpdDir i) v))) ∧
      (slotLatched s i = false → s.step.updStarted = true → launched s = true → i ∈ slotsNamed s → bits v 31 0 = (stepCnt s).toNat % 2 ^ 32 →
        ∃ t, exec (.directedSlotWrite i v) s = .next t ∧ t.rd (rUpdDir i) = v ∧
          (goodStep (bits v 63 32) = true → tfind t.step.dirLat i = some v ∧ t.flag 0x6048 i = true) ∧
          (goodStep (bits v 63 32) = false → slotLatched t i = false ∧ t.fld rUpdDirctl 47 32 = min (s.fld rUpdDirctl 47 32 + 1) 65535))) ∧
    ((∀ i ∈ slotsNamed s, slotLatched s i = true) ∨ launched s = false ∨ s.step.updStarted = false ∨ 2 ≤ outcome s ∨ (sidereal s - s.step.updAt).toNat < max 1 (s.fld rUpdDirctl 15 0) * 1000 → exec .directedDeadline s = .next s) ∧
    (launched s = true → s.step.updStarted = true → outcome s < 2 → max 1 (s.fld rUpdDirctl 15 0) * 1000 ≤ (sidereal s - s.step.updAt).toNat → (∃ i ∈ slotsNamed s, slotLatched s i = false) →
      ∃ g, exec .directedDeadline s = .next (sweepEndAll 2 g ((s.setFld rUpdStat 2 0 3).satFld rUpdStat 47 32 1)) ∧
        g ∈ enabledGroups s (hostLimb s) ∧ gDir (groupN s (hostLimb s) g) = true ∧ slotLatched s (gDslot (groupN s (hostLimb s) g)) = false)

/-- A batch of a sweeping limb runs its segment's program on the next blocks, and counts them, or the engine fails; without blocks it changes nothing but what the look at them did, and elsewhere nothing. What such a command reads through the mesh it waits for; with every answer at hand its effect is whole. A sweep whose blocks are all processed ends OK with one completion record, one of a held limb fails, and otherwise the sweep goes on (R549, R553, R555, R559, R617). -/
def Sweeps : Prop :=
  ∀ (l : LimbId) (k : Nat) (s : State), k < 4096 →
    (launched s = false ∨ sweepOf s l.val ≠ 2 ∨ limbHeld s l.val = true ∨ segProg s l.val k = none → exec (.uProgramBatch l k) s = .next s) ∧
    (∀ prog bs v, launched s = true → sweepOf s l.val = 2 → limbHeld s l.val = false → segProg s l.val k = some prog → nextBlocks l.val k s = (bs, v) →
      (bs = [] → exec (.uProgramBatch l k) s = .next (withReads (fun _ => v) s)) ∧
      (∀ ok u, bs ≠ [] → runBlocks l.val (segN s l.val k) (planN s l.val (sgPlan (segN s l.val k))) (sgGroup (segN s l.val k)) prog (groupK s l.val (sgGroup (segN s l.val k))) bs v = (ok, u) →
        (ok = true → ∃ t, exec (.uProgramBatch l k) s = .next (withReads (fun _ => t) s) ∧ swept t l.val k = swept u l.val k + bs.length ∧
          t.fld (rUpdLstat l.val) 63 32 = (s.fld (rUpdLstat l.val) 63 32 + bs.length) % 2 ^ 32 ∧ t.mem = u.mem ∧ t.memX = u.memX ∧ t.step = u.step) ∧
        (ok = false → exec (.uProgramBatch l k) s = .next (withReads (fun _ => engineFail l.val (sgGroup (segN s l.val k)) u) s)))) ∧
    (lagged s = false → (nextBlocks l.val k s).2 = s ∧ (nextBlocks l.val k s).1.length ≤ 8) ∧
    (∀ t : State, t.engWant = s.engWant → ∃ e, withReads (fun _ => t) s = { t with engReads := e }) ∧
    (launched s = false ∨ sweepOf s l.val ≠ 2 → exec (.sweepComplete l) s = .next s) ∧
    (launched s = true → sweepOf s l.val = 2 → limbHeld s l.val = true → exec (.sweepComplete l) s = .next (engineFail l.val 0x3FF s)) ∧
    (launched s = true → sweepOf s l.val = 2 → limbHeld s l.val = false →
      (sweepDone s l.val = true → ∃ t, exec (.sweepComplete l) s = .next t ∧ sweepOf t l.val = 3 ∧ (∀ j < 8, j ≠ l.val → sweepOf t j = sweepOf s j) ∧
        t.rd (ringCq s (routeCq s 3)).head = s.rd (ringCq s (routeCq s 3)).head + 1 ∧ t.mem = s.mem ∧ t.cores = s.cores) ∧
      (sweepDone s l.val = false → exec (.sweepComplete l) s = .next s))

/-- The alternate control bank takes the next state of every recipe, group and slot, and every enabled group its Seeing record, once in a decided step; a failed access fails the engine. COMMIT of the current step tag, where its conditions hold, advances the step counter, flips the control bank and, after an applied step, the parameter bank, and ends the step; any other COMMIT is counted and is the deferred error 0x0310. INIT writes the initial bank, and is counted and refused while a step is launched (R533 to R537, R566, R569, R570). -/
def CommitsAndBanks : Prop :=
  ∀ (s : State) (tag : Nat),
    (launched s = true → s.step.cbWritten = false → (outcome s = 2 ∨ (outcome s = 1 ∧ s.step.obsU = some 0)) → ∀ old u, engRead (hostLimb s) (cbankBase s (curCbank s)) bankBytes s = (old, u) →
      (old = none → exec .controlBankWrite s = .next (withReads (fun _ => engineFail (hostLimb s) 0x3FF u) s)) ∧
      (∀ bs ok v, old = some bs → (enabledGroups s (hostLimb s)).foldl (fun x g => seeWrite (outcome s == 1) g x) (engWrite (hostLimb s) (cbankBase s (1 - curCbank s)) none (nextBank s (outcome s == 1) bs) u) = (ok, v) →
        (ok = true → exec .controlBankWrite s = .next (withReads (fun _ => { v with step := { v.step with cbWritten := true } }) s)) ∧
        (ok = false → exec .controlBankWrite s = .next (withReads (fun _ => engineFail (hostLimb s) 0x3FF v) s)))) ∧
    (launched s = false ∨ s.step.cbWritten = true ∨ (outcome s ≠ 2 ∧ (outcome s ≠ 1 ∨ s.step.obsU ≠ some 0)) → exec .controlBankWrite s = .next s) ∧
    (commitOk s tag = true → ∃ t, exec (.commit tag) s = .next t ∧ stepCnt t = stepCnt s + 1 ∧ launched t = false ∧ t.fld 0x6008 1 1 = 1 - s.fld 0x6008 1 1 ∧
      t.fld 0x6008 0 0 = (if outcome s = 1 then 1 - s.fld 0x6008 0 0 else s.fld 0x6008 0 0) ∧ t.step.dirLat = [] ∧ t.samp.held = false ∧ t.samp.last = none) ∧
    (commitOk s tag = false → exec (.commit tag) s = .next (raise .module 1 3 0x0310 (wd (tag % 65536)) (s.satFld rUpdStat 63 48 1))) ∧
    (launched s = true → exec .init s = .next (s.satFld rUpdStat 63 48 1)) ∧
    (launched s = false → ∀ ok u, engWrite (hostLimb s) (cbankBase s (curCbank s)) none (initBank s) s = (ok, u) → exec .init s = .next (u.setFld 0x6028 63 32 one32))

end Sys2Proof.Claims

namespace Sys2Proof.Claims

/-- A command of the Plate engine with its code in PLT_STAT.CMD, its slot, and the headers that it reads (R600, R610, R611). -/
def PlateCommand (i : Instr) (cmd slot : Nat) (use : State → State) : Prop :=
  (∃ r k, i = .verify r slot k ∧ cmd = 3 ∧ use = slotUse r (slot % 16)) ∨ (∃ r k, i = .restore r slot k ∧ cmd = 4 ∧ use = slotUse r (slot % 16)) ∨
    (∃ b, i = .delta slot b ∧ cmd = 5 ∧ use = fun s => slotUse false (slot % 16) (slotUse false (b % 16) s)) ∨ (i = .plateApply slot ∧ cmd = 6 ∧ use = slotUse true (slot % 16)) ∨
    (i = .mark slot ∧ cmd = 7 ∧ use = slotUse false (slot % 16))

/-- What each running command does when it completes (R602 to R605, R610). -/
def plateWork (cmd : Nat) : State → State := if cmd = 3 then doVerify else if cmd = 4 then doRestore else if cmd = 5 then doDelta else if cmd = 6 then doApply else doMark

/-- TAKE and the commands where the engine is not free are counted and dropped; TAKE in a launched step waits for the COMMIT; otherwise a plate begins in the slot that R594 picks, and ends CAPACITY where its STATE shard cannot be written, or is skipped with a record; a command begins with its code and slot, RESTORE to be REFUSED in a launched step (R593, R594, R600, R605). -/
def PlateBegins : Prop :=
  ∀ (s : State),
    (pltFree s = false → exec .take s = .next (s.satFld rPltStat 47 32 1) ∧ ∀ i cmd slot use, PlateCommand i cmd slot use → exec i s = .next (s.satFld rPltStat 47 32 1)) ∧
    (pltFree s = true → launched s = true → exec .take s = .next { s with plate := { s.plate with takePend := true } }) ∧
    (pltFree s = true → launched s = false → pltPhase s = 0 → ∀ k, pickSlot s = some k → ∃ t, exec .take s = .next t ∧ (pltPhase t = 1 ∨ (pltPhase t = 0 ∧ t.fld rPltStat 19 16 = 2)) ∧ t.fld rPltStat 15 12 = k ∧
      t.fld rPltSeq 31 0 = (s.fld rPltSeq 31 0 + 1) % 2 ^ 32 ∧ t.plate.hStep = stepCnt s ∧ t.plate.hTime = sidereal s ∧ tfind t.plate.known k = none) ∧
    (pltFree s = true → launched s = false → pltPhase s = 4 ∨ pickSlot s = none → ∃ t, exec .take s = .next t ∧ pltPhase t = pltPhase s ∧
      t.fld rPltStat 63 48 = min (s.fld rPltStat 63 48 + 1) 65535 ∧ t.rd (ringCq s (routeCq s 4)).head = s.rd (ringCq s (routeCq s 4)).head + 1 ∧ t.mem = s.mem ∧ t.cores = s.cores) ∧
    (pltFree s = true → ∀ i cmd slot use, PlateCommand i cmd slot use → ∃ t, exec i s = .next t ∧ pltCmd t = cmd ∧ t.plate.slot = slot % 16 ∧ pltPhase t = pltPhase (use s) ∧
      (cmd = 4 → launched s = true → t.plate.cmdStatus = 7) ∧ (∀ off, off ≠ rPltStat → t.rd off = (use s).rd off) ∧ t = { use s with regs := t.regs, plate := t.plate })

/-- SNAP ends in COPY where the slot can hold the plate, COPY in DIGEST where every shard could be written, DIGEST in SIGN, and SIGN with the header written, POISONED where a shard was; a plate that does not fit ends LAYOUT, one that cannot be written ends CAPACITY; in another phase, while a command runs before DIGEST, or while the signer is busy, nothing happens, nor in a FATAL module (R584, R590 to R592, R595, R598, R599). -/
def PlatePhases : Prop :=
  ∀ s : State, (pltStopped s = true → ∀ i ∈ [Instr.snapDone, .copyDone, .digestDone, .signDone], exec i s = .next s) ∧ (pltStopped s = false →
    (pltPhase s = 1 → (s.plate.fits = true → exec .snapDone s = .next (s.setFld rPltStat 3 0 2)) ∧
      (s.plate.fits = false → ∃ t, exec .snapDone s = .next t ∧ pltPhase t = 0 ∧ t.fld rPltStat 19 16 = 8)) ∧
    (pltPhase s = 2 → ∀ x, s.plate.shards.foldl (copyShard (slotBase s false (s.fld rPltStat 15 12))) (true, [], s) = x →
      (x.1 = true → ∃ t, exec .copyDone s = .next t ∧ pltPhase t = 3 ∧ t.plate.shards = x.2.1 ∧ t.mem = x.2.2.mem ∧ t.memX = x.2.2.memX) ∧
      (x.1 = false → ∃ t, exec .copyDone s = .next t ∧ pltPhase t = 0 ∧ t.fld rPltStat 19 16 = 2)) ∧
    (pltPhase s = 3 → pltCmd s = 0 → ∀ x, writeDigests (slotBase s false (s.fld rPltStat 15 12)) s.plate.shards s = x →
      (x.1 = true → ∃ t, exec .digestDone s = .next t ∧ pltPhase t = 4 ∧ t.mem = x.2.mem ∧ t.memX = x.2.memX) ∧
      (x.1 = false → ∃ t, exec .digestDone s = .next t ∧ pltPhase t = 0 ∧ t.fld rPltStat 19 16 = 2)) ∧
    (pltPhase s = 4 → s.plate.signWait = false → ∀ sig, sig = (if s.flag rPltCfg 2 then Config.ecdsaSign (hostLimb s == 4) (headerBytes s) else List.replicate 96 0) →
      ∀ x, pltWrite (slotByte s false (s.fld rPltStat 15 12) 0) (headerBytes s ++ sig ++ List.replicate (granule - 256 - sig.length) 0) s = x →
      (x.1 = true → ∃ t, exec .signDone s = .next t ∧ pltPhase t = 0 ∧ t.fld rPltStat 19 16 = (if s.plate.shards.any (fun r => r.poison) then 1 else 0) ∧
        tfind t.plate.known (s.fld rPltStat 15 12) = some (s.fld rPltSeq 31 0) ∧ t.mem = x.2.mem) ∧
      (x.1 = false → ∃ t, exec .signDone s = .next t ∧ pltPhase t = 0 ∧ t.fld rPltStat 19 16 = 2)) ∧
    (pltPhase s ≠ 1 → exec .snapDone s = .next s) ∧ (pltPhase s ≠ 2 → exec .copyDone s = .next s) ∧ (pltPhase s ≠ 3 ∨ pltCmd s ≠ 0 → exec .digestDone s = .next s) ∧
    (pltPhase s ≠ 4 ∨ s.plate.signWait = true → exec .signDone s = .next s))

/-- A running command waits through SNAP and COPY; then its work is done and CMD is 0; a command that its check refused ends with that status. VERIFY ends OK with the digest of the shard that the directory names, and a shard that it does not name is REFUSED; MARK records the slot's SEQ as mirrored. CANCEL ends the plate in progress, else the running command, CANCELLED. A write of the engine's configuration makes it read the slots again (R599, R600, R602, R610, R611). -/
def PlateCommands : Prop :=
  ∀ s : State,
    (pltCmd s = 0 ∨ pltPhase s = 1 ∨ pltPhase s = 2 ∨ pltStopped s = true → exec .plateCommandDone s = .next s) ∧
    (pltCmd s ≠ 0 → pltPhase s ≠ 1 → pltPhase s ≠ 2 → pltStopped s = false →
      (s.plate.cmdStatus ≠ 0 → exec .plateCommandDone s = .next (cmdEnd s.plate.cmdStatus [] s)) ∧
      (s.plate.cmdStatus = 0 → exec .plateCommandDone s = .next (plateWork (pltCmd s) s)) ∧
      (∃ t, exec .plateCommandDone s = .next t ∧ pltCmd t = 0)) ∧
    (∀ e, findShard s s.plate.rsel s.plate.slot s.plate.shard = some e → inStore (slotBase s s.plate.rsel s.plate.slot + dirField e 24 8) (dirField e 16 8) = true →
      doVerify s = cmdEnd 0 (shardDigest s (dirField e 8 8) (slotBase s s.plate.rsel s.plate.slot + dirField e 24 8) (dirField e 16 8)) (pltUse (granule * (slotBase s s.plate.rsel s.plate.slot + dirField e 24 8)) (granule * dirField e 16 8) s)) ∧
    (findShard s s.plate.rsel s.plate.slot s.plate.shard = none → doVerify s = cmdEnd 7 [] s ∧ doRestore s = cmdEnd 7 [] s) ∧
    (pltCmd (doMark s) = 0 ∧ (doMark s).fld rPltStat 23 20 = 0 ∧ tfind (doMark s).plate.marked s.plate.slot = some (slotSeq s false s.plate.slot) ∧ (doMark s).mem = s.mem) ∧
    (pltPhase s ≠ 0 → ∃ t, exec .plateCancel s = .next t ∧ pltPhase t = 0 ∧ t.fld rPltStat 19 16 = 3) ∧
    (pltPhase s = 0 → pltCmd s ≠ 0 → ∃ t, exec .plateCancel s = .next t ∧ pltCmd t = 0 ∧ t.fld rPltStat 23 20 = 3) ∧
    (pltPhase s = 0 → pltCmd s = 0 → exec .plateCancel s = .next s) ∧
    (∀ off (v : Word), off ∉ [0x7000, 0x7008, 0x7010, 0x7018] → exec (.plateConfigWrite off v) s = .next s) ∧
    (∀ off (v : Word), off ∈ [0x7000, 0x7008, 0x7010, 0x7018] → ∃ t, exec (.plateConfigWrite off v) s = .next t ∧ t.rd off = (plainWrite s off v).rd off ∧
      t.plate.known = ((List.range (pltSlots (plainWrite s off v))).filter (slotComplete (plainWrite s off v) false)).map (fun k => (k, slotSeq (plainWrite s off v) false k)) ∧
      t.mem = s.mem ∧ t.cores = s.cores)

end Sys2Proof.Claims

namespace Sys2Proof.Claims

/-- The verdict that the votes of a neighbor test give on a core (R700, R701). -/
def verdictFrom (votes : List FailVote) (s : State) (c : Nat) : Nat :=
  let n := if goldenTaken s && runsTest s c then countVotes s votes (badVoters s votes) c else (0, 0)
  verdictOf n.1 n.2

/-- The neighbor test: NBR on a field whose domains are on and whose cores are still begins it, else is refused; its end gives every core of its fields the verdict of its votes and returns the phase to idle (R699 to R702). -/
def NeighborTest : Prop :=
  ∀ (s : State),
    (∀ f, (f < 84 ∧ dkfPhase s = 0 ∧ fieldOn3 s f = true ∧ ∀ c ∈ coresOf f, coreSt s c = 0 ∨ coreSt s c = 4 ∨ coreSt s c = 7) →
      ∃ t, exec (.nbr f) s = .next t ∧ dkfPhase t = 4 ∧ t.fld rDkfStat 15 12 = 1 ∧ t.dark = { s.dark with nbr := [f], powerOn := false } ∧ t = { s with regs := t.regs, dark := t.dark }) ∧
    (∀ f, (84 ≤ f ∨ dkfPhase s ≠ 0 ∨ fieldOn3 s f = false ∨ ∃ c ∈ coresOf f, coreSt s c ≠ 0 ∧ coreSt s c ≠ 4 ∧ coreSt s c ≠ 7) → exec (.nbr f) s = .next (s.setFld rDkfStat 15 12 2)) ∧
    (∀ votes, (dkfPhase s ≠ 4 → exec (.neighborTestDone votes) s = .next s) ∧
      (dkfPhase s = 4 → (∀ f ∈ s.dark.nbr, f < 84) → ∃ t, exec (.neighborTestDone votes) s = .next t ∧ dkfPhase t = 0 ∧ t.dark.nbr = [] ∧
        (if s.dark.powerOn then t.flag rDkfStat 40 = true else t.fld rDkfStat 15 12 = 0) ∧ (∀ f ∈ s.dark.nbr, ∀ c ∈ coresOf f, verdict t c = verdictFrom votes s c) ∧ t.mem = s.mem))

/-- The two commands that ask for a slice of quadrant q (R705). -/
def SliceAsk (i : Instr) (q : Nat) (s : State) : Prop := i = .sliceRun q ∨ (i = .runNext ∧ q = nextQ s)

/-- One tested core's comparison: the signature of what it ran against the golden word of its neighbor mask; a mismatch marks the core and raises cause 0x0501, contained where the core is mapped (R711). -/
def Judged (ran : List (Nat × List Word × Bool)) (c : Nat) (s : State) : Prop :=
  ∀ sig, sig = signature (tget ([], false) ran c).1 (tget ([], false) ran c).2 →
    (sig = goldOf s (goldMask s c) → judge ran c s = setFail c false s) ∧
    (sig ≠ goldOf s (goldMask s c) → judge ran c s =
      raise (domCore c) (if coreMapped s c then 2 else 1) 0 0x0501 sig { setFail c true s with dark := { s.dark with fails := s.dark.fails ++ [c] } })

/-- The signature: it begins at 0, shifts up with feedback 0x1B and takes each result word, and is complemented where the core detected an error (R710). -/
def Signed (ds : List Word) : Prop :=
  signature [] false = 0 ∧ signature ds true = ~~~ signature ds false ∧
  ∀ d, signature (ds ++ [d]) false = (signature ds false <<< 1) ^^^ (if (signature ds false).getLsbD 63 then 0x1B else 0) ^^^ d

/-- Slices: one that is due is counted, the fourteenth with event 0x1206; a slice is refused, or deferred with event 0x1202 outside its limits, or begins in SAVE with its quadrant held; SAVE ends in PATTERNS, PATTERNS in RESTORE with each core judged by its signature and no core marked where none failed, and RESTORE ends the slice with its result; CANCEL abandons a slice before RESTORE (R704 to R713). -/
def Slices : Prop :=
  ∀ (s : State),
    (s.flag 0xA000 0 = true → s.fld 0xA000 47 32 ≠ 0 → ∃ t, exec .sliceDue s = .next t ∧ t.fld rDkfStat 63 48 = min (s.fld rDkfStat 63 48 + 1) 65535 ∧
      t.rd ringNlog.head = s.rd ringNlog.head + (if s.fld rDkfStat 63 48 = 13 then 1 else 0) ∧ t.cores = s.cores ∧ t.dark = s.dark) ∧
    (s.flag 0xA000 0 = false ∨ s.fld 0xA000 47 32 = 0 → exec .sliceDue s = .next s) ∧
    (∀ i q, SliceAsk i q s →
      (sliceOk s q = false → exec i s = .next (s.setFld rDkfStat 15 12 2)) ∧
      (sliceOk s q = true → sliceLimits s (q / 4) ≠ 0 → ∃ t, exec i s = .next t ∧ t.fld rDkfStat 15 12 = 3 ∧ dkfPhase t = 0 ∧ t.fld rDkfCnt 31 16 = min (s.fld rDkfCnt 31 16 + 1) 65535 ∧
        t.rd ringNlog.head = s.rd ringNlog.head + 1 ∧ t.dark = s.dark) ∧
      (sliceOk s q = true → sliceLimits s (q / 4) = 0 → ∃ t, exec i s = .next t ∧ dkfPhase t = 1 ∧ t.fld rDkfStat 15 12 = 1 ∧ t.fld rDkfStat 30 22 = q ∧ t.dark.slice = some q ∧
        t.dark.held = quadCores q ∧ t.dark.fails = [] ∧ t = { s with regs := t.regs, dark := t.dark })) ∧
    (dkfPhase s = 1 → exec .sliceSaveDone s = .next (setDkfPhase 2 (forEach s.dark.tested saveCore s)) ∧ ∃ t, exec .sliceSaveDone s = .next t ∧ dkfPhase t = 2) ∧
    (∀ ran, dkfPhase s = 2 → exec (.slicePatternsDone ran) s = .next (forEach s.dark.tested (judge (ran.map (fun p => (p.1.val, p.2)))) (setDkfPhase 3 s))) ∧
    (∀ ran, dkfPhase s = 2 → (∀ c ∈ s.dark.tested, c < 80640 ∧ signature (tget ([], false) (ran.map (fun p => (p.1.val, p.2))) c).1 (tget ([], false) (ran.map (fun p => (p.1.val, p.2))) c).2 = goldOf s (goldMask s c)) →
      ∃ t, exec (.slicePatternsDone ran) s = .next t ∧ dkfPhase t = 3 ∧
        (∀ c ∈ s.dark.tested, t.flag (fieldBase (fieldOf c) + 0x800 + 8 * (coreIdx c / 64)) (coreIdx c % 64) = false) ∧ t = { s with regs := t.regs }) ∧
    (∀ ran c, Judged ran c s) ∧ (∀ ds, Signed ds) ∧
    (dkfPhase s = 3 → (∀ c ∈ s.dark.tested ++ s.dark.held, c < 80640) → ∃ t, exec .sliceRestoreDone s = .next t ∧ dkfPhase t = 0 ∧ t.dark.slice = none ∧ t.dark.held = [] ∧
      t.fld rDkfStat 15 12 = (if s.dark.ending = 4 then 4 else if s.dark.fails = [] then 0 else 6)) ∧
    (dkfPhase s ≠ 1 → exec .sliceSaveDone s = .next s) ∧ (dkfPhase s ≠ 2 → ∀ failing, exec (.slicePatternsDone failing) s = .next s) ∧ (dkfPhase s ≠ 3 → exec .sliceRestoreDone s = .next s) ∧
    (∀ q, s.dark.slice = some q → dkfPhase s = 1 ∨ dkfPhase s = 2 → ∃ t, exec .sliceCancel s = .next t ∧ dkfPhase t = 3 ∧ t.dark = { s.dark with ending := 4 } ∧ t = { s with regs := t.regs, dark := t.dark }) ∧
    (s.dark.slice = none ∨ (dkfPhase s ≠ 1 ∧ dkfPhase s ≠ 2) → exec .sliceCancel s = .next s)

/-- Fuses: FUSE with a valid record, an idle module and a free extension record begins, else is refused; a readback that agrees ends it OK with the record stored, an event, and the core that a record of kind 1 or 2 names disabled; one that does not ends FAILED (R697, R718, R719). -/
def Fuses : Prop :=
  ∀ (s : State),
    (fuseOk s = true → ∃ t, exec .fuse s = .next t ∧ dkfPhase t = 5 ∧ t.fld rDkfStat 15 12 = 1 ∧ t.dark.fuse = some (BitVec.ofNat 32 (s.fld 0xA020 31 0)) ∧ t = { s with regs := t.regs, dark := t.dark }) ∧
    (fuseOk s = false → exec .fuse s = .next (s.setFld rDkfStat 15 12 2)) ∧
    (∀ readback, s.dark.fuse = none → exec (.fuseDone readback) s = .next s) ∧
    (∀ r j, s.dark.fuse = some r → nextRecord s = some j →
      (∃ t, exec (.fuseDone r) s = .next t ∧ dkfPhase t = 0 ∧ t.fld rDkfStat 15 12 = 0 ∧ t.dark.fuse = none ∧ extRecord t j = r.toNat ∧ t.rd ringNlog.head = s.rd ringNlog.head + 1 ∧
        ((nbits r.toNat 31 29 = 1 ∨ nbits r.toNat 31 29 = 2) → nbits r.toNat 28 12 < 80640 → coreDisabled t (nbits r.toNat 28 12) = true ∧ coreSt t (nbits r.toNat 28 12) = 0)) ∧
      (∀ readback, readback ≠ r → ∃ t, exec (.fuseDone readback) s = .next t ∧ dkfPhase t = 0 ∧ t.fld rDkfStat 15 12 = 6 ∧ t.dark.fuse = none ∧ extRecord t j = readback.toNat))

/-- The Chronograph's two conditions: a stall of the open record beyond SLACK µs makes it LATE once and shows the stall, with event 0x1303, and 0xFFFF disables that; a duration that saturates marks the open record once, with event 0x1306; without an open record, or a second time, neither does anything (R736, R737). -/
def ChronographMarks : Prop :=
  ∀ (s : State),
    (∀ (f : FieldId) (stall : Nat), (s.chrOf f.val).isOpen = true → (s.chrOf f.val).late = false → s.fld (rChrSlack f.val) 15 0 ≠ 0xFFFF → s.fld (rChrSlack f.val) 15 0 * 11000 < stall * 160 →
      ∃ t, exec (.stallExceededSlack f stall) s = .next t ∧ (t.chrOf f.val).late = true ∧ (t.chrOf f.val).isOpen = true ∧ t.fld (rChrNow f.val) 63 32 = stall % 2 ^ 32 ∧ Logged 1 s t ∧
        (∀ u, u ≠ f.val → t.chrOf u = s.chrOf u) ∧ t.cores = s.cores) ∧
    (∀ (f : FieldId) (stall : Nat), (s.chrOf f.val).isOpen = false ∨ (s.chrOf f.val).late = true ∨ s.fld (rChrSlack f.val) 15 0 = 0xFFFF ∨ stall * 160 ≤ s.fld (rChrSlack f.val) 15 0 * 11000 →
      exec (.stallExceededSlack f stall) s = .next s) ∧
    (∀ u w, (s.chrOf u).isOpen = true → (s.chrOf u).satWord = none → ∃ t, exec (.durationSaturated u w) s = .next t ∧ t.chrOf u = { s.chrOf u with satWord := some w } ∧
      Logged 1 s t ∧ (∀ v, v ≠ u → t.chrOf v = s.chrOf v) ∧ t.cores = s.cores) ∧
    (∀ u w, (s.chrOf u).isOpen = false ∨ (s.chrOf u).satWord ≠ none → exec (.durationSaturated u w) s = .next s)

end Sys2Proof.Claims

namespace Sys2Proof.Claims

/-- A command of a launch ring with its OP (R769). -/
def RingCommand (i : Instr) (ring op : Nat) : Prop :=
  (i = .lrNop ring ∧ op = 0) ∨ (i = .launch ring ∧ op = 1) ∨ (i = .abandon ring ∧ op = 2) ∨ (i = .lrArm ring ∧ op = 3) ∨ (i = .lrPlan ring ∧ op = 4) ∨ ((∃ x, i = .load ring x) ∧ op = 5) ∨
    (i = .fstart ring ∧ op = 6) ∨ (i = .quiesce ring ∧ op = 7) ∨ (i = .lrWrite ring ∧ op = 8)

/-- The state as a command acts on it: CONS has moved on and the command is taken (R766). -/
def issued (ring : Nat) (s : State) : State := (s.setFld (rLrStat ring) 31 0 (lrCons s ring + 1)).modHost (fun h => { h with cmds := terase h.cmds ring })

/-- What a command of a ring answers: its status and the state (R769, R770). -/
def lrEffect (op ring : Nat) (k : LrCmd) (t : State) : Nat × State :=
  if op = 3 then (if limbOn t (bits (lrW k 1) 42 40) then (0, armChan (bits (lrW k 1) 42 40) (bits (lrW k 1) 11 0) (bits (lrW k 1) 63 48) ring t) else (1, t))
  else if op = 4 then (if limbOn t (bits (lrW k 1) 42 40) then (0, mrdCmdWrite (bits (lrW k 1) 42 40) ring (lrW k 1) t) else (1, t))
  else if op = 6 then doFstart (bit (lrW k 1) 7) (bits (lrW k 1) 6 0) t
  else if op = 7 then (0, doQuiesce (bit (lrW k 1) 7) (bits (lrW k 1) 6 0) t)
  else if op = 8 then (if roWindow (bits (lrW k 1) 27 3 * 8) then (1, t) else (0, barWrite (bits (lrW k 1) 27 3 * 8) (lrW k 2) t))
  else if op = 2 then (0, abandon t)
  else (0, t)

/-- Rings: a doorbell stores PROD of a ring while the host is up and the Dome not TRIPPED; enabling a ring clears PROD, CONS and its error; a command is fetched from the slot of CONS and checked; an overrun stops the ring with cause 1 and a failed fetch with cause 2, each with one deferred error 0x0603 (R763, R765 to R768). -/
def LaunchRings : Prop :=
  ∀ (ring : Nat) (s : State),
    (∀ prod : Half, (ring < 64 → hostUp s = true → domeState s ≠ 3 → exec (.doorbell ring prod) s = .next (s.setFld (rLrStat ring) 63 32 prod.toNat)) ∧
      (64 ≤ ring ∨ hostUp s = false ∨ domeState s = 3 → exec (.doorbell ring prod) s = .next s)) ∧
    (ring < 64 → hostUp s = true → writable s (rLrCtl ring) = true → s.flag (rLrCtl ring) 63 = false → ∃ t, exec (.launchRingEnable ring) s = .next t ∧ t.flag (rLrCtl ring) 63 = true ∧
      lrProd t ring = 0 ∧ lrCons t ring = 0 ∧ t.rd (rLrErr ring) = 0 ∧ (∀ off, off ≠ rLrCtl ring → off ≠ rLrStat ring → off ≠ rLrErr ring → t.rd off = s.rd off)) ∧
    (64 ≤ ring ∨ hostUp s = false ∨ writable s (rLrCtl ring) = false → exec (.launchRingEnable ring) s = .next s) ∧
    (lrRuns s ring = false ∨ hostUp s = false ∨ lrProd s ring = lrCons s ring → ∀ ws, exec (.commandFetch ring ws) s = .next s) ∧
    (lrRuns s ring = true → hostUp s = true → lrProd s ring ≠ lrCons s ring → tfind s.host.cmds ring = none →
      (lrEntries s ring < (lrProd s ring + 2 ^ 32 - lrCons s ring) % 2 ^ 32 → ∀ ws, ∃ t, exec (.commandFetch ring ws) s = .next t ∧ t.flag (rLrErr ring) 63 = true ∧
        t.fld (rLrErr ring) 55 48 = 1 ∧ lrCons t ring = lrCons s ring ∧ t.out = s.out) ∧
      ((lrProd s ring + 2 ^ 32 - lrCons s ring) % 2 ^ 32 ≤ lrEntries s ring → ∃ tag,
        (∃ t, exec (.commandFetch ring none) s = .next t ∧ t.flag (rLrErr ring) 63 = true ∧ t.fld (rLrErr ring) 55 48 = 2 ∧ lrCons t ring = lrCons s ring ∧
          t.out = .hostRead (s.fld (rLrBase ring) 63 12 * 4096 + 64 * (lrCons s ring % lrEntries s ring)) 64 tag false :: s.out) ∧
        (∀ ws, ∃ t k, exec (.commandFetch ring (some ws)) s = .next t ∧ tfind t.host.cmds ring = some k ∧ k.words = nWords 8 (checkEntry (lrRules (wordsN (padWords 8 ws))) (wordsN (padWords 8 ws))).1 ∧
          lrCons t ring = lrCons s ring ∧ t.out = .hostRead (s.fld (rLrBase ring) 63 12 * 4096 + 64 * (lrCons s ring % lrEntries s ring)) 64 tag false :: s.out)))

/-- A ring's fetched command is issued by its own OP: CONS moves on, the command acts, and its record is posted with CQ or a status that is not OK; a command that is not there does nothing, and a command that reads through the mesh waits for what it reads (R596, R769, R770, R777). -/
def RingCommands : Prop :=
  ∀ (i : Instr) (ring op : Nat) (s : State), RingCommand i ring op →
    (lrReady s ring op = none → exec i s = .next s) ∧
    (∀ k, lrReady s ring op = some k →
      (op ≠ 1 → op ≠ 5 → ∀ t, t = lrRecord ring (lrCq s ring) (lrEffect op ring k (issued ring s)).1 k (lrCons s ring) k.report k.nclamp (sidereal s) (lrEffect op ring k (issued ring s)).2 →
        exec i s = .next (if op = 4 ∨ op = 8 then withReads (fun _ => t) s else t)) ∧
      (op = 5 → ∀ x, i = .load ring x → ∃ report n, exec i s = .next (withReads (fun _ => lrRecord ring (lrCq s ring) (doLoad (lrW k 1) (lrW k 2) (lrW k 3) x (issued ring s)).1 k (lrCons s ring) report n (sidereal s)
        (doLoad (lrW k 1) (lrW k 2) (lrW k 3) x (issued ring s)).2) s)) ∧
      (op = 0 → ∃ t, exec i s = .next t ∧ lrCons t ring = (lrCons s ring + 1) % 2 ^ 32 ∧ tfind t.host.cmds ring = none ∧
        t.rd (ringCq s (lrCq s ring)).head = s.rd (ringCq s (lrCq s ring)).head + (if bit (lrW k 0) 55 then 1 else 0) ∧ t.mem = s.mem ∧ t.cores = s.cores) ∧
      (op = 2 → ∃ t, exec i s = .next t ∧ launched t = false ∧ (∀ f < 84, (t.chrOf f).isOpen = false) ∧ (t.chrOf chrMod).isOpen = false ∧ lrCons t ring = (lrCons s ring + 1) % 2 ^ 32 ∧
        t.mem = s.mem ∧ t.cores = s.cores))

/-- LAUNCH of the current step at service level 2 or above: the step is launched, ATTEMPTS counted, the samples taken, every powered limb's sweep waits, every field with a mapped core opens its record, and its cores take the step counter; a wrong step or level is refused with a record, and a plate's SNAP is waited out; field starts and quiesces say in FLD_STAT what became of them (R276, R532, R573, R578, R733, R771 to R775). -/
def Launches : Prop :=
  ∀ (ring : Nat) (s : State),
    (∀ k, lrReady s ring 1 = some k → launchStatus (lrW k 1) s = 0 → pltPhase s ≠ 1 → ∃ t, exec (.launch ring) s = .next t ∧ launched t = true ∧ outcome t = 0 ∧ attempts t = launchAttempts s % 256 ∧
      lrCons t ring = (lrCons s ring + 1) % 2 ^ 32 ∧ t.samp = launchSamples s ∧ (∀ l < 8, sweepOf t l = if limbOn s l then 1 else 0) ∧
      (∀ f < 84, hasMapped s f = true → (t.chrOf f).isOpen = true ∧ (t.chrOf f).step = stepCnt s ∧ ∀ c ∈ mappedOf s f, t.rd (rCoreStep c) = stepCnt s)) ∧
    (∀ k, lrReady s ring 1 = some k → launchStatus (lrW k 1) s = 0 → pltPhase s = 1 → exec (.launch ring) s = .next s) ∧
    (∀ k, lrReady s ring 1 = some k → launchStatus (lrW k 1) s ≠ 0 → ∃ t, exec (.launch ring) s = .next t ∧ launched t = launched s ∧ t.samp = s.samp ∧ lrCons t ring = (lrCons s ring + 1) % 2 ^ 32 ∧
      t.rd (ringCq s (lrCq s ring)).head = s.rd (ringCq s (lrCq s ring)).head + 1 ∧ t.mem = s.mem ∧ t.cores = s.cores) ∧
    (∀ f : FieldId, (startOk s f.val = true → exec (.fieldStart f) s = .next (fieldGo f.val s)) ∧ (startOk s f.val = false → exec (.fieldStart f) s = .next (s.setFld (rFldStat f.val) 15 8 2)) ∧
      (∃ t, exec (.fieldQuiesce f) s = .next t ∧ t.fld (rFldStat f.val) 15 8 = 3 ∧ t = (quiesceField f.val s).setFld (rFldStat f.val) 15 8 3))

/-- The access codes of a register without an effect of its own: RW and RWS fields take what is written, RO, RC and WO fields keep theirs, a 1 clears a bit of a W1C field and sets one of a W1S field; a read returns every field but WO ones, 0 elsewhere, and a field that clears on read then holds its reset value (R17, R18, R20). -/
def AccessCodes : Prop :=
  ∀ (off : Nat) (v : Word) (s : State) (f : RField), f ∈ regFields off →
    (f.acc = .rw ∨ f.acc = .rws → (plainWrite s off v).fld off f.hi f.lo = bits v f.hi f.lo) ∧
    (f.acc = .ro ∨ f.acc = .rc ∨ f.acc = .wo → (plainWrite s off v).fld off f.hi f.lo = s.fld off f.hi f.lo) ∧
    (∀ i, f.lo ≤ i → i ≤ f.hi → (f.acc = .w1c → (plainWrite s off v).flag off i = (s.flag off i && !bit v i)) ∧ (f.acc = .w1s → (plainWrite s off v).flag off i = (s.flag off i || bit v i))) ∧
    (∀ o, o ≠ off → (plainWrite s off v).rd o = s.rd o) ∧
    (f.acc ≠ .wo → bits (readValue s off) f.hi f.lo = s.fld off f.hi f.lo) ∧ (∀ i < 64, (∀ g ∈ regFields off, g.acc = .wo ∨ i < g.lo ∨ g.hi < i) → bit (readValue s off) i = false) ∧
    (f.acc = .rc → (readClear off 63 0 s).fld off f.hi f.lo = f.reset off % 2 ^ (f.hi + 1 - f.lo)) ∧ (f.acc ≠ .rc → (readClear off 63 0 s).fld off f.hi f.lo = s.fld off f.hi f.lo)

/-- BAR0: a 64-bit write of a register that decodes has the register's effect; one to a read-only window counts WINDROP, and one to a block that is off is ignored; a 64-bit read answers the register's value and has its read effect, and all ones where the block is off; a 32-bit write keeps the other half and a 32-bit read answers one half; another size, or a misaligned one, is dropped. With the link down nothing is seen; in D3hot a read is an Unsupported Request (R17, R20, R751, R755, R758). -/
def RegisterAccess : Prop :=
  ∀ (off : Nat) (v : Word) (s : State), off < 2 ^ 28 →
    (s.host.linkUp = false → exec (.registerWrite off v) s = .next s ∧ exec (.registerRcRead off) s = .next s ∧ ∀ w n, exec (.bar0Access w off n v) s = .next s) ∧
    (s.host.linkUp = true → s.host.d3hot = true → exec (.registerWrite off v) s = .next s ∧ exec (.registerRcRead off) s = .next { s with out := .readDone 1 [] :: s.out }) ∧
    (hostUp s = true → off % 8 = 0 → ∀ i ∈ [Instr.registerWrite off v, Instr.bar0Access true off 8 v],
      (writable s off = true → roWindow off = false → exec i s = .next (withReads (regWrite off v) s)) ∧ (writable s off = true → roWindow off = true → exec i s = .next (s.satFld rHostStat 15 0 1)) ∧
      (writable s off = false → exec i s = .next s)) ∧
    (hostUp s = true → off % 8 = 0 → ∀ i ∈ [Instr.registerRcRead off, Instr.bar0Access false off 8 v],
      (decodes s off = true → exec i s = .next { readClear off 63 0 s with out := .readDone 0 (leBytes 8 (regRead s off).toNat) :: s.out }) ∧
      (decodes s off = false → ∃ t, exec i s = .next t ∧ t.out = .readDone 0 (List.replicate 8 0xFF) :: s.out ∧ t.fld rHostStat 31 16 = min (s.fld rHostStat 31 16 + 1) 65535)) ∧
    (hostUp s = true → off % 4 = 0 → exec (.bar0Access true off 4 v) s = .next (withReads (barWrite (off / 8 * 8) (mergeHalf s off (bits v 31 0))) s)) ∧
    (hostUp s = true → off % 4 = 0 → decodes s off = true → exec (.bar0Access false off 4 v) s =
      .next { readClear (off / 8 * 8) (8 * (off % 8) + 31) (8 * (off % 8)) s with out := .readDone 0 (((leBytes 8 (regRead s (off / 8 * 8)).toNat).drop (off % 8)).take 4) :: s.out }) ∧
    (hostUp s = true → ∀ n, ¬(n = 8 ∧ off % 8 = 0) → ¬(n = 4 ∧ off % 4 = 0) → exec (.bar0Access true off n v) s = .next (if writable s off then s.satFld rHostStat 15 0 1 else s))

/-- BAR2 through a valid page entry: a store-range read answers its bytes, with poison as an error, a write stores them or is counted with the deferred error 0x0601, and a granule without a home is a Completer Abort; a core or a field store is asked by a packet; host-window and reserved addresses are Unsupported Requests; with no entry, before boot stage 5 or in D3hot too; a read that stays unanswered is a Completer Abort with the deferred error 0x0602. The MSI-X table takes 32-bit writes (R364, R755, R759 to R761, R764). -/
def WindowAccess : Prop :=
  ∀ (off len : Nat) (data : List Byte) (s : State), off < 2 ^ 36 → 0 < len → len ≤ 4096 → data.length = len →
    (∀ w, s.host.linkUp = false → exec (.bar2Access w off len data) s = .next s) ∧
    (∀ w, s.host.linkUp = true → s.host.d3hot = true ∨ bootStage s < 5 → exec (.bar2Access w off len data) s = .next (noData w 1 s)) ∧
    (hostUp s = true → 5 ≤ bootStage s →
      (∀ w, s.flag (0x880 + 8 * (off / 2 ^ 32)) 63 = false → exec (.bar2Access w off len data) s = .next (noData w 1 (bar2Err s))) ∧
      (s.flag (0x880 + 8 * (off / 2 ^ 32)) 63 = true → domeState s = 3 → ∀ w, exec (.bar2Access w off len data) s = .next (noData w 2 s)) ∧
      (s.flag (0x880 + 8 * (off / 2 ^ 32)) 63 = true → domeState s ≠ 3 → ∀ addr, addr = s.fld (0x880 + 8 * (off / 2 ^ 32)) 47 32 * 2 ^ 32 + off % 2 ^ 32 →
        (∀ a, placeOf addr = .store a → homeLimb s (a / granule) ≠ none →
          exec (.bar2Access false off len data) s = .next { s with out := .readDone (if storePoison s a len then 3 else 0) (rangeBytes s a len) :: s.out } ∧
          ((writeBytes false a data s).1 = true → exec (.bar2Access true off len data) s = .next (writeBytes false a data s).2) ∧
          ((writeBytes false a data s).1 = false → exec (.bar2Access true off len data) s = .next (raise (domLimb (hostLimb s)) 1 10 0x0601 (wd addr) (bar2Err (writeBytes false a data s).2)))) ∧
        (∀ a, placeOf addr = .store a → homeLimb s (a / granule) = none → ∀ w, exec (.bar2Access w off len data) s = .next (noData w 2 (bar2Err s))) ∧
        (∀ c a, placeOf addr = .core c a → exec (.bar2Access false off len data) s = .next (waferRead 0 off a (coreX c) (coreY c) len s) ∧
          exec (.bar2Access true off len data) s = .next (coreAsk 0 addr c a data s)) ∧
        (∀ f a, placeOf addr = .fs f a → exec (.bar2Access false off len data) s = .next (waferRead 0 off a 0x1FF f len s) ∧ exec (.bar2Access true off len data) s = .next (storeAsk 0 addr f a data s)) ∧
        (∀ a, placeOf addr = .host a → ∀ w, exec (.bar2Access w off len data) s = .next (noData w 1 s)) ∧
        (placeOf addr = .reserved → ∀ w, exec (.bar2Access w off len data) s = .next (noData w 1 (addrError (hostLimb s) addr s))))) ∧
    (∀ n q, s.reqs = [(n, q)] → q.who = 0 → q.write = false → q.off = off → ∃ u, exec (.barReadTimeout 2 off) s = .next (raise (domLimb (hostLimb s)) 1 10 0x0602 (wd (2 * 2 ^ 62 + off)) u) ∧
      u.reqs = [] ∧ u.fld rHostStat 47 32 = min (s.fld rHostStat 47 32 + 1) 65535 ∧ u.out = .readDone 2 [] :: s.out) ∧
    (∀ b, s.reqs = [] ∨ b ≠ 2 → exec (.barReadTimeout b off) s = .next s) ∧
    (∀ (o : Nat) (x : Half), (o % 4 = 0 → o < 0x8000 → ∃ t, exec (.msixTableWrite o x) s = .next t ∧
        msixWord t (o / 4) = (if o / 4 % 4 = 3 then x &&& 1 else if o / 4 % 4 = 0 then x &&& 0xFFFFFFFC else x) ∧ (∀ j, j ≠ o / 4 → msixWord t j = msixWord s j) ∧ t.regs = s.regs) ∧
      (o % 4 ≠ 0 ∨ 0x8000 ≤ o → exec (.msixTableWrite o x) s = .next s) ∧
      (o = 16 * 5 + 12 → x = 0 → s.host.pba = [5] → hostUp s = true → ∃ t, exec (.msixTableWrite o x) s = .next t ∧ t.host.pba = [] ∧ t.out = .msix 5 :: s.out))

end Sys2Proof.Claims

namespace Sys2Proof.Claims

/-- Boot stages: 0 measures the ROM and the fuses into MR0, 1 takes the preferred-bank flag, 2 tries the Dome's three tables and goes on, with the Dome in STATE 1, only with all of them, 3 tries the firmware, 4 waits for the Dome to RUN and then ends boot with ACTIVE; from 5 on nothing happens. BRINGUP runs its sequences from boot stage 4 on, and without firmware leaves the limbs' PHY domains FAILED (R662, R795, R796, R799, R808). -/
def BootStages : Prop :=
  ∀ s : State,
    (bootStage s = 0 → ∃ t, exec .bootStageDone s = .next t ∧ bootStage t = 1 ∧ mrBytes t 0 = sha384 (sha384 (mrBytes s 0 ++ Config.romDigest) ++ sha384 (fuseBlock s)) ∧ t = { s with regs := t.regs }) ∧
    (bootStage s = 1 → ∃ t, exec .bootStageDone s = .next t ∧ bootStage t = 2 ∧ t.flag rBoot 23 = prefFlag s ∧ t = { s with regs := t.regs }) ∧
    (bootStage s = 2 → (∀ k ∈ [1, 2, 3], k ∈ s.boot.tried) → exec .bootStageDone s = .next s) ∧
    (bootStage s = 2 → (∃ k ∈ [1, 2, 3], k ∉ s.boot.tried) → ∃ t, exec .bootStageDone s = .next t ∧ (∀ k ∈ [1, 2, 3], k ∈ t.boot.tried) ∧
      (if [1, 2, 3].all (tookKind t) then bootStage t = 3 ∧ domeState t = 1 else bootStage t = 2)) ∧
    (bootStage s = 3 → ∃ t, exec .bootStageDone s = .next t ∧ bootStage t = 4 ∧ 0 ∈ t.boot.tried) ∧
    (bootStage s = 4 → domeState s ≠ 2 → exec .bootStageDone s = .next s) ∧
    (bootStage s = 4 → domeState s = 2 → ∃ t, exec .bootStageDone s = .next t ∧ bootStage t = 5 ∧ t.fld rModHome 47 40 = bootActive t ∧ ∀ k ∈ [4, 5, 6], k ∈ t.boot.tried) ∧
    (5 ≤ bootStage s → exec .bootStageDone s = .next s) ∧
    (domeState s ≠ 1 ∨ bootStage s < 4 → exec .bringup s = .next s) ∧
    (domeState s = 1 → 4 ≤ bootStage s → (∀ j ∈ s.pwr.jobs, j.chain = false) →
      (tookKind s 0 = true → exec .bringup s = .next (addJobs jobsBringup s)) ∧
      (tookKind s 0 = false → ∃ u, exec .bringup s = .next (addJobs (jobsBringup.map (fun j => { j with steps := j.steps.filter (fun p => !(p.op == 2 && phyDomain p.tgt)) })) u) ∧
        (∀ d, phyDomain d = true → domSt u d = 3) ∧ (∀ d, phyDomain d = false → domSt u d = domSt s d) ∧ u = { s with regs := u.regs }))

/-- A boot command with its code in BOOT_STAT.CMD (R822, R825). -/
def BootCommand (i : Instr) (cmd : Nat) : Prop :=
  (i = .extend ∧ cmd = 1) ∨ (i = .quote ∧ cmd = 2) ∨ (i = .getcert ∧ cmd = 3) ∨ (i = .bootChal ∧ cmd = 4) ∨ (i = .unlock ∧ cmd = 5) ∨ (i = .relock ∧ cmd = 6) ∨ (i = .flash ∧ cmd = 7) ∨
    (i = .select ∧ cmd = 8) ∨ (i = .rollfwd ∧ cmd = 9)

/-- A boot command while another runs is counted and dropped; otherwise BUSY and CMD stand, its operands are taken, and a quote captures its registers at once unless a plate has the signer (R813, R814, R822). -/
def BootCommandBegins : Prop :=
  ∀ (i : Instr) (cmd : Nat) (s : State), BootCommand i cmd →
    (bootBusy s = true → exec i s = .next (s.satFld rBoot 20 16 1)) ∧
    (bootBusy s = false → ∃ t, exec i s = .next t ∧ bootBusy t = true ∧ t.fld rBoot 11 8 = cmd ∧ t.boot.arg = s.rd 0xF010 ∧ t.boot.arg2 = s.rd 0xF018 ∧ t.boot.data = mailbox s 1024 ∧
      t.boot.quoteWait = (cmd == 2 && plateSigns s) ∧ (cmd = 2 → plateSigns s = false → t.boot.quote = quoteBody t (bits t.boot.arg 7 0) (t.boot.data.take 48)) ∧
      (∀ off, off ≠ rBoot → t.rd off = s.rd off) ∧ t = { s with regs := t.regs, boot := t.boot })

/-- From s to t the boot command in progress has ended with a status. -/
def Ended (status : Nat) (s t : State) : Prop := exec (.bootCommandDone true) s = .next t ∧ bootBusy t = false ∧ t.fld rBoot 15 12 = status

/-- What the boot commands do when they complete: EXTEND extends its register and the log, or is refused for MR0 to MR5 and LOG_FULL at 32 entries; QUOTE and GETCERT put their bytes into the mailbox; CHAL, UNLOCK and RELOCK act on the debug port; FLASH and SELECT verify a bank; ROLLFWD raises FLOOR, and fuses that do not read back end it with 4 (R807, R810, R812, R813, R815, R818 to R822). -/
def BootCommandEnds : Prop :=
  ∀ (s : State),
    (bootBusy s = false ∨ s.boot.quoteWait = true → ∀ b, exec (.bootCommandDone b) s = .next s) ∧
    (bootBusy s = true → s.boot.quoteWait = false →
      (∀ b, ∃ t, exec (.bootCommandDone b) s = .next t ∧ bootBusy t = false ∧ t.plate.signWait = false) ∧
      (s.fld rBoot 11 8 = 1 →
        (bits s.boot.arg 2 0 < 6 → ∃ t, Ended 1 s t ∧ ∀ i < 8, mrBytes t i = mrBytes s i) ∧
        (6 ≤ bits s.boot.arg 2 0 → logN s < 32 → ∃ t, Ended 0 s t ∧ mrBytes t (bits s.boot.arg 2 0) = sha384 (mrBytes s (bits s.boot.arg 2 0) ++ s.boot.data.take 48) ∧ logN t = logN s + 1) ∧
        (6 ≤ bits s.boot.arg 2 0 → 32 ≤ logN s → ∃ t, Ended 3 s t ∧ ∀ i < 8, mrBytes t i = mrBytes s i)) ∧
      (s.fld rBoot 11 8 = 2 → ∃ t, Ended 0 s t ∧ ∀ q, q = s.boot.quote ++ Config.ecdsaSign (hostLimb s == 4) s.boot.quote → mailbox t q.length = q) ∧
      (s.fld rBoot 11 8 = 3 → (bits s.boot.arg 1 0 = 3 → ∃ t, Ended 1 s t) ∧
        (bits s.boot.arg 1 0 ≠ 3 → ∀ c, c = (Config.certificate (if bits s.boot.arg 1 0 = 0 then hostLimb s else 9 + bits s.boot.arg 1 0)).take 1024 → ∃ t, Ended 0 s t ∧ mailbox t c.length = c ∧ t.rd 0xF018 = wd c.length)) ∧
      (s.fld rBoot 11 8 = 4 → (unlockBarred s = true → ∃ t, Ended 1 s t ∧ t.boot.nonce = s.boot.nonce) ∧ (unlockBarred s = false → ∃ t, Ended 0 s t ∧ t.boot.nonce = true)) ∧
      (s.fld rBoot 11 8 = 5 → unlockBarred s = true → ∃ t, Ended 1 s t ∧ t.flag rBoot 21 = s.flag rBoot 21 ∧ t.boot.nonce = s.boot.nonce) ∧
      (s.fld rBoot 11 8 = 5 → unlockBarred s = false →
        (tokenOk s (s.boot.data.take 144) = true → ∃ t, Ended 0 s t ∧ t.flag rBoot 21 = true ∧ t.flag rBoot 22 = true ∧ t.fld rBoot 25 24 = hfield (s.boot.data.take 144) 6 6 ∧ t.boot.nonce = false) ∧
        (tokenOk s (s.boot.data.take 144) = false → ∃ t, Ended 1 s t ∧ t.fld rBoot 63 56 = min (s.fld rBoot 63 56 + 1) 255 ∧ t.flag rBoot 21 = s.flag rBoot 21 ∧ t.boot.nonce = false)) ∧
      (s.fld rBoot 11 8 = 6 → ∃ t, Ended 0 s t ∧ t.flag rBoot 21 = false ∧ t.fld rBoot 25 24 = 0 ∧ t.rd ringNlog.head = s.rd ringNlog.head + 1) ∧
      (s.fld rBoot 11 8 = 7 → (bits s.boot.arg2 63 63 = prefBank s ∨ 2 ^ 44 < s.boot.arg.toNat + bits s.boot.arg2 25 0 → ∃ t, Ended 1 s t ∧ t.boot.flash = s.boot.flash) ∧
        (bits s.boot.arg2 63 63 ≠ prefBank s → s.boot.arg.toNat + bits s.boot.arg2 25 0 ≤ 2 ^ 44 → ∀ u v, u = writeFlash (bits s.boot.arg2 63 63) s.boot.arg.toNat (bits s.boot.arg2 25 0) s →
          v = verifyBank (bits s.boot.arg2 63 63) u → ∃ t, Ended (if v.1 then 0 else 2) s t ∧ t.boot.flash = u.boot.flash)) ∧
      (s.fld rBoot 11 8 = 8 → ∀ v, v = verifyBank (bits s.boot.arg 0 0) s → (v.1 = true → ∃ t, Ended 0 s t ∧ t.boot.pref = some (bits s.boot.arg 0 0 == 1)) ∧
        (v.1 = false → ∃ t, Ended 2 s t ∧ t.boot.pref = s.boot.pref)) ∧
      (s.fld rBoot 11 8 = 9 →
        ((64 < bits s.boot.arg 6 0 ∨ bits s.boot.arg 6 0 ≤ floorOf s ∨ (∃ p ∈ s.boot.taken, p.2.2 < bits s.boot.arg 6 0) ∨ launched s = true) → ∃ t, Ended 1 s t ∧ floorOf t = floorOf s) ∧
        (bits s.boot.arg 6 0 ≤ 64 → floorOf s < bits s.boot.arg 6 0 → (∀ p ∈ s.boot.taken, bits s.boot.arg 6 0 ≤ p.2.2) → launched s = false →
          (∃ t, Ended 0 s t ∧ floorOf t = bits s.boot.arg 6 0) ∧
          (∃ t, exec (.bootCommandDone false) s = .next t ∧ t.fld rBoot 15 12 = 4 ∧ floorOf s ≤ floorOf t ∧ floorOf t ≤ bits s.boot.arg 6 0))))

/-- A scan of the debug transport with its frame, the SCOPE bits of which one is enough, and what it does when it may (R857). -/
def Scan (i : Instr) (op tag addr len need : Nat) (act : State → State) : Prop :=
  (i = .xportRead tag addr len ∧ op = 1 ∧ need = 2 ∧ act = xpRead addr len) ∨ ((∃ d, i = .xportWrite tag addr len d ∧ act = xpWrite addr len d) ∧ op = 2 ∧ need = 2) ∨
  (i = .xportHalt tag addr ∧ op = 3 ∧ len = 0 ∧ need = 1 ∧ act = xpCore addr (fun c t => admitHeld c (haltCore c t))) ∨ (i = .xportStep tag addr ∧ op = 4 ∧ len = 0 ∧ need = 1 ∧ act = xpCore addr stepCore) ∨
  (i = .xportResume tag addr ∧ op = 5 ∧ len = 0 ∧ need = 1 ∧ act = xpCore addr (fun c t => admitHeld c (runCore c t))) ∨
  (i = .xportStatus tag addr ∧ op = 6 ∧ len = 0 ∧ need = 3 ∧ act = xpCore addr (fun c t => xpDone 0 (leBytes 8 (t.rd (rCoreStat c)).toNat) t))

end Sys2Proof.Claims

/-- The debug port: IDCODE and BYPASS shift out their values; CHAL shifts out a nonce, the old one after 16 failures; a token unlocks, or is counted with an event and an error; every XPORT scan shifts out the previous response, and its request is performed unless that one is still busy, the port is locked or the scope is short; a read of the store range answers its bytes (R815 to R818, R856, R857). -/
def Obligations.DebugPort : Prop :=
  ∀ (s : State),
    exec .idcode s = .next { s with out := .tdo (leBytes 4 (s.fld 0xF030 31 0)) :: s.out } ∧ exec .bypass s = .next { s with out := .tdo [0] :: s.out } ∧
    (∃ t, exec .tapChal s = .next t ∧ t.out = .tdo (nonceBytes t) :: s.out ∧ (unlockBarred s = true → t.regs = s.regs ∧ t.boot = s.boot) ∧ (unlockBarred s = false → t.boot.nonce = true)) ∧
    (∀ tok : List Byte, tok.length = 144 →
      (unlockBarred s = true → exec (.token tok) s = .next s) ∧
      (unlockBarred s = false → tokenOk s tok = true → ∃ t, exec (.token tok) s = .next t ∧ t.flag rBoot 21 = true ∧ t.flag rBoot 22 = true ∧ t.fld rBoot 25 24 = hfield tok 6 6 ∧ t.boot.nonce = false) ∧
      (unlockBarred s = false → tokenOk s tok = false → ∃ t, exec (.token tok) s = .next t ∧ t.fld rBoot 63 56 = min (s.fld rBoot 63 56 + 1) 255 ∧ t.flag rBoot 21 = s.flag rBoot 21 ∧ t.boot.nonce = false)) ∧
    (∀ i op tag addr len need act, Scan i op tag addr len need act →
      (tapOn s = false → exec i s = .next s) ∧
      (tapOn s = true → s.xp.busy = true → exec i s = .next { s with out := .tdo (xpFrame s.xp) :: s.out }) ∧
      (tapOn s = true → s.xp.busy = false →
        ∀ x : Xport, x = { Xport.reset with op := op, tag := tag % 65536, len := len % 256, addr := addr % 2 ^ 64 } →
          (s.flag rBoot 21 = false → exec i s = .next { s with out := .tdo (xpFrame s.xp) :: s.out, xp := { x with rstat := 1 } }) ∧
          (s.flag rBoot 21 = true → s.fld rBoot 25 24 &&& need = 0 → exec i s = .next { s with out := .tdo (xpFrame s.xp) :: s.out, xp := { x with rstat := 2 } }) ∧
          (s.flag rBoot 21 = true → s.fld rBoot 25 24 &&& need ≠ 0 → exec i s = .next (act { s with out := .tdo (xpFrame s.xp) :: s.out, xp := { x with rstat := 0 } })))) ∧
    (∀ (tag addr len a : Nat), tapOn s = true → s.xp.busy = false → s.flag rBoot 21 = true → s.flag rBoot 25 = true → len = 8 ∨ len = 16 ∨ len = 32 ∨ len = 64 → addr % len = 0 → addr < 2 ^ 48 → placeOf addr = .store a →
      storePoison s a len = false → homeLimb s (a / granule) ≠ none → ∃ t, exec (.xportRead tag addr len) s = .next t ∧ t.xp.rstat = 0 ∧ t.xp.busy = false ∧ t.xp.data = rangeBytes s a len ∧ t.mem = s.mem ∧ t.regs = s.regs)


/-- What reset leaves: no command waits, every register but the host limb's power register holds its reset value, that limb's logic, bridge and PCIe domains are ON, every core stands in STATE 0 at PC 0, no error domain holds a record, the store range reads zero, and boot, the step and the counters have not begun (R16, R17, R51, R370, R661). -/
def Obligations.ResetValues : Prop :=
  State.reset.pending = [] ∧ (∀ off, off ≠ 0x106000 → State.reset.rd off = resetValue off) ∧ (domSt State.reset 252 = 2 ∧ domSt State.reset 284 = 2 ∧ domSt State.reset 292 = 2) ∧
  (∀ c : CoreId, coreSt State.reset c.val = 0 ∧ corePc State.reset c.val = 0 ∧ State.reset.core c.val = Core.reset) ∧ (∀ d, record d false State.reset = [0, 0, 0, 0] ∧ record d true State.reset = [0, 0, 0, 0] ∧ domState State.reset d = 0) ∧
  (∀ a, memByte State.reset a = 0) ∧ bootStage State.reset = 0 ∧ domeState State.reset = 0 ∧ launched State.reset = false ∧ stepCnt State.reset = 0 ∧ sidereal State.reset = 0 ∧
  State.reset.fld 0x5000 15 0 = 0xFFFF ∧ State.reset.fld 0x2000 17 16 = 1 ∧ State.reset.fld 0x6028 63 32 = 0x3F800000 ∧ State.reset.fld 0x7000 63 48 = 100 ∧ State.reset.fld rModHome 7 0 = 0xFF ∧ State.reset.fld 0x808 15 0 = 500

/-! ### Claims joined -/

/-- Scalar register and immediate instructions that execute write their result to sd, and nothing else of the state changes but the PC (R138, R139, R142). -/
def Obligations.ScalarResults : Prop := Claims.IntegerScalarResult ∧ Claims.ImmediateScalarResult

/-- Scalar loads and stores in range and aligned: the register or the bytes written, and everything else as before but the PC (R143, R144). -/
def Obligations.ScalarMemory : Prop := Claims.LoadResult ∧ Claims.StoreResult

/-- The system class: NOP, SYS.RD, SYS.WR and the fences, STOP and BRK (R120, R148, R149). -/
def Obligations.SystemResults : Prop := Claims.SystemInstructions ∧ Claims.StopAndBreakHalt

/-- Vector sums, moves and compares: the register that each writes, and nothing else but the PC. -/
def Obligations.VectorResults : Prop := Claims.VectorSumResult ∧ Claims.VectorMoveResult ∧ Claims.VectorCompareResult

/-- Vector loads and stores, element by element: the register or the bytes written, and everything else as before but the PC. -/
def Obligations.VectorMemory : Prop := Claims.VectorLoadResult ∧ Claims.VectorStoreResult

/-- The array runs its queue's head: what each tensor instruction does when it starts and when it is done, and the interlock with what it delivers (R168, R171, R177, R180 to R182, R184, R205, R221, R222, R225, R230 to R236, R250). -/
def Obligations.ArrayEngine : Prop := Claims.ArrayStartAndDone ∧ Claims.ArrayWork ∧ Claims.Interlocks

/-- SEND and SEND.MC enter the send queue, and the local port reads one whose words are clean into its packets (R84, R134, R191 to R193, R197, R198, R201, R212, R315). -/
def Obligations.Sends : Prop := Claims.SendIssue ∧ Claims.SendReads

/-- Every command answers a next state and leaves the waiting commands; a step takes exactly the front one, and takes back nothing that has left the module. -/
def Obligations.QueueKept : Prop := Claims.ExecKeepsQueue ∧ Claims.StepConsumesQueue

/-- What a core does by itself: halts in progress, breakpoints, the watchdog, the wait limit and counter wraps (R57, R59, R108, R120, R126 to R128). -/
def Obligations.CoreHalts : Prop := Claims.HaltsTaken ∧ Claims.CoreLimits

/-- Escalations, corrected tallies, the end of a limb's hold, and the write-back of a corrected codeword (R73, R618, R624, R630). -/
def Obligations.ErrorReports : Prop := Claims.EscalationAndTally ∧ Claims.CorrectedWriteBack

/-- The record queues: what a new record does to a queue, and how the oldest reaches its host ring and signals (R635, R636, R637, R639, R741, R777, R784). -/
def Obligations.RecordQueues : Prop := Claims.RecordEntersQueue ∧ Claims.RecordsReachHost

/-- The endpoint: its link and PERST#, and the host's answers to the module's requests (R411, R412, R628, R751 to R753, R789, R790, R843 to R845). -/
def Obligations.Endpoint : Prop := Claims.EndpointLink ∧ Claims.HostAnswers

/-- The sidereal counter and its disciplines, and the marks of the Chronograph. -/
def Obligations.Timekeeping : Prop := Claims.SiderealCounter ∧ Claims.PulsePerSecond ∧ Claims.PrecisionTime ∧ Claims.ChronographMarks

/-- The Dome's requests and the steps of its sequences (R663, R666 to R668, R681, R682). -/
def Obligations.PowerSequences : Prop := Claims.DomeRequests ∧ Claims.SequenceSteps

/-- Operating points and temperatures: what each report of the rails, clocks and diodes changes. -/
def Obligations.OperatingConditions : Prop := Claims.OperatingPoints ∧ Claims.Temperatures

/-- A trip, the power inputs and the warning input. -/
def Obligations.TripsAndInputs : Prop := Claims.TripEffect ∧ Claims.InputPower ∧ Claims.WarningInput

/-- Packets that reach cores and field stores, and multicasts (R68, R78, R79, R97, R315 to R320, R336 to R344, R415, R458, R865). -/
def Obligations.MeshPackets : Prop := Claims.CorePackets ∧ Claims.FieldStoreWrite ∧ Claims.Multicasts

/-- Links: training, flits, replay and retraining, heartbeats, and the seam's halves (R311 to R314, R317, R345 to R351, R355 to R361). -/
def Obligations.Links : Prop := Claims.LinkLife ∧ Claims.Heartbeats ∧ Claims.SeamHalves

/-- Writes and reads of the store range (R363, R378 to R383, R401, R416, R417, R419). -/
def Obligations.StoreRange : Prop := Claims.StoreRangeWrite ∧ Claims.StoreRangeRead

/-- Staging slots, migrations, eviction and the migration commands (R380, R382, R384, R385, R387, R388, R390, R392, R399). -/
def Obligations.Pools : Prop := Claims.SlotsAndMigrations ∧ Claims.Eviction ∧ Claims.MigrationCommands

/-- The scrubber, HOME_APPLY and the host window (R363, R366, R368, R410, R411, R416 to R419). -/
def Obligations.HomesAndWindow : Prop := Claims.ScrubAndHome ∧ Claims.HostWindow

/-- Slew channels: arming, windows and the start queue. -/
def Obligations.SlewStarts : Prop := Claims.SlewArming ∧ Claims.SlewWindows

/-- Meridian frames as they arrive at a port, and packets as they leave (R464 to R469, R477, R479, R483, R523). -/
def Obligations.MeridianFrames : Prop := Claims.FramesReceived ∧ Claims.PacketsSent

/-- Flow, peer and port state, and a peer that is lost (R473, R474, R482, R484 to R486, R521, R523, R847). -/
def Obligations.MeridianTables : Prop := Claims.TablesAndPorts ∧ Claims.PeerLost

/-- Plan runs and the closes of the observation vectors (R291, R293, R488 to R490, R492 to R494, R512, R516, R518). -/
def Obligations.MeridianRuns : Prop := Claims.PlanRuns ∧ Claims.VectorCloses

/-- The outcome of a step and the directed slots (R282, R283, R551, R555, R559, R562 to R566). -/
def Obligations.UpdateDecision : Prop := Claims.StepOutcome ∧ Claims.DirectedSlots

/-- Sweeps, the control bank, COMMIT and INIT (R533 to R537, R549, R553, R555, R559, R566, R569, R570, R617). -/
def Obligations.UpdateSweeps : Prop := Claims.Sweeps ∧ Claims.CommitsAndBanks

/-- The Plate engine: how a plate and a command begin, a plate's phases, and the commands' effects (R584, R590 to R595, R598 to R600, R602, R605, R610, R611). -/
def Obligations.PlateEngine : Prop := Claims.PlateBegins ∧ Claims.PlatePhases ∧ Claims.PlateCommands

/-- Dark-frame test and repair: the neighbor test, slices and fuses (R697, R699 to R713, R718, R719). -/
def Obligations.DarkFrames : Prop := Claims.NeighborTest ∧ Claims.Slices ∧ Claims.Fuses

/-- Launch rings, their commands, and what a launch does (R276, R532, R573, R578, R596, R733, R763, R765 to R775, R777). -/
def Obligations.HostCommands : Prop := Claims.LaunchRings ∧ Claims.RingCommands ∧ Claims.Launches

/-- Register access codes, BAR0, BAR2 and the MSI-X table (R17, R18, R20, R364, R751, R755, R758 to R761, R764). -/
def Obligations.HostAccess : Prop := Claims.AccessCodes ∧ Claims.RegisterAccess ∧ Claims.WindowAccess

/-- Boot stages and boot commands (R662, R795, R796, R799, R807, R808, R810, R812 to R815, R818 to R822). -/
def Obligations.BootBlock : Prop := Claims.BootStages ∧ Claims.BootCommandBegins ∧ Claims.BootCommandEnds

/-- Warm reset by the command or by MOD_RESET with its key; without the key nothing (R16, R370, R635, R791). -/
def Obligations.WarmReset : Prop := Claims.WarmResets ∧ Claims.WarmResetKey
end

