-- ==== Sys2Proof/Laws/Bits.lean ====
section
/-! SUPPORT. Laws of bit fields: what a field reads as after it, or another, is set. -/

namespace Sys2Proof.Machine

theorem nbits_lt (n hi lo : Nat) : nbits n hi lo < 2 ^ (hi + 1 - lo) := Nat.mod_lt _ (Nat.two_pow_pos _)

theorem testBit_nbits (n hi lo j : Nat) : (nbits n hi lo).testBit j = (decide (j < hi + 1 - lo) && n.testBit (lo + j)) := by
  simp [nbits, Nat.testBit_mod_two_pow, Nat.testBit_shiftRight]

/-- The number whose bit i is bit i of n, of the field's value, or of n again, by where i lies. -/
theorem testBit_splice (w n hi lo i : Nat) (h : lo ≤ hi) :
    (((w >>> (hi + 1)) <<< (hi + 1)) + ((n % 2 ^ (hi + 1 - lo)) <<< lo) + w % 2 ^ lo).testBit i =
      (if i < lo then w.testBit i else if i ≤ hi then n.testBit (i - lo) else w.testBit i) := by
  have hl : w % 2 ^ lo < 2 ^ lo := Nat.mod_lt _ (Nat.two_pow_pos _)
  have hm : (n % 2 ^ (hi + 1 - lo)) <<< lo + w % 2 ^ lo < 2 ^ (hi + 1) := by
    have h1 : n % 2 ^ (hi + 1 - lo) + 1 ≤ 2 ^ (hi + 1 - lo) := Nat.mod_lt _ (Nat.two_pow_pos _)
    have h2 : (n % 2 ^ (hi + 1 - lo) + 1) * 2 ^ lo ≤ 2 ^ (hi + 1 - lo) * 2 ^ lo := Nat.mul_le_mul_right _ h1
    rw [← pow_add, show hi + 1 - lo + lo = hi + 1 by omega] at h2
    rw [Nat.shiftLeft_eq]
    nlinarith
  rw [Nat.add_assoc, Nat.shiftLeft_add_eq_or_of_lt hm, Nat.shiftLeft_add_eq_or_of_lt hl]
  simp only [Nat.testBit_or, Nat.testBit_shiftLeft, Nat.testBit_shiftRight, Nat.testBit_mod_two_pow]
  by_cases h1 : i < lo
  · simp [h1, show ¬ (i ≥ hi + 1) by omega, show ¬ (i ≥ lo) by omega]
  · by_cases h2 : i ≤ hi
    · simp [h1, h2, show ¬ (i ≥ hi + 1) by omega, show i ≥ lo by omega, show i - lo < hi + 1 - lo by omega]
    · simp [h1, h2, show i ≥ hi + 1 by omega, show i ≥ lo by omega, show ¬ (i - lo < hi + 1 - lo) by omega, show hi + 1 + (i - (hi + 1)) = i by omega]

/-- Bit i of a word whose field [hi:lo] was set to n. -/
theorem testBit_setBits (w : Word) (hi lo n i : Nat) (h : lo ≤ hi) (hi64 : hi < 64) :
    (setBits w hi lo n).toNat.testBit i =
      (if i < lo then w.toNat.testBit i else if i ≤ hi then n.testBit (i - lo) else w.toNat.testBit i) := by
  have hw : w.toNat < 2 ^ 64 := w.isLt
  rw [setBits, BitVec.toNat_ofNat, Nat.testBit_mod_two_pow, testBit_splice _ _ _ _ _ h]
  by_cases hi' : i < 64
  · simp [hi']
  · have : w.toNat.testBit i = false := Nat.testBit_lt_two_pow (lt_of_lt_of_le hw (Nat.pow_le_pow_right (by omega) (by omega)))
    simp [hi', this, show ¬ i < lo by omega, show ¬ i ≤ hi by omega]

/-- A field reads as it was set, cut to its width. -/
theorem bits_setBits_self (w : Word) (hi lo n : Nat) (h : lo ≤ hi) (h64 : hi < 64) : bits (setBits w hi lo n) hi lo = n % 2 ^ (hi + 1 - lo) := by
  apply Nat.eq_of_testBit_eq
  intro j
  rw [bits, testBit_nbits, testBit_setBits _ _ _ _ _ h h64, Nat.testBit_mod_two_pow]
  by_cases hj : j < hi + 1 - lo
  · simp [hj, show ¬ lo + j < lo by omega, show lo + j ≤ hi by omega]
  · simp [hj]

/-- A field that does not meet the one set reads as before. -/
theorem bits_setBits_ne (w : Word) (hi lo n a b : Nat) (h : lo ≤ hi) (h64 : hi < 64) (hd : a < lo ∨ hi < b) : bits (setBits w hi lo n) a b = bits w a b := by
  apply Nat.eq_of_testBit_eq
  intro j
  rw [bits, bits, testBit_nbits, testBit_nbits, testBit_setBits _ _ _ _ _ h h64]
  by_cases hj : j < a + 1 - b
  · rcases hd with hd | hd
    · simp [hj, show b + j < lo by omega]
    · simp [hj, show ¬ b + j < lo by omega, show ¬ b + j ≤ hi by omega]
  · simp [hj]

/-- A bit outside the field set reads as before. -/
theorem bit_setBits_ne (w : Word) (hi lo n i : Nat) (h : lo ≤ hi) (h64 : hi < 64) (hd : i < lo ∨ hi < i) : bit (setBits w hi lo n) i = bit w i := by
  rw [bit, bit, testBit_setBits _ _ _ _ _ h h64]
  rcases hd with hd | hd
  · simp [hd]
  · simp [show ¬ i < lo by omega, show ¬ i ≤ hi by omega]

/-- A bit of the field set is the value's bit. -/
theorem bit_setBits_mem (w : Word) (hi lo n i : Nat) (h64 : hi < 64) (hl : lo ≤ i) (hi' : i ≤ hi) : bit (setBits w hi lo n) i = n.testBit (i - lo) := by
  rw [bit, testBit_setBits _ _ _ _ _ (hl.trans hi') h64]
  simp [show ¬ i < lo by omega, hi']

end Sys2Proof.Machine
end

