-- ==== Sys2Proof/Laws/Tables.lean ====
section
/-! SUPPORT. Laws of tables by number: what a table holds after an update, and that every update keeps its canonical form. -/

namespace Sys2Proof.Machine

@[simp] theorem tfind_tset_self {α : Type} (t : Tab α) (i : Nat) (v : α) : tfind (tset t i v) i = some v := by
  induction t with
  | nil => simp [tset, tfind]
  | cons p r ih =>
    obtain ⟨k, w⟩ := p
    simp only [tset]
    split
    · simp [tfind]
    · split
      · simp [tfind]
      · rename_i h1 h2
        simp [tfind, h1, ih]

theorem tfind_tset_ne {α : Type} (t : Tab α) {i j : Nat} (v : α) (h : i ≠ j) : tfind (tset t i v) j = tfind t j := by
  induction t with
  | nil => simp [tset, tfind, h]
  | cons p r ih =>
    obtain ⟨k, w⟩ := p
    simp only [tset]
    split
    · rename_i hk
      simp [tfind, h, hk]
    · split
      · simp [tfind, h]
      · simp [tfind, ih]

theorem tfind_terase_self {α : Type} (t : Tab α) (i : Nat) : tfind (terase t i) i = none := by
  induction t with
  | nil => rfl
  | cons p r ih =>
    obtain ⟨k, w⟩ := p
    simp only [terase]
    split
    · exact ih
    · rename_i h
      simp [tfind, h, ih]

theorem tfind_terase_ne {α : Type} (t : Tab α) {i j : Nat} (h : i ≠ j) : tfind (terase t i) j = tfind t j := by
  induction t with
  | nil => rfl
  | cons p r ih =>
    obtain ⟨k, w⟩ := p
    simp only [terase]
    split
    · rename_i hk
      subst hk
      simp [tfind, h, ih]
    · simp [tfind, ih]

/-- A read after a write of the same key gives the value written. -/
@[simp] theorem tget_tput_self {α : Type} [DecidableEq α] (d : α) (t : Tab α) (i : Nat) (v : α) : tget d (tput d t i v) i = v := by
  unfold tput tget
  split
  · rename_i h
    simp [tfind_terase_self, h]
  · simp

/-- A write leaves every other key alone. -/
theorem tget_tput_ne {α : Type} [DecidableEq α] (d : α) (t : Tab α) {i j : Nat} (v : α) (h : i ≠ j) : tget d (tput d t i v) j = tget d t j := by
  unfold tput tget
  split
  · rw [tfind_terase_ne t h]
  · rw [tfind_tset_ne _ v h, tfind_terase_ne t h]

@[simp] theorem tget_tset_self {α : Type} (d : α) (t : Tab α) (i : Nat) (v : α) : tget d (tset t i v) i = v := by
  simp [tget]

theorem tget_tset_ne {α : Type} (d : α) (t : Tab α) {i j : Nat} (v : α) (h : i ≠ j) : tget d (tset t i v) j = tget d t j := by
  simp [tget, tfind_tset_ne t v h]

/-! ### Rising keys -/

theorem mem_tset {α : Type} {t : Tab α} {i : Nat} {v : α} {p : Nat × α} (h : p ∈ tset t i v) : p = (i, v) ∨ p ∈ t := by
  induction t with
  | nil => simpa [tset] using h
  | cons q r ih =>
    obtain ⟨k, w⟩ := q
    simp only [tset] at h
    split at h
    · rcases List.mem_cons.1 h with h | h
      · exact .inl h
      · exact .inr (List.mem_cons_of_mem _ h)
    · split at h
      · rcases List.mem_cons.1 h with h | h
        · exact .inl h
        · exact .inr h
      · rcases List.mem_cons.1 h with h | h
        · exact .inr (h ▸ List.mem_cons_self)
        · exact (ih h).imp id (List.mem_cons_of_mem _)

theorem mem_terase {α : Type} {t : Tab α} {i : Nat} {p : Nat × α} (h : p ∈ terase t i) : p ∈ t := by
  induction t with
  | nil => exact h
  | cons q r ih =>
    obtain ⟨k, w⟩ := q
    simp only [terase] at h
    split at h
    · exact List.mem_cons_of_mem _ (ih h)
    · rcases List.mem_cons.1 h with h | h
      · exact h ▸ List.mem_cons_self
      · exact List.mem_cons_of_mem _ (ih h)

theorem risingKeys_cons {α : Type} (p : Nat × α) (r : Tab α) : RisingKeys (p :: r) ↔ (∀ q ∈ r, p.1 < q.1) ∧ RisingKeys r := by
  simp [RisingKeys]

theorem risingKeys_tset {α : Type} {t : Tab α} (i : Nat) (v : α) (h : RisingKeys t) : RisingKeys (tset t i v) := by
  induction t with
  | nil => simp [tset, RisingKeys]
  | cons q r ih =>
    obtain ⟨k, w⟩ := q
    rw [risingKeys_cons] at h
    simp only [tset]
    split
    · rename_i hk
      subst hk
      exact (risingKeys_cons _ _).2 ⟨h.1, h.2⟩
    · split
      · rename_i hlt
        refine (risingKeys_cons _ _).2 ⟨fun q hq => ?_, (risingKeys_cons _ _).2 h⟩
        rcases List.mem_cons.1 hq with hq | hq
        · subst hq; exact hlt
        · exact lt_trans hlt (h.1 q hq)
      · rename_i hne hnl
        refine (risingKeys_cons _ _).2 ⟨fun q hq => ?_, ih h.2⟩
        rcases mem_tset hq with hq | hq
        · subst hq; simp only at hne ⊢; omega
        · exact h.1 q hq

theorem risingKeys_sublist {α : Type} {t u : Tab α} (h : RisingKeys t) (hs : List.Sublist u t) : RisingKeys u :=
  List.Pairwise.sublist (hs.map _) h

theorem terase_sublist {α : Type} (t : Tab α) (i : Nat) : List.Sublist (terase t i) t := by
  induction t with
  | nil => exact List.Sublist.refl _
  | cons q r ih =>
    obtain ⟨k, w⟩ := q
    simp only [terase]
    split
    · exact ih.cons _
    · exact ih.cons_cons _

theorem risingKeys_filter {α : Type} {t : Tab α} (f : Nat × α → Bool) (h : RisingKeys t) : RisingKeys (t.filter f) :=
  risingKeys_sublist h List.filter_sublist

theorem terase_eq_filter {α : Type} (t : Tab α) (i : Nat) : terase t i = t.filter (fun p => p.1 != i) := by
  induction t with
  | nil => rfl
  | cons p t ih => by_cases e : p.1 = i <;> simp [terase, e, ih]

theorem risingKeys_terase {α : Type} {t : Tab α} (i : Nat) (h : RisingKeys t) : RisingKeys (terase t i) := terase_eq_filter t i ▸ risingKeys_filter _ h
theorem risingKeys_tcut {α : Type} {t : Tab α} (a b : Nat) (h : RisingKeys t) : RisingKeys (tcut t a b) := risingKeys_filter _ h

theorem risingKeys_map {α : Type} {t : Tab α} {f : Nat × α → Nat × α} (hf : ∀ p, (f p).1 = p.1) (h : RisingKeys t) : RisingKeys (t.map f) := by
  have e : (fun (p : Nat × α) => p.1) ∘ f = fun (p : Nat × α) => p.1 := funext hf
  simpa only [RisingKeys, List.map_map, e] using h

/-! ### Canonical form: rising keys, no entry equal to what an unlisted key holds -/

/-- The canonical form of a table whose unlisted keys hold d. -/
def Canon {α : Type} (d : α) (t : Tab α) : Prop := RisingKeys t ∧ ∀ p ∈ t, p.2 ≠ d

theorem canon_nil {α : Type} (d : α) : Canon d ([] : Tab α) := ⟨List.Pairwise.nil, by simp⟩

theorem canon_tput {α : Type} [DecidableEq α] {d : α} {t : Tab α} (i : Nat) (v : α) (h : Canon d t) : Canon d (tput d t i v) := by
  have he : Canon d (terase t i) := ⟨risingKeys_sublist h.1 (terase_sublist t i), fun p hp => h.2 p (mem_terase hp)⟩
  unfold tput
  split
  · exact he
  · rename_i hv
    refine ⟨risingKeys_tset i v he.1, fun p hp => ?_⟩
    rcases mem_tset hp with hp | hp
    · subst hp; exact hv
    · exact he.2 p hp

theorem canon_tcut {α : Type} {d : α} {t : Tab α} (a b : Nat) (h : Canon d t) : Canon d (tcut t a b) :=
  ⟨risingKeys_filter _ h.1, fun p hp => h.2 p (List.mem_filter.1 hp).1⟩

theorem canon_tmergeD {α : Type} [DecidableEq α] {d : α} {t : Tab α} (u : Tab α) (h : Canon d t) : Canon d (tmergeD d t u) := by
  induction u generalizing t with
  | nil => exact h
  | cons p r ih => exact ih (canon_tput p.1 p.2 h)

theorem memory_wf_iff (m : List Host.Cell) : Memory.wf m = true ↔ Canon 0 m := by
  simp [Memory.wf, Canon, RisingKeys]

theorem poison_iff (t : Tab Bool) : (RisingKeys t ∧ ∀ p ∈ t, p.2 = true) ↔ Canon false t := by
  simp [Canon]

end Sys2Proof.Machine
end

