-- ==== Sys2Proof/Laws/Ecc.lean ====
section
/-! SUPPORT. Laws of the 80/64 code: a codeword as it was encoded reads clean at its own address, and a store read after a write. -/

namespace Sys2Proof.Machine

/-- A codeword just encoded decodes clean (R70, R73). -/
theorem eccDecode_eccEncode (d : Word) (x : Bool) (f : Nat) : eccDecode (eccEncode d x f) f = .clean ⟨d, x⟩ := by
  simp [eccDecode, eccEncode]

/-- A word of a codeword store reads as it was written. -/
theorem cwRead_cwWrite_self (t : Tab Codeword) (i : Nat) (w : PWord) : cwRead (cwWrite t i w) i = .clean w := by
  simp [cwRead, cwWrite, eccDecode_eccEncode]

/-- A write leaves every other word alone. -/
theorem tfind_cwWrite_ne (t : Tab Codeword) {i j : Nat} (w : PWord) (h : i ≠ j) : tfind (cwWrite t i w) j = tfind t j :=
  tfind_tset_ne t _ h

theorem cwRead_cwWrite_ne (t : Tab Codeword) {i j : Nat} (w : PWord) (h : i ≠ j) : cwRead (cwWrite t i w) j = cwRead t j := by
  simp [cwRead, tfind_cwWrite_ne t w h]

end Sys2Proof.Machine
end

