-- ==== Sys2Proof/Laws/State.lean ====
section
/-! SUPPORT. Laws of the state: what each field holds after each basic update, and what a register or a core reads as after it. -/

namespace Sys2Proof.Machine

/-! ### Fields of the state after a basic update -/

@[simp] theorem State.wr_pending (s : State) (off : Nat) (w : Word) : (s.wr off w).pending = s.pending := rfl
@[simp] theorem State.wr_cores (s : State) (off : Nat) (w : Word) : (s.wr off w).cores = s.cores := rfl
@[simp] theorem State.wr_net (s : State) (off : Nat) (w : Word) : (s.wr off w).net = s.net := rfl
@[simp] theorem State.wr_links (s : State) (off : Nat) (w : Word) : (s.wr off w).links = s.links := rfl
@[simp] theorem State.wr_ports (s : State) (off : Nat) (w : Word) : (s.wr off w).ports = s.ports := rfl
@[simp] theorem State.wr_grants (s : State) (off : Nat) (w : Word) : (s.wr off w).grants = s.grants := rfl
@[simp] theorem State.wr_reqs (s : State) (off : Nat) (w : Word) : (s.wr off w).reqs = s.reqs := rfl
@[simp] theorem State.wr_fst (s : State) (off : Nat) (w : Word) : (s.wr off w).fst = s.fst := rfl
@[simp] theorem State.wr_mem (s : State) (off : Nat) (w : Word) : (s.wr off w).mem = s.mem := rfl
@[simp] theorem State.wr_memX (s : State) (off : Nat) (w : Word) : (s.wr off w).memX = s.memX := rfl
@[simp] theorem State.wr_res (s : State) (off : Nat) (w : Word) : (s.wr off w).res = s.res := rfl
@[simp] theorem State.wr_migs (s : State) (off : Nat) (w : Word) : (s.wr off w).migs = s.migs := rfl
@[simp] theorem State.wr_felem (s : State) (off : Nat) (w : Word) : (s.wr off w).felem = s.felem := rfl
@[simp] theorem State.wr_work (s : State) (off : Nat) (w : Word) : (s.wr off w).work = s.work := rfl
@[simp] theorem State.wr_staged (s : State) (off : Nat) (w : Word) : (s.wr off w).staged = s.staged := rfl
@[simp] theorem State.wr_limbs (s : State) (off : Nat) (w : Word) : (s.wr off w).limbs = s.limbs := rfl
@[simp] theorem State.wr_occ (s : State) (off : Nat) (w : Word) : (s.wr off w).occ = s.occ := rfl
@[simp] theorem State.wr_samp (s : State) (off : Nat) (w : Word) : (s.wr off w).samp = s.samp := rfl
@[simp] theorem State.wr_plans (s : State) (off : Nat) (w : Word) : (s.wr off w).plans = s.plans := rfl
@[simp] theorem State.wr_step (s : State) (off : Nat) (w : Word) : (s.wr off w).step = s.step := rfl
@[simp] theorem State.wr_sync (s : State) (off : Nat) (w : Word) : (s.wr off w).sync = s.sync := rfl
@[simp] theorem State.wr_pwr (s : State) (off : Nat) (w : Word) : (s.wr off w).pwr = s.pwr := rfl
@[simp] theorem State.wr_tray (s : State) (off : Nat) (w : Word) : (s.wr off w).tray = s.tray := rfl
@[simp] theorem State.wr_plate (s : State) (off : Nat) (w : Word) : (s.wr off w).plate = s.plate := rfl
@[simp] theorem State.wr_dark (s : State) (off : Nat) (w : Word) : (s.wr off w).dark = s.dark := rfl
@[simp] theorem State.wr_boot (s : State) (off : Nat) (w : Word) : (s.wr off w).boot = s.boot := rfl
@[simp] theorem State.wr_host (s : State) (off : Nat) (w : Word) : (s.wr off w).host = s.host := rfl
@[simp] theorem State.wr_obs (s : State) (off : Nat) (w : Word) : (s.wr off w).obs = s.obs := rfl
@[simp] theorem State.wr_report (s : State) (off : Nat) (w : Word) : (s.wr off w).report = s.report := rfl
@[simp] theorem State.wr_hreqs (s : State) (off : Nat) (w : Word) : (s.wr off w).hreqs = s.hreqs := rfl
@[simp] theorem State.wr_engReads (s : State) (off : Nat) (w : Word) : (s.wr off w).engReads = s.engReads := rfl
@[simp] theorem State.wr_engWant (s : State) (off : Nat) (w : Word) : (s.wr off w).engWant = s.engWant := rfl
@[simp] theorem State.wr_xp (s : State) (off : Nat) (w : Word) : (s.wr off w).xp = s.xp := rfl
@[simp] theorem State.wr_rings (s : State) (off : Nat) (w : Word) : (s.wr off w).rings = s.rings := rfl
@[simp] theorem State.wr_escOut (s : State) (off : Nat) (w : Word) : (s.wr off w).escOut = s.escOut := rfl
@[simp] theorem State.wr_tally (s : State) (off : Nat) (w : Word) : (s.wr off w).tally = s.tally := rfl
@[simp] theorem State.wr_chr (s : State) (off : Nat) (w : Word) : (s.wr off w).chr = s.chr := rfl
@[simp] theorem State.wr_out (s : State) (off : Nat) (w : Word) : (s.wr off w).out = s.out := rfl
@[simp] theorem State.wr_draws (s : State) (off : Nat) (w : Word) : (s.wr off w).draws = s.draws := rfl

@[simp] theorem State.setFld_pending (s : State) (off hi lo n : Nat) : (s.setFld off hi lo n).pending = s.pending := rfl
@[simp] theorem State.setFld_cores (s : State) (off hi lo n : Nat) : (s.setFld off hi lo n).cores = s.cores := rfl
@[simp] theorem State.setFld_net (s : State) (off hi lo n : Nat) : (s.setFld off hi lo n).net = s.net := rfl
@[simp] theorem State.setFld_links (s : State) (off hi lo n : Nat) : (s.setFld off hi lo n).links = s.links := rfl
@[simp] theorem State.setFld_ports (s : State) (off hi lo n : Nat) : (s.setFld off hi lo n).ports = s.ports := rfl
@[simp] theorem State.setFld_grants (s : State) (off hi lo n : Nat) : (s.setFld off hi lo n).grants = s.grants := rfl
@[simp] theorem State.setFld_reqs (s : State) (off hi lo n : Nat) : (s.setFld off hi lo n).reqs = s.reqs := rfl
@[simp] theorem State.setFld_fst (s : State) (off hi lo n : Nat) : (s.setFld off hi lo n).fst = s.fst := rfl
@[simp] theorem State.setFld_mem (s : State) (off hi lo n : Nat) : (s.setFld off hi lo n).mem = s.mem := rfl
@[simp] theorem State.setFld_memX (s : State) (off hi lo n : Nat) : (s.setFld off hi lo n).memX = s.memX := rfl
@[simp] theorem State.setFld_res (s : State) (off hi lo n : Nat) : (s.setFld off hi lo n).res = s.res := rfl
@[simp] theorem State.setFld_migs (s : State) (off hi lo n : Nat) : (s.setFld off hi lo n).migs = s.migs := rfl
@[simp] theorem State.setFld_felem (s : State) (off hi lo n : Nat) : (s.setFld off hi lo n).felem = s.felem := rfl
@[simp] theorem State.setFld_work (s : State) (off hi lo n : Nat) : (s.setFld off hi lo n).work = s.work := rfl
@[simp] theorem State.setFld_staged (s : State) (off hi lo n : Nat) : (s.setFld off hi lo n).staged = s.staged := rfl
@[simp] theorem State.setFld_limbs (s : State) (off hi lo n : Nat) : (s.setFld off hi lo n).limbs = s.limbs := rfl
@[simp] theorem State.setFld_occ (s : State) (off hi lo n : Nat) : (s.setFld off hi lo n).occ = s.occ := rfl
@[simp] theorem State.setFld_samp (s : State) (off hi lo n : Nat) : (s.setFld off hi lo n).samp = s.samp := rfl
@[simp] theorem State.setFld_plans (s : State) (off hi lo n : Nat) : (s.setFld off hi lo n).plans = s.plans := rfl
@[simp] theorem State.setFld_step (s : State) (off hi lo n : Nat) : (s.setFld off hi lo n).step = s.step := rfl
@[simp] theorem State.setFld_sync (s : State) (off hi lo n : Nat) : (s.setFld off hi lo n).sync = s.sync := rfl
@[simp] theorem State.setFld_pwr (s : State) (off hi lo n : Nat) : (s.setFld off hi lo n).pwr = s.pwr := rfl
@[simp] theorem State.setFld_tray (s : State) (off hi lo n : Nat) : (s.setFld off hi lo n).tray = s.tray := rfl
@[simp] theorem State.setFld_plate (s : State) (off hi lo n : Nat) : (s.setFld off hi lo n).plate = s.plate := rfl
@[simp] theorem State.setFld_dark (s : State) (off hi lo n : Nat) : (s.setFld off hi lo n).dark = s.dark := rfl
@[simp] theorem State.setFld_boot (s : State) (off hi lo n : Nat) : (s.setFld off hi lo n).boot = s.boot := rfl
@[simp] theorem State.setFld_host (s : State) (off hi lo n : Nat) : (s.setFld off hi lo n).host = s.host := rfl
@[simp] theorem State.setFld_obs (s : State) (off hi lo n : Nat) : (s.setFld off hi lo n).obs = s.obs := rfl
@[simp] theorem State.setFld_report (s : State) (off hi lo n : Nat) : (s.setFld off hi lo n).report = s.report := rfl
@[simp] theorem State.setFld_hreqs (s : State) (off hi lo n : Nat) : (s.setFld off hi lo n).hreqs = s.hreqs := rfl
@[simp] theorem State.setFld_engReads (s : State) (off hi lo n : Nat) : (s.setFld off hi lo n).engReads = s.engReads := rfl
@[simp] theorem State.setFld_engWant (s : State) (off hi lo n : Nat) : (s.setFld off hi lo n).engWant = s.engWant := rfl
@[simp] theorem State.setFld_xp (s : State) (off hi lo n : Nat) : (s.setFld off hi lo n).xp = s.xp := rfl
@[simp] theorem State.setFld_rings (s : State) (off hi lo n : Nat) : (s.setFld off hi lo n).rings = s.rings := rfl
@[simp] theorem State.setFld_escOut (s : State) (off hi lo n : Nat) : (s.setFld off hi lo n).escOut = s.escOut := rfl
@[simp] theorem State.setFld_tally (s : State) (off hi lo n : Nat) : (s.setFld off hi lo n).tally = s.tally := rfl
@[simp] theorem State.setFld_chr (s : State) (off hi lo n : Nat) : (s.setFld off hi lo n).chr = s.chr := rfl
@[simp] theorem State.setFld_out (s : State) (off hi lo n : Nat) : (s.setFld off hi lo n).out = s.out := rfl
@[simp] theorem State.setFld_draws (s : State) (off hi lo n : Nat) : (s.setFld off hi lo n).draws = s.draws := rfl

@[simp] theorem State.satFld_pending (s : State) (off hi lo n : Nat) : (s.satFld off hi lo n).pending = s.pending := rfl
@[simp] theorem State.satFld_cores (s : State) (off hi lo n : Nat) : (s.satFld off hi lo n).cores = s.cores := rfl
@[simp] theorem State.satFld_net (s : State) (off hi lo n : Nat) : (s.satFld off hi lo n).net = s.net := rfl
@[simp] theorem State.satFld_links (s : State) (off hi lo n : Nat) : (s.satFld off hi lo n).links = s.links := rfl
@[simp] theorem State.satFld_ports (s : State) (off hi lo n : Nat) : (s.satFld off hi lo n).ports = s.ports := rfl
@[simp] theorem State.satFld_grants (s : State) (off hi lo n : Nat) : (s.satFld off hi lo n).grants = s.grants := rfl
@[simp] theorem State.satFld_reqs (s : State) (off hi lo n : Nat) : (s.satFld off hi lo n).reqs = s.reqs := rfl
@[simp] theorem State.satFld_fst (s : State) (off hi lo n : Nat) : (s.satFld off hi lo n).fst = s.fst := rfl
@[simp] theorem State.satFld_mem (s : State) (off hi lo n : Nat) : (s.satFld off hi lo n).mem = s.mem := rfl
@[simp] theorem State.satFld_memX (s : State) (off hi lo n : Nat) : (s.satFld off hi lo n).memX = s.memX := rfl
@[simp] theorem State.satFld_res (s : State) (off hi lo n : Nat) : (s.satFld off hi lo n).res = s.res := rfl
@[simp] theorem State.satFld_migs (s : State) (off hi lo n : Nat) : (s.satFld off hi lo n).migs = s.migs := rfl
@[simp] theorem State.satFld_felem (s : State) (off hi lo n : Nat) : (s.satFld off hi lo n).felem = s.felem := rfl
@[simp] theorem State.satFld_work (s : State) (off hi lo n : Nat) : (s.satFld off hi lo n).work = s.work := rfl
@[simp] theorem State.satFld_staged (s : State) (off hi lo n : Nat) : (s.satFld off hi lo n).staged = s.staged := rfl
@[simp] theorem State.satFld_limbs (s : State) (off hi lo n : Nat) : (s.satFld off hi lo n).limbs = s.limbs := rfl
@[simp] theorem State.satFld_occ (s : State) (off hi lo n : Nat) : (s.satFld off hi lo n).occ = s.occ := rfl
@[simp] theorem State.satFld_samp (s : State) (off hi lo n : Nat) : (s.satFld off hi lo n).samp = s.samp := rfl
@[simp] theorem State.satFld_plans (s : State) (off hi lo n : Nat) : (s.satFld off hi lo n).plans = s.plans := rfl
@[simp] theorem State.satFld_step (s : State) (off hi lo n : Nat) : (s.satFld off hi lo n).step = s.step := rfl
@[simp] theorem State.satFld_sync (s : State) (off hi lo n : Nat) : (s.satFld off hi lo n).sync = s.sync := rfl
@[simp] theorem State.satFld_pwr (s : State) (off hi lo n : Nat) : (s.satFld off hi lo n).pwr = s.pwr := rfl
@[simp] theorem State.satFld_tray (s : State) (off hi lo n : Nat) : (s.satFld off hi lo n).tray = s.tray := rfl
@[simp] theorem State.satFld_plate (s : State) (off hi lo n : Nat) : (s.satFld off hi lo n).plate = s.plate := rfl
@[simp] theorem State.satFld_dark (s : State) (off hi lo n : Nat) : (s.satFld off hi lo n).dark = s.dark := rfl
@[simp] theorem State.satFld_boot (s : State) (off hi lo n : Nat) : (s.satFld off hi lo n).boot = s.boot := rfl
@[simp] theorem State.satFld_host (s : State) (off hi lo n : Nat) : (s.satFld off hi lo n).host = s.host := rfl
@[simp] theorem State.satFld_obs (s : State) (off hi lo n : Nat) : (s.satFld off hi lo n).obs = s.obs := rfl
@[simp] theorem State.satFld_report (s : State) (off hi lo n : Nat) : (s.satFld off hi lo n).report = s.report := rfl
@[simp] theorem State.satFld_hreqs (s : State) (off hi lo n : Nat) : (s.satFld off hi lo n).hreqs = s.hreqs := rfl
@[simp] theorem State.satFld_engReads (s : State) (off hi lo n : Nat) : (s.satFld off hi lo n).engReads = s.engReads := rfl
@[simp] theorem State.satFld_engWant (s : State) (off hi lo n : Nat) : (s.satFld off hi lo n).engWant = s.engWant := rfl
@[simp] theorem State.satFld_xp (s : State) (off hi lo n : Nat) : (s.satFld off hi lo n).xp = s.xp := rfl
@[simp] theorem State.satFld_rings (s : State) (off hi lo n : Nat) : (s.satFld off hi lo n).rings = s.rings := rfl
@[simp] theorem State.satFld_escOut (s : State) (off hi lo n : Nat) : (s.satFld off hi lo n).escOut = s.escOut := rfl
@[simp] theorem State.satFld_tally (s : State) (off hi lo n : Nat) : (s.satFld off hi lo n).tally = s.tally := rfl
@[simp] theorem State.satFld_chr (s : State) (off hi lo n : Nat) : (s.satFld off hi lo n).chr = s.chr := rfl
@[simp] theorem State.satFld_out (s : State) (off hi lo n : Nat) : (s.satFld off hi lo n).out = s.out := rfl
@[simp] theorem State.satFld_draws (s : State) (off hi lo n : Nat) : (s.satFld off hi lo n).draws = s.draws := rfl

@[simp] theorem State.addFld_pending (s : State) (off hi lo n : Nat) : (s.addFld off hi lo n).pending = s.pending := rfl
@[simp] theorem State.addFld_cores (s : State) (off hi lo n : Nat) : (s.addFld off hi lo n).cores = s.cores := rfl
@[simp] theorem State.addFld_net (s : State) (off hi lo n : Nat) : (s.addFld off hi lo n).net = s.net := rfl
@[simp] theorem State.addFld_links (s : State) (off hi lo n : Nat) : (s.addFld off hi lo n).links = s.links := rfl
@[simp] theorem State.addFld_ports (s : State) (off hi lo n : Nat) : (s.addFld off hi lo n).ports = s.ports := rfl
@[simp] theorem State.addFld_grants (s : State) (off hi lo n : Nat) : (s.addFld off hi lo n).grants = s.grants := rfl
@[simp] theorem State.addFld_reqs (s : State) (off hi lo n : Nat) : (s.addFld off hi lo n).reqs = s.reqs := rfl
@[simp] theorem State.addFld_fst (s : State) (off hi lo n : Nat) : (s.addFld off hi lo n).fst = s.fst := rfl
@[simp] theorem State.addFld_mem (s : State) (off hi lo n : Nat) : (s.addFld off hi lo n).mem = s.mem := rfl
@[simp] theorem State.addFld_memX (s : State) (off hi lo n : Nat) : (s.addFld off hi lo n).memX = s.memX := rfl
@[simp] theorem State.addFld_res (s : State) (off hi lo n : Nat) : (s.addFld off hi lo n).res = s.res := rfl
@[simp] theorem State.addFld_migs (s : State) (off hi lo n : Nat) : (s.addFld off hi lo n).migs = s.migs := rfl
@[simp] theorem State.addFld_felem (s : State) (off hi lo n : Nat) : (s.addFld off hi lo n).felem = s.felem := rfl
@[simp] theorem State.addFld_work (s : State) (off hi lo n : Nat) : (s.addFld off hi lo n).work = s.work := rfl
@[simp] theorem State.addFld_staged (s : State) (off hi lo n : Nat) : (s.addFld off hi lo n).staged = s.staged := rfl
@[simp] theorem State.addFld_limbs (s : State) (off hi lo n : Nat) : (s.addFld off hi lo n).limbs = s.limbs := rfl
@[simp] theorem State.addFld_occ (s : State) (off hi lo n : Nat) : (s.addFld off hi lo n).occ = s.occ := rfl
@[simp] theorem State.addFld_samp (s : State) (off hi lo n : Nat) : (s.addFld off hi lo n).samp = s.samp := rfl
@[simp] theorem State.addFld_plans (s : State) (off hi lo n : Nat) : (s.addFld off hi lo n).plans = s.plans := rfl
@[simp] theorem State.addFld_step (s : State) (off hi lo n : Nat) : (s.addFld off hi lo n).step = s.step := rfl
@[simp] theorem State.addFld_sync (s : State) (off hi lo n : Nat) : (s.addFld off hi lo n).sync = s.sync := rfl
@[simp] theorem State.addFld_pwr (s : State) (off hi lo n : Nat) : (s.addFld off hi lo n).pwr = s.pwr := rfl
@[simp] theorem State.addFld_tray (s : State) (off hi lo n : Nat) : (s.addFld off hi lo n).tray = s.tray := rfl
@[simp] theorem State.addFld_plate (s : State) (off hi lo n : Nat) : (s.addFld off hi lo n).plate = s.plate := rfl
@[simp] theorem State.addFld_dark (s : State) (off hi lo n : Nat) : (s.addFld off hi lo n).dark = s.dark := rfl
@[simp] theorem State.addFld_boot (s : State) (off hi lo n : Nat) : (s.addFld off hi lo n).boot = s.boot := rfl
@[simp] theorem State.addFld_host (s : State) (off hi lo n : Nat) : (s.addFld off hi lo n).host = s.host := rfl
@[simp] theorem State.addFld_obs (s : State) (off hi lo n : Nat) : (s.addFld off hi lo n).obs = s.obs := rfl
@[simp] theorem State.addFld_report (s : State) (off hi lo n : Nat) : (s.addFld off hi lo n).report = s.report := rfl
@[simp] theorem State.addFld_hreqs (s : State) (off hi lo n : Nat) : (s.addFld off hi lo n).hreqs = s.hreqs := rfl
@[simp] theorem State.addFld_engReads (s : State) (off hi lo n : Nat) : (s.addFld off hi lo n).engReads = s.engReads := rfl
@[simp] theorem State.addFld_engWant (s : State) (off hi lo n : Nat) : (s.addFld off hi lo n).engWant = s.engWant := rfl
@[simp] theorem State.addFld_xp (s : State) (off hi lo n : Nat) : (s.addFld off hi lo n).xp = s.xp := rfl
@[simp] theorem State.addFld_rings (s : State) (off hi lo n : Nat) : (s.addFld off hi lo n).rings = s.rings := rfl
@[simp] theorem State.addFld_escOut (s : State) (off hi lo n : Nat) : (s.addFld off hi lo n).escOut = s.escOut := rfl
@[simp] theorem State.addFld_tally (s : State) (off hi lo n : Nat) : (s.addFld off hi lo n).tally = s.tally := rfl
@[simp] theorem State.addFld_chr (s : State) (off hi lo n : Nat) : (s.addFld off hi lo n).chr = s.chr := rfl
@[simp] theorem State.addFld_out (s : State) (off hi lo n : Nat) : (s.addFld off hi lo n).out = s.out := rfl
@[simp] theorem State.addFld_draws (s : State) (off hi lo n : Nat) : (s.addFld off hi lo n).draws = s.draws := rfl

@[simp] theorem State.setCore_pending (s : State) (c : Nat) (k : Core) : (s.setCore c k).pending = s.pending := rfl
@[simp] theorem State.setCore_regs (s : State) (c : Nat) (k : Core) : (s.setCore c k).regs = s.regs := rfl
@[simp] theorem State.setCore_net (s : State) (c : Nat) (k : Core) : (s.setCore c k).net = s.net := rfl
@[simp] theorem State.setCore_links (s : State) (c : Nat) (k : Core) : (s.setCore c k).links = s.links := rfl
@[simp] theorem State.setCore_ports (s : State) (c : Nat) (k : Core) : (s.setCore c k).ports = s.ports := rfl
@[simp] theorem State.setCore_grants (s : State) (c : Nat) (k : Core) : (s.setCore c k).grants = s.grants := rfl
@[simp] theorem State.setCore_reqs (s : State) (c : Nat) (k : Core) : (s.setCore c k).reqs = s.reqs := rfl
@[simp] theorem State.setCore_fst (s : State) (c : Nat) (k : Core) : (s.setCore c k).fst = s.fst := rfl
@[simp] theorem State.setCore_mem (s : State) (c : Nat) (k : Core) : (s.setCore c k).mem = s.mem := rfl
@[simp] theorem State.setCore_memX (s : State) (c : Nat) (k : Core) : (s.setCore c k).memX = s.memX := rfl
@[simp] theorem State.setCore_res (s : State) (c : Nat) (k : Core) : (s.setCore c k).res = s.res := rfl
@[simp] theorem State.setCore_migs (s : State) (c : Nat) (k : Core) : (s.setCore c k).migs = s.migs := rfl
@[simp] theorem State.setCore_felem (s : State) (c : Nat) (k : Core) : (s.setCore c k).felem = s.felem := rfl
@[simp] theorem State.setCore_work (s : State) (c : Nat) (k : Core) : (s.setCore c k).work = s.work := rfl
@[simp] theorem State.setCore_staged (s : State) (c : Nat) (k : Core) : (s.setCore c k).staged = s.staged := rfl
@[simp] theorem State.setCore_limbs (s : State) (c : Nat) (k : Core) : (s.setCore c k).limbs = s.limbs := rfl
@[simp] theorem State.setCore_occ (s : State) (c : Nat) (k : Core) : (s.setCore c k).occ = s.occ := rfl
@[simp] theorem State.setCore_samp (s : State) (c : Nat) (k : Core) : (s.setCore c k).samp = s.samp := rfl
@[simp] theorem State.setCore_plans (s : State) (c : Nat) (k : Core) : (s.setCore c k).plans = s.plans := rfl
@[simp] theorem State.setCore_step (s : State) (c : Nat) (k : Core) : (s.setCore c k).step = s.step := rfl
@[simp] theorem State.setCore_sync (s : State) (c : Nat) (k : Core) : (s.setCore c k).sync = s.sync := rfl
@[simp] theorem State.setCore_pwr (s : State) (c : Nat) (k : Core) : (s.setCore c k).pwr = s.pwr := rfl
@[simp] theorem State.setCore_tray (s : State) (c : Nat) (k : Core) : (s.setCore c k).tray = s.tray := rfl
@[simp] theorem State.setCore_plate (s : State) (c : Nat) (k : Core) : (s.setCore c k).plate = s.plate := rfl
@[simp] theorem State.setCore_dark (s : State) (c : Nat) (k : Core) : (s.setCore c k).dark = s.dark := rfl
@[simp] theorem State.setCore_boot (s : State) (c : Nat) (k : Core) : (s.setCore c k).boot = s.boot := rfl
@[simp] theorem State.setCore_host (s : State) (c : Nat) (k : Core) : (s.setCore c k).host = s.host := rfl
@[simp] theorem State.setCore_obs (s : State) (c : Nat) (k : Core) : (s.setCore c k).obs = s.obs := rfl
@[simp] theorem State.setCore_report (s : State) (c : Nat) (k : Core) : (s.setCore c k).report = s.report := rfl
@[simp] theorem State.setCore_hreqs (s : State) (c : Nat) (k : Core) : (s.setCore c k).hreqs = s.hreqs := rfl
@[simp] theorem State.setCore_engReads (s : State) (c : Nat) (k : Core) : (s.setCore c k).engReads = s.engReads := rfl
@[simp] theorem State.setCore_engWant (s : State) (c : Nat) (k : Core) : (s.setCore c k).engWant = s.engWant := rfl
@[simp] theorem State.setCore_xp (s : State) (c : Nat) (k : Core) : (s.setCore c k).xp = s.xp := rfl
@[simp] theorem State.setCore_rings (s : State) (c : Nat) (k : Core) : (s.setCore c k).rings = s.rings := rfl
@[simp] theorem State.setCore_escOut (s : State) (c : Nat) (k : Core) : (s.setCore c k).escOut = s.escOut := rfl
@[simp] theorem State.setCore_tally (s : State) (c : Nat) (k : Core) : (s.setCore c k).tally = s.tally := rfl
@[simp] theorem State.setCore_chr (s : State) (c : Nat) (k : Core) : (s.setCore c k).chr = s.chr := rfl
@[simp] theorem State.setCore_out (s : State) (c : Nat) (k : Core) : (s.setCore c k).out = s.out := rfl
@[simp] theorem State.setCore_draws (s : State) (c : Nat) (k : Core) : (s.setCore c k).draws = s.draws := rfl

@[simp] theorem State.modCore_pending (s : State) (c : Nat) (f : Core → Core) : (s.modCore c f).pending = s.pending := rfl
@[simp] theorem State.modCore_regs (s : State) (c : Nat) (f : Core → Core) : (s.modCore c f).regs = s.regs := rfl
@[simp] theorem State.modCore_net (s : State) (c : Nat) (f : Core → Core) : (s.modCore c f).net = s.net := rfl
@[simp] theorem State.modCore_links (s : State) (c : Nat) (f : Core → Core) : (s.modCore c f).links = s.links := rfl
@[simp] theorem State.modCore_ports (s : State) (c : Nat) (f : Core → Core) : (s.modCore c f).ports = s.ports := rfl
@[simp] theorem State.modCore_grants (s : State) (c : Nat) (f : Core → Core) : (s.modCore c f).grants = s.grants := rfl
@[simp] theorem State.modCore_reqs (s : State) (c : Nat) (f : Core → Core) : (s.modCore c f).reqs = s.reqs := rfl
@[simp] theorem State.modCore_fst (s : State) (c : Nat) (f : Core → Core) : (s.modCore c f).fst = s.fst := rfl
@[simp] theorem State.modCore_mem (s : State) (c : Nat) (f : Core → Core) : (s.modCore c f).mem = s.mem := rfl
@[simp] theorem State.modCore_memX (s : State) (c : Nat) (f : Core → Core) : (s.modCore c f).memX = s.memX := rfl
@[simp] theorem State.modCore_res (s : State) (c : Nat) (f : Core → Core) : (s.modCore c f).res = s.res := rfl
@[simp] theorem State.modCore_migs (s : State) (c : Nat) (f : Core → Core) : (s.modCore c f).migs = s.migs := rfl
@[simp] theorem State.modCore_felem (s : State) (c : Nat) (f : Core → Core) : (s.modCore c f).felem = s.felem := rfl
@[simp] theorem State.modCore_work (s : State) (c : Nat) (f : Core → Core) : (s.modCore c f).work = s.work := rfl
@[simp] theorem State.modCore_staged (s : State) (c : Nat) (f : Core → Core) : (s.modCore c f).staged = s.staged := rfl
@[simp] theorem State.modCore_limbs (s : State) (c : Nat) (f : Core → Core) : (s.modCore c f).limbs = s.limbs := rfl
@[simp] theorem State.modCore_occ (s : State) (c : Nat) (f : Core → Core) : (s.modCore c f).occ = s.occ := rfl
@[simp] theorem State.modCore_samp (s : State) (c : Nat) (f : Core → Core) : (s.modCore c f).samp = s.samp := rfl
@[simp] theorem State.modCore_plans (s : State) (c : Nat) (f : Core → Core) : (s.modCore c f).plans = s.plans := rfl
@[simp] theorem State.modCore_step (s : State) (c : Nat) (f : Core → Core) : (s.modCore c f).step = s.step := rfl
@[simp] theorem State.modCore_sync (s : State) (c : Nat) (f : Core → Core) : (s.modCore c f).sync = s.sync := rfl
@[simp] theorem State.modCore_pwr (s : State) (c : Nat) (f : Core → Core) : (s.modCore c f).pwr = s.pwr := rfl
@[simp] theorem State.modCore_tray (s : State) (c : Nat) (f : Core → Core) : (s.modCore c f).tray = s.tray := rfl
@[simp] theorem State.modCore_plate (s : State) (c : Nat) (f : Core → Core) : (s.modCore c f).plate = s.plate := rfl
@[simp] theorem State.modCore_dark (s : State) (c : Nat) (f : Core → Core) : (s.modCore c f).dark = s.dark := rfl
@[simp] theorem State.modCore_boot (s : State) (c : Nat) (f : Core → Core) : (s.modCore c f).boot = s.boot := rfl
@[simp] theorem State.modCore_host (s : State) (c : Nat) (f : Core → Core) : (s.modCore c f).host = s.host := rfl
@[simp] theorem State.modCore_obs (s : State) (c : Nat) (f : Core → Core) : (s.modCore c f).obs = s.obs := rfl
@[simp] theorem State.modCore_report (s : State) (c : Nat) (f : Core → Core) : (s.modCore c f).report = s.report := rfl
@[simp] theorem State.modCore_hreqs (s : State) (c : Nat) (f : Core → Core) : (s.modCore c f).hreqs = s.hreqs := rfl
@[simp] theorem State.modCore_engReads (s : State) (c : Nat) (f : Core → Core) : (s.modCore c f).engReads = s.engReads := rfl
@[simp] theorem State.modCore_engWant (s : State) (c : Nat) (f : Core → Core) : (s.modCore c f).engWant = s.engWant := rfl
@[simp] theorem State.modCore_xp (s : State) (c : Nat) (f : Core → Core) : (s.modCore c f).xp = s.xp := rfl
@[simp] theorem State.modCore_rings (s : State) (c : Nat) (f : Core → Core) : (s.modCore c f).rings = s.rings := rfl
@[simp] theorem State.modCore_escOut (s : State) (c : Nat) (f : Core → Core) : (s.modCore c f).escOut = s.escOut := rfl
@[simp] theorem State.modCore_tally (s : State) (c : Nat) (f : Core → Core) : (s.modCore c f).tally = s.tally := rfl
@[simp] theorem State.modCore_chr (s : State) (c : Nat) (f : Core → Core) : (s.modCore c f).chr = s.chr := rfl
@[simp] theorem State.modCore_out (s : State) (c : Nat) (f : Core → Core) : (s.modCore c f).out = s.out := rfl
@[simp] theorem State.modCore_draws (s : State) (c : Nat) (f : Core → Core) : (s.modCore c f).draws = s.draws := rfl

@[simp] theorem State.emit_pending (s : State) (o : Out) : (s.emit o).pending = s.pending := rfl
@[simp] theorem State.emit_regs (s : State) (o : Out) : (s.emit o).regs = s.regs := rfl
@[simp] theorem State.emit_cores (s : State) (o : Out) : (s.emit o).cores = s.cores := rfl
@[simp] theorem State.emit_net (s : State) (o : Out) : (s.emit o).net = s.net := rfl
@[simp] theorem State.emit_links (s : State) (o : Out) : (s.emit o).links = s.links := rfl
@[simp] theorem State.emit_ports (s : State) (o : Out) : (s.emit o).ports = s.ports := rfl
@[simp] theorem State.emit_grants (s : State) (o : Out) : (s.emit o).grants = s.grants := rfl
@[simp] theorem State.emit_reqs (s : State) (o : Out) : (s.emit o).reqs = s.reqs := rfl
@[simp] theorem State.emit_fst (s : State) (o : Out) : (s.emit o).fst = s.fst := rfl
@[simp] theorem State.emit_mem (s : State) (o : Out) : (s.emit o).mem = s.mem := rfl
@[simp] theorem State.emit_memX (s : State) (o : Out) : (s.emit o).memX = s.memX := rfl
@[simp] theorem State.emit_res (s : State) (o : Out) : (s.emit o).res = s.res := rfl
@[simp] theorem State.emit_migs (s : State) (o : Out) : (s.emit o).migs = s.migs := rfl
@[simp] theorem State.emit_felem (s : State) (o : Out) : (s.emit o).felem = s.felem := rfl
@[simp] theorem State.emit_work (s : State) (o : Out) : (s.emit o).work = s.work := rfl
@[simp] theorem State.emit_staged (s : State) (o : Out) : (s.emit o).staged = s.staged := rfl
@[simp] theorem State.emit_limbs (s : State) (o : Out) : (s.emit o).limbs = s.limbs := rfl
@[simp] theorem State.emit_occ (s : State) (o : Out) : (s.emit o).occ = s.occ := rfl
@[simp] theorem State.emit_samp (s : State) (o : Out) : (s.emit o).samp = s.samp := rfl
@[simp] theorem State.emit_plans (s : State) (o : Out) : (s.emit o).plans = s.plans := rfl
@[simp] theorem State.emit_step (s : State) (o : Out) : (s.emit o).step = s.step := rfl
@[simp] theorem State.emit_sync (s : State) (o : Out) : (s.emit o).sync = s.sync := rfl
@[simp] theorem State.emit_pwr (s : State) (o : Out) : (s.emit o).pwr = s.pwr := rfl
@[simp] theorem State.emit_tray (s : State) (o : Out) : (s.emit o).tray = s.tray := rfl
@[simp] theorem State.emit_plate (s : State) (o : Out) : (s.emit o).plate = s.plate := rfl
@[simp] theorem State.emit_dark (s : State) (o : Out) : (s.emit o).dark = s.dark := rfl
@[simp] theorem State.emit_boot (s : State) (o : Out) : (s.emit o).boot = s.boot := rfl
@[simp] theorem State.emit_host (s : State) (o : Out) : (s.emit o).host = s.host := rfl
@[simp] theorem State.emit_obs (s : State) (o : Out) : (s.emit o).obs = s.obs := rfl
@[simp] theorem State.emit_report (s : State) (o : Out) : (s.emit o).report = s.report := rfl
@[simp] theorem State.emit_hreqs (s : State) (o : Out) : (s.emit o).hreqs = s.hreqs := rfl
@[simp] theorem State.emit_engReads (s : State) (o : Out) : (s.emit o).engReads = s.engReads := rfl
@[simp] theorem State.emit_engWant (s : State) (o : Out) : (s.emit o).engWant = s.engWant := rfl
@[simp] theorem State.emit_xp (s : State) (o : Out) : (s.emit o).xp = s.xp := rfl
@[simp] theorem State.emit_rings (s : State) (o : Out) : (s.emit o).rings = s.rings := rfl
@[simp] theorem State.emit_escOut (s : State) (o : Out) : (s.emit o).escOut = s.escOut := rfl
@[simp] theorem State.emit_tally (s : State) (o : Out) : (s.emit o).tally = s.tally := rfl
@[simp] theorem State.emit_chr (s : State) (o : Out) : (s.emit o).chr = s.chr := rfl
@[simp] theorem State.emit_draws (s : State) (o : Out) : (s.emit o).draws = s.draws := rfl

@[simp] theorem State.send_pending (s : State) (p : Packet) : (s.send p).pending = s.pending := rfl
@[simp] theorem State.send_regs (s : State) (p : Packet) : (s.send p).regs = s.regs := rfl
@[simp] theorem State.send_cores (s : State) (p : Packet) : (s.send p).cores = s.cores := rfl
@[simp] theorem State.send_links (s : State) (p : Packet) : (s.send p).links = s.links := rfl
@[simp] theorem State.send_ports (s : State) (p : Packet) : (s.send p).ports = s.ports := rfl
@[simp] theorem State.send_grants (s : State) (p : Packet) : (s.send p).grants = s.grants := rfl
@[simp] theorem State.send_reqs (s : State) (p : Packet) : (s.send p).reqs = s.reqs := rfl
@[simp] theorem State.send_fst (s : State) (p : Packet) : (s.send p).fst = s.fst := rfl
@[simp] theorem State.send_mem (s : State) (p : Packet) : (s.send p).mem = s.mem := rfl
@[simp] theorem State.send_memX (s : State) (p : Packet) : (s.send p).memX = s.memX := rfl
@[simp] theorem State.send_res (s : State) (p : Packet) : (s.send p).res = s.res := rfl
@[simp] theorem State.send_migs (s : State) (p : Packet) : (s.send p).migs = s.migs := rfl
@[simp] theorem State.send_felem (s : State) (p : Packet) : (s.send p).felem = s.felem := rfl
@[simp] theorem State.send_work (s : State) (p : Packet) : (s.send p).work = s.work := rfl
@[simp] theorem State.send_staged (s : State) (p : Packet) : (s.send p).staged = s.staged := rfl
@[simp] theorem State.send_limbs (s : State) (p : Packet) : (s.send p).limbs = s.limbs := rfl
@[simp] theorem State.send_occ (s : State) (p : Packet) : (s.send p).occ = s.occ := rfl
@[simp] theorem State.send_samp (s : State) (p : Packet) : (s.send p).samp = s.samp := rfl
@[simp] theorem State.send_plans (s : State) (p : Packet) : (s.send p).plans = s.plans := rfl
@[simp] theorem State.send_step (s : State) (p : Packet) : (s.send p).step = s.step := rfl
@[simp] theorem State.send_sync (s : State) (p : Packet) : (s.send p).sync = s.sync := rfl
@[simp] theorem State.send_pwr (s : State) (p : Packet) : (s.send p).pwr = s.pwr := rfl
@[simp] theorem State.send_tray (s : State) (p : Packet) : (s.send p).tray = s.tray := rfl
@[simp] theorem State.send_plate (s : State) (p : Packet) : (s.send p).plate = s.plate := rfl
@[simp] theorem State.send_dark (s : State) (p : Packet) : (s.send p).dark = s.dark := rfl
@[simp] theorem State.send_boot (s : State) (p : Packet) : (s.send p).boot = s.boot := rfl
@[simp] theorem State.send_host (s : State) (p : Packet) : (s.send p).host = s.host := rfl
@[simp] theorem State.send_obs (s : State) (p : Packet) : (s.send p).obs = s.obs := rfl
@[simp] theorem State.send_report (s : State) (p : Packet) : (s.send p).report = s.report := rfl
@[simp] theorem State.send_hreqs (s : State) (p : Packet) : (s.send p).hreqs = s.hreqs := rfl
@[simp] theorem State.send_engReads (s : State) (p : Packet) : (s.send p).engReads = s.engReads := rfl
@[simp] theorem State.send_engWant (s : State) (p : Packet) : (s.send p).engWant = s.engWant := rfl
@[simp] theorem State.send_xp (s : State) (p : Packet) : (s.send p).xp = s.xp := rfl
@[simp] theorem State.send_rings (s : State) (p : Packet) : (s.send p).rings = s.rings := rfl
@[simp] theorem State.send_escOut (s : State) (p : Packet) : (s.send p).escOut = s.escOut := rfl
@[simp] theorem State.send_tally (s : State) (p : Packet) : (s.send p).tally = s.tally := rfl
@[simp] theorem State.send_chr (s : State) (p : Packet) : (s.send p).chr = s.chr := rfl
@[simp] theorem State.send_out (s : State) (p : Packet) : (s.send p).out = s.out := rfl
@[simp] theorem State.send_draws (s : State) (p : Packet) : (s.send p).draws = s.draws := rfl

@[simp] theorem State.emit_out (s : State) (o : Out) : (s.emit o).out = o :: s.out := rfl
@[simp] theorem State.send_net (s : State) (p : Packet) : (s.send p).net = s.net ++ [p] := rfl

/-! ### Fields of a core after a register is written -/

@[simp] theorem writeS_v (i : Nat) (x : Word) (k : Core) : (writeS i x k).v = k.v := by unfold writeS; split <;> rfl
@[simp] theorem writeS_p (i : Nat) (x : Word) (k : Core) : (writeS i x k).p = k.p := by unfold writeS; split <;> rfl
@[simp] theorem writeS_mb (i : Nat) (x : Word) (k : Core) : (writeS i x k).mb = k.mb := by unfold writeS; split <;> rfl
@[simp] theorem writeS_istore (i : Nat) (x : Word) (k : Core) : (writeS i x k).istore = k.istore := by unfold writeS; split <;> rfl
@[simp] theorem writeS_store (i : Nat) (x : Word) (k : Core) : (writeS i x k).store = k.store := by unfold writeS; split <;> rfl
@[simp] theorem writeS_sendq (i : Nat) (x : Word) (k : Core) : (writeS i x k).sendq = k.sendq := by unfold writeS; split <;> rfl
@[simp] theorem writeS_arrayq (i : Nat) (x : Word) (k : Core) : (writeS i x k).arrayq = k.arrayq := by unfold writeS; split <;> rfl
@[simp] theorem writeS_bufs (i : Nat) (x : Word) (k : Core) : (writeS i x k).bufs = k.bufs := by unfold writeS; split <;> rfl
@[simp] theorem writeS_acc (i : Nat) (x : Word) (k : Core) : (writeS i x k).acc = k.acc := by unfold writeS; split <;> rfl
@[simp] theorem writeS_vmode (i : Nat) (x : Word) (k : Core) : (writeS i x k).vmode = k.vmode := by unfold writeS; split <;> rfl
@[simp] theorem writeS_haltTo (i : Nat) (x : Word) (k : Core) : (writeS i x k).haltTo = k.haltTo := by unfold writeS; split <;> rfl
@[simp] theorem writeS_arrived (i : Nat) (x : Word) (k : Core) : (writeS i x k).arrived = k.arrived := by unfold writeS; split <;> rfl
@[simp] theorem writeS_held (i : Nat) (x : Word) (k : Core) : (writeS i x k).held = k.held := by unfold writeS; split <;> rfl
@[simp] theorem writeS_longRec (i : Nat) (x : Word) (k : Core) : (writeS i x k).longRec = k.longRec := by unfold writeS; split <;> rfl
@[simp] theorem writeS_wait (i : Nat) (x : Word) (k : Core) : (writeS i x k).wait = k.wait := by unfold writeS; split <;> rfl
@[simp] theorem writeS_wptHit (i : Nat) (x : Word) (k : Core) : (writeS i x k).wptHit = k.wptHit := by unfold writeS; split <;> rfl
@[simp] theorem writeS_wbq (i : Nat) (x : Word) (k : Core) : (writeS i x k).wbq = k.wbq := by unfold writeS; split <;> rfl

@[simp] theorem writeV_s (i : Nat) (x : BitVec 512) (k : Core) : (writeV i x k).s = k.s := rfl
@[simp] theorem writeV_p (i : Nat) (x : BitVec 512) (k : Core) : (writeV i x k).p = k.p := rfl
@[simp] theorem writeV_mb (i : Nat) (x : BitVec 512) (k : Core) : (writeV i x k).mb = k.mb := rfl
@[simp] theorem writeV_istore (i : Nat) (x : BitVec 512) (k : Core) : (writeV i x k).istore = k.istore := rfl
@[simp] theorem writeV_store (i : Nat) (x : BitVec 512) (k : Core) : (writeV i x k).store = k.store := rfl
@[simp] theorem writeV_sendq (i : Nat) (x : BitVec 512) (k : Core) : (writeV i x k).sendq = k.sendq := rfl
@[simp] theorem writeV_arrayq (i : Nat) (x : BitVec 512) (k : Core) : (writeV i x k).arrayq = k.arrayq := rfl
@[simp] theorem writeV_bufs (i : Nat) (x : BitVec 512) (k : Core) : (writeV i x k).bufs = k.bufs := rfl
@[simp] theorem writeV_acc (i : Nat) (x : BitVec 512) (k : Core) : (writeV i x k).acc = k.acc := rfl
@[simp] theorem writeV_vmode (i : Nat) (x : BitVec 512) (k : Core) : (writeV i x k).vmode = k.vmode := rfl
@[simp] theorem writeV_haltTo (i : Nat) (x : BitVec 512) (k : Core) : (writeV i x k).haltTo = k.haltTo := rfl
@[simp] theorem writeV_arrived (i : Nat) (x : BitVec 512) (k : Core) : (writeV i x k).arrived = k.arrived := rfl
@[simp] theorem writeV_held (i : Nat) (x : BitVec 512) (k : Core) : (writeV i x k).held = k.held := rfl
@[simp] theorem writeV_longRec (i : Nat) (x : BitVec 512) (k : Core) : (writeV i x k).longRec = k.longRec := rfl
@[simp] theorem writeV_wait (i : Nat) (x : BitVec 512) (k : Core) : (writeV i x k).wait = k.wait := rfl
@[simp] theorem writeV_wptHit (i : Nat) (x : BitVec 512) (k : Core) : (writeV i x k).wptHit = k.wptHit := rfl
@[simp] theorem writeV_wbq (i : Nat) (x : BitVec 512) (k : Core) : (writeV i x k).wbq = k.wbq := rfl

@[simp] theorem writeP_s (i : Nat) (x : BitVec 16) (k : Core) : (writeP i x k).s = k.s := by unfold writeP; split <;> rfl
@[simp] theorem writeP_v (i : Nat) (x : BitVec 16) (k : Core) : (writeP i x k).v = k.v := by unfold writeP; split <;> rfl
@[simp] theorem writeP_mb (i : Nat) (x : BitVec 16) (k : Core) : (writeP i x k).mb = k.mb := by unfold writeP; split <;> rfl
@[simp] theorem writeP_istore (i : Nat) (x : BitVec 16) (k : Core) : (writeP i x k).istore = k.istore := by unfold writeP; split <;> rfl
@[simp] theorem writeP_store (i : Nat) (x : BitVec 16) (k : Core) : (writeP i x k).store = k.store := by unfold writeP; split <;> rfl
@[simp] theorem writeP_sendq (i : Nat) (x : BitVec 16) (k : Core) : (writeP i x k).sendq = k.sendq := by unfold writeP; split <;> rfl
@[simp] theorem writeP_arrayq (i : Nat) (x : BitVec 16) (k : Core) : (writeP i x k).arrayq = k.arrayq := by unfold writeP; split <;> rfl
@[simp] theorem writeP_bufs (i : Nat) (x : BitVec 16) (k : Core) : (writeP i x k).bufs = k.bufs := by unfold writeP; split <;> rfl
@[simp] theorem writeP_acc (i : Nat) (x : BitVec 16) (k : Core) : (writeP i x k).acc = k.acc := by unfold writeP; split <;> rfl
@[simp] theorem writeP_vmode (i : Nat) (x : BitVec 16) (k : Core) : (writeP i x k).vmode = k.vmode := by unfold writeP; split <;> rfl
@[simp] theorem writeP_haltTo (i : Nat) (x : BitVec 16) (k : Core) : (writeP i x k).haltTo = k.haltTo := by unfold writeP; split <;> rfl
@[simp] theorem writeP_arrived (i : Nat) (x : BitVec 16) (k : Core) : (writeP i x k).arrived = k.arrived := by unfold writeP; split <;> rfl
@[simp] theorem writeP_held (i : Nat) (x : BitVec 16) (k : Core) : (writeP i x k).held = k.held := by unfold writeP; split <;> rfl
@[simp] theorem writeP_longRec (i : Nat) (x : BitVec 16) (k : Core) : (writeP i x k).longRec = k.longRec := by unfold writeP; split <;> rfl
@[simp] theorem writeP_wait (i : Nat) (x : BitVec 16) (k : Core) : (writeP i x k).wait = k.wait := by unfold writeP; split <;> rfl
@[simp] theorem writeP_wptHit (i : Nat) (x : BitVec 16) (k : Core) : (writeP i x k).wptHit = k.wptHit := by unfold writeP; split <;> rfl
@[simp] theorem writeP_wbq (i : Nat) (x : BitVec 16) (k : Core) : (writeP i x k).wbq = k.wbq := by unfold writeP; split <;> rfl

/-! ### Registers and cores -/

@[simp] theorem State.rd_wr_self (s : State) (off : Nat) (w : Word) : (s.wr off w).rd off = w := by
  simp [State.rd, State.wr]

theorem State.rd_wr_ne (s : State) {off q : Nat} (w : Word) (h : off ≠ q) : (s.wr off w).rd q = s.rd q := by
  simp [State.rd, State.wr, tfind_tset_ne _ _ h]

theorem State.rd_setFld_ne (s : State) {off q : Nat} (hi lo n : Nat) (h : off ≠ q) : (s.setFld off hi lo n).rd q = s.rd q :=
  State.rd_wr_ne s _ h

@[simp] theorem State.rd_setFld_self (s : State) (off hi lo n : Nat) : (s.setFld off hi lo n).rd off = setBits (s.rd off) hi lo n :=
  State.rd_wr_self s _ _

@[simp] theorem State.rd_setCore (s : State) (c q : Nat) (k : Core) : (s.setCore c k).rd q = s.rd q := rfl
@[simp] theorem State.rd_modCore (s : State) (c q : Nat) (f : Core → Core) : (s.modCore c f).rd q = s.rd q := rfl
@[simp] theorem State.rd_emit (s : State) (q : Nat) (o : Out) : (s.emit o).rd q = s.rd q := rfl
@[simp] theorem State.rd_send (s : State) (q : Nat) (p : Packet) : (s.send p).rd q = s.rd q := rfl

@[simp] theorem State.core_wr (s : State) (c off : Nat) (w : Word) : (s.wr off w).core c = s.core c := rfl
@[simp] theorem State.core_setFld (s : State) (c off hi lo n : Nat) : (s.setFld off hi lo n).core c = s.core c := rfl
@[simp] theorem State.core_satFld (s : State) (c off hi lo n : Nat) : (s.satFld off hi lo n).core c = s.core c := rfl
@[simp] theorem State.core_emit (s : State) (c : Nat) (o : Out) : (s.emit o).core c = s.core c := rfl
@[simp] theorem State.core_send (s : State) (c : Nat) (p : Packet) : (s.send p).core c = s.core c := rfl

@[simp] theorem State.core_setCore_self (s : State) (c : Nat) (k : Core) : (s.setCore c k).core c = k := by
  simp [State.core, State.setCore]

theorem State.core_setCore_ne (s : State) {c d : Nat} (k : Core) (h : c ≠ d) : (s.setCore c k).core d = s.core d := by
  simp [State.core, State.setCore, tget_tset_ne _ _ _ h]

@[simp] theorem State.core_modCore_self (s : State) (c : Nat) (f : Core → Core) : (s.modCore c f).core c = f (s.core c) :=
  State.core_setCore_self s c _

theorem State.core_modCore_ne (s : State) {c d : Nat} (f : Core → Core) (h : c ≠ d) : (s.modCore c f).core d = s.core d :=
  State.core_setCore_ne s _ h

/-- A field as it was set, cut to its width. -/
theorem State.fld_setFld_self (s : State) (off hi lo n : Nat) (h : lo ≤ hi) (h64 : hi < 64) : (s.setFld off hi lo n).fld off hi lo = n % 2 ^ (hi + 1 - lo) := by
  simp [State.fld, bits_setBits_self _ _ _ _ h h64]

/-- A field that does not meet the one set, of the same register or another. -/
theorem State.fld_setFld_ne (s : State) (off hi lo n q a b : Nat) (h : lo ≤ hi) (h64 : hi < 64) (hd : off ≠ q ∨ a < lo ∨ hi < b) :
    (s.setFld off hi lo n).fld q a b = s.fld q a b := by
  unfold State.fld
  by_cases e : off = q
  · subst e
    rw [State.rd_setFld_self, bits_setBits_ne _ _ _ _ _ _ h h64 (hd.resolve_left (fun k => k rfl))]
  · rw [State.rd_setFld_ne s _ _ _ e]

theorem State.flag_setFld_ne (s : State) (off hi lo n q i : Nat) (h : lo ≤ hi) (h64 : hi < 64) (hd : off ≠ q ∨ i < lo ∨ hi < i) :
    (s.setFld off hi lo n).flag q i = s.flag q i := by
  unfold State.flag
  by_cases e : off = q
  · subst e
    rw [State.rd_setFld_self, bit_setBits_ne _ _ _ _ _ h h64 (hd.resolve_left (fun k => k rfl))]
  · rw [State.rd_setFld_ne s _ _ _ e]

theorem State.flag_setFld_mem (s : State) (off hi lo n i : Nat) (h64 : hi < 64) (hl : lo ≤ i) (hi' : i ≤ hi) : (s.setFld off hi lo n).flag off i = n.testBit (i - lo) := by
  simp [State.flag, bit_setBits_mem _ _ _ _ _ h64 hl hi']

/-! ### A core's registers -/

theorem vget_vset {α : Type} {n : Nat} (v : Vector α n) (i j : Nat) (x d : α) : vget (vset v i x) j d = if i = j ∧ j < n then x else vget v j d := by
  unfold vget vset
  by_cases hj : j < n
  · by_cases hi : i < n
    · simp only [hj, hi, dite_true, and_true]
      by_cases e : i = j
      · subst e; simp
      · simp [e, Vector.getElem_set_ne (h := e)]
    · have e : i ≠ j := by omega
      simp [hj, hi, e]
  · simp [hj]

/-- A scalar register after one is written: s0 keeps reading 0. -/
theorem readS_writeS (k : Core) (i j : Nat) (x : Word) (hj : j < 32) : readS (writeS i x k) j = if i = j ∧ i ≠ 0 then x else readS k j := by
  unfold readS writeS
  by_cases h0 : i = 0
  · simp [h0]
  · by_cases hj0 : j = 0
    · subst hj0; simp [h0]
    · simp [h0, hj0, vget_vset, hj]

/-- A vector register after one is written. -/
theorem readV_writeV (k : Core) (i j : Nat) (x : BitVec 512) (hj : j < 16) : readV (writeV i x k) j = if i = j then x else readV k j := by
  simp [readV, writeV, vget_vset, hj]

/-- A predicate register after one is written: p0 keeps reading 0xFFFF. -/
theorem readP_writeP (k : Core) (i j : Nat) (x : BitVec 16) (hj : j < 8) : readP (writeP i x k) j = if i = j ∧ i ≠ 0 then x else readP k j := by
  unfold readP writeP
  by_cases h0 : i = 0
  · simp [h0]
  · by_cases hj0 : j = 0
    · subst hj0; simp [h0]
    · simp [h0, hj0, vget_vset, hj]

end Sys2Proof.Machine
end

