-- ==== Sys2Proof/Laws/Issue.lean ====
section
/-! SUPPORT. Laws of issue and retirement: what `issue` comes to for an instruction that executes, and what its end leaves unchanged. -/

namespace Sys2Proof.Machine

theorem fetchWord_clean {c : Nat} {w : Word} {s : State} (h : Fetches c w s) : fetchWord c s = (some w, s) := by
  simp [fetchWord, h.clean]

/-- An instruction that executes comes to the end of its body. -/
theorem issue_executes {c cls op : Nat} {w : Word} {s : State} (h : Executes c cls op w s) {ops : List Nat} (hop : op ∈ ops) (body : Word → State → Eff) :
    issue c cls ops body s = finish c s (body w s) := by
  have h1 : (!canIssue s c) = false := by simp [h.fetches.issues]
  have h2 : (iClass w != cls || !ops.contains (iOp w)) = false := by simp [h.clsEq, h.opEq, hop]
  have h3 : (!elementwise cls && !(effPred (s.core c) w).getLsbD 0) = false := by
    rcases h.pred with h | h <;> simp [h]
  simp only [issue, h1, fetchWord_clean h.fetches, h.fetches.legal, h2, h.owed, h.free, h3, Bool.not_true, Bool.false_eq_true, if_false]

theorem corePc_setPc (c pc : Nat) (s : State) (h : pc < 8192) : corePc (setPc c pc s) c = pc := by
  simp only [corePc, setPc]
  rw [State.fld_setFld_self _ _ _ _ _ (by omega) (by omega)]
  exact Nat.mod_eq_of_lt h

theorem rCoreCtl_ne_rCoreStat (c : Nat) : rCoreCtl c ≠ rCoreStat c := by
  unfold rCoreCtl rCoreStat
  omega

/-- After an instruction with no halt due, the state is as it retired. -/
theorem afterRetire_goes {c : Nat} {t : State} (h1 : t.flag (rCoreCtl c) 2 = false) (h2 : (t.core c).wptHit = false) : afterRetire c none t = t := by
  simp [afterRetire, haltsDue, h1, h2]

/-- A PC set to pc in a state that differs from s in core c and the draws alone. -/
theorem onlyCore_setPc {c pc : Nat} {s t : State} (hp : pc < 8192) (ht : t = { s with cores := t.cores, draws := t.draws }) (ho : ∀ d, d ≠ c → t.core d = s.core d) :
    OnlyCore c pc s (setPc c pc t) := by
  have hr : ∀ off, t.rd off = s.rd off := fun off => by rw [ht]; rfl
  refine ⟨corePc_setPc c pc t hp, fun hi lo h => ?_, fun off h => ?_, fun d hd => ho d hd, ?_⟩
  · unfold setPc
    rw [State.fld_setFld_ne _ _ _ _ _ _ _ _ (by omega) (by omega) (Or.inr h)]
    unfold State.fld
    rw [hr]
  · exact (State.rd_setFld_ne t _ _ _ (Ne.symm h)).trans (hr off)
  · rw [ht]
    rfl

/-- The end of an instruction that is done. -/
theorem finish_done {c : Nat} {s t : State} (hg : Goes c s) (ht : t = { s with cores := t.cores, draws := t.draws }) (hw : (t.core c).wptHit = false) :
    finish c s (.done t) = setPc c (corePc s c + 1) t := by
  have hr : ∀ off, t.rd off = s.rd off := fun off => by rw [ht]; rfl
  have hpc : corePc t c = corePc s c := by simp only [corePc, State.fld, hr]
  have hlt := hg.pc
  simp only [finish, hpc]
  rw [if_neg (by omega)]
  refine afterRetire_goes ?_ hw
  unfold setPc
  rw [State.flag_setFld_ne _ _ _ _ _ _ _ (by omega) (by omega) (Or.inl (rCoreCtl_ne_rCoreStat c).symm)]
  have := hg.step1
  simp only [State.flag, hr] at this ⊢
  exact this

/-- The end of an instruction that transfers control. -/
theorem finish_jump {c pc : Nat} {s t : State} (hg : Goes c s) (ht : t = { s with cores := t.cores, draws := t.draws }) (hw : (t.core c).wptHit = false) :
    finish c s (.jump t pc) = setPc c pc t := by
  have hr : ∀ off, t.rd off = s.rd off := fun off => by rw [ht]; rfl
  simp only [finish]
  refine afterRetire_goes ?_ hw
  unfold setPc
  rw [State.flag_setFld_ne _ _ _ _ _ _ _ (by omega) (by omega) (Or.inl (rCoreCtl_ne_rCoreStat c).symm)]
  have := hg.step1
  simp only [State.flag, hr] at this ⊢
  exact this

/-- A core changed by f: the state an instruction's body gives, as the two lemmas above ask for it. -/
theorem modCore_only {c : Nat} {s : State} (f : Core → Core) :
    s.modCore c f = { s with cores := (s.modCore c f).cores, draws := (s.modCore c f).draws } ∧ ∀ d, d ≠ c → (s.modCore c f).core d = s.core d :=
  ⟨rfl, fun _ h => State.core_modCore_ne s f (Ne.symm h)⟩

/-- An instruction that writes a scalar register and is done. -/
theorem finish_doneS {c i : Nat} {x : Word} {s : State} (hg : Goes c s) :
    OnlyCore c (corePc s c + 1) s (finish c s (doneS c i x s)) ∧ ScalarWritten c i x s (finish c s (doneS c i x s)) := by
  have hw : ((s.modCore c (writeS i x)).core c).wptHit = false := by simp [hg.watch]
  rw [doneS, finish_done hg (modCore_only _).1 hw]
  have hp := hg.pc
  refine ⟨onlyCore_setPc (by omega) (modCore_only _).1 (modCore_only _).2, ?_, fun j hj => ?_⟩
  · show (s.modCore c (writeS i x)).core c = { s.core c with s := ((s.modCore c (writeS i x)).core c).s }
    rw [State.core_modCore_self]
    unfold writeS
    split <;> rfl
  · show readS ((s.modCore c (writeS i x)).core c) j = _
    rw [State.core_modCore_self, readS_writeS _ _ _ _ hj]
    simp only [eq_comm]

/-- An instruction that writes a vector register, draws counted or not, and is done. -/
theorem finish_doneV {c i n : Nat} {x : BitVec 512} {s : State} (hg : Goes c s) :
    OnlyCore c (corePc s c + 1) s (finish c s (.done (({ s with draws := n } : State).modCore c (writeV i x)))) ∧
      VectorWritten c i x s (finish c s (.done (({ s with draws := n } : State).modCore c (writeV i x)))) := by
  have hw : ((({ s with draws := n } : State).modCore c (writeV i x)).core c).wptHit = false := by
    rw [State.core_modCore_self]
    exact hg.watch
  rw [finish_done hg rfl hw]
  have hp := hg.pc
  refine ⟨onlyCore_setPc (by omega) rfl (fun d h => State.core_modCore_ne _ _ (Ne.symm h)), ?_, fun j hj => ?_⟩
  · show (({ s with draws := n } : State).modCore c (writeV i x)).core c = { s.core c with v := ((({ s with draws := n } : State).modCore c (writeV i x)).core c).v }
    rw [State.core_modCore_self]
    rfl
  · show readV ((({ s with draws := n } : State).modCore c (writeV i x)).core c) j = _
    rw [State.core_modCore_self, readV_writeV _ _ _ _ hj]
    simp only [eq_comm]
    rfl

/-- An instruction that writes a predicate register and is done. -/
theorem finish_doneP {c i : Nat} {x : BitVec 16} {s : State} (hg : Goes c s) :
    OnlyCore c (corePc s c + 1) s (finish c s (.done (s.modCore c (writeP i x)))) ∧
      PredicateWritten c i x s (finish c s (.done (s.modCore c (writeP i x)))) := by
  have hw : ((s.modCore c (writeP i x)).core c).wptHit = false := by simp [hg.watch]
  rw [finish_done hg (modCore_only _).1 hw]
  have hp := hg.pc
  refine ⟨onlyCore_setPc (by omega) (modCore_only _).1 (modCore_only _).2, ?_, fun j hj => ?_⟩
  · show (s.modCore c (writeP i x)).core c = { s.core c with p := ((s.modCore c (writeP i x)).core c).p }
    rw [State.core_modCore_self]
    unfold writeP
    split <;> rfl
  · show readP ((s.modCore c (writeP i x)).core c) j = _
    rw [State.core_modCore_self, readP_writeP _ _ _ _ hj]
    simp only [eq_comm]

/-! ### The core store -/

/-- Words that read clean are read without effect. -/
theorem readWords_clean {c : Nat} {s : State} (m : Nat → Word) (l : List Nat) (h : ∀ j ∈ l, cwRead (s.core c).store j = .clean ⟨m j, false⟩) :
    readWords c l s = .ok (l.map m) s := by
  induction l with
  | nil => rfl
  | cons j l ih =>
    simp only [readWords, h j List.mem_cons_self, ih (fun k hk => h k (List.mem_cons_of_mem _ hk)), Bool.false_eq_true, if_false, List.map_cons]

/-- Where no watchpoint matches, an access sets nothing. -/
theorem watch_noMatch {c kind : Nat} {s : State} (ws : List Nat) (h : ∀ k i, wptMatch s c k i = false) : watch c kind ws s = s := by
  simp [watch, h]

/-- A watchpoint looks at registers alone. -/
theorem wptMatch_congr {s t : State} (c kind word : Nat) (h : t.regs = s.regs) : wptMatch t c kind word = wptMatch s c kind word := by
  have hr : ∀ off, t.rd off = s.rd off := fun off => by unfold State.rd; rw [h]
  unfold wptMatch dbgUnlocked State.flag State.fld
  simp only [hr]

end Sys2Proof.Machine
end

