-- ==== Sys2Proof/Laws/Keeps.lean ====
section
/-! SUPPORT. What every command keeps, for the parts it is made of: the rules by which `Keeps` goes through conditions, loops, registers, cores and memory. -/

namespace Sys2Proof.Machine

/-- The outcome is a next state, and it keeps what every command keeps. -/
def KeepsR (r : State) (o : Res) : Prop := ∃ t, o = .next t ∧ Keeps r t

/-- So does the state an instruction comes to. -/
def KeepsE (r : State) : Eff → Prop
  | .done t => Keeps r t
  | .jump t _ => Keeps r t
  | .stall => True
  | .trap _ _ _ t => Keeps r t
  | .halt t _ => Keeps r t
  | .wait t => Keeps r t
  | .skip t => Keeps r t

/-- So does the state of a read of core-store words. -/
def KeepsRd (r : State) : Rd → Prop
  | .ok _ t => Keeps r t
  | .bad _ _ t => Keeps r t

/-- So does the state, where there is one. -/
def KeepsO (r : State) (o : Option State) : Prop := ∀ t, o = some t → Keeps r t

variable {r s t : State}
variable {net : List Packet} {links : Tab LinkSt} {ports : Tab PortSt} {grants : Tab Grant} {reqs : Tab MeshReq} {res : Tab Word} {felem : Tab Nat} {migs : Tab (Nat × Nat)} {work : Tab Word} {staged : Tab Word} {limbs : Tab Limb} {occ : Tab Occ} {samp : Samp} {plans : Tab PlanRun} {step : StepSt} {sync : Sync} {pwr : Power} {tray : Tray} {plate : Plate} {dark : Dark} {boot : Boot} {host : HostSt} {obs : Obs} {report : Nat} {hreqs : Tab HostReq} {engReads : List EngRead} {engWant : List (Nat × Nat × Nat)} {xp : Xport} {rings : Tab (List (List Word))} {escOut : Tab Nat} {tally : Tab Nat} {chr : Tab Chr}

theorem keeps_refl (s : State) : Keeps s s := ⟨rfl, id, le_refl _, List.suffix_refl _⟩

theorem keeps_trans (h : Keeps r s) (k : Keeps s t) : Keeps r t :=
  ⟨k.pending.trans h.pending, k.inv ∘ h.inv, h.draws.trans k.draws, h.out.trans k.out⟩

theorem keeps_of_eq (h : Keeps r s) (hp : t.pending = s.pending) (hm : t.mem = s.mem) (hx : t.memX = s.memX) (hr : t.regs = s.regs)
    (hc : t.cores = s.cores) (hf : t.fst = s.fst) (hd : t.draws = s.draws) (ho : t.out = s.out) : Keeps r t := by
  refine ⟨hp.trans h.pending, fun k => ?_, hd ▸ h.draws, ho ▸ h.out⟩
  obtain ⟨a, b, c, d, e⟩ := h.inv k
  refine ⟨?_, by rwa [hx], by rwa [hr], by rwa [hc], by rwa [hf]⟩
  unfold MemInv at a ⊢
  rwa [hm]

/-- A state whose queue, tables, draws and record of the outside are those of s keeps what s keeps, whatever its other fields hold. -/
theorem keeps_mk (h : Keeps r s) :
    Keeps r (State.mk s.pending s.regs s.cores net links ports grants reqs s.fst s.mem s.memX res felem migs work staged limbs occ samp plans step sync pwr tray plate dark boot host obs report hreqs engReads engWant xp rings escOut tally chr s.out s.draws) :=
  keeps_of_eq h rfl rfl rfl rfl rfl rfl rfl rfl

/-- The same with further draws made. -/
theorem keeps_mk_draws (h : Keeps r s) {n : Nat} :
    Keeps r (State.mk s.pending s.regs s.cores net links ports grants reqs s.fst s.mem s.memX res felem migs work staged limbs occ samp plans step sync pwr tray plate dark boot host obs report hreqs engReads engWant xp rings escOut tally chr s.out (s.draws + n)) :=
  ⟨h.pending, fun k => have j := h.inv k; ⟨j.mem, j.poison, j.regs, j.cores, j.fieldStores⟩, Nat.le_add_right_of_le h.draws, h.out⟩

theorem keeps_inv (h : Keeps r s) (hp : t.pending = s.pending) (hd : s.draws ≤ t.draws) (ho : s.out <:+ t.out) (hi : StateInv s → StateInv t) : Keeps r t :=
  ⟨hp.trans h.pending, hi ∘ h.inv, h.draws.trans hd, h.out.trans ho⟩

/-! ### Conditions, outcomes and loops -/

theorem keeps_ite {c : Prop} [Decidable c] (ha : Keeps r s) (hb : Keeps r t) : Keeps r (if c then s else t) := by
  split <;> assumption

theorem keepsR_next (h : Keeps r s) : KeepsR r (.next s) := ⟨s, rfl, h⟩
theorem keepsE_done (h : Keeps r s) : KeepsE r (.done s) := h
theorem keepsE_jump {n : Nat} (h : Keeps r s) : KeepsE r (.jump s n) := h
theorem keepsE_stall : KeepsE r .stall := trivial
theorem keepsE_trap {a b : Nat} {i : Word} (h : Keeps r s) : KeepsE r (.trap a b i s) := h
theorem keepsE_halt {n : Nat} (h : Keeps r s) : KeepsE r (.halt s n) := h
theorem keepsE_wait (h : Keeps r s) : KeepsE r (.wait s) := h
theorem keepsE_skip (h : Keeps r s) : KeepsE r (.skip s) := h
theorem keepsRd_ok {ws : List Word} (h : Keeps r s) : KeepsRd r (.ok ws s) := h
theorem keepsRd_bad {a b : Nat} (h : Keeps r s) : KeepsRd r (.bad a b s) := h
theorem keepsO_none : KeepsO r none := fun _ e => nomatch e
theorem keepsO_some (h : Keeps r s) : KeepsO r (some s) := fun _ e => Option.some.inj e ▸ h

theorem keeps_getD {o : Option State} (h : KeepsO r o) (hs : Keeps r s) : Keeps r (o.getD s) := by
  cases o with
  | none => exact hs
  | some t => exact h t rfl

theorem keepsO_map_state {o : Option State} {f : State → State} (h : KeepsO r o) (hf : ∀ t, Keeps r t → Keeps r (f t)) : KeepsO r (o.map f) := by
  intro t e
  obtain ⟨u, hu, rfl⟩ := Option.map_eq_some_iff.1 e
  exact hf u (h u hu)
theorem keepsO_map {α : Type} {o : Option α} {f : α → State} (hf : ∀ a, Keeps r (f a)) : KeepsO r (o.map f) := by
  intro t e
  obtain ⟨u, _, rfl⟩ := Option.map_eq_some_iff.1 e
  exact hf u

theorem keeps_of_pair {α : Type} {p : α × State} {a : α} (h : Keeps r p.2) (e : p = (a, t)) : Keeps r t := by rw [e] at h; exact h
theorem keeps_of_pair' {α β : Type} {p : α × β × State} {a : α} {b : β} (h : Keeps r p.2.2) (e : p = (a, b, t)) : Keeps r t := by rw [e] at h; exact h
theorem keeps_of_option {o : Option State} (h : KeepsO r o) (e : o = some t) : Keeps r t := h t e
theorem keeps_of_ok {x : Rd} {ws : List Word} (h : KeepsRd r x) (e : x = .ok ws t) : Keeps r t := by rw [e] at h; exact h
theorem keeps_of_bad {x : Rd} {a b : Nat} (h : KeepsRd r x) (e : x = .bad a b t) : Keeps r t := by rw [e] at h; exact h

theorem keeps_foldl {α : Type} {l : List α} {f : State → α → State} (hf : ∀ t x, Keeps r t → Keeps r (f t x)) (h : Keeps r s) : Keeps r (l.foldl f s) := by
  induction l generalizing s with
  | nil => exact h
  | cons a l ih => exact ih (hf _ a h)

theorem keeps_foldl_pair {α β : Type} {l : List α} {f : β × State → α → β × State} {p : β × State}
    (hf : ∀ q x, Keeps r q.2 → Keeps r (f q x).2) (h : Keeps r p.2) : Keeps r (l.foldl f p).2 := by
  induction l generalizing p with
  | nil => exact h
  | cons a l ih => exact ih (hf _ a h)

theorem keeps_foldl_first {α β γ : Type} {l : List α} {f : (β × State) × γ → α → (β × State) × γ} {p : (β × State) × γ}
    (hf : ∀ q x, Keeps r q.1.2 → Keeps r (f q x).1.2) (h : Keeps r p.1.2) : Keeps r (l.foldl f p).1.2 := by
  induction l generalizing p with
  | nil => exact h
  | cons a l ih => exact ih (hf _ a h)

theorem keeps_foldl_triple {α β γ : Type} {l : List α} {f : β × γ × State → α → β × γ × State} {p : β × γ × State}
    (hf : ∀ q x, Keeps r q.2.2 → Keeps r (f q x).2.2) (h : Keeps r p.2.2) : Keeps r (l.foldl f p).2.2 := by
  induction l generalizing p with
  | nil => exact h
  | cons a l ih => exact ih (hf _ a h)

theorem keeps_forEach {l : List Nat} {f : Nat → State → State} (hf : ∀ n t, Keeps r t → Keeps r (f n t)) (h : Keeps r s) : Keeps r (forEach l f s) :=
  keeps_foldl (fun t n => hf n t) h

/-! ### The tables -/

theorem keeps_regs (h : Keeps r s) (x : Tab Word) (hx : RisingKeys s.regs → RisingKeys x) : Keeps r { s with regs := x } :=
  keeps_inv h rfl (le_refl _) (List.suffix_refl _) fun k => ⟨k.mem, k.poison, hx k.regs, k.cores, k.fieldStores⟩

theorem keeps_cores (h : Keeps r s) (x : Tab Core) (hx : RisingKeys s.cores → RisingKeys x) : Keeps r { s with cores := x } :=
  keeps_inv h rfl (le_refl _) (List.suffix_refl _) fun k => ⟨k.mem, k.poison, k.regs, hx k.cores, k.fieldStores⟩

theorem keeps_fst (h : Keeps r s) (x : Tab Codeword) (hx : RisingKeys s.fst → RisingKeys x) : Keeps r { s with fst := x } :=
  keeps_inv h rfl (le_refl _) (List.suffix_refl _) fun k => ⟨k.mem, k.poison, k.regs, k.cores, hx k.fieldStores⟩

theorem keeps_mem (h : Keeps r s) (x : Tab Byte) (hx : Canon 0 s.mem → Canon 0 x) : Keeps r { s with mem := x } :=
  keeps_inv h rfl (le_refl _) (List.suffix_refl _) fun k =>
    ⟨(memory_wf_iff x).2 (hx ((memory_wf_iff s.mem).1 k.mem)), k.poison, k.regs, k.cores, k.fieldStores⟩

theorem keeps_memX (h : Keeps r s) (x : Tab Bool) (hx : Canon false s.memX → Canon false x) : Keeps r { s with memX := x } :=
  keeps_inv h rfl (le_refl _) (List.suffix_refl _) fun k =>
    ⟨k.mem, (poison_iff x).2 (hx ((poison_iff s.memX).1 k.poison)), k.regs, k.cores, k.fieldStores⟩

/-- The same where the store range changes and stays canonical. -/
theorem keeps_mk_store (h : Keeps r s) {m : Tab Byte} {x : Tab Bool} :
    (hm : Canon 0 s.mem → Canon 0 m) → (hx : Canon false s.memX → Canon false x) → Keeps r (State.mk s.pending s.regs s.cores net links ports grants reqs s.fst m x res felem migs work staged limbs occ samp plans step sync pwr tray plate dark boot host obs report hreqs engReads engWant xp rings escOut tally chr s.out s.draws) :=
  fun hm hx => keeps_inv h rfl (le_refl _) (List.suffix_refl _) fun k =>
    ⟨(memory_wf_iff m).2 (hm ((memory_wf_iff s.mem).1 k.mem)), (poison_iff x).2 (hx ((poison_iff s.memX).1 k.poison)), k.regs, k.cores, k.fieldStores⟩

/-- The same where the registers, the cores and the field stores change and their tables stay rising. -/
theorem keeps_mk_tabs (h : Keeps r s) {g : Tab Word} {c : Tab Core} {f : Tab Codeword} :
    (hg : RisingKeys s.regs → RisingKeys g) → (hc : RisingKeys s.cores → RisingKeys c) → (hf : RisingKeys s.fst → RisingKeys f) → Keeps r (State.mk s.pending g c net links ports grants reqs f s.mem s.memX res felem migs work staged limbs occ samp plans step sync pwr tray plate dark boot host obs report hreqs engReads engWant xp rings escOut tally chr s.out s.draws) :=
  fun hg hc hf => keeps_inv h rfl (le_refl _) (List.suffix_refl _) fun k => ⟨k.mem, k.poison, hg k.regs, hc k.cores, hf k.fieldStores⟩

theorem keeps_draws (h : Keeps r s) (n : Nat) (hn : s.draws ≤ n) : Keeps r { s with draws := n } :=
  keeps_inv h rfl hn (List.suffix_refl _) fun k => ⟨k.mem, k.poison, k.regs, k.cores, k.fieldStores⟩

end Sys2Proof.Machine
end

