-- ==== Sys2Proof/Laws/KeepsCore.lean ====
section
/-! SUPPORT. Core keep what every command keeps: one law for each function that gives a state. -/

namespace Sys2Proof.Machine

theorem State.emit_keeps {r : State} {s : State} (o : Out) (h0 : Keeps r s) : Keeps r (State.emit s o) :=
  keeps_inv h0 rfl (le_refl _) (List.suffix_cons _ _) fun k => ⟨k.mem, k.poison, k.regs, k.cores, k.fieldStores⟩

theorem State.wr_keeps {r : State} {s : State} (off : Nat) (w : Word) (h0 : Keeps r s) : Keeps r (State.wr s off w) :=
  keeps_regs h0 _ (risingKeys_tset off w)

theorem State.setFld_keeps {r : State} {s : State} (off : Nat) (hi : Nat) (lo : Nat) (n : Nat) (h0 : Keeps r s) : Keeps r (State.setFld s off hi lo n) := by
  unfold State.setFld
  repeat' first
    | with_reducible first | assumption | apply State.wr_keeps

theorem State.satFld_keeps {r : State} {s : State} (off : Nat) (hi : Nat) (lo : Nat) (n : Nat) (h0 : Keeps r s) : Keeps r (State.satFld s off hi lo n) := by
  unfold State.satFld
  repeat' first
    | with_reducible first | assumption | apply State.setFld_keeps

theorem ringPush_keeps {r : State} (a0 : Ring) (body : List Word) {s : State} (h2 : Keeps r s) : Keeps r (ringPush a0 body s) := by
  unfold ringPush
  extract_lets -underBinder y0 y1 y2 y3 y4 y5 y6
  try clear_value y0
  try clear_value y1
  try clear_value y2
  try clear_value y3
  have ky4 : Keeps r y4 := by
    repeat' first
      | with_reducible first | assumption | apply keeps_ite | apply State.satFld_keeps | apply State.setFld_keeps | apply State.wr_keeps
      | dsimp only [y4]
      | split
      | dsimp only
      | with_reducible first | apply keeps_mk
  try clear_value y4
  have ky5 : Keeps r y5 := by
    repeat' first
      | with_reducible first | assumption | apply keeps_ite | apply State.satFld_keeps | apply State.setFld_keeps | apply State.wr_keeps
  try clear_value y5
  have ky6 : Keeps r y6 := by
    repeat' first
      | with_reducible first | assumption | apply keeps_ite | apply State.satFld_keeps
  try clear_value y6
  repeat' first
    | with_reducible first | assumption | apply keeps_ite | apply State.satFld_keeps | apply State.setFld_keeps

theorem nlog_keeps {r : State} (kind : Nat) (cls : Nat) (dkind : Nat) (unit : Nat) (code : Nat) (rep : Nat) (loc : Nat) (a0 : Word) (a1 : Word) (a2 : Word) {s : State} (h10 : Keeps r s) : Keeps r (nlog kind cls dkind unit code rep loc a0 a1 a2 s) := by
  unfold nlog
  repeat' first
    | with_reducible first | assumption | apply ringPush_keeps

theorem nlogEvent_keeps {r : State} (dkind : Nat) (code : Nat) (loc : Nat) (a0 : Word) (a1 : Word) {s : State} (h5 : Keeps r s) : Keeps r (nlogEvent dkind code loc a0 a1 s) := by
  unfold nlogEvent
  repeat' first
    | with_reducible first | assumption | apply nlog_keeps

theorem errMaps_keeps {r : State} (d : Dom) (st : Nat) {s : State} (h2 : Keeps r s) : Keeps r (errMaps d st s) := by
  unfold errMaps
  extract_lets -underBinder y0
  try clear_value y0
  repeat' first
    | with_reducible first | assumption | apply keeps_ite | apply State.setFld_keeps
    | split

theorem errRefresh_keeps {r : State} (d : Dom) {s : State} (h1 : Keeps r s) : Keeps r (errRefresh d s) := by
  unfold errRefresh
  extract_lets -underBinder y0
  try clear_value y0
  repeat' first
    | with_reducible first | assumption | apply State.setFld_keeps | apply errMaps_keeps

theorem wr4_keeps {r : State} (off : Nat) (ws : List Word) {s : State} (h2 : Keeps r s) : Keeps r (wr4 off ws s) := by
  unfold wr4
  repeat' first
    | with_reducible first | assumption | apply State.wr_keeps

theorem takeRecord_keeps {r : State} (d : Dom) (off : Nat) (cls : Nat) (unit : Nat) (cause : Nat) (info : Word) {s : State} (h6 : Keeps r s) : Keeps r (takeRecord d off cls unit cause info s) := by
  unfold takeRecord
  repeat' first
    | with_reducible first | assumption | apply nlog_keeps | apply wr4_keeps

theorem faultPin_keeps {r : State} {s : State} (h0 : Keeps r s) : Keeps r (faultPin s) := by
  unfold faultPin
  repeat' first
    | with_reducible first | assumption | apply State.setFld_keeps

theorem moduleEscalate_keeps {r : State} (unit : Nat) (cause : Nat) {s : State} (h2 : Keeps r s) : Keeps r (moduleEscalate unit cause s) := by
  unfold moduleEscalate
  extract_lets -underBinder y0
  have ky0 : Keeps r y0 := by
    repeat' first
      | with_reducible first | assumption | apply keeps_ite | apply State.satFld_keeps | apply State.setFld_keeps | apply errRefresh_keeps | apply faultPin_keeps
  try clear_value y0
  repeat' first
    | with_reducible first | assumption | apply keeps_ite | apply State.satFld_keeps | apply State.setFld_keeps | apply errRefresh_keeps | apply faultPin_keeps | apply nlog_keeps

theorem State.addFld_keeps {r : State} {s : State} (off : Nat) (hi : Nat) (lo : Nat) (n : Nat) (h0 : Keeps r s) : Keeps r (State.addFld s off hi lo n) := by
  unfold State.addFld
  repeat' first
    | with_reducible first | assumption | apply State.setFld_keeps

theorem recordError_keeps {r : State} (d : Dom) (cls : Nat) (unit : Nat) (cause : Nat) (info : Word) {s : State} (h5 : Keeps r s) : Keeps r (recordError d cls unit cause info s) := by
  unfold recordError
  extract_lets -underBinder y0 y1 y2
  try clear_value y0
  try clear_value y1
  try clear_value y2
  repeat' first
    | with_reducible first | assumption | apply keeps_ite | apply State.addFld_keeps | apply State.satFld_keeps | apply errRefresh_keeps | apply moduleEscalate_keeps | apply nlog_keeps | apply takeRecord_keeps
    | split
    | dsimp only
    | with_reducible first | apply keeps_mk

theorem State.setCore_keeps {r : State} {s : State} (c : Nat) (k : Core) (h0 : Keeps r s) : Keeps r (State.setCore s c k) :=
  keeps_cores h0 _ (risingKeys_tset c k)

theorem State.modCore_keeps {r : State} {s : State} (c : Nat) (f : Core → Core) (h0 : Keeps r s) : Keeps r (State.modCore s c f) := by
  unfold State.modCore
  repeat' first
    | with_reducible first | assumption | apply State.setCore_keeps

theorem enterHalt_keeps {r : State} (c : Nat) (st : Nat) {s : State} (h2 : Keeps r s) : Keeps r (enterHalt c st s) := by
  unfold enterHalt
  extract_lets -underBinder y0 y1 y2
  have ky0 : Keeps r y0 := by
    repeat' first
      | with_reducible first | assumption | intro _ | apply State.modCore_keeps | apply State.setFld_keeps
  try clear_value y0
  have ky1 : Keeps r y1 := by
    repeat' first
      | with_reducible first | assumption | intro _ | apply State.modCore_keeps | apply State.setFld_keeps
  try clear_value y1
  have ky2 : Keeps r y2 := by
    repeat' first
      | with_reducible first | assumption | intro _ | apply State.modCore_keeps | apply State.setFld_keeps
  try clear_value y2
  repeat' first
    | with_reducible first | assumption | intro _ | apply State.modCore_keeps

theorem reqHalt_keeps {r : State} (c : Nat) (st : Nat) {s : State} (h2 : Keeps r s) : Keeps r (reqHalt c st s) := by
  unfold reqHalt
  repeat' first
    | with_reducible first | assumption | intro _ | apply keeps_ite | apply State.modCore_keeps | apply enterHalt_keeps

theorem quiesceField_keeps {r : State} (f : Nat) {s : State} (h1 : Keeps r s) : Keeps r (quiesceField f s) := by
  unfold quiesceField
  repeat' first
    | with_reducible first | assumption | intro _ | apply keeps_forEach | apply State.setFld_keeps | apply reqHalt_keeps

theorem contain_keeps {r : State} (d : Dom) {s : State} (h1 : Keeps r s) : Keeps r (contain d s) := by
  unfold contain
  repeat' first
    | with_reducible first | assumption | intro _ | apply keeps_forEach | apply quiesceField_keeps | apply reqHalt_keeps
    | split

theorem enterFatal_keeps {r : State} {s : State} (h0 : Keeps r s) : Keeps r (enterFatal s) := by
  unfold enterFatal
  repeat' first
    | with_reducible first | assumption | apply State.setFld_keeps | apply errRefresh_keeps | apply faultPin_keeps

theorem raise_keeps {r : State} (d : Dom) (cls : Nat) (unit : Nat) (cause : Nat) (info : Word) {s : State} (h5 : Keeps r s) : Keeps r (raise d cls unit cause info s) := by
  unfold raise
  extract_lets -underBinder y0 y1 y2
  have ky0 : Keeps r y0 := by
    repeat' first
      | with_reducible first | assumption | apply keeps_ite | apply contain_keeps | apply enterFatal_keeps | apply recordError_keeps
  try clear_value y0
  have ky1 : Keeps r y1 := by
    repeat' first
      | with_reducible first | assumption | apply keeps_ite | apply contain_keeps | apply enterFatal_keeps
  try clear_value y1
  have ky2 : Keeps r y2 := by
    repeat' first
      | with_reducible first | assumption | apply keeps_ite | apply contain_keeps
  try clear_value y2
  repeat' first
    | with_reducible first | assumption | apply keeps_ite | apply contain_keeps

theorem plainWrite_keeps {r : State} {s : State} (off : Nat) (new : Word) (h0 : Keeps r s) : Keeps r (plainWrite s off new) := by
  unfold plainWrite
  repeat' first
    | with_reducible first | assumption | apply keeps_ite | apply State.wr_keeps

theorem State.modChr_keeps {r : State} {s : State} (u : Nat) (f : Chr → Chr) (h0 : Keeps r s) : Keeps r (State.modChr s u f) := by
  unfold State.modChr
  repeat' first
    | with_reducible assumption
    | dsimp only
    | with_reducible first | apply keeps_mk

theorem satDur_keeps {r : State} (unit : Nat) (word : Nat) {s : State} (h2 : Keeps r s) : Keeps r (satDur unit word s) := by
  unfold satDur
  repeat' first
    | with_reducible first | assumption | intro _ | apply keeps_ite | apply State.modChr_keeps | apply nlogEvent_keeps

theorem chrClose_keeps {r : State} (unit : Nat) {s : State} (h1 : Keeps r s) : Keeps r (chrClose unit s) := by
  unfold chrClose
  extract_lets -underBinder y0
  have ky0 : Keeps r y0 := by
    repeat' first
      | with_reducible first | assumption | intro _ | apply State.modChr_keeps
  try clear_value y0
  repeat' first
    | with_reducible first | assumption | intro _ | apply State.modChr_keeps | apply satDur_keeps
    | split

theorem closeModuleRecord_keeps {r : State} (abort : Bool) {s : State} (h1 : Keeps r s) : Keeps r (closeModuleRecord abort s) := by
  unfold closeModuleRecord
  extract_lets -underBinder y0
  have ky0 : Keeps r y0 := by
    repeat' first
      | with_reducible first | assumption | apply keeps_ite | apply chrClose_keeps
  try clear_value y0
  repeat' first
    | with_reducible first | assumption | apply keeps_ite | apply chrClose_keeps | apply ringPush_keeps

theorem closeFieldRecord_keeps {r : State} (abort : Bool) (f : Nat) {s : State} (h2 : Keeps r s) : Keeps r (closeFieldRecord abort f s) := by
  unfold closeFieldRecord
  extract_lets -underBinder y0
  have ky0 : Keeps r y0 := by
    repeat' first
      | with_reducible first | assumption | apply keeps_ite | apply chrClose_keeps
  try clear_value y0
  repeat' first
    | with_reducible first | assumption | apply keeps_ite | apply chrClose_keeps | apply ringPush_keeps

theorem closeRecords_keeps {r : State} (abort : Bool) {s : State} (h1 : Keeps r s) : Keeps r (closeRecords abort s) := by
  unfold closeRecords
  repeat' first
    | with_reducible first | assumption | intro _ | apply keeps_forEach | apply closeFieldRecord_keeps | apply closeModuleRecord_keeps

theorem modSpan_keeps {r : State} (d : Nat) {s : State} (h1 : Keeps r s) : Keeps r (modSpan d s) := by
  unfold modSpan
  repeat' first
    | with_reducible first | assumption | intro _ | apply keeps_ite | apply State.modChr_keeps

theorem modSpanEnd_keeps {r : State} (d : Nat) {s : State} (h1 : Keeps r s) : Keeps r (modSpanEnd d s) := by
  unfold modSpanEnd
  repeat' first
    | with_reducible first | assumption | intro _ | apply State.modChr_keeps

theorem State.send_keeps {r : State} {s : State} (p : Packet) (h0 : Keeps r s) : Keeps r (State.send s p) := by
  unfold State.send
  repeat' first
    | with_reducible assumption
    | dsimp only
    | with_reducible first | apply keeps_mk

theorem nlogCleared_keeps {r : State} (d : Dom) (w0 : Word) (w3 : Word) {s : State} (h3 : Keeps r s) : Keeps r (nlogCleared d w0 w3 s) := by
  unfold nlogCleared
  repeat' first
    | with_reducible first | assumption | apply nlog_keeps

theorem clearAct_keeps {r : State} (d : Dom) (nseq : Nat) {s : State} (h2 : Keeps r s) : Keeps r (clearAct d nseq s) := by
  unfold clearAct
  extract_lets -underBinder y0 y1
  try clear_value y0
  have ky1 : Keeps r y1 := by
    repeat' first
      | with_reducible first | assumption | apply keeps_ite | apply State.satFld_keeps | apply errRefresh_keeps | apply nlogCleared_keeps | apply wr4_keeps
  try clear_value y1
  repeat' first
    | with_reducible first | assumption | apply keeps_ite | apply State.satFld_keeps | apply errRefresh_keeps | apply nlogCleared_keeps | apply wr4_keeps

theorem clearPend_keeps {r : State} (d : Dom) (nseq : Nat) {s : State} (h2 : Keeps r s) : Keeps r (clearPend d nseq s) := by
  unfold clearPend
  extract_lets -underBinder y0
  try clear_value y0
  repeat' first
    | with_reducible first | assumption | apply keeps_ite | apply State.satFld_keeps | apply errRefresh_keeps | apply nlogCleared_keeps | apply wr4_keeps

theorem errClrWrite_keeps {r : State} (d : Dom) (v : Word) {s : State} (h2 : Keeps r s) : Keeps r (errClrWrite d v s) := by
  unfold errClrWrite
  extract_lets -underBinder y0
  try clear_value y0
  repeat' first
    | with_reducible first | assumption | apply keeps_ite | apply clearAct_keeps | apply clearPend_keeps

theorem recount_keeps {r : State} (f : Nat) {s : State} (h1 : Keeps r s) : Keeps r (recount f s) := by
  unfold recount
  repeat' first
    | with_reducible first | assumption | apply State.setFld_keeps

theorem coreCorrected_keeps {r : State} (c : Nat) (instr : Bool) (i : Nat) {s : State} (h3 : Keeps r s) : Keeps r (coreCorrected c instr i s) := by
  unfold coreCorrected
  extract_lets -underBinder y0 y1
  have ky0 : Keeps r y0 := by
    repeat' first
      | with_reducible first | assumption | intro _ | apply State.modCore_keeps | apply State.satFld_keeps
  try clear_value y0
  have ky1 : Keeps r y1 := by
    repeat' first
      | with_reducible first | assumption | intro _ | apply State.modCore_keeps | apply State.satFld_keeps
      | dsimp only [y1]
      | dsimp only
      | with_reducible first | apply keeps_mk
  try clear_value y1
  repeat' first
    | with_reducible first | assumption | intro _ | apply State.modCore_keeps

theorem readEffect_keeps {r : State} {s : State} (off : Nat) (h0 : Keeps r s) : Keeps r (readEffect s off) := by
  unfold readEffect
  repeat' first
    | with_reducible first | assumption | intro _ | apply keeps_ite | apply keeps_foldl_triple | apply keeps_foldl_first | apply keeps_foldl_pair | apply keeps_foldl | apply State.wr_keeps

theorem writeWord_keeps {r : State} (c : Nat) (i : Nat) (w : PWord) {s : State} (h3 : Keeps r s) : Keeps r (writeWord c i w s) := by
  unfold writeWord
  repeat' first
    | with_reducible first | assumption | intro _ | apply State.modCore_keeps

theorem coreIdWrite_keeps {r : State} (c : Nat) (v : Word) {s : State} (h2 : Keeps r s) : Keeps r (coreIdWrite c v s) := by
  unfold coreIdWrite
  extract_lets -underBinder y0
  have ky0 : Keeps r y0 := by
    repeat' first
      | with_reducible first | assumption | apply keeps_ite | apply plainWrite_keeps
  try clear_value y0
  repeat' first
    | with_reducible first | assumption | apply keeps_ite | apply plainWrite_keeps | apply recount_keeps

theorem setPc_keeps {r : State} (c : Nat) (pc : Nat) {s : State} (h2 : Keeps r s) : Keeps r (setPc c pc s) := by
  unfold setPc
  repeat' first
    | with_reducible first | assumption | apply State.setFld_keeps

theorem startCore_keeps {r : State} (c : Nat) {s : State} (h1 : Keeps r s) : Keeps r (startCore c s) := by
  unfold startCore
  extract_lets -underBinder y0 y1 y2 y3 y4
  try clear_value y0
  have ky1 : Keeps r y1 := by
    repeat' first
      | with_reducible first | assumption | intro _ | apply keeps_ite | apply State.modCore_keeps | apply State.setFld_keeps
  try clear_value y1
  have ky2 : Keeps r y2 := by
    repeat' first
      | with_reducible first | assumption | intro _ | apply keeps_ite | apply State.modCore_keeps | apply State.setFld_keeps | apply setPc_keeps
  try clear_value y2
  have ky3 : Keeps r y3 := by
    repeat' first
      | with_reducible first | assumption | intro _ | apply keeps_ite | apply State.modCore_keeps | apply State.setFld_keeps
  try clear_value y3
  have ky4 : Keeps r y4 := by
    repeat' first
      | with_reducible first | assumption | intro _ | apply keeps_ite | apply State.modCore_keeps | apply State.setFld_keeps
  try clear_value y4
  repeat' first
    | with_reducible first | assumption | intro _ | apply keeps_ite | apply State.modCore_keeps

theorem resumeCore_keeps {r : State} (c : Nat) {s : State} (h1 : Keeps r s) : Keeps r (resumeCore c s) := by
  unfold resumeCore
  extract_lets -underBinder y0
  have ky0 : Keeps r y0 := by
    repeat' first
      | with_reducible first | assumption | intro _ | apply keeps_ite | apply State.modCore_keeps | apply State.setFld_keeps
  try clear_value y0
  repeat' first
    | with_reducible first | assumption | intro _ | apply keeps_ite | apply State.modCore_keeps | apply State.setFld_keeps

theorem runCore_keeps {r : State} (c : Nat) {s : State} (h1 : Keeps r s) : Keeps r (runCore c s) := by
  unfold runCore
  extract_lets -underBinder y0
  try clear_value y0
  repeat' first
    | with_reducible first | assumption | apply keeps_ite | apply resumeCore_keeps | apply startCore_keeps

theorem haltCore_keeps {r : State} (c : Nat) {s : State} (h1 : Keeps r s) : Keeps r (haltCore c s) := by
  unfold haltCore
  repeat' first
    | with_reducible first | assumption | apply keeps_ite | apply State.setFld_keeps | apply reqHalt_keeps

theorem stepCore_keeps {r : State} (c : Nat) {s : State} (h1 : Keeps r s) : Keeps r (stepCore c s) := by
  unfold stepCore
  extract_lets -underBinder y0
  try clear_value y0
  repeat' first
    | with_reducible first | assumption | apply keeps_ite | apply State.setFld_keeps

theorem coreCtlWrite_keeps {r : State} (c : Nat) (v : Word) {s : State} (h2 : Keeps r s) : Keeps r (coreCtlWrite c v s) := by
  unfold coreCtlWrite
  extract_lets -underBinder y0 y1 y2 y3
  have ky0 : Keeps r y0 := by
    repeat' first
      | with_reducible first | assumption | apply keeps_ite | apply State.setFld_keeps
  try clear_value y0
  try clear_value y1
  have ky2 : Keeps r y2 := by
    repeat' first
      | with_reducible first | assumption | apply keeps_ite | apply State.setFld_keeps | apply haltCore_keeps | apply runCore_keeps
  try clear_value y2
  have ky3 : Keeps r y3 := by
    repeat' first
      | with_reducible first | assumption | apply keeps_ite | apply State.setFld_keeps | apply haltCore_keeps
  try clear_value y3
  repeat' first
    | with_reducible first | assumption | apply keeps_ite | apply State.setFld_keeps | apply haltCore_keeps | apply runCore_keeps | apply stepCore_keeps

theorem coreRegWrite_keeps {r : State} (c : Nat) (o : Nat) (v : Word) {s : State} (h3 : Keeps r s) : Keeps r (coreRegWrite c o v s) := by
  unfold coreRegWrite
  repeat' first
    | with_reducible first | assumption | apply keeps_ite | apply coreCtlWrite_keeps | apply coreIdWrite_keeps | apply errClrWrite_keeps | apply plainWrite_keeps

theorem coreFault_keeps {r : State} (c : Nat) (unit : Nat) (cause : Nat) (info : Word) {s : State} (h4 : Keeps r s) : Keeps r (coreFault c unit cause info s) := by
  unfold coreFault
  repeat' first
    | with_reducible first | assumption | apply raise_keeps

theorem tokArrive_keeps {r : State} (c : Nat) (t : Nat) (g : Nat) {s : State} (h3 : Keeps r s) : Keeps r (tokArrive c t g s) := by
  unfold tokArrive
  extract_lets -underBinder y0 y1 y2
  try clear_value y0
  try clear_value y1
  have ky2 : Keeps r y2 := by
    repeat' first
      | with_reducible first | assumption | apply keeps_ite | apply State.satFld_keeps | apply State.setFld_keeps
  try clear_value y2
  repeat' first
    | with_reducible first | assumption | apply keeps_ite | apply State.satFld_keeps | apply State.setFld_keeps | apply coreFault_keeps

theorem accrueStall_keeps {r : State} (ns : Nat) (f : Nat) {s : State} (h2 : Keeps r s) : Keeps r (accrueStall ns f s) := by
  unfold accrueStall
  extract_lets -underBinder y0
  have ky0 : Keeps r y0 := by
    repeat' first
      | with_reducible first | assumption | intro _ | apply keeps_ite | apply State.modChr_keeps
  try clear_value y0
  repeat' first
    | with_reducible first | assumption | intro _ | apply keeps_ite | apply State.modChr_keeps | apply State.setFld_keeps

theorem beginPhase_keeps {r : State} (f : Nat) (p : Nat) {s : State} (h2 : Keeps r s) : Keeps r (beginPhase f p s) := by
  unfold beginPhase
  extract_lets -underBinder y0 y1 y2
  try clear_value y0
  try clear_value y1
  have ky2 : Keeps r y2 := by
    repeat' first
      | with_reducible first | assumption | intro _ | apply State.modChr_keeps | apply State.setFld_keeps
  try clear_value y2
  repeat' first
    | with_reducible first | assumption | intro _ | apply State.modChr_keeps

theorem execDurationSaturated_keeps {r : State} (unit : Nat) (word : Nat) {s : State} (h2 : Keeps r s) : KeepsR r (execDurationSaturated unit word s) := by
  unfold execDurationSaturated
  repeat' first
    | with_reducible first | assumption | apply keepsR_next | apply keeps_ite | apply satDur_keeps

theorem execStallExceededSlack_keeps {r : State} (f : FieldId) (stall : Nat) {s : State} (h2 : Keeps r s) : KeepsR r (execStallExceededSlack f stall s) := by
  unfold execStallExceededSlack
  extract_lets -underBinder y0 y1 y2
  try clear_value y0
  have ky1 : Keeps r y1 := by
    repeat' first
      | with_reducible first | assumption | intro _ | apply keeps_ite | apply State.modChr_keeps
  try clear_value y1
  have ky2 : Keeps r y2 := by
    repeat' first
      | with_reducible first | assumption | intro _ | apply keeps_ite | apply State.modChr_keeps | apply State.setFld_keeps
  try clear_value y2
  repeat' first
    | with_reducible first | assumption | intro _ | apply keepsR_next | apply keeps_ite | apply State.modChr_keeps | apply State.setFld_keeps | apply nlogEvent_keeps
    | split

theorem launchField_keeps {r : State} (f : Nat) {s : State} (h1 : Keeps r s) : Keeps r (launchField f s) := by
  unfold launchField
  extract_lets -underBinder y0 y1 y2 y3 y4
  have ky0 : Keeps r y0 := by
    repeat' first
      | with_reducible first | assumption | intro _ | apply State.modChr_keeps | apply State.wr_keeps | apply closeFieldRecord_keeps
  try clear_value y0
  try clear_value y1
  try clear_value y2
  try clear_value y3
  have ky4 : Keeps r y4 := by
    repeat' first
      | with_reducible first | assumption | intro _ | apply State.modChr_keeps
  try clear_value y4
  repeat' first
    | with_reducible first | assumption | intro _ | apply State.modChr_keeps | apply State.wr_keeps

theorem launchModule_keeps {r : State} (localmb : Nat) {s : State} (h1 : Keeps r s) : Keeps r (launchModule localmb s) := by
  unfold launchModule
  extract_lets -underBinder y0 y1
  have ky0 : Keeps r y0 := by
    repeat' first
      | with_reducible first | assumption | intro _ | apply keeps_ite | apply State.modChr_keeps | apply closeModuleRecord_keeps
  try clear_value y0
  try clear_value y1
  repeat' first
    | with_reducible first | assumption | intro _ | apply keeps_ite | apply State.modChr_keeps

theorem releaseField_keeps {r : State} (f : Nat) {s : State} (h1 : Keeps r s) : Keeps r (releaseField f s) := by
  unfold releaseField
  extract_lets -underBinder y0 y1
  try clear_value y0
  have ky1 : Keeps r y1 := by
    repeat' first
      | with_reducible first | assumption | apply State.setFld_keeps
  try clear_value y1
  repeat' first
    | with_reducible first | assumption | apply State.setFld_keeps | apply beginPhase_keeps
    | split

theorem barEff_keeps {r : State} (c : Nat) {s : State} (h1 : Keeps r s) : KeepsE r (barEff c s) := by
  unfold barEff
  extract_lets -underBinder y0
  have ky0 : Keeps r y0 := by
    repeat' first
      | with_reducible first | assumption | intro _ | apply keeps_ite | apply State.modCore_keeps
  try clear_value y0
  repeat' first
    | with_reducible first | assumption | intro _ | apply keepsE_done | apply keepsE_jump | apply keepsE_stall | apply keepsE_trap | apply keepsE_halt | apply keepsE_wait | apply keepsE_skip | apply keeps_ite | apply State.modCore_keeps | apply State.setFld_keeps | apply setPc_keeps
    | split

theorem branchEff_keeps {r : State} (c : Nat) (w : Word) {s : State} (h2 : Keeps r s) : KeepsE r (branchEff c w s) := by
  unfold branchEff
  extract_lets -underBinder y0
  try clear_value y0
  repeat' first
    | with_reducible first | assumption | apply keepsE_done | apply keepsE_jump | apply keepsE_stall | apply keepsE_trap | apply keepsE_halt | apply keepsE_wait | apply keepsE_skip | apply keeps_ite
    | split

theorem fetchWord_keeps {r : State} (c : Nat) {s : State} (h1 : Keeps r s) : Keeps r (fetchWord c s).2 := by
  unfold fetchWord
  repeat' first
    | with_reducible first | assumption | apply keeps_ite | apply coreCorrected_keeps
    | split

theorem pcOverflow_keeps {r : State} (c : Nat) {s : State} (h1 : Keeps r s) : Keeps r (pcOverflow c s) := by
  unfold pcOverflow
  repeat' first
    | with_reducible first | assumption | apply coreFault_keeps

theorem afterRetire_keeps {r : State} (c : Nat) (own : Option Nat) {s : State} (h2 : Keeps r s) : Keeps r (afterRetire c own s) := by
  unfold afterRetire
  repeat' first
    | with_reducible first | assumption | intro _ | apply keeps_ite | apply keeps_foldl_triple | apply keeps_foldl_first | apply keeps_foldl_pair | apply keeps_foldl | apply reqHalt_keeps
    | split

theorem finish_keeps {r : State} {s : State} {e : Eff} (c : Nat) (h1 : Keeps r s) (h2 : KeepsE r e) : Keeps r (finish c s e) := by
  cases e <;> simp only [finish, KeepsE] at h2 ⊢ <;>
  repeat' first
    | with_reducible assumption
    | with_reducible apply keeps_ite
    | with_reducible apply afterRetire_keeps
    | with_reducible apply coreFault_keeps
    | with_reducible apply pcOverflow_keeps
    | with_reducible apply reqHalt_keeps
    | with_reducible apply setPc_keeps
    | with_reducible apply keeps_mk_draws

theorem issue_keeps {r : State} (c : Nat) (cls : Nat) (ops : List Nat) (body : Word → State → Eff) {s : State} (h3 : ∀ x0 x1, Keeps r x1 → KeepsE r (body x0 x1)) (h4 : Keeps r s) : Keeps r (issue c cls ops body s) := by
  unfold issue
  extract_lets -underBinder y0
  have ky0 : Keeps r y0.2 := by
    try dsimp only [y0]
    repeat' first
      | with_reducible first | assumption | apply keeps_ite | apply keepsE_done | apply keepsE_jump | apply keepsE_stall | apply keepsE_trap | apply keepsE_halt | apply keepsE_wait | apply keepsE_skip | apply coreFault_keeps | apply fetchWord_keeps | apply finish_keeps | refine keeps_of_pair ?_ (by assumption) | apply h3
  try clear_value y0
  repeat' first
    | with_reducible first | assumption | apply keeps_ite | apply keepsE_done | apply keepsE_jump | apply keepsE_stall | apply keepsE_trap | apply keepsE_halt | apply keepsE_wait | apply keepsE_skip | apply coreFault_keeps | apply fetchWord_keeps | apply finish_keeps | refine keeps_of_pair ?_ (by assumption) | apply h3
    | split

theorem execBarCoh_keeps {r : State} (c : CoreId) {s : State} (h1 : Keeps r s) : KeepsR r (execBarCoh c s) := by
  unfold execBarCoh
  repeat' first
    | with_reducible first | assumption | intro _ | apply keepsR_next | apply keepsE_done | apply keepsE_jump | apply keepsE_stall | apply keepsE_trap | apply keepsE_halt | apply keepsE_wait | apply keepsE_skip | apply barEff_keeps | apply issue_keeps

theorem execBranch_keeps {r : State} (c : CoreId) {s : State} (h1 : Keeps r s) : KeepsR r (execBranch c s) := by
  unfold execBranch
  repeat' first
    | with_reducible first | assumption | intro _ | apply keepsR_next | apply keepsE_done | apply keepsE_jump | apply keepsE_stall | apply keepsE_trap | apply keepsE_halt | apply keepsE_wait | apply keepsE_skip | apply branchEff_keeps | apply issue_keeps

theorem execBrk_keeps {r : State} (c : CoreId) {s : State} (h1 : Keeps r s) : KeepsR r (execBrk c s) := by
  unfold execBrk
  repeat' first
    | with_reducible first | assumption | intro _ | apply keepsR_next | apply keepsE_done | apply keepsE_jump | apply keepsE_stall | apply keepsE_trap | apply keepsE_halt | apply keepsE_wait | apply keepsE_skip | apply issue_keeps

theorem execCall_keeps {r : State} (c : CoreId) {s : State} (h1 : Keeps r s) : KeepsR r (execCall c s) := by
  unfold execCall
  repeat' first
    | with_reducible first | assumption | intro _ | apply keepsR_next | apply keepsE_done | apply keepsE_jump | apply keepsE_stall | apply keepsE_trap | apply keepsE_halt | apply keepsE_wait | apply keepsE_skip | apply State.modCore_keeps | apply issue_keeps

theorem execClrTok_keeps {r : State} (c : CoreId) {s : State} (h1 : Keeps r s) : KeepsR r (execClrTok c s) := by
  unfold execClrTok
  repeat' first
    | with_reducible first | assumption | intro _ | apply keepsR_next | apply keepsE_done | apply keepsE_jump | apply keepsE_stall | apply keepsE_trap | apply keepsE_halt | apply keepsE_wait | apply keepsE_skip | apply State.setFld_keeps | apply issue_keeps

theorem execDbnz_keeps {r : State} (c : CoreId) {s : State} (h1 : Keeps r s) : KeepsR r (execDbnz c s) := by
  unfold execDbnz
  repeat' first
    | with_reducible first | assumption | intro _ | apply keepsR_next | apply keeps_ite | apply keepsE_done | apply keepsE_jump | apply keepsE_stall | apply keepsE_trap | apply keepsE_halt | apply keepsE_wait | apply keepsE_skip | apply State.modCore_keeps | apply issue_keeps
    | split
    | dsimp only

theorem execFence_keeps {r : State} (c : CoreId) {s : State} (h1 : Keeps r s) : KeepsR r (execFence c s) := by
  unfold execFence
  repeat' first
    | with_reducible first | assumption | intro _ | apply keepsR_next | apply keeps_ite | apply keepsE_done | apply keepsE_jump | apply keepsE_stall | apply keepsE_trap | apply keepsE_halt | apply keepsE_wait | apply keepsE_skip | apply issue_keeps
    | split

theorem execFenceS_keeps {r : State} (c : CoreId) {s : State} (h1 : Keeps r s) : KeepsR r (execFenceS c s) := by
  unfold execFenceS
  repeat' first
    | with_reducible first | assumption | intro _ | apply keepsR_next | apply keeps_ite | apply keepsE_done | apply keepsE_jump | apply keepsE_stall | apply keepsE_trap | apply keepsE_halt | apply keepsE_wait | apply keepsE_skip | apply issue_keeps
    | split

theorem execFenceT_keeps {r : State} (c : CoreId) {s : State} (h1 : Keeps r s) : KeepsR r (execFenceT c s) := by
  unfold execFenceT
  repeat' first
    | with_reducible first | assumption | intro _ | apply keepsR_next | apply keeps_ite | apply keepsE_done | apply keepsE_jump | apply keepsE_stall | apply keepsE_trap | apply keepsE_halt | apply keepsE_wait | apply keepsE_skip | apply issue_keeps
    | split

theorem execJmp_keeps {r : State} (c : CoreId) {s : State} (h1 : Keeps r s) : KeepsR r (execJmp c s) := by
  unfold execJmp
  repeat' first
    | with_reducible first | assumption | intro _ | apply keepsR_next | apply keepsE_done | apply keepsE_jump | apply keepsE_stall | apply keepsE_trap | apply keepsE_halt | apply keepsE_wait | apply keepsE_skip | apply issue_keeps

theorem execJr_keeps {r : State} (c : CoreId) {s : State} (h1 : Keeps r s) : KeepsR r (execJr c s) := by
  unfold execJr
  repeat' first
    | with_reducible first | assumption | intro _ | apply keepsR_next | apply keeps_ite | apply keepsE_done | apply keepsE_jump | apply keepsE_stall | apply keepsE_trap | apply keepsE_halt | apply keepsE_wait | apply keepsE_skip | apply issue_keeps
    | split
    | dsimp only

theorem execNop_keeps {r : State} (c : CoreId) {s : State} (h1 : Keeps r s) : KeepsR r (execNop c s) := by
  unfold execNop
  repeat' first
    | with_reducible first | assumption | intro _ | apply keepsR_next | apply keepsE_done | apply keepsE_jump | apply keepsE_stall | apply keepsE_trap | apply keepsE_halt | apply keepsE_wait | apply keepsE_skip | apply issue_keeps

theorem sendEff_keeps {r : State} (c : Nat) (w : Word) {s : State} (h2 : Keeps r s) : KeepsE r (sendEff c w s) := by
  unfold sendEff
  repeat' first
    | with_reducible first | assumption | intro _ | apply keepsE_done | apply keepsE_jump | apply keepsE_stall | apply keepsE_trap | apply keepsE_halt | apply keepsE_wait | apply keepsE_skip | apply keeps_ite | apply State.modCore_keeps
    | split

theorem execSend_keeps {r : State} (c : CoreId) {s : State} (h1 : Keeps r s) : KeepsR r (execSend c s) := by
  unfold execSend
  repeat' first
    | with_reducible first | assumption | intro _ | apply keepsR_next | apply keepsE_done | apply keepsE_jump | apply keepsE_stall | apply keepsE_trap | apply keepsE_halt | apply keepsE_wait | apply keepsE_skip | apply issue_keeps | apply sendEff_keeps

theorem execSendMc_keeps {r : State} (c : CoreId) {s : State} (h1 : Keeps r s) : KeepsR r (execSendMc c s) := by
  unfold execSendMc
  repeat' first
    | with_reducible first | assumption | intro _ | apply keepsR_next | apply keepsE_done | apply keepsE_jump | apply keepsE_stall | apply keepsE_trap | apply keepsE_halt | apply keepsE_wait | apply keepsE_skip | apply issue_keeps | apply sendEff_keeps

theorem execSigTok_keeps {r : State} (c : CoreId) {s : State} (h1 : Keeps r s) : KeepsR r (execSigTok c s) := by
  unfold execSigTok
  repeat' first
    | with_reducible first | assumption | intro _ | apply keepsR_next | apply keepsE_done | apply keepsE_jump | apply keepsE_stall | apply keepsE_trap | apply keepsE_halt | apply keepsE_wait | apply keepsE_skip | apply issue_keeps | apply tokArrive_keeps

theorem execStop_keeps {r : State} (c : CoreId) {s : State} (h1 : Keeps r s) : KeepsR r (execStop c s) := by
  unfold execStop
  repeat' first
    | with_reducible first | assumption | intro _ | apply keepsR_next | apply keepsE_done | apply keepsE_jump | apply keepsE_stall | apply keepsE_trap | apply keepsE_halt | apply keepsE_wait | apply keepsE_skip | apply issue_keeps

theorem doneS_keeps {r : State} (c : Nat) (i : Nat) (x : Word) {s : State} (h3 : Keeps r s) : KeepsE r (doneS c i x s) := by
  unfold doneS
  repeat' first
    | with_reducible first | assumption | intro _ | apply keepsE_done | apply keepsE_jump | apply keepsE_stall | apply keepsE_trap | apply keepsE_halt | apply keepsE_wait | apply keepsE_skip | apply State.modCore_keeps

theorem execSysRd_keeps {r : State} (c : CoreId) {s : State} (h1 : Keeps r s) : KeepsR r (execSysRd c s) := by
  unfold execSysRd
  repeat' first
    | with_reducible first | assumption | intro _ | apply keepsR_next | apply keepsE_done | apply keepsE_jump | apply keepsE_stall | apply keepsE_trap | apply keepsE_halt | apply keepsE_wait | apply keepsE_skip | apply doneS_keeps | apply issue_keeps

theorem execSysWr_keeps {r : State} (c : CoreId) {s : State} (h1 : Keeps r s) : KeepsR r (execSysWr c s) := by
  unfold execSysWr
  repeat' first
    | with_reducible first | assumption | intro _ | apply keepsR_next | apply keepsE_done | apply keepsE_jump | apply keepsE_stall | apply keepsE_trap | apply keepsE_halt | apply keepsE_wait | apply keepsE_skip | apply State.modCore_keeps | apply issue_keeps

theorem waitEff_keeps {r : State} (c : Nat) (w : Word) {s : State} (h2 : Keeps r s) : KeepsE r (waitEff c w s) := by
  unfold waitEff
  extract_lets -underBinder y0 y1 y2 y3
  try clear_value y0
  try clear_value y1
  try clear_value y2
  have ky3 : Keeps r y3 := by
    repeat' first
      | with_reducible first | assumption | intro _ | apply keeps_ite | apply State.modCore_keeps
  try clear_value y3
  repeat' first
    | with_reducible first | assumption | intro _ | apply keepsE_done | apply keepsE_jump | apply keepsE_stall | apply keepsE_trap | apply keepsE_halt | apply keepsE_wait | apply keepsE_skip | apply keeps_ite | apply State.modCore_keeps | apply State.setFld_keeps
    | split

theorem execWaitTok_keeps {r : State} (c : CoreId) {s : State} (h1 : Keeps r s) : KeepsR r (execWaitTok c s) := by
  unfold execWaitTok
  repeat' first
    | with_reducible first | assumption | intro _ | apply keepsR_next | apply keepsE_done | apply keepsE_jump | apply keepsE_stall | apply keepsE_trap | apply keepsE_halt | apply keepsE_wait | apply keepsE_skip | apply issue_keeps | apply waitEff_keeps

theorem execWaitTokComplete_keeps {r : State} (c : CoreId) {s : State} (h1 : Keeps r s) : KeepsR r (execWaitTokComplete c s) := by
  unfold execWaitTokComplete
  repeat' first
    | with_reducible first | assumption | intro _ | apply keepsR_next | apply keeps_ite | apply keepsE_done | apply keepsE_jump | apply keepsE_stall | apply keepsE_trap | apply keepsE_halt | apply keepsE_wait | apply keepsE_skip | apply State.modCore_keeps | apply State.setFld_keeps | apply coreFault_keeps | apply finish_keeps
    | split

theorem scalarOpEff_keeps {r : State} (c : CoreId) (f : Bool → Word → Word → Word → Word) (w : Word) {s : State} (h3 : Keeps r s) : KeepsE r (scalarOpEff c f w s) := by
  unfold scalarOpEff
  extract_lets -underBinder y0
  try clear_value y0
  repeat' first
    | with_reducible first | assumption | apply keepsE_done | apply keepsE_jump | apply keepsE_stall | apply keepsE_trap | apply keepsE_halt | apply keepsE_wait | apply keepsE_skip | apply doneS_keeps

theorem scalarReg_keeps {r : State} (c : CoreId) (op : Nat) (f : Bool → Word → Word → Word → Word) {s : State} (h3 : Keeps r s) : KeepsR r (scalarReg c op f s) := by
  unfold scalarReg
  repeat' first
    | with_reducible first | assumption | intro _ | apply keepsR_next | apply keepsE_done | apply keepsE_jump | apply keepsE_stall | apply keepsE_trap | apply keepsE_halt | apply keepsE_wait | apply keepsE_skip | apply issue_keeps | apply scalarOpEff_keeps

theorem execAdd_keeps {r : State} (c : CoreId) {s : State} (h1 : Keeps r s) : KeepsR r (execAdd c s) := by
  unfold execAdd
  repeat' first
    | with_reducible first | assumption | intro _ | apply keepsR_next | apply scalarReg_keeps

theorem execSub_keeps {r : State} (c : CoreId) {s : State} (h1 : Keeps r s) : KeepsR r (execSub c s) := by
  unfold execSub
  repeat' first
    | with_reducible first | assumption | intro _ | apply keepsR_next | apply scalarReg_keeps

theorem execAnd_keeps {r : State} (c : CoreId) {s : State} (h1 : Keeps r s) : KeepsR r (execAnd c s) := by
  unfold execAnd
  repeat' first
    | with_reducible first | assumption | intro _ | apply keepsR_next | apply scalarReg_keeps

theorem execOr_keeps {r : State} (c : CoreId) {s : State} (h1 : Keeps r s) : KeepsR r (execOr c s) := by
  unfold execOr
  repeat' first
    | with_reducible first | assumption | intro _ | apply keepsR_next | apply scalarReg_keeps

theorem execXor_keeps {r : State} (c : CoreId) {s : State} (h1 : Keeps r s) : KeepsR r (execXor c s) := by
  unfold execXor
  repeat' first
    | with_reducible first | assumption | intro _ | apply keepsR_next | apply scalarReg_keeps

theorem execShl_keeps {r : State} (c : CoreId) {s : State} (h1 : Keeps r s) : KeepsR r (execShl c s) := by
  unfold execShl
  repeat' first
    | with_reducible first | assumption | intro _ | apply keepsR_next | apply scalarReg_keeps

theorem execShr_keeps {r : State} (c : CoreId) {s : State} (h1 : Keeps r s) : KeepsR r (execShr c s) := by
  unfold execShr
  repeat' first
    | with_reducible first | assumption | intro _ | apply keepsR_next | apply scalarReg_keeps

theorem execSra_keeps {r : State} (c : CoreId) {s : State} (h1 : Keeps r s) : KeepsR r (execSra c s) := by
  unfold execSra
  repeat' first
    | with_reducible first | assumption | intro _ | apply keepsR_next | apply scalarReg_keeps

theorem execMul_keeps {r : State} (c : CoreId) {s : State} (h1 : Keeps r s) : KeepsR r (execMul c s) := by
  unfold execMul
  repeat' first
    | with_reducible first | assumption | intro _ | apply keepsR_next | apply scalarReg_keeps

theorem execMulhu_keeps {r : State} (c : CoreId) {s : State} (h1 : Keeps r s) : KeepsR r (execMulhu c s) := by
  unfold execMulhu
  repeat' first
    | with_reducible first | assumption | intro _ | apply keepsR_next | apply scalarReg_keeps

theorem execMulhs_keeps {r : State} (c : CoreId) {s : State} (h1 : Keeps r s) : KeepsR r (execMulhs c s) := by
  unfold execMulhs
  repeat' first
    | with_reducible first | assumption | intro _ | apply keepsR_next | apply scalarReg_keeps

theorem execMin_keeps {r : State} (c : CoreId) {s : State} (h1 : Keeps r s) : KeepsR r (execMin c s) := by
  unfold execMin
  repeat' first
    | with_reducible first | assumption | intro _ | apply keepsR_next | apply keeps_ite | apply scalarReg_keeps

theorem execMax_keeps {r : State} (c : CoreId) {s : State} (h1 : Keeps r s) : KeepsR r (execMax c s) := by
  unfold execMax
  repeat' first
    | with_reducible first | assumption | intro _ | apply keepsR_next | apply keeps_ite | apply scalarReg_keeps

theorem execMinu_keeps {r : State} (c : CoreId) {s : State} (h1 : Keeps r s) : KeepsR r (execMinu c s) := by
  unfold execMinu
  repeat' first
    | with_reducible first | assumption | intro _ | apply keepsR_next | apply keeps_ite | apply scalarReg_keeps

theorem execMaxu_keeps {r : State} (c : CoreId) {s : State} (h1 : Keeps r s) : KeepsR r (execMaxu c s) := by
  unfold execMaxu
  repeat' first
    | with_reducible first | assumption | intro _ | apply keepsR_next | apply keeps_ite | apply scalarReg_keeps

theorem execSlt_keeps {r : State} (c : CoreId) {s : State} (h1 : Keeps r s) : KeepsR r (execSlt c s) := by
  unfold execSlt
  repeat' first
    | with_reducible first | assumption | intro _ | apply keepsR_next | apply scalarReg_keeps

theorem execSltu_keeps {r : State} (c : CoreId) {s : State} (h1 : Keeps r s) : KeepsR r (execSltu c s) := by
  unfold execSltu
  repeat' first
    | with_reducible first | assumption | intro _ | apply keepsR_next | apply scalarReg_keeps

theorem execSeq_keeps {r : State} (c : CoreId) {s : State} (h1 : Keeps r s) : KeepsR r (execSeq c s) := by
  unfold execSeq
  repeat' first
    | with_reducible first | assumption | intro _ | apply keepsR_next | apply scalarReg_keeps

theorem execSel_keeps {r : State} (c : CoreId) {s : State} (h1 : Keeps r s) : KeepsR r (execSel c s) := by
  unfold execSel
  repeat' first
    | with_reducible first | assumption | intro _ | apply keepsR_next | apply keeps_ite | apply scalarReg_keeps

theorem execFaddD_keeps {r : State} (c : CoreId) {s : State} (h1 : Keeps r s) : KeepsR r (execFaddD c s) := by
  unfold execFaddD
  repeat' first
    | with_reducible first | assumption | intro _ | apply keepsR_next | apply scalarReg_keeps

theorem execFsubD_keeps {r : State} (c : CoreId) {s : State} (h1 : Keeps r s) : KeepsR r (execFsubD c s) := by
  unfold execFsubD
  repeat' first
    | with_reducible first | assumption | intro _ | apply keepsR_next | apply scalarReg_keeps

theorem execFmulD_keeps {r : State} (c : CoreId) {s : State} (h1 : Keeps r s) : KeepsR r (execFmulD c s) := by
  unfold execFmulD
  repeat' first
    | with_reducible first | assumption | intro _ | apply keepsR_next | apply scalarReg_keeps

theorem execFmaD_keeps {r : State} (c : CoreId) {s : State} (h1 : Keeps r s) : KeepsR r (execFmaD c s) := by
  unfold execFmaD
  repeat' first
    | with_reducible first | assumption | intro _ | apply keepsR_next | apply scalarReg_keeps

theorem execFaddF_keeps {r : State} (c : CoreId) {s : State} (h1 : Keeps r s) : KeepsR r (execFaddF c s) := by
  unfold execFaddF
  repeat' first
    | with_reducible first | assumption | intro _ | apply keepsR_next | apply scalarReg_keeps

theorem execFsubF_keeps {r : State} (c : CoreId) {s : State} (h1 : Keeps r s) : KeepsR r (execFsubF c s) := by
  unfold execFsubF
  repeat' first
    | with_reducible first | assumption | intro _ | apply keepsR_next | apply scalarReg_keeps

theorem execFmulF_keeps {r : State} (c : CoreId) {s : State} (h1 : Keeps r s) : KeepsR r (execFmulF c s) := by
  unfold execFmulF
  repeat' first
    | with_reducible first | assumption | intro _ | apply keepsR_next | apply scalarReg_keeps

theorem execFmaF_keeps {r : State} (c : CoreId) {s : State} (h1 : Keeps r s) : KeepsR r (execFmaF c s) := by
  unfold execFmaF
  repeat' first
    | with_reducible first | assumption | intro _ | apply keepsR_next | apply scalarReg_keeps

theorem execFcvtFD_keeps {r : State} (c : CoreId) {s : State} (h1 : Keeps r s) : KeepsR r (execFcvtFD c s) := by
  unfold execFcvtFD
  repeat' first
    | with_reducible first | assumption | intro _ | apply keepsR_next | apply scalarReg_keeps

theorem execFcvtDF_keeps {r : State} (c : CoreId) {s : State} (h1 : Keeps r s) : KeepsR r (execFcvtDF c s) := by
  unfold execFcvtDF
  repeat' first
    | with_reducible first | assumption | intro _ | apply keepsR_next | apply scalarReg_keeps

theorem execFcvtID_keeps {r : State} (c : CoreId) {s : State} (h1 : Keeps r s) : KeepsR r (execFcvtID c s) := by
  unfold execFcvtID
  repeat' first
    | with_reducible first | assumption | intro _ | apply keepsR_next | apply scalarReg_keeps

theorem execFcvtDI_keeps {r : State} (c : CoreId) {s : State} (h1 : Keeps r s) : KeepsR r (execFcvtDI c s) := by
  unfold execFcvtDI
  repeat' first
    | with_reducible first | assumption | intro _ | apply keepsR_next | apply scalarReg_keeps

theorem execFltD_keeps {r : State} (c : CoreId) {s : State} (h1 : Keeps r s) : KeepsR r (execFltD c s) := by
  unfold execFltD
  repeat' first
    | with_reducible first | assumption | intro _ | apply keepsR_next | apply scalarReg_keeps

theorem execFeqD_keeps {r : State} (c : CoreId) {s : State} (h1 : Keeps r s) : KeepsR r (execFeqD c s) := by
  unfold execFeqD
  repeat' first
    | with_reducible first | assumption | intro _ | apply keepsR_next | apply scalarReg_keeps

theorem scalarImm_keeps {r : State} (c : CoreId) (op : Nat) (f : Word → Word → Word) {s : State} (h3 : Keeps r s) : KeepsR r (scalarImm c op f s) := by
  unfold scalarImm
  repeat' first
    | with_reducible first | assumption | intro _ | apply keepsR_next | apply keepsE_done | apply keepsE_jump | apply keepsE_stall | apply keepsE_trap | apply keepsE_halt | apply keepsE_wait | apply keepsE_skip | apply doneS_keeps | apply issue_keeps

theorem execAddi_keeps {r : State} (c : CoreId) {s : State} (h1 : Keeps r s) : KeepsR r (execAddi c s) := by
  unfold execAddi
  repeat' first
    | with_reducible first | assumption | intro _ | apply keepsR_next | apply scalarImm_keeps

theorem execAndi_keeps {r : State} (c : CoreId) {s : State} (h1 : Keeps r s) : KeepsR r (execAndi c s) := by
  unfold execAndi
  repeat' first
    | with_reducible first | assumption | intro _ | apply keepsR_next | apply scalarImm_keeps

theorem execOri_keeps {r : State} (c : CoreId) {s : State} (h1 : Keeps r s) : KeepsR r (execOri c s) := by
  unfold execOri
  repeat' first
    | with_reducible first | assumption | intro _ | apply keepsR_next | apply scalarImm_keeps

theorem execXori_keeps {r : State} (c : CoreId) {s : State} (h1 : Keeps r s) : KeepsR r (execXori c s) := by
  unfold execXori
  repeat' first
    | with_reducible first | assumption | intro _ | apply keepsR_next | apply scalarImm_keeps

theorem execShli_keeps {r : State} (c : CoreId) {s : State} (h1 : Keeps r s) : KeepsR r (execShli c s) := by
  unfold execShli
  repeat' first
    | with_reducible first | assumption | intro _ | apply keepsR_next | apply scalarImm_keeps

theorem execShri_keeps {r : State} (c : CoreId) {s : State} (h1 : Keeps r s) : KeepsR r (execShri c s) := by
  unfold execShri
  repeat' first
    | with_reducible first | assumption | intro _ | apply keepsR_next | apply scalarImm_keeps

theorem execSrai_keeps {r : State} (c : CoreId) {s : State} (h1 : Keeps r s) : KeepsR r (execSrai c s) := by
  unfold execSrai
  repeat' first
    | with_reducible first | assumption | intro _ | apply keepsR_next | apply scalarImm_keeps

theorem execSlti_keeps {r : State} (c : CoreId) {s : State} (h1 : Keeps r s) : KeepsR r (execSlti c s) := by
  unfold execSlti
  repeat' first
    | with_reducible first | assumption | intro _ | apply keepsR_next | apply scalarImm_keeps

theorem execSltui_keeps {r : State} (c : CoreId) {s : State} (h1 : Keeps r s) : KeepsR r (execSltui c s) := by
  unfold execSltui
  repeat' first
    | with_reducible first | assumption | intro _ | apply keepsR_next | apply scalarImm_keeps

theorem execLi_keeps {r : State} (c : CoreId) {s : State} (h1 : Keeps r s) : KeepsR r (execLi c s) := by
  unfold execLi
  repeat' first
    | with_reducible first | assumption | intro _ | apply keepsR_next | apply scalarImm_keeps

theorem execLih_keeps {r : State} (c : CoreId) {s : State} (h1 : Keeps r s) : KeepsR r (execLih c s) := by
  unfold execLih
  repeat' first
    | with_reducible first | assumption | intro _ | apply keepsR_next | apply scalarImm_keeps

theorem readWords_keeps {r : State} (c : Nat) (l : List Nat) {s : State} (h : Keeps r s) : KeepsRd r (readWords c l s) := by
  induction l generalizing s with
  | nil => exact h
  | cons i l ih =>
    have k := coreCorrected_keeps c false i h
    have a := ih h
    have b := ih k
    simp only [readWords]
    split
    · exact h
    · exact h
    · split
      · exact h
      · split <;> rename_i e <;> rw [e] at a <;> exact a
    · split
      · exact k
      · split <;> rename_i e <;> rw [e] at b <;> exact b

theorem watch_keeps {r : State} (c : Nat) (kind : Nat) (ws : List Nat) {s : State} (h3 : Keeps r s) : Keeps r (watch c kind ws s) := by
  unfold watch
  repeat' first
    | with_reducible first | assumption | intro _ | apply keeps_ite | apply State.modCore_keeps

theorem ldEff_keeps {r : State} (c : Nat) (w : Word) {s : State} (h2 : Keeps r s) : KeepsE r (ldEff c w s) := by
  unfold ldEff
  extract_lets -underBinder y0
  try clear_value y0
  repeat' first
    | with_reducible first | assumption | apply keepsE_done | apply keepsE_jump | apply keepsE_stall | apply keepsE_trap | apply keepsE_halt | apply keepsE_wait | apply keepsE_skip | apply keeps_ite | apply doneS_keeps | apply readWords_keeps | apply watch_keeps | refine keeps_of_ok ?_ (by assumption) | refine keeps_of_bad ?_ (by assumption)
    | split

theorem execLd_keeps {r : State} (c : CoreId) {s : State} (h1 : Keeps r s) : KeepsR r (execLd c s) := by
  unfold execLd
  repeat' first
    | with_reducible first | assumption | intro _ | apply keepsR_next | apply keepsE_done | apply keepsE_jump | apply keepsE_stall | apply keepsE_trap | apply keepsE_halt | apply keepsE_wait | apply keepsE_skip | apply issue_keeps | apply ldEff_keeps

theorem stEff_keeps {r : State} (c : Nat) (w : Word) {s : State} (h2 : Keeps r s) : KeepsE r (stEff c w s) := by
  unfold stEff
  extract_lets -underBinder y0 y1 y2
  try clear_value y0
  try clear_value y1
  try clear_value y2
  repeat' first
    | with_reducible first | assumption | apply keepsE_done | apply keepsE_jump | apply keepsE_stall | apply keepsE_trap | apply keepsE_halt | apply keepsE_wait | apply keepsE_skip | apply keeps_ite | apply readWords_keeps | apply watch_keeps | apply writeWord_keeps | refine keeps_of_ok ?_ (by assumption) | refine keeps_of_bad ?_ (by assumption)
    | split

theorem execSt_keeps {r : State} (c : CoreId) {s : State} (h1 : Keeps r s) : KeepsR r (execSt c s) := by
  unfold execSt
  repeat' first
    | with_reducible first | assumption | intro _ | apply keepsR_next | apply keepsE_done | apply keepsE_jump | apply keepsE_stall | apply keepsE_trap | apply keepsE_halt | apply keepsE_wait | apply keepsE_skip | apply issue_keeps | apply stEff_keeps

theorem doneV_keeps {r : State} (c : Nat) (i : Nat) (x : BitVec 512) {s : State} (h3 : Keeps r s) : KeepsE r (doneV c i x s) := by
  unfold doneV
  repeat' first
    | with_reducible first | assumption | intro _ | apply keepsE_done | apply keepsE_jump | apply keepsE_stall | apply keepsE_trap | apply keepsE_halt | apply keepsE_wait | apply keepsE_skip | apply State.modCore_keeps

theorem vecMap_keeps {r : State} (c : CoreId) (op : Nat) (f : Bool → VArg → Nat → Nat) {s : State} (h3 : Keeps r s) : KeepsR r (vecMap c op f s) := by
  unfold vecMap
  repeat' first
    | with_reducible first | assumption | intro _ | apply keepsR_next | apply keepsE_done | apply keepsE_jump | apply keepsE_stall | apply keepsE_trap | apply keepsE_halt | apply keepsE_wait | apply keepsE_skip | apply doneV_keeps | apply issue_keeps

theorem vecMapI_keeps {r : State} (c : CoreId) (op : Nat) (f : Bool → VArg → Nat → Nat) (g : VArg → Nat → Int) {s : State} (h4 : Keeps r s) : KeepsR r (vecMapI c op f g s) := by
  unfold vecMapI
  repeat' first
    | with_reducible first | assumption | intro _ | apply keepsR_next | apply keeps_ite | apply vecMap_keeps

theorem execVadd_keeps {r : State} (c : CoreId) {s : State} (h1 : Keeps r s) : KeepsR r (execVadd c s) := by
  unfold execVadd
  repeat' first
    | with_reducible first | assumption | intro _ | apply keepsR_next | apply vecMapI_keeps

theorem execVsub_keeps {r : State} (c : CoreId) {s : State} (h1 : Keeps r s) : KeepsR r (execVsub c s) := by
  unfold execVsub
  repeat' first
    | with_reducible first | assumption | intro _ | apply keepsR_next | apply vecMapI_keeps

theorem execVmul_keeps {r : State} (c : CoreId) {s : State} (h1 : Keeps r s) : KeepsR r (execVmul c s) := by
  unfold execVmul
  repeat' first
    | with_reducible first | assumption | intro _ | apply keepsR_next | apply keeps_ite | apply vecMap_keeps

theorem execVfma_keeps {r : State} (c : CoreId) {s : State} (h1 : Keeps r s) : KeepsR r (execVfma c s) := by
  unfold execVfma
  repeat' first
    | with_reducible first | assumption | intro _ | apply keepsR_next | apply vecMap_keeps

theorem execVmin_keeps {r : State} (c : CoreId) {s : State} (h1 : Keeps r s) : KeepsR r (execVmin c s) := by
  unfold execVmin
  repeat' first
    | with_reducible first | assumption | intro _ | apply keepsR_next | apply vecMap_keeps

theorem execVmax_keeps {r : State} (c : CoreId) {s : State} (h1 : Keeps r s) : KeepsR r (execVmax c s) := by
  unfold execVmax
  repeat' first
    | with_reducible first | assumption | intro _ | apply keepsR_next | apply vecMap_keeps

theorem execVabs_keeps {r : State} (c : CoreId) {s : State} (h1 : Keeps r s) : KeepsR r (execVabs c s) := by
  unfold execVabs
  repeat' first
    | with_reducible first | assumption | intro _ | apply keepsR_next | apply vecMapI_keeps

theorem execVneg_keeps {r : State} (c : CoreId) {s : State} (h1 : Keeps r s) : KeepsR r (execVneg c s) := by
  unfold execVneg
  repeat' first
    | with_reducible first | assumption | intro _ | apply keepsR_next | apply vecMapI_keeps

theorem execVcmp_keeps {r : State} (c : CoreId) {s : State} (h1 : Keeps r s) : KeepsR r (execVcmp c s) := by
  unfold execVcmp
  repeat' first
    | with_reducible first | assumption | intro _ | apply keepsR_next | apply keepsE_done | apply keepsE_jump | apply keepsE_stall | apply keepsE_trap | apply keepsE_halt | apply keepsE_wait | apply keepsE_skip | apply State.modCore_keeps | apply issue_keeps

theorem execVsel_keeps {r : State} (c : CoreId) {s : State} (h1 : Keeps r s) : KeepsR r (execVsel c s) := by
  unfold execVsel
  repeat' first
    | with_reducible first | assumption | intro _ | apply keepsR_next | apply keeps_ite | apply keepsE_done | apply keepsE_jump | apply keepsE_stall | apply keepsE_trap | apply keepsE_halt | apply keepsE_wait | apply keepsE_skip | apply doneV_keeps | apply issue_keeps

theorem execVdiv_keeps {r : State} (c : CoreId) {s : State} (h1 : Keeps r s) : KeepsR r (execVdiv c s) := by
  unfold execVdiv
  repeat' first
    | with_reducible first | assumption | intro _ | apply keepsR_next | apply vecMap_keeps

theorem execVsqrt_keeps {r : State} (c : CoreId) {s : State} (h1 : Keeps r s) : KeepsR r (execVsqrt c s) := by
  unfold execVsqrt
  repeat' first
    | with_reducible first | assumption | intro _ | apply keepsR_next | apply vecMap_keeps

theorem execVbcast_keeps {r : State} (c : CoreId) {s : State} (h1 : Keeps r s) : KeepsR r (execVbcast c s) := by
  unfold execVbcast
  repeat' first
    | with_reducible first | assumption | intro _ | apply keepsR_next | apply keepsE_done | apply keepsE_jump | apply keepsE_stall | apply keepsE_trap | apply keepsE_halt | apply keepsE_wait | apply keepsE_skip | apply doneV_keeps | apply issue_keeps

theorem execVext_keeps {r : State} (c : CoreId) {s : State} (h1 : Keeps r s) : KeepsR r (execVext c s) := by
  unfold execVext
  repeat' first
    | with_reducible first | assumption | intro _ | apply keepsR_next | apply keeps_ite | apply keepsE_done | apply keepsE_jump | apply keepsE_stall | apply keepsE_trap | apply keepsE_halt | apply keepsE_wait | apply keepsE_skip | apply doneS_keeps | apply issue_keeps
    | split
    | dsimp only

theorem execVins_keeps {r : State} (c : CoreId) {s : State} (h1 : Keeps r s) : KeepsR r (execVins c s) := by
  unfold execVins
  repeat' first
    | with_reducible first | assumption | intro _ | apply keepsR_next | apply keeps_ite | apply keepsE_done | apply keepsE_jump | apply keepsE_stall | apply keepsE_trap | apply keepsE_halt | apply keepsE_wait | apply keepsE_skip | apply doneV_keeps | apply issue_keeps
    | split
    | dsimp only

theorem execVcvt_keeps {r : State} (c : CoreId) {s : State} (h1 : Keeps r s) : KeepsR r (execVcvt c s) := by
  unfold execVcvt
  repeat' first
    | with_reducible first | assumption | intro _ | apply keepsR_next | apply keepsE_done | apply keepsE_jump | apply keepsE_stall | apply keepsE_trap | apply keepsE_halt | apply keepsE_wait | apply keepsE_skip | apply doneV_keeps | apply issue_keeps

theorem execVmov_keeps {r : State} (c : CoreId) {s : State} (h1 : Keeps r s) : KeepsR r (execVmov c s) := by
  unfold execVmov
  repeat' first
    | with_reducible first | assumption | intro _ | apply keepsR_next | apply vecMap_keeps

theorem execVand_keeps {r : State} (c : CoreId) {s : State} (h1 : Keeps r s) : KeepsR r (execVand c s) := by
  unfold execVand
  repeat' first
    | with_reducible first | assumption | intro _ | apply keepsR_next | apply vecMap_keeps

theorem execVor_keeps {r : State} (c : CoreId) {s : State} (h1 : Keeps r s) : KeepsR r (execVor c s) := by
  unfold execVor
  repeat' first
    | with_reducible first | assumption | intro _ | apply keepsR_next | apply vecMap_keeps

theorem execVxor_keeps {r : State} (c : CoreId) {s : State} (h1 : Keeps r s) : KeepsR r (execVxor c s) := by
  unfold execVxor
  repeat' first
    | with_reducible first | assumption | intro _ | apply keepsR_next | apply vecMap_keeps

theorem execVshl_keeps {r : State} (c : CoreId) {s : State} (h1 : Keeps r s) : KeepsR r (execVshl c s) := by
  unfold execVshl
  repeat' first
    | with_reducible first | assumption | intro _ | apply keepsR_next | apply vecMap_keeps

theorem execVshr_keeps {r : State} (c : CoreId) {s : State} (h1 : Keeps r s) : KeepsR r (execVshr c s) := by
  unfold execVshr
  repeat' first
    | with_reducible first | assumption | intro _ | apply keepsR_next | apply vecMap_keeps

theorem execVsra_keeps {r : State} (c : CoreId) {s : State} (h1 : Keeps r s) : KeepsR r (execVsra c s) := by
  unfold execVsra
  repeat' first
    | with_reducible first | assumption | intro _ | apply keepsR_next | apply vecMap_keeps

theorem execVssq_keeps {r : State} (c : CoreId) {s : State} (h1 : Keeps r s) : KeepsR r (execVssq c s) := by
  unfold execVssq
  repeat' first
    | with_reducible first | assumption | intro _ | apply keepsR_next | apply vecMap_keeps

theorem execVmvar_keeps {r : State} (c : CoreId) {s : State} (h1 : Keeps r s) : KeepsR r (execVmvar c s) := by
  unfold execVmvar
  repeat' first
    | with_reducible first | assumption | intro _ | apply keepsR_next | apply keepsE_done | apply keepsE_jump | apply keepsE_stall | apply keepsE_trap | apply keepsE_halt | apply keepsE_wait | apply keepsE_skip | apply doneV_keeps | apply issue_keeps

theorem vldEff_keeps {r : State} (c : Nat) (w : Word) {s : State} (h2 : Keeps r s) : KeepsE r (vldEff c w s) := by
  unfold vldEff
  extract_lets -underBinder y0 y1 y2
  try clear_value y0
  try clear_value y1
  try clear_value y2
  repeat' first
    | with_reducible first | assumption | intro _ | apply keepsE_done | apply keepsE_jump | apply keepsE_stall | apply keepsE_trap | apply keepsE_halt | apply keepsE_wait | apply keepsE_skip | apply keeps_ite | apply State.modCore_keeps | apply readWords_keeps | apply watch_keeps | refine keeps_of_ok ?_ (by assumption) | refine keeps_of_bad ?_ (by assumption)
    | split
    | dsimp only

theorem execVld_keeps {r : State} (c : CoreId) {s : State} (h1 : Keeps r s) : KeepsR r (execVld c s) := by
  unfold execVld
  repeat' first
    | with_reducible first | assumption | intro _ | apply keepsR_next | apply keepsE_done | apply keepsE_jump | apply keepsE_stall | apply keepsE_trap | apply keepsE_halt | apply keepsE_wait | apply keepsE_skip | apply issue_keeps | apply vldEff_keeps

theorem execVldP_keeps {r : State} (c : CoreId) {s : State} (h1 : Keeps r s) : KeepsR r (execVldP c s) := by
  unfold execVldP
  repeat' first
    | with_reducible first | assumption | intro _ | apply keepsR_next | apply keepsE_done | apply keepsE_jump | apply keepsE_stall | apply keepsE_trap | apply keepsE_halt | apply keepsE_wait | apply keepsE_skip | apply issue_keeps | apply vldEff_keeps

theorem execVldS_keeps {r : State} (c : CoreId) {s : State} (h1 : Keeps r s) : KeepsR r (execVldS c s) := by
  unfold execVldS
  repeat' first
    | with_reducible first | assumption | intro _ | apply keepsR_next | apply keepsE_done | apply keepsE_jump | apply keepsE_stall | apply keepsE_trap | apply keepsE_halt | apply keepsE_wait | apply keepsE_skip | apply issue_keeps | apply vldEff_keeps

theorem execVldX_keeps {r : State} (c : CoreId) {s : State} (h1 : Keeps r s) : KeepsR r (execVldX c s) := by
  unfold execVldX
  repeat' first
    | with_reducible first | assumption | intro _ | apply keepsR_next | apply keepsE_done | apply keepsE_jump | apply keepsE_stall | apply keepsE_trap | apply keepsE_halt | apply keepsE_wait | apply keepsE_skip | apply issue_keeps | apply vldEff_keeps

theorem execVldB_keeps {r : State} (c : CoreId) {s : State} (h1 : Keeps r s) : KeepsR r (execVldB c s) := by
  unfold execVldB
  repeat' first
    | with_reducible first | assumption | intro _ | apply keepsR_next | apply keepsE_done | apply keepsE_jump | apply keepsE_stall | apply keepsE_trap | apply keepsE_halt | apply keepsE_wait | apply keepsE_skip | apply issue_keeps | apply vldEff_keeps

theorem vstEff_keeps {r : State} (c : Nat) (w : Word) {s : State} (h2 : Keeps r s) : KeepsE r (vstEff c w s) := by
  unfold vstEff
  extract_lets -underBinder y0 y1
  try clear_value y0
  try clear_value y1
  repeat' first
    | with_reducible first | assumption | intro _ | apply keepsE_done | apply keepsE_jump | apply keepsE_stall | apply keepsE_trap | apply keepsE_halt | apply keepsE_wait | apply keepsE_skip | apply keeps_ite | apply keeps_forEach | apply readWords_keeps | apply watch_keeps | apply writeWord_keeps | refine keeps_of_ok ?_ (by assumption) | refine keeps_of_bad ?_ (by assumption)
    | split
    | dsimp only

theorem execVst_keeps {r : State} (c : CoreId) {s : State} (h1 : Keeps r s) : KeepsR r (execVst c s) := by
  unfold execVst
  repeat' first
    | with_reducible first | assumption | intro _ | apply keepsR_next | apply keepsE_done | apply keepsE_jump | apply keepsE_stall | apply keepsE_trap | apply keepsE_halt | apply keepsE_wait | apply keepsE_skip | apply issue_keeps | apply vstEff_keeps

theorem execVstP_keeps {r : State} (c : CoreId) {s : State} (h1 : Keeps r s) : KeepsR r (execVstP c s) := by
  unfold execVstP
  repeat' first
    | with_reducible first | assumption | intro _ | apply keepsR_next | apply keepsE_done | apply keepsE_jump | apply keepsE_stall | apply keepsE_trap | apply keepsE_halt | apply keepsE_wait | apply keepsE_skip | apply issue_keeps | apply vstEff_keeps

theorem execVstS_keeps {r : State} (c : CoreId) {s : State} (h1 : Keeps r s) : KeepsR r (execVstS c s) := by
  unfold execVstS
  repeat' first
    | with_reducible first | assumption | intro _ | apply keepsR_next | apply keepsE_done | apply keepsE_jump | apply keepsE_stall | apply keepsE_trap | apply keepsE_halt | apply keepsE_wait | apply keepsE_skip | apply issue_keeps | apply vstEff_keeps

theorem execVstX_keeps {r : State} (c : CoreId) {s : State} (h1 : Keeps r s) : KeepsR r (execVstX c s) := by
  unfold execVstX
  repeat' first
    | with_reducible first | assumption | intro _ | apply keepsR_next | apply keepsE_done | apply keepsE_jump | apply keepsE_stall | apply keepsE_trap | apply keepsE_halt | apply keepsE_wait | apply keepsE_skip | apply issue_keeps | apply vstEff_keeps

theorem predOp_keeps {r : State} (c : CoreId) (op : Nat) (f : BitVec 16 → BitVec 16 → Word → BitVec 16) {s : State} (h3 : Keeps r s) : KeepsR r (predOp c op f s) := by
  unfold predOp
  repeat' first
    | with_reducible first | assumption | intro _ | apply keepsR_next | apply keepsE_done | apply keepsE_jump | apply keepsE_stall | apply keepsE_trap | apply keepsE_halt | apply keepsE_wait | apply keepsE_skip | apply State.modCore_keeps | apply issue_keeps

theorem execPset_keeps {r : State} (c : CoreId) {s : State} (h1 : Keeps r s) : KeepsR r (execPset c s) := by
  unfold execPset
  repeat' first
    | with_reducible first | assumption | intro _ | apply keepsR_next | apply predOp_keeps

theorem execPand_keeps {r : State} (c : CoreId) {s : State} (h1 : Keeps r s) : KeepsR r (execPand c s) := by
  unfold execPand
  repeat' first
    | with_reducible first | assumption | intro _ | apply keepsR_next | apply predOp_keeps

theorem execPor_keeps {r : State} (c : CoreId) {s : State} (h1 : Keeps r s) : KeepsR r (execPor c s) := by
  unfold execPor
  repeat' first
    | with_reducible first | assumption | intro _ | apply keepsR_next | apply predOp_keeps

theorem execPxor_keeps {r : State} (c : CoreId) {s : State} (h1 : Keeps r s) : KeepsR r (execPxor c s) := by
  unfold execPxor
  repeat' first
    | with_reducible first | assumption | intro _ | apply keepsR_next | apply predOp_keeps

theorem execPandn_keeps {r : State} (c : CoreId) {s : State} (h1 : Keeps r s) : KeepsR r (execPandn c s) := by
  unfold execPandn
  repeat' first
    | with_reducible first | assumption | intro _ | apply keepsR_next | apply predOp_keeps

theorem execPnot_keeps {r : State} (c : CoreId) {s : State} (h1 : Keeps r s) : KeepsR r (execPnot c s) := by
  unfold execPnot
  repeat' first
    | with_reducible first | assumption | intro _ | apply keepsR_next | apply predOp_keeps

theorem execPfrom_keeps {r : State} (c : CoreId) {s : State} (h1 : Keeps r s) : KeepsR r (execPfrom c s) := by
  unfold execPfrom
  repeat' first
    | with_reducible first | assumption | intro _ | apply keepsR_next | apply keepsE_done | apply keepsE_jump | apply keepsE_stall | apply keepsE_trap | apply keepsE_halt | apply keepsE_wait | apply keepsE_skip | apply State.modCore_keeps | apply issue_keeps

theorem execPto_keeps {r : State} (c : CoreId) {s : State} (h1 : Keeps r s) : KeepsR r (execPto c s) := by
  unfold execPto
  repeat' first
    | with_reducible first | assumption | intro _ | apply keepsR_next | apply keepsE_done | apply keepsE_jump | apply keepsE_stall | apply keepsE_trap | apply keepsE_halt | apply keepsE_wait | apply keepsE_skip | apply doneS_keeps | apply issue_keeps

theorem execPcnt_keeps {r : State} (c : CoreId) {s : State} (h1 : Keeps r s) : KeepsR r (execPcnt c s) := by
  unfold execPcnt
  repeat' first
    | with_reducible first | assumption | intro _ | apply keepsR_next | apply keepsE_done | apply keepsE_jump | apply keepsE_stall | apply keepsE_trap | apply keepsE_halt | apply keepsE_wait | apply keepsE_skip | apply doneS_keeps | apply issue_keeps

theorem tensorEff_keeps {r : State} (c : Nat) (w : Word) {s : State} (h2 : Keeps r s) : KeepsE r (tensorEff c w s) := by
  unfold tensorEff
  extract_lets -underBinder y0
  try clear_value y0
  repeat' first
    | with_reducible first | assumption | intro _ | apply keepsE_done | apply keepsE_jump | apply keepsE_stall | apply keepsE_trap | apply keepsE_halt | apply keepsE_wait | apply keepsE_skip | apply keeps_ite | apply State.modCore_keeps
    | split

theorem execTld_keeps {r : State} (c : CoreId) {s : State} (h1 : Keeps r s) : KeepsR r (execTld c s) := by
  unfold execTld
  repeat' first
    | with_reducible first | assumption | intro _ | apply keepsR_next | apply keepsE_done | apply keepsE_jump | apply keepsE_stall | apply keepsE_trap | apply keepsE_halt | apply keepsE_wait | apply keepsE_skip | apply issue_keeps | apply tensorEff_keeps

theorem execTmac_keeps {r : State} (c : CoreId) {s : State} (h1 : Keeps r s) : KeepsR r (execTmac c s) := by
  unfold execTmac
  repeat' first
    | with_reducible first | assumption | intro _ | apply keepsR_next | apply keepsE_done | apply keepsE_jump | apply keepsE_stall | apply keepsE_trap | apply keepsE_halt | apply keepsE_wait | apply keepsE_skip | apply issue_keeps | apply tensorEff_keeps

theorem execTclr_keeps {r : State} (c : CoreId) {s : State} (h1 : Keeps r s) : KeepsR r (execTclr c s) := by
  unfold execTclr
  repeat' first
    | with_reducible first | assumption | intro _ | apply keepsR_next | apply keepsE_done | apply keepsE_jump | apply keepsE_stall | apply keepsE_trap | apply keepsE_halt | apply keepsE_wait | apply keepsE_skip | apply issue_keeps | apply tensorEff_keeps

theorem execTemit_keeps {r : State} (c : CoreId) {s : State} (h1 : Keeps r s) : KeepsR r (execTemit c s) := by
  unfold execTemit
  repeat' first
    | with_reducible first | assumption | intro _ | apply keepsR_next | apply keepsE_done | apply keepsE_jump | apply keepsE_stall | apply keepsE_trap | apply keepsE_halt | apply keepsE_wait | apply keepsE_skip | apply issue_keeps | apply tensorEff_keeps

theorem execTsumRow_keeps {r : State} (c : CoreId) {s : State} (h1 : Keeps r s) : KeepsR r (execTsumRow c s) := by
  unfold execTsumRow
  repeat' first
    | with_reducible first | assumption | intro _ | apply keepsR_next | apply keepsE_done | apply keepsE_jump | apply keepsE_stall | apply keepsE_trap | apply keepsE_halt | apply keepsE_wait | apply keepsE_skip | apply issue_keeps | apply tensorEff_keeps

theorem execTsumCol_keeps {r : State} (c : CoreId) {s : State} (h1 : Keeps r s) : KeepsR r (execTsumCol c s) := by
  unfold execTsumCol
  repeat' first
    | with_reducible first | assumption | intro _ | apply keepsR_next | apply keepsE_done | apply keepsE_jump | apply keepsE_stall | apply keepsE_trap | apply keepsE_halt | apply keepsE_wait | apply keepsE_skip | apply issue_keeps | apply tensorEff_keeps

theorem arrFault_keeps {r : State} (c : Nat) (n : Nat) (cause : Nat) (info : Word) {s : State} (h4 : Keeps r s) : Keeps r (arrFault c n cause info s) := by
  unfold arrFault
  repeat' first
    | with_reducible first | assumption | intro _ | apply State.modCore_keeps | apply coreFault_keeps

theorem arrWatch_keeps {r : State} (c : Nat) (kind : Nat) (ws : List Nat) {s : State} (h3 : Keeps r s) : Keeps r (arrWatch c kind ws s) := by
  unfold arrWatch
  repeat' first
    | with_reducible first | assumption | apply keeps_ite | apply reqHalt_keeps

theorem startTld_keeps {r : State} (c : Nat) (n : Nat) (a : ArrOp) {s : State} (h3 : Keeps r s) : Keeps r (startTld c n a s) := by
  unfold startTld
  extract_lets -underBinder y0
  try clear_value y0
  repeat' first
    | with_reducible first | assumption | intro _ | apply keeps_foldl_triple | apply keeps_foldl_first | apply keeps_foldl_pair | apply keeps_foldl | apply State.modCore_keeps | apply arrFault_keeps | apply arrWatch_keeps | apply readWords_keeps | refine keeps_of_ok ?_ (by assumption) | refine keeps_of_bad ?_ (by assumption)
    | split

theorem startTmac_keeps {r : State} (c : Nat) (n : Nat) (a : ArrOp) {s : State} (h3 : Keeps r s) : Keeps r (startTmac c n a s) := by
  unfold startTmac
  repeat' first
    | with_reducible first | assumption | intro _ | apply State.modCore_keeps | apply arrFault_keeps
    | split

theorem startTemit_keeps {r : State} (c : Nat) (n : Nat) (a : ArrOp) {s : State} (h3 : Keeps r s) : Keeps r (startTemit c n a s) := by
  unfold startTemit
  repeat' first
    | with_reducible first | assumption | intro _ | apply keeps_ite | apply State.modCore_keeps | apply arrFault_keeps | apply arrWatch_keeps | apply readWords_keeps | refine keeps_of_ok ?_ (by assumption) | refine keeps_of_bad ?_ (by assumption)
    | split
    | dsimp only

theorem startTsum_keeps {r : State} (c : Nat) (n : Nat) (a : ArrOp) {s : State} (h3 : Keeps r s) : Keeps r (startTsum c n a s) := by
  unfold startTsum
  repeat' first
    | with_reducible first | assumption | intro _ | apply State.modCore_keeps | apply arrFault_keeps
    | split

theorem execArrayInstructionStart_keeps {r : State} (c : CoreId) (mac : Bool) {s : State} (h2 : Keeps r s) : KeepsR r (execArrayInstructionStart c mac s) := by
  unfold execArrayInstructionStart
  repeat' first
    | with_reducible first | assumption | intro _ | apply keepsR_next | apply keeps_ite | apply State.modCore_keeps | apply startTemit_keeps | apply startTld_keeps | apply startTmac_keeps | apply startTsum_keeps
    | split

theorem storeBytes_keeps {r : State} (c : Nat) (a : Nat) (bs : List Byte) {s : State} (h3 : Keeps r s) : Keeps r (storeBytes c a bs s) := by
  unfold storeBytes
  repeat' first
    | with_reducible first | assumption | intro _ | apply keeps_forEach | apply writeWord_keeps

theorem execArrayInstructionDone_keeps {r : State} (c : CoreId) (mac : Bool) {s : State} (h2 : Keeps r s) : KeepsR r (execArrayInstructionDone c mac s) := by
  unfold execArrayInstructionDone
  repeat' first
    | with_reducible first | assumption | intro _ | apply keepsR_next | apply keeps_ite | apply State.modCore_keeps | apply arrWatch_keeps | apply storeBytes_keeps
    | split

theorem corrected_keeps {r : State} (d : Dom) (n : Nat) {s : State} (h2 : Keeps r s) : Keeps r (corrected d n s) := by
  unfold corrected
  extract_lets -underBinder y0
  have ky0 : Keeps r y0 := by
    repeat' first
      | with_reducible first | assumption | apply State.satFld_keeps
  try clear_value y0
  repeat' first
    | with_reducible first | assumption | apply State.satFld_keeps
    | dsimp only
    | with_reducible first | apply keeps_mk

theorem writeWordsAt_keeps {r : State} (c : Nat) (a1 : Nat) (a2 : List PWord) {a3 : State} : Keeps r a3 → Keeps r (writeWordsAt c a1 a2 a3) := by
  fun_induction writeWordsAt c a1 a2 a3 <;>
    repeat' first
      | with_reducible first | assumption | intro _ | apply writeWord_keeps | apply_assumption -exfalso -symm

end Sys2Proof.Machine
end

