-- ==== Sys2Proof/Laws/KeepsMesh.lean ====
section
/-! SUPPORT. Mesh keep what every command keeps: one law for each function that gives a state. -/

namespace Sys2Proof.Machine

theorem State.modLimb_keeps {r : State} {s : State} (l : Nat) (f : Limb → Limb) (h0 : Keeps r s) : Keeps r (State.modLimb s l f) := by
  unfold State.modLimb
  repeat' first
    | with_reducible assumption
    | dsimp only
    | with_reducible first | apply keeps_mk

theorem capRefresh_keeps {r : State} (l : Nat) {s : State} (h1 : Keeps r s) : Keeps r (capRefresh l s) := by
  unfold capRefresh
  extract_lets -underBinder y0 y1 y2 y3 y4 y5 y6 y7
  try clear_value y0
  try clear_value y1
  try clear_value y2
  have ky3 : Keeps r y3 := by
    repeat' first
      | with_reducible first | assumption | intro _ | apply keeps_ite | apply State.modLimb_keeps | apply State.wr_keeps
  try clear_value y3
  have ky4 : Keeps r y4 := by
    repeat' first
      | with_reducible first | assumption | intro _ | apply keeps_ite | apply State.modLimb_keeps | apply State.wr_keeps
  try clear_value y4
  have ky5 : Keeps r y5 := by
    repeat' first
      | with_reducible first | assumption | intro _ | apply keeps_ite | apply State.modLimb_keeps | apply State.wr_keeps
  try clear_value y5
  try clear_value y6
  have ky7 : Keeps r y7 := by
    repeat' first
      | with_reducible first | assumption | intro _ | apply keeps_ite | apply State.modLimb_keeps
  try clear_value y7
  repeat' first
    | with_reducible first | assumption | intro _ | apply keeps_ite | apply State.modLimb_keeps | apply State.wr_keeps | apply nlogEvent_keeps

theorem State.setEntry_keeps {r : State} {s : State} (g : Nat) (w : Word) (h0 : Keeps r s) : Keeps r (State.setEntry s g w) := by
  unfold State.setEntry
  repeat' first
    | with_reducible assumption
    | dsimp only
    | with_reducible first | apply keeps_mk

theorem migDone_keeps {r : State} (l : Nat) (g : Nat) {s : State} (h2 : Keeps r s) : Keeps r (migDone l g s) := by
  unfold migDone
  repeat' first
    | with_reducible first | assumption | apply State.setEntry_keeps | apply capRefresh_keeps
    | split
    | dsimp only
    | with_reducible first | apply keeps_mk

theorem migBegin_keeps {r : State} (l : Nat) (g : Nat) (tier : Nat) {s : State} (h3 : Keeps r s) : KeepsO r (migBegin l g tier s) := by
  unfold migBegin
  repeat' first
    | with_reducible first | assumption | apply keepsO_none | apply keepsO_some | apply keepsO_map_state | apply keepsO_map | apply State.setEntry_keeps | apply capRefresh_keeps | intro _
    | dsimp only
    | with_reducible first | apply keeps_mk

theorem evictSweep_keeps {r : State} (l : Nat) (anyAge : Bool) (a2 : List (Nat × Word)) {a3 : State} (h3 : Keeps r a3) : Keeps r (evictSweep l anyAge a2 a3) := by
  induction a2 generalizing a3 <;> unfold evictSweep <;>
    repeat' first
      | with_reducible first | assumption | intro _ | apply keeps_ite | apply State.modLimb_keeps | apply migBegin_keeps | apply migDone_keeps | refine keeps_of_option ?_ (by assumption) | apply_assumption -exfalso -symm
      | split

theorem retryPinned_keeps {r : State} (l : Nat) {s : State} (h1 : Keeps r s) : Keeps r (retryPinned l s) := by
  unfold retryPinned
  extract_lets -underBinder y0
  try clear_value y0
  repeat' first
    | with_reducible first | assumption | intro _ | apply keeps_ite | apply keeps_foldl_triple | apply keeps_foldl_first | apply keeps_foldl_pair | apply keeps_foldl | apply migBegin_keeps | refine keeps_of_option ?_ (by assumption)
    | split
    | with_reducible apply keeps_getD

theorem evict_keeps {r : State} (l : Nat) {s : State} (h1 : Keeps r s) : Keeps r (evict l s) := by
  unfold evict
  extract_lets -underBinder y0
  have ky0 : Keeps r y0 := by
    repeat' first
      | with_reducible first | assumption | apply keeps_ite | apply evictSweep_keeps | apply retryPinned_keeps
  try clear_value y0
  repeat' first
    | with_reducible first | assumption | apply keeps_ite | apply evictSweep_keeps | apply retryPinned_keeps

theorem allocate_keeps {r : State} (l : Nat) (g : Nat) (n : Nat) {s : State} (h3 : Keeps r s) : Keeps r (allocate l g n s).2 := by
  unfold allocate
  repeat' first
    | with_reducible first | assumption | apply evict_keeps
    | split

theorem encodeGranule_keeps {r : State} (l : Nat) (g : Nat) {s : State} (h2 : Keeps r s) : KeepsO r (encodeGranule l g s) := by
  unfold encodeGranule
  extract_lets -underBinder y0 y1
  try clear_value y0
  try clear_value y1
  repeat' first
    | with_reducible first | assumption | apply keepsO_none | apply keepsO_some | apply keepsO_map_state | apply keepsO_map | apply keeps_ite | apply State.setEntry_keeps | apply allocate_keeps | apply capRefresh_keeps | refine keeps_of_pair ?_ (by assumption)
    | split
    | with_reducible intro _
    | dsimp only
    | with_reducible first | apply keeps_mk

theorem capFail_keeps {r : State} (l : Nat) (g : Nat) {s : State} (h2 : Keeps r s) : Keeps r (capFail l g s) := by
  unfold capFail
  repeat' first
    | with_reducible first | assumption | apply State.satFld_keeps | apply raise_keeps

theorem closeSlot_keeps {r : State} (l : Nat) (g : Nat) {s : State} (h2 : Keeps r s) : Keeps r (closeSlot l g s) := by
  unfold closeSlot
  repeat' first
    | with_reducible first | assumption | intro _ | apply keeps_ite | apply State.modLimb_keeps | apply capFail_keeps | apply encodeGranule_keeps | refine keeps_of_option ?_ (by assumption)
    | split

theorem dropSlot_keeps {r : State} (l : Nat) (k : Slot) {s : State} (h2 : Keeps r s) : Keeps r (dropSlot l k s) := by
  unfold dropSlot
  repeat' first
    | with_reducible first | assumption | intro _ | apply State.modLimb_keeps
    | dsimp only
    | with_reducible first | refine keeps_mk_store ?_ (canon_tcut _ _) (canon_tcut _ _) | refine keeps_mk_store ?_ (fun k => canon_tmergeD _ (canon_tcut _ _ k)) (fun k => canon_tmergeD _ (canon_tcut _ _ k)) | refine keeps_mk_store ?_ (fun _ => canon_nil _) (fun _ => canon_nil _) | apply keeps_mk | apply keeps_mk_draws

theorem touch_keeps {r : State} (g : Nat) {s : State} (h1 : Keeps r s) : Keeps r (touch g s) := by
  unfold touch
  repeat' first
    | with_reducible first | assumption | apply State.setEntry_keeps

theorem addrError_keeps {r : State} (l : Nat) (a : Nat) {s : State} (h2 : Keeps r s) : Keeps r (addrError l a s) := by
  unfold addrError
  repeat' first
    | with_reducible first | assumption | apply raise_keeps

theorem capAll_keeps {r : State} {s : State} (h0 : Keeps r s) : Keeps r (capAll s) := by
  unfold capAll
  repeat' first
    | with_reducible first | assumption | intro _ | apply keeps_forEach | apply capRefresh_keeps

theorem emptyStore_keeps {r : State} {s : State} (h0 : Keeps r s) : Keeps r (emptyStore s) := by
  unfold emptyStore
  repeat' first
    | with_reducible first | assumption | apply capAll_keeps
    | dsimp only
    | with_reducible first | refine keeps_mk_store ?_ (canon_tcut _ _) (canon_tcut _ _) | refine keeps_mk_store ?_ (fun k => canon_tmergeD _ (canon_tcut _ _ k)) (fun k => canon_tmergeD _ (canon_tcut _ _ k)) | refine keeps_mk_store ?_ (fun _ => canon_nil _) (fun _ => canon_nil _) | apply keeps_mk | apply keeps_mk_draws

theorem setActive_keeps {r : State} (m : Nat) {s : State} (h1 : Keeps r s) : Keeps r (setActive m s) := by
  unfold setActive
  repeat' first
    | with_reducible first | assumption | apply State.setFld_keeps

theorem homeApply_keeps {r : State} {s : State} (h0 : Keeps r s) : Keeps r (homeApply s) := by
  unfold homeApply
  extract_lets -underBinder y0
  try clear_value y0
  repeat' first
    | with_reducible first | assumption | apply keeps_ite | apply State.setFld_keeps | apply emptyStore_keeps | apply setActive_keeps

theorem State.draw_keeps {r : State} {s : State} (h0 : Keeps r s) : Keeps r (State.draw s).2 :=
  keeps_draws h0 _ (Nat.le_succ _)

theorem postTo_keeps {r : State} (j : Nat) (src : Nat) (lring : Nat) (rec : List Word) {s : State} (h4 : Keeps r s) : Keeps r (postTo j src lring rec s) := by
  unfold postTo
  repeat' first
    | with_reducible first | assumption | apply ringPush_keeps

theorem post_keeps {r : State} (src : Nat) (lring : Nat) (rec : List Word) {s : State} (h3 : Keeps r s) : Keeps r (post src lring rec s) := by
  unfold post
  repeat' first
    | with_reducible first | assumption | apply keeps_ite | apply postTo_keeps

theorem migAbort_keeps {r : State} (l : Nat) (g : Nat) {s : State} (h2 : Keeps r s) : Keeps r (migAbort l g s) := by
  unfold migAbort
  repeat' first
    | with_reducible first | assumption | apply keeps_ite | apply State.satFld_keeps | apply State.setEntry_keeps | apply capRefresh_keeps
    | split
    | dsimp only
    | with_reducible first | apply keeps_mk

theorem zeroGranule_keeps {r : State} (g : Nat) {s : State} (h1 : Keeps r s) : Keeps r (zeroGranule g s) := by
  unfold zeroGranule
  repeat' first
    | with_reducible first | assumption | intro _ | apply State.modLimb_keeps | apply State.setEntry_keeps | apply capRefresh_keeps | apply migAbort_keeps
    | split
    | dsimp only
    | with_reducible first | refine keeps_mk_store ?_ (canon_tcut _ _) (canon_tcut _ _) | refine keeps_mk_store ?_ (fun k => canon_tmergeD _ (canon_tcut _ _ k)) (fun k => canon_tmergeD _ (canon_tcut _ _ k)) | refine keeps_mk_store ?_ (fun _ => canon_nil _) (fun _ => canon_nil _) | apply keeps_mk | apply keeps_mk_draws

theorem putX_keeps {r : State} {s : State} (w : Nat) (x : Bool) (h : Keeps r s) : Keeps r (putX w x s) :=
  keeps_memX h _ (canon_tput w x)

theorem putByte_keeps {r : State} {s : State} (a : Nat) (b : Byte) (h : Keeps r s) : Keeps r (putByte a b s) :=
  keeps_mem h _ (canon_tput a b)

theorem putBytes_keeps {r : State} (a0 : Nat) (a1 : List Byte) {a2 : State} : Keeps r a2 → Keeps r (putBytes a0 a1 a2) := by
  fun_induction putBytes a0 a1 a2 <;>
    repeat' first
      | with_reducible first | assumption | intro _ | apply putByte_keeps | apply_assumption -exfalso -symm

theorem putWord_keeps {r : State} (w : Nat) (v : PWord) {s : State} (h2 : Keeps r s) : Keeps r (putWord w v s) := by
  unfold putWord
  repeat' first
    | with_reducible first | assumption | apply putBytes_keeps | apply putX_keeps

theorem putWords_keeps {r : State} (a0 : Nat) (a1 : List PWord) {a2 : State} (h2 : Keeps r a2) : Keeps r (putWords a0 a1 a2) := by
  induction a1 generalizing a0 a2 <;> unfold putWords <;>
    repeat' first
      | with_reducible first | assumption | intro _ | apply putWord_keeps | apply_assumption -exfalso -symm

theorem freeSlot_keeps {r : State} (l : Nat) (a1 : Nat) {a2 : State} (h2 : Keeps r a2) : Keeps r (freeSlot l a1 a2) := by
  induction a1 generalizing a2 <;> unfold freeSlot <;>
    repeat' first
      | with_reducible first | assumption | intro _ | apply keeps_ite | apply closeSlot_keeps | apply_assumption -exfalso -symm
      | split

theorem openSlot_keeps {r : State} (l : Nat) (g : Nat) {s : State} (h2 : Keeps r s) : Keeps r (openSlot l g s).2 := by
  unfold openSlot
  repeat' first
    | with_reducible first | assumption | intro _ | apply keeps_ite | apply State.modLimb_keeps | apply freeSlot_keeps
    | split
    | dsimp only

theorem writeGranule_keeps {r : State} (g : Nat) (w : Nat) (ws : List PWord) {s : State} (h3 : Keeps r s) : Keeps r (writeGranule g w ws s).2 := by
  unfold writeGranule
  repeat' first
    | with_reducible first | assumption | intro _ | apply keeps_ite | apply State.modLimb_keeps | apply capFail_keeps | apply encodeGranule_keeps | apply migAbort_keeps | apply openSlot_keeps | apply putWords_keeps | refine keeps_of_option ?_ (by assumption) | refine keeps_of_pair ?_ (by assumption)
    | split
    | dsimp only

theorem writeStore_keeps {r : State} (engine : Bool) (w : Nat) (ws : List PWord) {s : State} (h3 : Keeps r s) : Keeps r (writeStore engine w ws s).2 := by
  unfold writeStore
  repeat' first
    | with_reducible first | assumption | intro _ | apply keeps_ite | apply keeps_foldl_triple | apply keeps_foldl_first | apply keeps_foldl_pair | apply keeps_foldl | apply touch_keeps | apply writeGranule_keeps | refine keeps_of_pair ?_ (by assumption)

theorem writeBytes_keeps {r : State} (engine : Bool) (a : Nat) (bs : List Byte) {s : State} (h3 : Keeps r s) : Keeps r (writeBytes engine a bs s).2 := by
  unfold writeBytes
  extract_lets -underBinder y0 y1 y2 y3 y4 y5
  try clear_value y0
  try clear_value y1
  try clear_value y2
  try clear_value y3
  try clear_value y4
  try clear_value y5
  repeat' first
    | with_reducible first | assumption | apply writeStore_keeps | refine keeps_of_pair ?_ (by assumption)

theorem State.modBoot_keeps {r : State} {s : State} (f : Boot → Boot) (h0 : Keeps r s) : Keeps r (State.modBoot s f) := by
  unfold State.modBoot
  repeat' first
    | with_reducible assumption
    | dsimp only
    | with_reducible first | apply keeps_mk

theorem quoteCapture_keeps {r : State} {s : State} (h0 : Keeps r s) : Keeps r (quoteCapture s) := by
  unfold quoteCapture
  repeat' first
    | with_reducible first | assumption | intro _ | apply State.modBoot_keeps

theorem quoteStart_keeps {r : State} {s : State} (h0 : Keeps r s) : Keeps r (quoteStart s) := by
  unfold quoteStart
  repeat' first
    | with_reducible first | assumption | apply keeps_ite | apply quoteCapture_keeps

theorem discardAt_keeps {r : State} (f : Nat) (n : Nat) {s : State} (h2 : Keeps r s) : Keeps r (discardAt f n s) := by
  unfold discardAt
  repeat' first
    | with_reducible first | assumption | apply State.satFld_keeps

theorem injectPkt_keeps {r : State} (p : Packet) {s : State} (h1 : Keeps r s) : Keeps r (injectPkt p s) := by
  unfold injectPkt
  repeat' first
    | with_reducible first | assumption | apply keeps_ite | apply State.send_keeps | apply discardAt_keeps
    | split

theorem limbInject_keeps {r : State} (p : Packet) {s : State} (h1 : Keeps r s) : Keeps r (limbInject p s) := by
  unfold limbInject
  repeat' first
    | with_reducible first | assumption | apply keeps_ite | apply State.send_keeps | apply injectPkt_keeps

theorem waferWrite_keeps {r : State} (l : Nat) (tag : Nat) (typ : Nat) (dx : Nat) (dy : Nat) (a : Nat) (port : Bool) (bs : List (Byte × Bool)) {s : State} (h8 : Keeps r s) : Keeps r (waferWrite l tag typ dx dy a port bs s) := by
  unfold waferWrite
  extract_lets -underBinder y0
  try clear_value y0
  repeat' first
    | with_reducible first | assumption | intro _ | apply keeps_ite | apply keeps_foldl_triple | apply keeps_foldl_first | apply keeps_foldl_pair | apply keeps_foldl | apply limbInject_keeps

theorem winError_keeps {r : State} (addr : Nat) {s : State} (h1 : Keeps r s) : Keeps r (winError addr s) := by
  unfold winError
  repeat' first
    | with_reducible first | assumption | apply raise_keeps

theorem modWrite_keeps {r : State} (l : Nat) (tag : Nat) (typ : Nat) (a : Nat) (bs : List (Byte × Bool)) {s : State} (h5 : Keeps r s) : Keeps r (modWrite l tag typ a bs s).2 := by
  unfold modWrite
  repeat' first
    | with_reducible first | assumption | intro _ | apply keeps_ite | apply keeps_foldl_triple | apply keeps_foldl_first | apply keeps_foldl_pair | apply keeps_foldl | apply State.emit_keeps | apply addrError_keeps | apply putX_keeps | apply waferWrite_keeps | apply winError_keeps | apply writeBytes_keeps | refine keeps_of_pair ?_ (by assumption)
    | split
    | dsimp only

theorem respond_keeps {r : State} (p : Packet) (typ : Nat) (status : Nat) (daddr : Nat) (lastp : Bool) (body : List PWord) {s : State} (h6 : Keeps r s) : Keeps r (respond p typ status daddr lastp body s) := by
  unfold respond
  repeat' first
    | with_reducible first | assumption | apply injectPkt_keeps

theorem errTo_keeps {r : State} (p : Packet) (status : Nat) {s : State} (h2 : Keeps r s) : Keeps r (errTo p status s) := by
  unfold errTo
  repeat' first
    | with_reducible first | assumption | apply keeps_ite | apply respond_keeps

theorem outWords_keeps {r : State} (read : Nat → State → PWord × State) (a1 : List Nat) {a2 : State} : (∀ x0 x1, Keeps r x1 → Keeps r ((read x0 x1)).2) → Keeps r a2 → Keeps r (outWords read a1 a2).2 := by
  fun_induction outWords read a1 a2 <;>
    repeat' first
      | with_reducible first | assumption | intro _ | apply_assumption -exfalso -symm

theorem outWord_keeps {r : State} (c : Nat) (i : Nat) {s : State} (h2 : Keeps r s) : Keeps r (outWord c i s).2 := by
  unfold outWord
  extract_lets -underBinder y0 y1 y2 y3
  try clear_value y0
  try clear_value y1
  try clear_value y2
  have ky3 : ∀ x0, Keeps r x0 → Keeps r ((y3 x0)).2 := by
    intro x0 zx0
    dsimp only [y3]
    repeat' first
      | with_reducible first | assumption | apply keeps_ite | apply State.draw_keeps | apply coreCorrected_keeps | apply raise_keeps | refine keeps_of_pair ?_ (by assumption)
  try clear_value y3
  repeat' first
    | with_reducible first | assumption | apply keeps_ite | apply State.draw_keeps | apply coreCorrected_keeps | apply raise_keeps | refine keeps_of_pair ?_ (by assumption) | apply ky3
    | split

theorem coreLocalRead_keeps {r : State} (c : Nat) (i : Nat) {s : State} (h2 : Keeps r s) : Keeps r (coreLocalRead c i s).2 := by
  unfold coreLocalRead
  extract_lets -underBinder y0
  try clear_value y0
  repeat' first
    | with_reducible first | assumption | apply keeps_ite | apply outWord_keeps | apply readEffect_keeps | refine keeps_of_pair ?_ (by assumption)
    | split

theorem rdataPkts_keeps {r : State} (p : Packet) (ws : List PWord) {s : State} (h2 : Keeps r s) : Keeps r (rdataPkts p ws s) := by
  unfold rdataPkts
  repeat' first
    | with_reducible first | assumption | apply keeps_ite | apply respond_keeps

theorem mergeWord_keeps {r : State} (read : State → PWord × State) (keepLo : Nat) (keepHi : Nat) (w : PWord) {s : State} (h0 : ∀ x0, Keeps r x0 → Keeps r ((read x0)).2) (h4 : Keeps r s) : Keeps r (mergeWord read keepLo keepHi w s).2 := by
  unfold mergeWord
  extract_lets -underBinder y0 y1
  have ky0 : Keeps r y0.2 := by
    try dsimp only [y0]
    repeat' first
      | with_reducible first | assumption | apply keeps_ite | apply h0
  try clear_value y0
  try clear_value y1
  repeat' first
    | with_reducible first | assumption | apply keeps_ite | apply h0
    | split

theorem coreLocalPut_keeps {r : State} (c : Nat) (i : Nat) (w : PWord) {s : State} (h3 : Keeps r s) : Keeps r (coreLocalPut c i w s) := by
  unfold coreLocalPut
  repeat' first
    | with_reducible first | assumption | intro _ | apply keeps_ite | apply State.modCore_keeps | apply coreRegWrite_keeps | apply writeWord_keeps

theorem coreLocalWrite_keeps {r : State} (c : Nat) (a1 : Nat) (a2 : Nat) (a3 : Nat) (a4 : List PWord) {a5 : State} : Keeps r a5 → Keeps r (coreLocalWrite c a1 a2 a3 a4 a5) := by
  fun_induction coreLocalWrite c a1 a2 a3 a4 a5 <;>
    repeat' first
      | with_reducible first | assumption | intro _ | apply keeps_ite | apply coreLocalPut_keeps | apply coreLocalRead_keeps | apply mergeWord_keeps | refine keeps_of_pair ?_ (by assumption) | apply_assumption -exfalso -symm

theorem coreWrite_keeps {r : State} (c : Nat) (p : Packet) {s : State} (h2 : Keeps r s) : Keeps r (coreWrite c p s) := by
  unfold coreWrite
  extract_lets -underBinder y0 y1 y2
  try clear_value y0
  have ky1 : Keeps r y1 := by
    repeat' first
      | with_reducible first | assumption | apply keeps_ite | apply State.setFld_keeps | apply coreLocalWrite_keeps
  try clear_value y1
  have ky2 : Keeps r y2 := by
    repeat' first
      | with_reducible first | assumption | apply keeps_ite | apply State.setFld_keeps | apply coreLocalWrite_keeps | apply errTo_keeps | apply raise_keeps | apply respond_keeps | apply tokArrive_keeps
  try clear_value y2
  repeat' first
    | with_reducible first | assumption | apply keeps_ite | apply State.setFld_keeps | apply coreLocalWrite_keeps | apply errTo_keeps | apply raise_keeps | apply respond_keeps

theorem serveCore_keeps {r : State} (c : Nat) (p : Packet) {s : State} (h2 : Keeps r s) : Keeps r (serveCore c p s) := by
  unfold serveCore
  extract_lets -underBinder y0 y1
  try clear_value y0
  have ky1 : Keeps r y1.2 := by
    try dsimp only [y1]
    repeat' first
      | with_reducible first | assumption | intro _ | apply keeps_ite | apply coreLocalRead_keeps | apply coreWrite_keeps | apply errTo_keeps | apply outWords_keeps | apply rdataPkts_keeps | refine keeps_of_pair ?_ (by assumption)
  try clear_value y1
  repeat' first
    | with_reducible first | assumption | intro _ | apply keeps_ite | apply coreLocalRead_keeps | apply coreWrite_keeps | apply errTo_keeps | apply outWords_keeps | apply rdataPkts_keeps | refine keeps_of_pair ?_ (by assumption)

theorem admitList_keeps {r : State} (c : Nat) (a1 : List Packet) {a2 : State} : Keeps r a2 → Keeps r (admitList c a1 a2) := by
  fun_induction admitList c a1 a2 <;>
    repeat' first
      | with_reducible first | assumption | intro _ | apply keeps_ite | apply State.modCore_keeps | apply serveCore_keeps | apply_assumption -exfalso -symm

theorem admitHeld_keeps {r : State} (c : Nat) {s : State} (h1 : Keeps r s) : Keeps r (admitHeld c s) := by
  unfold admitHeld
  repeat' first
    | with_reducible first | assumption | intro _ | apply keeps_ite | apply State.modCore_keeps | apply admitList_keeps

theorem seamDown_keeps {r : State} (east : Bool) {s : State} (h1 : Keeps r s) : Keeps r (seamDown east s) := by
  unfold seamDown
  extract_lets -underBinder y0
  try clear_value y0
  repeat' first
    | with_reducible first | assumption | apply keeps_ite | apply State.setFld_keeps
    | split
    | dsimp only
    | with_reducible first | refine keeps_mk_tabs ?_ (risingKeys_terase _) id id | apply keeps_mk | apply keeps_mk_draws

theorem epochNext_keeps {r : State} (east : Bool) {s : State} (h1 : Keeps r s) : Keeps r (epochNext east s) := by
  unfold epochNext
  repeat' first
    | with_reducible first | assumption | apply State.setFld_keeps

theorem seamAssert_keeps {r : State} (east : Bool) {s : State} (h1 : Keeps r s) : Keeps r (seamAssert east s) := by
  unfold seamAssert
  extract_lets -underBinder y0 y1
  have ky0 : Keeps r y0 := by
    repeat' first
      | with_reducible first | assumption | apply keeps_ite | apply State.setFld_keeps | apply epochNext_keeps
  try clear_value y0
  have ky1 : Keeps r y1 := by
    repeat' first
      | with_reducible first | assumption | apply keeps_ite | apply State.setFld_keeps
  try clear_value y1
  repeat' first
    | with_reducible first | assumption | apply keeps_ite | apply State.setFld_keeps | apply epochNext_keeps
    | split
    | dsimp only
    | with_reducible first | apply keeps_mk

theorem seamRelease_keeps {r : State} (east : Bool) {s : State} (h1 : Keeps r s) : Keeps r (seamRelease east s) := by
  unfold seamRelease
  repeat' first
    | with_reducible first | assumption | apply keeps_ite | apply epochNext_keeps

theorem migCmd_keeps {r : State} (l : Nat) (op : Nat) (arg : Nat) (first : Nat) (count : Nat) (eff : Nat → State → State) {s : State} (h5 : ∀ x0 x1, Keeps r x1 → Keeps r (eff x0 x1)) (h6 : Keeps r s) : Keeps r (migCmd l op arg first count eff s) := by
  unfold migCmd
  extract_lets -underBinder y0
  have ky0 : Keeps r y0 := by
    repeat' first
      | with_reducible first | assumption | intro _ | apply keeps_ite | apply keeps_forEach | apply State.satFld_keeps | apply State.wr_keeps
  try clear_value y0
  repeat' first
    | with_reducible first | assumption | intro _ | apply keeps_ite | apply keeps_forEach | apply State.satFld_keeps

theorem migrateNear_keeps {r : State} (l : Nat) (g : Nat) {s : State} (h2 : Keeps r s) : Keeps r (migrateNear l g s) := by
  unfold migrateNear
  extract_lets -underBinder y0 y1
  try clear_value y0
  have ky1 : Keeps r y1 := by
    repeat' first
      | with_reducible first | assumption | apply keeps_ite | apply State.satFld_keeps | apply capFail_keeps | apply evict_keeps | apply migBegin_keeps | refine keeps_of_option ?_ (by assumption)
      | with_reducible apply keepsO_none
  try clear_value y1
  repeat' first
    | with_reducible first | assumption | apply keeps_ite | apply State.satFld_keeps | apply capFail_keeps | apply evict_keeps | apply migBegin_keeps | refine keeps_of_option ?_ (by assumption)
    | split
    | with_reducible apply keepsO_none

theorem migrate_keeps {r : State} (g : Nat) (tier : Nat) {s : State} (h2 : Keeps r s) : Keeps r (migrate g tier s) := by
  unfold migrate
  repeat' first
    | with_reducible first | assumption | apply keeps_ite | apply capFail_keeps | apply migBegin_keeps | apply migDone_keeps | apply migrateNear_keeps | refine keeps_of_option ?_ (by assumption)
    | split

theorem setPin_keeps {r : State} (g : Nat) (n : Nat) {s : State} (h2 : Keeps r s) : Keeps r (setPin g n s) := by
  unfold setPin
  repeat' first
    | with_reducible first | assumption | apply State.setEntry_keeps

theorem applyHint_keeps {r : State} (code : Nat) (g : Nat) {s : State} (h2 : Keeps r s) : Keeps r (applyHint code g s) := by
  unfold applyHint
  repeat' first
    | with_reducible first | assumption | apply keeps_ite | apply migrate_keeps | apply setPin_keeps | apply zeroGranule_keeps
    | split

theorem migCmdWrite_keeps {r : State} (l : Nat) (v : Word) {s : State} (h2 : Keeps r s) : Keeps r (migCmdWrite l v s) := by
  unfold migCmdWrite
  extract_lets -underBinder y0 y1 y2 y3
  try clear_value y0
  try clear_value y1
  try clear_value y2
  try clear_value y3
  repeat' first
    | with_reducible first | assumption | intro _ | apply keeps_ite | apply State.satFld_keeps | apply State.setEntry_keeps | apply applyHint_keeps | apply closeSlot_keeps | apply migCmd_keeps | apply plainWrite_keeps | apply zeroGranule_keeps
    | split

theorem readStore_keeps {r : State} (engine : Bool) (w : Nat) (n : Nat) {s : State} (h3 : Keeps r s) : Keeps r (readStore engine w n s).2 := by
  unfold readStore
  repeat' first
    | with_reducible first | assumption | intro _ | apply keeps_ite | apply keeps_forEach | apply touch_keeps

theorem askRead_keeps {r : State} (l : Nat) (a : Nat) (n : Nat) {s : State} (h3 : Keeps r s) : Keeps r (askRead l a n s).2.2 := by
  unfold askRead
  repeat' first
    | with_reducible first | assumption | apply keeps_ite
    | split
    | dsimp only
    | with_reducible first | apply keeps_mk

theorem modRead_keeps {r : State} (l : Nat) (a : Nat) (n : Nat) {s : State} (h3 : Keeps r s) : Keeps r (modRead l a n s).2.2 := by
  unfold modRead
  extract_lets -underBinder y0
  try clear_value y0
  repeat' first
    | with_reducible first | assumption | apply keeps_ite | apply addrError_keeps | apply askRead_keeps | apply readStore_keeps | apply winError_keeps | refine keeps_of_pair ?_ (by assumption) | refine keeps_of_pair' ?_ (by assumption)
    | split

theorem State.setOcc_keeps {r : State} {s : State} (f : Nat) (o : Occ) (h0 : Keeps r s) : Keeps r (State.setOcc s f o) := by
  unfold State.setOcc
  repeat' first
    | with_reducible assumption
    | dsimp only
    | with_reducible first | apply keeps_mk

theorem bar2Err_keeps {r : State} {s : State} (h0 : Keeps r s) : Keeps r (bar2Err s) := by
  unfold bar2Err
  repeat' first
    | with_reducible first | assumption | apply State.satFld_keeps

theorem askFrom_keeps {r : State} (l : Nat) (q : MeshReq) (typ : Nat) (dx : Nat) (dy : Nat) (daddr : Nat) (lines : Nat) (keepLo : Nat) (keepHi : Nat) (body : List PWord) {s : State} (h10 : Keeps r s) : Keeps r (askFrom l q typ dx dy daddr lines keepLo keepHi body s) := by
  unfold askFrom
  extract_lets -underBinder y0 y1
  try clear_value y0
  try clear_value y1
  repeat' first
    | with_reducible first | assumption | apply limbInject_keeps
    | dsimp only
    | with_reducible first | apply keeps_mk

theorem startWafer_keeps {r : State} (l : Nat) (a : Nat) (n : Nat) (dx : Nat) (dy : Nat) (b : Nat) {s : State} (h6 : Keeps r s) : Keeps r (startWafer l a n dx dy b s) := by
  unfold startWafer
  extract_lets -underBinder y0
  try clear_value y0
  repeat' first
    | with_reducible first | assumption | intro _ | apply keeps_foldl_triple | apply keeps_foldl_first | apply keeps_foldl_pair | apply keeps_foldl | apply askFrom_keeps
    | dsimp only
    | with_reducible first | apply keeps_mk

theorem hostRead_keeps {r : State} (q : HostReq) (ns : Bool) {s : State} (h2 : Keeps r s) : Keeps r (hostRead q ns s) := by
  unfold hostRead
  extract_lets -underBinder y0
  try clear_value y0
  repeat' first
    | with_reducible first | assumption | apply State.emit_keeps
    | dsimp only
    | with_reducible first | apply keeps_mk

theorem startRead_keeps {r : State} (q : Nat × Nat × Nat) {s : State} (h1 : Keeps r s) : Keeps r (startRead q s) := by
  unfold startRead
  extract_lets -underBinder y0 y1 y2
  try clear_value y0
  try clear_value y1
  try clear_value y2
  repeat' first
    | with_reducible first | assumption | apply keeps_ite | apply hostRead_keeps | apply startWafer_keeps
    | split
    | dsimp only
    | with_reducible first | apply keeps_mk

theorem withReads_keeps {r : State} (f : State → State) {s : State} (h0 : ∀ x0, Keeps r x0 → Keeps r (f x0)) (h1 : Keeps r s) : Keeps r (withReads f s) := by
  unfold withReads
  extract_lets -underBinder y0
  have ky0 : Keeps r y0 := by
    repeat' first
      | with_reducible first | assumption | intro _ | apply keeps_ite | apply keeps_foldl_triple | apply keeps_foldl_first | apply keeps_foldl_pair | apply keeps_foldl | apply startRead_keeps | apply h0
  try clear_value y0
  repeat' first
    | with_reducible first | assumption | intro _ | apply keeps_ite | apply keeps_foldl_triple | apply keeps_foldl_first | apply keeps_foldl_pair | apply keeps_foldl | apply startRead_keeps | apply h0
    | split
    | dsimp only
    | with_reducible first | apply keeps_mk

theorem setWork_keeps {r : State} (l : Nat) (off : Nat) (w : Word) {s : State} (h3 : Keeps r s) : Keeps r (setWork l off w s) := by
  unfold setWork
  repeat' first
    | with_reducible assumption
    | dsimp only
    | with_reducible first | apply keeps_mk

theorem observe_keeps {r : State} (l : Nat) (upd : Bool) (n : Nat) (w : Nat) {s : State} (h4 : Keeps r s) : Keeps r (observe l upd n w s) := by
  unfold observe
  extract_lets -underBinder y0
  try clear_value y0
  repeat' first
    | with_reducible first | assumption | apply keeps_ite | apply State.satFld_keeps | apply raise_keeps
    | split
    | dsimp only
    | with_reducible first | apply keeps_mk

theorem byteUse_keeps {r : State} (l : Nat) (a : Nat) {s : State} (h2 : Keeps r s) : Keeps r (byteUse l a s) := by
  unfold byteUse
  repeat' first
    | with_reducible first | assumption | apply addrError_keeps | apply touch_keeps
    | split

theorem codeUse_keeps {r : State} (l : Nat) (n : Nat) {s : State} (h2 : Keeps r s) : Keeps r (codeUse l n s) := by
  unfold codeUse
  repeat' first
    | with_reducible first | assumption | apply byteUse_keeps

theorem State.taken_keeps {r : State} {s : State} (p : Packet) (h0 : Keeps r s) : Keeps r (State.taken s p) := by
  unfold State.taken
  repeat' first
    | with_reducible assumption
    | dsimp only
    | with_reducible first | apply keeps_mk

theorem State.setLink_keeps {r : State} {s : State} (k : LinkRef) (l : LinkSt) (h0 : Keeps r s) : Keeps r (State.setLink s k l) := by
  unfold State.setLink
  repeat' first
    | with_reducible assumption
    | dsimp only
    | with_reducible first | apply keeps_mk

theorem passLink_keeps {r : State} (n : Nat) (k : LinkRef) {s : State} (h2 : Keeps r s) : Keeps r (passLink n k s) := by
  unfold passLink
  extract_lets -underBinder y0
  try clear_value y0
  repeat' first
    | with_reducible first | assumption | apply keeps_ite | apply State.setLink_keeps

theorem passLinks_keeps {r : State} (n : Nat) (ks : List LinkRef) {s : State} (h2 : Keeps r s) : Keeps r (passLinks n ks s) := by
  unfold passLinks
  repeat' first
    | with_reducible first | assumption | intro _ | apply keeps_foldl_triple | apply keeps_foldl_first | apply keeps_foldl_pair | apply keeps_foldl | apply passLink_keeps

theorem errFrom_keeps {r : State} (x : Nat) (y : Nat) (p : Packet) (status : Nat) {s : State} (h4 : Keeps r s) : Keeps r (errFrom x y p status s) := by
  unfold errFrom
  extract_lets -underBinder y0
  try clear_value y0
  repeat' first
    | with_reducible first | assumption | apply keeps_ite | apply injectPkt_keeps

theorem fieldDiscard_keeps {r : State} (x : Nat) (y : Nat) (p : Packet) {s : State} (h3 : Keeps r s) : Keeps r (fieldDiscard x y p s) := by
  unfold fieldDiscard
  repeat' first
    | with_reducible first | assumption | apply discardAt_keeps | apply raise_keeps

theorem seamDiscard_keeps {r : State} (east : Bool) (n : Nat) {s : State} (h2 : Keeps r s) : Keeps r (seamDiscard east n s) := by
  unfold seamDiscard
  repeat' first
    | with_reducible first | assumption | intro _ | apply keeps_forEach | apply State.draw_keeps | apply State.satFld_keeps | apply raise_keeps | refine keeps_of_pair ?_ (by assumption)

theorem onRoute_keeps {r : State} (p : Packet) (k : State → State) {s : State} (h1 : ∀ x0, Keeps r x0 → Keeps r (k x0)) (h2 : Keeps r s) : Keeps r (onRoute p k s) := by
  unfold onRoute
  extract_lets -underBinder y0
  try clear_value y0
  repeat' first
    | with_reducible first | assumption | apply errFrom_keeps | apply fieldDiscard_keeps | apply passLinks_keeps | apply seamDiscard_keeps | apply h1
    | split

theorem clampRecord_keeps {r : State} (source : Nat) (stype : Nat) (unit : Nat) (entry : Nat) (report : Nat) (nth : Nat) (c : Clamp) {s : State} (h7 : Keeps r s) : Keeps r (clampRecord source stype unit entry report nth c s) := by
  unfold clampRecord
  repeat' first
    | with_reducible first | assumption | apply ringPush_keeps

theorem clampRecords_keeps {r : State} (source : Nat) (stype : Nat) (unit : Nat) (report : Nat) (a4 : Nat) (a5 : List (Nat × Clamp)) {a6 : State} : Keeps r a6 → Keeps r (clampRecords source stype unit report a4 a5 a6) := by
  fun_induction clampRecords source stype unit report a4 a5 a6 <;>
    repeat' first
      | with_reducible first | assumption | intro _ | apply clampRecord_keeps | apply_assumption -exfalso -symm

theorem clampReport_keeps {r : State} (source : Nat) (stype : Nat) (unit : Nat) (cl : List (Nat × Clamp)) {s : State} (h4 : Keeps r s) : Keeps r (clampReport source stype unit cl s).2 := by
  unfold clampReport
  repeat' first
    | with_reducible first | assumption | apply keeps_ite | apply clampRecords_keeps
    | split
    | dsimp only
    | with_reducible first | apply keeps_mk

theorem releaseCore_keeps {r : State} (c : Nat) {s : State} (h1 : Keeps r s) : Keeps r (releaseCore c s) := by
  unfold releaseCore
  extract_lets -underBinder y0 y1 y2 y3
  have ky0 : Keeps r y0 := by
    repeat' first
      | with_reducible first | assumption | intro _ | apply keeps_ite | apply State.addFld_keeps | apply State.modCore_keeps | apply State.setFld_keeps
  try clear_value y0
  have ky1 : Keeps r y1 := by
    repeat' first
      | with_reducible first | assumption | intro _ | apply keeps_ite | apply State.addFld_keeps | apply State.modCore_keeps
  try clear_value y1
  have ky2 : Keeps r y2 := by
    repeat' first
      | with_reducible first | assumption | intro _ | apply keeps_ite | apply State.addFld_keeps | apply State.modCore_keeps | apply State.setFld_keeps
  try clear_value y2
  have ky3 : Keeps r y3 := by
    repeat' first
      | with_reducible first | assumption | intro _ | apply keeps_ite | apply State.addFld_keeps | apply State.modCore_keeps | apply State.setFld_keeps | apply admitHeld_keeps | apply reqHalt_keeps
  try clear_value y3
  repeat' first
    | with_reducible first | assumption | intro _ | apply keeps_ite | apply State.addFld_keeps | apply State.modCore_keeps | apply State.setFld_keeps | apply admitHeld_keeps

theorem execBarrierRelease_keeps {r : State} (f : FieldId) {s : State} (h1 : Keeps r s) : KeepsR r (execBarrierRelease f s) := by
  unfold execBarrierRelease
  repeat' first
    | with_reducible first | assumption | intro _ | apply keepsR_next | apply keeps_ite | apply keeps_forEach | apply releaseCore_keeps | apply releaseField_keeps
    | split

theorem execBreakpointHit_keeps {r : State} (c : CoreId) {s : State} (h1 : Keeps r s) : KeepsR r (execBreakpointHit c s) := by
  unfold execBreakpointHit
  repeat' first
    | with_reducible first | assumption | apply keepsR_next | apply keeps_ite | apply admitHeld_keeps | apply reqHalt_keeps
    | split

theorem execClearActive_keeps {r : State} (d : Dom) (nseq : Nat) {s : State} (h2 : Keeps r s) : KeepsR r (execClearActive d nseq s) := by
  unfold execClearActive
  repeat' first
    | with_reducible first | assumption | apply keepsR_next | apply clearAct_keeps

theorem execClearPending_keeps {r : State} (d : Dom) (nseq : Nat) {s : State} (h2 : Keeps r s) : KeepsR r (execClearPending d nseq s) := by
  unfold execClearPending
  repeat' first
    | with_reducible first | assumption | apply keepsR_next | apply clearPend_keeps

theorem execCorrectedBatch_keeps {r : State} (d : Dom) {s : State} (h1 : Keeps r s) : KeepsR r (execCorrectedBatch d s) := by
  unfold execCorrectedBatch
  extract_lets -underBinder y0 y1
  try clear_value y0
  try clear_value y1
  repeat' first
    | with_reducible first | assumption | apply keepsR_next | apply keeps_ite | apply nlogEvent_keeps
    | split
    | dsimp only
    | with_reducible first | apply keeps_mk

theorem execCorrectedWriteback_keeps {r : State} (c : CoreId) (instr : Bool) (word : Nat) {s : State} (h3 : Keeps r s) : KeepsR r (execCorrectedWriteback c instr word s) := by
  unfold execCorrectedWriteback
  extract_lets -underBinder y0 y1 y2
  try clear_value y0
  try clear_value y1
  try clear_value y2
  repeat' first
    | with_reducible first | assumption | intro _ | apply keepsR_next | apply keeps_ite | apply State.modCore_keeps
    | split

theorem execCounterWrap_keeps {r : State} (c : CoreId) (busy : Bool) {s : State} (h2 : Keeps r s) : KeepsR r (execCounterWrap c busy s) := by
  unfold execCounterWrap
  extract_lets -underBinder y0 y1
  try clear_value y0
  try clear_value y1
  repeat' first
    | with_reducible first | assumption | apply keepsR_next | apply keeps_ite | apply State.setFld_keeps | apply nlogEvent_keeps

theorem execEscalationArrival_keeps {r : State} (d : Dom) {s : State} (h1 : Keeps r s) : KeepsR r (execEscalationArrival d s) := by
  unfold execEscalationArrival
  extract_lets -underBinder y0
  try clear_value y0
  repeat' first
    | with_reducible first | assumption | apply keepsR_next | apply keeps_ite | apply raise_keeps
    | split
    | dsimp only
    | with_reducible first | apply keeps_mk

theorem execHalt_keeps {r : State} (c : CoreId) {s : State} (h1 : Keeps r s) : KeepsR r (execHalt c s) := by
  unfold execHalt
  repeat' first
    | with_reducible first | assumption | apply keepsR_next | apply admitHeld_keeps | apply haltCore_keeps

theorem execHaltTaken_keeps {r : State} (c : CoreId) {s : State} (h1 : Keeps r s) : KeepsR r (execHaltTaken c s) := by
  unfold execHaltTaken
  repeat' first
    | with_reducible first | assumption | apply keepsR_next | apply keeps_ite | apply admitHeld_keeps | apply enterHalt_keeps
    | split

theorem execLateAdmissionBegin_keeps {r : State} (c : CoreId) {s : State} (h1 : Keeps r s) : KeepsR r (execLateAdmissionBegin c s) := by
  unfold execLateAdmissionBegin
  repeat' first
    | with_reducible first | assumption | apply keepsR_next | apply keeps_ite | apply State.setFld_keeps | apply admitHeld_keeps
    | split

theorem execLimbHoldEnd_keeps {r : State} (a0 : LimbId) {s : State} (h1 : Keeps r s) : KeepsR r (execLimbHoldEnd a0 s) := by
  unfold execLimbHoldEnd
  repeat' first
    | with_reducible first | assumption | apply keepsR_next

theorem execRun_keeps {r : State} (c : CoreId) (value : Bool) {s : State} (h2 : Keeps r s) : KeepsR r (execRun c value s) := by
  unfold execRun
  repeat' first
    | with_reducible first | assumption | apply keepsR_next | apply keeps_ite | apply admitHeld_keeps | apply haltCore_keeps | apply runCore_keeps

theorem execSequencerWatchdog_keeps {r : State} (c : CoreId) {s : State} (h1 : Keeps r s) : KeepsR r (execSequencerWatchdog c s) := by
  unfold execSequencerWatchdog
  repeat' first
    | with_reducible first | assumption | apply keepsR_next | apply keeps_ite | apply coreFault_keeps
    | split

theorem execStep1_keeps {r : State} (c : CoreId) {s : State} (h1 : Keeps r s) : KeepsR r (execStep1 c s) := by
  unfold execStep1
  repeat' first
    | with_reducible first | assumption | apply keepsR_next | apply stepCore_keeps

theorem execTokenArrival_keeps {r : State} (c : CoreId) (tok : Nat) (gen : Nat) {s : State} (h3 : Keeps r s) : KeepsR r (execTokenArrival c tok gen s) := by
  unfold execTokenArrival
  repeat' first
    | with_reducible first | assumption | apply keepsR_next | apply tokArrive_keeps

theorem execWaitLimitExceeded_keeps {r : State} (c : CoreId) {s : State} (h1 : Keeps r s) : KeepsR r (execWaitLimitExceeded c s) := by
  unfold execWaitLimitExceeded
  extract_lets -underBinder y0
  have ky0 : Keeps r y0 := by
    repeat' first
      | with_reducible first | assumption | intro _ | apply keeps_ite | apply State.modCore_keeps | apply State.setFld_keeps
  try clear_value y0
  repeat' first
    | with_reducible first | assumption | intro _ | apply keepsR_next | apply keeps_ite | apply State.modCore_keeps | apply State.setFld_keeps | apply raise_keeps
    | split

theorem sendHeadOfQueue.injectS_keeps {r : State} (p : Packet) {s : State} (h1 : Keeps r s) : Keeps r (sendHeadOfQueue.injectS p s) := by
  unfold sendHeadOfQueue.injectS
  repeat' first
    | with_reducible first | assumption | apply keeps_ite | apply State.send_keeps | apply injectPkt_keeps

theorem sendHeadOfQueue_keeps {r : State} (c : Nat) {s : State} (h1 : Keeps r s) : Keeps r (sendHeadOfQueue c s) := by
  unfold sendHeadOfQueue
  repeat' first
    | with_reducible first | assumption | intro _ | apply keeps_ite | apply keeps_foldl_triple | apply keeps_foldl_first | apply keeps_foldl_pair | apply keeps_foldl | apply State.modCore_keeps | apply outWord_keeps | apply outWords_keeps | apply sendHeadOfQueue.injectS_keeps | apply tokArrive_keeps | refine keeps_of_pair ?_ (by assumption)
    | split

theorem execSendRead_keeps {r : State} (c : CoreId) {s : State} (h1 : Keeps r s) : KeepsR r (execSendRead c s) := by
  unfold execSendRead
  repeat' first
    | with_reducible first | assumption | apply keepsR_next | apply keeps_ite | apply sendHeadOfQueue_keeps
    | split

theorem arriveCore_keeps {r : State} (c : Nat) (p : Packet) {s : State} (h2 : Keeps r s) : Keeps r (arriveCore c p s) := by
  unfold arriveCore
  repeat' first
    | with_reducible first | assumption | intro _ | apply State.modCore_keeps | apply admitHeld_keeps

theorem deliverCore_keeps {r : State} (p : Packet) {s : State} (h1 : Keeps r s) : Keeps r (deliverCore p s) := by
  unfold deliverCore
  extract_lets -underBinder y0
  try clear_value y0
  repeat' first
    | with_reducible first | assumption | intro _ | apply keeps_ite | apply State.taken_keeps | apply arriveCore_keeps | apply discardAt_keeps | apply errTo_keeps | apply onRoute_keeps

theorem fsPut_keeps {r : State} (f : Nat) (w : Nat) (x : PWord) {s : State} (h3 : Keeps r s) : Keeps r (fsPut f w x s) := by
  unfold fsPut
  repeat' first
    | with_reducible assumption
    | dsimp only
    | with_reducible first | refine keeps_mk_tabs ?_ id id (risingKeys_tset _ _) | refine keeps_mk_tabs ?_ id id (risingKeys_tcut _ _) | refine keeps_mk_tabs ?_ (risingKeys_tcut _ _) id id | refine keeps_mk_tabs ?_ id (risingKeys_filter _) id | refine keeps_mk_tabs ?_ (risingKeys_filter _) id id | apply keeps_mk | apply keeps_mk_draws

theorem fsBad_keeps {r : State} (f : Nat) (w : Nat) {s : State} (h2 : Keeps r s) : Keeps r (fsBad f w s).2 := by
  unfold fsBad
  extract_lets -underBinder y0 y1
  have ky0 : Keeps r y0.2 := by
    try dsimp only [y0]
    repeat' first
      | with_reducible first | assumption | apply State.draw_keeps | apply fsPut_keeps | apply raise_keeps | refine keeps_of_pair ?_ (by assumption)
  try clear_value y0
  have ky1 : Keeps r y1.2 := by
    try dsimp only [y1]
    repeat' first
      | with_reducible first | assumption | apply State.draw_keeps | apply fsPut_keeps | apply raise_keeps | refine keeps_of_pair ?_ (by assumption)
  try clear_value y1
  repeat' first
    | with_reducible first | assumption | apply State.draw_keeps | apply fsPut_keeps | apply raise_keeps | refine keeps_of_pair ?_ (by assumption)

theorem fsRead_keeps {r : State} (f : Nat) (w : Nat) {s : State} (h2 : Keeps r s) : Keeps r (fsRead f w s).2 := by
  unfold fsRead
  repeat' first
    | with_reducible first | assumption | apply corrected_keeps | apply fsBad_keeps | refine keeps_of_pair ?_ (by assumption)
    | split
    | dsimp only
    | with_reducible first | refine keeps_mk_tabs ?_ id id (risingKeys_tset _ _) | refine keeps_mk_tabs ?_ id id (risingKeys_tcut _ _) | refine keeps_mk_tabs ?_ (risingKeys_tcut _ _) id id | refine keeps_mk_tabs ?_ id (risingKeys_filter _) id | refine keeps_mk_tabs ?_ (risingKeys_filter _) id id | apply keeps_mk | apply keeps_mk_draws

theorem occTrack_keeps {r : State} (f : Nat) (p : Packet) {s : State} (h2 : Keeps r s) : Keeps r (occTrack f p s) := by
  unfold occTrack
  extract_lets -underBinder y0 y1 y2
  try clear_value y0
  try clear_value y1
  try clear_value y2
  repeat' first
    | with_reducible first | assumption | apply keeps_ite | apply State.setOcc_keeps

theorem fsMergeWord_keeps {r : State} (f : Nat) (a : Nat) (bs : List (Byte × Bool)) (w : Nat) {s : State} (h4 : Keeps r s) : Keeps r (fsMergeWord f a bs w s) := by
  unfold fsMergeWord
  extract_lets -underBinder y0 y1 y2 y3
  try clear_value y0
  try clear_value y1
  try clear_value y2
  have ky3 : Keeps r y3.2 := by
    try dsimp only [y3]
    repeat' first
      | with_reducible first | assumption | apply keeps_ite | apply fsPut_keeps | apply fsRead_keeps | refine keeps_of_pair ?_ (by assumption)
  try clear_value y3
  repeat' first
    | with_reducible first | assumption | apply keeps_ite | apply fsPut_keeps | apply fsRead_keeps | refine keeps_of_pair ?_ (by assumption)

theorem fsWriteBytes_keeps {r : State} (f : Nat) (a : Nat) (bs : List (Byte × Bool)) {s : State} (h3 : Keeps r s) : Keeps r (fsWriteBytes f a bs s) := by
  unfold fsWriteBytes
  repeat' first
    | with_reducible first | assumption | intro _ | apply keeps_ite | apply keeps_forEach | apply fsMergeWord_keeps

theorem fsWrite_keeps {r : State} (f : Nat) (p : Packet) {s : State} (h2 : Keeps r s) : Keeps r (fsWrite f p s) := by
  unfold fsWrite
  repeat' first
    | with_reducible first | assumption | apply fsWriteBytes_keeps

theorem deliverStore_keeps {r : State} (p : Packet) {s : State} (h1 : Keeps r s) : Keeps r (deliverStore p s) := by
  unfold deliverStore
  repeat' first
    | with_reducible first | assumption | intro _ | apply keeps_ite | apply State.taken_keeps | apply discardAt_keeps | apply errTo_keeps | apply fsRead_keeps | apply fsWrite_keeps | apply occTrack_keeps | apply onRoute_keeps | apply outWords_keeps | apply rdataPkts_keeps | apply respond_keeps | refine keeps_of_pair ?_ (by assumption)
    | split

theorem deliver_keeps {r : State} (p : Packet) {s : State} (h1 : Keeps r s) : Keeps r (deliver p s) := by
  unfold deliver
  repeat' first
    | with_reducible first | assumption | apply keeps_ite | apply State.taken_keeps | apply deliverCore_keeps | apply deliverStore_keeps

theorem execWr_keeps {r : State} (p : Packet) {s : State} (h1 : Keeps r s) : KeepsR r (execWr p s) := by
  unfold execWr
  repeat' first
    | with_reducible first | assumption | apply keepsR_next | apply deliver_keeps

theorem execWra_keeps {r : State} (p : Packet) {s : State} (h1 : Keeps r s) : KeepsR r (execWra p s) := by
  unfold execWra
  repeat' first
    | with_reducible first | assumption | apply keepsR_next | apply deliver_keeps

theorem execRd_keeps {r : State} (p : Packet) {s : State} (h1 : Keeps r s) : KeepsR r (execRd p s) := by
  unfold execRd
  repeat' first
    | with_reducible first | assumption | apply keepsR_next | apply deliver_keeps

theorem engAnswer_keeps {r : State} (l : Nat) (a : Nat) (n : Nat) (part : Nat) (st : Nat) (bs : List (Byte × Bool)) {s : State} (h6 : Keeps r s) : Keeps r (engAnswer l a n part st bs s) := by
  unfold engAnswer
  repeat' first
    | with_reducible first | assumption | apply keeps_ite
    | split
    | dsimp only
    | with_reducible first | apply keeps_mk

theorem reqDone_keeps {r : State} (key : Nat) (q : MeshReq) (err : Bool) {s : State} (h3 : Keeps r s) : Keeps r (reqDone key q err s) := by
  unfold reqDone
  extract_lets -underBinder y0 y1 y2 y3
  have ky0 : Keeps r y0 := by
    repeat' first
      | with_reducible first | assumption | apply keeps_ite | apply State.emit_keeps | apply bar2Err_keeps | apply engAnswer_keeps | apply raise_keeps
      | dsimp only [y0]
      | split
      | dsimp only
      | with_reducible first | apply keeps_mk
  try clear_value y0
  try clear_value y1
  try clear_value y2
  try clear_value y3
  repeat' first
    | with_reducible first | assumption | apply keeps_ite | apply State.emit_keeps | apply bar2Err_keeps | apply engAnswer_keeps | apply raise_keeps
    | split
    | dsimp only
    | with_reducible first | apply keeps_mk

theorem limbResponse_keeps {r : State} (p : Packet) (err : Bool) {s : State} (h2 : Keeps r s) : Keeps r (limbResponse p err s) := by
  unfold limbResponse
  repeat' first
    | with_reducible first | assumption | intro _ | apply keeps_ite | apply State.taken_keeps | apply onRoute_keeps | apply reqDone_keeps
    | split
    | dsimp only
    | with_reducible first | apply keeps_mk

theorem execFsw_keeps {r : State} (p : Packet) {s : State} (h1 : Keeps r s) : KeepsR r (execFsw p s) := by
  unfold execFsw
  repeat' first
    | with_reducible first | assumption | apply keepsR_next | apply keeps_ite | apply State.taken_keeps | apply deliverStore_keeps

theorem mcPrune_keeps {r : State} (p : Packet) (l : List Route) {s : State} (h2 : Keeps r s) : Keeps r (mcPrune p l s) := by
  unfold mcPrune
  repeat' first
    | with_reducible first | assumption | intro _ | apply keeps_foldl_triple | apply keeps_foldl_first | apply keeps_foldl_pair | apply keeps_foldl | apply fieldDiscard_keeps | apply seamDiscard_keeps
    | split

theorem mcDeliver_keeps {r : State} (p : Packet) (c : Nat) {s : State} (h2 : Keeps r s) : Keeps r (mcDeliver p c s) := by
  unfold mcDeliver
  repeat' first
    | with_reducible first | assumption | apply keeps_ite | apply arriveCore_keeps

theorem mcDropOff_keeps {r : State} (cs : List (Nat × Nat)) {s : State} (h1 : Keeps r s) : Keeps r (mcDropOff cs s) := by
  unfold mcDropOff
  repeat' first
    | with_reducible first | assumption | intro _ | apply keeps_ite | apply keeps_foldl_triple | apply keeps_foldl_first | apply keeps_foldl_pair | apply keeps_foldl | apply discardAt_keeps

theorem mcServe_keeps {r : State} (p : Packet) (walks : List ((Nat × Nat) × Branch)) {s : State} (h2 : Keeps r s) : Keeps r (mcServe p walks s) := by
  unfold mcServe
  extract_lets -underBinder y0 y1 y2 y3 y4 y5
  try clear_value y0
  try clear_value y1
  try clear_value y2
  have ky3 : Keeps r y3 := by
    repeat' first
      | with_reducible first | assumption | intro _ | apply keeps_ite | apply keeps_foldl_triple | apply keeps_foldl_first | apply keeps_foldl_pair | apply keeps_foldl | apply mcDeliver_keeps | apply mcDropOff_keeps | apply mcPrune_keeps
  try clear_value y3
  have ky4 : Keeps r y4 := by
    repeat' first
      | with_reducible first | assumption | intro _ | apply keeps_ite | apply keeps_foldl_triple | apply keeps_foldl_first | apply keeps_foldl_pair | apply keeps_foldl | apply mcDeliver_keeps | apply mcDropOff_keeps | apply mcPrune_keeps | apply passLinks_keeps
  try clear_value y4
  have ky5 : Keeps r y5 := by
    repeat' first
      | with_reducible first | assumption | intro _ | apply keeps_ite | apply keeps_foldl_triple | apply keeps_foldl_first | apply keeps_foldl_pair | apply keeps_foldl | apply mcDeliver_keeps | apply mcDropOff_keeps
  try clear_value y5
  repeat' first
    | with_reducible first | assumption | intro _ | apply keeps_ite | apply keeps_foldl_triple | apply keeps_foldl_first | apply keeps_foldl_pair | apply keeps_foldl | apply mcDeliver_keeps | apply mcDropOff_keeps | apply mcPrune_keeps | apply passLinks_keeps
    | split
    | dsimp only
    | with_reducible first | apply keeps_mk

theorem mcDeliverAll_keeps {r : State} (p : Packet) {s : State} (h1 : Keeps r s) : Keeps r (mcDeliverAll p s) := by
  unfold mcDeliverAll
  repeat' first
    | with_reducible first | assumption | apply keeps_ite | apply State.taken_keeps | apply mcServe_keeps

theorem execMcw_keeps {r : State} (p : Packet) {s : State} (h1 : Keeps r s) : KeepsR r (execMcw p s) := by
  unfold execMcw
  repeat' first
    | with_reducible first | assumption | apply keepsR_next | apply mcDeliverAll_keeps

theorem execHb_keeps {r : State} (a0 : CoreId) (a1 : Nat) {s : State} (h2 : Keeps r s) : KeepsR r (execHb a0 a1 s) := by
  unfold execHb
  repeat' first
    | with_reducible first | assumption | apply keepsR_next

theorem launchFlit_keeps {r : State} (k : LinkRef) (fl : Flit) {s : State} (h2 : Keeps r s) : Keeps r (launchFlit k fl s) := by
  unfold launchFlit
  extract_lets -underBinder y0 y1 y2 y3
  try clear_value y0
  try clear_value y1
  try clear_value y2
  try clear_value y3
  repeat' first
    | with_reducible first | assumption | apply State.emit_keeps | apply State.setLink_keeps

theorem pump_keeps {r : State} (k : LinkRef) (a1 : Nat) {a2 : State} : Keeps r a2 → Keeps r (pump k a1 a2) := by
  fun_induction pump k a1 a2 <;>
    repeat' first
      | with_reducible first | assumption | intro _ | apply keeps_ite | apply State.setLink_keeps | apply launchFlit_keeps | apply_assumption -exfalso -symm

theorem pumpAll_keeps {r : State} (k : LinkRef) {s : State} (h1 : Keeps r s) : Keeps r (pumpAll k s) := by
  unfold pumpAll
  repeat' first
    | with_reducible first | assumption | apply pump_keeps

theorem sendFlit_keeps {r : State} (k : LinkRef) (fl : Flit) {s : State} (h2 : Keeps r s) : Keeps r (sendFlit k fl s) := by
  unfold sendFlit
  extract_lets -underBinder y0
  try clear_value y0
  repeat' first
    | with_reducible first | assumption | apply keeps_ite | apply State.setLink_keeps | apply pumpAll_keeps

theorem sendHb_keeps {r : State} (c : Nat) (dir : Nat) {s : State} (h2 : Keeps r s) : Keeps r (sendHb c dir s) := by
  unfold sendHb
  extract_lets -underBinder y0
  try clear_value y0
  repeat' first
    | with_reducible first | assumption | apply State.emit_keeps | apply sendFlit_keeps

theorem execHbSend_keeps {r : State} (c : CoreId) {s : State} (h1 : Keeps r s) : KeepsR r (execHbSend c s) := by
  unfold execHbSend
  repeat' first
    | with_reducible first | assumption | intro _ | apply keepsR_next | apply keeps_ite | apply keeps_forEach | apply sendHb_keeps
    | split

theorem execHeartbeatLoss_keeps {r : State} (c : CoreId) (dir : Nat) {s : State} (h2 : Keeps r s) : KeepsR r (execHeartbeatLoss c dir s) := by
  unfold execHeartbeatLoss
  extract_lets -underBinder y0
  try clear_value y0
  repeat' first
    | with_reducible first | assumption | apply keepsR_next | apply keeps_ite | apply raise_keeps
    | split

theorem execReservedTypeDiscard_keeps {r : State} (c : CoreId) (head : Word) {s : State} (h2 : Keeps r s) : KeepsR r (execReservedTypeDiscard c head s) := by
  unfold execReservedTypeDiscard
  repeat' first
    | with_reducible first | assumption | apply keepsR_next | apply keeps_ite | apply discardAt_keeps | apply raise_keeps
    | split

theorem flitDiscard_keeps {r : State} (k : LinkRef) {s : State} (h1 : Keeps r s) : Keeps r (flitDiscard k s) := by
  unfold flitDiscard
  extract_lets -underBinder y0 y1
  try clear_value y0
  try clear_value y1
  repeat' first
    | with_reducible first | assumption | apply keeps_ite | apply State.emit_keeps | apply State.setLink_keeps

theorem flitReturns_keeps {r : State} (k : LinkRef) (fl : Flit) {s : State} (h2 : Keeps r s) : Keeps r (flitReturns k fl s) := by
  unfold flitReturns
  extract_lets -underBinder y0 y1 y2 y3
  try clear_value y0
  try clear_value y1
  have ky2 : Keeps r y2 := by
    repeat' first
      | with_reducible first | assumption | apply keeps_ite | apply State.setLink_keeps
  try clear_value y2
  have ky3 : Keeps r y3 := by
    repeat' first
      | with_reducible first | assumption | apply keeps_ite | apply State.setLink_keeps
  try clear_value y3
  repeat' first
    | with_reducible first | assumption | apply keeps_ite | apply State.setLink_keeps | apply pumpAll_keeps

theorem State.setPort_keeps {r : State} {s : State} (k : LinkRef) (p : PortSt) (h0 : Keeps r s) : Keeps r (State.setPort s k p) := by
  unfold State.setPort
  repeat' first
    | with_reducible assumption
    | dsimp only
    | with_reducible first | apply keeps_mk

theorem bufferFlit_keeps {r : State} (k : LinkRef) (fl : Flit) {s : State} (h2 : Keeps r s) : Keeps r (bufferFlit k fl s) := by
  unfold bufferFlit
  extract_lets -underBinder y0 y1 y2 y3 y4
  try clear_value y0
  try clear_value y1
  try clear_value y2
  try clear_value y3
  try clear_value y4
  repeat' first
    | with_reducible first | assumption | apply keeps_ite | apply State.setPort_keeps

theorem flitAccept_keeps {r : State} (k : LinkRef) (fl : Flit) {s : State} (h2 : Keeps r s) : Keeps r (flitAccept k fl s) := by
  unfold flitAccept
  extract_lets -underBinder y0 y1 y2
  try clear_value y0
  have ky1 : Keeps r y1 := by
    repeat' first
      | with_reducible first | assumption | apply keeps_ite | apply State.emit_keeps | apply State.setLink_keeps
  try clear_value y1
  have ky2 : Keeps r y2 := by
    repeat' first
      | with_reducible first | assumption | apply keeps_ite | apply State.emit_keeps
  try clear_value y2
  repeat' first
    | with_reducible first | assumption | apply keeps_ite | apply State.emit_keeps | apply State.setLink_keeps | apply bufferFlit_keeps

theorem State.setGrant_keeps {r : State} {s : State} (k : LinkRef) (g : Grant) (h0 : Keeps r s) : Keeps r (State.setGrant s k g) := by
  unfold State.setGrant
  repeat' first
    | with_reducible assumption
    | dsimp only
    | with_reducible first | apply keeps_mk

theorem moveOut_keeps {r : State} (m : Move) (k : LinkRef) (det : Bool) (side : Bool) {s : State} (h4 : Keeps r s) : Keeps r (moveOut m k det side s) := by
  unfold moveOut
  extract_lets -underBinder y0 y1 y2 y3 y4 y5
  try clear_value y0
  try clear_value y1
  try clear_value y2
  try clear_value y3
  try clear_value y4
  have ky5 : Keeps r y5 := by
    repeat' first
      | with_reducible first | assumption | apply keeps_ite | apply State.setGrant_keeps
  try clear_value y5
  repeat' first
    | with_reducible first | assumption | apply keeps_ite | apply State.setGrant_keeps | apply State.setLink_keeps | apply sendFlit_keeps

theorem moveHere_keeps {r : State} (m : Move) {s : State} (h1 : Keeps r s) : Keeps r (moveHere m s) := by
  unfold moveHere
  extract_lets -underBinder y0 y1
  try clear_value y0
  try clear_value y1
  repeat' first
    | with_reducible first | assumption | apply keeps_ite | apply State.send_keeps | apply State.setPort_keeps

theorem moveDrop_keeps {r : State} (m : Move) (a1 : Route) {s : State} (h2 : Keeps r s) : Keeps r (moveDrop m a1 s) := by
  unfold moveDrop
  extract_lets -underBinder y0
  try clear_value y0
  repeat' first
    | with_reducible first | assumption | apply keeps_ite | apply errFrom_keeps | apply fieldDiscard_keeps | apply seamDiscard_keeps
    | split

theorem badHead_keeps {r : State} (c : Nat) (head : Word) {s : State} (h2 : Keeps r s) : Keeps r (badHead c head s) := by
  unfold badHead
  repeat' first
    | with_reducible first | assumption | apply discardAt_keeps | apply raise_keeps

theorem returnCredit_keeps {r : State} (k : LinkRef) (ch : Nat) {s : State} (h2 : Keeps r s) : Keeps r (returnCredit k ch s) := by
  unfold returnCredit
  extract_lets -underBinder y0 y1
  try clear_value y0
  try clear_value y1
  repeat' first
    | with_reducible first | assumption | apply State.setLink_keeps | apply pumpAll_keeps

theorem doMove_keeps {r : State} (m : Move) {s : State} (h1 : Keeps r s) : Keeps r (doMove m s) := by
  unfold doMove
  extract_lets -underBinder y0 y1 y2 y3
  try clear_value y0
  have ky1 : Keeps r y1 := by
    repeat' first
      | with_reducible first | assumption | intro _ | apply keeps_ite | apply keeps_foldl_triple | apply keeps_foldl_first | apply keeps_foldl_pair | apply keeps_foldl | apply State.setPort_keeps
  try clear_value y1
  have ky2 : Keeps r y2 := by
    repeat' first
      | with_reducible first | assumption | intro _ | apply keeps_ite | apply keeps_foldl_triple | apply keeps_foldl_first | apply keeps_foldl_pair | apply keeps_foldl | apply State.setPort_keeps | apply badHead_keeps | apply moveDrop_keeps | apply moveHere_keeps | apply moveOut_keeps | apply returnCredit_keeps
      | dsimp only [y2]
      | split
  try clear_value y2
  have ky3 : Keeps r y3 := by
    repeat' first
      | with_reducible first | assumption | intro _ | apply keeps_ite | apply keeps_foldl_triple | apply keeps_foldl_first | apply keeps_foldl_pair | apply keeps_foldl | apply State.setPort_keeps | apply badHead_keeps | apply moveDrop_keeps | apply moveHere_keeps | apply moveOut_keeps | apply returnCredit_keeps
      | dsimp only [y3]
      | split
  try clear_value y3
  repeat' first
    | with_reducible first | assumption | intro _ | apply keeps_ite | apply keeps_foldl_triple | apply keeps_foldl_first | apply keeps_foldl_pair | apply keeps_foldl | apply State.setPort_keeps | apply badHead_keeps | apply moveDrop_keeps | apply moveHere_keeps | apply moveOut_keeps | apply returnCredit_keeps

theorem forward_keeps {r : State} (n : Node) (a1 : Nat) {a2 : State} : Keeps r a2 → Keeps r (forward n a1 a2) := by
  fun_induction forward n a1 a2 <;>
    repeat' first
      | with_reducible first | assumption | intro _ | apply doMove_keeps | apply_assumption -exfalso -symm

theorem forwardAll_keeps {r : State} (n : Node) {s : State} (h1 : Keeps r s) : Keeps r (forwardAll n s) := by
  unfold forwardAll
  repeat' first
    | with_reducible first | assumption | apply forward_keeps

theorem flitReceive_keeps {r : State} (k : LinkRef) (fl : Flit) {s : State} (h2 : Keeps r s) : Keeps r (flitReceive k fl s) := by
  unfold flitReceive
  extract_lets -underBinder y0 y1 y2
  try clear_value y0
  have ky1 : Keeps r y1 := by
    repeat' first
      | with_reducible first | assumption | apply keeps_ite | apply State.satFld_keeps | apply flitAccept_keeps | apply flitDiscard_keeps | apply flitReturns_keeps
  try clear_value y1
  have ky2 : Keeps r y2 := by
    repeat' first
      | with_reducible first | assumption | apply keeps_ite | apply State.satFld_keeps | apply flitAccept_keeps | apply flitDiscard_keeps
  try clear_value y2
  repeat' first
    | with_reducible first | assumption | apply keeps_ite | apply State.satFld_keeps | apply flitAccept_keeps | apply flitDiscard_keeps | apply flitReturns_keeps | apply forwardAll_keeps

theorem execFlitReceive_keeps {r : State} (k : LinkRef) (fl : Flit) {s : State} (h2 : Keeps r s) : KeepsR r (execFlitReceive k fl s) := by
  unfold execFlitReceive
  repeat' first
    | with_reducible first | assumption | apply keepsR_next | apply flitReceive_keeps

theorem resendOut_keeps {r : State} (k : LinkRef) (fls : List Flit) {s : State} (h2 : Keeps r s) : Keeps r (resendOut k fls s) := by
  unfold resendOut
  repeat' first
    | with_reducible first | assumption | intro _ | apply keeps_foldl_triple | apply keeps_foldl_first | apply keeps_foldl_pair | apply keeps_foldl | apply State.emit_keeps

theorem startResend_keeps {r : State} (k : LinkRef) (l : LinkSt) {s : State} (h2 : Keeps r s) : Keeps r (startResend k l s) := by
  unfold startResend
  repeat' first
    | with_reducible first | assumption | apply State.satFld_keeps | apply State.setLink_keeps | apply resendOut_keeps

theorem execNak_keeps {r : State} (k : LinkRef) (ackseq : Nat) {s : State} (h2 : Keeps r s) : KeepsR r (execNak k ackseq s) := by
  unfold execNak
  extract_lets -underBinder y0
  try clear_value y0
  repeat' first
    | with_reducible first | assumption | apply keepsR_next | apply keeps_ite | apply startResend_keeps
    | split

theorem execLinkReplayTimeout_keeps {r : State} (k : LinkRef) {s : State} (h1 : Keeps r s) : KeepsR r (execLinkReplayTimeout k s) := by
  unfold execLinkReplayTimeout
  extract_lets -underBinder y0
  try clear_value y0
  repeat' first
    | with_reducible first | assumption | apply keepsR_next | apply keeps_ite | apply startResend_keeps
    | split

theorem execLinkRetrain_keeps {r : State} (k : LinkRef) {s : State} (h1 : Keeps r s) : KeepsR r (execLinkRetrain k s) := by
  unfold execLinkRetrain
  extract_lets -underBinder y0
  try clear_value y0
  repeat' first
    | with_reducible first | assumption | apply keepsR_next | apply keeps_ite | apply State.satFld_keeps | apply State.setLink_keeps
    | split

theorem linkGo_keeps {r : State} (k : LinkRef) {s : State} (h1 : Keeps r s) : Keeps r (linkGo k s) := by
  unfold linkGo
  repeat' first
    | with_reducible first | assumption | apply forwardAll_keeps | apply pumpAll_keeps

theorem linkDead_keeps {r : State} (k : LinkRef) {s : State} (h1 : Keeps r s) : Keeps r (linkDead k s) := by
  unfold linkDead
  extract_lets -underBinder y0 y1 y2
  have ky0 : Keeps r y0.2 := by
    try dsimp only [y0]
    repeat' first
      | with_reducible first | assumption | apply keeps_ite | apply State.draw_keeps | apply State.satFld_keeps | apply raise_keeps | refine keeps_of_pair ?_ (by assumption)
  try clear_value y0
  try clear_value y1
  try clear_value y2
  repeat' first
    | with_reducible first | assumption | apply keeps_ite | apply State.draw_keeps | apply State.satFld_keeps | apply raise_keeps | refine keeps_of_pair ?_ (by assumption)

theorem retrainLink_keeps {r : State} (k : LinkRef) (failing : List Nat) {s : State} (h2 : Keeps r s) : Keeps r (retrainLink k failing s) := by
  unfold retrainLink
  extract_lets -underBinder y0 y1 y2
  try clear_value y0
  try clear_value y1
  have ky2 : Keeps r y2 := by
    repeat' first
      | with_reducible first | assumption | apply keeps_ite | apply State.satFld_keeps
  try clear_value y2
  repeat' first
    | with_reducible first | assumption | apply keeps_ite | apply State.satFld_keeps | apply State.setLink_keeps | apply linkDead_keeps | apply linkGo_keeps | apply resendOut_keeps

theorem trainLink_keeps {r : State} (k : LinkRef) (failing : List Nat) {s : State} (h2 : Keeps r s) : Keeps r (trainLink k failing s) := by
  unfold trainLink
  extract_lets -underBinder y0 y1
  try clear_value y0
  try clear_value y1
  repeat' first
    | with_reducible first | assumption | apply keeps_ite | apply State.setLink_keeps | apply linkDead_keeps

theorem seamLose_keeps {r : State} (from_ : Bool) (receiving : Bool) (n : Nat) {s : State} (h3 : Keeps r s) : Keeps r (seamLose from_ receiving n s) := by
  unfold seamLose
  extract_lets -underBinder y0
  try clear_value y0
  repeat' first
    | with_reducible first | assumption | intro _ | apply keeps_ite | apply keeps_foldl_triple | apply keeps_foldl_first | apply keeps_foldl_pair | apply keeps_foldl | apply State.taken_keeps | apply errFrom_keeps

theorem seamPorts_keeps {r : State} (east : Bool) {s : State} (h1 : Keeps r s) : Keeps r (seamPorts east s) := by
  unfold seamPorts
  extract_lets -underBinder y0 y1
  try clear_value y0
  try clear_value y1
  repeat' first
    | with_reducible first | assumption | apply keeps_ite
    | split
    | dsimp only
    | with_reducible first | apply keeps_mk

theorem seamFlush_keeps {r : State} (east : Bool) (cut : Nat) (incomplete : Nat) {s : State} (h3 : Keeps r s) : Keeps r (seamFlush east cut incomplete s) := by
  unfold seamFlush
  extract_lets -underBinder y0
  have ky0 : Keeps r y0 := by
    repeat' first
      | with_reducible first | assumption | apply State.setFld_keeps | apply seamDiscard_keeps | apply seamLose_keeps
  try clear_value y0
  repeat' first
    | with_reducible first | assumption | apply State.setFld_keeps | apply seamDiscard_keeps | apply seamLose_keeps | apply seamPorts_keeps

theorem execSeamPartnerReset_keeps {r : State} (east : Bool) (cut : Nat) (incomplete : Nat) {s : State} (h3 : Keeps r s) : KeepsR r (execSeamPartnerReset east cut incomplete s) := by
  unfold execSeamPartnerReset
  repeat' first
    | with_reducible first | assumption | apply keepsR_next | apply keeps_ite | apply seamAssert_keeps | apply seamFlush_keeps
    | split

theorem execSeamFlushDone_keeps {r : State} (east : Bool) {s : State} (h1 : Keeps r s) : KeepsR r (execSeamFlushDone east s) := by
  unfold execSeamFlushDone
  repeat' first
    | with_reducible first | assumption | apply keepsR_next | apply keeps_ite | apply State.setFld_keeps
    | split

theorem seamGo_keeps {r : State} (east : Bool) {s : State} (h1 : Keeps r s) : Keeps r (seamGo east s) := by
  unfold seamGo
  repeat' first
    | with_reducible first | assumption | intro _ | apply keeps_foldl_triple | apply keeps_foldl_first | apply keeps_foldl_pair | apply keeps_foldl | apply linkGo_keeps

theorem seamSeqZero_keeps {r : State} {s : State} (h0 : Keeps r s) : Keeps r (seamSeqZero s) := by
  unfold seamSeqZero
  repeat' first
    | with_reducible first | assumption | apply keeps_ite
    | split
    | dsimp only
    | with_reducible first | apply keeps_mk

theorem seamEven_keeps {r : State} (east : Bool) {s : State} (h1 : Keeps r s) : Keeps r (seamEven east s) := by
  unfold seamEven
  repeat' first
    | with_reducible first | assumption | apply State.setFld_keeps | apply seamGo_keeps | apply seamSeqZero_keeps

theorem execSeamPartnerRelease_keeps {r : State} (east : Bool) {s : State} (h1 : Keeps r s) : KeepsR r (execSeamPartnerRelease east s) := by
  unfold execSeamPartnerRelease
  extract_lets -underBinder y0 y1
  try clear_value y0
  try clear_value y1
  repeat' first
    | with_reducible first | assumption | apply keepsR_next | apply keeps_ite | apply seamEven_keeps | apply seamRelease_keeps
    | split

theorem execSeamResetRelease_keeps {r : State} (east : Bool) {s : State} (h1 : Keeps r s) : KeepsR r (execSeamResetRelease east s) := by
  unfold execSeamResetRelease
  repeat' first
    | with_reducible first | assumption | apply keepsR_next | apply keeps_ite | apply State.setFld_keeps | apply seamGo_keeps | apply seamSeqZero_keeps
    | split

theorem execSeamPartnerOff_keeps {r : State} (east : Bool) (cut : Nat) (incomplete : Nat) {s : State} (h3 : Keeps r s) : KeepsR r (execSeamPartnerOff east cut incomplete s) := by
  unfold execSeamPartnerOff
  repeat' first
    | with_reducible first | assumption | apply keepsR_next | apply State.setFld_keeps | apply seamFlush_keeps

theorem execSeamClampOpen_keeps {r : State} (east : Bool) {s : State} (h1 : Keeps r s) : KeepsR r (execSeamClampOpen east s) := by
  unfold execSeamClampOpen
  extract_lets -underBinder y0
  have ky0 : Keeps r y0 := by
    repeat' first
      | with_reducible first | assumption | apply keeps_ite | apply State.setFld_keeps | apply seamEven_keeps | apply seamRelease_keeps
  try clear_value y0
  repeat' first
    | with_reducible first | assumption | apply keepsR_next | apply keeps_ite | apply State.setFld_keeps | apply seamEven_keeps | apply seamRelease_keeps
    | split

theorem memRetried_keeps {r : State} (l : Nat) (vault : Bool) (n : Nat) {s : State} (h3 : Keeps r s) : Keeps r (memRetried l vault n s) := by
  unfold memRetried
  repeat' first
    | with_reducible first | assumption | apply keeps_ite | apply State.satFld_keeps

theorem memCorrected_keeps {r : State} (l : Nat) (vault : Bool) (n : Nat) {s : State} (h3 : Keeps r s) : Keeps r (memCorrected l vault n s) := by
  unfold memCorrected
  repeat' first
    | with_reducible first | assumption | apply keeps_ite | apply State.satFld_keeps | apply corrected_keeps

theorem memPoisoned_keeps {r : State} (l : Nat) (vault : Bool) (addr : Nat) {s : State} (h3 : Keeps r s) : Keeps r (memPoisoned l vault addr s) := by
  unfold memPoisoned
  repeat' first
    | with_reducible first | assumption | apply keeps_ite | apply State.satFld_keeps | apply raise_keeps

theorem chunkBad_keeps {r : State} (l : Nat) (g : Nat) (c : Nat) {s : State} (h3 : Keeps r s) : Keeps r (chunkBad l g c s) := by
  unfold chunkBad
  repeat' first
    | with_reducible first | assumption | intro _ | apply keeps_foldl_triple | apply keeps_foldl_first | apply keeps_foldl_pair | apply keeps_foldl | apply State.satFld_keeps | apply putX_keeps | apply raise_keeps

theorem imageRead_keeps {r : State} (l : Nat) (g : Nat) (first : Nat) (last : Nat) (bad : List Nat) (retried : List Nat) (corrected : List Nat) (malformed : List Nat) {s : State} (h8 : Keeps r s) : Keeps r (imageRead l g first last bad retried corrected malformed s) := by
  unfold imageRead
  extract_lets -underBinder y0 y1 y2 y3 y4 y5
  try clear_value y0
  try clear_value y1
  try clear_value y2
  try clear_value y3
  have ky4 : Keeps r y4 := by
    repeat' first
      | with_reducible first | assumption | intro _ | apply keeps_ite | apply keeps_foldl_triple | apply keeps_foldl_first | apply keeps_foldl_pair | apply keeps_foldl | apply chunkBad_keeps | apply memCorrected_keeps | apply memPoisoned_keeps | apply memRetried_keeps
  try clear_value y4
  have ky5 : Keeps r y5 := by
    repeat' first
      | with_reducible first | assumption | intro _ | apply keeps_ite | apply keeps_foldl_triple | apply keeps_foldl_first | apply keeps_foldl_pair | apply keeps_foldl | apply chunkBad_keeps | apply memCorrected_keeps | apply memPoisoned_keeps | apply memRetried_keeps | apply putX_keeps
  try clear_value y5
  repeat' first
    | with_reducible first | assumption | intro _ | apply keeps_ite | apply keeps_foldl_triple | apply keeps_foldl_first | apply keeps_foldl_pair | apply keeps_foldl | apply chunkBad_keeps

theorem execGranuleRead_keeps {r : State} (g : Nat) (first : Nat) (last : Nat) (engine : Bool) (bad : List Nat) (mended : List (Nat × Bool)) (malformed : List Nat) {s : State} (h8 : Keeps r s) : KeepsR r (execGranuleRead g first last engine bad mended malformed s) := by
  unfold execGranuleRead
  extract_lets -underBinder y0
  try clear_value y0
  repeat' first
    | with_reducible first | assumption | apply keepsR_next | apply keeps_ite | apply imageRead_keeps | apply touch_keeps
    | split

theorem execGranuleWrite_keeps {r : State} (addr : Nat) (data : List PWord) (engine : Bool) {s : State} (h3 : Keeps r s) : KeepsR r (execGranuleWrite addr data engine s) := by
  unfold execGranuleWrite
  repeat' first
    | with_reducible first | assumption | apply keepsR_next | apply keeps_ite | apply writeStore_keeps | refine keeps_of_pair ?_ (by assumption)
    | split

theorem execSlotClose_keeps {r : State} (l : LimbId) (g : Nat) {s : State} (h2 : Keeps r s) : KeepsR r (execSlotClose l g s) := by
  unfold execSlotClose
  repeat' first
    | with_reducible first | assumption | apply keepsR_next | apply closeSlot_keeps

theorem execMigrationDone_keeps {r : State} (g : Nat) {s : State} (h1 : Keeps r s) : KeepsR r (execMigrationDone g s) := by
  unfold execMigrationDone
  repeat' first
    | with_reducible first | assumption | apply keepsR_next | apply migDone_keeps
    | split

theorem execEviction_keeps {r : State} (l : LimbId) {s : State} (h1 : Keeps r s) : KeepsR r (execEviction l s) := by
  unfold execEviction
  repeat' first
    | with_reducible first | assumption | apply keepsR_next | apply keeps_ite | apply evict_keeps
    | split

theorem scrubWord_keeps {r : State} (l : Nat) (vault : Bool) (o : CellOutcome) (poison : State → State) {s : State} (h3 : ∀ x0, Keeps r x0 → Keeps r (poison x0)) (h4 : Keeps r s) : Keeps r (scrubWord l vault o poison s) := by
  unfold scrubWord
  repeat' first
    | with_reducible first | assumption | apply memCorrected_keeps | apply memRetried_keeps | apply h3
    | split

theorem freePoisoned_keeps {r : State} (l : Nat) (vault : Bool) {s : State} (h2 : Keeps r s) : Keeps r (freePoisoned l vault s) := by
  unfold freePoisoned
  extract_lets -underBinder y0
  try clear_value y0
  repeat' first
    | with_reducible first | assumption | apply keeps_ite | apply State.satFld_keeps | apply raise_keeps
    | split
    | dsimp only
    | with_reducible first | apply keeps_mk | apply keeps_mk_draws

theorem execScrubRead_keeps {r : State} (l : LimbId) (vault : Bool) (addr : Nat) (o : CellOutcome) (last : Bool) {s : State} (h5 : Keeps r s) : KeepsR r (execScrubRead l vault addr o last s) := by
  unfold execScrubRead
  extract_lets -underBinder y0 y1
  try clear_value y0
  have ky1 : ∀ x0, Keeps r x0 → Keeps r (y1 x0) := by
    intro x0 zx0
    dsimp only [y1]
    repeat' first
      | with_reducible first | assumption | intro _ | apply keeps_ite | apply keeps_foldl_triple | apply keeps_foldl_first | apply keeps_foldl_pair | apply keeps_foldl | apply State.satFld_keeps
  try clear_value y1
  repeat' first
    | with_reducible first | assumption | intro _ | apply keepsR_next | apply keeps_ite | apply keeps_foldl_triple | apply keeps_foldl_first | apply keeps_foldl_pair | apply keeps_foldl | apply State.satFld_keeps | apply freePoisoned_keeps | apply memPoisoned_keeps | apply putX_keeps | apply scrubWord_keeps | apply ky1
    | split

theorem execHomeApply_keeps {r : State} {s : State} (h0 : Keeps r s) : KeepsR r (execHomeApply s) := by
  unfold execHomeApply
  repeat' first
    | with_reducible first | assumption | apply keepsR_next | apply homeApply_keeps

theorem execHint_keeps {r : State} (l : LimbId) (arg : Nat) (first : Nat) (count : Nat) {s : State} (h4 : Keeps r s) : KeepsR r (execHint l arg first count s) := by
  unfold execHint
  repeat' first
    | with_reducible first | assumption | intro _ | apply keepsR_next | apply applyHint_keeps | apply migCmd_keeps

theorem execSetelem_keeps {r : State} (l : LimbId) (arg : Nat) (first : Nat) (count : Nat) {s : State} (h4 : Keeps r s) : KeepsR r (execSetelem l arg first count s) := by
  unfold execSetelem
  repeat' first
    | with_reducible first | assumption | intro _ | apply keepsR_next | apply State.setEntry_keeps | apply migCmd_keeps

theorem execDiscard_keeps {r : State} (l : LimbId) (first : Nat) (count : Nat) {s : State} (h3 : Keeps r s) : KeepsR r (execDiscard l first count s) := by
  unfold execDiscard
  repeat' first
    | with_reducible first | assumption | intro _ | apply keepsR_next | apply migCmd_keeps | apply zeroGranule_keeps

theorem execFlush_keeps {r : State} (l : LimbId) (first : Nat) (count : Nat) {s : State} (h3 : Keeps r s) : KeepsR r (execFlush l first count s) := by
  unfold execFlush
  repeat' first
    | with_reducible first | assumption | intro _ | apply keepsR_next | apply closeSlot_keeps | apply migCmd_keeps

theorem execMigCmdDone_keeps {r : State} (l : LimbId) {s : State} (h1 : Keeps r s) : KeepsR r (execMigCmdDone l s) := by
  unfold execMigCmdDone
  repeat' first
    | with_reducible first | assumption | apply keepsR_next | apply State.setFld_keeps

theorem execHostWindowAccess_keeps {r : State} (addr : Nat) (write : Bool) (len : Nat) (data : List Byte) {s : State} (h4 : Keeps r s) : KeepsR r (execHostWindowAccess addr write len data s) := by
  unfold execHostWindowAccess
  repeat' first
    | with_reducible first | assumption | apply keepsR_next | apply keeps_ite | apply State.emit_keeps | apply hostRead_keeps | apply winError_keeps
    | split

theorem seamCredits_keeps {r : State} {s : State} (h0 : Keeps r s) : Keeps r (seamCredits s) := by
  unfold seamCredits
  repeat' first
    | with_reducible first | assumption | apply keeps_ite
    | split
    | dsimp only
    | with_reducible first | apply keeps_mk

end Sys2Proof.Machine
end

