-- ==== Sys2Proof/Laws/KeepsSlew.lean ====
section
/-! SUPPORT. Slew keep what every command keeps: one law for each function that gives a state. -/

namespace Sys2Proof.Machine

theorem cursorAdvance_keeps {r : State} {s : State} (h0 : Keeps r s) : Keeps r (cursorAdvance s) := by
  unfold cursorAdvance
  repeat' first
    | with_reducible first | assumption | intro _ | apply keeps_ite | apply keeps_forEach | apply State.setFld_keeps

theorem armChan_keeps {r : State} (l : Nat) (n : Nat) (arg : Nat) (lring : Nat) {s : State} (h4 : Keeps r s) : Keeps r (armChan l n arg lring s) := by
  unfold armChan
  extract_lets -underBinder y0 y1 y2
  try clear_value y0
  have ky1 : Keeps r y1 := by
    repeat' first
      | with_reducible first | assumption | intro _ | apply keeps_ite | apply State.modLimb_keeps | apply State.satFld_keeps | apply State.setFld_keeps
  try clear_value y1
  have ky2 : Keeps r y2 := by
    repeat' first
      | with_reducible first | assumption | intro _ | apply keeps_ite | apply State.modLimb_keeps | apply State.satFld_keeps
  try clear_value y2
  repeat' first
    | with_reducible first | assumption | intro _ | apply keeps_ite | apply State.modLimb_keeps | apply State.satFld_keeps | apply State.setFld_keeps

theorem wrDrop_keeps {r : State} (l : Nat) {s : State} (h1 : Keeps r s) : Keeps r (wrDrop l s) := by
  unfold wrDrop
  repeat' first
    | with_reducible first | assumption | apply State.satFld_keeps

theorem setGen_keeps {r : State} (l : Nat) (n : Nat) (v : Nat) {s : State} (h3 : Keeps r s) : Keeps r (setGen l n v s) := by
  unfold setGen
  repeat' first
    | with_reducible first | assumption | apply keeps_ite | apply State.setFld_keeps | apply wrDrop_keeps

theorem unqueue_keeps {r : State} (l : Nat) (n : Nat) {s : State} (h2 : Keeps r s) : Keeps r (unqueue l n s) := by
  unfold unqueue
  repeat' first
    | with_reducible first | assumption | intro _ | apply State.modLimb_keeps

theorem noArrival_keeps {r : State} (l : Nat) (tag : Nat) {s : State} (h2 : Keeps r s) : Keeps r (noArrival l tag s) := by
  unfold noArrival
  extract_lets -underBinder y0
  try clear_value y0
  repeat' first
    | with_reducible first | assumption | apply keeps_ite
    | split
    | dsimp only
    | with_reducible first | refine keeps_mk_tabs ?_ id (fun k => risingKeys_map (fun _ => rfl) k) id | apply keeps_mk | apply keeps_mk_draws

theorem putRun_keeps {r : State} (l : Nat) (a1 : Run) {s : State} (h2 : Keeps r s) : Keeps r (putRun l a1 s) := by
  unfold putRun
  repeat' first
    | with_reducible first | assumption | intro _ | apply keeps_ite | apply State.modLimb_keeps

theorem fitField_keeps {r : State} (w : Nat) (n : Nat) {s : State} (h2 : Keeps r s) : Keeps r (fitField w n s).2 := by
  unfold fitField
  extract_lets -underBinder y0
  have ky0 : Keeps r y0.2 := by
    try dsimp only [y0]
    repeat' first
      | with_reducible first | assumption | apply keeps_ite | apply State.draw_keeps | refine keeps_of_pair ?_ (by assumption)
  try clear_value y0
  repeat' first
    | with_reducible first | assumption | apply keeps_ite | apply State.draw_keeps | refine keeps_of_pair ?_ (by assumption)
    | split

theorem slewRecord_keeps {r : State} (l : Nat) (chan : Nat) (gen : Nat) (rearms : Nat) (status : Nat) (ovf : Bool) (clamps : Nat) (base : Nat) (step : Nat) (lines : Nat) (notify : Bool) (lring : Nat) {s : State} (h12 : Keeps r s) : Keeps r (slewRecord l chan gen rearms status ovf clamps base step lines notify lring s) := by
  unfold slewRecord
  extract_lets -underBinder y0 y1 y2 y3 y4 y5 y6 y7 y8 y9
  try clear_value y0
  have ky1 : Keeps r y1.2 := by
    try dsimp only [y1]
    repeat' first
      | with_reducible first | assumption | intro _ | apply keeps_ite | apply State.modLimb_keeps | apply State.satFld_keeps | apply State.setFld_keeps | apply fitField_keeps | apply post_keeps | apply raise_keeps | apply wr4_keeps | refine keeps_of_pair ?_ (by assumption)
  try clear_value y1
  try clear_value y2
  try clear_value y3
  try clear_value y4
  try clear_value y5
  have ky6 : Keeps r y6 := by
    repeat' first
      | with_reducible first | assumption | intro _ | apply keeps_ite | apply State.modLimb_keeps | apply State.satFld_keeps | apply State.setFld_keeps | apply fitField_keeps | apply post_keeps | apply raise_keeps | apply wr4_keeps | refine keeps_of_pair ?_ (by assumption)
  try clear_value y6
  have ky7 : Keeps r y7 := by
    repeat' first
      | with_reducible first | assumption | intro _ | apply keeps_ite | apply State.modLimb_keeps | apply State.satFld_keeps | apply State.setFld_keeps | apply fitField_keeps | apply post_keeps | apply raise_keeps | apply wr4_keeps | refine keeps_of_pair ?_ (by assumption)
  try clear_value y7
  have ky8 : Keeps r y8 := by
    repeat' first
      | with_reducible first | assumption | intro _ | apply keeps_ite | apply State.modLimb_keeps | apply State.satFld_keeps | apply State.setFld_keeps | apply fitField_keeps | apply post_keeps | apply raise_keeps | apply wr4_keeps | refine keeps_of_pair ?_ (by assumption)
  try clear_value y8
  have ky9 : Keeps r y9 := by
    repeat' first
      | with_reducible first | assumption | intro _ | apply keeps_ite | apply State.modLimb_keeps | apply State.satFld_keeps | apply State.setFld_keeps | apply fitField_keeps | apply post_keeps | apply raise_keeps | apply wr4_keeps | refine keeps_of_pair ?_ (by assumption)
  try clear_value y9
  repeat' first
    | with_reducible first | assumption | intro _ | apply keeps_ite | apply State.modLimb_keeps | apply State.satFld_keeps | apply State.setFld_keeps | apply fitField_keeps | apply post_keeps | apply raise_keeps | apply wr4_keeps | refine keeps_of_pair ?_ (by assumption)

theorem cancelChan_keeps {r : State} (l : Nat) (n : Nat) {s : State} (h2 : Keeps r s) : Keeps r (cancelChan l n s) := by
  unfold cancelChan
  extract_lets -underBinder y0 y1
  try clear_value y0
  have ky1 : Keeps r y1 := by
    repeat' first
      | with_reducible first | assumption | apply keeps_ite | apply State.setFld_keeps | apply noArrival_keeps | apply putRun_keeps | apply slewRecord_keeps | apply unqueue_keeps
  try clear_value y1
  repeat' first
    | with_reducible first | assumption | apply keeps_ite | apply State.setFld_keeps | apply noArrival_keeps | apply putRun_keeps | apply slewRecord_keeps | apply unqueue_keeps
    | split

theorem slwArmWrite_keeps {r : State} (l : Nat) (v : Word) {s : State} (h2 : Keeps r s) : Keeps r (slwArmWrite l v s) := by
  unfold slwArmWrite
  extract_lets -underBinder y0
  try clear_value y0
  repeat' first
    | with_reducible first | assumption | apply armChan_keeps | apply cancelChan_keeps | apply setGen_keeps
    | split

theorem cqTailWrite_keeps {r : State} (l : Nat) (v : Nat) {s : State} (h2 : Keeps r s) : Keeps r (cqTailWrite l v s) := by
  unfold cqTailWrite
  repeat' first
    | with_reducible first | assumption | apply keeps_ite | apply State.setFld_keeps | apply wrDrop_keeps

theorem chanWrite_keeps {r : State} (l : Nat) (n : Nat) (w : Nat) (v : Word) {s : State} (h4 : Keeps r s) : Keeps r (chanWrite l n w v s) := by
  unfold chanWrite
  extract_lets -underBinder y0 y1 y2 y3
  try clear_value y0
  try clear_value y1
  try clear_value y2
  have ky3 : Keeps r y3 := by
    repeat' first
      | with_reducible first | assumption | intro _ | apply keeps_ite | apply State.modLimb_keeps
  try clear_value y3
  repeat' first
    | with_reducible first | assumption | intro _ | apply keeps_ite | apply State.modLimb_keeps | apply State.wr_keeps | apply wrDrop_keeps

theorem occEmpty_keeps {r : State} (f : Nat) {s : State} (h1 : Keeps r s) : Keeps r (occEmpty f s) := by
  unfold occEmpty
  extract_lets -underBinder y0
  try clear_value y0
  repeat' first
    | with_reducible first | assumption | apply State.setFld_keeps | apply State.setOcc_keeps

theorem pushDrop_keeps {r : State} (l : Nat) (n : Nat) {s : State} (h2 : Keeps r s) : Keeps r (pushDrop l n s) := by
  unfold pushDrop
  repeat' first
    | with_reducible first | assumption | apply State.satFld_keeps | apply raise_keeps

theorem Run.setElem_keeps {r : State} (a0 : Run) (gs : List Nat) {s : State} (h2 : Keeps r s) : Keeps r (Run.setElem a0 gs s) := by
  unfold Run.setElem
  repeat' first
    | with_reducible first | assumption | intro _ | apply keeps_ite | apply keeps_foldl_triple | apply keeps_foldl_first | apply keeps_foldl_pair | apply keeps_foldl | apply State.setEntry_keeps

theorem writePiece_keeps {r : State} (l : Nat) (a : Nat) (fin : Bool) (ws : List PWord) {x : Run × State} (h4 : Keeps r x.2) : Keeps r (writePiece l a fin ws x).2 := by
  unfold writePiece
  extract_lets -underBinder y0 y1 y2 y3
  try clear_value y0
  have ky1 : Keeps r y1 := by
    repeat' first
      | with_reducible first | assumption | intro _ | apply keeps_ite | apply keeps_foldl_triple | apply keeps_foldl_first | apply keeps_foldl_pair | apply keeps_foldl | apply Run.setElem_keeps | apply State.emit_keeps | apply State.send_keeps | apply addrError_keeps | apply discardAt_keeps | apply limbInject_keeps | apply winError_keeps | apply writeStore_keeps | refine keeps_of_pair ?_ (by assumption)
  try clear_value y1
  try clear_value y2
  try clear_value y3
  repeat' first
    | with_reducible first | assumption | intro _ | apply keeps_ite | apply keeps_foldl_triple | apply keeps_foldl_first | apply keeps_foldl_pair | apply keeps_foldl | apply Run.setElem_keeps | apply State.emit_keeps | apply State.send_keeps | apply addrError_keeps | apply discardAt_keeps | apply limbInject_keeps | apply winError_keeps | apply writeStore_keeps | refine keeps_of_pair ?_ (by assumption)
    | split
    | dsimp only

theorem pushLine_keeps {r : State} (l : Nat) (n : Nat) (o : Nat) (ws : List PWord) {s : State} (h4 : Keeps r s) : Keeps r (pushLine l n o ws s) := by
  unfold pushLine
  repeat' first
    | with_reducible first | assumption | apply keeps_ite | apply closeSlot_keeps | apply pushDrop_keeps | apply putRun_keeps | apply writePiece_keeps | refine keeps_of_pair ?_ (by assumption)
    | split

theorem pushLines_keeps {r : State} (l : Nat) (n : Nat) (a2 : Nat) (a3 : Nat) (a4 : List PWord) {a5 : State} : Keeps r a5 → Keeps r (pushLines l n a2 a3 a4 a5) := by
  fun_induction pushLines l n a2 a3 a4 a5 <;>
    repeat' first
      | with_reducible first | assumption | intro _ | apply keeps_ite | apply pushLine_keeps | apply_assumption -exfalso -symm

theorem sendReads_keeps {r : State} (l : Nat) (tag : Nat) (dx : Nat) (dy : Nat) (port : Bool) (a5 : Nat) (a6 : Nat) (a7 : Nat) {a8 : State} : Keeps r a8 → Keeps r (sendReads l tag dx dy port a5 a6 a7 a8) := by
  fun_induction sendReads l tag dx dy port a5 a6 a7 a8 <;>
    repeat' first
      | with_reducible first | assumption | intro _ | apply keeps_ite | apply limbInject_keeps | apply_assumption -exfalso -symm

theorem readPiece_keeps {r : State} (l : Nat) (key : Nat) (a : Nat) (n : Nat) {x : Run × State} (h4 : Keeps r x.2) : Keeps r (readPiece l key a n x).2 := by
  unfold readPiece
  extract_lets -underBinder y0 y1
  try clear_value y0
  have ky1 : Keeps r y1 := by
    repeat' first
      | with_reducible first | assumption | apply addrError_keeps | apply hostRead_keeps | apply readStore_keeps | apply sendReads_keeps | apply winError_keeps | refine keeps_of_pair ?_ (by assumption)
  try clear_value y1
  repeat' first
    | with_reducible first | assumption | apply addrError_keeps | apply hostRead_keeps | apply readStore_keeps | apply sendReads_keeps | apply winError_keeps | refine keeps_of_pair ?_ (by assumption)
    | split

theorem segmentAsk_keeps {r : State} (l : Nat) (lines : List Nat) {x : Run × State} (h2 : Keeps r x.2) : Keeps r (segmentAsk l lines x).2 := by
  unfold segmentAsk
  repeat' first
    | with_reducible first | assumption | intro _ | apply keeps_ite | apply keeps_foldl_triple | apply keeps_foldl_first | apply keeps_foldl_pair | apply keeps_foldl | apply readPiece_keeps | refine keeps_of_pair ?_ (by assumption)
    | split

theorem segmentHint_keeps {r : State} (a0 : Run) (gs : List Nat) {s : State} (h2 : Keeps r s) : Keeps r (segmentHint a0 gs s) := by
  unfold segmentHint
  extract_lets -underBinder y0
  have ky0 : Keeps r y0 := by
    repeat' first
      | with_reducible first | assumption | intro _ | apply keeps_ite | apply keeps_forEach | apply applyHint_keeps | apply touch_keeps
  try clear_value y0
  repeat' first
    | with_reducible first | assumption | intro _ | apply keeps_ite | apply keeps_forEach | apply applyHint_keeps

theorem mcDiscard_keeps {r : State} (l : Nat) (ps : List (Nat × List PWord)) {x : Run × State} (h2 : Keeps r x.2) : Keeps r (mcDiscard l ps x).2 := by
  unfold mcDiscard
  repeat' first
    | with_reducible first | assumption | apply keeps_ite | apply discardAt_keeps
    | split

theorem writeAll_keeps {r : State} (l : Nat) (a1 : List (Nat × List PWord)) {a2 : Run × State} : Keeps r a2.2 → Keeps r (writeAll l a1 a2).2 := by
  fun_induction writeAll l a1 a2 <;>
    repeat' first
      | with_reducible first | assumption | intro _ | apply keeps_ite | apply mcDiscard_keeps | apply writePiece_keeps | refine keeps_of_pair ?_ (by assumption) | apply_assumption -exfalso -symm

theorem segmentGo_keeps {r : State} (l : Nat) {x : Run × State} (h1 : Keeps r x.2) : Keeps r (segmentGo l x).2 := by
  unfold segmentGo
  extract_lets -underBinder y0 y1
  try clear_value y0
  have ky1 : Keeps r y1.2 := by
    try dsimp only [y1]
    repeat' first
      | with_reducible first | assumption | intro _ | apply keeps_ite | apply keeps_forEach | apply keeps_foldl_triple | apply keeps_foldl_first | apply keeps_foldl_pair | apply keeps_foldl | apply State.draw_keeps | apply clampRecords_keeps | apply segmentAsk_keeps | apply segmentHint_keeps | apply writeAll_keeps | apply zeroGranule_keeps | refine keeps_of_pair ?_ (by assumption)
  try clear_value y1
  repeat' first
    | with_reducible first | assumption | intro _ | apply keeps_ite | apply keeps_forEach | apply keeps_foldl_triple | apply keeps_foldl_first | apply keeps_foldl_pair | apply keeps_foldl | apply State.draw_keeps | apply clampRecords_keeps | apply segmentAsk_keeps | apply segmentHint_keeps | apply writeAll_keeps | apply zeroGranule_keeps | refine keeps_of_pair ?_ (by assumption)
    | split
    | dsimp only
    | with_reducible first | apply keeps_mk

theorem cvtScales_keeps {r : State} (l : Nat) (sc : List Byte) {x : Run × State} (h2 : Keeps r x.2) : Keeps r (cvtScales l sc x).2 := by
  unfold cvtScales
  extract_lets -underBinder y0 y1 y2 y3 y4
  try clear_value y0
  have ky1 : Keeps r y1.2 := by
    try dsimp only [y1]
    repeat' first
      | with_reducible first | assumption | apply keeps_ite | apply Run.setElem_keeps | apply modWrite_keeps | refine keeps_of_pair ?_ (by assumption)
  try clear_value y1
  try clear_value y2
  try clear_value y3
  try clear_value y4
  repeat' first
    | with_reducible first | assumption | apply keeps_ite | apply Run.setElem_keeps | apply modWrite_keeps | refine keeps_of_pair ?_ (by assumption)
    | split

theorem issueCvt_keeps {r : State} (l : Nat) {x : Run × State} (h1 : Keeps r x.2) : Keeps r (issueCvt l x).2 := by
  unfold issueCvt
  extract_lets -underBinder y0 y1 y2
  try clear_value y0
  have ky1 : Keeps r y1.2 := by
    try dsimp only [y1]
    repeat' first
      | with_reducible first | assumption | intro _ | apply keeps_ite | apply keeps_foldl_triple | apply keeps_foldl_first | apply keeps_foldl_pair | apply keeps_foldl | apply codeUse_keeps | apply cvtScales_keeps | apply observe_keeps | apply writeAll_keeps | refine keeps_of_pair ?_ (by assumption)
  try clear_value y1
  have ky2 : Keeps r y2.2 := by
    try dsimp only [y2]
    repeat' first
      | with_reducible first | assumption | intro _ | apply keeps_ite | apply keeps_foldl_triple | apply keeps_foldl_first | apply keeps_foldl_pair | apply keeps_foldl | apply codeUse_keeps | apply cvtScales_keeps | apply observe_keeps | apply writeAll_keeps | refine keeps_of_pair ?_ (by assumption)
  try clear_value y2
  repeat' first
    | with_reducible first | assumption | intro _ | apply keeps_ite | apply keeps_foldl_triple | apply keeps_foldl_first | apply keeps_foldl_pair | apply keeps_foldl | apply codeUse_keeps | apply cvtScales_keeps | apply observe_keeps | apply writeAll_keeps | refine keeps_of_pair ?_ (by assumption)
    | split

theorem issueRows_keeps {r : State} (l : Nat) {x : Run × State} (h1 : Keeps r x.2) : Keeps r (issueRows l x).2 := by
  unfold issueRows
  extract_lets -underBinder y0 y1 y2 y3
  try clear_value y0
  try clear_value y1
  have ky2 : Keeps r y2.2 := by
    try dsimp only [y2]
    repeat' first
      | with_reducible first | assumption | apply keeps_ite | apply issueCvt_keeps | apply writeAll_keeps | refine keeps_of_pair ?_ (by assumption)
      | dsimp only [y2]
      | split
  try clear_value y2
  try clear_value y3
  repeat' first
    | with_reducible first | assumption | apply keeps_ite | apply issueCvt_keeps | apply writeAll_keeps | refine keeps_of_pair ?_ (by assumption)

theorem tryIssue_keeps {r : State} (l : Nat) (a1 : Run) {s : State} (h2 : Keeps r s) : Keeps r (tryIssue l a1 s) := by
  unfold tryIssue
  extract_lets -underBinder y0
  have ky0 : Keeps r y0.2 := by
    try dsimp only [y0]
    repeat' first
      | with_reducible first | assumption | apply keeps_ite | apply issueRows_keeps | apply putRun_keeps | apply segmentGo_keeps | refine keeps_of_pair ?_ (by assumption)
      | dsimp only [y0]
      | split
  try clear_value y0
  repeat' first
    | with_reducible first | assumption | apply keeps_ite | apply issueRows_keeps | apply putRun_keeps | apply segmentGo_keeps | refine keeps_of_pair ?_ (by assumption)

theorem slewAnswer_keeps {r : State} (l : Nat) (a1 : Run) (p : Packet) (err : Bool) {s : State} (h4 : Keeps r s) : Keeps r (slewAnswer l a1 p err s) := by
  unfold slewAnswer
  repeat' first
    | with_reducible first | assumption | apply keeps_ite | apply putRun_keeps | apply tryIssue_keeps
    | split

theorem limbAnswer_keeps {r : State} (p : Packet) (err : Bool) {s : State} (h2 : Keeps r s) : Keeps r (limbAnswer p err s) := by
  unfold limbAnswer
  repeat' first
    | with_reducible first | assumption | intro _ | apply keeps_ite | apply State.taken_keeps | apply limbResponse_keeps | apply onRoute_keeps | apply slewAnswer_keeps
    | split

theorem execRdata_keeps {r : State} (p : Packet) {s : State} (h1 : Keeps r s) : KeepsR r (execRdata p s) := by
  unfold execRdata
  repeat' first
    | with_reducible first | assumption | apply keepsR_next | apply limbAnswer_keeps

theorem execWack_keeps {r : State} (p : Packet) {s : State} (h1 : Keeps r s) : KeepsR r (execWack p s) := by
  unfold execWack
  repeat' first
    | with_reducible first | assumption | apply keepsR_next | apply limbAnswer_keeps

theorem execErr_keeps {r : State} (p : Packet) {s : State} (h1 : Keeps r s) : KeepsR r (execErr p s) := by
  unfold execErr
  repeat' first
    | with_reducible first | assumption | apply keepsR_next | apply limbAnswer_keeps

theorem execArm_keeps {r : State} (l : LimbId) (chan : Nat) (arg : Nat) {s : State} (h3 : Keeps r s) : KeepsR r (execArm l chan arg s) := by
  unfold execArm
  repeat' first
    | with_reducible first | assumption | apply keepsR_next | apply armChan_keeps

theorem execSetgen_keeps {r : State} (l : LimbId) (chan : Nat) (value : Nat) {s : State} (h3 : Keeps r s) : KeepsR r (execSetgen l chan value s) := by
  unfold execSetgen
  repeat' first
    | with_reducible first | assumption | apply keepsR_next | apply setGen_keeps

theorem execSlewCancel_keeps {r : State} (l : LimbId) (chan : Nat) {s : State} (h2 : Keeps r s) : KeepsR r (execSlewCancel l chan s) := by
  unfold execSlewCancel
  repeat' first
    | with_reducible first | assumption | apply keepsR_next | apply cancelChan_keeps

theorem snapshot_keeps {r : State} (l : Nat) (n : Nat) {s : State} (h2 : Keeps r s) : Keeps r (snapshot l n s).2 := by
  unfold snapshot
  extract_lets -underBinder y0 y1 y2 y3 y4 y5 y6 y7 y8 y9 y10 y11 y12
  try clear_value y0
  try clear_value y1
  try clear_value y2
  try clear_value y3
  try clear_value y4
  try clear_value y5
  try clear_value y6
  try clear_value y7
  have ky8 : Keeps r y8.2 := by
    try dsimp only [y8]
    repeat' first
      | with_reducible first | assumption | apply keeps_ite | apply clampRecords_keeps
      | dsimp only [y8]
      | split
      | dsimp only
      | with_reducible first | apply keeps_mk
  try clear_value y8
  have ky9 : Keeps r y9 := by
    repeat' first
      | with_reducible first | assumption | apply keeps_ite | apply clampRecords_keeps
  try clear_value y9
  try clear_value y10
  try clear_value y11
  try clear_value y12
  repeat' first
    | with_reducible first | assumption | apply keeps_ite | apply clampRecords_keeps
    | split

theorem cacheTouch_keeps {r : State} (l : Nat) (n : Nat) {s : State} (h2 : Keeps r s) : Keeps r (cacheTouch l n s) := by
  unfold cacheTouch
  extract_lets -underBinder y0 y1
  try clear_value y0
  have ky1 : Keeps r y1 := by
    repeat' first
      | with_reducible first | assumption | intro _ | apply keeps_ite | apply State.modLimb_keeps | apply State.satFld_keeps
  try clear_value y1
  repeat' first
    | with_reducible first | assumption | intro _ | apply keeps_ite | apply State.modLimb_keeps

theorem readRow_keeps {r : State} (l : Nat) (k : Nat) (i : Nat) {x : Run × State} (h3 : Keeps r x.2) : Keeps r (readRow l k i x).2 := by
  unfold readRow
  extract_lets -underBinder y0 y1 y2 y3
  try clear_value y0
  try clear_value y1
  have ky2 : Keeps r y2.2 := by
    try dsimp only [y2]
    repeat' first
      | with_reducible first | assumption | intro _ | apply keeps_ite | apply keeps_foldl_triple | apply keeps_foldl_first | apply keeps_foldl_pair | apply keeps_foldl | apply readPiece_keeps | refine keeps_of_pair ?_ (by assumption)
      | dsimp only [y2]
      | split
  try clear_value y2
  try clear_value y3
  repeat' first
    | with_reducible first | assumption | intro _ | apply keeps_ite | apply keeps_foldl_triple | apply keeps_foldl_first | apply keeps_foldl_pair | apply keeps_foldl | apply readPiece_keeps | refine keeps_of_pair ?_ (by assumption)
    | split

theorem readRows_keeps {r : State} (l : Nat) (a1 : Nat) (a2 : List Nat) {a3 : Run × State} : Keeps r a3.2 → Keeps r (readRows l a1 a2 a3).2 := by
  fun_induction readRows l a1 a2 a3 <;>
    repeat' first
      | with_reducible first | assumption | intro _ | apply readRow_keeps | refine keeps_of_pair ?_ (by assumption) | apply_assumption -exfalso -symm

theorem runBody_keeps {r : State} (l : Nat) (a1 : Run) {s : State} (h2 : Keeps r s) : Keeps r (runBody l a1 s) := by
  unfold runBody
  extract_lets -underBinder y0 y1 y2 y3 y4 y5 y6 y7
  try clear_value y0
  try clear_value y1
  try clear_value y2
  have ky3 : Keeps r y3.2 := by
    try dsimp only [y3]
    repeat' first
      | with_reducible first | assumption | intro _ | apply keeps_ite | apply keeps_forEach | apply applyHint_keeps | apply putRun_keeps | apply readRows_keeps | apply segmentGo_keeps | apply tryIssue_keeps | apply zeroGranule_keeps | refine keeps_of_pair ?_ (by assumption)
  try clear_value y3
  have ky4 : Keeps r y4 := by
    repeat' first
      | with_reducible first | assumption | intro _ | apply keeps_ite | apply keeps_forEach | apply applyHint_keeps | apply putRun_keeps | apply readRows_keeps | apply segmentGo_keeps | apply tryIssue_keeps | apply zeroGranule_keeps | refine keeps_of_pair ?_ (by assumption)
  try clear_value y4
  try clear_value y5
  have ky6 : Keeps r y6.2 := by
    try dsimp only [y6]
    repeat' first
      | with_reducible first | assumption | intro _ | apply keeps_ite | apply keeps_forEach | apply applyHint_keeps | apply putRun_keeps | apply readRows_keeps | apply segmentGo_keeps | apply tryIssue_keeps | apply zeroGranule_keeps | refine keeps_of_pair ?_ (by assumption)
  try clear_value y6
  have ky7 : Keeps r y7 := by
    repeat' first
      | with_reducible first | assumption | intro _ | apply keeps_ite | apply keeps_forEach | apply applyHint_keeps | apply putRun_keeps | apply readRows_keeps | apply segmentGo_keeps | apply tryIssue_keeps | apply zeroGranule_keeps | refine keeps_of_pair ?_ (by assumption)
  try clear_value y7
  repeat' first
    | with_reducible first | assumption | intro _ | apply keeps_ite | apply keeps_forEach | apply applyHint_keeps | apply putRun_keeps | apply readRows_keeps | apply segmentGo_keeps | apply tryIssue_keeps | apply zeroGranule_keeps | refine keeps_of_pair ?_ (by assumption)

theorem setRunning_keeps {r : State} (l : Nat) {s : State} (h1 : Keeps r s) : Keeps r (setRunning l s) := by
  unfold setRunning
  repeat' first
    | with_reducible first | assumption | apply State.setFld_keeps

theorem startChan_keeps {r : State} (l : Nat) (n : Nat) {s : State} (h2 : Keeps r s) : Keeps r (startChan l n s) := by
  unfold startChan
  extract_lets -underBinder y0 y1 y2 y3
  have ky0 : Keeps r y0.2 := by
    try dsimp only [y0]
    repeat' first
      | with_reducible first | assumption | intro _ | apply State.modLimb_keeps | apply State.setFld_keeps | apply cacheTouch_keeps | apply runBody_keeps | apply setRunning_keeps | apply snapshot_keeps | apply unqueue_keeps | refine keeps_of_pair ?_ (by assumption)
  try clear_value y0
  have ky1 : Keeps r y1 := by
    repeat' first
      | with_reducible first | assumption | intro _ | apply State.modLimb_keeps | apply State.setFld_keeps | apply cacheTouch_keeps | apply runBody_keeps | apply setRunning_keeps | apply snapshot_keeps | apply unqueue_keeps | refine keeps_of_pair ?_ (by assumption)
  try clear_value y1
  have ky2 : Keeps r y2 := by
    repeat' first
      | with_reducible first | assumption | intro _ | apply State.modLimb_keeps | apply State.setFld_keeps | apply cacheTouch_keeps | apply runBody_keeps | apply setRunning_keeps | apply snapshot_keeps | apply unqueue_keeps | refine keeps_of_pair ?_ (by assumption)
  try clear_value y2
  try clear_value y3
  repeat' first
    | with_reducible first | assumption | intro _ | apply State.modLimb_keeps | apply State.setFld_keeps | apply cacheTouch_keeps | apply runBody_keeps | apply setRunning_keeps | apply snapshot_keeps | apply unqueue_keeps | refine keeps_of_pair ?_ (by assumption)

theorem execSlewChannelStart_keeps {r : State} (l : LimbId) {s : State} (h1 : Keeps r s) : KeepsR r (execSlewChannelStart l s) := by
  unfold execSlewChannelStart
  repeat' first
    | with_reducible first | assumption | apply keepsR_next | apply startChan_keeps
    | split

theorem occmDone_keeps {r : State} (f : Nat) {s : State} (h1 : Keeps r s) : Keeps r (occmDone f s) := by
  unfold occmDone
  extract_lets -underBinder y0 y1 y2 y3 y4
  try clear_value y0
  have ky1 : Keeps r y1.2 := by
    try dsimp only [y1]
    repeat' first
      | with_reducible first | assumption | apply keeps_ite | apply State.satFld_keeps | apply State.setFld_keeps | apply State.setOcc_keeps | apply fitField_keeps | apply occEmpty_keeps | refine keeps_of_pair ?_ (by assumption)
  try clear_value y1
  have ky2 : Keeps r y2.2 := by
    try dsimp only [y2]
    repeat' first
      | with_reducible first | assumption | apply keeps_ite | apply State.satFld_keeps | apply State.setFld_keeps | apply State.setOcc_keeps | apply fitField_keeps | apply occEmpty_keeps | refine keeps_of_pair ?_ (by assumption)
  try clear_value y2
  have ky3 : Keeps r y3.2 := by
    try dsimp only [y3]
    repeat' first
      | with_reducible first | assumption | apply keeps_ite | apply State.satFld_keeps | apply State.setFld_keeps | apply State.setOcc_keeps | apply fitField_keeps | apply occEmpty_keeps | refine keeps_of_pair ?_ (by assumption)
  try clear_value y3
  have ky4 : Keeps r y4 := by
    repeat' first
      | with_reducible first | assumption | apply keeps_ite | apply State.satFld_keeps | apply State.setFld_keeps | apply State.setOcc_keeps | apply fitField_keeps | apply occEmpty_keeps | refine keeps_of_pair ?_ (by assumption)
  try clear_value y4
  repeat' first
    | with_reducible first | assumption | apply keeps_ite | apply State.satFld_keeps | apply State.setFld_keeps | apply State.setOcc_keeps | apply fitField_keeps | apply occEmpty_keeps | refine keeps_of_pair ?_ (by assumption)

theorem completeRun_keeps {r : State} (l : Nat) (a1 : Run) {s : State} (h2 : Keeps r s) : Keeps r (completeRun l a1 s) := by
  unfold completeRun
  extract_lets -underBinder y0 y1 y2 y3 y4 y5
  try clear_value y0
  have ky1 : Keeps r y1 := by
    repeat' first
      | with_reducible first | assumption | intro _ | apply keeps_ite | apply State.modLimb_keeps | apply armChan_keeps | apply occmDone_keeps | apply setRunning_keeps
  try clear_value y1
  have ky2 : Keeps r y2 := by
    repeat' first
      | with_reducible first | assumption | intro _ | apply keeps_ite | apply State.modLimb_keeps | apply armChan_keeps | apply occmDone_keeps | apply setRunning_keeps | apply slewRecord_keeps
  try clear_value y2
  have ky3 : Keeps r y3 := by
    repeat' first
      | with_reducible first | assumption | intro _ | apply keeps_ite | apply State.modLimb_keeps | apply armChan_keeps | apply occmDone_keeps
  try clear_value y3
  try clear_value y4
  have ky5 : Keeps r y5 := by
    repeat' first
      | with_reducible first | assumption | intro _ | apply keeps_ite | apply State.modLimb_keeps | apply armChan_keeps | apply occmDone_keeps | apply setRunning_keeps | apply slewRecord_keeps | apply startChan_keeps
  try clear_value y5
  repeat' first
    | with_reducible first | assumption | intro _ | apply keeps_ite | apply State.modLimb_keeps | apply armChan_keeps

theorem execSlewTransferComplete_keeps {r : State} (l : LimbId) (chan : Nat) {s : State} (h2 : Keeps r s) : KeepsR r (execSlewTransferComplete l chan s) := by
  unfold execSlewTransferComplete
  repeat' first
    | with_reducible first | assumption | apply keepsR_next | apply keeps_ite | apply completeRun_keeps
    | split

theorem execChannelWindowWrite_keeps {r : State} (l : LimbId) (chan : Nat) (word : Nat) (value : Word) {s : State} (h4 : Keeps r s) : KeepsR r (execChannelWindowWrite l chan word value s) := by
  unfold execChannelWindowWrite
  repeat' first
    | with_reducible first | assumption | apply keepsR_next | apply chanWrite_keeps

theorem execSlwCqTailWrite_keeps {r : State} (l : LimbId) (value : Nat) {s : State} (h2 : Keeps r s) : KeepsR r (execSlwCqTailWrite l value s) := by
  unfold execSlwCqTailWrite
  repeat' first
    | with_reducible first | assumption | apply keepsR_next | apply cqTailWrite_keeps

theorem fsAt_keeps {r : State} (f : Nat) (a : Nat) {s : State} (h2 : Keeps r s) : Keeps r (fsAt f a s).2 := by
  unfold fsAt
  repeat' first
    | with_reducible first | assumption | apply keeps_ite | apply fsRead_keeps | refine keeps_of_pair ?_ (by assumption)
    | split

theorem fsmcWords_keeps {r : State} (f : Nat) (a1 : Run) {s : State} (h2 : Keeps r s) : Keeps r (fsmcWords f a1 s).2 := by
  unfold fsmcWords
  repeat' first
    | with_reducible first | assumption | intro _ | apply fsAt_keeps | apply outWords_keeps | refine keeps_of_pair ?_ (by assumption)

theorem rowBus_keeps {r : State} (f : Nat) (p : Packet) {s : State} (h2 : Keeps r s) : Keeps r (rowBus f p s) := by
  unfold rowBus
  extract_lets -underBinder y0
  try clear_value y0
  repeat' first
    | with_reducible first | assumption | intro _ | apply keeps_forEach | apply mcDeliver_keeps

theorem fsmcDeliver_keeps {r : State} (l : Nat) (a1 : Run) {s : State} (h2 : Keeps r s) : Keeps r (fsmcDeliver l a1 s) := by
  unfold fsmcDeliver
  extract_lets -underBinder y0 y1 y2 y3 y4 y5 y6 y7 y8 y9 y10 y11 y12
  try clear_value y0
  try clear_value y1
  try clear_value y2
  have ky3 : Keeps r y3.2 := by
    try dsimp only [y3]
    repeat' first
      | with_reducible first | assumption | intro _ | apply keeps_ite | apply keeps_foldl_triple | apply keeps_foldl_first | apply keeps_foldl_pair | apply keeps_foldl | apply State.draw_keeps | apply State.send_keeps | apply discardAt_keeps | apply fsmcWords_keeps | apply putRun_keeps | apply raise_keeps | apply rowBus_keeps | refine keeps_of_pair ?_ (by assumption)
  try clear_value y3
  have ky4 : Keeps r y4.2 := by
    try dsimp only [y4]
    repeat' first
      | with_reducible first | assumption | intro _ | apply keeps_ite | apply keeps_foldl_triple | apply keeps_foldl_first | apply keeps_foldl_pair | apply keeps_foldl | apply State.draw_keeps | apply State.send_keeps | apply discardAt_keeps | apply fsmcWords_keeps | apply putRun_keeps | apply raise_keeps | apply rowBus_keeps | refine keeps_of_pair ?_ (by assumption)
  try clear_value y4
  try clear_value y5
  try clear_value y6
  have ky7 : Keeps r y7 := by
    repeat' first
      | with_reducible first | assumption | intro _ | apply keeps_ite | apply keeps_foldl_triple | apply keeps_foldl_first | apply keeps_foldl_pair | apply keeps_foldl | apply State.draw_keeps | apply State.send_keeps | apply discardAt_keeps | apply fsmcWords_keeps | apply putRun_keeps | apply raise_keeps | apply rowBus_keeps | refine keeps_of_pair ?_ (by assumption)
  try clear_value y7
  try clear_value y8
  try clear_value y9
  try clear_value y10
  try clear_value y11
  have ky12 : Keeps r y12 := by
    repeat' first
      | with_reducible first | assumption | intro _ | apply keeps_ite | apply keeps_foldl_triple | apply keeps_foldl_first | apply keeps_foldl_pair | apply keeps_foldl | apply State.draw_keeps | apply State.send_keeps | apply discardAt_keeps | apply fsmcWords_keeps | apply putRun_keeps | apply raise_keeps | apply rowBus_keeps | refine keeps_of_pair ?_ (by assumption)
      | dsimp only [y12]
      | split
  try clear_value y12
  repeat' first
    | with_reducible first | assumption | intro _ | apply keeps_ite | apply keeps_foldl_triple | apply keeps_foldl_first | apply keeps_foldl_pair | apply keeps_foldl | apply State.draw_keeps | apply State.send_keeps | apply discardAt_keeps | apply fsmcWords_keeps | apply putRun_keeps | apply raise_keeps | apply rowBus_keeps | refine keeps_of_pair ?_ (by assumption)

theorem execFsmcDelivery_keeps {r : State} (l : LimbId) (chan : Nat) {s : State} (h2 : Keeps r s) : KeepsR r (execFsmcDelivery l chan s) := by
  unfold execFsmcDelivery
  repeat' first
    | with_reducible first | assumption | apply keepsR_next | apply keeps_ite | apply fsmcDeliver_keeps
    | split

theorem slotMask_keeps {r : State} (f : Nat) (base : Nat) (k : Nat) {s : State} (h3 : Keeps r s) : Keeps r (slotMask f base k s).2 := by
  unfold slotMask
  extract_lets -underBinder y0 y1
  try clear_value y0
  have ky1 : Keeps r y1.2 := by
    try dsimp only [y1]
    repeat' first
      | with_reducible first | assumption | intro _ | apply keeps_ite | apply fsRead_keeps | apply outWords_keeps | refine keeps_of_pair ?_ (by assumption)
      | dsimp only [y1]
      | split
  try clear_value y1
  repeat' first
    | with_reducible first | assumption | intro _ | apply keeps_ite | apply fsRead_keeps | apply outWords_keeps | refine keeps_of_pair ?_ (by assumption)

theorem allSlots_keeps {r : State} (f : Nat) (base : Nat) {s : State} (h2 : Keeps r s) : Keeps r (allSlots f base s).2 := by
  unfold allSlots
  repeat' first
    | with_reducible first | assumption | intro _ | apply keeps_foldl_triple | apply keeps_foldl_first | apply keeps_foldl_pair | apply keeps_foldl | apply slotMask_keeps | refine keeps_of_pair ?_ (by assumption)

theorem occAdvance_keeps {r : State} (f : Nat) {s : State} (h1 : Keeps r s) : Keeps r (occAdvance f s) := by
  unfold occAdvance
  extract_lets -underBinder y0 y1 y2 y3 y4 y5
  try clear_value y0
  try clear_value y1
  have ky2 : Keeps r y2.2 := by
    try dsimp only [y2]
    repeat' first
      | with_reducible first | assumption | apply keeps_ite | apply State.setFld_keeps | apply State.setOcc_keeps | apply allSlots_keeps | refine keeps_of_pair ?_ (by assumption)
  try clear_value y2
  have ky3 : Keeps r y3 := by
    repeat' first
      | with_reducible first | assumption | apply keeps_ite | apply State.setFld_keeps | apply State.setOcc_keeps | apply allSlots_keeps | refine keeps_of_pair ?_ (by assumption)
  try clear_value y3
  try clear_value y4
  have ky5 : Keeps r y5.2 := by
    try dsimp only [y5]
    repeat' first
      | with_reducible first | assumption | apply keeps_ite | apply State.setFld_keeps | apply State.setOcc_keeps | apply allSlots_keeps | refine keeps_of_pair ?_ (by assumption)
  try clear_value y5
  repeat' first
    | with_reducible first | assumption | apply keeps_ite | apply State.setFld_keeps | apply State.setOcc_keeps | apply allSlots_keeps | refine keeps_of_pair ?_ (by assumption)

theorem execOcculterSlotFilled_keeps {r : State} (f : FieldId) (isTrue : Bool) (slot : Nat) {s : State} (h3 : Keeps r s) : KeepsR r (execOcculterSlotFilled f isTrue slot s) := by
  unfold execOcculterSlotFilled
  extract_lets -underBinder y0 y1 y2
  try clear_value y0
  try clear_value y1
  try clear_value y2
  repeat' first
    | with_reducible first | assumption | apply keepsR_next | apply keeps_ite | apply State.satFld_keeps | apply State.setOcc_keeps | apply occAdvance_keeps | apply raise_keeps
    | split

theorem execClear_keeps {r : State} (f : FieldId) {s : State} (h1 : Keeps r s) : KeepsR r (execClear f s) := by
  unfold execClear
  repeat' first
    | with_reducible first | assumption | apply keepsR_next | apply occEmpty_keeps

theorem slewHostData_keeps {r : State} (l : Nat) (n : Nat) (key : Nat) (st : HostStatus) (data : List Byte) {s : State} (h5 : Keeps r s) : Keeps r (slewHostData l n key st data s) := by
  unfold slewHostData
  repeat' first
    | with_reducible first | assumption | apply tryIssue_keeps
    | split

end Sys2Proof.Machine
end

