-- ==== Sys2Proof/Laws/KeepsMeridian.lean ====
section
/-! SUPPORT. Meridian keep what every command keeps: one law for each function that gives a state. -/

namespace Sys2Proof.Machine

theorem transmit_keeps {r : State} (l : Nat) (f : Nat) (k : MPkt) {s : State} (h3 : Keeps r s) : Keeps r (transmit l f k s) := by
  unfold transmit
  extract_lets -underBinder y0
  try clear_value y0
  repeat' first
    | with_reducible first | assumption | apply keeps_ite | apply State.addFld_keeps | apply State.emit_keeps

theorem State.setFlow_keeps {r : State} {s : State} (l : Nat) (f : Nat) (x : Flow) (h0 : Keeps r s) : Keeps r (State.setFlow s l f x) := by
  unfold State.setFlow
  repeat' first
    | with_reducible first | assumption | intro _ | apply State.modLimb_keeps

theorem pumpFlow_keeps {r : State} (l : Nat) (f : Nat) (a2 : Nat) {a3 : State} : Keeps r a3 → Keeps r (pumpFlow l f a2 a3) := by
  fun_induction pumpFlow l f a2 a3 <;>
    repeat' first
      | with_reducible first | assumption | intro _ | apply keeps_ite | apply State.setFlow_keeps | apply transmit_keeps | apply_assumption -exfalso -symm

theorem pumpLimb_keeps {r : State} (l : Nat) {s : State} (h1 : Keeps r s) : Keeps r (pumpLimb l s) := by
  unfold pumpLimb
  repeat' first
    | with_reducible first | assumption | intro _ | apply keeps_foldl_triple | apply keeps_foldl_first | apply keeps_foldl_pair | apply keeps_foldl | apply pumpFlow_keeps

theorem moduleIdWrite_keeps {r : State} (v : Nat) {s : State} (h1 : Keeps r s) : Keeps r (moduleIdWrite v s) := by
  unfold moduleIdWrite
  repeat' first
    | with_reducible first | assumption | intro _ | apply keeps_forEach | apply State.setFld_keeps | apply pumpLimb_keeps

theorem portDown_keeps {r : State} (p : Nat) {s : State} (h1 : Keeps r s) : Keeps r (portDown p s) := by
  unfold portDown
  repeat' first
    | with_reducible first | assumption | apply keeps_ite | apply State.satFld_keeps | apply State.setFld_keeps

theorem setTime_keeps {r : State} (ns : Word) {s : State} (h1 : Keeps r s) : Keeps r (setTime ns s) := by
  unfold setTime
  repeat' first
    | with_reducible first | assumption | apply State.wr_keeps

theorem timeSet_keeps {r : State} (ns : Word) {s : State} (h1 : Keeps r s) : Keeps r (timeSet ns s) := by
  unfold timeSet
  repeat' first
    | with_reducible first | assumption | apply keeps_ite | apply State.satFld_keeps | apply setTime_keeps

theorem ppsUsed_keeps {r : State} {s : State} (h0 : Keeps r s) : Keeps r (ppsUsed s) := by
  unfold ppsUsed
  repeat' first
    | with_reducible first | assumption | apply State.setFld_keeps

theorem loseLock_keeps {r : State} {s : State} (h0 : Keeps r s) : Keeps r (loseLock s) := by
  unfold loseLock
  repeat' first
    | with_reducible first | assumption | apply keeps_ite | apply State.setFld_keeps | apply nlogEvent_keeps

theorem chrSyncWrite_keeps {r : State} (v : Word) {s : State} (h1 : Keeps r s) : Keeps r (chrSyncWrite v s) := by
  unfold chrSyncWrite
  extract_lets -underBinder y0
  have ky0 : Keeps r y0 := by
    repeat' first
      | with_reducible first | assumption | apply keeps_ite | apply loseLock_keeps | apply plainWrite_keeps | apply ppsUsed_keeps
  try clear_value y0
  repeat' first
    | with_reducible first | assumption | apply keeps_ite | apply loseLock_keeps

theorem cmdDrop_keeps {r : State} (l : Nat) {s : State} (h1 : Keeps r s) : Keeps r (cmdDrop l s) := by
  unfold cmdDrop
  repeat' first
    | with_reducible first | assumption | apply State.satFld_keeps

theorem State.setPlan_keeps {r : State} {s : State} (l : Nat) (n : Nat) (a3 : PlanRun) (h0 : Keeps r s) : Keeps r (State.setPlan s l n a3) := by
  unfold State.setPlan
  repeat' first
    | with_reducible assumption
    | dsimp only
    | with_reducible first | apply keeps_mk

theorem planEnd_keeps {r : State} (l : Nat) (n : Nat) (st : Nat) (m : Nat) {s : State} (h4 : Keeps r s) : Keeps r (planEnd l n st m s) := by
  unfold planEnd
  extract_lets -underBinder y0
  try clear_value y0
  repeat' first
    | with_reducible first | assumption | apply keeps_ite | apply State.setPlan_keeps

theorem sendData_keeps {r : State} (l : Nat) (f : Nat) (k : MPkt) {s : State} (h3 : Keeps r s) : Keeps r (sendData l f k s) := by
  unfold sendData
  extract_lets -underBinder y0
  try clear_value y0
  repeat' first
    | with_reducible first | assumption | apply keeps_ite | apply State.setFlow_keeps | apply pumpFlow_keeps

theorem sendAborts_keeps {r : State} (l : Nat) (n : Nat) (st : Nat) (m : Nat) (skip : Option Nat) {s : State} (h5 : Keeps r s) : Keeps r (sendAborts l n st m skip s) := by
  unfold sendAborts
  extract_lets -underBinder y0
  try clear_value y0
  repeat' first
    | with_reducible first | assumption | intro _ | apply keeps_ite | apply keeps_forEach | apply sendData_keeps

theorem planStop_keeps {r : State} (l : Nat) (n : Nat) (st : Nat) (m : Nat) {s : State} (h4 : Keeps r s) : Keeps r (planStop l n st m s) := by
  unfold planStop
  extract_lets -underBinder y0
  have ky0 : Keeps r y0 := by
    repeat' first
      | with_reducible first | assumption | apply keeps_ite | apply planEnd_keeps
  try clear_value y0
  repeat' first
    | with_reducible first | assumption | apply keeps_ite | apply planEnd_keeps | apply sendAborts_keeps

theorem planFail_keeps {r : State} (l : Nat) (n : Nat) (st : Nat) {s : State} (h3 : Keeps r s) : Keeps r (planFail l n st s) := by
  unfold planFail
  repeat' first
    | with_reducible first | assumption | apply planStop_keeps

theorem planRead_keeps {r : State} (l : Nat) (n : Nat) (a : Nat) (k : Nat) {s : State} (h4 : Keeps r s) : Keeps r (planRead l n a k s).2 := by
  unfold planRead
  extract_lets -underBinder y0
  have ky0 : Keeps r y0.2.2 := by
    try dsimp only [y0]
    repeat' first
      | with_reducible first | assumption | apply keeps_ite | apply modRead_keeps | apply planFail_keeps | refine keeps_of_pair ?_ (by assumption) | refine keeps_of_pair' ?_ (by assumption)
  try clear_value y0
  repeat' first
    | with_reducible first | assumption | apply keeps_ite | apply modRead_keeps | apply planFail_keeps | refine keeps_of_pair ?_ (by assumption) | refine keeps_of_pair' ?_ (by assumption)

theorem planWrite_keeps {r : State} (l : Nat) (n : Nat) (a : Nat) (bs : List Byte) {s : State} (h4 : Keeps r s) : Keeps r (planWrite l n a bs s) := by
  unfold planWrite
  extract_lets -underBinder y0 y1 y2
  have ky0 : Keeps r y0.2 := by
    try dsimp only [y0]
    repeat' first
      | with_reducible first | assumption | intro _ | apply keeps_ite | apply keeps_forEach | apply applyHint_keeps | apply modWrite_keeps | apply planFail_keeps | refine keeps_of_pair ?_ (by assumption)
  try clear_value y0
  have ky1 : Keeps r y1 := by
    repeat' first
      | with_reducible first | assumption | intro _ | apply keeps_ite | apply keeps_forEach | apply applyHint_keeps | apply modWrite_keeps | apply planFail_keeps | refine keeps_of_pair ?_ (by assumption)
  try clear_value y1
  try clear_value y2
  repeat' first
    | with_reducible first | assumption | intro _ | apply keeps_ite | apply keeps_forEach | apply applyHint_keeps | apply modWrite_keeps | apply planFail_keeps | refine keeps_of_pair ?_ (by assumption)

theorem copyOwn_keeps {r : State} (l : Nat) (n : Nat) (a2 : Nat) (a3 : Nat) (a4 : Nat) {a5 : State} : Keeps r a5 → Keeps r (copyOwn l n a2 a3 a4 a5) := by
  fun_induction copyOwn l n a2 a3 a4 a5 <;>
    repeat' first
      | with_reducible first | assumption | intro _ | apply keeps_ite | apply planRead_keeps | apply planWrite_keeps | refine keeps_of_pair ?_ (by assumption) | apply_assumption -exfalso -symm

theorem sendMember_keeps {r : State} (l : Nat) (n : Nat) (j : Nat) (kind : Nat) (addr : Nat) (body : List Byte) {s : State} (h6 : Keeps r s) : Keeps r (sendMember l n j kind addr body s) := by
  unfold sendMember
  extract_lets -underBinder y0 y1
  try clear_value y0
  try clear_value y1
  repeat' first
    | with_reducible first | assumption | apply keeps_ite | apply planFail_keeps | apply planStop_keeps | apply sendData_keeps

theorem sendCopy_keeps {r : State} (l : Nat) (n : Nat) (j : Nat) (a3 : Nat) (a4 : Nat) (a5 : Nat) {a6 : State} : Keeps r a6 → Keeps r (sendCopy l n j a3 a4 a5 a6) := by
  fun_induction sendCopy l n j a3 a4 a5 a6 <;>
    repeat' first
      | with_reducible first | assumption | intro _ | apply keeps_ite | apply planRead_keeps | apply sendMember_keeps | refine keeps_of_pair ?_ (by assumption) | apply_assumption -exfalso -symm

theorem setScalar_keeps {r : State} (sum : Nat) (origin : Nat) (nf : Bool) {s : State} (h3 : Keeps r s) : Keeps r (setScalar sum origin nf s) := by
  unfold setScalar
  extract_lets -underBinder y0 y1 y2
  have ky0 : Keeps r y0 := by
    repeat' first
      | with_reducible first | assumption | intro _ | apply keeps_forEach | apply State.setFld_keeps | apply State.wr_keeps
  try clear_value y0
  try clear_value y1
  have ky2 : Keeps r y2 := by
    repeat' first
      | with_reducible first | assumption | intro _ | apply keeps_forEach | apply State.setFld_keeps | apply State.wr_keeps
  try clear_value y2
  repeat' first
    | with_reducible first | assumption | intro _ | apply keeps_forEach | apply State.setFld_keeps

theorem treeDown_keeps {r : State} (l : Nat) (n : Nat) (k : Nat) {s : State} (h3 : Keeps r s) : Keeps r (treeDown l n k s) := by
  unfold treeDown
  extract_lets -underBinder y0 y1 y2 y3 y4 y5 y6 y7
  try clear_value y0
  try clear_value y1
  have ky2 : Keeps r y2 := by
    repeat' first
      | with_reducible first | assumption | intro _ | apply keeps_ite | apply keeps_forEach | apply State.setPlan_keeps
  try clear_value y2
  have ky3 : Keeps r y3 := by
    repeat' first
      | with_reducible first | assumption | intro _ | apply keeps_ite | apply keeps_forEach | apply State.setPlan_keeps | apply sendMember_keeps | apply setScalar_keeps
  try clear_value y3
  try clear_value y4
  try clear_value y5
  try clear_value y6
  have ky7 : Keeps r y7 := by
    repeat' first
      | with_reducible first | assumption | intro _ | apply keeps_ite | apply keeps_forEach | apply State.setPlan_keeps | apply sendMember_keeps | apply setScalar_keeps
      | dsimp only [y7]
      | split
      | dsimp only
      | with_reducible first | apply keeps_mk
  try clear_value y7
  repeat' first
    | with_reducible first | assumption | intro _ | apply keeps_ite | apply keeps_forEach | apply State.setPlan_keeps | apply sendMember_keeps

theorem treeGo_keeps {r : State} (l : Nat) (n : Nat) (k : Nat) {s : State} (h3 : Keeps r s) : Keeps r (treeGo l n k s) := by
  unfold treeGo
  extract_lets -underBinder y0 y1 y2 y3
  try clear_value y0
  try clear_value y1
  have ky2 : Keeps r y2 := by
    repeat' first
      | with_reducible first | assumption | intro _ | apply keeps_ite | apply keeps_forEach | apply State.setPlan_keeps
  try clear_value y2
  try clear_value y3
  repeat' first
    | with_reducible first | assumption | intro _ | apply keeps_ite | apply keeps_forEach | apply State.setPlan_keeps | apply sendMember_keeps | apply treeDown_keeps

theorem obsBegin_keeps {r : State} (l : Nat) (n : Nat) {s : State} (h2 : Keeps r s) : Keeps r (obsBegin l n s) := by
  unfold obsBegin
  extract_lets -underBinder y0 y1 y2
  try clear_value y0
  try clear_value y1
  try clear_value y2
  repeat' first
    | with_reducible first | assumption | apply keeps_ite | apply State.setPlan_keeps | apply treeGo_keeps

theorem planStart_keeps {r : State} (l : Nat) (n : Nat) (rtag : Nat) (lring : Nat) {s : State} (h4 : Keeps r s) : Keeps r (planStart l n rtag lring s) := by
  unfold planStart
  extract_lets -underBinder y0 y1 y2 y3
  try clear_value y0
  try clear_value y1
  have ky2 : Keeps r y2 := by
    repeat' first
      | with_reducible first | assumption | intro _ | apply keeps_ite | apply keeps_forEach | apply State.setPlan_keeps
  try clear_value y2
  try clear_value y3
  repeat' first
    | with_reducible first | assumption | intro _ | apply keeps_ite | apply keeps_forEach | apply State.setPlan_keeps | apply cmdDrop_keeps | apply copyOwn_keeps | apply obsBegin_keeps | apply sendCopy_keeps
    | split
    | dsimp only
    | with_reducible first | apply keeps_mk

theorem planCancel_keeps {r : State} (l : Nat) (n : Nat) {s : State} (h2 : Keeps r s) : Keeps r (planCancel l n s) := by
  unfold planCancel
  repeat' first
    | with_reducible first | assumption | apply planEnd_keeps

theorem mrdCmdWrite_keeps {r : State} (l : Nat) (lring : Nat) (v : Word) {s : State} (h3 : Keeps r s) : Keeps r (mrdCmdWrite l lring v s) := by
  unfold mrdCmdWrite
  repeat' first
    | with_reducible first | assumption | apply planCancel_keeps | apply planStart_keeps
    | split

theorem portEnableWrite_keeps {r : State} (p : Nat) (en : Bool) {s : State} (h2 : Keeps r s) : Keeps r (portEnableWrite p en s) := by
  unfold portEnableWrite
  extract_lets -underBinder y0
  have ky0 : Keeps r y0 := by
    repeat' first
      | with_reducible first | assumption | apply keeps_ite | apply State.setFld_keeps
  try clear_value y0
  repeat' first
    | with_reducible first | assumption | apply keeps_ite | apply State.setFld_keeps | apply portDown_keeps

theorem peerWrite_keeps {r : State} (l : Nat) (p : Nat) (w : Nat) (v : Word) {s : State} (h4 : Keeps r s) : Keeps r (peerWrite l p w v s) := by
  unfold peerWrite
  extract_lets -underBinder y0 y1 y2
  try clear_value y0
  try clear_value y1
  try clear_value y2
  repeat' first
    | with_reducible first | assumption | apply keeps_ite | apply State.wr_keeps

theorem flowWrite_keeps {r : State} (l : Nat) (f : Nat) (w : Nat) (v : Word) {s : State} (h4 : Keeps r s) : Keeps r (flowWrite l f w v s) := by
  unfold flowWrite
  extract_lets -underBinder y0 y1 y2 y3 y4
  try clear_value y0
  have ky1 : Keeps r y1 := by
    repeat' first
      | with_reducible first | assumption | intro _ | apply keeps_ite | apply State.modLimb_keeps | apply State.setFlow_keeps | apply State.wr_keeps
  try clear_value y1
  have ky2 : Keeps r y2 := by
    repeat' first
      | with_reducible first | assumption | intro _ | apply keeps_ite | apply State.modLimb_keeps | apply State.setFlow_keeps | apply State.wr_keeps
  try clear_value y2
  try clear_value y3
  try clear_value y4
  repeat' first
    | with_reducible first | assumption | intro _ | apply keeps_ite | apply State.modLimb_keeps | apply State.setFlow_keeps | apply State.wr_keeps | apply pumpLimb_keeps

theorem portCount_keeps {r : State} (p : Nat) (off : Nat) (high : Bool) {s : State} (h3 : Keeps r s) : Keeps r (portCount p off high s) := by
  unfold portCount
  repeat' first
    | with_reducible first | assumption | apply keeps_ite | apply State.satFld_keeps

theorem cntHdr_keeps {r : State} (p : Nat) {s : State} (h1 : Keeps r s) : Keeps r (cntHdr p s) := by
  unfold cntHdr
  repeat' first
    | with_reducible first | assumption | apply portCount_keeps

theorem badPacket_keeps {r : State} (l : Nat) (n : Nat) (port : Nat) {s : State} (h3 : Keeps r s) : Keeps r (badPacket l n port s) := by
  unfold badPacket
  repeat' first
    | with_reducible first | assumption | apply cntHdr_keeps | apply planFail_keeps

theorem blockFull_keeps {r : State} (l : Nat) (n : Nat) {s : State} (h2 : Keeps r s) : Keeps r (blockFull l n s) := by
  unfold blockFull
  extract_lets -underBinder y0
  try clear_value y0
  repeat' first
    | with_reducible first | assumption | apply State.setPlan_keeps

theorem overDrop_keeps {r : State} (l : Nat) (q : Nat) {s : State} (h2 : Keeps r s) : Keeps r (overDrop l q s) := by
  unfold overDrop
  repeat' first
    | with_reducible first | assumption | apply State.satFld_keeps | apply raise_keeps

theorem ownComplete_keeps {r : State} (l : Nat) (n : Nat) (b : Nat) (o : OwnBlk) {s : State} (h4 : Keeps r s) : Keeps r (ownComplete l n b o s) := by
  unfold ownComplete
  extract_lets -underBinder y0 y1 y2 y3 y4 y5 y6 y7
  try clear_value y0
  try clear_value y1
  try clear_value y2
  have ky3 : Keeps r y3 := by
    repeat' first
      | with_reducible first | assumption | intro _ | apply keeps_ite | apply keeps_foldl_triple | apply keeps_foldl_first | apply keeps_foldl_pair | apply keeps_foldl | apply State.setPlan_keeps | apply planWrite_keeps
  try clear_value y3
  try clear_value y4
  try clear_value y5
  try clear_value y6
  try clear_value y7
  repeat' first
    | with_reducible first | assumption | intro _ | apply keeps_ite | apply keeps_foldl_triple | apply keeps_foldl_first | apply keeps_foldl_pair | apply keeps_foldl | apply State.setPlan_keeps

theorem ownRecord_keeps {r : State} (l : Nat) (n : Nat) (b : Nat) (form : Nat) (mbc : Nat) (aux : Nat) (body : List Byte) {s : State} (h7 : Keeps r s) : Keeps r (ownRecord l n b form mbc aux body s) := by
  unfold ownRecord
  extract_lets -underBinder y0 y1 y2 y3 y4 y5 y6
  try clear_value y0
  try clear_value y1
  try clear_value y2
  have ky3 : Keeps r y3.2 := by
    try dsimp only [y3]
    repeat' first
      | with_reducible first | assumption | apply keeps_ite | apply ownComplete_keeps | apply planFail_keeps | apply planRead_keeps | apply planWrite_keeps | refine keeps_of_pair ?_ (by assumption)
  try clear_value y3
  try clear_value y4
  try clear_value y5
  have ky6 : Keeps r y6 := by
    repeat' first
      | with_reducible first | assumption | apply keeps_ite | apply ownComplete_keeps | apply planFail_keeps | apply planRead_keeps | apply planWrite_keeps | refine keeps_of_pair ?_ (by assumption)
  try clear_value y6
  repeat' first
    | with_reducible first | assumption | apply keeps_ite | apply ownComplete_keeps | apply planFail_keeps | apply planRead_keeps | apply planWrite_keeps | refine keeps_of_pair ?_ (by assumption)

theorem sendRecord_keeps {r : State} (l : Nat) (n : Nat) (b : Nat) (form : Nat) (mbc : Nat) (aux : Nat) (body : List Byte) {s : State} (h7 : Keeps r s) : Keeps r (sendRecord l n b form mbc aux body s) := by
  unfold sendRecord
  extract_lets -underBinder y0 y1
  try clear_value y0
  try clear_value y1
  repeat' first
    | with_reducible first | assumption | apply keeps_ite | apply ownRecord_keeps | apply sendMember_keeps

theorem sendPart_keeps {r : State} (l : Nat) (n : Nat) (b : Nat) (p : Part) {s : State} (h4 : Keeps r s) : Keeps r (sendPart l n b p s) := by
  unfold sendPart
  extract_lets -underBinder y0 y1 y2 y3 y4
  try clear_value y0
  try clear_value y1
  try clear_value y2
  try clear_value y3
  have ky4 : Keeps r y4 := by
    repeat' first
      | with_reducible first | assumption | intro _ | apply keeps_ite | apply keeps_foldl_triple | apply keeps_foldl_first | apply keeps_foldl_pair | apply keeps_foldl | apply codeUse_keeps | apply observe_keeps
  try clear_value y4
  repeat' first
    | with_reducible first | assumption | intro _ | apply keeps_ite | apply keeps_foldl_triple | apply keeps_foldl_first | apply keeps_foldl_pair | apply keeps_foldl | apply codeUse_keeps | apply observe_keeps | apply sendRecord_keeps

theorem contribute_keeps {r : State} (l : Nat) (q : Nat) (n : Nat) (b : Nat) (codes : List Nat) (scale : Nat) (nfm : Bool) (pbase : Nat) {s : State} (h8 : Keeps r s) : Keeps r (contribute l q n b codes scale nfm pbase s) := by
  unfold contribute
  extract_lets -underBinder y0 y1 y2 y3 y4 y5 y6 y7 y8 y9 y10 y11 y12 y13 y14 y15 y16 y17 y18 y19 y20 y21 y22
  try clear_value y0
  try clear_value y1
  try clear_value y2
  try clear_value y3
  try clear_value y4
  try clear_value y5
  try clear_value y6
  have ky7 : Keeps r y7 := by
    repeat' first
      | with_reducible first | assumption | apply keeps_ite | apply State.setPlan_keeps | apply blockFull_keeps | apply overDrop_keeps | apply planRead_keeps | apply planWrite_keeps | apply sendPart_keeps | apply sendRecord_keeps | refine keeps_of_pair ?_ (by assumption)
  try clear_value y7
  try clear_value y8
  try clear_value y9
  have ky10 : Keeps r y10.2 := by
    try dsimp only [y10]
    repeat' first
      | with_reducible first | assumption | apply keeps_ite | apply State.setPlan_keeps | apply blockFull_keeps | apply overDrop_keeps | apply planRead_keeps | apply planWrite_keeps | apply sendPart_keeps | apply sendRecord_keeps | refine keeps_of_pair ?_ (by assumption)
  try clear_value y10
  try clear_value y11
  try clear_value y12
  try clear_value y13
  try clear_value y14
  have ky15 : Keeps r y15 := by
    repeat' first
      | with_reducible first | assumption | apply keeps_ite | apply State.setPlan_keeps | apply blockFull_keeps | apply overDrop_keeps | apply planRead_keeps | apply planWrite_keeps | apply sendPart_keeps | apply sendRecord_keeps | refine keeps_of_pair ?_ (by assumption)
  try clear_value y15
  try clear_value y16
  have ky17 : Keeps r y17 := by
    repeat' first
      | with_reducible first | assumption | apply keeps_ite | apply State.setPlan_keeps | apply blockFull_keeps | apply overDrop_keeps | apply planRead_keeps | apply planWrite_keeps | apply sendPart_keeps | apply sendRecord_keeps | refine keeps_of_pair ?_ (by assumption)
  try clear_value y17
  try clear_value y18
  have ky19 : Keeps r y19.2 := by
    try dsimp only [y19]
    repeat' first
      | with_reducible first | assumption | apply keeps_ite | apply State.setPlan_keeps | apply blockFull_keeps | apply overDrop_keeps | apply planRead_keeps | apply planWrite_keeps | apply sendPart_keeps | apply sendRecord_keeps | refine keeps_of_pair ?_ (by assumption)
      | dsimp only [y19]
      | split
  try clear_value y19
  try clear_value y20
  have ky21 : Keeps r y21 := by
    repeat' first
      | with_reducible first | assumption | apply keeps_ite | apply State.setPlan_keeps | apply blockFull_keeps | apply overDrop_keeps | apply planRead_keeps | apply planWrite_keeps | apply sendPart_keeps | apply sendRecord_keeps | refine keeps_of_pair ?_ (by assumption)
  try clear_value y21
  have ky22 : Keeps r y22 := by
    repeat' first
      | with_reducible first | assumption | apply keeps_ite | apply State.setPlan_keeps | apply blockFull_keeps | apply overDrop_keeps | apply planRead_keeps | apply planWrite_keeps | apply sendPart_keeps | apply sendRecord_keeps | refine keeps_of_pair ?_ (by assumption)
  try clear_value y22
  repeat' first
    | with_reducible first | assumption | apply keeps_ite | apply State.setPlan_keeps | apply blockFull_keeps | apply overDrop_keeps | apply planRead_keeps | apply planWrite_keeps | apply sendPart_keeps | apply sendRecord_keeps | refine keeps_of_pair ?_ (by assumption)

theorem cntStale_keeps {r : State} (p : Nat) {s : State} (h1 : Keeps r s) : Keeps r (cntStale p s) := by
  unfold cntStale
  repeat' first
    | with_reducible first | assumption | apply portCount_keeps

theorem touchPeer_keeps {r : State} (p : Nat) {s : State} (h1 : Keeps r s) : Keeps r (touchPeer p s) := by
  unfold touchPeer
  repeat' first
    | with_reducible first | assumption | intro _ | apply keeps_forEach | apply State.wr_keeps

theorem takeRx_keeps {r : State} (l : Nat) (typ : Nat) {s : State} (h2 : Keeps r s) : Keeps r (takeRx l typ s).2 := by
  unfold takeRx
  repeat' first
    | with_reducible first | assumption | intro _ | apply keeps_ite | apply State.modLimb_keeps | apply cntHdr_keeps | apply cntStale_keeps | apply portCount_keeps | apply touchPeer_keeps
    | split
    | dsimp only

theorem cntOow_keeps {r : State} (p : Nat) {s : State} (h1 : Keeps r s) : Keeps r (cntOow p s) := by
  unfold cntOow
  repeat' first
    | with_reducible first | assumption | apply portCount_keeps

theorem takeAck_keeps {r : State} (l : Nat) (f : Nat) (port : Nat) (ackseq : Nat) (sack : Nat) {s : State} (h5 : Keeps r s) : Keeps r (takeAck l f port ackseq sack s) := by
  unfold takeAck
  extract_lets -underBinder y0 y1 y2
  try clear_value y0
  try clear_value y1
  try clear_value y2
  repeat' first
    | with_reducible first | assumption | apply keeps_ite | apply State.setFlow_keeps | apply cntOow_keeps | apply pumpFlow_keeps | apply pumpLimb_keeps

theorem sendAck_keeps {r : State} (l : Nat) (f : Nat) {s : State} (h2 : Keeps r s) : Keeps r (sendAck l f s) := by
  unfold sendAck
  extract_lets -underBinder y0 y1
  try clear_value y0
  try clear_value y1
  repeat' first
    | with_reducible first | assumption | apply keeps_ite | apply State.setFlow_keeps | apply transmit_keeps

theorem partialRecords_keeps {r : State} (l : Nat) (n : Nat) (port : Nat) (a3 : Nat) (a4 : List Byte) {a5 : State} : Keeps r a5 → Keeps r (partialRecords l n port a3 a4 a5) := by
  fun_induction partialRecords l n port a3 a4 a5 <;>
    repeat' first
      | with_reducible first | assumption | intro _ | apply keeps_ite | apply State.setPlan_keeps | apply badPacket_keeps | apply ownRecord_keeps | apply_assumption -exfalso -symm

theorem planPacket_keeps {r : State} (l : Nat) (n : Nat) (port : Nat) (k : MPkt) {s : State} (h4 : Keeps r s) : Keeps r (planPacket l n port k s) := by
  unfold planPacket
  extract_lets -underBinder y0 y1 y2 y3 y4 y5 y6
  try clear_value y0
  try clear_value y1
  have ky2 : Keeps r y2 := by
    repeat' first
      | with_reducible first | assumption | apply keeps_ite | apply State.setPlan_keeps
  try clear_value y2
  try clear_value y3
  try clear_value y4
  try clear_value y5
  try clear_value y6
  repeat' first
    | with_reducible first | assumption | apply keeps_ite | apply State.setPlan_keeps | apply badPacket_keeps | apply partialRecords_keeps | apply planEnd_keeps | apply planWrite_keeps | apply sendAborts_keeps | apply treeDown_keeps | apply treeGo_keeps
    | split

theorem takeData_keeps {r : State} (l : Nat) {s : State} (h1 : Keeps r s) : Keeps r (takeData l s) := by
  unfold takeData
  extract_lets -underBinder y0
  have ky0 : Keeps r y0.2 := by
    try dsimp only [y0]
    repeat' first
      | with_reducible first | assumption | apply keeps_ite | apply State.setFlow_keeps | apply State.setPlan_keeps | apply cntOow_keeps | apply cntStale_keeps | apply planPacket_keeps | apply portCount_keeps | apply raise_keeps | apply sendAck_keeps | apply takeAck_keeps | apply takeRx_keeps | refine keeps_of_pair ?_ (by assumption)
  try clear_value y0
  repeat' first
    | with_reducible first | assumption | apply keeps_ite | apply State.setFlow_keeps | apply State.setPlan_keeps | apply cntOow_keeps | apply cntStale_keeps | apply planPacket_keeps | apply portCount_keeps | apply raise_keeps | apply sendAck_keeps | apply takeAck_keeps | apply takeRx_keeps | refine keeps_of_pair ?_ (by assumption)
    | split

theorem execData_keeps {r : State} (l : LimbId) {s : State} (h1 : Keeps r s) : KeepsR r (execData l s) := by
  unfold execData
  repeat' first
    | with_reducible first | assumption | intro _ | apply keepsR_next | apply takeData_keeps | apply withReads_keeps

theorem execGradientVectorClose_keeps {r : State} {s : State} (h0 : Keeps r s) : KeepsR r (execGradientVectorClose s) := by
  unfold execGradientVectorClose
  extract_lets -underBinder y0
  try clear_value y0
  repeat' first
    | with_reducible first | assumption | intro _ | apply keepsR_next | apply keeps_ite | apply keeps_foldl_triple | apply keeps_foldl_first | apply keeps_foldl_pair | apply keeps_foldl | apply modSpanEnd_keeps | apply modSpan_keeps | apply obsBegin_keeps
    | split
    | dsimp only
    | with_reducible first | apply keeps_mk

theorem qDrop_keeps {r : State} (l : Nat) (q : Nat) {s : State} (h2 : Keeps r s) : Keeps r (qDrop l q s) := by
  unfold qDrop
  repeat' first
    | with_reducible first | assumption | apply State.satFld_keeps | apply raise_keeps

theorem obsPairs_keeps {r : State} (l : Nat) (ws : List Word) {s : State} (h2 : Keeps r s) : Keeps r (obsPairs l ws s) := by
  unfold obsPairs
  extract_lets -underBinder y0 y1 y2 y3 y4
  try clear_value y0
  try clear_value y1
  try clear_value y2
  try clear_value y3
  have ky4 : Keeps r y4 := by
    repeat' first
      | with_reducible first | assumption | intro _ | apply keeps_foldl_triple | apply keeps_foldl_first | apply keeps_foldl_pair | apply keeps_foldl | apply clampReport_keeps | apply observe_keeps | refine keeps_of_pair ?_ (by assumption)
  try clear_value y4
  repeat' first
    | with_reducible first | assumption | intro _ | apply keeps_foldl_triple | apply keeps_foldl_first | apply keeps_foldl_pair | apply keeps_foldl | apply clampReport_keeps | apply observe_keeps | refine keeps_of_pair ?_ (by assumption)

theorem queueRecords_keeps {r : State} (l : Nat) (q : Nat) (a2 : Nat) (a3 : List Word) {a4 : State} : Keeps r a4 → Keeps r (queueRecords l q a2 a3 a4) := by
  fun_induction queueRecords l q a2 a3 a4 <;>
    repeat' first
      | with_reducible first | assumption | intro _ | apply keeps_ite | apply keeps_forEach | apply contribute_keeps | apply qDrop_keeps | apply_assumption -exfalso -symm

theorem queuePacket_keeps {r : State} (l : Nat) (p : Packet) {s : State} (h2 : Keeps r s) : Keeps r (queuePacket l p s) := by
  unfold queuePacket
  extract_lets -underBinder y0 y1 y2 y3 y4 y5
  try clear_value y0
  try clear_value y1
  try clear_value y2
  try clear_value y3
  have ky4 : Keeps r y4 := by
    repeat' first
      | with_reducible first | assumption | intro _ | apply keeps_ite | apply State.modLimb_keeps
  try clear_value y4
  try clear_value y5
  repeat' first
    | with_reducible first | assumption | intro _ | apply keeps_ite | apply State.modLimb_keeps | apply obsPairs_keeps | apply qDrop_keeps | apply queueRecords_keeps

theorem execLsend_keeps {r : State} (p : Packet) {s : State} (h1 : Keeps r s) : KeepsR r (execLsend p s) := by
  unfold execLsend
  extract_lets -underBinder y0 y1
  try clear_value y0
  have ky1 : Keeps r y1 := by
    repeat' first
      | with_reducible first | assumption | intro _ | apply keeps_ite | apply State.taken_keeps
  try clear_value y1
  repeat' first
    | with_reducible first | assumption | intro _ | apply keepsR_next | apply keeps_ite | apply State.taken_keeps | apply onRoute_keeps | apply pushLines_keeps | apply queuePacket_keeps | apply withReads_keeps
    | split

theorem execPeerAbsent_keeps {r : State} (peer : Nat) {s : State} (h1 : Keeps r s) : KeepsR r (execPeerAbsent peer s) := by
  unfold execPeerAbsent
  extract_lets -underBinder y0 y1 y2 y3 y4 y5 y6
  try clear_value y0
  try clear_value y1
  try clear_value y2
  have ky3 : Keeps r y3 := by
    repeat' first
      | with_reducible first | assumption | intro _ | apply keeps_ite | apply keeps_forEach | apply keeps_foldl_triple | apply keeps_foldl_first | apply keeps_foldl_pair | apply keeps_foldl | apply State.setFld_keeps
  try clear_value y3
  have ky4 : Keeps r y4 := by
    repeat' first
      | with_reducible first | assumption | intro _ | apply keeps_ite | apply keeps_forEach | apply keeps_foldl_triple | apply keeps_foldl_first | apply keeps_foldl_pair | apply keeps_foldl | apply State.setFld_keeps | apply State.setFlow_keeps
  try clear_value y4
  try clear_value y5
  have ky6 : Keeps r y6 := by
    repeat' first
      | with_reducible first | assumption | intro _ | apply keeps_ite | apply keeps_forEach | apply keeps_foldl_triple | apply keeps_foldl_first | apply keeps_foldl_pair | apply keeps_foldl | apply State.setFld_keeps | apply State.setFlow_keeps | apply nlogEvent_keeps | apply planStop_keeps
  try clear_value y6
  repeat' first
    | with_reducible first | assumption | intro _ | apply keepsR_next | apply keeps_ite | apply keeps_forEach | apply keeps_foldl_triple | apply keeps_foldl_first | apply keeps_foldl_pair | apply keeps_foldl | apply State.setFld_keeps | apply State.setFlow_keeps | apply nlogEvent_keeps | apply planStop_keeps
    | split

theorem execPlanCancel_keeps {r : State} (l : LimbId) (plan : Nat) {s : State} (h2 : Keeps r s) : KeepsR r (execPlanCancel l plan s) := by
  unfold execPlanCancel
  repeat' first
    | with_reducible first | assumption | apply keepsR_next | apply planCancel_keeps

theorem planComplete_keeps {r : State} (l : Nat) (n : Nat) (st : Nat) (m : Nat) {s : State} (h4 : Keeps r s) : Keeps r (planComplete l n st m s) := by
  unfold planComplete
  extract_lets -underBinder y0 y1 y2 y3 y4
  try clear_value y0
  try clear_value y1
  try clear_value y2
  have ky3 : Keeps r y3 := by
    repeat' first
      | with_reducible first | assumption | apply keeps_ite | apply State.setFld_keeps | apply State.setPlan_keeps | apply modSpanEnd_keeps | apply post_keeps
  try clear_value y3
  have ky4 : Keeps r y4 := by
    repeat' first
      | with_reducible first | assumption | apply keeps_ite | apply State.setFld_keeps | apply State.setPlan_keeps | apply modSpanEnd_keeps | apply post_keeps | apply raise_keeps
      | dsimp only [y4]
      | split
      | dsimp only
      | with_reducible first | apply keeps_mk
  try clear_value y4
  repeat' first
    | with_reducible first | assumption | apply keeps_ite | apply State.setFld_keeps | apply State.setPlan_keeps | apply modSpanEnd_keeps | apply post_keeps | apply raise_keeps

theorem execPlanRunComplete_keeps {r : State} (l : LimbId) (plan : Nat) {s : State} (h2 : Keeps r s) : KeepsR r (execPlanRunComplete l plan s) := by
  unfold execPlanRunComplete
  extract_lets -underBinder y0
  try clear_value y0
  repeat' first
    | with_reducible first | assumption | apply keepsR_next | apply keeps_ite | apply planComplete_keeps
    | split

theorem execResponseBoundExceeded_keeps {r : State} (l : LimbId) (plan : Nat) {s : State} (h2 : Keeps r s) : KeepsR r (execResponseBoundExceeded l plan s) := by
  unfold execResponseBoundExceeded
  extract_lets -underBinder y0
  try clear_value y0
  repeat' first
    | with_reducible first | assumption | apply keepsR_next | apply keeps_ite | apply State.setPlan_keeps | apply raise_keeps
    | split

theorem execStart_keeps {r : State} (l : LimbId) (plan : Nat) (rtag : Nat) {s : State} (h3 : Keeps r s) : KeepsR r (execStart l plan rtag s) := by
  unfold execStart
  repeat' first
    | with_reducible first | assumption | intro _ | apply keepsR_next | apply planStart_keeps | apply withReads_keeps

theorem scalarFail_keeps {r : State} (l : Nat) (n : Nat) (st : Nat) (m : Nat) {s : State} (h4 : Keeps r s) : Keeps r (scalarFail l n st m s) := by
  unfold scalarFail
  repeat' first
    | with_reducible first | assumption | apply planEnd_keeps | apply sendAborts_keeps

theorem execStepScalarBegin_keeps {r : State} (l : LimbId) (plan : Nat) {s : State} (h2 : Keeps r s) : KeepsR r (execStepScalarBegin l plan s) := by
  unfold execStepScalarBegin
  extract_lets -underBinder y0 y1
  try clear_value y0
  try clear_value y1
  repeat' first
    | with_reducible first | assumption | intro _ | apply keepsR_next | apply keeps_ite | apply keeps_foldl_triple | apply keeps_foldl_first | apply keeps_foldl_pair | apply keeps_foldl | apply State.setPlan_keeps | apply scalarFail_keeps | apply treeGo_keeps
    | split

theorem execUpdateVectorClose_keeps {r : State} {s : State} (h0 : Keeps r s) : KeepsR r (execUpdateVectorClose s) := by
  unfold execUpdateVectorClose
  extract_lets -underBinder y0
  try clear_value y0
  repeat' first
    | with_reducible first | assumption | intro _ | apply keepsR_next | apply keeps_ite | apply keeps_foldl_triple | apply keeps_foldl_first | apply keeps_foldl_pair | apply keeps_foldl | apply obsBegin_keeps
    | split
    | dsimp only
    | with_reducible first | apply keeps_mk

theorem servoRate_keeps {r : State} (o : Int) (integ : Int) {s : State} (h2 : Keeps r s) : Keeps r (servoRate o integ s).2 := by
  unfold servoRate
  extract_lets -underBinder y0 y1
  try clear_value y0
  have ky1 : Keeps r y1.2 := by
    try dsimp only [y1]
    repeat' first
      | with_reducible first | assumption | apply keeps_ite | apply State.draw_keeps | refine keeps_of_pair ?_ (by assumption)
  try clear_value y1
  repeat' first
    | with_reducible first | assumption | apply keeps_ite | apply State.draw_keeps | refine keeps_of_pair ?_ (by assumption)
    | split

theorem lockStep_keeps {r : State} (o : Int) {s : State} (h1 : Keeps r s) : Keeps r (lockStep o s) := by
  unfold lockStep
  extract_lets -underBinder y0 y1 y2
  try clear_value y0
  try clear_value y1
  have ky2 : Keeps r y2 := by
    repeat' first
      | with_reducible first | assumption | apply keeps_ite | apply State.setFld_keeps | apply loseLock_keeps | apply nlogEvent_keeps
      | dsimp only [y2]
      | split
      | dsimp only
      | with_reducible first | apply keeps_mk
  try clear_value y2
  repeat' first
    | with_reducible first | assumption | apply keeps_ite | apply State.setFld_keeps | apply loseLock_keeps | apply nlogEvent_keeps

theorem measure_keeps {r : State} (stepM : Bool) (phaseM : Bool) (o : Int) {s : State} (h3 : Keeps r s) : Keeps r (measure stepM phaseM o s) := by
  unfold measure
  extract_lets -underBinder y0 y1 y2 y3 y4 y5 y6 y7 y8 y9 y10 y11
  try clear_value y0
  have ky1 : Keeps r y1 := by
    repeat' first
      | with_reducible first | assumption | apply keeps_ite | apply State.setFld_keeps | apply lockStep_keeps | apply nlogEvent_keeps | apply servoRate_keeps | apply setTime_keeps | refine keeps_of_pair ?_ (by assumption)
  try clear_value y1
  try clear_value y2
  have ky3 : ∀ x0, Keeps r x0 → Keeps r (y3 x0) := by
    intro x0 zx0
    dsimp only [y3]
    repeat' first
      | with_reducible first | assumption | apply keeps_ite | apply State.setFld_keeps | apply lockStep_keeps | apply nlogEvent_keeps | apply servoRate_keeps | apply setTime_keeps | refine keeps_of_pair ?_ (by assumption)
      | split
      | dsimp only
      | with_reducible first | apply keeps_mk
  try clear_value y3
  try clear_value y4
  have ky5 : Keeps r y5 := by
    repeat' first
      | with_reducible first | assumption | apply keeps_ite | apply State.setFld_keeps | apply lockStep_keeps | apply nlogEvent_keeps | apply servoRate_keeps | apply setTime_keeps | refine keeps_of_pair ?_ (by assumption) | apply ky3
      | dsimp only [y5]
      | split
      | dsimp only
      | with_reducible first | apply keeps_mk
  try clear_value y5
  have ky6 : Keeps r y6 := by
    repeat' first
      | with_reducible first | assumption | apply keeps_ite | apply State.setFld_keeps | apply lockStep_keeps | apply nlogEvent_keeps | apply servoRate_keeps | apply setTime_keeps | refine keeps_of_pair ?_ (by assumption) | apply ky3
  try clear_value y6
  try clear_value y7
  have ky8 : Keeps r y8.2 := by
    try dsimp only [y8]
    repeat' first
      | with_reducible first | assumption | apply keeps_ite | apply State.setFld_keeps | apply lockStep_keeps | apply nlogEvent_keeps | apply servoRate_keeps | apply setTime_keeps | refine keeps_of_pair ?_ (by assumption) | apply ky3
  try clear_value y8
  have ky9 : Keeps r y9 := by
    repeat' first
      | with_reducible first | assumption | apply keeps_ite | apply State.setFld_keeps | apply lockStep_keeps | apply nlogEvent_keeps | apply servoRate_keeps | apply setTime_keeps | refine keeps_of_pair ?_ (by assumption) | apply ky3
  try clear_value y9
  try clear_value y10
  have ky11 : Keeps r y11 := by
    repeat' first
      | with_reducible first | assumption | apply keeps_ite | apply State.setFld_keeps | apply lockStep_keeps | apply nlogEvent_keeps | apply servoRate_keeps | apply setTime_keeps | refine keeps_of_pair ?_ (by assumption) | apply ky3
      | dsimp only [y11]
      | split
      | dsimp only
      | with_reducible first | apply keeps_mk
  try clear_value y11
  repeat' first
    | with_reducible first | assumption | apply keeps_ite | apply State.setFld_keeps | apply lockStep_keeps | apply nlogEvent_keeps | apply servoRate_keeps | apply setTime_keeps | refine keeps_of_pair ?_ (by assumption) | apply ky3

theorem execSync1ppsEdge_keeps {r : State} {s : State} (h0 : Keeps r s) : KeepsR r (execSync1ppsEdge s) := by
  unfold execSync1ppsEdge
  extract_lets -underBinder y0 y1 y2 y3
  have ky0 : Keeps r y0 := by
    repeat' first
      | with_reducible first | assumption | apply keeps_ite | apply State.setFld_keeps | apply measure_keeps | apply nlogEvent_keeps
  try clear_value y0
  try clear_value y1
  have ky2 : Keeps r y2 := by
    repeat' first
      | with_reducible first | assumption | apply keeps_ite | apply State.setFld_keeps | apply measure_keeps | apply nlogEvent_keeps | apply ppsUsed_keeps
      | dsimp only [y2]
      | split
      | dsimp only
      | with_reducible first | apply keeps_mk
  try clear_value y2
  try clear_value y3
  repeat' first
    | with_reducible first | assumption | apply keepsR_next | apply keeps_ite | apply State.setFld_keeps | apply measure_keeps | apply nlogEvent_keeps | apply ppsUsed_keeps
    | split

theorem execSync1ppsIgnored_keeps {r : State} {s : State} (h0 : Keeps r s) : KeepsR r (execSync1ppsIgnored s) := by
  unfold execSync1ppsIgnored
  repeat' first
    | with_reducible first | assumption | apply keepsR_next | apply keeps_ite | apply State.satFld_keeps
    | split

theorem execPpsAbsent_keeps {r : State} {s : State} (h0 : Keeps r s) : KeepsR r (execPpsAbsent s) := by
  unfold execPpsAbsent
  extract_lets -underBinder y0
  try clear_value y0
  repeat' first
    | with_reducible first | assumption | apply keepsR_next | apply keeps_ite | apply State.setFld_keeps | apply nlogEvent_keeps | apply ppsUsed_keeps
    | split

theorem cntOther_keeps {r : State} (p : Nat) {s : State} (h1 : Keeps r s) : Keeps r (cntOther p s) := by
  unfold cntOther
  repeat' first
    | with_reducible first | assumption | apply portCount_keeps

theorem execFrameReceive_keeps {r : State} (port : PortId) (fr : Frame) {s : State} (h2 : Keeps r s) : KeepsR r (execFrameReceive port fr s) := by
  unfold execFrameReceive
  extract_lets -underBinder y0 y1 y2 y3 y4 y5
  try clear_value y0
  try clear_value y1
  have ky2 : Keeps r y2 := by
    repeat' first
      | with_reducible first | assumption | intro _ | apply keeps_ite | apply State.addFld_keeps
  try clear_value y2
  try clear_value y3
  try clear_value y4
  have ky5 : Keeps r y5 := by
    repeat' first
      | with_reducible first | assumption | intro _ | apply keeps_ite | apply State.addFld_keeps | apply State.modLimb_keeps | apply cntHdr_keeps | apply cntOther_keeps | apply portCount_keeps
  try clear_value y5
  repeat' first
    | with_reducible first | assumption | intro _ | apply keepsR_next | apply keeps_ite | apply State.addFld_keeps | apply State.modLimb_keeps | apply cntHdr_keeps | apply cntOther_keeps | apply portCount_keeps
    | split

theorem execAck_keeps {r : State} (l : LimbId) {s : State} (h1 : Keeps r s) : KeepsR r (execAck l s) := by
  unfold execAck
  extract_lets -underBinder y0
  have ky0 : Keeps r y0.2 := by
    try dsimp only [y0]
    repeat' first
      | with_reducible first | assumption | apply keeps_ite | apply takeAck_keeps | apply takeRx_keeps | refine keeps_of_pair ?_ (by assumption)
  try clear_value y0
  repeat' first
    | with_reducible first | assumption | apply keepsR_next | apply keeps_ite | apply takeAck_keeps | apply takeRx_keeps | refine keeps_of_pair ?_ (by assumption)
    | split

theorem execRoll_keeps {r : State} (l : LimbId) {s : State} (h1 : Keeps r s) : KeepsR r (execRoll l s) := by
  unfold execRoll
  repeat' first
    | with_reducible first | assumption | apply keepsR_next | apply takeRx_keeps | refine keeps_of_pair ?_ (by assumption)

theorem execAckSend_keeps {r : State} (l : LimbId) (flow : Nat) {s : State} (h2 : Keeps r s) : KeepsR r (execAckSend l flow s) := by
  unfold execAckSend
  repeat' first
    | with_reducible first | assumption | apply keepsR_next | apply keeps_ite | apply sendAck_keeps
    | split

theorem execResend_keeps {r : State} (l : LimbId) (flow : Nat) (seq : Nat) {s : State} (h3 : Keeps r s) : KeepsR r (execResend l flow seq s) := by
  unfold execResend
  extract_lets -underBinder y0
  try clear_value y0
  repeat' first
    | with_reducible first | assumption | apply keepsR_next | apply keeps_ite | apply State.setFlow_keeps | apply portCount_keeps | apply raise_keeps | apply transmit_keeps
    | split

theorem execRollCallSend_keeps {r : State} (l : LimbId) {s : State} (h1 : Keeps r s) : KeepsR r (execRollCallSend l s) := by
  unfold execRollCallSend
  repeat' first
    | with_reducible first | assumption | intro _ | apply keepsR_next | apply keeps_forEach | apply transmit_keeps

theorem execFlowTableWrite_keeps {r : State} (l : LimbId) (flow : Nat) (word : Nat) (value : Word) {s : State} (h4 : Keeps r s) : KeepsR r (execFlowTableWrite l flow word value s) := by
  unfold execFlowTableWrite
  repeat' first
    | with_reducible first | assumption | apply keepsR_next | apply flowWrite_keeps

theorem execPeerTableWrite_keeps {r : State} (l : LimbId) (peer : Nat) (word : Nat) (value : Word) {s : State} (h4 : Keeps r s) : KeepsR r (execPeerTableWrite l peer word value s) := by
  unfold execPeerTableWrite
  repeat' first
    | with_reducible first | assumption | apply keepsR_next | apply peerWrite_keeps

theorem execModuleIdWrite_keeps {r : State} (value : Nat) {s : State} (h1 : Keeps r s) : KeepsR r (execModuleIdWrite value s) := by
  unfold execModuleIdWrite
  repeat' first
    | with_reducible first | assumption | apply keepsR_next | apply moduleIdWrite_keeps

theorem execPortEnable_keeps {r : State} (port : PortId) (en : Bool) {s : State} (h2 : Keeps r s) : KeepsR r (execPortEnable port en s) := by
  unfold execPortEnable
  repeat' first
    | with_reducible first | assumption | apply keepsR_next | apply portEnableWrite_keeps

theorem execPtpSync_keeps {r : State} (port : PortId) (t1 : Int) (t2 : Int) (correction : Int) {s : State} (h4 : Keeps r s) : KeepsR r (execPtpSync port t1 t2 correction s) := by
  unfold execPtpSync
  extract_lets -underBinder y0 y1 y2 y3
  try clear_value y0
  try clear_value y1
  have ky2 : Keeps r y2 := by
    repeat' first
      | with_reducible first | assumption | apply keeps_ite | apply measure_keeps
      | dsimp only [y2]
      | split
      | dsimp only
      | with_reducible first | apply keeps_mk
  try clear_value y2
  try clear_value y3
  repeat' first
    | with_reducible first | assumption | apply keepsR_next | apply keeps_ite | apply measure_keeps
    | split

theorem execPdelayReq_keeps {r : State} (port : PortId) {s : State} (h1 : Keeps r s) : KeepsR r (execPdelayReq port s) := by
  unfold execPdelayReq
  repeat' first
    | with_reducible first | assumption | apply keepsR_next | apply keeps_ite | apply State.emit_keeps
    | split

theorem execDelayResp_keeps {r : State} (port : PortId) (t4 : Int) (correction : Int) (logInterval : Int) {s : State} (h4 : Keeps r s) : KeepsR r (execDelayResp port t4 correction logInterval s) := by
  unfold execDelayResp
  repeat' first
    | with_reducible first | assumption | apply keepsR_next | apply keeps_ite
    | split
    | dsimp only
    | with_reducible first | apply keeps_mk

theorem execDelayReqSend_keeps {r : State} (port : PortId) {s : State} (h1 : Keeps r s) : KeepsR r (execDelayReqSend port s) := by
  unfold execDelayReqSend
  extract_lets -underBinder y0 y1 y2
  try clear_value y0
  try clear_value y1
  try clear_value y2
  repeat' first
    | with_reducible first | assumption | apply keepsR_next | apply keeps_ite | apply State.emit_keeps
    | split
    | dsimp only
    | with_reducible first | apply keeps_mk

theorem execAnnounce_keeps {r : State} (port : PortId) {s : State} (h1 : Keeps r s) : KeepsR r (execAnnounce port s) := by
  unfold execAnnounce
  extract_lets -underBinder y0
  try clear_value y0
  repeat' first
    | with_reducible first | assumption | apply keepsR_next | apply keeps_ite
    | split
    | dsimp only
    | with_reducible first | apply keeps_mk

theorem execSiderealBroadcast_keeps {r : State} {s : State} (h0 : Keeps r s) : KeepsR r (execSiderealBroadcast s) := by
  unfold execSiderealBroadcast
  extract_lets -underBinder y0
  try clear_value y0
  repeat' first
    | with_reducible first | assumption | apply keepsR_next | apply keeps_ite
    | split
    | dsimp only
    | with_reducible first | apply keeps_mk

theorem execChrTimeSet_keeps {r : State} (ns : Word) {s : State} (h1 : Keeps r s) : KeepsR r (execChrTimeSet ns s) := by
  unfold execChrTimeSet
  repeat' first
    | with_reducible first | assumption | apply keepsR_next | apply timeSet_keeps

theorem execLockLostTimeout_keeps {r : State} {s : State} (h0 : Keeps r s) : KeepsR r (execLockLostTimeout s) := by
  unfold execLockLostTimeout
  extract_lets -underBinder y0
  try clear_value y0
  repeat' first
    | with_reducible first | assumption | apply keepsR_next | apply keeps_ite | apply loseLock_keeps

theorem execPortLinkChange_keeps {r : State} (port : PortId) (up : Bool) {s : State} (h2 : Keeps r s) : KeepsR r (execPortLinkChange port up s) := by
  unfold execPortLinkChange
  extract_lets -underBinder y0
  try clear_value y0
  repeat' first
    | with_reducible first | assumption | apply keepsR_next | apply keeps_ite | apply State.setFld_keeps | apply portDown_keeps | apply pumpLimb_keeps
    | split

theorem tickTime_keeps {r : State} {s : State} (h0 : Keeps r s) : Keeps r (tickTime s) := by
  unfold tickTime
  extract_lets -underBinder y0 y1
  try clear_value y0
  try clear_value y1
  repeat' first
    | with_reducible first | assumption | apply setTime_keeps
    | dsimp only
    | with_reducible first | apply keeps_mk

end Sys2Proof.Machine
end

