-- ==== Sys2Proof/Laws/KeepsPower.lean ====
section
/-! SUPPORT. Power keep what every command keeps: one law for each function that gives a state. -/

namespace Sys2Proof.Machine

theorem State.modPwr_keeps {r : State} {s : State} (f : Power → Power) (h0 : Keeps r s) : Keeps r (State.modPwr s f) := by
  unfold State.modPwr
  repeat' first
    | with_reducible assumption
    | dsimp only
    | with_reducible first | apply keeps_mk

theorem setDom_keeps {r : State} (d : Nat) (v : Nat) {s : State} (h2 : Keeps r s) : Keeps r (setDom d v s) := by
  unfold setDom
  repeat' first
    | with_reducible first | assumption | intro _ | apply keeps_ite | apply State.modPwr_keeps | apply State.setFld_keeps

theorem regsReset_keeps {r : State} (a : Nat) (b : Nat) {s : State} (h2 : Keeps r s) : Keeps r (regsReset a b s) := by
  unfold regsReset
  repeat' first
    | with_reducible assumption
    | dsimp only
    | with_reducible first | refine keeps_mk_tabs ?_ id id (risingKeys_tset _ _) | refine keeps_mk_tabs ?_ id id (risingKeys_tcut _ _) | refine keeps_mk_tabs ?_ (risingKeys_tcut _ _) id id | refine keeps_mk_tabs ?_ id (risingKeys_filter _) id | refine keeps_mk_tabs ?_ (risingKeys_filter _) id id | apply keeps_mk | apply keeps_mk_draws

theorem computeZero_keeps {r : State} (f : Nat) {s : State} (h1 : Keeps r s) : Keeps r (computeZero f s) := by
  unfold computeZero
  extract_lets -underBinder y0
  have ky0 : Keeps r y0 := by
    repeat' first
      | with_reducible first | assumption | apply recount_keeps | apply regsReset_keeps
      | with_reducible first | refine keeps_mk_tabs ?_ id id (risingKeys_tset _ _) | refine keeps_mk_tabs ?_ id id (risingKeys_tcut _ _) | refine keeps_mk_tabs ?_ (risingKeys_tcut _ _) id id | refine keeps_mk_tabs ?_ id (risingKeys_filter _) id | refine keeps_mk_tabs ?_ (risingKeys_filter _) id id | apply keeps_mk | apply keeps_mk_draws
  try clear_value y0
  repeat' first
    | with_reducible first | assumption | apply recount_keeps | apply regsReset_keeps
    | dsimp only
    | with_reducible first | refine keeps_mk_tabs ?_ id id (risingKeys_tset _ _) | refine keeps_mk_tabs ?_ id id (risingKeys_tcut _ _) | refine keeps_mk_tabs ?_ (risingKeys_tcut _ _) id id | refine keeps_mk_tabs ?_ id (risingKeys_filter _) id | refine keeps_mk_tabs ?_ (risingKeys_filter _) id id | apply keeps_mk | apply keeps_mk_draws

theorem State.modDark_keeps {r : State} {s : State} (f : Dark → Dark) (h0 : Keeps r s) : Keeps r (State.modDark s f) := by
  unfold State.modDark
  repeat' first
    | with_reducible assumption
    | dsimp only
    | with_reducible first | apply keeps_mk

theorem sliceFree_keeps {r : State} {s : State} (h0 : Keeps r s) : Keeps r (sliceFree s) := by
  unfold sliceFree
  extract_lets -underBinder y0
  try clear_value y0
  repeat' first
    | with_reducible first | assumption | intro _ | apply keeps_forEach | apply State.modDark_keeps | apply admitHeld_keeps

theorem setRstat_keeps {r : State} (n : Nat) {s : State} (h1 : Keeps r s) : Keeps r (setRstat n s) := by
  unfold setRstat
  repeat' first
    | with_reducible first | assumption | apply State.setFld_keeps

theorem setDkfPhase_keeps {r : State} (n : Nat) {s : State} (h1 : Keeps r s) : Keeps r (setDkfPhase n s) := by
  unfold setDkfPhase
  repeat' first
    | with_reducible first | assumption | apply State.setFld_keeps

theorem sliceAbort_keeps {r : State} (f : Nat) {s : State} (h1 : Keeps r s) : Keeps r (sliceAbort f s) := by
  unfold sliceAbort
  repeat' first
    | with_reducible first | assumption | apply keeps_ite | apply setDkfPhase_keeps | apply setRstat_keeps | apply sliceFree_keeps

theorem storeZero_keeps {r : State} (f : Nat) {s : State} (h1 : Keeps r s) : Keeps r (storeZero f s) := by
  unfold storeZero
  repeat' first
    | with_reducible first | assumption | apply State.setFld_keeps
    | dsimp only
    | with_reducible first | refine keeps_mk_tabs ?_ id id (risingKeys_tset _ _) | refine keeps_mk_tabs ?_ id id (risingKeys_tcut _ _) | refine keeps_mk_tabs ?_ (risingKeys_tcut _ _) id id | refine keeps_mk_tabs ?_ id (risingKeys_filter _) id | refine keeps_mk_tabs ?_ (risingKeys_filter _) id id | apply keeps_mk | apply keeps_mk_draws

theorem transitZero_keeps {r : State} (f : Nat) {s : State} (h1 : Keeps r s) : Keeps r (transitZero f s) := by
  unfold transitZero
  repeat' first
    | with_reducible assumption
    | dsimp only
    | with_reducible first | refine keeps_mk_tabs ?_ id id (risingKeys_tset _ _) | refine keeps_mk_tabs ?_ id id (risingKeys_tcut _ _) | refine keeps_mk_tabs ?_ (risingKeys_tcut _ _) id id | refine keeps_mk_tabs ?_ id (risingKeys_filter _) id | refine keeps_mk_tabs ?_ (risingKeys_filter _) id id | apply keeps_mk | apply keeps_mk_draws

theorem limbZero_keeps {r : State} (l : Nat) {s : State} (h1 : Keeps r s) : Keeps r (limbZero l s) := by
  unfold limbZero
  repeat' first
    | with_reducible assumption
    | dsimp only
    | with_reducible first | refine keeps_mk_tabs ?_ id id (risingKeys_tset _ _) | refine keeps_mk_tabs ?_ id id (risingKeys_tcut _ _) | refine keeps_mk_tabs ?_ (risingKeys_tcut _ _) id id | refine keeps_mk_tabs ?_ id (risingKeys_filter _) id | refine keeps_mk_tabs ?_ (risingKeys_filter _) id id | apply keeps_mk | apply keeps_mk_draws

theorem closeDom_keeps {r : State} (d : Nat) {s : State} (h1 : Keeps r s) : Keeps r (closeDom d s) := by
  unfold closeDom
  extract_lets -underBinder y0
  have ky0 : Keeps r y0 := by
    repeat' first
      | with_reducible first | assumption | intro _ | apply keeps_ite | apply keeps_forEach | apply computeZero_keeps | apply limbZero_keeps | apply portDown_keeps | apply seamDown_keeps | apply setDom_keeps
  try clear_value y0
  repeat' first
    | with_reducible first | assumption | intro _ | apply keeps_ite | apply keeps_forEach | apply computeZero_keeps | apply limbZero_keeps | apply portDown_keeps | apply seamDown_keeps | apply setDom_keeps | apply sliceAbort_keeps | apply storeZero_keeps | apply transitZero_keeps
    | split

theorem sliceAbandon_keeps {r : State} (f : Nat) {s : State} (h1 : Keeps r s) : Keeps r (sliceAbandon f s) := by
  unfold sliceAbandon
  repeat' first
    | with_reducible first | assumption | intro _ | apply keeps_ite | apply State.modDark_keeps | apply setDkfPhase_keeps

theorem setEff_keeps {r : State} (f : Nat) (e : Nat) {s : State} (h2 : Keeps r s) : Keeps r (setEff f e s) := by
  unfold setEff
  extract_lets -underBinder y0 y1
  have ky0 : Keeps r y0 := by
    repeat' first
      | with_reducible first | assumption | intro _ | apply keeps_ite | apply State.modChr_keeps | apply State.setFld_keeps | apply sliceAbandon_keeps
  try clear_value y0
  have ky1 : Keeps r y1 := by
    repeat' first
      | with_reducible first | assumption | intro _ | apply keeps_ite | apply State.modChr_keeps | apply State.setFld_keeps
  try clear_value y1
  repeat' first
    | with_reducible first | assumption | intro _ | apply keeps_ite | apply State.modChr_keeps

theorem seamIsland_keeps {r : State} (tgt : Nat) (arg : Nat) {s : State} (h2 : Keeps r s) : Keeps r (seamIsland tgt arg s) := by
  unfold seamIsland
  repeat' first
    | with_reducible first | assumption | apply keeps_ite | apply seamAssert_keeps | apply seamRelease_keeps

theorem epochStep_keeps {r : State} (i : Nat) {s : State} (h1 : Keeps r s) : Keeps r (epochStep i s) := by
  unfold epochStep
  repeat' first
    | with_reducible first | assumption | intro _ | apply State.modPwr_keeps

theorem nbrPowerOn_keeps {r : State} {s : State} (h0 : Keeps r s) : Keeps r (nbrPowerOn s) := by
  unfold nbrPowerOn
  repeat' first
    | with_reducible first | assumption | intro _ | apply State.modDark_keeps | apply setDkfPhase_keeps

theorem stepEffect_keeps {r : State} (p : PStep) {s : State} (h1 : Keeps r s) : Keeps r (stepEffect p s) := by
  unfold stepEffect
  repeat' first
    | with_reducible first | assumption | intro _ | apply keeps_ite | apply State.modPwr_keeps | apply State.setFld_keeps | apply closeDom_keeps | apply computeZero_keeps | apply epochStep_keeps | apply nbrPowerOn_keeps | apply nlogEvent_keeps | apply quiesceField_keeps | apply seamIsland_keeps | apply setEff_keeps | apply storeZero_keeps
    | split

theorem stepRun_keeps {r : State} (a0 : List PStep) {a1 : State} : Keeps r a1 → Keeps r (stepRun a0 a1).2 := by
  fun_induction stepRun a0 a1 <;>
    repeat' first
      | with_reducible first | assumption | intro _ | apply keeps_ite | apply setDom_keeps | apply stepEffect_keeps | apply_assumption -exfalso -symm

theorem runList_keeps {r : State} (a0 : Bool) (a1 : List Job) {a2 : State} : Keeps r a2 → Keeps r (runList a0 a1 a2).2 := by
  fun_induction runList a0 a1 a2 <;>
    repeat' first
      | with_reducible first | assumption | intro _ | apply keeps_ite | apply stepRun_keeps | refine keeps_of_pair ?_ (by assumption) | apply_assumption -exfalso -symm

theorem runJobs_keeps {r : State} {s : State} (h0 : Keeps r s) : Keeps r (runJobs s) := by
  unfold runJobs
  extract_lets -underBinder y0
  have ky0 : Keeps r y0.2 := by
    try dsimp only [y0]
    repeat' first
      | with_reducible first | assumption | intro _ | apply State.modPwr_keeps | apply runList_keeps | refine keeps_of_pair ?_ (by assumption)
  try clear_value y0
  repeat' first
    | with_reducible first | assumption | intro _ | apply State.modPwr_keeps | apply runList_keeps | refine keeps_of_pair ?_ (by assumption)

theorem addJobs_keeps {r : State} (js : List Job) {s : State} (h1 : Keeps r s) : Keeps r (addJobs js s) := by
  unfold addJobs
  repeat' first
    | with_reducible first | assumption | intro _ | apply State.modPwr_keeps | apply runJobs_keeps

theorem domeReq_keeps {r : State} (cmd : Nat) (t : Nat) {s : State} (h2 : Keeps r s) : Keeps r (domeReq cmd t s) := by
  unfold domeReq
  extract_lets -underBinder y0
  have ky0 : Keeps r y0 := by
    repeat' first
      | with_reducible first | assumption | intro _ | apply keeps_ite | apply State.modPwr_keeps | apply State.satFld_keeps | apply State.setFld_keeps
  try clear_value y0
  repeat' first
    | with_reducible first | assumption | intro _ | apply keeps_ite | apply State.modPwr_keeps | apply State.satFld_keeps | apply State.setFld_keeps | apply addJobs_keeps

theorem sliceStart_keeps {r : State} (q : Nat) {s : State} (h1 : Keeps r s) : Keeps r (sliceStart q s) := by
  unfold sliceStart
  extract_lets -underBinder y0 y1
  try clear_value y0
  have ky1 : Keeps r y1 := by
    repeat' first
      | with_reducible first | assumption | intro _ | apply keeps_ite | apply State.modDark_keeps | apply State.satFld_keeps | apply State.setFld_keeps | apply nlogEvent_keeps | apply setDkfPhase_keeps | apply setRstat_keeps
  try clear_value y1
  repeat' first
    | with_reducible first | assumption | intro _ | apply keeps_ite | apply State.modDark_keeps | apply State.satFld_keeps | apply State.setFld_keeps | apply nlogEvent_keeps | apply setDkfPhase_keeps | apply setRstat_keeps

theorem sliceCancel_keeps {r : State} {s : State} (h0 : Keeps r s) : Keeps r (sliceCancel s) := by
  unfold sliceCancel
  repeat' first
    | with_reducible first | assumption | apply sliceAbandon_keeps
    | split

theorem dkfNbr_keeps {r : State} (n : Nat) {s : State} (h1 : Keeps r s) : Keeps r (dkfNbr n s) := by
  unfold dkfNbr
  repeat' first
    | with_reducible first | assumption | intro _ | apply keeps_ite | apply State.modDark_keeps | apply setDkfPhase_keeps | apply setRstat_keeps

theorem dkfFuse_keeps {r : State} {s : State} (h0 : Keeps r s) : Keeps r (dkfFuse s) := by
  unfold dkfFuse
  repeat' first
    | with_reducible first | assumption | intro _ | apply keeps_ite | apply State.modDark_keeps | apply setDkfPhase_keeps | apply setRstat_keeps

theorem dkfCmdWrite_keeps {r : State} (v : Word) {s : State} (h1 : Keeps r s) : Keeps r (dkfCmdWrite v s) := by
  unfold dkfCmdWrite
  extract_lets -underBinder y0
  try clear_value y0
  repeat' first
    | with_reducible first | assumption | apply dkfFuse_keeps | apply dkfNbr_keeps | apply sliceCancel_keeps | apply sliceStart_keeps
    | split

theorem dvfsKick_keeps {r : State} (f : Nat) {s : State} (h1 : Keeps r s) : Keeps r (dvfsKick f s) := by
  unfold dvfsKick
  extract_lets -underBinder y0 y1
  try clear_value y0
  try clear_value y1
  repeat' first
    | with_reducible first | assumption | intro _ | apply keeps_ite | apply State.modPwr_keeps

theorem fldPwrWrite_keeps {r : State} (f : Nat) (v : Word) {s : State} (h2 : Keeps r s) : Keeps r (fldPwrWrite f v s) := by
  unfold fldPwrWrite
  repeat' first
    | with_reducible first | assumption | apply dvfsKick_keeps | apply plainWrite_keeps

theorem setFinder_keeps {r : State} (f : Nat) (i : Nat) (e : Nat) {s : State} (h3 : Keeps r s) : Keeps r (setFinder f i e s) := by
  unfold setFinder
  repeat' first
    | with_reducible first | assumption | apply State.setFld_keeps

theorem dedupStep_keeps {r : State} (f : Nat) {y : List Nat × List (Nat × Clamp) × State} (i : Nat) (h1 : Keeps r y.2.2) : Keeps r (dedupStep f y i).2.2 := by
  unfold dedupStep
  extract_lets -underBinder y0
  try clear_value y0
  repeat' first
    | with_reducible first | assumption | apply keeps_ite | apply setFinder_keeps
    | split

theorem finderDedup_keeps {r : State} (f : Nat) {x : List (Nat × Clamp) × State} (h1 : Keeps r x.2) : Keeps r (finderDedup f x).2 := by
  unfold finderDedup
  repeat' first
    | with_reducible first | assumption | intro _ | apply keeps_foldl_triple | apply keeps_foldl_first | apply keeps_foldl_pair | apply keeps_foldl | apply dedupStep_keeps | refine keeps_of_pair ?_ (by assumption) | refine keeps_of_pair' ?_ (by assumption)

theorem finderEntryLoad_keeps {r : State} (f : Nat) (i : Nat) (e : Nat) {x : List (Nat × Clamp) × State} (h3 : Keeps r x.2) : Keeps r (finderEntryLoad f i e x).2 := by
  unfold finderEntryLoad
  extract_lets -underBinder y0 y1 y2 y3 y4 y5 y6
  have ky0 : Keeps r y0 := by
    repeat' first
      | with_reducible first | assumption
  try clear_value y0
  try clear_value y1
  try clear_value y2
  try clear_value y3
  try clear_value y4
  try clear_value y5
  try clear_value y6
  repeat' first
    | with_reducible first | assumption | apply keeps_ite | apply setFinder_keeps

theorem finderSubs_keeps {r : State} (f : Nat) {s0 : State} {s : State} (i : Nat) (h1 : Keeps r s0) (h2 : Keeps r s) : Keeps r (finderSubs f s0 s i) := by
  unfold finderSubs
  extract_lets -underBinder y0 y1
  try clear_value y0
  try clear_value y1
  repeat' first
    | with_reducible first | assumption | apply keeps_ite | apply setFinder_keeps

theorem finderLoad_keeps {r : State} (f : Nat) (first : Nat) (es : List Nat) {s : State} (h3 : Keeps r s) : Keeps r (finderLoad f first es s).2 := by
  unfold finderLoad
  extract_lets -underBinder y0
  have ky0 : Keeps r y0.2 := by
    try dsimp only [y0]
    repeat' first
      | with_reducible first | assumption | intro _ | apply keeps_foldl_triple | apply keeps_foldl_first | apply keeps_foldl_pair | apply keeps_foldl | apply finderDedup_keeps | apply finderEntryLoad_keeps | apply finderSubs_keeps | apply recount_keeps | refine keeps_of_pair ?_ (by assumption)
  try clear_value y0
  repeat' first
    | with_reducible first | assumption | intro _ | apply keeps_foldl_triple | apply keeps_foldl_first | apply keeps_foldl_pair | apply keeps_foldl | apply finderDedup_keeps | apply finderEntryLoad_keeps | apply finderSubs_keeps | apply recount_keeps | refine keeps_of_pair ?_ (by assumption)

theorem disableCore_keeps {r : State} (c : Nat) {s : State} (h1 : Keeps r s) : Keeps r (disableCore c s) := by
  unfold disableCore
  extract_lets -underBinder y0
  have ky0 : Keeps r y0 := by
    repeat' first
      | with_reducible first | assumption | apply State.setFld_keeps
  try clear_value y0
  repeat' first
    | with_reducible first | assumption | apply State.setFld_keeps | apply recount_keeps

theorem execFuse_keeps {r : State} {s : State} (h0 : Keeps r s) : KeepsR r (execFuse s) := by
  unfold execFuse
  repeat' first
    | with_reducible first | assumption | apply keepsR_next | apply dkfFuse_keeps

theorem execFuseDone_keeps {r : State} (readback : Half) {s : State} (h1 : Keeps r s) : KeepsR r (execFuseDone readback s) := by
  unfold execFuseDone
  repeat' first
    | with_reducible first | assumption | intro _ | apply keepsR_next | apply keeps_ite | apply State.addFld_keeps | apply State.modDark_keeps | apply State.setFld_keeps | apply disableCore_keeps | apply nlogEvent_keeps | apply raise_keeps | apply setDkfPhase_keeps | apply setRstat_keeps
    | split

theorem execNbr_keeps {r : State} (f : Nat) {s : State} (h1 : Keeps r s) : KeepsR r (execNbr f s) := by
  unfold execNbr
  repeat' first
    | with_reducible first | assumption | apply keepsR_next | apply dkfNbr_keeps

theorem giveVerdict_keeps {r : State} (votes : List FailVote) (out : List Nat) {live : State} (c : Nat) {s : State} (h2 : Keeps r live) (h4 : Keeps r s) : Keeps r (giveVerdict votes out live c s) := by
  unfold giveVerdict
  extract_lets -underBinder y0 y1 y2 y3
  try clear_value y0
  try clear_value y1
  have ky2 : Keeps r y2 := by
    repeat' first
      | with_reducible first | assumption | apply keeps_ite | apply State.setFld_keeps
  try clear_value y2
  try clear_value y3
  repeat' first
    | with_reducible first | assumption | apply keeps_ite | apply State.setFld_keeps | apply raise_keeps

theorem execNeighborTestDone_keeps {r : State} (votes : List FailVote) {s : State} (h1 : Keeps r s) : KeepsR r (execNeighborTestDone votes s) := by
  unfold execNeighborTestDone
  extract_lets -underBinder y0 y1 y2 y3 y4 y5
  try clear_value y0
  try clear_value y1
  have ky2 : Keeps r y2 := by
    repeat' first
      | with_reducible first | assumption | intro _ | apply keeps_ite | apply keeps_forEach | apply State.modDark_keeps | apply State.setFld_keeps | apply computeZero_keeps
  try clear_value y2
  have ky3 : Keeps r y3 := by
    repeat' first
      | with_reducible first | assumption | intro _ | apply keeps_ite | apply keeps_forEach | apply State.modDark_keeps | apply State.setFld_keeps | apply computeZero_keeps | apply giveVerdict_keeps
  try clear_value y3
  try clear_value y4
  have ky5 : Keeps r y5 := by
    repeat' first
      | with_reducible first | assumption | intro _ | apply keeps_ite | apply keeps_forEach | apply State.modDark_keeps | apply State.setFld_keeps | apply computeZero_keeps | apply giveVerdict_keeps | apply nlogEvent_keeps | apply setDkfPhase_keeps | apply setRstat_keeps
  try clear_value y5
  repeat' first
    | with_reducible first | assumption | intro _ | apply keepsR_next | apply keeps_ite | apply keeps_forEach | apply State.modDark_keeps | apply State.setFld_keeps | apply computeZero_keeps | apply giveVerdict_keeps | apply nlogEvent_keeps | apply setDkfPhase_keeps | apply setRstat_keeps
    | split

theorem execRunNext_keeps {r : State} {s : State} (h0 : Keeps r s) : KeepsR r (execRunNext s) := by
  unfold execRunNext
  repeat' first
    | with_reducible first | assumption | apply keepsR_next | apply sliceStart_keeps

theorem execSliceCancel_keeps {r : State} {s : State} (h0 : Keeps r s) : KeepsR r (execSliceCancel s) := by
  unfold execSliceCancel
  repeat' first
    | with_reducible first | assumption | apply keepsR_next | apply sliceCancel_keeps

theorem execSliceDue_keeps {r : State} {s : State} (h0 : Keeps r s) : KeepsR r (execSliceDue s) := by
  unfold execSliceDue
  extract_lets -underBinder y0 y1
  try clear_value y0
  have ky1 : Keeps r y1 := by
    repeat' first
      | with_reducible first | assumption | apply keeps_ite | apply State.setFld_keeps
  try clear_value y1
  repeat' first
    | with_reducible first | assumption | apply keepsR_next | apply keeps_ite | apply State.setFld_keeps | apply nlogEvent_keeps
    | split

theorem setFail_keeps {r : State} (c : Nat) (b : Bool) {s : State} (h2 : Keeps r s) : Keeps r (setFail c b s) := by
  unfold setFail
  repeat' first
    | with_reducible first | assumption | apply State.setFld_keeps

theorem judge_keeps {r : State} (ran : List (Nat × List Word × Bool)) (c : Nat) {s : State} (h2 : Keeps r s) : Keeps r (judge ran c s) := by
  unfold judge
  extract_lets -underBinder y0 y1 y2
  try clear_value y0
  try clear_value y1
  have ky2 : Keeps r y2 := by
    repeat' first
      | with_reducible first | assumption | intro _ | apply keeps_ite | apply State.modDark_keeps | apply raise_keeps | apply setFail_keeps
  try clear_value y2
  repeat' first
    | with_reducible first | assumption | intro _ | apply keeps_ite | apply State.modDark_keeps | apply raise_keeps | apply setFail_keeps

theorem execSlicePatternsDone_keeps {r : State} (ran : List (CoreId × List Word × Bool)) {s : State} (h1 : Keeps r s) : KeepsR r (execSlicePatternsDone ran s) := by
  unfold execSlicePatternsDone
  repeat' first
    | with_reducible first | assumption | intro _ | apply keepsR_next | apply keeps_ite | apply keeps_forEach | apply judge_keeps | apply setDkfPhase_keeps
    | split

theorem restoreCore_keeps {r : State} (c : Nat) {s : State} (h1 : Keeps r s) : Keeps r (restoreCore c s) := by
  unfold restoreCore
  extract_lets -underBinder y0
  have ky0 : Keeps r y0 := by
    repeat' first
      | with_reducible first | assumption | intro _ | apply keeps_foldl_triple | apply keeps_foldl_first | apply keeps_foldl_pair | apply keeps_foldl | apply State.modCore_keeps | apply coreLocalWrite_keeps
  try clear_value y0
  repeat' first
    | with_reducible first | assumption | intro _ | apply keeps_foldl_triple | apply keeps_foldl_first | apply keeps_foldl_pair | apply keeps_foldl | apply State.modCore_keeps | apply coreLocalWrite_keeps
    | dsimp only
    | with_reducible first | apply keeps_mk | apply keeps_mk_draws

theorem sliceEnd_keeps {r : State} (q : Nat) (fails : Nat) {s : State} (h2 : Keeps r s) : Keeps r (sliceEnd q fails s) := by
  unfold sliceEnd
  extract_lets -underBinder y0 y1 y2 y3
  have ky0 : Keeps r y0 := by
    repeat' first
      | with_reducible first | assumption | apply keeps_ite | apply State.satFld_keeps | apply State.setFld_keeps
  try clear_value y0
  have ky1 : Keeps r y1 := by
    repeat' first
      | with_reducible first | assumption | apply keeps_ite | apply State.satFld_keeps
  try clear_value y1
  have ky2 : Keeps r y2 := by
    repeat' first
      | with_reducible first | assumption | apply keeps_ite | apply State.satFld_keeps | apply State.setFld_keeps | apply nlogEvent_keeps | apply setRstat_keeps
  try clear_value y2
  have ky3 : Keeps r y3 := by
    repeat' first
      | with_reducible first | assumption | apply keeps_ite | apply State.satFld_keeps | apply State.setFld_keeps
  try clear_value y3
  repeat' first
    | with_reducible first | assumption | apply keeps_ite | apply State.satFld_keeps | apply State.setFld_keeps | apply nlogEvent_keeps

theorem execSliceRestoreDone_keeps {r : State} {s : State} (h0 : Keeps r s) : KeepsR r (execSliceRestoreDone s) := by
  unfold execSliceRestoreDone
  extract_lets -underBinder y0 y1 y2
  try clear_value y0
  have ky1 : Keeps r y1 := by
    repeat' first
      | with_reducible first | assumption | intro _ | apply keeps_ite | apply keeps_forEach | apply State.satFld_keeps | apply nlogEvent_keeps | apply restoreCore_keeps | apply setDkfPhase_keeps
  try clear_value y1
  have ky2 : Keeps r y2 := by
    repeat' first
      | with_reducible first | assumption | intro _ | apply keeps_ite | apply keeps_forEach | apply State.satFld_keeps | apply nlogEvent_keeps | apply restoreCore_keeps | apply setDkfPhase_keeps | apply setRstat_keeps | apply sliceEnd_keeps
  try clear_value y2
  repeat' first
    | with_reducible first | assumption | intro _ | apply keepsR_next | apply keeps_ite | apply keeps_forEach | apply State.satFld_keeps | apply nlogEvent_keeps | apply restoreCore_keeps | apply setDkfPhase_keeps | apply setRstat_keeps | apply sliceEnd_keeps | apply sliceFree_keeps
    | split

theorem execSliceRun_keeps {r : State} (q : Nat) {s : State} (h1 : Keeps r s) : KeepsR r (execSliceRun q s) := by
  unfold execSliceRun
  repeat' first
    | with_reducible first | assumption | apply keepsR_next | apply sliceStart_keeps

theorem saveCore_keeps {r : State} (c : Nat) {s : State} (h1 : Keeps r s) : Keeps r (saveCore c s) := by
  unfold saveCore
  extract_lets -underBinder y0 y1
  try clear_value y0
  have ky1 : Keeps r y1.2 := by
    try dsimp only [y1]
    repeat' first
      | with_reducible first | assumption | intro _ | apply State.modDark_keeps | apply coreLocalRead_keeps | apply outWords_keeps | refine keeps_of_pair ?_ (by assumption)
  try clear_value y1
  repeat' first
    | with_reducible first | assumption | intro _ | apply State.modDark_keeps | apply coreLocalRead_keeps | apply outWords_keeps | refine keeps_of_pair ?_ (by assumption)

theorem execSliceSaveDone_keeps {r : State} {s : State} (h0 : Keeps r s) : KeepsR r (execSliceSaveDone s) := by
  unfold execSliceSaveDone
  repeat' first
    | with_reducible first | assumption | intro _ | apply keepsR_next | apply keeps_ite | apply keeps_forEach | apply saveCore_keeps | apply setDkfPhase_keeps
    | split

theorem trayLow_keeps {r : State} (needLow : Bool) {s : State} (h1 : Keeps r s) : Keeps r (trayLow needLow s) := by
  unfold trayLow
  extract_lets -underBinder y0
  try clear_value y0
  repeat' first
    | with_reducible assumption
    | dsimp only
    | with_reducible first | apply keeps_mk

theorem execClipRestored_keeps {r : State} {s : State} (h0 : Keeps r s) : KeepsR r (execClipRestored s) := by
  unfold execClipRestored
  repeat' first
    | with_reducible first | assumption | apply keepsR_next | apply keeps_ite | apply State.setFld_keeps | apply nlogEvent_keeps
    | split

theorem setCapW_keeps {r : State} (n : Nat) {s : State} (h1 : Keeps r s) : Keeps r (setCapW n s) := by
  unfold setCapW
  repeat' first
    | with_reducible first | assumption | intro _ | apply keeps_forEach | apply State.setFld_keeps | apply dvfsKick_keeps

theorem warnCaps_keeps {r : State} {s : State} (h0 : Keeps r s) : Keeps r (warnCaps s) := by
  unfold warnCaps
  repeat' first
    | with_reducible first | assumption | apply keeps_ite | apply setCapW_keeps

theorem execThermWarnNChange_keeps {r : State} (asserted : Bool) {s : State} (h1 : Keeps r s) : KeepsR r (execThermWarnNChange asserted s) := by
  unfold execThermWarnNChange
  extract_lets -underBinder y0 y1
  have ky0 : Keeps r y0 := by
    repeat' first
      | with_reducible first | assumption | intro _ | apply keeps_ite | apply State.modPwr_keeps | apply State.setFld_keeps
  try clear_value y0
  have ky1 : Keeps r y1 := by
    repeat' first
      | with_reducible first | assumption | intro _ | apply keeps_ite | apply State.modPwr_keeps
  try clear_value y1
  repeat' first
    | with_reducible first | assumption | intro _ | apply keepsR_next | apply keeps_ite | apply State.modPwr_keeps | apply State.setFld_keeps | apply nlogEvent_keeps | apply warnCaps_keeps
    | split

theorem execThermWarnNGlitch_keeps {r : State} (samples : Nat) {s : State} (h1 : Keeps r s) : KeepsR r (execThermWarnNGlitch samples s) := by
  unfold execThermWarnNGlitch
  extract_lets -underBinder y0
  try clear_value y0
  repeat' first
    | with_reducible first | assumption | intro _ | apply keepsR_next | apply keeps_ite | apply State.modPwr_keeps | apply State.satFld_keeps
    | split

theorem execThermWarnNReminder_keeps {r : State} {s : State} (h0 : Keeps r s) : KeepsR r (execThermWarnNReminder s) := by
  unfold execThermWarnNReminder
  repeat' first
    | with_reducible first | assumption | apply keepsR_next | apply keeps_ite | apply nlogEvent_keeps
    | split

theorem execThermWarnNNoisy_keeps {r : State} {s : State} (h0 : Keeps r s) : KeepsR r (execThermWarnNNoisy s) := by
  unfold execThermWarnNNoisy
  repeat' first
    | with_reducible first | assumption | apply keepsR_next | apply keeps_ite | apply State.setFld_keeps | apply nlogEvent_keeps | apply warnCaps_keeps
    | split

theorem execThermWarnNQuiet_keeps {r : State} (low : Bool) {s : State} (h1 : Keeps r s) : KeepsR r (execThermWarnNQuiet low s) := by
  unfold execThermWarnNQuiet
  extract_lets -underBinder y0 y1
  have ky0 : Keeps r y0 := by
    repeat' first
      | with_reducible first | assumption | intro _ | apply keeps_ite | apply State.modPwr_keeps | apply State.setFld_keeps
  try clear_value y0
  have ky1 : Keeps r y1 := by
    repeat' first
      | with_reducible first | assumption | intro _ | apply keeps_ite | apply State.modPwr_keeps
  try clear_value y1
  repeat' first
    | with_reducible first | assumption | intro _ | apply keepsR_next | apply keeps_ite | apply State.modPwr_keeps | apply State.setFld_keeps | apply nlogEvent_keeps | apply warnCaps_keeps
    | split

theorem execEpoNGlitch_keeps {r : State} (samples : Nat) {s : State} (h1 : Keeps r s) : KeepsR r (execEpoNGlitch samples s) := by
  unfold execEpoNGlitch
  repeat' first
    | with_reducible first | assumption | apply keepsR_next | apply keeps_ite | apply State.satFld_keeps
    | split

theorem execFieldOff_keeps {r : State} (f : Nat) {s : State} (h1 : Keeps r s) : KeepsR r (execFieldOff f s) := by
  unfold execFieldOff
  repeat' first
    | with_reducible first | assumption | apply keepsR_next | apply domeReq_keeps

theorem execFieldOn_keeps {r : State} (f : Nat) {s : State} (h1 : Keeps r s) : KeepsR r (execFieldOn f s) := by
  unfold execFieldOn
  repeat' first
    | with_reducible first | assumption | apply keepsR_next | apply domeReq_keeps

theorem execHemiOff_keeps {r : State} (t : Nat) {s : State} (h1 : Keeps r s) : KeepsR r (execHemiOff t s) := by
  unfold execHemiOff
  repeat' first
    | with_reducible first | assumption | apply keepsR_next | apply domeReq_keeps

theorem execHemiOn_keeps {r : State} (t : Nat) {s : State} (h1 : Keeps r s) : KeepsR r (execHemiOn t s) := by
  unfold execHemiOn
  repeat' first
    | with_reducible first | assumption | apply keepsR_next | apply domeReq_keeps

theorem execDomeRequestDone_keeps {r : State} {s : State} (h0 : Keeps r s) : KeepsR r (execDomeRequestDone s) := by
  unfold execDomeRequestDone
  repeat' first
    | with_reducible first | assumption | apply keepsR_next | apply keeps_ite | apply State.setFld_keeps
    | split

theorem computeRestored_keeps {r : State} (f : Nat) {s : State} (h1 : Keeps r s) : Keeps r (computeRestored f s) := by
  unfold computeRestored
  repeat' first
    | with_reducible first | assumption | apply keeps_ite | apply State.setFld_keeps | apply nlogEvent_keeps

theorem execSequenceStepDone_keeps {r : State} (domain : Nat) (op : Nat) (ok : Bool) {s : State} (h3 : Keeps r s) : KeepsR r (execSequenceStepDone domain op ok s) := by
  unfold execSequenceStepDone
  repeat' first
    | with_reducible first | assumption | intro _ | apply keepsR_next | apply keeps_ite | apply State.modPwr_keeps | apply computeRestored_keeps | apply raise_keeps | apply runJobs_keeps | apply setDom_keeps
    | split

theorem execDvfsStepDone_keeps {r : State} (f : FieldId) {s : State} (h1 : Keeps r s) : KeepsR r (execDvfsStepDone f s) := by
  unfold execDvfsStepDone
  repeat' first
    | with_reducible first | assumption | intro _ | apply keepsR_next | apply keeps_ite | apply keeps_foldl_triple | apply keeps_foldl_first | apply keeps_foldl_pair | apply keeps_foldl | apply State.modPwr_keeps | apply dvfsKick_keeps | apply setEff_keeps
    | split

theorem execClockStretch_keeps {r : State} (island : Nat) {s : State} (h1 : Keeps r s) : KeepsR r (execClockStretch island s) := by
  unfold execClockStretch
  repeat' first
    | with_reducible first | assumption | intro _ | apply keepsR_next | apply keeps_ite | apply State.modPwr_keeps

theorem execLockLoss_keeps {r : State} (island : Nat) {s : State} (h1 : Keeps r s) : KeepsR r (execLockLoss island s) := by
  unfold execLockLoss
  repeat' first
    | with_reducible first | assumption | apply keepsR_next | apply keeps_ite | apply raise_keeps
    | split

theorem setCapT_keeps {r : State} (f : Nat) (n : Nat) {s : State} (h2 : Keeps r s) : Keeps r (setCapT f n s) := by
  unfold setCapT
  extract_lets -underBinder y0 y1 y2 y3 y4
  try clear_value y0
  try clear_value y1
  have ky2 : Keeps r y2 := by
    repeat' first
      | with_reducible first | assumption | apply keeps_ite | apply State.satFld_keeps | apply State.setFld_keeps
  try clear_value y2
  have ky3 : Keeps r y3 := by
    repeat' first
      | with_reducible first | assumption | apply keeps_ite | apply State.satFld_keeps
  try clear_value y3
  have ky4 : Keeps r y4 := by
    repeat' first
      | with_reducible first | assumption | apply keeps_ite | apply State.satFld_keeps | apply State.setFld_keeps | apply dvfsKick_keeps | apply nlogEvent_keeps
  try clear_value y4
  repeat' first
    | with_reducible first | assumption | apply keeps_ite | apply State.satFld_keeps | apply State.setFld_keeps | apply dvfsKick_keeps

theorem diodeErrors_keeps {r : State} (dom : Dom) (unit : Nat) (errUnit : Nat) (d : Diodes) {s : State} (h4 : Keeps r s) : Keeps r (diodeErrors dom unit errUnit d s) := by
  unfold diodeErrors
  repeat' first
    | with_reducible first | assumption | intro _ | apply keeps_ite | apply keeps_foldl_triple | apply keeps_foldl_first | apply keeps_foldl_pair | apply keeps_foldl | apply State.modPwr_keeps | apply raise_keeps
    | split

theorem abortRequest_keeps {r : State} (all : Bool) (unit : Nat) {s : State} (h2 : Keeps r s) : Keeps r (abortRequest all unit s) := by
  unfold abortRequest
  repeat' first
    | with_reducible first | assumption | intro _ | apply keeps_ite | apply State.modPwr_keeps | apply State.setFld_keeps

theorem computeOff_keeps {r : State} (f : Nat) {s : State} (h1 : Keeps r s) : Keeps r (computeOff f s) := by
  unfold computeOff
  extract_lets -underBinder y0 y1 y2
  try clear_value y0
  try clear_value y1
  have ky2 : Keeps r y2 := by
    repeat' first
      | with_reducible first | assumption | apply keeps_ite | apply State.setFld_keeps | apply abortRequest_keeps | apply addJobs_keeps | apply raise_keeps | apply sliceAbort_keeps
  try clear_value y2
  repeat' first
    | with_reducible first | assumption | apply keeps_ite | apply State.setFld_keeps | apply abortRequest_keeps | apply addJobs_keeps

theorem fieldSample_keeps {r : State} (f : Nat) (d : Diodes) {s : State} (h2 : Keeps r s) : Keeps r (fieldSample f d s) := by
  unfold fieldSample
  extract_lets -underBinder y0 y1 y2 y3 y4 y5
  try clear_value y0
  have ky1 : Keeps r y1 := by
    repeat' first
      | with_reducible first | assumption | intro _ | apply keeps_ite | apply State.modChr_keeps | apply State.wr_keeps
  try clear_value y1
  try clear_value y2
  have ky3 : Keeps r y3 := by
    repeat' first
      | with_reducible first | assumption | intro _ | apply keeps_ite | apply State.modChr_keeps | apply State.wr_keeps | apply computeOff_keeps | apply diodeErrors_keeps | apply setCapT_keeps | apply sliceAbandon_keeps
      | dsimp only [y3]
      | split
  try clear_value y3
  have ky4 : Keeps r y4 := by
    repeat' first
      | with_reducible first | assumption | intro _ | apply keeps_ite | apply State.modChr_keeps | apply State.wr_keeps | apply computeOff_keeps | apply diodeErrors_keeps | apply setCapT_keeps
  try clear_value y4
  have ky5 : Keeps r y5 := by
    repeat' first
      | with_reducible first | assumption | intro _ | apply keeps_ite | apply State.modChr_keeps | apply State.wr_keeps | apply computeOff_keeps | apply diodeErrors_keeps | apply setCapT_keeps | apply sliceAbandon_keeps
  try clear_value y5
  repeat' first
    | with_reducible first | assumption | intro _ | apply keeps_ite | apply State.modChr_keeps | apply State.wr_keeps | apply computeOff_keeps | apply diodeErrors_keeps

theorem limbSample_keeps {r : State} (l : Nat) (d : Diodes) {s : State} (h2 : Keeps r s) : Keeps r (limbSample l d s) := by
  unfold limbSample
  extract_lets -underBinder y0 y1 y2 y3 y4
  try clear_value y0
  have ky1 : Keeps r y1 := by
    repeat' first
      | with_reducible first | assumption | intro _ | apply keeps_ite | apply State.modPwr_keeps | apply State.satFld_keeps | apply State.setFld_keeps | apply State.wr_keeps | apply diodeErrors_keeps
  try clear_value y1
  try clear_value y2
  have ky3 : Keeps r y3 := by
    repeat' first
      | with_reducible first | assumption | intro _ | apply keeps_ite | apply State.modPwr_keeps
  try clear_value y3
  have ky4 : Keeps r y4 := by
    repeat' first
      | with_reducible first | assumption | intro _ | apply keeps_ite | apply State.modPwr_keeps | apply State.satFld_keeps | apply State.setFld_keeps
  try clear_value y4
  repeat' first
    | with_reducible first | assumption | intro _ | apply keeps_ite | apply State.modPwr_keeps | apply State.satFld_keeps | apply State.setFld_keeps | apply State.wr_keeps | apply diodeErrors_keeps | apply raise_keeps

theorem fieldDark_keeps {r : State} (f : Nat) {s : State} (h1 : Keeps r s) : Keeps r (fieldDark f s) := by
  unfold fieldDark
  repeat' first
    | with_reducible first | assumption | apply stepRun_keeps | refine keeps_of_pair ?_ (by assumption)
    | with_reducible first | refine keeps_mk_tabs ?_ id id (risingKeys_tset _ _) | refine keeps_mk_tabs ?_ id id (risingKeys_tcut _ _) | refine keeps_mk_tabs ?_ (risingKeys_tcut _ _) id id | refine keeps_mk_tabs ?_ id (risingKeys_filter _) id | refine keeps_mk_tabs ?_ (risingKeys_filter _) id id

theorem trip_keeps {r : State} (src : Nat) (temp : Nat) (cause : Nat) {s : State} (h3 : Keeps r s) : Keeps r (trip src temp cause s) := by
  unfold trip
  extract_lets -underBinder y0 y1 y2 y3 y4
  try clear_value y0
  have ky1 : Keeps r y1 := by
    repeat' first
      | with_reducible first | assumption | intro _ | apply keeps_ite | apply keeps_forEach | apply State.modPwr_keeps | apply State.setFld_keeps | apply State.wr_keeps | apply abortRequest_keeps
  try clear_value y1
  have ky2 : Keeps r y2 := by
    repeat' first
      | with_reducible first | assumption | intro _ | apply keeps_ite | apply keeps_forEach | apply State.modPwr_keeps | apply State.setFld_keeps | apply State.wr_keeps | apply abortRequest_keeps | apply closeDom_keeps | apply faultPin_keeps | apply fieldDark_keeps | apply raise_keeps
  try clear_value y2
  try clear_value y3
  have ky4 : Keeps r y4 := by
    repeat' first
      | with_reducible first | assumption | intro _ | apply keeps_ite | apply keeps_forEach | apply State.modPwr_keeps | apply State.setFld_keeps | apply State.wr_keeps | apply abortRequest_keeps | apply closeDom_keeps | apply faultPin_keeps | apply fieldDark_keeps
  try clear_value y4
  repeat' first
    | with_reducible first | assumption | intro _ | apply keeps_ite | apply keeps_forEach | apply State.modPwr_keeps | apply State.setFld_keeps | apply State.wr_keeps | apply abortRequest_keeps | apply closeDom_keeps | apply faultPin_keeps | apply fieldDark_keeps | apply raise_keeps | apply trayLow_keeps

theorem execThermalSample_keeps {r : State} (fields : List (FieldId × Diodes)) (limbs : List (LimbId × Diodes)) {s : State} (h2 : Keeps r s) : KeepsR r (execThermalSample fields limbs s) := by
  unfold execThermalSample
  extract_lets -underBinder y0 y1 y2 y3
  try clear_value y0
  try clear_value y1
  have ky2 : Keeps r y2 := by
    repeat' first
      | with_reducible first | assumption | intro _ | apply keeps_ite | apply keeps_foldl_triple | apply keeps_foldl_first | apply keeps_foldl_pair | apply keeps_foldl | apply fieldSample_keeps
  try clear_value y2
  have ky3 : Keeps r y3 := by
    repeat' first
      | with_reducible first | assumption | intro _ | apply keeps_ite | apply keeps_foldl_triple | apply keeps_foldl_first | apply keeps_foldl_pair | apply keeps_foldl | apply fieldSample_keeps | apply limbSample_keeps
  try clear_value y3
  repeat' first
    | with_reducible first | assumption | intro _ | apply keepsR_next | apply keeps_ite | apply keeps_foldl_triple | apply keeps_foldl_first | apply keeps_foldl_pair | apply keeps_foldl | apply fieldSample_keeps | apply limbSample_keeps | apply trip_keeps
    | split

theorem execCapTRise_keeps {r : State} (f : FieldId) {s : State} (h1 : Keeps r s) : KeepsR r (execCapTRise f s) := by
  unfold execCapTRise
  extract_lets -underBinder y0
  try clear_value y0
  repeat' first
    | with_reducible first | assumption | apply keepsR_next | apply keeps_ite | apply setCapT_keeps
    | split

theorem execCapTFall_keeps {r : State} (f : FieldId) {s : State} (h1 : Keeps r s) : KeepsR r (execCapTFall f s) := by
  unfold execCapTFall
  extract_lets -underBinder y0 y1
  try clear_value y0
  try clear_value y1
  repeat' first
    | with_reducible first | assumption | apply keepsR_next | apply keeps_ite | apply setCapT_keeps
    | split

theorem execLimbDiodesInvalid_keeps {r : State} (l : LimbId) {s : State} (h1 : Keeps r s) : KeepsR r (execLimbDiodesInvalid l s) := by
  unfold execLimbDiodesInvalid
  repeat' first
    | with_reducible first | assumption | apply keepsR_next | apply keeps_ite | apply trip_keeps
    | split

theorem execLimbUnthrottle_keeps {r : State} (l : LimbId) {s : State} (h1 : Keeps r s) : KeepsR r (execLimbUnthrottle l s) := by
  unfold execLimbUnthrottle
  extract_lets -underBinder y0
  try clear_value y0
  repeat' first
    | with_reducible first | assumption | apply keepsR_next | apply keeps_ite | apply State.setFld_keeps
    | split

theorem setCapP_keeps {r : State} (n : Nat) {s : State} (h1 : Keeps r s) : Keeps r (setCapP n s) := by
  unfold setCapP
  extract_lets -underBinder y0
  have ky0 : Keeps r y0 := by
    repeat' first
      | with_reducible first | assumption | intro _ | apply keeps_ite | apply keeps_forEach | apply State.satFld_keeps | apply State.setFld_keeps | apply dvfsKick_keeps
  try clear_value y0
  repeat' first
    | with_reducible first | assumption | intro _ | apply keeps_ite | apply keeps_forEach | apply State.satFld_keeps | apply State.setFld_keeps | apply dvfsKick_keeps | apply nlogEvent_keeps

theorem execPowerSample_keeps {r : State} (smp : ClipSample) {s : State} (h1 : Keeps r s) : KeepsR r (execPowerSample smp s) := by
  unfold execPowerSample
  extract_lets -underBinder y0 y1 y2 y3 y4 y5 y6 y7
  try clear_value y0
  try clear_value y1
  try clear_value y2
  try clear_value y3
  have ky4 : Keeps r y4 := by
    repeat' first
      | with_reducible first | assumption | intro _ | apply keeps_ite | apply State.modChr_keeps | apply State.modPwr_keeps | apply State.satFld_keeps | apply State.setFld_keeps | apply State.wr_keeps
  try clear_value y4
  have ky5 : Keeps r y5 := by
    repeat' first
      | with_reducible first | assumption | intro _ | apply keeps_ite | apply State.modChr_keeps
  try clear_value y5
  have ky6 : Keeps r y6 := by
    repeat' first
      | with_reducible first | assumption | intro _ | apply keeps_ite | apply State.modChr_keeps | apply State.modPwr_keeps | apply State.satFld_keeps | apply State.setFld_keeps | apply State.wr_keeps | apply nlogEvent_keeps | apply setCapP_keeps
  try clear_value y6
  have ky7 : Keeps r y7 := by
    repeat' first
      | with_reducible first | assumption | intro _ | apply keeps_ite | apply State.modChr_keeps | apply State.modPwr_keeps
  try clear_value y7
  repeat' first
    | with_reducible first | assumption | intro _ | apply keepsR_next | apply keeps_ite | apply State.modChr_keeps | apply State.modPwr_keeps | apply State.satFld_keeps | apply State.setFld_keeps | apply State.wr_keeps | apply nlogEvent_keeps | apply setCapP_keeps
    | split

theorem execCapPRise_keeps {r : State} {s : State} (h0 : Keeps r s) : KeepsR r (execCapPRise s) := by
  unfold execCapPRise
  repeat' first
    | with_reducible first | assumption | apply keepsR_next | apply keeps_ite | apply setCapP_keeps
    | split

theorem execCapPFall_keeps {r : State} {s : State} (h0 : Keeps r s) : KeepsR r (execCapPFall s) := by
  unfold execCapPFall
  repeat' first
    | with_reducible first | assumption | apply keepsR_next | apply keeps_ite | apply setCapP_keeps
    | split

theorem execSensorSample_keeps {r : State} (fields : List (FieldId × CurrentSample)) (limbs : List (LimbId × CurrentSample)) (pcieSeam : CurrentSample) {s : State} (h3 : Keeps r s) : KeepsR r (execSensorSample fields limbs pcieSeam s) := by
  unfold execSensorSample
  extract_lets -underBinder y0 y1 y2
  try clear_value y0
  have ky1 : Keeps r y1 := by
    repeat' first
      | with_reducible first | assumption | intro _ | apply keeps_ite | apply keeps_foldl_triple | apply keeps_foldl_first | apply keeps_foldl_pair | apply keeps_foldl | apply State.modChr_keeps | apply State.wr_keeps
  try clear_value y1
  have ky2 : Keeps r y2 := by
    repeat' first
      | with_reducible first | assumption | intro _ | apply keeps_ite | apply keeps_foldl_triple | apply keeps_foldl_first | apply keeps_foldl_pair | apply keeps_foldl | apply State.modChr_keeps | apply State.wr_keeps
  try clear_value y2
  repeat' first
    | with_reducible first | assumption | intro _ | apply keepsR_next | apply keeps_ite | apply keeps_foldl_triple | apply keeps_foldl_first | apply keeps_foldl_pair | apply keeps_foldl | apply State.modChr_keeps | apply State.wr_keeps

theorem execSupplyRecovery_keeps {r : State} (island : Nat) {s : State} (h1 : Keeps r s) : KeepsR r (execSupplyRecovery island s) := by
  unfold execSupplyRecovery
  repeat' first
    | with_reducible first | assumption | intro _ | apply keepsR_next | apply State.modPwr_keeps

end Sys2Proof.Machine
end

