-- ==== Sys2Proof/Laws/KeepsUpdate.lean ====
section
/-! SUPPORT. Update keep what every command keeps: one law for each function that gives a state. -/

namespace Sys2Proof.Machine

theorem State.modPlate_keeps {r : State} {s : State} (f : Plate → Plate) (h0 : Keeps r s) : Keeps r (State.modPlate s f) := by
  unfold State.modPlate
  repeat' first
    | with_reducible assumption
    | dsimp only
    | with_reducible first | apply keeps_mk

theorem pltUse_keeps {r : State} (a : Nat) (n : Nat) {s : State} (h2 : Keeps r s) : Keeps r (pltUse a n s) := by
  unfold pltUse
  repeat' first
    | with_reducible first | assumption | intro _ | apply keeps_forEach | apply addrError_keeps | apply touch_keeps
    | split

theorem learnSlots_keeps {r : State} {s : State} (h0 : Keeps r s) : Keeps r (learnSlots s) := by
  unfold learnSlots
  repeat' first
    | with_reducible first | assumption | intro _ | apply keeps_forEach | apply State.modPlate_keeps | apply pltUse_keeps

theorem pltRecord_keeps {r : State} (kind : Nat) (status : Nat) (slot : Nat) (rsel : Bool) (shard : Nat) (seq : Nat) (step : Word) (dig : List Byte) {s : State} (h8 : Keeps r s) : Keeps r (pltRecord kind status slot rsel shard seq step dig s) := by
  unfold pltRecord
  repeat' first
    | with_reducible first | assumption | apply post_keeps

theorem plateSkip_keeps {r : State} {s : State} (h0 : Keeps r s) : Keeps r (plateSkip s) := by
  unfold plateSkip
  extract_lets -underBinder y0 y1
  have ky0 : Keeps r y0.2 := by
    try dsimp only [y0]
    repeat' first
      | with_reducible first | assumption | apply State.draw_keeps | apply State.satFld_keeps | apply pltRecord_keeps | refine keeps_of_pair ?_ (by assumption)
  try clear_value y0
  have ky1 : Keeps r y1.2 := by
    try dsimp only [y1]
    repeat' first
      | with_reducible first | assumption | apply State.draw_keeps | apply State.satFld_keeps | apply pltRecord_keeps | refine keeps_of_pair ?_ (by assumption)
  try clear_value y1
  repeat' first
    | with_reducible first | assumption | apply State.draw_keeps | apply State.satFld_keeps | apply pltRecord_keeps | refine keeps_of_pair ?_ (by assumption)

theorem pltZero_keeps {r : State} (g : Nat) {s : State} (h1 : Keeps r s) : Keeps r (pltZero g s) := by
  unfold pltZero
  repeat' first
    | with_reducible first | assumption | apply keeps_ite | apply touch_keeps | apply zeroGranule_keeps

theorem pltWrite_keeps {r : State} (a : Nat) (bs : List Byte) {s : State} (h2 : Keeps r s) : Keeps r (pltWrite a bs s).2 := by
  unfold pltWrite
  repeat' first
    | with_reducible first | assumption | apply writeBytes_keeps | refine keeps_of_pair ?_ (by assumption)

theorem pltError_keeps {r : State} (st : Nat) {s : State} (h1 : Keeps r s) : Keeps r (pltError st s) := by
  unfold pltError
  extract_lets -underBinder y0
  have ky0 : Keeps r y0.2 := by
    try dsimp only [y0]
    repeat' first
      | with_reducible first | assumption | apply keeps_ite | apply State.draw_keeps | apply raise_keeps | refine keeps_of_pair ?_ (by assumption)
  try clear_value y0
  repeat' first
    | with_reducible first | assumption | apply keeps_ite | apply State.draw_keeps | apply raise_keeps | refine keeps_of_pair ?_ (by assumption)

theorem plateEnd_keeps {r : State} (st : Nat) {s : State} (h1 : Keeps r s) : Keeps r (plateEnd st s) := by
  unfold plateEnd
  extract_lets -underBinder y0 y1 y2 y3 y4
  try clear_value y0
  have ky1 : Keeps r y1 := by
    repeat' first
      | with_reducible first | assumption | intro _ | apply keeps_ite | apply State.modPlate_keeps | apply State.setFld_keeps
  try clear_value y1
  have ky2 : Keeps r y2 := by
    repeat' first
      | with_reducible first | assumption | intro _ | apply keeps_ite | apply State.modPlate_keeps | apply State.setFld_keeps | apply modSpanEnd_keeps
  try clear_value y2
  have ky3 : Keeps r y3 := by
    repeat' first
      | with_reducible first | assumption | intro _ | apply keeps_ite | apply State.modPlate_keeps | apply State.setFld_keeps | apply modSpanEnd_keeps | apply pltError_keeps | apply pltRecord_keeps
  try clear_value y3
  have ky4 : Keeps r y4 := by
    repeat' first
      | with_reducible first | assumption | intro _ | apply keeps_ite | apply State.modPlate_keeps
  try clear_value y4
  repeat' first
    | with_reducible first | assumption | intro _ | apply keeps_ite | apply State.modPlate_keeps | apply State.setFld_keeps | apply modSpanEnd_keeps | apply pltError_keeps | apply pltRecord_keeps | apply quoteStart_keeps

theorem plateBegin_keeps {r : State} (k : Nat) {s : State} (h1 : Keeps r s) : Keeps r (plateBegin k s) := by
  unfold plateBegin
  extract_lets -underBinder y0 y1 y2 y3 y4 y5 y6 y7 y8 y9
  try clear_value y0
  try clear_value y1
  have ky2 : Keeps r y2 := by
    repeat' first
      | with_reducible first | assumption | intro _ | apply keeps_ite | apply State.modPlate_keeps | apply State.setFld_keeps | apply modSpan_keeps | apply plateEnd_keeps | apply pltWrite_keeps | apply pltZero_keeps | refine keeps_of_pair ?_ (by assumption)
  try clear_value y2
  have ky3 : Keeps r y3 := by
    repeat' first
      | with_reducible first | assumption | intro _ | apply keeps_ite | apply State.modPlate_keeps | apply State.setFld_keeps | apply modSpan_keeps | apply plateEnd_keeps | apply pltWrite_keeps | apply pltZero_keeps | refine keeps_of_pair ?_ (by assumption)
  try clear_value y3
  have ky4 : Keeps r y4 := by
    repeat' first
      | with_reducible first | assumption | intro _ | apply keeps_ite | apply State.modPlate_keeps | apply State.setFld_keeps | apply modSpan_keeps | apply plateEnd_keeps | apply pltWrite_keeps | apply pltZero_keeps | refine keeps_of_pair ?_ (by assumption)
  try clear_value y4
  have ky5 : Keeps r y5 := by
    repeat' first
      | with_reducible first | assumption | intro _ | apply keeps_ite | apply State.modPlate_keeps | apply State.setFld_keeps | apply modSpan_keeps | apply plateEnd_keeps | apply pltWrite_keeps | apply pltZero_keeps | refine keeps_of_pair ?_ (by assumption)
  try clear_value y5
  try clear_value y6
  have ky7 : Keeps r y7 := by
    repeat' first
      | with_reducible first | assumption | intro _ | apply keeps_ite | apply State.modPlate_keeps | apply State.setFld_keeps | apply modSpan_keeps | apply plateEnd_keeps | apply pltWrite_keeps | apply pltZero_keeps | refine keeps_of_pair ?_ (by assumption)
  try clear_value y7
  have ky8 : Keeps r y8 := by
    repeat' first
      | with_reducible first | assumption | intro _ | apply keeps_ite | apply State.modPlate_keeps | apply State.setFld_keeps | apply modSpan_keeps | apply plateEnd_keeps | apply pltWrite_keeps | apply pltZero_keeps | refine keeps_of_pair ?_ (by assumption)
  try clear_value y8
  have ky9 : Keeps r y9.2 := by
    try dsimp only [y9]
    repeat' first
      | with_reducible first | assumption | intro _ | apply keeps_ite | apply State.modPlate_keeps | apply State.setFld_keeps | apply modSpan_keeps | apply plateEnd_keeps | apply pltWrite_keeps | apply pltZero_keeps | refine keeps_of_pair ?_ (by assumption)
  try clear_value y9
  repeat' first
    | with_reducible first | assumption | intro _ | apply keeps_ite | apply State.modPlate_keeps | apply State.setFld_keeps | apply modSpan_keeps | apply plateEnd_keeps | apply pltWrite_keeps | apply pltZero_keeps | refine keeps_of_pair ?_ (by assumption)

theorem plateTrigger_keeps {r : State} {s : State} (h0 : Keeps r s) : Keeps r (plateTrigger s) := by
  unfold plateTrigger
  extract_lets -underBinder y0
  have ky0 : Keeps r y0 := by
    repeat' first
      | with_reducible first | assumption | intro _ | apply keeps_ite | apply State.modPlate_keeps
  try clear_value y0
  repeat' first
    | with_reducible first | assumption | intro _ | apply keeps_ite | apply State.modPlate_keeps | apply plateBegin_keeps | apply plateSkip_keeps
    | split

theorem plateAtCommit_keeps {r : State} {s : State} (h0 : Keeps r s) : Keeps r (plateAtCommit s) := by
  unfold plateAtCommit
  extract_lets -underBinder y0
  try clear_value y0
  repeat' first
    | with_reducible first | assumption | apply keeps_ite | apply plateTrigger_keeps

theorem commitAccept_keeps {r : State} {s : State} (h0 : Keeps r s) : Keeps r (commitAccept s) := by
  unfold commitAccept
  extract_lets -underBinder y0 y1 y2 y3 y4 y5 y6 y7 y8 y9 y10
  try clear_value y0
  have ky1 : Keeps r y1 := by
    repeat' first
      | with_reducible first | assumption | apply keeps_ite | apply State.satFld_keeps | apply State.setFld_keeps | apply State.wr_keeps | apply closeRecords_keeps
  try clear_value y1
  try clear_value y2
  try clear_value y3
  have ky4 : Keeps r y4 := by
    repeat' first
      | with_reducible first | assumption | apply keeps_ite | apply State.satFld_keeps | apply State.setFld_keeps | apply State.wr_keeps
  try clear_value y4
  have ky5 : Keeps r y5 := by
    repeat' first
      | with_reducible first | assumption | apply keeps_ite | apply State.satFld_keeps | apply State.setFld_keeps | apply State.wr_keeps
  try clear_value y5
  have ky6 : Keeps r y6 := by
    repeat' first
      | with_reducible first | assumption | apply keeps_ite | apply State.satFld_keeps
  try clear_value y6
  try clear_value y7
  try clear_value y8
  try clear_value y9
  have ky10 : Keeps r y10 := by
    repeat' first
      | with_reducible first | assumption | apply keeps_ite | apply State.satFld_keeps | apply State.setFld_keeps | apply State.wr_keeps | apply closeRecords_keeps | apply cursorAdvance_keeps | apply plateAtCommit_keeps
      | dsimp only [y10]
      | split
      | dsimp only
      | with_reducible first | apply keeps_mk
  try clear_value y10
  repeat' first
    | with_reducible first | assumption | apply keeps_ite | apply State.satFld_keeps | apply State.setFld_keeps | apply State.wr_keeps | apply closeRecords_keeps | apply cursorAdvance_keeps | apply plateAtCommit_keeps

theorem commit_keeps {r : State} (tag : Nat) {s : State} (h1 : Keeps r s) : Keeps r (commit tag s) := by
  unfold commit
  repeat' first
    | with_reducible first | assumption | apply keeps_ite | apply State.satFld_keeps | apply commitAccept_keeps | apply raise_keeps

theorem takeElem_keeps {r : State} (a : Nat) (n : Nat) (elem : Option Nat) {s : State} (h3 : Keeps r s) : Keeps r (takeElem a n elem s) := by
  unfold takeElem
  repeat' first
    | with_reducible first | assumption | intro _ | apply keeps_ite | apply keeps_forEach | apply State.setEntry_keeps
    | split

theorem engWrite_keeps {r : State} (l : Nat) (a : Nat) (elem : Option Nat) (bs : List Byte) {s : State} (h4 : Keeps r s) : Keeps r (engWrite l a elem bs s).2 := by
  unfold engWrite
  extract_lets -underBinder y0
  have ky0 : Keeps r y0.2 := by
    try dsimp only [y0]
    repeat' first
      | with_reducible first | assumption | apply modWrite_keeps | apply takeElem_keeps | refine keeps_of_pair ?_ (by assumption)
  try clear_value y0
  repeat' first
    | with_reducible first | assumption | apply modWrite_keeps | apply takeElem_keeps | refine keeps_of_pair ?_ (by assumption)

theorem updInit_keeps {r : State} {s : State} (h0 : Keeps r s) : Keeps r (updInit s) := by
  unfold updInit
  extract_lets -underBinder y0
  have ky0 : Keeps r y0.2 := by
    try dsimp only [y0]
    repeat' first
      | with_reducible first | assumption | apply keeps_ite | apply State.satFld_keeps | apply State.setFld_keeps | apply engWrite_keeps | refine keeps_of_pair ?_ (by assumption)
  try clear_value y0
  repeat' first
    | with_reducible first | assumption | apply keeps_ite | apply State.satFld_keeps | apply State.setFld_keeps | apply engWrite_keeps | refine keeps_of_pair ?_ (by assumption)

theorem updCmdWrite_keeps {r : State} (v : Word) {s : State} (h1 : Keeps r s) : Keeps r (updCmdWrite v s) := by
  unfold updCmdWrite
  repeat' first
    | with_reducible first | assumption | apply commit_keeps | apply updInit_keeps
    | split

theorem sweepGo_keeps {r : State} {s : State} (h0 : Keeps r s) : Keeps r (sweepGo s) := by
  unfold sweepGo
  repeat' first
    | with_reducible first | assumption | intro _ | apply keeps_ite | apply keeps_forEach | apply State.setFld_keeps

theorem tryLatch_keeps {r : State} (i : Nat) {s : State} (h1 : Keeps r s) : Keeps r (tryLatch i s) := by
  unfold tryLatch
  extract_lets -underBinder y0 y1 y2
  try clear_value y0
  have ky1 : Keeps r y1 := by
    repeat' first
      | with_reducible first | assumption | apply keeps_ite | apply State.satFld_keeps | apply State.setFld_keeps
  try clear_value y1
  try clear_value y2
  repeat' first
    | with_reducible first | assumption | apply keeps_ite | apply State.satFld_keeps | apply State.setFld_keeps
    | split
    | dsimp only
    | with_reducible first | apply keeps_mk

theorem dirWrite_keeps {r : State} (i : Nat) (v : Word) {s : State} (h2 : Keeps r s) : Keeps r (dirWrite i v s) := by
  unfold dirWrite
  extract_lets -underBinder y0
  have ky0 : Keeps r y0 := by
    repeat' first
      | with_reducible first | assumption | apply keeps_ite | apply State.satFld_keeps | apply State.wr_keeps | apply sweepGo_keeps | apply tryLatch_keeps
  try clear_value y0
  repeat' first
    | with_reducible first | assumption | apply keeps_ite | apply State.satFld_keeps | apply State.wr_keeps | apply sweepGo_keeps | apply tryLatch_keeps

theorem pltConfigWrite_keeps {r : State} (off : Nat) (v : Word) {s : State} (h2 : Keeps r s) : Keeps r (pltConfigWrite off v s) := by
  unfold pltConfigWrite
  repeat' first
    | with_reducible first | assumption | apply learnSlots_keeps | apply plainWrite_keeps

theorem pltDrop_keeps {r : State} {s : State} (h0 : Keeps r s) : Keeps r (pltDrop s) := by
  unfold pltDrop
  repeat' first
    | with_reducible first | assumption | apply State.satFld_keeps

theorem pltTake_keeps {r : State} {s : State} (h0 : Keeps r s) : Keeps r (pltTake s) := by
  unfold pltTake
  repeat' first
    | with_reducible first | assumption | intro _ | apply keeps_ite | apply State.modPlate_keeps | apply plateTrigger_keeps | apply pltDrop_keeps

theorem slotUse_keeps {r : State} (rsel : Bool) (k : Nat) {s : State} (h2 : Keeps r s) : Keeps r (slotUse rsel k s) := by
  unfold slotUse
  repeat' first
    | with_reducible first | assumption | apply pltUse_keeps

theorem cmdEnd_keeps {r : State} (st : Nat) (dig : List Byte) {s : State} (h2 : Keeps r s) : Keeps r (cmdEnd st dig s) := by
  unfold cmdEnd
  extract_lets -underBinder y0 y1 y2 y3 y4
  try clear_value y0
  try clear_value y1
  have ky2 : Keeps r y2 := by
    repeat' first
      | with_reducible first | assumption | apply keeps_ite | apply State.setFld_keeps | apply pltError_keeps | apply pltRecord_keeps | apply slotUse_keeps
  try clear_value y2
  try clear_value y3
  try clear_value y4
  repeat' first
    | with_reducible first | assumption | apply keeps_ite | apply State.setFld_keeps | apply pltError_keeps | apply pltRecord_keeps

theorem pltCancel_keeps {r : State} {s : State} (h0 : Keeps r s) : Keeps r (pltCancel s) := by
  unfold pltCancel
  repeat' first
    | with_reducible first | assumption | apply keeps_ite | apply cmdEnd_keeps | apply plateEnd_keeps

theorem pltBegin_keeps {r : State} (cmd : Nat) (rsel : Bool) (slot : Nat) (bslot : Nat) (shard : Nat) (st : Nat) {s : State} (h6 : Keeps r s) : Keeps r (pltBegin cmd rsel slot bslot shard st s) := by
  unfold pltBegin
  repeat' first
    | with_reducible first | assumption | intro _ | apply keeps_ite | apply State.modPlate_keeps | apply State.setFld_keeps | apply pltDrop_keeps | apply slotUse_keeps

theorem pltVerify_keeps {r : State} (rsel : Bool) (slot : Nat) (shard : Nat) {s : State} (h3 : Keeps r s) : Keeps r (pltVerify rsel slot shard s) := by
  unfold pltVerify
  repeat' first
    | with_reducible first | assumption | apply keeps_ite | apply pltBegin_keeps

theorem pltRestore_keeps {r : State} (rsel : Bool) (slot : Nat) (shard : Nat) {s : State} (h3 : Keeps r s) : Keeps r (pltRestore rsel slot shard s) := by
  unfold pltRestore
  repeat' first
    | with_reducible first | assumption | apply keeps_ite | apply pltBegin_keeps

theorem pltDelta_keeps {r : State} (slot : Nat) (bslot : Nat) {s : State} (h2 : Keeps r s) : Keeps r (pltDelta slot bslot s) := by
  unfold pltDelta
  repeat' first
    | with_reducible first | assumption | apply keeps_ite | apply pltBegin_keeps

theorem pltApply_keeps {r : State} (slot : Nat) {s : State} (h1 : Keeps r s) : Keeps r (pltApply slot s) := by
  unfold pltApply
  repeat' first
    | with_reducible first | assumption | apply pltBegin_keeps

theorem pltMark_keeps {r : State} (slot : Nat) {s : State} (h1 : Keeps r s) : Keeps r (pltMark slot s) := by
  unfold pltMark
  repeat' first
    | with_reducible first | assumption | apply pltBegin_keeps

theorem pltCmdWrite_keeps {r : State} (v : Word) {s : State} (h1 : Keeps r s) : Keeps r (pltCmdWrite v s) := by
  unfold pltCmdWrite
  extract_lets -underBinder y0 y1 y2 y3
  try clear_value y0
  try clear_value y1
  try clear_value y2
  try clear_value y3
  repeat' first
    | with_reducible first | assumption | apply pltApply_keeps | apply pltCancel_keeps | apply pltDelta_keeps | apply pltMark_keeps | apply pltRestore_keeps | apply pltTake_keeps | apply pltVerify_keeps
    | split

theorem putPrograms_keeps {r : State} (l : Nat) (a1 : Nat) (a2 : Nat) (a3 : List (List Word)) {a4 : State} : Keeps r a4 → Keeps r (putPrograms l a1 a2 a3 a4) := by
  fun_induction putPrograms l a1 a2 a3 a4 <;>
    repeat' first
      | with_reducible first | assumption | intro _ | apply keeps_foldl_triple | apply keeps_foldl_first | apply keeps_foldl_pair | apply keeps_foldl | apply setWork_keeps | apply_assumption -exfalso -symm

theorem loadLibrary_keeps {r : State} {s : State} (h0 : Keeps r s) : Keeps r (loadLibrary s) := by
  unfold loadLibrary
  repeat' first
    | with_reducible first | assumption | intro _ | apply keeps_forEach | apply putPrograms_keeps

theorem sweepEnd_keeps {r : State} (l : Nat) (st : Nat) (g : Nat) {s : State} (h3 : Keeps r s) : Keeps r (sweepEnd l st g s) := by
  unfold sweepEnd
  extract_lets -underBinder y0 y1 y2
  have ky0 : Keeps r y0 := by
    repeat' first
      | with_reducible first | assumption | apply keeps_ite | apply State.setFld_keeps
  try clear_value y0
  have ky1 : Keeps r y1 := by
    repeat' first
      | with_reducible first | assumption | apply keeps_ite | apply State.setFld_keeps | apply modSpanEnd_keeps | apply post_keeps
  try clear_value y1
  have ky2 : Keeps r y2 := by
    repeat' first
      | with_reducible first | assumption | apply keeps_ite | apply State.setFld_keeps | apply modSpanEnd_keeps | apply post_keeps | apply raise_keeps
  try clear_value y2
  repeat' first
    | with_reducible first | assumption | apply keeps_ite | apply State.setFld_keeps | apply modSpanEnd_keeps

theorem sweepEndAll_keeps {r : State} (st : Nat) (g : Nat) {s : State} (h2 : Keeps r s) : Keeps r (sweepEndAll st g s) := by
  unfold sweepEndAll
  repeat' first
    | with_reducible first | assumption | intro _ | apply keeps_forEach | apply sweepEnd_keeps

theorem execStepOutcomeDecision_keeps {r : State} {s : State} (h0 : Keeps r s) : KeepsR r (execStepOutcomeDecision s) := by
  unfold execStepOutcomeDecision
  extract_lets -underBinder y0
  have ky0 : Keeps r y0 := by
    repeat' first
      | with_reducible first | assumption | apply keeps_ite | apply State.setFld_keeps | apply modSpan_keeps
  try clear_value y0
  repeat' first
    | with_reducible first | assumption | apply keepsR_next | apply keeps_ite | apply State.setFld_keeps | apply modSpan_keeps | apply nlogEvent_keeps | apply sweepEndAll_keeps
    | split
    | dsimp only
    | with_reducible first | apply keeps_mk

theorem offGroups_keeps {r : State} (l : Nat) {s : State} (h1 : Keeps r s) : Keeps r (offGroups l s) := by
  unfold offGroups
  repeat' first
    | with_reducible first | assumption | intro _ | apply keeps_ite | apply keeps_forEach | apply raise_keeps
    | split
    | dsimp only
    | with_reducible first | apply keeps_mk

theorem execUpdateStart_keeps {r : State} {s : State} (h0 : Keeps r s) : KeepsR r (execUpdateStart s) := by
  unfold execUpdateStart
  extract_lets -underBinder y0 y1
  try clear_value y0
  have ky1 : Keeps r y1 := by
    repeat' first
      | with_reducible first | assumption | intro _ | apply keeps_ite | apply keeps_forEach | apply offGroups_keeps | apply sweepGo_keeps | apply tryLatch_keeps
      | dsimp only [y1]
      | split
      | dsimp only
      | with_reducible first | apply keeps_mk
  try clear_value y1
  repeat' first
    | with_reducible first | assumption | intro _ | apply keepsR_next | apply keeps_ite | apply keeps_forEach | apply offGroups_keeps | apply sweepGo_keeps | apply tryLatch_keeps
    | split

theorem execDirectedSlotWrite_keeps {r : State} (slot : Nat) (value : Word) {s : State} (h2 : Keeps r s) : KeepsR r (execDirectedSlotWrite slot value s) := by
  unfold execDirectedSlotWrite
  repeat' first
    | with_reducible first | assumption | apply keepsR_next | apply dirWrite_keeps

theorem execDirectedDeadline_keeps {r : State} {s : State} (h0 : Keeps r s) : KeepsR r (execDirectedDeadline s) := by
  unfold execDirectedDeadline
  extract_lets -underBinder y0 y1 y2 y3
  try clear_value y0
  try clear_value y1
  try clear_value y2
  try clear_value y3
  repeat' first
    | with_reducible first | assumption | apply keepsR_next | apply keeps_ite | apply State.satFld_keeps | apply State.setFld_keeps | apply sweepEndAll_keeps
    | split

theorem ownedComplete_keeps {r : State} (l : Nat) (n : Nat) (b : Nat) {s : State} (h3 : Keeps r s) : Keeps r (ownedComplete l n b s).2 := by
  unfold ownedComplete
  extract_lets -underBinder y0 y1
  try clear_value y0
  have ky1 : Keeps r y1.2.2 := by
    try dsimp only [y1]
    repeat' first
      | with_reducible first | assumption | apply modRead_keeps | refine keeps_of_pair ?_ (by assumption) | refine keeps_of_pair' ?_ (by assumption)
  try clear_value y1
  repeat' first
    | with_reducible first | assumption | apply modRead_keeps | refine keeps_of_pair ?_ (by assumption) | refine keeps_of_pair' ?_ (by assumption)

theorem completeBlocks_keeps {r : State} (l : Nat) (n : Nat) (a2 : List Nat) {a3 : State} : Keeps r a3 → Keeps r (completeBlocks l n a2 a3).2 := by
  fun_induction completeBlocks l n a2 a3 <;>
    repeat' first
      | with_reducible first | assumption | intro _ | apply keeps_ite | apply ownedComplete_keeps | refine keeps_of_pair ?_ (by assumption) | apply_assumption -exfalso -symm

theorem nextBlocks_keeps {r : State} (l : Nat) (k : Nat) {s : State} (h2 : Keeps r s) : Keeps r (nextBlocks l k s).2 := by
  unfold nextBlocks
  extract_lets -underBinder y0 y1 y2 y3 y4
  try clear_value y0
  try clear_value y1
  try clear_value y2
  try clear_value y3
  try clear_value y4
  repeat' first
    | with_reducible first | assumption | apply keeps_ite | apply completeBlocks_keeps | refine keeps_of_pair ?_ (by assumption)
    | split

theorem engRead_keeps {r : State} (l : Nat) (a : Nat) (n : Nat) {s : State} (h3 : Keeps r s) : Keeps r (engRead l a n s).2 := by
  unfold engRead
  extract_lets -underBinder y0
  have ky0 : Keeps r y0.2.2 := by
    try dsimp only [y0]
    repeat' first
      | with_reducible first | assumption | apply keeps_ite | apply modRead_keeps | refine keeps_of_pair ?_ (by assumption) | refine keeps_of_pair' ?_ (by assumption)
  try clear_value y0
  repeat' first
    | with_reducible first | assumption | apply keeps_ite | apply modRead_keeps | refine keeps_of_pair ?_ (by assumption) | refine keeps_of_pair' ?_ (by assumption)

theorem uload_keeps {r : State} (l : Nat) (sg : Nat) (h : Nat) (pl : Nat) (b : Nat) (k : Nat) {s : State} (h6 : Keeps r s) : Keeps r (uload l sg h pl b k s).2 := by
  unfold uload
  repeat' first
    | with_reducible first | assumption | apply keeps_ite | apply engRead_keeps | refine keeps_of_pair ?_ (by assumption)
    | split

theorem ustore_keeps {r : State} (l : Nat) (sg : Nat) (h : Nat) (pl : Nat) (b : Nat) (k : Nat) (x : List Nat) {s : State} (h7 : Keeps r s) : Keeps r (ustore l sg h pl b k x s).2 := by
  unfold ustore
  repeat' first
    | with_reducible first | assumption | intro _ | apply keeps_ite | apply keeps_foldl_triple | apply keeps_foldl_first | apply keeps_foldl_pair | apply keeps_foldl | apply codeUse_keeps | apply engWrite_keeps | apply observe_keeps | refine keeps_of_pair ?_ (by assumption)
    | split

theorem uInstr_keeps {r : State} (l : Nat) (sg : Nat) (h : Nat) (b : Nat) (ks : List Nat) {x : UBlk × State} (w : Word) (h5 : Keeps r x.2) : Keeps r (uInstr l sg h b ks x w).2 := by
  unfold uInstr
  extract_lets -underBinder y0 y1 y2 y3 y4 y5 y6 y7 y8 y9
  try clear_value y0
  have ky1 : Keeps r y1 := by
    repeat' first
      | with_reducible first | assumption | apply keeps_ite | apply uload_keeps | apply ustore_keeps | refine keeps_of_pair ?_ (by assumption)
  try clear_value y1
  try clear_value y2
  try clear_value y3
  try clear_value y4
  try clear_value y5
  try clear_value y6
  try clear_value y7
  try clear_value y8
  have ky9 : ∀ x0, Keeps r ((y9 x0)).2 := by
    intro x0
    dsimp only [y9]
    repeat' first
      | with_reducible first | assumption | apply keeps_ite | apply uload_keeps | apply ustore_keeps | refine keeps_of_pair ?_ (by assumption)
  try clear_value y9
  repeat' first
    | with_reducible first | assumption | apply keeps_ite | apply uload_keeps | apply ustore_keeps | refine keeps_of_pair ?_ (by assumption) | apply ky9
    | split
    | dsimp only

theorem uBlock_keeps {r : State} (l : Nat) (sg : Nat) (h : Nat) (g : Nat) (b : Nat) (prog : List Word) (ks : List Nat) {s : State} (h7 : Keeps r s) : Keeps r (uBlock l sg h g b prog ks s).2 := by
  unfold uBlock
  extract_lets -underBinder y0 y1
  have ky0 : Keeps r y0.2 := by
    try dsimp only [y0]
    repeat' first
      | with_reducible first | assumption | intro _ | apply keeps_foldl_triple | apply keeps_foldl_first | apply keeps_foldl_pair | apply keeps_foldl | apply uInstr_keeps | apply uload_keeps | refine keeps_of_pair ?_ (by assumption)
      | dsimp only [y0]
      | split
      | dsimp only
      | with_reducible first | apply keeps_mk | apply keeps_mk_draws
  try clear_value y0
  try clear_value y1
  repeat' first
    | with_reducible first | assumption | intro _ | apply keeps_foldl_triple | apply keeps_foldl_first | apply keeps_foldl_pair | apply keeps_foldl | apply uInstr_keeps | apply uload_keeps | refine keeps_of_pair ?_ (by assumption)
    | split
    | dsimp only
    | with_reducible first | apply keeps_mk

theorem runBlocks_keeps {r : State} (l : Nat) (sg : Nat) (h : Nat) (g : Nat) (prog : List Word) (ks : List Nat) (a6 : List Nat) {a7 : State} : Keeps r a7 → Keeps r (runBlocks l sg h g prog ks a6 a7).2 := by
  fun_induction runBlocks l sg h g prog ks a6 a7 <;>
    repeat' first
      | with_reducible first | assumption | intro _ | apply keeps_ite | apply uBlock_keeps | refine keeps_of_pair ?_ (by assumption) | apply_assumption -exfalso -symm

theorem engineFail_keeps {r : State} (l : Nat) (g : Nat) {s : State} (h2 : Keeps r s) : Keeps r (engineFail l g s) := by
  unfold engineFail
  repeat' first
    | with_reducible first | assumption | apply keeps_ite | apply State.setFld_keeps | apply sweepEndAll_keeps | apply sweepEnd_keeps

theorem uBatch_keeps {r : State} (l : Nat) (k : Nat) {s : State} (h2 : Keeps r s) : Keeps r (uBatch l k s) := by
  unfold uBatch
  repeat' first
    | with_reducible first | assumption | intro _ | apply keeps_ite | apply State.modLimb_keeps | apply State.setFld_keeps | apply engineFail_keeps | apply nextBlocks_keeps | apply runBlocks_keeps | refine keeps_of_pair ?_ (by assumption)
    | split

theorem execUProgramBatch_keeps {r : State} (l : LimbId) (seg : Nat) {s : State} (h2 : Keeps r s) : KeepsR r (execUProgramBatch l seg s) := by
  unfold execUProgramBatch
  repeat' first
    | with_reducible first | assumption | intro _ | apply keepsR_next | apply uBatch_keeps | apply withReads_keeps

theorem execSweepComplete_keeps {r : State} (l : LimbId) {s : State} (h1 : Keeps r s) : KeepsR r (execSweepComplete l s) := by
  unfold execSweepComplete
  repeat' first
    | with_reducible first | assumption | apply keepsR_next | apply keeps_ite | apply engineFail_keeps | apply sweepEnd_keeps
    | split

theorem seeWrite_keeps {r : State} (apply : Bool) (g : Nat) {x : Bool × State} (h2 : Keeps r x.2) : Keeps r (seeWrite apply g x).2 := by
  unfold seeWrite
  extract_lets -underBinder y0 y1 y2 y3 y4 y5
  have ky0 : Keeps r y0 := by
    repeat' first
      | with_reducible first | assumption | apply keeps_ite | apply engWrite_keeps | apply nlogEvent_keeps | refine keeps_of_pair ?_ (by assumption)
  try clear_value y0
  try clear_value y1
  try clear_value y2
  try clear_value y3
  try clear_value y4
  have ky5 : Keeps r y5.2 := by
    try dsimp only [y5]
    repeat' first
      | with_reducible first | assumption | apply keeps_ite | apply engWrite_keeps | apply nlogEvent_keeps | refine keeps_of_pair ?_ (by assumption)
  try clear_value y5
  repeat' first
    | with_reducible first | assumption | apply keeps_ite | apply engWrite_keeps | apply nlogEvent_keeps | refine keeps_of_pair ?_ (by assumption)

theorem bankWrite_keeps {r : State} {s : State} (h0 : Keeps r s) : Keeps r (bankWrite s) := by
  unfold bankWrite
  extract_lets -underBinder y0 y1 y2
  try clear_value y0
  try clear_value y1
  have ky2 : Keeps r y2.2 := by
    try dsimp only [y2]
    repeat' first
      | with_reducible first | assumption | intro _ | apply keeps_ite | apply keeps_foldl_triple | apply keeps_foldl_first | apply keeps_foldl_pair | apply keeps_foldl | apply engRead_keeps | apply engWrite_keeps | apply engineFail_keeps | apply seeWrite_keeps | refine keeps_of_pair ?_ (by assumption)
  try clear_value y2
  repeat' first
    | with_reducible first | assumption | intro _ | apply keeps_ite | apply keeps_foldl_triple | apply keeps_foldl_first | apply keeps_foldl_pair | apply keeps_foldl | apply engRead_keeps | apply engWrite_keeps | apply engineFail_keeps | apply seeWrite_keeps | refine keeps_of_pair ?_ (by assumption)
    | split
    | dsimp only
    | with_reducible first | apply keeps_mk

theorem execControlBankWrite_keeps {r : State} {s : State} (h0 : Keeps r s) : KeepsR r (execControlBankWrite s) := by
  unfold execControlBankWrite
  repeat' first
    | with_reducible first | assumption | intro _ | apply keepsR_next | apply bankWrite_keeps | apply withReads_keeps

theorem execCommit_keeps {r : State} (steptag : Nat) {s : State} (h1 : Keeps r s) : KeepsR r (execCommit steptag s) := by
  unfold execCommit
  repeat' first
    | with_reducible first | assumption | apply keepsR_next | apply commit_keeps

theorem execInit_keeps {r : State} {s : State} (h0 : Keeps r s) : KeepsR r (execInit s) := by
  unfold execInit
  repeat' first
    | with_reducible first | assumption | apply keepsR_next | apply updInit_keeps

theorem execTake_keeps {r : State} {s : State} (h0 : Keeps r s) : KeepsR r (execTake s) := by
  unfold execTake
  repeat' first
    | with_reducible first | assumption | apply keepsR_next | apply pltTake_keeps

theorem execPlateCancel_keeps {r : State} {s : State} (h0 : Keeps r s) : KeepsR r (execPlateCancel s) := by
  unfold execPlateCancel
  repeat' first
    | with_reducible first | assumption | apply keepsR_next | apply pltCancel_keeps

theorem execVerify_keeps {r : State} (rsel : Bool) (slot : Nat) (shard : Nat) {s : State} (h3 : Keeps r s) : KeepsR r (execVerify rsel slot shard s) := by
  unfold execVerify
  repeat' first
    | with_reducible first | assumption | apply keepsR_next | apply pltVerify_keeps

theorem execRestore_keeps {r : State} (rsel : Bool) (slot : Nat) (shard : Nat) {s : State} (h3 : Keeps r s) : KeepsR r (execRestore rsel slot shard s) := by
  unfold execRestore
  repeat' first
    | with_reducible first | assumption | apply keepsR_next | apply pltRestore_keeps

theorem execDelta_keeps {r : State} (slot : Nat) (bslot : Nat) {s : State} (h2 : Keeps r s) : KeepsR r (execDelta slot bslot s) := by
  unfold execDelta
  repeat' first
    | with_reducible first | assumption | apply keepsR_next | apply pltDelta_keeps

theorem execPlateApply_keeps {r : State} (slot : Nat) {s : State} (h1 : Keeps r s) : KeepsR r (execPlateApply slot s) := by
  unfold execPlateApply
  repeat' first
    | with_reducible first | assumption | apply keepsR_next | apply pltApply_keeps

theorem execMark_keeps {r : State} (slot : Nat) {s : State} (h1 : Keeps r s) : KeepsR r (execMark slot s) := by
  unfold execMark
  repeat' first
    | with_reducible first | assumption | apply keepsR_next | apply pltMark_keeps

theorem doVerify_keeps {r : State} {s : State} (h0 : Keeps r s) : Keeps r (doVerify s) := by
  unfold doVerify
  extract_lets -underBinder y0
  try clear_value y0
  repeat' first
    | with_reducible first | assumption | apply keeps_ite | apply cmdEnd_keeps | apply pltUse_keeps
    | split

theorem restoreState_keeps {r : State} (g : Nat) {s : State} (h1 : Keeps r s) : Keeps r (restoreState g s).2 := by
  unfold restoreState
  extract_lets -underBinder y0 y1 y2 y3 y4 y5 y6 y7 y8
  try clear_value y0
  try clear_value y1
  have ky2 : Keeps r y2 := by
    repeat' first
      | with_reducible first | assumption | intro _ | apply keeps_ite | apply keeps_forEach | apply keeps_foldl_triple | apply keeps_foldl_first | apply keeps_foldl_pair | apply keeps_foldl | apply State.setFld_keeps | apply State.wr_keeps
  try clear_value y2
  have ky3 : Keeps r y3 := by
    repeat' first
      | with_reducible first | assumption | intro _ | apply keeps_ite | apply keeps_forEach | apply keeps_foldl_triple | apply keeps_foldl_first | apply keeps_foldl_pair | apply keeps_foldl | apply State.setFld_keeps | apply State.wr_keeps
  try clear_value y3
  have ky4 : Keeps r y4 := by
    repeat' first
      | with_reducible first | assumption | intro _ | apply keeps_ite | apply keeps_forEach | apply keeps_foldl_triple | apply keeps_foldl_first | apply keeps_foldl_pair | apply keeps_foldl | apply State.setFld_keeps | apply State.wr_keeps
  try clear_value y4
  have ky5 : Keeps r y5 := by
    repeat' first
      | with_reducible first | assumption | intro _ | apply keeps_ite | apply keeps_forEach | apply keeps_foldl_triple | apply keeps_foldl_first | apply keeps_foldl_pair | apply keeps_foldl | apply State.setFld_keeps
  try clear_value y5
  try clear_value y6
  have ky7 : Keeps r y7 := by
    repeat' first
      | with_reducible first | assumption | intro _ | apply keeps_ite | apply keeps_forEach | apply keeps_foldl_triple | apply keeps_foldl_first | apply keeps_foldl_pair | apply keeps_foldl | apply State.setFld_keeps | apply State.wr_keeps
      | dsimp only [y7]
      | split
      | dsimp only
      | with_reducible first | apply keeps_mk
  try clear_value y7
  try clear_value y8
  repeat' first
    | with_reducible first | assumption | intro _ | apply keeps_ite | apply keeps_forEach | apply keeps_foldl_triple | apply keeps_foldl_first | apply keeps_foldl_pair | apply keeps_foldl | apply State.setFld_keeps | apply State.wr_keeps
    | split
    | dsimp only

theorem copyGranule_keeps {r : State} (pin : Bool) (n : Nat) (src : Nat) (dst : Nat) {s : State} (h4 : Keeps r s) : Keeps r (copyGranule pin n src dst s).2 := by
  unfold copyGranule
  repeat' first
    | with_reducible first | assumption | intro _ | apply keeps_ite | apply State.modLimb_keeps | apply State.setEntry_keeps | apply capFail_keeps | apply encodeGranule_keeps | apply migAbort_keeps | apply setPin_keeps | apply touch_keeps | refine keeps_of_option ?_ (by assumption)
    | split
    | dsimp only
    | with_reducible first | refine keeps_mk_store ?_ (canon_tcut _ _) (canon_tcut _ _) | refine keeps_mk_store ?_ (fun k => canon_tmergeD _ (canon_tcut _ _ k)) (fun k => canon_tmergeD _ (canon_tcut _ _ k)) | refine keeps_mk_store ?_ (fun _ => canon_nil _) (fun _ => canon_nil _) | apply keeps_mk | apply keeps_mk_draws

theorem copyGranules_keeps {r : State} (pin : Bool) (src : Nat) (dst : Nat) (bytes : Nat) (a4 : Nat) (a5 : Nat) {a6 : State} : Keeps r a6 → Keeps r (copyGranules pin src dst bytes a4 a5 a6).2 := by
  fun_induction copyGranules pin src dst bytes a4 a5 a6 <;>
    repeat' first
      | with_reducible first | assumption | intro _ | apply keeps_ite | apply copyGranule_keeps | refine keeps_of_pair ?_ (by assumption) | apply_assumption -exfalso -symm

theorem doRestore_keeps {r : State} {s : State} (h0 : Keeps r s) : Keeps r (doRestore s) := by
  unfold doRestore
  extract_lets -underBinder y0
  try clear_value y0
  repeat' first
    | with_reducible first | assumption | apply keeps_ite | apply cmdEnd_keeps | apply copyGranules_keeps | apply pltUse_keeps | apply restoreState_keeps | refine keeps_of_pair ?_ (by assumption)
    | split

theorem listsUse_keeps {r : State} (a : Nat) (b : Nat) {s : State} (h2 : Keeps r s) : Keeps r (listsUse a b s) := by
  unfold listsUse
  repeat' first
    | with_reducible first | assumption | intro _ | apply keeps_ite | apply keeps_forEach | apply pltUse_keeps

theorem deltaEnd_keeps {r : State} {w : Bool × State} (h0 : Keeps r w.2) : Keeps r (deltaEnd w) := by
  unfold deltaEnd
  repeat' first
    | with_reducible first | assumption | apply keeps_ite | apply cmdEnd_keeps

theorem writeDelta_keeps {r : State} (base a : Nat) (l : List Nat) {s : State} (h : Keeps r s) : Keeps r (writeDelta base a l s).2 := by
  induction l generalizing a s with
  | nil => exact h
  | cons g l ih =>
    rw [writeDelta]
    generalize leBytes 8 g ++ sha384 _ ++ List.replicate 8 0 ++ memBytes s _ _ = bs
    split
    · exact ih _ (pltWrite_keeps _ _ (pltUse_keeps _ _ h))
    · exact pltWrite_keeps _ _ (pltUse_keeps _ _ h)

theorem doDelta_keeps {r : State} {s : State} (h0 : Keeps r s) : Keeps r (doDelta s) := by
  unfold doDelta
  extract_lets -underBinder y0 y1 y2 y3 y4 y5
  have ky5 : Keeps r y5.2 := by
    try dsimp only [y5]
    repeat' first
      | with_reducible first | assumption | apply keeps_ite | apply cmdEnd_keeps | apply deltaEnd_keeps | apply listsUse_keeps | apply pltWrite_keeps | apply writeDelta_keeps | refine keeps_of_pair ?_ (by assumption)
  repeat' first
    | with_reducible first | assumption | apply keeps_ite | apply cmdEnd_keeps | apply deltaEnd_keeps | apply listsUse_keeps | apply pltWrite_keeps | apply writeDelta_keeps | refine keeps_of_pair ?_ (by assumption)
    | split

theorem writeStatus_keeps {r : State} {w : Bool × State} (h0 : Keeps r w.2) : Keeps r (writeStatus w).2 := by
  unfold writeStatus
  repeat' first
    | with_reducible first | assumption

theorem applyRecord_keeps {r : State} (a : Nat) (base : Nat) (room : Nat) {s : State} (h3 : Keeps r s) : Keeps r (applyRecord a base room s).2 := by
  unfold applyRecord
  extract_lets -underBinder y0 y1
  repeat' first
    | with_reducible first | assumption | apply keeps_ite | apply pltUse_keeps | apply pltWrite_keeps | apply writeStatus_keeps | refine keeps_of_pair ?_ (by assumption)
    | split

theorem doApply_keeps {r : State} {s : State} (h0 : Keeps r s) : Keeps r (doApply s) := by
  unfold doApply
  extract_lets -underBinder y0 y1 y2 y3 y4 y5 y6
  try clear_value y0
  try clear_value y1
  try clear_value y2
  try clear_value y3
  try clear_value y4
  try clear_value y5
  have ky6 : Keeps r y6.2 := by
    try dsimp only [y6]
    repeat' first
      | with_reducible first | assumption | intro _ | apply keeps_ite | apply keeps_foldl_triple | apply keeps_foldl_first | apply keeps_foldl_pair | apply keeps_foldl | apply applyRecord_keeps | apply cmdEnd_keeps | apply pltUse_keeps | apply pltZero_keeps | refine keeps_of_pair ?_ (by assumption)
      | dsimp only [y6]
      | split
  try clear_value y6
  repeat' first
    | with_reducible first | assumption | intro _ | apply keeps_ite | apply keeps_foldl_triple | apply keeps_foldl_first | apply keeps_foldl_pair | apply keeps_foldl | apply applyRecord_keeps | apply cmdEnd_keeps | apply pltUse_keeps | apply pltZero_keeps | refine keeps_of_pair ?_ (by assumption)

theorem doMark_keeps {r : State} {s : State} (h0 : Keeps r s) : Keeps r (doMark s) := by
  unfold doMark
  extract_lets -underBinder y0 y1
  try clear_value y0
  have ky1 : Keeps r y1 := by
    repeat' first
      | with_reducible first | assumption | intro _ | apply State.modPlate_keeps
  try clear_value y1
  repeat' first
    | with_reducible first | assumption | intro _ | apply State.modPlate_keeps | apply State.setFld_keeps | apply cmdEnd_keeps

theorem execPlateCommandDone_keeps {r : State} {s : State} (h0 : Keeps r s) : KeepsR r (execPlateCommandDone s) := by
  unfold execPlateCommandDone
  repeat' first
    | with_reducible first | assumption | apply keepsR_next | apply keeps_ite | apply cmdEnd_keeps | apply doApply_keeps | apply doDelta_keeps | apply doMark_keeps | apply doRestore_keeps | apply doVerify_keeps
    | split

theorem execSnapDone_keeps {r : State} {s : State} (h0 : Keeps r s) : KeepsR r (execSnapDone s) := by
  unfold execSnapDone
  repeat' first
    | with_reducible first | assumption | apply keepsR_next | apply keeps_ite | apply State.setFld_keeps | apply plateEnd_keeps
    | split

theorem copyShard_keeps {r : State} (base : Nat) {x : Bool × List ShardRec × State} (a2 : ShardRec) (h1 : Keeps r x.2.2) : Keeps r (copyShard base x a2).2.2 := by
  unfold copyShard
  extract_lets -underBinder y0 y1 y2 y3 y4
  have ky0 : Keeps r y0 := by
    repeat' first
      | with_reducible first | assumption | apply keeps_ite | apply copyGranules_keeps | apply pltError_keeps | refine keeps_of_pair ?_ (by assumption)
  try clear_value y0
  try clear_value y1
  try clear_value y2
  try clear_value y3
  have ky4 : Keeps r y4.2 := by
    try dsimp only [y4]
    repeat' first
      | with_reducible first | assumption | apply keeps_ite | apply copyGranules_keeps | apply pltError_keeps | refine keeps_of_pair ?_ (by assumption)
  try clear_value y4
  repeat' first
    | with_reducible first | assumption | apply keeps_ite | apply copyGranules_keeps | apply pltError_keeps | refine keeps_of_pair ?_ (by assumption)
    | split

theorem execCopyDone_keeps {r : State} {s : State} (h0 : Keeps r s) : KeepsR r (execCopyDone s) := by
  unfold execCopyDone
  extract_lets -underBinder y0 y1
  try clear_value y0
  have ky1 : Keeps r y1.2.2 := by
    try dsimp only [y1]
    repeat' first
      | with_reducible first | assumption | intro _ | apply keeps_ite | apply keeps_foldl_triple | apply keeps_foldl_first | apply keeps_foldl_pair | apply keeps_foldl | apply State.modPlate_keeps | apply State.setFld_keeps | apply copyShard_keeps | apply plateEnd_keeps | refine keeps_of_pair ?_ (by assumption) | refine keeps_of_pair' ?_ (by assumption)
  try clear_value y1
  repeat' first
    | with_reducible first | assumption | intro _ | apply keepsR_next | apply keeps_ite | apply keeps_foldl_triple | apply keeps_foldl_first | apply keeps_foldl_pair | apply keeps_foldl | apply State.modPlate_keeps | apply State.setFld_keeps | apply copyShard_keeps | apply plateEnd_keeps | refine keeps_of_pair ?_ (by assumption) | refine keeps_of_pair' ?_ (by assumption)
    | split

theorem writeDigests_keeps {r : State} (base : Nat) (l : List ShardRec) {s : State} (h2 : Keeps r s) : Keeps r (writeDigests base l s).2 := by
  unfold writeDigests
  extract_lets -underBinder y0 y1 y2
  have ky0 : Keeps r y0.2 := by
    try dsimp only [y0]
    repeat' first
      | with_reducible first | assumption | intro _ | apply keeps_ite | apply keeps_foldl_triple | apply keeps_foldl_first | apply keeps_foldl_pair | apply keeps_foldl | apply State.modPlate_keeps | apply pltUse_keeps | apply pltWrite_keeps | refine keeps_of_pair ?_ (by assumption)
      | dsimp only [y0]
      | split
  try clear_value y0
  try clear_value y1
  have ky2 : Keeps r y2.2 := by
    try dsimp only [y2]
    repeat' first
      | with_reducible first | assumption | intro _ | apply keeps_ite | apply keeps_foldl_triple | apply keeps_foldl_first | apply keeps_foldl_pair | apply keeps_foldl | apply State.modPlate_keeps | apply pltUse_keeps | apply pltWrite_keeps | refine keeps_of_pair ?_ (by assumption)
  try clear_value y2
  repeat' first
    | with_reducible first | assumption | intro _ | apply keeps_ite | apply keeps_foldl_triple | apply keeps_foldl_first | apply keeps_foldl_pair | apply keeps_foldl | apply State.modPlate_keeps | apply pltUse_keeps | apply pltWrite_keeps | refine keeps_of_pair ?_ (by assumption)
    | split

theorem execDigestDone_keeps {r : State} {s : State} (h0 : Keeps r s) : KeepsR r (execDigestDone s) := by
  unfold execDigestDone
  extract_lets -underBinder y0
  have ky0 : Keeps r y0.2 := by
    try dsimp only [y0]
    repeat' first
      | with_reducible first | assumption | intro _ | apply keeps_ite | apply State.modPlate_keeps | apply State.setFld_keeps | apply plateEnd_keeps | apply writeDigests_keeps | refine keeps_of_pair ?_ (by assumption)
  try clear_value y0
  repeat' first
    | with_reducible first | assumption | intro _ | apply keepsR_next | apply keeps_ite | apply State.modPlate_keeps | apply State.setFld_keeps | apply plateEnd_keeps | apply writeDigests_keeps | refine keeps_of_pair ?_ (by assumption)
    | split

theorem execSignDone_keeps {r : State} {s : State} (h0 : Keeps r s) : KeepsR r (execSignDone s) := by
  unfold execSignDone
  extract_lets -underBinder y0 y1 y2 y3 y4
  try clear_value y0
  try clear_value y1
  try clear_value y2
  have ky3 : Keeps r y3.2 := by
    try dsimp only [y3]
    repeat' first
      | with_reducible first | assumption | intro _ | apply keeps_ite | apply State.modPlate_keeps | apply plateEnd_keeps | apply pltWrite_keeps | refine keeps_of_pair ?_ (by assumption)
  try clear_value y3
  have ky4 : Keeps r y4 := by
    repeat' first
      | with_reducible first | assumption | intro _ | apply keeps_ite | apply State.modPlate_keeps | apply plateEnd_keeps | apply pltWrite_keeps | refine keeps_of_pair ?_ (by assumption)
  try clear_value y4
  repeat' first
    | with_reducible first | assumption | intro _ | apply keepsR_next | apply keeps_ite | apply State.modPlate_keeps | apply plateEnd_keeps | apply pltWrite_keeps | refine keeps_of_pair ?_ (by assumption)
    | split

theorem execPlateConfigWrite_keeps {r : State} (off : Nat) (value : Word) {s : State} (h2 : Keeps r s) : KeepsR r (execPlateConfigWrite off value s) := by
  unfold execPlateConfigWrite
  repeat' first
    | with_reducible first | assumption | apply keepsR_next | apply keeps_ite | apply pltConfigWrite_keeps

end Sys2Proof.Machine
end

