-- ==== Sys2Proof/Laws/KeepsBoot.lean ====
section
/-! SUPPORT. Boot keep what every command keeps: one law for each function that gives a state. -/

namespace Sys2Proof.Machine

theorem warmStore_keeps {r : State} {s : State} (h0 : Keeps r s) : Keeps r (warmStore s) := by
  unfold warmStore
  extract_lets -underBinder y0
  have ky0 : Keeps r y0 := by
    repeat' first
      | with_reducible first | assumption | intro _ | apply keeps_forEach | apply keeps_foldl_triple | apply keeps_foldl_first | apply keeps_foldl_pair | apply keeps_foldl | apply closeSlot_keeps | apply dropSlot_keeps | apply migDone_keeps
      | dsimp only [y0]
      | split
  try clear_value y0
  repeat' first
    | with_reducible first | assumption | intro _ | apply keeps_forEach | apply keeps_foldl_triple | apply keeps_foldl_first | apply keeps_foldl_pair | apply keeps_foldl | apply closeSlot_keeps | apply dropSlot_keeps

theorem warmReset_keeps {r : State} {s : State} (h0 : Keeps r s) : Keeps r (warmReset s) := by
  unfold warmReset
  extract_lets -underBinder y0 y1 y2 y3 y4 y5 y6 y7
  have ky0 : Keeps r y0 := by
    repeat' first
      | with_reducible first | assumption | apply capAll_keeps | apply faultPin_keeps | apply learnSlots_keeps | apply warmStore_keeps
      | with_reducible first | refine keeps_mk_tabs ?_ (fun k => risingKeys_map (fun _ => rfl) k) (fun k => risingKeys_map (fun _ => rfl) k) id | apply keeps_mk | apply keeps_mk_draws
  try clear_value y0
  try clear_value y1
  try clear_value y2
  try clear_value y3
  try clear_value y4
  try clear_value y5
  try clear_value y6
  have ky7 : Keeps r y7 := by
    repeat' first
      | with_reducible first | assumption | apply capAll_keeps | apply faultPin_keeps | apply learnSlots_keeps | apply warmStore_keeps
      | dsimp only [y7]
      | dsimp only
      | with_reducible first | refine keeps_mk_tabs ?_ (fun k => risingKeys_map (fun _ => rfl) k) (fun k => risingKeys_map (fun _ => rfl) k) id | apply keeps_mk | apply keeps_mk_draws
  try clear_value y7
  repeat' first
    | with_reducible first | assumption | apply capAll_keeps | apply faultPin_keeps | apply learnSlots_keeps
    | with_reducible first | refine keeps_mk_tabs ?_ (fun k => risingKeys_map (fun _ => rfl) k) (fun k => risingKeys_map (fun _ => rfl) k) id | apply keeps_mk | apply keeps_mk_draws

theorem warmWrite_keeps {r : State} (v : Word) {s : State} (h1 : Keeps r s) : Keeps r (warmWrite v s) := by
  unfold warmWrite
  repeat' first
    | with_reducible first | assumption | apply keeps_ite | apply warmReset_keeps

theorem State.modHost_keeps {r : State} {s : State} (f : HostSt → HostSt) (h0 : Keeps r s) : Keeps r (State.modHost s f) := by
  unfold State.modHost
  repeat' first
    | with_reducible assumption
    | dsimp only
    | with_reducible first | apply keeps_mk

theorem bootBegin_keeps {r : State} (cmd : Nat) {s : State} (h1 : Keeps r s) : Keeps r (bootBegin cmd s) := by
  unfold bootBegin
  extract_lets -underBinder y0
  have ky0 : Keeps r y0 := by
    repeat' first
      | with_reducible first | assumption | intro _ | apply keeps_ite | apply State.modBoot_keeps | apply State.satFld_keeps | apply State.setFld_keeps
  try clear_value y0
  repeat' first
    | with_reducible first | assumption | intro _ | apply keeps_ite | apply State.modBoot_keeps | apply State.satFld_keeps | apply State.setFld_keeps | apply quoteCapture_keeps

theorem bootCmdWrite_keeps {r : State} (v : Word) {s : State} (h1 : Keeps r s) : Keeps r (bootCmdWrite v s) := by
  unfold bootCmdWrite
  repeat' first
    | with_reducible first | assumption | apply keeps_ite | apply bootBegin_keeps

theorem fieldQuiesce_keeps {r : State} (f : Nat) {s : State} (h1 : Keeps r s) : Keeps r (fieldQuiesce f s) := by
  unfold fieldQuiesce
  repeat' first
    | with_reducible first | assumption | apply State.setFld_keeps | apply quiesceField_keeps

theorem fieldGo_keeps {r : State} (f : Nat) {s : State} (h1 : Keeps r s) : Keeps r (fieldGo f s) := by
  unfold fieldGo
  repeat' first
    | with_reducible first | assumption | intro _ | apply keeps_forEach | apply State.setFld_keeps | apply admitHeld_keeps | apply startCore_keeps

theorem fieldStart_keeps {r : State} (f : Nat) {s : State} (h1 : Keeps r s) : Keeps r (fieldStart f s) := by
  unfold fieldStart
  repeat' first
    | with_reducible first | assumption | apply keeps_ite | apply State.setFld_keeps | apply fieldGo_keeps

theorem fldCtlWrite_keeps {r : State} (f : Nat) (v : Word) {s : State} (h2 : Keeps r s) : Keeps r (fldCtlWrite f v s) := by
  unfold fldCtlWrite
  repeat' first
    | with_reducible first | assumption | apply keeps_ite | apply fieldQuiesce_keeps | apply fieldStart_keeps

theorem chal_keeps {r : State} {s : State} (h0 : Keeps r s) : Keeps r (chal s).2 := by
  unfold chal
  extract_lets -underBinder y0
  have ky0 : Keeps r y0 := by
    repeat' first
      | with_reducible first | assumption | intro _ | apply keeps_ite | apply keeps_foldl_triple | apply keeps_foldl_first | apply keeps_foldl_pair | apply keeps_foldl | apply State.draw_keeps | apply State.modBoot_keeps | apply State.wr_keeps | refine keeps_of_pair ?_ (by assumption)
  try clear_value y0
  repeat' first
    | with_reducible first | assumption | intro _ | apply keeps_ite | apply keeps_foldl_triple | apply keeps_foldl_first | apply keeps_foldl_pair | apply keeps_foldl | apply State.draw_keeps | apply State.modBoot_keeps | apply State.wr_keeps | refine keeps_of_pair ?_ (by assumption)
    | split

theorem wrWords_keeps {r : State} (a0 : Nat) (a1 : List Word) {a2 : State} : Keeps r a2 → Keeps r (wrWords a0 a1 a2) := by
  fun_induction wrWords a0 a1 a2 <;>
    repeat' first
      | with_reducible first | assumption | intro _ | apply State.wr_keeps | apply_assumption -exfalso -symm

theorem extendMr_keeps {r : State} (i : Nat) (kind : Nat) (svn : Nat) (bank : Nat) (d : List Byte) {s : State} (h5 : Keeps r s) : Keeps r (extendMr i kind svn bank d s) := by
  unfold extendMr
  extract_lets -underBinder y0 y1
  have ky0 : Keeps r y0 := by
    repeat' first
      | with_reducible first | assumption | apply keeps_ite | apply State.setFld_keeps | apply wrWords_keeps
  try clear_value y0
  try clear_value y1
  repeat' first
    | with_reducible first | assumption | apply keeps_ite | apply State.setFld_keeps | apply wrWords_keeps

theorem doExtend_keeps {r : State} {s : State} (h0 : Keeps r s) : Keeps r (doExtend s).2 := by
  unfold doExtend
  extract_lets -underBinder y0
  try clear_value y0
  repeat' first
    | with_reducible first | assumption | apply keeps_ite | apply extendMr_keeps
    | split

theorem refuseObj_keeps {r : State} (kind : Nat) (reason : Nat) {s : State} (h2 : Keeps r s) : Keeps r (refuseObj kind reason s) := by
  unfold refuseObj
  extract_lets -underBinder y0
  have ky0 : Keeps r y0 := by
    repeat' first
      | with_reducible first | assumption | apply State.satFld_keeps
  try clear_value y0
  repeat' first
    | with_reducible first | assumption | apply State.satFld_keeps | apply nlogEvent_keeps | apply raise_keeps

theorem verifyBank_keeps {r : State} (bank : Nat) {s : State} (h1 : Keeps r s) : Keeps r (verifyBank bank s).2 := by
  unfold verifyBank
  repeat' first
    | with_reducible first | assumption | intro _ | apply keeps_ite | apply keeps_foldl_triple | apply keeps_foldl_first | apply keeps_foldl_pair | apply keeps_foldl | apply refuseObj_keeps
    | split
    | dsimp only

theorem writeFlash_keeps {r : State} (bank : Nat) (a : Nat) (n : Nat) {s : State} (h3 : Keeps r s) : Keeps r (writeFlash bank a n s) := by
  unfold writeFlash
  repeat' first
    | with_reducible first | assumption | intro _ | apply keeps_foldl_triple | apply keeps_foldl_first | apply keeps_foldl_pair | apply keeps_foldl | apply State.modBoot_keeps

theorem doFlash_keeps {r : State} {s : State} (h0 : Keeps r s) : Keeps r (doFlash s).2 := by
  unfold doFlash
  extract_lets -underBinder y0 y1 y2
  try clear_value y0
  try clear_value y1
  have ky2 : Keeps r y2.2 := by
    try dsimp only [y2]
    repeat' first
      | with_reducible first | assumption | apply keeps_ite | apply verifyBank_keeps | apply writeFlash_keeps | refine keeps_of_pair ?_ (by assumption)
  try clear_value y2
  repeat' first
    | with_reducible first | assumption | apply keeps_ite | apply verifyBank_keeps | apply writeFlash_keeps | refine keeps_of_pair ?_ (by assumption)
    | split

theorem putMailbox_keeps {r : State} (bs : List Byte) {s : State} (h1 : Keeps r s) : Keeps r (putMailbox bs s) := by
  unfold putMailbox
  extract_lets -underBinder y0 y1
  try clear_value y0
  try clear_value y1
  repeat' first
    | with_reducible first | assumption | apply wrWords_keeps

theorem doGetcert_keeps {r : State} {s : State} (h0 : Keeps r s) : Keeps r (doGetcert s).2 := by
  unfold doGetcert
  extract_lets -underBinder y0 y1
  try clear_value y0
  try clear_value y1
  repeat' first
    | with_reducible first | assumption | apply keeps_ite | apply State.wr_keeps | apply putMailbox_keeps
    | split

theorem doQuote_keeps {r : State} {s : State} (h0 : Keeps r s) : Keeps r (doQuote s).2 := by
  unfold doQuote
  repeat' first
    | with_reducible first | assumption | apply putMailbox_keeps

theorem doRollfwd_keeps {r : State} (ok : Bool) {s : State} (h1 : Keeps r s) : Keeps r (doRollfwd ok s).2 := by
  unfold doRollfwd
  extract_lets -underBinder y0 y1 y2 y3
  try clear_value y0
  have ky1 : Keeps r y1.2 := by
    try dsimp only [y1]
    repeat' first
      | with_reducible first | assumption | apply keeps_ite | apply State.draw_keeps | apply State.setFld_keeps | apply nlogEvent_keeps | apply raise_keeps | refine keeps_of_pair ?_ (by assumption)
  try clear_value y1
  try clear_value y2
  have ky3 : Keeps r y3 := by
    repeat' first
      | with_reducible first | assumption | apply keeps_ite | apply State.draw_keeps | apply State.setFld_keeps | apply nlogEvent_keeps | apply raise_keeps | refine keeps_of_pair ?_ (by assumption)
  try clear_value y3
  repeat' first
    | with_reducible first | assumption | apply keeps_ite | apply State.draw_keeps | apply State.setFld_keeps | apply nlogEvent_keeps | apply raise_keeps | refine keeps_of_pair ?_ (by assumption)
    | split

theorem doSelect_keeps {r : State} {s : State} (h0 : Keeps r s) : Keeps r (doSelect s).2 := by
  unfold doSelect
  extract_lets -underBinder y0 y1
  try clear_value y0
  have ky1 : Keeps r y1.2 := by
    try dsimp only [y1]
    repeat' first
      | with_reducible first | assumption | intro _ | apply keeps_ite | apply State.modBoot_keeps | apply nlogEvent_keeps | apply verifyBank_keeps | refine keeps_of_pair ?_ (by assumption)
  try clear_value y1
  repeat' first
    | with_reducible first | assumption | intro _ | apply keeps_ite | apply State.modBoot_keeps | apply nlogEvent_keeps | apply verifyBank_keeps | refine keeps_of_pair ?_ (by assumption)
    | split

theorem execBootChal_keeps {r : State} {s : State} (h0 : Keeps r s) : KeepsR r (execBootChal s) := by
  unfold execBootChal
  repeat' first
    | with_reducible first | assumption | apply keepsR_next | apply bootBegin_keeps

theorem unlock_keeps {r : State} (t : List Byte) {s : State} (h1 : Keeps r s) : Keeps r (unlock t s).2 := by
  unfold unlock
  extract_lets -underBinder y0 y1 y2 y3
  have ky0 : Keeps r y0 := by
    repeat' first
      | with_reducible first | assumption | intro _ | apply keeps_ite | apply State.modBoot_keeps
  try clear_value y0
  try clear_value y1
  have ky2 : Keeps r y2 := by
    repeat' first
      | with_reducible first | assumption | intro _ | apply keeps_ite | apply State.modBoot_keeps | apply State.satFld_keeps | apply State.setFld_keeps
  try clear_value y2
  have ky3 : Keeps r y3 := by
    repeat' first
      | with_reducible first | assumption | intro _ | apply keeps_ite | apply State.modBoot_keeps | apply State.satFld_keeps
  try clear_value y3
  repeat' first
    | with_reducible first | assumption | intro _ | apply keeps_ite | apply State.modBoot_keeps | apply State.satFld_keeps | apply State.setFld_keeps | apply extendMr_keeps | apply nlogEvent_keeps | apply raise_keeps
    | split

theorem relock_keeps {r : State} {s : State} (h0 : Keeps r s) : Keeps r (relock s) := by
  unfold relock
  repeat' first
    | with_reducible first | assumption | apply State.setFld_keeps | apply nlogEvent_keeps

theorem execBootCommandDone_keeps {r : State} (readbackOk : Bool) {s : State} (h1 : Keeps r s) : KeepsR r (execBootCommandDone readbackOk s) := by
  unfold execBootCommandDone
  extract_lets -underBinder y0
  have ky0 : Keeps r y0.2 := by
    try dsimp only [y0]
    repeat' first
      | with_reducible first | assumption | intro _ | apply keeps_ite | apply State.modBoot_keeps | apply State.modPlate_keeps | apply State.setFld_keeps | apply chal_keeps | apply doExtend_keeps | apply doFlash_keeps | apply doGetcert_keeps | apply doQuote_keeps | apply doRollfwd_keeps | apply doSelect_keeps | apply relock_keeps | apply unlock_keeps | refine keeps_of_pair ?_ (by assumption)
      | dsimp only [y0]
      | split
  try clear_value y0
  repeat' first
    | with_reducible first | assumption | intro _ | apply keepsR_next | apply keeps_ite | apply State.modBoot_keeps | apply State.modPlate_keeps | apply State.setFld_keeps | apply chal_keeps | apply doExtend_keeps | apply doFlash_keeps | apply doGetcert_keeps | apply doQuote_keeps | apply doRollfwd_keeps | apply doSelect_keeps | apply relock_keeps | apply unlock_keeps | refine keeps_of_pair ?_ (by assumption)
    | split

theorem setStage_keeps {r : State} (n : Nat) {s : State} (h1 : Keeps r s) : Keeps r (setStage n s) := by
  unfold setStage
  repeat' first
    | with_reducible first | assumption | apply State.setFld_keeps

theorem tryBank_keeps {r : State} (kind : Nat) (bank : Nat) {s : State} (h2 : Keeps r s) : Keeps r (tryBank kind bank s) := by
  unfold tryBank
  repeat' first
    | with_reducible first | assumption | intro _ | apply keeps_ite | apply State.modBoot_keeps | apply State.setFld_keeps | apply nlogEvent_keeps | apply refuseObj_keeps
    | split

theorem takeKind_keeps {r : State} (kind : Nat) {s : State} (h1 : Keeps r s) : Keeps r (takeKind kind s) := by
  unfold takeKind
  extract_lets -underBinder y0
  try clear_value y0
  repeat' first
    | with_reducible first | assumption | intro _ | apply keeps_ite | apply State.modBoot_keeps | apply tryBank_keeps

theorem measureKind_keeps {r : State} (i : Nat) (kind : Nat) {s : State} (h2 : Keeps r s) : Keeps r (measureKind i kind s) := by
  unfold measureKind
  repeat' first
    | with_reducible first | assumption | apply extendMr_keeps
    | split

theorem loadFinders_keeps {r : State} {s : State} (h0 : Keeps r s) : Keeps r (loadFinders s) := by
  unfold loadFinders
  extract_lets -underBinder y0
  try clear_value y0
  repeat' first
    | with_reducible first | assumption | intro _ | apply keeps_ite | apply keeps_forEach | apply State.setFld_keeps | apply finderLoad_keeps | refine keeps_of_pair ?_ (by assumption)

theorem stageDone_keeps {r : State} {s : State} (h0 : Keeps r s) : Keeps r (stageDone s) := by
  unfold stageDone
  repeat' first
    | with_reducible first | assumption | apply keeps_ite | apply State.setFld_keeps | apply capAll_keeps | apply extendMr_keeps | apply loadFinders_keeps | apply loadLibrary_keeps | apply measureKind_keeps | apply setActive_keeps | apply setStage_keeps | apply takeKind_keeps
    | split

theorem execBootStageDone_keeps {r : State} {s : State} (h0 : Keeps r s) : KeepsR r (execBootStageDone s) := by
  unfold execBootStageDone
  repeat' first
    | with_reducible first | assumption | apply keepsR_next | apply stageDone_keeps

theorem execBringup_keeps {r : State} {s : State} (h0 : Keeps r s) : KeepsR r (execBringup s) := by
  unfold execBringup
  extract_lets -underBinder y0
  have ky0 : Keeps r y0 := by
    repeat' first
      | with_reducible first | assumption | intro _ | apply keeps_ite | apply keeps_forEach | apply addJobs_keeps | apply setDom_keeps
  try clear_value y0
  repeat' first
    | with_reducible first | assumption | intro _ | apply keepsR_next | apply keeps_ite | apply keeps_forEach | apply addJobs_keeps | apply setDom_keeps
    | split

theorem execBypass_keeps {r : State} {s : State} (h0 : Keeps r s) : KeepsR r (execBypass s) := by
  unfold execBypass
  repeat' first
    | with_reducible first | assumption | apply keepsR_next | apply State.emit_keeps

theorem execExtend_keeps {r : State} {s : State} (h0 : Keeps r s) : KeepsR r (execExtend s) := by
  unfold execExtend
  repeat' first
    | with_reducible first | assumption | apply keepsR_next | apply bootBegin_keeps

theorem execFlash_keeps {r : State} {s : State} (h0 : Keeps r s) : KeepsR r (execFlash s) := by
  unfold execFlash
  repeat' first
    | with_reducible first | assumption | apply keepsR_next | apply bootBegin_keeps

theorem execGetcert_keeps {r : State} {s : State} (h0 : Keeps r s) : KeepsR r (execGetcert s) := by
  unfold execGetcert
  repeat' first
    | with_reducible first | assumption | apply keepsR_next | apply bootBegin_keeps

theorem execIdcode_keeps {r : State} {s : State} (h0 : Keeps r s) : KeepsR r (execIdcode s) := by
  unfold execIdcode
  repeat' first
    | with_reducible first | assumption | apply keepsR_next | apply State.emit_keeps

theorem execQuote_keeps {r : State} {s : State} (h0 : Keeps r s) : KeepsR r (execQuote s) := by
  unfold execQuote
  repeat' first
    | with_reducible first | assumption | apply keepsR_next | apply bootBegin_keeps

theorem execRelock_keeps {r : State} {s : State} (h0 : Keeps r s) : KeepsR r (execRelock s) := by
  unfold execRelock
  repeat' first
    | with_reducible first | assumption | apply keepsR_next | apply bootBegin_keeps

theorem execRollfwd_keeps {r : State} {s : State} (h0 : Keeps r s) : KeepsR r (execRollfwd s) := by
  unfold execRollfwd
  repeat' first
    | with_reducible first | assumption | apply keepsR_next | apply bootBegin_keeps

theorem execSelect_keeps {r : State} {s : State} (h0 : Keeps r s) : KeepsR r (execSelect s) := by
  unfold execSelect
  repeat' first
    | with_reducible first | assumption | apply keepsR_next | apply bootBegin_keeps

theorem execTapChal_keeps {r : State} {s : State} (h0 : Keeps r s) : KeepsR r (execTapChal s) := by
  unfold execTapChal
  extract_lets -underBinder y0
  have ky0 : Keeps r y0.2 := by
    try dsimp only [y0]
    repeat' first
      | with_reducible first | assumption | apply State.emit_keeps | apply chal_keeps | refine keeps_of_pair ?_ (by assumption)
  try clear_value y0
  repeat' first
    | with_reducible first | assumption | apply keepsR_next | apply State.emit_keeps | apply chal_keeps | refine keeps_of_pair ?_ (by assumption)

theorem execToken_keeps {r : State} (bytes : List Byte) {s : State} (h1 : Keeps r s) : KeepsR r (execToken bytes s) := by
  unfold execToken
  repeat' first
    | with_reducible first | assumption | apply keepsR_next | apply unlock_keeps | refine keeps_of_pair ?_ (by assumption)

theorem execUnlock_keeps {r : State} {s : State} (h0 : Keeps r s) : KeepsR r (execUnlock s) := by
  unfold execUnlock
  repeat' first
    | with_reducible first | assumption | apply keepsR_next | apply bootBegin_keeps

theorem coldState_keeps {r : State} (t : Tray) {s : State} (h : Keeps r s) : Keeps r (coldState t s) :=
  keeps_inv h rfl (le_refl _) (List.suffix_refl _) fun k =>
    ⟨(memory_wf_iff []).2 (canon_nil _), (poison_iff []).2 (canon_nil _), risingKeys_map (fun _ => rfl) (risingKeys_filter _ k.regs), List.Pairwise.nil, List.Pairwise.nil⟩

theorem execColdReset_keeps {r : State} {s : State} (h0 : Keeps r s) : KeepsR r (execColdReset s) := by
  unfold execColdReset
  repeat' first
    | with_reducible first | assumption | apply keepsR_next | apply coldState_keeps

theorem execWarmReset_keeps {r : State} {s : State} (h0 : Keeps r s) : KeepsR r (execWarmReset s) := by
  unfold execWarmReset
  repeat' first
    | with_reducible first | assumption | apply keepsR_next | apply warmReset_keeps

theorem State.modTray_keeps {r : State} {s : State} (f : Tray → Tray) (h0 : Keeps r s) : Keeps r (State.modTray s f) := by
  unfold State.modTray
  repeat' first
    | with_reducible assumption
    | dsimp only
    | with_reducible first | apply keeps_mk

theorem execModPwrenHigh_keeps {r : State} {s : State} (h0 : Keeps r s) : KeepsR r (execModPwrenHigh s) := by
  unfold execModPwrenHigh
  repeat' first
    | with_reducible first | assumption | intro _ | apply keepsR_next | apply State.modTray_keeps

theorem execModPwrenLow_keeps {r : State} {s : State} (h0 : Keeps r s) : KeepsR r (execModPwrenLow s) := by
  unfold execModPwrenLow
  extract_lets -underBinder y0
  try clear_value y0
  repeat' first
    | with_reducible first | assumption | apply keepsR_next | apply keeps_ite | apply coldState_keeps
    | split

theorem coldRelease_keeps {r : State} {s : State} (h0 : Keeps r s) : Keeps r (coldRelease s) := by
  unfold coldRelease
  extract_lets -underBinder y0 y1
  have ky0 : Keeps r y0.2 := by
    try dsimp only [y0]
    repeat' first
      | with_reducible first | assumption | intro _ | apply State.draw_keeps | apply State.modTray_keeps | apply State.setFld_keeps | refine keeps_of_pair ?_ (by assumption)
  try clear_value y0
  try clear_value y1
  repeat' first
    | with_reducible first | assumption | intro _ | apply State.draw_keeps | apply State.modTray_keeps | apply State.setFld_keeps | refine keeps_of_pair ?_ (by assumption)

theorem hostLimbOn_keeps {r : State} {s : State} (h0 : Keeps r s) : Keeps r (hostLimbOn s) := by
  unfold hostLimbOn
  extract_lets -underBinder y0
  try clear_value y0
  repeat' first
    | with_reducible first | assumption | intro _ | apply State.modTray_keeps | apply setDom_keeps

theorem execPowerUpSequenceStep_keeps {r : State} {s : State} (h0 : Keeps r s) : KeepsR r (execPowerUpSequenceStep s) := by
  unfold execPowerUpSequenceStep
  repeat' first
    | with_reducible first | assumption | intro _ | apply keepsR_next | apply keeps_ite | apply State.modTray_keeps | apply coldRelease_keeps | apply hostLimbOn_keeps
    | split

theorem execRailPowerGoodTimeout_keeps {r : State} {s : State} (h0 : Keeps r s) : KeepsR r (execRailPowerGoodTimeout s) := by
  unfold execRailPowerGoodTimeout
  repeat' first
    | with_reducible first | assumption | apply keepsR_next | apply keeps_ite | apply trayLow_keeps

theorem endpointReset_keeps {r : State} {s : State} (h0 : Keeps r s) : Keeps r (endpointReset s) := by
  unfold endpointReset
  repeat' first
    | with_reducible first | assumption | intro _ | apply State.modHost_keeps | apply State.setFld_keeps

theorem execPerstAssert_keeps {r : State} {s : State} (h0 : Keeps r s) : KeepsR r (execPerstAssert s) := by
  unfold execPerstAssert
  extract_lets -underBinder y0
  have ky0 : Keeps r y0 := by
    repeat' first
      | with_reducible first | assumption | intro _ | apply keeps_ite | apply State.modTray_keeps
  try clear_value y0
  repeat' first
    | with_reducible first | assumption | intro _ | apply keepsR_next | apply keeps_ite | apply State.modTray_keeps | apply endpointReset_keeps | apply warmReset_keeps
    | split

theorem execEpoN_keeps {r : State} {s : State} (h0 : Keeps r s) : KeepsR r (execEpoN s) := by
  unfold execEpoN
  extract_lets -underBinder y0 y1
  try clear_value y0
  have ky1 : Keeps r y1 := by
    repeat' first
      | with_reducible first | assumption | apply keeps_ite | apply State.setFld_keeps | apply coldState_keeps
  try clear_value y1
  repeat' first
    | with_reducible first | assumption | apply keepsR_next | apply keeps_ite | apply State.setFld_keeps | apply coldState_keeps
    | split

theorem execInputLost_keeps {r : State} {s : State} (h0 : Keeps r s) : KeepsR r (execInputLost s) := by
  unfold execInputLost
  extract_lets -underBinder y0
  try clear_value y0
  repeat' first
    | with_reducible first | assumption | apply keepsR_next | apply coldState_keeps

theorem execClipOvercurrent_keeps {r : State} (b : Bool) {s : State} (h1 : Keeps r s) : KeepsR r (execClipOvercurrent b s) := by
  unfold execClipOvercurrent
  repeat' first
    | with_reducible first | assumption | intro _ | apply keepsR_next | apply keeps_ite | apply State.modTray_keeps

theorem execLinkRetrainDone_keeps {r : State} (k : LinkRef) (failing : List Nat) {s : State} (h2 : Keeps r s) : KeepsR r (execLinkRetrainDone k failing s) := by
  unfold execLinkRetrainDone
  repeat' first
    | with_reducible first | assumption | apply keepsR_next | apply retrainLink_keeps

theorem execLinkTraining_keeps {r : State} (k : LinkRef) (failing : List Nat) {s : State} (h2 : Keeps r s) : KeepsR r (execLinkTraining k failing s) := by
  unfold execLinkTraining
  repeat' first
    | with_reducible first | assumption | apply keepsR_next | apply trainLink_keeps

theorem msixSignal_keeps {r : State} (vec : Nat) {s : State} (h1 : Keeps r s) : Keeps r (msixSignal vec s) := by
  unfold msixSignal
  repeat' first
    | with_reducible first | assumption | intro _ | apply keeps_ite | apply State.emit_keeps | apply State.modHost_keeps

theorem irqFire_keeps {r : State} (a0 : Ring) {s : State} (h1 : Keeps r s) : Keeps r (irqFire a0 s) := by
  unfold irqFire
  extract_lets -underBinder y0
  have ky0 : Keeps r y0 := by
    repeat' first
      | with_reducible first | assumption | intro _ | apply State.modHost_keeps | apply msixSignal_keeps
  try clear_value y0
  repeat' first
    | with_reducible first | assumption | intro _ | apply State.modHost_keeps

theorem irqRecord_keeps {r : State} (a0 : Ring) (urgent : Bool) {s : State} (h2 : Keeps r s) : Keeps r (irqRecord a0 urgent s) := by
  unfold irqRecord
  repeat' first
    | with_reducible first | assumption | intro _ | apply keeps_ite | apply State.modHost_keeps | apply irqFire_keeps

theorem ringMove_keeps {r : State} (a0 : Ring) (urgent : List Word → Bool) {s : State} (h2 : Keeps r s) : Keeps r (ringMove a0 urgent s) := by
  unfold ringMove
  repeat' first
    | with_reducible first | assumption | apply keeps_ite | apply State.emit_keeps | apply State.satFld_keeps | apply State.setFld_keeps | apply irqRecord_keeps
    | split
    | dsimp only
    | with_reducible first | apply keeps_mk

theorem execNlogRecordWrite_keeps {r : State} {s : State} (h0 : Keeps r s) : KeepsR r (execNlogRecordWrite s) := by
  unfold execNlogRecordWrite
  repeat' first
    | with_reducible first | assumption | intro _ | apply keepsR_next | apply ringMove_keeps

theorem irqEnd_keeps {r : State} (a0 : Ring) {s : State} (h1 : Keeps r s) : Keeps r (irqEnd a0 s) := by
  unfold irqEnd
  repeat' first
    | with_reducible first | assumption | apply keeps_ite | apply irqFire_keeps

theorem execNlogInterrupt_keeps {r : State} {s : State} (h0 : Keeps r s) : KeepsR r (execNlogInterrupt s) := by
  unfold execNlogInterrupt
  repeat' first
    | with_reducible first | assumption | intro _ | apply keepsR_next | apply keeps_forEach | apply irqEnd_keeps

theorem execChronographRecordWrite_keeps {r : State} {s : State} (h0 : Keeps r s) : KeepsR r (execChronographRecordWrite s) := by
  unfold execChronographRecordWrite
  repeat' first
    | with_reducible first | assumption | intro _ | apply keepsR_next | apply ringMove_keeps

theorem applyStaged_keeps {r : State} (l : Nat) {s : State} (h1 : Keeps r s) : Keeps r (applyStaged l s) := by
  unfold applyStaged
  extract_lets -underBinder y0
  try clear_value y0
  repeat' first
    | with_reducible first | assumption | intro _ | apply keeps_foldl_triple | apply keeps_foldl_first | apply keeps_foldl_pair | apply keeps_foldl | apply setWork_keeps
    | dsimp only
    | with_reducible first | apply keeps_mk

theorem launchLimb_keeps {r : State} (l : Nat) {s : State} (h1 : Keeps r s) : Keeps r (launchLimb l s) := by
  unfold launchLimb
  extract_lets -underBinder y0
  have ky0 : Keeps r y0 := by
    repeat' first
      | with_reducible first | assumption | intro _ | apply keeps_ite | apply State.modLimb_keeps | apply State.wr_keeps | apply applyStaged_keeps | apply byteUse_keeps
  try clear_value y0
  repeat' first
    | with_reducible first | assumption | intro _ | apply keeps_ite | apply State.modLimb_keeps | apply State.wr_keeps

theorem launchOne_keeps {r : State} (f : Nat) {s : State} (h1 : Keeps r s) : Keeps r (launchOne f s) := by
  unfold launchOne
  repeat' first
    | with_reducible first | assumption | intro _ | apply keeps_forEach | apply State.wr_keeps | apply launchField_keeps

theorem launchAccept_keeps {r : State} {s : State} (h0 : Keeps r s) : Keeps r (launchAccept s) := by
  unfold launchAccept
  extract_lets -underBinder y0 y1 y2 y3 y4 y5
  have ky0 : Keeps r y0 := by
    repeat' first
      | with_reducible first | assumption | intro _ | apply keeps_forEach | apply State.setFld_keeps
  try clear_value y0
  try clear_value y1
  try clear_value y2
  have ky3 : Keeps r y3 := by
    repeat' first
      | with_reducible first | assumption | intro _ | apply keeps_forEach | apply State.setFld_keeps | apply launchLimb_keeps | apply launchModule_keeps | apply launchOne_keeps
      | dsimp only [y3]
      | dsimp only
      | with_reducible first | apply keeps_mk
  try clear_value y3
  have ky4 : Keeps r y4 := by
    repeat' first
      | with_reducible first | assumption | intro _ | apply keeps_forEach | apply State.setFld_keeps | apply launchLimb_keeps
  try clear_value y4
  have ky5 : Keeps r y5 := by
    repeat' first
      | with_reducible first | assumption | intro _ | apply keeps_forEach | apply State.setFld_keeps
  try clear_value y5
  repeat' first
    | with_reducible first | assumption | intro _ | apply keeps_forEach | apply State.setFld_keeps | apply launchLimb_keeps | apply launchModule_keeps | apply launchOne_keeps

theorem abandon_keeps {r : State} {s : State} (h0 : Keeps r s) : Keeps r (abandon s) := by
  unfold abandon
  repeat' first
    | with_reducible first | assumption | apply State.setFld_keeps | apply closeRecords_keeps

theorem ldSource_keeps {r : State} (space : Bool) (src : Nat) (n : Nat) (source : Option (List Byte)) {s : State} (h4 : Keeps r s) : Keeps r (ldSource space src n source s).2 := by
  unfold ldSource
  extract_lets -underBinder y0
  have ky0 : Keeps r y0.2.2 := by
    try dsimp only [y0]
    repeat' first
      | with_reducible first | assumption | apply keeps_ite | apply State.emit_keeps | apply modRead_keeps | refine keeps_of_pair ?_ (by assumption) | refine keeps_of_pair' ?_ (by assumption)
  try clear_value y0
  repeat' first
    | with_reducible first | assumption | apply keeps_ite | apply State.emit_keeps | apply modRead_keeps | refine keeps_of_pair ?_ (by assumption) | refine keeps_of_pair' ?_ (by assumption)
    | split

theorem ldReport_keeps {r : State} (st : Nat) (head : List Clamp) (units : List Nat) (cl : List (Nat × Clamp)) {s : State} (h4 : Keeps r s) : Keeps r (ldReport st head units cl s) := by
  unfold ldReport
  extract_lets -underBinder y0
  have ky0 : Keeps r y0 := by
    repeat' first
      | with_reducible first | assumption | intro _ | apply keeps_ite | apply keeps_foldl_triple | apply keeps_foldl_first | apply keeps_foldl_pair | apply keeps_foldl | apply clampRecords_keeps
      | dsimp only [y0]
      | split
      | dsimp only
      | with_reducible first | apply keeps_mk
  try clear_value y0
  repeat' first
    | with_reducible first | assumption | intro _ | apply keeps_ite | apply keeps_foldl_triple | apply keeps_foldl_first | apply keeps_foldl_pair | apply keeps_foldl | apply clampRecords_keeps

theorem putEngine_keeps {r : State} (stage : Bool) (l : Nat) (off : Nat) (ws : List Word) {s : State} (h4 : Keeps r s) : Keeps r (putEngine stage l off ws s) := by
  unfold putEngine
  repeat' first
    | with_reducible first | assumption | intro _ | apply keeps_ite | apply keeps_foldl_triple | apply keeps_foldl_first | apply keeps_foldl_pair | apply keeps_foldl | apply setWork_keeps
    | split
    | dsimp only
    | with_reducible first | apply keeps_mk

theorem ldWrite_keeps {r : State} (st : Nat) (unit : Nat) (first : Nat) (es : List Nat) {s : State} (h4 : Keeps r s) : Keeps r (ldWrite st unit first es s) := by
  unfold ldWrite
  extract_lets -underBinder y0
  try clear_value y0
  repeat' first
    | with_reducible first | assumption | intro _ | apply keeps_ite | apply keeps_foldl_triple | apply keeps_foldl_first | apply keeps_foldl_pair | apply keeps_foldl | apply putEngine_keeps | apply wrWords_keeps

theorem ldApply_keeps {r : State} (st : Nat) (tgt : Nat) (first : Nat) (hc : List Clamp) (es : List Nat) {s : State} (h5 : Keeps r s) : Keeps r (ldApply st tgt first hc es s) := by
  unfold ldApply
  extract_lets -underBinder y0 y1 y2
  have ky0 : Keeps r y0.2 := by
    try dsimp only [y0]
    repeat' first
      | with_reducible first | assumption | intro _ | apply keeps_ite | apply keeps_foldl_triple | apply keeps_foldl_first | apply keeps_foldl_pair | apply keeps_foldl | apply finderLoad_keeps | apply ldReport_keeps | apply ldWrite_keeps | refine keeps_of_pair ?_ (by assumption)
  try clear_value y0
  try clear_value y1
  try clear_value y2
  repeat' first
    | with_reducible first | assumption | intro _ | apply keeps_ite | apply keeps_foldl_triple | apply keeps_foldl_first | apply keeps_foldl_pair | apply keeps_foldl | apply finderLoad_keeps | apply ldReport_keeps | apply ldWrite_keeps | refine keeps_of_pair ?_ (by assumption)

theorem doLoad_keeps {r : State} (w1 : Word) (w2 : Word) (src : Word) (source : Option (List Byte)) {s : State} (h4 : Keeps r s) : Keeps r (doLoad w1 w2 src source s).2 := by
  unfold doLoad
  extract_lets -underBinder y0 y1 y2 y3 y4 y5 y6
  try clear_value y0
  try clear_value y1
  try clear_value y2
  try clear_value y3
  try clear_value y4
  try clear_value y5
  have ky6 : Keeps r y6.2 := by
    try dsimp only [y6]
    repeat' first
      | with_reducible first | assumption | apply keeps_ite | apply extendMr_keeps | apply ldApply_keeps | apply ldSource_keeps | apply raise_keeps | refine keeps_of_pair ?_ (by assumption)
  try clear_value y6
  repeat' first
    | with_reducible first | assumption | apply keeps_ite | apply extendMr_keeps | apply ldApply_keeps | apply ldSource_keeps | apply raise_keeps | refine keeps_of_pair ?_ (by assumption)
    | split

theorem doFstart_keeps {r : State} (all : Bool) (f : Nat) {s : State} (h2 : Keeps r s) : Keeps r (doFstart all f s).2 := by
  unfold doFstart
  extract_lets -underBinder y0
  try clear_value y0
  repeat' first
    | with_reducible first | assumption | intro _ | apply keeps_ite | apply keeps_forEach | apply State.setFld_keeps | apply fieldGo_keeps
    | split

theorem doQuiesce_keeps {r : State} (all : Bool) (f : Nat) {s : State} (h2 : Keeps r s) : Keeps r (doQuiesce all f s) := by
  unfold doQuiesce
  repeat' first
    | with_reducible first | assumption | intro _ | apply keeps_ite | apply keeps_forEach | apply fieldQuiesce_keeps

theorem execFieldStart_keeps {r : State} (f : FieldId) {s : State} (h1 : Keeps r s) : KeepsR r (execFieldStart f s) := by
  unfold execFieldStart
  repeat' first
    | with_reducible first | assumption | apply keepsR_next | apply fieldStart_keeps

theorem execFieldQuiesce_keeps {r : State} (f : FieldId) {s : State} (h1 : Keeps r s) : KeepsR r (execFieldQuiesce f s) := by
  unfold execFieldQuiesce
  repeat' first
    | with_reducible first | assumption | apply keepsR_next | apply fieldQuiesce_keeps

theorem execCompletionEntryWrite_keeps {r : State} (ring : Nat) {s : State} (h1 : Keeps r s) : KeepsR r (execCompletionEntryWrite ring s) := by
  unfold execCompletionEntryWrite
  repeat' first
    | with_reducible first | assumption | intro _ | apply keepsR_next | apply ringMove_keeps

theorem execClampRecordWrite_keeps {r : State} {s : State} (h0 : Keeps r s) : KeepsR r (execClampRecordWrite s) := by
  unfold execClampRecordWrite
  repeat' first
    | with_reducible first | assumption | intro _ | apply keepsR_next | apply ringMove_keeps

theorem stopRings_keeps {r : State} {s : State} (h0 : Keeps r s) : Keeps r (stopRings s) := by
  unfold stopRings
  extract_lets -underBinder y0
  have ky0 : Keeps r y0 := by
    repeat' first
      | with_reducible first | assumption | intro _ | apply keeps_forEach | apply State.modHost_keeps | apply State.setFld_keeps
  try clear_value y0
  repeat' first
    | with_reducible first | assumption | intro _ | apply keeps_forEach | apply State.modHost_keeps

theorem execLinkDown_keeps {r : State} {s : State} (h0 : Keeps r s) : KeepsR r (execLinkDown s) := by
  unfold execLinkDown
  extract_lets -underBinder y0 y1
  try clear_value y0
  have ky1 : Keeps r y1 := by
    repeat' first
      | with_reducible first | assumption | intro _ | apply keeps_ite | apply State.modHost_keeps | apply State.satFld_keeps | apply State.setFld_keeps
  try clear_value y1
  repeat' first
    | with_reducible first | assumption | intro _ | apply keepsR_next | apply keeps_ite | apply State.modHost_keeps | apply State.satFld_keeps | apply State.setFld_keeps | apply raise_keeps | apply stopRings_keeps
    | split

theorem execWarm_keeps {r : State} (value : Word) {s : State} (h1 : Keeps r s) : KeepsR r (execWarm value s) := by
  unfold execWarm
  repeat' first
    | with_reducible first | assumption | apply keepsR_next | apply warmWrite_keeps

theorem serviceEval_keeps {r : State} {s : State} (h0 : Keeps r s) : Keeps r (serviceEval s) := by
  unfold serviceEval
  extract_lets -underBinder y0 y1 y2 y3
  try clear_value y0
  try clear_value y1
  try clear_value y2
  have ky3 : Keeps r y3 := by
    repeat' first
      | with_reducible first | assumption | intro _ | apply keeps_ite | apply State.modTray_keeps | apply State.setFld_keeps
  try clear_value y3
  repeat' first
    | with_reducible first | assumption | intro _ | apply keeps_ite | apply State.modTray_keeps | apply State.setFld_keeps | apply nlogEvent_keeps

theorem execServiceLevelChange_keeps {r : State} {s : State} (h0 : Keeps r s) : KeepsR r (execServiceLevelChange s) := by
  unfold execServiceLevelChange
  repeat' first
    | with_reducible first | assumption | apply keepsR_next | apply keeps_ite | apply serviceEval_keeps

theorem execHostLinkUp_keeps {r : State} (rate : Nat) (width : Nat) {s : State} (h2 : Keeps r s) : KeepsR r (execHostLinkUp rate width s) := by
  unfold execHostLinkUp
  extract_lets -underBinder y0 y1 y2
  try clear_value y0
  try clear_value y1
  have ky2 : Keeps r y2 := by
    repeat' first
      | with_reducible first | assumption | intro _ | apply keeps_ite | apply State.modHost_keeps | apply State.setFld_keeps
  try clear_value y2
  repeat' first
    | with_reducible first | assumption | intro _ | apply keepsR_next | apply keeps_ite | apply State.modHost_keeps | apply State.setFld_keeps | apply nlogEvent_keeps
    | split

theorem execPerstDeassert_keeps {r : State} (refclk : Bool) {s : State} (h1 : Keeps r s) : KeepsR r (execPerstDeassert refclk s) := by
  unfold execPerstDeassert
  repeat' first
    | with_reducible first | assumption | intro _ | apply keepsR_next | apply State.modHost_keeps | apply State.modTray_keeps

theorem hostAnswer_keeps {r : State} (tag : Nat) (st : HostStatus) (data : List Byte) {s : State} (h3 : Keeps r s) : Keeps r (hostAnswer tag st data s) := by
  unfold hostAnswer
  repeat' first
    | with_reducible first | assumption | apply keeps_ite | apply engAnswer_keeps | apply raise_keeps | apply slewHostData_keeps | apply winError_keeps
    | split
    | dsimp only
    | with_reducible first | apply keeps_mk

theorem execHostCompletion_keeps {r : State} (tag : Nat) (status : HostStatus) (data : List Byte) {s : State} (h3 : Keeps r s) : KeepsR r (execHostCompletion tag status data s) := by
  unfold execHostCompletion
  repeat' first
    | with_reducible first | assumption | apply keepsR_next | apply keeps_ite | apply hostAnswer_keeps

theorem execCompletionTimeout_keeps {r : State} (tag : Nat) {s : State} (h1 : Keeps r s) : KeepsR r (execCompletionTimeout tag s) := by
  unfold execCompletionTimeout
  repeat' first
    | with_reducible first | assumption | apply keepsR_next | apply hostAnswer_keeps

theorem execEpoLatchClear_keeps {r : State} {s : State} (h0 : Keeps r s) : KeepsR r (execEpoLatchClear s) := by
  unfold execEpoLatchClear
  repeat' first
    | with_reducible first | assumption | intro _ | apply keepsR_next | apply State.modTray_keeps

theorem execInputRestored_keeps {r : State} (b : Bool) {s : State} (h1 : Keeps r s) : KeepsR r (execInputRestored b s) := by
  unfold execInputRestored
  repeat' first
    | with_reducible first | assumption | intro _ | apply keepsR_next | apply keeps_ite | apply State.modTray_keeps

theorem execPowerHoldOffEnd_keeps {r : State} {s : State} (h0 : Keeps r s) : KeepsR r (execPowerHoldOffEnd s) := by
  unfold execPowerHoldOffEnd
  repeat' first
    | with_reducible first | assumption | intro _ | apply keepsR_next | apply keeps_ite | apply State.modTray_keeps

theorem msixWrite_keeps {r : State} (off : Nat) (v : Half) {s : State} (h2 : Keeps r s) : Keeps r (msixWrite off v s) := by
  unfold msixWrite
  extract_lets -underBinder y0 y1 y2
  try clear_value y0
  have ky1 : Keeps r y1 := by
    repeat' first
      | with_reducible first | assumption | intro _ | apply keeps_ite | apply State.modHost_keeps
  try clear_value y1
  try clear_value y2
  repeat' first
    | with_reducible first | assumption | intro _ | apply keeps_ite | apply State.modHost_keeps | apply msixSignal_keeps

theorem execMsixTableWrite_keeps {r : State} (off : Nat) (value : Half) {s : State} (h2 : Keeps r s) : KeepsR r (execMsixTableWrite off value s) := by
  unfold execMsixTableWrite
  repeat' first
    | with_reducible first | assumption | apply keepsR_next | apply msixWrite_keeps

theorem execPciPowerStateChange_keeps {r : State} (d3hot : Bool) {s : State} (h1 : Keeps r s) : KeepsR r (execPciPowerStateChange d3hot s) := by
  unfold execPciPowerStateChange
  repeat' first
    | with_reducible first | assumption | intro _ | apply keepsR_next | apply keeps_ite | apply State.modHost_keeps

theorem execUncorrectableErrorReceived_keeps {r : State} (status : Half) {s : State} (h1 : Keeps r s) : KeepsR r (execUncorrectableErrorReceived status s) := by
  unfold execUncorrectableErrorReceived
  repeat' first
    | with_reducible first | assumption | apply keepsR_next | apply keeps_ite | apply raise_keeps

end Sys2Proof.Machine
end

