-- ==== Sys2Proof/Laws/KeepsAccess.lean ====
section
/-! SUPPORT. Access keep what every command keeps: one law for each function that gives a state. -/

namespace Sys2Proof.Machine

theorem winDrop_keeps {r : State} {s : State} (h0 : Keeps r s) : Keeps r (winDrop s) := by
  unfold winDrop
  repeat' first
    | with_reducible first | assumption | apply State.satFld_keeps

theorem ringBaseWrite_keeps {r : State} (id : Nat) (off : Nat) (v : Word) {s : State} (h3 : Keeps r s) : Keeps r (ringBaseWrite id off v s) := by
  unfold ringBaseWrite
  extract_lets -underBinder y0
  have ky0 : Keeps r y0 := by
    repeat' first
      | with_reducible first | assumption | intro _ | apply keeps_ite | apply State.modHost_keeps | apply plainWrite_keeps
  try clear_value y0
  repeat' first
    | with_reducible first | assumption | intro _ | apply keeps_ite | apply State.modHost_keeps

theorem lrCtlWrite_keeps {r : State} (i : Nat) (v : Word) {s : State} (h2 : Keeps r s) : Keeps r (lrCtlWrite i v s) := by
  unfold lrCtlWrite
  extract_lets -underBinder y0 y1 y2
  try clear_value y0
  have ky1 : Keeps r y1 := by
    repeat' first
      | with_reducible first | assumption | intro _ | apply keeps_ite | apply State.modHost_keeps | apply State.wr_keeps | apply plainWrite_keeps
  try clear_value y1
  have ky2 : Keeps r y2 := by
    repeat' first
      | with_reducible first | assumption | intro _ | apply keeps_ite | apply State.modHost_keeps
  try clear_value y2
  repeat' first
    | with_reducible first | assumption | intro _ | apply keeps_ite | apply State.modHost_keeps | apply State.wr_keeps

theorem homeWrite_keeps {r : State} (v : Word) {s : State} (h1 : Keeps r s) : Keeps r (homeWrite v s) := by
  unfold homeWrite
  extract_lets -underBinder y0
  have ky0 : Keeps r y0 := by
    repeat' first
      | with_reducible first | assumption | apply keeps_ite | apply homeApply_keeps | apply plainWrite_keeps
  try clear_value y0
  repeat' first
    | with_reducible first | assumption | apply keeps_ite | apply homeApply_keeps

theorem modWriteReg_keeps {r : State} (o : Nat) (v : Word) {s : State} (h2 : Keeps r s) : Keeps r (modWriteReg o v s) := by
  unfold modWriteReg
  repeat' first
    | with_reducible first | assumption | apply keeps_ite | apply bootCmdWrite_keeps | apply chrSyncWrite_keeps | apply dirWrite_keeps | apply dkfCmdWrite_keeps | apply domeReq_keeps | apply errClrWrite_keeps | apply faultPin_keeps | apply homeWrite_keeps | apply lrCtlWrite_keeps | apply moduleIdWrite_keeps | apply plainWrite_keeps | apply pltCmdWrite_keeps | apply pltConfigWrite_keeps | apply ringBaseWrite_keeps | apply timeSet_keeps | apply updCmdWrite_keeps | apply warmWrite_keeps

theorem limbWriteReg_keeps {r : State} (l : Nat) (o : Nat) (v : Word) {s : State} (h3 : Keeps r s) : Keeps r (limbWriteReg l o v s) := by
  unfold limbWriteReg
  extract_lets -underBinder y0
  try clear_value y0
  repeat' first
    | with_reducible first | assumption | apply keeps_ite | apply State.wr_keeps | apply capRefresh_keeps | apply chanWrite_keeps | apply cqTailWrite_keeps | apply errClrWrite_keeps | apply flowWrite_keeps | apply migCmdWrite_keeps | apply mrdCmdWrite_keeps | apply peerWrite_keeps | apply plainWrite_keeps | apply portEnableWrite_keeps | apply slwArmWrite_keeps

theorem fieldWriteReg_keeps {r : State} (f : Nat) (o : Nat) (v : Word) {s : State} (h3 : Keeps r s) : Keeps r (fieldWriteReg f o v s) := by
  unfold fieldWriteReg
  repeat' first
    | with_reducible first | assumption | apply keeps_ite | apply errClrWrite_keeps | apply fldCtlWrite_keeps | apply fldPwrWrite_keeps | apply occEmpty_keeps | apply plainWrite_keeps

theorem regWrite_keeps {r : State} (off : Nat) (v : Word) {s : State} (h2 : Keeps r s) : Keeps r (regWrite off v s) := by
  unfold regWrite
  repeat' first
    | with_reducible first | assumption | apply keeps_ite | apply admitHeld_keeps | apply coreRegWrite_keeps | apply fieldWriteReg_keeps | apply limbWriteReg_keeps | apply modWriteReg_keeps
    | split

theorem barWrite_keeps {r : State} (off : Nat) (v : Word) {s : State} (h2 : Keeps r s) : Keeps r (barWrite off v s) := by
  unfold barWrite
  repeat' first
    | with_reducible first | assumption | apply keeps_ite | apply regWrite_keeps | apply winDrop_keeps

theorem readClear_keeps {r : State} (off : Nat) (hi : Nat) (lo : Nat) {s : State} (h3 : Keeps r s) : Keeps r (readClear off hi lo s) := by
  unfold readClear
  repeat' first
    | with_reducible first | assumption | intro _ | apply keeps_ite | apply keeps_foldl_triple | apply keeps_foldl_first | apply keeps_foldl_pair | apply keeps_foldl | apply State.wr_keeps

theorem barRead_keeps {r : State} (off : Nat) (n : Nat) {s : State} (h2 : Keeps r s) : Keeps r (barRead off n s) := by
  unfold barRead
  extract_lets -underBinder y0 y1
  try clear_value y0
  try clear_value y1
  repeat' first
    | with_reducible first | assumption | apply keeps_ite | apply State.emit_keeps | apply State.satFld_keeps | apply readClear_keeps

theorem bar0_keeps {r : State} (write : Bool) (off : Nat) (size : Nat) (v : Word) {s : State} (h4 : Keeps r s) : Keeps r (bar0 write off size v s) := by
  unfold bar0
  repeat' first
    | with_reducible first | assumption | apply keeps_ite | apply State.emit_keeps | apply barRead_keeps | apply barWrite_keeps | apply winDrop_keeps

theorem noData_keeps {r : State} (write : Bool) (st : Nat) {s : State} (h2 : Keeps r s) : Keeps r (noData write st s) := by
  unfold noData
  repeat' first
    | with_reducible first | assumption | apply keeps_ite | apply State.emit_keeps

theorem waferAsk_keeps {r : State} (who : Nat) (loc : Nat) (dx : Nat) (dy : Nat) (a : Nat) (bs : List Byte) {s : State} (h6 : Keeps r s) : Keeps r (waferAsk who loc dx dy a bs s) := by
  unfold waferAsk
  extract_lets -underBinder y0
  try clear_value y0
  repeat' first
    | with_reducible first | assumption | intro _ | apply keeps_ite | apply keeps_foldl_triple | apply keeps_foldl_first | apply keeps_foldl_pair | apply keeps_foldl | apply askFrom_keeps

theorem storeAsk_keeps {r : State} (who : Nat) (loc : Nat) (f : Nat) (a : Nat) (bs : List Byte) {s : State} (h5 : Keeps r s) : Keeps r (storeAsk who loc f a bs s) := by
  unfold storeAsk
  repeat' first
    | with_reducible first | assumption | apply keeps_ite | apply waferAsk_keeps | apply waferWrite_keeps

theorem waferRead_keeps {r : State} (who : Nat) (off : Nat) (a : Nat) (dx : Nat) (dy : Nat) (n : Nat) {s : State} (h6 : Keeps r s) : Keeps r (waferRead who off a dx dy n s) := by
  unfold waferRead
  repeat' first
    | with_reducible first | assumption | apply askFrom_keeps

theorem coreAsk_keeps {r : State} (who : Nat) (loc : Nat) (c : Nat) (a : Nat) (bs : List Byte) {s : State} (h5 : Keeps r s) : Keeps r (coreAsk who loc c a bs s) := by
  unfold coreAsk
  repeat' first
    | with_reducible first | assumption | apply waferAsk_keeps

theorem bar2At_keeps {r : State} (write : Bool) (off : Nat) (addr : Nat) (n : Nat) (bs : List Byte) {s : State} (h5 : Keeps r s) : Keeps r (bar2At write off addr n bs s) := by
  unfold bar2At
  repeat' first
    | with_reducible first | assumption | apply keeps_ite | apply State.emit_keeps | apply addrError_keeps | apply bar2Err_keeps | apply coreAsk_keeps | apply noData_keeps | apply raise_keeps | apply storeAsk_keeps | apply waferRead_keeps | apply writeBytes_keeps | refine keeps_of_pair ?_ (by assumption)
    | split

theorem bar2_keeps {r : State} (write : Bool) (off : Nat) (len : Nat) (data : List Byte) {s : State} (h4 : Keeps r s) : Keeps r (bar2 write off len data s) := by
  unfold bar2
  extract_lets -underBinder y0 y1 y2 y3
  try clear_value y0
  try clear_value y1
  try clear_value y2
  try clear_value y3
  repeat' first
    | with_reducible first | assumption | apply keeps_ite | apply bar2At_keeps | apply bar2Err_keeps | apply noData_keeps

theorem execBar0Access_keeps {r : State} (write : Bool) (off : Nat) (size : Nat) (value : Word) {s : State} (h4 : Keeps r s) : KeepsR r (execBar0Access write off size value s) := by
  unfold execBar0Access
  repeat' first
    | with_reducible first | assumption | intro _ | apply keepsR_next | apply bar0_keeps | apply withReads_keeps

theorem execBar2Access_keeps {r : State} (write : Bool) (off : Nat) (len : Nat) (data : List Byte) {s : State} (h4 : Keeps r s) : KeepsR r (execBar2Access write off len data s) := by
  unfold execBar2Access
  repeat' first
    | with_reducible first | assumption | apply keepsR_next | apply bar2_keeps

theorem execBarReadTimeout_keeps {r : State} (bar : Nat) (off : Nat) {s : State} (h2 : Keeps r s) : KeepsR r (execBarReadTimeout bar off s) := by
  unfold execBarReadTimeout
  repeat' first
    | with_reducible first | assumption | apply keepsR_next | apply keeps_ite | apply State.emit_keeps | apply State.satFld_keeps | apply raise_keeps
    | split
    | dsimp only
    | with_reducible first | apply keeps_mk

theorem execRegisterRcRead_keeps {r : State} (off : Nat) {s : State} (h1 : Keeps r s) : KeepsR r (execRegisterRcRead off s) := by
  unfold execRegisterRcRead
  repeat' first
    | with_reducible first | assumption | apply keepsR_next | apply bar0_keeps

theorem execRegisterWrite_keeps {r : State} (off : Nat) (value : Word) {s : State} (h2 : Keeps r s) : KeepsR r (execRegisterWrite off value s) := by
  unfold execRegisterWrite
  repeat' first
    | with_reducible first | assumption | intro _ | apply keepsR_next | apply bar0_keeps | apply withReads_keeps

theorem xpScan_keeps {r : State} (op : Nat) (tag : Nat) (addr : Nat) (len : Nat) (need : Nat) (act : State → State) {s : State} (h5 : ∀ x0, Keeps r x0 → Keeps r (act x0)) (h6 : Keeps r s) : Keeps r (xpScan op tag addr len need act s) := by
  unfold xpScan
  extract_lets -underBinder y0 y1 y2 y3
  have ky0 : Keeps r y0 := by
    repeat' first
      | with_reducible first | assumption | apply keeps_ite | apply State.emit_keeps
  have ky3 : Keeps r y3 := by
    repeat' first
      | with_reducible first | assumption | apply keeps_ite | apply State.emit_keeps | apply h5
      | dsimp only [y3]
      | split
      | dsimp only
      | with_reducible first | apply keeps_mk
  repeat' first
    | with_reducible first | assumption | apply keeps_ite | apply State.emit_keeps | apply h5

theorem xpDone_keeps {r : State} (rstat : Nat) (data : List Byte) {s : State} (h2 : Keeps r s) : Keeps r (xpDone rstat data s) := by
  unfold xpDone
  extract_lets -underBinder y0
  try clear_value y0
  repeat' first
    | with_reducible assumption
    | dsimp only
    | with_reducible first | apply keeps_mk

theorem xpCore_keeps {r : State} (addr : Nat) (act : Nat → State → State) {s : State} (h1 : ∀ x0 x1, Keeps r x1 → Keeps r (act x0 x1)) (h2 : Keeps r s) : Keeps r (xpCore addr act s) := by
  unfold xpCore
  extract_lets -underBinder y0 y1
  try clear_value y0
  try clear_value y1
  repeat' first
    | with_reducible first | assumption | apply keeps_ite | apply xpDone_keeps | apply h1

theorem execXportHalt_keeps {r : State} (tag : Nat) (addr : Nat) {s : State} (h2 : Keeps r s) : KeepsR r (execXportHalt tag addr s) := by
  unfold execXportHalt
  repeat' first
    | with_reducible first | assumption | intro _ | apply keepsR_next | apply keeps_ite | apply admitHeld_keeps | apply haltCore_keeps | apply xpCore_keeps | apply xpScan_keeps

theorem xpWait_keeps {r : State} {s : State} (h0 : Keeps r s) : Keeps r (xpWait s) := by
  unfold xpWait
  extract_lets -underBinder y0
  try clear_value y0
  repeat' first
    | with_reducible assumption
    | dsimp only
    | with_reducible first | apply keeps_mk

theorem xpRead_keeps {r : State} (addr : Nat) (len : Nat) {s : State} (h2 : Keeps r s) : Keeps r (xpRead addr len s) := by
  unfold xpRead
  repeat' first
    | with_reducible first | assumption | apply keeps_ite | apply addrError_keeps | apply hostRead_keeps | apply waferRead_keeps | apply winError_keeps | apply xpDone_keeps | apply xpWait_keeps
    | split

theorem execXportRead_keeps {r : State} (tag : Nat) (addr : Nat) (len : Nat) {s : State} (h3 : Keeps r s) : KeepsR r (execXportRead tag addr len s) := by
  unfold execXportRead
  repeat' first
    | with_reducible first | assumption | intro _ | apply keepsR_next | apply keeps_ite | apply xpRead_keeps | apply xpScan_keeps

theorem execXportResume_keeps {r : State} (tag : Nat) (addr : Nat) {s : State} (h2 : Keeps r s) : KeepsR r (execXportResume tag addr s) := by
  unfold execXportResume
  repeat' first
    | with_reducible first | assumption | intro _ | apply keepsR_next | apply keeps_ite | apply admitHeld_keeps | apply runCore_keeps | apply xpCore_keeps | apply xpScan_keeps

theorem execXportStatus_keeps {r : State} (tag : Nat) (addr : Nat) {s : State} (h2 : Keeps r s) : KeepsR r (execXportStatus tag addr s) := by
  unfold execXportStatus
  repeat' first
    | with_reducible first | assumption | intro _ | apply keepsR_next | apply keeps_ite | apply xpCore_keeps | apply xpDone_keeps | apply xpScan_keeps

theorem execXportStep_keeps {r : State} (tag : Nat) (addr : Nat) {s : State} (h2 : Keeps r s) : KeepsR r (execXportStep tag addr s) := by
  unfold execXportStep
  repeat' first
    | with_reducible first | assumption | intro _ | apply keepsR_next | apply keeps_ite | apply stepCore_keeps | apply xpCore_keeps | apply xpScan_keeps

theorem xpWrite_keeps {r : State} (addr : Nat) (len : Nat) (data : List Byte) {s : State} (h3 : Keeps r s) : Keeps r (xpWrite addr len data s) := by
  unfold xpWrite
  extract_lets -underBinder y0
  try clear_value y0
  repeat' first
    | with_reducible first | assumption | apply keeps_ite | apply State.emit_keeps | apply addrError_keeps | apply coreAsk_keeps | apply storeAsk_keeps | apply winError_keeps | apply writeBytes_keeps | apply xpDone_keeps | apply xpWait_keeps | refine keeps_of_pair ?_ (by assumption)
    | split

theorem execXportWrite_keeps {r : State} (tag : Nat) (addr : Nat) (len : Nat) (data : List Byte) {s : State} (h4 : Keeps r s) : KeepsR r (execXportWrite tag addr len data s) := by
  unfold execXportWrite
  repeat' first
    | with_reducible first | assumption | intro _ | apply keepsR_next | apply keeps_ite | apply xpScan_keeps | apply xpWrite_keeps

theorem execDoorbell_keeps {r : State} (ring : Nat) (prod : Half) {s : State} (h2 : Keeps r s) : KeepsR r (execDoorbell ring prod s) := by
  unfold execDoorbell
  repeat' first
    | with_reducible first | assumption | apply keepsR_next | apply keeps_ite | apply State.setFld_keeps

theorem execLaunchRingEnable_keeps {r : State} (ring : Nat) {s : State} (h1 : Keeps r s) : KeepsR r (execLaunchRingEnable ring s) := by
  unfold execLaunchRingEnable
  repeat' first
    | with_reducible first | assumption | apply keepsR_next | apply keeps_ite | apply lrCtlWrite_keeps

theorem lrStop_keeps {r : State} (i : Nat) (cause : Nat) {s : State} (h2 : Keeps r s) : Keeps r (lrStop i cause s) := by
  unfold lrStop
  extract_lets -underBinder y0
  have ky0 : Keeps r y0 := by
    repeat' first
      | with_reducible first | assumption | apply State.setFld_keeps
  try clear_value y0
  repeat' first
    | with_reducible first | assumption | apply State.setFld_keeps | apply nlogEvent_keeps | apply raise_keeps

theorem lrTake_keeps {r : State} (i : Nat) (ws : List Word) {s : State} (h2 : Keeps r s) : Keeps r (lrTake i ws s) := by
  unfold lrTake
  extract_lets -underBinder y0 y1 y2
  try clear_value y0
  try clear_value y1
  have ky2 : Keeps r y2.2 := by
    try dsimp only [y2]
    repeat' first
      | with_reducible first | assumption | intro _ | apply State.modHost_keeps | apply clampReport_keeps | refine keeps_of_pair ?_ (by assumption)
  try clear_value y2
  repeat' first
    | with_reducible first | assumption | intro _ | apply State.modHost_keeps | apply clampReport_keeps | refine keeps_of_pair ?_ (by assumption)

theorem execCommandFetch_keeps {r : State} (ring : Nat) (words : Option (List Word)) {s : State} (h2 : Keeps r s) : KeepsR r (execCommandFetch ring words s) := by
  unfold execCommandFetch
  extract_lets -underBinder y0 y1
  try clear_value y0
  have ky1 : Keeps r y1 := by
    repeat' first
      | with_reducible first | assumption | apply keeps_ite | apply State.emit_keeps
  try clear_value y1
  repeat' first
    | with_reducible first | assumption | apply keepsR_next | apply keeps_ite | apply State.emit_keeps | apply lrStop_keeps | apply lrTake_keeps
    | split

theorem lrRecord_keeps {r : State} (i : Nat) (cq : Nat) (st : Nat) (k : LrCmd) (idx : Nat) (report : Nat) (n : Nat) (now : Word) {s : State} (h8 : Keeps r s) : Keeps r (lrRecord i cq st k idx report n now s) := by
  unfold lrRecord
  extract_lets -underBinder y0
  try clear_value y0
  repeat' first
    | with_reducible first | assumption | apply keeps_ite | apply postTo_keeps

theorem lrIssue_keeps {r : State} (i : Nat) (op : Nat) (act : LrCmd → State → Nat × State) {s : State} (h2 : ∀ x0 x1, Keeps r x1 → Keeps r ((act x0 x1)).2) (h3 : Keeps r s) : Keeps r (lrIssue i op act s) := by
  unfold lrIssue
  repeat' first
    | with_reducible first | assumption | intro _ | apply keeps_ite | apply State.modHost_keeps | apply State.setFld_keeps | apply lrRecord_keeps | apply h2
    | split

theorem execLrNop_keeps {r : State} (ring : Nat) {s : State} (h1 : Keeps r s) : KeepsR r (execLrNop ring s) := by
  unfold execLrNop
  repeat' first
    | with_reducible first | assumption | intro _ | apply keepsR_next | apply lrIssue_keeps

theorem execLaunch_keeps {r : State} (ring : Nat) {s : State} (h1 : Keeps r s) : KeepsR r (execLaunch ring s) := by
  unfold execLaunch
  repeat' first
    | with_reducible first | assumption | intro _ | apply keepsR_next | apply keeps_ite | apply launchAccept_keeps | apply lrIssue_keeps
    | split

theorem execAbandon_keeps {r : State} (ring : Nat) {s : State} (h1 : Keeps r s) : KeepsR r (execAbandon ring s) := by
  unfold execAbandon
  repeat' first
    | with_reducible first | assumption | intro _ | apply keepsR_next | apply abandon_keeps | apply lrIssue_keeps

theorem execLrArm_keeps {r : State} (ring : Nat) {s : State} (h1 : Keeps r s) : KeepsR r (execLrArm ring s) := by
  unfold execLrArm
  repeat' first
    | with_reducible first | assumption | intro _ | apply keepsR_next | apply keeps_ite | apply armChan_keeps | apply lrIssue_keeps
    | split
    | dsimp only

theorem execLrPlan_keeps {r : State} (ring : Nat) {s : State} (h1 : Keeps r s) : KeepsR r (execLrPlan ring s) := by
  unfold execLrPlan
  repeat' first
    | with_reducible first | assumption | intro _ | apply keepsR_next | apply keeps_ite | apply lrIssue_keeps | apply mrdCmdWrite_keeps | apply withReads_keeps
    | split
    | dsimp only

theorem execLoad_keeps {r : State} (ring : Nat) (source : Option (List Byte)) {s : State} (h2 : Keeps r s) : KeepsR r (execLoad ring source s) := by
  unfold execLoad
  repeat' first
    | with_reducible first | assumption | intro _ | apply keepsR_next | apply doLoad_keeps | apply lrIssue_keeps | apply withReads_keeps | refine keeps_of_pair ?_ (by assumption)

theorem execFstart_keeps {r : State} (ring : Nat) {s : State} (h1 : Keeps r s) : KeepsR r (execFstart ring s) := by
  unfold execFstart
  repeat' first
    | with_reducible first | assumption | intro _ | apply keepsR_next | apply doFstart_keeps | apply lrIssue_keeps | refine keeps_of_pair ?_ (by assumption)

theorem execQuiesce_keeps {r : State} (ring : Nat) {s : State} (h1 : Keeps r s) : KeepsR r (execQuiesce ring s) := by
  unfold execQuiesce
  repeat' first
    | with_reducible first | assumption | intro _ | apply keepsR_next | apply doQuiesce_keeps | apply lrIssue_keeps

theorem execLrWrite_keeps {r : State} (ring : Nat) {s : State} (h1 : Keeps r s) : KeepsR r (execLrWrite ring s) := by
  unfold execLrWrite
  repeat' first
    | with_reducible first | assumption | intro _ | apply keepsR_next | apply keeps_ite | apply barWrite_keeps | apply lrIssue_keeps | apply withReads_keeps
    | split
    | dsimp only

theorem accrueSeam_keeps {r : State} (ns : Nat) {s : State} (h1 : Keeps r s) : Keeps r (accrueSeam ns s) := by
  unfold accrueSeam
  repeat' first
    | with_reducible first | assumption | intro _ | apply keeps_ite | apply State.modChr_keeps

theorem tick_keeps {r : State} {s : State} (h0 : Keeps r s) : Keeps r (tick s) := by
  unfold tick
  repeat' first
    | with_reducible first | assumption | intro _ | apply keeps_ite | apply keeps_forEach | apply accrueSeam_keeps | apply accrueStall_keeps | apply tickTime_keeps

end Sys2Proof.Machine
end

