-- ==== Sys2Proof/Laws/Vector.lean ====
section
/-! SUPPORT. Laws of vector registers by elements: what an element of a register built from elements is. -/

namespace Sys2Proof.Machine

theorem ofElems_lt (w : Nat) (l : List Nat) : ofElems w l < 2 ^ (w * l.length) := by
  induction l with
  | nil => simp [ofElems]
  | cons a l ih =>
    have h1 : a % 2 ^ w < 2 ^ w := Nat.mod_lt _ (Nat.two_pow_pos _)
    have h2 : (ofElems w l + 1) * 2 ^ w ≤ 2 ^ (w * l.length) * 2 ^ w := Nat.mul_le_mul_right _ ih
    rw [ofElems, List.length_cons, Nat.mul_add, Nat.mul_one, pow_add]
    nlinarith

theorem ofElems_elem (w : Nat) (l : List Nat) (i : Nat) : (ofElems w l >>> (w * i)) % 2 ^ w = (l.getD i 0) % 2 ^ w := by
  induction l generalizing i with
  | nil => simp [ofElems]
  | cons a l ih =>
    cases i with
    | zero => simp [ofElems]
    | succ i =>
      have h1 : a % 2 ^ w < 2 ^ w := Nat.mod_lt _ (Nat.two_pow_pos _)
      have h2 : (a % 2 ^ w + ofElems w l * 2 ^ w) / 2 ^ w = ofElems w l := by
        rw [Nat.add_mul_div_right _ _ (Nat.two_pow_pos _), Nat.div_eq_of_lt h1, Nat.zero_add]
      rw [ofElems, show w * (i + 1) = w + w * i by rw [Nat.mul_add]; omega, Nat.shiftRight_add, Nat.shiftRight_eq_div_pow _ w, h2, ih]
      simp

/-- Element i of a register made of elements. -/
theorem elem_mkVec {w n i : Nat} (f : Nat → Nat) (hi : i < n) (h : w * n ≤ 512) : elem w (mkVec w n f) i = f i % 2 ^ w := by
  have hl : ofElems w ((List.range n).map f) < 2 ^ 512 :=
    lt_of_lt_of_le (ofElems_lt _ _) (Nat.pow_le_pow_right (by omega) (by simpa using h))
  rw [elem, mkVec, BitVec.toNat_ofNat, Nat.mod_eq_of_lt hl, ofElems_elem]
  simp [hi]

theorem viewWidth_viewCount (ty : Nat) : viewWidth ty * viewCount ty ≤ 512 := by
  unfold viewWidth viewCount
  split_ifs <;> omega

/-- Element i of a register whose active elements are new and whose others stay. -/
theorem elem_mergeVec {e : BitVec 16} {ty i : Nat} (old : BitVec 512) (f : Nat → Nat) (hi : i < viewCount ty) :
    elem (viewWidth ty) (mergeVec e ty old f) i = if active e ty i then f i % 2 ^ viewWidth ty else elem (viewWidth ty) old i := by
  rw [mergeVec, elem_mkVec _ hi (viewWidth_viewCount ty)]
  split
  · rfl
  · exact Nat.mod_eq_of_lt (Nat.mod_lt _ (Nat.two_pow_pos _))

end Sys2Proof.Machine
end

