-- ==== Sys2Proof/Tests/Slice0.lean ====
section
/-! SUPPORT. Tests: the well-formedness checks refuse what does not fit, instruction words written out from the manual's encodings are read as the instructions they stand for, and for every claim a state and operands that meet its hypotheses. -/

open Sys2Proof Sys2Proof.Machine Sys2Proof.Claims

namespace Sys2Proof.Tests

set_option Elab.async false

/-! ### States for the tests -/

/-- The state after reset with registers set. -/
def withRegs (l : List (Nat × Nat)) (s : State) : State := l.foldl (fun t p => t.wr p.1 (wd p.2)) s

/-- An instruction word: class, OP, predicate p0, body (R130). -/
def iw (cls op body : Nat) : Word := wd (cls * 2 ^ 60 + op * 2 ^ 54 + body)

/-- Core 0 in STATE 1 in its compute window at PC 0, its field powered, with a word at PC 0. -/
def at0 (w : Word) : State :=
  (withRegs [(0x1000600, 0x2A000000), (rCoreStat 0, 9), (rCoreCtl 0, 0)] State.reset).modCore 0 (fun k => { k with istore := [(0, eccEncode w false 0)] })

/-- What `Fetches` asks of core c at w, as a computation. -/
def fetchB (c : Nat) (w : Word) (s : State) : Bool := canIssue s c && (cwRead (s.core c).istore (corePc s c) == .clean ⟨w, false⟩) && legal w

/-- What `Goes` asks of core c, as a computation, with the Eyepiece port locked. -/
def goesB (c : Nat) (s : State) : Bool := !s.flag (rCoreCtl c) 2 && !(s.core c).wptHit && !dbgUnlocked s && decide (corePc s c < 8191)

/-- What `Executes` asks of core c at w, as a computation. -/
def runs (c cls op : Nat) (w : Word) (s : State) : Bool :=
  fetchB c w s && goesB c s && (iClass w == cls) && (iOp w == op) && (elementwise cls || (effPred (s.core c) w).getLsbD 0) && !predOwed (s.core c) w && !interlocked (s.core c) w

theorem fetches_of {c : Nat} {w : Word} {s : State} (h : fetchB c w s = true) : Fetches c w s := by
  simp only [fetchB, Bool.and_eq_true, beq_iff_eq] at h
  exact ⟨h.1.1, h.1.2, h.2⟩

theorem goes_of {c : Nat} {s : State} (h : goesB c s = true) : Goes c s := by
  simp only [goesB, Bool.and_eq_true, Bool.not_eq_true', decide_eq_true_eq] at h
  exact ⟨h.1.1.1, h.1.1.2, fun kind word => by simp [wptMatch, h.1.2], h.2⟩

theorem executes_of {c cls op : Nat} {w : Word} {s : State} (h : runs c cls op w s = true) : Executes c cls op w s := by
  simp only [runs, Bool.and_eq_true, beq_iff_eq, Bool.or_eq_true, Bool.not_eq_true'] at h
  obtain ⟨⟨⟨⟨⟨⟨hf, hg⟩, hc⟩, ho⟩, hp⟩, hw⟩, hi⟩ := h
  exact ⟨fetches_of hf, goes_of hg, hc, ho, hw, hi, hp⟩


/-! ### Instruction words written out from the encodings -/

/-- ADD s3, s1, s2 (R138): CLASS 0x2, OP 0, SD 3, SA 1, SB 2. -/
theorem test_word_add : (legal 0x2000611000000000 && iClass 0x2000611000000000 == 2 && iOp 0x2000611000000000 == 0 && bits 0x2000611000000000 49 45 == 3 &&
    bits 0x2000611000000000 44 40 == 1 && bits 0x2000611000000000 39 35 == 2) = true := by decide +kernel

/-- s3 = s1 + s2 wraps modulo 2^64 (R139): 2^64 − 1 plus 2 is 1. -/
theorem test_add_wraps : (match exec (.add 0) ((at0 0x2000611000000000).modCore 0 (fun k => writeS 1 0xFFFFFFFFFFFFFFFF (writeS 2 2 k))) with
    | .next t => readS (t.core 0) 3 == 1 && corePc t 0 == 1
    | _ => false) = true := by decide +kernel

/-- LIH s1, s1, 0x12345678 replaces the high half (R142). -/
theorem test_lih : (match exec (.lih 0) ((at0 (iw 3 0x0A (2 ^ 45 + 2 ^ 40 + 0x12345678))).modCore 0 (fun k => writeS 1 0x9ABCDEF0 k)) with
    | .next t => readS (t.core 0) 1 == 0x123456789ABCDEF0
    | _ => false) = true := by decide +kernel

/-- A reserved OP of the scalar class is an illegal encoding (R211). -/
theorem test_reserved_op : legal (iw 2 0x13 0) = false := by decide +kernel

/-- The three worked places of R98: an arrival of the same generation counts, a later one starts again at 1, an earlier one is counted STALE. -/
theorem test_token_same : (match exec (.tokenArrival 0 5 7) (withRegs [(rCoreTok 0 5, 3 * 65536 + 7)] State.reset) with
    | .next t => t.rd (rCoreTok 0 5) == 4 * 65536 + 7
    | _ => false) = true := by decide +kernel
theorem test_token_later : (match exec (.tokenArrival 0 5 0x8006) (withRegs [(rCoreTok 0 5, 3 * 65536 + 7)] State.reset) with
    | .next t => t.rd (rCoreTok 0 5) == 65536 + 0x8006
    | _ => false) = true := by decide +kernel

/-- R12's worked example: P(200,95) lies in field F(6,3). -/
theorem test_field_of : fieldOf (coreAt 200 95) = 14 * 3 + 6 := by decide +kernel

/-- The rows of the table carry no bits: no word spells a command. -/
theorem test_no_table_word : decodeTableWord 64 0x2000611000000000 = none := rfl

/-! ### Claims about instructions: states that meet their hypotheses -/

/-- A legal word of a class and operation: vd or sd is register 1 in the scalar classes, the logical vector operations are in the I32 view, VCVT goes from view 0 to view 1, and SYS.WR writes sys.MB. -/
def wordOf (cls op : Nat) : Word :=
  iw cls op (if cls = 2 || cls = 3 then 2 ^ 45 else if cls = 1 && op = 4 then 1 else if cls = 5 && op = 15 then 2 ^ 13
    else if cls = 5 && 17 ≤ op && op ≤ 22 then 4 * 2 ^ 31 else 0)

/-- Core 0 about to execute `wordOf`. -/
def atOp (cls op : Nat) : State := at0 (wordOf cls op)

theorem executes_list (cls : Nat) (l : List Nat) (h : l.all (fun op => runs 0 cls op (wordOf cls op) (atOp cls op)) = true) :
    ∀ op ∈ l, Executes (0 : CoreId).val cls op (wordOf cls op) (atOp cls op) :=
  fun op hop => executes_of (List.all_eq_true.mp h op hop)

theorem witness_IntegerScalarResult : ∀ op ∈ intOps.map (fun e => e.2.1), Executes (0 : CoreId).val 2 op (wordOf 2 op) (atOp 2 op) := executes_list 2 _ (by decide +kernel)
theorem witness_FloatScalarResult : ∀ op ∈ floatOps.map (fun e => e.2.1), Executes (0 : CoreId).val 2 op (wordOf 2 op) (atOp 2 op) := executes_list 2 _ (by decide +kernel)
theorem witness_ImmediateScalarResult : ∀ op ∈ immOps.map (fun e => e.2.1), Executes (0 : CoreId).val 3 op (wordOf 3 op) (atOp 3 op) := executes_list 3 _ (by decide +kernel)
theorem witness_ElementwiseResult : ∀ op ∈ elementOps.map (fun e => e.2.1), Executes (0 : CoreId).val 5 op (wordOf 5 op) (atOp 5 op) := executes_list 5 _ (by decide +kernel)
theorem witness_VectorSumResult : ∀ op ∈ sumOps.map (fun e => e.2.1), Executes (0 : CoreId).val 5 op (wordOf 5 op) (atOp 5 op) := executes_list 5 _ (by decide +kernel)
theorem witness_VectorMoveResult : ∀ op ∈ [0x09, 0x0C, 0x0D, 0x0E], Executes (0 : CoreId).val 5 op (wordOf 5 op) (atOp 5 op) := executes_list 5 _ (by decide +kernel)
theorem witness_VectorCompareResult : ∀ op ∈ [0x08], Executes (0 : CoreId).val 5 op (wordOf 5 op) (atOp 5 op) := executes_list 5 _ (by decide +kernel)
theorem witness_VectorConvertResult : ∀ op ∈ [0x0F, 0x19], Executes (0 : CoreId).val 5 op (wordOf 5 op) (atOp 5 op) := executes_list 5 _ (by decide +kernel)
theorem witness_PredicateResult : ∀ op ∈ List.range 9, Executes (0 : CoreId).val 7 op (wordOf 7 op) (atOp 7 op) := executes_list 7 _ (by decide +kernel)
theorem witness_ControlTransfer : ∀ op ∈ List.range 10, Executes (0 : CoreId).val 0 op (wordOf 0 op) (atOp 0 op) := executes_list 0 _ (by decide +kernel)
theorem witness_StopAndBreakHalt : ∀ op ∈ [1, 2], Executes (0 : CoreId).val 1 op (wordOf 1 op) (atOp 1 op) := executes_list 1 _ (by decide +kernel)

/-- JR s1 with the last word address of the instruction store, and with the first beyond it. -/
def jrWord : Word := iw 0 8 (2 ^ 45)
def jrState (x : Nat) : State := (at0 jrWord).modCore 0 (writeS 1 (wd x))
theorem witness_ControlTransfer_jr : (Executes (0 : CoreId).val 0 8 jrWord (jrState 8191) ∧ (opnd (jrState 8191) 0 jrWord 49 45).toNat < 8192) ∧
    (Executes (0 : CoreId).val 0 8 jrWord (jrState 8192) ∧ 8192 ≤ (opnd (jrState 8192) 0 jrWord 49 45).toNat) :=
  have h : (runs 0 0 8 jrWord (jrState 8191) = true ∧ (opnd (jrState 8191) 0 jrWord 49 45).toNat < 8192) ∧
    (runs 0 0 8 jrWord (jrState 8192) = true ∧ 8192 ≤ (opnd (jrState 8192) 0 jrWord 49 45).toNat) := by decide +kernel
  ⟨⟨executes_of h.1.1, h.1.2⟩, executes_of h.2.1, h.2.2⟩

/-- NOP, SYS.RD, SYS.WR and the fences on empty queues; and the fences while an array instruction and a message wait. -/
theorem witness_SystemInstructions : ∀ op ∈ [0, 3, 4, 5, 6, 7], Executes (0 : CoreId).val 1 op (wordOf 1 op) (atOp 1 op) := executes_list 1 _ (by decide +kernel)
def fenceState (op : Nat) : State := (atOp 1 op).modCore 0 (fun k => { k with arrayq := [captureArr (atOp 8 2) 0 (wordOf 8 2)], sendq := [⟨wordOf 9 0, 0, 0, 0⟩] })
theorem witness_SystemInstructions_wait : ∀ op ∈ [5, 6, 7], Executes (0 : CoreId).val 1 op (wordOf 1 op) (fenceState op) ∧ ((fenceState op).core 0).arrayq ≠ [] ∧ ((fenceState op).core 0).sendq ≠ [] :=
  have h : ∀ op ∈ [5, 6, 7], runs 0 1 op (wordOf 1 op) (fenceState op) = true ∧ ((fenceState op).core 0).arrayq ≠ [] ∧ ((fenceState op).core 0).sendq ≠ [] := by decide +kernel
  fun op ho => ⟨executes_of (h op ho).1, (h op ho).2⟩

/-- A load or store of the last aligned place of the core store, whose last word reads clean. -/
def memWord (op : Nat) : Word := iw 4 op (2 * 2 ^ 45 + 2 ^ 40)
def memState (op addr : Nat) : State :=
  (at0 (memWord op)).modCore 0 (fun k => { writeS 1 (wd addr) k with store := [(0xFFFF, eccEncode 0x1122334455667788 false 0xFFFF)] })
theorem witness_LoadResult : ∀ op < 7, Executes (0 : CoreId).val 4 op (memWord op) (memState op (0x80000 - 2 ^ (op / 2))) ∧ ownsBanks (memState op (0x80000 - 2 ^ (op / 2))) 0 = true ∧
    scalarAddr (memState op (0x80000 - 2 ^ (op / 2))) 0 (memWord op) + 2 ^ (op / 2) ≤ 0x80000 ∧ scalarAddr (memState op (0x80000 - 2 ^ (op / 2))) 0 (memWord op) % 2 ^ (op / 2) = 0 ∧
    Holds 0 (scalarAddr (memState op (0x80000 - 2 ^ (op / 2))) 0 (memWord op) / 8) 0x1122334455667788 (memState op (0x80000 - 2 ^ (op / 2))) :=
  have h : ∀ op < 7, runs 0 4 op (memWord op) (memState op (0x80000 - 2 ^ (op / 2))) = true ∧ ownsBanks (memState op (0x80000 - 2 ^ (op / 2))) 0 = true ∧
    scalarAddr (memState op (0x80000 - 2 ^ (op / 2))) 0 (memWord op) + 2 ^ (op / 2) ≤ 0x80000 ∧ scalarAddr (memState op (0x80000 - 2 ^ (op / 2))) 0 (memWord op) % 2 ^ (op / 2) = 0 ∧
    cwRead ((memState op (0x80000 - 2 ^ (op / 2))).core 0).store (scalarAddr (memState op (0x80000 - 2 ^ (op / 2))) 0 (memWord op) / 8) = .clean ⟨0x1122334455667788, false⟩ := by decide +kernel
  fun op ho => ⟨executes_of (h op ho).1, (h op ho).2⟩
theorem witness_StoreResult : ∀ n < 4, Executes (0 : CoreId).val 4 (8 + n) (memWord (8 + n)) (memState (8 + n) (0x80000 - 2 ^ n)) ∧ ownsBanks (memState (8 + n) (0x80000 - 2 ^ n)) 0 = true ∧
    scalarAddr (memState (8 + n) (0x80000 - 2 ^ n)) 0 (memWord (8 + n)) + 2 ^ n ≤ 0x80000 ∧ scalarAddr (memState (8 + n) (0x80000 - 2 ^ n)) 0 (memWord (8 + n)) % 2 ^ n = 0 ∧
    Holds 0 (scalarAddr (memState (8 + n) (0x80000 - 2 ^ n)) 0 (memWord (8 + n)) / 8) 0x1122334455667788 (memState (8 + n) (0x80000 - 2 ^ n)) :=
  have h : ∀ n < 4, runs 0 4 (8 + n) (memWord (8 + n)) (memState (8 + n) (0x80000 - 2 ^ n)) = true ∧ ownsBanks (memState (8 + n) (0x80000 - 2 ^ n)) 0 = true ∧
    scalarAddr (memState (8 + n) (0x80000 - 2 ^ n)) 0 (memWord (8 + n)) + 2 ^ n ≤ 0x80000 ∧ scalarAddr (memState (8 + n) (0x80000 - 2 ^ n)) 0 (memWord (8 + n)) % 2 ^ n = 0 ∧
    cwRead ((memState (8 + n) (0x80000 - 2 ^ n)).core 0).store (scalarAddr (memState (8 + n) (0x80000 - 2 ^ n)) 0 (memWord (8 + n)) / 8) = .clean ⟨0x1122334455667788, false⟩ := by decide +kernel
  fun op ho => ⟨executes_of (h op ho).1, (h op ho).2⟩

/-- One byte beyond the end for each size, and a misaligned place for each size above a byte. -/
theorem witness_ScalarAccessFaults : (∀ op < 12, op ≠ 7 → Executes (0 : CoreId).val 4 op (memWord op) (memState op (0x80001 - 2 ^ (if op < 8 then op / 2 else op - 8))) ∧
      0x80000 < scalarAddr (memState op (0x80001 - 2 ^ (if op < 8 then op / 2 else op - 8))) 0 (memWord op) + 2 ^ (if op < 8 then op / 2 else op - 8)) ∧
    ∀ op < 12, op ≠ 7 → 0 < (if op < 8 then op / 2 else op - 8) → Executes (0 : CoreId).val 4 op (memWord op) (memState op 1) ∧
      scalarAddr (memState op 1) 0 (memWord op) + 2 ^ (if op < 8 then op / 2 else op - 8) ≤ 0x80000 ∧ scalarAddr (memState op 1) 0 (memWord op) % 2 ^ (if op < 8 then op / 2 else op - 8) ≠ 0 :=
  have h : (∀ op < 12, op ≠ 7 → runs 0 4 op (memWord op) (memState op (0x80001 - 2 ^ (if op < 8 then op / 2 else op - 8))) = true ∧
      0x80000 < scalarAddr (memState op (0x80001 - 2 ^ (if op < 8 then op / 2 else op - 8))) 0 (memWord op) + 2 ^ (if op < 8 then op / 2 else op - 8)) ∧
    ∀ op < 12, op ≠ 7 → 0 < (if op < 8 then op / 2 else op - 8) → runs 0 4 op (memWord op) (memState op 1) = true ∧
      scalarAddr (memState op 1) 0 (memWord op) + 2 ^ (if op < 8 then op / 2 else op - 8) ≤ 0x80000 ∧ scalarAddr (memState op 1) 0 (memWord op) % 2 ^ (if op < 8 then op / 2 else op - 8) ≠ 0 := by decide +kernel
  ⟨fun op h1 h2 => ⟨executes_of (h.1 op h1 h2).1, (h.1 op h1 h2).2⟩, fun op h1 h2 h3 => ⟨executes_of (h.2 op h1 h2 h3).1, (h.2 op h1 h2 h3).2⟩⟩

/-- In the I32 view the sum of the largest number and 0 fits; element 0 of an inactive predicate need not. -/
def sumWord : Word := iw 5 0 (4 * 2 ^ 31)
def sumState : State := (at0 sumWord).modCore 0 (writeV 0 0x7FFFFFFF)
theorem witness_VectorSumResult_fits : Executes (0 : CoreId).val 5 0 sumWord sumState ∧ bits sumWord 33 31 = 4 ∧ sx 32 ((vArg 0 sumWord sumState).ea 1) + sx 32 ((vArg 0 sumWord sumState).eb 1) < 2 ^ 31 :=
  have h : runs 0 5 0 sumWord sumState = true ∧ bits sumWord 33 31 = 4 ∧ sx 32 ((vArg 0 sumWord sumState).ea 1) + sx 32 ((vArg 0 sumWord sumState).eb 1) < 2 ^ 31 := by decide +kernel
  ⟨executes_of h.1, h.2⟩

/-- Vector loads and stores at address 0 with only element 0 active in the scattered forms and every element in the plain ones: the first words of the store read clean. -/
def vmWord (op : Nat) : Word := iw 6 op 0
def vmState (op : Nat) : State := (at0 (vmWord op)).modCore 0 (fun k => { k with store := (List.range 16).map (fun i => (i, eccEncode 0 false i)) })
theorem vm_ok : ∀ op ∈ [0, 1, 2, 3, 4, 8, 9, 10, 11], runs 0 6 op (vmWord op) (vmState op) = true ∧ ownsBanks (vmState op) 0 = true ∧
    (∀ i < 32, (i < (if op % 8 = 1 then 32 else 16) ∧ (effPred ((vmState op).core 0) (vmWord op)).getLsbD (i % 16) = true) → (vmAddr ((vmState op).core 0) (vmWord op) i + 4 ≤ 0x80000 ∧
      (if op % 8 = 0 then vmAddr ((vmState op).core 0) (vmWord op) 0 % 64 = 0 else if op % 8 = 1 then vmAddr ((vmState op).core 0) (vmWord op) 0 % 128 = 0 else vmAddr ((vmState op).core 0) (vmWord op) i % 4 = 0)) ∧
      cwRead ((vmState op).core 0).store (vmAddr ((vmState op).core 0) (vmWord op) i / 8) = .clean ⟨0, false⟩) := by decide +kernel
theorem witness_VectorMemory : ∀ op ∈ [0, 1, 2, 3, 4, 8, 9, 10, 11], Executes (0 : CoreId).val 6 op (vmWord op) (vmState op) ∧ ownsBanks (vmState op) (0 : CoreId).val = true ∧
    Reachable ((vmState op).core (0 : CoreId).val) op (vmWord op) ∧
    ∀ i, memElement (effPred ((vmState op).core (0 : CoreId).val) (vmWord op)) op i → Holds (0 : CoreId).val (vmAddr ((vmState op).core (0 : CoreId).val) (vmWord op) i / 8) 0 (vmState op) :=
  fun op ho => ⟨executes_of (vm_ok op ho).1, (vm_ok op ho).2.1,
    fun i hi => ((vm_ok op ho).2.2 i (by have := hi.1; split at this <;> omega) hi).1, fun i hi => ((vm_ok op ho).2.2 i (by have := hi.1; split at this <;> omega) hi).2⟩
/-- A word whose predicate is p1, which reads 0 after reset. -/
def wordOff (cls op : Nat) : Word := wordOf cls op + wd (2 ^ 51)
theorem witness_PredicatedOff : ∀ cls ∈ [0, 1, 2, 3, 4, 7, 8, 9, 10], Fetches (0 : CoreId).val (wordOff cls 0) (at0 (wordOff cls 0)) ∧ Goes (0 : CoreId).val (at0 (wordOff cls 0)) ∧
    iClass (wordOff cls 0) = cls ∧ iOp (wordOff cls 0) = 0 ∧ predOwed ((at0 (wordOff cls 0)).core (0 : CoreId).val) (wordOff cls 0) = false ∧
    (effPred ((at0 (wordOff cls 0)).core (0 : CoreId).val) (wordOff cls 0)).getLsbD 0 = false :=
  have h : ∀ cls ∈ [0, 1, 2, 3, 4, 7, 8, 9, 10], fetchB 0 (wordOff cls 0) (at0 (wordOff cls 0)) = true ∧ goesB 0 (at0 (wordOff cls 0)) = true ∧
    iClass (wordOff cls 0) = cls ∧ iOp (wordOff cls 0) = 0 ∧ predOwed ((at0 (wordOff cls 0)).core 0) (wordOff cls 0) = false ∧
    (effPred ((at0 (wordOff cls 0)).core 0) (wordOff cls 0)).getLsbD 0 = false := by decide +kernel
  fun cls hc => ⟨fetches_of (h cls hc).1, goes_of (h cls hc).2.1, (h cls hc).2.2⟩

/-- Class 0xF has no instruction (R211). -/
theorem witness_IllegalEncodingFaults : canIssue (at0 (iw 15 0 0)) (0 : CoreId).val = true ∧
    cwRead ((at0 (iw 15 0 0)).core (0 : CoreId).val).istore (corePc (at0 (iw 15 0 0)) (0 : CoreId).val) = .clean ⟨iw 15 0 0, false⟩ ∧ legal (iw 15 0 0) = false := by decide +kernel

/-- Room for the eighth entry of the array queue, and a full one. -/
def arrState (op n : Nat) : State := (atOp 8 op).modCore 0 (fun k => { k with arrayq := List.replicate n (captureArr (atOp 8 2) 0 (wordOf 8 2)) })
theorem witness_TensorIssue : ∀ op ∈ tensorOps.map (fun e => e.2), ∀ n ∈ [7, 8], Executes (0 : CoreId).val 8 op (wordOf 8 op) (arrState op n) ∧
    (∀ r ∈ tensorRanges (0 : CoreId).val (wordOf 8 op) (arrState op n), r.1 + r.2 ≤ 0x80000 ∧ r.1 % 64 = 0) ∧ ((arrState op n).core 0).arrayq.length = n :=
  have h : ∀ op ∈ tensorOps.map (fun e => e.2), ∀ n ∈ [7, 8], runs 0 8 op (wordOf 8 op) (arrState op n) = true ∧
    (∀ r ∈ tensorRanges 0 (wordOf 8 op) (arrState op n), r.1 + r.2 ≤ 0x80000 ∧ r.1 % 64 = 0) ∧ ((arrState op n).core 0).arrayq.length = n := by decide +kernel
  fun op ho n hn => ⟨executes_of (h op ho n hn).1, (h op ho n hn).2⟩
/-- A TLD of one line from s1, which starts one line below the end of the store, at its end, and off a line. -/
def tldWord : Word := iw 8 0 (2 ^ 45)
def tldAt (a : Nat) : State := (at0 tldWord).modCore 0 (writeS 1 (wd a))
theorem witness_TensorIssue_faults : (∀ a ∈ [0x7FFC0, 0x80000, 0x7FF80 + 8], Executes (0 : CoreId).val 8 0 tldWord (tldAt a)) ∧
    tensorRanges (0 : CoreId).val tldWord (tldAt 0x7FFC0) = [(0x7FFC0, 64)] ∧ tensorRanges (0 : CoreId).val tldWord (tldAt 0x80000) = [(0x80000, 64)] ∧
    tensorRanges (0 : CoreId).val tldWord (tldAt (0x7FF80 + 8)) = [(0x7FF88, 64)] :=
  have h : (∀ a ∈ [0x7FFC0, 0x80000, 0x7FF80 + 8], runs 0 8 0 tldWord (tldAt a) = true) ∧
    tensorRanges 0 tldWord (tldAt 0x7FFC0) = [(0x7FFC0, 64)] ∧ tensorRanges 0 tldWord (tldAt 0x80000) = [(0x80000, 64)] ∧ tensorRanges 0 tldWord (tldAt (0x7FF80 + 8)) = [(0x7FF88, 64)] := by decide +kernel
  ⟨fun a ha => executes_of (h.1 a ha), h.2⟩

/-- A TEMIT in the queue that owes p1: PTO of p1, and an instruction under p1. -/
def owesP1 (w : Word) : State := (at0 w).modCore 0 (fun k => { k with arrayq := [captureArr (at0 0) 0 (iw 8 3 (2 ^ 7))] })
theorem witness_Interlocks : (Fetches (0 : CoreId).val (iw 7 7 (2 ^ 44)) (owesP1 (iw 7 7 (2 ^ 44))) ∧ interlocked ((owesP1 (iw 7 7 (2 ^ 44))).core (0 : CoreId).val) (iw 7 7 (2 ^ 44)) = true ∧
      (effPred ((owesP1 (iw 7 7 (2 ^ 44))).core (0 : CoreId).val) (iw 7 7 (2 ^ 44))).getLsbD 0 = true) ∧
    (Fetches (0 : CoreId).val (wordOf 2 0 + wd (2 ^ 51)) (owesP1 (wordOf 2 0 + wd (2 ^ 51))) ∧ predOwed ((owesP1 (wordOf 2 0 + wd (2 ^ 51))).core (0 : CoreId).val) (wordOf 2 0 + wd (2 ^ 51)) = true) :=
  have h : (fetchB 0 (iw 7 7 (2 ^ 44)) (owesP1 (iw 7 7 (2 ^ 44))) = true ∧ interlocked ((owesP1 (iw 7 7 (2 ^ 44))).core 0) (iw 7 7 (2 ^ 44)) = true ∧
      (effPred ((owesP1 (iw 7 7 (2 ^ 44))).core 0) (iw 7 7 (2 ^ 44))).getLsbD 0 = true) ∧
    (fetchB 0 (wordOf 2 0 + wd (2 ^ 51)) (owesP1 (wordOf 2 0 + wd (2 ^ 51))) = true ∧ predOwed ((owesP1 (wordOf 2 0 + wd (2 ^ 51))).core 0) (wordOf 2 0 + wd (2 ^ 51)) = true) := by decide +kernel
  ⟨⟨fetches_of h.1.1, h.1.2⟩, fetches_of h.2.1, h.2.2⟩

/-- One instruction in the array queue, waiting or started. -/
def oneArr (op : Nat) (st : Bool) : ArrOp := { captureArr (atOp 8 op) 0 (wordOf 8 op) with started := st }
def oneState (op : Nat) (st : Bool) : State := (atOp 8 op).modCore 0 (fun k => { k with arrayq := [oneArr op st] })
theorem witness_ArrayStartAndDone : (∀ op ∈ [2, 3, 4, 5], ∀ st ∈ [false, true], ((oneState op st).core 0).arrayq = [oneArr op st] ∧ (oneArr op st).started = st ∧ iOp (oneArr op st).word = op ∧
    ownsBanks (oneState op st) 0 = true ∧ coreRunning (oneState op st) 0 = true ∧ ((oneState op st).core 0).haltTo = none) := by decide +kernel
/-- A TLD of one line from address 0, of words that read clean; a TMAC on clean buffers; the TSUMs; accumulators without a parity error. -/
theorem zero_clean : badSegment Acc.zero = none := by decide +kernel
theorem empty_clean (k : Core) (h : k.acc = []) : badParity k (List.range 256) = none := by simp [badParity, accOf, h, tget, tfind, zero_clean]
theorem witness_ArrayWork : (∀ op ∈ [0, 1, 3, 4, 5], ((oneState op false).core 0).arrayq = [oneArr op false] ∧ (oneArr op false).started = false ∧ iOp (oneArr op false).word = op ∧
    ownsBanks (oneState op false) 0 = true ∧ coreRunning (oneState op false) 0 = true ∧ ((oneState op false).core 0).haltTo = none ∧ badParity ((oneState op false).core 0) (List.range 256) = none) ∧
    (bufAll ((oneState 1 false).core 0) (readRanges (oneArr 1 false))).toBool = true :=
  have h : (∀ op ∈ [0, 1, 3, 4, 5], ((oneState op false).core 0).arrayq = [oneArr op false] ∧ (oneArr op false).started = false ∧ iOp (oneArr op false).word = op ∧
    ownsBanks (oneState op false) 0 = true ∧ coreRunning (oneState op false) 0 = true ∧ ((oneState op false).core 0).haltTo = none ∧ ((oneState op false).core 0).acc = []) ∧
    (bufAll ((oneState 1 false).core 0) (readRanges (oneArr 1 false))).toBool = true := by decide +kernel
  ⟨fun op ho => let q := h.1 op ho; ⟨q.1, q.2.1, q.2.2.1, q.2.2.2.1, q.2.2.2.2.1, q.2.2.2.2.2.1, empty_clean _ q.2.2.2.2.2.2⟩, h.2⟩
def tldState : State := (oneState 0 false).modCore 0 (fun k => { k with store := (List.range 8).map (fun i => (i, eccEncode 5 false i)) })
theorem witness_ArrayWork_load : bits (oneArr 0 false).word 34 28 = 0 ∧ ∀ i < 8, Holds (0 : CoreId).val (i + (oneArr 0 false).sa.toNat / 8) 5 tldState :=
  have h : bits (oneArr 0 false).word 34 28 = 0 ∧ ∀ i < 8, cwRead (tldState.core 0).store (i + (oneArr 0 false).sa.toNat / 8) = .clean ⟨5, false⟩ := by decide +kernel
  h

/-- TEMIT in the FP32 view without fused tiles reads no word; accumulator 255 with one parity bit wrong. -/
theorem witness_ArrayWork_emit : iOp (iw 8 3 (8 * 2 ^ 46)) = 3 ∧ tileWords (bits (iw 8 3 (8 * 2 ^ 46)) 23 22) 0 ++ tileWords (bits (iw 8 3 (8 * 2 ^ 46)) 16 15) 0 = [] ∧ ¬ bits (iw 8 3 (8 * 2 ^ 46)) 49 46 ≤ 5 := by decide +kernel
def parState (op : Nat) : State := (oneState op false).modCore 0 (fun k => { k with acc := [(255, { Acc.zero with par := 4 })] })
theorem last_bad (k : Core) (h : k.acc = [(255, { Acc.zero with par := 4 })]) : badParity k (List.range 256) = some (255, 2) := by
  have hz : ∀ i ∈ List.range 255, (badSegment (accOf k i)).map (fun g => (i, g)) = none := by
    intro i hi
    have : (255 : Nat) ≠ i := by have := List.mem_range.mp hi; omega
    simp [accOf, h, tget, tfind, this, zero_clean]
  have h1 : badSegment { Acc.zero with par := 4 } = some 2 := by decide +kernel
  rw [badParity, show (256 : Nat) = 255 + 1 from rfl, List.range_succ, List.findSome?_append, List.findSome?_eq_none_iff.mpr hz]
  simp [accOf, h, tget, tfind]
  exact h1
theorem witness_ArrayWork_parity : ∀ op ∈ [1, 3, 4, 5], badParity ((parState op).core 0) (List.range 256) = some (255, 2) ∧ ((parState op).core 0).arrayq = [oneArr op false] ∧ ownsBanks (parState op) 0 = true ∧
    coreRunning (parState op) 0 = true ∧ ((parState op).core 0).haltTo = none :=
  have h : ∀ op ∈ [1, 3, 4, 5], ((parState op).core 0).acc = [(255, { Acc.zero with par := 4 })] ∧ ((parState op).core 0).arrayq = [oneArr op false] ∧ ownsBanks (parState op) 0 = true ∧
    coreRunning (parState op) 0 = true ∧ ((parState op).core 0).haltTo = none := by decide +kernel
  fun op ho => ⟨last_bad _ (h op ho).1, (h op ho).2⟩
/-- No watchpoint matches with the Eyepiece port locked. -/
theorem witness_ArrayStartAndDone_watch : ∀ kind word, wptMatch (oneState 3 true) (0 : CoreId).val kind word = false :=
  have h : dbgUnlocked (oneState 3 true) = false := by decide +kernel
  fun kind word => by simp [wptMatch, h]

/-- Room in the send queue, and a full one; multicast entry 0 of the field is valid. -/
def sendState (op n : Nat) : State := (withRegs [(mcEntry 0 0, 2 ^ 63 + 2 ^ 58), (mcEntry 0 0 + 8, 0)] (atOp 9 op)).modCore 0 (fun k => { k with sendq := List.replicate n ⟨wordOf 9 0, 0, 0, 0⟩ })
theorem witness_SendIssue : ∀ op < 2, ∀ n ∈ [7, 8], Executes (0 : CoreId).val 9 op (wordOf 9 op) (sendState op n) ∧
    (∀ r ∈ sendRanges (0 : CoreId).val (wordOf 9 op) (sendState op n), r.1 + sendBytes (0 : CoreId).val (wordOf 9 op) (sendState op n) ≤ r.2) ∧
    SendAligned (0 : CoreId).val (wordOf 9 op) (sendState op n) ∧ SendEntry (0 : CoreId).val (wordOf 9 op) (sendState op n) ∧ ((sendState op n).core 0).sendq.length = n :=
  have h : ∀ op < 2, ∀ n ∈ [7, 8], runs 0 9 op (wordOf 9 op) (sendState op n) = true ∧
    (∀ r ∈ sendRanges 0 (wordOf 9 op) (sendState op n), r.1 + sendBytes 0 (wordOf 9 op) (sendState op n) ≤ r.2) ∧
    ((opnd (sendState op n) 0 (wordOf 9 op) 27 23).toNat % 64 = 0 ∧ (iOp (wordOf 9 op) = 1 ∨ bits (wordOf 9 op) 49 48 ≠ 1 → (opnd (sendState op n) 0 (wordOf 9 op) 22 18).toNat % 64 = 0)) ∧
    (iOp (wordOf 9 op) = 1 → mcValid ((sendState op n).rd (mcEntry (fieldOf 0) (bits (wordOf 9 op) 49 40))) ((sendState op n).rd (mcEntry (fieldOf 0) (bits (wordOf 9 op) 49 40) + 8)) = true) ∧
    ((sendState op n).core 0).sendq.length = n := by decide +kernel
  fun op ho n hn => ⟨executes_of (h op ho n hn).1, (h op ho n hn).2⟩
/-- A SEND.MC of one line from s1: the line beyond the end of the store, a source off a line, and an entry that is not valid. -/
def mcWord : Word := iw 9 1 (2 ^ 23)
def mcState (a : Nat) (valid : Bool) : State := (withRegs [(mcEntry 0 0, if valid then 2 ^ 63 + 2 ^ 58 else 0), (mcEntry 0 0 + 8, 0)] (at0 mcWord)).modCore 0 (writeS 1 (wd a))
theorem witness_SendIssue_faults : (∀ p ∈ [(0x80000, true), (8, true), (0, false)], Executes (0 : CoreId).val 9 1 mcWord (mcState p.1 p.2)) ∧
    (opnd (mcState 0x80000 true) 0 mcWord 27 23).toNat = 0x80000 ∧ sendBytes 0 mcWord (mcState 0x80000 true) = 64 ∧ (opnd (mcState 8 true) 0 mcWord 27 23).toNat = 8 ∧
    mcValid ((mcState 0 false).rd (mcEntry (fieldOf 0) (bits mcWord 49 40))) ((mcState 0 false).rd (mcEntry (fieldOf 0) (bits mcWord 49 40) + 8)) = false :=
  have h : (∀ p ∈ [(0x80000, true), (8, true), (0, false)], runs 0 9 1 mcWord (mcState p.1 p.2) = true) ∧
    (opnd (mcState 0x80000 true) 0 mcWord 27 23).toNat = 0x80000 ∧ sendBytes 0 mcWord (mcState 0x80000 true) = 64 ∧ (opnd (mcState 8 true) 0 mcWord 27 23).toNat = 8 ∧
    mcValid ((mcState 0 false).rd (mcEntry (fieldOf 0) (bits mcWord 49 40))) ((mcState 0 false).rd (mcEntry (fieldOf 0) (bits mcWord 49 40) + 8)) = false := by decide +kernel
  ⟨fun p hp => executes_of (h.1 p hp), h.2⟩

/-- WAIT.TOK on token 63 for 255 arrivals of generation 7: 255 have come, or 254. -/
def syncWord (op : Nat) : Word := iw 10 op (if op = 3 then 0 else 63 * 2 ^ 44 + (if op = 0 then 255 * 2 ^ 30 else 0) + if op = 1 then 0 else 7)
def syncState (op n : Nat) : State := withRegs [(rCoreTok 0 63, n * 65536 + 7)] (at0 (syncWord op))
theorem witness_Synchronization : ∀ p ∈ [(0, 255), (0, 254), (1, 255), (2, 255), (2, 254), (3, 0)], Executes (0 : CoreId).val 10 p.1 (syncWord p.1) (syncState p.1 p.2) ∧
    drained (syncState p.1 p.2) 0 = true ∧ coreWindow (syncState p.1 p.2) 0 = true ∧ (syncState p.1 p.2).fld (rCoreTok 0 63) 23 16 = p.2 ∧
    (p.1 % 2 = 0 → (syncState p.1 p.2).fld (rCoreTok 0 (bits (syncWord p.1) 49 44)) 15 0 = syncGen ((syncState p.1 p.2).core 0) (syncWord p.1)) ∧ (p.1 = 0 → bits (syncWord p.1) 37 30 = 255) :=
  have h : ∀ p ∈ [(0, 255), (0, 254), (1, 255), (2, 255), (2, 254), (3, 0)], runs 0 10 p.1 (syncWord p.1) (syncState p.1 p.2) = true ∧
    drained (syncState p.1 p.2) 0 = true ∧ coreWindow (syncState p.1 p.2) 0 = true ∧ (syncState p.1 p.2).fld (rCoreTok 0 63) 23 16 = p.2 ∧
    (p.1 % 2 = 0 → (syncState p.1 p.2).fld (rCoreTok 0 (bits (syncWord p.1) 49 44)) 15 0 = syncGen ((syncState p.1 p.2).core 0) (syncWord p.1)) ∧ (p.1 = 0 → bits (syncWord p.1) 37 30 = 255) := by decide +kernel
  fun p hp => ⟨executes_of (h p hp).1, (h p hp).2⟩
/-- A wait in progress whose condition holds. -/
def waitState : State := (withRegs [(rCoreStat 0, 10), (rCoreTok 0 63, 2 * 65536 + 7)] State.reset).modCore 0 (fun k => { k with wait := some (63, 7, 2) })
theorem witness_Synchronization_complete : (waitState.core 0).wait = some (63, 7, 2) ∧ coreSt waitState 0 = 2 ∧ Goes (0 : CoreId).val waitState ∧ waitState.fld (rCoreTok 0 63) 15 0 = 7 ∧
    2 ≤ waitState.fld (rCoreTok 0 63) 23 16 :=
  have h : (waitState.core 0).wait = some (63, 7, 2) ∧ coreSt waitState 0 = 2 ∧ goesB 0 waitState = true ∧ waitState.fld (rCoreTok 0 63) 15 0 = 7 ∧
    2 ≤ waitState.fld (rCoreTok 0 63) 23 16 := by decide +kernel
  ⟨h.1, h.2.1, goes_of h.2.2.1, h.2.2.2⟩

/-! ### Claims about the machine and a core's control: states that meet their hypotheses -/

theorem witness_IdleStepFrame : State.reset.pending = [] := rfl
theorem reset_tables : StateInv State.reset :=
  ⟨by unfold MemInv; decide, ⟨by unfold RisingKeys; decide, by decide⟩, by unfold RisingKeys; decide, by unfold RisingKeys; decide, by unfold RisingKeys; decide⟩
theorem witness_StepKeepsTables : ∃ s t, StateInv s ∧ step s = .next t :=
  ⟨{ State.reset with pending := [.siderealBroadcast] }, _, ⟨reset_tables.mem, reset_tables.poison, reset_tables.regs, reset_tables.cores, reset_tables.fieldStores⟩, rfl⟩
theorem witness_StepConsumesQueue : ∃ s t, step s = .next t := ⟨{ State.reset with pending := [.siderealBroadcast] }, _, rfl⟩

/-- Core 0 in a STATE, in the compute window, not disabled by fuse. -/
def inState (st : Nat) : State := withRegs [(0x1000600, 0x2A000000), (rDisFuse 0 0, 0), (rCoreStat 0, 8 + st)] State.reset
theorem witness_CoreControl : computeOn (withRegs [(0x1000600, 0)] State.reset) (fieldOf (0 : CoreId).val) = false ∧ ∀ st < 8, computeOn (inState st) (fieldOf (0 : CoreId).val) = true ∧ Quiet (0 : CoreId).val (inState st) ∧ coreDisabled (inState st) (0 : CoreId).val = false ∧ coreSt (inState st) (0 : CoreId).val = st ∧
    (coreRunning (inState st) 0 = true ↔ 1 ≤ st ∧ st ≤ 3) :=
  have h : computeOn (withRegs [(0x1000600, 0)] State.reset) (fieldOf 0) = false ∧ ∀ st < 8, computeOn (inState st) (fieldOf 0) = true ∧ (arrayBusy ((inState st).core 0) = false ∧ ((inState st).core 0).haltTo = none ∧ ((inState st).core 0).held = []) ∧ coreDisabled (inState st) 0 = false ∧
    coreSt (inState st) 0 = st ∧ (coreRunning (inState st) 0 = true ↔ 1 ≤ st ∧ st ≤ 3) := by decide +kernel
  ⟨h.1, fun st hst => h.2 st hst⟩

/-- A halt in progress into STATE 7; a breakpoint at PC 0 with the port unlocked. -/
def haltState : State := (inState 1).modCore 0 (fun k => { k with haltTo := some 7 })
def bkptState : State := withRegs [(0xF000, 2 ^ 24 + 2 ^ 21), (rCoreBkpt 0 3, 2 ^ 63)] (inState 1)
theorem witness_HaltsTaken : (arrayBusy (haltState.core 0) = false ∧ (haltState.core 0).held = [] ∧ (haltState.core 0).haltTo = some 7) ∧
    (arrayBusy (bkptState.core 0) = false ∧ (bkptState.core 0).held = [] ∧ (bkptState.core 0).haltTo = none ∧ coreSt bkptState 0 = 1 ∧ atBreakpoint bkptState 0 = true) := by decide +kernel

theorem witness_CoreLimits : (∀ st ∈ [1, 2, 3], coreSt (inState st) 0 = st ∧ (inState st).flag (rCoreCtl 0) 4 = true ∧ ((inState st).core 0).longRec = false ∧ Empty (.core 0) (inState st)) :=
  have h : (∀ st ∈ [1, 2, 3], coreSt (inState st) 0 = st ∧ (inState st).flag (rCoreCtl 0) 4 = true ∧ ((inState st).core 0).longRec = false ∧
    recV ((inState st).rd (errBase (.core 0) + 8)) = false ∧ recV ((inState st).rd (errBase (.core 0) + 0x28)) = false) := by decide +kernel
  h

/-- A SEND of one line at the head of the queue, in the transfer window, the field's compute domain on. -/
def readState : State := (withRegs [(0x1000600, 0x2A000000), (rCoreStat 0, 1)] State.reset).modCore 0 (fun k => { k with sendq := [⟨wordOf 9 0, 0, 0, 0⟩], store := (List.range 8).map (fun i => (i, eccEncode 9 false i)) })
theorem witness_SendReads : (readState.core 0).sendq = [⟨wordOf 9 0, 0, 0, 0⟩] ∧ coreWindow readState 0 = false ∧ computeOn readState (fieldOf 0) = true ∧
    bits (0 : Word) 33 24 = 0 ∧ (0 : Word).toNat % 64 = 0 ∧ ∀ i < 8, Holds (0 : CoreId).val (i + (0 : Word).toNat / 8) 9 readState :=
  have h : (readState.core 0).sendq = [⟨wordOf 9 0, 0, 0, 0⟩] ∧ coreWindow readState 0 = false ∧ computeOn readState (fieldOf 0) = true ∧
    bits (0 : Word) 33 24 = 0 ∧ (0 : Word).toNat % 64 = 0 ∧ ∀ i < 8, cwRead (readState.core 0).store (i + (0 : Word).toNat / 8) = .clean ⟨9, false⟩ := by decide +kernel
  h

/-- A codeword at word 65535 with one data bit wrong reads as corrected and waits for its write-back, in either store. -/
def badCw (f : Nat) : Codeword := { eccEncode 6 false f with d := 7 }
def wbState : State := State.reset.modCore 0 (fun k => { k with store := [(65535, badCw 65535)], istore := [(8191, badCw 8191)], wbq := [(false, 65535), (true, 8191)] })
theorem witness_CorrectedWriteBack : (false, 65535) ∈ (wbState.core 0).wbq ∧ tfind (wbState.core 0).store 65535 = some (badCw 65535) ∧
    eccDecode (badCw 65535) 65535 = .corrected ⟨6, false⟩ (eccEncode 6 false 65535) ∧
    (true, 8191) ∈ (wbState.core 0).wbq ∧ tfind (wbState.core 0).istore 8191 = some (badCw 8191) ∧ eccDecode (badCw 8191) 8191 = .corrected ⟨6, false⟩ (eccEncode 6 false 8191) := by decide +kernel

/-- Core 0 the only mapped core of its field, arrived in STATE 3. -/
def barState : State := (withRegs [(rCoreId 0, 2 ^ 35), (rCoreStat 0, 11)] State.reset).modCore 0 (fun k => { k with arrived := true })
theorem witness_BarrierAndTokens_barrier : mappedOf barState 0 = [0] ∧ barrierReady barState 0 = true ∧ coreSt barState 0 = 3 ∧ (barState.core 0).held = [] ∧
    barState.flag (rCoreCtl 0) 2 = false := by decide +kernel
theorem witness_BarrierAndTokens_late : coreWindow waitState 0 = true ∧ coreSt waitState 0 = 2 ∧ drained waitState 0 = true ∧ (waitState.core 0).held = [] := by decide +kernel
/-- Generations 7, 8, 0x8006 and 0x8007 at a token whose GEN is 7: the same, later, the last later one, and the first earlier one. -/
theorem witness_BarrierAndTokens_token : waitState.fld (rCoreTok 0 63) 15 0 = 7 ∧ (8 + 65536 - 7) % 65536 = 1 ∧ (0x8006 + 65536 - 7) % 65536 = 0x7FFF ∧ (0x8007 + 65536 - 7) % 65536 = 0x8000 := by
  decide +kernel
/-! ### Well-formedness: a term that each check refuses -/

/-- A packet, a flit, a link and a header that fit. -/
def pkt0 : Packet :=
  { typ := 0, lastp := true, exp := false, plane := false, det := false, side := false, dx := 447, dy := 179, sx := 511, sy := 255, daddr := 0, gen := 65535, te := false, tok := 63
    q := false, chq := 4095, tag := 4095, rlines := 63, status := 255, mcimg := [], body := [] }
def badPkt : Packet := { pkt0 with dx := 512 }
def fl0 : Flit := ⟨List.replicate 8 0, 0⟩
def lk0 : LinkRef := ⟨.core, 80639, 3⟩
def mp0 : MPkt := { ver := 1, typ := 0, auth := false, ackv := false, dflow := 4095, srcmod := 65535, dstmod := 65535, seq := 4294967295, ackseq := 0, sack := 0, plen := 4096, plan := 255, kind := 255, rtag := 65535, addr := 0, payload := [], tag := [] }

theorem test_wf_fits : pkt0.wf = true ∧ fl0.wf = true ∧ lk0.wf = true ∧ mp0.wf = true := by decide +kernel
theorem test_wf_packet : Packet.wf { pkt0 with typ := 256 } = false ∧ Packet.wf { pkt0 with dx := 512 } = false ∧ Packet.wf { pkt0 with dy := 256 } = false ∧ Packet.wf { pkt0 with sx := 512 } = false ∧ Packet.wf { pkt0 with sy := 256 } = false ∧ Packet.wf { pkt0 with tok := 64 } = false ∧ Packet.wf { pkt0 with gen := 65536 } = false ∧ Packet.wf { pkt0 with chq := 4096 } = false ∧ Packet.wf { pkt0 with tag := 4096 } = false ∧ Packet.wf { pkt0 with rlines := 64 } = false ∧ Packet.wf { pkt0 with status := 256 } = false ∧ Packet.wf { pkt0 with mcimg := [0, 0, 0, 0, 0] } = false ∧ Packet.wf { pkt0 with body := List.replicate 257 ⟨0, false⟩ } = false ∧ Packet.wf { pkt0 with keepLo := 8 } = false ∧ Packet.wf { pkt0 with keepHi := 8 } = false := by decide +kernel
theorem test_wf_header : MPkt.wf { mp0 with ver := 16 } = false ∧ MPkt.wf { mp0 with typ := 16 } = false ∧ MPkt.wf { mp0 with dflow := 4096 } = false ∧ MPkt.wf { mp0 with srcmod := 65536 } = false ∧ MPkt.wf { mp0 with dstmod := 65536 } = false ∧ MPkt.wf { mp0 with plan := 256 } = false ∧ MPkt.wf { mp0 with rtag := 65536 } = false ∧ MPkt.wf { mp0 with seq := 4294967296 } = false ∧ MPkt.wf { mp0 with ackseq := 4294967296 } = false ∧ MPkt.wf { mp0 with sack := 2 ^ 64 } = false ∧
    MPkt.wf { mp0 with plen := 65536 } = false ∧ MPkt.wf { mp0 with kind := 256 } = false ∧ MPkt.wf { mp0 with addr := 2 ^ 64 } = false ∧ MPkt.wf { mp0 with payload := List.replicate 4097 0 } = false ∧
    MPkt.wf { mp0 with tag := List.replicate 17 0 } = false := by decide +kernel
theorem test_wf_pins : Instr.wf (.thermWarnNGlitch 0) = false ∧ Instr.wf (.thermWarnNGlitch 8) = false ∧ Instr.wf (.epoNGlitch 0) = false ∧ Instr.wf (.epoNGlitch 8) = false ∧ Instr.wf (.tokenArrival 0 64 0) = false ∧ Instr.wf (.tokenArrival 0 0 65536) = false ∧ Instr.wf (.correctedWriteback 0 false 65536) = false ∧ Instr.wf (.hb 0 4) = false ∧ Instr.wf (.heartbeatLoss 0 4) = false := by decide +kernel
theorem test_wf_packets : Instr.wf (.wr badPkt) = false ∧ Instr.wf (.wra badPkt) = false ∧ Instr.wf (.rd badPkt) = false ∧ Instr.wf (.rdata badPkt) = false ∧ Instr.wf (.wack badPkt) = false ∧ Instr.wf (.err badPkt) = false ∧ Instr.wf (.fsw badPkt) = false ∧ Instr.wf (.lsend badPkt) = false ∧ Instr.wf (.mcw badPkt) = false := by decide +kernel
theorem test_wf_links : Instr.wf (.flitReceive ⟨.core, 80640, 0⟩ fl0) = false ∧ Instr.wf (.flitReceive lk0 ⟨List.replicate 7 0, 0⟩) = false ∧ Instr.wf (.nak { lk0 with dir := 4 } 0) = false ∧ Instr.wf (.nak lk0 256) = false ∧ Instr.wf (.linkReplayTimeout { lk0 with dir := 4 }) = false ∧ Instr.wf (.linkRetrain { lk0 with dir := 4 }) = false ∧ Instr.wf (.linkRetrainDone { lk0 with dir := 4 } []) = false ∧ Instr.wf (.linkTraining { lk0 with dir := 4 } []) = false := by decide +kernel
theorem test_wf_store : Instr.wf (.granuleRead 268435456 0 0 false [] [] []) = false ∧ Instr.wf (.granuleRead 0 1 0 false [] [] []) = false ∧ Instr.wf (.granuleRead 0 0 64 false [] [] []) = false ∧ Instr.wf (.granuleWrite 4 [] false) = false ∧ Instr.wf (.granuleWrite 17592186044416 [⟨0, false⟩] false) = false ∧ Instr.wf (.slotClose 0 268435456) = false ∧ Instr.wf (.migrationDone 268435456) = false ∧ Instr.wf (.scrubRead 0 false 4 .clean false) = false ∧ Instr.wf (.hint 0 8 0 0) = false ∧ Instr.wf (.hint 0 0 268435456 0) = false ∧ Instr.wf (.hint 0 0 0 33554432) = false ∧ Instr.wf (.setelem 0 4 0 0) = false ∧ Instr.wf (.setelem 0 0 268435456 0) = false ∧ Instr.wf (.setelem 0 0 0 33554432) = false ∧ Instr.wf (.discard 0 268435456 0) = false ∧ Instr.wf (.discard 0 0 33554432) = false ∧ Instr.wf (.flush 0 268435456 0) = false ∧ Instr.wf (.flush 0 0 33554432) = false ∧ Instr.wf (.hostWindowAccess 0x1FFFFFFFFFFF false 1 []) = false ∧ Instr.wf (.hostWindowAccess 0x2FFFFFFFFFFF false 2 []) = false := by decide +kernel
theorem test_wf_slew : Instr.wf (.arm 0 4096 0) = false ∧ Instr.wf (.arm 0 0 65536) = false ∧ Instr.wf (.setgen 0 4096 0) = false ∧ Instr.wf (.setgen 0 0 65536) = false ∧ Instr.wf (.slewCancel 0 4096) = false ∧ Instr.wf (.slewTransferComplete 0 4096) = false ∧ Instr.wf (.channelWindowWrite 0 4096 0 0) = false ∧ Instr.wf (.channelWindowWrite 0 0 8 0) = false ∧ Instr.wf (.slwCqTailWrite 0 16384) = false ∧ Instr.wf (.fsmcDelivery 0 4096) = false ∧ Instr.wf (.occulterSlotFilled 0 false 64) = false := by decide +kernel
theorem test_wf_meridian : Instr.wf (.frameReceive 0 { (default : Frame) with pkt := { mp0 with ver := 16 } }) = false ∧ Instr.wf (.ackSend 0 4096) = false ∧ Instr.wf (.resend 0 4096 0) = false ∧ Instr.wf (.peerAbsent 1024) = false ∧ Instr.wf (.flowTableWrite 0 4096 0 0) = false ∧ Instr.wf (.flowTableWrite 0 0 4 0) = false ∧ Instr.wf (.peerTableWrite 0 1024 0 0) = false ∧ Instr.wf (.peerTableWrite 0 0 4 0) = false ∧ Instr.wf (.moduleIdWrite 65536) = false ∧ Instr.wf (.start 0 256 0) = false ∧ Instr.wf (.start 0 0 65536) = false ∧ Instr.wf (.planCancel 0 256) = false ∧ Instr.wf (.planRunComplete 0 256) = false ∧ Instr.wf (.responseBoundExceeded 0 256) = false ∧ Instr.wf (.stepScalarBegin 0 256) = false := by decide +kernel
theorem test_wf_engines : Instr.wf (.directedSlotWrite 64 0) = false ∧ Instr.wf (.uProgramBatch 0 4096) = false ∧ Instr.wf (.commit 65536) = false ∧ Instr.wf (.verify false 16 0) = false ∧ Instr.wf (.verify false 0 1024) = false ∧ Instr.wf (.restore false 16 0) = false ∧ Instr.wf (.restore false 0 1024) = false ∧ Instr.wf (.delta 16 0) = false ∧ Instr.wf (.delta 0 16) = false ∧ Instr.wf (.plateApply 16) = false ∧ Instr.wf (.mark 16) = false ∧ Instr.wf (.plateConfigWrite 268435456 0) = false ∧ Instr.wf (.clearActive .module 4294967296) = false ∧ Instr.wf (.clearPending .module 4294967296) = false := by decide +kernel
theorem test_wf_power : Instr.wf (.fieldOff 128) = false ∧ Instr.wf (.fieldOn 128) = false ∧ Instr.wf (.hemiOff 128) = false ∧ Instr.wf (.hemiOn 128) = false ∧ Instr.wf (.sequenceStepDone 512 0 true) = false ∧ Instr.wf (.sequenceStepDone 0 16 true) = false ∧ Instr.wf (.clockStretch 1024) = false ∧ Instr.wf (.lockLoss 1024) = false ∧ Instr.wf (.supplyRecovery 1024) = false ∧ Instr.wf (.sliceRun 512) = false ∧ Instr.wf (.nbr 512) = false ∧ Instr.wf (.durationSaturated 84 0) = false ∧ Instr.wf (.durationSaturated 255 16) = false := by decide +kernel
theorem test_wf_host : Instr.wf (.doorbell 64 0) = false ∧ Instr.wf (.launchRingEnable 64) = false ∧ Instr.wf (.commandFetch 64 none) = false ∧ Instr.wf (.lrNop 64) = false ∧ Instr.wf (.launch 64) = false ∧ Instr.wf (.abandon 64) = false ∧ Instr.wf (.lrArm 64) = false ∧ Instr.wf (.lrPlan 64) = false ∧ Instr.wf (.load 64 none) = false ∧ Instr.wf (.fstart 64) = false ∧ Instr.wf (.quiesce 64) = false ∧ Instr.wf (.lrWrite 64) = false ∧ Instr.wf (.completionEntryWrite 64) = false ∧ Instr.wf (.bar0Access false 268435456 4 0) = false ∧ Instr.wf (.bar2Access false 68719476736 1 []) = false ∧ Instr.wf (.bar2Access false 0 4097 []) = false ∧ Instr.wf (.barReadTimeout 5 0) = false ∧ Instr.wf (.barReadTimeout 4 68719476736) = false ∧ Instr.wf (.registerWrite 268435456 0) = false ∧ Instr.wf (.registerWrite 4 0) = false ∧ Instr.wf (.registerRcRead 268435456) = false ∧ Instr.wf (.registerRcRead 4) = false ∧ Instr.wf (.hostLinkUp 0 16) = false ∧ Instr.wf (.hostLinkUp 6 16) = false ∧ Instr.wf (.hostLinkUp 5 2) = false ∧ Instr.wf (.hostCompletion 1024 .sc []) = false ∧ Instr.wf (.completionTimeout 1024) = false ∧ Instr.wf (.msixTableWrite 32768 0) = false := by decide +kernel
theorem test_wf_debug : Instr.wf (.xportRead 65536 0 8) = false ∧ Instr.wf (.xportRead 0 0 4) = false ∧ Instr.wf (.xportWrite 65536 0 8 []) = false ∧ Instr.wf (.xportWrite 0 0 128 []) = false ∧ Instr.wf (.xportHalt 65536 0) = false ∧ Instr.wf (.xportStep 65536 0) = false ∧ Instr.wf (.xportResume 65536 0) = false ∧ Instr.wf (.xportStatus 65536 0) = false := by decide +kernel
/-! ### Claims about error records, rings, resets, tray power and time -/

/-- The first record of a domain that has none, and the second beside an unlike first. -/
def recState : State := withRegs [(errBase (.core 0) + 8, 2 ^ 63 + 2 ^ 61)] State.reset
theorem witness_ErrorTakesRecord : (∀ cls ∈ [1, 2], repeats State.reset (errBase (.core 0) + 8) cls 255 0 = false ∧ repeats State.reset (errBase (.core 0) + 0x28) cls 255 0 = false) ∧
    recV (State.reset.rd (errBase (.core 0) + 8)) = false ∧ fatal State.reset = false ∧
    (∀ cls ∈ [1, 2], repeats recState (errBase (.core 0) + 8) cls 255 0 = false ∧ repeats recState (errBase (.core 0) + 0x28) cls 255 0 = false) ∧
    recV (recState.rd (errBase (.core 0) + 8)) = true ∧ recV (recState.rd (errBase (.core 0) + 0x28)) = false := by decide +kernel

/-- A module with both records in use, numbers 2^32 − 1 and 5. -/
def twoRecs : State := withRegs [(0x8008, 2 ^ 63 + 2 ^ 62), (0x8010, (2 ^ 32 - 1) * 2 ^ 32), (0x8028, 2 ^ 63 + 2 ^ 61), (0x8030, 5 * 2 ^ 32)] State.reset
theorem witness_ClearRecord : recV (twoRecs.rd (errBase .module + 8)) = true ∧ recNseq twoRecs (errBase .module + 8) = 2 ^ 32 - 1 ∧ recV (twoRecs.rd (errBase .module + 0x28)) = true ∧
    recNseq twoRecs (errBase .module + 0x28) = 5 ∧ recNseq twoRecs (errBase .module + 0x28) ≠ 2 ^ 32 - 1 ∧ recV (State.reset.rd (errBase .module + 8)) = false := by decide +kernel

def tallyState : State := { State.reset with escOut := [(domKey (.field 0), 1)], tally := [(domKey (.core 0), 256)] }
theorem witness_EscalationAndTally : 0 < tget 0 tallyState.escOut (domKey (.field 0)) ∧ 0 < tallyState.fld rModErrCfg 15 0 ∧
    tallyState.fld rModErrCfg 15 0 ≤ tget 0 tallyState.tally (domKey (.core 0)) := by decide +kernel

theorem witness_RecordEntersQueue (s : State) : MovesRing .nlogRecordWrite ringNlog s ∧ MovesRing .chronographRecordWrite ringChr s ∧ MovesRing .clampRecordWrite ringClamp s ∧
    MovesRing (.completionEntryWrite 0) (ringCq s 0) s ∧ MovesRing (.completionEntryWrite 63) (ringCq s 63) s :=
  ⟨.inl ⟨rfl, rfl⟩, .inr (.inl ⟨rfl, rfl⟩), .inr (.inr (.inl ⟨rfl, rfl⟩)), .inr (.inr (.inr ⟨0, by omega, rfl, rfl⟩)), .inr (.inr (.inr ⟨63, by omega, rfl, rfl⟩))⟩

/-- The host link up, each ring enabled with one record, vector 7 not masked, interrupts on or off. -/
def ringState (int : Nat) : State :=
  let s := withRegs [(0x900, 1), (0x920, int), (0x8100, 1), (0x8120, int), (0xC020, 1), (0xC040, int), (0xDFC0, 1), (0xDFC8, int)] State.reset
  { s with rings := [(0, [[1]]), (1, [[2]]), (2, [[3]]), (79, [[4]])], host := { s.host with linkUp := true, msix := [(31, 0)], irq := [(0, ⟨none, true⟩)] } }
theorem witness_RecordsReachHost : ∀ int ∈ [7, 2055], ∀ r ∈ [ringNlog, ringChr, ringClamp, ringCq (ringState int) 63], (((ringState int).ringQ r).isEmpty = false) ∧ ringRuns r (ringState int) = true ∧
    (ringState int).flag r.int 11 = decide (int = 2055) ∧ irqFree r (ringState int) = true ∧ masked (ringState int) ((ringState int).fld r.int 10 0) = false ∧ ringRuns r State.reset = false := by decide +kernel
theorem witness_RecordsReachHost_pending : ((ringState 2055).irqOf 0).pend = true ∧ (ringState 2055).flag ringNlog.int 11 = true ∧ hostUp (ringState 2055) = true ∧
    masked (ringState 2055) ((ringState 2055).fld ringNlog.int 10 0) = false := by decide +kernel
theorem witness_RecordsReachHost_others : ∀ id, id ≠ 0 → ((ringState 2055).irqOf id).pend = false := by
  intro id h
  have : (ringState 2055).irqOf id = Irq.reset := by
    show tget Irq.reset [(0, ⟨none, true⟩)] id = _
    simp [tget, tfind, Ne.symm h]
  rw [this]; rfl

theorem witness_ColdResets : inputOk State.reset.tray = true ∧ State.reset.tray.pwren = true := by decide
theorem witness_WarmResets : State.reset.migs = [] ∧ (∀ l, (State.reset.limb l).slots = []) ∧ bits 0xA501 15 8 = 0xA5 ∧ bit 0xA501 0 = true := ⟨rfl, fun _ => rfl, by decide, by decide⟩
theorem witness_WarmResetKey : (bits 0x5A01 15 8 ≠ 0xA5) ∧ bit 0xA500 0 = false := by decide

/-- The tray at a step of the sequence, in or out of the hold-off. -/
def trayState (seq : Nat) (pwren hold pend : Bool) : State := { State.reset with tray := { Tray.up with seq := seq, pwren := pwren, holdOff := hold, pend := pend } }
theorem witness_PowerUpSequence : (∀ s ∈ [trayState 0 false false false, trayState 0 false true false, trayState 0 false true true, trayState 2 true false false, trayState 3 true false false,
      trayState 4 true false false, trayState 5 true false false], inputOk s.tray = true ∧ s.tray.epo = false ∧ s.tray.needLow = false) ∧
    ((trayState 0 false false false).tray.holdOff = false ∧ (trayState 0 false false false).tray.seq = 0) ∧ ((trayState 0 false true false).tray.holdOff = true ∧ (trayState 0 false true false).tray.pend = false) ∧
    ((trayState 0 false true true).tray.pend = true ∧ (trayState 0 false true true).tray.seq = 0) ∧ (∀ q ∈ [2, 3, 4, 5], (trayState q true false false).tray.pwren = true ∧ (trayState q true false false).tray.seq = q) := by
  decide +kernel

/-- The host strap 0, the boot at a stage, the PCIe domain of L0's hemisphere ON. -/
def bootAt (stage : Nat) (perst up : Bool) : State :=
  let s := withRegs [(0, 0), (0xF000, stage)] State.reset
  { s with tray := { s.tray with perst := perst }, host := { s.host with linkUp := up }, pwr := { s.pwr with dst := [(292, 2)] } }
theorem witness_EndpointLink : (∀ stage < 5, (bootAt stage false true).tray.seq = 6 ∧ bootStage (bootAt stage false true) < 5) ∧ (5 ≤ bootStage (bootAt 5 false true) ∧ (bootAt 5 false true).migs = []) ∧
    (∀ stage ∈ [1, 5], (bootAt stage false false).tray.perst = false ∧ (bootAt stage false false).host.linkUp = false ∧ pcieOn (bootAt stage false false) = true ∧ bootStage (bootAt stage false false) ≠ 0) ∧
    (bootAt 5 false true).host.linkUp = true ∧ (trayState 5 true false false).tray.seq < 6 := by decide +kernel
theorem witness_EndpointLink_slots : ∀ l, ((bootAt 5 false true).limb l).slots = [] := fun _ => rfl

/-- A debug-transport, a Slew, an engine's and a record's request outstanding, at the first and the last tag. -/
def hostReqs : State := { bootAt 5 false true with hreqs := [(0, ⟨1, 0, 0, 64, 0, 0⟩), (1, ⟨2, 0, 0, 64, 2, 0x200000000000⟩), (2, ⟨0, 4095, 0, 64, 2, 0⟩), (1023, ⟨3, 0, 0, 64, 2, 0x200000000000⟩)] }
theorem witness_HostAnswers : (∀ who < 4, ∃ tag ∈ [0, 1, 2, 1023], ∃ q, tfind hostReqs.hreqs tag = some q ∧ q.who = who) ∧ hostUp hostReqs = true ∧ ([1, 2] : List Byte).length = 2 := by
  refine ⟨fun who h => ?_, by decide +kernel, rfl⟩
  rcases who with _ | _ | _ | _ | _
  · exact ⟨2, by decide, _, rfl, rfl⟩
  · exact ⟨0, by decide, _, rfl, rfl⟩
  · exact ⟨1, by decide, _, rfl, rfl⟩
  · exact ⟨1023, by decide, _, rfl, rfl⟩
  · omega

/-- Without a field powered the level is 0; LEVEL still says 4, or 0. -/
def levelState (n : Nat) : State := withRegs [(0, 0), (rModSvc, n), (0x1000600, 0)] State.reset
theorem witness_ServiceLevel : (∀ n ∈ [0, 4], domSt (levelState n) (252 + 4 * hostLimb (levelState n)) = 2) ∧ serviceLevel (levelState 4) ≠ (levelState 4).fld rModSvc 2 0 ∧
    serviceLevel (levelState 0) = (levelState 0).fld rModSvc 2 0 := by decide +kernel

/-- Locked, with a measurement at 0 and 1 ns less than 4 s, or 4 s, since then; and without one. -/
def timeState (t : Nat) (last : Option Nat) : State :=
  let s := withRegs [(rChrTime, t), (rChrSyncStat, 128)] State.reset
  { s with sync := { s.sync with lastPhase := last.map wd } }
theorem witness_SiderealCounter : (sidereal (timeState 100 none)).toNat < (101 : Word).toNat ∧ (100 : Word).toNat ≤ (sidereal (timeState 100 none)).toNat ∧
    (∀ s ∈ [timeState 100 none, timeState 4000000000 (some 0), timeState 3999999999 (some 0)], s.flag rChrSyncStat 7 = true) ∧ (timeState 100 none).sync.lastPhase = none ∧
    4000000000 ≤ (sidereal (timeState 4000000000 (some 0)) - wd 0).toNat ∧ (timeState 3999999999 (some 0)).sync.lastPhase = some (wd 0) ∧
    (sidereal (timeState 3999999999 (some 0)) - wd 0).toNat < 4000000000 := by decide +kernel

/-- The Dome in RUN, the last edge at 0, the counter and the source of the time given; pulses present or not. -/
def ppsState (t dome src : Nat) : State :=
  let s := withRegs [(rDomeStat, 2), (rDomeIn, dome), (rChrTime, t), (rChrSync, src + 1000 * 2 ^ 12)] State.reset
  { s with sync := { s.sync with ppsLast := some 0, lastAcc := some 0 } }
/-- How far the edge at t lies from the nearest whole second. -/
def ppsOff (s : State) : Int := (((sidereal s).toNat - sx 32 (s.fld rChrSync 63 32)) % 1000000000 + 500000000) % 1000000000 - 500000000
theorem witness_PulsePerSecond : (∀ s ∈ [ppsState 899999999 0 0, ppsState 900000000 0 1, ppsState 3000000000 0 0], domeState s ≠ 0) ∧ ppsTooSoon (ppsState 899999999 0 0) = true ∧
    ppsTooSoon (ppsState 900000000 0 0) = false ∧ timeSrc (ppsState 900000000 0 0) ≠ 1 ∧ timeSrc (ppsState 900000000 0 1) = 1 ∧
    stepNs (ppsState 900000000 0 1) ≤ (ppsOff (ppsState 900000000 0 1)).natAbs ∧ ppsTooSoon (ppsState 1000000001 0 1) = false ∧ timeSrc (ppsState 1000000001 0 1) = 1 ∧
    (ppsOff (ppsState 1000000001 0 1)).natAbs < stepNs (ppsState 1000000001 0 1) ∧ (ppsState 1000000001 0 1).sync.lastAcc = some 0 ∧ (0 : Word) ≠ sidereal (ppsState 1000000001 0 1) ∧
    ppsPresent (ppsState 3000000000 0 0) = true ∧ 3000000000 ≤ (sidereal (ppsState 3000000000 0 0) - 0).toNat ∧ (sidereal (ppsState 2999999999 0 0) - 0).toNat < 3000000000 ∧
    ppsPresent (ppsState 900000000 8 0) = false := by decide +kernel

/-- The clock port serves, the time from a source, the pulses present or not; a Sync and a Delay_Req behind it, the latter at 0. -/
def ptpState (src dome t : Nat) : State :=
  let s := withRegs [(portBase 0, 1), (portBase 0 + 0x28, 2 ^ 63), (portBase 0 + 0x90, 2 ^ 63 + 2 ^ 62), (rChrSync, src + 1000 * 2 ^ 12), (rDomeIn, dome), (rChrTime, t)] State.reset
  { s with sync := { s.sync with syncD := some 4, t3 := some 0, lastAcc := some 0 } }
/-- Syncs whose offset is the step size behind, the step size ahead, and 1 ns inside on either side. -/
theorem witness_PrecisionTime : ∀ s ∈ [ptpState 0 0 62500000, ptpState 0 0 62499999, ptpState 1 0 62500000, ptpState 1 8 62500000, ptpState 2 0 62500000],
    ptpOn s 0 = true ∧ servingPort s = some 0 ∧ s.sync.t3 = some 0 ∧ s.sync.syncD = some 4 ∧ (0 : Word) ≠ sidereal s ∧
    ∀ o ∈ [-stepNs s, stepNs s, 1 - stepNs s, stepNs s - 1], o + s.sync.mpd - 0 - 0 - s.sync.mpd = o ∧ (o ≤ -stepNs s ∨ stepNs s ≤ o ∨ (-stepNs s < o ∧ o < stepNs s)) := by decide +kernel
theorem witness_PrecisionTime_kinds : timeSrc (ptpState 0 0 0) = 0 ∧ (timeSrc (ptpState 1 0 0) = 1 ∧ ppsPresent (ptpState 1 0 0) = true) ∧ (timeSrc (ptpState 1 8 0) = 1 ∧ ppsPresent (ptpState 1 8 0) = false) ∧
    timeSrc (ptpState 2 0 0) = 2 ∧ delayInterval (ptpState 0 0 0) = 62500000 ∧ (sidereal (ptpState 0 0 62500000) - 0).toNat = 62500000 ∧ (sidereal (ptpState 0 0 62499999) - 0).toNat < 62500000 ∧
    (withRegs [] State.reset).sync.t3 = none := by decide +kernel
/-! ### Claims about power and the environment -/

/-- The Dome in RUN, the host strap 0, field 83 with FLD_PWR as given. -/
def domeAt (pwr : Nat) : State := withRegs [(0, 0), (rDomeStat, 2), (rFldPwr 83, pwr)] State.reset
/-- Every field of hemisphere 1 quiesced. -/
def quiesced : State := withRegs ((hemiFields 1).map (fun f => (rFldStat f, 2))) (domeAt 0x2A001111)
theorem witness_DomeRequests : Request (.fieldOff 83) 1 83 ∧ Request (.hemiOn 1) 4 1 ∧ (withRegs [(rDomeStat, 2 + 2 ^ 22)] State.reset).fld rDomeStat 23 22 = 1 ∧ (domeAt 0).fld rDomeStat 23 22 ≠ 1 ∧
    reqOk (domeAt 0) 1 83 = false ∧ reqOk (domeAt 0x2A001111) 1 84 = false ∧ DomeUp (domeAt 0x2A001111) ∧ DomeFree (domeAt 0x2A001111) ∧
    (reqOk (domeAt 0x2A001111) 1 83 = true ∧ reqOk (domeAt 0x20001111) 2 83 = true ∧ reqOk (domeAt 0) 4 0 = true ∧ reqOk (domeAt 0) 4 1 = true ∧ domSt (domeAt 0) 294 ≠ 2 ∧ domSt (domeAt 0) 295 ≠ 2) :=
  have h : (withRegs [(rDomeStat, 2 + 2 ^ 22)] State.reset).fld rDomeStat 23 22 = 1 ∧ (domeAt 0).fld rDomeStat 23 22 ≠ 1 ∧
    reqOk (domeAt 0) 1 83 = false ∧ reqOk (domeAt 0x2A001111) 1 84 = false ∧ domeState (domeAt 0x2A001111) = 2 ∧
    ((domeAt 0x2A001111).fld rDomeStat 23 22 ≠ 1 ∧ (domeAt 0x2A001111).pwr.jobs = [] ∧ (domeAt 0x2A001111).dark.slice = none) ∧
    (reqOk (domeAt 0x2A001111) 1 83 = true ∧ reqOk (domeAt 0x20001111) 2 83 = true ∧ reqOk (domeAt 0) 4 0 = true ∧ reqOk (domeAt 0) 4 1 = true ∧ domSt (domeAt 0) 294 ≠ 2 ∧ domSt (domeAt 0) 295 ≠ 2) := by
    decide +kernel
  ⟨.inl ⟨rfl, rfl⟩, .inr (.inr (.inr ⟨rfl, rfl⟩)), h.1, h.2.1, h.2.2.1, h.2.2.2.1, .inr h.2.2.2.2.1, h.2.2.2.2.2.1, h.2.2.2.2.2.2⟩
theorem witness_DomeRequests_hemiOff : reqOk quiesced 3 1 = true := by decide +kernel

/-- One sequence left, an OPEN of a domain or a RAIL step. -/
def jobState (op d : Nat) : State := { domeAt 0 with pwr := { (domeAt 0).pwr with jobs := [⟨true, 0, [⟨op, d, 0⟩]⟩] } }
theorem witness_SequenceSteps : ∀ d ∈ [0, 295], d < 296 ∧ (jobState 2 d).pwr.jobs = [⟨true, 0, [⟨2, d, 0⟩]⟩] ∧ (jobState 1 (3 * 83 + 2)).pwr.jobs = [⟨true, 0, [⟨1, 3 * 83 + 2, 0⟩]⟩] ∧ 251 / 3 = 83 ∧
    (running false (domeAt 0).pwr.jobs).find? (awaits d 2) = none := by decide +kernel

def dvfsState (e want : Nat) : State := { domeAt (0x2A001100 + want) with pwr := { (domeAt 0x2A001111).pwr with dvfs := [(83, e)], stretched := [7] } }
theorem witness_OperatingPoints : (∀ e ∈ [1, 7], tfind (dvfsState e 4).pwr.dvfs 83 = some e ∧ e < 8 ∧ fieldOn3 (dvfsState e 4) 83 = true ∧ (dvfsState e 4).dark.slice = none) ∧
    fieldOn3 (domeAt 0x20001111) 83 = false ∧ 7 ∈ (dvfsState 1 1).pwr.stretched ∧ 0 ∉ (dvfsState 1 1).pwr.stretched := by decide +kernel

/-- A field whose last temperature word and CAP_T are given; CAP_T stands in bits 6:4. -/
def hot (temp capT : Nat) : State := withRegs [(rFldTemp 83, temp)] (domeAt (0x2A001101 + 16 * capT))
/-- The same reading on all four diodes. -/
def diodes (a : Int) : Diodes := ⟨some a, some a, some a, some a⟩
/-- Readings in sixteenths: 94.9375 °C; 95 and 109.9375 °C; 110 and 114.9375 °C; 115 °C; and no valid diode. -/
theorem witness_Temperatures : DomeUp (hot 0 1) ∧ transitOn (hot 0 1) 83 = true ∧ (hot 0 1).dark.slice = none ∧ (hot 0 1).pwr.jobs = [] ∧ computeOn (hot 0 1) 83 = true ∧
    (hot 0 1).flag (rFldPwr 83) 19 = false ∧ domSt (domeAt 0) (252 + 4 * 7) ≠ 1 ∧ Cool (diodes 1519) ∧ (∀ a ∈ [1520, 1759], atLeast (tempOf (diodeWord (diodes a))) 95 = true ∧ atLeast (tempOf (diodeWord (diodes a))) 110 = false) ∧
    (∀ a ∈ [1760, 1839], atLeast (tempOf (diodeWord (diodes a))) 110 = true ∧ atLeast (tempOf (diodeWord (diodes a))) 115 = false) ∧ atLeast (tempOf (diodeWord (diodes 1840))) 115 = true ∧
    tempOf (diodeWord ⟨none, none, none, none⟩) = none ∧ atLeast (tempOf (diodeWord ⟨none, none, none, none⟩)) 115 = false ∧
    atLeast (tempOf ((hot 0 1).rd (rFldTemp 83))) 95 = false ∧ (hot 0 3).fld (rFldPwr 83) 6 4 = 3 :=
  have h : domeState (hot 0 1) = 2 ∧ transitOn (hot 0 1) 83 = true ∧ (hot 0 1).dark.slice = none ∧ (hot 0 1).pwr.jobs = [] ∧ computeOn (hot 0 1) 83 = true ∧
    (hot 0 1).flag (rFldPwr 83) 19 = false ∧ domSt (domeAt 0) (252 + 4 * 7) ≠ 1 ∧
    ((∀ o ∈ [(diodes 1519).d0, (diodes 1519).d1, (diodes 1519).d2, (diodes 1519).d3], o ≠ none) ∧ tempOf (diodeWord (diodes 1519)) ≠ none ∧ atLeast (tempOf (diodeWord (diodes 1519))) 95 = false) ∧
    (∀ a ∈ [1520, 1759], atLeast (tempOf (diodeWord (diodes a))) 95 = true ∧ atLeast (tempOf (diodeWord (diodes a))) 110 = false) ∧
    (∀ a ∈ [1760, 1839], atLeast (tempOf (diodeWord (diodes a))) 110 = true ∧ atLeast (tempOf (diodeWord (diodes a))) 115 = false) ∧ atLeast (tempOf (diodeWord (diodes 1840))) 115 = true ∧
    tempOf (diodeWord ⟨none, none, none, none⟩) = none ∧ atLeast (tempOf (diodeWord ⟨none, none, none, none⟩)) 115 = false ∧
    atLeast (tempOf ((hot 0 1).rd (rFldTemp 83))) 95 = false ∧ (hot 0 3).fld (rFldPwr 83) 6 4 = 3 := by decide +kernel
  ⟨.inr h.1, h.2⟩
theorem witness_Temperatures_caps : (∀ c ∈ [2, 3], atLeast (tempOf ((hot 1520 c).rd (rFldTemp 83))) 95 = true ∧ (hot 1520 c).fld (rFldPwr 83) 6 4 = c) ∧
    (∀ c ∈ [2, 4], tempOf ((hot 1439 c).rd (rFldTemp 83)) ≠ none ∧ atLeast (tempOf ((hot 1439 c).rd (rFldTemp 83))) 90 = false ∧ (hot 1439 c).fld (rFldPwr 83) 6 4 = c) := by decide +kernel
def limbHot (temp : Nat) (stuck : List Nat) : State := { withRegs [(rLmbTemp 7, temp)] (domeAt 0) with pwr := { (domeAt 0).pwr with stuck := stuck } }
theorem witness_Temperatures_limb : tempOf ((limbHot 1439 []).rd (rLmbTemp 7)) ≠ none ∧ atLeast (tempOf ((limbHot 1439 []).rd (rLmbTemp 7))) 90 = false ∧ 7 ∉ (limbHot 1439 []).pwr.stuck ∧
    domeState (limbHot 0x8000800080008000 [7]) = 2 ∧ 7 ∈ (limbHot 0x8000800080008000 [7]).pwr.stuck ∧ tempOf ((limbHot 0x8000800080008000 [7]).rd (rLmbTemp 7)) = none := by decide +kernel

theorem witness_TripEffect : DomeUp (domeAt 0) ∧ 256 ≠ 252 + 4 * hostLimb (domeAt 0) ∧ (domeAt 0).dark.slice = none :=
  have h : domeState (domeAt 0) = 2 ∧ 256 ≠ 252 + 4 * hostLimb (domeAt 0) ∧ (domeAt 0).dark.slice = none := by decide +kernel
  ⟨.inr h.1, h.2⟩

/-- Both clips at 44 V and the input at the reset limit of 32 kW; above it; the states of CAP_P that rise and fall; one clip. -/
def capState (pwr capp : Nat) : State := withRegs [(rDomePcap, 0x140 * 2 ^ 48 + pwr * 2 ^ 32), (rFldPwr 0, 0x111 + 2 ^ 12 * capp), (rDomeBus, 3)] (domeAt 0)
theorem witness_InputPower : domeState (capState 0 1) = 2 ∧ (capState 0 1).tray.openA = false ∧ (capState 0 1).tray.openB = false ∧ (capState 0 1).flag rDomeBus 2 = false ∧ 3200 ≤ capActs (capState 0 1) * 10 ∧
    (∀ c ∈ [1, 3], overCap (capState 3201 c) = true ∧ capP (capState 3201 c) = c) ∧ (∀ c ∈ [2, 4], (capState 3039 c).fld rDomePcap 47 32 * 100 < capLimit (capState 3039 c) * 10 * 95 ∧ capP (capState 3039 c) = c) ∧
    (withRegs [(rDomeBus, 7)] State.reset).fld rDomeBus 2 0 = 7 ∧ (capState 0 1).pwr.excess = false ∧ capP (capState 0 3) < 4 ∧ capActs (capState 0 3) * 10 < 65535 := by decide +kernel
/-- 44.0 V is OK and 43.9 V is not. -/
theorem witness_InputPower_clips : decide (440 ≤ (440 : Nat)) ≠ decide (440 ≤ (439 : Nat)) := by decide

def warnState (d : Nat) (n : Nat) : State := { withRegs [(rDomeIn, d)] (domeAt 0) with pwr := { (domeAt 0).pwr with glCnt := n } }
theorem witness_WarningInput : domeState (warnState 0 0) ≠ 0 ∧ (warnState 0 0).flag rDomeIn 1 = !true ∧ (warnState 2 0).flag rDomeIn 1 = !false ∧ (warnState 0 0).flag rDomeIn 2 = false ∧ (warnState 2 0).flag rDomeIn 2 = false ∧
    1000 < (warnState 0 1001).pwr.glCnt ∧ (warnState 4 0).flag rDomeIn 2 = true ∧ (warnState 2 0).flag rDomeIn 1 = true := by decide +kernel
/-! ### Claims about the mesh, links and the seam -/

/-- A packet of one line from core P(0,0) to core P(1,0), at the last line of the core store, or short of it. -/
def meshPkt (typ n addr : Nat) (te : Bool) : Packet :=
  { typ := typ, lastp := true, exp := false, plane := false, det := false, side := false, dx := 1, dy := 0, sx := 0, sy := 0, daddr := addr, gen := 7, te := te, tok := 63
    q := false, chq := 0, tag := 4095, rlines := 0, status := 0, mcimg := [], body := List.replicate n ⟨3, false⟩ }
/-- Field 0 powered, core P(1,0) in the transfer window, its token 63 at generation 7, its last line clean. -/
def meshState : State :=
  (withRegs [(rFldPwr 0, 0x2A001111), (rCoreStat 1, 1), (rCoreTok 1 63, 255 * 65536 + 7)] State.reset).modCore 1 (fun k => { k with store := (List.range 8).map (fun i => (65528 + i, eccEncode 4 false (65528 + i))) })

/-- What `Passes` and `Reaches` ask, as computations. -/
def passB (p : Packet) (s : State) : Bool := (routeOf s p == .ok) && !waits s p
def reachB (p : Packet) (s : State) : Bool :=
  passB p s && coreDest p && computeOn s (dstField p) && admits s (coreAt p.dx p.dy) && (s.core (coreAt p.dx p.dy)).held.isEmpty
theorem passes_of {p : Packet} {s : State} (h : passB p s = true) : Passes p s := by
  simp only [passB, Bool.and_eq_true, beq_iff_eq, Bool.not_eq_true'] at h
  exact ⟨h.1, h.2⟩
theorem reaches_of {p : Packet} {s : State} (h : reachB p s = true) : Reaches p s := by
  simp only [reachB, Bool.and_eq_true, List.isEmpty_iff] at h
  exact ⟨passes_of h.1.1.1.1, h.1.1.1.2, h.1.1.2, h.1.2, h.2⟩

/-- One line and a little: nine words, of which the first keeps 3 bytes and the last 7. -/
def keepPkt (typ addr : Nat) : Packet := { meshPkt typ 7 addr false with keepLo := 3, keepHi := 7 }
theorem witness_CorePackets : (∀ typ ∈ [1, 2], ∀ te, Writes (meshPkt typ 8 524224 te) 0x10000 ∧ Reaches (meshPkt typ 8 524224 te) meshState) ∧
    (∀ typ ∈ [1, 2], Writes (keepPkt typ 524224) 0x10000 ∧ Reaches (keepPkt typ 524224) meshState) ∧
    Reaches (meshPkt 3 0 524224 false) meshState ∧ pktWord (meshPkt 3 0 524224 false) + 8 ≤ 0x10000 ∧ meshState.fld (rCoreTok 1 63) 15 0 = 7 :=
  have h : (∀ typ ∈ [1, 2], ∀ te, ((meshPkt typ 8 524224 te).daddr % 8 = 0 ∧ (meshPkt typ 8 524224 te).body ≠ [] ∧ pktWord (meshPkt typ 8 524224 te) + (meshPkt typ 8 524224 te).body.length ≤ 0x10000 ∧
        (meshPkt typ 8 524224 te).keepLo < 8 ∧ (meshPkt typ 8 524224 te).keepHi < 8 ∧ ((meshPkt typ 8 524224 te).body.length = 1 → (meshPkt typ 8 524224 te).keepLo + (meshPkt typ 8 524224 te).keepHi < 8)) ∧
        reachB (meshPkt typ 8 524224 te) meshState = true) ∧
    (∀ typ ∈ [1, 2], ((keepPkt typ 524224).daddr % 8 = 0 ∧ (keepPkt typ 524224).body ≠ [] ∧ pktWord (keepPkt typ 524224) + (keepPkt typ 524224).body.length ≤ 0x10000 ∧ (keepPkt typ 524224).keepLo < 8 ∧
        (keepPkt typ 524224).keepHi < 8 ∧ ((keepPkt typ 524224).body.length = 1 → (keepPkt typ 524224).keepLo + (keepPkt typ 524224).keepHi < 8)) ∧ reachB (keepPkt typ 524224) meshState = true) ∧
    reachB (meshPkt 3 0 524224 false) meshState = true ∧ pktWord (meshPkt 3 0 524224 false) + 8 ≤ 0x10000 ∧ meshState.fld (rCoreTok 1 63) 15 0 = 7 := by decide +kernel
  ⟨fun typ ht te => ⟨(h.1 typ ht te).1, reaches_of (h.1 typ ht te).2⟩, fun typ ht => ⟨(h.2.1 typ ht).1, reaches_of (h.2.1 typ ht).2⟩, reaches_of h.2.2.1, h.2.2.2⟩
theorem witness_CorePackets_read : Answers (meshPkt 3 0 524224 false) meshState ∧ ∀ i < 8, Holds 1 (pktWord (meshPkt 3 0 524224 false) + i) 4 meshState :=
  have h : (srcField (meshPkt 3 0 524224 false) < 84 ∧ ∀ f < 84, ∀ g < 2, gwUp meshState f g = true) ∧
      ∀ i < 8, cwRead (meshState.core 1).store (pktWord (meshPkt 3 0 524224 false) + i) = .clean ⟨4, false⟩ := by decide +kernel
  h

/-- The last line of the field store of field 0, which nothing has written and so reads 0. -/
def storePkt (typ n : Nat) : Packet := { meshPkt typ n (fsWords * 8 - 64) false with dx := 0x1FF, dy := 0 }
theorem witness_FieldStoreWrite : storeDest (storePkt 8 8) = true ∧ storeOn meshState 0 = true ∧ (∀ typ ∈ [8, 2], Passes (storePkt typ 8) meshState ∧ Writes (storePkt typ 8) fsWords) ∧
    Passes (storePkt 3 0) meshState ∧ pktWord (storePkt 3 0) + 8 ≤ fsWords ∧ Answers (storePkt 2 8) meshState ∧ ∀ i, FieldHolds 0 (pktWord (storePkt 3 0) + i) 0 meshState :=
  have h : storeDest (storePkt 8 8) = true ∧ storeOn meshState 0 = true ∧ (∀ typ ∈ [8, 2], passB (storePkt typ 8) meshState = true ∧ ((storePkt typ 8).daddr % 8 = 0 ∧ (storePkt typ 8).body ≠ [] ∧
      pktWord (storePkt typ 8) + (storePkt typ 8).body.length ≤ fsWords ∧ (storePkt typ 8).keepLo < 8 ∧ (storePkt typ 8).keepHi < 8 ∧ ((storePkt typ 8).body.length = 1 → (storePkt typ 8).keepLo + (storePkt typ 8).keepHi < 8))) ∧
    passB (storePkt 3 0) meshState = true ∧ pktWord (storePkt 3 0) + 8 ≤ fsWords ∧ (srcField (storePkt 2 8) < 84 ∧ ∀ f < 84, ∀ g < 2, gwUp meshState f g = true) := by decide +kernel
  ⟨h.1, h.2.1, fun typ ht => ⟨passes_of (h.2.2.1 typ ht).1, (h.2.2.1 typ ht).2⟩, passes_of h.2.2.2.1, h.2.2.2.2.1, h.2.2.2.2.2, fun _ => .inl ⟨rfl, rfl⟩⟩

/-- Cohort A of the rectangle of the one core P(1,0), whose logical place is (0,0). -/
def castPkt : Packet := { meshPkt 0x10 8 0 false with mcimg := [wd (2 ^ 63 + 2 ^ 58 + 1 + 2 ^ 9), 0] }
def castState : State := withRegs [(rCoreId 1, 2 ^ 35)] meshState
theorem witness_Multicasts : fieldXY castPkt.sx 0 = fieldXY 1 0 ∧ mcRect castPkt.mcimg = (1, 1, 0, 0) ∧ transitOn castState (fieldXY 1 0) = true ∧ takesCopy castPkt (coreAt 1 0) castState = true ∧
    rtDead castState 1 0 = false ∧ admits castState (coreAt 1 0) = true ∧ (castState.core (coreAt 1 0)).held = [] ∧ castPkt.daddr % 8 = 0 ∧ pktWord castPkt + castPkt.body.length ≤ 0x10000 ∧
    linkFree castState (meshLink false 0 0 1) 2 0 = true ∧ settled castState (meshLink false 0 0 1) = true ∧ follows castState castPkt = false ∧ castPkt.rest = [] := by decide +kernel
theorem witness_Multicasts_branches : (mcBranches castState castPkt).map (fun w => coreAt w.1.1 w.1.2) = [1] ∧
    ∀ w ∈ mcBranches castState castPkt, w.2.route = .ok ∧ mcHeld castState castPkt w.1 w.2 = false ∧ admits castState (coreAt w.1.1 w.1.2) = true ∧ (castState.core (coreAt w.1.1 w.1.2)).held = [] := by decide +kernel

/-- A read of BAR2, a write of it, a read of the debug transport and one of an engine of limb 0 are outstanding under tags 128 to 130 and 4095; a Slew transfer of limb 0 has a write outstanding under tag 127. -/
def askState : State :=
  let s := { meshState with reqs := [(128, ⟨0, 0, false, 0, 64, [], 0, 0⟩), (129, ⟨1, 0, false, 0, 64, [], 0, 0⟩), (130, ⟨3, 0, false, 0, 64, [], 64, 0⟩), (4095, ⟨0, 0, true, 0, 64, [], 0, 0⟩)] }
  s.modLimb 0 (fun l => { l with runs := [{ (default : Run) with chan := 7, tag := 127, acks := [1] }] })
def limbPkt (typ tag n : Nat) : Packet := { meshPkt typ n 0 false with dx := 0x1FE, dy := 0, tag := tag }
theorem witness_LimbPackets : (∀ t ∈ [(128, 0, false), (129, 1, false), (130, 3, false), (4095, 0, true)], (tfind askState.reqs (4096 * 0 + t.1)).map (fun q => (q.who, q.write)) = some t.2) ∧
    (∀ p ∈ [limbPkt 4 128 8, { limbPkt 4 128 8 with lastp := false }, limbPkt 4 129 8, limbPkt 4 130 8, limbPkt 5 4095 0, limbPkt 6 128 0, limbPkt 5 127 0, limbPkt 9 0 8, { limbPkt 9 0 8 with q := true, lastp := false }], Passes p askState) ∧
    ((limbPkt 4 128 8).body.any (fun w => w.x)) = false ∧ ((askState.limb 0).runs.find? (fun x => x.tag == 127)).map (fun x => x.tag) = some 127 ∧ findRun askState 0 0 = none ∧
    bits (7 * 2 ^ 56 : Word) 63 56 ∉ [0x01, 0x02, 0x03, 0x04, 0x05, 0x06, 0x08, 0x09, 0x10, 0x20] :=
  have h : (∀ t ∈ [(128, 0, false), (129, 1, false), (130, 3, false), (4095, 0, true)], (tfind askState.reqs (4096 * 0 + t.1)).map (fun q => (q.who, q.write)) = some t.2) ∧
    (∀ p ∈ [limbPkt 4 128 8, { limbPkt 4 128 8 with lastp := false }, limbPkt 4 129 8, limbPkt 4 130 8, limbPkt 5 4095 0, limbPkt 6 128 0, limbPkt 5 127 0, limbPkt 9 0 8, { limbPkt 9 0 8 with q := true, lastp := false }], passB p askState = true) ∧
    ((limbPkt 4 128 8).body.any (fun w => w.x)) = false ∧ ((askState.limb 0).runs.find? (fun x => x.tag == 127)).map (fun x => x.tag) = some 127 ∧ findRun askState 0 0 = none ∧
    bits (7 * 2 ^ 56 : Word) 63 56 ∉ [0x01, 0x02, 0x03, 0x04, 0x05, 0x06, 0x08, 0x09, 0x10, 0x20] := by decide +kernel
  ⟨h.1, fun p hp => passes_of (h.2.1 p hp), h.2.2⟩

/-- An idle flit with a good CRC, its number and whether it acknowledges; and an ack-only one. -/
def seqFlit (kind n : Nat) : Flit := { words := List.replicate 8 0, side := wd (n * 2 ^ 16 + kind) : Flit }.sealed
/-- The skip link east of P(0,0), which no catalogue names, in a status, with the flits 254 and 255 unacknowledged and a number of resends. -/
def skipLink : LinkRef := meshLink true 0 0 1
def linkState (st resends : Nat) : State :=
  { meshState with links := [(linkKey skipLink, { LinkSt.reset with status := st, unacked := [seqFlit 0 254, seqFlit 0 255], nextSeq := 0, expSeq := 255, resends := resends })] }
theorem witness_LinkLife : (∀ st ∈ [0, 1, 2], ((linkState st 0).link skipLink).status = st) ∧ sparable ([0, 1, 34] ++ catalogueLanes skipLink (linkState 0 0)) = true ∧
    sparable ([0, 1, 2] ++ catalogueLanes skipLink (linkState 0 0)) = false ∧ ((linkState 1 0).link skipLink).expSeq = 255 ∧ ((linkState 1 0).link skipLink).discarding = false ∧
    ((linkState 1 0).link skipLink).unacked ≠ [] ∧ 16 ≤ ((linkState 1 16).link skipLink).resends ∧ (linkState 1 0).ports = [] ∧ ((linkState 1 0).link (reverse skipLink)).wait = [] ∧
    ((linkState 1 0).link (reverse skipLink)).crq = [] := by decide +kernel
theorem witness_LinkLife_flits : (seqFlit 0 255).crcOk = true ∧ (seqFlit 0 255).kind = 0 ∧ (seqFlit 0 255).seq = 255 ∧ Bare (seqFlit 0 255) ∧ (seqFlit 0 0).seq ≠ 255 ∧ (seqFlit 0 0).kind ≠ 3 ∧
    bufferRoom (flitReturns skipLink (seqFlit 0 255) (linkState 1 0)) skipLink (seqFlit 0 255) = true ∧ ({ seqFlit 0 255 with words := List.replicate 8 1 } : Flit).crcOk = false ∧
    (seqFlit 3 0).crcOk = true ∧ (seqFlit 3 0).kind = 3 ∧ Bare (seqFlit 3 0) :=
  have h : (seqFlit 0 255).crcOk = true ∧ (seqFlit 0 255).kind = 0 ∧ (seqFlit 0 255).seq = 255 ∧ ((seqFlit 0 255).ackv = false ∧ (seqFlit 0 255).crv = false) ∧ (seqFlit 0 0).seq ≠ 255 ∧ (seqFlit 0 0).kind ≠ 3 ∧
    bufferRoom (flitReturns skipLink (seqFlit 0 255) (linkState 1 0)) skipLink (seqFlit 0 255) = true ∧ ({ seqFlit 0 255 with words := List.replicate 8 1 } : Flit).crcOk = false ∧
    (seqFlit 3 0).crcOk = true ∧ (seqFlit 3 0).kind = 3 ∧ ((seqFlit 3 0).ackv = false ∧ (seqFlit 3 0).crv = false) := by decide +kernel
  h
/-- The CRC-32 of R313 of the nine characters "123456789" is 0xCBF43926, the check value of that code. -/
theorem test_crc32 : crc32 ((List.range 9).map (fun i => BitVec.ofNat 8 (0x31 + i))) = 0xCBF43926 := by decide +kernel

/-- Of the corner core P(0,0)'s two neighbors, the southern one is dead; the link to the eastern one is trained. -/
def hbState : State := { withRegs [(fieldBase 0 + 0x200, 2 ^ 32)] meshState with links := [(linkKey (neighborLink 0 1), { LinkSt.reset with status := 1, nextSeq := 255 })] }
theorem witness_Heartbeats : transitOn hbState (fieldOf 0) = true ∧ liveNeighbor hbState 0 1 = true ∧ (∀ d < 4, d ≠ 1 → liveNeighbor hbState 0 d = false) ∧ maySend hbState (neighborLink 0 1) = true ∧
    (hbState.link (neighborLink 0 1)).wait = [] ∧ (hbState.link (neighborLink 0 1)).crq = [] ∧ transitOn (withRegs [(rFldPwr 83, 0)] State.reset) 83 = false := by decide +kernel

/-- The halves with their registers given: west, east. -/
def seamState (w e : Nat) : State := withRegs [(0x3000, w), (0x3008, e)] State.reset
/-- Both halves released with equal epochs; one flushing; the partner's epoch odd and echoed; a clamp closed; an epoch odd, and one not echoed. -/
theorem witness_SeamHalves : ∀ e : Bool, (epochOf (seamState 0 0) (!e) % 2 = 0 ∧ (seamState 0 0).flag (rSeam e) 34 = false ∧ (seamState 0 0).ports = []) ∧ (seamState (2 ^ 33) (2 ^ 33)).flag (rSeam e) 33 = true ∧
    (epochOf (seamState 0x10001 0x10001) (!e) % 2 = 1 ∧ (seamState 0x10001 0x10001).fld (rSeam e) 31 16 = (seamState 0x10001 0x10001).fld (rSeam (!e)) 15 0 ∧ (seamState 0x10001 0x10001).flag (rSeam e) 33 = false) ∧
    (epochOf (seamState 0 0) e % 2 = 0 ∧ (seamState 0 0).fld (rSeam (!e)) 31 16 = (seamState 0 0).fld (rSeam e) 15 0) ∧ (seamState (2 ^ 34) (2 ^ 34)).flag (rSeam e) 34 = true ∧
    epochOf (seamState 1 1) e % 2 = 1 ∧ (seamState 1 1).fld (rSeam (!e)) 31 16 ≠ (seamState 1 1).fld (rSeam e) 15 0 := by decide +kernel
/-! ### Claims about the store range, the host window and Slew -/

/-- All eight limbs home, the host limb L0. -/
def homeState : State := withRegs [(0, 0), (rModHome, 0xFF * 2 ^ 40 + 8 * 2 ^ 36 + 0x100FF)] State.reset
/-- Granule 2^28 − 1 homes at L7: its last word, and a part that starts at its first word. -/
theorem part_ok : homeLimb homeState (2 ^ 28 - 1) = some 7 ∧ eBusy (homeState.entry (2 ^ 28 - 1)) = false ∧ (homeState.limb 7).slots.length < 32  := by decide +kernel
theorem witness_StoreRangeWrite : PartWrite (2 ^ 44 - 8) 7 [⟨5, true⟩] homeState ∧ 2 ^ 44 - 8 + 8 * 1 ≤ 2 ^ 44 ∧ 2 ^ 44 < 2 ^ 44 - 8 + 8 * [(⟨5, true⟩ : PWord), ⟨6, false⟩].length :=
  ⟨⟨by decide, by decide, by decide, part_ok.1, part_ok.2.1, .inl part_ok.2.2⟩, by decide, by decide⟩
theorem witness_StoreRangeWrite_whole : 65536 * (2 ^ 28 - 1) % granule = 0 ∧ 65536 * (2 ^ 28 - 1) + granule ≤ 2 ^ 44 ∧ 65536 * (2 ^ 28 - 1) / granule = 2 ^ 28 - 1 := by decide
/-- The last granule plain or coded, in near memory or in the vault; and open in a slot. -/
def entryState (form tier : Nat) : State := homeState.setEntry (2 ^ 28 - 1) (wd (form * 2 ^ 62 + tier * 2 ^ 61))
def slotState : State := { homeState with limbs := [(7, { Limb.reset with slots := [⟨2 ^ 28 - 1, [], []⟩] })], migs := [(2 ^ 28 - 1, (1, 2 ^ 30 - 1))] }
theorem witness_StoreRangeRead : (2 ^ 28 - 1 : Nat) < granules ∧ (∀ form ∈ [1, 2], ∀ tier < 2, homeLimb (entryState form tier) (2 ^ 28 - 1) = some 7 ∧ eForm ((entryState form tier).entry (2 ^ 28 - 1)) = form ∧
      eTier ((entryState form tier).entry (2 ^ 28 - 1)) = tier ∧ slotOpen (entryState form tier) 7 (2 ^ 28 - 1) = false) ∧ homeLimb (withRegs [(rModHome, 0)] State.reset) 0 = none ∧ slotOpen slotState 7 (2 ^ 28 - 1) = true := by decide +kernel
theorem witness_SlotsAndMigrations : slotOpen slotState 7 (2 ^ 28 - 1) = true ∧ (∀ a, memByte slotState a = 0) ∧ slotOpen homeState 7 (2 ^ 28 - 1) = false ∧ homeLimb slotState (2 ^ 28 - 1) ≠ none ∧
    tfind slotState.migs (2 ^ 28 - 1) = some (1, 2 ^ 30 - 1) ∧ tfind homeState.migs (2 ^ 28 - 1) = none :=
  have h : slotOpen slotState 7 (2 ^ 28 - 1) = true ∧ slotOpen homeState 7 (2 ^ 28 - 1) = false ∧ homeLimb slotState (2 ^ 28 - 1) ≠ none ∧
    tfind slotState.migs (2 ^ 28 - 1) = some (1, 2 ^ 30 - 1) ∧ tfind homeState.migs (2 ^ 28 - 1) = none := by decide +kernel
  ⟨h.1, fun _ => rfl, h.2⟩
/-- The last byte of the last granule is 5, its granule open: the image is not of zeros, and the empty pools have a run for it. -/
def byteState : State := { slotState with mem := [(2 ^ 44 - 1, 5)] }
theorem pick_ne (l : List (Nat × Nat)) (h : ∀ c ∈ l, c.1 ≠ 1) : ∀ a : Nat × Nat, a.1 ≠ 1 → (l.foldl (fun a c => if c.2 < a.2 then c else a) a).1 ≠ 1 := by
  induction l with
  | nil => exact fun a ha => ha
  | cons c l ih => exact fun a ha => ih (fun d hd => h d (by simp [hd])) _ (by dsimp only; split; exacts [h c (by simp), ha])
theorem chunk_ne (elem : Nat) (bs : List Byte) (h : bs.all (· == 0) = false) : (chunkCode elem bs).1 ≠ 1 := by
  refine pick_ne _ (fun c hc => ?_) _ (by decide)
  simp only [chunkCodes, h, Bool.false_eq_true, if_false, List.append_nil, List.mem_append, List.mem_ite_nil_right, List.mem_singleton] at hc
  rcases hc with (((rfl | ⟨-, rfl⟩) | ⟨-, rfl⟩) | rfl) | ⟨-, rfl⟩ <;> simp
theorem byte_chunk : (tspan 0 byteState.mem (granule * (2 ^ 28 - 1) + 1024 * 63) 1024).all (· == 0) = false := by decide +kernel
theorem byte_elem : ePin (byteState.entry (2 ^ 28 - 1)) = 0 ∧ nearLow byteState 7 + 64 ≤ freeSectors byteState 7 0 ∧ 64 ≤ poolTotal byteState 7 0 ∧ usedRuns byteState 7 0 = [] ∧
    slotOpen byteState 7 (2 ^ 28 - 1) = true := by decide +kernel
theorem image_of {s : State} {g elem : Nat} (h : ((granuleCodes s.mem g elem).all (fun c => c.1 == 1)) = false) : ∃ form n, imageOf s g elem = (form, n) ∧ form ≠ 0 ∧ n ≤ 64 := by
  unfold imageOf
  simp only [h, Bool.false_eq_true, if_false]
  split
  · exact ⟨2, _, rfl, by decide, by unfold ceilDiv; omega⟩
  · exact ⟨1, 64, rfl, by decide, by decide⟩
theorem codes_ne {t : Tab Byte} {g elem : Nat} (h : (tspan 0 t (granule * g + 1024 * 63) 1024).all (· == 0) = false) : ((granuleCodes t g elem).all (fun c => c.1 == 1)) = false :=
  List.all_eq_false.mpr ⟨_, List.mem_map.mpr ⟨_, List.mem_map.mpr ⟨63, by decide, rfl⟩, rfl⟩, by simpa only [beq_iff_eq] using chunk_ne elem _ h⟩
theorem run_of {s : State} {l g n : Nat} (hn : n ≤ 64) (hp : ePin (s.entry g) = 0) (hl : nearLow s l + 64 ≤ freeSectors s l 0) (ht : 64 ≤ poolTotal s l 0) (hu : usedRuns s l 0 = []) : findRun0 l g n s = some (0, 0) := by
  simp only [findRun0, hp, allocIn, hu, firstFit]
  rw [if_neg (by decide), if_neg (by decide), if_pos (by omega), if_pos (by omega)]
  rfl
theorem witness_SlotsAndMigrations_image : ∃ form n tier base, slotOpen byteState 7 (2 ^ 28 - 1) = true ∧ imageOf byteState (2 ^ 28 - 1) (eElem (byteState.entry (2 ^ 28 - 1))) = (form, n) ∧ form ≠ 0 ∧
    findRun0 7 (2 ^ 28 - 1) n byteState = some (tier, base) := by
  obtain ⟨form, n, hi, hf, hn⟩ := image_of (s := byteState) (elem := eElem (byteState.entry (2 ^ 28 - 1))) (codes_ne byte_chunk)
  exact ⟨form, n, 0, 0, byte_elem.2.2.2.2, hi, hf, run_of hn byte_elem.1 byte_elem.2.1 byte_elem.2.2.1 byte_elem.2.2.2.1⟩
def fullWord (i : Nat) : Word := wd (2 ^ 62 + 63 * 2 ^ 50 + 64 * i)
/-- The near pool of L7, alone in ACTIVE, filled by n plain granules; NEAR_LOW at its largest. -/
def fullState (n : Nat) : State :=
  { withRegs [(0, 0), (rModHome, 0x80 * 2 ^ 40 + 2 ^ 36 + 0x10080), (rMigCtl 7, 2 ^ 64 - 1)] State.reset with res := (List.range n).map (fun i => (i, fullWord i)) }
theorem tset_last {t : Tab Nat} {i v : Nat} (h : ∀ p ∈ t, p.1 < i) : tset t i v = t ++ [(i, v)] := by
  induction t with
  | nil => rfl
  | cons p t ih =>
    have hp := h p (by simp)
    simp only [tset, if_neg (show p.1 ≠ i by omega), if_neg (show ¬ i < p.1 by omega), ih (fun q hq => h q (by simp [hq])), List.cons_append]
theorem full_runs (n : Nat) : ((List.range n).map (fun i => (64 * i, 64))).foldl (fun t p => tset t p.1 p.2) [] = (List.range n).map (fun i => (64 * i, 64)) := by
  induction n with
  | zero => rfl
  | succ n ih =>
    rw [List.range_succ, List.map_append, List.foldl_append, ih]
    exact tset_last (by intro p hp; simp only [List.mem_map, List.mem_range] at hp; obtain ⟨a, ha, rfl⟩ := hp; show 64 * a < 64 * n; omega)
theorem full_sum (n : Nat) : (((List.range n).map (fun i => (64 * i, 64))).map (·.2)).foldl (· + ·) 0 = 64 * n := by
  induction n with
  | zero => rfl
  | succ n ih =>
    rw [List.range_succ, List.map_append, List.map_append, List.foldl_append, ih]
    simp [List.foldl]; omega
theorem full_word {i : Nat} (h : i < 2 ^ 24) : eForm (fullWord i) = 1 ∧ eTier (fullWord i) = 0 ∧ eSect (fullWord i) = 63 ∧
    eBase (fullWord i) = 64 * i := by
  simp only [eForm, eTier, eSect, eBase, fullWord, bits, nbits, wd, BitVec.toNat_ofNat]
  omega
theorem full_home (n g : Nat) : homeLimb (fullState n) g = some 7 := by
  have h : activeLimbs (fullState n) = [7] := (show activeLimbs (fullState n) = activeLimbs (fullState 0) from rfl).trans (by decide +kernel)
  simp [homeLimb, h, Nat.mod_one]
theorem full_free (n : Nat) (h : n ≤ 2 ^ 24) : freeSectors (fullState n) 7 0 = 131858432 - 64 * n := by
  have hp : poolTotal (fullState n) 7 0 = 131858432 := (show poolTotal (fullState n) 7 0 = poolTotal (fullState 0) 7 0 from rfl).trans (by decide +kernel)
  have hu : usedRuns (fullState n) 7 0 = (List.range n).map (fun i => (64 * i, 64)) := by
    rw [← full_runs n]
    have hf : (fullState n).res.filter (fun p => eForm p.2 != 0 && eTier p.2 == 0 && homeLimb (fullState n) p.1 == some 7) = (fullState n).res := by
      refine List.filter_eq_self.mpr fun p hp => ?_
      simp only [fullState, List.mem_map, List.mem_range] at hp
      obtain ⟨a, ha, rfl⟩ := hp
      have := full_word (i := a) (by omega)
      simp [this.1, this.2.1, full_home]
    have hm : ((fullState n).res.map (fun p => (eBase p.2, eSect p.2 + 1))) = (List.range n).map (fun i => (64 * i, 64)) := by
      simp only [fullState, List.map_map]
      refine List.map_congr_left fun a ha => ?_
      have := full_word (i := a) (by have := List.mem_range.mp ha; omega)
      simp [this.2.2.1, this.2.2.2]
    have hc : (fullState n).migs = [] := rfl
    simp only [usedRuns, hf, hm, hc, List.filter_nil, List.map_nil, List.append_nil]
  rw [freeSectors, hp, hu, full_sum]
theorem full_low (n : Nat) : nearLow (fullState n) 7 = nearLow (fullState 0) 7 := rfl
theorem full_flag (n : Nat) : (fullState n).flag (rMigCtl 7) 0 = (fullState 0).flag (rMigCtl 7) 0 := rfl
theorem full_active (n : Nat) : activeLimbs (fullState n) = activeLimbs (fullState 0) := rfl
theorem witness_Eviction : (fullState 1900000).flag (rMigCtl 7) 0 = true ∧ (7 : LimbId).val ∈ activeLimbs (fullState 1900000) ∧ freeSectors (fullState 1900000) 7 0 < nearLow (fullState 1900000) 7 ∧
    (withRegs [(rMigCtl 7, 0)] homeState).flag (rMigCtl 7) 0 = false := by
  have h : (fullState 0).flag (rMigCtl 7) 0 = true ∧ 7 ∈ activeLimbs (fullState 0) ∧ nearLow (fullState 0) 7 = 16711680 ∧ (withRegs [(rMigCtl 7, 0)] homeState).flag (rMigCtl 7) 0 = false := by decide +kernel
  refine ⟨(full_flag _).trans h.1, by rw [full_active]; exact h.2.1, ?_, h.2.2.2⟩
  rw [full_free _ (by decide), full_low, h.2.2.1]
  decide
def busyCmd : State := withRegs [(rMigCmd 7, 2 ^ 63)] homeState
theorem witness_MigrationCommands : MigCommand (.hint 7 7 (2 ^ 28 - 1) 0) 7 1 7 (2 ^ 28 - 1) 0 ∧ MigCommand (.flush 7 (2 ^ 28 - 1) 0) 7 4 0 (2 ^ 28 - 1) 0 ∧ busyCmd.flag (rMigCmd 7) 63 = true ∧
    homeState.flag (rMigCmd 7) 63 = false ∧ homeLimb homeState (2 ^ 28 - 1) = some (7 : LimbId).val :=
  have h : busyCmd.flag (rMigCmd 7) 63 = true ∧ homeState.flag (rMigCmd 7) 63 = false ∧ homeLimb homeState (2 ^ 28 - 1) = some (7 : LimbId).val := by decide +kernel
  ⟨.inl ⟨rfl, rfl⟩, .inr (.inr (.inr ⟨rfl, rfl, rfl⟩)), h⟩
/-- A sector that no granule owns, one of a plain image, one of a busy granule, one that a migration writes; and the masks of HOME_APPLY: none, and one limb's, whose near memory has trained or not. -/
def busyState : State := homeState.setEntry (2 ^ 28 - 1) (wd (2 ^ 62 + 2 ^ 60))
theorem witness_ScrubAndHome : homeState.fld (limbBase 7 + 0x1040) 31 16 ≠ 0 ∧ sectorOwner homeState 7 1 0 = none ∧ sectorCopy homeState 7 1 0 = false ∧
    (withRegs [(limbBase 7 + 0x1040, 0)] homeState).fld (limbBase 7 + 0x1040) 31 16 = 0 ∧
    sectorOwner (entryState 1 0) 7 0 0 = some (2 ^ 28 - 1, (entryState 1 0).entry (2 ^ 28 - 1)) ∧ eForm ((entryState 1 0).entry (2 ^ 28 - 1)) = 1 ∧ slotOpen (entryState 1 0) 7 (2 ^ 28 - 1) = false ∧
    eBusy ((entryState 1 0).entry (2 ^ 28 - 1)) = false ∧ sectorOwner busyState 7 0 0 = some (2 ^ 28 - 1, busyState.entry (2 ^ 28 - 1)) ∧ eBusy (busyState.entry (2 ^ 28 - 1)) = true ∧
    sectorOwner slotState 7 1 (2 ^ 30 - 1) = none ∧ sectorCopy slotState 7 1 (2 ^ 30 - 1) = true := by decide +kernel
theorem witness_ScrubAndHome_masks : (withRegs [(rModHome, 0)] homeState).fld rModHome 7 0 = 0 ∧ homeState.fld rModHome 7 0 ≠ 0 ∧ ((∃ i < 8, (homeState.fld rModHome 7 0).testBit i = true ∧ Config.nearTrained.getLsbD i = false) ∨
    ∀ i < 8, (homeState.fld rModHome 7 0).testBit i = true → Config.nearTrained.getLsbD i = true) := by
  refine ⟨by decide +kernel, by decide +kernel, ?_⟩
  by_cases h : ∃ i < 8, (homeState.fld rModHome 7 0).testBit i = true ∧ Config.nearTrained.getLsbD i = false
  · exact .inl h
  · refine .inr fun i hi ht => ?_
    cases hc : Config.nearTrained.getLsbD i
    · exact absurd ⟨i, hi, ht, hc⟩ h
    · rfl

/-- One page of the host window is enabled, readable and writable. -/
def winState : State := { withRegs [(0x4008, 2 ^ 63 + 1)] homeState with work := [(0x4000000, 2 ^ 21 * 5 + 3)] }
theorem witness_HostWindow : inHostWindow 0x200000000000 = true ∧ inHostWindow 0x1FFFFFFFFFFF = false ∧ inHostWindow 0x300000000000 = false ∧ inHostWindow 0x2FFFFFFFFFFF = true ∧
    (∀ w : Bool, winTranslate winState 0x200000000000 w = some (2 ^ 21 * 5, false) ∧ winTranslate winState 0x2001FFFFFFFF w = none ∧ winTranslate winState 0x2000001FFFFF w = some (2 ^ 21 * 5 + 2 ^ 21 - 1, false) ∧
      winTranslate winState 0x200000200000 w = none) := by decide +kernel

/-- Channel 4095 of L7 armed for pushed lines, first in the start queue; HEAD at the end of its count. -/
def chanState : State :=
  { withRegs [(chanOff 7 4095 0, 2 ^ 44 + 3 * 2 ^ 31), (rSlwCq 7, 16383 * 2 ^ 32)] homeState with limbs := [(7, { Limb.reset with startq := [4095] })] }
theorem witness_SlewArming : chanArmed chanState 7 4095 = true ∧ isRunning homeState 7 4095 = false ∧ chanArmed homeState 7 4095 = false := by decide +kernel
/-- TAIL 8,192 behind HEAD is taken, 8,193 is not. -/
theorem witness_SlewWindows : chanArmed homeState 7 4095 = false ∧ isRunning homeState 7 4095 = false ∧ chanArmed chanState 7 4095 = true ∧
    (chanState.fld (rSlwCq 7) 45 32 + 16384 - 8191) % 16384 ≤ 8192 ∧ 8192 < (chanState.fld (rSlwCq 7) 45 32 + 16384 - 8190) % 16384 := by decide +kernel
theorem witness_SlewTransfers_start : nextSlew chanState 7 = some 4095 ∧ (snapshot 7 4095 (cacheTouch 7 4095 chanState)).1.sk = 3 ∧ (snapshot 7 4095 (cacheTouch 7 4095 chanState)).1.dk = 0 ∧
    (snapshot 7 4095 (cacheTouch 7 4095 chanState)).1.op = 0 ∧ (snapshot 7 4095 (cacheTouch 7 4095 chanState)).1.hint = 0 := by decide +kernel
/-- A finished transfer to the store range; and one to cores by way of the field store that is not delivered. -/
def doneRun (dk : Nat) : Run :=
  { port := false, chan := 4095, tag := 64, arg := 0, lring := 255, snap := [wd (dk * 2 ^ 28)], par := [], src := 0, base := 0, ovf := false, step := 0, rearms := 0, clamps := 0, report := 0, status := 0
    poison := false, want := 0, asked := [], got := [], issued := true, acks := [], delivered := false, lines := 0 }
def runState (dk : Nat) : State := { withRegs [(chanOff 7 4095 0, 0)] homeState with limbs := [(7, { Limb.reset with runs := [doneRun dk] })] }
theorem witness_SlewTransfers_done : findRun (runState 0) 7 4095 = some (doneRun 0) ∧ runFinished (runState 0) 7 (doneRun 0) = true ∧ fatal (runState 0) = false ∧ (doneRun 0).op ≠ 4 ∧ (doneRun 0).f 0 43 42 = 0 ∧
    chanArmed (runState 0) 7 4095 = false ∧ ((runState 0).limb 7).runs = [doneRun 0] ∧ findRun chanState 7 4095 = none ∧ chanState.flag (chanOff 7 4095 0) 42 = false ∧
    findRun (runState 4) 7 4095 = some (doneRun 4) ∧ (doneRun 4).dk = 4 ∧ inFlight (runState 4) 7 (doneRun 4).tag = false ∧ rowsFull (runState 4) (doneRun 4) = false ∧ nextSlew homeState 7 = none ∧ findRun homeState 7 4095 = none ∧
    chanArmed homeState 7 4095 = false := by decide +kernel

/-- The Occulter of field 83 on with two slots of each kind, in a state, with slots filled; a transfer that begins at slot 1 of each kind has been written. -/
def occIn (st : Nat) (p t : List Nat) : State := { withRegs [(rOccCfg 83, 2 ^ 42 + 1), (rOccStat 83, 4 * st)] State.reset with occ := [(83, { Occ.reset with fillP := p, fillT := t, due := [(false, 1), (true, 1)] })] }
theorem witness_Occulter : (∀ st < 2, (occIn st [] []).flag (rOccCfg 83) 0 = true ∧ (occIn st [] []).fld (rOccCfg 83) 47 42 = 1 ∧ occState (occIn st [] []) 83 = st ∧
      ∀ b, (b, 1) ∈ ((occIn st [] []).occAt 83).due ∧ (b, 0) ∉ ((occIn st [] []).occAt 83).due) ∧
    ((occIn 0 [] []).occAt 83).fillP.length + 1 ≠ 2 ∧ ((occIn 1 [] []).occAt 83).fillT.length + 1 ≠ 2 ∧ 1 ∈ ((occIn 0 [1] []).occAt 83).fillP ∧ 1 ∈ ((occIn 1 [] [1]).occAt 83).fillT ∧
    (1 ∉ ((occIn 0 [0] []).occAt 83).fillP ∧ ((occIn 0 [0] []).occAt 83).fillP.length = 1 ∧ ((occIn 0 [0] []).occAt 83).fillT.length ≤ 1) ∧
    (1 ∉ ((occIn 1 [0, 1] [0]).occAt 83).fillT ∧ ((occIn 1 [0, 1] [0]).occAt 83).fillT.length = 1) := by decide +kernel
/-! ### Claims about Meridian and plans -/

/-- Module 9; flow 4095 of L7 in service on port 23 to peer 1023, module 77. -/
def flowRegs : List (Nat × Nat) :=
  [(0, 0), (rMrdId, 9), (portBase 23, 0xD7A4 * 2 ^ 48 + 1), (portBase 23 + 8, 5), (portBase 23 + 0x10, 6), (portBase 23 + 0x28, 2 ^ 63), (limbBase 7 + 0xA0000 + 32 * 4095, 2 ^ 63 + 1023 * 2 ^ 32 + 23 * 2 ^ 24),
   (peerOff 7 1023 0, 2 ^ 63 + 2 ^ 62 + 4095 * 2 ^ 16 + 77)]
def mPkt (typ kind ackseq seq : Nat) : MPkt :=
  { ver := 1, typ := typ, auth := false, ackv := typ == 2, dflow := 4095, srcmod := 77, dstmod := 9, seq := seq, ackseq := ackseq, sack := 0, plen := 0, plan := 255, kind := kind, rtag := 3, addr := 0, payload := [], tag := [] }
/-- Three packets are in the replay pool: SUNA 2^32 − 1, SNXT 2. -/
def flow0 : Flow := { Flow.reset with snxt := 2, suna := 2 ^ 32 - 1, rnext := 2 ^ 32 - 1, ackDue := 14, unack := [⟨2 ^ 32 - 1, 0, mPkt 1 1 0 (2 ^ 32 - 1)⟩, ⟨0, 0, mPkt 1 1 0 0⟩, ⟨1, 0, mPkt 1 1 0 1⟩] }
def mState (k : MPkt) : State := { withRegs flowRegs State.reset with limbs := [(7, { Limb.reset with rxq := [(23, k)], flows := [(4095, flow0)] })] }

theorem witness_FramesReceived : portUp (mState (mPkt 3 0 0 0)) 23 = true ∧ (mState (mPkt 3 0 0 0)).fld (portBase 23 + 8) 47 0 = 5 ∧ (mState (mPkt 3 0 0 0)).flag (portBase 23) 28 = false ∧
    (mState (mPkt 3 0 0 0)).fld (portBase 23 + 0x10) 31 0 = 6 ∧ (mState (mPkt 3 0 0 0)).fld (portBase 23) 63 48 = 0xD7A4 := by decide +kernel
def frame0 : Frame := { (default : Frame) with fcsOk := true, pause := false, ptp := false, dmac := 5, v6 := false, dip := 6, fragment := false, udpOk := true, dport := 0xD7A4, ce := false }
theorem witness_FramesReceived_good : ForStation 23 frame0 (mState (mPkt 3 0 0 0)) ∧ InForm 23 frame0 (mState (mPkt 3 0 0 0)) ∧ frame0.ce = false :=
  have h := witness_FramesReceived
  ⟨⟨rfl, rfl, rfl, h.2.1.symm⟩, ⟨h.2.2.1.symm, by rw [h.2.2.1, if_neg (by decide), h.2.2.2.1]; rfl, rfl, rfl, h.2.2.2.2.symm⟩, rfl⟩
/-- A bad FCS, a PTP frame where the port takes PTP or not, another station's address, another UDP port; and a port that is down. -/
theorem witness_FramesReceived_bad : ({ frame0 with fcsOk := false } : Frame).fcsOk = false ∧ ({ frame0 with ptp := true } : Frame).ptp = true ∧ (ptpState 0 0 0).flag (portBase 0 + 0x90) 63 = true ∧
    portUp (ptpState 0 0 0) 0 = true ∧ (mState (mPkt 3 0 0 0)).flag (portBase 23 + 0x90) 63 = false ∧ ({ frame0 with dmac := 4 } : Frame).dmac ≠ (mState (mPkt 3 0 0 0)).fld (portBase 23 + 8) 47 0 ∧
    ({ frame0 with dport := 0 } : Frame).dport ≠ (mState (mPkt 3 0 0 0)).fld (portBase 23) 63 48 ∧ portUp (mState (mPkt 3 0 0 0)) 22 = false := by decide +kernel

theorem received (typ kind ackseq : Nat) (h : ((mState (mPkt typ kind ackseq (2 ^ 32 - 1))).limb 7).rxq.head? = some (23, mPkt typ kind ackseq (2 ^ 32 - 1)) ∧ okHeader (mState (mPkt typ kind ackseq (2 ^ 32 - 1))) 7 (mPkt typ kind ackseq (2 ^ 32 - 1)) = true ∧
    okTag (mState (mPkt typ kind ackseq (2 ^ 32 - 1))) 7 (mPkt typ kind ackseq (2 ^ 32 - 1)) = true ∧
    peerIsAbsent (mState (mPkt typ kind ackseq (2 ^ 32 - 1))) 7 (flowPeer (mState (mPkt typ kind ackseq (2 ^ 32 - 1))) 7 4095) = false) :
    Received (7 : LimbId).val typ 23 (mPkt typ kind ackseq (2 ^ 32 - 1)) (mState (mPkt typ kind ackseq (2 ^ 32 - 1))) := ⟨h.1, rfl, h.2.1, h.2.2.1, h.2.2.2⟩
/-- A ROLL; an ACK of all three, one of none and one beyond; DATA in order. -/
theorem witness_PacketsReceived : Received (7 : LimbId).val 3 23 (mPkt 3 0 0 (2 ^ 32 - 1)) (mState (mPkt 3 0 0 (2 ^ 32 - 1))) ∧ Received (7 : LimbId).val 2 23 (mPkt 2 0 2 (2 ^ 32 - 1)) (mState (mPkt 2 0 2 (2 ^ 32 - 1))) ∧
    Received (7 : LimbId).val 2 23 (mPkt 2 0 3 (2 ^ 32 - 1)) (mState (mPkt 2 0 3 (2 ^ 32 - 1))) ∧ Received (7 : LimbId).val 1 23 (mPkt 1 7 0 (2 ^ 32 - 1)) (mState (mPkt 1 7 0 (2 ^ 32 - 1))) :=
  ⟨received 3 0 0 (by decide +kernel), received 2 0 2 (by decide +kernel), received 2 0 3 (by decide +kernel), received 1 7 0 (by decide +kernel)⟩
theorem witness_PacketsReceived_window : sub32 2 flow0.suna ≤ sub32 flow0.snxt flow0.suna ∧ sub32 (2 ^ 32 - 1) flow0.suna ≤ sub32 flow0.snxt flow0.suna ∧ sub32 flow0.snxt flow0.suna < sub32 3 flow0.suna ∧
    ((mState (mPkt 1 7 0 0)).flow 7 4095 = flow0) ∧ flow0.rmap = 0 ∧ flow0.stopped = false ∧ flow0.rnext = 2 ^ 32 - 1 ∧ flow0.ackDue < 15 := by decide +kernel
/-- A ROLL or an ACK whose header is not of this version, and one from a peer that is absent; a limb with no packet. -/
def badHead (typ : Nat) : MPkt := { mPkt typ 0 0 0 with ver := 2 }
def absentState (k : MPkt) : State := withRegs [(peerOff 7 1023 0, 2 ^ 63 + 2 ^ 62 + 2 ^ 61 + 4095 * 2 ^ 16 + 77)] (mState k)
/-- On an authenticated flow a packet without its tag is dropped: its tag is no tag of 16 bytes. -/
theorem witness_PacketsReceived_drops : ∀ typ ∈ [2, 3], ((mState (badHead typ)).limb 7).rxq.head? = some (23, badHead typ) ∧ okHeader (mState (badHead typ)) 7 (badHead typ) = false ∧
    ((absentState (mPkt typ 0 0 0)).limb 7).rxq.head? = some (23, mPkt typ 0 0 0) ∧ okHeader (absentState (mPkt typ 0 0 0)) 7 (mPkt typ 0 0 0) = true ∧ okTag (absentState (mPkt typ 0 0 0)) 7 (mPkt typ 0 0 0) = true ∧
    peerIsAbsent (absentState (mPkt typ 0 0 0)) 7 (flowPeer (absentState (mPkt typ 0 0 0)) 7 4095) = true ∧ (State.reset.limb 7).rxq = [] := by decide +kernel
def planRun (r : PlanRun) (s : State) : State := { s with plans := [(256 * 7 + 255, r)] }
/-- The plan of the packet runs with its tag, or has ended. -/
theorem witness_PacketsReceived_plan : (∀ b : Bool, 3 = ((planRun { PlanRun.reset with running := b, tag := 3 } (mState (mPkt 1 7 0 0))).plan 7 255).tag ∧
    planActive (planRun { PlanRun.reset with running := b, tag := 3 } (mState (mPkt 1 7 0 0))) 7 255 = b) := by decide +kernel
theorem noneWait_mState (k : MPkt) : NoneWait (mState k) := by
  intro l p hp
  have h : (mState k).limb l = if 7 = l then { Limb.reset with rxq := [(23, k)], flows := [(4095, flow0)] } else Limb.reset := by
    show tget Limb.reset [(7, _)] l = _
    simp only [tget, tfind]; split <;> rfl
  rw [h] at hp
  split at hp
  · rw [List.mem_singleton.mp hp]; rfl
  · exact absurd hp (List.not_mem_nil)
theorem witness_PacketsReceived_noneWait : NoneWait (mState (mPkt 2 0 2 (2 ^ 32 - 1))) := noneWait_mState _

theorem witness_PacketsSent : MaySend (7 : LimbId).val 4095 (mState (mPkt 3 0 0 0)) ∧ ((mState (mPkt 3 0 0 0)).flow 7 4095).ackDue ≠ 0 ∧ rollFlows (mState (mPkt 3 0 0 0)) 7 1023 = [4095] ∧
    (∀ q < 1024, q ≠ 1023 → rollFlows (mState (mPkt 3 0 0 0)) 7 q = []) :=
  have h : (inService (mState (mPkt 3 0 0 0)) 7 4095 = true ∧ ((mState (mPkt 3 0 0 0)).flow 7 4095).stopped = false ∧ moduleId (mState (mPkt 3 0 0 0)) ≠ 0xFFFF ∧ fatal (mState (mPkt 3 0 0 0)) = false ∧
      portUp (mState (mPkt 3 0 0 0)) (flowPort (mState (mPkt 3 0 0 0)) 7 4095) = true) ∧ ((mState (mPkt 3 0 0 0)).flow 7 4095).ackDue ≠ 0 ∧ rollFlows (mState (mPkt 3 0 0 0)) 7 1023 = [4095] ∧
    (∀ q < 1024, q ≠ 1023 → rollFlows (mState (mPkt 3 0 0 0)) 7 q = []) := by decide +kernel
  ⟨⟨h.1.1, h.1.2.1, h.1.2.2.1, h.1.2.2.2.1, h.1.2.2.2.2⟩, h.2⟩
/-- One packet sent 62 or 63 times again, as the flow's only one. -/
def oneSent (n : Nat) : State := { mState (mPkt 3 0 0 0) with limbs := [(7, { Limb.reset with flows := [(4095, { flow0 with unack := [⟨0, n, mPkt 1 1 0 0⟩] })] })] }
theorem witness_PacketsSent_resend : (∀ n ∈ [62, 63], ((oneSent n).flow 7 4095).unack = [⟨0, n, mPkt 1 1 0 0⟩]) ∧ (State.reset.flow 7 4095).ackDue = 0 ∧ (State.reset.flow 7 4095).unack = [] ∧
    ∀ q < 1024, rollFlows State.reset 7 q = [] := by decide +kernel

def silent : State := withRegs [(rChrTime, 48000), (peerOff 0 1023 0, 2 ^ 63)] (mState (mPkt 3 0 0 0))
theorem witness_PeerLost : silent.flag (peerOff 0 1023 0) 63 = true ∧ silent.flag (peerOff 0 1023 0) 61 = false ∧ silent.rd (peerOff 0 1023 1) = 0 ∧ 48000 ≤ (sidereal silent).toNat ∧ silent.plans = [] ∧
    tfind (silent.limb 7).flows 4095 ≠ none ∧ flowPeer silent 7 4095 = 1023 ∧ (withRegs [(peerOff 0 1022 0, 0)] silent).flag (peerOff 0 1022 0) 63 = false ∧
    (sidereal (withRegs [(rChrTime, 47999)] silent) - (withRegs [(rChrTime, 47999)] silent).rd (peerOff 0 1023 1)).toNat < 48000 := by decide +kernel

theorem witness_TablesAndPorts : NoneWait (mState (mPkt 3 0 0 0)) ∧ (mState (mPkt 3 0 0 0)).flag (limbBase 7 + 0xA0000 + 32 * 4094) 63 = false ∧ (mState (mPkt 3 0 0 0)).flag (limbBase 7 + 0xA0000 + 32 * 4095) 63 = true ∧
    (mState (mPkt 3 0 0 0)).flag (peerOff 7 0 0) 63 = false ∧ (mState (mPkt 3 0 0 0)).flag (portBase 23) 0 = true ∧ (mState (mPkt 3 0 0 0)).flag (portBase 22) 0 = false ∧
    (mState (mPkt 3 0 0 0)).flag (portBase 23 + 0x28) 63 = true :=
  have h : (mState (mPkt 3 0 0 0)).flag (limbBase 7 + 0xA0000 + 32 * 4094) 63 = false ∧ (mState (mPkt 3 0 0 0)).flag (limbBase 7 + 0xA0000 + 32 * 4095) 63 = true ∧
    (mState (mPkt 3 0 0 0)).flag (peerOff 7 0 0) 63 = false ∧ (mState (mPkt 3 0 0 0)).flag (portBase 23) 0 = true ∧ (mState (mPkt 3 0 0 0)).flag (portBase 22) 0 = false ∧
    (mState (mPkt 3 0 0 0)).flag (portBase 23 + 0x28) 63 = true := by decide +kernel
  ⟨noneWait_mState _, h⟩

/-- Plan 255 of L7 of a kind, two members, this one the first, 100 bytes in all, as a run. -/
def planState (kind : Nat) (r : PlanRun) : State :=
  { planRun r (withRegs flowRegs State.reset) with
    work := [(7 * 2 ^ 28 + engTab 7 + planStride * 255, wd (kind + 2 ^ 16 + 2 ^ 48)), (7 * 2 ^ 28 + engTab 7 + planStride * 255 + 24, 100)],
    step := { StepSt.reset with rs := [⟨0, 0, some 0, true, false, 0, 5, 77⟩] } }
def goingRun : PlanRun := { PlanRun.reset with running := true }
theorem witness_PlanRuns : (∀ kind ∈ [0, 3], ((planState kind PlanRun.reset).plan 7 255).running = false ∧ limbHeld (planState kind PlanRun.reset) 7 = false ∧ pKind (planN (planState kind PlanRun.reset) 7 255) = kind) ∧
    ((planState 0 goingRun).plan 7 255).running = true ∧ planActive (planState 0 goingRun) 7 255 = true ∧ planActive (planState 0 PlanRun.reset) 7 255 = false ∧
    (∀ e ∈ [some (2, 0xFFFF), some (0, 0xFFFF)], ((planState 0 { goingRun with ending := e }).plan 7 255).ending = e ∧ ((planState 0 { goingRun with ending := e }).plan 7 255).lring = 0xFF ∧
      pKind (planN (planState 0 { goingRun with ending := e }) 7 255) = 0) ∧ ((planState 2 goingRun).plan 7 255).ending = none ∧ planDone (planState 2 goingRun) 7 255 = false ∧
    (planState 0 goingRun).plan 7 255 = goingRun ∧ planDone (planState 0 goingRun) 7 255 = true ∧ pRoot (planN (planState 2 PlanRun.reset) 7 255) ≠ pSelf (planN (planState 2 PlanRun.reset) 7 255) := by decide +kernel
theorem witness_PlanRuns_slow : (∀ t ∈ [0, 1000000000], planActive (withRegs [(rChrTime, t)] (planState 2 goingRun)) 7 255 = true ∧ ((withRegs [(rChrTime, t)] (planState 2 goingRun)).plan 7 255).slow = false ∧
    planNeeds (withRegs [(rChrTime, t)] (planState 2 goingRun)) 7 255 = true ∧ membersPresent (withRegs [(rChrTime, t)] (planState 2 goingRun)) 7 255 = true) ∧
    pBound (planN (planState 2 goingRun) 7 255) ≤ (sidereal (withRegs [(rChrTime, 1000000000)] (planState 2 goingRun)) - 0).toNat := by decide +kernel
/-- The step's runs have all ended, one has failed, or one still runs. -/
def scalarState (st : Option Nat) : State := { planState 3 goingRun with step := { StepSt.reset with rs := [⟨0, 0, st, true, false, 0, 5, 77⟩] } }
theorem witness_PlanRuns_scalar : (∀ st ∈ [some 0, some 2, none], planActive (scalarState st) 7 255 = true ∧ pKind (planN (scalarState st) 7 255) = 3 ∧ ((scalarState st).plan 7 255).begun = false ∧
    (scalarState st).step.rs = [⟨0, 0, st, true, false, 0, 5, 77⟩]) := by decide +kernel

/-- Every field has its first core mapped and its backward phase reported; the module's record is open; the one powered limb has swept. -/
def closeState (upd : Nat) : State :=
  { withRegs ([(rHostStep, 1), (0x6018, upd)] ++ (List.range 8).map (fun l => (limbBase l + 0x4000, 3)) ++ (List.range 84).map (fun f => (rCoreId (coreOfField f 0), 2 ^ 35))) State.reset with
    chr := (List.range 84).map (fun f => (f, { Chr.reset with bwdReported := true })) ++ [(255, { Chr.reset with isOpen := true })] }
theorem witness_VectorCloses : (closeState 1).plans = [] ∧ launched (closeState 1) = true ∧ (closeState 1).obs.gClosed = false ∧ allBackwardDone (closeState 1) = true ∧ (closeState 1).step.rs = [] ∧
    ((closeState 1).chrOf chrMod).isOpen = true ∧ (closeState 1).obs.uClosed = false ∧ (closeState 1).fld 0x6018 2 0 = 1 ∧ (∀ l < 8, limbOn (closeState 1) l = true → 3 ≤ sweepOf (closeState 1) l) ∧
    launched (withRegs [(rHostStep, 0)] State.reset) = false := by decide +kernel
/-! ### Claims about the update engine, the Plate engine and the dark frame -/

/-- A launched step with its outcome, the runs that decide it, and one powered limb L0 in a sweep. -/
def updState (out sweep : Nat) (obsG scalar : Option Nat) : State :=
  { withRegs [(0, 0), (rHostStep, 1), (rUpdStat, out), (rUpdLstat 0, sweep)] State.reset with step := { StepSt.reset with obsG := obsG, scalar := scalar, obsU := some 0, cbWritten := true } }
theorem witness_StepOutcome : launched State.reset = false ∧ launched (updState 0 1 (some 0) (some 0)) = true ∧ outcome (updState 0 1 (some 0) (some 0)) = 0 ∧ (updState 0 1 (some 0) none).step.scalar = none ∧
    ((updState 0 1 (some 0) (some 0)).step.rsFail = false) := by decide +kernel
theorem witness_StepOutcome_skip : Skips { updState 0 1 (some 0) (some 0) with obs := { Obs.reset with redG := [(4095, 2 ^ 15)] } } :=
  .inr ⟨rfl, (4095, 2 ^ 15), .head _, .inl (by decide)⟩
theorem witness_StepOutcome_apply : ¬ Skips (updState 0 1 (some 0) (some 0)) ∧ ¬ StepFailed (updState 0 1 (some 0) (some 0)) :=
  have h : (updState 0 1 (some 0) (some 0)).flag 0x5060 16 = false := by decide +kernel
  ⟨by rintro (⟨-, h2⟩ | ⟨-, p, hp, -⟩) <;> [exact absurd h2 (by rw [h]; decide); cases hp], by rintro (h | h | h) <;> [exact h rfl; exact h rfl; cases h]⟩
theorem witness_StepOutcome_failed : ¬ Skips (updState 0 1 (some 1) (some 0)) ∧ StepFailed (updState 0 1 (some 1) (some 0)) :=
  have h : (updState 0 1 (some 1) (some 0)).flag 0x5060 16 = false := by decide +kernel
  ⟨by rintro (⟨-, h2⟩ | ⟨h1, -⟩) <;> [exact absurd h2 (by rw [h]; decide); cases h1], .inl (by decide)⟩

/-- The host limb's group 1023 is enabled and directed by slot 63; the step started its update at 0; the deadline is 2,000 µs. -/
def dirState (started : Bool) (t : Nat) (lat : Tab Word) : State :=
  { withRegs [(rChrTime, t)] (updState 1 1 (some 0) (some 0)) with
    work := [(engTab 2 + 64 * 1023, wd (2 ^ 63 + 2 ^ 62 + 63 * 2 ^ 54)), (engTab 5, wd (2 ^ 63))], step := { StepSt.reset with updStarted := started, dirLat := lat } }
theorem witness_DirectedSlots_start : updateReady (updState 1 1 (some 0) (some 0)) = true ∧ updateReady (updState 0 1 (some 0) (some 0)) = false ∧ slotsNamed (updState 1 1 (some 0) (some 0)) = [] ∧
    (∀ l < 8, limbOn (updState 1 1 (some 0) (some 0)) l = true → ∀ g ∈ enabledGroups (updState 1 1 (some 0) (some 0)) l, uProgram (updState 1 1 (some 0) (some 0)) l (gProg (groupN (updState 1 1 (some 0) (some 0)) l g)) ≠ none) := by
  decide +kernel
theorem witness_DirectedSlots_write : slotsNamed (dirState true 0 []) = [63] ∧ slotLatched (dirState true 0 []) 63 = false ∧ slotLatched (dirState true 0 [(63, 0)]) 63 = true ∧ bits (0x3F800000 * 2 ^ 32 : Word) 31 0 = (stepCnt (dirState true 0 [])).toNat % 2 ^ 32 ∧
    goodStep 0x3F800000 = true ∧ goodStep 0x7F800000 = false ∧ goodStep 0xBF800000 = false ∧ goodStep 0x80000000 = true ∧ (dirState false 0 []).step.updStarted = false ∧ launched (dirState true 0 []) = true := by decide +kernel
theorem witness_DirectedSlots_deadline : (dirState true 2000000 []).step.updStarted = true ∧ outcome (dirState true 2000000 []) < 2 ∧
    max 1 ((dirState true 2000000 []).fld rUpdDirctl 15 0) * 1000 ≤ (sidereal (dirState true 2000000 []) - (dirState true 2000000 []).step.updAt).toNat ∧
    (∃ i ∈ slotsNamed (dirState true 2000000 []), slotLatched (dirState true 2000000 []) i = false) ∧ (∀ i ∈ slotsNamed (dirState true 0 [(63, 0)]), slotLatched (dirState true 0 [(63, 0)]) i = true) := by decide +kernel

/-- Segment 4095 of L0 has plan 255, group 1023 and program 0 in use, and owns ten blocks; or no segment is enabled. -/
def sweepState : State :=
  { updState 1 2 (some 0) (some 0) with
    work := [(engTab 4 + 64 * 4095, wd (2 ^ 63 + 255 * 2 ^ 55 + 1023 * 2 ^ 45)), (engTab 4 + 64 * 4095 + 8, wd (10 * 2 ^ 36)), (engTab 7 + planStride * 255 + 24, 10), (engTab 7 + planStride * 255 + 32, 10),
      (engTab 2 + 64 * 1023, wd (2 ^ 63)), (engTab 5, wd (2 ^ 63))] }
theorem witness_Sweeps : launched sweepState = true ∧ sweepOf sweepState 0 = 2 ∧ limbHeld sweepState 0 = false ∧ segProg sweepState 0 4095 = some [] ∧ (nextBlocks 0 4095 sweepState).1 = [0, 1, 2, 3, 4, 5, 6, 7] ∧
    segProg sweepState 0 0 = none ∧ lagged sweepState = false := by decide +kernel
/-- A limb that holds a contained error: its engine neither batches nor ends well. -/
theorem witness_Sweeps_held : launched (withRegs [(errBase (domLimb 0), 2 ^ 9)] sweepState) = true ∧ sweepOf (withRegs [(errBase (domLimb 0), 2 ^ 9)] sweepState) 0 = 2 ∧
    limbHeld (withRegs [(errBase (domLimb 0), 2 ^ 9)] sweepState) 0 = true := by decide +kernel
theorem witness_Sweeps_notDone : sweepDone sweepState 0 = false := by
  rw [sweepDone, List.all_eq_false]
  exact ⟨4095, List.mem_range.mpr (by decide), by decide +kernel⟩
theorem witness_Sweeps_done : launched (updState 1 2 (some 0) (some 0)) = true ∧ sweepOf (updState 1 2 (some 0) (some 0)) 0 = 2 ∧ limbHeld (updState 1 2 (some 0) (some 0)) 0 = false ∧
    sweepDone (updState 1 2 (some 0) (some 0)) 0 = true := by
  refine ⟨by decide +kernel, by decide +kernel, by decide +kernel, ?_⟩
  rw [sweepDone, List.all_eq_true]
  intro k _
  have hw : (updState 1 2 (some 0) (some 0)).work = [] := rfl
  have : segN (updState 1 2 (some 0) (some 0)) 0 k = 0 := by
    have he : engWords (updState 1 2 (some 0) (some 0)) 0 4 (64 * k) 8 = [0, 0, 0, 0, 0, 0, 0, 0] := by simp [engWords, workWord, hw, tget, tfind, List.range_succ]
    rw [segN, he]; decide +kernel
  simp [segProg, this, sgEn, ef, nbits]
theorem witness_CommitsAndBanks : commitOk (updState 1 3 (some 0) (some 0)) 0 = true ∧ commitOk (updState 2 4 (some 0) (some 0)) 65536 = true ∧ commitOk (updState 1 3 (some 0) (some 0)) 1 = false ∧ launched State.reset = false ∧
    launched (updState 1 3 (some 0) (some 0)) = true ∧ outcome (updState 2 4 (some 0) (some 0)) = 2 ∧ ({ updState 1 3 none none with step := { StepSt.reset with obsU := some 0 } } : State).step.cbWritten = false := by decide +kernel

/-- The Plate engine in a phase with a command, the slots that are known given. -/
def pltState (ph cmd : Nat) (known : Tab Nat) : State := { withRegs [(0, 0), (rPltStat, 256 * cmd + ph)] State.reset with plate := { Plate.reset with known := known } }
theorem witness_PlateBegins : pltFree (pltState 1 0 []) = false ∧ pltFree (pltState 0 3 []) = false ∧ (∀ ph ∈ [0, 4], pltFree (pltState ph 0 []) = true ∧ launched (pltState ph 0 []) = false) ∧
    pickSlot (pltState 0 0 []) = some 0 ∧ pickSlot (pltState 0 0 [(0, 5), (1, 6), (2, 7)]) = none ∧ launched (withRegs [(rHostStep, 1)] (pltState 0 0 [])) = true := by decide +kernel
theorem witness_PlateBegins_command : (∃ u, PlateCommand (.verify true 15 1023) 3 15 u) ∧ (∃ u, PlateCommand (.restore false 15 0) 4 15 u) ∧ (∃ u, PlateCommand (.delta 15 0) 5 15 u) ∧ (∃ u, PlateCommand (.plateApply 15) 6 15 u) ∧
    ∃ u, PlateCommand (.mark 15) 7 15 u :=
  ⟨⟨_, .inl ⟨_, _, rfl, rfl, rfl⟩⟩, ⟨_, .inr (.inl ⟨_, _, rfl, rfl, rfl⟩)⟩, ⟨_, .inr (.inr (.inl ⟨_, rfl, rfl, rfl⟩))⟩, ⟨_, .inr (.inr (.inr (.inl ⟨rfl, rfl, rfl⟩)))⟩, ⟨_, .inr (.inr (.inr (.inr ⟨rfl, rfl, rfl⟩)))⟩⟩
theorem witness_PlatePhases : ∀ ph < 5, pltStopped (pltState ph 0 []) = false ∧ pltPhase (pltState ph 0 []) = ph ∧ pltCmd (pltState ph 0 []) = 0 ∧ (pltState ph 0 []).plate.signWait = false ∧ (pltState ph 0 []).plate.fits = false := by
  decide +kernel
/-- A header of one shard in slot 0, whose directory entry names shard 0 in the two granules after it. -/
def shardState : State :=
  { pltState 0 3 [] with mem := [(6, 1), (65536 + 16, 1), (65536 + 24, 2)] }
theorem witness_PlateCommands : pltCmd shardState ≠ 0 ∧ pltPhase shardState = 0 ∧ pltStopped shardState = false ∧ shardState.plate.cmdStatus = 0 ∧
    (match findShard shardState shardState.plate.rsel shardState.plate.slot shardState.plate.shard with
     | some e => inStore (slotBase shardState shardState.plate.rsel shardState.plate.slot + dirField e 24 8) (dirField e 16 8)
     | none => false) = true := by decide +kernel

/-- Field 83 with its domains on at point 2 (740 mV and a trim of 0), L0 to L7 powered and home, the golden digests taken; the dark frame in a phase. -/
def darkState (ph : Nat) : State :=
  { State.reset with
    regs := [(0, 0), (0x4000, 0xFF8000000000), (0xA000, 0x1800000001), (0xA010, wd (256 * ph + 335 * 2 ^ 31)), (0x106000, 0x2AA), (0x206000, 0x2AA), (0x306000, 0x2AA), (0x406000, 0x2AA), (0x506000, 0x2AA),
      (0x606000, 0x2AA), (0x706000, 0x2AA), (0x806000, 0x2AA), (0xB600600, 0x2A021112)]
    boot := { Boot.reset with taken := [(5, (0, 0))] } }
theorem witness_NeighborTest : (83 < 84 ∧ dkfPhase (darkState 0) = 0 ∧ fieldOn3 (darkState 0) 83 = true ∧ ∀ c ∈ coresOf 83, coreSt (darkState 0) c = 0 ∨ coreSt (darkState 0) c = 4 ∨ coreSt (darkState 0) c = 7) ∧
    dkfPhase (darkState 4) = 4 ∧ ∀ f ∈ ({ darkState 4 with dark := { Dark.reset with nbr := [0, 83] } } : State).dark.nbr, f < 84 := by decide +kernel
theorem witness_Slices : (darkState 0).flag 0xA000 0 = true ∧ (darkState 0).fld 0xA000 47 32 ≠ 0 ∧ SliceAsk (.sliceRun 335) 335 (darkState 0) ∧ SliceAsk .runNext 335 (darkState 0) ∧ sliceOk (darkState 0) 335 = true ∧
    sliceLimits (darkState 0) 83 = 0 ∧ sliceOk (darkState 1) 335 = false ∧ sliceOk (darkState 0) 336 = false :=
  have h : (darkState 0).flag 0xA000 0 = true ∧ (darkState 0).fld 0xA000 47 32 ≠ 0 ∧ 335 = nextQ (darkState 0) ∧ sliceOk (darkState 0) 335 = true ∧
    sliceLimits (darkState 0) 83 = 0 ∧ sliceOk (darkState 1) 335 = false ∧ sliceOk (darkState 0) 336 = false := by decide +kernel
  ⟨h.1, h.2.1, .inl rfl, .inr ⟨rfl, h.2.2.1⟩, h.2.2.2⟩
/-- Outside a limit: the field at point 4. -/
theorem witness_Slices_limit : sliceOk (withRegs [(rFldPwr 83, 0x2A041114)] (darkState 0)) 335 = true ∧ sliceLimits (withRegs [(rFldPwr 83, 0x2A041114)] (darkState 0)) 83 ≠ 0 := by decide +kernel
def sliceState (ph : Nat) : State := { darkState ph with dark := { Dark.reset with slice := some 335, held := quadCores 335, tested := quadCores 335 } }
theorem witness_Slices_work : (∀ ph ∈ [1, 2, 3], dkfPhase (sliceState ph) = ph ∧ (sliceState ph).dark.slice = some 335) ∧ (∀ c ∈ (sliceState 2).dark.tested ++ (sliceState 2).dark.held, c < 80640) := by decide +kernel

/-- The core 80639 alone tested; its one result word is its golden word, so its signature is that word; and with an error detected it is another. -/
def testedState : State := { darkState 2 with dark := { Dark.reset with slice := some 335, tested := [80639], held := quadCores 335 } }
theorem witness_Slices_signature : signature (tget ([], false) [(80639, [goldOf testedState (goldMask testedState 80639)], false)] 80639).1 (tget ([], false) [(80639, [goldOf testedState (goldMask testedState 80639)], false)] 80639).2 =
    goldOf testedState (goldMask testedState 80639) := by
  generalize goldOf testedState (goldMask testedState 80639) = w
  simp [tget, tfind, signature, misrStep]
/-- The signature of the words 1 and then 2^63, and of 2^63 and then 0, whose top bit feeds back: worked out from R710 by hand. -/
theorem test_signature : signature [1, 0x8000000000000000] false = 0x8000000000000002 ∧ signature [0x8000000000000000, 0] false = 0x1B ∧ signature [1] true = 0xFFFFFFFFFFFFFFFE := by decide +kernel

/-- A core's STATE reads 0 where its register is not listed. -/
theorem blockOf_coreStat {c : Nat} (h : c < 80640) : ∃ x, blockOf (rCoreStat c) = (.core x, 0x10) := by
  have hf : fieldOf c < 84 := by unfold fieldOf coreY coreX; omega
  have hi : coreIdx c < 960 := by unfold coreIdx coreY coreX; omega
  unfold rCoreStat coreWin fieldBase
  generalize fieldOf c = f at hf
  generalize coreIdx c = i at hi
  refine ⟨coreOfField f i, ?_⟩
  unfold blockOf
  rw [if_neg (by omega), if_neg (by omega), if_pos (by omega)]
  have h1 : (0x1000000 + f * 0x200000 + 0x10000 + i * 0x800 + 0x10 - 0x1000000) / 0x200000 = f := by omega
  have h2 : (0x1000000 + f * 0x200000 + 0x10000 + i * 0x800 + 0x10 - 0x1000000) % 0x200000 = 0x10000 + i * 0x800 + 0x10 := by omega
  simp only [h1, h2]
  rw [if_neg (by omega), if_pos (by omega)]
  have h5 : 0x10000 + i * 0x800 + 0x10 - 0x10000 = 0x10 + 0x800 * i := by rw [Nat.add_assoc, Nat.add_sub_cancel_left, Nat.add_comm, Nat.mul_comm]
  rw [h5, Nat.add_mul_div_left _ _ (by decide), Nat.add_mul_mod_self_left]
  norm_num
theorem coreRow_stat : findRow coreRows 0x10 = some ⟨0x10, 8, 1, [⟨49, 49, .w1c, 0, false⟩, ⟨48, 48, .w1c, 0, false⟩, fRO 47 32, fRO 20 8, fRO 4 4, fRO 3 3, fRO 2 0]⟩ := by decide +kernel
theorem regFields_coreStat {off x : Nat} (hx : blockOf off = (.core x, 0x10)) :
    regFields off = [⟨49, 49, .w1c, 0, false⟩, ⟨48, 48, .w1c, 0, false⟩, fRO 47 32, fRO 20 8, fRO 4 4, fRO 3 3, fRO 2 0] := by
  simp only [regFields, hx, coreRow_stat]
theorem resetValue_coreStat {off x : Nat} (hx : blockOf off = (.core x, 0x10)) : resetValue off = 0 := by
  unfold resetValue
  rw [regFields_coreStat hx, hx]
  split
  · rename_i h; cases h
  · simp only [List.foldl, RField.reset, fRO, Bool.false_eq_true, if_false]
    decide +kernel
theorem coreSt_unlisted {s : State} {c : Nat} (h : c < 80640) (hn : tfind s.regs (rCoreStat c) = none) : coreSt s c = 0 := by
  obtain ⟨x, hx⟩ := blockOf_coreStat h
  have hv := resetValue_coreStat hx
  unfold coreSt State.fld State.rd
  rw [hn, hv]
  decide +kernel
/-- A record of kind 1 for core 80639, the first extension record free, nothing launched. -/
def fuseState : State := withRegs [(0xA020, 2 ^ 29 + 80639 * 2 ^ 12), (0xA400, 0)] State.reset
theorem witness_Fuses_open : launched fuseState = false ∧ dkfPhase fuseState = 0 ∧ fuseState.fld 0xA020 31 29 = 1 ∧ nextRecord fuseState = some 0 := by decide +kernel
theorem witness_Fuses : fuseOk fuseState = true := by
  have h := witness_Fuses_open
  have hc : (List.range 80640).all (fun c => !coreRunning fuseState c && coreSt fuseState c != 6) = true := by
    rw [List.all_eq_true]
    intro c hc
    have hb : 0x1000000 ≤ rCoreStat c := by unfold rCoreStat coreWin fieldBase; omega
    have : coreSt fuseState c = 0 := coreSt_unlisted (List.mem_range.mp hc) (by
      show tfind [(0xA020, _), (0xA400, _), (0x106000, _)] _ = none
      simp only [tfind]
      rw [if_neg (by omega), if_neg (by omega), if_neg (by omega)])
    simp [coreRunning, this]
  unfold fuseOk
  rw [h.1, h.2.1, h.2.2.1, h.2.2.2, hc]; rfl
theorem witness_Fuses_done : ({ fuseState with dark := { Dark.reset with fuse := some 0x20000000 } } : State).dark.fuse = some 0x20000000 ∧ nextRecord fuseState = some 0 := ⟨rfl, witness_Fuses_open.2.2.2⟩

/-- An open record of field 83 with SLACK 100 µs: 145,... a stall of 6,875 ticks is 100 µs exactly, one more is beyond it. -/
def chrState (late : Bool) (sat : Option Nat) : State := { withRegs [(rChrSlack 83, 100)] State.reset with chr := [(83, { Chr.reset with isOpen := true, late := late, satWord := sat })] }
theorem witness_ChronographMarks : ((chrState false none).chrOf 83).isOpen = true ∧ ((chrState false none).chrOf 83).late = false ∧ (chrState false none).fld (rChrSlack 83) 15 0 ≠ 0xFFFF ∧
    (chrState false none).fld (rChrSlack 83) 15 0 * 11000 < 6876 * 160 ∧ 6875 * 160 ≤ (chrState false none).fld (rChrSlack 83) 15 0 * 11000 ∧ ((chrState false none).chrOf 83).satWord = none ∧
    ((chrState true (some 3)).chrOf 83).late = true ∧ ((chrState true (some 3)).chrOf 83).satWord ≠ none := by decide +kernel

/-! ### Claims about launch rings, BAR0, BAR2 and boot -/

theorem witness_RingCommand : RingCommand (.lrNop 0) 0 0 ∧ RingCommand (.launch 63) 63 1 ∧ RingCommand (.abandon 5) 5 2 ∧ RingCommand (.lrArm 1) 1 3 ∧ RingCommand (.lrPlan 2) 2 4 ∧
    RingCommand (.load 3 (some [1])) 3 5 ∧ RingCommand (.load 3 none) 3 5 ∧ RingCommand (.fstart 4) 4 6 ∧ RingCommand (.quiesce 6) 6 7 ∧ RingCommand (.lrWrite 7) 7 8 := by
  simp [RingCommand]

/-- Ring 63 of 64 entries enabled with PROD and CONS, the host up after boot. -/
def lrState (prod cons : Nat) (s : State) : State :=
  let t := withRegs [(0, 0), (0xF000, 5), (rLrCtl 63, 2 ^ 63), (rLrStat 63, prod * 2 ^ 32 + cons), (rLrErr 63, 0)] s
  { t with host := { t.host with linkUp := true } }
theorem witness_LaunchRings : hostUp (lrState 0 0 State.reset) = true ∧ domeState (lrState 0 0 State.reset) ≠ 3 ∧ writable (lrState 0 0 State.reset) (rLrCtl 0) = true ∧
    (lrState 0 0 State.reset).flag (rLrCtl 0) 63 = false ∧ lrRuns (lrState 0 0 State.reset) 0 = false ∧ lrProd (lrState 0 0 State.reset) 63 = lrCons (lrState 0 0 State.reset) 63 ∧
    (∀ p ∈ [(1, 0), (64, 0), (65, 0), (0, 2 ^ 32 - 64), (0, 2 ^ 32 - 65)], lrRuns (lrState p.1 p.2 State.reset) 63 = true ∧ lrProd (lrState p.1 p.2 State.reset) 63 ≠ lrCons (lrState p.1 p.2 State.reset) 63 ∧
      tfind (lrState p.1 p.2 State.reset).host.cmds 63 = none) ∧
    (∀ p ∈ [(1, 0), (64, 0), (0, 2 ^ 32 - 64)], (lrProd (lrState p.1 p.2 State.reset) 63 + 2 ^ 32 - lrCons (lrState p.1 p.2 State.reset) 63) % 2 ^ 32 ≤ lrEntries (lrState p.1 p.2 State.reset) 63) ∧
    (∀ p ∈ [(65, 0), (0, 2 ^ 32 - 65)], lrEntries (lrState p.1 p.2 State.reset) 63 < (lrProd (lrState p.1 p.2 State.reset) 63 + 2 ^ 32 - lrCons (lrState p.1 p.2 State.reset) 63) % 2 ^ 32) := by decide +kernel
theorem witness_LaunchRings_not : hostUp State.reset = false ∧ domeState (withRegs [(rDomeStat, 3)] State.reset) = 3 := by decide +kernel

/-- A command in ring 63, its OP and word 1. -/
def cmdState (op w1 : Nat) (s : State) : State :=
  let t := lrState 1 0 s
  { t with host := { t.host with cmds := [(63, ⟨[wd (op * 2 ^ 56), wd w1, 0, 0, 0, 0, 0, 0], 0, 0⟩)] } }
theorem witness_RingCommands : (∀ op ∈ [0, 1, 2, 3, 4, 5, 6, 7, 8], (lrReady (cmdState op 0 State.reset) 63 op).isSome = true) ∧ lrReady (cmdState 0 0 State.reset) 63 1 = none ∧ lrReady State.reset 0 0 = none := by decide +kernel

/-- LAUNCH of step 7 at a service level, with the plate engine in a phase. -/
def launchState (step level phase : Nat) : State := withRegs [(rStepCnt, 7), (rModSvc, level), (rPltStat, phase), (rModFault, 0)] (cmdState 1 step State.reset)
theorem witness_Launches : stepCnt (launchState 7 2 0) = 7 ∧ (∀ ph ∈ [0, 1], (lrReady (launchState 7 2 ph) 63 1).map (fun k => launchStatus (lrW k 1) (launchState 7 2 ph)) = some 0 ∧ pltPhase (launchState 7 2 ph) = ph) ∧
    (lrReady (launchState 6 2 0) 63 1).map (fun k => launchStatus (lrW k 1) (launchState 6 2 0)) = some 2 ∧ (lrReady (launchState 7 1 0) 63 1).map (fun k => launchStatus (lrW k 1) (launchState 7 1 0)) = some 4 := by decide +kernel
/-- Field 83 on, its Finder table as checked, or powered down. -/
def startState (p : Nat) : State := withRegs [(rFldPwr 83, p), (rFndChk 83, 0)] State.reset
theorem witness_Launches_start : startOk (startState 0x2A001111) 83 = true ∧ startOk (startState 0) 83 = false := by decide +kernel
theorem witness_Launches_mapped : hasMapped (withRegs [(rCoreId 80639, 2 ^ 35)] State.reset) 83 = true := by decide +kernel

theorem witness_AccessCodes : (∃ f ∈ regFields 0x4000, f.acc = .rw) ∧ (∃ f ∈ regFields 0x910, f.acc = .rws) ∧ (∃ f ∈ regFields 0, f.acc = .ro) ∧ (∃ f ∈ regFields 0x818, f.acc = .rc) ∧
    (∃ f ∈ regFields 0xF008, f.acc = .wo) ∧ (∃ f ∈ regFields 0x4000, f.acc = .w1c) ∧ (∃ f ∈ regFields 0x4000, f.acc = .w1s) ∧ (∀ g ∈ regFields 0x4000, g.acc = .wo ∨ 48 < g.lo ∨ g.hi < 48) := by decide +kernel

/-- The host up or in D3hot, the boot ended, limb 0's logic ON or OFF. -/
def hostState (d3 on : Bool) : State :=
  let t := withRegs [(0, 0), (0xF000, 5), (rDomeStat, 2), (0x880, 2 ^ 63 + 0x1000 * 2 ^ 32), (0x888, 0), (limbBase 0 + 0x6000, if on then 2 else 0)] State.reset
  { t with host := { t.host with linkUp := true, d3hot := d3 } }
theorem witness_RegisterAccess : State.reset.host.linkUp = false ∧ (hostState true true).host.linkUp = true ∧ (hostState true true).host.d3hot = true ∧ hostUp (hostState false true) = true ∧
    (writable (hostState false true) 0x4000 = true ∧ roWindow 0x4000 = false ∧ decodes (hostState false true) 0x4000 = true ∧ 0x4000 % 8 = 0 ∧ 0x4004 % 4 = 0) ∧
    (writable (hostState false true) (limbBase 0 + 0x8A000) = true ∧ roWindow (limbBase 0 + 0x8A000) = true) ∧
    (writable (hostState false false) 0x4000 = false ∧ decodes (hostState false false) 0x4000 = false) := by decide +kernel

/-- The page entry 0 of the BAR2 window at a page of module space. -/
def pageState (page dome stage : Nat) : State := withRegs [(0x880, 2 ^ 63 + page * 2 ^ 32), (rDomeStat, dome), (0xF000, stage)] (hostState false true)
theorem witness_WindowAccess : (hostUp (hostState false true) = true ∧ 5 ≤ bootStage (hostState false true)) ∧ bootStage (pageState 0 2 4) < 5 ∧ (hostState false true).flag (0x880 + 8 * (2 ^ 32 / 2 ^ 32)) 63 = false ∧
    (∀ p ∈ [0xFFF, 0x1000, 0x1001, 0x2000, 0x3000], (pageState p 2 5).flag 0x880 63 = true ∧ (pageState p 2 5).fld 0x880 47 32 = p ∧ domeState (pageState p 2 5) ≠ 3) ∧ domeState (pageState 0x1000 3 5) = 3 ∧
    placeOf (0xFFF * 2 ^ 32 + (2 ^ 32 - 1)) = .store (2 ^ 44 - 1) ∧ placeOf (0x1000 * 2 ^ 32) = .fs 0 0 ∧ placeOf (0x1000 * 2 ^ 32 + 0xA7FFFFFF) = .fs 83 (2 ^ 25 - 1) ∧
    placeOf (0x1000 * 2 ^ 32 + 0xA8000000) = .reserved ∧ placeOf (0x1001 * 2 ^ 32) = .core 0 0 ∧ placeOf (0x100F * 2 ^ 32 + 0xC4000000 - 1) = .core 80639 0xBFFFF ∧ placeOf (0x2000 * 2 ^ 32) = .host 0x200000000000 ∧
    placeOf (0x100F * 2 ^ 32 + 0xC4000000) = .reserved := by decide +kernel
theorem witness_WindowAccess_store : homeLimb (withRegs [(rModHome, 0xFF * 2 ^ 40)] (pageState 0 2 5)) 0 ≠ none ∧ (writeBytes false 8 [1, 2] (withRegs [(rModHome, 0xFF * 2 ^ 40)] (pageState 0 2 5))).1 = true ∧
    homeLimb (withRegs [(rModHome, 0)] (pageState 0 2 5)) 0 = none := by decide +kernel
def timeoutState : State := { hostState false true with reqs := [(128, ⟨0, 8, false, 0, 8, [], 0, 0⟩)] }
theorem witness_WindowAccess_timeout : timeoutState.reqs = [(128, ⟨0, 8, false, 0, 8, [], 0, 0⟩)] ∧ State.reset.reqs = [] := ⟨rfl, rfl⟩
theorem witness_WindowAccess_msix : hostUp { hostState false true with host := { (hostState false true).host with pba := [5] } } = true ∧ (0x7FFC % 4 = 0 ∧ 0x7FFC < 0x8000 ∧ 16 * 5 + 12 = 92) := by decide +kernel

/-- A boot stage; the Dome's state; tables taken. -/
def stageState (stage dome : Nat) (taken : Tab (Nat × Nat)) (tried : List Nat) : State :=
  let t := withRegs [(0, 0), (0xF000, stage), (rDomeStat, dome)] State.reset
  { t with boot := { t.boot with taken := taken, tried := tried } }
theorem witness_BootStages : (∀ n ∈ [0, 1, 2, 3, 4, 5], bootStage (stageState n 0 [] []) = n) ∧ (∀ k ∈ [1, 2, 3], k ∈ (stageState 2 0 [] [1, 2, 3]).boot.tried) ∧
    (∃ k ∈ [1, 2, 3], k ∉ (stageState 2 0 [] []).boot.tried) ∧ domeState (stageState 4 1 [] []) ≠ 2 ∧ domeState (stageState 4 2 [] []) = 2 ∧ domeState (stageState 4 2 [] []) ≠ 1 ∧
    (domeState (stageState 4 1 [] []) = 1 ∧ 4 ≤ bootStage (stageState 4 1 [] []) ∧ (∀ j ∈ (stageState 4 1 [] []).pwr.jobs, j.chain = false)) ∧
    tookKind (stageState 4 1 [(0, (0, 1))] []) 0 = true ∧ tookKind (stageState 4 1 [] []) 0 = false := by decide +kernel

theorem witness_BootCommand : BootCommand .extend 1 ∧ BootCommand .quote 2 ∧ BootCommand .getcert 3 ∧ BootCommand .bootChal 4 ∧ BootCommand .unlock 5 ∧ BootCommand .relock 6 ∧ BootCommand .flash 7 ∧
    BootCommand .select 8 ∧ BootCommand .rollfwd 9 := by simp [BootCommand]
/-- A boot command in progress with its ARG, the log's entries, UNLOCK_FAILS; FLOOR 3, one object of SVN svn taken. -/
def bootState (cmd logn fails : Nat) (arg arg2 : Word) (svn : Nat) : State :=
  let t := withRegs [(0, 0), (0xF000, fails * 2 ^ 56 + logn * 2 ^ 26 + cmd * 2 ^ 8 + 8 + 5), (0xF020, 3), (0xF028, 9), (rHostStep, 0)] State.reset
  { t with boot := { t.boot with arg := arg, arg2 := arg2, taken := [(0, (0, svn))], pref := some false, nonce := true } }
theorem witness_BootCommandBegins : bootBusy (bootState 2 0 0 0 0 4) = true ∧ bootBusy (stageState 5 2 [] []) = false ∧ plateSigns (stageState 5 2 [] []) = false ∧
    plateSigns (withRegs [(rPltStat, 4), (rPltCfg, 4)] State.reset) = true := by decide +kernel
theorem witness_BootCommandEnds : (bootBusy (stageState 5 2 [] []) = false) ∧ (∀ cmd ∈ [1, 2, 3, 4, 5, 6, 7, 8, 9], bootBusy (bootState cmd 31 15 0 0 4) = true ∧ (bootState cmd 31 15 0 0 4).boot.quoteWait = false ∧
      (bootState cmd 31 15 0 0 4).fld rBoot 11 8 = cmd) ∧
    (logN (bootState 1 31 0 7 0 4) < 32 ∧ 32 ≤ logN (bootState 1 32 0 7 0 4) ∧ bits (bootState 1 31 0 7 0 4).boot.arg 2 0 = 7 ∧ bits (bootState 1 31 0 5 0 4).boot.arg 2 0 = 5) ∧
    (bits (bootState 3 0 0 3 0 4).boot.arg 1 0 = 3 ∧ bits (bootState 3 0 0 2 0 4).boot.arg 1 0 ≠ 3) ∧
    (unlockBarred (bootState 4 0 16 0 0 4) = true ∧ unlockBarred (bootState 4 0 15 0 0 4) = false ∧ tokenOk (bootState 5 0 15 0 0 4) ((bootState 5 0 15 0 0 4).boot.data.take 144) = false) ∧
    (bits (bootState 7 0 0 0 0 4).boot.arg2 63 63 = prefBank (bootState 7 0 0 0 0 4) ∧ bits (bootState 7 0 0 (2 ^ 44 - 1) (2 ^ 63 + 1) 4).boot.arg2 63 63 ≠ prefBank (bootState 7 0 0 (2 ^ 44 - 1) (2 ^ 63 + 1) 4) ∧
      (bootState 7 0 0 (2 ^ 44 - 1) (2 ^ 63 + 1) 4).boot.arg.toNat + bits (bootState 7 0 0 (2 ^ 44 - 1) (2 ^ 63 + 1) 4).boot.arg2 25 0 ≤ 2 ^ 44) := by decide +kernel
theorem witness_BootCommandEnds_floor : (bits (bootState 9 0 0 64 0 64).boot.arg 6 0 ≤ 64 ∧ floorOf (bootState 9 0 0 64 0 64) < bits (bootState 9 0 0 64 0 64).boot.arg 6 0 ∧
      (∀ p ∈ (bootState 9 0 0 64 0 64).boot.taken, bits (bootState 9 0 0 64 0 64).boot.arg 6 0 ≤ p.2.2) ∧ launched (bootState 9 0 0 64 0 64) = false) ∧
    64 < bits (bootState 9 0 0 65 0 64).boot.arg 6 0 ∧ bits (bootState 9 0 0 3 0 64).boot.arg 6 0 ≤ floorOf (bootState 9 0 0 3 0 64) ∧
    (∃ p ∈ (bootState 9 0 0 64 0 63).boot.taken, p.2.2 < bits (bootState 9 0 0 64 0 63).boot.arg 6 0) := by decide +kernel

/-- A token with the magic, version 1, limb 0, SCOPE 3, key 4, SERIAL 9 and an all-zero nonce and signature. -/
def token : List Byte := leBytes 4 0x4B545A44 ++ [1, 0, 3, 4] ++ leBytes 8 9 ++ List.replicate 128 0
/-- The token is accepted where the signature check, which is not the model's, accepts it. -/
theorem witness_BootCommandEnds_token (h : Config.ecdsaOk 4 (sha384 (token.take 48)) ((token.drop 48).take 96) = true) :
    token.length = 144 ∧ tokenOk (withRegs [(0xF040, 0), (0xF048, 0), (0xF050, 0), (0xF058, 0)] (bootState 5 0 15 0 0 4)) token = true := by
  refine ⟨by decide +kernel, ?_⟩
  have hk : hfield token 7 7 = 4 := by decide +kernel
  simp only [tokenOk, hk, h]
  decide +kernel

/-- The TAP powered, unlocked or not with its SCOPE, a scan in progress or not. -/
def tapState (dbg scope : Nat) (busy : Bool) : State :=
  let t := withRegs [(0, 0), (0xF000, dbg * 2 ^ 21 + scope * 2 ^ 24 + 5), (0xF020, 0)] State.reset
  { t with xp := { Xport.reset with busy := busy } }
theorem witness_DebugPort : tapOn (withRegs [(limbBase 0 + 0x6000, 0)] (tapState 1 3 false)) = false ∧ (∀ b ∈ [true, false], tapOn (tapState 1 3 b) = true ∧ (tapState 1 3 b).xp.busy = b) ∧ (tapState 0 3 false).flag rBoot 21 = false ∧
    ((tapState 1 3 false).flag rBoot 21 = true ∧ (tapState 1 3 false).flag rBoot 25 = true ∧ (tapState 1 0 false).fld rBoot 25 24 &&& 3 = 0 ∧ (tapState 1 1 false).fld rBoot 25 24 &&& 2 = 0 ∧ (tapState 1 2 false).fld rBoot 25 24 &&& 1 = 0) ∧
    unlockBarred (tapState 0 0 false) = false ∧ tokenOk (tapState 0 0 false) (List.replicate 144 0) = false ∧ (64 % 64 = 0 ∧ placeOf 64 = .store 64 ∧ storePoison (tapState 1 2 false) 64 64 = false) := by decide +kernel
theorem witness_DebugPort_home : homeLimb (withRegs [(rModHome, 2 ^ 40)] (tapState 1 2 false)) 0 ≠ none := by decide +kernel
theorem witness_DebugPort_scans : Scan (.xportRead 0 0 8) 1 0 0 8 2 (xpRead 0 8) ∧ Scan (.xportStatus 7 0) 6 7 0 0 3 (xpCore 0 (fun c t => xpDone 0 (leBytes 8 (t.rd (rCoreStat c)).toNat) t)) :=
  ⟨.inl ⟨rfl, rfl, rfl, rfl⟩, .inr (.inr (.inr (.inr (.inr ⟨rfl, rfl, rfl, rfl, rfl⟩))))⟩
end Sys2Proof.Tests
end

section
/-! Fields of a register: what setting some of its fields leaves in each of its bits, for the folds by which the model reads, writes and resets registers (R17, R18). -/

namespace Sys2Proof.Machine

/-- A register with each field f that `p` picks set to `n f`: the shape of every fold over a register's fields. -/
def setFields (p : RField → Bool) (n : RField → Nat) (fs : List RField) (w : Word) : Word :=
  fs.foldl (fun v f => if p f then setBits v f.hi f.lo (n f) else v) w

/-- The fields of a register lie in its 64 bits and share none of them. -/
def FieldsWf (fs : List RField) : Prop := (∀ f ∈ fs, f.lo ≤ f.hi ∧ f.hi < 64) ∧ fs.Pairwise (fun f g => f.hi < g.lo ∨ g.hi < f.lo)

/-- Two words whose bits from lo to hi agree read the same there. -/
theorem bits_congr {v w : Word} {hi lo : Nat} (h : ∀ i, lo ≤ i → i ≤ hi → bit v i = bit w i) : bits v hi lo = bits w hi lo := by
  apply Nat.eq_of_testBit_eq
  intro j
  rw [bits, bits, testBit_nbits, testBit_nbits]
  by_cases hj : j < hi + 1 - lo
  · have := h (lo + j) (by omega) (by omega)
    simpa [bit, hj] using this
  · simp [hj]

/-- Bit i of a word is bit i - lo of a field that holds it. -/
theorem bit_eq_testBit_bits (w : Word) {hi lo i : Nat} (hl : lo ≤ i) (hh : i ≤ hi) : bit w i = (bits w hi lo).testBit (i - lo) := by
  rw [bits, testBit_nbits, bit]
  simp [show i - lo < hi + 1 - lo by omega, show lo + (i - lo) = i by omega]

/-- A bit that no set field holds is as before. -/
theorem bit_setFields_out {p : RField → Bool} (n : RField → Nat) {fs : List RField} {i : Nat} (hw : ∀ f ∈ fs, f.lo ≤ f.hi ∧ f.hi < 64)
    (hp : ∀ f ∈ fs, p f = true → i < f.lo ∨ f.hi < i) (w : Word) : bit (setFields p n fs w) i = bit w i := by
  induction fs generalizing w with
  | nil => rfl
  | cons f r ih =>
    have hr := ih (fun g hg => hw g (List.mem_cons_of_mem _ hg)) (fun g hg => hp g (List.mem_cons_of_mem _ hg))
    obtain ⟨hl, h64⟩ := hw f List.mem_cons_self
    by_cases hf : p f = true
    · exact ((congrArg (fun v => bit (setFields p n r v) i) (if_pos hf)).trans (hr _)).trans (bit_setBits_ne w _ _ _ i hl h64 (hp f List.mem_cons_self hf))
    · exact (congrArg (fun v => bit (setFields p n r v) i) (if_neg hf)).trans (hr w)

/-- A bit of a set field is the bit of its new value. -/
theorem bit_setFields_mem {p : RField → Bool} (n : RField → Nat) {fs : List RField} {f : RField} {i : Nat} (hw : FieldsWf fs) (hf : f ∈ fs) (hp : p f = true)
    (hl : f.lo ≤ i) (hh : i ≤ f.hi) (w : Word) : bit (setFields p n fs w) i = (n f).testBit (i - f.lo) := by
  induction fs generalizing w with
  | nil => cases hf
  | cons g r ih =>
    obtain ⟨hb, ha⟩ := hw
    obtain ⟨hg, hr⟩ := List.pairwise_cons.1 ha
    have hb' : ∀ f ∈ r, f.lo ≤ f.hi ∧ f.hi < 64 := fun x hx => hb x (List.mem_cons_of_mem _ hx)
    rcases List.mem_cons.1 hf with rfl | hmem
    · have hout : ∀ x ∈ r, p x = true → i < x.lo ∨ x.hi < i := fun x hx _ => (hg x hx).imp (fun h => by omega) (fun h => by omega)
      have hstep : setFields p n (f :: r) w = setFields p n r (setBits w f.hi f.lo (n f)) := congrArg (setFields p n r) (if_pos hp)
      rw [hstep, bit_setFields_out n hb' hout, bit_setBits_mem _ _ _ _ _ (hb f List.mem_cons_self).2 hl hh]
    · exact ih ⟨hb', hr⟩ hmem _

/-- A set field reads as its new value, cut to its width. -/
theorem bits_setFields_mem {p : RField → Bool} (n : RField → Nat) {fs : List RField} {f : RField} (hw : FieldsWf fs) (hf : f ∈ fs) (hp : p f = true) (w : Word) :
    bits (setFields p n fs w) f.hi f.lo = n f % 2 ^ (f.hi + 1 - f.lo) := by
  obtain ⟨hl, h64⟩ := hw.1 f hf
  rw [← bits_setBits_self w f.hi f.lo (n f) hl h64]
  refine bits_congr (fun i hi hi' => ?_)
  rw [bit_setFields_mem n hw hf hp hi hi', bit_setBits_mem _ _ _ _ _ h64 hi hi']

/-- The bits of a field that is not set are as before. -/
theorem bit_setFields_other {p : RField → Bool} (n : RField → Nat) {fs : List RField} {f : RField} {i : Nat} (hw : FieldsWf fs) (hf : f ∈ fs) (hp : p f = false)
    (hl : f.lo ≤ i) (hh : i ≤ f.hi) (w : Word) : bit (setFields p n fs w) i = bit w i := by
  refine bit_setFields_out n hw.1 (fun g hg hpg => ?_) w
  have hne : f ≠ g := fun e => by rw [e, hpg] at hp; cases hp
  have hsymm : Std.Symm (fun f g : RField => f.hi < g.lo ∨ g.hi < f.lo) := ⟨fun _ _ h => h.symm⟩
  rcases hw.2.forall hf hg hne with h | h <;> omega

/-- A field that is not set reads as before. -/
theorem bits_setFields_other {p : RField → Bool} (n : RField → Nat) {fs : List RField} {f : RField} (hw : FieldsWf fs) (hf : f ∈ fs) (hp : p f = false) (w : Word) :
    bits (setFields p n fs w) f.hi f.lo = bits w f.hi f.lo :=
  bits_congr (fun _ hl hh => bit_setFields_other n hw hf hp hl hh w)

/-- Where no field is set, the register is as before. -/
theorem setFields_of_none {p : RField → Bool} (n : RField → Nat) {fs : List RField} (h : ∀ f ∈ fs, p f = false) (w : Word) : setFields p n fs w = w := by
  induction fs generalizing w with
  | nil => rfl
  | cons f r ih =>
    have hstep : setFields p n (f :: r) w = setFields p n r w := congrArg (setFields p n r) (if_neg (by simp [h f List.mem_cons_self]))
    exact hstep.trans (ih (fun g hg => h g (List.mem_cons_of_mem _ hg)) w)

/-! ### The register map -/

theorem mem_of_findRow {rs : List RegRow} {o : Nat} {r : RegRow} (h : findRow rs o = some r) : r ∈ rs := by
  induction rs with
  | nil => cases h
  | cons q rs ih =>
    simp only [findRow] at h
    split at h
    · exact Option.some.inj h ▸ List.mem_cons_self
    · exact List.mem_cons_of_mem _ (ih h)

/-- The rows of the kind of block that holds an offset. -/
def rowsOf : Block → Nat → List RegRow
  | .modG, o => modRows o
  | .limb _, _ => limbRows
  | .field _, _ => fieldRows
  | .core _, _ => coreRows
  | .reserved, _ => []

/-- The fields of the register at an offset in a block. -/
def fieldsAt (b : Block) (o : Nat) : List RField := ((findRow (rowsOf b o) o).map (·.fields)).getD []

theorem blockOf_modG {off : Nat} (h : off < 0x100000) : blockOf off = (.modG, off) := by simp [blockOf, h]

/-- The module global block is the first MiB, where an offset in the block is the BAR0 offset. -/
theorem lt_of_blockOf_modG {off o : Nat} (h : blockOf off = (.modG, o)) : off = o := by
  unfold blockOf at h
  split at h
  · exact congrArg Prod.snd h
  · split at h
    · cases h
    · split at h
      · dsimp only at h
        split at h
        · cases h
        · split at h <;> cases h
      · cases h

theorem regFields_of_blockOf {off : Nat} {b : Block} {o : Nat} (h : blockOf off = (b, o)) : regFields off = fieldsAt b o := by
  unfold regFields fieldsAt
  rw [h]
  cases b with
  | modG =>
    obtain rfl := lt_of_blockOf_modG h
    simp only [rowsOf]
    cases findRow (modRows off) off <;> rfl
  | limb l => simp only [rowsOf]; cases findRow limbRows o <;> rfl
  | field f => simp only [rowsOf]; cases findRow fieldRows o <;> rfl
  | core c => simp only [rowsOf]; cases findRow coreRows o <;> rfl
  | reserved => rfl

/-- Every row of the register map. -/
def allRows : List RegRow := modRows0 ++ modRows1 ++ modRows2 ++ modRows3 ++ modRows4 ++ limbRows ++ fieldRows ++ coreRows

theorem allRows_fieldsWf : ∀ r ∈ allRows, FieldsWf r.fields := by
  unfold FieldsWf
  decide +kernel

theorem mem_allRows {b : Block} {o : Nat} {r : RegRow} (h : r ∈ rowsOf b o) : r ∈ allRows := by
  unfold allRows
  cases b with
  | modG =>
    simp only [rowsOf, modRows] at h
    split_ifs at h <;> simp [h]
  | reserved => cases h
  | limb l => simp [show r ∈ limbRows from h]
  | field f => simp [show r ∈ fieldRows from h]
  | core c => simp [show r ∈ coreRows from h]

/-- The fields of every register lie apart in its 64 bits. -/
theorem regFields_wf (off : Nat) : FieldsWf (regFields off) := by
  rw [regFields_of_blockOf (b := (blockOf off).1) (o := (blockOf off).2) rfl, fieldsAt]
  cases h : findRow (rowsOf (blockOf off).1 (blockOf off).2) (blockOf off).2 with
  | none => exact ⟨by simp, List.Pairwise.nil⟩
  | some r => exact allRows_fieldsWf r (mem_allRows (mem_of_findRow h))

end Sys2Proof.Machine
end

section
/-! Access codes: what a software write and a software read make of the fields of a register (R17, R18, R20). -/

namespace Sys2Proof.Machine

/-- A software write sets a field of this access code. -/
def Acc17.takesWrite : Acc17 → Bool
  | .ro | .rc | .wo => false
  | _ => true

/-- What a field that takes a write of `new` holds after it. -/
def RField.written (old new : Word) (f : RField) : Nat :=
  match f.acc with
  | .w1c => bits old f.hi f.lo &&& (bits new f.hi f.lo ^^^ (2 ^ (f.hi + 1 - f.lo) - 1))
  | .w1s => bits old f.hi f.lo ||| bits new f.hi f.lo
  | _ => bits new f.hi f.lo

theorem writeValue_eq_setFields (off : Nat) (old new : Word) :
    writeValue off old new = setFields (fun f => f.acc.takesWrite) (RField.written old new) (regFields off) old := by
  refine congrArg (fun g => (regFields off).foldl g old) (funext fun w => funext fun f => ?_)
  obtain ⟨hi, lo, acc, rst, fuse⟩ := f
  cases acc <;> rfl

theorem readValue_eq_setFields (s : State) (off : Nat) :
    readValue s off = setFields (fun f => f.acc != .wo) (fun f => bits (s.rd off) f.hi f.lo) (regFields off) 0 := by
  refine congrArg (fun g => (regFields off).foldl g 0) (funext fun w => funext fun f => ?_)
  by_cases h : f.acc = .wo <;> simp [h]

/-- The word of which a read of bits [hi:lo] has cleared the RC fields. -/
theorem clearFold_eq_setFields (off hi lo : Nat) (fs : List RField) (w : Word) :
    fs.foldl (fun w f => if f.lo ≤ hi ∧ lo ≤ f.hi then f.afterRead off w else w) w =
      setFields (fun f => f.acc == .rc && f.lo ≤ hi && lo ≤ f.hi) (fun f => f.reset off) fs w := by
  refine congrArg (fun g => fs.foldl g w) (funext fun v => funext fun f => ?_)
  unfold RField.afterRead
  by_cases h : f.acc = .rc <;> by_cases h1 : f.lo ≤ hi <;> by_cases h2 : lo ≤ f.hi <;> simp [h, h1, h2]

section
variable {off : Nat} {f : RField} (s : State)

theorem rd_plainWrite (hf : f ∈ regFields off) (v : Word) : (plainWrite s off v).rd off = writeValue off (s.rd off) v := by
  have hne : (regFields off).isEmpty = false := List.isEmpty_eq_false_iff.2 (List.ne_nil_of_mem hf)
  simp [plainWrite, hne]

theorem rd_plainWrite_ne {o : Nat} (v : Word) (h : o ≠ off) : (plainWrite s off v).rd o = s.rd o := by
  unfold plainWrite
  split
  · rfl
  · exact State.rd_wr_ne s _ h.symm

/-- RW and RWS fields take what is written (R17). -/
theorem fld_plainWrite_of_rw (hf : f ∈ regFields off) (v : Word) (ha : f.acc = .rw ∨ f.acc = .rws) : (plainWrite s off v).fld off f.hi f.lo = bits v f.hi f.lo := by
  have hp : f.acc.takesWrite = true := by rcases ha with h | h <;> rw [h] <;> rfl
  have hn : RField.written (s.rd off) v f = bits v f.hi f.lo := by rcases ha with h | h <;> simp [RField.written, h]
  rw [State.fld, rd_plainWrite s hf, writeValue_eq_setFields, bits_setFields_mem _ (regFields_wf off) hf hp, hn]
  exact Nat.mod_eq_of_lt (nbits_lt _ _ _)

/-- RO, RC and WO fields keep what they hold (R17). -/
theorem fld_plainWrite_of_ro (hf : f ∈ regFields off) (v : Word) (ha : f.acc = .ro ∨ f.acc = .rc ∨ f.acc = .wo) : (plainWrite s off v).fld off f.hi f.lo = s.fld off f.hi f.lo := by
  have hp : f.acc.takesWrite = false := by rcases ha with h | h | h <;> rw [h] <;> rfl
  rw [State.fld, rd_plainWrite s hf, writeValue_eq_setFields, bits_setFields_other _ (regFields_wf off) hf hp, State.fld]

/-- A bit of a field that takes writes is the bit of what the field holds after it. -/
theorem flag_plainWrite (hf : f ∈ regFields off) (v : Word) (hp : f.acc.takesWrite = true) {i : Nat} (hl : f.lo ≤ i) (hh : i ≤ f.hi) :
    (plainWrite s off v).flag off i = (RField.written (s.rd off) v f).testBit (i - f.lo) := by
  rw [State.flag, rd_plainWrite s hf, writeValue_eq_setFields, bit_setFields_mem _ (regFields_wf off) hf hp hl hh]

/-- A 1 clears a bit of a W1C field (R17). -/
theorem flag_plainWrite_of_w1c (hf : f ∈ regFields off) (v : Word) (ha : f.acc = .w1c) {i : Nat} (hl : f.lo ≤ i) (hh : i ≤ f.hi) :
    (plainWrite s off v).flag off i = (s.flag off i && !bit v i) := by
  rw [flag_plainWrite s hf v (by rw [ha]; rfl) hl hh, State.flag, bit_eq_testBit_bits (s.rd off) hl hh, bit_eq_testBit_bits v hl hh]
  simp [RField.written, ha, Nat.testBit_two_pow_sub_one, show i - f.lo < f.hi + 1 - f.lo by omega]

/-- A 1 sets a bit of a W1S field (R17). -/
theorem flag_plainWrite_of_w1s (hf : f ∈ regFields off) (v : Word) (ha : f.acc = .w1s) {i : Nat} (hl : f.lo ≤ i) (hh : i ≤ f.hi) :
    (plainWrite s off v).flag off i = (s.flag off i || bit v i) := by
  rw [flag_plainWrite s hf v (by rw [ha]; rfl) hl hh, State.flag, bit_eq_testBit_bits (s.rd off) hl hh, bit_eq_testBit_bits v hl hh]
  simp [RField.written, ha]

/-- A read returns every field but WO ones (R17). -/
theorem bits_readValue (hf : f ∈ regFields off) (ha : f.acc ≠ .wo) : bits (readValue s off) f.hi f.lo = s.fld off f.hi f.lo := by
  rw [readValue_eq_setFields, bits_setFields_mem _ (regFields_wf off) hf (by simpa using ha)]
  exact Nat.mod_eq_of_lt (nbits_lt _ _ _)

/-- Bits of no field, and of WO fields, read 0 (R17, R18). -/
theorem bit_readValue_out {i : Nat} (h : ∀ g ∈ regFields off, g.acc = .wo ∨ i < g.lo ∨ g.hi < i) : bit (readValue s off) i = false := by
  rw [readValue_eq_setFields, bit_setFields_out _ (regFields_wf off).1 (fun g hg hp => (h g hg).resolve_left (by simpa using hp))]
  simp [bit]

/-- What a register holds after a read of all its bits: in RC fields their reset values (R17, R20). -/
theorem rd_readClear_all : (readClear off 63 0 s).rd off = setFields (fun f => f.acc == .rc && f.lo ≤ 63 && 0 ≤ f.hi) (fun f => f.reset off) (regFields off) (s.rd off) := by
  unfold readClear
  split
  case isTrue => rw [State.rd_wr_self, clearFold_eq_setFields]
  case isFalse h =>
    refine (setFields_of_none _ (fun g hg => ?_) _).symm
    by_contra hc
    exact h (List.any_eq_true.2 ⟨g, hg, by simpa using hc⟩)

/-- A field that clears on read holds its reset value after it (R17, R20). -/
theorem fld_readClear_of_rc (hf : f ∈ regFields off) (ha : f.acc = .rc) : (readClear off 63 0 s).fld off f.hi f.lo = f.reset off % 2 ^ (f.hi + 1 - f.lo) := by
  obtain ⟨hl, h64⟩ := (regFields_wf off).1 f hf
  rw [State.fld, rd_readClear_all, bits_setFields_mem _ (regFields_wf off) hf (by simp [ha]; omega)]

theorem fld_readClear_of_ne_rc (hf : f ∈ regFields off) (ha : f.acc ≠ .rc) : (readClear off 63 0 s).fld off f.hi f.lo = s.fld off f.hi f.lo := by
  rw [State.fld, rd_readClear_all, bits_setFields_other _ (regFields_wf off) hf (by simp [ha]), State.fld]

end

theorem accessCodes : Claims.AccessCodes := fun _ v s _ hf =>
  ⟨fld_plainWrite_of_rw s hf v, fld_plainWrite_of_ro s hf v, fun _ hl hh => ⟨fun ha => flag_plainWrite_of_w1c s hf v ha hl hh, fun ha => flag_plainWrite_of_w1s s hf v ha hl hh⟩,
    fun _ h => rd_plainWrite_ne s v h, bits_readValue s hf, fun _ _ h => bit_readValue_out s h, fld_readClear_of_rc s hf, fld_readClear_of_ne_rc s hf⟩

end Sys2Proof.Machine
end

section
/-! BAR0 and BAR2 as the host sees them: accesses by state of the link, by size and by what the page entry names (R751, R755, R758 to R761). -/

namespace Sys2Proof.Machine

theorem exec_registerWrite (off : Nat) (v : Word) (s : State) : exec (.registerWrite off v) s = .next (withReads (bar0 true (off / 8 * 8) 8 v) s) := rfl
theorem exec_registerRcRead (off : Nat) (s : State) : exec (.registerRcRead off) s = .next (bar0 false (off / 8 * 8) 8 0 s) := rfl
theorem exec_bar0Access (w : Bool) (off n : Nat) (v : Word) (s : State) : exec (.bar0Access w off n v) s = .next (withReads (bar0 w off n v) s) := rfl
theorem exec_bar2Access (w : Bool) (off len : Nat) (data : List Byte) (s : State) : exec (.bar2Access w off len data) s = .next (bar2 w off len data s) := rfl
theorem exec_barReadTimeout (bar off : Nat) (s : State) : exec (.barReadTimeout bar off) s = execBarReadTimeout bar off s := rfl
theorem exec_msixTableWrite (off : Nat) (x : Half) (s : State) : exec (.msixTableWrite off x) s = .next (msixWrite off x s) := rfl

/-! ### Commands that lack no read -/

/-- A command that asks for no read and uses none ends as it is. -/
theorem withReads_of_no_reads {f : State → State} {s : State} (hw : (f s).engWant = s.engWant) (hr : (f s).engReads = s.engReads) : withReads f s = f s := by
  have hf : (f s).engReads.filter (fun e => !e.used || s.engReads.contains e) = (f s).engReads := by
    rw [hr, List.filter_eq_self]
    intro e he
    simp [he]
  unfold withReads
  dsimp only
  rw [if_pos hw, hf]

/-- A command that leaves the state asks for nothing. -/
theorem withReads_of_eq_self {f : State → State} {s : State} (h : f s = s) : withReads f s = s :=
  (withReads_of_no_reads (by rw [h]) (by rw [h])).trans h

theorem withReads_congr {f g : State → State} {s : State} (h : f s = g s) : withReads f s = withReads g s := by
  unfold withReads
  rw [h]

/-! ### BAR0 -/

section
variable {off : Nat} {s : State} (ho : off < 2 ^ 28) (v : Word)

/-- With the link down no access is seen (R753). -/
theorem bar0_linkDown (hl : s.host.linkUp = false) (w : Bool) (off n : Nat) : bar0 w off n v s = s := by simp [bar0, hl]

include ho

/-- In D3hot the BARs do not decode: a write is lost, and a read is an Unsupported Request (R751). -/
theorem bar0_d3hot (hl : s.host.linkUp = true) (hd : s.host.d3hot = true) (w : Bool) (n : Nat) : bar0 w off n v s = noData w 1 s := by
  simp [bar0, hl, hd, noData, show ¬ 268435456 ≤ off by omega]

theorem bar0_write8 (hu : hostUp s = true) (h8 : off % 8 = 0) : bar0 true off 8 v s = barWrite off v s := by
  obtain ⟨hl, hd⟩ : s.host.linkUp = true ∧ s.host.d3hot = false := by simpa [hostUp] using hu
  simp [bar0, hl, hd, h8, show ¬ 268435456 ≤ off by omega]

theorem bar0_write4 (hu : hostUp s = true) (h4 : off % 4 = 0) : bar0 true off 4 v s = barWrite (off / 8 * 8) (mergeHalf s off (bits v 31 0)) s := by
  obtain ⟨hl, hd⟩ : s.host.linkUp = true ∧ s.host.d3hot = false := by simpa [hostUp] using hu
  simp [bar0, hl, hd, h4, show ¬ 268435456 ≤ off by omega]

/-- A write of another size, or a misaligned one, is dropped and counted (R755). -/
theorem bar0_write_dropped (hu : hostUp s = true) {n : Nat} (h8 : ¬(n = 8 ∧ off % 8 = 0)) (h4 : ¬(n = 4 ∧ off % 4 = 0)) :
    bar0 true off n v s = if writable s off then winDrop s else s := by
  obtain ⟨hl, hd⟩ : s.host.linkUp = true ∧ s.host.d3hot = false := by simpa [hostUp] using hu
  simp [bar0, hl, hd, h8, h4, show ¬ 268435456 ≤ off by omega]

theorem bar0_read (hu : hostUp s = true) {n : Nat} (hn : n ≠ 0) : bar0 false off n v s = barRead off n s := by
  obtain ⟨hl, hd⟩ : s.host.linkUp = true ∧ s.host.d3hot = false := by simpa [hostUp] using hu
  simp [bar0, hl, hd, hn, show ¬ 268435456 ≤ off by omega]

end

theorem leBytes_length (n v : Nat) : (leBytes n v).length = n := by
  induction n generalizing v with
  | zero => rfl
  | succ n ih => simp [leBytes, ih]

/-- A 64-bit read of a register that decodes: its value, and its read effect. -/
theorem barRead_quad {off : Nat} {s : State} (h8 : off % 8 = 0) (hd : decodes s off = true) :
    barRead off 8 s = { readClear off 63 0 s with out := .readDone 0 (leBytes 8 (regRead s off).toNat) :: s.out } := by
  have ho : (readClear off 63 0 s).out = s.out := by unfold readClear; split <;> rfl
  simp [barRead, hd, h8, show off / 8 * 8 = off by omega, State.emit, ho, List.take_of_length_le, leBytes_length]

/-- A 32-bit read: one half of the register, and the read effect of that half. -/
theorem barRead_half {off : Nat} {s : State} (h4 : off % 4 = 0) (hd : decodes s off = true) :
    barRead off 4 s = { readClear (off / 8 * 8) (8 * (off % 8) + 31) (8 * (off % 8)) s with
      out := .readDone 0 (((leBytes 8 (regRead s (off / 8 * 8)).toNat).drop (off % 8)).take 4) :: s.out } := by
  have ho : ∀ a b c, (readClear a b c s).out = s.out := fun a b c => by unfold readClear; split <;> rfl
  have hk : min 4 (8 - off % 8) = 4 := by omega
  simp [barRead, hd, hk, show 8 * (off % 8 + 4) - 1 = 8 * (off % 8) + 31 by omega, State.emit, ho]

/-- A 64-bit read of a block that is off answers all ones and is counted. -/
theorem barRead_quad_off {off : Nat} {s : State} (h8 : off % 8 = 0) (hd : decodes s off = false) :
    barRead off 8 s = (s.satFld rHostStat 31 16 1).emit (.readDone 0 (List.replicate 8 0xFF)) := by
  simp [barRead, hd, h8]

theorem barRead_engReads (off n : Nat) (s : State) : (barRead off n s).engReads = s.engReads ∧ (barRead off n s).engWant = s.engWant := by
  have hr : ∀ a b c, (readClear a b c s).engReads = s.engReads ∧ (readClear a b c s).engWant = s.engWant := fun a b c => by
    unfold readClear; split <;> exact ⟨rfl, rfl⟩
  unfold barRead
  split
  · exact hr _ _ _
  · exact ⟨rfl, rfl⟩

/-- A counter field of a register after an increment. -/
theorem State.fld_satFld_self (s : State) (off hi lo n : Nat) (h : lo ≤ hi) (h64 : hi < 64) :
    (s.satFld off hi lo n).fld off hi lo = min (s.fld off hi lo + n) (2 ^ (hi + 1 - lo) - 1) := by
  rw [State.satFld, State.fld_setFld_self _ _ _ _ _ h h64, satAdd]
  exact Nat.mod_eq_of_lt (lt_of_le_of_lt (min_le_right _ _) (Nat.sub_lt (Nat.two_pow_pos _) one_pos))

/-- A 64-bit write of BAR0, under either of its names. -/
theorem exec_write8 {off : Nat} {s : State} (ho : off < 2 ^ 28) (v : Word) (hu : hostUp s = true) (h8 : off % 8 = 0) :
    ∀ i ∈ [Instr.registerWrite off v, Instr.bar0Access true off 8 v], exec i s = .next (withReads (barWrite off v) s) := by
  have hb := withReads_congr (f := bar0 true off 8 v) (g := barWrite off v) (bar0_write8 ho v hu h8)
  intro i hi
  rcases List.mem_pair.1 hi with rfl | rfl
  · rw [exec_registerWrite, show off / 8 * 8 = off by omega, hb]
  · rw [exec_bar0Access, hb]

/-- A read of BAR0 waits for nothing. -/
theorem exec_bar0Access_read {off n : Nat} {s : State} (ho : off < 2 ^ 28) (v : Word) (hu : hostUp s = true) (hn : n ≠ 0) :
    exec (.bar0Access false off n v) s = .next (barRead off n s) := by
  have hb := bar0_read ho v hu hn
  obtain ⟨hr, hw⟩ := barRead_engReads off n s
  rw [exec_bar0Access, withReads_of_no_reads (by rw [hb, hw]) (by rw [hb, hr]), hb]

/-- A 64-bit read of BAR0, under either of its names. -/
theorem exec_read8 {off : Nat} {s : State} (ho : off < 2 ^ 28) (v : Word) (hu : hostUp s = true) (h8 : off % 8 = 0) :
    ∀ i ∈ [Instr.registerRcRead off, Instr.bar0Access false off 8 v], exec i s = .next (barRead off 8 s) := by
  intro i hi
  rcases List.mem_pair.1 hi with rfl | rfl
  · rw [exec_registerRcRead, show off / 8 * 8 = off by omega, bar0_read ho _ hu (by decide)]
  · exact exec_bar0Access_read ho v hu (by decide)

theorem registerAccess : Claims.RegisterAccess := by
  intro off v s ho
  have hq : off / 8 * 8 < 2 ^ 28 := by omega
  refine ⟨fun hl => ⟨?down_write, ?down_read, fun w n => ?down_access⟩, fun hl hd => ⟨?d3_write, ?d3_read⟩, fun hu h8 i hi => ?write8, fun hu h8 i hi => ?read8, fun hu h4 => ?write4, fun hu h4 hdec => ?read4, fun hu n h8 h4 => ?dropped⟩
  case down_write => rw [exec_registerWrite, withReads_of_eq_self (bar0_linkDown v hl _ _ _)]
  case down_read => rw [exec_registerRcRead, bar0_linkDown _ hl]
  case down_access => rw [exec_bar0Access, withReads_of_eq_self (bar0_linkDown v hl _ _ _)]
  case d3_write => rw [exec_registerWrite, withReads_of_eq_self (bar0_d3hot hq v hl hd true 8)]
  case d3_read => rw [exec_registerRcRead, bar0_d3hot hq 0 hl hd]; rfl
  case write8 =>
    rw [exec_write8 ho v hu h8 i hi]
    refine ⟨fun hw hr => ?_, fun hw hr => ?_, fun hw => ?_⟩
    · rw [withReads_congr (g := regWrite off v) (by simp [barWrite, hw, hr])]
    · have hb : barWrite off v s = s.satFld rHostStat 15 0 1 := by simp [barWrite, hw, hr, winDrop]
      rw [withReads_of_no_reads (by rw [hb]; rfl) (by rw [hb]; rfl), hb]
    · rw [withReads_of_eq_self (by simp [barWrite, hw])]
  case read8 =>
    rw [exec_read8 ho v hu h8 i hi]
    refine ⟨fun hd => by rw [barRead_quad h8 hd], fun hd => ⟨_, rfl, ?_, ?_⟩⟩
    · rw [barRead_quad_off h8 hd]; rfl
    · rw [barRead_quad_off h8 hd]; exact State.fld_satFld_self s rHostStat 31 16 1 (by decide) (by decide)
  case write4 => rw [exec_bar0Access, withReads_congr (bar0_write4 ho v hu h4)]
  case read4 => rw [exec_bar0Access_read ho v hu (by decide), barRead_half h4 hdec]
  case dropped =>
    have hb := bar0_write_dropped ho v hu h8 h4
    have hr : (bar0 true off n v s).engReads = s.engReads ∧ (bar0 true off n v s).engWant = s.engWant := by
      rw [hb]; split <;> exact ⟨rfl, rfl⟩
    rw [exec_bar0Access, withReads_of_no_reads hr.2 hr.1, hb]; rfl

/-! ### BAR2 -/

/-- A BAR2 access of 1 to 4,096 bytes, by what stands in its way: the link, D3hot or boot, the page entry, and a trip (R751, R759, R761). -/
theorem bar2_eq {off len : Nat} {data : List Byte} (s : State) (ho : off < 2 ^ 36) (h0 : 0 < len) (h4 : len ≤ 4096) (hd : data.length = len) (w : Bool) :
    bar2 w off len data s =
      if s.host.linkUp = false then s else if s.host.d3hot = true ∨ bootStage s < 5 then noData w 1 s
      else if s.flag (0x880 + 8 * (off / 2 ^ 32)) 63 = false then noData w 1 (bar2Err s) else if domeState s = 3 then noData w 2 s
      else bar2At w off (s.fld (0x880 + 8 * (off / 2 ^ 32)) 47 32 * 2 ^ 32 + off % 2 ^ 32) len data s := by
  have hn : (if w = true then (data.take 4096).length else min len 4096) = len := by
    rw [List.length_take, hd, Nat.min_comm, Nat.min_eq_left h4, ite_self]
  unfold bar2
  dsimp only
  rw [hn, Nat.mod_eq_of_lt ho, List.take_of_length_le (hd.trans_le h4)]
  refine if_congr ?_ rfl (if_congr ?_ rfl (if_congr ?_ rfl rfl))
  · simp [Nat.pos_iff_ne_zero.1 h0]
  · simp
  · simp [State.flag]

section
variable {off addr a n : Nat} {bs : List Byte} {s : State}

/-- A granule of the store range without a home: Completer Abort (R760, R761). -/
theorem bar2At_homeless (hp : placeOf addr = .store a) (hh : homeLimb s (a / granule) = none) (w : Bool) : bar2At w off addr n bs s = noData w 2 (bar2Err s) := by
  simp [bar2At, hp, hh]

theorem bar2At_store_read (hp : placeOf addr = .store a) (hh : homeLimb s (a / granule) ≠ none) :
    bar2At false off addr n bs s = { s with out := .readDone (if storePoison s a n then 3 else 0) (rangeBytes s a n) :: s.out } := by
  simp [bar2At, hp, hh, State.emit]

theorem bar2At_store_write (hp : placeOf addr = .store a) (hh : homeLimb s (a / granule) ≠ none) :
    bar2At true off addr n bs s =
      if (writeBytes false a bs s).1 = true then (writeBytes false a bs s).2
      else raise (domLimb (hostLimb s)) 1 10 0x0601 (wd addr) (bar2Err (writeBytes false a bs s).2) := by
  simp [bar2At, hp, hh]

end

/-- A read of BAR2 that nothing answers: Completer Abort, counted, with the deferred error 0x0602 (R761). -/
theorem exec_barReadTimeout_pending {off n : Nat} {q : MeshReq} {s : State} (ho : off < 2 ^ 36) (hr : s.reqs = [(n, q)]) (hw : q.who = 0) (hq : q.write = false) (hoff : q.off = off) :
    exec (.barReadTimeout 2 off) s = .next (raise (domLimb (hostLimb s)) 1 10 0x0602 (wd (2 * 2 ^ 62 + off)) (({ s with reqs := [] }.satFld rHostStat 47 32 1).emit (.readDone 2 []))) := by
  rw [exec_barReadTimeout, execBarReadTimeout, Nat.mod_eq_of_lt ho]
  simp [hr, hw, hq, hoff, terase]

/-- Without a read that waits, or for another BAR, nothing times out. -/
theorem exec_barReadTimeout_none {bar off : Nat} {s : State} (h : s.reqs = [] ∨ bar ≠ 2) : exec (.barReadTimeout bar off) s = .next s := by
  rw [exec_barReadTimeout, execBarReadTimeout]
  split
  next p hp =>
    have hb : bar ≠ 2 := h.resolve_left (fun hr => by rw [hr] at hp; cases hp)
    rw [if_neg hb]
  next => rfl

/-! ### The MSI-X table -/

/-- What a write of word i of the MSI-X table stores: the implemented bits. -/
def msixStored (i : Nat) (x : Half) : Half := if i % 4 = 3 then x &&& 1 else if i % 4 = 0 then x &&& 0xFFFFFFFC else x

/-- The MSI-X table with word i written. -/
def setMsix (i : Nat) (x : Half) (s : State) : State := s.modHost (fun h => { h with msix := tset h.msix i (msixStored i x) })

theorem msixSignal_msix (vec : Nat) (s : State) : (msixSignal vec s).host.msix = s.host.msix ∧ (msixSignal vec s).regs = s.regs := by
  unfold msixSignal
  split <;> exact ⟨rfl, rfl⟩

theorem msixWrite_eq {o : Nat} (x : Half) (s : State) (h4 : o % 4 = 0) (ho : o < 0x8000) :
    msixWrite o x s =
      if o / 4 % 4 = 3 ∧ masked (setMsix (o / 4) x s) (o / 4 / 4) = false ∧ (setMsix (o / 4) x s).host.pba.contains (o / 4 / 4) = true then
        msixSignal (o / 4 / 4) ((setMsix (o / 4) x s).modHost (fun h => { h with pba := h.pba.erase (o / 4 / 4) }))
      else setMsix (o / 4) x s := if_pos ⟨h4, ho⟩

/-- A write of the MSI-X table stores its word; it may signal the vector, which changes no word of the table and no register. -/
theorem msixWrite_table {o : Nat} {x : Half} {s : State} (h4 : o % 4 = 0) (ho : o < 0x8000) :
    (msixWrite o x s).host.msix = (setMsix (o / 4) x s).host.msix ∧ (msixWrite o x s).regs = s.regs := by
  rw [msixWrite_eq x s h4 ho]
  split
  · exact msixSignal_msix _ _
  · exact ⟨rfl, rfl⟩

theorem msixWord_setMsix_self (i : Nat) (x : Half) (s : State) : msixWord (setMsix i x s) i = msixStored i x := tget_tset_self _ _ _ _
theorem msixWord_setMsix_ne {i j : Nat} (x : Half) (s : State) (h : i ≠ j) : msixWord (setMsix i x s) j = msixWord s j := tget_tset_ne _ _ _ h
theorem msixWord_congr {s t : State} (h : s.host.msix = t.host.msix) (i : Nat) : msixWord s i = msixWord t i := by rw [msixWord, msixWord, h]

/-- The Vector Control word of vector 5 written 0 while its pending bit is set: the vector is signalled (R764). -/
theorem msixWrite_unmasks {s : State} (hp : s.host.pba = [5]) (hu : hostUp s = true) : (msixWrite 92 0 s).host.pba = [] ∧ (msixWrite 92 0 s).out = .msix 5 :: s.out := by
  obtain ⟨hl, hd⟩ : s.host.linkUp = true ∧ s.host.d3hot = false := by simpa [hostUp] using hu
  simp [msixWrite, State.modHost, masked, msixWord, hp, msixSignal, hostUp, hl, hd, State.emit]

theorem windowAccess : Claims.WindowAccess := by
  intro off len data s ho h0 h4 hlen
  have hb := bar2_eq s ho h0 h4 hlen
  refine ⟨fun w hl => ?down, fun w hl hd => ?closed, fun hu h5 => ⟨fun w hv => ?invalid, fun hv ht w => ?tripped, fun hv ht addr haddr => ?valid⟩, fun n q hr hw hq hoff => ?timeout,
    fun b hn => exec_barReadTimeout_none hn, fun o x => ⟨fun h4 ho => ?msixWord, fun hn => ?msixNone, fun he hx hp hu => ?msixSignals⟩⟩
  case down => rw [exec_bar2Access, hb, if_pos hl]
  case closed => rw [exec_bar2Access, hb, if_neg (by simp [hl]), if_pos hd]
  case timeout => exact ⟨_, exec_barReadTimeout_pending ho hr hw hq hoff, rfl, State.fld_satFld_self { s with reqs := [] } rHostStat 47 32 1 (by decide) (by decide), rfl⟩
  case msixWord =>
    obtain ⟨hm, hr⟩ := msixWrite_table (x := x) (s := s) h4 ho
    exact ⟨_, exec_msixTableWrite o x s, (msixWord_congr hm _).trans (msixWord_setMsix_self _ _ _), fun j hj => (msixWord_congr hm _).trans (msixWord_setMsix_ne _ _ hj.symm), hr⟩
  case msixNone => rw [exec_msixTableWrite, msixWrite, if_neg (by omega)]
  case msixSignals =>
    obtain rfl : o = 92 := he
    subst hx
    exact ⟨_, exec_msixTableWrite 92 0 s, msixWrite_unmasks hp hu⟩
  all_goals
    obtain ⟨hl, hd⟩ : s.host.linkUp = true ∧ s.host.d3hot = false := by simpa [hostUp] using hu
    have hat : ∀ w, exec (.bar2Access w off len data) s = .next (bar2 w off len data s) := fun w => exec_bar2Access w off len data s
    simp only [hb, hl, hd, Nat.not_lt.2 h5, Bool.true_eq_false, Bool.false_eq_true, or_self, if_false] at hat
  case invalid => rw [hat, if_pos hv]
  case tripped => rw [hat, if_neg (ne_false_of_eq_true hv), if_pos ht]
  case valid =>
    simp only [hv, ht, ← haddr, Bool.true_eq_false, if_false] at hat
    refine ⟨fun a hp hh => ⟨?_, fun hw => ?_, fun hw => ?_⟩, fun a hp hh w => ?_, fun c a hp => ⟨?_, ?_⟩, fun f a hp => ⟨?_, ?_⟩, fun a hp w => ?_, fun hp w => ?_⟩
    · rw [hat, bar2At_store_read hp hh]
    · rw [hat, bar2At_store_write hp hh, if_pos hw]
    · rw [hat, bar2At_store_write hp hh, if_neg (by simp [hw])]
    · rw [hat, bar2At_homeless hp hh]
    all_goals
      rw [hat]
      simp [bar2At, hp]

/-- Settles O58: the access codes by the fold over a register's fields, BAR0 and BAR2 by the branches of their access functions. -/
theorem hostAccess : Obligations.HostAccess := ⟨accessCodes, registerAccess, windowAccess⟩

end Sys2Proof.Machine
end

section
/-! Where the blocks of BAR0 stand, what registers hold after reset, and what cold reset leaves (R16, R17, R756, R835, R850). -/

namespace Sys2Proof.Machine
open Sys2Proof.Claims

/-! ### Blocks by number -/

theorem blockOf_limb {l o : Nat} (hl : l < 8) (ho : o < 0x100000) : blockOf (limbBase l + o) = (.limb l, o) := by
  have h1 : ¬ limbBase l + o < 0x100000 := by unfold limbBase; omega
  have h2 : limbBase l + o < 0x900000 := by unfold limbBase; omega
  have hq : (limbBase l + o - 0x100000) / 0x100000 = l := by unfold limbBase; omega
  have hr : (limbBase l + o - 0x100000) % 0x100000 = o := by unfold limbBase; omega
  rw [blockOf, if_neg h1, if_pos h2, hq, hr]

theorem blockOf_field {f o : Nat} (hf : f < 84) (ho : o < 0x10000) : blockOf (fieldBase f + o) = (.field f, o) := by
  have h1 : ¬ fieldBase f + o < 0x100000 := by unfold fieldBase; omega
  have h2 : ¬ fieldBase f + o < 0x900000 := by unfold fieldBase; omega
  have h3 : 0x1000000 ≤ fieldBase f + o ∧ fieldBase f + o < 0xB800000 := by unfold fieldBase; omega
  have hq : (fieldBase f + o - 0x1000000) / 0x200000 = f := by unfold fieldBase; omega
  have hr : (fieldBase f + o - 0x1000000) % 0x200000 = o := by unfold fieldBase; omega
  rw [blockOf, if_neg h1, if_neg h2, if_pos h3, hq, hr]
  exact if_pos ho

/-- A core stands in its field at its index (R9, R329). -/
theorem coreOfField_fieldOf (c : Nat) : coreOfField (fieldOf c) (coreIdx c) = c := by
  unfold coreOfField coreAt fieldOf coreIdx coreX coreY
  omega

/-- The window of the core at index i of field f (R756). -/
theorem blockOf_coreIndex {f i o : Nat} (hf : f < 84) (hi : i < 960) (ho : o < 0x800) : blockOf (fieldBase f + 0x10000 + i * 0x800 + o) = (.core (coreOfField f i), o) := by
  have h1 : ¬ fieldBase f + 0x10000 + i * 0x800 + o < 0x100000 := by unfold fieldBase; omega
  have h2 : ¬ fieldBase f + 0x10000 + i * 0x800 + o < 0x900000 := by unfold fieldBase; omega
  have h3 : 0x1000000 ≤ fieldBase f + 0x10000 + i * 0x800 + o ∧ fieldBase f + 0x10000 + i * 0x800 + o < 0xB800000 := by unfold fieldBase; omega
  have hq : (fieldBase f + 0x10000 + i * 0x800 + o - 0x1000000) / 0x200000 = f := by unfold fieldBase; omega
  have hr : (fieldBase f + 0x10000 + i * 0x800 + o - 0x1000000) % 0x200000 = 0x10000 + i * 0x800 + o := by unfold fieldBase; omega
  have h4 : ¬ 0x10000 + i * 0x800 + o < 0x10000 := by omega
  have h5 : 0x10000 + i * 0x800 + o < 0x10000 + 960 * 0x800 := by omega
  have hs : 0x10000 + i * 0x800 + o - 0x10000 = i * 0x800 + o := by rw [Nat.add_assoc, Nat.add_sub_cancel_left]
  have hj : (i * 0x800 + o) / 0x800 = i := by omega
  have hk : (i * 0x800 + o) % 0x800 = o := by omega
  rw [blockOf, if_neg h1, if_neg h2, if_pos h3, hq, hr]
  dsimp only
  rw [if_neg h4, if_pos h5, hs, hj, hk]

theorem blockOf_core {c o : Nat} (hc : c < 80640) (ho : o < 0x800) : blockOf (coreWin c + o) = (.core c, o) := by
  have hf : fieldOf c < 84 := by unfold fieldOf coreX coreY; omega
  have hi : coreIdx c < 960 := by unfold coreIdx coreX coreY; omega
  exact (blockOf_coreIndex hf hi ho).trans (by rw [coreOfField_fieldOf])

/-! ### Reset values -/

/-- Every field of a register resets to zero, whatever is fused. -/
def zeroFields (fs : List RField) : Bool := fs.all (fun f => !f.fuse && f.rst == 0)

theorem setBits_zero (hi lo : Nat) : setBits 0 hi lo 0 = 0 := by simp [setBits]

/-- A register other than CORE_ID resets to what its fields reset to. -/
theorem resetValue_eq_setFields {off : Nat} (h : (blockOf off).2 ≠ 0 ∨ ∀ c, (blockOf off).1 ≠ .core c) :
    resetValue off = setFields (fun _ => true) (fun f => f.reset off) (regFields off) 0 := by
  unfold resetValue
  split
  next c e =>
    rcases h with h | h
    · exact absurd (congrArg Prod.snd e) h
    · exact absurd (congrArg Prod.fst e) (h c)
  next => rfl

theorem setFields_zero {fs : List RField} (off : Nat) (h : zeroFields fs = true) : setFields (fun _ => true) (fun f => f.reset off) fs 0 = 0 := by
  induction fs with
  | nil => rfl
  | cons f r ih =>
    obtain ⟨⟨hfuse, hrst⟩, hr⟩ : (f.fuse = false ∧ f.rst = 0) ∧ zeroFields r = true := by simpa [zeroFields] using h
    have hz : setBits 0 f.hi f.lo (f.reset off) = 0 := by rw [RField.reset, hfuse, hrst]; exact setBits_zero _ _
    exact (congrArg (setFields _ _ r) ((if_pos rfl).trans hz)).trans (ih hr)

/-- A register at a known place in its block, with zero fields, resets to zero. -/
theorem resetValue_eq_zero {off o : Nat} {b : Block} (hb : blockOf off = (b, o)) (h : o ≠ 0 ∨ ∀ c, b ≠ .core c) (hz : zeroFields (fieldsAt b o) = true) : resetValue off = 0 := by
  rw [resetValue_eq_setFields (by rw [hb]; exact h), regFields_of_blockOf hb, setFields_zero off hz]

/-- Where ERR_STAT and the words of the two records stand in an error domain's registers (R641). -/
def errOffsets : List Nat := [0, 0x8, 0x10, 0x18, 0x20, 0x28, 0x30, 0x38, 0x40]

theorem le_of_mem_errOffsets {k : Nat} (hk : k ∈ errOffsets) : k ≤ 0x40 := (by decide : ∀ k ∈ errOffsets, k ≤ 0x40) k hk

/-- The block of a domain's error registers, and where they stand in it (R615, R641). -/
def errPlace : Dom → Block × Nat
  | .core c => (.core c.val, 0x100)
  | .field f => (.field f.val, 0x500)
  | .limb l => (.limb l.val, 0x5000)
  | .module => (.modG, 0x8000)

theorem blockOf_errBase (d : Dom) {k : Nat} (hk : k ∈ errOffsets) : blockOf (errBase d + k) = ((errPlace d).1, (errPlace d).2 + k) := by
  have hle := le_of_mem_errOffsets hk
  cases d with
  | core c => exact (congrArg blockOf (Nat.add_assoc (coreWin c.val) 0x100 k)).trans (blockOf_core c.isLt (by omega))
  | field f => exact (congrArg blockOf (Nat.add_assoc (fieldBase f.val) 0x500 k)).trans (blockOf_field f.isLt (by omega))
  | limb l => exact (congrArg blockOf (Nat.add_assoc (limbBase l.val) 0x5000 k)).trans (blockOf_limb l.isLt (by omega))
  | module => exact blockOf_modG (off := 0x8000 + k) (by omega)

/-- ERR_STAT and the records have no field that resets to anything but zero (R641). -/
theorem zeroFields_errPlace (d : Dom) : ∀ k ∈ errOffsets, (errPlace d).2 + k ≠ 0 ∧ (errPlace d).2 + k ≠ 0x6000 ∧ zeroFields (fieldsAt (errPlace d).1 ((errPlace d).2 + k)) = true := by
  cases d with
  | core c => exact (by decide : ∀ k ∈ errOffsets, 0x100 + k ≠ 0 ∧ 0x100 + k ≠ 0x6000 ∧ zeroFields (fieldsAt (.core 0) (0x100 + k)) = true)
  | field f => exact (by decide : ∀ k ∈ errOffsets, 0x500 + k ≠ 0 ∧ 0x500 + k ≠ 0x6000 ∧ zeroFields (fieldsAt (.field 0) (0x500 + k)) = true)
  | limb l => exact (by decide : ∀ k ∈ errOffsets, 0x5000 + k ≠ 0 ∧ 0x5000 + k ≠ 0x6000 ∧ zeroFields (fieldsAt (.limb 0) (0x5000 + k)) = true)
  | module => exact (by decide : ∀ k ∈ errOffsets, 0x8000 + k ≠ 0 ∧ 0x8000 + k ≠ 0x6000 ∧ zeroFields (fieldsAt (.modG) (0x8000 + k)) = true)

/-- The state and the records of every error domain reset to zero (R641). -/
theorem resetValue_errBase (d : Dom) {k : Nat} (hk : k ∈ errOffsets) : resetValue (errBase d + k) = 0 :=
  have ⟨h0, _, hz⟩ := zeroFields_errPlace d k hk
  resetValue_eq_zero (blockOf_errBase d hk) (.inl h0) hz

/-- CORE_STAT resets to STATE 0 at PC 0 (R54). -/
theorem resetValue_rCoreStat (c : CoreId) : resetValue (rCoreStat c.val) = 0 :=
  resetValue_eq_zero (blockOf_core c.isLt (by decide)) (.inl (by decide)) rfl

/-! ### State.reset -/

theorem rd_reset {off : Nat} (h : off ≠ 0x106000) : State.reset.rd off = resetValue off := by
  simp [State.rd, State.reset, tfind, h.symm]

/-- At reset only limb 0's power register stands apart from its reset value. -/
theorem rd_reset_of_blockOf {off o : Nat} {b : Block} (hb : blockOf off = (b, o)) (h : o ≠ 0x6000) : State.reset.rd off = resetValue off :=
  rd_reset (fun e => h (congrArg Prod.snd (hb.symm.trans (e ▸ rfl : blockOf off = (.limb 0, 0x6000)))))

/-- No error domain holds anything at reset. -/
theorem rd_reset_errBase (d : Dom) {k : Nat} (hk : k ∈ errOffsets) : State.reset.rd (errBase d + k) = 0 :=
  (rd_reset_of_blockOf (blockOf_errBase d hk) (zeroFields_errPlace d k hk).2.1).trans (resetValue_errBase d hk)

theorem record_reset (d : Dom) (pending : Bool) : record d pending State.reset = [0, 0, 0, 0] := by
  have h : ∀ k ∈ errOffsets, State.reset.rd (errBase d + k) = 0 := fun _ => rd_reset_errBase d
  simp only [errOffsets, List.forall_mem_cons] at h
  cases pending <;> simp [record, recWords, Nat.add_assoc, h]

theorem domState_reset (d : Dom) : domState State.reset d = 0 := by
  have h := rd_reset_errBase d (k := 0) (by decide)
  rw [Nat.add_zero] at h
  rw [domState, State.fld, h]; rfl

theorem rd_reset_rCoreStat (c : CoreId) : State.reset.rd (rCoreStat c.val) = 0 :=
  (rd_reset (by unfold rCoreStat coreWin fieldBase; omega)).trans (resetValue_rCoreStat c)

/-- Settles O27: the register map gives the reset values, by block for the error domains and the cores. -/
theorem resetValues : Obligations.ResetValues := by
  refine ⟨rfl, fun off h => rd_reset h, by decide +kernel, fun c => ⟨?_, ?_, rfl⟩, fun d => ⟨record_reset d false, record_reset d true, domState_reset d⟩, fun _ => rfl, by decide +kernel⟩
  · rw [coreSt, State.fld, rd_reset_rCoreStat]; rfl
  · rw [corePc, State.fld, rd_reset_rCoreStat]; rfl

end Sys2Proof.Machine
end

section
/-! Cold reset: what the module holds in it, and what brings it there (R16, R685, R835, R838, R839, R850). -/

namespace Sys2Proof.Machine
open Sys2Proof.Claims

theorem exec_coldReset (s : State) : exec .coldReset s = .next (coldState s.tray.down s) := rfl
theorem exec_modPwrenLow (s : State) : exec .modPwrenLow s = execModPwrenLow s := rfl
theorem exec_inputLost (s : State) : exec .inputLost s = .next (coldState { s.tray.down with okA := false, okB := false, pwren := false, holdOff := true, pend := false } s) := rfl
theorem exec_epoN (s : State) : exec .epoN s = execEpoN s := rfl

/-- A field that holds what was blown, through every reset (R17). -/
def RField.keepsFuse (f : RField) : Bool := f.fuse && f.acc == .ro

theorem coldReg_eq_setFields (off : Nat) (w : Word) : coldReg off w = setFields RField.keepsFuse (fun f => bits w f.hi f.lo) (regFields off) (resetValue off) := rfl

theorem fuseRegs_cons (k : Nat) (w : Word) (r : Tab Word) :
    fuseRegs ((k, w) :: r) = if (regFields k).any RField.keepsFuse then (k, coldReg k w) :: fuseRegs r else fuseRegs r := by
  split_ifs with hk
  · exact congrArg (List.map _) (List.filter_cons_of_pos (p := fun q : Nat × Word => (regFields q.1).any RField.keepsFuse) hk)
  · exact congrArg (List.map _) (List.filter_cons_of_neg (p := fun q : Nat × Word => (regFields q.1).any RField.keepsFuse) hk)

/-- Through cold reset a register with fuses is kept as its fuses, and any other is unlisted. -/
theorem tfind_fuseRegs (rs : Tab Word) (off : Nat) : tfind (fuseRegs rs) off = if (regFields off).any RField.keepsFuse then (tfind rs off).map (coldReg off) else none := by
  induction rs with
  | nil => simp [fuseRegs, tfind]
  | cons p r ih =>
    obtain ⟨k, w⟩ := p
    rw [fuseRegs_cons]
    by_cases he : k = off
    · subst he
      split_ifs with hk <;> simp [tfind, ih, hk]
    · have hne : tfind ((k, w) :: r) off = tfind r off := if_neg he
      rw [hne, ← ih]
      split_ifs
      · exact if_neg he
      · rfl

section
variable (tr : Tray) (s : State)

/-- In cold reset a register without fuses holds its reset value (R16). -/
theorem rd_coldState {off : Nat} (h : NoFuse off) : (coldState tr s).rd off = resetValue off := by
  have hn : (regFields off).any RField.keepsFuse = false := h
  have hf : tfind (coldState tr s).regs off = none := by simp [coldState, tfind_fuseRegs, hn]
  rw [State.rd, hf]

/-- In cold reset every field but a fuse reads as at its reset value, whatever the register's fuses (R16). -/
theorem fld_coldState {off : Nat} {f : RField} (hf : f ∈ regFields off) (hk : f.keepsFuse = false) :
    (coldState tr s).fld off f.hi f.lo = bits (resetValue off) f.hi f.lo := by
  have hr : ∀ w, bits (coldReg off w) f.hi f.lo = bits (resetValue off) f.hi f.lo := fun w => by
    rw [coldReg_eq_setFields, bits_setFields_other _ (regFields_wf off) hf hk]
  have ht : tfind (coldState tr s).regs off = none ∨ ∃ w, tfind (coldState tr s).regs off = some (coldReg off w) := by
    have := tfind_fuseRegs s.regs off
    cases h : tfind s.regs off with
    | none => left; simp [coldState, this, h]
    | some w => by_cases hn : (regFields off).any RField.keepsFuse = true
                · right; exact ⟨w, by simp [coldState, this, h, hn]⟩
                · left; simp [coldState, this, hn]
  rw [State.fld, State.rd]
  rcases ht with ht | ⟨w, ht⟩ <;> rw [ht]
  exact hr w

end

/-- A field of FLD_PWR that gives the state of a domain is off at reset (R689). -/
theorem fld_coldState_domain (tr : Tray) (s : State) {f : Nat} (hf : f < 84) :
    ∀ g ∈ [fRO 25 24, fRO 27 26, fRO 29 28], (coldState tr s).fld (rFldPwr f) g.hi g.lo = 0 := by
  have hb : blockOf (rFldPwr f) = (.field f, 0x600) := blockOf_field hf (by decide)
  have hfields : regFields (rFldPwr f) = fieldsAt (.field f) 0x600 := regFields_of_blockOf hb
  have hall : ∀ g ∈ [fRO 25 24, fRO 27 26, fRO 29 28], g ∈ fieldsAt (.field f) 0x600 ∧ g.keepsFuse = false ∧ g.fuse = false ∧ g.rst = 0 :=
    (by decide : ∀ g ∈ _, g ∈ fieldsAt (.field 0) 0x600 ∧ g.keepsFuse = false ∧ g.fuse = false ∧ g.rst = 0)
  intro g hg
  obtain ⟨hmem, hkeep, hfuse, hrst⟩ := hall g hg
  have hin : g ∈ regFields (rFldPwr f) := hfields ▸ hmem
  rw [fld_coldState tr s hin hkeep, resetValue_eq_setFields (.inl (by rw [hb]; exact (by decide : 0x600 ≠ 0))), bits_setFields_mem _ (regFields_wf _) hin rfl, RField.reset, hfuse, hrst]
  simp

theorem rd_coldState_lmbPwr (tr : Tray) (s : State) {l : Nat} (hl : l < 8) : (coldState tr s).rd (rLmbPwr l) = 0 := by
  have hb : blockOf (rLmbPwr l) = (.limb l, 0x6000) := blockOf_limb hl (by decide)
  have hn : NoFuse (rLmbPwr l) := by
    unfold NoFuse
    rw [regFields_of_blockOf hb]
    exact (by decide : (fieldsAt (.limb 0) 0x6000).any (fun f => f.fuse && f.acc == .ro) = false)
  rw [rd_coldState tr s hn]
  exact resetValue_eq_zero hb (.inl (by decide)) (by decide : zeroFields (fieldsAt (.limb 0) 0x6000) = true)

/-- In cold reset every domain is OFF. -/
theorem domSt_coldState (tr : Tray) (s : State) {d : Nat} (hd : d < 296) : domSt (coldState tr s) d = 0 := by
  unfold domSt
  split_ifs with h1 h2 h3
  · have hf := fld_coldState_domain tr s (f := d / 3) (by omega)
    have h3 : d % 3 = 0 ∨ d % 3 = 1 ∨ d % 3 = 2 := by omega
    rcases h3 with h | h | h <;> rw [h]
    · exact hf (fRO 25 24) (by decide)
    · exact hf (fRO 27 26) (by decide)
    · exact hf (fRO 29 28) (by decide)
  · rw [State.fld, rd_coldState_lmbPwr tr s (by omega)]; simp [bits, nbits]
  · rw [State.fld, rd_coldState_lmbPwr tr s (by omega)]; simp [bits, nbits]
  · rfl

theorem domeState_coldState (tr : Tray) (s : State) : domeState (coldState tr s) = 0 := by
  rw [domeState, State.fld, rd_coldState tr s (show NoFuse rDomeStat from rfl)]
  decide +kernel

theorem isCold_coldState (tr : Tray) (s : State) : IsCold tr s (coldState tr s) where
  tray := rfl
  regs _ _ h := rd_coldState tr s h
  cores _ := rfl
  stores := ⟨rfl, rfl, rfl, rfl, rfl⟩
  engines := ⟨rfl, rfl, rfl, rfl, rfl, rfl, rfl, rfl⟩
  domains _ h := domSt_coldState tr s h
  kept := ⟨rfl, rfl, rfl⟩

/-- What DOME_STAT shows belongs to no domain. -/
theorem domSt_setFld_domeStat (s : State) (hi lo n d : Nat) : domSt (s.setFld rDomeStat hi lo n) d = domSt s d := by
  have hf : ∀ f, rDomeStat ≠ rFldPwr f := fun f => by unfold rDomeStat rFldPwr fieldBase; omega
  have hl : ∀ l, rDomeStat ≠ rLmbPwr l := fun l => by unfold rDomeStat rLmbPwr limbBase; omega
  simp only [domSt, State.fld, State.rd_setFld_ne s hi lo n (hf _), State.rd_setFld_ne s hi lo n (hl _), State.setFld_pwr]

/-- DOME_STAT stands outside what cold reset promises of the registers. -/
theorem isCold_setFld_domeStat {tr : Tray} {s t : State} (h : IsCold tr s t) (hi lo n : Nat) : IsCold tr s (t.setFld rDomeStat hi lo n) where
  tray := h.tray
  regs off hne hn := (State.rd_setFld_ne t hi lo n hne.symm).trans (h.regs off hne hn)
  cores := h.cores
  stores := h.stores
  engines := h.engines
  domains d hd := (domSt_setFld_domeStat t hi lo n d).trans (h.domains d hd)
  kept := h.kept

/-- Settles O19: all four commands end in `coldState`, which is cold; EPO_N then sets DOME_STAT alone. -/
theorem coldResets : Obligations.ColdResets := by
  intro s
  refine ⟨⟨_, exec_coldReset s, isCold_coldState _ s, domeState_coldState _ s⟩, fun hi => ⟨_, ?_, isCold_coldState _ s, domeState_coldState _ s⟩,
    ⟨_, exec_inputLost s, isCold_coldState _ s, domeState_coldState _ s⟩, fun hi hp => ?_⟩
  · rw [exec_modPwrenLow, execModPwrenLow, if_pos hi]
  · have hexec : exec .epoN s = .next (if domeState s = 0 then coldState { s.tray.down with epo := true } s else (coldState { s.tray.down with epo := true } s).setFld rDomeStat 2 0 4) := by
      rw [exec_epoN, execEpoN, hp, hi]; rfl
    rw [hexec]
    split_ifs with hd
    · exact ⟨_, rfl, isCold_coldState _ s, domeState_coldState _ s⟩
    · exact ⟨_, rfl, isCold_setFld_domeStat (isCold_coldState _ s) 2 0 4, State.fld_setFld_self _ rDomeStat 2 0 4 (by decide) (by decide)⟩

end Sys2Proof.Machine
end

section
/-! Warm reset: the Plate engine reads the header of every slot (R611), and the granules that it reads are those of PLT_CFG's reset values: three slots of 64 GiB. -/

namespace Sys2Proof.Machine
open Sys2Proof.Claims

theorem exec_warmReset (s : State) : exec .warmReset s = .next (warmReset s) := rfl

/-! ### What the capacity registers' refresh leaves unchanged -/

/-- The residency entries, and the registers below the module's error domain, are those of s. -/
def SameModule (s t : State) : Prop := t.res = s.res ∧ ∀ off < 0x8000, t.rd off = s.rd off

theorem sameModule_refl (s : State) : SameModule s s := ⟨rfl, fun _ _ => rfl⟩

theorem sameModule_trans {s t u : State} (h : SameModule s t) (k : SameModule t u) : SameModule s u :=
  ⟨k.1.trans h.1, fun off ho => (k.2 off ho).trans (h.2 off ho)⟩

theorem sameModule_wr (s : State) {off : Nat} (w : Word) (h : 0x8000 ≤ off) : SameModule s (s.wr off w) :=
  ⟨rfl, fun _ ho => State.rd_wr_ne s w (by omega)⟩

theorem sameModule_setFld (s : State) {off : Nat} (hi lo n : Nat) (h : 0x8000 ≤ off) : SameModule s (s.setFld off hi lo n) := sameModule_wr s _ h

theorem sameModule_modLimb (s : State) (l : Nat) (f : Limb → Limb) : SameModule s (s.modLimb l f) := ⟨rfl, fun _ _ => rfl⟩

theorem sameModule_nlogEvent (dk code loc : Nat) (a0 a1 : Word) (s : State) : SameModule s (nlogEvent dk code loc a0 a1 s) := by
  unfold nlogEvent nlog ringPush
  dsimp only
  refine sameModule_trans ?_ (sameModule_setFld _ _ _ _ (by decide))
  split
  · exact sameModule_trans (sameModule_wr _ _ (by decide)) (sameModule_setFld _ _ _ _ (by decide))
  · exact sameModule_wr _ _ (by decide)

theorem sameModule_capRefresh (l : Nat) (s : State) : SameModule s (capRefresh l s) := by
  have hb : ∀ k, 0x8000 ≤ limbBase l + k := fun k => by unfold limbBase; omega
  have h : ∀ w v x : Word, SameModule s (((s.wr (limbBase l + 0x1000) w).wr (limbBase l + 0x1008) v).wr (limbBase l + 0x1010) x) := fun w v x =>
    sameModule_trans (sameModule_trans (sameModule_wr s w (hb _)) (sameModule_wr _ v (hb _))) (sameModule_wr _ x (hb _))
  unfold capRefresh
  dsimp only
  split
  · exact sameModule_trans (sameModule_trans (h _ _ _) (sameModule_modLimb _ _ _)) (sameModule_nlogEvent _ _ _ _ _ _)
  · exact sameModule_trans (h _ _ _) (sameModule_modLimb _ _ _)

theorem sameModule_capAll (s : State) : SameModule s (capAll s) := by
  unfold capAll forEach
  exact List.foldlRecOn _ _ (sameModule_refl s) (fun t h l _ => sameModule_trans h (sameModule_capRefresh l t))

theorem sameModule_faultPin (s : State) : SameModule s (faultPin s) := sameModule_setFld s _ _ _ (by decide)

/-! ### The slot headers -/

theorem homeLimb_isSome {s : State} (h : activeLimbs s ≠ []) (g : Nat) : (homeLimb s g).isSome = true := by
  have hlen : g % (activeLimbs s).length < (activeLimbs s).length := Nat.mod_lt _ (List.length_pos_of_ne_nil h)
  simp [homeLimb, h, hlen]

theorem entry_touch_self (g : Nat) (s : State) : (touch g s).entry g = setBits (s.entry g) 47 32 (stepCnt s).toNat := tget_tput_self _ _ _ _
theorem entry_touch_ne {g h : Nat} (s : State) (hne : h ≠ g) : (touch h s).entry g = s.entry g := tget_tput_ne _ _ _ hne

/-- The engine's read of a slot's header touches the granule where the slot begins, if it has a home. -/
theorem pltUse_header {a : Nat} {s : State} (ha : a < 2 ^ 44) (hg : a % granule = 0) (hh : (homeLimb s (a / granule)).isSome = true) : pltUse a 12 s = touch (a / granule) s := by
  have hp : placeOf a = .store a := if_pos ha
  have hn : (a + 12 - 1) / granule + 1 - a / granule = 1 := by unfold granule at hg ⊢; omega
  have hb : byteGranules a 12 = [a / granule] := by
    rw [byteGranules, if_pos ⟨ha, by decide⟩, hn]
    simp
  rw [pltUse, hp]
  simp [hb, hh, forEach]

/-- With PLT_CFG and PLT_BASE as they reset, the engine reads the headers at granules 0, 2^20 and 2^21. -/
theorem entry_learnSlots {s : State} (hcfg : s.rd rPltCfg = resetValue rPltCfg) (hbase : s.rd 0x7008 = resetValue 0x7008) (ha : activeLimbs s ≠ []) :
    (learnSlots s).entry (2 ^ 20) = setBits (s.entry (2 ^ 20)) 47 32 (stepCnt s).toNat := by
  have hslots : pltSlots s = 3 := by rw [pltSlots, State.fld, hcfg]; decide +kernel
  have hgran : slotGran s = 2 ^ 20 := by rw [slotGran, State.fld, hcfg]; decide +kernel
  have hbyte : ∀ k, slotByte s false k 0 = 2 ^ 36 * k := fun k => by
    have h0 : s.fld 0x7008 47 16 = 0 := by rw [State.fld, hbase]; decide +kernel
    simp only [slotByte, slotBase, hgran, h0, granule, Bool.false_eq_true, if_false]
    omega
  have huse : ∀ (k : Nat) (t : State), k < 3 → activeLimbs t ≠ [] → pltUse (2 ^ 36 * k) 12 t = touch (2 ^ 20 * k) t := fun k t hk ht => by
    have hq : 2 ^ 36 * k / granule = 2 ^ 20 * k := by unfold granule; omega
    rw [pltUse_header (by omega) (by unfold granule; omega) (homeLimb_isSome ht _), hq]
  calc (learnSlots s).entry (2 ^ 20)
      = (pltUse (2 ^ 36 * 2) 12 (pltUse (2 ^ 36 * 1) 12 (pltUse (2 ^ 36 * 0) 12 s))).entry (2 ^ 20) := by
        have hread : (learnSlots s).entry (2 ^ 20) = (forEach (List.range (pltSlots s)) (fun k t => pltUse (slotByte s false k 0) 12 t) s).entry (2 ^ 20) := rfl
        rw [hread, hslots, show List.range 3 = [0, 1, 2] from rfl]
        simp only [forEach, List.foldl_cons, List.foldl_nil, hbyte]
    _ = (touch (2 ^ 20 * 2) (touch (2 ^ 20 * 1) (touch (2 ^ 20 * 0) s))).entry (2 ^ 20) := by
        rw [huse 0 s (by decide) ha, huse 1 (touch (2 ^ 20 * 0) s) (by decide) ha, huse 2 (touch (2 ^ 20 * 1) (touch (2 ^ 20 * 0) s)) (by decide) ha]
    _ = setBits (s.entry (2 ^ 20)) 47 32 (stepCnt s).toNat := by
        rw [Nat.mul_one, entry_touch_ne _ (by decide), entry_touch_self, entry_touch_ne _ (by decide)]; rfl

/-- With no migration in progress and no staging slot open, nothing is left to settle before a warm reset (R370). -/
theorem warmStore_eq_self {s : State} (hm : s.migs = []) (hs : ∀ l, (s.limb l).slots = []) : warmStore s = s := by
  unfold warmStore forEach
  simp only [hm, List.foldl_nil]
  exact List.foldl_fixed' (fun l => by simp only [hs, List.map_nil, List.foldl_nil]) _

/-- Warm reset ends with the capacity registers, MOD_FAULT's pin and the slot headers, after every register has taken its warm value. -/
theorem warmReset_eq (s : State) : ∃ b, warmReset s = learnSlots (faultPin (capAll b)) ∧ b.regs = (warmStore s).regs.map (fun p => (p.1, warmReg p.1 p.2)) ∧ b.res = (warmStore s).res := by
  delta warmReset
  refine ⟨_, by with_reducible rfl, ?_, ?_⟩ <;> with_reducible rfl

/-- Limb 0 active at step 7, everything else as State.reset has it: the entry of granule 2^20, where slot 1 begins, has no LAST. -/
def activeAtStep7 : State := { State.reset with regs := [(rStepCnt, 7), (rModHome, 2 ^ 40)] }

/-- In the warm reset of that state the engine's read of the header of slot 1 sets LAST of its granule to 7. -/
theorem entry_warmReset_activeAtStep7 : (warmReset activeAtStep7).entry (2 ^ 20) = setBits resDefault 47 32 7 := by
  obtain ⟨b, heq, hregs, hres⟩ := warmReset_eq activeAtStep7
  rw [warmStore_eq_self rfl (fun _ => rfl)] at hregs hres
  have hlist : b.regs = [(rStepCnt, 7), (rModHome, 2 ^ 40 + 0xFF)] := hregs.trans (by decide +kernel)
  have hsame : SameModule b (faultPin (capAll b)) := sameModule_trans (sameModule_capAll b) (sameModule_faultPin _)
  have hrd : ∀ off < 0x8000, off ≠ rStepCnt → off ≠ rModHome → (faultPin (capAll b)).rd off = resetValue off := fun off ho h1 h2 => by
    rw [hsame.2 off ho, State.rd, hlist]
    simp [tfind, h1.symm, h2.symm]
  have hhome : (faultPin (capAll b)).rd rModHome = 2 ^ 40 + 0xFF := by rw [hsame.2 _ (by decide), State.rd, hlist]; rfl
  have hstep : stepCnt (faultPin (capAll b)) = 7 := by rw [stepCnt, hsame.2 _ (by decide), State.rd, hlist]; rfl
  have hactive : activeLimbs (faultPin (capAll b)) ≠ [] := by rw [activeLimbs, State.fld, hhome]; decide +kernel
  have hentry : (faultPin (capAll b)).entry (2 ^ 20) = resDefault := by rw [State.entry, hsame.1, hres]; rfl
  rw [heq, entry_learnSlots (hrd _ (by decide) (by decide) (by decide)) (hrd _ (by decide) (by decide) (by decide)) hactive, hentry, hstep]
  rfl

/-- Refutes O60: PLT_CFG resets to slots of 64 GiB, so the header of slot 1 that the Plate engine reads after the reset (R611) stands in granule 2^20, whose LAST takes the step counter; the statement lets only the entries of granules 0 and 16384 change. -/
theorem not_warmReset : ¬ Obligations.WarmReset := by
  rintro ⟨hwarm, -⟩
  obtain ⟨⟨t, hexec, ht⟩, -⟩ := hwarm activeAtStep7 rfl (fun _ => rfl)
  obtain rfl : warmReset activeAtStep7 = t := Host.Outcome.next.inj ((exec_warmReset _).symm.trans hexec)
  have hkept : (warmReset activeAtStep7).entry (2 ^ 20) = activeAtStep7.entry (2 ^ 20) := (ht.entries (2 ^ 20)).2 (by decide) (by decide)
  rw [entry_warmReset_activeAtStep7] at hkept
  exact absurd hkept (by decide +kernel)

end Sys2Proof.Machine
end

section
/-! Control of one core: what starting, resuming, halting and stepping it leave in CORE_STAT, CORE_CTL and its record, and that they change nothing else (R41, R53, R89, R120 to R123). -/

namespace Sys2Proof.Machine
open Sys2Proof.Claims

/-! ### Fields within a field, and registers beside the core records -/

theorem bits_setBits_within (w : Word) {hi lo a b : Nat} (n : Nat) (h : lo ≤ hi) (h64 : hi < 64) (hb : lo ≤ b) (hab : b ≤ a) (ha : a ≤ hi) :
    bits (setBits w hi lo n) a b = nbits n (a - lo) (b - lo) := by
  apply Nat.eq_of_testBit_eq
  intro j
  rw [bits, testBit_nbits, testBit_nbits, testBit_setBits _ _ _ _ _ h h64, show a - lo + 1 - (b - lo) = a + 1 - b by omega]
  by_cases hj : j < a + 1 - b
  · simp [hj, show ¬ b + j < lo by omega, show b + j ≤ hi by omega, show b + j - lo = b - lo + j by omega]
  · simp [hj]

/-- Part of the field that was set reads as that part of the value. -/
theorem State.fld_setFld_within (s : State) (off n : Nat) {hi lo a b : Nat} (h : lo ≤ hi) (h64 : hi < 64) (hb : lo ≤ b) (hab : b ≤ a) (ha : a ≤ hi) :
    (s.setFld off hi lo n).fld off a b = nbits n (a - lo) (b - lo) := by
  simp [State.fld, bits_setBits_within _ n h h64 hb hab ha]

@[simp] theorem State.fld_modCore (s : State) (c q hi lo : Nat) (f : Core → Core) : (s.modCore c f).fld q hi lo = s.fld q hi lo := by
  rw [State.fld, State.rd_modCore, State.fld]
@[simp] theorem State.flag_modCore (s : State) (c q i : Nat) (f : Core → Core) : (s.modCore c f).flag q i = s.flag q i := by
  rw [State.flag, State.rd_modCore, State.flag]

/-- A field of CORE_CTL set moves nothing that CORE_STAT shows. -/
@[simp] theorem fld_rCoreStat_setCtl (c hi lo n a b : Nat) (s : State) : (s.setFld (rCoreCtl c) hi lo n).fld (rCoreStat c) a b = s.fld (rCoreStat c) a b := by
  rw [State.fld, State.rd_setFld_ne _ _ _ _ (rCoreCtl_ne_rCoreStat c), State.fld]

@[simp] theorem flag_rCoreStat_setCtl (c hi lo n i : Nat) (s : State) : (s.setFld (rCoreCtl c) hi lo n).flag (rCoreStat c) i = s.flag (rCoreStat c) i := by
  rw [State.flag, State.rd_setFld_ne _ _ _ _ (rCoreCtl_ne_rCoreStat c), State.flag]

/-! ### What can differ at one core -/

section
variable {c : Nat} {offs : List Nat} {s t : State}

theorem onlyAt_refl (c : Nat) (offs : List Nat) (s : State) : OnlyAt c offs s s := ⟨rfl, fun _ _ => rfl, fun _ _ => rfl⟩

theorem onlyAt_setFld {off : Nat} (h : OnlyAt c offs s t) (ho : off ∈ offs) (hi lo n : Nat) : OnlyAt c offs s (t.setFld off hi lo n) := by
  obtain ⟨hrest, hregs, hcores⟩ := h
  refine ⟨by rw [hrest]; rfl, fun q hq => ?_, hcores⟩
  have hne : off ≠ q := fun e => hq (e ▸ ho)
  rw [State.rd_setFld_ne _ _ _ _ hne, hregs q hq]

theorem onlyAt_setStat (h : OnlyAt c [rCoreStat c, rCoreCtl c] s t) (hi lo n : Nat) : OnlyAt c [rCoreStat c, rCoreCtl c] s (t.setFld (rCoreStat c) hi lo n) :=
  onlyAt_setFld h (by simp) hi lo n

theorem onlyAt_setCtl (h : OnlyAt c [rCoreStat c, rCoreCtl c] s t) (hi lo n : Nat) : OnlyAt c [rCoreStat c, rCoreCtl c] s (t.setFld (rCoreCtl c) hi lo n) :=
  onlyAt_setFld h (by simp) hi lo n

theorem onlyAt_modCore (h : OnlyAt c offs s t) (f : Core → Core) : OnlyAt c offs s (t.modCore c f) := by
  obtain ⟨hrest, hregs, hcores⟩ := h
  exact ⟨by rw [hrest]; rfl, hregs, fun d hd => (State.core_modCore_ne t f (Ne.symm hd)).trans (hcores d hd)⟩

/-! ### A port that holds nothing -/

/-- The states differ at most in how the table of cores lists the same records. -/
structure SameCores (t u : State) : Prop where
  rest : u = { t with cores := u.cores }
  core : ∀ d, u.core d = t.core d

theorem SameCores.rd {u : State} (h : SameCores t u) (off : Nat) : u.rd off = t.rd off := by
  rw [h.rest]; rfl

theorem SameCores.fld {u : State} (h : SameCores t u) (off hi lo : Nat) : u.fld off hi lo = t.fld off hi lo := by
  rw [State.fld, h.rd, State.fld]

theorem SameCores.flag {u : State} (h : SameCores t u) (off i : Nat) : u.flag off i = t.flag off i := by
  rw [State.flag, h.rd, State.flag]

theorem onlyAt_of_sameCores {u : State} (h : OnlyAt c offs s t) (hu : SameCores t u) : OnlyAt c offs s u := by
  obtain ⟨hrest, hregs, hcores⟩ := h
  exact ⟨by rw [hu.rest, hrest], fun q hq => (hu.rd q).trans (hregs q hq), fun d hd => (hu.core d).trans (hcores d hd)⟩

/-- A local port that holds nothing admits nothing: at most the table of cores lists one more record, which reads as before. -/
theorem sameCores_admitHeld (h : (t.core c).held = []) : SameCores t (admitHeld c t) := by
  unfold admitHeld
  split
  · rw [h]
    refine ⟨rfl, fun d => ?_⟩
    by_cases hd : d = c
    · rw [hd, admitList, State.core_modCore_self, ← h]
    · exact State.core_modCore_ne t _ (Ne.symm hd)
  · exact ⟨rfl, fun _ => rfl⟩

end

/-! ### Start (R53, R89, R123) -/

section
variable (c : Nat) (s : State)

theorem coreSt_startCore : coreSt (startCore c s) c = 1 := by
  simp only [coreSt, startCore, State.fld_modCore, fld_rCoreStat_setCtl]
  rw [State.fld_setFld_within _ _ _ (by omega) (by omega) (by omega) (by omega) (by omega)]
  split <;> rfl

theorem corePc_startCore : corePc (startCore c s) c = s.fld (rCoreCtl c) 28 16 := by
  simp (disch := omega) only [startCore, corePc, State.fld_modCore, State.fld_setFld_ne]
  exact corePc_setPc c _ _ (nbits_lt _ 28 16)

theorem barEpoch_startCore : (startCore c s).fld (rCoreStat c) 47 32 = 0 := by
  simp (disch := omega) only [startCore, setPc, State.fld_modCore, State.fld_setFld_ne, State.fld_setFld_self, Nat.zero_mod]

/-- Cohort A starts in the compute window, cohort B in the transfer window (R89). -/
theorem coreWindow_startCore : coreWindow (startCore c s) c = !s.flag (rCoreId c) 34 := by
  simp (disch := omega) only [startCore, coreWindow, State.flag_modCore, flag_rCoreStat_setCtl, State.flag_setFld_mem]
  cases s.flag (rCoreId c) 34 <;> rfl

theorem coreLate_startCore : coreLate (startCore c s) c = false := by
  simp (disch := omega) only [startCore, coreLate, State.flag_modCore, flag_rCoreStat_setCtl, State.flag_setFld_mem]
  split <;> rfl

theorem run_startCore : (startCore c s).flag (rCoreCtl c) 0 = true := by
  simp (disch := omega) [startCore, State.flag_setFld_mem]

theorem core_startCore : (startCore c s).core c =
    { s.core c with vmode := s.flag (rCoreCtl c) 3, arrived := false, haltTo := none, wait := none, longRec := false } := by
  simp [startCore, setPc]

theorem onlyAt_startCore : OnlyAt c [rCoreStat c, rCoreCtl c] s (startCore c s) := by
  unfold startCore setPc
  exact onlyAt_modCore (onlyAt_setCtl (onlyAt_setStat (onlyAt_setStat (onlyAt_setStat (onlyAt_refl ..) ..) ..) ..) ..) _

/-! ### Resume (R122, R123) -/

theorem coreSt_resumeCore : coreSt (resumeCore c s) c = if (s.core c).arrived then 3 else 1 := by
  simp (disch := omega) only [resumeCore, coreSt, State.fld_modCore, fld_rCoreStat_setCtl, State.fld_setFld_self]
  split <;> rfl

theorem corePc_resumeCore : corePc (resumeCore c s) c = corePc s c := by
  simp (disch := omega) [resumeCore, corePc, State.fld_setFld_ne]

theorem coreWindow_resumeCore : coreWindow (resumeCore c s) c = coreWindow s c := by
  simp (disch := omega) [resumeCore, coreWindow, State.flag_setFld_ne]

theorem run_resumeCore : (resumeCore c s).flag (rCoreCtl c) 0 = true := by
  simp (disch := omega) [resumeCore, State.flag_setFld_mem]

theorem core_resumeCore : (resumeCore c s).core c = { s.core c with longRec := false } := by
  simp [resumeCore]

theorem onlyAt_resumeCore : OnlyAt c [rCoreStat c, rCoreCtl c] s (resumeCore c s) := by
  unfold resumeCore
  exact onlyAt_modCore (onlyAt_setCtl (onlyAt_setStat (onlyAt_refl ..) ..) ..) _

/-! ### Halt (R106, R120, R121, R125) -/

theorem coreSt_enterHalt {st : Nat} (h : st < 8) : coreSt (enterHalt c st s) c = st := by
  simp (disch := omega) only [enterHalt, coreSt, State.fld_modCore, fld_rCoreStat_setCtl, State.fld_setFld_ne, State.fld_setFld_self]
  exact Nat.mod_eq_of_lt h

theorem corePc_enterHalt (st : Nat) : corePc (enterHalt c st s) c = corePc s c := by
  simp (disch := omega) [enterHalt, corePc, State.fld_setFld_ne]

theorem coreLate_enterHalt (st : Nat) : coreLate (enterHalt c st s) c = false := by
  simp (disch := omega) [enterHalt, coreLate, State.flag_setFld_mem]

theorem coreWindow_enterHalt (st : Nat) : coreWindow (enterHalt c st s) c = coreWindow s c := by
  simp (disch := omega) [enterHalt, coreWindow, State.flag_setFld_ne]

/-- RUN, HALT and STEP1 read 0 in a halted core (R125). -/
theorem coreCtl_enterHalt (st : Nat) : (enterHalt c st s).fld (rCoreCtl c) 2 0 = 0 := by
  simp (disch := omega) [enterHalt, State.fld_setFld_self]

theorem core_enterHalt (st : Nat) : (enterHalt c st s).core c = { s.core c with haltTo := none, wait := none, wptHit := false } := by
  simp [enterHalt]

end

theorem onlyAt_enterHalt {c : Nat} {s t : State} (h : OnlyAt c [rCoreStat c, rCoreCtl c] s t) (st : Nat) : OnlyAt c [rCoreStat c, rCoreCtl c] s (enterHalt c st t) := by
  unfold enterHalt
  exact onlyAt_modCore (onlyAt_setCtl (onlyAt_setStat (onlyAt_setStat h ..) ..) ..) _

/-! ### The commands -/

theorem exec_run_true (c : CoreId) (s : State) : exec (.run c true) s = .next (admitHeld c.val (runCore c.val s)) := rfl
theorem exec_halt (c : CoreId) (s : State) : exec (.halt c) s = .next (admitHeld c.val (haltCore c.val s)) := rfl
theorem exec_step1 (c : CoreId) (s : State) : exec (.step1 c) s = .next (stepCore c.val s) := rfl

/-- RUN = 0 acts as HALT does (R53). -/
theorem exec_run_false {c : CoreId} {s : State} (h : coreDisabled s c.val = false) : exec (.run c false) s = exec (.halt c) s := by
  change Host.Outcome.next (admitHeld c.val (if coreDisabled s c.val then s else haltCore c.val s)) = _
  rw [h]
  rfl

section
variable {c : Nat} {s : State}

theorem runCore_off (h : computeOn s (fieldOf c) = false) : runCore c s = s := by
  simp [runCore, h]

theorem runCore_eq_startCore (hd : coreDisabled s c = false) (hc : computeOn s (fieldOf c) = true) (h : coreSt s c = 0 ∨ coreSt s c = 7) : runCore c s = startCore c s := by
  simp [runCore, hd, hc, h]

theorem runCore_eq_resumeCore (hd : coreDisabled s c = false) (hc : computeOn s (fieldOf c) = true) (h4 : 4 ≤ coreSt s c) (h6 : coreSt s c ≤ 6) : runCore c s = resumeCore c s := by
  simp [runCore, hd, hc, h4, show ¬ (coreSt s c = 0 ∨ coreSt s c = 7) by omega]

/-- With no array access outstanding and no other halt in progress a running core halts at once (R120). -/
theorem haltCore_eq_enterHalt (hr : coreRunning s c = true) (ha : arrayBusy (s.core c) = false) (hh : (s.core c).haltTo = none) :
    haltCore c s = enterHalt c 4 (s.setFld (rCoreCtl c) 1 1 1) := by
  have hrun : coreRunning (s.setFld (rCoreCtl c) 1 1 1) c = true := by
    rw [coreRunning, coreSt, fld_rCoreStat_setCtl]
    exact hr
  simp [haltCore, reqHalt, hr, hrun, ha, hh]

theorem stepCore_eq_setFld (hc : computeOn s (fieldOf c) = true) (h4 : 4 ≤ coreSt s c) (h6 : coreSt s c ≤ 6) :
    stepCore c s = (s.setFld (rCoreCtl c) 2 2 1).setFld (rCoreStat c) 2 0 (if (s.core c).arrived then 3 else 1) :=
  if_pos ⟨hc, by omega⟩

end

/-- HALT of a running core at rest: STATE 4 where it stood (R120, R121, R125). -/
theorem exec_halt_running {c : CoreId} {s : State} (hq : Quiet c.val s) (hr : coreRunning s c.val = true) :
    ∃ t, exec (.halt c) s = .next t ∧ coreSt t c.val = 4 ∧ corePc t c.val = corePc s c.val ∧
      coreLate t c.val = false ∧ coreWindow t c.val = coreWindow s c.val ∧ t.fld (rCoreCtl c.val) 2 0 = 0 ∧
      t.core c.val = { s.core c.val with wait := none, wptHit := false } ∧ OnlyAt c.val [rCoreStat c.val, rCoreCtl c.val] s t := by
  obtain ⟨hbusy, hhalt, hheld⟩ := hq
  have hcore : (enterHalt c.val 4 (s.setFld (rCoreCtl c.val) 1 1 1)).core c.val = { s.core c.val with wait := none, wptHit := false } := by
    rw [core_enterHalt, State.core_setFld, ← hhalt]
  have hsame := sameCores_admitHeld (c := c.val) ((congrArg Core.held hcore).trans hheld)
  exact ⟨_, (exec_halt c s).trans (by rw [haltCore_eq_enterHalt hr hbusy hhalt]), (hsame.fld ..).trans (coreSt_enterHalt _ _ (by omega)),
    (hsame.fld ..).trans ((corePc_enterHalt ..).trans (fld_rCoreStat_setCtl ..)),
    (hsame.flag ..).trans (coreLate_enterHalt ..), (hsame.flag ..).trans ((coreWindow_enterHalt ..).trans (flag_rCoreStat_setCtl ..)),
    (hsame.fld ..).trans (coreCtl_enterHalt ..), (hsame.core _).trans hcore, onlyAt_of_sameCores (onlyAt_enterHalt (onlyAt_setCtl (onlyAt_refl ..) ..) 4) hsame⟩

/-- Settles O15: a write of RUN starts or resumes by STATE, one of HALT or RUN = 0 enters the halt at once, and what the port then admits is nothing. -/
theorem coreControl : Obligations.CoreControl := by
  intro c s hq hd
  have ⟨_, hhalt, hheld⟩ := hq
  refine ⟨fun hoff => ?_, fun hon => ⟨fun hst => ?_, fun h4 h6 => ?_, fun i hi hr => ?_, fun h4 h6 => ?_⟩⟩
  · -- the compute domain is off
    have hsame := sameCores_admitHeld hheld
    exact ⟨_, (exec_run_true c s).trans (by rw [runCore_off hoff]), hsame.core, onlyAt_of_sameCores (onlyAt_refl ..) hsame⟩
  · -- start
    have hcore : (startCore c.val s).core c.val = { s.core c.val with vmode := s.flag (rCoreCtl c.val) 3, arrived := false, wait := none, longRec := false } := by
      rw [core_startCore, ← hhalt]
    have hsame := sameCores_admitHeld (c := c.val) ((congrArg Core.held hcore).trans hheld)
    exact ⟨_, (exec_run_true c s).trans (by rw [runCore_eq_startCore hd hon hst]), (hsame.fld ..).trans (coreSt_startCore ..), (hsame.fld ..).trans (corePc_startCore ..),
      (hsame.fld ..).trans (barEpoch_startCore ..), (hsame.flag ..).trans (coreWindow_startCore ..), (hsame.flag ..).trans (coreLate_startCore ..),
      (hsame.flag ..).trans (run_startCore ..), (hsame.core _).trans hcore, onlyAt_of_sameCores (onlyAt_startCore ..) hsame⟩
  · -- resume
    have hsame := sameCores_admitHeld (c := c.val) ((congrArg Core.held (core_resumeCore c.val s)).trans hheld)
    exact ⟨_, (exec_run_true c s).trans (by rw [runCore_eq_resumeCore hd hon h4 h6]), (hsame.fld ..).trans (coreSt_resumeCore ..), (hsame.fld ..).trans (corePc_resumeCore ..),
      (hsame.flag ..).trans (coreWindow_resumeCore ..), (hsame.flag ..).trans (run_resumeCore ..), (hsame.core _).trans (core_resumeCore ..),
      onlyAt_of_sameCores (onlyAt_resumeCore ..) hsame⟩
  · -- RUN = 0 or HALT
    have hexec : exec i s = exec (.halt c) s := by
      rcases List.mem_pair.1 hi with rfl | rfl
      · exact exec_run_false hd
      · rfl
    rw [hexec]
    exact exec_halt_running hq hr
  · -- STEP1
    refine ⟨_, (exec_step1 c s).trans (congrArg _ (stepCore_eq_setFld hon h4 h6)), ?_, ?_, ?_, fun _ => rfl, onlyAt_setStat (onlyAt_setCtl (onlyAt_refl ..) ..) ..⟩
    · simp (disch := omega) only [coreSt, State.fld_setFld_self]
      split <;> rfl
    · have hne := rCoreCtl_ne_rCoreStat c.val
      simp (disch := omega) [State.flag_setFld_ne, State.flag_setFld_mem]
    · simp (disch := omega) [corePc, State.fld_setFld_ne]

end Sys2Proof.Machine
end

section
/-! The ends of instructions that change a core's record alone, and the system class (R120, R133, R148, R149). -/

namespace Sys2Proof.Machine
open Sys2Proof.Claims

/-! ### The end of an instruction -/

@[simp] theorem core_setPc (c pc d : Nat) (s : State) : (setPc c pc s).core d = s.core d := State.core_setFld ..

theorem coreSt_setPc (c pc : Nat) (s : State) : coreSt (setPc c pc s) c = coreSt s c :=
  State.fld_setFld_ne _ _ _ _ _ _ _ _ (by omega) (by omega) (.inr (.inl (by omega)))

section
variable {c : Nat} {s : State}

/-- The end of an instruction that is done in a state where no halt is due. -/
theorem finish_done_of_no_halt {t : State} (hpc : corePc t c < 8191) (hstep : t.flag (rCoreCtl c) 2 = false) (hw : (t.core c).wptHit = false) :
    finish c s (.done t) = setPc c (corePc t c + 1) t := by
  rw [finish, if_neg (by omega)]
  exact afterRetire_goes ((State.flag_setFld_ne _ _ _ _ _ _ _ (by omega) (by omega) (.inl (rCoreCtl_ne_rCoreStat c).symm)).trans hstep) hw

/-- An instruction that changes the record of its core by f and is done. -/
theorem finish_done_modCore (hg : Goes c s) {f : Core → Core} (hw : (f (s.core c)).wptHit = false) :
    OnlyCore c (corePc s c + 1) s (finish c s (.done (s.modCore c f))) ∧ (finish c s (.done (s.modCore c f))).core c = f (s.core c) := by
  have hpc := hg.pc
  obtain ⟨hrest, hcores⟩ := modCore_only (c := c) (s := s) f
  rw [finish_done hg hrest (by rwa [State.core_modCore_self])]
  exact ⟨onlyCore_setPc (by omega) hrest hcores, by rw [core_setPc, State.core_modCore_self]⟩

/-- An instruction that does nothing but advance. -/
theorem finish_done_self (hg : Goes c s) : OnlyCore c (corePc s c + 1) s (finish c s (.done s)) ∧ (finish c s (.done s)).core c = s.core c := by
  have hpc := hg.pc
  rw [finish_done hg rfl hg.watch]
  exact ⟨onlyCore_setPc (by omega) rfl fun _ _ => rfl, core_setPc ..⟩

end

/-! ### The system class (R148, R149) -/

section
variable (c : CoreId) (s : State)

theorem exec_nop : exec (.nop c) s = .next (issue c.val 1 [0] (fun _ t => .done t) s) := rfl
theorem exec_stop : exec (.stop c) s = .next (issue c.val 1 [1] (fun _ t => .halt t 4) s) := rfl
theorem exec_brk : exec (.brk c) s = .next (issue c.val 1 [2] (fun _ t => .halt t 5) s) := rfl
theorem exec_sysRd : exec (.sysRd c) s = .next (issue c.val 1 [3] (fun w t => doneS c.val (bits w 49 45) (sysReg t c.val (bits w 3 0)) t) s) := rfl
theorem exec_sysWr : exec (.sysWr c) s =
    .next (issue c.val 1 [4] (fun w t => .done (t.modCore c.val (fun k => { k with mb := BitVec.ofNat 16 (readS (t.core c.val) (bits w 44 40)).toNat }))) s) := rfl
theorem exec_fenceT : exec (.fenceT c) s = .next (issue c.val 1 [5] (fun _ t => if tensorIdle t c.val then .done t else .stall) s) := rfl
theorem exec_fenceS : exec (.fenceS c) s = .next (issue c.val 1 [6] (fun _ t => if sendsRead t c.val then .done t else .stall) s) := rfl
theorem exec_fence : exec (.fence c) s = .next (issue c.val 1 [7] (fun _ t => if tensorIdle t c.val && sendsRead t c.val then .done t else .stall) s) := rfl

end

theorem sysReg_eq_ite (s : State) (c n : Nat) : sysReg s c n =
    if n = 0 then s.rd (rCoreStep c) else if n = 1 then BitVec.ofNat 64 (s.core c).mb.toNat
      else if n = 2 then s.rd (rCoreId c) else BitVec.ofNat 64 (s.fld (rCoreBusy c) 47 0) := by
  match n with
  | 0 => rfl
  | 1 => rfl
  | 2 => rfl
  | n + 3 => rfl

section
variable {c op : Nat} {w : Word} {s : State}

/-- A fence whose condition holds does nothing but advance. -/
theorem fence_passes (h : Executes c 1 op w s) {p : State → Bool} (hp : p s = true) :
    OnlyCore c (corePc s c + 1) s (issue c 1 [op] (fun _ t => if p t then .done t else .stall) s) ∧
      (issue c 1 [op] (fun _ t => if p t then .done t else .stall) s).core c = s.core c := by
  rw [issue_executes h (List.mem_singleton_self op), if_pos hp]
  exact finish_done_self h.goes

/-- A fence whose condition does not hold stalls. -/
theorem fence_stalls (h : Executes c 1 op w s) {p : State → Bool} (hp : p s = false) : issue c 1 [op] (fun _ t => if p t then .done t else .stall) s = s := by
  rw [issue_executes h (List.mem_singleton_self op), if_neg (by simp [hp])]
  rfl

end

theorem systemInstructions : Claims.SystemInstructions := by
  intro c w s
  refine ⟨fun h => ?nop, fun h => ?rd, fun h => ?wr, fun h hT => ⟨_, exec_fenceT c s, fence_passes h ?_⟩, fun h hS => ⟨_, exec_fenceS c s, fence_passes h ?_⟩,
    fun h hT hS => ⟨_, exec_fence c s, fence_passes h ?_⟩, fun h hT => ?_, fun h hS => ?_, fun h hTS => ?_⟩
  case nop => exact ⟨_, exec_nop c s, by rw [issue_executes h (List.mem_singleton_self 0)]; exact finish_done_self h.goes⟩
  case rd =>
    rw [exec_sysRd, issue_executes h (List.mem_singleton_self 3), ← sysReg_eq_ite]
    exact ⟨_, rfl, finish_doneS h.goes⟩
  case wr =>
    rw [exec_sysWr, issue_executes h (List.mem_singleton_self 4)]
    exact ⟨_, rfl, finish_done_modCore h.goes h.goes.watch⟩
  · simp [tensorIdle, hT]
  · simp [sendsRead, hS]
  · simp [tensorIdle, sendsRead, hT, hS]
  · rw [exec_fenceT, fence_stalls h (by simpa [tensorIdle] using hT)]
  · rw [exec_fenceS, fence_stalls h (by simpa [sendsRead] using hS)]
  · rw [exec_fence, fence_stalls h (by simpa [tensorIdle, sendsRead, imp_iff_not_or] using hTS)]

/-! ### STOP and BRK (R120, R148) -/

theorem canIssue_iff (s : State) (c : Nat) :
    canIssue s c = true ↔ computeOn s (fieldOf c) = true ∧ coreSt s c = 1 ∧ (s.core c).haltTo = none ∧ atBreakpoint s c = false := by
  simp [canIssue, and_assoc]

/-- A running core with no array access outstanding and no other halt in progress enters the halted STATE at once (R120). -/
theorem reqHalt_eq_enterHalt {c : Nat} {s : State} (hr : coreRunning s c = true) (ha : arrayBusy (s.core c) = false) (hh : (s.core c).haltTo = none) (st : Nat) :
    reqHalt c st s = enterHalt c st s := by
  simp [reqHalt, hr, ha, hh]

/-- An instruction that retires and halts its core into STATE st. -/
theorem finish_halt {c : Nat} {s : State} (hg : Goes c s) (hi : canIssue s c = true) (ha : arrayBusy (s.core c) = false) (st : Nat) :
    finish c s (.halt s st) = enterHalt c st (setPc c (corePc s c + 1) s) := by
  obtain ⟨-, hst, hhalt, -⟩ := (canIssue_iff s c).1 hi
  have hpc := hg.pc
  have hrun : coreRunning (setPc c (corePc s c + 1) s) c = true := by simp [coreRunning, coreSt_setPc, hst]
  have hstep : (setPc c (corePc s c + 1) s).flag (rCoreCtl c) 2 = false :=
    (State.flag_setFld_ne _ _ _ _ _ _ _ (by omega) (by omega) (.inl (rCoreCtl_ne_rCoreStat c).symm)).trans hg.step1
  simp only [finish, if_neg (show ¬ corePc s c = 8191 by omega), afterRetire, haltsDue, hstep, core_setPc, hg.watch, Bool.false_eq_true, if_false, List.append_nil,
    Option.toList_some, List.foldl_nil]
  exact reqHalt_eq_enterHalt hrun ((congrArg arrayBusy (core_setPc ..)).trans ha) ((congrArg Core.haltTo (core_setPc ..)).trans hhalt) st

theorem stopAndBreakHalt : Claims.StopAndBreakHalt := by
  intro p hp c w s h ha
  have hexec : exec (p.1 c) s = .next (issue c.val 1 [p.2.1] (fun _ t => .halt t p.2.2) s) ∧ p.2.2 < 8 := by
    rcases List.mem_pair.1 hp with rfl | rfl
    · exact ⟨exec_stop c s, by decide⟩
    · exact ⟨exec_brk c s, by decide⟩
  have hpc := h.goes.pc
  refine ⟨_, hexec.1, ?_⟩
  rw [issue_executes h (List.mem_singleton_self _), finish_halt h.goes h.fetches.issues ha]
  have hcore := core_enterHalt c.val (setPc c.val (corePc s c.val + 1) s) p.2.2
  rw [core_setPc] at hcore
  obtain ⟨-, -, hcores⟩ := onlyAt_enterHalt (onlyAt_setStat (onlyAt_refl c.val _ s) 20 8 (corePc s c.val + 1)) p.2.2
  exact ⟨coreSt_enterHalt _ _ hexec.2, (corePc_enterHalt ..).trans (corePc_setPc _ _ _ (by omega)), coreCtl_enterHalt ..,
    by rw [hcore], by rw [hcore], by rw [hcore], by rw [hcore],
    hcores, rfl, rfl⟩

/-- Settles O30: each instruction by the end of its effect; a fence passes or stalls by its condition, and STOP and BRK enter the halt at once. -/
theorem systemResults : Obligations.SystemResults := ⟨systemInstructions, stopAndBreakHalt⟩

end Sys2Proof.Machine
end

section
/-! Scalar loads and stores: the address, the bytes a load takes from a word and those a store lays into it (R68, R143, R144). -/

namespace Sys2Proof.Machine
open Sys2Proof.Claims

/-! ### Addresses and values -/

/-- The two's complement reading of a word of n bits (R15). -/
theorem sx_toNat {n : Nat} (x : BitVec (n + 1)) : sx (n + 1) x.toNat = x.toInt := by
  have hx := x.isLt
  rw [sx, Nat.mod_eq_of_lt hx, BitVec.toInt_eq_toNat_cond, Nat.add_sub_cancel]
  by_cases h : 2 ^ n ≤ x.toNat
  · rw [if_pos h, if_neg (by rw [pow_succ]; omega)]
  · rw [if_neg h, if_pos (by rw [pow_succ]; omega)]

theorem sx_mod (n v : Nat) : sx n (v % 2 ^ n) = sx n v := by simp [sx]

theorem ofInt_sx_bits (w : Word) : BitVec.ofInt 64 (sx 20 (bits w 19 0)) = BitVec.signExtend 64 (w.extractLsb 19 0) := by
  have h : bits w 19 0 = (w.extractLsb 19 0).toNat := by rw [BitVec.extractLsb_toNat]; rfl
  rw [h, sx_toNat]
  rfl

theorem memAddr_eq_scalarAddr (s : State) (c : Nat) (w : Word) : memAddr (readS (s.core c) (bits w 44 40)) w = scalarAddr s c w := by
  rw [memAddr, ofInt_sx_bits]
  rfl

theorem accessFault_of_fits {a size : Nat} (hr : a + size ≤ 0x80000) (ha : a % size = 0) : accessFault a size = none := by
  rw [accessFault, if_neg (by omega), if_neg (by omega)]

theorem loadValue_eq_ite (op : Nat) (d : Word) (a : Nat) : loadValue op d a =
    if op % 2 = 1 ∨ op = 6 then BitVec.ofNat 64 (d.toNat / 2 ^ (8 * (a % 8)) % 2 ^ (8 * 2 ^ (op / 2)))
    else BitVec.ofInt 64 (sx (8 * 2 ^ (op / 2)) (d.toNat / 2 ^ (8 * (a % 8)))) := by
  simp only [loadValue, ldSize, Nat.shiftRight_eq_div_pow, sx_mod]
  rfl

/-- Byte b of a word is its field [8b+7:8b] (R14). -/
theorem bits_byte (w : Word) (b : Nat) : bits w (8 * b + 7) (8 * b) = w.toNat / 2 ^ (8 * b) % 256 := by
  rw [bits, nbits, Nat.shiftRight_eq_div_pow, show 8 * b + 7 + 1 - 8 * b = 8 by omega]
  rfl

/-- Byte b of a word in which `size` bytes from byte a on are replaced. -/
theorem byte_mergeBytes (d x : Word) {a size b : Nat} (hs : 0 < size) (ha : a + size ≤ 8) (hb : b < 8) :
    (mergeBytes d x a size).toNat / 2 ^ (8 * b) % 256 =
      if a ≤ b ∧ b < a + size then x.toNat / 2 ^ (8 * (b - a)) % 256 else d.toNat / 2 ^ (8 * b) % 256 := by
  simp only [← bits_byte, mergeBytes]
  split_ifs with h
  · rw [bits_setBits_within _ _ (by omega) (by omega) (by omega) (by omega) (by omega), bits, show 8 * b + 7 - 8 * a = 8 * (b - a) + 7 by omega,
      show 8 * b - 8 * a = 8 * (b - a) by omega]
  · exact bits_setBits_ne _ _ _ _ _ _ (by omega) (by omega) (by omega)

/-! ### LD (R143) -/

theorem exec_ld (c : CoreId) (s : State) : exec (.ld c) s = .next (issue c.val 4 [0, 1, 2, 3, 4, 5, 6] (ldEff c.val) s) := rfl
theorem exec_st (c : CoreId) (s : State) : exec (.st c) s = .next (issue c.val 4 [8, 9, 10, 11] (stEff c.val) s) := rfl

theorem readWords_one {c j : Nat} {d : Word} {s : State} (h : Holds c j d s) : readWords c [j] s = .ok [d] s :=
  readWords_clean (fun _ => d) [j] fun _ hk => (List.mem_singleton.1 hk) ▸ h

section
variable {c : Nat} {w : Word} {s : State}

/-- A load in range and aligned, of a word that reads clean. -/
theorem ldEff_reads {d : Word} (hg : Goes c s) (ho : ownsBanks s c = true) (hr : scalarAddr s c w + ldSize (iOp w) ≤ 0x80000)
    (ha : scalarAddr s c w % ldSize (iOp w) = 0) (hd : Holds c (scalarAddr s c w / 8) d s) :
    ldEff c w s = doneS c (bits w 49 45) (loadValue (iOp w) d (scalarAddr s c w)) s := by
  simp only [ldEff, memAddr_eq_scalarAddr, accessFault_of_fits hr ha, ho, readWords_one hd, watch_noMatch _ hg.noMatch]
  rfl

end

theorem loadResult : Claims.LoadResult := by
  intro op hop c w d s h ho hr ha hd
  rw [exec_ld, issue_executes h (by simp; omega), ldEff_reads (d := d) h.goes ho (by rwa [h.opEq]) (by rwa [h.opEq]) hd, h.opEq, loadValue_eq_ite]
  exact ⟨_, rfl, finish_doneS h.goes⟩

/-! ### ST (R68, R143) -/

/-- The word that a store of `size` bytes leaves at its address, over the word d. -/
def storedWord (c : Nat) (w d : Word) (size : Nat) (s : State) : Word :=
  if size = 8 then opnd s c w 49 45 else mergeBytes d (opnd s c w 49 45) (scalarAddr s c w % 8) size

/-- A store in range and aligned, of a whole word or into one that reads clean. -/
theorem stEff_writes {c : Nat} {w d : Word} {s : State} (hg : Goes c s) (ho : ownsBanks s c = true) {n : Nat} (hn : n < 4) (hop : iOp w = 8 + n)
    (hr : scalarAddr s c w + 2 ^ n ≤ 0x80000) (ha : scalarAddr s c w % 2 ^ n = 0) (hd : n < 3 → Holds c (scalarAddr s c w / 8) d s) :
    stEff c w s = .done (writeWord c (scalarAddr s c w / 8) ⟨storedWord c w d (2 ^ n) s, false⟩ s) := by
  have hwatch : ∀ x, watch c 2 [scalarAddr s c w / 8] (writeWord c (scalarAddr s c w / 8) x s) = writeWord c (scalarAddr s c w / 8) x s := fun x =>
    watch_noMatch _ fun kind i => (wptMatch_congr c kind i rfl).trans (hg.noMatch kind i)
  simp only [stEff, memAddr_eq_scalarAddr, hop, Nat.add_sub_cancel_left, accessFault_of_fits hr ha, ho, hwatch, storedWord, opnd]
  by_cases h3 : n = 3
  · subst h3; rfl
  · have hne : ¬ 2 ^ n = 8 := fun e => h3 (Nat.pow_right_injective (le_refl 2) (show 2 ^ n = 2 ^ 3 from e))
    simp only [readWords_one (hd (by omega)), if_neg hne, List.getD_cons_zero, hwatch]
    rfl

/-- Byte b of the word that a store leaves: SD's where it is addressed, as it was elsewhere. -/
theorem byte_storedWord (c : Nat) (w d : Word) (s : State) {n b : Nat} (hn : n < 4) (hb : b < 8) (ha : scalarAddr s c w % 2 ^ n = 0) :
    (storedWord c w d (2 ^ n) s).toNat / 2 ^ (8 * b) % 256 =
      if scalarAddr s c w % 8 ≤ b ∧ b < scalarAddr s c w % 8 + 2 ^ n then (opnd s c w 49 45).toNat / 2 ^ (8 * (b - scalarAddr s c w % 8)) % 256
      else d.toNat / 2 ^ (8 * b) % 256 := by
  have hfit : scalarAddr s c w % 8 + 2 ^ n ≤ 8 := by
    interval_cases n <;> omega
  unfold storedWord
  split_ifs with h8 hin hin
  · rw [show scalarAddr s c w % 8 = 0 by omega, Nat.sub_zero]
  · exact absurd ⟨by omega, by omega⟩ hin
  · rw [byte_mergeBytes d _ (Nat.two_pow_pos n) hfit hb, if_pos hin]
  · rw [byte_mergeBytes d _ (Nat.two_pow_pos n) hfit hb, if_neg hin]

theorem storeResult : Claims.StoreResult := by
  intro n hn c w d s h ho hr ha hd
  rw [exec_st, issue_executes h (by simp; omega), stEff_writes h.goes ho hn h.opEq hr ha hd, writeWord]
  obtain ⟨honly, hcore⟩ := finish_done_modCore h.goes
    (f := fun k => { k with store := cwWrite k.store (scalarAddr s c.val w / 8) ⟨storedWord c.val w d (2 ^ n) s, false⟩ }) h.goes.watch
  refine ⟨_, storedWord c.val w d (2 ^ n) s, rfl, honly, ⟨by rw [hcore], fun i hi => ?_⟩, ?_, fun b hb => byte_storedWord c.val w d s hn hb ha⟩
  · rw [hcore]
    exact tfind_cwWrite_ne _ _ (Ne.symm hi)
  · rw [Holds, hcore]
    exact cwRead_cwWrite_self ..

/-- Settles O29: a load's value is that of the table by its OP, and a store leaves one word whose bytes are SD's where it is addressed. -/
theorem scalarMemory : Obligations.ScalarMemory := ⟨loadResult, storeResult⟩

end Sys2Proof.Machine
end

section
/-! SEND and SEND.MC: their checks at issue, and the local port's reading of the send queue (R84, R191 to R193, R197, R198, R201, R212, R315). -/

namespace Sys2Proof.Machine
open Sys2Proof.Claims

/-! ### Issue (R192, R193, R197, R201, R212) -/

theorem exec_send (c : CoreId) (s : State) : exec (.send c) s = .next (issue c.val 9 [0] (sendEff c.val) s) := rfl
theorem exec_sendMc (c : CoreId) (s : State) : exec (.sendMc c) s = .next (issue c.val 9 [1] (sendEff c.val) s) := rfl

section
variable {c op : Nat} {w : Word} {s : State}

/-- The checks of a send, each as what it says of the ranges, the alignment and the multicast entry. -/
theorem sendFault_eq_ite [Decidable (SendAligned c w s)] [Decidable (SendEntry c w s)] :
    sendFault s c w = if ∃ r ∈ sendRanges c w s, r.2 < r.1 + sendBytes c w s then some 0x0011
      else if ¬ SendAligned c w s then some 0x0012 else if ¬ SendEntry c w s then some 0x0014 else none := by
  refine if_congr ?ranges rfl (if_congr ?aligned rfl (if_congr ?entry rfl rfl))
  case ranges =>
    simp only [Bool.or_eq_true, Bool.and_eq_true, decide_eq_true_eq, beq_iff_eq, Bool.not_eq_true', beq_eq_false_iff_ne]
    change (0x80000 < (opnd s c w 27 23).toNat + sendBytes c w s ∨ _ ∧ 0x80000 < (opnd s c w 22 18).toNat + sendBytes c w s) ∨
      _ ∧ 0x2000000 < (opnd s c w 22 18).toNat + sendBytes c w s ↔ _
    unfold sendRanges
    split_ifs <;> simp <;> omega
  case aligned =>
    simp only [SendAligned, opnd, Bool.or_eq_true, Bool.and_eq_true, decide_eq_true_eq, beq_iff_eq, bne_iff_ne]
    omega
  case entry => simp [SendEntry]

/-- SEND and SEND.MC at issue: the first fault of those, a stall while 8 entries are queued, or an entry with the operands as they stand. -/
theorem sendEff_none (h : sendFault s c w = none) : sendEff c w s = if 8 ≤ (s.core c).sendq.length then .stall
    else .done (s.modCore c (fun k => { k with sendq := k.sendq ++ [⟨w, opnd s c w 27 23, opnd s c w 22 18, opnd s c w 17 13⟩] })) := by
  simp only [sendEff, h]
  rfl

theorem sendEff_some {cause : Nat} (h : sendFault s c w = some cause) : sendEff c w s = .trap 5 cause (wd (corePc s c)) s := by
  simp only [sendEff, h]

end

theorem sendIssue : Claims.SendIssue := by
  classical
  intro e he c w s h
  have hexec : exec (e.1 c) s = .next (finish c.val s (sendEff c.val w s)) := by
    rcases List.mem_pair.1 he with rfl | rfl
    · rw [exec_send, issue_executes h (List.mem_singleton_self _)]
    · rw [exec_sendMc, issue_executes h (List.mem_singleton_self _)]
  have hfault := sendFault_eq_ite (c := c.val) (w := w) (s := s)
  have hin : (∀ r ∈ sendRanges c.val w s, r.1 + sendBytes c.val w s ≤ r.2) → ¬ ∃ r ∈ sendRanges c.val w s, r.2 < r.1 + sendBytes c.val w s := by simp
  refine ⟨fun hr => ⟨fun ha => ⟨fun hent => ?queue, fun hent => ?entry⟩, fun ha => ?aligned⟩, fun hr => ?range⟩
  case queue =>
    rw [if_neg (hin hr), if_neg (not_not.2 ha), if_neg (not_not.2 hent)] at hfault
    rw [hexec, sendEff_none hfault]
    refine ⟨fun hlt => ?_, fun hfull => by rw [if_pos hfull]; rfl⟩
    rw [if_neg (by omega)]
    exact ⟨_, rfl, finish_done_modCore h.goes h.goes.watch⟩
  case entry =>
    rw [if_neg (hin hr), if_neg (not_not.2 ha), if_pos hent] at hfault
    rw [hexec, sendEff_some hfault]
    rfl
  case aligned =>
    rw [if_neg (hin hr), if_pos ha] at hfault
    rw [hexec, sendEff_some hfault]
    rfl
  case range =>
    rw [if_pos hr] at hfault
    rw [hexec, sendEff_some hfault]
    rfl

/-! ### Reading the queue (R84, R197, R198, R315) -/

/-- Words that their unit reads clean go out as they stand, and the reading leaves the state. -/
theorem outWords_clean {read : Nat → State → PWord × State} {s : State} (m : Nat → PWord) (g : Nat → Nat) (l : List Nat) (h : ∀ i ∈ l, read (g i) s = (m i, s)) :
    outWords read (l.map g) s = (l.map m, s) := by
  induction l with
  | nil => rfl
  | cons i l ih => simp [outWords, h i List.mem_cons_self, ih fun j hj => h j (List.mem_cons_of_mem _ hj)]

/-- A core-store word that reads clean goes out of the core as it stands. -/
theorem outWord_clean {c i : Nat} {d : Word} {s : State} (hi : i < 65536) (h : Holds c i d s) : outWord c i s = (⟨d, false⟩, s) := by
  simp only [outWord, if_neg (Nat.not_le.2 hi), show cwRead (s.core c).store i = .clean ⟨d, false⟩ from h]

theorem sendHead_modCore (s : State) (c d : Nat) (f : Core → Core) (op : SendOp) : sendHead (s.modCore d f) c op = sendHead s c op := rfl

/-- A SEND.MC's packets are multicasts, a SEND's are not (R189, R190). -/
theorem typ_sendHead_eq_iff (s : State) (c : Nat) (op : SendOp) : (sendHead s c op).typ = 0x10 ↔ iOp op.word = 1 := by
  simp only [sendHead, beq_iff_eq]
  split_ifs <;> simp_all

/-- The sender's packets of a transfer whose words are ws: a multicast stays on the core mesh, another packet is injected. -/
theorem injectS_sendHead (s t : State) (c a : Nat) (op : SendOp) (l : Bool) (ws : List PWord) :
    sendHeadOfQueue.injectS { sendHead s c op with daddr := a, lastp := l, body := ws } t =
      if iOp op.word = 1 then t.send { sendHead s c op with daddr := a, lastp := l, body := ws }
      else injectPkt { sendHead s c op with daddr := a, lastp := l, body := ws } t :=
  if_congr (typ_sendHead_eq_iff s c op) rfl rfl

theorem exec_sendRead (c : CoreId) {s : State} (h : coreWindow s c.val = false ∨ coreLate s c.val = true) (hc : computeOn s (fieldOf c.val) = true) :
    exec (.sendRead c) s = .next (sendHeadOfQueue c.val s) := by
  have hcond : ((!coreWindow s c.val || coreLate s c.val) && computeOn s (fieldOf c.val)) = true := by simpa [hc] using h
  exact if_pos hcond

theorem sendHeadOfQueue_reads : Claims.SendReads := by
  intro c s op rest m hq hw hc h64 hfit hclean sent hsent
  have hread : outWords (outWord c.val) ((List.range (8 * (bits op.sctl 33 24 + 1))).map (· + op.ssrc.toNat / 8)) (s.modCore c.val fun k => { k with sendq := rest }) =
      ((List.range (8 * (bits op.sctl 33 24 + 1))).map (fun i => (⟨m i, false⟩ : PWord)), s.modCore c.val fun k => { k with sendq := rest }) := by
    refine outWords_clean _ _ _ fun i hi => outWord_clean ?_ ?_
    · have := List.mem_range.1 hi
      omega
    · rw [Holds, State.core_modCore_self]
      exact hclean i (List.mem_range.1 hi)
  rw [exec_sendRead c hw hc]
  simp only [sendHeadOfQueue, hq, hread, sendHead_modCore, injectS_sendHead]
  rw [hsent]
  rfl

/-- Settles O34: the checks at issue are the statement's conditions in its order, and clean words leave as the cut bodies under one head. -/
theorem sends : Obligations.Sends := ⟨sendIssue, sendHeadOfQueue_reads⟩

end Sys2Proof.Machine
end

section
/-! What an error report changes: the registers of the error domains and of the night log, and with containment CORE_STAT, CORE_CTL and FLD_STAT; the other registers of a core's window stay (R51, R126, R616 to R624, R635, R756). -/

namespace Sys2Proof.Machine
open Sys2Proof.Claims

/-! ### Registers of a core's window beside the others (R756) -/

theorem coreIdx_lt (c : Nat) : coreIdx c < 960 := by unfold coreIdx; omega

/-- A core's window lies beyond the registers of every field block. -/
theorem fieldReg_ne_coreReg (f c : Nat) {a o : Nat} (ha : a < 0x10000) (ho : o < 0x800) : fieldBase f + a ≠ coreWin c + o := by
  have := coreIdx_lt c
  unfold coreWin fieldBase
  omega

theorem lt_coreReg (c o : Nat) : 0x1000000 < coreWin c + o := by
  unfold coreWin fieldBase
  omega

theorem coreReg_ne_of_offset (c d : Nat) {a o : Nat} (ha : a < 0x800) (ho : o < 0x800) (h : a ≠ o) : coreWin d + a ≠ coreWin c + o := by
  unfold coreWin fieldBase
  omega

theorem errBase_ne_coreReg (d : Dom) (c : Nat) {a o : Nat} (ha : a ≤ 0x40) (ho : o < 0x100 ∨ 0x140 < o) (h8 : o < 0x800) : errBase d + a ≠ coreWin c + o := by
  cases d with
  | core e => exact (Nat.add_assoc ..).trans_ne (coreReg_ne_of_offset c e.val (a := 0x100 + a) (by omega) h8 (by omega))
  | field f => exact (Nat.add_assoc ..).trans_ne (fieldReg_ne_coreReg f.val c (a := 0x500 + a) (by omega) h8)
  | limb l =>
    have := lt_coreReg c o
    simp only [errBase, limbBase]
    omega
  | module =>
    have := lt_coreReg c o
    simp only [errBase]
    omega

/-! ### Night-log records -/

/-- A record that enters a queue changes the queues and registers alone. -/
theorem ringPush_rest (r : Ring) (body : List Word) (s : State) : ringPush r body s = { s with regs := (ringPush r body s).regs, rings := (ringPush r body s).rings } := by
  unfold ringPush
  dsimp only
  split <;> rfl

theorem nlog_rest (kind cls dk unit code rep loc : Nat) (a b x : Word) (s : State) :
    nlog kind cls dk unit code rep loc a b x s =
      { s with regs := (nlog kind cls dk unit code rep loc a b x s).regs, rings := (nlog kind cls dk unit code rep loc a b x s).rings } := ringPush_rest ..

theorem rd_ringPush_ne {r : Ring} {off : Nat} (body : List Word) (s : State) (hh : r.head ≠ off) (hs : r.stat ≠ off) : (ringPush r body s).rd off = s.rd off := by
  unfold ringPush State.satFld
  dsimp only
  split <;> simp only [State.rd_setFld_ne _ _ _ _ hs, State.rd_wr_ne _ _ hh] <;> rfl

/-- A record takes the next SEQ (R635). -/
theorem rd_ringPush_head {r : Ring} (body : List Word) (s : State) (h : r.stat ≠ r.head) : (ringPush r body s).rd r.head = s.rd r.head + 1 := by
  unfold ringPush State.satFld
  dsimp only
  split <;> simp only [State.rd_setFld_ne _ _ _ _ h, State.rd_wr_self]

section
variable (kind cls dk unit code rep loc : Nat) (a b x : Word) (s : State)

theorem rd_nlog_ne {off : Nat} (h : off < 0x8108 ∨ 0x8118 < off) : (nlog kind cls dk unit code rep loc a b x s).rd off = s.rd off :=
  rd_ringPush_ne _ s (by simp only [ringNlog]; omega) (by simp only [ringNlog]; omega)

theorem rd_nlog_head : (nlog kind cls dk unit code rep loc a b x s).rd ringNlog.head = s.rd ringNlog.head + 1 := rd_ringPush_head _ s (by decide)

theorem cores_nlog : (nlog kind cls dk unit code rep loc a b x s).cores = s.cores := by rw [nlog_rest]
theorem core_nlog (c : Nat) : (nlog kind cls dk unit code rep loc a b x s).core c = s.core c := by rw [State.core, cores_nlog]; rfl
theorem tally_nlog : (nlog kind cls dk unit code rep loc a b x s).tally = s.tally := by rw [nlog_rest]

end

/-! ### A core's window through the recording of an error (R619 to R624) -/

theorem rd_wr4_ne {off q : Nat} (ws : List Word) (s : State) (h : ∀ k ≤ 24, off + k ≠ q) : (wr4 off ws s).rd q = s.rd q := by
  simp only [wr4, State.rd_wr_ne _ _ (h 24 (by omega)), State.rd_wr_ne _ _ (h 16 (by omega)), State.rd_wr_ne _ _ (h 8 (by omega)), State.rd_wr_ne _ _ (show off ≠ q from h 0 (by omega))]

theorem rd_satFld_ne {off q : Nat} (hi lo n : Nat) (s : State) (h : off ≠ q) : (s.satFld off hi lo n).rd q = s.rd q := State.rd_setFld_ne _ _ _ _ h

theorem rd_faultPin_ne {q : Nat} (s : State) (h : rModFault ≠ q) : (faultPin s).rd q = s.rd q := State.rd_setFld_ne _ _ _ _ h

section
variable {c o : Nat} (s : State)

theorem rd_coreReg_nlog (kind cls dk unit code rep loc : Nat) (a b x : Word) : (nlog kind cls dk unit code rep loc a b x s).rd (coreWin c + o) = s.rd (coreWin c + o) := by
  have := lt_coreReg c o
  exact rd_nlog_ne _ _ _ _ _ _ _ _ _ _ _ (by omega)

variable (h8 : o < 0x800)
include h8

theorem rd_coreReg_errMaps (d : Dom) (st : Nat) : (errMaps d st s).rd (coreWin c + o) = s.rd (coreWin c + o) := by
  have := lt_coreReg c o
  unfold errMaps
  cases d with
  | core e =>
    have := coreIdx_lt e.val
    exact State.rd_setFld_ne _ _ _ _ ((Nat.add_assoc ..).trans_ne (fieldReg_ne_coreReg _ c (a := 0x580 + 8 * (coreIdx e.val / 64)) (by omega) h8))
  | field f =>
    dsimp only
    split
    · exact State.rd_setFld_ne _ _ _ _ (show 0x8090 ≠ coreWin c + o by omega)
    · exact State.rd_setFld_ne _ _ _ _ (show 0x8098 ≠ coreWin c + o by omega)
  | limb l => exact State.rd_setFld_ne _ _ _ _ (show 0x8098 ≠ coreWin c + o by omega)
  | module => rfl

variable (ho : o < 0x100 ∨ 0x140 < o)
include ho

theorem rd_coreReg_errRefresh (d : Dom) : (errRefresh d s).rd (coreWin c + o) = s.rd (coreWin c + o) :=
  (rd_coreReg_errMaps _ h8 d _).trans (State.rd_setFld_ne _ _ _ _ (errBase_ne_coreReg d c (Nat.zero_le _) ho h8))

theorem rd_coreReg_takeRecord (d : Dom) {a : Nat} (ha : a = 0x8 ∨ a = 0x28) (cls unit cause : Nat) (info : Word) :
    (takeRecord d (errBase d + a) cls unit cause info s).rd (coreWin c + o) = s.rd (coreWin c + o) :=
  (rd_coreReg_nlog ..).trans (rd_wr4_ne _ _ fun k hk => (Nat.add_assoc ..).trans_ne (errBase_ne_coreReg d c (by omega) ho h8))

theorem rd_coreReg_moduleEscalate (unit cause : Nat) : (moduleEscalate unit cause s).rd (coreWin c + o) = s.rd (coreWin c + o) := by
  have hb := errBase_ne_coreReg .module c (Nat.zero_le 0x40) ho h8
  have hf : rModFault ≠ coreWin c + o := by
    have := lt_coreReg c o
    unfold rModFault
    omega
  unfold moduleEscalate
  split
  · exact rd_satFld_ne _ _ _ _ hb
  · rw [rd_coreReg_errRefresh _ h8 ho, rd_coreReg_nlog, rd_faultPin_ne _ hf, State.rd_setFld_ne _ _ _ _ hf]

theorem rd_coreReg_recordError (d : Dom) (cls unit cause : Nat) (info : Word) : (recordError d cls unit cause info s).rd (coreWin c + o) = s.rd (coreWin c + o) := by
  have hb : errBase d ≠ coreWin c + o := errBase_ne_coreReg d c (Nat.zero_le 0x40) ho h8
  have ha := errBase_ne_coreReg d c (show 0x8 ≤ 0x40 by decide) ho h8
  have hp := errBase_ne_coreReg d c (show 0x28 ≤ 0x40 by decide) ho h8
  unfold recordError
  dsimp only
  split_ifs
  · exact rd_satFld_ne _ _ _ _ ha
  · exact rd_satFld_ne _ _ _ _ hp
  · rw [rd_coreReg_errRefresh _ h8 ho, rd_coreReg_takeRecord _ h8 ho d (.inl rfl)]
  · rw [rd_coreReg_errRefresh _ h8 ho, rd_coreReg_takeRecord _ h8 ho d (.inr rfl)]
  · rw [rd_coreReg_errRefresh _ h8 ho, rd_coreReg_takeRecord _ h8 ho d (.inr rfl), rd_satFld_ne _ _ _ _ hb]
  · rw [rd_coreReg_nlog, rd_satFld_ne _ _ _ _ hb]
  · cases d with
    | module => exact rd_coreReg_moduleEscalate _ h8 ho unit cause
    | core e => exact State.rd_setFld_ne _ _ _ _ hb
    | field f => exact State.rd_setFld_ne _ _ _ _ hb
    | limb l => exact State.rd_setFld_ne _ _ _ _ hb

end

/-! ### A core's window through the containment of an error (R120, R126, R616, R622) -/

theorem forEach_induction {α : Type} {P : α → Prop} {f : Nat → α → α} (hf : ∀ n t, P t → P (f n t)) (l : List Nat) {s : α} (h : P s) : P (forEach l f s) := by
  unfold forEach
  exact List.foldlRecOn l _ h fun t ht n _ => hf n t ht

section
variable {c o : Nat} (s : State) (h8 : o < 0x800) (ho : 0x18 ≤ o)
include h8 ho

theorem rd_coreReg_enterHalt (d st : Nat) : (enterHalt d st s).rd (coreWin c + o) = s.rd (coreWin c + o) := by
  have hs : rCoreStat d ≠ coreWin c + o := coreReg_ne_of_offset c d (by decide) h8 (by omega)
  have hc : rCoreCtl d ≠ coreWin c + o := coreReg_ne_of_offset c d (by decide) h8 (by omega)
  simp only [enterHalt, State.rd_modCore, State.rd_setFld_ne _ _ _ _ hs, State.rd_setFld_ne _ _ _ _ hc]

theorem rd_coreReg_reqHalt (d st : Nat) : (reqHalt d st s).rd (coreWin c + o) = s.rd (coreWin c + o) := by
  unfold reqHalt
  split_ifs
  · rfl
  · exact rd_coreReg_enterHalt s h8 ho d _
  · rfl

theorem rd_coreReg_quiesceField (f : Nat) : (quiesceField f s).rd (coreWin c + o) = s.rd (coreWin c + o) :=
  forEach_induction (P := fun t => t.rd (coreWin c + o) = s.rd (coreWin c + o)) (fun d t ht => (rd_coreReg_reqHalt t h8 ho d 7).trans ht) _
    (State.rd_setFld_ne _ _ _ _ (fieldReg_ne_coreReg f c (a := 0x8) (by decide) h8))

theorem rd_coreReg_contain (d : Dom) : (contain d s).rd (coreWin c + o) = s.rd (coreWin c + o) := by
  cases d with
  | core e => exact (rd_coreReg_quiesceField _ h8 ho _).trans (rd_coreReg_reqHalt s h8 ho _ 6)
  | field f => exact rd_coreReg_quiesceField s h8 ho f.val
  | limb l => rfl
  | module =>
    exact forEach_induction (P := fun t => t.rd (coreWin c + o) = s.rd (coreWin c + o)) (fun f t ht => (rd_coreReg_quiesceField t h8 ho f).trans ht) _ rfl

end

/-- An error that reaches a domain leaves the registers of every core's window but CORE_ID, CORE_CTL, CORE_STAT and the error records (R126, R616, R621). -/
theorem rd_coreReg_raise {c o : Nat} (s : State) (h8 : o < 0x800) (h18 : 0x18 ≤ o) (ho : o < 0x100 ∨ 0x140 < o) (d : Dom) (cls unit cause : Nat) (info : Word) :
    (raise d cls unit cause info s).rd (coreWin c + o) = s.rd (coreWin c + o) := by
  have hfatal : ∀ t, (enterFatal t).rd (coreWin c + o) = t.rd (coreWin c + o) := fun t => by
    have hf : rModFault ≠ coreWin c + o := by
      have := lt_coreReg c o
      unfold rModFault
      omega
    rw [enterFatal, rd_coreReg_errRefresh _ h8 ho, rd_faultPin_ne _ hf, State.rd_setFld_ne _ _ _ _ hf]
  have hrec := rd_coreReg_recordError (c := c) s h8 ho d cls unit cause info
  have hcon := fun t e => rd_coreReg_contain (c := c) t h8 h18 e
  unfold raise
  dsimp only
  split_ifs <;> simp only [hcon, hfatal, hrec]

end Sys2Proof.Machine
end

section
/-! The halts that a core takes by itself, its limits, and the reports of a domain to its parent (R57, R59, R73, R108, R120, R126 to R129, R618, R624, R630). -/

namespace Sys2Proof.Machine
open Sys2Proof.Claims

/-! ### Halts (R59, R120, R126) -/

section
variable {c : CoreId} {s : State}

theorem exec_haltTaken {st : Nat} (hh : (s.core c.val).haltTo = some st) (ha : arrayBusy (s.core c.val) = false) :
    exec (.haltTaken c) s = .next (admitHeld c.val (enterHalt c.val st s)) := by
  change execHaltTaken c s = _
  simp [execHaltTaken, hh, ha]

theorem exec_breakpointHit (hst : coreSt s c.val = 1) (hh : (s.core c.val).haltTo = none) (hb : atBreakpoint s c.val = true) :
    exec (.breakpointHit c) s = .next (admitHeld c.val (reqHalt c.val 5 s)) := if_pos ⟨hst, hh, hb⟩

end

/-- A halt that is entered at a port that holds nothing. -/
theorem enterHalt_admits {c st : Nat} {s : State} (hheld : (s.core c).held = []) (hst : st < 8) :
    coreSt (admitHeld c (enterHalt c st s)) c = st ∧ corePc (admitHeld c (enterHalt c st s)) c = corePc s c ∧ (admitHeld c (enterHalt c st s)).fld (rCoreCtl c) 2 0 = 0 ∧
      (admitHeld c (enterHalt c st s)).core c = { s.core c with haltTo := none, wait := none, wptHit := false } ∧
      OnlyAt c [rCoreStat c, rCoreCtl c] s (admitHeld c (enterHalt c st s)) := by
  have hcore := core_enterHalt c s st
  have hsame := sameCores_admitHeld (c := c) ((congrArg Core.held hcore).trans hheld)
  exact ⟨(hsame.fld ..).trans (coreSt_enterHalt _ _ hst), (hsame.fld ..).trans (corePc_enterHalt ..), (hsame.fld ..).trans (coreCtl_enterHalt ..),
    (hsame.core _).trans hcore, onlyAt_of_sameCores (onlyAt_enterHalt (onlyAt_refl ..) st) hsame⟩

theorem haltsTaken : Claims.HaltsTaken := by
  intro c s ha hheld
  refine ⟨fun st hh hst => ⟨_, exec_haltTaken hh ha, enterHalt_admits hheld hst⟩, fun hh hst hb => ?_⟩
  have hrun : coreRunning s c.val = true := by simp [coreRunning, hst]
  rw [exec_breakpointHit hst hh hb, reqHalt_eq_enterHalt hrun ha hh]
  have := enterHalt_admits (st := 5) hheld (by decide)
  rw [← hh] at this
  exact ⟨_, rfl, this⟩

/-! ### A new error record (R620, R621) -/

/-- Word 0 of a new record: V, CLASS and CAUSE (R620). -/
theorem newRecord_word0 (d : Dom) {cls unit cause : Nat} (info : Word) (s : State) (hcls : cls < 4) (hunit : unit < 256) (hcause : cause < 65536) :
    recV ((newRecord d cls unit cause info s).getD 0 0) = true ∧ recClass ((newRecord d cls unit cause info s).getD 0 0) = cls ∧
      bits ((newRecord d cls unit cause info s).getD 0 0) 47 32 = cause := by
  have hatt : attempts s < 256 := nbits_lt _ 31 24
  have hd : dkind d < 4 := by cases d <;> simp [dkind]
  simp only [newRecord, List.getD_cons_zero, recV, recClass, bit, bits, nbits, wd, BitVec.toNat_ofNat, Nat.shiftRight_eq_div_pow, Nat.testBit_eq_decide_div_mod_eq, decide_eq_true_eq]
  refine ⟨?_, ?_, ?_⟩ <;> omega

section
variable {d : Dom} {s : State}

/-- An error that reaches a domain without a record takes its ACTIVE record (R621). -/
theorem recordError_of_empty (h : Empty d s) (cls unit cause : Nat) (info : Word) :
    recordError d cls unit cause info s = errRefresh d (takeRecord d (errBase d + 0x8) cls unit cause info s) := by
  obtain ⟨ha, hp⟩ := h
  simp [recordError, repeats, ha, hp]

end

theorem errBase_core (c : CoreId) (a : Nat) : errBase (.core c) + a = coreWin c.val + (0x100 + a) := Nat.add_assoc ..

/-- The registers of a core's window but ERR_STAT are as the record left them once ERR_STAT follows it (R619). -/
theorem rd_errRefresh_core (c : CoreId) (s : State) {o : Nat} (h8 : o < 0x800) (ho : o ≠ 0x100) : (errRefresh (.core c) s).rd (coreWin c.val + o) = s.rd (coreWin c.val + o) :=
  (rd_coreReg_errMaps _ h8 _ _).trans (State.rd_setFld_ne _ _ _ _ (coreReg_ne_of_offset _ _ (by decide) h8 (Ne.symm ho)))

/-- Recording an error at a core's empty domain leaves the registers below the field blocks but the night log's. -/
theorem rd_recordError_core_low {c : CoreId} {s : State} (h : Empty (.core c) s) (cls unit cause : Nat) (info : Word) {q : Nat} (hq : q < 0x8108) :
    (recordError (.core c) cls unit cause info s).rd q = s.rd q := by
  have hfield : ∀ f a, fieldBase f + a ≠ q := fun f a => by unfold fieldBase; omega
  have hbase : ∀ a, errBase (.core c) + a ≠ q := fun a => by
    have := lt_coreReg c.val (0x100 + a)
    rw [errBase_core]
    omega
  rw [recordError_of_empty h]
  exact (State.rd_setFld_ne _ _ _ _ ((Nat.add_assoc ..).trans_ne (hfield _ _))).trans <| (State.rd_setFld_ne _ _ _ _ (hbase 0)).trans <|
    (rd_nlog_ne _ _ _ _ _ _ _ _ _ _ _ (.inl hq)).trans (rd_wr4_ne _ _ fun k _ => (Nat.add_assoc ..).trans_ne (hbase _))

/-- A deferred error is recorded, and that is all (R616, R621). -/
theorem raise_deferred_core {c : CoreId} {s : State} (h : Empty (.core c) s) (unit cause : Nat) (info : Word) :
    raise (.core c) 1 unit cause info s = recordError (.core c) 1 unit cause info s := by
  have hf : fatal (recordError (.core c) 1 unit cause info s) = fatal s := by
    rw [fatal, State.flag, rd_recordError_core_low h _ _ _ _ (show rModFault < 0x8108 by decide)]
    rfl
  simp [raise, hf]

theorem cores_errRefresh_core (c : CoreId) (s : State) : (errRefresh (.core c) s).cores = s.cores := rfl

theorem cores_takeRecord (d : Dom) (off cls unit cause : Nat) (info : Word) (s : State) : (takeRecord d off cls unit cause info s).cores = s.cores := cores_nlog ..

theorem rd_wr4_first (off : Nat) (ws : List Word) (s : State) : (wr4 off ws s).rd off = ws.getD 0 0 := by
  simp only [wr4, State.rd_wr_ne _ _ (show off + 24 ≠ off by omega), State.rd_wr_ne _ _ (show off + 16 ≠ off by omega), State.rd_wr_ne _ _ (show off + 8 ≠ off by omega),
    State.rd_wr_self]

theorem rd_wr4_last (off : Nat) (ws : List Word) (s : State) : (wr4 off ws s).rd (off + 24) = ws.getD 3 0 := State.rd_wr_self ..

/-- The record that a deferred error leaves at a core's domain: V, CLASS 1, CAUSE and INFO, the core's records and CORE_STAT as before (R620). -/
theorem raise_deferred_core_spec {c : CoreId} {s : State} (h : Empty (.core c) s) {unit cause : Nat} (info : Word) (hunit : unit < 256) (hcause : cause < 65536) :
    (raise (.core c) 1 unit cause info s).rd (rCoreStat c.val) = s.rd (rCoreStat c.val) ∧ (raise (.core c) 1 unit cause info s).cores = s.cores ∧
      recV ((raise (.core c) 1 unit cause info s).rd (errBase (.core c) + 8)) = true ∧ recClass ((raise (.core c) 1 unit cause info s).rd (errBase (.core c) + 8)) = 1 ∧
      (raise (.core c) 1 unit cause info s).fld (errBase (.core c) + 8) 47 32 = cause ∧ (raise (.core c) 1 unit cause info s).rd (errBase (.core c) + 0x20) = info := by
  rw [raise_deferred_core h]
  have hstat := rd_coreReg_recordError (c := c.val) (o := 0x10) s (by decide) (.inl (by decide)) (.core c) 1 unit cause info
  rw [recordError_of_empty h] at hstat ⊢
  have hword : (errRefresh (.core c) (takeRecord (.core c) (errBase (.core c) + 0x8) 1 unit cause info s)).rd (errBase (.core c) + 8) =
      (newRecord (.core c) 1 unit cause info s).getD 0 0 := by
    conv_lhs => rw [errBase_core]
    rw [rd_errRefresh_core c _ (by decide) (by decide), takeRecord, rd_coreReg_nlog, ← errBase_core, rd_wr4_first]
  have hinfo : (errRefresh (.core c) (takeRecord (.core c) (errBase (.core c) + 0x8) 1 unit cause info s)).rd (errBase (.core c) + 0x20) = info := by
    rw [errBase_core c 0x20, rd_errRefresh_core c _ (by decide) (by decide), takeRecord, rd_coreReg_nlog, ← errBase_core]
    exact rd_wr4_last (errBase (.core c) + 8) _ s
  obtain ⟨hV, hC, hcau⟩ := newRecord_word0 (.core c) info s (show 1 < 4 by decide) hunit hcause
  exact ⟨hstat, (cores_errRefresh_core c _).trans (cores_takeRecord ..), by rw [hword, hV], by rw [hword, hC], by rw [State.fld, hword, hcau], hinfo⟩

/-! ### The limits (R57, R108, R127 to R129) -/

theorem domCore_val (c : CoreId) : domCore c.val = .core c := by simp [domCore]

section
variable {c : CoreId} {s : State}

theorem exec_sequencerWatchdog (hst : coreSt s c.val = 1) (hl : s.flag (rCoreCtl c.val) 4 = true) (ha : arrayBusy (s.core c.val) = false) :
    exec (.sequencerWatchdog c) s = .next (raise (.core c) 2 0 0x0009 (wd (corePc s c.val)) s) := by
  rw [← domCore_val]
  exact if_pos ⟨hst, hl, ha⟩

/-- A core whose wait is marked as beyond its limit (R108). -/
def markLongWait (c : Nat) (s : State) : State := (s.setFld (rCoreStat c) 48 48 1).modCore c (fun k => { k with longRec := true })

theorem exec_waitLimitExceeded (hst : coreSt s c.val = 2 ∨ coreSt s c.val = 3) (hl : s.flag (rCoreCtl c.val) 4 = true) (hr : (s.core c.val).longRec = false) :
    exec (.waitLimitExceeded c) s = .next (raise (.core c) 1 0 0x0006 (wd (corePc s c.val)) (markLongWait c.val s)) := by
  rw [← domCore_val]
  exact if_pos ⟨hst, hl, hr⟩

theorem empty_markLongWait (h : Empty (.core c) s) : Empty (.core c) (markLongWait c.val s) := by
  have hne : ∀ a, rCoreStat c.val ≠ errBase (.core c) + a := fun a => by
    rw [errBase_core]
    unfold rCoreStat
    omega
  unfold Claims.Empty markLongWait
  rwa [State.rd_modCore, State.rd_modCore, State.rd_setFld_ne _ _ _ _ (hne _), State.rd_setFld_ne _ _ _ _ (hne _)]

theorem waitLimitExceeded_spec (hst : coreSt s c.val = 2 ∨ coreSt s c.val = 3) (hl : s.flag (rCoreCtl c.val) 4 = true) (hr : (s.core c.val).longRec = false)
    (he : Empty (.core c) s) : ∃ t, exec (.waitLimitExceeded c) s = .next t ∧ t.flag (rCoreStat c.val) 48 = true ∧ coreSt t c.val = coreSt s c.val ∧
      corePc t c.val = corePc s c.val ∧ t.core c.val = { s.core c.val with longRec := true } ∧ recV (t.rd (errBase (.core c) + 8)) = true ∧
      recClass (t.rd (errBase (.core c) + 8)) = 1 ∧ t.fld (errBase (.core c) + 8) 47 32 = 0x0006 ∧ t.rd (errBase (.core c) + 0x20) = wd (corePc s c.val) := by
  obtain ⟨hstat, hcores, hrec⟩ := raise_deferred_core_spec (empty_markLongWait he) (unit := 0) (cause := 0x0006) (wd (corePc s c.val)) (by decide) (by decide)
  have hfld : ∀ hi lo, hi < 48 → (markLongWait c.val s).fld (rCoreStat c.val) hi lo = s.fld (rCoreStat c.val) hi lo := fun hi lo hlt => by
    rw [markLongWait, State.fld_modCore, State.fld_setFld_ne _ _ _ _ _ _ _ _ (by decide) (by decide) (.inr (.inl hlt))]
  refine ⟨_, exec_waitLimitExceeded hst hl hr, ?_, ?_, ?_, ?_, hrec⟩
  · rw [State.flag, hstat]
    exact State.flag_setFld_mem _ _ 48 48 1 48 (by decide) (by decide) (by decide)
  · rw [coreSt, State.fld, hstat]
    exact hfld 2 0 (by decide)
  · rw [corePc, State.fld, hstat]
    exact hfld 20 8 (by decide)
  · rw [State.core, hcores]
    exact State.core_modCore_self _ c.val _

end

/-- The register of a core whose counter wraps: CORE_CNT_BUSY or CORE_CNT_WAIT (R57). -/
def wrapReg (c : Nat) (busy : Bool) : Nat := if busy then rCoreBusy c else rCoreWait c

theorem exec_counterWrap (c : CoreId) (busy : Bool) (s : State) : exec (.counterWrap c busy) s =
    .next (nlogEvent 0 0x1004 (locOf (.core c)) (wd (wrapReg c.val busy)) (wd (satAdd 16 (s.fld (wrapReg c.val busy) 63 48) 1))
      ((s.setFld (wrapReg c.val busy) 63 48 (satAdd 16 (s.fld (wrapReg c.val busy) 63 48) 1)).setFld (wrapReg c.val busy) 47 0 0)) := rfl

theorem counterWrap_spec (c : CoreId) (busy : Bool) (s : State) : ∃ t, exec (.counterWrap c busy) s = .next t ∧ t.fld (wrapReg c.val busy) 47 0 = 0 ∧
    t.fld (wrapReg c.val busy) 63 48 = min (s.fld (wrapReg c.val busy) 63 48 + 1) 65535 ∧ t.rd ringNlog.head = s.rd ringNlog.head + 1 ∧ t.cores = s.cores := by
  obtain ⟨o, ho⟩ : ∃ o, wrapReg c.val busy = coreWin c.val + o := by
    cases busy
    · exact ⟨0x40, rfl⟩
    · exact ⟨0x48, rfl⟩
  have hlow : wrapReg c.val busy ≠ ringNlog.head := by
    have := lt_coreReg c.val o
    simp only [ho, ringNlog]
    omega
  have hrd : ∀ t a b, (nlogEvent 0 0x1004 (locOf (.core c)) a b t).rd (wrapReg c.val busy) = t.rd (wrapReg c.val busy) := fun t a b => by
    rw [ho, nlogEvent, rd_coreReg_nlog]
  refine ⟨_, exec_counterWrap c busy s, ?_, ?_, ?_, cores_nlog ..⟩
  · rw [State.fld, hrd]
    exact (State.fld_setFld_self _ _ _ _ _ (by decide) (by decide))
  · rw [State.fld, hrd]
    refine (State.fld_setFld_ne _ _ _ _ _ _ _ _ (by decide) (by decide) (.inr (.inr (by decide)))).trans ?_
    exact State.fld_satFld_self s _ 63 48 1 (by decide) (by decide)
  · rw [nlogEvent, rd_nlog_head, State.rd_setFld_ne _ _ _ _ hlow, State.rd_setFld_ne _ _ _ _ hlow]

theorem coreLimits : Claims.CoreLimits := fun c s => ⟨exec_sequencerWatchdog, waitLimitExceeded_spec, fun busy => counterWrap_spec c busy s⟩

/-- Settles O36: a halt is entered at once where the array is at rest; the limits are one error record, and a wrap one night-log record. -/
theorem coreHalts : Obligations.CoreHalts := ⟨haltsTaken, coreLimits⟩

/-! ### Reports to the parent (R618, R624, R630) -/

theorem exec_escalationArrival {d : Dom} {s : State} (h : 0 < tget 0 s.escOut (domKey d)) : exec (.escalationArrival d) s =
    .next (raise (parentOf d) 2 0xFF 0x0FF0 (wd (dkind d * 2 ^ 17 + locOf d)) { s with escOut := tset s.escOut (domKey d) (tget 0 s.escOut (domKey d) - 1) }) :=
  if_neg h.ne'

theorem exec_correctedBatch {d : Dom} {s : State} (h0 : 0 < s.fld rModErrCfg 15 0) (h : s.fld rModErrCfg 15 0 ≤ tget 0 s.tally (domKey d)) : exec (.correctedBatch d) s =
    .next (nlogEvent (dkind d) 0x1007 (locOf d) (wd (tget 0 s.tally (domKey d))) 0 { s with tally := tset s.tally (domKey d) 0 }) :=
  if_pos (by simp [h, h0.ne'])

theorem exec_limbHoldEnd (l : LimbId) (s : State) : exec (.limbHoldEnd l) s = .next s := rfl

theorem escalationAndTally : Claims.EscalationAndTally := by
  refine fun d s => ⟨fun h => ⟨_, exec_escalationArrival h, tget_tset_self .., rfl⟩, fun h0 h => ⟨_, exec_correctedBatch h0 h, ?_, rd_nlog_head .., fun e he => ?_, cores_nlog ..⟩,
    fun l => exec_limbHoldEnd l s⟩
  · rw [nlogEvent, tally_nlog]
    exact tget_tset_self ..
  · rw [nlogEvent, tally_nlog]
    exact tget_tset_ne _ _ _ he.symm

/-! ### Write-back (R73) -/

/-- A core's record once the codeword `fixed` is written back at a word of its instruction store or its store. -/
def writtenBack (instr : Bool) (word : Nat) (fixed : Codeword) (k : Core) : Core :=
  { k with wbq := k.wbq.filter (fun q => q != (instr, word))
           istore := if instr then tset k.istore word fixed else k.istore
           store := if instr then k.store else tset k.store word fixed }

theorem exec_correctedWriteback {c : CoreId} {instr : Bool} {word : Nat} {s : State} {w fixed : Codeword} {d : PWord} (hq : (instr, word) ∈ (s.core c.val).wbq)
    (hw : tfind (if instr then (s.core c.val).istore else (s.core c.val).store) word = some w) (hd : eccDecode w word = .corrected d fixed) :
    exec (.correctedWriteback c instr word) s = .next (s.modCore c.val (writtenBack instr word fixed)) := by
  have hin : (s.core c.val).wbq.contains (instr, word) = true := List.contains_iff_mem.2 hq
  change execCorrectedWriteback c instr word s = _
  simp only [execCorrectedWriteback, hin, hw, hd, if_true]
  cases instr <;> rfl

theorem correctedWriteBack : Claims.CorrectedWriteBack := by
  intro c instr word s w fixed d hq hw hd
  refine ⟨_, exec_correctedWriteback hq hw hd, ?_, ?_, fun j hj => ?_, ?_, onlyAt_modCore (onlyAt_refl ..) _⟩ <;> rw [State.core_modCore_self]
  · simp [writtenBack]
  · cases instr <;> exact tfind_tset_self ..
  · cases instr <;> exact tfind_tset_ne _ _ hj.symm
  · cases instr <;> rfl

/-- Settles O37: the escalation is the parent's error, the batch one night-log record, and the write-back one word of one store. -/
theorem errorReports : Obligations.ErrorReports := ⟨escalationAndTally, correctedWriteBack⟩

end Sys2Proof.Machine
end

section
/-! Waits, tokens, barrier arrival and release, and late admission (R90, R91, R97 to R104, R202, R203). -/

namespace Sys2Proof.Machine
open Sys2Proof.Claims

/-! ### Token registers (R96, R98) -/

theorem rCoreTok_eq (c tok : Nat) : rCoreTok c tok = coreWin c + (0x400 + 8 * tok) := Nat.add_assoc ..

theorem rCoreTok_ne_rCoreStat (c tok : Nat) : rCoreTok c tok ≠ rCoreStat c := by
  unfold rCoreTok rCoreStat
  omega

theorem rCoreTok_ne_rCoreCtl (c tok : Nat) : rCoreTok c tok ≠ rCoreCtl c := by
  unfold rCoreTok rCoreCtl
  omega

section
variable {c t g : Nat} {s : State}

/-- An arrival of the token's generation counts (R98). -/
theorem tokArrive_current (h : s.fld (rCoreTok c t) 15 0 = g) : tokArrive c t g s = s.satFld (rCoreTok c t) 23 16 1 := by
  simp [tokArrive, h]

/-- An arrival of a later generation starts the token at it with count 1; a WAIT.TOK that it outruns is the error 0x0008 (R98, R100). -/
theorem tokArrive_later (h0 : 0 < (g + 65536 - s.fld (rCoreTok c t) 15 0) % 65536) (h : (g + 65536 - s.fld (rCoreTok c t) 15 0) % 65536 < 0x8000) :
    tokArrive c t g s = if waitRefilled (s.setFld (rCoreTok c t) 23 0 (65536 + g)) c t then
        coreFault c 5 0x0008 (wd (t * 65536 + (s.setFld (rCoreTok c t) 23 0 (65536 + g)).fld (rCoreTok c t) 15 0)) (s.setFld (rCoreTok c t) 23 0 (65536 + g))
      else s.setFld (rCoreTok c t) 23 0 (65536 + g) := by
  simp only [tokArrive, if_neg h0.ne', if_pos h]

/-- An arrival of an earlier generation is LATE and the contained error 0x0007 (R102). -/
theorem tokArrive_earlier (h : 0x8000 ≤ (g + 65536 - s.fld (rCoreTok c t) 15 0) % 65536) :
    tokArrive c t g s = coreFault c 5 0x0007 (wd (t * 65536 + g)) (s.satFld (rCoreTok c t) 31 24 1) := by
  simp only [tokArrive, if_neg (show ¬ (g + 65536 - s.fld (rCoreTok c t) 15 0) % 65536 = 0 by omega), if_neg (Nat.not_lt.2 h)]

/-- The count after an arrival of the token's generation, which the token keeps. -/
theorem fld_tok_satFld : (s.satFld (rCoreTok c t) 23 16 1).fld (rCoreTok c t) 23 16 = min (s.fld (rCoreTok c t) 23 16 + 1) 255 ∧
    (s.satFld (rCoreTok c t) 23 16 1).fld (rCoreTok c t) 15 0 = s.fld (rCoreTok c t) 15 0 :=
  ⟨State.fld_satFld_self _ _ _ _ _ (by decide) (by decide), State.fld_setFld_ne _ _ _ _ _ _ _ _ (by decide) (by decide) (.inr (.inl (by decide)))⟩

/-- Count and generation of a token that starts at a generation. -/
theorem fld_tok_setFld (hg : g < 65536) : (s.setFld (rCoreTok c t) 23 0 (65536 + g)).fld (rCoreTok c t) 23 16 = 1 ∧
    (s.setFld (rCoreTok c t) 23 0 (65536 + g)).fld (rCoreTok c t) 15 0 = g := by
  rw [State.fld_setFld_within _ _ _ (by decide) (by decide) (by decide) (by decide) (by decide), State.fld_setFld_within _ _ _ (by decide) (by decide) (by decide) (by decide) (by decide)]
  simp only [nbits, Nat.shiftRight_eq_div_pow]
  omega

theorem fld_tok_coreFault (ht : t < 64) (d unit cause : Nat) (info : Word) (hi lo : Nat) :
    (coreFault d unit cause info s).fld (rCoreTok c t) hi lo = s.fld (rCoreTok c t) hi lo := by
  rw [State.fld, rCoreTok_eq, coreFault, rd_coreReg_raise s (by omega) (by omega) (.inr (by omega)), State.fld]

end

/-- An instruction that sets a field of a token register of its core and is done. -/
theorem finish_done_setTok {c : Nat} {s : State} (hg : Goes c s) (tok hi lo n : Nat) :
    OnlyToken c tok (corePc s c + 1) s (finish c s (.done (s.setFld (rCoreTok c tok) hi lo n))) ∧
      ∀ a b, (finish c s (.done (s.setFld (rCoreTok c tok) hi lo n))).fld (rCoreTok c tok) a b = (s.setFld (rCoreTok c tok) hi lo n).fld (rCoreTok c tok) a b := by
  have hpc := hg.pc
  have hstat : corePc (s.setFld (rCoreTok c tok) hi lo n) c = corePc s c := by
    rw [corePc, State.fld, State.rd_setFld_ne _ _ _ _ (rCoreTok_ne_rCoreStat c tok)]
    rfl
  have hctl : (s.setFld (rCoreTok c tok) hi lo n).flag (rCoreCtl c) 2 = false := by
    rw [State.flag, State.rd_setFld_ne _ _ _ _ (rCoreTok_ne_rCoreCtl c tok)]
    exact hg.step1
  have hfin := finish_done_of_no_halt (s := s) (hstat ▸ hpc) hctl hg.watch
  rw [hstat] at hfin
  rw [hfin]
  refine ⟨⟨corePc_setPc _ _ _ (by omega), fun off hs ht => ?_, fun d => rfl, rfl⟩, fun a b => ?_⟩
  · rw [setPc, State.rd_setFld_ne _ _ _ _ hs.symm, State.rd_setFld_ne _ _ _ _ ht.symm]
  · rw [State.fld, setPc, State.rd_setFld_ne _ _ _ _ (rCoreTok_ne_rCoreStat c tok).symm, State.fld]

theorem finish_wait (c : Nat) (s t : State) : finish c s (.wait t) = t := rfl

/-! ### The synchronization instructions (R90, R99 to R101, R202, R203) -/

section
variable (c : CoreId) (s : State)

theorem exec_waitTok : exec (.waitTok c) s = .next (issue c.val 10 [0] (waitEff c.val) s) := rfl
theorem exec_clrTok : exec (.clrTok c) s = .next (issue c.val 10 [1] (fun w t => .done (t.setFld (rCoreTok c.val (bits w 49 44)) 23 16 0)) s) := rfl
theorem exec_sigTok : exec (.sigTok c) s =
    .next (issue c.val 10 [2] (fun w t => .done (tokArrive c.val (bits w 49 44) (syncGen (t.core c.val) w) t)) s) := rfl
theorem exec_barCoh : exec (.barCoh c) s = .next (issue c.val 10 [3] (fun _ t => barEff c.val t) s) := rfl

end

section
variable {c : Nat} {w : Word} {s : State}

/-- A WAIT.TOK whose condition holds. -/
theorem waitEff_holds (hd : drained s c = true) (hg : s.fld (rCoreTok c (bits w 49 44)) 15 0 = syncGen (s.core c) w) (hn : bits w 37 30 ≤ s.fld (rCoreTok c (bits w 49 44)) 23 16) :
    waitEff c w s = .done s := by
  simp [waitEff, waitHolds, hd, hg, hn]

/-- A WAIT.TOK of the token's generation whose count is too low waits in STATE 2. -/
theorem waitEff_waits (hd : drained s c = true) (hg : s.fld (rCoreTok c (bits w 49 44)) 15 0 = syncGen (s.core c) w) (hn : s.fld (rCoreTok c (bits w 49 44)) 23 16 < bits w 37 30) :
    waitEff c w s = .wait ((s.modCore c (fun k => { k with wait := some (bits w 49 44, syncGen (s.core c) w, bits w 37 30), longRec := false })).setFld (rCoreStat c) 2 0 2) := by
  simp [waitEff, waitHolds, hd, hg, hn, waitRefilled]

/-- BAR.COH in the compute window arrives and waits in STATE 3, the PC after it. -/
theorem barEff_arrives (hd : drained s c = true) (hw : coreWindow s c = true) (hpc : corePc s c < 8191) :
    barEff c s = .wait ((setPc c (corePc s c + 1) (s.modCore c (fun k => { k with arrived := true, longRec := false }))).setFld (rCoreStat c) 2 0 3) := by
  simp [barEff, hd, hw, hpc.ne]

end

/-- The state in which a wait of core c is over, late admission with it, and the WAIT.TOK is to retire (R99, R106). -/
def waitOver (c : Nat) (s : State) : State := ((s.setFld (rCoreStat c) 2 0 1).setFld (rCoreStat c) 4 4 0).modCore c (fun k => { k with wait := none })

/-- The wait in progress completes. -/
theorem exec_waitTokComplete {c : CoreId} {s : State} {tok g n : Nat} (hw : (s.core c.val).wait = some (tok, g, n)) (hst : coreSt s c.val = 2)
    (hg : s.fld (rCoreTok c.val tok) 15 0 = g) (hn : n ≤ s.fld (rCoreTok c.val tok) 23 16) : exec (.waitTokComplete c) s =
      .next (finish c.val s (.done (waitOver c.val s))) := by
  change execWaitTokComplete c s = _
  simp [execWaitTokComplete, hw, hst, waitHolds, hg, hn, waitOver]

/-- The end of a wait: STATE 1 at the next instruction, late admission over. -/
theorem finish_waitOver {c : Nat} {s : State} (hg : Goes c s) : coreSt (finish c s (.done (waitOver c s))) c = 1 ∧ corePc (finish c s (.done (waitOver c s))) c = corePc s c + 1 ∧
    coreLate (finish c s (.done (waitOver c s))) c = false ∧ (finish c s (.done (waitOver c s))).core c = { s.core c with wait := none } := by
  have hpc := hg.pc
  have hcore : (waitOver c s).core c = { s.core c with wait := none } := by simp [waitOver]
  have hstat : corePc (waitOver c s) c = corePc s c := by
    simp (disch := omega) only [corePc, waitOver, State.fld_modCore, State.fld_setFld_ne]
  have hctl : (waitOver c s).flag (rCoreCtl c) 2 = false := by
    have hne := (rCoreCtl_ne_rCoreStat c).symm
    rw [State.flag, waitOver, State.rd_modCore, State.rd_setFld_ne _ _ _ _ hne, State.rd_setFld_ne _ _ _ _ hne]
    exact hg.step1
  rw [finish_done_of_no_halt (hstat ▸ hpc) hctl (by rw [hcore]; exact hg.watch), hstat]
  refine ⟨(coreSt_setPc ..).trans ?_, corePc_setPc _ _ _ (by omega), ?_, (core_setPc ..).trans hcore⟩
  · simp (disch := omega) only [coreSt, waitOver, State.fld_modCore, State.fld_setFld_ne, State.fld_setFld_self]
    rfl
  · simp (disch := omega) only [coreLate, setPc, waitOver, State.flag_modCore, State.flag_setFld_ne, State.flag_setFld_mem]
    rfl

theorem synchronization : Obligations.Synchronization := by
  intro c w s
  refine ⟨fun h hd hg hn => ?done, fun h hd hg hn => ?waits, fun tok g n hw hst hg htok hn => ?complete, fun h => ?clear, fun h hg => ?signal, fun h hd hw => ?barrier⟩
  case done =>
    rw [exec_waitTok, issue_executes h (List.mem_singleton_self 0), waitEff_holds hd hg hn]
    exact ⟨_, rfl, finish_done_self h.goes⟩
  case waits =>
    rw [exec_waitTok, issue_executes h (List.mem_singleton_self 0), waitEff_waits hd hg hn]
    refine ⟨_, rfl, State.fld_setFld_self _ _ _ _ _ (by decide) (by decide), ?_, ?_, fun off ho => State.rd_setFld_ne _ _ _ _ ho.symm⟩
    · exact State.fld_setFld_ne _ _ _ _ _ _ _ _ (by decide) (by decide) (.inr (.inr (by decide)))
    · simp [finish_wait]
  case complete => exact ⟨_, exec_waitTokComplete hw hst htok hn, finish_waitOver hg⟩
  case clear =>
    rw [exec_clrTok, issue_executes h (List.mem_singleton_self 1)]
    obtain ⟨honly, hfld⟩ := finish_done_setTok h.goes (bits w 49 44) 23 16 0
    exact ⟨_, rfl, honly, (hfld ..).trans (State.fld_setFld_self _ _ _ _ _ (by decide) (by decide)),
      (hfld ..).trans (State.fld_setFld_ne _ _ _ _ _ _ _ _ (by decide) (by decide) (.inr (.inl (by decide))))⟩
  case signal =>
    rw [exec_sigTok, issue_executes h (List.mem_singleton_self 2), tokArrive_current hg]
    obtain ⟨honly, hfld⟩ := finish_done_setTok h.goes (bits w 49 44) 23 16 (satAdd 8 (s.fld (rCoreTok c.val (bits w 49 44)) 23 16) 1)
    obtain ⟨hcnt, hgen⟩ := fld_tok_satFld (c := c.val) (t := bits w 49 44) (s := s)
    exact ⟨_, rfl, honly, (hfld ..).trans hcnt, (hfld ..).trans hgen⟩
  case barrier =>
    have hpc := h.goes.pc
    rw [exec_barCoh, issue_executes h (List.mem_singleton_self 3), barEff_arrives hd hw hpc]
    refine ⟨_, rfl, State.fld_setFld_self _ _ _ _ _ (by decide) (by decide), ?_, ?_, fun off ho => ?_, fun d hd => ?_⟩
    · exact (State.fld_setFld_ne _ _ _ _ _ _ _ _ (by decide) (by decide) (.inr (.inr (by decide)))).trans (corePc_setPc _ _ _ (by omega))
    · simp [finish_wait]
    · exact (State.rd_setFld_ne _ _ _ _ ho.symm).trans (State.rd_setFld_ne _ _ _ _ ho.symm)
    · rw [finish_wait, State.core_setFld, core_setPc, State.core_modCore_ne s _ hd.symm]

end Sys2Proof.Machine
end

section
/-! The cohort barrier's release, late admission and token arrivals: what a release leaves at each core of its field (R91, R93, R97, R98, R102, R104, R733). -/

namespace Sys2Proof.Machine
open Sys2Proof.Claims

/-! ### One core beside the others -/

/-- The windows of two cores share no register. -/
theorem coreReg_ne_of_core {c d : Nat} (h : c ≠ d) {a o : Nat} (ha : a < 0x800) (ho : o < 0x800) : coreWin d + a ≠ coreWin c + o := by
  intro he
  have hc := coreIdx_lt c
  have hd := coreIdx_lt d
  have hsame : fieldOf d = fieldOf c ∧ coreIdx d = coreIdx c := by
    unfold coreWin fieldBase at he
    omega
  exact h (by rw [← coreOfField_fieldOf c, ← coreOfField_fieldOf d, hsame.1, hsame.2])

/-- The record and the window of core c stand in t as they stand in s. -/
structure SameAt (c : Nat) (s t : State) : Prop where
  core : t.core c = s.core c
  rd : ∀ o < 0x800, t.rd (coreWin c + o) = s.rd (coreWin c + o)

section
variable {c : Nat} {s t u : State}

theorem SameAt.refl (c : Nat) (s : State) : SameAt c s s := ⟨rfl, fun _ _ => rfl⟩

theorem SameAt.trans (h : SameAt c s t) (h' : SameAt c t u) : SameAt c s u := ⟨h'.core.trans h.core, fun o ho => (h'.rd o ho).trans (h.rd o ho)⟩

theorem SameAt.fld_stat (h : SameAt c s t) (hi lo : Nat) : t.fld (rCoreStat c) hi lo = s.fld (rCoreStat c) hi lo := by
  rw [State.fld, rCoreStat, h.rd 0x10 (by decide)]
  rfl

theorem SameAt.flag_stat (h : SameAt c s t) (i : Nat) : t.flag (rCoreStat c) i = s.flag (rCoreStat c) i := by
  rw [State.flag, rCoreStat, h.rd 0x10 (by decide)]
  rfl

theorem SameAt.flag_ctl (h : SameAt c s t) (i : Nat) : t.flag (rCoreCtl c) i = s.flag (rCoreCtl c) i := by
  rw [State.flag, rCoreCtl, h.rd 0x8 (by decide)]
  rfl

/-- What changes CORE_STAT and the record of another core leaves this one. -/
theorem sameAt_of_onlyAt {d : Nat} (h : OnlyAt d [rCoreStat d] s t) (hc : c ≠ d) : SameAt c s t := by
  obtain ⟨-, hregs, hcores⟩ := h
  refine ⟨hcores c hc, fun o ho => hregs _ ?_⟩
  rw [List.mem_singleton]
  exact (coreReg_ne_of_core hc (a := 0x10) (by decide) ho).symm

theorem sameAt_setFld_fieldReg (c f : Nat) {a : Nat} (ha : a < 0x10000) (s : State) (hi lo n : Nat) : SameAt c s (s.setFld (fieldBase f + a) hi lo n) :=
  ⟨rfl, fun _ ho => State.rd_setFld_ne _ _ _ _ (fieldReg_ne_coreReg f c ha ho)⟩

end

/-- The phase change of a release touches no core (R733). -/
theorem sameAt_releaseField (c f : Nat) (s : State) : SameAt c s (releaseField f s) := by
  have hnow : ∀ (t : State) hi lo n, SameAt c t (t.setFld (rChrNow f) hi lo n) := fun t => sameAt_setFld_fieldReg c f (a := 0xA10) (by decide) t
  unfold releaseField
  dsimp only
  split
  · exact (hnow s 31 16 _).trans ⟨rfl, (hnow _ 4 0 _).rd⟩
  · exact hnow s 31 16 _

/-! ### The release of one core (R91, R93, R95) -/

/-- What a release leaves of core c, which waited in STATE 3: STATE 1, the other window, the next epoch, the PC where it stood, and no arrival. -/
structure Released (c : Nat) (s t : State) : Prop where
  st : coreSt t c = 1
  window : coreWindow t c = !coreWindow s c
  epoch : t.fld (rCoreStat c) 47 32 = (s.fld (rCoreStat c) 47 32 + 1) % 65536
  pc : corePc t c = corePc s c
  arrived : (t.core c).arrived = false

theorem Released.of_sameAt {c : Nat} {s s' t t' : State} (h : Released c s t) (hs : SameAt c s' s) (ht : SameAt c t t') : Released c s' t' :=
  ⟨(ht.fld_stat ..).trans h.st, (ht.flag_stat ..).trans (h.window.trans (congrArg not (hs.flag_stat ..))), (ht.fld_stat ..).trans (by rw [h.epoch, hs.fld_stat]),
    (ht.fld_stat ..).trans (h.pc.trans (hs.fld_stat ..)), (congrArg Core.arrived ht.core).trans h.arrived⟩

/-- Core c at its release, before it resumes: the window toggled, the epoch counted, the arrival cleared. -/
def toggled (c : Nat) (s : State) : State :=
  ((s.setFld (rCoreStat c) 3 3 (1 + s.fld (rCoreStat c) 3 3)).addFld (rCoreStat c) 47 32 1).modCore c (fun k => { k with arrived := false, longRec := false })

section
variable {c : Nat} {s : State}

theorem coreSt_toggled : coreSt (toggled c s) c = coreSt s c := by
  simp (disch := omega) only [coreSt, toggled, State.addFld, State.fld_modCore, State.fld_setFld_ne]

theorem flag_ctl_toggled : (toggled c s).flag (rCoreCtl c) 2 = s.flag (rCoreCtl c) 2 := by
  simp (disch := omega) only [toggled, State.addFld, State.flag_modCore, State.flag_setFld_ne]

/-- A released core without STEP1 (R91, R95). -/
theorem releaseCore_eq (hstep : s.flag (rCoreCtl c) 2 = false) :
    releaseCore c s = admitHeld c (if coreSt s c = 3 then (toggled c s).setFld (rCoreStat c) 2 0 1 else toggled c s) := by
  have hflag : ((toggled c s).setFld (rCoreStat c) 2 0 1).flag (rCoreCtl c) 2 = false := by
    rw [State.flag_setFld_ne _ _ _ _ _ _ _ (by decide) (by decide) (.inl (rCoreCtl_ne_rCoreStat c).symm), flag_ctl_toggled, hstep]
  change admitHeld c (if coreSt (toggled c s) c = 3 then (if ((toggled c s).setFld (rCoreStat c) 2 0 1).flag (rCoreCtl c) 2 = true then _ else _) else toggled c s) = _
  rw [coreSt_toggled, hflag, if_neg Bool.false_ne_true]
  rfl

theorem core_toggled : (toggled c s).core c = { s.core c with arrived := false, longRec := false } := by simp [toggled, State.addFld]

/-- A bit counted up is the other bit. -/
theorem flag_setFld_succ (s : State) (off : Nat) {i : Nat} (h : i < 64) : (s.setFld off i i (1 + s.fld off i i)).flag off i = !s.flag off i := by
  rw [State.flag_setFld_mem _ _ _ _ _ _ h (le_refl i) (le_refl i), State.fld, State.flag, bits, nbits, bit, Nat.sub_self, Nat.testBit_zero, Nat.shiftRight_eq_div_pow,
    Nat.testBit_eq_decide_div_mod_eq, Nat.add_sub_cancel_left, pow_one, ← decide_not]
  exact decide_eq_decide.2 (by omega)

theorem sameAt_of_sameCores {t u : State} (h : SameCores t u) (c : Nat) : SameAt c t u := ⟨h.core c, fun _ _ => h.rd _⟩

/-- A core that waited in STATE 3 is released. -/
theorem released_releaseCore (hh : (s.core c).held = []) (hstep : s.flag (rCoreCtl c) 2 = false) (hst : coreSt s c = 3) : Released c s (releaseCore c s) := by
  have hcore : ((toggled c s).setFld (rCoreStat c) 2 0 1).core c = { s.core c with arrived := false, longRec := false } := (State.core_setFld ..).trans core_toggled
  have hrel : Released c s ((toggled c s).setFld (rCoreStat c) 2 0 1) :=
    { st := State.fld_setFld_self _ _ _ _ _ (by decide) (by decide)
      window := by simp (disch := omega) only [coreWindow, toggled, State.addFld, State.flag_modCore, State.flag_setFld_ne, flag_setFld_succ]
      epoch := by simp (disch := omega) only [toggled, State.addFld, State.fld_modCore, State.fld_setFld_ne, State.fld_setFld_self, Nat.reduceAdd, Nat.reduceSub, Nat.reducePow]
      pc := by simp (disch := omega) only [corePc, toggled, State.addFld, State.fld_modCore, State.fld_setFld_ne]
      arrived := congrArg Core.arrived hcore }
  rw [releaseCore_eq hstep, if_pos hst]
  exact hrel.of_sameAt (.refl c s) (sameAt_of_sameCores (sameCores_admitHeld ((congrArg Core.held hcore).trans hh)) c)

/-- The release of a core changes CORE_STAT and the record of that core alone. -/
theorem onlyAt_releaseCore (hh : (s.core c).held = []) (hstep : s.flag (rCoreCtl c) 2 = false) : OnlyAt c [rCoreStat c] s (releaseCore c s) := by
  have hstat : ∀ t hi lo n, OnlyAt c [rCoreStat c] s t → OnlyAt c [rCoreStat c] s (t.setFld (rCoreStat c) hi lo n) := fun t hi lo n ht => onlyAt_setFld ht (List.mem_singleton_self _) hi lo n
  have htog : OnlyAt c [rCoreStat c] s (toggled c s) := onlyAt_modCore (hstat _ _ _ _ (hstat _ _ _ _ (onlyAt_refl ..))) _
  have hheld : ((toggled c s).core c).held = [] := (congrArg Core.held core_toggled).trans hh
  rw [releaseCore_eq hstep]
  split_ifs
  · exact onlyAt_of_sameCores (hstat _ _ _ _ htog) (sameCores_admitHeld hheld)
  · exact onlyAt_of_sameCores htog (sameCores_admitHeld hheld)

end

/-! ### The release of a field (R91) -/

theorem coreOfField_injOn (f : Nat) {i j : Nat} (h : coreOfField f i = coreOfField f j) : i = j := by
  unfold coreOfField coreAt at h
  omega

theorem nodup_mappedOf (s : State) (f : Nat) : (mappedOf s f).Nodup := (List.nodup_range.map fun _ _ => coreOfField_injOn f).filter _

/-- The releases of a list of cores: each core listed is released, every other one stays. -/
theorem forEach_releaseCore {l : List Nat} (hnd : l.Nodup) : ∀ {s : State}, (∀ d ∈ l, (s.core d).held = [] ∧ s.flag (rCoreCtl d) 2 = false) →
    (∀ c, c ∉ l → SameAt c s (forEach l releaseCore s)) ∧ ∀ c ∈ l, coreSt s c = 3 → Released c s (forEach l releaseCore s) := by
  induction l with
  | nil => exact fun _ => ⟨fun c _ => .refl c _, fun c hc => absurd hc List.not_mem_nil⟩
  | cons d l ih =>
    intro s hl
    obtain ⟨hd, hnd⟩ := List.nodup_cons.1 hnd
    obtain ⟨hh, hstep⟩ := hl d List.mem_cons_self
    have hother : ∀ c, c ≠ d → SameAt c s (releaseCore d s) := fun c hc => sameAt_of_onlyAt (onlyAt_releaseCore hh hstep) hc
    obtain ⟨hsame, hrel⟩ := ih hnd (s := releaseCore d s) fun e he => by
      have hs := hother e (ne_of_mem_of_not_mem he hd)
      obtain ⟨hheld, hctl⟩ := hl e (List.mem_cons_of_mem _ he)
      exact ⟨(congrArg Core.held hs.core).trans hheld, (hs.flag_ctl 2).trans hctl⟩
    change (∀ c, c ∉ d :: l → SameAt c s (forEach l releaseCore (releaseCore d s))) ∧ ∀ c ∈ d :: l, coreSt s c = 3 → Released c s (forEach l releaseCore (releaseCore d s))
    refine ⟨fun c hc => ?_, fun c hc hst => ?_⟩
    · obtain ⟨hcd, hcl⟩ := not_or.1 (mt List.mem_cons.2 hc)
      exact (hother c hcd).trans (hsame c hcl)
    · by_cases hcd : c = d
      · subst hcd
        exact (released_releaseCore hh hstep hst).of_sameAt (.refl c s) (hsame c hd)
      · have hs := hother c hcd
        exact (hrel c (List.mem_of_ne_of_mem hcd hc) ((hs.fld_stat 2 0).trans hst)).of_sameAt hs (.refl c _)

theorem exec_barrierRelease {f : FieldId} {s : State} (h : barrierReady s f.val = true) :
    exec (.barrierRelease f) s = .next (releaseField f.val (forEach (mappedOf s f.val) releaseCore s)) := by
  change execBarrierRelease f s = _
  rw [execBarrierRelease, if_pos h]

theorem exec_lateAdmissionBegin {c : CoreId} {s : State} (hw : coreWindow s c.val = true) (hst : coreSt s c.val = 2) (hd : drained s c.val = true) :
    exec (.lateAdmissionBegin c) s = .next (admitHeld c.val (s.setFld (rCoreStat c.val) 4 4 1)) := if_pos (by simp [hw, hst, hd])

theorem exec_tokenArrival (c : CoreId) {tok gen : Nat} (ht : tok < 64) (hg : gen < 65536) (s : State) : exec (.tokenArrival c tok gen) s = .next (tokArrive c.val tok gen s) := by
  change Host.Outcome.next (tokArrive c.val (tok % 64) (gen % 65536) s) = _
  rw [Nat.mod_eq_of_lt ht, Nat.mod_eq_of_lt hg]

theorem barrierAndTokens : Obligations.BarrierAndTokens := by
  refine fun s => ⟨fun f c hready hc hst hall => ?release, fun c hw hst hd hheld => ?late, fun c tok gen ht hg => ⟨fun hgen => ?current, fun h0 h => ?later, fun h => ?earlier⟩⟩
  case release =>
    obtain ⟨-, hrel⟩ := forEach_releaseCore (nodup_mappedOf s f.val) hall
    obtain ⟨h1, h2, h3, h4, h5⟩ := (hrel c hc hst).of_sameAt (.refl c s) (sameAt_releaseField c f.val _)
    exact ⟨_, exec_barrierRelease hready, h1, h2, h3, h4, h5⟩
  case late =>
    have hsame : SameCores _ _ := sameCores_admitHeld (c := c.val) (t := s.setFld (rCoreStat c.val) 4 4 1) hheld
    exact ⟨_, exec_lateAdmissionBegin hw hst hd, (hsame.flag ..).trans (State.flag_setFld_mem _ _ 4 4 1 4 (by decide) (by decide) (by decide)),
      (hsame.fld ..).trans ((State.fld_setFld_ne _ _ _ _ _ _ _ _ (by decide) (by decide) (.inr (.inl (by decide)))).trans hst), hsame.core,
      onlyAt_of_sameCores (onlyAt_setFld (onlyAt_refl ..) (List.mem_singleton_self _) ..) hsame⟩
  case current =>
    rw [exec_tokenArrival c ht hg, tokArrive_current hgen]
    obtain ⟨hcnt, hkeep⟩ := fld_tok_satFld (c := c.val) (t := tok) (s := s)
    exact ⟨_, rfl, hcnt, hkeep.trans hgen, rfl, fun off ho => State.rd_setFld_ne _ _ _ _ ho.symm⟩
  case later =>
    rw [exec_tokenArrival c ht hg, tokArrive_later h0 h]
    obtain ⟨hcnt, hkeep⟩ := fld_tok_setFld (c := c.val) (t := tok) (s := s) hg
    refine ⟨_, rfl, ?_, ?_, fun hw => ?_⟩
    · split_ifs
      · exact (fld_tok_coreFault ht ..).trans hcnt
      · exact hcnt
    · split_ifs
      · exact (fld_tok_coreFault ht ..).trans hkeep
      · exact hkeep
    · have hno : waitRefilled (s.setFld (rCoreTok c.val tok) 23 0 (65536 + gen)) c.val tok = false := by simp [waitRefilled, hw]
      rw [hno, if_neg Bool.false_ne_true]
      exact ⟨rfl, fun off ho => State.rd_setFld_ne _ _ _ _ ho.symm⟩
  case earlier => rw [exec_tokenArrival c ht hg, tokArrive_earlier h]

end Sys2Proof.Machine
end

section
/-! Packets on their way: what a path depends on, what a crossing leaves, the answers that find their way, and the local port that admits at once (R84, R315, R324 to R328, R346). -/

namespace Sys2Proof.Machine
open Sys2Proof.Claims

/-! ### A packet taken from the mesh -/

section
variable (s : State) (q : Packet)

theorem meshWalk_taken : meshWalk (s.taken q) = meshWalk s := by
  funext vc dx dy n
  induction n with
  | zero => rfl
  | succ n ih =>
    funext x y det
    have hhop : meshHop (s.taken q) vc dx dy x y det = meshHop s vc dx dy x y det := rfl
    simp only [meshWalk, hhop, ih]

theorem expressWalk_taken : expressWalk (s.taken q) = expressWalk s := by
  funext vc g b n
  induction n with
  | zero => rfl
  | succ n ih =>
    funext a
    have hhop : expressHop (s.taken q) vc g b a = expressHop s vc g b a := rfl
    simp only [expressWalk, hhop, ih]

/-- The packets on their way are no part of a path. -/
theorem pathOf_taken (p : Packet) : pathOf (s.taken q) p = pathOf s p := by
  unfold pathOf
  rw [meshWalk_taken, expressWalk_taken]
  rfl

end

theorem passLink_rest (n : Nat) (k : LinkRef) (s : State) : passLink n k s = { s with links := (passLink n k s).links } := by
  unfold passLink
  dsimp only
  split <;> rfl

/-- A crossing changes the links alone. -/
theorem passLinks_rest (n : Nat) (ks : List LinkRef) (s : State) : passLinks n ks s = { s with links := (passLinks n ks s).links } := by
  induction ks generalizing s with
  | nil => rfl
  | cons k ks ih =>
    change passLinks n ks (passLink n k s) = { s with links := (passLinks n ks (passLink n k s)).links }
    rw [ih, passLink_rest]

theorem crossed_rest (q : Packet) (s : State) : crossed q s = { s with net := s.net.erase q, links := (crossed q s).links } := passLinks_rest ..

/-- A packet whose way is free goes on in the state in which it has crossed it. -/
theorem onRoute_passes {q : Packet} {s : State} (h : Passes q s) (k : State → State) : onRoute q k (s.taken q) = k (crossed q s) := by
  have hr : (pathOf s q).route = .ok := h.route
  simp only [onRoute, pathOf_taken, hr]
  rfl

/-! ### The local port -/

theorem admits_congr {s t : State} (hr : t.regs = s.regs) (hd : t.dark = s.dark) (c : Nat) : admits t c = admits s c := by
  have hrd : t.rd = s.rd := funext fun off => by rw [State.rd, State.rd, hr]
  unfold admits coreWindow coreLate coreRunning coreSt State.flag State.fld
  rw [hrd, hd]

/-- An empty port that admits serves a packet at once (R84, R107). -/
theorem arriveCore_empty {c : Nat} {t : State} (ha : admits t c = true) (hh : (t.core c).held = []) (q : Packet) :
    ∃ u, SameCores t u ∧ arriveCore c q t = serveCore c q u := by
  have hmod : ∀ f, admits (t.modCore c f) c = true := fun f => (admits_congr rfl rfl c).trans ha
  refine ⟨(t.modCore c fun k => { k with held := k.held ++ [q] }).modCore c fun k => { k with held := [] }, ⟨rfl, fun d => ?_⟩, ?_⟩
  · by_cases hd : d = c
    · rw [hd, State.core_modCore_self, State.core_modCore_self, ← hh]
    · rw [State.core_modCore_ne _ _ (Ne.symm hd), State.core_modCore_ne _ _ (Ne.symm hd)]
  · have h2 : admits ((t.modCore c fun k => { k with held := k.held ++ [q] }).modCore c fun k => { k with held := [] }) c = true := (admits_congr rfl rfl c).trans ha
    rw [arriveCore, admitHeld, if_pos (hmod _), State.core_modCore_self, hh]
    simp only [List.nil_append, admitList, h2, if_true]

/-- A packet that reaches a core is served in the state in which it has crossed its path. -/
theorem deliver_reaches {q : Packet} {s : State} (h : Reaches q s) : ∃ u, SameCores (crossed q s) u ∧ deliver q s = serveCore (coreAt q.dx q.dy) q u := by
  have hregs : (crossed q s).regs = s.regs := by rw [crossed_rest]
  have hport : admits (crossed q s) (coreAt q.dx q.dy) = true := (admits_congr hregs (by rw [crossed_rest]) _).trans h.port
  have hpower : computeOn (crossed q s) (dstField q) = true := by
    rw [computeOn, State.fld, State.rd, hregs]
    exact h.power
  have hempty : ((crossed q s).core (coreAt q.dx q.dy)).held = [] := by
    rw [crossed_rest]
    exact h.empty
  obtain ⟨u, hsame, hserve⟩ := arriveCore_empty hport hempty q
  refine ⟨u, hsame, ?_⟩
  have hroom : portRoom s (coreAt q.dx q.dy) = true := by simp [portRoom, h.port]
  rw [deliver, if_pos h.dest, deliverCore]
  simp only [h.turn, hroom, Bool.not_true, Bool.and_false, Bool.or_self, Bool.false_eq_true, if_false]
  rw [onRoute_passes h.toPasses]
  simp only [hpower, Bool.not_true, Bool.false_eq_true, if_false, hserve]

/-! ### Answers (R326, R328) -/

/-- Both gateways of every field are in service (R326). -/
def GatewaysUp (s : State) : Prop := ∀ f < 84, ∀ g < 2, gwUp s f g = true

theorem gatewaysUp_congr {s t : State} (hr : t.regs = s.regs) (h : GatewaysUp s) : GatewaysUp t := fun f hf g hg => by
  rw [gwUp, State.flag, State.rd, hr]
  exact h f hf g hg

/-- An answer finds a plane: it enters the mesh as it was formed, its EXP and PLANE chosen. -/
theorem respond_sends {p : Packet} {s : State} (hs : srcField p < 84) (hd : dstField p < 84) (hg : GatewaysUp s) (typ status daddr : Nat) (lastp : Bool) (body : List PWord) :
    ∃ e g, respond p typ status daddr lastp body s = s.send { respPkt p typ status daddr lastp body with exp := e, plane := g } := by
  have hup : ∀ g : Bool, gwUp s (dstField p) g.toNat && gwUp s (srcField p) g.toNat := fun g => by
    rw [hg _ hd _ (Bool.toNat_lt g), hg _ hs _ (Bool.toNat_lt g)]
    rfl
  have hchoose : ∀ choice, ∃ e g, chooseExpress s choice (respPkt p typ status daddr lastp body) = some { respPkt p typ status daddr lastp body with exp := e, plane := g } := fun choice => by
    have hok : (gwUp s (srcField (respPkt p typ status daddr lastp body)) choice.toNat && gwUp s (dstField (respPkt p typ status daddr lastp body)) choice.toNat) = true := hup choice
    simp only [chooseExpress, hok, if_true]
    split <;> exact ⟨_, _, rfl⟩
  obtain ⟨e, g, hsome⟩ := hchoose (planeChoice (respPkt p typ status daddr lastp body))
  exact ⟨e, g, by rw [respond, injectPkt, hsome]⟩

end Sys2Proof.Machine
end

section
/-! Words that a packet lays into a core's store or a field store: the bytes that it keeps, and the words it leaves (R68, R78, R79, R415, R865). -/

namespace Sys2Proof.Machine
open Sys2Proof.Claims

/-! ### Bytes of a word (R14) -/

theorem leNat_leBytes (n v : Nat) : leNat (leBytes n v) = v % 256 ^ n := by
  induction n generalizing v with
  | zero => simp [leBytes, leNat, Nat.mod_one]
  | succ n ih =>
    rw [leBytes, leNat, ih, BitVec.toNat_ofNat, show 256 ^ (n + 1) = 256 * 256 ^ n from Nat.pow_succ']
    exact (Nat.mod_mul ..).symm

theorem wd_leNat_leBytes (w : Word) : wd (leNat (leBytes 8 w.toNat)) = w := by
  rw [leNat_leBytes, wd, Nat.mod_eq_of_lt (show w.toNat < 256 ^ 8 from w.isLt), BitVec.ofNat_toNat, BitVec.setWidth_eq]

/-- A word of which the first `lo` and the last `hi` bytes stay as they were in `old` (R68). -/
def laidWord (lo hi : Nat) (old new : Word) : Word :=
  wd (leNat ((List.range 8).map fun b => (leBytes 8 (if b < lo ∨ 8 ≤ b + hi then old else new).toNat).getD b 0))

theorem leBytes_eq_map (n v : Nat) : leBytes n v = (List.range n).map fun b => (leBytes n v).getD b 0 :=
  List.ext_getElem (by simp [leBytes_length]) fun k hk _ => by simp [List.getD_eq_getElem?_getD, List.getElem?_eq_getElem hk]

theorem laidWord_zero (old new : Word) : laidWord 0 0 old new = new := by
  have hmap : ((List.range 8).map fun b => (leBytes 8 (if b < 0 ∨ 8 ≤ b + 0 then old else new).toNat).getD b 0) = (List.range 8).map fun b => (leBytes 8 new.toNat).getD b 0 :=
    List.map_congr_left fun b hb => by
      have := List.mem_range.1 hb
      rw [if_neg (by omega)]
  rw [laidWord, hmap, ← leBytes_eq_map, wd_leNat_leBytes]

/-- Bytes kept at both ends and taken between them, as the choice for each byte. -/
theorem take_append_drop_eq_map {a b : List Byte} (ha : a.length = 8) (hb : b.length = 8) {lo hi : Nat} (h : lo + hi < 8) :
    a.take lo ++ (b.drop lo).take (8 - lo - hi) ++ a.drop (8 - hi) = (List.range 8).map fun k => (if k < lo ∨ 8 ≤ k + hi then a else b).getD k 0 := by
  refine List.ext_getElem (by simp [ha, hb]; omega) fun k hk _ => ?_
  have h8 : k < 8 := by simp [ha, hb] at hk; omega
  rw [List.getElem_map, List.getElem_range]
  split_ifs with hkeep
  · grind
  · grind

/-- The word that a packet lays, by what it keeps at that word. -/
theorem laid_eq (p : Packet) (m : Nat → Word) (i : Nat) (w : PWord) :
    laid p m i w = laidWord (if i = 0 then p.keepLo else 0) (if i + 1 = p.body.length then p.keepHi else 0) (m i) w.d := by
  refine congrArg (fun l => wd (leNat l)) (List.map_congr_left fun b hb => ?_)
  have h8 := List.mem_range.1 hb
  have hiff : (i = 0 ∧ b < p.keepLo ∨ i + 1 = p.body.length ∧ 8 ≤ b + p.keepHi) ↔ (b < (if i = 0 then p.keepLo else 0) ∨ 8 ≤ b + if i + 1 = p.body.length then p.keepHi else 0) := by
    split_ifs <;> omega
  rw [if_congr hiff rfl rfl]

/-- A write merges the bytes that it keeps with the word's present ones, where the word reads clean (R68). -/
theorem mergeWord_clean {read : State → PWord × State} {lo hi : Nat} {old : Word} {s : State} (w : PWord) (h : lo + hi < 8) (hr : 0 < lo + hi → read s = (⟨old, false⟩, s)) :
    mergeWord read lo hi w s = (⟨laidWord lo hi old w.d, w.x⟩, s) := by
  unfold mergeWord
  split_ifs with h0
  · obtain ⟨rfl, rfl⟩ : lo = 0 ∧ hi = 0 := by omega
    rw [laidWord_zero]
  · rw [hr (by omega)]
    dsimp only
    rw [take_append_drop_eq_map (leBytes_length 8 _) (leBytes_length 8 _) h, Bool.false_or, laidWord]
    simp only [apply_ite (fun v : Word => leBytes 8 v.toNat)]

/-! ### A core's store (R78, R79) -/

/-- From s to t the words `ws` stand in core c's store from index i on, each as `val` makes it, and nothing else changed. -/
structure WordsStored (c i : Nat) (val : Nat → PWord → Word) (ws : List PWord) (s t : State) : Prop where
  words : ∀ k w, ws[k]? = some w → tfind (t.core c).store (i + k) = some (eccEncode (val k w) w.x (i + k))
  outside : ∀ j, j < i ∨ i + ws.length ≤ j → tfind (t.core c).store j = tfind (s.core c).store j
  core : t.core c = { s.core c with store := (t.core c).store }
  cores : ∀ d, d ≠ c → t.core d = s.core d
  rest : t = { s with cores := t.cores }

theorem coreLocalRead_clean {c i : Nat} {d : Word} {s : State} (hi : i < 0x10000) (h : Holds c i d s) : coreLocalRead c i s = (⟨d, false⟩, s) := by
  rw [coreLocalRead, if_pos (by omega), outWord_clean hi h]

theorem coreLocalPut_store {c i : Nat} (hi : i < 0x10000) (w : PWord) (s : State) : coreLocalPut c i w s = writeWord c i w s := if_pos hi

/-- A word written, and then the words after it. -/
theorem wordsStored_cons {c i : Nat} {val val' : Nat → PWord → Word} {w : PWord} {ws : List PWord} {s t : State} (hval : ∀ k v, val (k + 1) v = val' k v)
    (h : WordsStored c (i + 1) val' ws (writeWord c i ⟨val 0 w, w.x⟩ s) t) : WordsStored c i val (w :: ws) s t := by
  have hstore : ((writeWord c i ⟨val 0 w, w.x⟩ s).core c).store = cwWrite (s.core c).store i ⟨val 0 w, w.x⟩ := by rw [writeWord, State.core_modCore_self]
  obtain ⟨hwords, houtside, hcore, hcores, hrest⟩ := h
  refine ⟨fun k v hk => ?_, fun j hj => ?_, ?_, fun d hd => ?_, by rw [hrest]; rfl⟩
  · match k with
    | 0 =>
      obtain rfl : w = v := by simpa using hk
      rw [houtside _ (.inl (by omega)), hstore, cwWrite]
      exact tfind_tset_self ..
    | k + 1 =>
      have := hwords k v (by simpa using hk)
      rwa [show i + 1 + k = i + (k + 1) by omega, ← hval] at this
  · rw [List.length_cons] at hj
    rw [houtside j (by omega), hstore]
    exact tfind_cwWrite_ne _ _ (by omega)
  · rw [hcore, writeWord, State.core_modCore_self]
  · exact (hcores d hd).trans (State.core_modCore_ne _ _ (Ne.symm hd))

/-- The words that a packet writes at a core's store, the bytes that it keeps at its ends read from words that read clean. -/
theorem wordsStored_coreLocalWrite {c hi : Nat} (hhi : hi < 8) {ws : List PWord} : ∀ {i lo : Nat} {m : Nat → Word} {s : State}, lo < 8 → i + ws.length ≤ 0x10000 →
    (ws.length = 1 → lo + hi < 8) → (∀ k < ws.length, (k = 0 ∧ 0 < lo ∨ k + 1 = ws.length ∧ 0 < hi) → Holds c (i + k) (m k) s) →
    WordsStored c i (fun k w => laidWord (if k = 0 then lo else 0) (if k + 1 = ws.length then hi else 0) (m k) w.d) ws s (coreLocalWrite c i lo hi ws s) := by
  induction ws with
  | nil => exact fun _ _ _ _ => ⟨by simp, fun _ _ => rfl, rfl, fun _ _ => rfl, rfl⟩
  | cons w ws ih =>
    intro i lo m s hlo hfit hone hclean
    rw [List.length_cons] at hfit hone
    have hlast : (ws.isEmpty = true) ↔ 0 + 1 = (w :: ws).length := by cases ws <;> simp
    have hmerge : mergeWord (coreLocalRead c i) lo (if ws.isEmpty = true then hi else 0) w s = (⟨laidWord lo (if 0 + 1 = (w :: ws).length then hi else 0) (m 0) w.d, w.x⟩, s) := by
      rw [if_congr hlast rfl rfl]
      refine mergeWord_clean w ?_ fun hpos => coreLocalRead_clean (by omega) (hclean 0 (by simp) ?_)
      · split_ifs with h1
        · exact hone (by simpa using h1.symm)
        · omega
      · split_ifs at hpos <;> omega
    rw [coreLocalWrite, hmerge]
    dsimp only
    rw [coreLocalPut_store (by omega)]
    refine wordsStored_cons (fun k v => ?_) (ih (m := fun k => m (k + 1)) (by omega) (by omega) (by omega) fun k hk hend => ?_)
    · rw [if_neg (Nat.succ_ne_zero k), ite_self, List.length_cons, if_congr Nat.add_right_cancel_iff rfl rfl]
    · have hk1 : Holds c (i + (k + 1)) (m (k + 1)) s := hclean (k + 1) (by simpa using hk) (by simp; omega)
      rw [Holds, writeWord, State.core_modCore_self, cwRead_cwWrite_ne _ _ (by omega), show i + 1 + k = i + (k + 1) by omega]
      exact hk1

end Sys2Proof.Machine
end

section
/-! Write and read packets at a core (R68, R78, R79, R97, R315 to R318, R320). -/

namespace Sys2Proof.Machine
open Sys2Proof.Claims

theorem exec_wr (p : Packet) (s : State) : exec (.wr p) s = .next (deliver { p with typ := 1 } s) := rfl
theorem exec_wra (p : Packet) (s : State) : exec (.wra p) s = .next (deliver { p with typ := 2 } s) := rfl
theorem exec_rd (p : Packet) (s : State) : exec (.rd p) s = .next (deliver { p with typ := 3 } s) := rfl

/-! ### What a write packet leaves at a core -/

theorem inCoreMap_of_fits {a n : Nat} (ha : a % 8 = 0) (h : a / 8 + n ≤ 0x10000) : inCoreMap a n = true := decide_eq_true (by omega)

/-- A write packet for the core store: its words, the token's arrival, and the answer of a WRA (R97, R320). -/
theorem coreWrite_store {c : Nat} {p : Packet} {s : State} (ha : p.daddr % 8 = 0) (h : pktWord p + p.body.length ≤ 0x10000) : coreWrite c p s =
    if p.typ = 2 then respond p 5 0 0 true [] (arrival c p (coreLocalWrite c (pktWord p) p.keepLo p.keepHi p.body s))
    else arrival c p (coreLocalWrite c (pktWord p) p.keepLo p.keepHi p.body s) := by
  have hmap : inCoreMap p.daddr p.body.length = true := inCoreMap_of_fits ha h
  have hdrop : iswDrop s c p = false := by simp [iswDrop, show ¬ 0x10000 < pktWord p + p.body.length by omega]
  simp only [coreWrite, hmap, hdrop, Bool.not_true, Bool.false_eq_true, if_false]
  rfl

theorem wordsStored_packet {c : Nat} {p : Packet} {m : Nat → Word} {s : State} (hfit : pktWord p + p.body.length ≤ 0x10000) (hlo : p.keepLo < 8) (hhi : p.keepHi < 8)
    (hone : p.body.length = 1 → p.keepLo + p.keepHi < 8) (hm : ∀ i, merges p i → Holds c (pktWord p + i) (m i) s) :
    WordsStored c (pktWord p) (laid p m) p.body s (coreLocalWrite c (pktWord p) p.keepLo p.keepHi p.body s) := by
  rw [show laid p m = _ from funext fun i => funext fun w => laid_eq p m i w]
  exact wordsStored_coreLocalWrite hhi hlo hfit hone fun k hk hend => hm k ⟨hk, hend⟩

theorem bodyStored_of_wordsStored {c : Nat} {p : Packet} {m : Nat → Word} {s u t : State} (hu : ∀ d, u.core d = s.core d) (h : WordsStored c (pktWord p) (laid p m) p.body u t) :
    BodyStored c p m s t := by
  obtain ⟨hwords, houtside, hcore, hcores, -⟩ := h
  exact ⟨hwords, fun j hj => (houtside j hj).trans (by rw [hu]), hcore.trans (by rw [hu]), fun d hd => (hcores d hd).trans (hu d)⟩

/-- A write packet that reaches a core leaves its words in the store before anything else follows. -/
theorem deliver_write {q : Packet} {m : Nat → Word} {s : State} (hw : Writes q 0x10000) (h3 : q.typ ≠ 3) (hr : Reaches q s)
    (hm : ∀ i, merges q i → Holds (coreAt q.dx q.dy) (pktWord q + i) (m i) s) :
    ∃ u, BodyStored (coreAt q.dx q.dy) q m s u ∧ u = { crossed q s with cores := u.cores } ∧
      deliver q s = if q.typ = 2 then respond q 5 0 0 true [] (arrival (coreAt q.dx q.dy) q u) else arrival (coreAt q.dx q.dy) q u := by
  obtain ⟨h8, -, hfit, hlo, hhi, hone⟩ := hw
  obtain ⟨u, hsame, hserve⟩ := deliver_reaches hr
  have hu : ∀ d, u.core d = s.core d := fun d => (hsame.core d).trans (by rw [crossed_rest]; rfl)
  have hstored := wordsStored_packet (m := m) (s := u) hfit hlo hhi hone fun i hi => by
    rw [Holds, hu]
    exact hm i hi
  refine ⟨_, bodyStored_of_wordsStored hu hstored, ?_, ?_⟩
  · rw [hstored.rest, hsame.rest]
  · rw [hserve, serveCore, if_neg h3, coreWrite_store h8 hfit]

/-! ### Reads (R315, R317) -/

/-- The RDATA packets of a read whose source can be answered. -/
theorem rdataPkts_answers {p : Packet} {s : State} (m : Nat → Word) (hs : srcField p < 84) (hd : dstField p < 84) (hg : GatewaysUp s) :
    ∃ net, rdataPkts p ((List.range (8 * (p.rlines + 1))).map fun i => (⟨m i, false⟩ : PWord)) s = { s with net := net } ∧ ReadAnswer p m s.net net := by
  unfold rdataPkts
  rw [List.length_map, List.length_range]
  split_ifs with hlen
  · obtain ⟨e, g, hsend⟩ := respond_sends hs hd hg 4 0 p.daddr true ((List.range (8 * (p.rlines + 1))).map fun i => (⟨m i, false⟩ : PWord))
    rw [hsend]
    exact ⟨_, rfl, fun _ => ⟨_, rfl, ⟨rfl, rfl, rfl, rfl, rfl, rfl, rfl⟩, rfl, rfl, rfl⟩, fun h => absurd h (by omega)⟩
  · obtain ⟨e, g, hsend⟩ := respond_sends hs hd hg 4 0 p.daddr false (((List.range (8 * (p.rlines + 1))).map fun i => (⟨m i, false⟩ : PWord)).take 256)
    rw [hsend]
    obtain ⟨e', g', hsend'⟩ := respond_sends (s := s.send { respPkt p 4 0 p.daddr false (((List.range (8 * (p.rlines + 1))).map fun i => (⟨m i, false⟩ : PWord)).take 256) with
      exp := e, plane := g }) hs hd (gatewaysUp_congr rfl hg) 4 0 (p.daddr + 2048) true (((List.range (8 * (p.rlines + 1))).map fun i => (⟨m i, false⟩ : PWord)).drop 256)
    rw [hsend']
    exact ⟨_, rfl, fun h => absurd h (by omega), fun _ => ⟨_, _, List.append_assoc .., ⟨rfl, rfl, rfl, rfl, rfl, rfl, rfl⟩, rfl, rfl, rfl, ⟨rfl, rfl, rfl, rfl, rfl, rfl, rfl⟩, rfl, rfl, rfl⟩⟩

theorem dstField_lt_of_coreDest {q : Packet} (h : coreDest q = true) : dstField q < 84 := by
  obtain ⟨hx, hy⟩ : q.dx < 448 ∧ q.dy < 180 := by simpa [coreDest] using h
  rw [dstField, if_neg (by omega), if_neg (by omega), fieldXY]
  omega

/-- A read packet that reaches a core, of lines that read clean. -/
theorem deliver_read {q : Packet} {m : Nat → Word} {s : State} (h3 : q.typ = 3) (hr : Reaches q s) (h8 : q.daddr % 8 = 0) (hfit : pktWord q + 8 * (q.rlines + 1) ≤ 0x10000)
    (hs : srcField q < 84) (hg : GatewaysUp s) (hm : ∀ i < 8 * (q.rlines + 1), Holds (coreAt q.dx q.dy) (pktWord q + i) (m i) s) :
    ReadAnswer q m (s.net.erase q) (deliver q s).net ∧ (∀ d, (deliver q s).core d = s.core d) ∧ (deliver q s).regs = s.regs := by
  obtain ⟨u, hsame, hserve⟩ := deliver_reaches hr
  have hu : ∀ d, u.core d = s.core d := fun d => (hsame.core d).trans (by rw [crossed_rest]; rfl)
  have hregs : u.regs = s.regs := by rw [hsame.rest, crossed_rest]
  have hnet : u.net = s.net.erase q := by rw [hsame.rest, crossed_rest]
  have hread : outWords (coreLocalRead (coreAt q.dx q.dy)) ((List.range (8 * (q.rlines + 1))).map (· + pktWord q)) u =
      ((List.range (8 * (q.rlines + 1))).map fun i => (⟨m i, false⟩ : PWord), u) := by
    refine outWords_clean _ _ _ fun i hi => ?_
    have hlt := List.mem_range.1 hi
    refine coreLocalRead_clean (by omega) ?_
    rw [Holds, hu, Nat.add_comm]
    exact hm i hlt
  obtain ⟨net, hsend, hans⟩ := rdataPkts_answers m hs (dstField_lt_of_coreDest hr.dest) (gatewaysUp_congr hregs hg)
  have hdel : deliver q s = { u with net := net } := by
    rw [hserve, serveCore, if_pos h3]
    simp only [inCoreMap_of_fits h8 hfit, hread, hsend, Bool.not_true, Bool.false_eq_true, if_false]
  rw [hdel]
  exact ⟨hnet ▸ hans, hu, hregs⟩

theorem corePackets : Claims.CorePackets := by
  intro p s m c hc
  refine ⟨fun hw hm => ⟨fun q hq hr => ?wr, fun q hq hr hte ha => ?wra⟩, fun q hq hr _ h8 hfit ha hm => ?rd⟩
  case wr =>
    subst hq hc
    obtain ⟨u, hbody, hrest, hdel⟩ := deliver_write (q := { p with typ := 1 }) hw (show (1 : Nat) ≠ 3 by decide) hr hm
    exact ⟨u, by rw [exec_wr, hdel]; rfl, hbody, hrest⟩
  case wra =>
    subst hq hc
    obtain ⟨u, hbody, hrest, hdel⟩ := deliver_write (q := { p with typ := 2 }) hw (show (2 : Nat) ≠ 3 by decide) hr hm
    have hregs : u.regs = s.regs := by rw [hrest, crossed_rest]
    have hnet : u.net = s.net.erase { p with typ := 2 } := by rw [hrest, crossed_rest]
    obtain ⟨hsrc, hup⟩ := ha
    obtain ⟨e, g, hsend⟩ := respond_sends (p := { p with typ := 2 }) hsrc (dstField_lt_of_coreDest hr.dest) (gatewaysUp_congr hregs hup) 5 0 0 true []
    have harr : arrival (coreAt p.dx p.dy) { p with typ := 2 } u = u := by simp [arrival, hte]
    rw [if_pos rfl, harr, hsend] at hdel
    refine ⟨_, _, (exec_wra p s).trans (congrArg _ hdel), hbody, congrArg (· ++ _) hnet, ⟨rfl, rfl, rfl, rfl, rfl, rfl, rfl⟩, rfl, rfl, ?_⟩
    rw [State.send, hrest]
  case rd =>
    subst hq hc
    exact ⟨_, exec_rd p s, deliver_read (q := { p with typ := 3 }) rfl hr h8 hfit ha.1 ha.2 hm⟩

end Sys2Proof.Machine
end

section
/-! Write and read packets at a field store: the bytes of a packet word by word, and the words they leave (R317, R415, R458, R865). -/

namespace Sys2Proof.Machine
open Sys2Proof.Claims

/-! ### The bytes that a packet carries (R865) -/

theorem length_xBytes (ws : List PWord) : (xBytes ws).length = 8 * ws.length := by
  induction ws with
  | nil => rfl
  | cons w ws ih =>
    have hcons : xBytes (w :: ws) = (leBytes 8 w.d.toNat).map (fun b => (b, w.x)) ++ xBytes ws := List.flatMap_cons
    rw [hcons, List.length_append, List.length_map, leBytes_length, ih, List.length_cons]
    omega

/-- Byte i of word j, with the word's X bit. -/
theorem getElem?_xBytes {ws : List PWord} {j i : Nat} {w : PWord} (hw : ws[j]? = some w) (hi : i < 8) : (xBytes ws)[8 * j + i]? = some ((leBytes 8 w.d.toNat).getD i 0, w.x) := by
  induction ws generalizing j with
  | nil => simp at hw
  | cons v ws ih =>
    have hcons : xBytes (v :: ws) = (leBytes 8 v.d.toNat).map (fun b => (b, v.x)) ++ xBytes ws := List.flatMap_cons
    have hlen : ((leBytes 8 v.d.toNat).map (fun b => (b, v.x))).length = 8 := by rw [List.length_map, leBytes_length]
    rw [hcons]
    match j with
    | 0 =>
      obtain rfl : v = w := by simpa using hw
      have hi' : i < (leBytes 8 v.d.toNat).length := by rwa [leBytes_length]
      rw [List.getElem?_append_left (by omega), Nat.mul_zero, Nat.zero_add, List.getElem?_map, List.getElem?_eq_getElem hi', List.getD_eq_getElem _ _ hi']
      rfl
    | j + 1 =>
      rw [List.getElem?_append_right (by omega), hlen, show 8 * (j + 1) + i - 8 = 8 * j + i by omega]
      exact ih (by simpa using hw)

/-- The bytes that a packet's word keeps at its first end. -/
def keptLo (p : Packet) (j : Nat) : Nat := if j = 0 then p.keepLo else 0

/-- The bytes that a packet's word keeps at its last end. -/
def keptHi (p : Packet) (j : Nat) : Nat := if j + 1 = p.body.length then p.keepHi else 0

section
variable {p : Packet} (h8 : p.daddr % 8 = 0) (hlo : p.keepLo < 8) (hhi : p.keepHi < 8)
include h8 hlo hhi

/-- What a write of the packet's bytes puts at byte i of its word j: nothing where the packet keeps it. -/
theorem newByte_pktBytes {j i : Nat} {w : PWord} (hw : p.body[j]? = some w) (hi : i < 8) : newByte (pktBytes p) (p.daddr + p.keepLo) (pktWord p + j) i =
    if i < keptLo p j ∨ 8 ≤ i + keptHi p j then none else some ((leBytes 8 w.d.toNat).getD i 0, w.x) := by
  have hj : j < p.body.length := (List.getElem?_eq_some_iff.1 hw).1
  have hdaddr : p.daddr = 8 * pktWord p := by unfold pktWord; omega
  have hbyte := getElem?_xBytes hw hi
  have hat : 8 * (pktWord p + j) + i < p.daddr + p.keepLo ↔ i < keptLo p j := by unfold keptLo; split_ifs <;> omega
  have hend : 8 * j + i < 8 * p.body.length - p.keepHi ↔ ¬ 8 ≤ i + keptHi p j := by unfold keptHi; split_ifs <;> omega
  by_cases h1 : i < keptLo p j
  · rw [newByte, if_pos (hat.2 h1), if_pos (.inl h1)]
  · have hge := mt hat.1 h1
    rw [newByte, if_neg hge, pktBytes, List.getElem?_drop, List.getElem?_take, length_xBytes, show p.keepLo + (8 * (pktWord p + j) + i - (p.daddr + p.keepLo)) = 8 * j + i by omega]
    by_cases h2 : 8 ≤ i + keptHi p j
    · rw [if_neg (by rw [hend]; exact not_not.2 h2), if_pos (.inr h2)]
    · rw [if_pos (hend.2 h2), hbyte, if_neg (not_or.2 ⟨h1, h2⟩)]

end

/-! ### One word of a field store (R416, R865) -/

/-- The bytes of a word, each replaced where `nb` has a new one. -/
def bytesOver (nb : List (Option (Byte × Bool))) (old : Nat) : Nat := leNat ((leBytes 8 old).zipWith (fun o n => match n with | some q => q.1 | none => o) nb)

/-- A new byte comes from a poisoned word. -/
def poisonIn (nb : List (Option (Byte × Bool))) : Bool := nb.any fun o => match o with | some q => q.2 | none => false

/-- A word under a write of bytes: whole where every byte is new, merged with what it reads as otherwise (R865). -/
theorem fsMergeWord_eq (f a : Nat) (bs : List (Byte × Bool)) (w : Nat) (s : State) : fsMergeWord f a bs w s =
    if ((List.range 8).map (newByte bs a w)).all Option.isSome then
      fsPut f w ⟨wd (bytesOver ((List.range 8).map (newByte bs a w)) 0), poisonIn ((List.range 8).map (newByte bs a w))⟩ s
    else fsPut f w ⟨wd (bytesOver ((List.range 8).map (newByte bs a w)) (fsRead f w s).1.d.toNat), (fsRead f w s).1.x || poisonIn ((List.range 8).map (newByte bs a w))⟩ (fsRead f w s).2 := by
  generalize hnb : (List.range 8).map (newByte bs a w) = nb
  generalize hr : fsRead f w s = r
  unfold fsMergeWord
  rw [hnb, hr]
  rfl

/-- The new bytes of a word that keeps `lo` and `hi` bytes at its ends. -/
def newBytes (lo hi : Nat) (w : PWord) : List (Option (Byte × Bool)) :=
  (List.range 8).map fun i => if i < lo ∨ 8 ≤ i + hi then none else some ((leBytes 8 w.d.toNat).getD i 0, w.x)

theorem wd_bytesOver (lo hi : Nat) (old : Word) (w : PWord) : wd (bytesOver (newBytes lo hi w) old.toNat) = laidWord lo hi old w.d := by
  rw [bytesOver, newBytes, leBytes_eq_map 8 old.toNat, List.zipWith_map, List.zipWith_self, laidWord]
  refine congrArg (fun l => wd (leNat l)) (List.map_congr_left fun i _ => ?_)
  split_ifs <;> rfl

theorem poisonIn_newBytes {lo hi : Nat} (h : lo + hi < 8) (w : PWord) : poisonIn (newBytes lo hi w) = w.x := by
  rw [Bool.eq_iff_iff, poisonIn, newBytes, List.any_map, List.any_eq_true]
  refine ⟨fun ⟨i, _, hi⟩ => ?_, fun hx => ⟨lo, List.mem_range.2 (by omega), ?_⟩⟩
  · rw [Function.comp] at hi
    split_ifs at hi
    exact hi
  · rw [Function.comp, if_neg (by omega)]
    exact hx

theorem all_isSome_newBytes (lo hi : Nat) (w : PWord) : (newBytes lo hi w).all Option.isSome = true ↔ lo = 0 ∧ hi = 0 := by
  rw [newBytes, List.all_map, List.all_eq_true]
  refine ⟨fun h => ?_, ?_⟩
  · have hnew : ∀ i < 8, ¬ (i < lo ∨ 8 ≤ i + hi) := fun i hi hkept => by
      have := h i (List.mem_range.2 hi)
      rw [Function.comp, if_pos hkept] at this
      exact Bool.false_ne_true this
    have := hnew 0 (by omega)
    have := hnew 7 (by omega)
    omega
  · rintro ⟨rfl, rfl⟩ i hi
    have := List.mem_range.1 hi
    rw [Function.comp, if_neg (by omega)]
    rfl

theorem fsRead_clean {f w : Nat} {d : Word} {s : State} (h : FieldHolds f w d s) : fsRead f w s = (⟨d, false⟩, s) := by
  obtain ⟨hnone, rfl⟩ | ⟨cw, hsome, hclean⟩ := h
  · simp only [fsRead, hnone]
  · simp only [fsRead, hsome, hclean]

/-- Word j of a packet at a field store, its kept bytes read from a word that reads clean. -/
theorem fsMergeWord_pktBytes {f : Nat} {p : Packet} {m : Nat → Word} {j : Nat} {w : PWord} {s : State} (h8 : p.daddr % 8 = 0) (hlo : p.keepLo < 8) (hhi : p.keepHi < 8)
    (hone : p.body.length = 1 → p.keepLo + p.keepHi < 8) (hw : p.body[j]? = some w) (hm : merges p j → FieldHolds f (pktWord p + j) (m j) s) :
    fsMergeWord f (p.daddr + p.keepLo) (pktBytes p) (pktWord p + j) s = fsPut f (pktWord p + j) ⟨laid p m j w, w.x⟩ s := by
  have hnew : (List.range 8).map (newByte (pktBytes p) (p.daddr + p.keepLo) (pktWord p + j)) = newBytes (keptLo p j) (keptHi p j) w :=
    List.map_congr_left fun i hi => newByte_pktBytes h8 hlo hhi hw (List.mem_range.1 hi)
  have hj : j < p.body.length := (List.getElem?_eq_some_iff.1 hw).1
  have hkept : keptLo p j + keptHi p j < 8 := by unfold keptLo keptHi; split_ifs <;> omega
  rw [fsMergeWord_eq, hnew, poisonIn_newBytes hkept, laid_eq]
  change _ = fsPut f (pktWord p + j) ⟨laidWord (keptLo p j) (keptHi p j) (m j) w.d, w.x⟩ s
  split_ifs with hall
  · obtain ⟨h0, h1⟩ := (all_isSome_newBytes ..).1 hall
    rw [show (0 : Nat) = (0 : Word).toNat from rfl, wd_bytesOver, h0, h1, laidWord_zero, laidWord_zero]
  · have hmerge : merges p j := by
      refine ⟨hj, ?_⟩
      rw [all_isSome_newBytes] at hall
      unfold keptLo keptHi at hall
      split_ifs at hall <;> omega
    rw [fsRead_clean (hm hmerge), wd_bytesOver, Bool.false_or]

/-! ### The words of a packet (R415, R865) -/

theorem tfind_fsPut_self (f w : Nat) (x : PWord) (s : State) : tfind (fsPut f w x s).fst (fsWords * f + w) = some (eccEncode x.d x.x (fsFold w)) := tfind_tset_self ..

theorem tfind_fsPut_ne {f w k : Nat} (x : PWord) (s : State) (h : fsWords * f + w ≠ k) : tfind (fsPut f w x s).fst k = tfind s.fst k := tfind_tset_ne _ _ h

/-- Writes of distinct words, each of which puts v at its word wherever that word holds what it held at first. -/
theorem foldl_fsPut {f : Nat} {v : Nat → PWord} {g : Nat → State → State} {l : List Nat} (hnd : l.Nodup) : ∀ {s : State},
    (∀ w ∈ l, ∀ t, tfind t.fst (fsWords * f + w) = tfind s.fst (fsWords * f + w) → g w t = fsPut f w (v w) t) →
    forEach l g s = { s with fst := (forEach l g s).fst } ∧ (∀ w ∈ l, tfind (forEach l g s).fst (fsWords * f + w) = some (eccEncode (v w).d (v w).x (fsFold w))) ∧
      ∀ k, (∀ w ∈ l, fsWords * f + w ≠ k) → tfind (forEach l g s).fst k = tfind s.fst k := by
  induction l with
  | nil => exact fun _ => ⟨rfl, fun _ hw => absurd hw List.not_mem_nil, fun _ _ => rfl⟩
  | cons w l ih =>
    intro s hg
    obtain ⟨hw, hnd⟩ := List.nodup_cons.1 hnd
    have hhead : forEach (w :: l) g s = forEach l g (fsPut f w (v w) s) := congrArg (forEach l g) (hg w List.mem_cons_self s rfl)
    obtain ⟨hrest, hin, hout⟩ := ih hnd (s := fsPut f w (v w) s) fun u hu t ht => hg u (List.mem_cons_of_mem _ hu) t (ht.trans (tfind_fsPut_ne _ _ (by
      have := ne_of_mem_of_not_mem hu hw
      omega)))
    rw [hhead]
    refine ⟨by rw [hrest]; rfl, fun u hu => ?_, fun k hk => ?_⟩
    · rcases List.mem_cons.1 hu with rfl | hu
      · rw [hout _ fun x hx he => hw (by rwa [show u = x by omega]), tfind_fsPut_self]
      · exact hin u hu
    · rw [hout k fun x hx => hk x (List.mem_cons_of_mem _ hx), tfind_fsPut_ne _ _ (hk w List.mem_cons_self)]

/-- From s to t the words of packet p stand in field f's store, laid over m, under the code of the folded address, and no other word of a field store changed (R415, R865). -/
def FieldStored (f : Nat) (p : Packet) (m : Nat → Word) (s t : State) : Prop :=
  (∀ i w, p.body[i]? = some w → tfind t.fst (fsWords * f + (pktWord p + i)) = some (eccEncode (laid p m i w) w.x (fsFold (pktWord p + i)))) ∧
    ∀ k, (k < fsWords * f + pktWord p ∨ fsWords * f + pktWord p + p.body.length ≤ k) → tfind t.fst k = tfind s.fst k

/-- A packet's words at a field store, the bytes that it keeps at its ends read from words that read clean. -/
theorem fieldStored_fsWrite {f : Nat} {p : Packet} {m : Nat → Word} {s : State} (hw : Writes p fsWords) (hm : ∀ i, merges p i → FieldHolds f (pktWord p + i) (m i) s) :
    FieldStored f p m s (fsWrite f p s) ∧ fsWrite f p s = { s with fst := (fsWrite f p s).fst } := by
  obtain ⟨h8, hne, hfit, hlo, hhi, hone⟩ := hw
  have hpos : 0 < p.body.length := List.length_pos_of_ne_nil hne
  have hlen : (pktBytes p).length = 8 * p.body.length - p.keepHi - p.keepLo := by
    rw [pktBytes, List.length_drop, List.length_take, length_xBytes]
    omega
  have hfirst : (p.daddr + p.keepLo) / 8 = pktWord p := by unfold pktWord; omega
  have hcount : ((p.daddr + p.keepLo) % 8 + (pktBytes p).length + 7) / 8 = p.body.length := by
    rw [hlen]
    omega
  have hmem : ∀ w ∈ (List.range p.body.length).map (· + pktWord p), pktWord p ≤ w ∧ w - pktWord p < p.body.length := fun w hw => by
    obtain ⟨j, hj, rfl⟩ := List.mem_map.1 hw
    have := List.mem_range.1 hj
    omega
  have hfold := foldl_fsPut (f := f) (s := s) (v := fun w => ⟨laid p m (w - pktWord p) (p.body.getD (w - pktWord p) default), (p.body.getD (w - pktWord p) default).x⟩)
    (g := fun w t => if w < fsWords then fsMergeWord f (p.daddr + p.keepLo) (pktBytes p) w t else t) (l := (List.range p.body.length).map (· + pktWord p))
    (List.nodup_range.map (add_left_injective _)) fun w hw t ht => by
      obtain ⟨hle, hlt⟩ := hmem w hw
      obtain ⟨j, rfl⟩ := Nat.exists_eq_add_of_le hle
      rw [Nat.add_sub_cancel_left] at hlt ⊢
      rw [if_pos (by omega), fsMergeWord_pktBytes h8 hlo hhi hone (List.getElem?_eq_getElem hlt) fun hj => ?_, List.getD_eq_getElem _ _ hlt]
      rw [FieldHolds, ht]
      exact hm j hj
  have hwrite : fsWrite f p s = forEach ((List.range p.body.length).map (· + pktWord p)) (fun w t => if w < fsWords then fsMergeWord f (p.daddr + p.keepLo) (pktBytes p) w t else t) s := by
    rw [fsWrite, fsWriteBytes, hcount, hfirst]
  rw [← hwrite] at hfold
  obtain ⟨hrest, hin, hout⟩ := hfold
  refine ⟨⟨fun i w hi => ?_, fun k hk => hout k fun u hu => ?_⟩, hrest⟩
  · have hlt := (List.getElem?_eq_some_iff.1 hi).1
    have hget : p.body.getD i default = w := by rw [List.getD_eq_getElem?_getD, hi]; rfl
    have := hin (pktWord p + i) (List.mem_map.2 ⟨i, List.mem_range.2 hlt, Nat.add_comm ..⟩)
    rwa [Nat.add_sub_cancel_left, hget] at this
  · obtain ⟨hle, hlt⟩ := hmem u hu
    omega

/-! ### The Occulter and the packet's way (R458, R675) -/

theorem occTrack_rest (f : Nat) (p : Packet) (s : State) : occTrack f p s = { s with occ := (occTrack f p s).occ } := by
  unfold occTrack
  split <;> rfl

/-- The Occulter follows a write by its registers and slots alone. -/
theorem occTrack_congr {s t : State} (hr : t.regs = s.regs) (ho : t.occ = s.occ) (f : Nat) (p : Packet) : (occTrack f p t).occ = (occTrack f p s).occ := by
  have hrd : t.rd = s.rd := funext fun off => by rw [State.rd, State.rd, hr]
  have hflag : t.flag = s.flag := by unfold State.flag; rw [hrd]
  have hslots : slotsAt t = slotsAt s := by unfold slotsAt mlen State.fld; rw [hrd]
  have hocc : t.occAt f = s.occAt f := by rw [State.occAt, State.occAt, ho]
  unfold occTrack
  rw [hflag, hslots, hocc]
  split
  · exact ho
  · simp only [State.setOcc, ho]

theorem deliverStore_passes {q : Packet} {s : State} (h : Passes q s) (hon : storeOn s q.dy = true) : deliverStore q s =
    if q.typ = 3 then
      rdataPkts q (outWords (fun w u => if w < fsWords then fsRead q.dy w u else (⟨0, false⟩, u)) ((List.range (8 * (q.rlines + 1))).map (· + pktWord q)) (crossed q s)).1
        (outWords (fun w u => if w < fsWords then fsRead q.dy w u else (⟨0, false⟩, u)) ((List.range (8 * (q.rlines + 1))).map (· + pktWord q)) (crossed q s)).2
    else if q.typ = 2 then respond q 5 0 0 true [] (occTrack q.dy q (fsWrite q.dy q (crossed q s))) else occTrack q.dy q (fsWrite q.dy q (crossed q s)) := by
  have hpower : storeOn (crossed q s) q.dy = true := by
    rw [storeOn, State.fld, State.rd, crossed_rest]
    exact hon
  rw [deliverStore, if_neg (ne_true_of_eq_false h.turn), onRoute_passes h]
  simp only [hpower, Bool.not_true, Bool.false_eq_true, if_false]

theorem storeDest_iff (p : Packet) : storeDest p = true ↔ p.dx = 0x1FF ∧ p.dy < 84 := by simp [storeDest]

theorem deliver_store {q : Packet} (h : storeDest q = true) (s : State) : deliver q s = deliverStore q s := by
  obtain ⟨hx, -⟩ := (storeDest_iff q).1 h
  rw [deliver, if_neg (by simp [coreDest, hx]), if_pos h]

theorem exec_fsw {p : Packet} (h : storeDest p = true) (s : State) : exec (.fsw p) s = .next (deliverStore { p with typ := 8 } s) := congrArg Host.Outcome.next (if_pos h)

theorem dstField_of_storeDest {q : Packet} (h : storeDest q = true) : dstField q < 84 := by
  obtain ⟨hx, hy⟩ := (storeDest_iff q).1 h
  rwa [dstField, hx, if_neg (by decide), if_pos rfl]

/-- What a write packet leaves once it has crossed its path: its words, and the Occulter's account of it. -/
theorem occTrack_fsWrite {q : Packet} {m : Nat → Word} {s : State} (hw : Writes q fsWords) (hm : ∀ i, merges q i → FieldHolds q.dy (pktWord q + i) (m i) s) :
    FieldStored q.dy q m s (occTrack q.dy q (fsWrite q.dy q (crossed q s))) ∧ occTrack q.dy q (fsWrite q.dy q (crossed q s)) =
      { crossed q s with fst := (occTrack q.dy q (fsWrite q.dy q (crossed q s))).fst, occ := (occTrack q.dy q s).occ } := by
  have hfst : (crossed q s).fst = s.fst := by rw [crossed_rest]
  obtain ⟨⟨hwords, hout⟩, hrest⟩ := fieldStored_fsWrite (f := q.dy) (s := crossed q s) hw fun i hi => by
    rw [FieldHolds, hfst]
    exact hm i hi
  have hsame : (occTrack q.dy q (fsWrite q.dy q (crossed q s))).fst = (fsWrite q.dy q (crossed q s)).fst := by rw [occTrack_rest]
  have hocc : (occTrack q.dy q (fsWrite q.dy q (crossed q s))).occ = (occTrack q.dy q s).occ := occTrack_congr (by rw [hrest, crossed_rest]) (by rw [hrest, crossed_rest]) ..
  refine ⟨⟨fun i w hi => by rw [hsame]; exact hwords i w hi, fun k hk => by rw [hsame, hout k hk, hfst]⟩, ?_⟩
  rw [hsame, ← hocc]
  exact (occTrack_rest ..).trans (congrArg (fun u : State => { u with occ := (occTrack q.dy q (fsWrite q.dy q (crossed q s))).occ }) hrest)

/-- A read packet that comes to a powered field store, of lines that read clean. -/
theorem deliverStore_read {q : Packet} {m : Nat → Word} {s : State} (h3 : q.typ = 3) (hpass : Passes q s) (hdest : storeDest q = true) (hon : storeOn s q.dy = true)
    (hfit : pktWord q + 8 * (q.rlines + 1) ≤ fsWords) (hs : srcField q < 84) (hg : GatewaysUp s) (hm : ∀ i < 8 * (q.rlines + 1), FieldHolds q.dy (pktWord q + i) (m i) s) :
    ∃ net, deliverStore q s = { crossed q s with net := net } ∧ ReadAnswer q m (s.net.erase q) net := by
  have hfst : (crossed q s).fst = s.fst := by rw [crossed_rest]
  have hregs : (crossed q s).regs = s.regs := by rw [crossed_rest]
  have hnet : (crossed q s).net = s.net.erase q := by rw [crossed_rest]
  have hread : outWords (fun w u => if w < fsWords then fsRead q.dy w u else (⟨0, false⟩, u)) ((List.range (8 * (q.rlines + 1))).map (· + pktWord q)) (crossed q s) =
      ((List.range (8 * (q.rlines + 1))).map fun i => (⟨m i, false⟩ : PWord), crossed q s) := by
    refine outWords_clean _ _ _ fun i hi => ?_
    have hlt := List.mem_range.1 hi
    rw [if_pos (by omega)]
    refine fsRead_clean ?_
    rw [FieldHolds, hfst, Nat.add_comm i]
    exact hm i hlt
  obtain ⟨net, hsend, hans⟩ := rdataPkts_answers m hs (dstField_of_storeDest hdest) (gatewaysUp_congr hregs hg)
  exact ⟨net, by rw [deliverStore_passes hpass hon, if_pos h3, hread, hsend], hnet ▸ hans⟩

theorem fieldStoreWrite : Claims.FieldStoreWrite := by
  intro p s m hdest hon
  refine ⟨fun q hw hm hpass => ⟨fun hq => ?fsw, fun hq ha => ?wra⟩, fun q hq hpass _ h8 hfit ha hm => ?rd⟩
  case fsw =>
    subst hq
    obtain ⟨⟨hwords, hout⟩, hrest⟩ := occTrack_fsWrite (q := { p with typ := 8 }) hw hm
    exact ⟨_, (exec_fsw hdest s).trans (congrArg _ (deliverStore_passes hpass hon)), hrest, hwords, hout⟩
  case wra =>
    subst hq
    obtain ⟨⟨hwords, hout⟩, hrest⟩ := occTrack_fsWrite (q := { p with typ := 2 }) hw hm
    have hdel := (deliver_store (q := { p with typ := 2 }) hdest s).trans (deliverStore_passes hpass hon)
    rw [if_neg (show (2 : Nat) ≠ 3 by decide), if_pos rfl] at hdel
    generalize occTrack p.dy { p with typ := 2 } (fsWrite p.dy { p with typ := 2 } (crossed { p with typ := 2 } s)) = u at hwords hout hrest hdel
    have hregs : u.regs = s.regs := by rw [hrest, crossed_rest]
    have hnet : u.net = s.net.erase { p with typ := 2 } := by rw [hrest, crossed_rest]
    obtain ⟨hsrc, hup⟩ := ha
    obtain ⟨e, g, hsend⟩ := respond_sends (p := { p with typ := 2 }) hsrc (dstField_of_storeDest hdest) (gatewaysUp_congr hregs hup) 5 0 0 true []
    rw [hsend] at hdel
    refine ⟨_, _, (exec_wra p s).trans (congrArg _ hdel), ?_, congrArg (· ++ _) hnet, ⟨rfl, rfl, rfl, rfl, rfl, rfl, rfl⟩, rfl, hwords, hout⟩
    rw [State.send, hrest]
  case rd =>
    subst hq
    obtain ⟨net, hdel, hans⟩ := deliverStore_read (q := { p with typ := 3 }) rfl hpass hdest hon hfit ha.1 ha.2 hm
    refine ⟨_, (exec_rd p s).trans (congrArg _ ((deliver_store (q := { p with typ := 3 }) hdest s).trans hdel)), hans, ?_, ?_, ?_⟩ <;> rw [crossed_rest]

end Sys2Proof.Machine
end

section
/-! Multicasts: the copies of a packet whose tree is free (R336 to R342, R344). -/

namespace Sys2Proof.Machine
open Sys2Proof.Claims

theorem exec_mcw {p : Packet} {s : State} (h : follows s { p with typ := 0x10 } = false) :
    exec (.mcw p) s = .next (mcServe { p with typ := 0x10 } (mcBranches s { p with typ := 0x10 }) (s.taken { p with typ := 0x10 })) :=
  congrArg Host.Outcome.next (if_neg (ne_true_of_eq_false h))

/-! ### What the counts of discards leave (R346, R675) -/

/-- From s to t no register changed but fields' link counters, and nothing of the dark side of the ports. -/
structure CountsOnly (s t : State) : Prop where
  rd : ∀ off, (∀ f, rFldLink f ≠ off) → t.rd off = s.rd off
  dark : t.dark = s.dark
  cores : t.cores = s.cores

theorem CountsOnly.refl (s : State) : CountsOnly s s := ⟨fun _ _ => rfl, rfl, rfl⟩

theorem CountsOnly.trans {s t u : State} (h : CountsOnly s t) (h' : CountsOnly t u) : CountsOnly s u :=
  ⟨fun off ho => (h'.rd off ho).trans (h.rd off ho), h'.dark.trans h.dark, h'.cores.trans h.cores⟩

theorem countsOnly_discardAt (f n : Nat) (s : State) : CountsOnly s (discardAt f n s) := ⟨fun _ ho => rd_satFld_ne _ _ _ _ (ho f), rfl, rfl⟩

theorem countsOnly_mcDropOff (cs : List (Nat × Nat)) (s : State) : CountsOnly s (mcDropOff cs s) := by
  induction cs generalizing s with
  | nil => exact .refl s
  | cons c cs ih =>
    refine .trans ?_ (ih _)
    dsimp only
    split
    · exact countsOnly_discardAt ..
    · exact .refl s

theorem fldLink_ne_coreReg (f c : Nat) {o : Nat} (ho : o < 0x800) : rFldLink f ≠ coreWin c + o := fieldReg_ne_coreReg f c (by decide) ho

theorem fldLink_ne_fieldReg (f g : Nat) {a : Nat} (ha : a < 0x10000) (h : a ≠ 0x300) : rFldLink f ≠ fieldBase g + a := by
  unfold rFldLink fieldBase
  omega

section
variable {s t : State} (h : CountsOnly s t)
include h

theorem CountsOnly.rd_coreReg (c : Nat) {o : Nat} (ho : o < 0x800) : t.rd (coreWin c + o) = s.rd (coreWin c + o) := h.rd _ fun f => fldLink_ne_coreReg f c ho

theorem CountsOnly.rd_fieldReg (f : Nat) {a : Nat} (ha : a < 0x10000) (hne : a ≠ 0x300) : t.rd (fieldBase f + a) = s.rd (fieldBase f + a) := h.rd _ fun g => fldLink_ne_fieldReg g f ha hne

theorem CountsOnly.core (c : Nat) : t.core c = s.core c := by rw [State.core, State.core, h.cores]

theorem CountsOnly.admits (c : Nat) : admits t c = admits s c := by
  have hstat : t.rd (rCoreStat c) = s.rd (rCoreStat c) := h.rd_coreReg c (by decide)
  unfold Machine.admits coreWindow coreLate coreRunning coreSt State.flag State.fld
  rw [hstat, h.dark]

theorem CountsOnly.rtDead (x y : Nat) : rtDead t x y = rtDead s x y := by
  have hlt := coreIdx_lt (coreAt x y)
  have hmap : t.rd (fieldBase (fieldOf (coreAt x y)) + 0x200 + 8 * (coreIdx (coreAt x y) / 64)) = s.rd (fieldBase (fieldOf (coreAt x y)) + 0x200 + 8 * (coreIdx (coreAt x y) / 64)) := by
    rw [Nat.add_assoc]
    exact h.rd_fieldReg _ (by omega) (by omega)
  exact congrArg (fun w => bit w (coreIdx (coreAt x y) % 64)) hmap

theorem CountsOnly.takesCopy (q : Packet) (c : Nat) : takesCopy q c t = takesCopy q c s := by
  have hid : t.rd (rCoreId c) = s.rd (rCoreId c) := h.rd_coreReg c (by decide : 0 < 0x800)
  have hpwr : t.rd (rFldPwr (fieldOf c)) = s.rd (rFldPwr (fieldOf c)) := h.rd_fieldReg _ (by decide) (by decide)
  simp only [Claims.takesCopy, h.rtDead, computeOn, State.fld, hpwr, mcAccept, hid]

end

/-! ### One copy -/

/-- A multicast of whole words without a token, in the core store. -/
structure WholeWords (q : Packet) : Prop where
  typ : q.typ = 0x10
  te : q.te = false
  aligned : q.daddr % 8 = 0
  fits : pktWord q + q.body.length ≤ 0x10000
  lo : q.keepLo = 0
  hi : q.keepHi = 0

/-- The packet as one branch of its tree brings it. -/
def copyOn (q : Packet) (side : Bool) : Packet := { q with rest := [], det := side, side := side }

/-- From k to k' the words of packet q stand in a core's store, and nothing else of the core changed. -/
structure CopyStored (q : Packet) (k k' : Core) : Prop where
  words : ∀ i x, q.body[i]? = some x → tfind k'.store (pktWord q + i) = some (eccEncode x.d x.x (pktWord q + i))
  outside : ∀ j, (j < pktWord q ∨ pktWord q + q.body.length ≤ j) → tfind k'.store j = tfind k.store j
  rest : k' = { k with store := k'.store }

theorem CopyStored.trans {q : Packet} {k k' k'' : Core} (h : CopyStored q k k') (h' : CopyStored q k' k'') : CopyStored q k k'' :=
  ⟨h'.words, fun j hj => (h'.outside j hj).trans (h.outside j hj), by rw [h'.rest, h.rest]⟩

theorem CopyStored.held {q : Packet} {k k' : Core} (h : CopyStored q k k') : k'.held = k.held := by rw [h.rest]

theorem laid_whole {q : Packet} (h : WholeWords q) (m : Nat → Word) (i : Nat) (x : PWord) : laid q m i x = x.d := by
  rw [laid_eq, h.lo, h.hi, ite_self, ite_self, laidWord_zero]

theorem not_merges_whole {q : Packet} (h : WholeWords q) (i : Nat) : ¬ merges q i := by
  simp [merges, h.lo, h.hi]

/-- A copy that comes to a core which does not take it changes nothing (R338, R675). -/
theorem mcDeliver_passed {q : Packet} {c : Nat} {s : State} (h : takesCopy q c s = false) (side : Bool) : mcDeliver (copyOn q side) c s = s := by
  have hacc : mcAccept s (copyOn q side) c = mcAccept s q c := rfl
  rw [mcDeliver, hacc]
  split_ifs with hdead hoff htake
  · rfl
  · rfl
  · simp_all [takesCopy]
  · rfl

/-- A core that takes its copy and whose port is open and empty stores its words at once. -/
theorem mcDeliver_taken {q : Packet} (hq : WholeWords q) {c : Nat} {s : State} (ht : takesCopy q c s = true) (ha : admits s c = true) (hh : (s.core c).held = []) (side : Bool) :
    CopyStored q (s.core c) ((mcDeliver (copyOn q side) c s).core c) ∧ (∀ d, d ≠ c → (mcDeliver (copyOn q side) c s).core d = s.core d) ∧
      mcDeliver (copyOn q side) c s = { s with cores := (mcDeliver (copyOn q side) c s).cores } := by
  obtain ⟨u, hsame, harrive⟩ := arriveCore_empty ha hh (copyOn q side)
  obtain ⟨⟨hlive, hon⟩, hacc⟩ : (rtDead s (coreX c) (coreY c) = false ∧ computeOn s (fieldOf c) = true) ∧ mcAccept s q c = true := by simpa [takesCopy] using ht
  have hserve : serveCore c (copyOn q side) u = coreLocalWrite c (pktWord q) q.keepLo q.keepHi q.body u := by
    rw [serveCore, if_neg (by rw [show (copyOn q side).typ = 0x10 from hq.typ]; decide), coreWrite_store (p := copyOn q side) hq.aligned hq.fits,
      if_neg (by rw [show (copyOn q side).typ = 0x10 from hq.typ]; decide)]
    simp only [arrival, show (copyOn q side).te = false from hq.te, Bool.false_and, Bool.false_eq_true, if_false]
    rfl
  have hdel : mcDeliver (copyOn q side) c s = coreLocalWrite c (pktWord q) q.keepLo q.keepHi q.body u := by
    rw [mcDeliver, if_neg (ne_true_of_eq_false hlive), if_neg (by rw [hon]; decide), if_pos (show mcAccept s (copyOn q side) c = true from hacc), harrive, hserve]
  have hstored := wordsStored_packet (c := c) (m := fun _ => 0) (s := u) hq.fits (by rw [hq.lo]; decide) (by rw [hq.hi]; decide) (fun _ => by rw [hq.lo, hq.hi]; decide)
    fun i hi => absurd hi (not_merges_whole hq i)
  rw [hdel]
  obtain ⟨hwords, houtside, hcore, hcores, hrest⟩ := hstored
  refine ⟨⟨fun i x hx => ?_, fun j hj => (houtside j hj).trans (by rw [hsame.core]), hcore.trans (by rw [hsame.core])⟩, fun d hd => (hcores d hd).trans (hsame.core d), ?_⟩
  · rw [hwords i x hx, laid_whole hq]
  · rw [hrest, hsame.rest]

/-! ### The copies of a tree -/

/-- From s to t the cores of l that take the packet stored it, and nothing else changed. -/
structure CopiesStored (q : Packet) (l : List Nat) (s t : State) : Prop where
  taken : ∀ c ∈ l, takesCopy q c s = true → CopyStored q (s.core c) (t.core c)
  others : ∀ c, (c ∈ l → takesCopy q c s = false) → t.core c = s.core c
  rest : t = { s with cores := t.cores }

theorem copiesStored_mcDeliver {q : Packet} (hq : WholeWords q) {c : Nat} {s : State} (ha : admits s c = true) (hh : (s.core c).held = []) (side : Bool) :
    CopiesStored q [c] s (mcDeliver (copyOn q side) c s) := by
  cases ht : takesCopy q c s with
  | false =>
    rw [mcDeliver_passed ht]
    refine ⟨fun d hd hd' => ?_, fun _ _ => rfl, rfl⟩
    rw [List.mem_singleton.1 hd, ht] at hd'
    exact absurd hd' Bool.false_ne_true
  | true =>
    obtain ⟨hcopy, hothers, hrest⟩ := mcDeliver_taken hq ht ha hh side
    refine ⟨fun d hd _ => by rw [List.mem_singleton.1 hd]; exact hcopy, fun d hd => hothers d ?_, hrest⟩
    rintro rfl
    exact Bool.false_ne_true ((hd (List.mem_singleton_self d)).symm.trans ht)

section
variable {q : Packet} {l : List Nat} {s t : State} (h : CopiesStored q l s t)
include h

theorem CopiesStored.core_cases (c : Nat) : t.core c = s.core c ∨ CopyStored q (s.core c) (t.core c) := by
  by_cases hc : c ∈ l ∧ takesCopy q c s = true
  · exact .inr (h.taken c hc.1 hc.2)
  · exact .inl (h.others c fun hl => Bool.eq_false_iff.2 fun ht => hc ⟨hl, ht⟩)

theorem CopiesStored.takesCopy (c : Nat) : takesCopy q c t = takesCopy q c s := by rw [h.rest]; rfl

theorem CopiesStored.admits (c : Nat) : admits t c = admits s c := by rw [h.rest]; rfl

theorem CopiesStored.held (c : Nat) : (t.core c).held = (s.core c).held := by
  obtain hc | hc := h.core_cases c
  · rw [hc]
  · exact hc.held

theorem CopiesStored.append {l' : List Nat} {u : State} (h' : CopiesStored q l' t u) : CopiesStored q (l ++ l') s u := by
  refine ⟨fun c hc ht => ?_, fun c hc => ?_, by rw [h'.rest, h.rest]⟩
  · by_cases hl' : c ∈ l'
    · have hcopy := h'.taken c hl' ((h.takesCopy c).trans ht)
      obtain hsame | hfirst := h.core_cases c
      · rwa [hsame] at hcopy
      · exact hfirst.trans hcopy
    · rw [h'.others c fun hin => absurd hin hl']
      exact h.taken c ((List.mem_append.1 hc).resolve_right hl') ht
  · rw [h'.others c fun hin => (h.takesCopy c).trans (hc (List.mem_append_right _ hin)), h.others c fun hin => hc (List.mem_append_left _ hin)]

end

/-- The cores of branches, in their order. -/
def branchCores (ws : List ((Nat × Nat) × Branch)) : List Nat := ws.map fun w => coreAt w.1.1 w.1.2

theorem copiesStored_foldl {q : Packet} (hq : WholeWords q) (ws : List ((Nat × Nat) × Branch)) {s : State}
    (hopen : ∀ c ∈ branchCores ws, admits s c = true ∧ (s.core c).held = []) :
    CopiesStored q (branchCores ws) s (ws.foldl (fun t w => mcDeliver (copyOn q w.2.side) (coreAt w.1.1 w.1.2) t) s) := by
  induction ws generalizing s with
  | nil => exact ⟨fun _ hc => absurd hc List.not_mem_nil, fun _ _ => rfl, rfl⟩
  | cons w ws ih =>
    obtain ⟨ha, hh⟩ := hopen _ List.mem_cons_self
    have hfirst := copiesStored_mcDeliver hq ha hh w.2.side
    refine hfirst.append (ih fun c hc => ?_)
    rw [hfirst.admits, hfirst.held]
    exact hopen c (List.mem_cons_of_mem _ hc)

/-! ### A tree whose branches are free (R340, R344) -/

/-- The branches that a packet still owes. -/
def owed (q : Packet) (ws : List ((Nat × Nat) × Branch)) : List ((Nat × Nat) × Branch) := ws.filter fun w => q.rest.isEmpty || q.rest.contains (coreAt w.1.1 w.1.2)

theorem mem_owed {q : Packet} {ws : List ((Nat × Nat) × Branch)} {w : (Nat × Nat) × Branch} : w ∈ owed q ws ↔ w ∈ ws ∧ (q.rest = [] ∨ coreAt w.1.1 w.1.2 ∈ q.rest) := by
  simp [owed, List.mem_filter]

/-- The state in which a free tree hands its copies out: its links crossed, its drops counted. -/
def mcCrossed (q : Packet) (ws : List ((Nat × Nat) × Branch)) (s : State) : State :=
  mcDropOff (ws.map (·.1)) (passLinks (flitsOf q) ((ws.flatMap fun w => w.2.links).eraseDups) s)

theorem countsOnly_mcCrossed (q : Packet) (ws : List ((Nat × Nat) × Branch)) (s : State) : CountsOnly s (mcCrossed q ws s) :=
  .trans (by rw [passLinks_rest]; exact ⟨fun _ _ => rfl, rfl, rfl⟩) (countsOnly_mcDropOff ..)

theorem mcServe_free {q : Packet} {ws : List ((Nat × Nat) × Branch)} {s : State} (h : ∀ w ∈ owed q ws, w.2.route = .ok ∧ mcHeld s q w.1 w.2 = false) :
    mcServe q ws s = (owed q ws).foldl (fun t w => mcDeliver (copyOn q w.2.side) (coreAt w.1.1 w.1.2) t) (mcCrossed q (owed q ws) s) := by
  have hlate : (owed q ws).filter (fun w => mcHeld s q w.1 w.2) = [] := List.filter_eq_nil_iff.2 fun w hw => ne_true_of_eq_false (h w hw).2
  have hfree : (owed q ws).filter (fun w => !mcHeld s q w.1 w.2) = owed q ws := List.filter_eq_self.2 fun w hw => by rw [(h w hw).2]; rfl
  have hgot : (owed q ws).filter (fun w => !mcHeld s q w.1 w.2 && w.2.route == .ok) = owed q ws := List.filter_eq_self.2 fun w hw => by rw [(h w hw).1, (h w hw).2]; rfl
  have hpruned : pruned ((owed q ws).map (·.2)) = [] := by
    have hnone : (((owed q ws).map (·.2)).map (·.route)).filter (fun r => r != .ok && !r.holds) = [] := by
      refine List.filter_eq_nil_iff.2 fun r hr => ?_
      obtain ⟨b, hb, rfl⟩ := List.mem_map.1 hr
      obtain ⟨w, hw, rfl⟩ := List.mem_map.1 hb
      rw [(h w hw).1]
      decide
    rw [pruned, hnone]
    rfl
  have howed : ws.filter (fun w => q.rest.isEmpty || q.rest.contains (coreAt w.1.1 w.1.2)) = owed q ws := rfl
  simp only [mcServe, howed, hlate, hfree, hgot, hpruned, List.isEmpty_nil, if_true]
  rfl

/-- A multicast of whole words whose tree is free: each core owed that takes its copy stores it, and no other core changes. -/
theorem copiesStored_mcServe {q : Packet} (hq : WholeWords q) {ws : List ((Nat × Nat) × Branch)} {s : State} (h : ∀ w ∈ owed q ws, w.2.route = .ok ∧ mcHeld s q w.1 w.2 = false ∧
    admits s (coreAt w.1.1 w.1.2) = true ∧ (s.core (coreAt w.1.1 w.1.2)).held = []) :
    CopiesStored q (branchCores (owed q ws)) (mcCrossed q (owed q ws) s) (mcServe q ws s) := by
  rw [mcServe_free fun w hw => ⟨(h w hw).1, (h w hw).2.1⟩]
  refine copiesStored_foldl hq _ fun c hc => ?_
  obtain ⟨w, hw, rfl⟩ := List.mem_map.1 hc
  have hcounts := countsOnly_mcCrossed q (owed q ws) s
  rw [hcounts.admits, hcounts.core]
  exact (h w hw).2.2

/-! ### The core east of its sender (R340) -/

theorem rectCores_one (x y : Nat) : rectCores x x y y = [(x, y)] := by
  simp [rectCores]

theorem lineWalk_there (s : State) (hor side : Bool) {d n x y : Nat} (h : (if hor then x else y) = d) : lineWalk s hor side d (n + 1) x y = ⟨.ok, side, []⟩ := by
  rw [lineWalk, if_pos h]

/-- A step to the east in one field, to a live router over a free link (R340). -/
theorem lineWalk_east {s : State} {x y : Nat} (hfield : fieldXY x y = fieldXY (x + 1) y) (hfree : linkFree s (meshLink false x y 1) 2 0 = true) (n : Nat) :
    lineWalk s true false (x + 1) (n + 2) x y = ⟨.ok, false, [meshLink false x y 1]⟩ := by
  have hsame : x / 32 = (x + 1) / 32 := by unfold fieldXY at hfield; omega
  have hseam : ((decide (x < 224)) == decide (x + 1 < 224)) = true := by
    rw [beq_iff_eq, decide_eq_decide]
    omega
  have hcross : crossing s x y (x + 1) y = none := by
    simp [crossing, hseam, hfield]
  have hhop : hopOver s 2 false false true x y (x + 1) y = .go (meshLink false x y 1) (x + 1) y false := by
    simp [hopOver, hcross, stepDir, hfree]
  rw [lineWalk]
  simp only [toward, if_true, if_neg (show x ≠ x + 1 by omega), if_pos (Nat.lt_succ_self x), ne_eq, not_true, decide_false, Bool.and_false, Bool.false_and, Bool.false_eq_true, if_false, hhop,
    lineWalk_there s true false (show (if true then x + 1 else y) = x + 1 from rfl)]

theorem mcWalk_east {s : State} {x y : Nat} (hfield : fieldXY x y = fieldXY (x + 1) y) (hfree : linkFree s (meshLink false x y 1) 2 0 = true) :
    mcWalk s (x + 1) y x y = ⟨.ok, false, [meshLink false x y 1]⟩ := by
  have hrow : lineWalk s true false (x + 1) walkFuel x y = ⟨.ok, false, [meshLink false x y 1]⟩ := lineWalk_east hfield hfree 1998
  have hcol : lineWalk s false false y walkFuel (x + 1) y = ⟨.ok, false, []⟩ := lineWalk_there s false false (n := 1999) rfl
  rw [mcWalk, if_neg (by simp), hrow]
  simp [Leg.andThen, hcol]

/-- The tree of a packet to the one core east of its sender: one branch over one link. -/
def eastTree (q : Packet) : List ((Nat × Nat) × Branch) := [((q.sx + 1, q.sy), ⟨.ok, false, [meshLink false q.sx q.sy 1]⟩)]

theorem mcBranches_east {s : State} {q : Packet} (hexp : q.exp = false) (hhere : q.here = false) (hx : q.sx + 1 < 448) (hy : q.sy < 180)
    (hfield : fieldXY q.sx q.sy = fieldXY (q.sx + 1) q.sy) (hrect : mcRect q.mcimg = (q.sx + 1, q.sx + 1, q.sy, q.sy)) (hfree : linkFree s (meshLink false q.sx q.sy 1) 2 0 = true) :
    mcBranches s q = eastTree q := by
  have hmin : min 447 (q.sx + 1) = q.sx + 1 ∧ min 179 q.sy = q.sy := by omega
  have hcore : q.sx ≠ 0x1FE := by omega
  simp only [mcBranches, hrect, hmin.1, hmin.2, hexp, hhere, hcore, rectCores_one, mcTree, eastTree, List.map_cons, List.map_nil, mcWalk_east hfield hfree, false_and, Bool.false_eq_true, if_false, if_true]

/-- The drops of a core whose field computes are none. -/
theorem mcDropOff_powered {c : Nat × Nat} {s : State} (h : computeOn s (fieldXY c.1 c.2) = true) : mcDropOff [c] s = s :=
  if_neg (by simp [h])

theorem fieldOf_coreAt {x : Nat} (y : Nat) (h : x < 448) : fieldOf (coreAt x y) = fieldXY x y := by
  have hx : coreX (coreAt x y) = x := by unfold coreX coreAt; omega
  have hy : coreY (coreAt x y) = y := by unfold coreY coreAt; omega
  rw [fieldOf, hx, hy, fieldXY]

theorem owed_all {q : Packet} (h : q.rest = []) (ws : List ((Nat × Nat) × Branch)) : owed q ws = ws :=
  List.filter_eq_self.2 fun w _ => by rw [h]; rfl

/-- One copy over the link to the east, settled, to an open and empty port. -/
theorem bodyStored_mcServe_east {q : Packet} {s : State} (hq : WholeWords q) (hrest : q.rest = []) (hx : q.sx + 1 < 448) (ht : takesCopy q (coreAt (q.sx + 1) q.sy) s = true)
    (ha : admits s (coreAt (q.sx + 1) q.sy) = true) (hh : (s.core (coreAt (q.sx + 1) q.sy)).held = []) (hsettled : settled s (meshLink false q.sx q.sy 1) = true) :
    BodyStored (coreAt (q.sx + 1) q.sy) q (fun _ => 0) s (mcServe q (eastTree q) (s.taken q)) ∧
      (mcServe q (eastTree q) (s.taken q)).regs = s.regs := by
  have hheld : mcHeld (s.taken q) q (q.sx + 1, q.sy) ⟨.ok, false, [meshLink false q.sx q.sy 1]⟩ = false := by
    have hlink : settled (s.taken q) (meshLink false q.sx q.sy 1) = true := hsettled
    have hport : admits (s.taken q) (coreAt (q.sx + 1) q.sy) = true := ha
    simp [mcHeld, Route.holds, hlink, portRoom, hport]
  have hon : computeOn s (fieldXY (q.sx + 1) q.sy) = true := by
    rw [← fieldOf_coreAt _ hx]
    simp only [takesCopy, Bool.and_eq_true] at ht
    exact ht.1.2
  have hcopies := copiesStored_mcServe (ws := eastTree q) (s := s.taken q) hq fun w hw => by
    rw [owed_all hrest, eastTree, List.mem_singleton] at hw
    subst hw
    exact ⟨rfl, hheld, ha, hh⟩
  rw [owed_all hrest] at hcopies
  have hcounts := countsOnly_mcCrossed q (eastTree q) (s.taken q)
  have hregs : (mcCrossed q (eastTree q) (s.taken q)).regs = s.regs := by
    rw [mcCrossed, passLinks_rest]
    exact (congrArg State.regs (mcDropOff_powered (c := (q.sx + 1, q.sy)) (by exact hon))).trans rfl
  obtain ⟨hwords, houtside, hcore⟩ := hcounts.core _ ▸ hcopies.taken _ List.mem_cons_self ((hcounts.takesCopy ..).trans ht)
  refine ⟨⟨fun i x hx => ?_, houtside, hcore, fun d hd => ?_⟩, ?_⟩
  · rw [hwords i x hx, laid_whole hq]
  · exact (hcopies.others d fun hin => absurd (List.mem_singleton.1 hin) hd).trans (hcounts.core d)
  · rw [hcopies.rest]
    exact hregs

theorem multicasts : Claims.Multicasts := by
  intro p s q hq hturn hte h8 hfit hlo hhi
  subst hq
  have hwhole : WholeWords { p with typ := 0x10 } := ⟨rfl, hte, h8, hfit, hlo, hhi⟩
  refine ⟨fun _ hfree => ⟨_, exec_mcw hturn, ?copies⟩, fun x y hexp hhere hrest hx hy hx448 hy180 hfield hrect _ _ htakes hadmits hheld hlink hsettled => ⟨_, exec_mcw hturn, ?east⟩⟩
  case copies =>
    have hcopies := copiesStored_mcServe (s := s.taken { p with typ := 0x10 }) hwhole fun w hw => hfree w (mem_owed.1 hw).1 (mem_owed.1 hw).2
    have hcounts := countsOnly_mcCrossed { p with typ := 0x10 } (owed { p with typ := 0x10 } (mcBranches s { p with typ := 0x10 })) (s.taken { p with typ := 0x10 })
    refine ⟨fun w hw howed htakes => ?_, fun c hc => ?_⟩
    · obtain ⟨hwords, houtside, hcore⟩ := hcounts.core _ ▸ hcopies.taken _ (List.mem_map_of_mem (mem_owed.2 ⟨hw, howed⟩)) ((hcounts.takesCopy ..).trans htakes)
      exact ⟨hwords, houtside, hcore⟩
    · refine (hcopies.others c fun hin => ?_).trans (hcounts.core c)
      obtain ⟨w, hw, hwc⟩ := List.mem_map.1 hin
      exact (hcounts.takesCopy ..).trans (hc w (mem_owed.1 hw).1 (mem_owed.1 hw).2 hwc)
  case east =>
    subst hx hy
    have hbranch : mcBranches s { p with typ := 0x10 } = eastTree { p with typ := 0x10 } := mcBranches_east hexp hhere hx448 hy180 hfield hrect hlink
    rw [hbranch]
    exact bodyStored_mcServe_east hwhole (q := { p with typ := 0x10 }) hrest hx448 htakes hadmits hheld hsettled

/-- Settles O44: each packet is followed over its free path to the words that it stores or reads. -/
theorem meshPackets : Obligations.MeshPackets := ⟨corePackets, fieldStoreWrite, multicasts⟩

end Sys2Proof.Machine
end

section
/-! Scalar register and immediate instructions, which write sd by the tables, and scalar accesses that fault (R138 to R144, R213). -/

namespace Sys2Proof.Machine
open Sys2Proof.Claims

/-! ### Scalar register and immediate instructions (R138, R142) -/

/-- 1 or 0 by a condition. -/
theorem boolW_eq_ite {b : Bool} {p : Prop} [Decidable p] (h : b = true ↔ p) : boolW b = if p then 1 else 0 := by
  by_cases hp : p
  · rw [if_pos hp, h.2 hp]; rfl
  · rw [if_neg hp, Bool.eq_false_iff.2 fun e => hp (h.1 e)]; rfl

theorem slt_iff (a b : Word) : a.slt b = true ↔ a.toInt < b.toInt := BitVec.slt_iff_toInt_lt
theorem ult_iff (a b : Word) : a.ult b = true ↔ a.toNat < b.toNat := BitVec.ult_iff_toNat_lt

theorem scalarReg_congr {c : CoreId} {op : Nat} {f g : Bool → Word → Word → Word → Word} (h : ∀ m a b d, f m a b d = g m a b d) (s : State) :
    scalarReg c op f s = scalarReg c op g s := by
  rw [show f = g from funext fun m => funext fun a => funext fun b => funext fun d => h m a b d]

/-- The integer instructions are scalar register instructions by the table's results. -/
theorem exec_intOps : ∀ e ∈ intOps, ∀ (c : CoreId) (s : State), exec (e.1 c) s = scalarReg c e.2.1 (fun _ a b d => e.2.2 a b d) s := by
  simp only [intOps, List.forall_mem_cons]
  refine ⟨fun _ _ => rfl, fun _ _ => rfl, fun _ _ => rfl, fun _ _ => rfl, fun _ _ => rfl, fun _ _ => rfl, fun _ _ => rfl, fun _ _ => rfl, fun _ _ => rfl,
    fun _ _ => rfl, fun _ _ => rfl, fun c s => ?min, fun c s => ?max, fun c s => ?minu, fun c s => ?maxu, fun c s => ?slt, fun c s => ?sltu, fun c s => ?seq, fun c s => ?sel, by simp⟩
  case min => exact scalarReg_congr (fun _ a b _ => by simp only [slt_iff]) s
  case max => exact scalarReg_congr (fun _ a b _ => by simp only [slt_iff]) s
  case minu => exact scalarReg_congr (fun _ a b _ => by simp only [ult_iff]) s
  case maxu => exact scalarReg_congr (fun _ a b _ => by simp only [ult_iff]) s
  case slt => exact scalarReg_congr (fun _ a b _ => boolW_eq_ite (slt_iff a b)) s
  case sltu => exact scalarReg_congr (fun _ a b _ => boolW_eq_ite (ult_iff a b)) s
  case seq => exact scalarReg_congr (fun _ a b _ => boolW_eq_ite beq_iff_eq) s
  case sel => exact scalarReg_congr (fun _ a b d => (ite_not (d = 0) a b).symm) s

theorem toNat_eq_ite (b : Bool) : b.toNat = if b then 1 else 0 := by cases b <;> rfl

/-- The floating-point instructions are scalar register instructions by the table's results in the run's mode. -/
theorem exec_floatOps : ∀ e ∈ floatOps, ∀ (c : CoreId) (s : State), exec (e.1 c) s = scalarReg c e.2.1 (fun m a b d => BitVec.ofNat 64 (e.2.2 m a b d)) s := by
  simp only [floatOps, List.forall_mem_cons]
  refine ⟨fun _ _ => rfl, fun _ _ => rfl, fun _ _ => rfl, fun _ _ => rfl, fun _ _ => rfl, fun _ _ => rfl, fun _ _ => rfl, fun _ _ => rfl, fun _ _ => rfl,
    fun _ _ => rfl, fun _ _ => rfl, fun _ _ => rfl, fun c s => ?less, fun c s => ?equal, by simp⟩
  case less => exact scalarReg_congr (fun m a b _ => congrArg (BitVec.ofNat 64) (toNat_eq_ite _)) s
  case equal => exact scalarReg_congr (fun m a b _ => congrArg (BitVec.ofNat 64) (toNat_eq_ite _)) s

/-- IMM is the low half of the word, sign-extended. -/
theorem immW_eq_signExtend (w : Word) : immW w = BitVec.signExtend 64 (w.extractLsb 31 0) := by
  have h : bits w 31 0 = (w.extractLsb 31 0).toNat := by rw [BitVec.extractLsb_toNat]; rfl
  rw [immW, h, sx_toNat]
  rfl

theorem toInt_immW (w : Word) : (immW w).toInt = (w.extractLsb 31 0).toInt := by
  rw [immW_eq_signExtend, BitVec.toInt_signExtend_of_le (by decide)]

theorem slti_eq_ite (a w : Word) : boolW (a.slt (immW w)) = if a.toInt < (w.extractLsb 31 0).toInt then 1 else 0 :=
  boolW_eq_ite (by rw [slt_iff, toInt_immW])

theorem sltui_eq_ite (a w : Word) : boolW (a.ult (immW w)) = if a.toNat < (BitVec.signExtend 64 (w.extractLsb 31 0)).toNat then 1 else 0 :=
  boolW_eq_ite (by rw [ult_iff, immW_eq_signExtend])

theorem lih_eq_append (a w : Word) : wd (a.toNat % 2 ^ 32 + bits w 31 0 * 2 ^ 32) = (w.extractLsb 31 0) ++ (a.extractLsb 31 0) := by
  have hw : bits w 31 0 = (w.extractLsb 31 0).toNat := by rw [BitVec.extractLsb_toNat]; rfl
  have ha : a.toNat % 2 ^ 32 = (a.extractLsb 31 0).toNat := by rw [BitVec.extractLsb_toNat]; rfl
  have hlt := ((w.extractLsb 31 0) ++ (a.extractLsb 31 0)).isLt
  apply BitVec.eq_of_toNat_eq
  rw [BitVec.toNat_append, ← Nat.shiftLeft_add_eq_or_of_lt (a.extractLsb 31 0).isLt, Nat.shiftLeft_eq] at hlt ⊢
  rw [hw, ha, wd, BitVec.toNat_ofNat, Nat.mod_eq_of_lt (by omega), Nat.add_comm]

theorem scalarImm_congr {c : CoreId} {op : Nat} {f g : Word → Word → Word} (h : ∀ a w, f a w = g a w) (s : State) : scalarImm c op f s = scalarImm c op g s := by
  rw [show f = g from funext fun a => funext fun w => h a w]

/-- The immediate instructions are those of the table. -/
theorem exec_immOps : ∀ e ∈ immOps, ∀ (c : CoreId) (s : State), exec (e.1 c) s = scalarImm c e.2.1 e.2.2 s := by
  have hext : ∀ (g : Word → Word → Word) (a w : Word), g a (immW w) = g a (BitVec.signExtend 64 (w.extractLsb 31 0)) := fun g a w => by rw [immW_eq_signExtend]
  simp only [immOps, List.forall_mem_cons]
  refine ⟨fun _ s => ?addi, fun _ s => ?andi, fun _ s => ?ori, fun _ s => ?xori, fun _ _ => rfl, fun _ _ => rfl, fun _ _ => rfl, fun _ s => ?slti, fun _ s => ?sltui, fun _ s => ?li, fun _ s => ?lih, by simp⟩
  case addi => exact scalarImm_congr (hext (· + ·)) s
  case andi => exact scalarImm_congr (hext (· &&& ·)) s
  case ori => exact scalarImm_congr (hext (· ||| ·)) s
  case xori => exact scalarImm_congr (hext (· ^^^ ·)) s
  case slti => exact scalarImm_congr slti_eq_ite s
  case sltui => exact scalarImm_congr sltui_eq_ite s
  case li => exact scalarImm_congr (fun _ w => immW_eq_signExtend w) s
  case lih => exact scalarImm_congr lih_eq_append s

/-- A scalar register instruction that executes. -/
theorem scalarReg_executes {c : CoreId} {op : Nat} {w : Word} {s : State} (h : Executes c.val 2 op w s) (f : Bool → Word → Word → Word → Word) :
    ∃ t, scalarReg c op f s = .next t ∧ OnlyCore c.val (corePc s c.val + 1) s t ∧
      ScalarWritten c.val (bits w 49 45) (f (s.core c.val).vmode (opnd s c.val w 44 40) (opnd s c.val w 39 35) (opnd s c.val w 34 30)) s t := by
  rw [scalarReg, issue_executes h (List.mem_singleton_self op)]
  exact ⟨_, rfl, finish_doneS h.goes⟩

/-- A scalar immediate instruction that executes. -/
theorem scalarImm_executes {c : CoreId} {op : Nat} {w : Word} {s : State} (h : Executes c.val 3 op w s) (f : Word → Word → Word) :
    ∃ t, scalarImm c op f s = .next t ∧ OnlyCore c.val (corePc s c.val + 1) s t ∧ ScalarWritten c.val (bits w 49 45) (f (opnd s c.val w 44 40) w) s t := by
  rw [scalarImm, issue_executes h (List.mem_singleton_self op)]
  exact ⟨_, rfl, finish_doneS h.goes⟩

/-- Settles O1: every floating-point instruction is a scalar register instruction, whose body writes sd. -/
theorem floatScalarResult : Obligations.FloatScalarResult := by
  intro e he c w s h
  rw [exec_floatOps e he]
  exact scalarReg_executes h _

theorem integerScalarResult : Claims.IntegerScalarResult := by
  intro e he c w s h
  rw [exec_intOps e he]
  exact scalarReg_executes h _

theorem immediateScalarResult : Claims.ImmediateScalarResult := by
  intro e he c w s h
  rw [exec_immOps e he]
  exact scalarImm_executes h _

/-- Settles O28: both tables are the model's, entry by entry. -/
theorem scalarResults : Obligations.ScalarResults := ⟨integerScalarResult, immediateScalarResult⟩

/-! ### Scalar accesses that fault (R144, R213) -/

theorem accessFault_of_beyond {a size : Nat} (h : 0x80000 < a + size) : accessFault a size = some 0x0011 := if_pos h

theorem accessFault_of_misaligned {a size : Nat} (hr : a + size ≤ 0x80000) (ha : a % size ≠ 0) : accessFault a size = some 0x0012 := by
  rw [accessFault, if_neg (by omega), if_pos ha]

/-- A load or store whose access faults takes the contained error and does nothing of its own. -/
theorem exec_access_faults {op cause : Nat} (hop : op < 12) (h7 : op ≠ 7) {c : CoreId} {w : Word} {s : State} (h : Executes c.val 4 op w s)
    (hf : accessFault (scalarAddr s c.val w) (2 ^ (if op < 8 then op / 2 else op - 8)) = some cause) :
    exec (if op < 8 then .ld c else .st c) s = .next (coreFault c.val 0 cause (wd (corePc s c.val)) s) := by
  by_cases h8 : op < 8
  · have hld : ldEff c.val w s = .trap 0 cause (wd (corePc s c.val)) s := by
      rw [if_pos h8] at hf
      simp only [ldEff, memAddr_eq_scalarAddr, ldSize, h.opEq, hf]
    rw [if_pos h8, exec_ld, issue_executes h (by simp; omega), hld, finish]
  · have hst : stEff c.val w s = .trap 0 cause (wd (corePc s c.val)) s := by
      rw [if_neg h8] at hf
      simp only [stEff, memAddr_eq_scalarAddr, h.opEq, hf]
    rw [if_neg h8, exec_st, issue_executes h (by simp; omega), hst, finish]

/-- Settles O2: the access is checked before anything of it happens. -/
theorem scalarAccessFaults : Obligations.ScalarAccessFaults := fun _ hop h7 _ _ _ h =>
  ⟨fun hr => exec_access_faults hop h7 h (accessFault_of_beyond hr), fun hr ha => exec_access_faults hop h7 h (accessFault_of_misaligned hr ha)⟩

end Sys2Proof.Machine
end

section
/-! What comes before the effect of an instruction: the encoding check and the predicate (R130, R136, R137, R211). -/

namespace Sys2Proof.Machine
open Sys2Proof.Claims

/-- The command i issues at its core as an instruction of class cls whose OP is one of ops, whatever its effect. -/
def IssuesAs (i : CoreId → Instr) (cls : Nat) (ops : List Nat) : Prop := ∃ body : CoreId → Word → State → Eff, ∀ c s, exec (i c) s = .next (issue c.val cls ops (body c) s)

theorem issuesAs_of_scalarReg {i : CoreId → Instr} {op : Nat} {f : Bool → Word → Word → Word → Word} (h : ∀ c s, exec (i c) s = scalarReg c op f s) : IssuesAs i 2 [op] := ⟨_, h⟩

theorem issuesAs_of_scalarImm {i : CoreId → Instr} {op : Nat} {f : Word → Word → Word} (h : ∀ c s, exec (i c) s = scalarImm c op f s) : IssuesAs i 3 [op] := ⟨_, h⟩

theorem issuesAs_tensorOps : ∀ e ∈ tensorOps, IssuesAs e.1 8 [e.2] := by
  unfold tensorOps
  repeat refine List.forall_mem_cons.2 ⟨⟨_, fun _ _ => rfl⟩, ?_⟩
  exact List.forall_mem_nil _

/-- Every instruction that E bit 0 governs issues under the class and operations listed. -/
theorem issuesAs_scalarPredicated : ∀ e ∈ scalarPredicated, IssuesAs e.1 e.2.1 e.2.2 := by
  simp only [scalarPredicated, List.forall_mem_append, List.forall_mem_map]
  refine ⟨⟨⟨⟨?arms, fun e he => issuesAs_of_scalarReg (exec_intOps e he)⟩, fun e he => issuesAs_of_scalarReg (exec_floatOps e he)⟩,
    fun e he => issuesAs_of_scalarImm (exec_immOps e he)⟩, fun e he => issuesAs_tensorOps e he⟩
  repeat refine List.forall_mem_cons.2 ⟨⟨_, fun _ _ => rfl⟩, ?_⟩
  exact List.forall_mem_nil _

theorem elementwise_scalarPredicated : ∀ e ∈ scalarPredicated, elementwise e.2.1 = false := by decide

theorem issuesAs_elementOps : ∀ e ∈ elementOps, IssuesAs e.1 5 [e.2.1] := by
  unfold elementOps
  repeat refine List.forall_mem_cons.2 ⟨⟨_, fun _ _ => rfl⟩, ?_⟩
  exact List.forall_mem_nil _

theorem issuesAs_sumOps : ∀ e ∈ sumOps, IssuesAs e.1 5 [e.2.1] := by
  unfold sumOps
  repeat refine List.forall_mem_cons.2 ⟨⟨_, fun _ _ => rfl⟩, ?_⟩
  exact List.forall_mem_nil _

/-- Every instruction that E governs element by element issues under the class and operations listed. -/
theorem issuesAs_elementPredicated : ∀ e ∈ elementPredicated, IssuesAs e.1 e.2.1 e.2.2 := by
  simp only [elementPredicated, List.forall_mem_append, List.forall_mem_map]
  refine ⟨⟨?arms, fun e he => issuesAs_elementOps e he⟩, fun e he => issuesAs_sumOps e he⟩
  repeat refine List.forall_mem_cons.2 ⟨⟨_, fun _ _ => rfl⟩, ?_⟩
  exact List.forall_mem_nil _

section
variable {c cls : Nat} {ops : List Nat} {w : Word} {s : State}

/-- A word that is no legal encoding faults, whatever its class, operation and predicate. -/
theorem issue_illegal (hi : canIssue s c = true) (hw : cwRead (s.core c).istore (corePc s c) = .clean ⟨w, false⟩) (hl : legal w = false) (body : Word → State → Eff) :
    issue c cls ops body s = coreFault c 0 0x0010 (wd (corePc s c)) s := by
  have hfetch : fetchWord c s = (some w, s) := by rw [fetchWord, hw]; rfl
  simp [issue, hi, hfetch, hl]

/-- An instruction whose E bit 0 is 0, in a predicate register that the array does not owe, is skipped. -/
theorem issue_predicated_off (hf : Fetches c w s) (hc : iClass w = cls) (ho : iOp w ∈ ops) (hp : predOwed (s.core c) w = false) (he : elementwise cls = false)
    (hb : (effPred (s.core c) w).getLsbD 0 = false) (body : Word → State → Eff) : issue c cls ops body s = finish c s (.skip s) := by
  have hoff : (!elementwise cls && !(effPred (s.core c) w).getLsbD 0) = true := by rw [he, hb]; rfl
  have hother : (iClass w != cls || !ops.contains (iOp w)) = false := by simp [hc, ho]
  simp only [issue, hf.issues, fetchWord_clean hf, hf.legal, hother, hp, hoff, Bool.not_true, Bool.false_eq_true, if_false, if_true]

/-- A skipped instruction advances the PC and does nothing else. -/
theorem finish_skip (hg : Goes c s) : finish c s (.skip s) = setPc c (corePc s c + 1) s := by
  have hpc := hg.pc
  rw [finish, if_neg (by omega)]
  exact afterRetire_goes ((State.flag_setFld_ne _ _ _ _ _ _ _ (by omega) (by omega) (.inl (rCoreCtl_ne_rCoreStat c).symm)).trans hg.step1) hg.watch

end

/-- Settles O7: every instruction listed issues, is skipped, and retires. -/
theorem predicatedOff : Obligations.PredicatedOff := by
  intro e he op hop c w s hf hg hc ho hp hb
  obtain ⟨body, hexec⟩ := issuesAs_scalarPredicated e he
  have hpc := hg.pc
  rw [hexec, issue_predicated_off hf hc (ho ▸ hop) hp (elementwise_scalarPredicated e he) hb, finish_skip hg]
  exact ⟨_, rfl, onlyCore_setPc (by omega) rfl fun _ _ => rfl, core_setPc .., rfl⟩

/-- Settles O8: the encoding is checked before the class, the operation and the predicate are looked at. -/
theorem illegalEncodingFaults : Obligations.IllegalEncodingFaults := by
  intro e he c w s hi hw hl
  obtain ⟨body, hexec⟩ : IssuesAs e.1 e.2.1 e.2.2 := (List.mem_append.1 he).elim (issuesAs_scalarPredicated e) (issuesAs_elementPredicated e)
  rw [hexec, issue_illegal hi hw hl]

/-! ### Branches, jumps, calls and DBNZ (R145 to R147) -/

section
variable (c : CoreId) (s : State)

theorem exec_branch : exec (.branch c) s = .next (issue c.val 0 [0, 1, 2, 3, 4, 5] (branchEff c.val) s) := rfl
theorem exec_jmp : exec (.jmp c) s = .next (issue c.val 0 [6] (fun w t => .jump t (bits w 12 0)) s) := rfl
theorem exec_call : exec (.call c) s =
    .next (issue c.val 0 [7] (fun w t => .jump (t.modCore c.val (writeS (bits w 39 35) (wd (corePc t c.val + 1)))) (bits w 12 0)) s) := rfl

/-- Where JR goes: sa, or a PC overflow where sa is beyond the instruction store (R147). -/
def jrEff (c : Nat) (w : Word) (s : State) : Eff :=
  if bits (opnd s c w 49 45) 63 13 ≠ 0 then .trap 0 0x0013 (wd (corePc s c)) s else .jump s (bits (opnd s c w 49 45) 12 0)

/-- DBNZ counts sa down and branches unless it has come to 0. -/
def dbnzEff (c : Nat) (w : Word) (s : State) : Eff :=
  if opnd s c w 49 45 - 1 ≠ 0 then .jump (s.modCore c (writeS (bits w 49 45) (opnd s c w 49 45 - 1))) (bits w 12 0)
  else .done (s.modCore c (writeS (bits w 49 45) (opnd s c w 49 45 - 1)))

theorem exec_jr : exec (.jr c) s = .next (issue c.val 0 [8] (jrEff c.val) s) := rfl
theorem exec_dbnz : exec (.dbnz c) s = .next (issue c.val 0 [9] (dbnzEff c.val) s) := rfl

end

/-- The model's comparison of a branch is that of its OP in the table. -/
theorem branchTaken_iff {b : Nat × (Word → Word → Prop)} (hb : b ∈ branches) (x y : Word) : branchTaken b.1 x y = true ↔ b.2 x y := by
  simp only [branches, List.mem_cons, List.not_mem_nil, or_false] at hb
  rcases hb with rfl | rfl | rfl | rfl | rfl | rfl
  · exact beq_iff_eq
  · exact bne_iff_ne
  · exact slt_iff x y
  · simp only [branchTaken, Bool.not_eq_true', ← Bool.not_eq_true, slt_iff, not_lt]
  · exact ult_iff x y
  · simp only [branchTaken, Bool.not_eq_true', ← Bool.not_eq_true, ult_iff, not_lt]

theorem bits_lt (w : Word) (hi lo : Nat) : bits w hi lo < 2 ^ (hi + 1 - lo) := nbits_lt ..

section
variable {c : Nat} {s : State} {pc : Nat}

/-- Control goes to pc and nothing else changes. -/
theorem finish_jump_self (hg : Goes c s) (hp : pc < 8192) : OnlyCore c pc s (finish c s (.jump s pc)) ∧ (finish c s (.jump s pc)).core c = s.core c := by
  rw [finish_jump hg rfl hg.watch]
  exact ⟨onlyCore_setPc hp rfl fun _ _ => rfl, core_setPc ..⟩

theorem scalarWritten_writeS (c i : Nat) (x : Word) {s t : State} (h : t.core c = writeS i x (s.core c)) : ScalarWritten c i x s t := by
  refine ⟨?_, fun j hj => ?_⟩
  · rw [h]
    unfold writeS
    split <;> rfl
  · rw [h, readS_writeS _ _ _ _ hj]
    simp only [eq_comm]

/-- Control goes to pc, and a scalar register is written. -/
theorem finish_jump_writeS (hg : Goes c s) (hp : pc < 8192) (i : Nat) (x : Word) :
    OnlyCore c pc s (finish c s (.jump (s.modCore c (writeS i x)) pc)) ∧ ScalarWritten c i x s (finish c s (.jump (s.modCore c (writeS i x)) pc)) := by
  obtain ⟨hrest, hcores⟩ := modCore_only (c := c) (s := s) (writeS i x)
  rw [finish_jump hg hrest (by simp [hg.watch])]
  exact ⟨onlyCore_setPc hp hrest hcores, scalarWritten_writeS c i x (by rw [core_setPc, State.core_modCore_self])⟩

end

theorem branchEff_eq (c : Nat) (w : Word) (s : State) :
    branchEff c w s = if branchTaken (iOp w) (opnd s c w 49 45) (opnd s c w 44 40) then .jump s (bits w 12 0) else .done s := rfl

theorem branch_executes {c : CoreId} {w : Word} {s : State} {b : Nat × (Word → Word → Prop)} (hb : b ∈ branches) (h : Executes c.val 0 b.1 w s) :
    ∃ t, exec (.branch c) s = .next t ∧ t.core c.val = s.core c.val ∧
      (b.2 (opnd s c.val w 49 45) (opnd s c.val w 44 40) → OnlyCore c.val (bits w 12 0) s t) ∧
      (¬ b.2 (opnd s c.val w 49 45) (opnd s c.val w 44 40) → OnlyCore c.val (corePc s c.val + 1) s t) := by
  have hop : b.1 ∈ [0, 1, 2, 3, 4, 5] := (show ∀ b ∈ branches, b.1 ∈ [0, 1, 2, 3, 4, 5] by simp [branches]) b hb
  have htaken : branchTaken (iOp w) (opnd s c.val w 49 45) (opnd s c.val w 44 40) = true ↔ b.2 (opnd s c.val w 49 45) (opnd s c.val w 44 40) := by
    rw [h.opEq, branchTaken_iff hb]
  rw [exec_branch, issue_executes h hop]
  by_cases hc : b.2 (opnd s c.val w 49 45) (opnd s c.val w 44 40)
  · obtain ⟨honly, hcore⟩ := finish_jump_self h.goes (bits_lt w 12 0)
    rw [branchEff_eq, if_pos (htaken.2 hc)]
    exact ⟨_, rfl, hcore, fun _ => honly, fun hn => absurd hc hn⟩
  · obtain ⟨honly, hcore⟩ := finish_done_self h.goes
    rw [branchEff_eq, if_neg (mt htaken.1 hc)]
    exact ⟨_, rfl, hcore, fun hp => absurd hp hc, fun _ => honly⟩

/-- sa [63:13] is 0 for an index of the instruction store, which sa [12:0] then is. -/
theorem bits_of_lt {a : Word} (h : a.toNat < 8192) : bits a 63 13 = 0 ∧ bits a 12 0 = a.toNat := by
  have := a.isLt
  simp only [bits, nbits, Nat.shiftRight_eq_div_pow]
  omega

theorem bits_ne_of_le {a : Word} (h : 8192 ≤ a.toNat) : bits a 63 13 ≠ 0 := by
  have := a.isLt
  simp only [bits, nbits, Nat.shiftRight_eq_div_pow]
  omega

theorem dbnz_executes {c : CoreId} {w : Word} {s : State} (h : Executes c.val 0 9 w s) :
    ∃ t, exec (.dbnz c) s = .next t ∧ OnlyCore c.val (if opnd s c.val w 49 45 = 1 then corePc s c.val + 1 else bits w 12 0) s t ∧
      ScalarWritten c.val (bits w 49 45) (opnd s c.val w 49 45 - 1) s t := by
  rw [exec_dbnz, issue_executes h (List.mem_singleton_self 9), dbnzEff]
  by_cases h1 : opnd s c.val w 49 45 = 1
  · rw [if_neg (by simp [h1]), if_pos h1]
    exact ⟨_, rfl, finish_doneS h.goes⟩
  · rw [if_pos (sub_ne_zero.2 h1), if_neg h1]
    exact ⟨_, rfl, finish_jump_writeS h.goes (bits_lt w 12 0) _ _⟩

/-- Settles O3: each instruction ends in a jump to its target or in the next PC, after the one register it writes. -/
theorem controlTransfer : Obligations.ControlTransfer := by
  intro c w s
  refine ⟨fun b hb h => branch_executes hb h, fun h => ?jmp, fun h => ?call, fun h ha => ?jr, fun h ha => ?overflow, dbnz_executes⟩
  case jmp =>
    rw [exec_jmp, issue_executes h (List.mem_singleton_self 6)]
    exact ⟨_, rfl, finish_jump_self h.goes (bits_lt w 12 0)⟩
  case call =>
    rw [exec_call, issue_executes h (List.mem_singleton_self 7)]
    exact ⟨_, rfl, finish_jump_writeS h.goes (bits_lt w 12 0) _ _⟩
  case jr =>
    obtain ⟨hhigh, hlow⟩ := bits_of_lt ha
    rw [exec_jr, issue_executes h (List.mem_singleton_self 8), jrEff, if_neg (not_not.2 hhigh), hlow]
    exact ⟨_, rfl, finish_jump_self h.goes ha⟩
  case overflow => rw [exec_jr, issue_executes h (List.mem_singleton_self 8), jrEff, if_pos (bits_ne_of_le ha), finish]

end Sys2Proof.Machine
end

section
/-! Vector arithmetic: element-wise results, sums, moves and comparisons (R137, R152 to R156, R251, R860). -/

namespace Sys2Proof.Machine
open Sys2Proof.Claims

section
variable {c : Nat} {s : State}

theorem finish_doneV_self (hg : Goes c s) (i : Nat) (x : BitVec 512) :
    OnlyCore c (corePc s c + 1) s (finish c s (doneV c i x s)) ∧ VectorWritten c i x s (finish c s (doneV c i x s)) := finish_doneV (n := s.draws) hg

/-- A register whose active elements are new: they are written, and the others stay. -/
theorem elementsWritten_mergeVec {e : BitVec 16} {ty vd : Nat} {f : Nat → Nat} {t : State} (hvd : vd < 16) (h : VectorWritten c vd (mergeVec e ty (readV (s.core c) vd) f) s t) :
    ElementsWritten c e ty vd f s t := by
  obtain ⟨hcore, hread⟩ := h
  refine ⟨hcore, fun j hj hne => ?_, fun i hi => ?_⟩
  · rw [hread j hj, if_neg hne]
  · rw [hread vd hvd, if_pos rfl, elem_mergeVec _ _ hi]

theorem elementsWritten_congr {e : BitVec 16} {ty vd : Nat} {f g : Nat → Nat} {t : State} (hfg : ∀ i, f i % 2 ^ viewWidth ty = g i % 2 ^ viewWidth ty)
    (h : ElementsWritten c e ty vd f s t) : ElementsWritten c e ty vd g s t := by
  obtain ⟨hcore, hothers, helems⟩ := h
  exact ⟨hcore, hothers, fun i hi => by rw [helems i hi, hfg]⟩

/-- An instruction that merges new elements into vd, active ones by active ones. -/
theorem issue_mergeVec {op : Nat} {w : Word} (h : Executes c 5 op w s) (f : Word → State → Nat → Nat) :
    ∃ t, (.next (issue c 5 [op] (fun w t => doneV c (bits w 49 46) (mergeVec (effPred (t.core c) w) (bits w 33 31) (readV (t.core c) (bits w 49 46)) (f w t)) t) s) : Res) = .next t ∧
      OnlyCore c (corePc s c + 1) s t ∧ ElementsWritten c (effPred (s.core c) w) (bits w 33 31) (bits w 49 46) (f w s) s t := by
  rw [issue_executes h (List.mem_singleton_self op)]
  obtain ⟨honly, hwritten⟩ := finish_doneV_self h.goes (bits w 49 46) (mergeVec (effPred (s.core c) w) (bits w 33 31) (readV (s.core c) (bits w 49 46)) (f w s))
  exact ⟨_, rfl, honly, elementsWritten_mergeVec (bits_lt w 49 46) hwritten⟩

end

/-- An element-wise instruction that executes. -/
theorem vecMap_executes {c : CoreId} {op : Nat} {w : Word} {s : State} (h : Executes c.val 5 op w s) (f : Bool → VArg → Nat → Nat) :
    ∃ t, vecMap c op f s = .next t ∧ OnlyCore c.val (corePc s c.val + 1) s t ∧
      ElementsWritten c.val (effPred (s.core c.val) w) (bits w 33 31) (bits w 49 46) (f (s.core c.val).vmode (vArg c.val w s)) s t :=
  issue_mergeVec h fun w t => f (t.core c.val).vmode (vArg c.val w t)

/-! ### Element-wise results (R152, R154, R156, R251) -/

theorem viewWidth_i32 : viewWidth 4 = 32 := rfl

/-- The model has f for the table's g: the same element of the view's width. -/
def SameElements (f g : Bool → VArg → Nat → Nat) : Prop := ∀ m x i, f m x i % 2 ^ viewWidth x.ty = g m x i % 2 ^ viewWidth x.ty

theorem sameElements_refl (f : Bool → VArg → Nat → Nat) : SameElements f f := fun _ _ _ => rfl

theorem sameElements_vmul : SameElements (fun st x i => if x.ty = 4 then x.ea i * x.eb i % 2 ^ 32 else fpMul (viewFmt x.ty) st (x.ea i) (x.eb i))
    (fun m x i => if x.ty = 4 then x.ea i * x.eb i else fpMul (viewFmt x.ty) m (x.ea i) (x.eb i)) := by
  intro m x i
  by_cases h : x.ty = 4
  · simp [h, viewWidth_i32]
  · simp [h]

theorem sameElements_vmin : SameElements (vminmax false)
    (fun m x i => if x.ty = 4 then (if sx 32 (x.ea i) < sx 32 (x.eb i) then x.ea i else x.eb i) else fpMin (viewFmt x.ty) m false (x.ea i) (x.eb i)) := by
  intro m x i
  by_cases h : sx 32 (x.ea i) < sx 32 (x.eb i) <;> simp [vminmax, s32, h]

theorem sameElements_vmax : SameElements (vminmax true)
    (fun m x i => if x.ty = 4 then (if sx 32 (x.ea i) < sx 32 (x.eb i) then x.eb i else x.ea i) else fpMin (viewFmt x.ty) m true (x.ea i) (x.eb i)) := by
  intro m x i
  by_cases h : sx 32 (x.ea i) < sx 32 (x.eb i) <;> simp [vminmax, s32, h]

theorem sameElements_vsra : SameElements (fun _ x i => toBits 32 (s32 (x.ea i) / (2 ^ (x.eb i % 32) : Nat))) (fun _ x i => toBits 32 (sx 32 (x.ea i) / 2 ^ (x.eb i % 32))) := by
  intro m x i
  simp only [s32, Nat.cast_pow, Nat.cast_ofNat]

theorem exec_elementOps : ∀ e ∈ elementOps, ∃ f, SameElements f e.2.2 ∧ ∀ (c : CoreId) (s : State), exec (e.1 c) s = vecMap c e.2.1 f s := by
  simp only [elementOps, List.forall_mem_cons]
  refine ⟨⟨_, sameElements_vmul, fun _ _ => rfl⟩, ⟨_, sameElements_refl _, fun _ _ => rfl⟩, ⟨_, sameElements_vmin, fun _ _ => rfl⟩, ⟨_, sameElements_vmax, fun _ _ => rfl⟩,
    ⟨_, sameElements_refl _, fun _ _ => rfl⟩, ⟨_, sameElements_refl _, fun _ _ => rfl⟩, ⟨_, sameElements_refl _, fun _ _ => rfl⟩, ⟨_, sameElements_refl _, fun _ _ => rfl⟩,
    ⟨_, sameElements_refl _, fun _ _ => rfl⟩, ⟨_, sameElements_refl _, fun _ _ => rfl⟩, ⟨_, sameElements_refl _, fun _ _ => rfl⟩, ⟨_, sameElements_refl _, fun _ _ => rfl⟩,
    ⟨_, sameElements_vsra, fun _ _ => rfl⟩, ⟨_, sameElements_refl _, fun _ _ => rfl⟩, List.forall_mem_nil _⟩

/-- Settles O4: every instruction of the table merges its elements into vd. -/
theorem elementwiseResult : Obligations.ElementwiseResult := by
  intro e he c w s h
  obtain ⟨f, hsame, hexec⟩ := exec_elementOps e he
  obtain ⟨t, ht, honly, hwritten⟩ := vecMap_executes h f
  exact ⟨t, (hexec c s).trans ht, honly, elementsWritten_congr (fun i => hsame _ (vArg c.val w s) i) hwritten⟩

/-! ### VADD, VSUB, VABS and VNEG (R152, R299) -/

theorem exec_sumOps : ∀ e ∈ sumOps, ∀ (c : CoreId) (s : State), exec (e.1 c) s = vecMapI c e.2.1 e.2.2.1 e.2.2.2 s := by
  simp only [sumOps, List.forall_mem_cons]
  exact ⟨fun _ _ => rfl, fun _ _ => rfl, fun _ _ => rfl, fun _ _ => rfl, List.forall_mem_nil _⟩

theorem toBits_lt (n : Nat) (x : Int) : toBits n x < 2 ^ n := by
  have hpos : (0 : Int) < (2 ^ n : Nat) := by positivity
  have h0 := Int.emod_nonneg x hpos.ne'
  have h1 := Int.emod_lt_of_pos x hpos
  unfold toBits
  omega

/-- The code of an exact result that fits. -/
theorem codeI32_of_fits {x : Int} (h : -(2 ^ 31) ≤ x ∧ x < 2 ^ 31) (op a b : Nat) : codeI32 op a b x = toBits 32 x := by
  rw [codeI32, i32, if_pos h]
  rfl

theorem vectorSumResult : Claims.VectorSumResult := by
  intro e he c w s h
  obtain ⟨t, ht, honly, hwritten⟩ := vecMap_executes h
    (fun m x i => if x.ty = 4 then codeI32 e.2.1 (x.ea i) (if e.2.1 ≤ 1 then x.eb i else 0) (e.2.2.2 x i) else e.2.2.1 m x i)
  refine ⟨t, (exec_sumOps e he c s).trans ht, honly, fun hty => ?_, fun hty => ?_⟩
  · have hne : (vArg c.val w s).ty ≠ 4 := hty
    simpa only [if_neg hne] using hwritten
  · have heq : (vArg c.val w s).ty = 4 := hty
    simp only [if_pos heq] at hwritten
    rw [hty] at hwritten
    obtain ⟨hcore, hothers, helems⟩ := hwritten
    refine ⟨hcore, hothers, fun i hi hfit => (helems i hi).trans ?_⟩
    by_cases hb : (effPred (s.core c.val) w).getLsbD i = true
    · rw [if_pos (show active (effPred (s.core c.val) w) 4 i = true from hb), if_pos hb]
      dsimp only
      rw [codeI32_of_fits (hfit.resolve_right (by simp [hb]))]
      exact Nat.mod_eq_of_lt (toBits_lt 32 _)
    · rw [if_neg (show ¬ active (effPred (s.core c.val) w) 4 i = true from hb), if_neg hb]
      rfl

/-! ### Moves (R152, R860) -/

section
variable (c : CoreId) (s : State)

theorem exec_vsel : exec (.vsel c) s = .next (issue c.val 5 [0x09] (fun w t => doneV c.val (bits w 49 46)
    (mergeVec (effPred (t.core c.val) w) (bits w 33 31) (readV (t.core c.val) (bits w 49 46)) fun i =>
      if (readP (t.core c.val) (bits w 30 28)).getLsbD (governs (bits w 33 31) i) then (vArg c.val w t).ea i else (vArg c.val w t).eb i) t) s) := rfl

theorem exec_vbcast : exec (.vbcast c) s = .next (issue c.val 5 [0x0C] (fun w t => doneV c.val (bits w 49 46)
    (mergeVec (effPred (t.core c.val) w) (bits w 33 31) (readV (t.core c.val) (bits w 49 46)) fun _ => (opnd t c.val w 24 20).toNat) t) s) := rfl

theorem exec_vext : exec (.vext c) s = .next (issue c.val 5 [0x0D] (fun w t =>
    if active (effPred (t.core c.val) w) (bits w 33 31) (bits w 19 16) then doneS c.val (bits w 24 20) (wd ((vArg c.val w t).ea (bits w 19 16))) t else .done t) s) := rfl

theorem exec_vins : exec (.vins c) s = .next (issue c.val 5 [0x0E] (fun w t =>
    if active (effPred (t.core c.val) w) (bits w 33 31) (bits w 19 16) then doneV c.val (bits w 49 46) (mkVec (viewWidth (bits w 33 31)) (viewCount (bits w 33 31)) fun i =>
      if i = bits w 19 16 then (opnd t c.val w 24 20).toNat else elem (viewWidth (bits w 33 31)) (readV (t.core c.val) (bits w 49 46)) i) t
    else .done t) s) := rfl

end

theorem elem_lt (w : Nat) (v : BitVec 512) (i : Nat) : elem w v i < 2 ^ w := Nat.mod_lt _ (Nat.two_pow_pos _)

theorem elem_mod (w : Nat) (v : BitVec 512) (i : Nat) : elem w v i % 2 ^ w = elem w v i := Nat.mod_eq_of_lt (elem_lt w v i)

theorem vins_executes {c : CoreId} {w : Word} {s : State} (h : Executes c.val 5 0x0E w s) :
    ∃ t, exec (.vins c) s = .next t ∧ OnlyCore c.val (corePc s c.val + 1) s t ∧
      t.core c.val = { s.core c.val with v := (t.core c.val).v } ∧ (∀ j < 16, j ≠ bits w 49 46 → readV (t.core c.val) j = readV (s.core c.val) j) ∧
      ∀ i < viewCount (bits w 33 31), elem (viewWidth (bits w 33 31)) (readV (t.core c.val) (bits w 49 46)) i =
        if i = bits w 19 16 ∧ active (effPred (s.core c.val) w) (bits w 33 31) i then (opnd s c.val w 24 20).toNat % 2 ^ viewWidth (bits w 33 31)
        else elem (viewWidth (bits w 33 31)) (readV (s.core c.val) (bits w 49 46)) i := by
  rw [exec_vins, issue_executes h (List.mem_singleton_self _)]
  by_cases ha : active (effPred (s.core c.val) w) (bits w 33 31) (bits w 19 16) = true
  · rw [if_pos ha]
    obtain ⟨honly, hcore, hread⟩ := finish_doneV_self h.goes (bits w 49 46) (mkVec (viewWidth (bits w 33 31)) (viewCount (bits w 33 31)) fun i =>
      if i = bits w 19 16 then (opnd s c.val w 24 20).toNat else elem (viewWidth (bits w 33 31)) (readV (s.core c.val) (bits w 49 46)) i)
    refine ⟨_, rfl, honly, hcore, fun j hj hne => by rw [hread j hj, if_neg hne], fun i hi => ?_⟩
    rw [hread _ (bits_lt w 49 46), if_pos rfl, elem_mkVec _ hi (viewWidth_viewCount _)]
    by_cases hl : i = bits w 19 16
    · rw [if_pos hl, if_pos ⟨hl, hl ▸ ha⟩]
    · rw [if_neg hl, if_neg fun k => hl k.1, elem_mod]
  · rw [if_neg ha]
    obtain ⟨honly, hcore⟩ := finish_done_self h.goes
    refine ⟨_, rfl, honly, by rw [hcore], fun j _ _ => by rw [hcore], fun i _ => ?_⟩
    rw [hcore, if_neg (by rintro ⟨rfl, hi⟩; exact ha hi)]

theorem vectorMoveResult : Claims.VectorMoveResult := by
  intro c w s
  refine ⟨fun h => ?vsel, fun h => ?vbcast, fun h => ?vext, fun h _ => vins_executes h⟩
  case vsel =>
    rw [exec_vsel]
    exact issue_mergeVec h fun w t i => if (readP (t.core c.val) (bits w 30 28)).getLsbD (governs (bits w 33 31) i) then (vArg c.val w t).ea i else (vArg c.val w t).eb i
  case vbcast =>
    rw [exec_vbcast]
    exact issue_mergeVec h fun w t _ => (opnd t c.val w 24 20).toNat
  case vext =>
    rw [exec_vext, issue_executes h (List.mem_singleton_self _)]
    by_cases ha : active (effPred (s.core c.val) w) (bits w 33 31) (bits w 19 16) = true
    · simp only [if_pos ha]
      exact ⟨_, rfl, finish_doneS h.goes⟩
    · simp only [if_neg ha]
      exact ⟨_, rfl, finish_done_self h.goes⟩

/-! ### VCMP (R156, R860) -/

theorem exec_vcmp (c : CoreId) (s : State) : exec (.vcmp c) s = .next (issue c.val 5 [0x08] (fun w t => .done (t.modCore c.val
    (writeP (bits w 30 28) (vcmpBits (t.core c.val).vmode (bits w 27 25) (vArg c.val w t) (readP (t.core c.val) (bits w 30 28)))))) s) := rfl

/-- A predicate register built from its bits. -/
theorem getLsbD_ofElems (f : Nat → Bool) {j : Nat} (hj : j < 16) : (BitVec.ofNat 16 (ofElems 1 ((List.range 16).map fun i => (f i).toNat))).getLsbD j = f j := by
  have helem := ofElems_elem 1 ((List.range 16).map fun i => (f i).toNat) j
  have hget : ((List.range 16).map fun i => (f i).toNat).getD j 0 = (f j).toNat := by simp [hj]
  rw [hget, Nat.one_mul, pow_one, Nat.mod_eq_of_lt (Bool.toNat_lt (f j))] at helem
  rw [BitVec.getLsbD_ofNat, Nat.testBit_eq_decide_div_mod_eq, ← Nat.shiftRight_eq_div_pow, helem]
  cases f j <;> simp [hj]

theorem intCmp_iff {cc : Nat} (h : cc ≤ 5) (a b : Int) : intCmp cc a b = true ↔ intCompare cc a b := by
  interval_cases cc <;> simp [intCmp, intCompare]

theorem vectorCompareResult : Claims.VectorCompareResult := by
  intro c w s h
  rw [exec_vcmp, issue_executes h (List.mem_singleton_self _)]
  refine ⟨_, _, rfl, (finish_doneP h.goes).1, (finish_doneP h.goes).2, fun j hj => ?_⟩
  intro i
  have hbit : (vcmpBits (s.core c.val).vmode (bits w 27 25) (vArg c.val w s) (readP (s.core c.val) (bits w 30 28))).getLsbD j =
      if active (effPred (s.core c.val) w) (bits w 33 31) i then
        (if bits w 33 31 = 4 then intCmp (bits w 27 25) (sx 32 ((vArg c.val w s).ea i)) (sx 32 ((vArg c.val w s).eb i))
        else fpCmp (viewFmt (bits w 33 31)) (s.core c.val).vmode (bits w 27 25) ((vArg c.val w s).ea i) ((vArg c.val w s).eb i))
      else (readP (s.core c.val) (bits w 30 28)).getLsbD j := by
    rw [vcmpBits, getLsbD_ofElems _ hj]
    rfl
  rw [hbit]
  by_cases ha : active (effPred (s.core c.val) w) (bits w 33 31) i = true
  · rw [if_pos ha, if_pos ha]
    exact ⟨fun hty hcc => by rw [if_pos hty, intCmp_iff hcc], fun hty => by rw [if_neg hty]⟩
  · rw [if_neg ha, if_neg ha]

/-- Settles O31: sums and moves merge their elements into vd, and VCMP builds PD bit by bit. -/
theorem vectorResults : Obligations.VectorResults := ⟨vectorSumResult, vectorMoveResult, vectorCompareResult⟩

end Sys2Proof.Machine
end

section
/-! Predicate instructions, and the vector instructions that convert or fold elements (R157, R165, R252, R299, R300). -/

namespace Sys2Proof.Machine
open Sys2Proof.Claims

/-! ### Predicates (R165) -/

/-- A predicate instruction that executes. -/
theorem predOp_executes {c : CoreId} {op : Nat} {w : Word} {s : State} (h : Executes c.val 7 op w s) (f : BitVec 16 → BitVec 16 → Word → BitVec 16) :
    ∃ t, predOp c op f s = .next t ∧ OnlyCore c.val (corePc s c.val + 1) s t ∧
      PredicateWritten c.val (bits w 49 47) (f (readP (s.core c.val) (bits w 46 44)) (readP (s.core c.val) (bits w 43 41)) w) s t := by
  rw [predOp, issue_executes h (List.mem_singleton_self op)]
  exact ⟨_, rfl, finish_doneP h.goes⟩

section
variable (c : CoreId) (s : State)

theorem exec_pfrom : exec (.pfrom c) s = .next (issue c.val 7 [6] (fun w t =>
    .done (t.modCore c.val (writeP (bits w 49 47) (BitVec.ofNat 16 (opnd t c.val w 40 36).toNat)))) s) := rfl
theorem exec_pto : exec (.pto c) s = .next (issue c.val 7 [7] (fun w t => doneS c.val (bits w 40 36) (wd (readP (t.core c.val) (bits w 46 44)).toNat) t) s) := rfl
theorem exec_pcnt : exec (.pcnt c) s = .next (issue c.val 7 [8] (fun w t => doneS c.val (bits w 40 36) (wd (popcount 16 (readP (t.core c.val) (bits w 46 44)).toNat)) t) s) := rfl

end

theorem popcount_toNat (x : BitVec 16) : popcount 16 x.toNat = (List.range 16).countP (fun i => x.getLsbD i) := by
  rw [popcount, onesOf, ← List.countP_eq_length_filter]
  rfl

/-- Settles O6: each instruction writes one predicate register, PTO and PCNT one scalar register. -/
theorem predicateResult : Obligations.PredicateResult := by
  intro c w s
  refine ⟨?table, fun h => ?pfrom, fun h => ?pto, fun h => ?pcnt⟩
  case table =>
    simp only [List.forall_mem_cons]
    exact ⟨fun h => predOp_executes h fun _ _ w => BitVec.ofNat 16 (bits w 15 0), fun h => predOp_executes h fun a b _ => a &&& b, fun h => predOp_executes h fun a b _ => a ||| b,
      fun h => predOp_executes h fun a b _ => a ^^^ b, fun h => predOp_executes h fun a b _ => a &&& ~~~b, fun h => predOp_executes h fun a _ _ => ~~~a, List.forall_mem_nil _⟩
  case pfrom =>
    rw [exec_pfrom, issue_executes h (List.mem_singleton_self 6), BitVec.ofNat_toNat]
    exact ⟨_, rfl, finish_doneP h.goes⟩
  case pto =>
    rw [exec_pto, issue_executes h (List.mem_singleton_self 7), wd, BitVec.ofNat_toNat]
    exact ⟨_, rfl, finish_doneS h.goes⟩
  case pcnt =>
    rw [exec_pcnt, issue_executes h (List.mem_singleton_self 8), popcount_toNat]
    exact ⟨_, rfl, finish_doneS h.goes⟩

/-! ### VCVT (R157) -/

/-- An element of a register made of n elements: beyond them it is 0. -/
theorem elem_mkVec_ite {w n : Nat} (f : Nat → Nat) (h : w * n ≤ 512) (i : Nat) : elem w (mkVec w n f) i = if i < n then f i % 2 ^ w else 0 := by
  split_ifs with hi
  · exact elem_mkVec f hi h
  · have hlt : ofElems w ((List.range n).map f) < 2 ^ 512 := (ofElems_lt _ _).trans_le (Nat.pow_le_pow_right Nat.two_pos (by simpa using h))
    rw [elem, mkVec, BitVec.toNat_ofNat, Nat.mod_eq_of_lt hlt, ofElems_elem]
    simp [hi]

theorem exec_vcvt (c : CoreId) (s : State) : exec (.vcvt c) s = .next (issue c.val 5 [0x0F] (fun w t =>
    doneV c.val (bits w 49 46) (vcvt (t.core c.val).vmode (bits w 33 31) (bits w 15 13) (effPred (t.core c.val) w) (readV (t.core c.val) (bits w 49 46)) (readV (t.core c.val) (bits w 45 42))) t) s) := rfl

/-- Element i of a conversion: the elements above those of the view with fewer are cleared. -/
theorem elem_vcvt (m : Bool) (ty ty2 : Nat) (e : BitVec 16) (d a : BitVec 512) (i : Nat) : elem (viewWidth ty2) (vcvt m ty ty2 e d a) i =
    if min (viewCount ty) (viewCount ty2) ≤ i then 0
    else if active e (if viewCount ty < viewCount ty2 then ty else ty2) i then convElem m ty ty2 (elem (viewWidth ty) a i) % 2 ^ viewWidth ty2
    else elem (viewWidth ty2) d i := by
  have hfit : viewWidth ty2 * min (viewCount ty) (viewCount ty2) ≤ 512 := (Nat.mul_le_mul_left _ (Nat.min_le_right _ _)).trans (viewWidth_viewCount ty2)
  rw [vcvt, elem_mkVec_ite _ hfit]
  by_cases hi : i < min (viewCount ty) (viewCount ty2)
  · rw [if_pos hi, if_neg (not_le.2 hi), apply_ite (· % 2 ^ viewWidth ty2), elem_mod]
  · rw [if_neg hi, if_pos (not_lt.1 hi)]

/-! ### VMVAR (R252) -/

/-- An FP32 code: 32 bits. -/
def IsF32 (n : Nat) : Prop := n < 2 ^ 32

theorem isF32_withSign (neg : Bool) {m : Nat} (h : m ≤ fmtInf 8) : IsF32 (withSign 8 neg m) := by
  have hsign := Bool.toNat_lt neg
  rw [show fmtInf 8 = 0x7F800000 by decide] at h
  have heq : withSign 8 neg m = m + neg.toNat * 2 ^ 31 := if_neg (by decide)
  rw [IsF32, heq]
  omega

theorem isF32_ieeeRound (neg : Bool) (m : Nat) (e : Int) : IsF32 (ieeeRound 8 neg m e) := isF32_withSign neg (Nat.min_le_right ..)

theorem isF32_defNaN : IsF32 (defNaN 8) := (by decide : 0x7FC00000 < 2 ^ 32)

theorem isF32_codeOf (r : Option Fl) : IsF32 (codeOf 8 true r) := by
  match r with
  | none => exact isF32_defNaN
  | some .nan => exact isF32_defNaN
  | some (.inf n) => exact isF32_withSign n (le_refl _)
  | some (.fin n m e) =>
    rw [codeOf, writeCode, if_neg (by simp)]
    exact isF32_ieeeRound n m e

/-- An FP32 operation on FP32 codes gives an FP32 code, a NaN operand made quiet among them (R300). -/
theorem isF32_fpOp {xs : List Nat} (h : ∀ x ∈ xs, IsF32 x) (g : List Fl → Option Fl) : IsF32 (fpOp 8 true xs g) := by
  unfold fpOp
  split_ifs
  · rw [nanOf, if_pos rfl]
    split
    next x hx => exact Nat.or_lt_two_pow (h x (List.mem_of_find?_eq_some hx)) (by decide)
    next => exact isF32_defNaN
  · exact isF32_codeOf _

section
variable {a b : Nat} (ha : IsF32 a) (hb : IsF32 b)
include ha hb

theorem isF32_fpOp_pair (g : List Fl → Option Fl) : IsF32 (fpOp 8 true [a, b] g) := isF32_fpOp (by simp [ha, hb]) g
theorem isF32_fpAdd : IsF32 (fpAdd 8 true a b) := isF32_fpOp_pair ha hb _
theorem isF32_fpSub : IsF32 (fpSub 8 true a b) := isF32_fpOp_pair ha hb _
theorem isF32_fpMul : IsF32 (fpMul 8 true a b) := isF32_fpOp_pair ha hb _
theorem isF32_fpDiv : IsF32 (fpDiv 8 true a b) := isF32_fpOp_pair ha hb _

end

/-- The running state of VMVAR holds FP32 codes. -/
def RunF32 (q : Nat × Nat × Nat) : Prop := IsF32 q.1 ∧ IsF32 q.2.1 ∧ IsF32 q.2.2

theorem runF32_withSample {q : Nat × Nat × Nat} {a : Nat} (hq : RunF32 q) (ha : IsF32 a) : RunF32 (withSample q a) := by
  obtain ⟨hn, hmean, hm2⟩ := hq
  have hone : IsF32 0x3F800000 := (by decide : 0x3F800000 < 2 ^ 32)
  have hdiff := isF32_fpSub ha hmean
  have hmean' := isF32_fpAdd hmean (isF32_fpDiv hdiff (isF32_fpAdd hn hone))
  exact ⟨isF32_fpAdd hn hone, hmean', isF32_fpAdd hm2 (isF32_fpMul hdiff (isF32_fpSub ha hmean'))⟩

theorem runF32_foldl {l : List Nat} (hl : ∀ a ∈ l, IsF32 a) {q : Nat × Nat × Nat} (hq : RunF32 q) : RunF32 (l.foldl withSample q) :=
  List.foldlRecOn l _ hq fun _ hr a ha => runF32_withSample hr (hl a ha)

/-- The state of VMVAR that lanes 0 to 2 of vd hold. -/
def runOf (v : BitVec 512) : Nat × Nat × Nat := (elem 32 v 0, elem 32 v 1, elem 32 v 2)

theorem runF32_runOf (v : BitVec 512) : RunF32 (runOf v) := ⟨elem_lt .., elem_lt .., elem_lt ..⟩

/-- The samples of VMVAR: its active elements, in ascending order. -/
def samplesOf (x : VArg) : List Nat := ((List.range 16).filter (fun i => x.e.getLsbD i)).map x.ea

theorem mvar_eq (x : VArg) : mvar x = mkVec 32 16 (fun i => if i = 0 then ((samplesOf x).foldl withSample (runOf x.d)).1
    else if i = 1 then ((samplesOf x).foldl withSample (runOf x.d)).2.1 else if i = 2 then ((samplesOf x).foldl withSample (runOf x.d)).2.2 else elem 32 x.d i) := by
  rw [samplesOf, List.foldl_map]
  rfl

/-- VMVAR's samples are FP32 codes: the view is F32. -/
theorem runOf_mvar {x : VArg} (h : x.ty = 0) : runOf (mvar x) = (samplesOf x).foldl withSample (runOf x.d) := by
  have hsamples : ∀ a ∈ samplesOf x, IsF32 a := fun a ha => by
    obtain ⟨i, -, rfl⟩ := List.mem_map.1 ha
    rw [VArg.ea, h]
    exact elem_lt ..
  obtain ⟨h0, h1, h2⟩ := runF32_foldl hsamples (runF32_runOf x.d)
  have helem := fun i (hi : i < 16) => elem_mkVec (w := 32) (n := 16) (fun i => if i = 0 then ((samplesOf x).foldl withSample (runOf x.d)).1
    else if i = 1 then ((samplesOf x).foldl withSample (runOf x.d)).2.1 else if i = 2 then ((samplesOf x).foldl withSample (runOf x.d)).2.2 else elem 32 x.d i) hi (by decide)
  rw [mvar_eq, runOf, helem 0 (by decide), helem 1 (by decide), helem 2 (by decide)]
  exact Prod.ext (Nat.mod_eq_of_lt h0) (Prod.ext (Nat.mod_eq_of_lt h1) (Nat.mod_eq_of_lt h2))

theorem elem_mvar_of_le (x : VArg) {i : Nat} (hi : i < 16) (h3 : 3 ≤ i) : elem 32 (mvar x) i = elem 32 x.d i := by
  rw [mvar_eq, elem_mkVec _ hi (by decide), if_neg (by omega), if_neg (by omega), if_neg (by omega), elem_mod]

theorem exec_vmvar (c : CoreId) (s : State) : exec (.vmvar c) s = .next (issue c.val 5 [0x19] (fun w t => doneV c.val (bits w 49 46) (mvar (vArg c.val w t)) t) s) := rfl

/-- The view of a legal VMVAR is F32 (R252). -/
theorem view_of_vmvar {w : Word} (hl : legal w = true) (hc : iClass w = 5) (ho : iOp w = 0x19) : bits w 33 31 = 0 := by
  have hvec : okVec w = true := by simpa [legal, hc] using hl
  simp only [okVec, ho, vecViews, Bool.and_eq_true, List.contains_eq_mem, decide_eq_true_eq] at hvec
  simpa using hvec.1.1.2

/-- Settles O5: VCVT's result element by element, and VMVAR's fold over the samples, which stays in FP32 codes. -/
theorem vectorConvertResult : Obligations.VectorConvertResult := by
  intro c w s
  refine ⟨fun h => ?vcvt, fun h => ?vmvar⟩
  case vcvt =>
    rw [exec_vcvt, issue_executes h (List.mem_singleton_self _)]
    obtain ⟨honly, hwritten⟩ := finish_doneV_self h.goes (bits w 49 46) (vcvt (s.core c.val).vmode (bits w 33 31) (bits w 15 13) (effPred (s.core c.val) w)
      (readV (s.core c.val) (bits w 49 46)) (readV (s.core c.val) (bits w 45 42)))
    exact ⟨_, _, rfl, honly, hwritten, fun i _ => elem_vcvt ..⟩
  case vmvar =>
    rw [exec_vmvar, issue_executes h (List.mem_singleton_self _)]
    obtain ⟨honly, hwritten⟩ := finish_doneV_self h.goes (bits w 49 46) (mvar (vArg c.val w s))
    exact ⟨_, _, rfl, honly, hwritten, runOf_mvar (view_of_vmvar h.fetches.legal h.clsEq h.opEq), fun i hi h3 => elem_mvar_of_le _ hi h3⟩

end Sys2Proof.Machine
end

section
/-! The tensor instructions at issue: their checks, and the queue of the array (R134, R169, R179, R183, R212). -/

namespace Sys2Proof.Machine
open Sys2Proof.Claims

theorem exec_tensorOps : ∀ e ∈ tensorOps, ∀ (c : CoreId) (s : State), exec (e.1 c) s = .next (issue c.val 8 [e.2] (tensorEff c.val) s) := by
  unfold tensorOps
  repeat refine List.forall_mem_cons.2 ⟨fun _ _ => rfl, ?_⟩
  exact List.forall_mem_nil _

section
variable {c : Nat} {w : Word} {s : State}

/-- The checks of a tensor instruction, each as what it says of its ranges. -/
theorem tensorFault_eq_ite (c : Nat) (w : Word) (s : State) :
    tensorFault (captureArr s c w) = if ∃ r ∈ tensorRanges c w s, 0x80000 < r.1 + r.2 then some 0x0011 else if ∃ r ∈ tensorRanges c w s, r.1 % 64 ≠ 0 then some 0x0012 else none := by
  by_cases h0 : iOp w = 0
  · rw [tensorFault, captureArr, if_pos h0]
    simp only [tensorRanges, if_pos h0, List.mem_singleton, exists_eq_left]
    rfl
  by_cases h3 : iOp w = 3
  · rw [tensorFault, captureArr, if_neg h0, if_pos h3]
    refine if_congr ?range rfl (if_congr ?align rfl rfl)
    all_goals
      simp only [Bool.or_eq_true, Bool.and_eq_true, decide_eq_true_eq, bne_iff_ne, tensorRanges, if_neg h0, if_pos h3, List.mem_cons, List.mem_append, or_and_right, exists_or]
    case range =>
      change (0x80000 < (opnd s c w 43 39).toNat + _ ∨ _ ∧ 0x80000 < (opnd s c w 21 17).toNat + _) ∨ _ ∧ 0x80000 < (opnd s c w 14 10).toNat + _ ↔ _
      split_ifs <;> simp_all [or_assoc]
    case align =>
      change ((opnd s c w 43 39).toNat % 64 ≠ 0 ∨ _ ∧ (opnd s c w 21 17).toNat % 64 ≠ 0) ∨ _ ∧ (opnd s c w 14 10).toNat % 64 ≠ 0 ↔ _
      split_ifs <;> simp_all [or_assoc]
  · rw [tensorFault, captureArr, if_neg h0, if_neg h3]
    simp [tensorRanges, h0, h3]

theorem tensorEff_none (h : tensorFault (captureArr s c w) = none) : tensorEff c w s =
    if 8 ≤ (s.core c).arrayq.length then .stall else .done (s.modCore c (fun k => { k with arrayq := k.arrayq ++ [captureArr s c w] })) := by
  simp only [tensorEff, h]

theorem tensorEff_some {cause : Nat} (h : tensorFault (captureArr s c w) = some cause) : tensorEff c w s = .trap 4 cause (wd (corePc s c)) s := by
  simp only [tensorEff, h]

end

/-- Settles O9: the first check that fails is the fault; else the instruction enters the queue as captured, or stalls. -/
theorem tensorIssue : Obligations.TensorIssue := by
  intro e he c w s h
  have hexec : exec (e.1 c) s = .next (finish c.val s (tensorEff c.val w s)) := by rw [exec_tensorOps e he, issue_executes h (List.mem_singleton_self _)]
  have hfault := tensorFault_eq_ite c.val w s
  refine ⟨fun hok => ?queue, fun hr => ?range, fun hr ha => ?aligned⟩
  case queue =>
    rw [if_neg fun ⟨r, hr, hlt⟩ => absurd (hok r hr).1 (by omega), if_neg fun ⟨r, hr, hne⟩ => hne (hok r hr).2] at hfault
    rw [hexec, tensorEff_none hfault]
    refine ⟨fun hlt => ?_, fun hfull => by rw [if_pos hfull]; rfl⟩
    rw [if_neg (by omega)]
    obtain ⟨honly, hcore⟩ := finish_done_modCore h.goes (f := fun k => { k with arrayq := k.arrayq ++ [captureArr s c.val w] }) h.goes.watch
    exact ⟨_, captureArr s c.val w, rfl, honly, hcore, rfl, rfl, rfl, rfl, rfl, rfl, rfl, rfl, rfl, rfl, rfl, rfl, rfl⟩
  case range =>
    rw [if_pos hr] at hfault
    rw [hexec, tensorEff_some hfault]
    rfl
  case aligned =>
    rw [if_neg fun ⟨r, hmem, hlt⟩ => absurd (hr r hmem) (by omega), if_pos ha] at hfault
    rw [hexec, tensorEff_some hfault]
    rfl

end Sys2Proof.Machine
end

section
/-! A TLD that starts under a watchpoint (R60, R120). -/

namespace Sys2Proof.Machine
open Sys2Proof.Claims

theorem exec_arrayInstructionStart (c : CoreId) (mac : Bool) (s : State) : exec (.arrayInstructionStart c mac) s = execArrayInstructionStart c mac s := rfl

/-- A TLD alone in the queue may start in the load pipe. -/
theorem nextStart_tld {a : ArrOp} (hs : a.started = false) (h0 : iOp a.word = 0) : nextStart [a] false = some 0 := by simp [nextStart, List.findIdx?_cons, isMac, mayStart, hs, h0]

/-- A TLD alone in the queue of a core that runs in its window starts. -/
theorem exec_start_tld {c : CoreId} {s : State} {a : ArrOp} (hq : (s.core c.val).arrayq = [a]) (hs : a.started = false) (h0 : iOp a.word = 0) (ho : ownsBanks s c.val = true)
    (hr : coreRunning s c.val = true) (hh : (s.core c.val).haltTo = none) : exec (.arrayInstructionStart c false) s = .next (startTld c.val 0 a s) := by
  rw [exec_arrayInstructionStart, execArrayInstructionStart, if_neg (by simp [ho, hr, hh]), hq, nextStart_tld hs h0]
  simp [h0]

/-- A TLD of one line from address 0 to line 0 of buffer 0, not started. -/
def tldFromZero : ArrOp :=
  { word := 8 * 2 ^ 60, sa := 0, sd := 0, sk := 0, sn := 0, ss := 0, sadd := 0, smul := 0, step := 0, mb := 0, key0 := 0, key1 := 0, started := false, bytes := [], pst := 0, vec := 0 }

/-- Core 0 waits in STATE 2 of its compute window, that TLD at the head of its idle array, with debug unlocked and watchpoint 0 enabled for reads of word 0. -/
def waitingWatched : State :=
  { State.reset with regs := [(rCoreStat 0, 2 + 2 ^ 3), (0xF000, 2 ^ 21 + 2 ^ 24), (rCoreWpt 0 0, 2 ^ 63 + 2 ^ 60)] }.modCore 0 (fun k => { k with arrayq := [tldFromZero] })

/-- The core store of that state is empty: every word reads as the clean 0. -/
theorem holds_zero_waitingWatched (j : Nat) : Holds (0 : CoreId).val j 0 waitingWatched := rfl

/-- The TLD starts there, and the watchpoint that its read matches halts the waiting core into STATE 5. -/
theorem coreSt_start_waitingWatched : coreSt (startTld 0 0 tldFromZero waitingWatched) 0 = 5 := by decide +kernel

/-- Refutes O33: the clause on TLD lets nothing but the core records change, but a read that a watchpoint matches halts a waiting core into STATE 5 at once, which CORE_STAT shows (R60, R120). -/
theorem not_arrayEngine : ¬ Obligations.ArrayEngine := by
  rintro ⟨-, hwork, -⟩
  have hq : (waitingWatched.core (0 : CoreId).val).arrayq = [tldFromZero] := rfl
  have hop : iOp tldFromZero.word = 0 := by decide +kernel
  have hown : ownsBanks waitingWatched (0 : CoreId).val = true := by decide +kernel
  have hrun : coreRunning waitingWatched (0 : CoreId).val = true := by decide +kernel
  obtain ⟨htld, -⟩ := hwork 0 waitingWatched tldFromZero hq rfl hown hrun rfl
  obtain ⟨t, hexec, -, -, -, -, ht⟩ := htld (fun _ => 0) hop fun i _ => holds_zero_waitingWatched _
  have hkept : coreSt t 0 = coreSt waitingWatched 0 := by rw [ht]; rfl
  rw [← Host.Outcome.next.inj ((exec_start_tld hq rfl hop hown hrun rfl).symm.trans hexec)] at hkept
  exact absurd (coreSt_start_waitingWatched.symm.trans hkept) (by decide +kernel)

end Sys2Proof.Machine
end

section
/-! Vector loads and stores: the active elements, what a load takes and what a store leaves (R159 to R163). -/

namespace Sys2Proof.Machine
open Sys2Proof.Claims

/-! ### The record of one core -/

/-- From s to t the record of core c becomes k, and nothing else changes. -/
structure CoreBecomes (c : Nat) (s t : State) (k : Core) : Prop where
  rest : t = { s with cores := t.cores }
  others : ∀ d, d ≠ c → t.core d = s.core d
  core : t.core c = k

section
variable {c : Nat} {s t : State} {k : Core}

theorem coreBecomes_self : CoreBecomes c s s (s.core c) := ⟨rfl, fun _ _ => rfl, rfl⟩

theorem CoreBecomes.modCore (h : CoreBecomes c s t k) (f : Core → Core) : CoreBecomes c s (t.modCore c f) (f k) where
  rest := by rw [h.rest]; rfl
  others d hd := (State.core_modCore_ne t f (Ne.symm hd)).trans (h.others d hd)
  core := by rw [State.core_modCore_self, h.core]

/-- The accesses of an instruction that is about to retire where no watchpoint matches set nothing. -/
theorem CoreBecomes.watch (h : CoreBecomes c s t k) (hg : Goes c s) (kind : Nat) (ws : List Nat) : Machine.watch c kind ws t = t :=
  watch_noMatch ws fun a i => (wptMatch_congr c a i (by rw [h.rest])).trans (hg.noMatch a i)

/-- An instruction that leaves its core as k and is done. -/
theorem CoreBecomes.finish (h : CoreBecomes c s t k) (hg : Goes c s) (hk : k.wptHit = false) :
    OnlyCore c (corePc s c + 1) s (finish c s (.done t)) ∧ (Machine.finish c s (.done t)).core c = k := by
  have hpc := hg.pc
  have hrest : t = { s with cores := t.cores, draws := t.draws } := by rw [h.rest]
  rw [finish_done hg hrest (h.core ▸ hk)]
  exact ⟨onlyCore_setPc (by omega) hrest h.others, (core_setPc ..).trans h.core⟩

end

/-! ### The active elements (R159 to R161) -/

section
variable {k : Core} {w : Word} {op : Nat}

theorem mem_vmActive {e : BitVec 16} {i : Nat} : i ∈ vmActive e op ↔ memElement e op i := by simp [vmActive, memElement]

theorem memElement_first {e : BitVec 16} {i : Nat} (hi : i < 16) (h : e.getLsbD i = true) : memElement e op i :=
  ⟨by split_ifs <;> omega, by rwa [Nat.mod_eq_of_lt hi]⟩

theorem memElement_second {e : BitVec 16} {i : Nat} (h1 : op % 8 = 1) (hi : i < 16) (h : e.getLsbD i = true) : memElement e op (16 + i) :=
  ⟨by rw [if_pos h1]; omega, by rwa [Nat.add_mod_left, Nat.mod_eq_of_lt hi]⟩

/-- No element of a reachable access faults. -/
theorem vmFault_of_reachable (h : Reachable k (iOp w) w) : vmFault k w (vmActive (effPred k w) (iOp w)) = none := by
  refine List.findSome?_eq_none_iff.2 fun i hi => ?_
  obtain ⟨hrange, halign⟩ := h i (mem_vmActive.1 hi)
  have hle : iOp w % 8 ≤ 1 ↔ iOp w % 8 = 0 ∨ iOp w % 8 = 1 := by omega
  rw [if_neg (by omega), if_neg]
  unfold vmAlign
  split_ifs at halign ⊢ <;> omega

/-- The words of the active elements, each once. -/
def vmWords (k : Core) (w : Word) : List Nat := ((vmActive (effPred k w) (iOp w)).map fun i => vmAddr k w i / 8).dedup

theorem mem_vmWords {j : Nat} : j ∈ vmWords k w ↔ ∃ i, memElement (effPred k w) (iOp w) i ∧ vmAddr k w i / 8 = j := by simp [vmWords, mem_vmActive]

end

/-- A list of read words, looked up by word index. -/
theorem getD_map_idxOf (m : Nat → Word) {l : List Nat} {j : Nat} (h : j ∈ l) : (l.map m).getD (l.idxOf j) 0 = m j := by
  have hlt := List.idxOf_lt_length_iff.2 h
  simp [List.getD_eq_getElem?_getD, List.getElem?_eq_getElem hlt, List.getElem_idxOf hlt]

theorem halfAt_lt (d : Word) (a : Nat) : halfAt d a < 2 ^ 32 := by
  have := d.isLt
  unfold halfAt
  split_ifs <;> omega

theorem mkVec_congr {w n : Nat} {f g : Nat → Nat} (h : ∀ i < n, f i = g i) : mkVec w n f = mkVec w n g := by
  rw [mkVec, mkVec, List.map_congr_left fun i hi => h i (List.mem_range.1 hi)]

/-! ### Loads (R159 to R161) -/

/-- Register reg after a load of the words m, whose active elements are those of the access from number o on. -/
def loadVec (k : Core) (w : Word) (m : Nat → Word) (reg o : Nat) : BitVec 512 :=
  mkVec 32 16 fun i => if (effPred k w).getLsbD i then halfAt (m (vmAddr k w (o + i) / 8)) (vmAddr k w (o + i)) else elem 32 (readV k reg) i

theorem elem_loadVec (k : Core) (w : Word) (m : Nat → Word) (reg o : Nat) {i : Nat} (hi : i < 16) : elem 32 (loadVec k w m reg o) i =
    if (effPred k w).getLsbD i then halfAt (m (vmAddr k w (o + i) / 8)) (vmAddr k w (o + i)) else elem 32 (readV k reg) i := by
  rw [loadVec, elem_mkVec _ hi (by omega), apply_ite (· % 2 ^ 32), elem_mod, Nat.mod_eq_of_lt (halfAt_lt _ _)]

/-- The core after a load of the words m. -/
def loadedCore (k : Core) (w : Word) (m : Nat → Word) : Core :=
  if iOp w % 8 = 1 then writeV (bits w 49 46 + 1) (loadVec k w m (bits w 49 46 + 1) 16) (writeV (bits w 49 46) (loadVec k w m (bits w 49 46) 0) k)
  else writeV (bits w 49 46) (loadVec k w m (bits w 49 46) 0) k

theorem loadedCore_rest (k : Core) (w : Word) (m : Nat → Word) : loadedCore k w m = { k with v := (loadedCore k w m).v } := by
  unfold loadedCore
  split_ifs <;> rfl

/-- Element i of register j after a load. -/
theorem elem_loadedCore (k : Core) (w : Word) (m : Nat → Word) {i j : Nat} (hi : i < 16) (hj : j < 16) : elem 32 (readV (loadedCore k w m) j) i =
    if (effPred k w).getLsbD i = true ∧ (j = bits w 49 46 ∨ iOp w % 8 = 1 ∧ j = bits w 49 46 + 1)
    then halfAt (m (vmAddr k w (i + 16 * (j - bits w 49 46)) / 8)) (vmAddr k w (i + 16 * (j - bits w 49 46))) else elem 32 (readV k j) i := by
  by_cases hfirst : j = bits w 49 46
  · have hread : readV (loadedCore k w m) j = loadVec k w m j 0 := by
      subst hfirst
      unfold loadedCore
      split_ifs
      · rw [readV_writeV _ _ _ _ hj, if_neg (by omega), readV_writeV _ _ _ _ hj, if_pos rfl]
      · rw [readV_writeV _ _ _ _ hj, if_pos rfl]
    rw [hread, elem_loadVec k w m j 0 hi]
    simp [hfirst]
  by_cases hsecond : iOp w % 8 = 1 ∧ j = bits w 49 46 + 1
  · obtain ⟨h1, rfl⟩ := hsecond
    have hread : readV (loadedCore k w m) (bits w 49 46 + 1) = loadVec k w m (bits w 49 46 + 1) 16 := by
      rw [loadedCore, if_pos h1, readV_writeV _ _ _ _ hj, if_pos rfl]
    rw [hread, elem_loadVec k w m _ 16 hi]
    simp [h1, Nat.add_comm]
  · have hread : readV (loadedCore k w m) j = readV k j := by
      unfold loadedCore
      split_ifs with h1
      · rw [readV_writeV _ _ _ _ hj, if_neg fun h => hsecond ⟨h1, h.symm⟩, readV_writeV _ _ _ _ hj, if_neg (Ne.symm hfirst)]
      · rw [readV_writeV _ _ _ _ hj, if_neg (Ne.symm hfirst)]
    rw [hread, if_neg fun h => h.2.elim hfirst hsecond]

section
variable {c : Nat} {w : Word} {s : State} {m : Nat → Word}

/-- A load with no active element does nothing. -/
theorem vldEff_empty (hr : Reachable (s.core c) (iOp w) w) (he : vmActive (effPred (s.core c) w) (iOp w) = []) : vldEff c w s = .done s := by
  have hfault := vmFault_of_reachable hr
  simp only [vldEff]
  rw [hfault, he]
  rfl

/-- What the body of a load puts into a register whose active elements are those from number o on. -/
theorem loadVec_eq (reg o : Nat) (h : ∀ i < 16, (effPred (s.core c) w).getLsbD i = true → memElement (effPred (s.core c) w) (iOp w) (o + i)) :
    (mkVec 32 16 fun i => if (effPred (s.core c) w).getLsbD i then
      halfAt (((vmWords (s.core c) w).map m).getD ((vmWords (s.core c) w).idxOf (vmAddr (s.core c) w (o + i) / 8)) 0) (vmAddr (s.core c) w (o + i))
      else elem 32 (readV (s.core c) reg) i) = loadVec (s.core c) w m reg o :=
  mkVec_congr fun i hi => by
    split_ifs with hbit
    · rw [getD_map_idxOf m (mem_vmWords.2 ⟨_, h i hi hbit, rfl⟩)]
    · rfl

/-- A reachable load of words that read clean. -/
theorem vldEff_loads (hg : Goes c s) (ho : ownsBanks s c = true) (hr : Reachable (s.core c) (iOp w) w)
    (hm : ∀ i, memElement (effPred (s.core c) w) (iOp w) i → Holds c (vmAddr (s.core c) w i / 8) (m (vmAddr (s.core c) w i / 8)) s)
    (he : vmActive (effPred (s.core c) w) (iOp w) ≠ []) : ∃ t, vldEff c w s = .done t ∧ CoreBecomes c s t (loadedCore (s.core c) w m) := by
  have hwords : readWords c (vmWords (s.core c) w) s = .ok ((vmWords (s.core c) w).map m) s :=
    readWords_clean m _ fun j hj => by obtain ⟨i, hi, rfl⟩ := mem_vmWords.1 hj; exact hm i hi
  have hfault := vmFault_of_reachable hr
  simp only [vldEff]
  rw [hfault, if_neg (by simpa using he), if_neg (by simp [ho]), ← vmWords, hwords]
  have hfirst := loadVec_eq (c := c) (w := w) (s := s) (m := m) (bits w 49 46) 0 fun i hi hbit => by rw [Nat.zero_add]; exact memElement_first hi hbit
  simp only [Nat.zero_add] at hfirst
  dsimp only
  rw [hfirst]
  by_cases h1 : iOp w % 8 = 1
  · rw [if_pos h1, loadVec_eq (bits w 49 46 + 1) 16 fun i hi hbit => memElement_second h1 hi hbit, loadedCore, if_pos h1]
    have hb := ((coreBecomes_self (c := c) (s := s)).modCore (writeV (bits w 49 46) (loadVec (s.core c) w m (bits w 49 46) 0))).modCore
      (writeV (bits w 49 46 + 1) (loadVec (s.core c) w m (bits w 49 46 + 1) 16))
    exact ⟨_, by rw [hb.watch hg], hb⟩
  · rw [if_neg h1, loadedCore, if_neg h1]
    have hb := (coreBecomes_self (c := c) (s := s)).modCore (writeV (bits w 49 46) (loadVec (s.core c) w m (bits w 49 46) 0))
    exact ⟨_, by rw [hb.watch hg], hb⟩

end

theorem exec_loads : ∀ p ∈ ([(.vld, 0), (.vldP, 1), (.vldS, 2), (.vldX, 3), (.vldB, 4)] : List ((CoreId → Instr) × Nat)), p.2 < 8 ∧
    ∀ (c : CoreId) (s : State), exec (p.1 c) s = .next (issue c.val 6 [p.2] (vldEff c.val) s) := by
  repeat refine List.forall_mem_cons.2 ⟨⟨by omega, fun _ _ => rfl⟩, ?_⟩
  exact List.forall_mem_nil _

theorem vectorLoadResult : Claims.VectorLoadResult := by
  intro p hp c w m s h ho hr hm
  obtain ⟨hlt, hexec⟩ := exec_loads p hp
  have h1 : p.2 = 1 ↔ iOp w % 8 = 1 := by rw [h.opEq]; omega
  rw [hexec, issue_executes h (List.mem_singleton_self _)]
  simp only [← h.opEq] at hr hm
  simp only [h1]
  by_cases he : vmActive (effPred (s.core c.val) w) (iOp w) = []
  · obtain ⟨honly, hcore⟩ := finish_done_self h.goes
    rw [vldEff_empty hr he]
    refine ⟨_, rfl, honly, by rw [hcore], fun j hj i hi => ?_⟩
    have hoff : (effPred (s.core c.val) w).getLsbD i ≠ true := fun hbit =>
      List.eq_nil_iff_forall_not_mem.1 he i (mem_vmActive.2 (memElement_first hi hbit))
    rw [hcore, if_neg fun k => hoff k.1]
  · obtain ⟨t, heff, hb⟩ := vldEff_loads h.goes ho hr hm he
    rw [heff]
    obtain ⟨honly, hcore⟩ := hb.finish h.goes (by rw [loadedCore_rest]; exact h.goes.watch)
    refine ⟨_, rfl, honly, by rw [hcore, ← loadedCore_rest], fun j hj i hi => ?_⟩
    rw [hcore, elem_loadedCore _ w m hi hj]

/-! ### What a store leaves at each half (R162, R163) -/

/-- What the active elements of a store leave at the 32 bits of an address, if one does. -/
def halfStored (k : Core) (w : Word) (a : Nat) : Option Nat := vstHalf k w (vmActive (effPred k w) (iOp w)) a

/-- Word j after a store, o the old words. -/
def wordStored (k : Core) (w : Word) (o : Nat → Nat) (j : Nat) : Word :=
  wd ((halfStored k w (8 * j)).getD (o j % 2 ^ 32) + (halfStored k w (8 * j + 4)).getD (o j / 2 ^ 32) * 2 ^ 32)

section
variable {k : Core} {w : Word} {a : Nat}

theorem halfStored_eq_none_iff : halfStored k w a = none ↔ ∀ h, memElement (effPred k w) (iOp w) h → vmAddr k w h ≠ a := by simp [halfStored, vstHalf, mem_vmActive]

/-- Of the elements stored at an address the highest-numbered one stays. -/
theorem halfStored_of_last {h : Nat} (hmem : memElement (effPred k w) (iOp w) h) (ha : vmAddr k w h = a)
    (hlast : ∀ g, memElement (effPred k w) (iOp w) g → vmAddr k w g = a → g ≤ h) : halfStored k w a = some (vstVal k w h) := by
  have hsorted : (vmActive (effPred k w) (iOp w)).reverse.Pairwise (· > ·) := List.pairwise_reverse.2 (List.pairwise_lt_range.filter _)
  obtain ⟨as, bs, hsplit⟩ := List.append_of_mem (List.mem_reverse.2 (mem_vmActive.2 hmem))
  have hfind : (vmActive (effPred k w) (iOp w)).reverse.find? (fun i => vmAddr k w i == a) = some h := by
    refine List.find?_eq_some_iff_append.2 ⟨by simpa using ha, as, bs, hsplit, fun g hg => ?_⟩
    have hgt : g > h := (List.pairwise_append.1 (hsplit ▸ hsorted)).2.2 g hg h List.mem_cons_self
    have hgmem := mem_vmActive.1 (List.mem_reverse.1 (hsplit ▸ List.mem_append_left _ hg))
    simpa using fun hga => absurd (hlast g hgmem hga) (by omega)
  rw [halfStored, vstHalf, hfind, Option.map_some]

theorem halfStored_getD_lt {d : Nat} (hd : d < 2 ^ 32) : (halfStored k w a).getD d < 2 ^ 32 := by
  unfold halfStored vstHalf
  cases (vmActive (effPred k w) (iOp w)).reverse.find? (fun i => vmAddr k w i == a) with
  | none => exact hd
  | some i => exact elem_lt ..

/-- The half of a word made of two. -/
theorem halfAt_wd {lo hi : Nat} (hlo : lo < 2 ^ 32) (hhi : hi < 2 ^ 32) : halfAt (wd (lo + hi * 2 ^ 32)) a = if a % 8 < 4 then lo else hi := by
  have hpair : (wd (lo + hi * 2 ^ 32)).toNat = lo + hi * 2 ^ 32 := by rw [wd, BitVec.toNat_ofNat, Nat.mod_eq_of_lt (by omega)]
  rw [halfAt, hpair]
  split_ifs <;> omega

/-- Each half of a stored word: what the elements leave there, else the old one. -/
theorem halfAt_wordStored {o : Nat → Nat} (ho : o (a / 8) < 2 ^ 64) (h4 : a % 4 = 0) :
    halfAt (wordStored k w o (a / 8)) a = (halfStored k w a).getD (if a % 8 < 4 then o (a / 8) % 2 ^ 32 else o (a / 8) / 2 ^ 32) := by
  rw [wordStored, halfAt_wd (halfStored_getD_lt (by omega)) (halfStored_getD_lt (by omega))]
  split_ifs with h8
  · rw [show 8 * (a / 8) = a by omega]
  · rw [show 8 * (a / 8) + 4 = a by omega]

end

/-! ### Words written one after another -/

/-- A store after words are written into it. -/
def wordsWritten (x : Nat → Word) (l : List Nat) (t : Tab Codeword) : Tab Codeword := l.foldl (fun t j => cwWrite t j ⟨x j, false⟩) t

theorem tfind_wordsWritten_of_not_mem (x : Nat → Word) {l : List Nat} {i : Nat} (h : i ∉ l) (t : Tab Codeword) : tfind (wordsWritten x l t) i = tfind t i := by
  induction l generalizing t with
  | nil => rfl
  | cons j l ih =>
    obtain ⟨hne, hl⟩ := not_or.1 (List.mem_cons.not.1 h)
    exact (ih hl _).trans (tfind_cwWrite_ne _ _ (Ne.symm hne))

theorem cwRead_wordsWritten_of_mem (x : Nat → Word) {l : List Nat} {i : Nat} (h : i ∈ l) (t : Tab Codeword) : cwRead (wordsWritten x l t) i = .clean ⟨x i, false⟩ := by
  induction l generalizing t with
  | nil => exact absurd h List.not_mem_nil
  | cons j l ih =>
    by_cases hl : i ∈ l
    · exact ih hl _
    · obtain rfl := (List.mem_cons.1 h).resolve_right hl
      have htail : tfind (wordsWritten x (i :: l) t) i = tfind (cwWrite t i ⟨x i, false⟩) i := tfind_wordsWritten_of_not_mem x hl _
      rw [cwRead, htail]
      exact cwRead_cwWrite_self ..

theorem CoreBecomes.forEach_writeWord {c : Nat} {s t : State} {k : Core} (h : CoreBecomes c s t k) (x : Nat → Word) (l : List Nat) :
    CoreBecomes c s (forEach l (fun j u => writeWord c j ⟨x j, false⟩ u) t) { k with store := wordsWritten x l k.store } := by
  induction l generalizing t k with
  | nil => exact h
  | cons j l ih => exact ih (h.modCore fun k => { k with store := cwWrite k.store j ⟨x j, false⟩ })

/-! ### Stores (R159 to R163) -/

section
variable {c : Nat} {w : Word} {s : State} {m : Nat → Word}

/-- A store with no active element does nothing. -/
theorem vstEff_empty (hr : Reachable (s.core c) (iOp w) w) (he : vmActive (effPred (s.core c) w) (iOp w) = []) : vstEff c w s = .done s := by
  have hfault := vmFault_of_reachable hr
  simp only [vstEff]
  rw [hfault, he]
  rfl

/-- The words of a store of which an active half is missing: those that it reads. -/
theorem mem_partial {k : Core} {j : Nat} : j ∈ (vmWords k w).filter (vstPartial k w (vmActive (effPred k w) (iOp w))) ↔
    j ∈ vmWords k w ∧ ∃ a, a % 4 = 0 ∧ a / 8 = j ∧ halfStored k w a = none := by
  rw [List.mem_filter, vstPartial, Bool.or_eq_true, Option.isNone_iff_eq_none, Option.isNone_iff_eq_none]
  refine and_congr_right fun _ => ⟨fun h => h.elim (fun h0 => ⟨8 * j, by omega, by omega, h0⟩) fun h4 => ⟨8 * j + 4, by omega, by omega, h4⟩, ?_⟩
  rintro ⟨a, h4, rfl, hnone⟩
  by_cases h8 : a % 8 = 0
  · exact .inl (by rwa [show 8 * (a / 8) = a by omega])
  · exact .inr (by rwa [show 8 * (a / 8) + 4 = a by omega])

/-- A reachable store whose partly written words read clean. -/
theorem vstEff_stores (hg : Goes c s) (ho : ownsBanks s c = true) (hr : Reachable (s.core c) (iOp w) w)
    (hm : ∀ j ∈ vmWords (s.core c) w, (∃ a, a % 4 = 0 ∧ a / 8 = j ∧ halfStored (s.core c) w a = none) → Holds c j (m j) s)
    (he : vmActive (effPred (s.core c) w) (iOp w) ≠ []) : ∃ t o, vstEff c w s = .done t ∧
      (∀ j, o j < 2 ^ 64) ∧ (∀ j ∈ vmWords (s.core c) w, (∃ a, a % 4 = 0 ∧ a / 8 = j ∧ halfStored (s.core c) w a = none) → o j = (m j).toNat) ∧
      CoreBecomes c s t { s.core c with store := wordsWritten (wordStored (s.core c) w o) (vmWords (s.core c) w) (s.core c).store } := by
  have hwords := readWords_clean m ((vmWords (s.core c) w).filter (vstPartial (s.core c) w (vmActive (effPred (s.core c) w) (iOp w)))) fun j hj =>
    hm j (mem_partial.1 hj).1 (mem_partial.1 hj).2
  have hfault := vmFault_of_reachable hr
  simp only [vstEff]
  rw [hfault, if_neg (by simpa using he), if_neg (by simp [ho]), ← vmWords, hwords]
  have hb := (coreBecomes_self (c := c) (s := s)).forEach_writeWord (wordStored (s.core c) w fun j =>
    ((((vmWords (s.core c) w).filter (vstPartial (s.core c) w (vmActive (effPred (s.core c) w) (iOp w)))).map m).getD
      (((vmWords (s.core c) w).filter (vstPartial (s.core c) w (vmActive (effPred (s.core c) w) (iOp w)))).idxOf j) 0).toNat) (vmWords (s.core c) w)
  exact ⟨_, _, congrArg Eff.done (hb.watch hg 2 _), fun _ => BitVec.isLt _, fun j hj hp => by rw [getD_map_idxOf m (mem_partial.2 ⟨hj, hp⟩)], hb⟩

end

theorem exec_stores : ∀ p ∈ ([(.vst, 8), (.vstP, 9), (.vstS, 10), (.vstX, 11)] : List ((CoreId → Instr) × Nat)),
    ∀ (c : CoreId) (s : State), exec (p.1 c) s = .next (issue c.val 6 [p.2] (vstEff c.val) s) := by
  repeat refine List.forall_mem_cons.2 ⟨fun _ _ => rfl, ?_⟩
  exact List.forall_mem_nil _

theorem vectorStoreResult : Claims.VectorStoreResult := by
  intro p hp c w m s h ho hr hm
  rw [exec_stores p hp, issue_executes h (List.mem_singleton_self _)]
  simp only [← h.opEq] at hr hm ⊢
  by_cases he : vmActive (effPred (s.core c.val) w) (iOp w) = []
  · obtain ⟨honly, hcore⟩ := finish_done_self h.goes
    have hnone : ∀ i, ¬ memElement (effPred (s.core c.val) w) (iOp w) i := fun i hi => List.eq_nil_iff_forall_not_mem.1 he i (mem_vmActive.2 hi)
    rw [vstEff_empty hr he]
    exact ⟨_, m, rfl, honly, ⟨by rw [hcore], fun i _ => by rw [hcore]⟩, fun i hi => absurd hi (hnone i)⟩
  · have hclean : ∀ j ∈ vmWords (s.core c.val) w, (∃ a, a % 4 = 0 ∧ a / 8 = j ∧ halfStored (s.core c.val) w a = none) → Holds c.val j (m j) s := by
      rintro j hj ⟨a, h4, rfl, hnone⟩
      obtain ⟨i, hi, haddr⟩ := mem_vmWords.1 hj
      rw [← haddr]
      exact hm i hi ⟨a, h4, haddr.symm, halfStored_eq_none_iff.1 hnone⟩
    obtain ⟨t, o, heff, hlt, hold, hb⟩ := vstEff_stores h.goes ho hr hclean he
    obtain ⟨honly, hcore⟩ := hb.finish h.goes h.goes.watch
    rw [heff]
    refine ⟨_, wordStored (s.core c.val) w o, rfl, honly, ⟨by rw [hcore], fun j hj => ?_⟩, fun i hi => ⟨?_, fun a h4 ha => ⟨fun h hh haddr hlast => ?_, fun hfree => ?_⟩⟩⟩
    · rw [hcore]
      exact tfind_wordsWritten_of_not_mem _ (fun k => hj (mem_vmWords.1 k)) _
    · rw [Holds, hcore]
      exact cwRead_wordsWritten_of_mem _ (mem_vmWords.2 ⟨i, hi, rfl⟩) _
    · rw [halfAt_wordStored (hlt _) h4, halfStored_of_last hh haddr hlast]
      rfl
    · have hnone := halfStored_eq_none_iff.2 hfree
      rw [halfAt_wordStored (hlt _) h4, hnone, hold _ (mem_vmWords.2 ⟨i, hi, ha.symm⟩) ⟨a, h4, rfl, hnone⟩]
      rfl

/-- Settles O32: a load writes the halves that it reads, a store the words that its active elements make. -/
theorem vectorMemory : Obligations.VectorMemory := ⟨vectorLoadResult, vectorStoreResult⟩

end Sys2Proof.Machine
end

section
/-! Answers and stream lines that reach a limb, and a packet of a reserved TYPE (R190, R317, R319, R328, R443, R451, R453, R496, R760, R857). -/

namespace Sys2Proof.Machine
open Sys2Proof.Claims

/-! ### What an error leaves of the engines' reads -/

/-- The reads of the engines, made and wanted, stand in t as in s. -/
def SameReads (s t : State) : Prop := t.engReads = s.engReads ∧ t.engWant = s.engWant

section
variable {s t : State}

theorem sameReads_refl (s : State) : SameReads s s := ⟨rfl, rfl⟩

theorem SameReads.trans {u : State} (h : SameReads s t) (k : SameReads t u) : SameReads s u := ⟨k.1.trans h.1, k.2.trans h.2⟩

theorem sameReads_nlog (kind cls dk unit code rep loc : Nat) (a b x : Word) : SameReads s (nlog kind cls dk unit code rep loc a b x s) := by
  rw [nlog_rest]
  exact sameReads_refl s

theorem sameReads_errRefresh (d : Dom) : SameReads s (errRefresh d s) := by
  unfold errRefresh errMaps
  cases d with
  | field f => dsimp only; split <;> exact sameReads_refl s
  | core c => exact sameReads_refl s
  | limb l => exact sameReads_refl s
  | module => exact sameReads_refl s

theorem sameReads_takeRecord (d : Dom) (off cls unit cause : Nat) (info : Word) : SameReads s (takeRecord d off cls unit cause info s) :=
  SameReads.trans (t := wr4 off (newRecord d cls unit cause info s) s) (sameReads_refl s) (sameReads_nlog ..)

theorem sameReads_moduleEscalate (unit cause : Nat) : SameReads s (moduleEscalate unit cause s) := by
  unfold moduleEscalate
  split
  · exact sameReads_refl s
  · exact SameReads.trans (t := faultPin (s.setFld rModFault 1 1 1)) (sameReads_refl s) ((sameReads_nlog ..).trans (sameReads_errRefresh _))

theorem sameReads_recordError (d : Dom) (cls unit cause : Nat) (info : Word) : SameReads s (recordError d cls unit cause info s) := by
  unfold recordError
  dsimp only
  split_ifs
  · exact sameReads_refl s
  · exact sameReads_refl s
  · exact (sameReads_takeRecord ..).trans (sameReads_errRefresh d)
  · exact (sameReads_takeRecord ..).trans (sameReads_errRefresh d)
  · exact SameReads.trans (t := s.satFld (errBase d) 47 32 1) (sameReads_refl s) ((sameReads_takeRecord ..).trans (sameReads_errRefresh d))
  · exact SameReads.trans (t := s.satFld (errBase d) 47 32 1) (sameReads_refl s) (sameReads_nlog ..)
  · cases d with
    | module => exact sameReads_moduleEscalate unit cause
    | core c => exact sameReads_refl s
    | field f => exact sameReads_refl s
    | limb l => exact sameReads_refl s

theorem sameReads_reqHalt (c st : Nat) : SameReads s (reqHalt c st s) := by
  unfold reqHalt
  split_ifs <;> exact sameReads_refl s

theorem sameReads_quiesceField (f : Nat) : SameReads s (quiesceField f s) :=
  forEach_induction (P := SameReads s) (fun c _ h => h.trans (sameReads_reqHalt c 7)) _ (sameReads_refl s)

theorem sameReads_contain (d : Dom) : SameReads s (contain d s) := by
  cases d with
  | core c => exact (sameReads_reqHalt c.val 6).trans (sameReads_quiesceField _)
  | field f => exact sameReads_quiesceField f.val
  | limb l => exact sameReads_refl s
  | module => exact forEach_induction (P := SameReads s) (fun f _ h => h.trans (sameReads_quiesceField f)) _ (sameReads_refl s)

/-- An error below FATAL that reaches a domain leaves the reads of the engines. -/
theorem sameReads_raise (d : Dom) {cls : Nat} (hcls : cls ≠ 3) (unit cause : Nat) (info : Word) : SameReads s (raise d cls unit cause info s) := by
  have hrec : SameReads s (recordError d cls unit cause info s) := sameReads_recordError ..
  unfold raise
  simp only [if_neg hcls]
  split_ifs
  · exact (hrec.trans (sameReads_contain d)).trans (sameReads_contain _)
  · exact hrec.trans (sameReads_contain d)
  · exact hrec.trans (sameReads_contain _)
  · exact hrec

theorem sameReads_pushDrop (l n : Nat) : SameReads s (pushDrop l n s) :=
  SameReads.trans (t := s.satFld (rSlwStat l) 31 16 1) (sameReads_refl s) (sameReads_raise _ (by decide) ..)

end

/-! ### Answers (R317, R328, R443, R760, R857) -/

section
variable {q : Packet} {s : State}

theorem crossed_reqs (q : Packet) (s : State) : (crossed q s).reqs = s.reqs := by rw [crossed_rest]

theorem crossed_out (q : Packet) (s : State) : (crossed q s).out = s.out := by rw [crossed_rest]

theorem crossed_xp (q : Packet) (s : State) : (crossed q s).xp = s.xp := by rw [crossed_rest]

/-- An answer that crosses its way, to a Slew transfer. -/
theorem limbAnswer_transfer (h : Passes q s) (htag : q.tag < 128) (hx : q.dx = 0x1FE) {run : Run} (hrun : (s.limb q.dy).runs.find? (fun r => r.tag == q.tag) = some run) (err : Bool) :
    limbAnswer q err s = slewAnswer q.dy run q err (crossed q s) := by
  have hlimb : (crossed q s).limb q.dy = s.limb q.dy := by rw [crossed_rest]; rfl
  rw [limbAnswer, if_pos ⟨htag, hx⟩, if_neg (by simp [h.turn]), onRoute_passes h]
  simp only [hlimb, hrun]

variable {x : MeshReq} (h : Passes q s) (htag : 128 ≤ q.tag) (hx : q.dx = 0x1FE) (hreq : tfind s.reqs (4096 * q.dy + q.tag) = some x)
include h htag hx hreq

/-- An answer that crosses its way, to a request of a limb: the last one ends it, and the words of an earlier one are kept. -/
theorem limbAnswer_request (err : Bool) : limbAnswer q err s = if err || q.lastp then reqDone (4096 * q.dy + q.tag) { x with got := x.got ++ q.body } err (crossed q s)
    else { crossed q s with reqs := tset s.reqs (4096 * q.dy + q.tag) { x with got := x.got ++ q.body } } := by
  rw [limbAnswer, if_neg (by omega), limbResponse, if_neg (by simp [h.turn]), onRoute_passes h]
  simp only [hx, crossed_reqs, hreq, bne_self_eq_false, Bool.false_eq_true, if_false]

theorem limbAnswer_more (hl : q.lastp = false) : limbAnswer q false s = { crossed q s with reqs := tset s.reqs (4096 * q.dy + q.tag) { x with got := x.got ++ q.body } } := by
  rw [limbAnswer_request h htag hx hreq, if_neg (by simp [hl])]

/-- The last words of a read of BAR2. -/
theorem limbAnswer_read (hl : q.lastp = true) (hwho : x.who = 0) (hw : x.write = false) : limbAnswer q false s =
    { crossed q s with
      reqs := terase s.reqs (4096 * q.dy + q.tag)
      out := .readDone (if (x.got ++ q.body).any (fun w => w.x) then 3 else 0) ((((x.got ++ q.body).flatMap (fun w => leBytes 8 w.d.toNat)).drop x.skip).take x.len) :: s.out } := by
  rw [limbAnswer_request h htag hx hreq, if_pos (by simp [hl])]
  simp only [reqDone, hwho, hw, crossed_reqs, State.emit, crossed_out, OfNat.zero_ne_ofNat, zero_ne_one, Bool.false_eq_true, if_false]

/-- The failure of a read of BAR2. -/
theorem limbAnswer_read_err (hwho : x.who = 0) (hw : x.write = false) : limbAnswer q true s =
    bar2Err { crossed q s with reqs := terase s.reqs (4096 * q.dy + q.tag), out := .readDone 2 [] :: s.out } := by
  rw [limbAnswer_request h htag hx hreq, if_pos (by simp)]
  simp only [reqDone, hwho, hw, crossed_reqs, State.emit, crossed_out, OfNat.zero_ne_ofNat, zero_ne_one, Bool.false_eq_true, if_false, if_true]

/-- The acknowledgment of a write of BAR2. -/
theorem limbAnswer_write (hl : q.lastp = true) (hwho : x.who = 0) (hw : x.write = true) : limbAnswer q false s = { crossed q s with reqs := terase s.reqs (4096 * q.dy + q.tag) } := by
  rw [limbAnswer_request h htag hx hreq, if_pos (by simp [hl])]
  simp only [reqDone, hwho, hw, crossed_reqs, OfNat.zero_ne_ofNat, zero_ne_one, Bool.false_eq_true, if_false, if_true]

/-- The last words of a read of the debug transport, none of them poisoned. -/
theorem limbAnswer_debug (hl : q.lastp = true) (hwho : x.who = 1) (hw : x.write = false) (hclean : (x.got ++ q.body).any (fun w => w.x) = false) : limbAnswer q false s =
    { crossed q s with
      reqs := terase s.reqs (4096 * q.dy + q.tag)
      xp := { s.xp with busy := false, rstat := 0, data := (((x.got ++ q.body).flatMap (fun w => leBytes 8 w.d.toNat)).drop x.skip).take x.len } } := by
  rw [limbAnswer_request h htag hx hreq, if_pos (by simp [hl])]
  simp only [reqDone, hwho, hw, hclean, crossed_reqs, crossed_xp, OfNat.one_ne_ofNat, Bool.or_self, Bool.false_eq_true, if_false, if_true]

/-- The last words of a read of an engine. -/
theorem limbAnswer_engine (hl : q.lastp = true) (hwho : x.who = 3) : limbAnswer q false s =
    engAnswer ((4096 * q.dy + q.tag) / 4096) x.off x.total x.part 0 (((xBytes (x.got ++ q.body)).drop x.skip).take x.len)
      { crossed q s with reqs := terase s.reqs (4096 * q.dy + q.tag) } := by
  rw [limbAnswer_request h htag hx hreq, if_pos (by simp [hl])]
  simp only [reqDone, hwho, crossed_reqs, Bool.false_eq_true, if_false, if_true]

end

theorem exec_wack (p : Packet) (s : State) : exec (.wack p) s = .next (limbAnswer { p with typ := 5, lastp := true } false s) := rfl

/-! ### Stream lines (R190, R451, R453, R496) -/

/-- A stream packet that crosses its way to a limb, and whose lines ask the engines for nothing. -/
theorem exec_lsend {p r : Packet} {s : State} (hr : r = { p with typ := 9 }) (h : Passes r s) (hx : p.dx = 0x1FE) (hy : p.dy < 8) {t : State}
    (ht : (if p.q then queuePacket p.dy r (crossed r s) else pushLines p.dy (p.chq % 4096) (p.body.length + 1) p.daddr p.body (crossed r s)) = t) (hreads : SameReads s t) :
    exec (.lsend p) s = .next t := by
  subst hr
  have hgo : onRoute { p with typ := 9 } (fun t => if p.q then queuePacket p.dy { p with typ := 9 } t
      else pushLines p.dy (p.chq % 4096) (p.body.length + 1) p.daddr p.body t) (s.taken { p with typ := 9 }) = t := (onRoute_passes h _).trans ht
  change execLsend p s = _
  rw [execLsend, if_neg (by simp [hx, hy]), if_neg (by simp [h.turn]), withReads_of_no_reads (hgo ▸ hreads.2) (hgo ▸ hreads.1)]
  exact congrArg Host.Outcome.next hgo

theorem sameReads_crossed (q : Packet) (s : State) : SameReads s (crossed q s) := by
  rw [crossed_rest]
  exact sameReads_refl s

theorem pushLines_nil (l n fuel o : Nat) (s : State) : pushLines l n fuel o [] s = s := by cases fuel <;> rfl

/-- A line pushed to a channel that runs no input is dropped. -/
theorem pushLines_dropped {l n o : Nat} {ws : List PWord} {s : State} (hlen : ws.length = 8) (hrun : findRun s l n = none) : pushLines l n (ws.length + 1) o ws s = pushDrop l n s := by
  have hrest : ws.drop 8 = [] := List.drop_eq_nil_of_le (by omega)
  have hne : ¬ ws.isEmpty = true := fun h => by rw [List.isEmpty_iff.1 h] at hlen; exact absurd hlen (by decide)
  rw [pushLines, if_neg hne, hrest, pushLines_nil, pushLine, hrun]

/-- The first lines of a transfer to a queue, or the next of one, wait at the limb for its last packet. -/
theorem queuePacket_waits {l : Nat} {p : Packet} {s : State} (hl : p.lastp = false) (ha : p.daddr = 0) : queuePacket l p s =
    s.modLimb l (fun k => { k with rxc := tset k.rxc (4096 * (512 * p.sy + p.sx) + p.chq) ((tfind (s.limb l).rxc (4096 * (512 * p.sy + p.sx) + p.chq)).getD [] ++ p.body) }) := by
  simp [queuePacket, hl, ha]

theorem limb_modLimb_self (s : State) (l : Nat) (f : Limb → Limb) : (s.modLimb l f).limb l = f (s.limb l) := by simp [State.modLimb, State.limb, tget]

/-- Settles O22: an answer crosses its way and ends its request or its transfer's piece; a stream line waits or is dropped. -/
theorem limbPackets : Obligations.LimbPackets := by
  intro p s
  refine ⟨?request, ?transfer, ?stream, ?reserved⟩
  case request =>
    rintro q k rfl hx hq h128 -
    refine ⟨?rdata, ?err, ?wack⟩
    case rdata =>
      rintro r u rfl h rfl
      exact ⟨fun hl => congrArg Host.Outcome.next (limbAnswer_more h h128 hx hq hl), fun hwho hl hw => congrArg Host.Outcome.next (limbAnswer_read h h128 hx hq hl hwho hw),
        fun hwho hl hw hclean => congrArg Host.Outcome.next (limbAnswer_debug h h128 hx hq hl hwho hw hclean),
        fun hwho hl => congrArg Host.Outcome.next (limbAnswer_engine h h128 hx hq hl hwho)⟩
    case err =>
      rintro r rfl h hwho hw
      refine ⟨_, congrArg Host.Outcome.next (limbAnswer_read_err h h128 hx hq hwho hw), ?_⟩
      rw [crossed_rest]
      exact ⟨rfl, State.fld_satFld_self _ rHostStat 63 48 1 (by decide) (by decide), tfind_terase_self .., rfl⟩
    case wack =>
      rintro r rfl h hwho hw
      exact congrArg Host.Outcome.next (limbAnswer_write h h128 hx hq rfl hwho hw)
  case transfer =>
    rintro r run rfl h hx htag hrun
    rw [exec_wack, limbAnswer_transfer h htag hx hrun]
    rfl
  case stream =>
    rintro r rfl h hx hy
    refine ⟨fun hqueue hl ha => ?_, fun hqueue hlen hrun => ?_⟩
    · have hwait := queuePacket_waits (l := p.dy) (p := { p with typ := 9 }) (s := crossed { p with typ := 9 } s) hl ha
      have hlimb : (crossed { p with typ := 9 } s).limb p.dy = s.limb p.dy := by rw [crossed_rest]; rfl
      rw [hlimb] at hwait
      refine ⟨_, exec_lsend rfl h hx hy ((if_pos hqueue).trans hwait) ((sameReads_crossed _ s).trans (sameReads_refl _)), ?_, rfl⟩
      simp only [limb_modLimb_self, tfind_tset_self]
    · have hfree : findRun (crossed { p with typ := 9 } s) p.dy (p.chq % 4096) = none := by rwa [findRun, crossed_rest]
      exact exec_lsend rfl h hx hy ((if_neg (by simp [hqueue])).trans (pushLines_dropped hlen hfree)) ((sameReads_crossed _ s).trans (sameReads_pushDrop ..))
  case reserved =>
    intro c h hh
    exact if_neg hh

end Sys2Proof.Machine
end

section
/-! The runs of collective plans: start, cancel, end, the bound on waiting for present peers, and the beginning of the step scalar (R488 to R494, R512, R518). -/

namespace Sys2Proof.Machine
open Sys2Proof.Claims

/-! ### The record of one run -/

@[simp] theorem State.plan_setPlan_self (s : State) (l n : Nat) (r : PlanRun) : (s.setPlan l n r).plan l n = r := tget_tset_self ..

theorem domLimb_val (l : LimbId) : domLimb l.val = .limb l := by simp [domLimb]

/-! ### START (R489, R490, R512, R518) -/

/-- A run as START begins it, from a register write. -/
def startedRun (tag : Nat) (s : State) : PlanRun := { PlanRun.reset with running := true, tag := tag, since := sidereal s }

/-- The entry of a reduce-scatter run in the step's runs as the run starts. -/
def startedRs (s : State) (l n : Nat) : RsRun := ⟨l, n, none, pNorm (planN s l n), false, 0xFFFF, 0, 0xFFFF⟩

section
variable {l : LimbId} {n tag : Nat} {s : State} (hn : n < 256)
include hn

theorem exec_start : exec (.start l n tag) s = .next (withReads (planStart l.val n tag 0xFF) s) := by
  rw [show exec (.start l n tag) s = .next (withReads (planStart l.val (n % 256) tag 0xFF) s) from rfl, Nat.mod_eq_of_lt hn]

/-- A START that leaves the engines' reads ends as it is. -/
theorem exec_start_of_eq {t : State} (h : planStart l.val n tag 0xFF s = t) (hs : t.engReads = s.engReads ∧ t.engWant = s.engWant) : exec (.start l n tag) s = .next t := by
  rw [exec_start hn, withReads_of_no_reads (by rw [h, hs.2]) (by rw [h, hs.1]), h]

theorem exec_start_dropped (h : (s.plan l.val n).running = true ∨ limbHeld s l.val = true) : exec (.start l n tag) s = .next (s.satFld (rQstat l.val) 31 16 1) :=
  exec_start_of_eq hn (if_pos h) ⟨rfl, rfl⟩

variable (ht : tag < 65536) (hr : (s.plan l.val n).running = false) (hh : limbHeld s l.val = false)
include ht hr hh

theorem exec_start_reduceScatter (hk : pKind (planN s l.val n) = 0) : exec (.start l n tag) s =
    .next { s.setPlan l.val n (startedRun tag s) with step := { s.step with rs := s.step.rs ++ [startedRs s l.val n] } } := by
  refine exec_start_of_eq hn ?_ ⟨rfl, rfl⟩
  simp only [planStart, hr, hh, hk, Bool.false_eq_true, or_self, if_false, Nat.mod_eq_of_lt ht]
  rfl

theorem exec_start_listener (hk : (pKind (planN s l.val n) = 2 ∧ pRoot (planN s l.val n) ≠ pSelf (planN s l.val n)) ∨ pKind (planN s l.val n) = 3) :
    exec (.start l n tag) s = .next (s.setPlan l.val n (startedRun tag s)) := by
  refine exec_start_of_eq hn ?_ ⟨rfl, rfl⟩
  rcases hk with ⟨hk, hroot⟩ | hk
  · simp only [planStart, hr, hh, hk, hroot, Bool.false_eq_true, or_self, if_false, Nat.mod_eq_of_lt ht]
    rfl
  · simp only [planStart, hr, hh, hk, Bool.false_eq_true, or_self, if_false, Nat.mod_eq_of_lt ht]
    rfl

end

/-! ### CANCEL (R492) -/

theorem exec_planCancel {l : LimbId} {n : Nat} {s : State} (hn : n < 256) : exec (.planCancel l n) s = .next (planEnd l.val n 2 0xFFFF s) := by
  rw [show exec (.planCancel l n) s = .next (planEnd l.val (n % 256) 2 0xFFFF s) from rfl, Nat.mod_eq_of_lt hn]

theorem planEnd_active {l n : Nat} {s : State} (h : planActive s l n = true) (st m : Nat) : planEnd l n st m s = s.setPlan l n { s.plan l n with ending := some (st, m) } := if_pos h

theorem planEnd_inactive {l n : Nat} {s : State} (h : planActive s l n = false) (st m : Nat) : planEnd l n st m s = s := if_neg (by simp [h])

/-! ### Completion records (R635, R777, R778) -/

theorem post_rest (src lring : Nat) (rec : List Word) (s : State) :
    post src lring rec s = { s with regs := (post src lring rec s).regs, rings := (post src lring rec s).rings } := ringPush_rest ..

/-- A completion record changes the registers of its completion ring alone. -/
theorem rd_post_ne (src lring : Nat) (rec : List Word) (s : State) {off : Nat} (h : off < 0xD000 ∨ 0xE000 ≤ off) : (post src lring rec s).rd off = s.rd off :=
  rd_ringPush_ne _ s (by simp only [ringCq]; omega) (by simp only [ringCq]; omega)

theorem routeCq_lt (s : State) (src : Nat) : routeCq s src < 64 := by
  have := nbits_lt (s.rd 0x810).toNat (8 * (src - 1) + 5) (8 * (src - 1))
  rwa [show 8 * (src - 1) + 5 + 1 - 8 * (src - 1) = 6 by omega] at this

/-- A record of no launch ring takes the next SEQ of the completion ring that routes its source. -/
theorem rd_post_head (src : Nat) (rec : List Word) (s : State) :
    (post src 0xFF rec s).rd (ringCq s (routeCq s src)).head = s.rd (ringCq s (routeCq s src)).head + 1 := by
  have hj : routeCq s src % 64 = routeCq s src := Nat.mod_eq_of_lt (routeCq_lt s src)
  rw [post, if_pos rfl, postTo, hj]
  exact rd_ringPush_head _ s (by simp only [ringCq]; omega)

/-! ### PLAN_RUN_COMPLETE (R493) -/

section
variable {l : LimbId} {n : Nat} {s : State}

theorem exec_planRunComplete_goes (h : (s.plan l.val n).running = false ∨ ((s.plan l.val n).ending = none ∧ planDone s l.val n = false)) : exec (.planRunComplete l n) s = .next s := by
  change execPlanRunComplete l n s = .next s
  unfold execPlanRunComplete
  rcases h with hr | ⟨he, hd⟩
  · simp [hr]
  · simp [he, hd]

theorem exec_planRunComplete_ends {st m : Nat} (hr : (s.plan l.val n).running = true)
    (h : (s.plan l.val n).ending = some (st, m) ∨ ((s.plan l.val n).ending = none ∧ planDone s l.val n = true ∧ st = 0 ∧ m = 0xFFFF)) :
    exec (.planRunComplete l n) s = .next (planComplete l.val n st m s) := by
  change execPlanRunComplete l n s = _
  unfold execPlanRunComplete
  rcases h with he | ⟨he, hd, rfl, rfl⟩
  · simp [hr, he]
  · simp [hr, he, hd]

end

/-- The end of a reduce-scatter, all-gather or broadcast run with status 0 or 2: one record, and of the step what its reduce-scatter runs came to. -/
theorem planComplete_quiet {l n st : Nat} {s : State} (hst : st = 0 ∨ st = 2) (hk : pKind (planN s l n) < 3) (m : Nat) : ∃ rec rs,
    planComplete l n st m s = { post 2 (s.plan l n).lring rec (s.setPlan l n { s.plan l n with running := false }) with
      step := { s.step with rs := rs, rsFail := s.step.rsFail || (decide (pKind (planN s l n) = 0) && st != 0) } } := by
  have hquiet : st ∉ [1, 3, 4] := by rcases hst with rfl | rfl <;> decide
  have hstep : ∀ rec, (post 2 (s.plan l n).lring rec (s.setPlan l n { s.plan l n with running := false })).step = s.step := fun rec => by rw [post_rest]; rfl
  unfold planComplete
  obtain hk | hk | hk : pKind (planN s l n) = 0 ∨ pKind (planN s l n) = 1 ∨ pKind (planN s l n) = 2 := by omega
  · simp only [if_neg hquiet, hk, hstep, decide_true, Bool.true_and]
    exact ⟨_, _, rfl⟩
  · simp only [if_neg hquiet, hk, one_ne_zero, decide_false, Bool.false_and, Bool.or_false]
    exact ⟨_, s.step.rs, by rw [post_rest]; rfl⟩
  · simp only [if_neg hquiet, hk, OfNat.ofNat_ne_zero, decide_false, Bool.false_and, Bool.or_false]
    exact ⟨_, s.step.rs, by rw [post_rest]; rfl⟩

theorem planRunComplete_spec {l : LimbId} {n st m : Nat} {s : State} (hr : (s.plan l.val n).running = true)
    (h : (s.plan l.val n).ending = some (st, m) ∨ ((s.plan l.val n).ending = none ∧ planDone s l.val n = true ∧ st = 0 ∧ m = 0xFFFF)) (hst : st = 0 ∨ st = 2)
    (hl : (s.plan l.val n).lring = 0xFF) (hk : pKind (planN s l.val n) < 3) : ∃ t, exec (.planRunComplete l n) s = .next t ∧
      (t.plan l.val n).running = false ∧ t.rd (ringCq s (routeCq s 2)).head = s.rd (ringCq s (routeCq s 2)).head + 1 ∧
      t.step.rsFail = (s.step.rsFail || (decide (pKind (planN s l.val n) = 0) && st != 0)) ∧ t.mem = s.mem ∧ t.cores = s.cores := by
  obtain ⟨rec, rs, hend⟩ := planComplete_quiet hst hk m
  rw [hl] at hend
  refine ⟨_, exec_planRunComplete_ends hr h, ?_⟩
  rw [hend]
  refine ⟨?_, rd_post_head 2 rec _, rfl, ?_, ?_⟩
  · rw [post_rest]
    exact congrArg PlanRun.running (State.plan_setPlan_self ..)
  · rw [post_rest]
    rfl
  · rw [post_rest]
    rfl

/-! ### The bound on waiting (R494) -/

section
variable {l : LimbId} {n : Nat} {s : State}

theorem exec_responseBoundExceeded_slow (ha : planActive s l.val n = true) (hs : (s.plan l.val n).slow = false) (hn : planNeeds s l.val n = true) (hm : membersPresent s l.val n = true)
    (hb : pBound (planN s l.val n) ≤ (sidereal s - (s.plan l.val n).since).toNat) :
    exec (.responseBoundExceeded l n) s = .next (raise (.limb l) 1 7 0x0248 (wd n) (s.setPlan l.val n { s.plan l.val n with slow := true })) := by
  rw [← domLimb_val]
  exact if_pos (by simp only [ha, hs, hn, hm, decide_eq_true hb]; rfl)

theorem exec_responseBoundExceeded_waits (h : planActive s l.val n = false ∨ (s.plan l.val n).slow = true ∨ planNeeds s l.val n = false ∨ membersPresent s l.val n = false ∨
    (sidereal s - (s.plan l.val n).since).toNat < pBound (planN s l.val n)) : exec (.responseBoundExceeded l n) s = .next s := by
  refine if_neg fun hc => ?_
  simp only [Bool.and_eq_true, Bool.not_eq_true', decide_eq_true_eq] at hc
  obtain ⟨⟨⟨⟨ha, hs⟩, hn⟩, hm⟩, hb⟩ := hc
  rcases h with h | h | h | h | h
  · simp [ha] at h
  · simp [hs] at h
  · simp [hn] at h
  · simp [hm] at h
  · omega

end

/-! ### STEP_SCALAR_BEGIN (R512) -/

/-- A reduce-scatter run of the step ended with another status than OK. -/
def runFailed (x : RsRun) : Bool := match x.status with | some st => st != 0 | none => false

theorem find_runFailed_none {rs : List RsRun} (h : ∀ x ∈ rs, x.status = some 0 ∨ x.status = none) : rs.find? runFailed = none :=
  List.find?_eq_none.2 fun x hx => by rcases h x hx with e | e <;> simp [runFailed, e]

theorem find_runFailed_head {rs : List RsRun} {x : RsRun} {st : Nat} (hx : rs.head? = some x) (hst : x.status = some st) (h0 : st ≠ 0) : rs.find? runFailed = some x := by
  obtain ⟨ys, rfl⟩ := List.head?_eq_some_iff.1 hx
  exact List.find?_cons_of_pos (by simpa [runFailed, hst] using h0)

theorem foldl_norm (rs : List RsRun) (a : Nat) : rs.foldl (fun b x => b + x.norm) a = a + (rs.map (fun x => x.norm)).sum := by
  induction rs generalizing a with
  | nil => rfl
  | cons x rs ih => simp [ih, Nat.add_assoc]

/-- A step-scalar run as it begins: the sum of the step's reduce-scatter runs that contribute to the norm, their NF and the least ORIGIN. -/
def begunScalar (rs : List RsRun) (r : PlanRun) : PlanRun :=
  { r with begun := true, norm := (rs.filter (fun x => x.normOn)).foldl (fun a x => a + x.norm) r.norm, nf := r.nf || rs.any (fun x => x.nf)
           origin := rs.foldl (fun a x => min a x.origin) r.origin }

section
variable {l : LimbId} {n : Nat} {s : State} (ha : planActive s l.val n = true) (hk : pKind (planN s l.val n) = 3) (hb : (s.plan l.val n).begun = false)
include ha hk hb

theorem stepScalarBegin_ready : (planActive s l.val n && decide (pKind (planN s l.val n) = 3) && !(s.plan l.val n).begun) = true := by simp [ha, hk, hb]

theorem exec_stepScalarBegin_failed {x : RsRun} {st : Nat} (hf : s.step.rs.find? runFailed = some x) (hst : x.status = some st) :
    exec (.stepScalarBegin l n) s = .next (sendAborts l.val n st (moduleId s) none (s.setPlan l.val n { s.plan l.val n with ending := some (st, x.named) })) := by
  have h : exec (.stepScalarBegin l n) s = .next (scalarFail l.val n (x.status.getD 4) x.named s) := by
    change execStepScalarBegin l n s = _
    rw [execStepScalarBegin, if_pos (stepScalarBegin_ready ha hk hb)]
    change (match s.step.rs.find? runFailed with | some x => _ | none => _) = _
    rw [hf]
  rw [h, hst, scalarFail, planEnd_active ha]
  rfl

theorem exec_stepScalarBegin_unfailed (hf : s.step.rs.find? runFailed = none) :
    exec (.stepScalarBegin l n) s = if s.step.rs.all (fun x => x.status.isSome) then .next (treeGo l.val n 0 (s.setPlan l.val n (begunScalar s.step.rs (s.plan l.val n)))) else .next s := by
  change execStepScalarBegin l n s = _
  rw [execStepScalarBegin, if_pos (stepScalarBegin_ready ha hk hb)]
  change (match s.step.rs.find? runFailed with | some x => _ | none => _) = _
  rw [hf]
  rfl

end

theorem planRuns : PlanRuns := by
  intro l n tag s hn ht
  refine ⟨fun hr hh => ⟨fun hk => ?_, fun hk => ?_⟩, exec_start_dropped hn, fun ha => ?_, fun ha => ?_, exec_planRunComplete_goes, fun st m hr he hst hl hk => planRunComplete_spec hr he hst hl hk,
    fun ha hs hneeds hm hb => ?_, exec_responseBoundExceeded_waits, fun ha hk hb => ⟨fun hok => ?_, fun x st hx hst h0 => ?_, fun hall hwait => ?_⟩⟩
  · exact ⟨_, exec_start_reduceScatter hn ht hr hh hk, State.plan_setPlan_self .., by simp [startedRs], rfl⟩
  · exact ⟨_, exec_start_listener hn ht hr hh hk, State.plan_setPlan_self .., rfl⟩
  · exact ⟨_, (exec_planCancel hn).trans (congrArg Host.Outcome.next (planEnd_active ha 2 0xFFFF)), State.plan_setPlan_self .., rfl⟩
  · exact (exec_planCancel hn).trans (congrArg Host.Outcome.next (planEnd_inactive ha 2 0xFFFF))
  · exact ⟨_, exec_responseBoundExceeded_slow ha hs hneeds hm hb, State.plan_setPlan_self .., rfl⟩
  · have hall : s.step.rs.all (fun x => x.status.isSome) = true := List.all_eq_true.2 fun x hx => by simp [hok x hx]
    refine ⟨_, (exec_stepScalarBegin_unfailed ha hk hb (find_runFailed_none fun x hx => .inl (hok x hx))).trans (if_pos hall), ?_⟩
    rw [State.plan_setPlan_self]
    exact ⟨rfl, rfl, foldl_norm .., rfl⟩
  · exact ⟨_, exec_stepScalarBegin_failed ha hk hb (find_runFailed_head hx hst h0) hst, State.plan_setPlan_self .., rfl⟩
  · obtain ⟨x, hx, hnone⟩ := hwait
    exact (exec_stepScalarBegin_unfailed ha hk hb (find_runFailed_none hall)).trans (if_neg fun h => by simpa [hnone] using List.all_eq_true.1 h x hx)

end Sys2Proof.Machine
end

section
/-! The closes of the observation vectors, and the module's own Chronograph record as they end one span and begin another (R291, R293, R516, R738). -/

namespace Sys2Proof.Machine
open Sys2Proof.Claims

/-! ### The module's Chronograph record (R738) -/

theorem State.chrOf_modChr_self (s : State) (u : Nat) (f : Chr → Chr) : (s.modChr u f).chrOf u = f (s.chrOf u) := tget_tset_self ..

theorem modSpan_open {d : Nat} {s : State} (h : (s.chrOf chrMod).isOpen = true) : modSpan d s = s.modChr chrMod (chrStart (sidereal s) d) := if_pos h

theorem isOpen_chrStop (now : Word) (d : Nat) (k : Chr) : (chrStop now d k).isOpen = k.isOpen := by unfold chrStop; split <;> rfl

theorem tfind_since_chrStop (now : Word) (d : Nat) (k : Chr) : tfind (chrStop now d k).since d = none := by
  unfold chrStop
  split
  · assumption
  · exact tfind_terase_self ..

/-- In an open record one span ends and another begins. -/
theorem since_modSpan_modSpanEnd {d e : Nat} {s : State} (ho : (s.chrOf chrMod).isOpen = true) (hne : e ≠ d) :
    tfind ((modSpan e (modSpanEnd d s)).chrOf chrMod).since d = none ∧ tfind ((modSpan e (modSpanEnd d s)).chrOf chrMod).since e = some (sidereal s) := by
  have hk : (modSpanEnd d s).chrOf chrMod = chrStop (sidereal s) d (s.chrOf chrMod) := State.chrOf_modChr_self ..
  rw [modSpan_open (by rw [hk, isOpen_chrStop, ho]), State.chrOf_modChr_self, hk]
  exact ⟨(tfind_tset_ne _ _ hne).trans (tfind_since_chrStop ..), tfind_tset_self ..⟩

theorem modSpan_rest (d : Nat) (s : State) : modSpan d s = { s with chr := (modSpan d s).chr } := by unfold modSpan; split <;> rfl

/-! ### The closes (R291, R293, R516) -/

/-- With no plan the gradient vector closes, COMPUTE ends and REDUCE begins. -/
theorem exec_gradientVectorClose_closes {s : State} (hp : s.plans = []) (hl : launched s = true) (hc : s.obs.gClosed = false) (hb : allBackwardDone s = true) (hr : ∀ x ∈ s.step.rs, rsContributed s x = true) :
    exec .gradientVectorClose s = .next (modSpan 1 (modSpanEnd 0 { s with obs := { s.obs with gClosed := true } })) := by
  change execGradientVectorClose s = _
  rw [execGradientVectorClose, if_pos (by simp [hl, hc, hb, List.all_eq_true.2 hr]), hp]
  rfl

theorem exec_gradientVectorClose_waits {s : State} (h : launched s = false ∨ s.obs.gClosed = true ∨ allBackwardDone s = false ∨ (∃ x ∈ s.step.rs, rsContributed s x = false)) :
    exec .gradientVectorClose s = .next s := by
  refine if_neg fun hc => ?_
  simp only [Bool.and_eq_true, Bool.not_eq_true', List.all_eq_true] at hc
  obtain ⟨⟨⟨hl, hg⟩, hb⟩, hr⟩ := hc
  rcases h with h | h | h | ⟨x, hx, h⟩
  · simp [hl] at h
  · simp [hg] at h
  · simp [hb] at h
  · simp [hr x hx] at h

theorem exec_updateVectorClose_closes {s : State} (hp : s.plans = []) (hl : launched s = true) (hc : s.obs.uClosed = false) (ho : s.fld 0x6018 2 0 = 1) (hs : ∀ l < 8, limbOn s l = true → 3 ≤ sweepOf s l) :
    exec .updateVectorClose s = .next { s with obs := { s.obs with uClosed := true } } := by
  have hall : (List.range 8).all (fun l => !limbOn s l || 3 ≤ sweepOf s l) = true := List.all_eq_true.2 fun l hl => by
    cases hon : limbOn s l
    · rfl
    · simpa using hs l (List.mem_range.1 hl) hon
  change execUpdateVectorClose s = _
  rw [execUpdateVectorClose, if_pos (by simp only [hl, hc, ho, hall]; decide), hp]
  rfl

theorem exec_updateVectorClose_waits {s : State} (h : launched s = false ∨ s.obs.uClosed = true ∨ s.fld 0x6018 2 0 ≠ 1 ∨ (∃ l < 8, limbOn s l = true ∧ sweepOf s l < 3)) : exec .updateVectorClose s = .next s := by
  refine if_neg fun hc => ?_
  simp only [Bool.and_eq_true, Bool.not_eq_true', List.all_eq_true, beq_iff_eq, List.mem_range, Bool.or_eq_true, decide_eq_true_eq] at hc
  obtain ⟨⟨⟨hl, hu⟩, ho⟩, hs⟩ := hc
  rcases h with h | h | h | ⟨l, hl8, hon, hlt⟩
  · simp [hl] at h
  · simp [hu] at h
  · exact h ho
  · rcases hs l hl8 with hoff | hge
    · simp [hon] at hoff
    · omega

theorem vectorCloses : VectorCloses := by
  refine fun s => ⟨fun hp hl => ⟨fun hc hb hr ho => ?_, exec_updateVectorClose_closes hp hl⟩, exec_gradientVectorClose_waits, exec_updateVectorClose_waits⟩
  refine ⟨_, exec_gradientVectorClose_closes hp hl hc hb hr, ?_⟩
  obtain ⟨hend, hbegin⟩ := since_modSpan_modSpanEnd (d := 0) (e := 1) (s := { s with obs := { s.obs with gClosed := true } }) ho (by decide)
  exact ⟨by rw [modSpan_rest]; rfl, hend, hbegin, by rw [modSpan_rest]; rfl⟩

/-- Settles O52: START, CANCEL and the end of a run by what it holds, and the vectors' closes by the conditions that they wait for. The module that a failed step scalar's record and ABORT name, and a CANCEL without an ABORT, are the model's choice (SPEC.md, entry 38). -/
theorem meridianRuns : Obligations.MeridianRuns := ⟨planRuns, vectorCloses⟩

end Sys2Proof.Machine
end

section
/-! The outcome of a step: what it waits for, skip, failed or apply, and the end of every sweep that has not ended (R282, R283, R551, R555, R559). -/

namespace Sys2Proof.Machine
open Sys2Proof.Claims

/-! ### SWEEP of the limbs -/

theorem rUpdLstat_ge (l : Nat) : 0x100000 ≤ rUpdLstat l := by
  unfold rUpdLstat limbBase
  omega

theorem rUpdLstat_inj {k l : Nat} (h : rUpdLstat k = rUpdLstat l) : k = l := by
  unfold rUpdLstat limbBase at h
  omega

theorem sweepOf_eq_fld (s : State) (l : Nat) : sweepOf s l = s.fld (rUpdLstat l) 2 0 := rfl

theorem sweepOf_congr {s t : State} {l : Nat} (h : t.rd (rUpdLstat l) = s.rd (rUpdLstat l)) : sweepOf t l = sweepOf s l := by
  rw [sweepOf_eq_fld, sweepOf_eq_fld, State.fld, State.fld, h]

theorem limbOn_congr {s t : State} {l : Nat} (h : t.rd (limbBase l + 0x6000) = s.rd (limbBase l + 0x6000)) : limbOn t l = limbOn s l := by
  rw [limbOn, limbOn, State.fld, State.fld, h]

theorem sweepOf_setFld_self (s : State) (l : Nat) {v : Nat} (h : v < 8) : sweepOf (s.setFld (rUpdLstat l) 2 0 v) l = v := by
  rw [sweepOf_eq_fld, State.fld_setFld_self _ _ _ _ _ (by decide) (by decide)]
  exact Nat.mod_eq_of_lt h

/-- From s to t the listed limbs' SWEEP becomes v; the other registers, but those of the completion rings, keep their values. -/
structure SweepsSet (ls : List Nat) (v : Nat) (s t : State) : Prop where
  sweep : ∀ l ∈ ls, sweepOf t l = v
  rd : ∀ off, off < 0xD000 ∨ 0xE000 ≤ off → (∀ l ∈ ls, rUpdLstat l ≠ off) → t.rd off = s.rd off

section
variable {ls : List Nat} {v : Nat} {s t : State}

theorem SweepsSet.cons {l : Nat} {u : State} (h : SweepsSet [l] v s t) (h' : SweepsSet ls v t u) : SweepsSet (l :: ls) v s u where
  sweep k hk := by
    by_cases hmem : k ∈ ls
    · exact h'.sweep k hmem
    · obtain rfl : k = l := (List.mem_cons.1 hk).resolve_right hmem
      have hne : ∀ j ∈ ls, rUpdLstat j ≠ rUpdLstat k := fun j hj e => hmem (rUpdLstat_inj e ▸ hj)
      have hge := rUpdLstat_ge k
      exact (sweepOf_congr (h'.rd _ (by omega) hne)).trans (h.sweep k List.mem_cons_self)
  rd off ho hne := (h'.rd off ho fun k hk => hne k (List.mem_cons_of_mem _ hk)).trans (h.rd off ho fun k hk => hne k (by rw [List.mem_singleton.1 hk]; exact List.mem_cons_self))

theorem sweepsSet_forEach {f : Nat → State → State} (hf : ∀ l t, SweepsSet [l] v t (f l t)) (ls : List Nat) (s : State) : SweepsSet ls v s (forEach ls f s) := by
  induction ls generalizing s with
  | nil => exact ⟨fun _ h => absurd h List.not_mem_nil, fun _ _ _ => rfl⟩
  | cons l ls ih => exact (hf l s).cons (ih (f l s))

theorem sweepsSet_setFld (hv : v < 8) (l : Nat) (s : State) : SweepsSet [l] v s (s.setFld (rUpdLstat l) 2 0 v) where
  sweep k hk := by
    rw [List.mem_singleton.1 hk]
    exact sweepOf_setFld_self s l hv
  rd off _ hne := State.rd_setFld_ne _ _ _ _ (hne l List.mem_cons_self)

/-- Of the powered limbs those that a condition picks take v, and every other limb keeps its SWEEP. -/
theorem SweepsSet.sweepOf_eq_ite {p : Nat → Prop} [DecidablePred p] (h : SweepsSet ((onLimbs s).filter fun l => p l) v s t) {l : Nat} (hl : l < 8) :
    sweepOf t l = if limbOn s l = true ∧ p l then v else sweepOf s l := by
  have hmem : ∀ k, k ∈ (onLimbs s).filter (fun l => p l) ↔ (k < 8 ∧ limbOn s k = true) ∧ p k := fun k => by simp only [onLimbs, List.mem_filter, List.mem_range, decide_eq_true_eq]
  split_ifs with hp
  · exact h.sweep l ((hmem l).2 ⟨⟨hl, hp.1⟩, hp.2⟩)
  · have hge := rUpdLstat_ge l
    refine sweepOf_congr (h.rd _ (by omega) fun k hk e => ?_)
    obtain rfl := rUpdLstat_inj e
    obtain ⟨⟨-, hon⟩, hpk⟩ := (hmem k).1 hk
    exact hp ⟨hon, hpk⟩

end

/-! ### The end of the sweeps (R559) -/

/-- SWEEP of an engine that has ended with a status. -/
def sweepCode (st : Nat) : Nat := if st = 0 then 3 else if st = 1 then 4 else 5

theorem rd_modSpanEnd (d : Nat) (s : State) (off : Nat) : (modSpanEnd d s).rd off = s.rd off := rfl

/-- An engine's SWEEP and completion record as it ends (R559). -/
def sweepRecorded (l st g : Nat) (s : State) : State :=
  post 3 0xFF [wd ((stepCnt s).toNat % 2 ^ 16 * 2 ^ 48 + l * 2 ^ 45 + st * 2 ^ 42 + g % 1024 * 2 ^ 32), wd (s.fld (rUpdLstat l) 63 32), sidereal s, 0] (s.setFld (rUpdLstat l) 2 0 (sweepCode st))

theorem rd_sweepRecorded (l st g : Nat) (s : State) {off : Nat} (h : off < 0xD000 ∨ 0xE000 ≤ off) : (sweepRecorded l st g s).rd off = (s.setFld (rUpdLstat l) 2 0 (sweepCode st)).rd off :=
  rd_post_ne _ _ _ _ h

section
variable {st : Nat} (h2 : st ≠ 2) (h4 : st ≠ 4) (g : Nat)
include h2 h4

/-- An engine that ends with neither of the statuses that raise an error (R559): UPDATE ends with the last of them. -/
theorem sweepEnd_cases (l : Nat) (s : State) : sweepEnd l st g s = modSpanEnd 2 (sweepRecorded l st g s) ∨ sweepEnd l st g s = sweepRecorded l st g s := by
  have e : sweepEnd l st g s =
      if (onLimbs (sweepRecorded l st g s)).all (fun k => 3 ≤ sweepOf (sweepRecorded l st g s) k) then modSpanEnd 2 (sweepRecorded l st g s) else sweepRecorded l st g s := by
    simp only [sweepEnd, h2, h4, or_self, if_false]
    rfl
  rw [e]
  split_ifs
  · exact .inl rfl
  · exact .inr rfl

theorem rd_sweepEnd (l : Nat) (s : State) {off : Nat} (h : off < 0xD000 ∨ 0xE000 ≤ off) : (sweepEnd l st g s).rd off = (s.setFld (rUpdLstat l) 2 0 (sweepCode st)).rd off := by
  rcases sweepEnd_cases h2 h4 g l s with e | e
  · rw [e, rd_modSpanEnd, rd_sweepRecorded _ _ _ _ h]
  · rw [e, rd_sweepRecorded _ _ _ _ h]

theorem sweepsSet_sweepEnd (l : Nat) (s : State) : SweepsSet [l] (sweepCode st) s (sweepEnd l st g s) := by
  have hcode : sweepCode st < 8 := by unfold sweepCode; split_ifs <;> decide
  have hset := sweepsSet_setFld hcode l s
  refine ⟨fun k hk => ?_, fun off ho hne => (rd_sweepEnd h2 h4 g l s ho).trans (hset.rd off ho hne)⟩
  have hge := rUpdLstat_ge k
  exact (sweepOf_congr (rd_sweepEnd h2 h4 g l s (by omega))).trans (hset.sweep k hk)

theorem sweepEnd_cores_mem (l : Nat) (s : State) : (sweepEnd l st g s).cores = s.cores ∧ (sweepEnd l st g s).mem = s.mem := by
  have hpost : (sweepRecorded l st g s).cores = s.cores ∧ (sweepRecorded l st g s).mem = s.mem := by
    rw [sweepRecorded, post_rest]
    exact ⟨rfl, rfl⟩
  rcases sweepEnd_cases h2 h4 g l s with e | e <;> rw [e]
  · exact hpost
  · exact hpost

theorem sweepsSet_sweepEndAll (s : State) : SweepsSet ((onLimbs s).filter fun l => sweepOf s l < 3) (sweepCode st) s (sweepEndAll st g s) :=
  sweepsSet_forEach (fun l t => sweepsSet_sweepEnd h2 h4 g l t) _ s

theorem sweepEndAll_cores_mem (s : State) : (sweepEndAll st g s).cores = s.cores ∧ (sweepEndAll st g s).mem = s.mem :=
  forEach_induction (P := fun t : State => t.cores = s.cores ∧ t.mem = s.mem) (fun l t ht => by
    obtain ⟨hc, hm⟩ := sweepEnd_cores_mem h2 h4 g l t
    exact ⟨hc.trans ht.1, hm.trans ht.2⟩) _ ⟨rfl, rfl⟩

end

/-! ### STEP_OUTCOME_DECISION (R282, R283, R551, R555) -/

/-- The decision is written: from s to u the outcome became v, and no limb's registers, core or byte of the store range changed. -/
structure OutcomeSet (v : Nat) (s u : State) : Prop where
  outcome : outcome u = v
  rd : ∀ off, 0x100000 ≤ off → u.rd off = s.rd off
  cores : u.cores = s.cores
  mem : u.mem = s.mem

section
variable {v : Nat} {s u : State}

theorem outcomeSet_modSpan (hv : v < 4) (d : Nat) (s : State) : OutcomeSet v s ((modSpan d s).setFld rUpdStat 2 0 v) := by
  rw [modSpan_rest]
  refine ⟨?_, fun off ho => State.rd_setFld_ne _ _ _ _ (by unfold rUpdStat; omega), rfl, rfl⟩
  rw [outcome, State.fld_setFld_self _ _ _ _ _ (by decide) (by decide)]
  exact Nat.mod_eq_of_lt (by omega)

theorem OutcomeSet.nlogEvent (h : OutcomeSet v s u) (dk code loc : Nat) (a b : Word) : OutcomeSet v s (nlogEvent dk code loc a b u) where
  outcome := by
    rw [Machine.outcome, State.fld, Machine.nlogEvent, rd_nlog_ne _ _ _ _ _ _ _ _ _ _ _ (by decide)]
    exact h.outcome
  rd off ho := (rd_nlog_ne _ _ _ _ _ _ _ _ _ _ _ (by omega)).trans (h.rd off ho)
  cores := (cores_nlog ..).trans h.cores
  mem := by
    rw [Machine.nlogEvent, nlog_rest]
    exact h.mem

/-- What a decision against the update leaves: the outcome, every sweep ended, the update observations dropped. -/
theorem OutcomeSet.sweepEndAll {st : Nat} (h : OutcomeSet v s u) (h2 : st ≠ 2) (h4 : st ≠ 4) (g : Nat) (o : Obs) : ∃ t, t = { sweepEndAll st g u with obs := o } ∧
    Machine.outcome t = v ∧ SweepsEnd (sweepCode st) s t ∧ t.obs = o ∧ t.cores = s.cores ∧ t.mem = s.mem := by
  have hset := sweepsSet_sweepEndAll h2 h4 g u
  obtain ⟨hc, hm⟩ := sweepEndAll_cores_mem h2 h4 g u
  refine ⟨_, rfl, ?_, fun l hl => ?_, rfl, hc.trans h.cores, hm.trans h.mem⟩
  · have hkept : (Machine.sweepEndAll st g u).rd rUpdStat = u.rd rUpdStat := hset.rd _ (by decide) fun l _ e => by
      have hge := rUpdLstat_ge l
      rw [e] at hge
      exact absurd hge (by decide)
    change bits ((Machine.sweepEndAll st g u).rd rUpdStat) 2 0 = v
    rw [hkept]
    exact h.outcome
  · have hon : limbOn u l = limbOn s l := limbOn_congr (h.rd _ (by unfold limbBase; omega))
    have hsw : sweepOf u l = sweepOf s l := sweepOf_congr (h.rd _ (rUpdLstat_ge l))
    rw [← hon, ← hsw]
    exact hset.sweepOf_eq_ite (p := fun l => sweepOf u l < 3) hl

end

/-- The reduced gradient observations that count: those of a run that ended OK. -/
def okObs (s : State) : Tab Nat := if s.step.obsG = some 0 then s.obs.redG else []

theorem mem_okObs {s : State} {p : Nat × Nat} : p ∈ okObs s ↔ s.step.obsG = some 0 ∧ p ∈ s.obs.redG := by
  unfold okObs
  split_ifs with h <;> simp [h]

/-- The lowest-numbered entry of a vector with bit i set. -/
def firstBit (obs : Tab Nat) (i : Nat) : Option Nat := (obs.find? (fun p => p.2.testBit i)).map (·.1)

theorem firstBit_eq_none_iff (obs : Tab Nat) (i : Nat) : firstBit obs i = none ↔ ∀ p ∈ obs, p.2.testBit i = false := by simp [firstBit]

theorem skips_iff (s : State) : Skips s ↔ (s.step.scalar = some 0 ∧ s.flag 0x5060 16 = true) ∨ firstBit (okObs s) 15 ≠ none ∨ (s.samp.policy ≠ 0 ∧ firstBit (okObs s) 14 ≠ none) := by
  simp only [Skips, ne_eq, firstBit_eq_none_iff, mem_okObs, not_forall, Bool.not_eq_false, exists_prop]
  grind

theorem skipCause_eq_none_iff (s : State) : skipCause s = none ↔ ¬ Skips s := by
  rw [skips_iff]
  unfold skipCause
  by_cases hscalar : s.step.scalar = some 0 ∧ s.flag 0x5060 16 = true
  · simp [hscalar]
  rw [if_neg hscalar]
  change (match firstBit (okObs s) 15 with | some n => _ | none => _) = none ↔ _
  cases hnf : firstBit (okObs s) 15 with
  | some n => simp
  | none =>
    change (if s.samp.policy = 0 then none else (firstBit (okObs s) 14).map fun n => (2, n)) = none ↔ _
    by_cases hp : s.samp.policy = 0 <;> simp [hp, hscalar]

section
variable {s : State}

theorem exec_stepOutcomeDecision_waits (h : launched s = false ∨ outcome s ≠ 0 ∨ s.step.obsG = none ∨ s.step.scalar = none) : exec .stepOutcomeDecision s = .next s := by
  refine if_pos ?_
  rcases h with h | h | h | h <;> simp [h]

variable (hl : launched s = true) (ho : outcome s = 0) (hg : s.step.obsG ≠ none) (hs : s.step.scalar ≠ none)
include hl ho hg hs

theorem stepOutcomeDecision_ready : ¬ (!launched s || outcome s != 0 || s.step.obsG.isNone || s.step.scalar.isNone) = true := by
  simp [hl, ho, hg, hs]

theorem exec_stepOutcomeDecision_skip {c r : Nat} (h : skipCause s = some (c, r)) : ∃ a, exec .stepOutcomeDecision s =
    .next { sweepEndAll 1 0x3FF (nlogEvent 3 0x1001 0 a 0 ((modSpan 2 s).setFld rUpdStat 2 0 2)) with obs := { s.obs with u := [] } } := by
  change ∃ a, execStepOutcomeDecision s = _
  rw [execStepOutcomeDecision, if_neg (stepOutcomeDecision_ready hl ho hg hs), h]
  exact ⟨_, rfl⟩

theorem exec_stepOutcomeDecision_failed (h : skipCause s = none) (hf : StepFailed s) : exec .stepOutcomeDecision s =
    .next { sweepEndAll 3 0x3FF ((modSpan 2 s).setFld rUpdStat 2 0 3) with obs := { s.obs with u := [] } } := by
  change execStepOutcomeDecision s = _
  rw [execStepOutcomeDecision, if_neg (stepOutcomeDecision_ready hl ho hg hs), h]
  exact if_pos hf

theorem exec_stepOutcomeDecision_apply (h : skipCause s = none) (hf : ¬ StepFailed s) : exec .stepOutcomeDecision s = .next ((modSpan 2 s).setFld rUpdStat 2 0 1) := by
  change execStepOutcomeDecision s = _
  rw [execStepOutcomeDecision, if_neg (stepOutcomeDecision_ready hl ho hg hs), h]
  exact if_neg hf

end

theorem stepOutcome : StepOutcome := by
  refine fun s => ⟨exec_stepOutcomeDecision_waits, fun hl ho hg hs => ⟨fun hskip => ?_, fun hskip hf => ?_, fun hskip hf => ?_⟩⟩
  · obtain ⟨⟨c, r⟩, hc⟩ := Option.ne_none_iff_exists'.1 fun h => (skipCause_eq_none_iff s).1 h hskip
    obtain ⟨a, he⟩ := exec_stepOutcomeDecision_skip hl ho hg hs hc
    obtain ⟨t, rfl, h⟩ := ((outcomeSet_modSpan (v := 2) (by decide) 2 s).nlogEvent 3 0x1001 0 a 0).sweepEndAll (st := 1) (by decide) (by decide) 0x3FF { s.obs with u := [] }
    exact ⟨_, he, h⟩
  · obtain ⟨t, rfl, h⟩ := (outcomeSet_modSpan (v := 3) (by decide) 2 s).sweepEndAll (st := 3) (by decide) (by decide) 0x3FF { s.obs with u := [] }
    exact ⟨_, exec_stepOutcomeDecision_failed hl ho hg hs ((skipCause_eq_none_iff s).2 hskip) hf, h⟩
  · exact exec_stepOutcomeDecision_apply hl ho hg hs ((skipCause_eq_none_iff s).2 hskip) hf

end Sys2Proof.Machine
end

section
/-! Update start and the directed slots: a slot's latch, the host's writes, and the deadline (R547, R562 to R566). -/

namespace Sys2Proof.Machine
open Sys2Proof.Claims

/-! ### The sweeps that go on (R563) -/

theorem forEach_eq_self {f : Nat → State → State} {s : State} {ls : List Nat} (h : ∀ l ∈ ls, f l s = s) : forEach ls f s = s := by
  induction ls with
  | nil => rfl
  | cons l ls ih =>
    change forEach ls f (f l s) = s
    rw [h l List.mem_cons_self]
    exact ih fun k hk => h k (List.mem_cons_of_mem _ hk)

/-- The sweeps that wait are set running. -/
def sweepsRun (s : State) : State := forEach ((onLimbs s).filter (fun l => sweepOf s l == 1)) (fun l t => t.setFld (rUpdLstat l) 2 0 2) s

theorem sweepGo_eq_ite (s : State) : sweepGo s = if s.step.updStarted && (slotsNamed s).all (slotLatched s) && outcome s < 2 then sweepsRun s else s := rfl

theorem sweepsSet_sweepsRun (s : State) : SweepsSet ((onLimbs s).filter (fun l => sweepOf s l == 1)) 2 s (sweepsRun s) :=
  sweepsSet_forEach (fun l t => sweepsSet_setFld (by decide) l t) _ s

theorem sweepOf_sweepsRun (s : State) {l : Nat} (hl : l < 8) : sweepOf (sweepsRun s) l = if limbOn s l = true ∧ sweepOf s l = 1 then 2 else sweepOf s l :=
  (sweepsSet_sweepsRun s).sweepOf_eq_ite (p := fun l => sweepOf s l = 1) hl

theorem sweepsRun_rest (s : State) : sweepsRun s = { s with regs := (sweepsRun s).regs } :=
  forEach_induction (P := fun t : State => t = { s with regs := t.regs }) (fun l t ht => by rw [ht]; rfl) _ rfl

theorem sweepGo_rest (s : State) : sweepGo s = { s with regs := (sweepGo s).regs } := by
  rw [sweepGo_eq_ite]
  split_ifs
  · exact sweepsRun_rest s
  · rfl

theorem step_sweepGo (s : State) : (sweepGo s).step = s.step := by rw [sweepGo_rest]

/-- Only SWEEP of the limbs changes. -/
theorem rd_sweepGo_module (s : State) {off : Nat} (h : off < 0xD000) : (sweepGo s).rd off = s.rd off := by
  rw [sweepGo_eq_ite]
  split_ifs
  · exact (sweepsSet_sweepsRun s).rd off (.inl h) fun l _ e => by
      have := rUpdLstat_ge l
      omega
  · rfl

/-! ### Update start (R547, R563) -/

/-- The update has started, now. -/
def updStartedNow (s : State) : State := { s with step := { s.step with updStarted := true, updAt := sidereal s } }

/-- Where every enabled group has its program, none is recorded as off. -/
theorem offGroups_eq_self {l : Nat} {s : State} (h : ∀ g ∈ enabledGroups s l, uProgram s l (gProg (groupN s l g)) ≠ none) : offGroups l s = s := by
  have hnone : (enabledGroups s l).filter (fun g => (uProgram s l (gProg (groupN s l g))).isNone) = [] := List.filter_eq_nil_iff.2 fun g hg => by simpa using h g hg
  rw [offGroups, hnone]
  rfl

theorem exec_updateStart_early {s : State} (h : updateReady s = false) : exec .updateStart s = .next s := if_neg (by simp [h])

section
variable {s : State} (h : updateReady s = true) (hprog : ∀ l < 8, limbOn s l = true → ∀ g ∈ enabledGroups s l, uProgram s l (gProg (groupN s l g)) ≠ none)

include h hprog in
theorem exec_updateStart_ready : exec .updateStart s = .next (sweepGo (forEach (slotsNamed s) tryLatch (updStartedNow s))) := by
  have hoff : forEach (onLimbs s) offGroups (updStartedNow s) = updStartedNow s := forEach_eq_self fun l hl => by
    obtain ⟨hl8, hon⟩ := List.mem_filter.1 hl
    exact offGroups_eq_self (s := updStartedNow s) (hprog l (List.mem_range.1 hl8) hon)
  have he : exec .updateStart s = .next (sweepGo (forEach (slotsNamed s) tryLatch (forEach (onLimbs s) offGroups (updStartedNow s)))) := if_pos h
  rw [he, hoff]

include h in
theorem outcome_lt_of_updateReady : outcome s < 2 := by
  simp only [updateReady, Bool.and_eq_true, Bool.or_eq_true, beq_iff_eq] at h
  obtain ⟨-, h1 | ⟨⟨-, h0⟩, -⟩⟩ := h <;> omega

include h in
/-- With no slot named nothing is waited for. -/
theorem sweepGo_updStartedNow (hn : slotsNamed s = []) : sweepGo (updStartedNow s) = sweepsRun (updStartedNow s) := by
  have hnamed : slotsNamed (updStartedNow s) = [] := hn
  have hstarted : (updStartedNow s).step.updStarted = true := rfl
  have hout : outcome (updStartedNow s) < 2 := outcome_lt_of_updateReady (s := s) h
  rw [sweepGo_eq_ite, hnamed, hstarted]
  exact if_pos (decide_eq_true hout)

end

/-! ### A slot's latch (R562, R563) -/

theorem slotLatched_congr {s t : State} (hd : t.step = s.step) (hc : stepCnt t = stepCnt s) (i : Nat) : slotLatched t i = slotLatched s i := by rw [slotLatched, slotLatched, hd, hc]

theorem tryLatch_other_tag {i : Nat} {s : State} (h : bits (s.rd (rUpdDir i)) 31 0 ≠ (stepCnt s).toNat % 2 ^ 32) : tryLatch i s = s := if_pos (.inr h)

section
variable {i : Nat} {s : State} (hl : slotLatched s i = false) (ht : bits (s.rd (rUpdDir i)) 31 0 = (stepCnt s).toNat % 2 ^ 32)
include hl ht

theorem tryLatch_current : tryLatch i s = if goodStep (bits (s.rd (rUpdDir i)) 63 32) then { s.setFld 0x6048 i i 1 with step := { s.step with dirLat := tset s.step.dirLat i (s.rd (rUpdDir i)) } }
    else s.satFld rUpdDirctl 47 32 1 := if_neg (by simp [hl, ht])

theorem tryLatch_good (hg : goodStep (bits (s.rd (rUpdDir i)) 63 32) = true) :
    tryLatch i s = { s.setFld 0x6048 i i 1 with step := { s.step with dirLat := tset s.step.dirLat i (s.rd (rUpdDir i)) } } := (tryLatch_current hl ht).trans (if_pos hg)

theorem tryLatch_bad (hg : goodStep (bits (s.rd (rUpdDir i)) 63 32) = false) : tryLatch i s = s.satFld rUpdDirctl 47 32 1 := (tryLatch_current hl ht).trans (if_neg (by simp [hg]))

end

/-! ### Host writes (R562, R563, R565) -/

theorem stepCnt_wr_rUpdDir (i : Nat) (v : Word) (s : State) : stepCnt (s.wr (rUpdDir i) v) = stepCnt s := State.rd_wr_ne _ _ (by unfold rUpdDir rStepCnt; omega)

section
variable {i : Nat} {v : Word} {s : State} (hi : i < 64)
include hi

theorem exec_directedSlotWrite : exec (.directedSlotWrite i v) s = .next (dirWrite i v s) := by
  rw [show exec (.directedSlotWrite i v) s = .next (dirWrite (i % 64) v s) from rfl, Nat.mod_eq_of_lt hi]

theorem exec_directedSlotWrite_latched (hl : slotLatched s i = true) (ht : bits v 31 0 = (stepCnt s).toNat % 2 ^ 32) : exec (.directedSlotWrite i v) s = .next (s.satFld rUpdDirctl 63 48 1) := by
  rw [exec_directedSlotWrite hi, dirWrite, if_pos (by simp [hl, ht])]

theorem exec_directedSlotWrite_open (h : slotLatched s i = false ∨ bits v 31 0 ≠ (stepCnt s).toNat % 2 ^ 32) :
    exec (.directedSlotWrite i v) s = .next (if s.step.updStarted && launched s && (slotsNamed s).contains i then sweepGo (tryLatch i (s.wr (rUpdDir i) v)) else s.wr (rUpdDir i) v) := by
  have hopen : ¬ (slotLatched s i && bits v 31 0 == (stepCnt s).toNat % 2 ^ 32) = true := by
    rw [Bool.and_eq_true, beq_iff_eq, not_and_or, Bool.not_eq_true]
    exact h
  rw [exec_directedSlotWrite hi, dirWrite, if_neg hopen]

theorem exec_directedSlotWrite_stored (h : slotLatched s i = false ∨ bits v 31 0 ≠ (stepCnt s).toNat % 2 ^ 32) (hw : s.step.updStarted = false ∨ launched s = false ∨ i ∉ slotsNamed s) :
    exec (.directedSlotWrite i v) s = .next (s.wr (rUpdDir i) v) := by
  rw [exec_directedSlotWrite_open hi h, if_neg]
  rcases hw with hw | hw | hw <;> simp [hw]

theorem exec_directedSlotWrite_started (h : slotLatched s i = false ∨ bits v 31 0 ≠ (stepCnt s).toNat % 2 ^ 32) (hu : s.step.updStarted = true) (hl : launched s = true) (hn : i ∈ slotsNamed s) :
    exec (.directedSlotWrite i v) s = .next (sweepGo (tryLatch i (s.wr (rUpdDir i) v))) := by
  rw [exec_directedSlotWrite_open hi h, if_pos (by simp [hu, hl, hn])]

variable (hl : slotLatched s i = false) (ht : bits v 31 0 = (stepCnt s).toNat % 2 ^ 32)
include hl ht

omit hi in
/-- A slot not latched, as the host's value with the current tag comes to its register. -/
theorem slot_wr_current : slotLatched (s.wr (rUpdDir i) v) i = false ∧ bits ((s.wr (rUpdDir i) v).rd (rUpdDir i)) 31 0 = (stepCnt (s.wr (rUpdDir i) v)).toNat % 2 ^ 32 := by
  rw [State.rd_wr_self, slotLatched_congr (s := s) (t := s.wr (rUpdDir i) v) rfl (stepCnt_wr_rUpdDir i v s), stepCnt_wr_rUpdDir]
  exact ⟨hl, ht⟩

/-- A step size latches its slot. -/
theorem directedSlotWrite_latches (hg : goodStep (bits v 63 32) = true) : ∃ t, sweepGo (tryLatch i (s.wr (rUpdDir i) v)) = t ∧
    t.rd (rUpdDir i) = v ∧ tfind t.step.dirLat i = some v ∧ t.flag 0x6048 i = true := by
  obtain ⟨hl1, ht1⟩ := slot_wr_current hl ht
  have hval : (s.wr (rUpdDir i) v).rd (rUpdDir i) = v := State.rd_wr_self ..
  have hlatch := tryLatch_good hl1 ht1 (by rw [hval, hg])
  rw [hval] at hlatch
  refine ⟨_, rfl, ?_⟩
  rw [rd_sweepGo_module _ (by unfold rUpdDir; omega), State.flag, rd_sweepGo_module _ (by decide), step_sweepGo, hlatch]
  refine ⟨(State.rd_setFld_ne _ _ _ _ (by unfold rUpdDir; omega)).trans hval, tfind_tset_self .., ?_⟩
  exact (State.flag_setFld_mem (s.wr (rUpdDir i) v) 0x6048 i i 1 i hi (le_refl i) (le_refl i)).trans (by simp)

/-- A value that is no step size is counted. -/
theorem directedSlotWrite_counts (hg : goodStep (bits v 63 32) = false) : ∃ t, sweepGo (tryLatch i (s.wr (rUpdDir i) v)) = t ∧
    t.rd (rUpdDir i) = v ∧ slotLatched t i = false ∧ t.fld rUpdDirctl 47 32 = min (s.fld rUpdDirctl 47 32 + 1) 65535 := by
  obtain ⟨hl1, ht1⟩ := slot_wr_current hl ht
  have hval : (s.wr (rUpdDir i) v).rd (rUpdDir i) = v := State.rd_wr_self ..
  have hctl : rUpdDir i ≠ rUpdDirctl := by unfold rUpdDir rUpdDirctl; omega
  have hfld : (s.wr (rUpdDir i) v).fld rUpdDirctl 47 32 = s.fld rUpdDirctl 47 32 := by rw [State.fld, State.fld, State.rd_wr_ne _ _ hctl]
  refine ⟨_, rfl, ?_⟩
  rw [rd_sweepGo_module _ (by unfold rUpdDir; omega), slotLatched_congr (step_sweepGo _) (rd_sweepGo_module _ (by decide)), State.fld, rd_sweepGo_module _ (by decide), tryLatch_bad hl1 ht1 (by rw [hval, hg])]
  refine ⟨(rd_satFld_ne _ _ _ _ hctl.symm).trans hval, ?_, ?_⟩
  · exact (slotLatched_congr (s := s.wr (rUpdDir i) v) (t := (s.wr (rUpdDir i) v).satFld rUpdDirctl 47 32 1) rfl (rd_satFld_ne _ _ _ _ (by decide)) i).trans hl1
  · rw [← hfld]
    exact State.fld_satFld_self _ _ _ _ _ (by decide) (by decide)

end

/-! ### The deadline (R564) -/

/-- Slots that are named and not latched. -/
def openSlots (s : State) : List Nat := (slotsNamed s).filter (fun i => !slotLatched s i)

theorem mem_openSlots {s : State} {i : Nat} : i ∈ openSlots s ↔ i ∈ slotsNamed s ∧ slotLatched s i = false := by simp [openSlots]

theorem mem_slotsNamed {s : State} {i : Nat} : i ∈ slotsNamed s ↔ ∃ g ∈ enabledGroups s (hostLimb s), gDir (groupN s (hostLimb s) g) = true ∧ gDslot (groupN s (hostLimb s) g) = i := by
  simp [slotsNamed, List.mem_eraseDups, and_assoc]

/-- A directed group whose slot is open. -/
def waitsForSlot (s : State) (g : Nat) : Bool := gDir (groupN s (hostLimb s) g) && (openSlots s).contains (gDslot (groupN s (hostLimb s) g))

theorem waitsForSlot_iff {s : State} {g : Nat} : waitsForSlot s g = true ↔ gDir (groupN s (hostLimb s) g) = true ∧ gDslot (groupN s (hostLimb s) g) ∈ openSlots s := by
  rw [waitsForSlot, Bool.and_eq_true, List.contains_iff_mem]

/-- The first enabled group that waits for its slot; 0x3FF where there is none. -/
def openGroup (s : State) : Nat := ((enabledGroups s (hostLimb s)).find? (waitsForSlot s)).getD 0x3FF

theorem openGroup_spec {s : State} {i : Nat} (hi : i ∈ slotsNamed s) (hl : slotLatched s i = false) :
    openGroup s ∈ enabledGroups s (hostLimb s) ∧ gDir (groupN s (hostLimb s) (openGroup s)) = true ∧ slotLatched s (gDslot (groupN s (hostLimb s) (openGroup s))) = false := by
  obtain ⟨g, hg, hdir, rfl⟩ := mem_slotsNamed.1 hi
  have hwaits : waitsForSlot s g = true := waitsForSlot_iff.2 ⟨hdir, mem_openSlots.2 ⟨hi, hl⟩⟩
  obtain ⟨k, hk⟩ : ∃ k, (enabledGroups s (hostLimb s)).find? (waitsForSlot s) = some k := Option.isSome_iff_exists.1 (List.find?_isSome.2 ⟨g, hg, hwaits⟩)
  rw [openGroup, hk]
  obtain ⟨hkdir, hkopen⟩ := waitsForSlot_iff.1 (List.find?_some hk)
  exact ⟨List.mem_of_find?_eq_some hk, hkdir, (mem_openSlots.1 hkopen).2⟩

theorem exec_directedDeadline (s : State) : exec .directedDeadline s =
    if launched s && s.step.updStarted && outcome s < 2 && !(openSlots s).isEmpty && max 1 (s.fld rUpdDirctl 15 0) * 1000 ≤ (sidereal s - s.step.updAt).toNat then
      .next (sweepEndAll 2 (openGroup s) ((s.setFld rUpdStat 2 0 3).satFld rUpdStat 47 32 1)) else .next s := by
  change execDirectedDeadline s = _
  unfold execDirectedDeadline openGroup waitsForSlot openSlots
  rfl

theorem exec_directedDeadline_waits {s : State} (h : (∀ i ∈ slotsNamed s, slotLatched s i = true) ∨ launched s = false ∨ s.step.updStarted = false ∨ 2 ≤ outcome s ∨
    (sidereal s - s.step.updAt).toNat < max 1 (s.fld rUpdDirctl 15 0) * 1000) : exec .directedDeadline s = .next s := by
  refine if_neg fun hc => ?_
  simp only [Bool.and_eq_true, decide_eq_true_eq] at hc
  obtain ⟨⟨⟨⟨hla, hu⟩, ho⟩, hopen⟩, hlim⟩ := hc
  rcases h with h | h | h | h | h
  · have hnone : openSlots s = [] := List.filter_eq_nil_iff.2 fun i hi => by simp [h i hi]
    change (!(openSlots s).isEmpty) = true at hopen
    simp [hnone] at hopen
  · simp [hla] at h
  · simp [hu] at h
  · omega
  · omega

theorem exec_directedDeadline_past {s : State} (hla : launched s = true) (hu : s.step.updStarted = true) (ho : outcome s < 2)
    (hlim : max 1 (s.fld rUpdDirctl 15 0) * 1000 ≤ (sidereal s - s.step.updAt).toNat) {i : Nat} (hi : i ∈ slotsNamed s) (hl : slotLatched s i = false) :
    exec .directedDeadline s = .next (sweepEndAll 2 (openGroup s) ((s.setFld rUpdStat 2 0 3).satFld rUpdStat 47 32 1)) := by
  have hopen : (openSlots s).isEmpty = false := List.isEmpty_eq_false_iff_exists_mem.2 ⟨i, mem_openSlots.2 ⟨hi, hl⟩⟩
  rw [exec_directedDeadline]
  exact if_pos (by simp only [hla, hu, decide_eq_true ho, hopen, decide_eq_true hlim]; rfl)

theorem directedSlots : DirectedSlots := by
  refine fun s => ⟨exec_updateStart_early, fun h hprog => ⟨exec_updateStart_ready h hprog, fun hn => ?_⟩, fun i v hi =>
    ⟨exec_directedSlotWrite_latched hi, exec_directedSlotWrite_stored hi, fun ht hu hl hn => ?_, fun hl hu hla hn ht => ?_⟩,
    exec_directedDeadline_waits, fun hla hu ho hlim hslot => ?_⟩
  · refine ⟨sweepsRun (updStartedNow s), ?_, fun l hl => sweepOf_sweepsRun (updStartedNow s) hl, sweepsRun_rest _⟩
    rw [exec_updateStart_ready h hprog, hn]
    exact congrArg Host.Outcome.next (sweepGo_updStartedNow h hn)
  · rw [exec_directedSlotWrite_started hi (.inr ht) hu hl hn, tryLatch_other_tag (by rwa [State.rd_wr_self, stepCnt_wr_rUpdDir])]
  · cases hg : goodStep (bits v 63 32) with
    | true =>
      obtain ⟨t, rfl, hv, hlat⟩ := directedSlotWrite_latches hi hl ht hg
      exact ⟨_, exec_directedSlotWrite_started hi (.inl hl) hu hla hn, hv, fun _ => hlat, fun h => absurd h (by decide)⟩
    | false =>
      obtain ⟨t, rfl, hv, hcnt⟩ := directedSlotWrite_counts hi hl ht hg
      exact ⟨_, exec_directedSlotWrite_started hi (.inl hl) hu hla hn, hv, fun h => absurd h (by decide), fun _ => hcnt⟩
  · obtain ⟨i, hi, hl⟩ := hslot
    exact ⟨openGroup s, exec_directedDeadline_past hla hu ho hlim hi hl, openGroup_spec hi hl⟩

/-- Settles O53: the decision by its cause, and update start, the host's writes and the deadline by what each finds of a slot. That skip comes before failure, and that a slot latches only for the current tag, are the model's choice (SPEC.md, entries 42 and 44). -/
theorem updateDecision : Obligations.UpdateDecision := ⟨stepOutcome, directedSlots⟩

end Sys2Proof.Machine
end

section
/-! What an error leaves of the links and of the registers below the module's error block (R616 to R624), and what a discard leaves (R328, R333, R356). -/

namespace Sys2Proof.Machine

/-- From s to t the links stand, and so do the registers below the module's error block, where every error record, map and log of the chip lies above. -/
structure ErrorsOnly (s t : State) : Prop where
  links : t.links = s.links
  rd : ∀ off < 0x8000, t.rd off = s.rd off

theorem le_errBase (d : Dom) : 0x8000 ≤ errBase d := by
  cases d with
  | core c =>
    have := lt_coreReg c.val 0x100
    change 0x8000 ≤ coreWin c.val + 0x100
    omega
  | field f => change 0x8000 ≤ 0x1000000 + f.val * 0x200000 + 0x500; omega
  | limb l => change 0x8000 ≤ 0x100000 + l.val * 0x100000 + 0x5000; omega
  | module => exact le_refl _

theorem le_fieldReg (f a : Nat) : 0x8000 ≤ fieldBase f + a := by
  unfold fieldBase
  omega

section
variable {s t : State}

theorem errorsOnly_refl (s : State) : ErrorsOnly s s := ⟨rfl, fun _ _ => rfl⟩

theorem errorsOnly_of_rest (hl : t.links = s.links) (hr : t.regs = s.regs) : ErrorsOnly s t := ⟨hl, fun _ _ => by rw [State.rd, hr, State.rd]⟩

theorem errorsOnly_ite {u : State} {c : Prop} [Decidable c] (h : ErrorsOnly s t) (k : ErrorsOnly s u) : ErrorsOnly s (if c then t else u) := by
  split <;> assumption

theorem ErrorsOnly.trans {u : State} (h : ErrorsOnly s t) (k : ErrorsOnly t u) : ErrorsOnly s u := ⟨k.links.trans h.links, fun o ho => (k.rd o ho).trans (h.rd o ho)⟩

theorem ErrorsOnly.fld (h : ErrorsOnly s t) {off : Nat} (ho : off < 0x8000) (hi lo : Nat) : t.fld off hi lo = s.fld off hi lo := by rw [State.fld, h.rd off ho, State.fld]

theorem ErrorsOnly.flag (h : ErrorsOnly s t) {off : Nat} (ho : off < 0x8000) (i : Nat) : t.flag off i = s.flag off i := by rw [State.flag, h.rd off ho, State.flag]

/-- The same write made before and after an error. -/
theorem ErrorsOnly.setFld_both (h : ErrorsOnly s t) {off : Nat} (ho : off < 0x8000) (hi lo n : Nat) : ErrorsOnly (s.setFld off hi lo n) (t.setFld off hi lo n) := by
  refine ⟨h.links, fun q hq => ?_⟩
  by_cases e : off = q
  · subst e
    rw [State.rd_setFld_self, State.rd_setFld_self, h.rd off ho]
  · rw [State.rd_setFld_ne _ _ _ _ e, State.rd_setFld_ne _ _ _ _ e, h.rd q hq]

theorem ErrorsOnly.satFld_both (h : ErrorsOnly s t) {off : Nat} (ho : off < 0x8000) (hi lo n : Nat) : ErrorsOnly (s.satFld off hi lo n) (t.satFld off hi lo n) := by
  rw [State.satFld, State.satFld, h.fld ho]
  exact h.setFld_both ho ..

theorem errorsOnly_setFld {off : Nat} (ho : 0x8000 ≤ off) (hi lo n : Nat) : ErrorsOnly s (s.setFld off hi lo n) := ⟨rfl, fun _ hq => State.rd_setFld_ne _ _ _ _ (by omega)⟩

theorem errorsOnly_satFld {off : Nat} (ho : 0x8000 ≤ off) (hi lo n : Nat) : ErrorsOnly s (s.satFld off hi lo n) := errorsOnly_setFld ho ..

/-! ### Records (R619 to R624, R633) -/

theorem errorsOnly_nlog (kind cls dk unit code rep loc : Nat) (a b x : Word) : ErrorsOnly s (nlog kind cls dk unit code rep loc a b x s) :=
  ⟨by rw [nlog_rest], fun _ hq => rd_nlog_ne _ _ _ _ _ _ _ _ _ _ _ (by omega)⟩

theorem errorsOnly_errMaps (d : Dom) (st : Nat) : ErrorsOnly s (errMaps d st s) := by
  unfold errMaps
  cases d with
  | core c => exact errorsOnly_setFld ((le_fieldReg ..).trans (Nat.le_add_right ..)) ..
  | field f => dsimp only; split <;> exact errorsOnly_setFld (by decide) ..
  | limb l => exact errorsOnly_setFld (by decide) ..
  | module => exact errorsOnly_refl s

theorem errorsOnly_errRefresh (d : Dom) : ErrorsOnly s (errRefresh d s) := (errorsOnly_setFld (le_errBase d) ..).trans (errorsOnly_errMaps d _)

theorem errorsOnly_takeRecord (d : Dom) {off : Nat} (ho : 0x8000 ≤ off) (cls unit cause : Nat) (info : Word) : ErrorsOnly s (takeRecord d off cls unit cause info s) :=
  ErrorsOnly.trans (t := wr4 off (newRecord d cls unit cause info s) s) ⟨rfl, fun _ hq => rd_wr4_ne _ _ fun _ _ => by omega⟩ (errorsOnly_nlog ..)

theorem errorsOnly_fatal : ErrorsOnly s (faultPin (s.setFld rModFault 1 1 1)) := (errorsOnly_setFld (by decide) ..).trans (errorsOnly_setFld (by decide) ..)

theorem errorsOnly_moduleEscalate (unit cause : Nat) : ErrorsOnly s (moduleEscalate unit cause s) := by
  unfold moduleEscalate
  split
  · exact errorsOnly_satFld (le_errBase _) ..
  · exact errorsOnly_fatal.trans ((errorsOnly_nlog ..).trans (errorsOnly_errRefresh _))

theorem errorsOnly_recordError (d : Dom) (cls unit cause : Nat) (info : Word) : ErrorsOnly s (recordError d cls unit cause info s) := by
  have hb := le_errBase d
  have ha : ∀ a, 0x8000 ≤ errBase d + a := fun a => hb.trans (Nat.le_add_right ..)
  unfold recordError
  dsimp only
  split_ifs
  · exact errorsOnly_satFld (ha _) ..
  · exact errorsOnly_satFld (ha _) ..
  · exact (errorsOnly_takeRecord d (ha _) ..).trans (errorsOnly_errRefresh d)
  · exact (errorsOnly_takeRecord d (ha _) ..).trans (errorsOnly_errRefresh d)
  · exact (errorsOnly_satFld hb ..).trans ((errorsOnly_takeRecord d (ha _) ..).trans (errorsOnly_errRefresh d))
  · exact (errorsOnly_satFld hb ..).trans (errorsOnly_nlog ..)
  · have hdrop : ErrorsOnly s { s.addFld (errBase d) 63 48 1 with escOut := tset s.escOut (domKey d) (tget 0 s.escOut (domKey d) + 1) } :=
      ErrorsOnly.trans (errorsOnly_setFld hb 63 48 (s.fld (errBase d) 63 48 + 1)) (errorsOnly_of_rest rfl rfl)
    cases d with
    | module => exact errorsOnly_moduleEscalate unit cause
    | core c => exact hdrop
    | field f => exact hdrop
    | limb l => exact hdrop

/-! ### Containment (R120, R126, R616, R622) -/

theorem errorsOnly_reqHalt (c st : Nat) : ErrorsOnly s (reqHalt c st s) := by
  have hreg : ∀ o, 0x8000 ≤ coreWin c + o := fun o => by
    have := lt_coreReg c o
    omega
  have hhalt : ∀ v, ErrorsOnly s (enterHalt c v s) := fun v =>
    (errorsOnly_setFld (hreg 0x10) 2 0 v).trans <| (errorsOnly_setFld (hreg 0x10) 4 4 0).trans <| (errorsOnly_setFld (hreg 0x8) 2 0 0).trans (errorsOnly_of_rest rfl rfl)
  unfold reqHalt
  exact errorsOnly_ite (errorsOnly_ite (errorsOnly_of_rest rfl rfl) (hhalt _)) (errorsOnly_refl s)

theorem errorsOnly_quiesceField (f : Nat) : ErrorsOnly s (quiesceField f s) :=
  forEach_induction (P := ErrorsOnly s) (fun c _ h => h.trans (errorsOnly_reqHalt c 7)) _ (errorsOnly_setFld (le_fieldReg f 8) ..)

theorem errorsOnly_contain (d : Dom) : ErrorsOnly s (contain d s) := by
  cases d with
  | core c => exact (errorsOnly_reqHalt c.val 6).trans (errorsOnly_quiesceField _)
  | field f => exact errorsOnly_quiesceField f.val
  | limb l => exact errorsOnly_refl s
  | module => exact forEach_induction (P := ErrorsOnly s) (fun f _ h => h.trans (errorsOnly_quiesceField f)) _ (errorsOnly_refl s)

/-- An error that reaches a domain leaves the links and the registers below the error blocks. -/
theorem errorsOnly_raise (d : Dom) (cls unit cause : Nat) (info : Word) : ErrorsOnly s (raise d cls unit cause info s) := by
  have hrec : ErrorsOnly s (recordError d cls unit cause info s) := errorsOnly_recordError ..
  have hfatal := errorsOnly_ite (c := cls = 3) (hrec.trans (errorsOnly_fatal.trans ((errorsOnly_errRefresh .module).trans (errorsOnly_contain .module)))) hrec
  have hheld := errorsOnly_ite (c := 2 ≤ cls) (hfatal.trans (errorsOnly_contain d)) hfatal
  exact errorsOnly_ite (hheld.trans (errorsOnly_contain .module)) hheld

/-! ### Discards and their answers (R326, R328, R333, R356) -/

theorem errorsOnly_discardAt (f n : Nat) : ErrorsOnly s (discardAt f n s) := errorsOnly_satFld (le_fieldReg f 0x300) ..

theorem errorsOnly_injectPkt (p : Packet) : ErrorsOnly s (injectPkt p s) := by
  unfold injectPkt
  split
  · exact errorsOnly_of_rest rfl rfl
  · exact errorsOnly_ite ((errorsOnly_discardAt ..).trans (errorsOnly_of_rest rfl rfl)) (errorsOnly_discardAt ..)

theorem errorsOnly_errFrom (x y : Nat) (p : Packet) (status : Nat) : ErrorsOnly s (errFrom x y p status s) := by
  unfold errFrom
  exact errorsOnly_ite (errorsOnly_injectPkt _) (errorsOnly_refl s)

theorem errorsOnly_fieldDiscard (x y : Nat) (p : Packet) : ErrorsOnly s (fieldDiscard x y p s) := (errorsOnly_discardAt ..).trans (errorsOnly_raise ..)

/-- A discard at the seam counts in DROP; its errors leave the rest of the half's registers. -/
theorem errorsOnly_seamDiscard (east : Bool) (n : Nat) : ErrorsOnly (s.satFld (rSeam east) 63 48 n) (seamDiscard east n s) :=
  forEach_induction (P := ErrorsOnly (s.satFld (rSeam east) 63 48 n)) (fun _ t h => h.trans (ErrorsOnly.trans (t := t.draw.2) (errorsOnly_of_rest rfl rfl) (errorsOnly_raise ..))) _ (errorsOnly_refl _)

end

end Sys2Proof.Machine
end

section
/-! The links of a state: their table, the flits that leave on one, and units without a flit in their ports (R306, R312 to R314, R321 to R323, R346). -/

namespace Sys2Proof.Machine
open Sys2Proof.Claims

/-! ### The table of links (R306) -/

@[simp] theorem State.link_setLink_self (s : State) (k : LinkRef) (l : LinkSt) : (s.setLink k l).link k = l := tget_tset_self ..

theorem State.link_setLink_ne (s : State) {k j : LinkRef} (l : LinkSt) (h : linkKey k ≠ linkKey j) : (s.setLink k l).link j = s.link j := tget_tset_ne _ _ _ h

@[simp] theorem State.link_emit (s : State) (k : LinkRef) (o : Out) : (s.emit o).link k = s.link k := rfl

theorem link_congr {s t : State} (h : t.links = s.links) (k : LinkRef) : t.link k = s.link k := by rw [State.link, h, State.link]

theorem link_of_key {k j : LinkRef} (s : State) (h : linkKey k = linkKey j) : s.link k = s.link j := by rw [State.link, h, State.link]

/-- The two directions of a link are two entries of the table. -/
theorem linkKey_reverse_ne (k : LinkRef) : linkKey (reverse k) ≠ linkKey k := by
  obtain ⟨kind, at_, dir⟩ := k
  cases kind <;> simp only [reverse, linkKey] <;> omega

theorem onlyLink_of_setLink {k : LinkRef} {l : LinkSt} {s t : State} (hl : t.links = (s.setLink k l).links) (ht : t = { s with links := t.links, regs := t.regs, out := t.out }) :
    OnlyLink k l s t :=
  ⟨(link_congr hl k).trans (s.link_setLink_self k l), fun j hj => (link_congr hl j).trans (s.link_setLink_ne l (Ne.symm hj)), ht⟩

theorem onlyLink_setLink (k : LinkRef) (l : LinkSt) (s : State) : OnlyLink k l s (s.setLink k l) := onlyLink_of_setLink rfl rfl

/-! ### Flits that leave (R312 to R314, R346) -/

theorem crcBit_lt {c : Nat} (h : c < 2 ^ 32) : crcBit c < 2 ^ 32 := by
  unfold crcBit
  split
  · exact Nat.xor_lt_two_pow (by omega) (by decide)
  · omega

theorem crcByte_lt {c : Nat} (b : Byte) (h : c < 2 ^ 32) : crcByte c b < 2 ^ 32 :=
  List.foldlRecOn (List.range 8) _ (motive := (· < 2 ^ 32)) (Nat.xor_lt_two_pow h (lt_of_lt_of_le b.isLt (by decide))) fun _ hc _ _ => crcBit_lt hc

theorem crc32_lt (bs : List Byte) : crc32 bs < 2 ^ 32 :=
  Nat.xor_lt_two_pow (List.foldlRecOn bs _ (motive := (· < 2 ^ 32)) (by decide) fun _ hc b _ => crcByte_lt b hc) (by decide)

theorem words_sealed (ws : List Word) (side : Word) : (Flit.sealed ⟨ws, side⟩).words = ws := rfl

/-- Sealing changes nothing of the sideband below its CRC. -/
theorem bits_side_sealed (fl : Flit) {a b : Nat} (h : a < 32) : bits fl.sealed.side a b = bits fl.side a b := bits_setBits_ne _ _ _ _ _ _ (by decide) (by decide) (.inl h)

theorem covered_sealed (fl : Flit) : fl.sealed.covered = fl.covered := by
  rw [Flit.covered, bits_side_sealed fl (by decide)]
  rfl

/-- A sealed flit's CRC is right (R313). -/
theorem crcOk_sealed (fl : Flit) : fl.sealed.crcOk = true := by
  have hcrc : bits fl.sealed.side 63 32 = crc32 fl.covered % 2 ^ 32 := bits_setBits_self _ _ _ _ (by decide) (by decide)
  rw [Flit.crcOk, covered_sealed, hcrc, Nat.mod_eq_of_lt (crc32_lt _), beq_self_eq_true]

/-- The low half of the sideband that a link gives a flit: POISON and the low four bits as they were, SEQ, the acknowledgment, and a credit. -/
def sentSide (k : LinkRef) (fl : Flit) (s : State) : Nat :=
  let l := s.link k
  let ack := ((s.link (reverse k)).expSeq + 255) % 256
  bits fl.side 31 24 * 2 ^ 24 + l.nextSeq * 2 ^ 16 + ack * 2 ^ 8 + 2 ^ 7 + (!l.crq.isEmpty).toNat * 2 ^ 6 + l.crq.headD 0 % 4 * 2 ^ 4 + bits fl.side 3 0

/-- A flit as it leaves on a link. -/
def sentFlit (k : LinkRef) (fl : Flit) (s : State) : Flit := { fl with side := wd (sentSide k fl s) }.sealed

theorem launchFlit_eq (k : LinkRef) (fl : Flit) (s : State) : launchFlit k fl s =
    (s.setLink k { s.link k with unacked := (s.link k).unacked ++ [sentFlit k fl s], nextSeq := ((s.link k).nextSeq + 1) % 256, crq := (s.link k).crq.tail }).emit (.flit k (sentFlit k fl s) false) := rfl

section
variable (k : LinkRef) (fl : Flit) (s : State)

/-- A field of a sent flit's sideband below the CRC. -/
theorem bits_side_sentFlit {a b : Nat} (h : a < 32) (hab : b ≤ a) : bits (sentFlit k fl s).side a b = sentSide k fl s / 2 ^ b % 2 ^ (a + 1 - b) := by
  rw [sentFlit, bits_side_sealed _ h, bits, nbits, wd, BitVec.toNat_ofNat, Nat.shiftRight_eq_div_pow, show (64 : Nat) = b + (64 - b) by omega, pow_add, Nat.mod_mul_right_div_self,
    Nat.mod_mod_of_dvd _ (Nat.pow_dvd_pow 2 (by omega))]

theorem words_sentFlit : (sentFlit k fl s).words = fl.words := words_sealed ..

theorem seq_sentFlit : (sentFlit k fl s).seq = (s.link k).nextSeq % 256 := by
  have hcredit : (!(s.link k).crq.isEmpty).toNat ≤ 1 := Bool.toNat_le _
  have hlow : bits fl.side 3 0 < 16 := nbits_lt _ 3 0
  rw [Flit.seq, bits_side_sentFlit _ _ _ (by decide) (by decide), sentSide]
  omega

theorem low_sentFlit : sentSide k fl s % 16 = bits fl.side 3 0 := by
  have hlow : bits fl.side 3 0 < 16 := nbits_lt _ 3 0
  rw [sentSide]
  omega

theorem kind_sentFlit : (sentFlit k fl s).kind = fl.kind := by
  have h := low_sentFlit k fl s
  rw [Flit.kind, bits_side_sentFlit _ _ _ (by decide) (by decide), Flit.kind]
  simp only [bits, nbits, Nat.shiftRight_eq_div_pow] at h ⊢
  omega

theorem vc_sentFlit : (sentFlit k fl s).vc = fl.vc := by
  have h := low_sentFlit k fl s
  rw [Flit.vc, bits_side_sentFlit _ _ _ (by decide) (by decide), Flit.vc]
  simp only [bits, nbits, Nat.shiftRight_eq_div_pow] at h ⊢
  omega

end

/-! ### What waits for a link (R314, R323, R349) -/

theorem link_launchFlit_ne {k j : LinkRef} (h : linkKey k ≠ linkKey j) (fl : Flit) (s : State) : (launchFlit k fl s).link j = s.link j := s.link_setLink_ne _ h

theorem pump_rest (k : LinkRef) (n : Nat) (s : State) : pump k n s = { s with links := (pump k n s).links, out := (pump k n s).out } := by
  induction n generalizing s with
  | zero => rfl
  | succ n ih =>
    unfold pump
    dsimp only
    split
    · rfl
    · split
      · rw [ih]; rfl
      · split
        · rfl
        · rw [ih]; rfl

theorem link_pump_ne {k j : LinkRef} (h : linkKey k ≠ linkKey j) (n : Nat) (s : State) : (pump k n s).link j = s.link j := by
  induction n generalizing s with
  | zero => rfl
  | succ n ih =>
    unfold pump
    dsimp only
    split
    · rfl
    · split
      · exact (ih _).trans ((link_launchFlit_ne h ..).trans (s.link_setLink_ne _ h))
      · split
        · rfl
        · exact (ih _).trans (link_launchFlit_ne h ..)

theorem pumpAll_rest (k : LinkRef) (s : State) : pumpAll k s = { s with links := (pumpAll k s).links, out := (pumpAll k s).out } := pump_rest ..

theorem link_pumpAll_ne {k j : LinkRef} (h : linkKey k ≠ linkKey j) (s : State) : (pumpAll k s).link j = s.link j := link_pump_ne h ..

/-- A link for which nothing waits sends nothing. -/
theorem pumpAll_idle {k : LinkRef} {s : State} (hw : (s.link k).wait = []) (hc : (s.link k).crq = []) : pumpAll k s = s := by
  rw [pumpAll, hw, hc]
  rfl

theorem maySend_congr {k : LinkRef} {s t : State} (hr : t.regs = s.regs) (hst : (t.link k).status = (s.link k).status) (hu : (t.link k).unacked = (s.link k).unacked) :
    maySend t k = maySend s k := by
  have hrd : ∀ off, t.rd off = s.rd off := fun off => by rw [State.rd, hr, State.rd]
  simp only [maySend, State.flag, hrd, hst, hu]

/-- A flit given to a link that may send, and for which nothing waits, leaves at once. -/
theorem sendFlit_free {k : LinkRef} {s : State} (fl : Flit) (hm : maySend s k = true) (hw : (s.link k).wait = []) (hc : (s.link k).crq = []) :
    ∃ u, u.link k = s.link k ∧ OnlyLink k { s.link k with unacked := (s.link k).unacked ++ [sentFlit k fl u], nextSeq := ((s.link k).nextSeq + 1) % 256 } s (sendFlit k fl s) ∧
      (sendFlit k fl s).regs = s.regs ∧ (sendFlit k fl s).out = .flit k (sentFlit k fl u) false :: s.out := by
  have hst : (s.link k).status = 1 := by
    simp only [maySend, Bool.and_eq_true, beq_iff_eq] at hm
    exact hm.1.1
  obtain ⟨v, hv⟩ : ∃ v, v = s.setLink k { s.link k with wait := (s.link k).wait ++ [fl] } := ⟨_, rfl⟩
  have hvl : v.link k = { s.link k with wait := [fl] } := by rw [hv, State.link_setLink_self, hw]; rfl
  have hmv : maySend v k = true := (maySend_congr (by rw [hv]; rfl) (by rw [hvl]) (by rw [hvl])).trans hm
  obtain ⟨u, hu⟩ : ∃ u, u = v.setLink k { v.link k with wait := [] } := ⟨_, rfl⟩
  have hul : u.link k = s.link k := by
    rw [hu, State.link_setLink_self, hvl]
    exact congrArg (fun w => { s.link k with wait := w }) hw.symm
  have hsend : sendFlit k fl s = launchFlit k fl u := by
    have hpump : sendFlit k fl s = pumpAll k v := by rw [hv]; exact if_pos (.inl hst)
    rw [hpump, pumpAll, hvl, hc, hu]
    change pump k 1 v = _
    unfold pump
    rw [hmv, hvl]
    rfl
  have hlaunch := launchFlit_eq k fl u
  rw [hul] at hlaunch
  have htail : (s.link k).crq.tail = (s.link k).crq := by rw [hc]; rfl
  rw [htail] at hlaunch
  refine ⟨u, hul, ⟨?_, fun j hj => ?_, ?_⟩, ?_, ?_⟩
  · rw [hsend, hlaunch, State.link_emit, State.link_setLink_self]
  · rw [hsend, link_launchFlit_ne (Ne.symm hj), hu, State.link_setLink_ne _ _ (Ne.symm hj), hv, State.link_setLink_ne _ _ (Ne.symm hj)]
  · rw [hsend, hlaunch, hu, hv]; rfl
  · rw [hsend, hlaunch, hu, hv]; rfl
  · rw [hsend, hlaunch, hu, hv]; rfl

/-! ### Units whose ports are empty (R321, R322) -/

section
variable {s : State} (h : s.ports = [])
include h

theorem moveAt_of_no_ports (k : LinkRef) (i : Nat) : moveAt s k i = none := by
  have hp : s.port k = PortSt.reset := by rw [State.port, h]; rfl
  unfold moveAt
  rw [hp]
  rfl

theorem fronts_of_no_ports (n : Node) : fronts s n = [] := by
  simp [fronts, moveAt_of_no_ports h]

theorem forwardAll_of_no_ports (n : Node) : forwardAll n s = s := by
  have hnone : nextMove s n = none := by
    unfold nextMove
    rw [fronts_of_no_ports h]
    rfl
  unfold forwardAll forward
  rw [hnone]

theorem linkGo_of_no_ports (k : LinkRef) : linkGo k s = pumpAll k s :=
  forwardAll_of_no_ports (by rw [pumpAll_rest]; exact h) _

end

/-! ### What forwarding leaves of every link (R322, R323) -/

/-- From l to m only what the sender of a link holds changed: flits and credits on their way, and its next SEQ. -/
def SenderOnly (l m : LinkSt) : Prop := m = { l with unacked := m.unacked, nextSeq := m.nextSeq, owed := m.owed, wait := m.wait, crq := m.crq }

/-- From s to t that is so of every link. -/
structure SendersOnly (s t : State) : Prop where
  link : ∀ k, SenderOnly (s.link k) (t.link k)

section
variable {s t : State}

theorem sendersOnly_refl (s : State) : SendersOnly s s := ⟨fun _ => rfl⟩

theorem SendersOnly.trans {u : State} (h : SendersOnly s t) (h' : SendersOnly t u) : SendersOnly s u := ⟨fun k => by
  have hu := h'.link k
  unfold SenderOnly at hu ⊢
  rw [hu, h.link k]⟩

theorem SendersOnly.of_links {u : State} (h : SendersOnly s t) (hl : u.links = t.links) : SendersOnly s u := ⟨fun k => by
  rw [link_congr hl]
  exact h.link k⟩

theorem SendersOnly.errors {u : State} (h : SendersOnly s t) (he : ErrorsOnly t u) : SendersOnly s u := h.of_links he.links

theorem SendersOnly.setLink (h : SendersOnly s t) (k : LinkRef) (u : List Flit) (n : Nat) (o : Tab Nat) (w : List Flit) (c : List Nat) :
    SendersOnly s (t.setLink k { t.link k with unacked := u, nextSeq := n, owed := o, wait := w, crq := c }) := by
  refine h.trans ⟨fun j => ?_⟩
  by_cases e : linkKey k = linkKey j
  · rw [← link_of_key _ e, ← link_of_key _ e, State.link_setLink_self]
    rfl
  · rw [State.link_setLink_ne _ _ e]
    rfl

theorem SendersOnly.foldl {α : Type} (h : SendersOnly s t) {f : State → α → State} (hf : ∀ u a, SendersOnly s u → SendersOnly s (f u a)) (l : List α) : SendersOnly s (l.foldl f t) :=
  List.foldlRecOn l f h fun u hu a _ => hf u a hu

theorem SendersOnly.launchFlit (h : SendersOnly s t) (k : LinkRef) (fl : Flit) : SendersOnly s (launchFlit k fl t) := (h.setLink ..).of_links rfl

theorem SendersOnly.pump (h : SendersOnly s t) (k : LinkRef) (n : Nat) : SendersOnly s (pump k n t) := by
  induction n generalizing t with
  | zero => exact h
  | succ n ih =>
    unfold Machine.pump
    dsimp only
    split
    · exact h
    · split
      · exact ih ((h.setLink ..).launchFlit ..)
      · split
        · exact h
        · exact ih (h.launchFlit ..)

theorem SendersOnly.pumpAll (h : SendersOnly s t) (k : LinkRef) : SendersOnly s (pumpAll k t) := h.pump ..

theorem SendersOnly.sendFlit (h : SendersOnly s t) (k : LinkRef) (fl : Flit) : SendersOnly s (sendFlit k fl t) := by
  unfold Machine.sendFlit
  dsimp only
  split
  · exact (h.setLink ..).pumpAll k
  · exact h

theorem SendersOnly.returnCredit (h : SendersOnly s t) (k : LinkRef) (ch : Nat) : SendersOnly s (returnCredit k ch t) := (h.setLink ..).pumpAll _

theorem SendersOnly.moveOut (h : SendersOnly s t) (m : Move) (k : LinkRef) (det side : Bool) : SendersOnly s (moveOut m k det side t) := by
  unfold Machine.moveOut
  dsimp only
  exact ((h.of_links (u := t.setGrant k _) rfl).setLink ..).sendFlit ..

theorem SendersOnly.moveHere (h : SendersOnly s t) (m : Move) : SendersOnly s (moveHere m t) := by
  unfold Machine.moveHere
  dsimp only
  split <;> exact h.of_links rfl

theorem SendersOnly.moveDrop (h : SendersOnly s t) (m : Move) (r : Route) : SendersOnly s (moveDrop m r t) := by
  unfold Machine.moveDrop
  dsimp only
  split
  · exact h
  · cases r with
    | ok => exact h
    | dead x y => exact (h.errors (errorsOnly_fieldDiscard ..)).errors (errorsOnly_errFrom ..)
    | off x y => exact (h.errors (errorsOnly_fieldDiscard ..)).errors (errorsOnly_errFrom ..)
    | seamDrop east x y => exact ((h.of_links (u := t.satFld (rSeam east) 63 48 1) rfl).errors (errorsOnly_seamDiscard ..)).errors (errorsOnly_errFrom ..)
    | seamHold => exact h
    | linkHold => exact h

theorem SendersOnly.badHead (h : SendersOnly s t) (c : Nat) (head : Word) : SendersOnly s (badHead c head t) := (h.errors (errorsOnly_discardAt ..)).errors (errorsOnly_raise ..)

/-- What one aim of a flit does with it. -/
def aimDone (m : Move) (t : State) : Aim → State
  | .out k det side => moveOut m k det side t
  | .here => moveHere m t
  | .drop r => moveDrop m r t
  | .hold => t

theorem SendersOnly.aimDone (h : SendersOnly s t) (m : Move) (a : Aim) : SendersOnly s (aimDone m t a) := by
  cases a with
  | out k det side => exact h.moveOut m k det side
  | here => exact h.moveHere m
  | drop r => exact h.moveDrop m r
  | hold => exact h

theorem SendersOnly.doMove (h : SendersOnly s t) (m : Move) : SendersOnly s (doMove m t) := by
  have haims : ∀ p, SendersOnly s (m.aims.foldl (Machine.aimDone m) (t.setPort m.k p)) := fun p =>
    (h.of_links (u := t.setPort m.k p) rfl).foldl (fun _ a hu => hu.aimDone m a) _
  unfold Machine.doMove
  dsimp only
  refine SendersOnly.returnCredit ?_ ..
  split
  · split
    · exact (haims _).badHead ..
    · exact haims _
  · exact haims _

theorem SendersOnly.forward (h : SendersOnly s t) (n : Node) (fuel : Nat) : SendersOnly s (forward n fuel t) := by
  induction fuel generalizing t with
  | zero => exact h
  | succ fuel ih =>
    unfold Machine.forward
    split
    · exact ih (h.doMove _)
    · exact h

theorem SendersOnly.forwardAll (h : SendersOnly s t) (n : Node) : SendersOnly s (forwardAll n t) := h.forward ..

theorem SendersOnly.linkGo (h : SendersOnly s t) (k : LinkRef) : SendersOnly s (linkGo k t) := (h.pumpAll k).forwardAll _

end

end Sys2Proof.Machine
end

section
/-! The life of a link: training, flits received, replay and retraining (R311 to R314, R345 to R350). -/

namespace Sys2Proof.Machine
open Sys2Proof.Claims

/-! ### Training and retraining (R345, R350) -/

section
variable {k : LinkRef} {s : State} {fl : List Nat}

theorem exec_linkTraining_live (hst : (s.link k).status ≠ 3) (h : sparable (fl ++ catalogueLanes k s) = true) :
    exec (.linkTraining k fl) s = .next (s.setLink k { LinkSt.reset with status := 1, spared := (fl ++ catalogueLanes k s).eraseDups }) :=
  congrArg Host.Outcome.next ((if_neg hst).trans (if_pos h))

theorem exec_linkTraining_dead (hst : (s.link k).status ≠ 3) (h : sparable (fl ++ catalogueLanes k s) = false) :
    exec (.linkTraining k fl) s = .next (linkDead k (s.setLink k { s.link k with status := 3 })) :=
  congrArg Host.Outcome.next ((if_neg hst).trans (if_neg (ne_true_of_eq_false h)))

/-- A link live again after retraining, with the flits that it resends under way. -/
def retrained (k : LinkRef) (spared : List Nat) (s : State) : State :=
  let s1 := if (s.link k).unacked.isEmpty then s else s.satFld (rFldLink (linkField k)) 47 32 1
  resendOut k (s.link k).unacked (s1.setLink k { s.link k with status := 1, resends := 0, spared := spared })

theorem exec_linkRetrainDone_live (hst : (s.link k).status = 2) (h : sparable (fl ++ catalogueLanes k s) = true) :
    exec (.linkRetrainDone k fl) s = .next (linkGo k (retrained k (fl ++ catalogueLanes k s).eraseDups s)) :=
  congrArg Host.Outcome.next ((if_neg (not_not.2 hst)).trans (if_pos h))

theorem exec_linkRetrainDone_dead (hst : (s.link k).status = 2) (h : sparable (fl ++ catalogueLanes k s) = false) :
    exec (.linkRetrainDone k fl) s = .next (linkDead k (s.setLink k { s.link k with status := 3 })) :=
  congrArg Host.Outcome.next ((if_neg (not_not.2 hst)).trans (if_neg (ne_true_of_eq_false h)))

end

/-! ### Resends (R348, R349) -/

theorem resendOut_eq (k : LinkRef) (fls : List Flit) (s : State) : resendOut k fls s = { s with out := resent k fls ++ s.out } := by
  induction fls generalizing s with
  | nil => rfl
  | cons fl fls ih =>
    change resendOut k fls (s.emit (.flit k fl true)) = _
    rw [ih]
    simp [resent, State.emit]

theorem onlyLink_retrained (k : LinkRef) (spared : List Nat) (s : State) : OnlyLink k { s.link k with status := 1, resends := 0, spared := spared } s (retrained k spared s) := by
  unfold retrained
  rw [resendOut_eq]
  dsimp only
  split <;> exact onlyLink_of_setLink rfl rfl

theorem out_retrained (k : LinkRef) (spared : List Nat) (s : State) : (retrained k spared s).out = resent k (s.link k).unacked ++ s.out := by
  unfold retrained
  rw [resendOut_eq]
  dsimp only
  split <;> rfl

theorem ports_retrained (k : LinkRef) (spared : List Nat) (s : State) : (retrained k spared s).ports = s.ports := by rw [(onlyLink_retrained k spared s).2.2]

section
variable {k : LinkRef} {s : State}

theorem onlyLink_startResend (k : LinkRef) (l : LinkSt) (s : State) : OnlyLink k { l with resends := l.resends + 1 } s (startResend k l s) := by
  unfold startResend
  rw [resendOut_eq]
  exact onlyLink_of_setLink rfl rfl

theorem out_startResend (k : LinkRef) (l : LinkSt) (s : State) : (startResend k l s).out = resent k l.unacked ++ s.out := by
  unfold startResend
  rw [resendOut_eq]
  rfl

/-- A resend is counted in REPLAY of the sender's field. -/
theorem replay_startResend (k : LinkRef) (l : LinkSt) (s : State) :
    (startResend k l s).fld (rFldLink (linkField k)) 47 32 = min (s.fld (rFldLink (linkField k)) 47 32 + 1) 65535 := by
  unfold startResend
  rw [resendOut_eq]
  exact State.fld_satFld_self s _ 47 32 1 (by decide) (by decide)

theorem exec_nak (hst : (s.link k).status = 1) (hu : (s.link k).unacked ≠ []) (a : Nat) : exec (.nak k a) s = .next (startResend k (ackDrop (s.link k) (a % 256)) s) :=
  if_neg (by simp [hst, hu])

theorem exec_linkReplayTimeout (hst : (s.link k).status = 1) (hu : (s.link k).unacked ≠ []) : exec (.linkReplayTimeout k) s = .next (startResend k (s.link k) s) :=
  if_neg (by simp [hst, hu])

theorem exec_linkRetrain (hst : (s.link k).status = 1) (hr : 16 ≤ (s.link k).resends) :
    exec (.linkRetrain k) s = .next ((s.satFld (rFldLink (linkField k)) 31 24 1).setLink k { s.link k with status := 2 }) :=
  if_neg (by simp [hst, hr])

end

/-! ### What a flit carries for the other direction (R312, R346) -/

theorem link_flitReturns (k : LinkRef) (fl : Flit) (s : State) : (flitReturns k fl s).link k = s.link k := by
  have hne := linkKey_reverse_ne k
  have hset : ∀ (t : State) l, (t.setLink (reverse k) l).link k = t.link k := fun t l => t.link_setLink_ne l hne
  unfold flitReturns
  dsimp only
  split_ifs <;> simp only [link_pumpAll_ne hne, hset]

section
variable {k : LinkRef} {fl : Flit} {s : State} (hb : Bare fl)
include hb

theorem flitReturns_bare (hk : fl.kind ≠ 3) : flitReturns k fl s = s := by
  obtain ⟨hack, hcr⟩ := hb
  simp [flitReturns, hk, hack, hcr]

/-- An ack-only flit frees the replay buffer of the other direction. -/
theorem flitReturns_ackOnly (hk : fl.kind = 3) (hw : (s.link (reverse k)).wait = []) (hc : (s.link (reverse k)).crq = []) :
    flitReturns k fl s = s.setLink (reverse k) (ackDrop (s.link (reverse k)) fl.ackseq) := by
  have hdrop : ∀ l : LinkSt, (ackDrop l fl.ackseq).wait = l.wait ∧ (ackDrop l fl.ackseq).crq = l.crq := fun l => by
    unfold ackDrop
    split <;> exact ⟨rfl, rfl⟩
  obtain ⟨hack, hcr⟩ := hb
  have hidle := pumpAll_idle (k := reverse k) (s := s.setLink (reverse k) (ackDrop (s.link (reverse k)) fl.ackseq))
    (by rw [State.link_setLink_self, (hdrop _).1, hw]) (by rw [State.link_setLink_self, (hdrop _).2, hc])
  simp [flitReturns, hk, hack, hcr, hidle]

end

/-! ### Flits received (R347) -/

/-- The state in which an in-order flit has been accepted and acknowledged. -/
def accepted (k : LinkRef) (s : State) : State :=
  (s.setLink k { s.link k with expSeq := ((s.link k).expSeq + 1) % 256, discarding := false }).emit (.flit (reverse k) (ackOnly false (s.link k).expSeq) false)

theorem flitAccept_eq (k : LinkRef) (fl : Flit) (s : State) : flitAccept k fl s = if fl.kind = 0 then accepted k s else bufferFlit k fl (accepted k s) := rfl

theorem link_accepted (k : LinkRef) (s : State) : (accepted k s).link k = { s.link k with expSeq := ((s.link k).expSeq + 1) % 256, discarding := false } := State.link_setLink_self ..

theorem bufferFlit_links (k : LinkRef) (fl : Flit) (s : State) : (bufferFlit k fl s).links = s.links := by
  unfold bufferFlit
  dsimp only
  split <;> rfl

theorem link_flitAccept (k : LinkRef) (fl : Flit) (s : State) : (flitAccept k fl s).link k = { s.link k with expSeq := ((s.link k).expSeq + 1) % 256, discarding := false } := by
  rw [flitAccept_eq, ← link_accepted]
  split
  · rfl
  · exact link_congr (bufferFlit_links ..) k

/-- The state in which a discard has been answered with a NAK. -/
def nakked (k : LinkRef) (s : State) : State :=
  ((s.setLink k { s.link k with discarding := true }).emit (.flit (reverse k) (ackOnly true (((s.link k).expSeq + 255) % 256)) false)).emit (.nak (reverse k) (((s.link k).expSeq + 255) % 256))

theorem flitDiscard_first {k : LinkRef} {s : State} (h : (s.link k).discarding = false) : flitDiscard k s = nakked k s := if_neg (by simp [h])

section
variable {k : LinkRef} {fl : Flit} {s : State} (hst : (s.link k).status = 1)
include hst

/-- A flit with a bad CRC is counted in CRC of the receiver's field and discarded. -/
theorem flitReceive_bad (hcrc : fl.crcOk = false) : flitReceive k fl s = flitDiscard k (s.satFld (rFldLink (linkRecvField k)) 63 48 1) :=
  (if_neg (not_not.2 hst)).trans (if_pos (by rw [hcrc]; rfl))

theorem flitReceive_good (hcrc : fl.crcOk = true) : flitReceive k fl s = forwardAll (recvNode k)
    (if fl.kind = 3 then flitReturns k fl s else if fl.seq ≠ (s.link k).expSeq ∨ bufferRoom (flitReturns k fl s) k fl = false then flitDiscard k (flitReturns k fl s)
      else flitAccept k fl (flitReturns k fl s)) :=
  (if_neg (not_not.2 hst)).trans (if_neg (by rw [hcrc]; decide))

theorem flitReceive_inOrder (hcrc : fl.crcOk = true) (hk : fl.kind ≠ 3) (hseq : fl.seq = (s.link k).expSeq) (hroom : bufferRoom (flitReturns k fl s) k fl = true) :
    flitReceive k fl s = forwardAll (recvNode k) (flitAccept k fl (flitReturns k fl s)) := by
  rw [flitReceive_good hst hcrc, if_neg hk, if_neg (by simp [hseq, hroom])]

theorem flitReceive_idle (hcrc : fl.crcOk = true) (hk : fl.kind = 0) (hseq : fl.seq = (s.link k).expSeq) (hb : Bare fl) (hp : s.ports = []) : flitReceive k fl s = accepted k s := by
  have hk3 : fl.kind ≠ 3 := by omega
  have hroom : bufferRoom s k fl = true := by simp [bufferRoom, hk]
  have hret := flitReturns_bare (k := k) (s := s) hb hk3
  rw [flitReceive_inOrder hst hcrc hk3 hseq (by rw [hret, hroom]), hret, flitAccept_eq, if_pos hk]
  exact forwardAll_of_no_ports (s := accepted k s) hp _

theorem flitReceive_outOfOrder (hcrc : fl.crcOk = true) (hb : Bare fl) (hk : fl.kind ≠ 3) (hseq : fl.seq ≠ (s.link k).expSeq) (hp : s.ports = []) (hd : (s.link k).discarding = false) :
    flitReceive k fl s = nakked k s := by
  rw [flitReceive_good hst hcrc, if_neg hk, if_pos (.inl hseq), flitReturns_bare hb hk, flitDiscard_first hd]
  exact forwardAll_of_no_ports (s := nakked k s) hp _

theorem flitReceive_ackOnly (hcrc : fl.crcOk = true) (hk : fl.kind = 3) (hb : Bare fl) (hw : (s.link (reverse k)).wait = []) (hc : (s.link (reverse k)).crq = []) (hp : s.ports = []) :
    flitReceive k fl s = s.setLink (reverse k) (ackDrop (s.link (reverse k)) fl.ackseq) := by
  rw [flitReceive_good hst hcrc, if_pos hk, flitReturns_ackOnly hb hk hw hc]
  exact forwardAll_of_no_ports (s := s.setLink (reverse k) (ackDrop (s.link (reverse k)) fl.ackseq)) hp _

/-- A first discard, of a flit out of order or with a bad CRC, is answered with a NAK; only the latter is counted. -/
theorem flitReceive_discards (h : fl.crcOk = false ∨ (Bare fl ∧ fl.kind ≠ 3 ∧ fl.seq ≠ (s.link k).expSeq ∧ s.ports = [])) (hd : (s.link k).discarding = false) :
    OnlyLink k { s.link k with discarding := true } s (flitReceive k fl s) ∧
      (flitReceive k fl s).out = .nak (reverse k) (((s.link k).expSeq + 255) % 256) :: .flit (reverse k) (ackOnly true (((s.link k).expSeq + 255) % 256)) false :: s.out ∧
      (flitReceive k fl s).fld (rFldLink (linkRecvField k)) 63 48 = min (s.fld (rFldLink (linkRecvField k)) 63 48 + if fl.crcOk then 0 else 1) 65535 := by
  cases hcrc : fl.crcOk with
  | false =>
    have hrecv : flitReceive k fl s = nakked k (s.satFld (rFldLink (linkRecvField k)) 63 48 1) := (flitReceive_bad hst hcrc).trans (flitDiscard_first hd)
    rw [hrecv]
    exact ⟨onlyLink_of_setLink rfl rfl, rfl, State.fld_satFld_self s _ 63 48 1 (by decide) (by decide)⟩
  | true =>
    obtain ⟨hb, hk, hseq, hp⟩ := h.resolve_left (by simp [hcrc])
    have hlt : s.fld (rFldLink (linkRecvField k)) 63 48 < 65536 := nbits_lt _ 63 48
    rw [flitReceive_outOfOrder hst hcrc hb hk hseq hp hd]
    refine ⟨onlyLink_of_setLink rfl rfl, rfl, ?_⟩
    change s.fld (rFldLink (linkRecvField k)) 63 48 = _
    simp only [if_true]
    omega

end

theorem exec_flitReceive (k : LinkRef) (fl : Flit) (s : State) : exec (.flitReceive k fl) s = .next (flitReceive k fl s) := rfl

/-- A live link by what it receives, and by what it is asked to resend. -/
theorem linkLife : Claims.LinkLife := by
  refine fun k s => ⟨?_, fun fl hst h => ⟨_, exec_linkTraining_dead hst h, onlyLink_setLink .., rfl⟩, fun hst => ⟨?_, ?_, ?_, ?_, fun hu => ⟨fun a => ?_, ?_⟩, fun hr => ?_⟩, ?_⟩
  · rintro fl _ rfl hst h
    exact ⟨_, exec_linkTraining_live hst h, onlyLink_setLink .., rfl, rfl⟩
  · intro fl hcrc hk hseq hroom
    have hfwd := ((sendersOnly_refl (flitAccept k fl (flitReturns k fl s))).forwardAll (recvNode k)).link k
    rw [link_flitAccept, link_flitReturns] at hfwd
    refine ⟨_, (exec_flitReceive ..).trans (congrArg _ (flitReceive_inOrder hst hcrc hk hseq hroom)), ?_, ?_⟩ <;> rw [hfwd]
  · intro fl hcrc hk hseq hb hp
    exact ⟨_, (exec_flitReceive ..).trans (congrArg _ (flitReceive_idle hst hcrc hk hseq hb hp)), onlyLink_of_setLink rfl rfl, rfl, rfl⟩
  · exact fun fl h hd => ⟨_, exec_flitReceive .., flitReceive_discards hst h hd⟩
  · intro fl hcrc hk hb hw hc hp
    exact ⟨_, (exec_flitReceive ..).trans (congrArg _ (flitReceive_ackOnly hst hcrc hk hb hw hc hp)), onlyLink_setLink .., rfl, rfl⟩
  · exact ⟨_, exec_nak hst hu a, onlyLink_startResend .., replay_startResend .., out_startResend ..⟩
  · exact ⟨_, exec_linkReplayTimeout hst hu, onlyLink_startResend .., out_startResend ..⟩
  · exact ⟨_, exec_linkRetrain hst hr, onlyLink_of_setLink rfl rfl, State.fld_satFld_self s _ 31 24 1 (by decide) (by decide), rfl⟩
  · rintro hst fl _ rfl
    refine ⟨fun h => ?_, fun h => ⟨_, exec_linkRetrainDone_dead hst h, onlyLink_setLink .., rfl⟩⟩
    have honly := onlyLink_retrained k (fl ++ catalogueLanes k s).eraseDups s
    have hgo := ((sendersOnly_refl (retrained k (fl ++ catalogueLanes k s).eraseDups s)).linkGo k).link k
    rw [honly.1] at hgo
    refine ⟨_, exec_linkRetrainDone_live hst h, ?_, ?_, ?_, fun hw hc hp => ?_⟩
    · rw [hgo]
    · rw [hgo]
    · rw [hgo]
    · have hidle : linkGo k (retrained k (fl ++ catalogueLanes k s).eraseDups s) = retrained k (fl ++ catalogueLanes k s).eraseDups s :=
        (linkGo_of_no_ports ((ports_retrained ..).trans hp) k).trans (pumpAll_idle (by rw [honly.1]; exact hw) (by rw [honly.1]; exact hc))
      rw [hidle]
      exact ⟨honly, out_retrained ..⟩

end Sys2Proof.Machine
end

section
/-! Heartbeats between neighbors (R312 to R314, R317, R351). -/

namespace Sys2Proof.Machine
open Sys2Proof.Claims

/-! ### The flit of a heartbeat (R312, R316, R317) -/

theorem dvd_foldl_add {n : Nat} {l : List Nat} (h : ∀ x ∈ l, n ∣ x) : n ∣ l.foldl (· + ·) 0 :=
  List.foldlRecOn l _ (motive := (n ∣ ·)) (dvd_zero n) fun _ ha x hx => dvd_add ha (h x hx)

/-- POISON of a new flit lies above its virtual channel and KIND. -/
theorem side_newFlit_low (ws : List PWord) (vc kind : Nat) : (newFlit ws vc kind).side.toNat % 16 = vc % 4 * 4 + kind % 4 := by
  obtain ⟨m, hm⟩ : 16 ∣ ((List.range 8).map (fun w => ((ws.getD w default).x).toNat * 2 ^ (24 + w))).foldl (· + ·) 0 := dvd_foldl_add fun x hx => by
    obtain ⟨w, -, rfl⟩ := List.mem_map.1 hx
    exact (pow_dvd_pow 2 (show 4 ≤ 24 + w by omega)).mul_left _
  simp only [newFlit, wd, BitVec.toNat_ofNat, hm]
  omega

theorem kind_newFlit (ws : List PWord) (vc kind : Nat) : (newFlit ws vc kind).kind = kind % 4 := by
  have h := side_newFlit_low ws vc kind
  simp only [Flit.kind, bits, nbits, Nat.shiftRight_eq_div_pow]
  omega

theorem vc_newFlit (ws : List PWord) (vc kind : Nat) : (newFlit ws vc kind).vc = vc % 4 := by
  have h := side_newFlit_low ws vc kind
  simp only [Flit.vc, bits, nbits, Nat.shiftRight_eq_div_pow]
  omega

/-- The head flit of a heartbeat from a router in a direction. -/
def hbFlit (c dir : Nat) : Flit := newFlit ((headWords (hbPacket c dir)).map (fun d => ⟨d, false⟩)) (vcOf (hbPacket c dir).typ) 1

theorem words_hbFlit (c dir : Nat) : (hbFlit c dir).words = headWords (hbPacket c dir) := rfl

theorem sendHb_eq (c : CoreId) (dir : Nat) (s : State) : sendHb c.val dir s = (sendFlit (Claims.neighborLink c dir) (hbFlit c.val dir) s).emit (.hb c.val dir) := rfl

/-! ### The heartbeats of a router (R351) -/

theorem linkKey_neighborLink_ne {c : CoreId} {d e : Nat} (hd : d < 4) (he : e < 4) (h : d ≠ e) : linkKey (Claims.neighborLink c d) ≠ linkKey (Claims.neighborLink c e) := by
  have hkey : ∀ a, linkKey (Claims.neighborLink c a) % 4 = a % 4 := fun a => by
    change (_ * 4 + a % 4) % 4 = a % 4
    omega
  intro hk
  have := hkey d
  rw [hk, hkey e] at this
  omega

/-- A link over which a heartbeat leaves at once. -/
def Clear (s : State) (k : LinkRef) : Prop := maySend s k = true ∧ (s.link k).wait = [] ∧ (s.link k).crq = []

/-- Flit f is a heartbeat of core c in direction d, sent on its link as it stood in s. -/
structure HbSent (c : CoreId) (d : Nat) (s t : State) (f : Flit) : Prop where
  seq : f.seq = (s.link (Claims.neighborLink c d)).nextSeq % 256
  kind : f.kind = 1
  vc : f.vc = 3
  crc : f.crcOk = true
  words : f.words = headWords (hbPacket c.val d)
  link : t.link (Claims.neighborLink c d) =
    { s.link (Claims.neighborLink c d) with unacked := (s.link (Claims.neighborLink c d)).unacked ++ [f], nextSeq := ((s.link (Claims.neighborLink c d)).nextSeq + 1) % 256 }
  hb : Out.hb c.val d ∈ t.out
  flit : Out.flit (Claims.neighborLink c d) f false ∈ t.out

/-- The heartbeats of core c in directions ds, between s and t. -/
structure HbsSent (c : CoreId) (ds : List Nat) (s t : State) : Prop where
  rest : t = { s with links := t.links, out := t.out }
  sent : ∀ d ∈ ds, ∃ f, HbSent c d s t f
  others : ∀ j, (∀ d ∈ ds, linkKey j ≠ linkKey (Claims.neighborLink c d)) → t.link j = s.link j
  out : s.out ⊆ t.out

theorem hbsSent_sendHb {c : CoreId} {d : Nat} {s : State} (h : Clear s (Claims.neighborLink c d)) : HbsSent c [d] s (sendHb c.val d s) := by
  obtain ⟨hm, hw, hc⟩ := h
  obtain ⟨u, hul, ⟨hlink, hother, hrest⟩, hregs, hout⟩ := sendFlit_free (hbFlit c.val d) hm hw hc
  rw [sendHb_eq]
  generalize sendFlit (Claims.neighborLink c d) (hbFlit c.val d) s = v at hlink hother hrest hregs hout ⊢
  rw [hregs] at hrest
  refine ⟨congrArg (fun x => { x with out := .hb c.val d :: v.out }) hrest, fun e he => ?_, fun j hj => hother j (hj d (List.mem_singleton_self d)), fun o ho => ?_⟩
  · obtain rfl := List.mem_singleton.1 he
    refine ⟨sentFlit (Claims.neighborLink c e) (hbFlit c.val e) u, ⟨?_, ?_, ?_, crcOk_sealed _, (words_sentFlit ..).trans (words_hbFlit ..), hlink, List.mem_cons_self, ?_⟩⟩
    · rw [seq_sentFlit, hul]
    · rw [kind_sentFlit, hbFlit, kind_newFlit]
    · rw [vc_sentFlit, hbFlit, vc_newFlit]
      rfl
    · exact List.mem_cons_of_mem _ (by rw [hout]; exact List.mem_cons_self)
  · exact List.mem_cons_of_mem _ (by rw [hout]; exact List.mem_cons_of_mem _ ho)

section
variable {c : CoreId} {d : Nat} {ds : List Nat} {s t u : State}

/-- A link that a heartbeat does not take is as clear after it. -/
theorem HbsSent.clear (h : HbsSent c ds s t) {k : LinkRef} (hk : ∀ d ∈ ds, linkKey k ≠ linkKey (Claims.neighborLink c d)) (hc : Clear s k) : Clear t k := by
  have hlink := h.others k hk
  obtain ⟨hm, hw, hcr⟩ := hc
  refine ⟨(maySend_congr (by rw [h.rest]) (by rw [hlink]) (by rw [hlink])).trans hm, by rw [hlink, hw], by rw [hlink, hcr]⟩

/-- Heartbeats over links of their own, one after the others. -/
theorem HbsSent.cons (h : HbsSent c [d] s t) (h' : HbsSent c ds t u) (hne : ∀ e ∈ ds, linkKey (Claims.neighborLink c d) ≠ linkKey (Claims.neighborLink c e)) : HbsSent c (d :: ds) s u := by
  refine ⟨by rw [h'.rest, h.rest], fun e hmem => ?_, fun j hj => ?_, List.Subset.trans h.out h'.out⟩
  · rcases List.mem_cons.1 hmem with rfl | he
    · obtain ⟨f, hf⟩ := h.sent e (List.mem_singleton_self e)
      exact ⟨f, { hf with link := (h'.others _ hne).trans hf.link, hb := h'.out hf.hb, flit := h'.out hf.flit }⟩
    · obtain ⟨f, hf⟩ := h'.sent e he
      have hlink : t.link (Claims.neighborLink c e) = s.link (Claims.neighborLink c e) := h.others _ fun a ha => by
        obtain rfl := List.mem_singleton.1 ha
        exact (hne e he).symm
      exact ⟨f, { hf with seq := by rw [← hlink]; exact hf.seq, link := by rw [← hlink]; exact hf.link }⟩
  · rw [h'.others j fun e he => hj e (List.mem_cons_of_mem _ he)]
    exact h.others j fun e he => hj e (by rw [List.mem_singleton.1 he]; exact List.mem_cons_self)

theorem hbsSent_forEach (hnd : ds.Nodup) (hlt : ∀ d ∈ ds, d < 4) (hc : ∀ d ∈ ds, Clear s (Claims.neighborLink c d)) : HbsSent c ds s (forEach ds (sendHb c.val) s) := by
  induction ds generalizing s with
  | nil => exact ⟨rfl, fun _ hd => absurd hd List.not_mem_nil, fun _ _ => rfl, List.Subset.refl _⟩
  | cons d ds ih =>
    obtain ⟨hd, hnd⟩ := List.nodup_cons.1 hnd
    have hne : ∀ e ∈ ds, linkKey (Claims.neighborLink c d) ≠ linkKey (Claims.neighborLink c e) := fun e he =>
      linkKey_neighborLink_ne (hlt d List.mem_cons_self) (hlt e (List.mem_cons_of_mem _ he)) fun h => hd (h ▸ he)
    have hfirst := hbsSent_sendHb (hc d List.mem_cons_self)
    refine hfirst.cons (ih hnd (fun e he => hlt e (List.mem_cons_of_mem _ he)) fun e he => hfirst.clear (fun a ha => ?_) (hc e (List.mem_cons_of_mem _ he))) hne
    rw [List.mem_singleton.1 ha]
    exact (hne e he).symm

end

theorem exec_hbSend {c : CoreId} {s : State} (h : transitOn s (fieldOf c.val) = true) :
    exec (.hbSend c) s = .next (forEach ((List.range 4).filter (liveNeighbor s c.val)) (sendHb c.val) s) := if_neg (by simp [h])

theorem exec_heartbeatLoss_quiet {c : CoreId} {dir : Nat} {s : State} (h : transitOn s (fieldOf c.val) = false ∨ liveNeighbor s c.val dir = false) :
    exec (.heartbeatLoss c dir) s = .next s :=
  if_neg (by rcases h with h | h <;> simp [h])

theorem exec_heartbeatLoss_live {c : CoreId} {dir : Nat} {s : State} (ht : transitOn s (fieldOf c.val) = true) (hl : liveNeighbor s c.val dir = true) :
    exec (.heartbeatLoss c dir) s = .next (raise (domField (fieldOf c.val)) 2 0 0x0104 (wd (coreY (routerStep c.val dir 1) * 512 + coreX (routerStep c.val dir 1))) s) :=
  if_pos (by simp [ht, hl])

theorem heartbeats : Claims.Heartbeats := by
  refine fun c s => ⟨fun _ => rfl, fun _ => exec_heartbeatLoss_live, fun _ => exec_heartbeatLoss_quiet, fun h => if_pos (by simp [h]), fun ht hc => ?_⟩
  have hmem : ∀ d, d ∈ (List.range 4).filter (liveNeighbor s c.val) ↔ d < 4 ∧ liveNeighbor s c.val d = true := fun d => by rw [List.mem_filter, List.mem_range]
  have hsent := hbsSent_forEach (List.nodup_range.filter _) (fun d hd => ((hmem d).1 hd).1) (fun d hd => hc d ((hmem d).1 hd).1 ((hmem d).1 hd).2)
  refine ⟨_, exec_hbSend ht, hsent.rest, fun d hd hl => ?_, fun j hj => hsent.others j fun d hd => hj d ((hmem d).1 hd).1 ((hmem d).1 hd).2⟩
  obtain ⟨f, hf⟩ := hsent.sent d ((hmem d).2 ⟨hd, hl⟩)
  exact ⟨f, hf.seq, hf.kind, hf.vc, hf.crc, hf.words, hf.link, hf.hb, hf.flit⟩

end Sys2Proof.Machine
end

section
/-! The halves of the seam: their epochs in Gray code, a flush, and the end of HOLD (R355 to R361). -/

namespace Sys2Proof.Machine
open Sys2Proof.Claims

/-! ### Epochs in Gray code (R355) -/

theorem gray_lt (n : Nat) : gray n < 65536 := Nat.xor_lt_two_pow (n := 16) (Nat.mod_lt _ (by decide)) (by omega)

/-- The exclusive or of a number's first k shifts. -/
def shiftXor (g k : Nat) : Nat := (List.range k).foldl (fun a i => a ^^^ (g >>> i)) 0

theorem shiftXor_succ (g k : Nat) : shiftXor g (k + 1) = shiftXor g k ^^^ (g >>> k) := by
  simp [shiftXor, List.range_succ]

/-- The shifts of a number and its half cancel in pairs. -/
theorem shiftXor_xor_half (m k : Nat) : shiftXor (m ^^^ (m / 2)) k = m ^^^ (m >>> k) := by
  induction k with
  | zero => simp [shiftXor]
  | succ k ih =>
    rw [shiftXor_succ, ih, Nat.shiftRight_xor_distrib, show m / 2 = m >>> 1 from rfl, ← Nat.shiftRight_add, Nat.add_comm 1 k, Nat.xor_assoc, ← Nat.xor_assoc (m >>> k), Nat.xor_self, Nat.zero_xor]

theorem shiftXor_half (g k : Nat) : shiftXor g k ^^^ (shiftXor g k / 2) = g ^^^ (g >>> k) := by
  have hhalf : shiftXor g k / 2 = shiftXor (g / 2) k := by
    induction k with
    | zero => simp [shiftXor]
    | succ k ih =>
      rw [shiftXor_succ, shiftXor_succ, ← ih, show ∀ a, a / 2 = a >>> 1 from fun _ => rfl, Nat.shiftRight_xor_distrib, ← Nat.shiftRight_add, Nat.add_comm k 1, Nat.shiftRight_add]
      rfl
  have hsum : ∀ a b k, shiftXor a k ^^^ shiftXor b k = shiftXor (a ^^^ b) k := fun a b k => by
    induction k with
    | zero => simp [shiftXor]
    | succ k ih => rw [shiftXor_succ, shiftXor_succ, shiftXor_succ, ← ih, Nat.shiftRight_xor_distrib, Nat.xor_assoc, Nat.xor_left_comm (a >>> k), ← Nat.xor_assoc]
  rw [hhalf, hsum, shiftXor_xor_half]

theorem shiftRight_16 {n : Nat} (h : n < 65536) : n >>> 16 = 0 := by
  rw [Nat.shiftRight_eq_div_pow]
  omega

theorem ungray_gray (n : Nat) : ungray (gray n) = n % 65536 := by
  have hlt : n % 65536 < 65536 := Nat.mod_lt _ (by decide)
  change shiftXor (n % 65536 ^^^ (n % 65536 / 2)) 16 % 65536 = _
  rw [shiftXor_xor_half, shiftRight_16 hlt, Nat.xor_zero, Nat.mod_mod]

theorem gray_ungray {g : Nat} (h : g < 65536) : gray (ungray g) = g := by
  have hlt : shiftXor g 16 < 65536 :=
    List.foldlRecOn (List.range 16) _ (motive := (· < 65536)) (by decide) fun _ ha i _ => Nat.xor_lt_two_pow (n := 16) ha (lt_of_le_of_lt (Nat.shiftRight_le g i) h)
  change (shiftXor g 16 % 65536 % 65536) ^^^ (shiftXor g 16 % 65536 % 65536 / 2) = g
  rw [Nat.mod_mod, Nat.mod_eq_of_lt hlt, shiftXor_half, shiftRight_16 h, Nat.xor_zero]

/-! ### The registers of the halves (R355) -/

theorem rSeam_lt (e : Bool) : rSeam e < 0x8000 := by cases e <;> decide
theorem rSeam_ne (e : Bool) : rSeam e ≠ rSeam (!e) := by cases e <;> decide

theorem fld_16_lt (s : State) (off : Nat) {hi lo : Nat} (h : hi + 1 - lo = 16) : s.fld off hi lo < 65536 := by
  have := nbits_lt (s.rd off).toNat hi lo
  rw [h] at this
  exact this

/-- EPOCH of a half as its register stands, in s and in t. -/
theorem epochOf_congr {s t : State} {e : Bool} (h : t.fld (rSeam e) 15 0 = s.fld (rSeam e) 15 0) : epochOf t e = epochOf s e := congrArg ungray h

theorem epochOf_epochNext (e : Bool) (s : State) : epochOf (epochNext e s) e = (epochOf s e + 1) % 65536 := by
  have hset : (epochNext e s).fld (rSeam e) 15 0 = gray (epochOf s e + 1) :=
    (State.fld_setFld_self _ _ _ _ _ (by decide) (by decide)).trans (Nat.mod_eq_of_lt (gray_lt _))
  rw [epochOf, hset, ungray_gray]

/-- A half's next epoch is all that changes of its register and the other half's. -/
theorem fld_epochNext_ne (e : Bool) (s : State) {off hi lo : Nat} (h : rSeam e ≠ off ∨ 15 < lo) : (epochNext e s).fld off hi lo = s.fld off hi lo :=
  State.fld_setFld_ne _ _ _ _ _ _ _ _ (by decide) (by decide) (h.imp_right .inr)

theorem flag_epochNext (e : Bool) (s : State) (off : Nat) {i : Nat} (h : 15 < i) : (epochNext e s).flag off i = s.flag off i :=
  State.flag_setFld_ne _ _ _ _ _ _ _ (by decide) (by decide) (.inr (.inr h))

theorem fld_seamRelease_ne (e : Bool) (s : State) {off hi lo : Nat} (h : rSeam e ≠ off ∨ 15 < lo) : (seamRelease e s).fld off hi lo = s.fld off hi lo := by
  unfold seamRelease
  split
  · exact fld_epochNext_ne e s h
  · rfl

theorem flag_seamRelease (e : Bool) (s : State) (off : Nat) {i : Nat} (h : 15 < i) : (seamRelease e s).flag off i = s.flag off i := by
  unfold seamRelease
  split
  · exact flag_epochNext e s off h
  · rfl

theorem seamRelease_odd {e : Bool} {s : State} (h : epochOf s e % 2 = 1) : seamRelease e s = epochNext e s := if_pos h

theorem seamRelease_rest (e : Bool) (s : State) : seamRelease e s = { s with regs := (seamRelease e s).regs } := by
  unfold seamRelease
  split <;> rfl

/-- Once its reset is released a half's epoch is even. -/
theorem epochOf_seamRelease_even (e : Bool) (s : State) : epochOf (seamRelease e s) e % 2 = 0 := by
  by_cases h : epochOf s e % 2 = 1
  · rw [seamRelease_odd h, epochOf_epochNext]
    omega
  · rw [seamRelease, if_neg h]
    omega

/-! ### A flush (R355, R356, R359) -/

theorem errorsOnly_seamLose (from_ receiving : Bool) (n : Nat) (s : State) : ErrorsOnly s (seamLose from_ receiving n s) :=
  List.foldlRecOn _ _ (motive := ErrorsOnly s) (errorsOnly_refl s) fun t ht x _ =>
    (ht.trans (ErrorsOnly.trans (t := t.taken x.1) (errorsOnly_of_rest rfl rfl) (errorsOnly_errFrom ..)))

/-- The half's register through a flush: HOLD and FLUSHING set, DROP counted. -/
theorem errorsOnly_seamFlush (e : Bool) (cut inc : Nat) (s : State) :
    ErrorsOnly (((s.setFld (rSeam e) 32 32 1).setFld (rSeam e) 33 33 1).satFld (rSeam e) 63 48 (cut + inc)) (seamFlush e cut inc s) := by
  have hlose : ErrorsOnly s (seamPorts e (seamLose (!e) true inc (seamLose e false cut s))) :=
    ((errorsOnly_seamLose ..).trans (errorsOnly_seamLose ..)).trans (errorsOnly_of_rest rfl rfl)
  have he := rSeam_lt e
  exact (((hlose.setFld_both he ..).setFld_both he ..).satFld_both he ..).trans (errorsOnly_seamDiscard ..)

/-- From s to t only registers, input ports and outputs changed. -/
def PortsOnly (s t : State) : Prop := t = { s with regs := t.regs, ports := t.ports, grants := t.grants }

theorem PortsOnly.setFld {s t : State} (h : PortsOnly s t) (off hi lo n : Nat) : PortsOnly s (t.setFld off hi lo n) := by
  unfold PortsOnly
  exact congrArg (fun u : State => { u with regs := (t.setFld off hi lo n).regs }) h

theorem seamDiscard_zero (e : Bool) (s : State) : seamDiscard e 0 s = s.satFld (rSeam e) 63 48 0 := rfl

/-- A flush that finds no packet discards none. -/
theorem portsOnly_seamFlush (e : Bool) {s t : State} (h : PortsOnly s t) : PortsOnly s (seamFlush e 0 0 t) := by
  have hlose : ∀ a b, seamLose a b 0 t = t := fun _ _ => rfl
  have hports : PortsOnly s (seamPorts e t) := by
    unfold PortsOnly
    exact congrArg (fun u : State => { u with ports := (seamPorts e t).ports, grants := (seamPorts e t).grants }) h
  unfold seamFlush
  rw [hlose, hlose, Nat.add_zero, seamDiscard_zero]
  exact ((hports.setFld ..).setFld ..).setFld ..

section
variable (e : Bool) (cut inc : Nat) (s : State)

theorem flag_hold_seamFlush : (seamFlush e cut inc s).flag (rSeam e) 32 = true := by
  rw [(errorsOnly_seamFlush ..).flag (rSeam_lt e), State.satFld]
  simp [State.flag_setFld_ne, State.flag_setFld_mem]

theorem flag_flushing_seamFlush : (seamFlush e cut inc s).flag (rSeam e) 33 = true := by
  rw [(errorsOnly_seamFlush ..).flag (rSeam_lt e), State.satFld]
  simp [State.flag_setFld_ne, State.flag_setFld_mem]

theorem flag_clamp_seamFlush : (seamFlush e cut inc s).flag (rSeam e) 34 = s.flag (rSeam e) 34 := by
  rw [(errorsOnly_seamFlush ..).flag (rSeam_lt e), State.satFld]
  simp [State.flag_setFld_ne]

theorem drop_seamFlush : (seamFlush e cut inc s).fld (rSeam e) 63 48 = min (s.fld (rSeam e) 63 48 + (cut + inc)) 65535 := by
  rw [(errorsOnly_seamFlush ..).fld (rSeam_lt e), State.fld_satFld_self _ _ _ _ _ (by decide) (by decide)]
  simp [State.fld_setFld_ne]

/-- The other half's register stands through a flush. -/
theorem rd_other_seamFlush : (seamFlush e cut inc s).rd (rSeam (!e)) = s.rd (rSeam (!e)) := by
  have hne := rSeam_ne e
  rw [(errorsOnly_seamFlush ..).rd _ (rSeam_lt _), rd_satFld_ne _ _ _ _ hne, State.rd_setFld_ne _ _ _ _ hne, State.rd_setFld_ne _ _ _ _ hne]

end

/-! ### The partner's reset (R355) -/

section
variable (e : Bool) (s : State)

theorem portsOnly_seamAssert : PortsOnly s (seamAssert e s) := by
  unfold seamAssert
  dsimp only
  split <;> rfl

theorem flag_hold_seamAssert : (seamAssert e s).flag (rSeam e) 32 = true :=
  (State.flag_setFld_mem _ _ _ _ _ _ (by decide) (by decide) (by decide)).trans rfl

theorem epochOf_seamAssert : epochOf (seamAssert e s) e = if epochOf s e % 2 = 0 then (epochOf s e + 1) % 65536 else epochOf s e := by
  have hset : (seamAssert e s).fld (rSeam e) 15 0 = (if epochOf s e % 2 = 0 then epochNext e s else s).fld (rSeam e) 15 0 :=
    State.fld_setFld_ne _ _ _ _ _ _ _ _ (by decide) (by decide) (by omega)
  rw [epochOf_congr hset]
  split
  · exact epochOf_epochNext e s
  · rfl

theorem rd_other_seamAssert : (seamAssert e s).rd (rSeam (!e)) = s.rd (rSeam (!e)) := by
  have hne := rSeam_ne e
  refine (State.rd_setFld_ne _ _ _ _ hne).trans ?_
  split
  · exact State.rd_setFld_ne _ _ _ _ hne
  · rfl

end

/-! ### The crossing links made fresh (R357) -/

/-- A link's record with its numbers 0 and every credit there. -/
def LinkSt.fresh (l : LinkSt) : LinkSt := { l with unacked := [], nextSeq := 0, expSeq := 0, resends := 0, discarding := false, owed := [], crq := [] }

theorem tfind_map {α : Type} (f : Nat → α → α) (t : Tab α) (i : Nat) : tfind (t.map fun p => (p.1, f p.1 p.2)) i = (tfind t i).map (f i) := by
  induction t with
  | nil => rfl
  | cons p r ih =>
    obtain ⟨k, v⟩ := p
    simp only [List.map_cons, tfind]
    split
    · rename_i h
      rw [h]
      rfl
    · exact ih

theorem linkOfKey_linkKey {k : LinkRef} (h : k.wf = true) : linkOfKey (linkKey k) = k := by
  obtain ⟨kind, at_, dir⟩ := k
  simp only [LinkRef.wf, Bool.and_eq_true, decide_eq_true_eq] at h
  obtain ⟨hat, hdir⟩ := h
  have hkind : linkKey ⟨kind, at_, dir⟩ / 4 / 131072 = kindCode kind := by simp only [linkKey]; omega
  have hplace : linkKey ⟨kind, at_, dir⟩ / 4 % 131072 = at_ := by simp only [linkKey]; omega
  have hturn : linkKey ⟨kind, at_, dir⟩ % 4 = dir := by simp only [linkKey]; omega
  rw [linkOfKey, hkind, hplace, hturn]
  cases kind <;> rfl

theorem link_seamSeqZero {k : LinkRef} (hwf : k.wf = true) (hx : crossesSeam k = true) (s : State) : (seamSeqZero s).link k = (s.link k).fresh := by
  have hmap : (seamSeqZero s).links = s.links.map fun p => (p.1, if crossesSeam (linkOfKey p.1) then p.2.fresh else p.2) := by
    refine List.map_congr_left fun p _ => ?_
    split <;> rfl
  have hfind := tfind_map (fun i l => if crossesSeam (linkOfKey i) then l.fresh else l) s.links (linkKey k)
  simp only [linkOfKey_linkKey hwf, hx, if_true] at hfind
  rw [State.link, hmap, tget, hfind, State.link, tget]
  cases tfind s.links (linkKey k) <;> rfl

/-! ### What waits for a half's links leaves -/

section
variable {s : State} (h : s.ports = [])
include h

theorem foldl_linkGo (ks : List LinkRef) : ks.foldl (fun t k => linkGo k t) s = ks.foldl (fun t k => pumpAll k t) s := by
  induction ks generalizing s with
  | nil => rfl
  | cons k ks ih =>
    simp only [List.foldl_cons, linkGo_of_no_ports h]
    exact ih (by rw [pumpAll_rest]; exact h)

theorem seamGo_rest (e : Bool) : seamGo e s = { s with links := (seamGo e s).links, out := (seamGo e s).out } := by
  unfold seamGo
  rw [foldl_linkGo h]
  exact List.foldlRecOn _ _ (motive := fun t : State => t = { s with links := t.links, out := t.out }) rfl fun t ht k _ => by rw [pumpAll_rest, ht]

/-- A link for which nothing waits stands. -/
theorem link_seamGo_idle (e : Bool) {k : LinkRef} (hw : (s.link k).wait = []) (hc : (s.link k).crq = []) : (seamGo e s).link k = s.link k := by
  unfold seamGo
  rw [foldl_linkGo h]
  refine List.foldlRecOn _ _ (motive := fun t : State => t.link k = s.link k) rfl fun t ht j _ => ?_
  by_cases hk : linkKey j = linkKey k
  · rw [pumpAll_idle (by rw [link_of_key t hk, ht, hw]) (by rw [link_of_key t hk, ht, hc]), ht]
  · rw [link_pumpAll_ne hk, ht]

end

/-- The crossing links are fresh once the half sends again, whatever registers it has set. -/
theorem crossingsFresh_seamGo {r s t : State} (e : Bool) (hp : s.ports = []) (hl : s.links = r.links) (ht : t.ports = s.ports) (htl : t.links = (seamSeqZero s).links) :
    CrossingsFresh r (seamGo e t) := by
  intro k hwf hx hw
  have hlink : t.link k = (r.link k).fresh := by rw [link_congr htl, link_seamSeqZero hwf hx, link_congr hl]
  rw [link_seamGo_idle (ht.trans hp) e (by rw [hlink]; exact hw) (by rw [hlink]; rfl), hlink]
  exact ⟨rfl, rfl, rfl, rfl⟩

/-! ### The partner's even epoch (R357) -/

section
variable (e : Bool) {s : State} (hp : s.ports = [])
include hp

theorem seamEven_rest : seamEven e s =
    { (s.setFld (rSeam e) 31 16 (epochCode s (!e))).setFld (rSeam e) 32 32 0 with links := (seamEven e s).links, out := (seamEven e s).out } := by
  unfold seamEven
  rw [seamGo_rest (s := ((seamSeqZero s).setFld (rSeam e) 31 16 (epochCode s (!e))).setFld (rSeam e) 32 32 0) hp]
  rfl

theorem rd_seamEven (off : Nat) : (seamEven e s).rd off = ((s.setFld (rSeam e) 31 16 (epochCode s (!e))).setFld (rSeam e) 32 32 0).rd off := by
  rw [seamEven_rest e hp]
  rfl

theorem fld_seamEven_ne {off hi lo : Nat} (h : rSeam e ≠ off ∨ hi < 16 ∨ 32 < lo) : (seamEven e s).fld off hi lo = s.fld off hi lo := by
  rw [State.fld, rd_seamEven e hp, ← State.fld, State.fld_setFld_ne _ _ _ _ _ _ _ _ (by decide) (by decide) (by omega),
    State.fld_setFld_ne _ _ _ _ _ _ _ _ (by decide) (by decide) (by omega)]

theorem flag_hold_seamEven : (seamEven e s).flag (rSeam e) 32 = false := by
  rw [State.flag, rd_seamEven e hp, ← State.flag]
  simp [State.flag_setFld_mem]

theorem flag_clamp_seamEven : (seamEven e s).flag (rSeam e) 34 = s.flag (rSeam e) 34 := by
  rw [State.flag, rd_seamEven e hp, ← State.flag]
  simp [State.flag_setFld_ne]

/-- The partner's epoch is echoed. -/
theorem echo_seamEven : (seamEven e s).fld (rSeam e) 31 16 = s.fld (rSeam (!e)) 15 0 := by
  rw [State.fld, rd_seamEven e hp, ← State.fld, State.fld_setFld_ne _ _ _ _ _ _ _ _ (by decide) (by decide) (by omega), State.fld_setFld_self _ _ _ _ _ (by decide) (by decide)]
  exact Nat.mod_eq_of_lt (fld_16_lt s _ rfl)

theorem crossingsFresh_seamEven {r : State} (hl : s.links = r.links) : CrossingsFresh r (seamEven e s) := crossingsFresh_seamGo e hp hl rfl rfl

end

/-! ### The commands of the seam -/

section
variable {e : Bool} {s : State}

theorem exec_seamPartnerReset (h : ¬ (epochOf s (!e) % 2 = 1 ∧ s.fld (rSeam e) 31 16 = s.fld (rSeam (!e)) 15 0)) (hc : s.flag (rSeam e) 34 = false) (cut inc : Nat) :
    exec (.seamPartnerReset e cut inc) s = .next (seamFlush e cut inc (seamAssert (!e) s)) :=
  if_neg fun hor => hor.elim h (by simp [hc])

theorem exec_seamPartnerReset_known (h : (epochOf s (!e) % 2 = 1 ∧ s.fld (rSeam e) 31 16 = s.fld (rSeam (!e)) 15 0) ∨ s.flag (rSeam e) 34 = true) (cut inc : Nat) :
    exec (.seamPartnerReset e cut inc) s = .next s := if_pos h

theorem exec_seamFlushDone (h : s.flag (rSeam e) 33 = true) :
    exec (.seamFlushDone e) s = .next ((s.setFld (rSeam e) 33 33 0).setFld (rSeam e) 31 16 (s.fld (rSeam (!e)) 15 0)) := if_pos h

theorem exec_seamPartnerRelease (hodd : epochOf s (!e) % 2 = 1) (hecho : s.fld (rSeam e) 31 16 = s.fld (rSeam (!e)) 15 0) (hf : s.flag (rSeam e) 33 = false) (hc : s.flag (rSeam e) 34 = false) :
    exec (.seamPartnerRelease e) s = .next (seamEven e (epochNext (!e) s)) := by
  rw [← seamRelease_odd hodd]
  refine if_pos ⟨?_, hf, hc⟩
  rw [if_pos hodd, epochOf, gray_ungray (fld_16_lt s _ rfl)]
  exact hecho

theorem exec_seamResetRelease (h : epochOf s e % 2 = 0) (hecho : s.fld (rSeam (!e)) 31 16 = s.fld (rSeam e) 15 0) (hc : s.flag (rSeam e) 34 = false) :
    exec (.seamResetRelease e) s = .next (seamGo e ((seamSeqZero s).setFld (rSeam e) 32 32 0)) := if_pos ⟨h, hecho, hc⟩

theorem exec_seamResetRelease_waits (h : epochOf s e % 2 = 1 ∨ s.fld (rSeam (!e)) 31 16 ≠ s.fld (rSeam e) 15 0 ∨ s.flag (rSeam e) 34 = true) : exec (.seamResetRelease e) s = .next s := by
  refine if_neg fun hc => ?_
  obtain ⟨heven, hecho, hclamp⟩ := hc
  rcases h with h | h | h
  · omega
  · exact h hecho
  · simp [hclamp] at h

theorem exec_seamPartnerOff (cut inc : Nat) : exec (.seamPartnerOff e cut inc) s = .next (seamFlush e cut inc (s.setFld (rSeam e) 34 34 1)) := rfl

/-- The clamps open and both halves released. -/
def bothReleased (e : Bool) (s : State) : State := seamRelease (!e) (seamRelease e (s.setFld (rSeam e) 34 34 0))

theorem exec_seamClampOpen (h : s.flag (rSeam e) 34 = true) : exec (.seamClampOpen e) s =
    .next (if (bothReleased e s).fld (rSeam (!e)) 31 16 = (bothReleased e s).fld (rSeam e) 15 0 then seamEven e (bothReleased e s)
      else (bothReleased e s).setFld (rSeam e) 31 16 ((bothReleased e s).fld (rSeam (!e)) 15 0)) := if_pos h

theorem exec_seamClampOpen_open (h : s.flag (rSeam e) 34 = false) : exec (.seamClampOpen e) s = .next s := if_neg (by simp [h])

end

section
variable (e : Bool) (s : State)

theorem bothReleased_rest : bothReleased e s = { s with regs := (bothReleased e s).regs } := by
  rw [bothReleased, seamRelease_rest, seamRelease_rest]
  rfl

theorem flag_clamp_bothReleased : (bothReleased e s).flag (rSeam e) 34 = false := by
  rw [bothReleased, flag_seamRelease _ _ _ (by decide), flag_seamRelease _ _ _ (by decide)]
  simp [State.flag_setFld_mem]

theorem flag_hold_bothReleased : (bothReleased e s).flag (rSeam e) 32 = s.flag (rSeam e) 32 := by
  rw [bothReleased, flag_seamRelease _ _ _ (by decide), flag_seamRelease _ _ _ (by decide)]
  simp [State.flag_setFld_ne]

theorem epochOf_bothReleased : epochOf (bothReleased e s) e % 2 = 0 := by
  have hkept : (bothReleased e s).fld (rSeam e) 15 0 = (seamRelease e (s.setFld (rSeam e) 34 34 0)).fld (rSeam e) 15 0 := fld_seamRelease_ne _ _ (.inl (rSeam_ne e).symm)
  rw [epochOf_congr hkept]
  exact epochOf_seamRelease_even ..

theorem epochOf_other_bothReleased : epochOf (bothReleased e s) (!e) % 2 = 0 := epochOf_seamRelease_even ..

end

/-! ### The halves -/

section
variable {e : Bool} {s : State}

/-- The clamps opened: what holds of the state whether or not the partner has echoed this half's epoch. -/
theorem seamClampOpen_spec (h : s.flag (rSeam e) 34 = true) (hp : s.ports = []) : ∃ t, exec (.seamClampOpen e) s = .next t ∧ t.flag (rSeam e) 34 = false ∧ epochOf t e % 2 = 0 ∧ epochOf t (!e) % 2 = 0 ∧
    t.fld (rSeam e) 31 16 = t.fld (rSeam (!e)) 15 0 ∧ (t.fld (rSeam (!e)) 31 16 = t.fld (rSeam e) 15 0 → t.flag (rSeam e) 32 = false ∧ CrossingsFresh s t) ∧
    (t.fld (rSeam (!e)) 31 16 ≠ t.fld (rSeam e) 15 0 → t.flag (rSeam e) 32 = s.flag (rSeam e) 32 ∧ t.links = s.links) ∧ t = { s with regs := t.regs, links := t.links, out := t.out } := by
  have hne := rSeam_ne e
  have hrest := bothReleased_rest e s
  have heven := epochOf_bothReleased e s
  have hother := epochOf_other_bothReleased e s
  have hclamp := flag_clamp_bothReleased e s
  have hhold := flag_hold_bothReleased e s
  have hports : (bothReleased e s).ports = [] := by rw [hrest]; exact hp
  have hlinks : (bothReleased e s).links = s.links := by rw [hrest]
  rw [exec_seamClampOpen h]
  generalize bothReleased e s = u at hrest heven hother hclamp hhold hports hlinks ⊢
  by_cases hecho : u.fld (rSeam (!e)) 31 16 = u.fld (rSeam e) 15 0
  · rw [if_pos hecho]
    have hkept : ∀ {hi lo}, hi < 16 → (seamEven e u).fld (rSeam e) hi lo = u.fld (rSeam e) hi lo := fun hh => fld_seamEven_ne e hports (.inr (.inl hh))
    have hpartner : ∀ {hi lo}, (seamEven e u).fld (rSeam (!e)) hi lo = u.fld (rSeam (!e)) hi lo := fld_seamEven_ne e hports (.inl hne)
    refine ⟨_, rfl, (flag_clamp_seamEven e hports).trans hclamp, ?_, ?_, (echo_seamEven e hports).trans hpartner.symm,
      fun _ => ⟨flag_hold_seamEven e hports, crossingsFresh_seamEven e hports hlinks⟩, fun hno => ?_, ?_⟩
    · rwa [epochOf_congr (hkept (by decide))]
    · rwa [epochOf_congr hpartner]
    · rw [hpartner, hkept (by decide)] at hno
      exact absurd hecho hno
    · rw [seamEven_rest e hports, hrest]
      rfl
  · rw [if_neg hecho]
    have hkept : ∀ {hi lo}, hi < 16 → (u.setFld (rSeam e) 31 16 (u.fld (rSeam (!e)) 15 0)).fld (rSeam e) hi lo = u.fld (rSeam e) hi lo := fun hh =>
      State.fld_setFld_ne _ _ _ _ _ _ _ _ (by decide) (by decide) (by omega)
    have hpartner : ∀ {hi lo}, (u.setFld (rSeam e) 31 16 (u.fld (rSeam (!e)) 15 0)).fld (rSeam (!e)) hi lo = u.fld (rSeam (!e)) hi lo :=
      State.fld_setFld_ne _ _ _ _ _ _ _ _ (by decide) (by decide) (.inl hne)
    refine ⟨_, rfl, (State.flag_setFld_ne _ _ _ _ _ _ _ (by decide) (by decide) (by omega)).trans hclamp, ?_, ?_, ?_, fun hyes => ?_, fun _ => ⟨?_, hlinks⟩, ?_⟩
    · rwa [epochOf_congr (hkept (by decide))]
    · rwa [epochOf_congr hpartner]
    · rw [hpartner, State.fld_setFld_self _ _ _ _ _ (by decide) (by decide)]
      exact Nat.mod_eq_of_lt (fld_16_lt u _ rfl)
    · rw [hpartner, hkept (by decide)] at hyes
      exact absurd hyes hecho
    · exact (State.flag_setFld_ne _ _ _ _ _ _ _ (by decide) (by decide) (by omega)).trans hhold
    · rw [hrest]
      rfl

end

theorem seamHalves : Claims.SeamHalves := by
  intro e s
  have hne := rSeam_ne e
  refine ⟨fun h hc cut inc => ⟨_, exec_seamPartnerReset h hc cut inc, flag_hold_seamFlush .., flag_flushing_seamFlush .., ?_, ?_, ?_, ?_⟩, fun h cut inc => exec_seamPartnerReset_known h cut inc,
    fun h => ⟨_, exec_seamFlushDone h, ?_, ?_, rfl⟩, fun hodd hecho hf hc hp => ⟨_, exec_seamPartnerRelease hodd hecho hf hc, ?_, ?_, flag_hold_seamEven e (s := epochNext (!e) s) hp, crossingsFresh_seamEven e (s := epochNext (!e) s) hp rfl, ?_⟩,
    fun heven hecho hc hp => ⟨_, exec_seamResetRelease heven hecho hc, ?_, crossingsFresh_seamGo e hp rfl rfl rfl⟩, exec_seamResetRelease_waits,
    fun cut inc => ⟨_, exec_seamPartnerOff cut inc, ?_, flag_hold_seamFlush .., flag_flushing_seamFlush .., ?_, ?_⟩, seamClampOpen_spec, exec_seamClampOpen_open⟩
  · rw [State.flag, rd_other_seamFlush, ← State.flag, flag_hold_seamAssert]
  · rw [epochOf_congr (s := seamAssert (!e) s) (by rw [State.fld, rd_other_seamFlush, ← State.fld]), epochOf_seamAssert]
  · have hrd : (seamAssert (!e) s).rd (rSeam e) = s.rd (rSeam e) := by simpa using rd_other_seamAssert (!e) s
    rw [drop_seamFlush, State.fld, hrd, ← State.fld]
  · rintro rfl rfl
    exact portsOnly_seamFlush e (portsOnly_seamAssert ..)
  · simp [State.flag_setFld_ne, State.flag_setFld_mem]
  · rw [State.fld_setFld_self _ _ _ _ _ (by decide) (by decide)]
    exact Nat.mod_eq_of_lt (fld_16_lt s _ rfl)
  · rw [epochOf_congr (fld_seamEven_ne e (s := epochNext (!e) s) hp (.inl hne)), epochOf_epochNext]
  · exact (echo_seamEven e (s := epochNext (!e) s) hp).trans (fld_seamEven_ne e (s := epochNext (!e) s) hp (.inl hne)).symm
  · rw [seamEven_rest (s := epochNext (!e) s) e hp]
    rfl
  · rw [seamGo_rest (s := (seamSeqZero s).setFld (rSeam e) 32 32 0) hp]
    rfl
  · simp [flag_clamp_seamFlush, State.flag_setFld_mem]
  · simp [drop_seamFlush, State.fld_setFld_ne]
  · rintro rfl rfl
    exact portsOnly_seamFlush e (PortsOnly.setFld (t := s) rfl ..)

/-- Settles O45, by the life of a link, the heartbeats and the halves of the seam. The model's choice (SPEC.md) are the acknowledgment that leaves at once in an ack-only flit (entry 87), the direction that a catalogue lane counts for (entry 89), where a dead link is counted and the handshake of the seam in Gray code (entry 24), and the reset of a half without power (entry 88). -/
theorem links : Obligations.Links := ⟨linkLife, heartbeats, seamHalves⟩

end Sys2Proof.Machine
end

section
/-! The canonical form of the tables by address: every command keeps it, and so does every step (R363, R370). -/

namespace Sys2Proof.Machine

/-- Every command answers a next state and keeps what `Keeps` names: by its meaning, one lemma for each. -/
theorem exec_keeps (i : Instr) (s : State) : KeepsR s (exec i s) :=
  have h := keeps_refl s
  match i with
  | .coldReset => execColdReset_keeps h | .warmReset => execWarmReset_keeps h | .modPwrenHigh => execModPwrenHigh_keeps h | .modPwrenLow => execModPwrenLow_keeps h
  | .powerUpSequenceStep => execPowerUpSequenceStep_keeps h | .railPowerGoodTimeout => execRailPowerGoodTimeout_keeps h | .perstAssert => execPerstAssert_keeps h | .epoN => execEpoN_keeps h
  | .inputLost => execInputLost_keeps h | .clipOvercurrent b => execClipOvercurrent_keeps b h | .clipRestored => execClipRestored_keeps h
  | .thermWarnNChange asserted => execThermWarnNChange_keeps asserted h | .thermWarnNGlitch samples => execThermWarnNGlitch_keeps samples h
  | .thermWarnNReminder => execThermWarnNReminder_keeps h | .thermWarnNNoisy => execThermWarnNNoisy_keeps h | .thermWarnNQuiet low => execThermWarnNQuiet_keeps low h
  | .epoNGlitch samples => execEpoNGlitch_keeps samples h | .sync1ppsEdge => execSync1ppsEdge_keeps h | .sync1ppsIgnored => execSync1ppsIgnored_keeps h | .ppsAbsent => execPpsAbsent_keeps h
  | .add c => execAdd_keeps c h | .sub c => execSub_keeps c h | .and c => execAnd_keeps c h | .or c => execOr_keeps c h | .xor c => execXor_keeps c h | .shl c => execShl_keeps c h
  | .shr c => execShr_keeps c h | .sra c => execSra_keeps c h | .mul c => execMul_keeps c h | .mulhu c => execMulhu_keeps c h | .mulhs c => execMulhs_keeps c h | .min c => execMin_keeps c h
  | .max c => execMax_keeps c h | .minu c => execMinu_keeps c h | .maxu c => execMaxu_keeps c h | .slt c => execSlt_keeps c h | .sltu c => execSltu_keeps c h | .seq c => execSeq_keeps c h
  | .sel c => execSel_keeps c h | .faddD c => execFaddD_keeps c h | .fsubD c => execFsubD_keeps c h | .fmulD c => execFmulD_keeps c h | .fmaD c => execFmaD_keeps c h
  | .faddF c => execFaddF_keeps c h | .fsubF c => execFsubF_keeps c h | .fmulF c => execFmulF_keeps c h | .fmaF c => execFmaF_keeps c h | .fcvtFD c => execFcvtFD_keeps c h
  | .fcvtDF c => execFcvtDF_keeps c h | .fcvtID c => execFcvtID_keeps c h | .fcvtDI c => execFcvtDI_keeps c h | .fltD c => execFltD_keeps c h | .feqD c => execFeqD_keeps c h
  | .addi c => execAddi_keeps c h | .andi c => execAndi_keeps c h | .ori c => execOri_keeps c h | .xori c => execXori_keeps c h | .shli c => execShli_keeps c h
  | .shri c => execShri_keeps c h | .srai c => execSrai_keeps c h | .slti c => execSlti_keeps c h | .sltui c => execSltui_keeps c h | .li c => execLi_keeps c h | .lih c => execLih_keeps c h
  | .ld c => execLd_keeps c h | .st c => execSt_keeps c h | .branch c => execBranch_keeps c h | .jmp c => execJmp_keeps c h | .call c => execCall_keeps c h | .jr c => execJr_keeps c h
  | .dbnz c => execDbnz_keeps c h | .nop c => execNop_keeps c h | .stop c => execStop_keeps c h | .brk c => execBrk_keeps c h | .sysRd c => execSysRd_keeps c h
  | .sysWr c => execSysWr_keeps c h | .fenceT c => execFenceT_keeps c h | .fenceS c => execFenceS_keeps c h | .fence c => execFence_keeps c h | .vadd c => execVadd_keeps c h
  | .vsub c => execVsub_keeps c h | .vmul c => execVmul_keeps c h | .vfma c => execVfma_keeps c h | .vmin c => execVmin_keeps c h | .vmax c => execVmax_keeps c h
  | .vabs c => execVabs_keeps c h | .vneg c => execVneg_keeps c h | .vcmp c => execVcmp_keeps c h | .vsel c => execVsel_keeps c h | .vdiv c => execVdiv_keeps c h
  | .vsqrt c => execVsqrt_keeps c h | .vbcast c => execVbcast_keeps c h | .vext c => execVext_keeps c h | .vins c => execVins_keeps c h | .vcvt c => execVcvt_keeps c h
  | .vmov c => execVmov_keeps c h | .vand c => execVand_keeps c h | .vor c => execVor_keeps c h | .vxor c => execVxor_keeps c h | .vshl c => execVshl_keeps c h
  | .vshr c => execVshr_keeps c h | .vsra c => execVsra_keeps c h | .vssq c => execVssq_keeps c h | .vmvar c => execVmvar_keeps c h | .vld c => execVld_keeps c h
  | .vldP c => execVldP_keeps c h | .vldS c => execVldS_keeps c h | .vldX c => execVldX_keeps c h | .vldB c => execVldB_keeps c h | .vst c => execVst_keeps c h
  | .vstP c => execVstP_keeps c h | .vstS c => execVstS_keeps c h | .vstX c => execVstX_keeps c h | .pset c => execPset_keeps c h | .pand c => execPand_keeps c h
  | .por c => execPor_keeps c h | .pxor c => execPxor_keeps c h | .pandn c => execPandn_keeps c h | .pnot c => execPnot_keeps c h | .pfrom c => execPfrom_keeps c h
  | .pto c => execPto_keeps c h | .pcnt c => execPcnt_keeps c h | .tld c => execTld_keeps c h | .tmac c => execTmac_keeps c h | .tclr c => execTclr_keeps c h
  | .temit c => execTemit_keeps c h | .tsumRow c => execTsumRow_keeps c h | .tsumCol c => execTsumCol_keeps c h | .arrayInstructionStart c mac => execArrayInstructionStart_keeps c mac h
  | .arrayInstructionDone c mac => execArrayInstructionDone_keeps c mac h | .send c => execSend_keeps c h | .sendMc c => execSendMc_keeps c h | .sendRead c => execSendRead_keeps c h
  | .waitTok c => execWaitTok_keeps c h | .waitTokComplete c => execWaitTokComplete_keeps c h | .clrTok c => execClrTok_keeps c h | .sigTok c => execSigTok_keeps c h
  | .barCoh c => execBarCoh_keeps c h | .barrierRelease f => execBarrierRelease_keeps f h | .lateAdmissionBegin c => execLateAdmissionBegin_keeps c h
  | .tokenArrival c tok gen => execTokenArrival_keeps c tok gen h | .run c value => execRun_keeps c value h | .halt c => execHalt_keeps c h | .step1 c => execStep1_keeps c h
  | .haltTaken c => execHaltTaken_keeps c h | .breakpointHit c => execBreakpointHit_keeps c h | .sequencerWatchdog c => execSequencerWatchdog_keeps c h
  | .waitLimitExceeded c => execWaitLimitExceeded_keeps c h | .counterWrap c busy => execCounterWrap_keeps c busy h
  | .correctedWriteback c instr word => execCorrectedWriteback_keeps c instr word h | .wr p => execWr_keeps p h | .wra p => execWra_keeps p h | .rd p => execRd_keeps p h
  | .rdata p => execRdata_keeps p h | .wack p => execWack_keeps p h | .err p => execErr_keeps p h | .fsw p => execFsw_keeps p h | .lsend p => execLsend_keeps p h
  | .mcw p => execMcw_keeps p h | .hb c dir => execHb_keeps c dir h | .hbSend c => execHbSend_keeps c h | .heartbeatLoss c dir => execHeartbeatLoss_keeps c dir h
  | .reservedTypeDiscard c head => execReservedTypeDiscard_keeps c head h | .flitReceive k b => execFlitReceive_keeps k b h | .nak k ackseq => execNak_keeps k ackseq h
  | .linkReplayTimeout k => execLinkReplayTimeout_keeps k h | .linkRetrain k => execLinkRetrain_keeps k h | .linkRetrainDone k failing => execLinkRetrainDone_keeps k failing h
  | .linkTraining k failing => execLinkTraining_keeps k failing h | .seamPartnerReset east cut incomplete => execSeamPartnerReset_keeps east cut incomplete h
  | .seamFlushDone east => execSeamFlushDone_keeps east h | .seamPartnerRelease east => execSeamPartnerRelease_keeps east h | .seamResetRelease east => execSeamResetRelease_keeps east h
  | .seamPartnerOff east cut incomplete => execSeamPartnerOff_keeps east cut incomplete h | .seamClampOpen east => execSeamClampOpen_keeps east h
  | .granuleRead g first last engine bad mended malformed => execGranuleRead_keeps g first last engine bad mended malformed h
  | .granuleWrite addr data engine => execGranuleWrite_keeps addr data engine h | .slotClose l g => execSlotClose_keeps l g h | .migrationDone g => execMigrationDone_keeps g h
  | .eviction l => execEviction_keeps l h | .scrubRead l vault addr o last => execScrubRead_keeps l vault addr o last h | .homeApply => execHomeApply_keeps h
  | .hint l arg first count => execHint_keeps l arg first count h | .setelem l arg first count => execSetelem_keeps l arg first count h
  | .discard l first count => execDiscard_keeps l first count h | .flush l first count => execFlush_keeps l first count h | .migCmdDone l => execMigCmdDone_keeps l h
  | .hostWindowAccess addr write len data => execHostWindowAccess_keeps addr write len data h | .arm l chan arg => execArm_keeps l chan arg h
  | .setgen l chan value => execSetgen_keeps l chan value h | .slewCancel l chan => execSlewCancel_keeps l chan h | .slewChannelStart l => execSlewChannelStart_keeps l h
  | .slewTransferComplete l chan => execSlewTransferComplete_keeps l chan h | .channelWindowWrite l chan word value => execChannelWindowWrite_keeps l chan word value h
  | .slwCqTailWrite l value => execSlwCqTailWrite_keeps l value h | .fsmcDelivery l chan => execFsmcDelivery_keeps l chan h
  | .occulterSlotFilled f truth slot => execOcculterSlotFilled_keeps f truth slot h | .clear f => execClear_keeps f h | .frameReceive port fr => execFrameReceive_keeps port fr h
  | .data l => execData_keeps l h | .ack l => execAck_keeps l h | .roll l => execRoll_keeps l h | .ackSend l flow => execAckSend_keeps l flow h
  | .resend l flow seq => execResend_keeps l flow seq h | .rollCallSend l => execRollCallSend_keeps l h | .peerAbsent peer => execPeerAbsent_keeps peer h
  | .flowTableWrite l flow word value => execFlowTableWrite_keeps l flow word value h | .peerTableWrite l peer word value => execPeerTableWrite_keeps l peer word value h
  | .moduleIdWrite value => execModuleIdWrite_keeps value h | .portEnable port en => execPortEnable_keeps port en h | .start l plan rtag => execStart_keeps l plan rtag h
  | .planCancel l plan => execPlanCancel_keeps l plan h | .planRunComplete l plan => execPlanRunComplete_keeps l plan h
  | .responseBoundExceeded l plan => execResponseBoundExceeded_keeps l plan h | .stepScalarBegin l plan => execStepScalarBegin_keeps l plan h
  | .gradientVectorClose => execGradientVectorClose_keeps h | .updateVectorClose => execUpdateVectorClose_keeps h
  | .ptpSync port t1 t2 correction => execPtpSync_keeps port t1 t2 correction h | .pdelayReq port => execPdelayReq_keeps port h
  | .delayResp port t4 correction logInterval => execDelayResp_keeps port t4 correction logInterval h | .delayReqSend port => execDelayReqSend_keeps port h
  | .announce port => execAnnounce_keeps port h | .stepOutcomeDecision => execStepOutcomeDecision_keeps h | .updateStart => execUpdateStart_keeps h
  | .directedSlotWrite slot value => execDirectedSlotWrite_keeps slot value h | .directedDeadline => execDirectedDeadline_keeps h | .uProgramBatch l seg => execUProgramBatch_keeps l seg h
  | .sweepComplete l => execSweepComplete_keeps l h | .controlBankWrite => execControlBankWrite_keeps h | .commit steptag => execCommit_keeps steptag h | .init => execInit_keeps h
  | .take => execTake_keeps h | .plateCancel => execPlateCancel_keeps h | .verify rsel slot shard => execVerify_keeps rsel slot shard h
  | .restore rsel slot shard => execRestore_keeps rsel slot shard h | .delta slot bslot => execDelta_keeps slot bslot h | .plateApply slot => execPlateApply_keeps slot h
  | .mark slot => execMark_keeps slot h | .plateCommandDone => execPlateCommandDone_keeps h | .snapDone => execSnapDone_keeps h | .copyDone => execCopyDone_keeps h
  | .digestDone => execDigestDone_keeps h | .signDone => execSignDone_keeps h | .plateConfigWrite off value => execPlateConfigWrite_keeps off value h
  | .escalationArrival d => execEscalationArrival_keeps d h | .limbHoldEnd l => execLimbHoldEnd_keeps l h | .clearActive d nseq => execClearActive_keeps d nseq h
  | .clearPending d nseq => execClearPending_keeps d nseq h | .correctedBatch d => execCorrectedBatch_keeps d h | .nlogRecordWrite => execNlogRecordWrite_keeps h
  | .nlogInterrupt => execNlogInterrupt_keeps h | .fieldOff f => execFieldOff_keeps f h | .fieldOn f => execFieldOn_keeps f h | .hemiOff t => execHemiOff_keeps t h
  | .hemiOn t => execHemiOn_keeps t h | .domeRequestDone => execDomeRequestDone_keeps h | .bringup => execBringup_keeps h
  | .sequenceStepDone domain op ok => execSequenceStepDone_keeps domain op ok h | .dvfsStepDone f => execDvfsStepDone_keeps f h | .clockStretch island => execClockStretch_keeps island h
  | .lockLoss island => execLockLoss_keeps island h | .thermalSample fields limbs => execThermalSample_keeps fields limbs h | .capTRise f => execCapTRise_keeps f h
  | .capTFall f => execCapTFall_keeps f h | .limbDiodesInvalid l => execLimbDiodesInvalid_keeps l h | .limbUnthrottle l => execLimbUnthrottle_keeps l h
  | .powerSample smp => execPowerSample_keeps smp h | .capPRise => execCapPRise_keeps h | .capPFall => execCapPFall_keeps h
  | .sensorSample fields limbs pcieSeam => execSensorSample_keeps fields limbs pcieSeam h | .neighborTestDone votes => execNeighborTestDone_keeps votes h | .sliceDue => execSliceDue_keeps h
  | .runNext => execRunNext_keeps h | .sliceRun q => execSliceRun_keeps q h | .sliceCancel => execSliceCancel_keeps h | .nbr f => execNbr_keeps f h | .fuse => execFuse_keeps h
  | .fuseDone readback => execFuseDone_keeps readback h | .sliceSaveDone => execSliceSaveDone_keeps h | .slicePatternsDone ran => execSlicePatternsDone_keeps ran h
  | .sliceRestoreDone => execSliceRestoreDone_keeps h | .siderealBroadcast => execSiderealBroadcast_keeps h | .chrTimeSet ns => execChrTimeSet_keeps ns h
  | .lockLostTimeout => execLockLostTimeout_keeps h | .stallExceededSlack f stall => execStallExceededSlack_keeps f stall h
  | .durationSaturated unit word => execDurationSaturated_keeps unit word h | .chronographRecordWrite => execChronographRecordWrite_keeps h
  | .doorbell ring prod => execDoorbell_keeps ring prod h | .launchRingEnable ring => execLaunchRingEnable_keeps ring h | .commandFetch ring words => execCommandFetch_keeps ring words h
  | .lrNop ring => execLrNop_keeps ring h | .launch ring => execLaunch_keeps ring h | .abandon ring => execAbandon_keeps ring h | .lrArm ring => execLrArm_keeps ring h
  | .lrPlan ring => execLrPlan_keeps ring h | .load ring source => execLoad_keeps ring source h | .fstart ring => execFstart_keeps ring h | .quiesce ring => execQuiesce_keeps ring h
  | .lrWrite ring => execLrWrite_keeps ring h | .fieldStart f => execFieldStart_keeps f h | .fieldQuiesce f => execFieldQuiesce_keeps f h
  | .completionEntryWrite ring => execCompletionEntryWrite_keeps ring h | .clampRecordWrite => execClampRecordWrite_keeps h
  | .bar0Access write off size value => execBar0Access_keeps write off size value h | .bar2Access write off len data => execBar2Access_keeps write off len data h
  | .barReadTimeout bar off => execBarReadTimeout_keeps bar off h | .linkDown => execLinkDown_keeps h | .warm value => execWarm_keeps value h
  | .serviceLevelChange => execServiceLevelChange_keeps h | .registerWrite off value => execRegisterWrite_keeps off value h | .registerRcRead off => execRegisterRcRead_keeps off h
  | .bootStageDone => execBootStageDone_keeps h | .extend => execExtend_keeps h | .quote => execQuote_keeps h | .getcert => execGetcert_keeps h | .bootChal => execBootChal_keeps h
  | .unlock => execUnlock_keeps h | .relock => execRelock_keeps h | .flash => execFlash_keeps h | .select => execSelect_keeps h | .rollfwd => execRollfwd_keeps h
  | .bootCommandDone readbackOk => execBootCommandDone_keeps readbackOk h | .idcode => execIdcode_keeps h | .bypass => execBypass_keeps h | .tapChal => execTapChal_keeps h
  | .token bytes => execToken_keeps bytes h | .xportRead tag addr len => execXportRead_keeps tag addr len h | .xportWrite tag addr len data => execXportWrite_keeps tag addr len data h
  | .xportHalt tag addr => execXportHalt_keeps tag addr h | .xportStep tag addr => execXportStep_keeps tag addr h | .xportResume tag addr => execXportResume_keeps tag addr h
  | .xportStatus tag addr => execXportStatus_keeps tag addr h | .portLinkChange port up => execPortLinkChange_keeps port up h | .hostLinkUp rate width => execHostLinkUp_keeps rate width h
  | .perstDeassert refclk => execPerstDeassert_keeps refclk h | .hostCompletion tag status data => execHostCompletion_keeps tag status data h
  | .completionTimeout tag => execCompletionTimeout_keeps tag h | .epoLatchClear => execEpoLatchClear_keeps h | .inputRestored b => execInputRestored_keeps b h
  | .powerHoldOffEnd => execPowerHoldOffEnd_keeps h | .supplyRecovery island => execSupplyRecovery_keeps island h | .msixTableWrite off value => execMsixTableWrite_keeps off value h
  | .pciPowerStateChange d3hot => execPciPowerStateChange_keeps d3hot h | .uncorrectableErrorReceived status => execUncorrectableErrorReceived_keeps status h

theorem step_of_pending_nil {s : State} (h : s.pending = []) : step s = .next (tick s) := by rw [step, h]
theorem step_of_pending_cons {s : State} {c : Instr} {rest : List Instr} (h : s.pending = c :: rest) : step s = exec c { s with pending := rest } := by rw [step, h]

/-- Settles O13: a step is the passing of time or one command, and both keep the invariant. -/
theorem stepKeepsTables : Obligations.StepKeepsTables := by
  intro s t hs hstep
  cases hp : s.pending with
  | nil =>
    obtain rfl := Host.Outcome.next.inj ((step_of_pending_nil hp).symm.trans hstep)
    exact (tick_keeps (keeps_refl s)).inv hs
  | cons c rest =>
    obtain ⟨u, hu, hkeeps⟩ := exec_keeps c { s with pending := rest }
    obtain rfl := Host.Outcome.next.inj (((step_of_pending_cons hp).trans hu).symm.trans hstep)
    exact hkeeps.inv ⟨hs.mem, hs.poison, hs.regs, hs.cores, hs.fieldStores⟩

/-- Settles O14: after reset the registers list one entry, and the other tables none. -/
theorem resetMeetsInvariant : Obligations.ResetMeetsInvariant where
  mem := (memory_wf_iff _).2 (canon_nil 0)
  poison := (poison_iff _).2 (canon_nil false)
  regs := List.pairwise_singleton _ _
  cores := List.Pairwise.nil
  fieldStores := List.Pairwise.nil

end Sys2Proof.Machine
end

section
/-! PERST# from boot stage 5 on: the warm reset that it makes ends with the Plate engine's reads of the slot headers (R611, R845). -/

namespace Sys2Proof.Machine
open Sys2Proof.Claims

theorem tfind_map_value {α : Type} (t : Tab α) (f : Nat → α → α) (i : Nat) : tfind (t.map fun p => (p.1, f p.1 p.2)) i = (tfind t i).map (f i) := by
  induction t with
  | nil => rfl
  | cons p t ih =>
    rw [List.map_cons, tfind, tfind]
    split
    · rename_i h
      rw [Option.map_some, ← h]
    · exact ih

/-- With L0 alone active, at step 7 and PLT_CFG and PLT_BASE as they reset, a warm reset leaves 7 in LAST of the granule where slot 1 begins. -/
theorem entry_warmReset_slot1 {s : State} (hm : s.migs = []) (hs : ∀ l, (s.limb l).slots = []) (hcfg : tfind s.regs rPltCfg = none) (hbase : tfind s.regs 0x7008 = none)
    (hstep : tfind s.regs rStepCnt = some 7) (hhome : tfind s.regs rModHome = some (2 ^ 40)) : (warmReset s).entry (2 ^ 20) = setBits (s.entry (2 ^ 20)) 47 32 7 := by
  obtain ⟨b, heq, hregs, hres⟩ := warmReset_eq s
  rw [warmStore_eq_self hm hs] at hregs hres
  have hsame : SameModule b (faultPin (capAll b)) := sameModule_trans (sameModule_capAll b) (sameModule_faultPin _)
  have hrd : ∀ off < 0x8000, (faultPin (capAll b)).rd off = ((tfind s.regs off).map (warmReg off)).getD (resetValue off) := fun off ho => by
    rw [hsame.2 off ho, State.rd, hregs, tfind_map_value]
    cases tfind s.regs off <;> rfl
  have hactive : activeLimbs (faultPin (capAll b)) ≠ [] := by
    rw [activeLimbs, State.fld, hrd _ (by decide), hhome]
    decide +kernel
  have hcount : stepCnt (faultPin (capAll b)) = 7 := by
    rw [stepCnt, hrd _ (by decide), hstep]
    decide +kernel
  have hentry : (faultPin (capAll b)).entry (2 ^ 20) = s.entry (2 ^ 20) := by rw [State.entry, hsame.1, hres, State.entry]
  rw [heq, entry_learnSlots (by rw [hrd _ (by decide), hcfg]; rfl) (by rw [hrd _ (by decide), hbase]; rfl) hactive, hentry, hcount]
  rfl

/-- L0 alone active, at step 7 in boot stage 5, everything else as State.reset has it. -/
def activeAtStage5 : State := { State.reset with regs := [(rStepCnt, 7), (rModHome, 2 ^ 40), (0xF000, 5)] }

theorem entry_endpointReset (s : State) (g : Nat) : (endpointReset s).entry g = s.entry g := rfl

theorem exec_perstAssert_stage5 : exec .perstAssert activeAtStage5 = .next (endpointReset (warmReset (activeAtStage5.modTray fun t => { t with perst := true }))) := by
  have hup : ¬ activeAtStage5.tray.seq < 6 := by decide
  have hstage : 5 ≤ bootStage activeAtStage5 := by decide +kernel
  change execPerstAssert activeAtStage5 = _
  rw [execPerstAssert, if_neg hup, if_pos hstage]

/-- Refutes O39: PERST# in boot stage 5 makes a warm reset, after which the Plate engine reads the header of slot 1 (R611); with PLT_CFG's reset value of 64 GiB a slot it stands in granule 2^20, whose LAST takes the step counter, whereas the statement lets only the entries of granules 0 and 16384 change. -/
theorem not_endpoint : ¬ Obligations.Endpoint := by
  rintro ⟨hlink, -⟩
  obtain ⟨-, hperst, -⟩ := hlink activeAtStage5
  obtain ⟨t, hexec, hwarm, -⟩ := hperst rfl (by decide +kernel) rfl (fun _ => rfl)
  obtain rfl := Host.Outcome.next.inj (exec_perstAssert_stage5.symm.trans hexec)
  have hlast : (warmReset (activeAtStage5.modTray fun t => { t with perst := true })).entry (2 ^ 20) = setBits resDefault 47 32 7 :=
    entry_warmReset_slot1 rfl (fun _ => rfl) rfl rfl rfl rfl
  have hkept := (hwarm.entries (2 ^ 20)).2 (by decide) (by decide)
  rw [entry_endpointReset, hlast] at hkept
  exact absurd hkept (by decide +kernel)

end Sys2Proof.Machine
end

section
/-! The store range by bytes and words: what words written leave at each byte and poison bit (R14, R363, R378). -/

namespace Sys2Proof.Machine

theorem tspan_eq_map {α : Type} (d : α) (t : Tab α) (a n : Nat) : tspan d t a n = (List.range n).map fun i => tget d t (a + i) := by
  induction n generalizing a with
  | zero => rfl
  | succ n ih =>
    rw [tspan, ih, List.range_succ_eq_map, List.map_cons, List.map_map]
    simp [Function.comp_def, Nat.add_assoc, Nat.add_comm 1]

/-- From s to t only the bytes and poison bits of the store range change. -/
def OnlyBytes (s t : State) : Prop := t = { s with mem := t.mem, memX := t.memX }

theorem OnlyBytes.trans {s t u : State} (h : OnlyBytes s t) (k : OnlyBytes t u) : OnlyBytes s u := by
  unfold OnlyBytes at h k
  rw [h] at k
  exact k

theorem putBytes_rest (a : Nat) (bs : List Byte) (s : State) : putBytes a bs s = { s with mem := (putBytes a bs s).mem } := by
  induction bs generalizing a s with
  | nil => rfl
  | cons b bs ih => rw [putBytes, ih]; rfl

theorem memX_putWord (w : Nat) (v : PWord) (s : State) : (putWord w v s).memX = tput false s.memX w v.x := by
  rw [putWord, putBytes_rest]; rfl

theorem onlyBytes_putWord (w : Nat) (v : PWord) (s : State) : OnlyBytes s (putWord w v s) := by
  rw [putWord, putBytes_rest]; rfl

theorem onlyBytes_putWords (w : Nat) (ws : List PWord) (s : State) : OnlyBytes s (putWords w ws s) := by
  induction ws generalizing w s with
  | nil => rfl
  | cons v ws ih => exact (onlyBytes_putWord w v s).trans (ih _ _)

theorem memByte_putBytes (a : Nat) (bs : List Byte) (s : State) (x : Nat) :
    memByte (putBytes a bs s) x = if a ≤ x ∧ x < a + bs.length then bs.getD (x - a) 0 else memByte s x := by
  induction bs generalizing a s with
  | nil => rw [if_neg (by simp)]; rfl
  | cons b bs ih =>
    rw [putBytes, ih]
    by_cases hx : x = a
    · subst hx
      rw [if_neg (by omega), if_pos (by simp), Nat.sub_self]
      exact tget_tput_self ..
    · have hput : memByte (putByte a b s) x = memByte s x := tget_tput_ne _ _ _ (Ne.symm hx)
      rw [hput]
      by_cases hin : a + 1 ≤ x ∧ x < a + 1 + bs.length
      · rw [if_pos hin, if_pos (by rw [List.length_cons]; omega), show x - a = x - (a + 1) + 1 by omega, List.getD_cons_succ]
      · rw [if_neg hin, if_neg (by rw [List.length_cons]; omega)]

theorem memByte_putWord (w : Nat) (v : PWord) (s : State) (x : Nat) :
    memByte (putWord w v s) x = if x / 8 = w then (leBytes 8 v.d.toNat).getD (x % 8) 0 else memByte s x := by
  have h := memByte_putBytes (8 * w) (leBytes 8 v.d.toNat) s x
  rw [leBytes_length] at h
  refine h.trans ?_
  by_cases hx : x / 8 = w
  · rw [if_pos (by omega), if_pos hx, show x - 8 * w = x % 8 by omega]
  · rw [if_neg (by omega), if_neg hx]

/-- Each byte after words were written: of the word that covers it, or as before. -/
theorem memByte_putWords (w : Nat) (ws : List PWord) (s : State) (x : Nat) :
    memByte (putWords w ws s) x = if w ≤ x / 8 ∧ x / 8 < w + ws.length then (leBytes 8 (ws.getD (x / 8 - w) default).d.toNat).getD (x % 8) 0 else memByte s x := by
  induction ws generalizing w s with
  | nil => rw [if_neg (by simp)]; rfl
  | cons v ws ih =>
    rw [putWords, ih, memByte_putWord, List.length_cons]
    by_cases hx : x / 8 = w
    · rw [if_neg (by omega), if_pos hx, if_pos (by omega), hx, Nat.sub_self, List.getD_cons_zero]
    · by_cases hin : w + 1 ≤ x / 8 ∧ x / 8 < w + 1 + ws.length
      · rw [if_pos hin, if_pos (by omega), show x / 8 - w = x / 8 - (w + 1) + 1 by omega, List.getD_cons_succ]
      · rw [if_neg hin, if_neg hx, if_neg (by omega)]

/-- Each poison bit after words were written. -/
theorem poison_putWords (w : Nat) (ws : List PWord) (s : State) (j : Nat) :
    tget false (putWords w ws s).memX j = if w ≤ j ∧ j < w + ws.length then (ws.getD (j - w) default).x else tget false s.memX j := by
  induction ws generalizing w s with
  | nil => rw [if_neg (by simp)]; rfl
  | cons v ws ih =>
    rw [putWords, ih, memX_putWord, List.length_cons]
    by_cases hj : j = w
    · subst hj
      rw [if_neg (by omega), if_pos (by omega), Nat.sub_self, List.getD_cons_zero, tget_tput_self]
    · rw [tget_tput_ne _ _ _ (Ne.symm hj)]
      by_cases hin : w + 1 ≤ j ∧ j < w + 1 + ws.length
      · rw [if_pos hin, if_pos (by omega), show j - w = j - (w + 1) + 1 by omega, List.getD_cons_succ]
      · rw [if_neg hin, if_neg (by omega)]

/-- A word written reads back with its poison bit (R378). -/
theorem memWord_putWords {w i : Nat} {ws : List PWord} {v : PWord} (s : State) (h : ws[i]? = some v) : memWord (putWords w ws s) (w + i) = v := by
  have hi : i < ws.length := (List.getElem?_eq_some_iff.1 h).1
  have hv : ws.getD (w + i - w) default = v := by rw [Nat.add_sub_cancel_left, List.getD_eq_getElem?_getD, h]; rfl
  have hbytes : tspan 0 (putWords w ws s).mem (8 * (w + i)) 8 = leBytes 8 v.d.toNat := by
    rw [tspan_eq_map, leBytes_eq_map]
    refine List.map_congr_left fun b hb => ?_
    have h8 := List.mem_range.1 hb
    refine (memByte_putWords w ws s _).trans ?_
    rw [show (8 * (w + i) + b) / 8 = w + i by omega, show (8 * (w + i) + b) % 8 = b by omega, if_pos (by omega), hv]
  rw [memWord, hbytes, wd_leNat_leBytes, poison_putWords, if_pos (by omega), hv]

/-- Zero words written: their bytes read zero. -/
theorem memByte_putWords_zero (w n : Nat) (s : State) (x : Nat) :
    memByte (putWords w (List.replicate n ⟨0, false⟩) s) x = if w ≤ x / 8 ∧ x / 8 < w + n then 0 else memByte s x := by
  rw [memByte_putWords, List.length_replicate]
  split
  · have hbyte : ∀ k < 8, (leBytes 8 (0 : Word).toNat).getD k 0 = 0 := by decide
    rw [List.getD_eq_getElem?_getD (l := List.replicate _ _), List.getElem?_replicate, if_pos (by omega)]
    exact hbyte _ (Nat.mod_lt _ (by decide))
  · rfl

/-- Bytes cut from the store range read zero, and every other byte as before. -/
theorem tget_tcut {α : Type} (d : α) (t : Tab α) (a b x : Nat) : tget d (tcut t a b) x = if a ≤ x ∧ x < b then d else tget d t x := by
  have hfind : tfind (tcut t a b) x = if a ≤ x ∧ x < b then none else tfind t x := by
    induction t with
    | nil => simp [tcut, tfind]
    | cons p t ih =>
      rw [tcut] at ih ⊢
      by_cases hp : a ≤ p.1 ∧ p.1 < b
      · rw [List.filter_cons_of_neg (by simp [hp]), ih]
        split
        · rfl
        · rw [tfind, if_neg (by rintro rfl; contradiction)]
      · rw [List.filter_cons_of_pos (by simpa [imp_iff_not_or] using hp), tfind, tfind, ih]
        split
        · rename_i hx
          rw [if_neg (hx ▸ hp)]
        · rfl
  rw [tget, hfind]
  split <;> rfl

end Sys2Proof.Machine
end

section
/-! Residency entries, staging slots and the capacity registers: what each update of them leaves unchanged (R365 to R367, R375, R380, R402). -/

namespace Sys2Proof.Machine

/-! ### Limbs, entries and homes -/

theorem limb_modLimb_ne (s : State) {l m : Nat} (f : Limb → Limb) (h : l ≠ m) : (s.modLimb l f).limb m = s.limb m := tget_tset_ne _ _ _ h

theorem entry_setEntry_self (s : State) (g : Nat) (w : Word) : (s.setEntry g w).entry g = w := tget_tput_self ..
theorem entry_setEntry_ne (s : State) {g h : Nat} (w : Word) (hne : h ≠ g) : (s.setEntry g w).entry h = s.entry h := tget_tput_ne _ _ _ hne.symm

section
variable (s : State) (g : Nat) (w : Word)

@[simp] theorem mem_setEntry : (s.setEntry g w).mem = s.mem := rfl
@[simp] theorem memX_setEntry : (s.setEntry g w).memX = s.memX := rfl
@[simp] theorem migs_setEntry : (s.setEntry g w).migs = s.migs := rfl

end

/-- A granule's home limb depends on MOD_HOME alone (R366, R367). -/
theorem homeLimb_congr {s t : State} (h : t.rd rModHome = s.rd rModHome) (g : Nat) : homeLimb t g = homeLimb s g := by
  unfold homeLimb activeLimbs State.fld
  rw [h]

theorem slotOpen_congr {s t : State} {l : Nat} (h : (t.limb l).slots = (s.limb l).slots) (g : Nat) : slotOpen t l g = slotOpen s l g := by
  unfold slotOpen
  rw [h]

/-- A limb without the slot of a granule. -/
def withoutSlot (g : Nat) (k : Limb) : Limb := { k with slots := k.slots.filter fun x => x.g != g }

theorem slotOpen_withoutSlot (s : State) (l g h : Nat) : slotOpen (s.modLimb l (withoutSlot g)) l h = (slotOpen s l h && h != g) := by
  rw [slotOpen, slotOpen, limb_modLimb_self, withoutSlot, Bool.eq_iff_iff]
  simp only [List.any_eq_true, List.mem_filter, bne_iff_ne, beq_iff_eq, Bool.and_eq_true]
  constructor
  · rintro ⟨x, ⟨hx, hne⟩, rfl⟩
    exact ⟨⟨x, hx, rfl⟩, hne⟩
  · rintro ⟨⟨x, hx, rfl⟩, hne⟩
    exact ⟨x, ⟨hx, hne⟩, rfl⟩

/-! ### The capacity registers (R402, R404) -/

theorem slots_modLimb (s : State) (l m : Nat) {f : Limb → Limb} (hf : ∀ k, (f k).slots = k.slots) : ((s.modLimb l f).limb m).slots = (s.limb m).slots := by
  by_cases h : l = m
  · subst h; rw [limb_modLimb_self, hf]
  · rw [limb_modLimb_ne s f h]

/-- The capacity registers of limb l written, and whether its vault is below VAULT_LOW. -/
def capWritten (l : Nat) (near vault live : Word) (low : Bool) (s : State) : State :=
  (((s.wr (limbBase l + 0x1000) near).wr (limbBase l + 0x1008) vault).wr (limbBase l + 0x1010) live).modLimb l fun k => { k with vlow := low }

/-- A refresh writes the three registers and `vlow`, with or without the event of VAULT_LOW (R402, R404). -/
theorem capRefresh_cases (l : Nat) (s : State) : ∃ near vault live low,
    capRefresh l s = capWritten l near vault live low s ∨ ∃ a b, capRefresh l s = nlogEvent 2 0x1005 l a b (capWritten l near vault live low s) := by
  unfold capRefresh
  dsimp only
  split
  · exact ⟨_, _, _, _, .inr ⟨_, _, rfl⟩⟩
  · exact ⟨_, _, _, _, .inl rfl⟩

theorem capRefresh_rest (l : Nat) (s : State) :
    capRefresh l s = { s with regs := (capRefresh l s).regs, limbs := (capRefresh l s).limbs, rings := (capRefresh l s).rings } := by
  obtain ⟨near, vault, live, low, h | ⟨a, b, h⟩⟩ := capRefresh_cases l s
  · rw [h]; rfl
  · rw [h, nlogEvent, nlog_rest]; rfl

section
variable (l : Nat) (s : State)

@[simp] theorem mem_capRefresh : (capRefresh l s).mem = s.mem := by rw [capRefresh_rest]
@[simp] theorem memX_capRefresh : (capRefresh l s).memX = s.memX := by rw [capRefresh_rest]
@[simp] theorem res_capRefresh : (capRefresh l s).res = s.res := by rw [capRefresh_rest]
@[simp] theorem migs_capRefresh : (capRefresh l s).migs = s.migs := by rw [capRefresh_rest]
@[simp] theorem entry_capRefresh (g : Nat) : (capRefresh l s).entry g = s.entry g := by rw [State.entry, res_capRefresh]; rfl
@[simp] theorem memByte_capRefresh (a : Nat) : memByte (capRefresh l s) a = memByte s a := by rw [memByte, mem_capRefresh]; rfl
@[simp] theorem homeLimb_capRefresh (g : Nat) : homeLimb (capRefresh l s) g = homeLimb s g := homeLimb_congr ((sameModule_capRefresh l s).2 _ (by decide)) g

@[simp] theorem slots_capRefresh (m : Nat) : ((capRefresh l s).limb m).slots = (s.limb m).slots := by
  have hwritten : ∀ near vault live low, ((capWritten l near vault live low s).limb m).slots = (s.limb m).slots := fun _ _ _ _ => slots_modLimb _ l m fun _ => rfl
  obtain ⟨near, vault, live, low, h | ⟨a, b, h⟩⟩ := capRefresh_cases l s
  · rw [h, hwritten]
  · rw [h, nlogEvent, nlog_rest]
    exact hwritten ..

@[simp] theorem slotOpen_capRefresh (m g : Nat) : slotOpen (capRefresh l s) m g = slotOpen s m g := slotOpen_congr (slots_capRefresh l s m) g

end

/-! ### The fields of an entry (R375) -/

/-- An entry that becomes FORM zero: no sectors, near pool, not busy (R382). -/
def zeroEntry (w : Word) : Word := setBits (setBits (setBits w 63 61 0) 55 50 0) 29 0 0

theorem eForm_zeroEntry (w : Word) : eForm (zeroEntry w) = 0 := by
  rw [zeroEntry, eForm, bits_setBits_ne _ _ _ _ _ _ (by decide) (by decide) (by decide), bits_setBits_ne _ _ _ _ _ _ (by decide) (by decide) (by decide),
    bits_setBits_within _ _ (by decide) (by decide) (by decide) (by decide) (by decide)]
  rfl

theorem eSect_zeroEntry (w : Word) : eSect (zeroEntry w) = 0 := by
  rw [zeroEntry, eSect, bits_setBits_ne _ _ _ _ _ _ (by decide) (by decide) (by decide), bits_setBits_self _ _ _ _ (by decide) (by decide), Nat.zero_mod]

theorem eForm_touch (w : Word) (n : Nat) : eForm (setBits w 47 32 n) = eForm w := bits_setBits_ne _ _ _ _ _ _ (by decide) (by decide) (by decide)

/-! ### Granules of zero bytes (R382, R399) -/

theorem chunkCode_zero (elem : Nat) {bs : List Byte} (h : bs.all (· == 0) = true) : chunkCode elem bs = (1, 0) := by
  have hstay : ∀ l : List (Nat × Nat), l.foldl (fun a c => if c.2 < a.2 then c else a) (1, 0) = (1, 0) := fun l => List.foldl_fixed' (fun c => if_neg (Nat.not_lt_zero _)) l
  unfold chunkCode chunkCodes
  simp only [h, if_true, List.cons_append, List.nil_append, List.foldl_cons, List.append_assoc]
  exact hstay _

theorem imageOf_zero {s : State} {g : Nat} (elem : Nat) (h : ∀ a, granule * g ≤ a → a < granule * (g + 1) → memByte s a = 0) : imageOf s g elem = (0, 0) := by
  have hchunk : ∀ bs ∈ chunksOf s.mem g, bs.all (· == 0) = true := fun bs hbs => by
    obtain ⟨c, hc, rfl⟩ := List.mem_map.1 hbs
    have hc64 := List.mem_range.1 hc
    rw [tspan_eq_map, List.all_map, List.all_eq_true]
    intro i hi
    have h1024 := List.mem_range.1 hi
    exact beq_iff_eq.2 (h _ (by unfold granule; omega) (by unfold granule; omega))
  have hcodes : (granuleCodes s.mem g elem).all (fun c => c.1 == 1) = true := by
    rw [granuleCodes, List.all_map, List.all_eq_true]
    intro bs hbs
    simp [chunkCode_zero elem (hchunk bs hbs)]
  unfold imageOf
  dsimp only
  rw [if_pos hcodes]

/-- A granule that holds only zero bytes is encoded as FORM zero (R382, R399). -/
theorem encodeGranule_zero {l g : Nat} {s : State} (h : ∀ a, granule * g ≤ a → a < granule * (g + 1) → memByte s a = 0) :
    encodeGranule l g s = some (capRefresh l (s.setEntry g (zeroEntry (s.entry g)))) := by
  unfold encodeGranule
  dsimp only
  rw [imageOf_zero _ h]
  rfl

end Sys2Proof.Machine
end

section
/-! Writes and reads of the store range by granules (R363, R378 to R383, R401, R416, R417, R419). -/

namespace Sys2Proof.Machine
open Sys2Proof.Claims

/-! ### Writes (R378, R380 to R383) -/

theorem migAbort_idle {l g : Nat} {s : State} (h : eBusy (s.entry g) = false) : migAbort l g s = s := by
  rw [migAbort, if_neg (by simp [h])]

/-- A slot that is open, or a limb with a free one, takes the granule (R380). -/
theorem openSlot_eq {l g : Nat} {s : State} (h : (s.limb l).slots.length < 32 ∨ slotOpen s l g = true) :
    ∃ f, openSlot l g s = (true, s.modLimb l f) ∧ slotOpen (s.modLimb l f) l g = true := by
  unfold openSlot
  cases hf : (s.limb l).slots.find? (fun k => k.g == g) with
  | some k =>
    have hk : k.g = g := by simpa using List.find?_some hf
    exact ⟨_, rfl, by simp [slotOpen, limb_modLimb_self, hk]⟩
  | none =>
    have hno : slotOpen s l g = false := by
      rw [slotOpen, List.any_eq_false]
      exact fun k hk => List.find?_eq_none.1 hf k hk
    have hroom : (s.limb l).slots.length < 32 := h.resolve_right (by simp [hno])
    have hfree : freeSlot l 32 s = s := by rw [freeSlot, if_pos hroom]
    dsimp only
    rw [hfree, if_pos hroom]
    exact ⟨_, rfl, by simp [slotOpen, limb_modLimb_self, slotOf]⟩

/-- The words of a write inside one granule are not cut. -/
theorem cutGranules_inside {n w : Nat} {ws : List PWord} (hne : 0 < ws.length) (h : w % 8192 + ws.length ≤ 8192) : cutGranules (n + 2) w ws = [(w, ws)] := by
  have hlen : ws.length ≤ granule / 8 - w % (granule / 8) := by unfold granule; omega
  have hempty : ws.isEmpty = false := by cases ws <;> simp_all
  rw [cutGranules, cutGranules]
  simp [hempty, List.take_of_length_le hlen, List.drop_eq_nil_of_le hlen]

theorem writeStore_inside {engine : Bool} {w : Nat} {ws : List PWord} {s : State} (hne : 0 < ws.length) (h : w % 8192 + ws.length ≤ 8192) :
    (writeStore engine w ws s).2 = if engine && (writeGranule (w / 8192) w ws s).1 then touch (w / 8192) (writeGranule (w / 8192) w ws s).2 else (writeGranule (w / 8192) w ws s).2 := by
  rw [writeStore, cutGranules_inside hne h]
  rfl

theorem exec_granuleWrite {addr : Nat} {data : List PWord} {engine : Bool} {s t : State} (hend : addr + 8 * data.length ≤ 2 ^ 44) (hne : 0 < data.length)
    (hin : addr / 8 % 8192 + data.length ≤ 8192) (hw : writeGranule (addr / granule) (addr / 8) data s = (true, t)) :
    exec (.granuleWrite addr data engine) s = .next (if engine then touch (addr / granule) t else t) := by
  have hg : addr / 8 / 8192 = addr / granule := by unfold granule; omega
  change execGranuleWrite addr data engine s = _
  rw [execGranuleWrite, if_neg (by omega), writeStore_inside hne hin, hg, hw, Bool.and_true]

theorem exec_granuleWrite_past {addr : Nat} {data : List PWord} {engine : Bool} {s : State} (h : 2 ^ 44 < addr + 8 * data.length) :
    exec (.granuleWrite addr data engine) s = .next s := if_pos h

/-- A part of a granule is written through its slot (R380). -/
theorem writeGranule_part {addr l : Nat} {data : List PWord} {s : State} (h : PartWrite addr l data s) :
    ∃ f, writeGranule (addr / granule) (addr / 8) data s = (true, putWords (addr / 8) data (s.modLimb l f)) ∧ slotOpen (s.modLimb l f) l (addr / granule) = true := by
  obtain ⟨-, -, ⟨-, hlen⟩, hhome, hidle, hroom⟩ := h
  obtain ⟨f, hopen, hslot⟩ := openSlot_eq hroom
  refine ⟨f, ?_, hslot⟩
  rw [writeGranule, hhome]
  dsimp only
  rw [migAbort_idle hidle, if_neg (by unfold granule; omega), hopen, if_pos rfl]

/-- A whole granule of zero words leaves FORM zero, and no slot (R381, R382). -/
theorem writeGranule_zero {g l : Nat} {ws : List PWord} {s : State} (hws : ws = List.replicate 8192 ⟨0, false⟩) (hhome : homeLimb s g = some l) (hidle : eBusy (s.entry g) = false) :
    writeGranule g (8192 * g) ws s = (true, capRefresh l ((putWords (8192 * g) ws (s.modLimb l (withoutSlot g))).setEntry g (zeroEntry (s.entry g)))) := by
  have hlen : ws.length = granule / 8 := by rw [hws, List.length_replicate]; rfl
  have hzero : ∀ a, granule * g ≤ a → a < granule * (g + 1) → memByte (putWords (8192 * g) ws (s.modLimb l (withoutSlot g))) a = 0 := fun a h1 h2 => by
    unfold granule at h1 h2
    rw [hws, memByte_putWords_zero, if_pos (by omega)]
  have hentry : (putWords (8192 * g) ws (s.modLimb l (withoutSlot g))).entry g = s.entry g := by rw [onlyBytes_putWords]; rfl
  have hencode := encodeGranule_zero (l := l) hzero
  unfold withoutSlot at hencode hentry ⊢
  rw [writeGranule, hhome]
  dsimp only
  rw [migAbort_idle hidle, if_pos hlen, hencode, hentry]

theorem entry_touch_form (g h : Nat) (s : State) : eForm ((touch g s).entry h) = eForm (s.entry h) := by
  by_cases e : h = g
  · subst e; rw [entry_touch_self, eForm_touch]
  · rw [entry_touch_ne s (Ne.symm e)]

/-- What the write of a whole granule of zero words leaves (R382). -/
theorem zeroWritten_spec {g l : Nat} {ws : List PWord} {s t : State} (hws : ws = List.replicate 8192 ⟨0, false⟩)
    (ht : t = capRefresh l ((putWords (8192 * g) ws (s.modLimb l (withoutSlot g))).setEntry g (zeroEntry (s.entry g)))) :
    eForm (t.entry g) = 0 ∧ slotOpen t l g = false ∧ (∀ a, memByte t a = if granule * g ≤ a ∧ a < granule * (g + 1) then 0 else memByte s a) ∧ ∀ h, h ≠ g → t.entry h = s.entry h := by
  have hin : ∀ a, (8192 * g ≤ a / 8 ∧ a / 8 < 8192 * g + 8192) ↔ (granule * g ≤ a ∧ a < granule * (g + 1)) := fun a => by unfold granule; omega
  have hbytes : ∀ a, memByte (putWords (8192 * g) ws (s.modLimb l (withoutSlot g))) a = if granule * g ≤ a ∧ a < granule * (g + 1) then 0 else memByte s a := fun a => by
    rw [hws, memByte_putWords_zero, if_congr (hin a) rfl rfl]
    rfl
  have hrest := onlyBytes_putWords (8192 * g) ws (s.modLimb l (withoutSlot g))
  have hentries : ∀ h, (putWords (8192 * g) ws (s.modLimb l (withoutSlot g))).entry h = s.entry h := fun h => by rw [hrest]; rfl
  have hclosed : slotOpen (putWords (8192 * g) ws (s.modLimb l (withoutSlot g))) l g = false := by
    rw [hrest]
    exact (slotOpen_withoutSlot ..).trans (by simp)
  generalize putWords (8192 * g) ws (s.modLimb l (withoutSlot g)) = u at ht hbytes hentries hclosed
  subst ht
  refine ⟨?_, (slotOpen_capRefresh ..).trans hclosed, fun a => (memByte_capRefresh ..).trans (hbytes a), fun h hne => ?_⟩
  · rw [entry_capRefresh, entry_setEntry_self, eForm_zeroEntry]
  · rw [entry_capRefresh, entry_setEntry_ne _ _ hne, hentries]

/-- What the write of a part of a granule leaves: its words, every byte and poison bit outside, and the rest of the module (R378). -/
theorem partWritten_spec {addr l : Nat} {data : List PWord} {s t : State} {f : Limb → Limb} (halign : addr % 8 = 0) (ht : t = putWords (addr / 8) data (s.modLimb l f)) :
    (∀ i w, data[i]? = some w → memWord t (addr / 8 + i) = w) ∧ (∀ a, (a < addr ∨ addr + 8 * data.length ≤ a) → memByte t a = memByte s a) ∧
      (∀ j, (j < addr / 8 ∨ addr / 8 + data.length ≤ j) → tget false t.memX j = tget false s.memX j) ∧ t = { s with mem := t.mem, memX := t.memX, limbs := t.limbs } := by
  subst ht
  refine ⟨fun i w hw => memWord_putWords _ hw, fun a ha => ?_, fun j hj => ?_, ?_⟩
  · rw [memByte_putWords, if_neg (by omega)]
    rfl
  · rw [poison_putWords, if_neg (by omega)]
    rfl
  · rw [onlyBytes_putWords]
    rfl

theorem storeRangeWrite : Claims.StoreRangeWrite := by
  refine fun addr engine s => ⟨fun data l hpart hend => ?_, fun data l hdata halign hend hhome hidle => ?_, fun data hpast => exec_granuleWrite_past hpast⟩
  · obtain ⟨f, hwrite, hslot⟩ := writeGranule_part hpart
    obtain ⟨halign, hinside, ⟨hne, -⟩, -, -, -⟩ := hpart
    unfold granule at hinside
    have hopen : slotOpen (putWords (addr / 8) data (s.modLimb l f)) l (addr / granule) = true := by
      rw [onlyBytes_putWords]
      exact hslot
    obtain ⟨hwords, hbytes, hpoison, hrest⟩ := partWritten_spec (data := data) (s := s) (l := l) (f := f) halign rfl
    generalize putWords (addr / 8) data (s.modLimb l f) = t at *
    refine ⟨_, exec_granuleWrite hend hne (by omega) hwrite, ?_⟩
    cases engine with
    | false => exact ⟨hwords, hbytes, hpoison, hrest, hopen⟩
    | true => exact ⟨hwords, hbytes, hpoison, by rw [hrest]; rfl, hopen⟩
  · have hlen : data.length = 8192 := by rw [hdata, List.length_replicate]
    unfold granule at halign hend
    have hword : 8192 * (addr / granule) = addr / 8 := by unfold granule; omega
    have hin : ∀ a, (granule * (addr / granule) ≤ a ∧ a < granule * (addr / granule + 1)) ↔ (addr ≤ a ∧ a < addr + granule) := fun a => by unfold granule; omega
    have hwrite := writeGranule_zero hdata hhome hidle
    obtain ⟨hform, hslot, hzero, hothers⟩ := zeroWritten_spec (s := s) (g := addr / granule) (l := l) hdata rfl
    rw [hword] at hwrite hform hslot hzero hothers
    generalize capRefresh l ((putWords (addr / 8) data (s.modLimb l (withoutSlot (addr / granule)))).setEntry (addr / granule) (zeroEntry (s.entry (addr / granule)))) = t at *
    have hbytes : ∀ a, memByte t a = if addr ≤ a ∧ a < addr + granule then 0 else memByte s a := fun a => (hzero a).trans (if_congr (hin a) rfl rfl)
    refine ⟨_, exec_granuleWrite (by omega) (by omega) (by omega) hwrite, ?_⟩
    cases engine with
    | false => exact ⟨hform, hslot, hbytes, hothers⟩
    | true => exact ⟨(entry_touch_form ..).trans hform, hslot, hbytes, fun g hg => (entry_touch_ne _ hg.symm).trans (hothers g hg)⟩

/-! ### Reads (R379, R380, R383, R401, R416, R417) -/

section
variable {g l first last : Nat} {engine : Bool} {bad : List Nat} {mended : List (Nat × Bool)} {malformed : List Nat} {s : State} (hg : g < granules)
include hg

theorem exec_granuleRead_homeless (hhome : homeLimb s g = none) : exec (.granuleRead g first last engine bad mended malformed) s = .next s := by
  change execGranuleRead g first last engine bad mended malformed s = _
  unfold execGranuleRead
  dsimp only
  rw [Nat.mod_eq_of_lt hg, hhome]

/-- A read at a home limb: LAST of an engine's read, after what the stored image gave, if it was asked. -/
theorem exec_granuleRead_home (hhome : homeLimb s g = some l) : exec (.granuleRead g first last engine bad mended malformed) s =
    .next (if engine then touch g (if eForm (s.entry g) = 0 ∨ last < first ∨ slotOpen s l g = true then s
        else imageRead l g first last bad ((mended.filter (·.2)).map (·.1)) ((mended.filter (fun w => !w.2)).map (·.1)) malformed s)
      else if eForm (s.entry g) = 0 ∨ last < first ∨ slotOpen s l g = true then s
        else imageRead l g first last bad ((mended.filter (·.2)).map (·.1)) ((mended.filter (fun w => !w.2)).map (·.1)) malformed s) := by
  change execGranuleRead g first last engine bad mended malformed s = _
  unfold execGranuleRead
  dsimp only
  rw [Nat.mod_eq_of_lt hg, hhome]

/-- A read of a stored image that its slot does not hide. -/
theorem exec_granuleRead_image (hhome : homeLimb s g = some l) (hslot : slotOpen s l g = false) (hform : eForm (s.entry g) ≠ 0) (hle : first ≤ last) :
    exec (.granuleRead g first last false bad mended malformed) s =
      .next (imageRead l g first last bad ((mended.filter (·.2)).map (·.1)) ((mended.filter (fun w => !w.2)).map (·.1)) malformed s) := by
  have hread : ¬ (eForm (s.entry g) = 0 ∨ last < first ∨ slotOpen s l g = true) := by simp [hform, hslot, hle]
  rw [exec_granuleRead_home hg hhome, if_neg (by decide), if_neg hread]

end

theorem imageRead_clean (l g first last : Nat) (s : State) : imageRead l g first last [] [] [] [] s = s := by
  simp [imageRead, memRetried, memCorrected]

/-- Words that decode when corrected are counted alone (R417). -/
theorem imageRead_corrected (l g first last : Nat) (e : List Nat) (s : State) : imageRead l g first last [] [] e [] s =
    memCorrected l (eTier (s.entry g) == 1) (e.filter (fetched (eForm (s.entry g)) (storedCodes s g) first last)).length s := by
  simp [imageRead, memRetried]

/-- Words that decode when read once more are counted alone (R416). -/
theorem imageRead_retried (l g first last : Nat) (e : List Nat) (s : State) : imageRead l g first last [] e [] [] s =
    memRetried l (eTier (s.entry g) == 1) (e.filter (fetched (eForm (s.entry g)) (storedCodes s g) first last)).length s := by
  simp [imageRead, memCorrected]

/-- A bad word of a plain image is poisoned in place (R401, R416). -/
theorem imageRead_bad {l g first last w : Nat} {s : State} (hform : eForm (s.entry g) = 1) (hw : w < 8192) (h1 : first ≤ w / 128) (h2 : w / 128 ≤ last) :
    imageRead l g first last [w] [] [] [] s = memPoisoned l (eTier (s.entry g) == 1) (granule * g + 8 * w) (putX (8192 * g + w) true s) := by
  simp [imageRead, memRetried, memCorrected, hform, fetched, imageWordAddr, poisonWords, h1, h2, Nat.mod_eq_of_lt hw]

/-- A malformed chunk of a coded image (R401). -/
theorem imageRead_malformed {l g first last c : Nat} {s : State} (hform : eForm (s.entry g) = 2) (hc : c < 64) (h1 : first ≤ c) (h2 : c ≤ last) :
    imageRead l g first last [] [] [] [c] s = chunkBad l g c s := by
  simp [imageRead, memRetried, memCorrected, hform, hc, h1, h2]

/-! ### Corrected words (R417, R419, R630) -/

theorem rMemErr_ne_errBase (l m : Nat) (vault : Bool) : errBase (domLimb m) ≠ rMemErr l vault := by
  have h : ∀ k, limbBase k % 0x100000 = 0 := fun k => by unfold limbBase; omega
  have hl := h l
  have hm := h (Fin.ofNat 8 m).val
  simp only [rMemErr, domLimb, errBase]
  split <;> omega

theorem fld_memCorrected (l : Nat) (vault : Bool) (n : Nat) (s : State) : (memCorrected l vault n s).fld (rMemErr l vault) 31 0 = min (s.fld (rMemErr l vault) 31 0 + n) (2 ^ 32 - 1) := by
  unfold memCorrected
  split
  · rename_i h
    have : s.fld (rMemErr l vault) 31 0 < 2 ^ 32 := nbits_lt _ 31 0
    omega
  · change ((s.satFld (rMemErr l vault) 31 0 n).satFld (errBase (domLimb l)) 31 16 n).fld (rMemErr l vault) 31 0 = _
    rw [State.fld, rd_satFld_ne _ _ _ _ (rMemErr_ne_errBase l l vault), ← State.fld, State.fld_satFld_self _ _ _ _ _ (by decide) (by decide)]

theorem tally_memCorrected (l : Nat) (vault : Bool) (n : Nat) (s : State) :
    tget 0 (memCorrected l vault n s).tally (domKey (domLimb l)) = tget 0 s.tally (domKey (domLimb l)) + n := by
  unfold memCorrected
  split
  · rename_i h
    rw [h, Nat.add_zero]
  · exact tget_tset_self ..

/-- Corrected words change counters alone. -/
theorem memCorrected_rest (l : Nat) (vault : Bool) (n : Nat) (s : State) : memCorrected l vault n s = { s with regs := (memCorrected l vault n s).regs, tally := (memCorrected l vault n s).tally } := by
  unfold memCorrected
  split <;> rfl

theorem fld_memRetried (l : Nat) (vault : Bool) (n : Nat) (s : State) : (memRetried l vault n s).fld (rMemErr l vault) 47 32 = min (s.fld (rMemErr l vault) 47 32 + n) 65535 := by
  unfold memRetried
  split
  · rename_i h
    have : s.fld (rMemErr l vault) 47 32 < 2 ^ 16 := nbits_lt _ 47 32
    omega
  · exact State.fld_satFld_self _ _ _ _ _ (by decide) (by decide)

theorem memRetried_rest (l : Nat) (vault : Bool) (n : Nat) (s : State) : memRetried l vault n s = { s with regs := (memRetried l vault n s).regs } := by
  unfold memRetried
  split <;> rfl

theorem storeRangeRead : Claims.StoreRangeRead := by
  refine fun g first last s hg => ⟨?_, fun hhome => ?_, fun hhome e b c m => exec_granuleRead_homeless hg hhome, fun l hhome hslot b c m => ?_, fun l vault hhome hl hslot hform hle hv => ?_⟩
  · cases hhome : homeLimb s g with
    | none => exact exec_granuleRead_homeless hg hhome
    | some l => simp [exec_granuleRead_home hg hhome, imageRead_clean]
  · obtain ⟨l, hl⟩ := Option.ne_none_iff_exists'.1 hhome
    simp [exec_granuleRead_home hg hl, imageRead_clean]
  · simp [exec_granuleRead_home hg hhome, hslot]
  · subst hv
    have hread := fun bad mended malformed => exec_granuleRead_image (bad := bad) (mended := mended) (malformed := malformed) hg hhome hslot hform hle
    have hfalse : ∀ e : List Nat, ((e.map fun w => (w, false)).filter (·.2)).map (·.1) = [] ∧ ((e.map fun w => (w, false)).filter fun w => !w.2).map (·.1) = e := fun e => by
      simp [List.filter_map, Function.comp_def]
    have htrue : ∀ e : List Nat, ((e.map fun w => (w, true)).filter (·.2)).map (·.1) = e ∧ ((e.map fun w => (w, true)).filter fun w => !w.2).map (·.1) = [] := fun e => by
      simp [List.filter_map, Function.comp_def]
    refine ⟨fun e n hn => ⟨⟨_, hread .., ?_⟩, ⟨_, hread .., ?_⟩⟩, fun w hplain hw h1 h2 => ?_, fun c hcoded hc h1 h2 => ?_⟩
    · rw [(hfalse e).1, (hfalse e).2, imageRead_corrected, ← hn]
      refine ⟨fld_memCorrected .., tally_memCorrected .., ?_, ?_, ?_⟩ <;> rw [memCorrected_rest]
    · rw [(htrue e).1, (htrue e).2, imageRead_retried, ← hn]
      exact ⟨fld_memRetried .., memRetried_rest ..⟩
    · rw [hread]
      exact congrArg _ (imageRead_bad hplain hw h1 h2)
    · rw [hread]
      exact congrArg _ (imageRead_malformed hcoded hc h1 h2)

/-- Settles O46: a write takes a slot of its granule or encodes the whole of it, and a read meets of the image what the decoder reports. That a partial write opens a slot of a granule of FORM zero too is the model's reading of R380 and R382; that a malformed chunk is reported and its image not written back, and that a corrected word changes no field, are the model's choice (SPEC.md, entries 27 and 105). -/
theorem storeRange : Obligations.StoreRange := ⟨storeRangeWrite, storeRangeRead⟩

end Sys2Proof.Machine
end

section
/-! Staging slots, migrations and eviction: what they make of an entry, and that no byte changes (R380, R382, R384, R385, R387, R390, R399). -/

namespace Sys2Proof.Machine
open Sys2Proof.Claims

/-! ### Fields of an entry set one after another (R375) -/

theorem word_eq_of_testBit {v w : Word} (h : ∀ i < 64, v.toNat.testBit i = w.toNat.testBit i) : v = w := by
  refine BitVec.eq_of_toNat_eq (Nat.eq_of_testBit_eq fun i => ?_)
  by_cases hi : i < 64
  · exact h i hi
  · rw [Nat.testBit_lt_two_pow (v.isLt.trans_le (Nat.pow_le_pow_right (by decide) (by omega))), Nat.testBit_lt_two_pow (w.isLt.trans_le (Nat.pow_le_pow_right (by decide) (by omega)))]

/-- A field set twice holds what was set last. -/
theorem setBits_setBits_same (w : Word) {hi lo : Nat} (m n : Nat) (h : lo ≤ hi) (h64 : hi < 64) : setBits (setBits w hi lo m) hi lo n = setBits w hi lo n := by
  refine word_eq_of_testBit fun i _ => ?_
  rw [testBit_setBits _ _ _ _ _ h h64, testBit_setBits _ _ _ _ _ h h64, testBit_setBits _ _ _ _ _ h h64]
  split_ifs <;> rfl

/-- A bit set to what it holds. -/
theorem setBit_of_bit {w : Word} {i : Nat} {b : Bool} (h64 : i < 64) (h : bit w i = b) : setBit w i b = w := by
  refine word_eq_of_testBit fun j _ => ?_
  rw [setBit, testBit_setBits _ _ _ _ _ (le_refl _) h64]
  split_ifs with h1 h2
  · rfl
  · obtain rfl : j = i := by omega
    rw [Nat.sub_self, ← h, bit]
    cases w.toNat.testBit j <;> rfl
  · rfl

theorem setBits_mod (w : Word) (hi lo n : Nat) : setBits w hi lo (n % 2 ^ (hi + 1 - lo)) = setBits w hi lo n := by
  rw [setBits, setBits, Nat.mod_mod]

/-- An entry whose image stands in a run of sectors: FORM, TIER, sectors and BASE (R375). -/
def imageEntry (w : Word) (form tier sectors base : Nat) : Word := setBits (setBits (setBits (setBits w 63 62 form) 61 61 tier) 55 50 (sectors - 1)) 29 0 base

theorem fields_imageEntry (w : Word) {form tier sectors : Nat} (base : Nat) (hf : form < 4) (ht : tier < 2) (hs : sectors ≤ 64) :
    eForm (imageEntry w form tier sectors base) = form ∧ eTier (imageEntry w form tier sectors base) = tier ∧ eSect (imageEntry w form tier sectors base) = sectors - 1 ∧
      eBase (imageEntry w form tier sectors base) = base % 2 ^ 30 := by
  simp only [imageEntry, eForm, eTier, eSect, eBase]
  refine ⟨?_, ?_, ?_, bits_setBits_self _ _ _ _ (by decide) (by decide)⟩ <;> simp only [bits_setBits_ne, bits_setBits_self, Nat.reduceLeDiff, Nat.reduceLT, or_true]
  · exact Nat.mod_eq_of_lt hf
  · exact Nat.mod_eq_of_lt ht
  · exact Nat.mod_eq_of_lt (by omega)

/-- An entry at a new place, not busy (R385). -/
def movedEntry (w : Word) (tier base : Nat) : Word := setBits (setBits (setBit w 60 false) 61 61 tier) 29 0 base

theorem fields_movedEntry (w : Word) {tier base : Nat} (ht : tier < 2) (hb : base < 2 ^ 30) :
    eTier (movedEntry w tier base) = tier ∧ eBase (movedEntry w tier base) = base ∧ eBusy (movedEntry w tier base) = false ∧ eForm (movedEntry w tier base) = eForm w := by
  simp only [movedEntry, setBit, eForm, eTier, eBase, eBusy]
  refine ⟨?_, ?_, ?_, ?_⟩
  · rw [bits_setBits_ne _ _ _ _ _ _ (by decide) (by decide) (by decide), bits_setBits_self _ _ _ _ (by decide) (by decide)]
    exact Nat.mod_eq_of_lt ht
  · rw [bits_setBits_self _ _ _ _ (by decide) (by decide)]
    exact Nat.mod_eq_of_lt hb
  · rw [bit_setBits_ne _ _ _ _ _ (by decide) (by decide) (by decide), bit_setBits_ne _ _ _ _ _ (by decide) (by decide) (by decide), bit_setBits_mem _ _ _ _ _ (by decide) (by decide) (by decide)]
    rfl
  · simp only [bits_setBits_ne, Nat.reduceLeDiff, Nat.reduceLT, or_true]

/-! ### A slot closes (R380, R382, R384, R399) -/

section
variable {l g : Nat} {s : State}

theorem exec_slotClose (l : LimbId) (g : Nat) (s : State) : exec (.slotClose l g) s = .next (closeSlot l.val g s) := rfl

theorem closeSlot_closed (h : slotOpen s l g = false) : closeSlot l g s = s := by rw [closeSlot, if_neg (by simp [h])]

theorem closeSlot_open {t : State} (h : slotOpen s l g = true) (he : encodeGranule l g s = some t) : closeSlot l g s = t.modLimb l (withoutSlot g) := by
  rw [closeSlot, if_pos h, he]
  rfl

theorem imageOf_bounds {elem form n : Nat} (h : imageOf s g elem = (form, n)) : form < 4 ∧ n ≤ 64 := by
  unfold imageOf at h
  dsimp only at h
  split_ifs at h with hz hn <;> obtain ⟨rfl, rfl⟩ := h
  · exact ⟨by decide, by decide⟩
  · exact ⟨by decide, by unfold ceilDiv; omega⟩
  · exact ⟨by decide, le_refl _⟩

/-- The pools are numbered 0 and 1 (R384). -/
theorem findRun0_tier {n tier base : Nat} (h : findRun0 l g n s = some (tier, base)) : tier < 2 := by
  have hpool : ∀ k < 2, (allocIn s l k n).map (fun b => (k, b)) = some (tier, base) → tier < 2 := fun k hk he => by
    obtain ⟨b, -, hb⟩ := Option.map_eq_some_iff.1 he
    cases hb
    exact hk
  unfold findRun0 at h
  dsimp only at h
  split_ifs at h
  · exact hpool 0 (by decide) h
  · exact hpool 1 (by decide) h
  · cases h0 : allocIn s l 0 n with
    | some b => exact hpool 0 (by decide) (by simpa [h0] using h)
    | none => exact hpool 1 (by decide) (by simpa [h0] using h)
  · exact hpool 1 (by decide) h

/-- A granule that is not of zeros is encoded where its pools have a run (R384, R399). -/
theorem encodeGranule_run {form n tier base : Nat} (him : imageOf s g (eElem (s.entry g)) = (form, n)) (hf : form ≠ 0) (hrun : findRun0 l g n s = some (tier, base)) :
    encodeGranule l g s = some (capRefresh l ({ s with felem := tput 3 s.felem g (eElem (s.entry g)) }.setEntry g (imageEntry (s.entry g) form tier n base))) := by
  have halloc : allocate l g n s = (some (tier, base), s) := by rw [allocate, hrun]
  unfold encodeGranule
  dsimp only
  rw [him]
  dsimp only
  rw [if_neg hf, halloc]
  rfl

/-- What a slot that closes leaves, by the entry that its granule takes. -/
theorem slotClosed_spec {t : State} {w : Word} (ht : t = capRefresh l (s.setEntry g w)) : slotOpen (t.modLimb l (withoutSlot g)) l g = false ∧ (t.modLimb l (withoutSlot g)).entry g = w ∧
    (t.modLimb l (withoutSlot g)).mem = s.mem ∧ (t.modLimb l (withoutSlot g)).memX = s.memX ∧
      ∀ h, h ≠ g → (t.modLimb l (withoutSlot g)).entry h = s.entry h ∧ slotOpen (t.modLimb l (withoutSlot g)) l h = slotOpen s l h := by
  subst ht
  refine ⟨by simp [slotOpen_withoutSlot], (entry_capRefresh ..).trans (entry_setEntry_self ..), (mem_capRefresh ..).trans (mem_setEntry ..), (memX_capRefresh ..).trans (memX_setEntry ..),
    fun h hne => ⟨(entry_capRefresh ..).trans (entry_setEntry_ne _ _ hne), ?_⟩⟩
  rw [slotOpen_withoutSlot, slotOpen_capRefresh, bne_iff_ne.2 hne, Bool.and_true]
  rfl

/-! ### Migrations (R385) -/

theorem exec_migrationDone_none (h : homeLimb s g = none ∨ tfind s.migs g = none) : exec (.migrationDone g) s = .next s := by
  change execMigrationDone g s = _
  unfold execMigrationDone
  rcases h with h | h
  · rw [h]
  · cases homeLimb s g with
    | none => rfl
    | some l => dsimp only; rw [migDone, h]

theorem exec_migrationDone (hl : homeLimb s g = some l) : exec (.migrationDone g) s = .next (migDone l g s) := by
  change execMigrationDone g s = _
  rw [execMigrationDone, hl]

theorem migDone_eq {tier base : Nat} (h : tfind s.migs g = some (tier, base)) :
    migDone l g s = capRefresh l ({ s with migs := terase s.migs g }.setEntry g (movedEntry (s.entry g) tier base)) := by
  rw [migDone, h]
  rfl

end

theorem slotsAndMigrations : Claims.SlotsAndMigrations := by
  refine fun l g s => ⟨fun hopen hzero => ⟨_, exec_slotClose .., ?_⟩, fun form n tier base hopen him hf hrun => ⟨_, exec_slotClose .., ?_⟩,
    fun hclosed => by rw [exec_slotClose, closeSlot_closed hclosed], exec_migrationDone_none, fun tier base hhome hmig ht hb => ?_⟩
  · rw [closeSlot_open hopen (encodeGranule_zero hzero)]
    obtain ⟨hslot, hentry, hmem, hpoison, hothers⟩ := slotClosed_spec (l := l.val) (s := s) (g := g) (w := zeroEntry (s.entry g)) rfl
    exact ⟨hslot, by rw [hentry, eForm_zeroEntry], by rw [hentry, eSect_zeroEntry], hmem, hpoison, hothers⟩
  · rw [closeSlot_open hopen (encodeGranule_run him hf hrun)]
    obtain ⟨hslot, hentry, hmem, hpoison, hothers⟩ :=
      slotClosed_spec (l := l.val) (s := { s with felem := tput 3 s.felem g (eElem (s.entry g)) }) (g := g) (w := imageEntry (s.entry g) form tier n base) rfl
    obtain ⟨hform, hn⟩ := imageOf_bounds him
    obtain ⟨h1, h2, h3, h4⟩ := fields_imageEntry (s.entry g) base hform (findRun0_tier hrun) hn
    rw [hentry]
    exact ⟨hslot, h1, h3, h2, h4, hmem, hpoison, hothers⟩
  · obtain ⟨m, hm⟩ := Option.ne_none_iff_exists'.1 hhome
    refine ⟨_, exec_migrationDone hm, ?_⟩
    obtain ⟨h1, h2, h3, h4⟩ := fields_movedEntry (s.entry g) ht hb
    rw [migDone_eq hmig, entry_capRefresh, entry_setEntry_self]
    exact ⟨h1, h2, h3, h4, by rw [migs_capRefresh]; exact tfind_terase_self .., mem_capRefresh .., fun h hne => (entry_capRefresh ..).trans (entry_setEntry_ne _ _ hne)⟩

end Sys2Proof.Machine
end

section
/-! Eviction: what a sweep and the migrations of pinned granules can do to an entry (R387, R390). -/

namespace Sys2Proof.Machine
open Sys2Proof.Claims

/-! ### A migration that begins (R385) -/

theorem migBegin_eq {l g tier : Nat} {s t : State} (h : migBegin l g tier s = some t) :
    ∃ base, t = capRefresh l ({ s with migs := tset s.migs g (tier, base) }.setEntry g (setBit (s.entry g) 60 true)) := by
  obtain ⟨base, -, ht⟩ := Option.map_eq_some_iff.1 h
  exact ⟨base, ht.symm⟩

/-- A migration that begins: its copy stands in the other pool, and its entry is busy. -/
theorem migBegin_spec {l g tier : Nat} {s t : State} (h : migBegin l g tier s = some t) :
    t.mem = s.mem ∧ t.memX = s.memX ∧ (∃ base, tfind t.migs g = some (tier, base)) ∧ t.entry g = setBit (s.entry g) 60 true ∧ ∀ h, h ≠ g → t.entry h = s.entry h := by
  obtain ⟨base, ht⟩ := migBegin_eq h
  rw [ht]
  exact ⟨(mem_capRefresh ..).trans (mem_setEntry ..), (memX_capRefresh ..).trans (memX_setEntry ..), ⟨base, by rw [migs_capRefresh, migs_setEntry]; exact tfind_tset_self ..⟩,
    (entry_capRefresh ..).trans (entry_setEntry_self ..), fun h hne => (entry_capRefresh ..).trans (entry_setEntry_ne _ _ hne)⟩

/-! ### Sweeps (R387) -/

/-- From s to t no byte changes, and of the entries only those of granules of PIN none in the near pool, which go to the vault. -/
structure Evicts (s t : State) : Prop where
  mem : t.mem = s.mem
  memX : t.memX = s.memX
  entries : ∀ g, t.entry g = s.entry g ∨ (ePin (s.entry g) = 0 ∧ eTier (s.entry g) = 0 ∧ t.entry g = setBits (setBits (s.entry g) 61 61 1) 29 0 (eBase (t.entry g)))

/-- What a granule that went to the vault shows of its entry. -/
theorem fields_toVault (w : Word) (base : Nat) : ePin (setBits (setBits w 61 61 1) 29 0 base) = ePin w ∧ eTier (setBits (setBits w 61 61 1) 29 0 base) = 1 := by
  simp only [ePin, eTier]
  refine ⟨?_, ?_⟩
  · simp only [bits_setBits_ne, Nat.reduceLeDiff, Nat.reduceLT, or_true, true_or]
  · rw [bits_setBits_ne _ _ _ _ _ _ (by decide) (by decide) (by decide), bits_setBits_self _ _ _ _ (by decide) (by decide)]
    rfl

section
variable {s t u : State}

theorem evicts_refl (s : State) : Evicts s s := ⟨rfl, rfl, fun _ => .inl rfl⟩

/-- A granule that went to the vault does not go again. -/
theorem Evicts.trans (h : Evicts s t) (k : Evicts t u) : Evicts s u := by
  refine ⟨k.mem.trans h.mem, k.memX.trans h.memX, fun g => ?_⟩
  rcases h.entries g with hs | ⟨hpin, htier, hs⟩
  · rcases k.entries g with ht | ht
    · exact .inl (ht.trans hs)
    · exact .inr (hs ▸ ht)
  · rcases k.entries g with ht | ⟨-, hnear, -⟩
    · exact .inr ⟨hpin, htier, by rw [ht]; exact hs⟩
    · rw [hs, (fields_toVault _ _).2] at hnear
      exact absurd hnear (by decide)

theorem Evicts.modLimb (h : Evicts s t) (l : Nat) (f : Limb → Limb) : Evicts s (t.modLimb l f) := ⟨h.mem, h.memX, h.entries⟩

/-- A granule that eviction may take goes to the vault (R387). -/
theorem evicts_migrated {l g : Nat} (hpin : ePin (s.entry g) = 0) (htier : eTier (s.entry g) = 0) (hidle : eBusy (s.entry g) = false) (h : migBegin l g 1 s = some t) :
    Evicts s (migDone l g t) := by
  obtain ⟨hmem, hpoison, ⟨base, hmig⟩, hentry, hothers⟩ := migBegin_spec h
  have hmoved : movedEntry (t.entry g) 1 base = setBits (setBits (s.entry g) 61 61 1) 29 0 base := by
    rw [hentry, movedEntry, setBit, setBit, setBits_setBits_same _ _ _ (le_refl _) (by decide), ← setBit, setBit_of_bit (by decide) hidle]
  rw [migDone_eq hmig, hmoved]
  refine ⟨(mem_capRefresh ..).trans ((mem_setEntry ..).trans hmem), (memX_capRefresh ..).trans ((memX_setEntry ..).trans hpoison), fun k => ?_⟩
  rw [entry_capRefresh]
  by_cases hk : k = g
  · subst hk
    rw [entry_setEntry_self]
    exact .inr ⟨hpin, htier, by rw [eBase, bits_setBits_self _ _ _ _ (by decide) (by decide), setBits_mod]⟩
  · rw [entry_setEntry_ne _ _ hk]
    exact .inl (hothers k hk)

theorem evicts_evictSweep (l : Nat) (anyAge : Bool) (ps : List (Nat × Word)) (s : State) : Evicts s (evictSweep l anyAge ps s) := by
  induction ps generalizing s with
  | nil => exact evicts_refl s
  | cons p ps ih =>
    rw [evictSweep]
    split
    · exact evicts_refl s
    · split
      · rename_i hev
        simp only [evictable, Bool.and_eq_true, beq_iff_eq, Bool.not_eq_true'] at hev
        obtain ⟨⟨⟨⟨⟨-, htier⟩, hpin⟩, hidle⟩, -⟩, -⟩ := hev
        cases hm : migBegin l p.1 1 s with
        | none => exact ih s
        | some t => exact ((evicts_migrated hpin htier hidle hm).modLimb l _).trans (ih _)
      · exact ih s

end

/-! ### Pinned granules (R390) -/

/-- The granule of an entry is pinned to one pool and stands in the other. -/
def PinnedAway (w : Word) : Prop := (ePin w = 1 ∧ eTier w = 1) ∨ (ePin w = 2 ∧ eTier w = 0)

/-- From s to t no byte changes, and of the entries only BUSY of pinned granules in the other pool. -/
structure Retries (s t : State) : Prop where
  mem : t.mem = s.mem
  memX : t.memX = s.memX
  entries : ∀ g, t.entry g = s.entry g ∨ (PinnedAway (s.entry g) ∧ t.entry g = setBit (s.entry g) 60 true)

theorem retries_migBegin {l g tier : Nat} {s t u : State} (h : Retries s t) (hpin : PinnedAway (s.entry g)) (hm : migBegin l g tier t = some u) : Retries s u := by
  obtain ⟨hmem, hpoison, -, hentry, hothers⟩ := migBegin_spec hm
  refine ⟨hmem.trans h.mem, hpoison.trans h.memX, fun k => ?_⟩
  by_cases hk : k = g
  · subst hk
    refine .inr ⟨hpin, hentry.trans ?_⟩
    rcases h.entries k with he | ⟨-, he⟩
    · rw [he]
    · rw [he, setBit, setBit, setBits_setBits_same _ _ _ (le_refl _) (by decide)]
  · rw [hothers k hk]
    exact h.entries k

theorem retries_retryPinned (l : Nat) (s : State) : Retries s (retryPinned l s) := by
  unfold retryPinned
  refine List.foldlRecOn (motive := Retries s) _ _ ⟨rfl, rfl, fun _ => .inl rfl⟩ fun t ht p hp => ?_
  obtain ⟨hin, hpin⟩ := List.mem_filter.1 hp
  obtain ⟨q, -, rfl⟩ := List.mem_map.1 hin
  simp only [Bool.and_eq_true, Bool.or_eq_true, beq_iff_eq] at hpin
  obtain ⟨-, hpin⟩ := hpin
  dsimp only
  split
  · exact ht
  · cases hm : migBegin l q.1 (ePin (s.entry q.1) - 1) t with
    | none => exact ht
    | some u => exact retries_migBegin ht hpin hm

/-! ### EVICTION -/

theorem exec_eviction_idle {l : LimbId} {s : State} (h : s.flag (rMigCtl l.val) 0 = false ∨ l.val ∉ activeLimbs s ∨ nearLow s l.val ≤ freeSectors s l.val 0) :
    exec (.eviction l) s = .next s := by
  refine if_neg fun hcond => ?_
  simp only [Bool.and_eq_true, decide_eq_true_eq, List.contains_iff_mem] at hcond
  obtain ⟨⟨hon, hlow⟩, hactive⟩ := hcond
  rcases h with h | h | h
  · rw [hon] at h; exact absurd h (by decide)
  · exact h hactive
  · omega

theorem exec_eviction {l : LimbId} {s : State} (hon : s.flag (rMigCtl l.val) 0 = true) (hactive : l.val ∈ activeLimbs s) (hlow : freeSectors s l.val 0 < nearLow s l.val) :
    exec (.eviction l) s = .next (evict l.val s) :=
  if_pos (by simp [hon, hlow, hactive])

/-- The sweeps of an eviction: one by age, and one with any age where that frees too little (R387). -/
theorem evict_eq {l : Nat} {s : State} (hon : s.flag (rMigCtl l) 0 = true) : ∃ u, evict l s = retryPinned l u ∧ Evicts s u ∧
    ((u = evictSweep l false (sweepOrder s l) s ∧ nearHigh u l ≤ nearComing u l) ∨
      ∃ v, v = evictSweep l false (sweepOrder s l) s ∧ nearComing v l < nearHigh v l ∧ u = evictSweep l true (sweepOrder v l) v) := by
  have hfirst := evicts_evictSweep l false (sweepOrder s l) s
  unfold evict
  rw [if_neg (by simp [hon])]
  dsimp only
  split
  · rename_i hhigh
    exact ⟨_, rfl, hfirst, .inl ⟨rfl, hhigh⟩⟩
  · rename_i hhigh
    exact ⟨_, rfl, hfirst.trans (evicts_evictSweep ..), .inr ⟨_, rfl, not_le.1 hhigh, rfl⟩⟩

theorem eviction : Claims.Eviction := by
  refine fun l s => ⟨exec_eviction_idle, fun hon hactive hlow => ?_⟩
  obtain ⟨u, heq, hev, hsweeps⟩ := evict_eq hon
  have hre := retries_retryPinned l.val u
  refine ⟨_, u, (exec_eviction hon hactive hlow).trans (by rw [heq]), rfl, hsweeps, hre.mem.trans hev.mem, hre.memX.trans hev.memX, fun g => ?_⟩
  rcases hre.entries g with ht | ⟨hpin, ht⟩ <;> rcases hev.entries g with hu | ⟨hnone, hnear, hu⟩
  · exact .inl (ht.trans hu)
  · exact .inr (.inl ⟨hnone, hnear, by rw [ht]; exact hu⟩)
  · rw [hu] at hpin ht
    exact .inr (.inr ⟨hpin, ht⟩)
  · have hpin0 : ePin (u.entry g) = 0 := by rw [hu, (fields_toVault _ _).1, hnone]
    rcases hpin with ⟨h1, -⟩ | ⟨h2, -⟩ <;> omega

end Sys2Proof.Machine
end

section
/-! The migration commands of LMB_MIG_CMD (R382, R388, R392). -/

namespace Sys2Proof.Machine
open Sys2Proof.Claims

section
variable {i : Instr} {l : LimbId} {op arg first count : Nat} {s : State}

/-- Each command starts with its operands, and its effect is taken at each granule (R392). -/
theorem exec_migCommand (h : MigCommand i l op arg first count) :
    op < 8 ∧ ∃ eff, exec i s = .next (migCmd l.val op arg first count eff s) ∧ (arg < 8 → eff = commandEffect op arg l.val) := by
  rcases h with ⟨rfl, rfl⟩ | ⟨rfl, rfl⟩ | ⟨rfl, rfl, rfl⟩ | ⟨rfl, rfl, rfl⟩
  · exact ⟨by decide, _, rfl, fun ha => by rw [Nat.mod_eq_of_lt ha]; rfl⟩
  · exact ⟨by decide, _, rfl, fun _ => rfl⟩
  · exact ⟨by decide, _, rfl, fun _ => rfl⟩
  · exact ⟨by decide, _, rfl, fun _ => rfl⟩

end

/-- LMB_MIG_CMD while a command runs: BUSY, OP, ARG, COUNT and the first granule (R392). -/
def cmdWord (op arg first count : Nat) : Word := wd (2 ^ 63 + op * 2 ^ 56 + arg % 8 * 2 ^ 53 + count % 2 ^ 25 * 2 ^ 28 + first % granules)

theorem fields_cmdWord {op arg first count : Nat} (ho : op < 8) (ha : arg < 8) (hf : first < granules) :
    bit (cmdWord op arg first count) 63 = true ∧ bits (cmdWord op arg first count) 58 56 = op ∧ bits (cmdWord op arg first count) 55 53 = arg ∧
      bits (cmdWord op arg first count) 52 28 = count % 2 ^ 25 ∧ bits (cmdWord op arg first count) 27 0 = first := by
  unfold granules at hf
  simp only [cmdWord, bit, bits, nbits, wd, granules, BitVec.toNat_ofNat, Nat.testBit_eq_decide_div_mod_eq, decide_eq_true_eq, Nat.shiftRight_eq_div_pow]
  refine ⟨?_, ?_, ?_, ?_, ?_⟩ <;> omega

section
variable {l op arg first count : Nat} {eff : Nat → State → State} {s : State}

theorem migCmd_busy (h : s.flag (rMigCmd l) 63 = true) : migCmd l op arg first count eff s = s.satFld (rMigStat l) 31 16 1 := if_pos h

theorem migCmd_start (h : s.flag (rMigCmd l) 63 = false) : migCmd l op arg first count eff s =
    forEach (cmdGranules (s.wr (rMigCmd l) (cmdWord op arg first count)) l first count) eff (s.wr (rMigCmd l) (cmdWord op arg first count)) := by
  rw [migCmd, if_neg (by simp [h])]
  rfl

theorem homeLimb_wr_rMigCmd (w : Word) (g : Nat) : homeLimb (s.wr (rMigCmd l) w) g = homeLimb s g :=
  homeLimb_congr (State.rd_wr_ne _ _ (by unfold rMigCmd rModHome limbBase; omega)) g

/-- A command of one granule that its limb homes. -/
theorem migCmd_one (h : s.flag (rMigCmd l) 63 = false) (hg : first < granules) (hh : homeLimb s first = some l) :
    migCmd l op arg first 0 eff s = eff first (s.wr (rMigCmd l) (cmdWord op arg first 0)) := by
  have hlist : cmdGranules (s.wr (rMigCmd l) (cmdWord op arg first 0)) l first 0 = [first] := by
    simp [cmdGranules, Nat.mod_eq_of_lt hg, hg, homeLimb_wr_rMigCmd, hh]
  rw [migCmd_start h, hlist]
  rfl

end

/-! ### DISCARD and SETELEM (R382, R392) -/

theorem exec_discard (l : LimbId) (first count : Nat) (s : State) : exec (.discard l first count) s = .next (migCmd l.val 3 0 first count zeroGranule s) := rfl

theorem exec_setelem (l : LimbId) (arg first count : Nat) (s : State) :
    exec (.setelem l arg first count) s = .next (migCmd l.val 2 arg first count (fun g t => t.setEntry g (setBits (t.entry g) 57 56 arg)) s) := rfl

section
variable (l g : Nat) (s : State)

theorem mem_migAbort : (migAbort l g s).mem = s.mem := by
  unfold migAbort
  split
  · exact mem_capRefresh ..
  · rfl

end

/-- A granule becomes FORM zero: its entry, its slot, and its bytes (R382). -/
theorem zeroGranule_spec {l g : Nat} {s : State} (h : homeLimb s g = some l) : eForm ((zeroGranule g s).entry g) = 0 ∧ slotOpen (zeroGranule g s) l g = false ∧
    ∀ a, memByte (zeroGranule g s) a = if granule * g ≤ a ∧ a < granule * (g + 1) then 0 else memByte s a := by
  have hmem := mem_migAbort l g s
  unfold zeroGranule
  rw [h]
  dsimp only
  generalize migAbort l g s = u at hmem
  refine ⟨?_, ?_, fun a => ?_⟩
  · rw [entry_capRefresh, entry_setEntry_self]
    exact eForm_zeroEntry _
  · rw [slotOpen_capRefresh]
    exact (slotOpen_withoutSlot _ l g g).trans (by simp)
  · rw [memByte_capRefresh, memByte, memByte, ← hmem]
    exact tget_tcut ..

theorem fields_setElem (w : Word) {arg : Nat} (h : arg < 4) : eElem (setBits w 57 56 arg) = arg ∧ eForm (setBits w 57 56 arg) = eForm w :=
  ⟨(bits_setBits_self _ _ _ _ (by decide) (by decide)).trans (Nat.mod_eq_of_lt h), bits_setBits_ne _ _ _ _ _ _ (by decide) (by decide) (by decide)⟩

theorem exec_migCmdDone (l : LimbId) (s : State) : exec (.migCmdDone l) s = .next (s.setFld (rMigCmd l.val) 63 63 0) := rfl

theorem migrationCommands : Claims.MigrationCommands := by
  refine fun i l op arg g count s hg => ⟨fun hi hbusy => ?_, fun hi ha hfree => ?_, fun hfree hhome => ⟨_, (exec_discard ..).trans (congrArg _ (migCmd_one hfree hg hhome)), ?_⟩,
    fun hfree hhome ha => ⟨_, (exec_setelem ..).trans (congrArg _ (migCmd_one hfree hg hhome)), ?_⟩, ⟨_, exec_migCmdDone l s, ?_⟩⟩
  · obtain ⟨-, eff, hexec, -⟩ := exec_migCommand (s := s) hi
    rw [hexec, migCmd_busy hbusy]
  · obtain ⟨hop, eff, hexec, heff⟩ := exec_migCommand (s := s) hi
    obtain ⟨h63, hop', harg, hcount, hfirst⟩ := fields_cmdWord (count := count) hop ha hg
    refine ⟨s.wr (rMigCmd l.val) (cmdWord op arg g count), ?_, ?_⟩
    · rw [hexec, migCmd_start hfree, heff ha]
    · rw [State.flag, State.fld, State.fld, State.fld, State.fld, State.rd_wr_self]
      exact ⟨h63, hop', harg, hcount, hfirst, rfl⟩
  · obtain ⟨hform, hslot, hbytes⟩ := zeroGranule_spec ((homeLimb_wr_rMigCmd (s := s) (cmdWord 3 0 g 0) g).trans hhome)
    exact ⟨hform, hslot, fun a h1 h2 => (hbytes a).trans (if_pos ⟨h1, h2⟩), fun a ha => (hbytes a).trans (if_neg (by omega))⟩
  · have hentry := entry_setEntry_self (s.wr (rMigCmd l.val) (cmdWord 2 arg g 0)) g (setBits (s.entry g) 57 56 arg)
    obtain ⟨helem, hform⟩ := fields_setElem (s.entry g) ha
    exact ⟨(congrArg eElem hentry).trans helem, (congrArg eForm hentry).trans hform, rfl⟩
  · exact ⟨State.flag_setFld_mem _ _ _ _ _ _ (by decide) (by decide) (by decide), fun off hoff => State.rd_setFld_ne _ _ _ _ hoff.symm, rfl⟩

/-- Settles O47: a slot and a migration by the entry that they rewrite, an eviction by what its sweeps and the migrations of pinned granules can do to an entry, and a command by the granules that it names. That the copies of an eviction are complete at once, without a time in BUSY, and the order of the sweeps are the model's choice (SPEC.md, entries 90 and 27). -/
theorem pools : Obligations.Pools := ⟨slotsAndMigrations, eviction, migrationCommands⟩

end Sys2Proof.Machine
end

section
/-! The scrubber, HOME_APPLY and the host window (R363, R366, R368, R410, R411, R416 to R419). -/

namespace Sys2Proof.Machine
open Sys2Proof.Claims

/-! ### The scrubber (R416 to R419) -/

section
variable {l : LimbId} {vault : Bool} {addr : Nat} {o : CellOutcome} {last : Bool} {s : State}

theorem exec_scrubRead_stopped (h : s.fld (limbBase l.val + 0x1040) 31 16 = 0) : exec (.scrubRead l vault addr o last) s = .next s := if_pos h

/-- SCRUB_PASSES takes a pass whose last word was read (R418). -/
def passEnds (l : Nat) (last : Bool) (t : State) : State := if last then t.satFld (limbBase l + 0x1040) 15 0 1 else t

/-- What a word bad twice of a granule's image does (R416). -/
def imagePoisoned (l : Nat) (vault : Bool) (form g : Nat) (cs : List (Nat × Nat)) (w : Nat) (t : State) : State :=
  memPoisoned l vault (imageWordAddr form g cs w) ((poisonWords form g cs w).foldl (fun u x => putX x true u) t)

theorem imagePoisoned_plain {g w : Nat} (cs : List (Nat × Nat)) (hw : w < 8192) (t : State) :
    imagePoisoned l.val vault 1 g cs w t = memPoisoned l.val vault (granule * g + 8 * w) (putX (8192 * g + w) true t) := by
  simp [imagePoisoned, imageWordAddr, poisonWords, Nat.mod_eq_of_lt hw]

variable (hrate : s.fld (limbBase l.val + 0x1040) 31 16 ≠ 0)
include hrate

theorem exec_scrubRead_free (hno : sectorOwner s l.val vault.toNat (addr / 1024) = none) : exec (.scrubRead l vault addr o last) s =
    .next (passEnds l.val last (if sectorCopy s l.val vault.toNat (addr / 1024) then s else scrubWord l.val vault o (freePoisoned l.val vault) s)) := by
  change execScrubRead l vault addr o last s = _
  unfold execScrubRead
  dsimp only
  rw [if_neg hrate, hno]
  rfl

theorem exec_scrubRead_owned {g : Nat} {e : Word} (hown : sectorOwner s l.val vault.toNat (addr / 1024) = some (g, e)) : exec (.scrubRead l vault addr o last) s =
    .next (passEnds l.val last (if eBusy e || slotOpen s l.val g then s
      else scrubWord l.val vault o (imagePoisoned l.val vault (eForm e) g (storedCodes s g) ((addr - 1024 * eBase e) / 8)) s)) := by
  change execScrubRead l vault addr o last s = _
  unfold execScrubRead
  dsimp only
  rw [if_neg hrate, hown]
  rfl

/-- Sectors of a migration's copy, of a busy granule and of one with an open slot are skipped (R418). -/
theorem exec_scrubRead_skips (h : (sectorOwner s l.val vault.toNat (addr / 1024) = none ∧ sectorCopy s l.val vault.toNat (addr / 1024) = true) ∨
    ∃ g e, sectorOwner s l.val vault.toNat (addr / 1024) = some (g, e) ∧ (eBusy e = true ∨ slotOpen s l.val g = true)) :
    exec (.scrubRead l vault addr o false) s = .next s := by
  rcases h with ⟨hno, hcopy⟩ | ⟨g, e, hown, hheld⟩
  · rw [exec_scrubRead_free hrate hno, if_pos hcopy]
    rfl
  · rw [exec_scrubRead_owned hrate hown, if_pos (by simpa using hheld)]
    rfl

/-- A word that the scrubber reads: what a bad one does depends on whether an image holds it. -/
theorem exec_scrubRead_reads (h : (sectorOwner s l.val vault.toNat (addr / 1024) = none ∧ sectorCopy s l.val vault.toNat (addr / 1024) = false) ∨
    ∃ g e, sectorOwner s l.val vault.toNat (addr / 1024) = some (g, e) ∧ eBusy e = false ∧ slotOpen s l.val g = false) :
    ∃ poison, (∀ o last, exec (.scrubRead l vault addr o last) s = .next (passEnds l.val last (scrubWord l.val vault o poison s))) ∧
      (sectorOwner s l.val vault.toNat (addr / 1024) = none → poison = freePoisoned l.val vault) ∧
      ∀ g e, sectorOwner s l.val vault.toNat (addr / 1024) = some (g, e) → poison = imagePoisoned l.val vault (eForm e) g (storedCodes s g) ((addr - 1024 * eBase e) / 8) := by
  rcases h with ⟨hno, hcopy⟩ | ⟨g, e, hown, hidle, hslot⟩
  · refine ⟨_, fun o last => ?_, fun _ => rfl, fun g e hown => ?_⟩
    · rw [exec_scrubRead_free hrate hno, if_neg (by simp [hcopy])]
    · rw [hno] at hown
      exact nomatch hown
  · refine ⟨imagePoisoned l.val vault (eForm e) g (storedCodes s g) ((addr - 1024 * eBase e) / 8), fun o last => ?_, fun hno => ?_, fun g' e' hown' => ?_⟩
    · rw [exec_scrubRead_owned hrate hown, if_neg (by simp [hidle, hslot])]
    · rw [hown] at hno
      exact nomatch hno
    · rw [hown] at hown'
      cases hown'
      rfl

end

/-! ### HOME_APPLY (R366, R368) -/

theorem exec_homeApply (s : State) : exec .homeApply s = .next (homeApply s) := rfl

/-- The store range of t, with its entries, migrations and slots, is that of s, and so is MOD_HOME. -/
structure SameStore (s t : State) : Prop where
  mem : t.mem = s.mem
  memX : t.memX = s.memX
  res : t.res = s.res
  migs : t.migs = s.migs
  slots : ∀ m, (t.limb m).slots = (s.limb m).slots
  home : t.rd rModHome = s.rd rModHome

theorem SameStore.capRefresh {s t : State} (h : SameStore s t) (l : Nat) : SameStore s (capRefresh l t) where
  mem := (mem_capRefresh ..).trans h.mem
  memX := (memX_capRefresh ..).trans h.memX
  res := (res_capRefresh ..).trans h.res
  migs := (migs_capRefresh ..).trans h.migs
  slots m := (slots_capRefresh ..).trans (h.slots m)
  home := ((sameModule_capRefresh l t).2 _ (by decide)).trans h.home

theorem sameStore_capAll (s : State) : SameStore s (capAll s) :=
  forEach_induction (P := SameStore s) (fun l _ h => h.capRefresh l) _ ⟨rfl, rfl, rfl, rfl, fun _ => rfl, rfl⟩

/-- The store range empties, and MOD_HOME stays (R368, R370). -/
theorem emptyStore_spec (s : State) : (emptyStore s).mem = [] ∧ (emptyStore s).memX = [] ∧ (emptyStore s).res = [] ∧ (emptyStore s).migs = [] ∧ (∀ m, ((emptyStore s).limb m).slots = []) ∧
    (emptyStore s).rd rModHome = s.rd rModHome := by
  have h := sameStore_capAll { s with mem := [], memX := [], res := [], felem := [], migs := [], limbs := s.limbs.map fun p => (p.1, { p.2 with slots := [], vlow := false }) }
  refine ⟨h.mem, h.memX, h.res, h.migs, fun m => (h.slots m).trans ?_, h.home⟩
  rw [State.limb, tget]
  dsimp only
  rw [tfind_map_value s.limbs (fun _ k => { k with slots := [], vlow := false }) m]
  cases tfind s.limbs m <;> rfl

/-- A mask that names a limb whose near memory has not trained (R368). -/
theorem untrained_iff (m : Nat) (h : m < 256) :
    m &&& (Config.nearTrained.toNat ^^^ 255) ≠ 0 ↔ ∃ i < 8, m.testBit i = true ∧ Config.nearTrained.getLsbD i = false := by
  have hbit : ∀ i < 8, (m &&& (Config.nearTrained.toNat ^^^ 255)).testBit i = (m.testBit i && !Config.nearTrained.getLsbD i) := fun i hi => by
    have h255 : Nat.testBit 255 i = true := by
      rw [show 255 = 2 ^ 8 - 1 from rfl, Nat.testBit_two_pow_sub_one]
      exact decide_eq_true hi
    rw [Nat.testBit_and, Nat.testBit_xor, h255, Bool.xor_true, BitVec.testBit_toNat]
  constructor
  · intro hne
    obtain ⟨i, hi⟩ := Nat.exists_testBit_of_ne_zero hne
    have hm : m.testBit i = true := by rw [Nat.testBit_and] at hi; exact (Bool.and_eq_true _ _ ▸ hi).1
    have h8 : i < 8 := by
      by_contra hge
      rw [Nat.testBit_lt_two_pow (h.trans_le (Nat.pow_le_pow_right (by decide) (by omega) : 2 ^ 8 ≤ 2 ^ i))] at hm
      exact absurd hm (by decide)
    rw [hbit i h8, hm] at hi
    exact ⟨i, h8, hm, by simpa using hi⟩
  · rintro ⟨i, h8, hm, hno⟩ h0
    have := hbit i h8
    rw [h0, hm, hno, Nat.zero_testBit] at this
    exact absurd this (by decide)

section
variable {s : State}

/-- A mask that is 0 or names an untrained limb is refused with BAD (R368). -/
theorem homeApply_refused (h : s.fld rModHome 7 0 = 0 ∨ ∃ i < 8, (s.fld rModHome 7 0).testBit i = true ∧ Config.nearTrained.getLsbD i = false) :
    homeApply s = (s.setFld rModHome 17 17 1).setFld rModHome 16 16 0 :=
  if_pos (h.imp_right (untrained_iff _ (nbits_lt _ 7 0)).2)

/-- Any other mask goes into ACTIVE, and the store range empties (R368). -/
theorem homeApply_taken (h0 : s.fld rModHome 7 0 ≠ 0) (h : ∀ i < 8, (s.fld rModHome 7 0).testBit i = true → Config.nearTrained.getLsbD i = true) :
    homeApply s = emptyStore ((setActive (s.fld rModHome 7 0) s).setFld rModHome 16 16 0) := by
  refine if_neg (not_or.2 ⟨h0, fun hne => ?_⟩)
  obtain ⟨i, hi, hm, hno⟩ := (untrained_iff _ (nbits_lt _ 7 0)).1 hne
  rw [h i hi hm] at hno
  exact absurd hno (by decide)

/-- MOD_HOME once a mask has gone into ACTIVE: APPLY clear, MASK as before, ACTIVE and its count (R366). -/
theorem fields_setActive (s : State) {m : Nat} (hm : m < 256) :
    ((setActive m s).setFld rModHome 16 16 0).flag rModHome 16 = false ∧ ((setActive m s).setFld rModHome 16 16 0).fld rModHome 7 0 = s.fld rModHome 7 0 ∧
      ((setActive m s).setFld rModHome 16 16 0).fld rModHome 47 40 = m ∧ ((setActive m s).setFld rModHome 16 16 0).fld rModHome 39 36 = popcount 8 m := by
  have hcount : popcount 8 m < 16 := (List.length_filter_le _ _).trans_lt (by decide)
  refine ⟨State.flag_setFld_mem _ _ _ _ _ _ (by decide) (by decide) (by decide), ?_, ?_, ?_⟩ <;>
    simp only [setActive, State.fld_setFld_ne, State.fld_setFld_self, Nat.reduceLeDiff, Nat.reduceLT, or_true, true_or]
  · exact Nat.mod_eq_of_lt hm
  · exact Nat.mod_eq_of_lt hcount

theorem homeApply_spec (s : State) : (homeApply s).flag rModHome 16 = false ∧ (homeApply s).fld rModHome 7 0 = s.fld rModHome 7 0 ∧
    (s.fld rModHome 7 0 = 0 ∨ (∃ i < 8, (s.fld rModHome 7 0).testBit i = true ∧ Config.nearTrained.getLsbD i = false) → (homeApply s).flag rModHome 17 = true ∧ homeApply s = { s with regs := (homeApply s).regs }) ∧
    (s.fld rModHome 7 0 ≠ 0 → (∀ i < 8, (s.fld rModHome 7 0).testBit i = true → Config.nearTrained.getLsbD i = true) → (homeApply s).fld rModHome 47 40 = s.fld rModHome 7 0 ∧
      (homeApply s).fld rModHome 39 36 = ((List.range 8).filter (fun i => (s.fld rModHome 7 0).testBit i)).length ∧ (homeApply s).mem = [] ∧ (homeApply s).memX = [] ∧ (homeApply s).res = [] ∧
      (homeApply s).migs = [] ∧ ∀ l, ((homeApply s).limb l).slots = []) := by
  by_cases h : s.fld rModHome 7 0 = 0 ∨ ∃ i < 8, (s.fld rModHome 7 0).testBit i = true ∧ Config.nearTrained.getLsbD i = false
  · rw [homeApply_refused h]
    refine ⟨State.flag_setFld_mem _ _ _ _ _ _ (by decide) (by decide) (by decide), ?_, fun _ => ⟨?_, rfl⟩, fun h0 htrained => ?_⟩
    · rw [State.fld_setFld_ne _ _ _ _ _ _ _ _ (by decide) (by decide) (by decide), State.fld_setFld_ne _ _ _ _ _ _ _ _ (by decide) (by decide) (by decide)]
    · rw [State.flag_setFld_ne _ _ _ _ _ _ _ (by decide) (by decide) (by decide)]
      exact State.flag_setFld_mem _ _ _ _ _ _ (by decide) (by decide) (by decide)
    · obtain ⟨i, hi, hm, hno⟩ := h.resolve_left h0
      rw [htrained i hi hm] at hno
      exact absurd hno (by decide)
  · obtain ⟨h0, hno⟩ := not_or.1 h
    have htrained : ∀ i < 8, (s.fld rModHome 7 0).testBit i = true → Config.nearTrained.getLsbD i = true := fun i hi hm => by
      by_contra hc
      exact hno ⟨i, hi, hm, by simpa using hc⟩
    obtain ⟨happly, hmask, hactive, hcount⟩ := fields_setActive s (m := s.fld rModHome 7 0) (nbits_lt _ 7 0)
    obtain ⟨hmem, hpoison, hres, hmigs, hslots, hhome⟩ := emptyStore_spec ((setActive (s.fld rModHome 7 0) s).setFld rModHome 16 16 0)
    rw [homeApply_taken h0 htrained]
    generalize emptyStore ((setActive (s.fld rModHome 7 0) s).setFld rModHome 16 16 0) = t at hmem hpoison hres hmigs hslots hhome ⊢
    have hfld : ∀ hi lo, t.fld rModHome hi lo = ((setActive (s.fld rModHome 7 0) s).setFld rModHome 16 16 0).fld rModHome hi lo := fun hi lo => congrArg (bits · hi lo) hhome
    exact ⟨(congrArg (bit · 16) hhome).trans happly, (hfld ..).trans hmask, fun hyes => absurd hyes h,
      fun _ _ => ⟨(hfld ..).trans hactive, (hfld ..).trans hcount, hmem, hpoison, hres, hmigs, hslots⟩⟩

end

theorem scrubAndHome : Claims.ScrubAndHome := by
  refine fun s => ⟨fun l vault addr hrate => ⟨fun o hskip => exec_scrubRead_skips hrate hskip, fun hreads => ?_⟩, fun l vault addr o last hrate => exec_scrubRead_stopped hrate,
    ⟨_, exec_homeApply s, homeApply_spec s⟩⟩
  obtain ⟨poison, hread, hfree, hown⟩ := exec_scrubRead_reads hrate hreads
  have hword : ∀ o, exec (.scrubRead l vault addr o false) s = .next (scrubWord l.val vault o poison s) := fun o => hread o false
  refine ⟨hword .clean, hread .clean true, ⟨memCorrected l.val vault 1 s, hword .corrected, fld_memCorrected .., ?_⟩, hword .retried, fun hno => ?_, fun g e w ho hform hw hlt => ?_⟩
  · rw [memCorrected_rest]
  · rw [hword, hfree hno]
    rfl
  · rw [hword, hown g e ho, hform, ← hw]
    exact congrArg Host.Outcome.next (imagePoisoned_plain _ hlt s)

/-! ### The host window (R363, R410, R411) -/

section
variable {addr len : Nat} {write : Bool} {data : List Byte} {s : State}

theorem exec_hostWindowAccess_outside (h : inHostWindow addr = false) : exec (.hostWindowAccess addr write len data) s = .next s := if_pos (by simp [h])

theorem exec_hostWindowAccess_fails (hin : inHostWindow addr = true) (h : winTranslate s addr write = none) :
    exec (.hostWindowAccess addr write len data) s = .next (winError addr s) := by
  change execHostWindowAccess addr write len data s = _
  rw [execHostWindowAccess, if_neg (by simp [hin]), h]

theorem exec_hostWindowAccess {h : Nat × Bool} (hin : inHostWindow addr = true) (ht : winTranslate s addr write = some h) : exec (.hostWindowAccess addr write len data) s =
    .next (if write then s.emit (.hostWrite h.1 data h.2) else hostRead ⟨1, 0, 0, h.1, len, addr⟩ h.2 s) := by
  change execHostWindowAccess addr write len data s = _
  rw [execHostWindowAccess, if_neg (by simp [hin]), ht]

end

/-- A tag above every tag in use is not in use (R752). -/
theorem tfind_freshTag {α : Type} (t : Tab α) : tfind t (freshTag t) = none := by
  have hmono : ∀ (u : Tab α) (m : Nat), m ≤ u.foldl (fun m p => max m (p.1 + 1)) m := fun u => by
    induction u with
    | nil => exact fun m => le_refl m
    | cons p u ih => exact fun m => (le_max_left _ _).trans (ih _)
  have habove : ∀ (u : Tab α) (m : Nat), ∀ p ∈ u, p.1 < u.foldl (fun m p => max m (p.1 + 1)) m := fun u => by
    induction u with
    | nil => exact fun m p hp => nomatch hp
    | cons q u ih =>
      intro m p hp
      rcases List.mem_cons.1 hp with rfl | hp
      · exact (le_max_right m (p.1 + 1)).trans (hmono u _)
      · exact ih _ p hp
  have hnone : ∀ (u : Tab α) (i : Nat), (∀ p ∈ u, p.1 ≠ i) → tfind u i = none := fun u i => by
    induction u with
    | nil => exact fun _ => rfl
    | cons p u ih =>
      intro h
      rw [tfind, if_neg (h p List.mem_cons_self)]
      exact ih fun q hq => h q (List.mem_cons_of_mem _ hq)
  exact hnone t _ fun p hp => (habove t 0 p hp).ne

theorem hostWindow : Claims.HostWindow := by
  refine fun s addr len data => ⟨fun hin write h ht => ⟨?_, ?_⟩, fun hin write ht => exec_hostWindowAccess_fails hin ht, fun write hout => exec_hostWindowAccess_outside hout⟩
  · rintro rfl
    exact exec_hostWindowAccess hin ht
  · rintro rfl
    exact ⟨_, freshTag s.hreqs, exec_hostWindowAccess hin ht, rfl, tfind_freshTag _, tfind_tset_self .., fun g hg => tfind_tset_ne _ _ hg.symm, rfl⟩

/-- Settles O48: the scrubber by what owns the sector that it reads, HOME_APPLY by its mask, and the host window by its translation. The open INFO of a bad word that no image holds, and that HOME_APPLY takes the MASK of the moment at which it acts, are the model's choice (SPEC.md, entries 72 and 27). -/
theorem homesAndWindow : Obligations.HomesAndWindow := ⟨scrubAndHome, hostWindow⟩

end Sys2Proof.Machine
end
section
/-! The registers and the record of a limb's Slew: which registers are others, and what an update of the record leaves (R420, R432). -/

namespace Sys2Proof.Machine

@[simp] theorem State.rd_modLimb (s : State) (l off : Nat) (f : Limb → Limb) : (s.modLimb l f).rd off = s.rd off := rfl

theorem State.fld_congr {s t : State} {off : Nat} (h : t.rd off = s.rd off) (hi lo : Nat) : t.fld off hi lo = s.fld off hi lo := congrArg (bits · hi lo) h

theorem State.flag_congr {s t : State} {off : Nat} (h : t.rd off = s.rd off) (i : Nat) : t.flag off i = s.flag off i := congrArg (bit · i) h

theorem chanOff_ne {l n w v : Nat} (h : w ≠ v) : chanOff l n w ≠ chanOff l n v := by
  simp only [chanOff]
  omega

theorem rSlwStat_ne_chanOff (l n w : Nat) : rSlwStat l ≠ chanOff l n w := by
  simp only [rSlwStat, chanOff]
  omega

theorem rSlwCq_ne_chanOff (l n w : Nat) : rSlwCq l ≠ chanOff l n w := by
  simp only [rSlwCq, chanOff]
  omega

theorem chanArmed_congr {s t : State} {l n : Nat} (h : t.rd (chanOff l n 0) = s.rd (chanOff l n 0)) : chanArmed t l n = chanArmed s l n := State.flag_congr h 44

theorem findRun_congr {s t : State} {l : Nat} (h : (t.limb l).runs = (s.limb l).runs) (n : Nat) : findRun t l n = findRun s l n := by
  rw [findRun, findRun, h]

/-- A change of a limb's record alone, the registers as they may be (R420). -/
theorem onlyLimb_modLimb {l : Nat} {s t : State} (h : t = { s with regs := t.regs }) (f : Limb → Limb) : Claims.OnlyLimb l s (t.modLimb l f) := by
  have hlimbs : t.limbs = s.limbs := by rw [h]
  refine ⟨by rw [h]; rfl, fun m hm => ?_⟩
  rw [limb_modLimb_ne _ _ hm.symm, State.limb, hlimbs, State.limb]

end Sys2Proof.Machine
end

section
/-! Slew channels armed and configured: ARM, SETGEN, window writes and TAIL writes, each by what it writes and what it leaves (R431 to R438, R444). -/

namespace Sys2Proof.Machine

/-! ### ARM (R432) -/

section
variable {l n arg lring : Nat} {s : State}

/-- The limb's record after an ARM: the channel waits once with its latest argument, and a run of it counts the ARM (R432, R435). -/
def armedLimb (n arg lring : Nat) (k : Limb) : Limb :=
  { k with
    startq := if k.startq.contains n then k.startq else k.startq ++ [n]
    args := tset k.args n (arg, lring)
    runs := k.runs.map (fun r => if r.chan = n then { r with rearms := r.rearms + 1 } else r) }

/-- The channel's entry after an ARM: GEN advances, an overrun is counted, ARM is set (R432). -/
def armedEntry (l n : Nat) (s : State) : State :=
  let s1 := s.setFld (chanOff l n 0) 63 48 (chanGen s l n + 1)
  (if isRunning s l n || chanArmed s l n then s1.satFld (chanOff l n 1) 55 48 1 else s1).setFld (chanOff l n 0) 44 44 1

theorem armChan_eq : armChan l n arg lring s = (armedEntry l n s).modLimb l (armedLimb n arg lring) := rfl

theorem armedEntry_rest : armedEntry l n s = { s with regs := (armedEntry l n s).regs } := by
  unfold armedEntry
  split <;> rfl

theorem rd_armedEntry_ne {off : Nat} (h0 : off ≠ chanOff l n 0) (h1 : off ≠ chanOff l n 1) : (armedEntry l n s).rd off = s.rd off := by
  unfold armedEntry
  dsimp only
  split <;> simp only [State.rd_setFld_ne _ _ _ _ h0.symm, rd_satFld_ne _ _ _ _ h1.symm]

theorem rd_armedEntry_word0 : (armedEntry l n s).rd (chanOff l n 0) = setBits (setBits (s.rd (chanOff l n 0)) 63 48 (chanGen s l n + 1)) 44 44 1 := by
  unfold armedEntry
  dsimp only
  split <;> simp only [State.rd_setFld_self, rd_satFld_ne _ _ _ _ (chanOff_ne (show 1 ≠ 0 by decide))]

theorem chanGen_armedEntry : chanGen (armedEntry l n s) l n = (chanGen s l n + 1) % 65536 := by
  rw [chanGen, State.fld, rd_armedEntry_word0, bits_setBits_ne _ _ _ _ _ _ (by decide) (by decide) (by decide), bits_setBits_self _ _ _ _ (by decide) (by decide)]
  rfl

theorem chanArmed_armedEntry : chanArmed (armedEntry l n s) l n = true := by
  rw [chanArmed, State.flag, rd_armedEntry_word0, bit_setBits_mem _ _ _ _ _ (by decide) (by decide) (by decide)]
  rfl

theorem overruns_armedEntry : (armedEntry l n s).fld (chanOff l n 1) 55 48 =
    if isRunning s l n || chanArmed s l n then min (s.fld (chanOff l n 1) 55 48 + 1) 255 else s.fld (chanOff l n 1) 55 48 := by
  have hne : chanOff l n 0 ≠ chanOff l n 1 := chanOff_ne (by decide)
  unfold armedEntry
  dsimp only
  rw [State.fld_setFld_ne _ _ _ _ _ _ _ _ (by decide) (by decide) (.inl hne)]
  split
  · rw [State.fld_satFld_self _ _ _ _ _ (by decide) (by decide), State.fld_setFld_ne _ _ _ _ _ _ _ _ (by decide) (by decide) (.inl hne)]
    rfl
  · rw [State.fld_setFld_ne _ _ _ _ _ _ _ _ (by decide) (by decide) (.inl hne)]

end

/-! ### SETGEN (R433) -/

theorem setGen_idle {l n v : Nat} {s : State} (hr : isRunning s l n = false) (ha : chanArmed s l n = false) : setGen l n v s = s.setFld (chanOff l n 0) 63 48 v :=
  if_neg (by simp [hr, ha])

theorem setGen_busy {l n v : Nat} {s : State} (h : isRunning s l n = true ∨ chanArmed s l n = true) : setGen l n v s = s.satFld (rSlwStat l) 47 32 1 :=
  if_pos (by simpa using h)

/-! ### Commands of a channel by number -/

section
variable {l : LimbId} {n : Nat} {s : State} (hn : n < 4096)
include hn

theorem exec_arm {v : Nat} (hv : v < 65536) : exec (.arm l n v) s = .next (armChan l.val n v 0xFF s) := by
  rw [show exec (.arm l n v) s = .next (armChan l.val (n % 4096) (v % 65536) 0xFF s) from rfl, Nat.mod_eq_of_lt hn, Nat.mod_eq_of_lt hv]

theorem exec_setgen (v : Nat) : exec (.setgen l n v) s = .next (setGen l.val n v s) := by
  rw [show exec (.setgen l n v) s = .next (setGen l.val (n % 4096) v s) from rfl, Nat.mod_eq_of_lt hn]

theorem exec_slewCancel : exec (.slewCancel l n) s = .next (cancelChan l.val n s) := by
  rw [show exec (.slewCancel l n) s = .next (cancelChan l.val (n % 4096) s) from rfl, Nat.mod_eq_of_lt hn]

theorem exec_channelWindowWrite {w : Nat} (hw : w < 8) (v : Word) : exec (.channelWindowWrite l n w v) s = .next (chanWrite l.val n w v s) := by
  rw [show exec (.channelWindowWrite l n w v) s = .next (chanWrite l.val (n % 4096) (w % 8) v s) from rfl, Nat.mod_eq_of_lt hn, Nat.mod_eq_of_lt hw]

end

theorem slewArming : Claims.SlewArming := by
  intro l n v s hn hv
  refine ⟨⟨_, exec_arm hn hv, ?_⟩, fun hr ha => ⟨_, exec_setgen hn v, ?_⟩, fun h => ?_⟩
  · rw [armChan_eq, limb_modLimb_self]
    refine ⟨chanGen_armedEntry, chanArmed_armedEntry, tget_tset_self .., ?_, overruns_armedEntry, fun off => rd_armedEntry_ne, onlyLimb_modLimb armedEntry_rest _⟩
    rw [armedEntry_rest]
    exact if_congr List.contains_iff_mem rfl rfl
  · rw [setGen_idle hr ha]
    refine ⟨?_, fun off ho => State.rd_setFld_ne _ _ _ _ ho.symm, rfl⟩
    exact (State.fld_setFld_self _ _ _ _ _ (by decide) (by decide)).trans (Nat.mod_eq_of_lt hv)
  · rw [exec_setgen hn, setGen_busy h]

/-! ### Window writes (R437, R438) -/

/-- A word as a window write leaves it, from the old word and the value: GEN and ARM, OVERRUN and LASTBASE are kept (R438). -/
def windowWord (w : Nat) (o v : Word) : Word :=
  if w = 0 then setBits (setBits v 63 48 (bits o 63 48)) 44 44 (bits o 44 44) else if w = 1 then setBits v 55 48 (bits o 55 48)
  else if w = 7 then setBits v 47 0 (bits o 47 0) else v

/-- A limb's record after a write to the entry of a channel that runs: the cached copy is out of date (R437). -/
def entryStale (n : Nat) (k : Limb) : Limb := { k with stale := if k.stale.contains n then k.stale else n :: k.stale }

/-- The state with the cached copy of a channel that runs out of date (R437). -/
def copyStale (l n : Nat) (s : State) : State := if isRunning s l n then s.modLimb l (entryStale n) else s

section
variable {l n w : Nat} {v : Word} {s : State}

/-- A window write to a channel whose entry may be written. -/
theorem chanWrite_taken (ha : chanArmed s l n = false) (h6 : ¬ (w = 6 ∧ s.fld (chanOff l n 0) 33 31 = 4 ∧ isRunning s l n = true)) :
    chanWrite l n w v s = (copyStale l n s).wr (chanOff l n w) (windowWord w (s.rd (chanOff l n w)) v) := if_neg (by rw [ha]; simpa using h6)

theorem chanWrite_dropped (h : chanArmed s l n = true ∨ (w = 6 ∧ s.fld (chanOff l n 0) 33 31 = 4 ∧ isRunning s l n = true)) :
    chanWrite l n w v s = s.satFld (rSlwStat l) 47 32 1 := if_pos h

theorem rd_copyStale (off : Nat) : (copyStale l n s).rd off = s.rd off := by
  unfold copyStale
  split <;> rfl

theorem limbs_copyStale_idle (h : isRunning s l n = false) : (copyStale l n s).limbs = s.limbs := by simp [copyStale, h]

theorem onlyLimb_copyStale_wr (off : Nat) (x : Word) : Claims.OnlyLimb l s ((copyStale l n s).wr off x) := by
  unfold copyStale
  split
  · exact ⟨rfl, (onlyLimb_modLimb (l := l) (s := s) rfl (entryStale n)).2⟩
  · exact ⟨rfl, fun _ _ => rfl⟩

end

section
variable (o v : Word)

theorem bits_windowWord_0 : bits (windowWord 0 o v) 63 48 = bits o 63 48 ∧ bit (windowWord 0 o v) 44 = (bits o 44 44).testBit 0 ∧ bits (windowWord 0 o v) 43 0 = bits v 43 0 ∧
    bits (windowWord 0 o v) 47 45 = bits v 47 45 := by
  have hgen : bits o 63 48 % 2 ^ 16 = bits o 63 48 := Nat.mod_eq_of_lt (nbits_lt ..)
  rw [windowWord, if_pos rfl]
  refine ⟨?_, bit_setBits_mem _ _ _ _ _ (by decide) (by decide) (by decide), ?_, ?_⟩
  · rw [bits_setBits_ne _ _ _ _ _ _ (by decide) (by decide) (by decide), bits_setBits_self _ _ _ _ (by decide) (by decide), hgen]
  · rw [bits_setBits_ne _ _ _ _ _ _ (by decide) (by decide) (by decide), bits_setBits_ne _ _ _ _ _ _ (by decide) (by decide) (by decide)]
  · rw [bits_setBits_ne _ _ _ _ _ _ (by decide) (by decide) (by decide), bits_setBits_ne _ _ _ _ _ _ (by decide) (by decide) (by decide)]

theorem bits_windowWord_1 : bits (windowWord 1 o v) 55 48 = bits o 55 48 ∧ bits (windowWord 1 o v) 47 0 = bits v 47 0 :=
  ⟨(bits_setBits_self _ _ _ _ (by decide) (by decide)).trans (Nat.mod_eq_of_lt (nbits_lt ..)), bits_setBits_ne _ _ _ _ _ _ (by decide) (by decide) (by decide)⟩

theorem bits_windowWord_7 : bits (windowWord 7 o v) 47 0 = bits o 47 0 :=
  (bits_setBits_self _ _ _ _ (by decide) (by decide)).trans (Nat.mod_eq_of_lt (nbits_lt ..))

theorem windowWord_plain {w : Nat} (h : w ∉ [0, 1, 7]) : windowWord w o v = v := by
  simp only [List.mem_cons, List.not_mem_nil, or_false, not_or] at h
  obtain ⟨h0, h1, h7⟩ := h
  rw [windowWord, if_neg h0, if_neg h1, if_neg h7]

end

/-- A single bit as a field. -/
theorem testBit_bits_single (w : Word) (i : Nat) : (bits w i i).testBit 0 = bit w i := by
  rw [bits, testBit_nbits, bit]
  simp

/-! ### TAIL writes (R444) -/

theorem cqTailWrite_taken {l tail : Nat} {s : State} (ht : tail < 16384) (h : (s.fld (rSlwCq l) 45 32 + 16384 - tail) % 16384 ≤ 8192) :
    cqTailWrite l tail s = s.setFld (rSlwCq l) 13 0 tail := if_neg (by rw [Nat.mod_eq_of_lt ht]; omega)

theorem cqTailWrite_dropped {l tail : Nat} {s : State} (ht : tail < 16384) (h : 8192 < (s.fld (rSlwCq l) 45 32 + 16384 - tail) % 16384) :
    cqTailWrite l tail s = s.satFld (rSlwStat l) 47 32 1 := if_pos (by rw [Nat.mod_eq_of_lt ht]; exact h)

theorem slewWindows : Claims.SlewWindows := by
  intro l n w v s hn hw
  refine ⟨fun ha h6 => ⟨_, exec_channelWindowWrite hn hw v, ?_⟩, fun h => ?_, fun tail ht => ⟨fun h => ⟨_, rfl, ?_⟩, fun h => ?_⟩⟩
  · rw [chanWrite_taken ha h6]
    simp only [chanGen, chanArmed, State.fld, State.flag]
    refine ⟨fun h => ?_, ?_, ?_, ?_, fun off ho => (State.rd_wr_ne _ _ ho.symm).trans (rd_copyStale off), onlyLimb_copyStale_wr .., limbs_copyStale_idle⟩
    · rw [State.rd_wr_self, windowWord_plain _ _ h]
    · rintro rfl
      obtain ⟨hgen, harm, hlow, hhint⟩ := bits_windowWord_0 (s.rd (chanOff l.val n 0)) v
      rw [State.rd_wr_self]
      exact ⟨hgen, harm.trans ((testBit_bits_single ..).trans ha), hlow, hhint⟩
    · rintro rfl
      rw [State.rd_wr_self]
      exact bits_windowWord_1 ..
    · rintro rfl
      rw [State.rd_wr_self]
      exact bits_windowWord_7 ..
  · rw [exec_channelWindowWrite hn hw, chanWrite_dropped h]
  · rw [cqTailWrite_taken ht h]
    exact ⟨(State.fld_setFld_self _ _ _ _ _ (by decide) (by decide)).trans (Nat.mod_eq_of_lt ht), State.fld_setFld_ne _ _ _ _ _ _ _ _ (by decide) (by decide) (.inr (by decide)), rfl⟩
  · exact congrArg Host.Outcome.next (cqTailWrite_dropped ht h)

/-- Settles O49: ARM and SETGEN by the channel's entry and the limb's record, window and TAIL writes by the word each leaves. -/
theorem slewStarts : Obligations.SlewStarts := ⟨slewArming, slewWindows⟩

end Sys2Proof.Machine
end
section
/-! A Slew transfer from its start to its completion record: the record that a transfer leaves, the start of a pushed transfer, completion, CANCEL and FSMC delivery (R434 to R446). -/

namespace Sys2Proof.Machine

/-! ### The completion record (R440, R442, R444) -/

/-- A record of four words enters limb l's ring; a full ring loses its oldest (R442, R444). -/
def recordEntered (l : Nat) (rec4 : List Word) (s : State) : State :=
  let head := s.fld (rSlwCq l) 45 32
  let tail := s.fld (rSlwCq l) 13 0
  let s1 := wr4 (limbBase l + 0xC0000 + 32 * (head % 8192)) rec4 s
  let s2 := if (head + 16384 - tail) % 16384 = 8192 then (s1.satFld (rSlwCq l) 63 48 1).setFld (rSlwCq l) 13 0 (tail + 1) else s1
  (s2.setFld (rSlwCq l) 45 32 (head + 1)).modLimb l (fun k => { k with slwSeq := (k.slwSeq + 1) % 2 ^ 32 })

/-- What a record with a status and no notice changes: HEAD advances, the slot at HEAD holds the status; the registers below the ring but HEAD's, the queue and runs of the limb, the cores and the store range stay. -/
structure Recorded (l status : Nat) (s t : State) : Prop where
  head : t.fld (rSlwCq l) 45 32 = (s.fld (rSlwCq l) 45 32 + 1) % 16384
  status : bits (t.rd (limbBase l + 0xC0000 + 32 * (s.fld (rSlwCq l) 45 32 % 8192))) 23 20 = status
  rd : ∀ off, off < limbBase l + 0xC0000 → rSlwCq l ≠ off → t.rd off = s.rd off
  startq : (t.limb l).startq = (s.limb l).startq
  runs : (t.limb l).runs = (s.limb l).runs
  cores : t.cores = s.cores
  mem : t.mem = s.mem

theorem recordEntered_spec (l : Nat) (w : Word) (ws : List Word) (s : State) : Recorded l (bits w 23 20) s (recordEntered l (w :: ws) s) := by
  have hslot : rSlwCq l ≠ limbBase l + 0xC0000 + 32 * (s.fld (rSlwCq l) 45 32 % 8192) := by
    simp only [rSlwCq]
    omega
  unfold recordEntered
  dsimp only
  refine ⟨?head, ?status, ?rd, ?startq, ?runs, ?cores, ?mem⟩
  case head => exact State.fld_setFld_self _ _ _ _ _ (by decide) (by decide)
  case status =>
    rw [State.rd_modLimb, State.rd_setFld_ne _ _ _ _ hslot]
    split
    · rw [State.rd_setFld_ne _ _ _ _ hslot, rd_satFld_ne _ _ _ _ hslot, rd_wr4_first]
      rfl
    · rw [rd_wr4_first]
      rfl
  case rd =>
    intro off hoff hcq
    have hother : ∀ k ≤ 24, limbBase l + 0xC0000 + 32 * (s.fld (rSlwCq l) 45 32 % 8192) + k ≠ off := fun k _ => by omega
    rw [State.rd_modLimb, State.rd_setFld_ne _ _ _ _ hcq]
    split
    · rw [State.rd_setFld_ne _ _ _ _ hcq, rd_satFld_ne _ _ _ _ hcq, rd_wr4_ne _ _ hother]
    · rw [rd_wr4_ne _ _ hother]
  case startq =>
    rw [limb_modLimb_self]
    split <;> rfl
  case runs =>
    rw [limb_modLimb_self]
    split <;> rfl
  case cores => split <;> rfl
  case mem => split <;> rfl

theorem fitField_rest (w n : Nat) (s : State) : (fitField w n s).2 = { s with draws := (fitField w n s).2.draws } := by
  unfold fitField
  split <;> rfl

/-- STATUS of a record's first word (R442). -/
theorem status_recordWord {gen now rearms status l chan : Nat} (ovf : Bool) (hstatus : status < 16) (hl : l < 8) (hchan : chan < 4096) :
    bits (wd (gen * 2 ^ 48 + now * 2 ^ 32 + rearms * 2 ^ 24 + status * 2 ^ 20 + ovf.toNat * 2 ^ 19 + l * 2 ^ 16 + chan)) 23 20 = status := by
  have hovf : ovf.toNat < 2 := Bool.toNat_lt ovf
  simp only [bits, nbits, wd, BitVec.toNat_ofNat, Nat.shiftRight_eq_div_pow]
  omega

/-- A record of a transfer that ended well or was cancelled, with no notice asked: no error is raised and nothing is posted (R442, R443, R445). -/
theorem slewRecord_quiet {l chan status : Nat} (hl : l < 8) (hchan : chan < 4096) (hstatus : status = 0 ∨ status = 4) (gen rearms : Nat) (ovf : Bool) (clamps base step lines lring : Nat) (s : State) :
    Recorded l status s (slewRecord l chan gen rearms status ovf clamps base step lines false lring s) := by
  have hfit := fitField_rest 8 rearms s
  have hword := status_recordWord (gen := gen % 65536) (now := chanGen s l chan) (rearms := (fitField 8 rearms s).1) ovf (show status < 16 by omega) hl hchan
  have hentered := recordEntered_spec l (wd (gen % 65536 * 2 ^ 48 + chanGen s l chan * 2 ^ 32 + (fitField 8 rearms s).1 * 2 ^ 24 + status * 2 ^ 20 + ovf.toNat * 2 ^ 19 + l * 2 ^ 16 + chan))
    [wd (clamps % 65536 * 2 ^ 48 + base % 2 ^ 48), wd (step % 65536 * 2 ^ 48 + lines % 2 ^ 48), wd ((s.limb l).slwSeq % 2 ^ 32 * 2 ^ 32)] (fitField 8 rearms s).2
  rw [hword, hfit] at hentered
  have hquiet : ∀ t : State, (if status = 2 then raise (domLimb l) 1 0 0x0212 (wd chan) t else if status ∈ [1, 3, 5, 6] then raise (domLimb l) 2 0 (0x0210 + status) (wd chan) t else t) = t := fun t => by
    rcases hstatus with rfl | rfl <;> rfl
  rw [slewRecord, hfit]
  exact (hquiet _).symm ▸ ⟨hentered.head, hentered.status, hentered.rd, hentered.startq, hentered.runs, hentered.cores, hentered.mem⟩

/-! ### The runs of a limb -/

theorem State.limb_setFld (s : State) (off hi lo n l : Nat) : (s.setFld off hi lo n).limb l = s.limb l := rfl

section
variable {l n : Nat} {s : State}

theorem chan_of_findRun {r : Run} (h : findRun s l n = some r) : r.chan = n := by simpa using List.find?_some h

theorem isRunning_eq_false : isRunning s l n = false ↔ findRun s l n = none := by simp [isRunning]

theorem chan_fail (r : Run) (st : Nat) : (r.fail st).chan = r.chan := by
  unfold Run.fail
  split <;> rfl

theorem status_fail {r : Run} (h : r.status = 0) (st : Nat) : (r.fail st).status = st := by rw [Run.fail, if_pos h]

/-- A channel's run replaced by another of the channel is the run that is found. -/
theorem findRun_putRun {r q : Run} (hr : r.chan = n) (h : findRun s l n = some q) : findRun (putRun l r s) l n = some r := by
  have hsame : ((fun x : Run => x.chan == n) ∘ fun x => if x.chan = r.chan then r else x) = fun x => x.chan == n := funext fun x => by
    rw [Function.comp_apply]
    split
    · simp [hr, ‹x.chan = r.chan›]
    · rfl
  have hq : q.chan = r.chan := (chan_of_findRun h).trans hr.symm
  rw [findRun, putRun, limb_modLimb_self, List.find?_map, hsame, show List.find? (fun x : Run => x.chan == n) (s.limb l).runs = some q from h, Option.map_some, if_pos hq]

theorem rd_putRun (r : Run) (off : Nat) : (putRun l r s).rd off = s.rd off := State.rd_modLimb ..

theorem startq_putRun (r : Run) : ((putRun l r s).limb l).startq = (s.limb l).startq := by rw [putRun, limb_modLimb_self]

theorem not_mem_startq_unqueue : n ∉ ((unqueue l n s).limb l).startq := by
  rw [unqueue, limb_modLimb_self]
  simp

theorem runs_unqueue : ((unqueue l n s).limb l).runs = (s.limb l).runs := by rw [unqueue, limb_modLimb_self]

/-- ARM cleared. -/
theorem chanArmed_cleared : chanArmed (s.setFld (chanOff l n 0) 44 44 0) l n = false :=
  (State.flag_setFld_mem _ _ _ _ _ _ (by decide) (by decide) (by decide)).trans (Nat.zero_testBit 0)

end

/-! ### Start (R435, R436) -/

theorem nextSlew_some {s : State} {l n : Nat} (h : nextSlew s l = some n) : findRun s l n = none ∧ (s.limb l).runs.length < 64 := by
  unfold nextSlew at h
  split at h
  · exact nomatch h
  · next hfree =>
    have hidle := List.find?_some h
    simp only [Bool.and_eq_true, Bool.not_eq_true'] at hidle
    exact ⟨isRunning_eq_false.1 hidle.1, by omega⟩

theorem runs_cacheTouch (l n : Nat) (s : State) : ((cacheTouch l n s).limb l).runs = (s.limb l).runs := by
  rw [cacheTouch, limb_modLimb_self]
  split <;> rfl

theorem cores_cacheTouch (l n : Nat) (s : State) : (cacheTouch l n s).cores = s.cores ∧ (cacheTouch l n s).mem = s.mem := by
  unfold cacheTouch
  dsimp only
  split <;> exact ⟨rfl, rfl⟩

/-- The limbs, the cores and the store range stay. -/
structure SameUnits (s t : State) : Prop where
  limbs : t.limbs = s.limbs
  cores : t.cores = s.cores
  mem : t.mem = s.mem

theorem SameUnits.trans {s t u : State} (h : SameUnits s t) (k : SameUnits t u) : SameUnits s u := ⟨k.limbs.trans h.limbs, k.cores.trans h.cores, k.mem.trans h.mem⟩

theorem sameUnits_clampRecord (source stype unit entry report nth : Nat) (c : Clamp) (s : State) : SameUnits s (clampRecord source stype unit entry report nth c s) := by
  rw [clampRecord, ringPush_rest]
  exact ⟨rfl, rfl, rfl⟩

theorem sameUnits_clampRecords (source stype unit report : Nat) (cl : List (Nat × Clamp)) :
    ∀ (nth : Nat) (s : State), SameUnits s (clampRecords source stype unit report nth cl s) := by
  induction cl with
  | nil => exact fun _ _ => ⟨rfl, rfl, rfl⟩
  | cons p cl ih => exact fun nth s => (sameUnits_clampRecord ..).trans (ih (nth + 1) _)

/-- The snapshot records its clamps and leaves the units as they are (R441). -/
theorem sameUnits_snapshot (l n : Nat) (s : State) : SameUnits s (snapshot l n s).2 := by
  unfold snapshot
  extract_lets c w op sk dk cpx pc total rep s1 a src r
  have hrep : SameUnits s rep.2 := by
    simp only [rep]
    split <;> exact ⟨rfl, rfl, rfl⟩
  have hs1 : SameUnits s s1 := (hrep.trans (sameUnits_clampRecords ..)).trans (sameUnits_clampRecords ..)
  clear_value s1
  split <;> exact hs1

theorem chan_snapshot (l n : Nat) (s : State) : (snapshot l n s).1.chan = n := by
  unfold snapshot
  extract_lets
  split <;> rfl

/-- The base that a transfer uses, the entry's or the overflow base, has 48 bits (R436, R454). -/
theorem base_snapshot_lt (l n : Nat) (s : State) : (snapshot l n s).1.base < 2 ^ 48 := by
  unfold snapshot
  extract_lets
  split <;> exact nbits_lt _ 47 0

/-- The state in which a transfer begins: its channel has left the queue, ARM is clear, LASTBASE is the base, and the run stands among the limb's (R436). -/
def runEntered (l n : Nat) (r : Run) (s : State) : State :=
  (((unqueue l n s).setFld (chanOff l n 0) 44 44 0).setFld (chanOff l n 7) 47 0 r.base).modLimb l
    (fun k => { k with runs := k.runs ++ [r], edgePort := k.edgePort != (r.dk == 1 || r.dk == 2) })

theorem startChan_eq (l n : Nat) (s : State) :
    startChan l n s = runBody l (snapshot l n (cacheTouch l n s)).1 (setRunning l (runEntered l n (snapshot l n (cacheTouch l n s)).1 (snapshot l n (cacheTouch l n s)).2)) := rfl

/-- A transfer of pushed lines to the store range waits for its lines (R436, R451). -/
theorem runBody_pushed {l : Nat} {r : Run} {s : State} (hsk : r.sk = 3) (hdk : r.dk = 0) (hop : r.op = 0) (hhint : r.hint = 0) : runBody l r s = putRun l r s := by
  simp [runBody, hsk, hdk, hop, hhint]

section
variable {l n : Nat} {r : Run} {s : State}

theorem runs_runEntered : ((runEntered l n r s).limb l).runs = (s.limb l).runs ++ [r] := by
  rw [runEntered, limb_modLimb_self, State.limb_setFld, State.limb_setFld, runs_unqueue]

theorem startq_runEntered : ((runEntered l n r s).limb l).startq = ((unqueue l n s).limb l).startq := by
  rw [runEntered, limb_modLimb_self, State.limb_setFld, State.limb_setFld]

theorem chanArmed_runEntered : chanArmed (runEntered l n r s) l n = false :=
  (chanArmed_congr (State.rd_setFld_ne _ _ _ _ (chanOff_ne (by decide)))).trans (chanArmed_cleared (s := unqueue l n s))

theorem lastBase_runEntered (h : r.base < 2 ^ 48) : (runEntered l n r s).fld (chanOff l n 7) 47 0 = r.base :=
  (State.fld_setFld_self _ _ _ _ _ (by decide) (by decide)).trans (Nat.mod_eq_of_lt h)

end

/-! ### SLW_STAT.RUNNING (R439) -/

section
variable {l : Nat} {s : State}

theorem limb_setRunning : (setRunning l s).limb l = s.limb l := rfl

theorem rd_setRunning {off : Nat} (h : rSlwStat l ≠ off) : (setRunning l s).rd off = s.rd off := State.rd_setFld_ne _ _ _ _ h

/-- RUNNING counts the runs where its seven bits can. -/
theorem running_setRunning (h : (s.limb l).runs.length < 128) : (setRunning l s).fld (rSlwStat l) 6 0 = (s.limb l).runs.length :=
  (State.fld_setFld_self _ _ _ _ _ (by decide) (by decide)).trans (Nat.mod_eq_of_lt h)

end

theorem exec_slewChannelStart_none {l : LimbId} {s : State} (h : nextSlew s l.val = none) : exec (.slewChannelStart l) s = .next s := by
  change execSlewChannelStart l s = _
  rw [execSlewChannelStart, h]

theorem exec_slewChannelStart_some {l : LimbId} {n : Nat} {s : State} (h : nextSlew s l.val = some n) : exec (.slewChannelStart l) s = .next (startChan l.val n s) := by
  change execSlewChannelStart l s = _
  rw [execSlewChannelStart, h]

/-- The first part of a transfer's life: a transfer of pushed lines to the store range starts (R435, R436). -/
theorem slewTransfer_starts {l : LimbId} {n : Nat} {s : State} {r : Run} (hnext : nextSlew s l.val = some n) (hr : (snapshot l.val n (cacheTouch l.val n s)).1 = r) (hsk : r.sk = 3) (hdk : r.dk = 0)
    (hop : r.op = 0) (hhint : r.hint = 0) :
    ∃ t, exec (.slewChannelStart l) s = .next t ∧ chanArmed t l.val n = false ∧ n ∉ (t.limb l.val).startq ∧ findRun t l.val n = some r ∧ t.fld (chanOff l.val n 7) 47 0 = r.base ∧
      t.fld (rSlwStat l.val) 6 0 = (s.limb l.val).runs.length + 1 ∧ t.cores = s.cores ∧ t.mem = s.mem := by
  obtain ⟨hidle, hroom⟩ := nextSlew_some hnext
  have hsame := sameUnits_snapshot l.val n (cacheTouch l.val n s)
  have hruns : ((snapshot l.val n (cacheTouch l.val n s)).2.limb l.val).runs = (s.limb l.val).runs := by
    rw [State.limb, hsame.limbs]
    exact runs_cacheTouch ..
  have hchan : r.chan = n := hr ▸ chan_snapshot ..
  have hexec : exec (.slewChannelStart l) s = .next (putRun l.val r (setRunning l.val (runEntered l.val n r (snapshot l.val n (cacheTouch l.val n s)).2))) := by
    rw [exec_slewChannelStart_some hnext, startChan_eq, hr, runBody_pushed hsk hdk hop hhint]
  generalize (snapshot l.val n (cacheTouch l.val n s)).2 = u at hsame hruns hexec
  have hentered : ((runEntered l.val n r u).limb l.val).runs = (s.limb l.val).runs ++ [r] := by rw [runs_runEntered, hruns]
  have hlen : ((runEntered l.val n r u).limb l.val).runs.length = (s.limb l.val).runs.length + 1 := by rw [hentered, List.length_append, List.length_singleton]
  have hfound : findRun (setRunning l.val (runEntered l.val n r u)) l.val n = some r := by
    rw [findRun, limb_setRunning, hentered, List.find?_append, show List.find? (fun x : Run => x.chan == n) (s.limb l.val).runs = none from hidle]
    simp [hchan]
  obtain ⟨hcores, hmem⟩ := cores_cacheTouch l.val n s
  refine ⟨_, hexec, ?armed, ?queue, findRun_putRun hchan hfound, ?base, ?running, hsame.cores.trans hcores, hsame.mem.trans hmem⟩
  case armed => exact (chanArmed_congr ((rd_putRun ..).trans (rd_setRunning (rSlwStat_ne_chanOff _ _ _)))).trans chanArmed_runEntered
  case queue =>
    rw [startq_putRun, limb_setRunning, startq_runEntered]
    exact not_mem_startq_unqueue
  case base => exact (State.fld_congr ((rd_putRun ..).trans (rd_setRunning (rSlwStat_ne_chanOff _ _ _))) ..).trans (lastBase_runEntered (hr ▸ base_snapshot_lt ..))
  case running => exact ((State.fld_congr (rd_putRun ..) ..).trans (running_setRunning (by omega))).trans hlen

/-! ### Completion (R440) -/

/-- A limb from which a channel's run has gone (R440). -/
def runRemoved (l n : Nat) (s : State) : State := s.modLimb l (fun k => { k with runs := k.runs.filter (fun x => x.chan != n) })

section
variable {l n : Nat} {s : State}

theorem runs_runRemoved : ((runRemoved l n s).limb l).runs = (s.limb l).runs.filter (fun x => x.chan != n) := by rw [runRemoved, limb_modLimb_self]

theorem findRun_runRemoved : findRun (runRemoved l n s) l n = none := by
  rw [findRun, runs_runRemoved, List.find?_eq_none]
  simp

theorem running_runRemoved (h : (s.limb l).runs.length ≤ 64) : (setRunning l (runRemoved l n s)).fld (rSlwStat l) 6 0 = ((s.limb l).runs.filter (fun x => x.chan != n)).length := by
  have hlen : ((s.limb l).runs.filter (fun x => x.chan != n)).length ≤ (s.limb l).runs.length := List.length_filter_le ..
  rw [running_setRunning (by rw [runs_runRemoved]; omega), runs_runRemoved]

end

/-- A run's fields CHAIN and NOTIFY are clear where both bits are. -/
theorem chain_notify_clear {r : Run} (h : r.f 0 43 42 = 0) : r.f 0 42 42 = 0 ∧ r.f 0 43 43 = 0 := by
  simp only [Run.f, bits, nbits, Nat.shiftRight_eq_div_pow] at h ⊢
  omega

/-- A transfer that ended well, with no notice, no chain and no restart, leaves its record and goes (R440). -/
theorem completeRun_quiet {l : Nat} {r : Run} {s t : State} (hst : r.status = 0) (hpoison : r.poison = false) (hop : r.op ≠ 4) (hbits : r.f 0 43 42 = 0)
    (ht : slewRecord l r.chan r.gen r.rearms 0 r.ovf r.clamps r.base r.step r.lines false r.lring (setRunning l (runRemoved l r.chan s)) = t) (harm : chanArmed t l r.chan = false) : completeRun l r s = t := by
  obtain ⟨hnotify, hchain⟩ := chain_notify_clear hbits
  subst ht
  unfold runRemoved at harm ⊢
  simp [completeRun, hst, hpoison, hop, hnotify, hchain, harm]

theorem exec_slewTransferComplete {l : LimbId} {n : Nat} {s : State} {r : Run} (hr : findRun s l.val n = some r) (hfin : runFinished s l.val r = true) (hfatal : fatal s = false) :
    exec (.slewTransferComplete l n) s = .next (completeRun l.val r s) := by
  change execSlewTransferComplete l n s = _
  rw [execSlewTransferComplete, hr]
  exact if_pos (by simp [hfin, hfatal])

theorem slewRegs_lt (l : Nat) {n : Nat} (hn : n < 4096) : chanOff l n 0 < limbBase l + 0xC0000 ∧ rSlwStat l < limbBase l + 0xC0000 := by
  simp only [chanOff, rSlwStat]
  omega

theorem rSlwCq_ne_rSlwStat (l : Nat) : rSlwCq l ≠ rSlwStat l := by
  simp only [rSlwCq, rSlwStat]
  omega

/-- The end of a transfer's life: it leaves its record and runs no more (R440, R442). -/
theorem slewTransfer_completes {l : LimbId} {n : Nat} {s : State} {r : Run} (hr : findRun s l.val n = some r) (hfin : runFinished s l.val r = true) (hfatal : fatal s = false) (hst : r.status = 0)
    (hpoison : r.poison = false) (hop : r.op ≠ 4) (hbits : r.f 0 43 42 = 0) (hn : n < 4096) (harm : chanArmed s l.val n = false) (hlen : (s.limb l.val).runs.length ≤ 64) :
    ∃ t, exec (.slewTransferComplete l n) s = .next t ∧ findRun t l.val n = none ∧ t.fld (rSlwCq l.val) 45 32 = (s.fld (rSlwCq l.val) 45 32 + 1) % 16384 ∧
      bits (t.rd (limbBase l.val + 0xC0000 + 32 * (s.fld (rSlwCq l.val) 45 32 % 8192))) 23 20 = 0 ∧
      t.fld (rSlwStat l.val) 6 0 = ((s.limb l.val).runs.filter (fun x => x.chan != n)).length ∧ t.cores = s.cores ∧ t.mem = s.mem := by
  obtain rfl := chan_of_findRun hr
  have hrec := slewRecord_quiet l.isLt hn (.inl rfl) r.gen r.rearms r.ovf r.clamps r.base r.step r.lines r.lring (setRunning l.val (runRemoved l.val r.chan s))
  generalize ht : slewRecord l.val r.chan r.gen r.rearms 0 r.ovf r.clamps r.base r.step r.lines false r.lring (setRunning l.val (runRemoved l.val r.chan s)) = t at hrec
  obtain ⟨hchanlt, hstatlt⟩ := slewRegs_lt l.val hn
  have hcq : (setRunning l.val (runRemoved l.val r.chan s)).fld (rSlwCq l.val) 45 32 = s.fld (rSlwCq l.val) 45 32 := State.fld_congr (rd_setRunning (rSlwCq_ne_rSlwStat _).symm) ..
  have harmed : chanArmed t l.val r.chan = false :=
    (chanArmed_congr ((hrec.rd _ hchanlt (rSlwCq_ne_chanOff _ _ _)).trans (rd_setRunning (rSlwStat_ne_chanOff _ _ _)))).trans harm
  refine ⟨t, ?_, (findRun_congr hrec.runs _).trans findRun_runRemoved, hcq ▸ hrec.head, hcq ▸ hrec.status, ?_, hrec.cores, hrec.mem⟩
  · rw [exec_slewTransferComplete hr hfin hfatal, completeRun_quiet hst hpoison hop hbits ht harmed]
  · exact (State.fld_congr (hrec.rd _ hstatlt (rSlwCq_ne_rSlwStat _)) ..).trans (running_runRemoved hlen)

/-! ### CANCEL (R434) -/

/-- The channel disarmed and out of the queue (R434). -/
def withdrawn (l n : Nat) (s : State) : State := unqueue l n (s.setFld (chanOff l n 0) 44 44 0)

section
variable {l n : Nat} {s : State}

theorem cancelChan_waiting (hr : findRun s l n = none) (ha : chanArmed s l n = true) (hnotify : s.flag (chanOff l n 0) 42 = false) :
    cancelChan l n s = slewRecord l n (chanGen s l n) 0 4 false 0 0 (stepCnt s).toNat 0 false (tget (0, 0xFF) (s.limb l).args n).2 (withdrawn l n s) := by
  rw [cancelChan, hr]
  simp [ha, hnotify, withdrawn]

theorem cancelChan_running {r : Run} (hr : findRun s l n = some r) :
    cancelChan l n s = noArrival l r.tag (putRun l { r.fail 4 with issued := r.issued || r.sk == 3 } (withdrawn l n s)) := by
  rw [cancelChan, hr]
  rfl

theorem cancelChan_idle (hr : findRun s l n = none) (ha : chanArmed s l n = false) : cancelChan l n s = s := by
  rw [cancelChan, hr]
  simp [ha]

theorem runs_withdrawn : ((withdrawn l n s).limb l).runs = (s.limb l).runs := runs_unqueue

/-- CANCEL of a channel that waits leaves its record (R434, R442). -/
theorem cancelChan_waiting_spec (hl : l < 8) (hn : n < 4096) (hr : findRun s l n = none) (ha : chanArmed s l n = true) (hnotify : s.flag (chanOff l n 0) 42 = false) :
    chanArmed (cancelChan l n s) l n = false ∧ n ∉ ((cancelChan l n s).limb l).startq ∧ (cancelChan l n s).fld (rSlwCq l) 45 32 = (s.fld (rSlwCq l) 45 32 + 1) % 16384 ∧
      bits ((cancelChan l n s).rd (limbBase l + 0xC0000 + 32 * (s.fld (rSlwCq l) 45 32 % 8192))) 23 20 = 4 ∧ (cancelChan l n s).cores = s.cores ∧ (cancelChan l n s).mem = s.mem := by
  have hrec := slewRecord_quiet hl hn (.inr rfl) (chanGen s l n) 0 false 0 0 (stepCnt s).toNat 0 (tget (0, 0xFF) (s.limb l).args n).2 (withdrawn l n s)
  rw [← cancelChan_waiting hr ha hnotify] at hrec
  have hcq : (withdrawn l n s).fld (rSlwCq l) 45 32 = s.fld (rSlwCq l) 45 32 := State.fld_congr (State.rd_setFld_ne _ _ _ _ (rSlwCq_ne_chanOff _ _ _).symm) ..
  refine ⟨?_, hrec.startq ▸ not_mem_startq_unqueue, hcq ▸ hrec.head, hcq ▸ hrec.status, hrec.cores, hrec.mem⟩
  exact (chanArmed_congr (hrec.rd _ (slewRegs_lt l hn).1 (rSlwCq_ne_chanOff _ _ _))).trans chanArmed_cleared

/-- A packet of a cancelled transfer on its way sets no token (R434). -/
theorem noArrival_net {tag : Nat} {p : Packet} (h : p ∈ (noArrival l tag s).net) (hx : p.sx = 0x1FE) (hy : p.sy = l) (ht : p.tag = tag) : p.te = false := by
  obtain ⟨q, -, rfl⟩ := List.mem_map.1 h
  split at hx
  · rw [if_pos ‹_›]
  · next hother => exact absurd ⟨hx, by simpa [hother] using hy, by simpa [hother] using ht⟩ hother

/-- CANCEL of a channel that runs gives its transfer status 4 (R434). -/
theorem cancelChan_running_spec {r : Run} (hr : findRun s l n = some r) (hst : r.status = 0) :
    ∃ q, findRun (cancelChan l n s) l n = some q ∧ q.status = 4 ∧ chanArmed (cancelChan l n s) l n = false ∧ n ∉ ((cancelChan l n s).limb l).startq ∧
      (∀ p ∈ (cancelChan l n s).net, p.sx = 0x1FE → p.sy = l → p.tag = r.tag → p.te = false) ∧ (cancelChan l n s).mem = s.mem := by
  have hfound : findRun (withdrawn l n s) l n = some r := (findRun_congr runs_withdrawn n).trans hr
  rw [cancelChan_running hr]
  refine ⟨_, findRun_putRun ((chan_fail r 4).trans (chan_of_findRun hr)) hfound, status_fail hst 4, chanArmed_cleared (s := s), ?_, fun p hp => noArrival_net hp, rfl⟩
  exact (startq_putRun (s := withdrawn l n s) _).symm ▸ not_mem_startq_unqueue

end

/-! ### FSMC delivery (R446) -/

theorem exec_fsmcDelivery {l : LimbId} {n : Nat} {s : State} {r : Run} (hr : findRun s l.val n = some r) (hdk : r.dk = 4) (hissued : r.issued = true) (hst : r.status = 0) (hdel : r.delivered = false)
    (hfly : inFlight s l.val r.tag = false) (hrows : rowsFull s r = false) : exec (.fsmcDelivery l n) s = .next (fsmcDeliver l.val r s) := by
  change execFsmcDelivery l n s = _
  rw [execFsmcDelivery, hr]
  exact if_pos (by simp [hdk, hissued, hst, hdel, hfly, hrows])

/-- Settles O23: the start by the snapshot and the run that begins, the end and CANCEL by the record that each leaves, the delivery by its guard. -/
theorem slewTransfers : Obligations.SlewTransfers := by
  intro l n s
  refine ⟨exec_slewChannelStart_none, fun r => slewTransfer_starts, fun r => slewTransfer_completes, fun hn hr ha hnotify => ?_, fun r hn hr hst => ?_, fun hn hr ha => ?_, fun r => exec_fsmcDelivery⟩
  · exact ⟨_, exec_slewCancel hn, cancelChan_waiting_spec l.isLt hn hr ha hnotify⟩
  · obtain ⟨q, hq⟩ := cancelChan_running_spec hr hst
    exact ⟨_, q, exec_slewCancel hn, hq⟩
  · rw [exec_slewCancel hn, cancelChan_idle hr ha]

end Sys2Proof.Machine
end
section
/-! The Occulter's slots: a slot whose transfer has been written is filled, the last of a kind moves the Occulter on, CLEAR empties it (R457 to R459). -/

namespace Sys2Proof.Machine

theorem occAt_setOcc_self (s : State) (f : Nat) (o : Occ) : (s.setOcc f o).occAt f = o := tget_tset_self ..

theorem occState_setFld (s : State) (f n : Nat) : occState (s.setFld (rOccStat f) 3 2 n) f = n % 4 := State.fld_setFld_self _ _ _ _ _ (by decide) (by decide)

/-- An Occulter's record once a slot of a kind, true or predicted, is filled (R458). -/
def slotFilled (b : Bool) (slot : Nat) (o : Occ) : Occ :=
  { o with due := o.due.erase (b, slot), fillT := if b then o.fillT ++ [slot] else o.fillT, fillP := if b then o.fillP else o.fillP ++ [slot] }

/-! ### The last slot of a kind (R458) -/

section
variable {f : Nat} {s : State}

/-- Without the last slot of the kind that its state waits for the Occulter stays. -/
theorem occAdvance_stays (hp : occState s f = 0 → (s.occAt f).fillP.length ≠ s.fld (rOccCfg f) 47 42 + 1) (ht : occState s f = 1 → (s.occAt f).fillT.length ≠ s.fld (rOccCfg f) 47 42 + 1) :
    occAdvance f s = s := by
  unfold occAdvance
  dsimp only
  rw [if_neg (not_and.2 hp)]
  exact if_neg (not_and.2 ht)

/-- With every predicted slot filled, and a true slot still to come, P is the OR of their masks and the state 1. -/
theorem occAdvance_predicted (h0 : occState s f = 0) (hp : (s.occAt f).fillP.length = s.fld (rOccCfg f) 47 42 + 1) (ht : (s.occAt f).fillT.length ≤ s.fld (rOccCfg f) 47 42) :
    occAdvance f s = ((allSlots f (s.fld (rOccCfg f) 41 23) s).2.setOcc f { s.occAt f with p := (allSlots f (s.fld (rOccCfg f) 41 23) s).1 }).setFld (rOccStat f) 3 2 1 := by
  unfold occAdvance
  extract_lets n o m s1 o1
  have hs1 : s1 = ((allSlots f (s.fld (rOccCfg f) 41 23) s).2.setOcc f { s.occAt f with p := (allSlots f (s.fld (rOccCfg f) 41 23) s).1 }).setFld (rOccStat f) 3 2 1 := if_pos ⟨h0, hp⟩
  have ho1 : o1 = { s.occAt f with p := m.1 } := (congrArg (State.occAt · f) hs1).trans (occAt_setOcc_self ..)
  have hopen : ¬ o1.fillT.length = n := by
    rw [ho1]
    exact Nat.ne_of_lt (Nat.lt_succ_of_le ht)
  exact (if_neg fun h => hopen h.2).trans hs1

/-- With every true slot filled too, T is the OR of their masks, M the true blocks that were not predicted and the state 2. -/
theorem occAdvance_true (h1 : occState s f = 1) (ht : (s.occAt f).fillT.length = s.fld (rOccCfg f) 47 42 + 1) :
    occAdvance f s = ((allSlots f (s.fld (rOccCfg f) 22 4) s).2.setOcc f { s.occAt f with
      t := (allSlots f (s.fld (rOccCfg f) 22 4) s).1
      m := (allSlots f (s.fld (rOccCfg f) 22 4) s).1 ^^^ ((allSlots f (s.fld (rOccCfg f) 22 4) s).1 &&& (s.occAt f).p) }).setFld (rOccStat f) 3 2 2 := by
  have hpredicted : ¬ (occState s f = 0 ∧ (s.occAt f).fillP.length = s.fld (rOccCfg f) 47 42 + 1) := fun h => absurd (h1.symm.trans h.1) (by decide)
  unfold occAdvance
  dsimp only
  rw [if_neg hpredicted]
  exact if_pos ⟨h1, ht⟩

end

/-- The bits of a number that are not in another. -/
theorem testBit_xor_and (t p i : Nat) : (t ^^^ (t &&& p)).testBit i = (t.testBit i && !p.testBit i) := by
  rw [Nat.testBit_xor, Nat.testBit_and]
  cases t.testBit i <;> cases p.testBit i <;> rfl

/-! ### OCCULTER_SLOT_FILLED (R458, R459) -/

section
variable {f : FieldId} {b : Bool} {slot : Nat} {s : State}

/-- The state with a slot filled in the Occulter's record. -/
def withSlot (f : FieldId) (b : Bool) (slot : Nat) (s : State) : State := s.setOcc f.val (slotFilled b slot (s.occAt f.val))

theorem occAt_withSlot : (withSlot f b slot s).occAt f.val = slotFilled b slot (s.occAt f.val) := occAt_setOcc_self ..

theorem exec_occulterSlotFilled_none (h : s.flag (rOccCfg f.val) 0 = false ∨ s.fld (rOccCfg f.val) 47 42 < slot ∨ (b, slot) ∉ (s.occAt f.val).due) :
    exec (.occulterSlotFilled f b slot) s = .next s := if_pos (by simpa using h)

variable (hon : s.flag (rOccCfg f.val) 0 = true) (hslot : slot ≤ s.fld (rOccCfg f.val) 47 42) (hdue : (b, slot) ∈ (s.occAt f.val).due)
include hon hslot hdue

theorem exec_occulterSlotFilled_due : exec (.occulterSlotFilled f b slot) s =
    if slot ∈ (if b then (s.occAt f.val).fillT else (s.occAt f.val).fillP) then
      .next (raise (.field f) 1 5 0x0105 (wd slot) ((s.setOcc f.val { s.occAt f.val with due := (s.occAt f.val).due.erase (b, slot) }).satFld (rOccStat f.val) 15 8 1))
    else .next (occAdvance f.val (withSlot f b slot s)) := by
  have hdom : domField f.val = .field f := by simp [domField]
  have hgo : ¬ ((!s.flag (rOccCfg f.val) 0) = true ∨ s.fld (rOccCfg f.val) 47 42 < slot ∨ (!(s.occAt f.val).due.contains (b, slot)) = true) := by simpa [hon, hdue] using hslot
  refine (if_neg hgo).trans ?_
  dsimp only
  rw [hdom]
  cases b <;> exact if_congr List.contains_iff_mem rfl rfl

theorem exec_occulterSlotFilled_new (hnew : slot ∉ (if b then (s.occAt f.val).fillT else (s.occAt f.val).fillP)) :
    exec (.occulterSlotFilled f b slot) s = .next (occAdvance f.val (withSlot f b slot s)) := (exec_occulterSlotFilled_due hon hslot hdue).trans (if_neg hnew)

/-- A slot that does not complete its kind is only marked (R458). -/
theorem occulter_marks (hnew : slot ∉ (if b then (s.occAt f.val).fillT else (s.occAt f.val).fillP))
    (hp : occState s f.val = 0 → (s.occAt f.val).fillP.length + (if b then 0 else 1) ≠ s.fld (rOccCfg f.val) 47 42 + 1)
    (ht : occState s f.val = 1 → (s.occAt f.val).fillT.length + (if b then 1 else 0) ≠ s.fld (rOccCfg f.val) 47 42 + 1) :
    exec (.occulterSlotFilled f b slot) s = .next (withSlot f b slot s) := by
  have hlenP : ((withSlot f b slot s).occAt f.val).fillP.length = (s.occAt f.val).fillP.length + (if b then 0 else 1) := by
    rw [occAt_withSlot]
    cases b <;> simp [slotFilled]
  have hlenT : ((withSlot f b slot s).occAt f.val).fillT.length = (s.occAt f.val).fillT.length + (if b then 1 else 0) := by
    rw [occAt_withSlot]
    cases b <;> simp [slotFilled]
  rw [exec_occulterSlotFilled_new hon hslot hdue hnew]
  exact congrArg Host.Outcome.next (occAdvance_stays (fun h => hlenP ▸ hp h) fun h => hlenT ▸ ht h)

end

section
variable {f : FieldId} {slot : Nat} {s : State} (hon : s.flag (rOccCfg f.val) 0 = true) (hslot : slot ≤ s.fld (rOccCfg f.val) 47 42)
include hon hslot

/-- The last predicted slot makes P the OR of the slots' masks and the state 1 (R458). -/
theorem occulter_predicted (hdue : (false, slot) ∈ (s.occAt f.val).due) (hnew : slot ∉ (s.occAt f.val).fillP) (h0 : occState s f.val = 0)
    (hp : (s.occAt f.val).fillP.length = s.fld (rOccCfg f.val) 47 42) (ht : (s.occAt f.val).fillT.length ≤ s.fld (rOccCfg f.val) 47 42) :
    ∃ t u, exec (.occulterSlotFilled f false slot) s = .next t ∧ occState t f.val = 1 ∧ u = { s with occ := u.occ } ∧
      (t.occAt f.val).p = (allSlots f.val (s.fld (rOccCfg f.val) 41 23) u).1 ∧ (t.occAt f.val).fillP = (s.occAt f.val).fillP ++ [slot] := by
  have hocc := occAt_withSlot (f := f) (b := false) (slot := slot) (s := s)
  have hlast : ((withSlot f false slot s).occAt f.val).fillP.length = s.fld (rOccCfg f.val) 47 42 + 1 := by
    rw [hocc, ← hp]
    exact List.length_append
  have hopen : ((withSlot f false slot s).occAt f.val).fillT.length ≤ s.fld (rOccCfg f.val) 47 42 := by
    rw [hocc]
    exact ht
  have hadvance := occAdvance_predicted (s := withSlot f false slot s) h0 hlast hopen
  rw [hocc] at hadvance
  have hat := occAt_setOcc_self (allSlots f.val (s.fld (rOccCfg f.val) 41 23) (withSlot f false slot s)).2 f.val
    { slotFilled false slot (s.occAt f.val) with p := (allSlots f.val (s.fld (rOccCfg f.val) 41 23) (withSlot f false slot s)).1 }
  exact ⟨_, withSlot f false slot s, (exec_occulterSlotFilled_new hon hslot hdue hnew).trans (congrArg Host.Outcome.next hadvance), occState_setFld .., rfl, congrArg Occ.p hat, congrArg Occ.fillP hat⟩

/-- The last true slot makes M the true blocks that were not predicted and the state 2 (R458). -/
theorem occulter_true (hdue : (true, slot) ∈ (s.occAt f.val).due) (hnew : slot ∉ (s.occAt f.val).fillT) (h1 : occState s f.val = 1)
    (ht : (s.occAt f.val).fillT.length = s.fld (rOccCfg f.val) 47 42) :
    ∃ t u, exec (.occulterSlotFilled f true slot) s = .next t ∧ occState t f.val = 2 ∧ u = { s with occ := u.occ } ∧ (t.occAt f.val).t = (allSlots f.val (s.fld (rOccCfg f.val) 22 4) u).1 ∧
      ∀ i, (t.occAt f.val).m.testBit i = ((t.occAt f.val).t.testBit i && !(s.occAt f.val).p.testBit i) := by
  have hocc := occAt_withSlot (f := f) (b := true) (slot := slot) (s := s)
  have hlast : ((withSlot f true slot s).occAt f.val).fillT.length = s.fld (rOccCfg f.val) 47 42 + 1 := by
    rw [hocc, ← ht]
    exact List.length_append
  have hadvance := occAdvance_true (s := withSlot f true slot s) h1 hlast
  rw [hocc] at hadvance
  generalize hmask : allSlots f.val ((withSlot f true slot s).fld (rOccCfg f.val) 22 4) (withSlot f true slot s) = mask at hadvance
  have hat := occAt_setOcc_self mask.2 f.val { slotFilled true slot (s.occAt f.val) with t := mask.1, m := mask.1 ^^^ (mask.1 &&& (s.occAt f.val).p) }
  refine ⟨_, withSlot f true slot s, (exec_occulterSlotFilled_new hon hslot hdue hnew).trans (congrArg Host.Outcome.next hadvance), occState_setFld .., rfl,
    (congrArg Occ.t hat).trans (congrArg Prod.fst hmask).symm, fun i => ?_⟩
  have hm := congrArg Occ.m hat
  have htrue := congrArg Occ.t hat
  exact (congrArg (Nat.testBit · i) hm).trans ((testBit_xor_and ..).trans (congrArg (fun x => Nat.testBit x i && !(s.occAt f.val).p.testBit i) htrue.symm))

end

/-- Settles O24: a due slot is marked, reported, or completes its kind; no due slot leaves all as it is. That fills are ignored while EN is 0 is the model's choice (SPEC.md, entry 34). -/
theorem occulter : Obligations.Occulter := by
  intro f slot s
  refine ⟨fun b hon hslot hdue => ⟨fun hnew hp ht => ⟨_, occulter_marks hon hslot hdue hnew hp ht, rfl, occAt_withSlot⟩, fun hold => ?_⟩, fun b => exec_occulterSlotFilled_none, occulter_predicted, occulter_true, ?_⟩
  · exact (exec_occulterSlotFilled_due hon hslot hdue).trans (if_pos hold)
  · have hempty := occAt_setOcc_self s f.val { s.occAt f.val with fillP := [], fillT := [], done := 0, due := [] }
    exact ⟨_, rfl, occState_setFld .., congrArg Occ.fillP hempty, congrArg Occ.fillT hempty, congrArg Occ.done hempty, fun off ho => State.rd_setFld_ne _ _ _ _ ho.symm, rfl⟩

end Sys2Proof.Machine
end

section
/-! Ports of Meridian: what a port's counters change, and the frames that it receives (R464 to R469, R523). -/

namespace Sys2Proof.Machine
open Sys2Proof.Claims

/-! ### Registers alone -/

/-- From s to t only registers change. -/
def RegsOnly (s t : State) : Prop := t = { s with regs := t.regs }

section
variable {s t : State}

theorem regsOnly_refl (s : State) : RegsOnly s s := rfl

theorem RegsOnly.trans {u : State} (h : RegsOnly s t) (k : RegsOnly t u) : RegsOnly s u := by
  rw [RegsOnly, k, h]

theorem regsOnly_wr (s : State) (off : Nat) (w : Word) : RegsOnly s (s.wr off w) := rfl

theorem regsOnly_setFld (s : State) (off hi lo n : Nat) : RegsOnly s (s.setFld off hi lo n) := rfl

theorem RegsOnly.limbs (h : RegsOnly s t) : t.limbs = s.limbs := by rw [h]

end

/-! ### A port's counters (R523) -/

theorem setBits_whole (w : Word) (n : Nat) : setBits w 63 0 n = wd n := by
  have hhigh : w.toNat >>> 64 = 0 := Nat.shiftRight_eq_zero _ _ w.isLt
  apply BitVec.eq_of_toNat_eq
  simp [setBits, wd, hhigh, Nat.mod_one]

/-- A counter of a whole register wraps. -/
theorem State.rd_addFld_whole (s : State) (off n : Nat) : (s.addFld off 63 0 n).rd off = s.rd off + wd n := by
  have hold : s.fld off 63 0 = (s.rd off).toNat := Nat.mod_eq_of_lt (s.rd off).isLt
  rw [State.addFld, State.rd_setFld_self, setBits_whole, hold, wd, wd, BitVec.ofNat_add, BitVec.ofNat_toNat, BitVec.setWidth_eq]

theorem State.rd_addFld_ne (s : State) {off q : Nat} (hi lo n : Nat) (h : off ≠ q) : (s.addFld off hi lo n).rd q = s.rd q := State.rd_setFld_ne _ _ _ _ h

theorem rd_portCount_ne {p off q : Nat} (high : Bool) (s : State) (h : portBase p + off ≠ q) : (portCount p off high s).rd q = s.rd q := State.rd_setFld_ne _ _ _ _ h

theorem regsOnly_portCount (p a : Nat) (high : Bool) (s : State) : RegsOnly s (portCount p a high s) := regsOnly_setFld ..

theorem fld_portCount_self (p off : Nat) (high : Bool) (s : State) :
    (portCount p off high s).fld (portBase p + off) (if high then 63 else 31) (if high then 32 else 0) = oneMore (s.fld (portBase p + off) (if high then 63 else 31) (if high then 32 else 0)) := by
  cases high <;> exact State.fld_satFld_self _ _ _ _ _ (by decide) (by decide)

/-! ### A frame is counted (R464, R469) -/

/-- The state with a frame and its bytes counted. -/
def framesCounted (p : Nat) (fr : Frame) (s : State) : State := (s.addFld (portBase p + 0x38) 63 0 1).addFld (portBase p + 0x48) 63 0 fr.bytes

/-- What every frame at a port with its link up leaves: it is counted with its bytes, and beside the limbs only the port's receive counters can differ. -/
structure FrameCounted (p : Nat) (fr : Frame) (s t : State) : Prop where
  frames : t.rd (portBase p + 0x38) = s.rd (portBase p + 0x38) + 1
  bytes : t.rd (portBase p + 0x48) = s.rd (portBase p + 0x48) + wd fr.bytes
  rest : t = { s with regs := t.regs, limbs := t.limbs }
  rd : ∀ off, off ∉ [portBase p + 0x38, portBase p + 0x48, portBase p + 0x50, portBase p + 0x58, portBase p + 0x70] → t.rd off = s.rd off

section
variable {p : Nat} {fr : Frame} {s t : State}

theorem rd_framesCounted_ne {off : Nat} (h38 : portBase p + 0x38 ≠ off) (h48 : portBase p + 0x48 ≠ off) : (framesCounted p fr s).rd off = s.rd off := by
  rw [framesCounted, State.rd_addFld_ne _ _ _ _ h48, State.rd_addFld_ne _ _ _ _ h38]

theorem regsOnly_framesCounted : RegsOnly s (framesCounted p fr s) := (regsOnly_setFld ..).trans (regsOnly_setFld ..)

theorem frameCounted_framesCounted : FrameCounted p fr s (framesCounted p fr s) := by
  refine ⟨?frames, ?bytes, ?rest, fun off hoff => ?rd⟩
  case frames => rw [framesCounted, State.rd_addFld_ne _ _ _ _ (by omega), State.rd_addFld_whole, show wd 1 = 1 from rfl]
  case bytes => rw [framesCounted, State.rd_addFld_whole, State.rd_addFld_ne _ _ _ _ (by omega)]
  case rest => rw [show RegsOnly s (framesCounted p fr s) from regsOnly_framesCounted]
  case rd =>
    simp only [List.mem_cons, not_or] at hoff
    exact rd_framesCounted_ne (Ne.symm hoff.1) (Ne.symm hoff.2.1)

/-- A further counter of the port leaves what the frame's count says. -/
theorem FrameCounted.portCount {a : Nat} (h : FrameCounted p fr s t) (ha : a ∈ [0x50, 0x58, 0x70]) (high : Bool) : FrameCounted p fr s (portCount p a high t) := by
  obtain ⟨hframes, hbytes, hrest, hrd⟩ := h
  have hlow : a ≠ 0x38 ∧ a ≠ 0x48 := by
    constructor <;> rintro rfl <;> exact absurd ha (by decide)
  refine ⟨?frames, ?bytes, ?rest, fun off hoff => ?rd⟩
  case frames => rw [rd_portCount_ne _ _ (by omega), hframes]
  case bytes => rw [rd_portCount_ne _ _ (by omega), hbytes]
  case rest => rw [hrest]; rfl
  case rd =>
    have hne : portBase p + a ≠ off := fun e => hoff (e ▸ by fin_cases ha <;> simp)
    rw [rd_portCount_ne _ _ hne, hrd off hoff]

theorem FrameCounted.modLimb (h : FrameCounted p fr s t) (l : Nat) (f : Limb → Limb) : FrameCounted p fr s (t.modLimb l f) := by
  obtain ⟨hframes, hbytes, hrest, hrd⟩ := h
  exact ⟨hframes, hbytes, by rw [hrest]; rfl, hrd⟩

end

/-! ### FRAME_RECEIVE by what the frame is (R464 to R469) -/

/-- The state with a good frame's packet among the limb's received packets, its congestion mark counted (R467, R468). -/
def packetQueued (p : Nat) (fr : Frame) (s : State) : State :=
  (if fr.ce then portCount p 0x70 false s else s).modLimb (p / 3) (fun k => { k with rxq := k.rxq ++ [(p, framePkt fr.pkt)] })

section
variable {p : PortId} {fr : Frame} {s : State}

theorem exec_frameReceive_down (hdown : portUp s p.val = false) : exec (.frameReceive p fr) s = .next s := if_pos (by simp [hdown])

variable (hup : portUp s p.val = true)
include hup

theorem exec_frameReceive_badFcs (hfcs : fr.fcsOk = false) : exec (.frameReceive p fr) s = .next (portCount p.val 0x50 true (framesCounted p.val fr s)) := by
  change execFrameReceive p fr s = _
  unfold execFrameReceive
  dsimp only
  rw [if_neg (by simp [hup]), if_pos (by simp [hfcs])]
  rfl

theorem exec_frameReceive_ptp (hfcs : fr.fcsOk = true) (hptp : fr.ptp = true) (hon : s.flag (portBase p.val + 0x90) 63 = true) :
    exec (.frameReceive p fr) s = .next (framesCounted p.val fr s) := by
  change execFrameReceive p fr s = _
  unfold execFrameReceive
  dsimp only
  rw [if_neg (by simp [hup]), if_neg (by simp [hfcs]), if_pos (by simp [hptp, hon])]
  rfl

theorem exec_frameReceive_other (hfcs : fr.fcsOk = true) (hptp : fr.ptp = true → s.flag (portBase p.val + 0x90) 63 = false) (hst : ¬ ForStation p.val fr s) :
    exec (.frameReceive p fr) s = .next (cntOther p.val (framesCounted p.val fr s)) := by
  have hforeign : (fr.pause || fr.ptp || fr.dmac != s.fld (portBase p.val + 8) 47 0) = true := by
    by_contra h
    simp only [Bool.or_eq_true, bne_iff_ne, not_or, Bool.not_eq_true, not_not] at h
    exact hst ⟨hfcs, h.1.2, h.1.1, h.2⟩
  change execFrameReceive p fr s = _
  unfold execFrameReceive
  dsimp only
  rw [if_neg (by simp [hup]), if_neg (by simp [hfcs]), if_neg (by simpa using hptp), if_pos hforeign]
  rfl

theorem exec_frameReceive_good (hst : ForStation p.val fr s) (hform : InForm p.val fr s) : exec (.frameReceive p fr) s = .next (packetQueued p.val fr (framesCounted p.val fr s)) := by
  obtain ⟨hfcs, hptp, hpause, hdmac⟩ := hst
  obtain ⟨hv6, hdip, hfragment, hudp, hport⟩ := hform
  change execFrameReceive p fr s = _
  unfold execFrameReceive
  dsimp only
  rw [if_neg (by simp [hup]), if_neg (by simp [hfcs]), if_neg (by simp [hptp]), if_neg (by simp [hptp, hpause, hdmac]), if_neg (by simp [hv6, hdip, hfragment, hudp, hport])]
  rfl

theorem exec_frameReceive_form (hst : ForStation p.val fr s) (hform : ¬ InForm p.val fr s) : exec (.frameReceive p fr) s = .next (cntHdr p.val (framesCounted p.val fr s)) := by
  obtain ⟨hfcs, hptp, hpause, hdmac⟩ := hst
  simp only [InForm] at hform
  change execFrameReceive p fr s = _
  unfold execFrameReceive
  dsimp only
  rw [if_neg (by simp [hup]), if_neg (by simp [hfcs]), if_neg (by simp [hptp]), if_neg (by simp [hptp, hpause, hdmac]), if_pos (by simpa [imp_iff_not_or, or_assoc] using hform)]
  rfl

end

section
variable {p : Nat} {fr : Frame} {s : State}

theorem rd_framesCounted_counter {a : Nat} (ha : a ∈ [0x50, 0x58, 0x70]) : (framesCounted p fr s).rd (portBase p + a) = s.rd (portBase p + a) := by
  fin_cases ha <;> exact rd_framesCounted_ne (by omega) (by omega)

/-- A frame that counts in one counter alone, beside those of every frame. -/
theorem portCount_framesCounted {a : Nat} (ha : a ∈ [0x50, 0x58, 0x70]) (high : Bool) {t : State} (ht : t = portCount p a high (framesCounted p fr s)) :
    t.fld (portBase p + a) (if high then 63 else 31) (if high then 32 else 0) = oneMore (s.fld (portBase p + a) (if high then 63 else 31) (if high then 32 else 0)) ∧
      ∀ b ∈ [0x50, 0x58, 0x70], b ≠ a → t.rd (portBase p + b) = s.rd (portBase p + b) := by
  subst ht
  refine ⟨?_, fun b hb hne => ?_⟩
  · rw [fld_portCount_self, State.fld_congr (rd_framesCounted_counter ha)]
  · rw [rd_portCount_ne _ _ (by omega), rd_framesCounted_counter hb]

theorem limbs_portCount_framesCounted (a : Nat) (high : Bool) : (portCount p a high (framesCounted p fr s)).limbs = s.limbs :=
  RegsOnly.limbs (regsOnly_framesCounted.trans (regsOnly_portCount ..))

/-- A good frame's packet is the last of the limb's, and of the counters only that of congestion can differ. -/
theorem packetQueued_spec : FrameCounted p fr s (packetQueued p fr (framesCounted p fr s)) ∧
    ((packetQueued p fr (framesCounted p fr s)).limb (p / 3)).rxq = (s.limb (p / 3)).rxq ++ [(p, framePkt fr.pkt)] ∧
    (∀ a ∈ [0x50, 0x58], (packetQueued p fr (framesCounted p fr s)).rd (portBase p + a) = s.rd (portBase p + a)) ∧
    (packetQueued p fr (framesCounted p fr s)).fld (portBase p + 0x70) 31 0 = if fr.ce then oneMore (s.fld (portBase p + 0x70) 31 0) else s.fld (portBase p + 0x70) 31 0 := by
  unfold packetQueued
  cases fr.ce with
  | true =>
    obtain ⟨hce, hother⟩ := portCount_framesCounted (p := p) (fr := fr) (s := s) (a := 0x70) (by decide) false rfl
    refine ⟨(frameCounted_framesCounted.portCount (by decide) false).modLimb .., ?_, fun a ha => ?_, ?_⟩
    · rw [limb_modLimb_self, if_pos rfl, State.limb, limbs_portCount_framesCounted, State.limb]
    · rw [State.rd_modLimb, if_pos rfl, hother a (by fin_cases ha <;> decide) (by fin_cases ha <;> decide)]
    · rw [State.fld_congr (State.rd_modLimb ..), if_pos rfl, if_pos rfl]
      exact hce
  | false =>
    refine ⟨frameCounted_framesCounted.modLimb .., ?_, fun a ha => ?_, ?_⟩
    · rw [limb_modLimb_self, if_neg (by decide), State.limb, regsOnly_framesCounted.limbs, State.limb]
    · rw [State.rd_modLimb, if_neg (by decide), rd_framesCounted_counter (by fin_cases ha <;> decide)]
    · rw [State.fld_congr (State.rd_modLimb ..), if_neg (by decide), if_neg (by decide), State.fld_congr (rd_framesCounted_counter (by decide))]

end

/-- A frame at a port, by the first of its checks that it fails; each leaves the count of the frame and its own counter. -/
theorem framesReceived : FramesReceived := by
  refine fun p fr s => ⟨exec_frameReceive_down, fun hup => ?_⟩
  have hcounted : FrameCounted p.val fr s (framesCounted p.val fr s) := frameCounted_framesCounted
  by_cases hst : ForStation p.val fr s
  · have hnoPtp : fr.ptp = true → False := fun h => absurd (hst.2.1.symm.trans h) (by decide)
    have hfcs : fr.fcsOk = false → False := fun h => absurd (hst.1.symm.trans h) (by decide)
    by_cases hform : InForm p.val fr s
    · obtain ⟨hqueued, hrxq, hsame, hce⟩ := packetQueued_spec (p := p.val) (fr := fr) (s := s)
      exact ⟨_, exec_frameReceive_good hup hst hform, hqueued.frames, hqueued.bytes, hqueued.rest, hqueued.rd,
        fun _ _ => ⟨hrxq, hsame 0x50 (by decide), hsame 0x58 (by decide), hce⟩, fun h => absurd ⟨hst, hform⟩ h⟩
    · have hhdr := hcounted.portCount (a := 0x50) (by decide) false
      obtain ⟨hself, hother⟩ := portCount_framesCounted (p := p.val) (fr := fr) (s := s) (a := 0x50) (by decide) false rfl
      exact ⟨_, exec_frameReceive_form hup hst hform, hhdr.frames, hhdr.bytes, hhdr.rest, hhdr.rd, fun _ h => absurd h hform,
        fun _ => ⟨limbs_portCount_framesCounted .., hother 0x70 (by decide) (by decide), fun h => (hfcs h).elim, fun _ h => (hnoPtp h).elim, fun _ _ h => absurd hst h,
          fun _ => ⟨hself, hother 0x58 (by decide) (by decide)⟩⟩⟩
  · cases hfcs : fr.fcsOk with
    | false =>
      have hbad := hcounted.portCount (a := 0x50) (by decide) true
      obtain ⟨hself, hother⟩ := portCount_framesCounted (p := p.val) (fr := fr) (s := s) (a := 0x50) (by decide) true rfl
      exact ⟨_, exec_frameReceive_badFcs hup hfcs, hbad.frames, hbad.bytes, hbad.rest, hbad.rd, fun h => absurd h hst,
        fun _ => ⟨limbs_portCount_framesCounted .., hother 0x70 (by decide) (by decide), fun _ => ⟨hself, hother 0x58 (by decide) (by decide)⟩, nofun, nofun, fun h => absurd h hst⟩⟩
    | true =>
      by_cases hptp : fr.ptp = true ∧ s.flag (portBase p.val + 0x90) 63 = true
      · exact ⟨_, exec_frameReceive_ptp hup hfcs hptp.1 hptp.2, hcounted.frames, hcounted.bytes, hcounted.rest, hcounted.rd, fun h => absurd h hst,
          fun _ => ⟨regsOnly_framesCounted.limbs, rd_framesCounted_counter (by decide), nofun, fun _ _ _ => ⟨rd_framesCounted_counter (by decide), rd_framesCounted_counter (by decide)⟩,
            fun _ h => absurd ((h hptp.1).symm.trans hptp.2) (by decide), fun h => absurd h hst⟩⟩
      · have hforeign := hcounted.portCount (a := 0x58) (by decide) false
        obtain ⟨hself, hother⟩ := portCount_framesCounted (p := p.val) (fr := fr) (s := s) (a := 0x58) (by decide) false rfl
        exact ⟨_, exec_frameReceive_other hup hfcs (fun h => Bool.eq_false_iff.2 fun hon => hptp ⟨h, hon⟩) hst, hforeign.frames, hforeign.bytes, hforeign.rest, hforeign.rd, fun h => absurd h hst,
          fun _ => ⟨limbs_portCount_framesCounted .., hother 0x70 (by decide) (by decide), nofun, fun _ h hon => absurd ⟨h, hon⟩ hptp,
            fun _ _ _ => ⟨hself, hother 0x50 (by decide) (by decide)⟩, fun h => absurd h hst⟩⟩

end Sys2Proof.Machine
end

section
/-! Packets of Meridian that leave: acknowledgments, resends and roll-calls (R464, R465, R468, R477, R479, R483). -/

namespace Sys2Proof.Machine
open Sys2Proof.Claims

/-! ### Flows (R473) -/

theorem State.flow_setFlow_self (s : State) (l f : Nat) (x : Flow) : (s.setFlow l f x).flow l f = x := by
  rw [State.flow, State.setFlow, limb_modLimb_self, tget_tset_self]

theorem State.flow_setFlow_ne (s : State) (l : Nat) {f g : Nat} (x : Flow) (h : f ≠ g) : (s.setFlow l f x).flow l g = s.flow l g := by
  rw [State.flow, State.setFlow, limb_modLimb_self, tget_tset_ne _ _ _ h, State.flow]

theorem State.flow_congr {s t : State} {l : Nat} (h : (t.limb l).flows = (s.limb l).flows) (f : Nat) : t.flow l f = s.flow l f := by
  rw [State.flow, h, State.flow]

theorem State.limb_congr {s t : State} (h : t.limbs = s.limbs) (l : Nat) : t.limb l = s.limb l := by
  rw [State.limb, h, State.limb]

theorem State.flow_portCount (p a : Nat) (high : Bool) (s : State) (l f : Nat) : (portCount p a high s).flow l f = s.flow l f :=
  State.flow_congr (congrArg Limb.flows (State.limb_congr (regsOnly_portCount ..).limbs l)) f

theorem State.flow_setPlan (s : State) (l n : Nat) (r : PlanRun) (m f : Nat) : (s.setPlan l n r).flow m f = s.flow m f := rfl

theorem State.mem_setPlan (s : State) (l n : Nat) (r : PlanRun) : (s.setPlan l n r).mem = s.mem := rfl

/-! ### What can differ as packets leave -/

/-- From s to t registers may change only among the counters of port p. -/
def PortCounts (p : Nat) (s t : State) : Prop := ∀ off, (off < portBase p + 0x30 ∨ portBase p + 0x70 < off) → t.rd off = s.rd off

section
variable {p : Nat} {s t u : State}

theorem portCounts_refl (p : Nat) (s : State) : PortCounts p s s := fun _ _ => rfl

theorem PortCounts.trans (h : PortCounts p s t) (k : PortCounts p t u) : PortCounts p s u := fun off ho => (k off ho).trans (h off ho)

theorem portCounts_of_regs (h : t.regs = s.regs) : PortCounts p s t := fun _ _ => by rw [State.rd, h, State.rd]

theorem portCounts_portCount {a : Nat} (h30 : 0x30 ≤ a) (h70 : a ≤ 0x70) (high : Bool) (s : State) : PortCounts p s (portCount p a high s) :=
  fun _ _ => rd_portCount_ne _ _ (by omega)

/-- Registers of the module stand below those of the limbs. -/
theorem PortCounts.rd_module (h : PortCounts p s t) {off : Nat} (ho : off < 0x100000) : t.rd off = s.rd off := h off (by simp only [portBase, limbBase]; omega)

theorem PortCounts.rd_port (h : PortCounts p s t) {a : Nat} (ha : a < 0x30) : t.rd (portBase p + a) = s.rd (portBase p + a) := h _ (by omega)

/-- Every table of a limb stands above its ports. -/
theorem PortCounts.rd_table (h : PortCounts p s t) (l : Nat) {a : Nat} (hlow : 0x4000 ≤ a) (hhigh : a < 0x100000) : t.rd (limbBase l + a) = s.rd (limbBase l + a) :=
  h _ (by simp only [portBase, limbBase]; omega)

end

section
variable {p l f q : Nat} {s t : State} (h : PortCounts p s t)
include h

theorem flowWord_portCounts (hf : f < 4096) {w : Nat} (hw : w < 4) : flowWord t l f w = flowWord s l f w :=
  (congrArg t.rd (by omega)).trans ((h.rd_table l (a := 0xA0000 + 32 * f + 8 * w) (by omega) (by omega)).trans (congrArg s.rd (by omega)))

theorem rd_peer_portCounts (hq : q < 1024) {w : Nat} (hw : w < 4) : t.rd (peerOff l q w) = s.rd (peerOff l q w) :=
  (congrArg t.rd (by unfold peerOff; omega)).trans ((h.rd_table l (a := 0x82000 + 32 * q + 8 * w) (by omega) (by omega)).trans (congrArg s.rd (by unfold peerOff; omega)))

theorem flowPort_portCounts (hf : f < 4096) : flowPort t l f = flowPort s l f := by
  rw [flowPort, flowWord_portCounts h hf (by decide), flowPort]

theorem flowPeer_portCounts (hf : f < 4096) : flowPeer t l f = flowPeer s l f := by
  rw [flowPeer, flowWord_portCounts h hf (by decide), flowPeer]

theorem inService_portCounts (hf : f < 4096) : inService t l f = inService s l f := by
  rw [inService, flowWord_portCounts h hf (by decide), flowPort_portCounts h hf, inService]

end

theorem flowPeer_lt (s : State) (l f : Nat) : flowPeer s l f < 1024 := bits_lt ..

/-! ### A packet leaves (R464, R465, R468) -/

section
variable {l f : Nat} {s u : State}

/-- The headers of a packet read no counter of its port. -/
theorem netHead_portCounts (hf : f < 4096) (hu : PortCounts (flowPort s l f) s u) (k : MPkt) : netHead u l f (flowPort s l f) k = netHead s l f (flowPort s l f) k := by
  have hport : ∀ a < 0x30, u.rd (portBase (flowPort s l f) + a) = s.rd (portBase (flowPort s l f) + a) := fun a => hu.rd_port
  have hpeer : ∀ w < 4, u.rd (peerOff l (flowPeer s l f) w) = s.rd (peerOff l (flowPeer s l f) w) := fun w => rd_peer_portCounts hu (flowPeer_lt ..)
  have hbase : u.rd (portBase (flowPort s l f)) = s.rd (portBase (flowPort s l f)) := hport 0 (by decide)
  unfold netHead
  dsimp only
  rw [flowWord_portCounts hu hf (by decide), flowPeer_portCounts hu hf, hport 0x18 (by decide), hport 0x20 (by decide), hpeer 2 (by decide), hpeer 3 (by decide), State.flag_congr hbase 28,
    State.flag_congr hbase 29, State.fld_congr hbase 41 30, State.fld_congr hbase 47 42, State.fld_congr hbase 63 48, State.fld_congr (hport 8 (by decide)), State.fld_congr (hport 0x10 (by decide)),
    State.fld_congr (hpeer 2 (by decide))]

theorem headed_netHead (l f : Nat) (s : State) (k : MPkt) : Headed l f s (netHead s l f (flowPort s l f) k) := ⟨⟨rfl, rfl⟩, rfl, rfl, rfl, rfl, ⟨rfl, rfl, rfl⟩, rfl, rfl⟩

/-- Limb l's flow f sends from u as it would from s: nothing has left since, and only the port's counters beside that of frames sent can differ. -/
structure SendsFrom (l f : Nat) (s u : State) : Prop where
  counts : PortCounts (flowPort s l f) s u
  frames : u.rd (portBase (flowPort s l f) + 0x30) = s.rd (portBase (flowPort s l f) + 0x30)
  out : u.out = s.out

/-- What a packet's leaving writes. -/
def transmitted (l f p : Nat) (k : MPkt) (s : State) : State :=
  ((s.addFld (portBase p + 0x30) 63 0 1).addFld (portBase p + 0x40) 63 0 (frameBytes s p k)).emit (.frame p (netHead s l f p k) k)

theorem transmit_eq (hf : f < 4096) (hmay : MaySend l f s) (hu : SendsFrom l f s u) (k : MPkt) : transmit l f k u = transmitted l f (flowPort s l f) k u := by
  have hnumber : moduleId u ≠ 0xFFFF := (State.fld_congr (hu.counts.rd_module (by decide)) ..).trans_ne hmay.number
  have halive : fatal u = false := (State.flag_congr (hu.counts.rd_module (by decide)) _).trans hmay.alive
  have hup : portUp u (flowPort s l f) = true := by
    have henable : u.rd (portBase (flowPort s l f)) = s.rd (portBase (flowPort s l f)) := hu.counts.rd_port (a := 0) (by decide)
    rw [portUp, State.flag_congr henable, State.flag_congr (hu.counts.rd_port (by decide))]
    exact hmay.port
  unfold transmit
  dsimp only
  rw [flowPort_portCounts hu.counts hf, if_neg (by simp [hnumber, halive, hup])]
  rfl

/-- A packet leaves as one frame, which is counted; beside the port's two counters of what it sends nothing changes (R464, R465, R469). -/
theorem transmit_spec (hf : f < 4096) (hmay : MaySend l f s) (hu : SendsFrom l f s u) (k : MPkt) :
    Sent l f k s (transmit l f k u) ∧ transmit l f k u = { u with regs := (transmit l f k u).regs, out := (transmit l f k u).out } ∧
      ∀ off, portBase (flowPort s l f) + 0x30 ≠ off → portBase (flowPort s l f) + 0x40 ≠ off → (transmit l f k u).rd off = u.rd off := by
  rw [transmit_eq hf hmay hu]
  refine ⟨⟨⟨_, headed_netHead l f s k, ?out⟩, ?frames⟩, ?rest, fun off h30 h40 => ?rd⟩
  case out => rw [← netHead_portCounts hf hu.counts, ← hu.out]; rfl
  case frames => rw [transmitted, State.rd_emit, State.rd_addFld_ne _ _ _ _ (by omega), State.rd_addFld_whole, hu.frames, show wd 1 = 1 from rfl]
  case rest =>
    unfold transmitted
    rw [State.addFld, State.addFld, (regsOnly_setFld ..).trans (regsOnly_setFld ..)]
    rfl
  case rd => rw [transmitted, State.rd_emit, State.rd_addFld_ne _ _ _ _ h40, State.rd_addFld_ne _ _ _ _ h30]

end

end Sys2Proof.Machine
end

section
/-! What leaves of Meridian: an acknowledgment that is owed, a packet again, and the roll-call of a peer (R477, R479, R483). -/

namespace Sys2Proof.Machine
open Sys2Proof.Claims

/-! ### ACK_SEND (R477) -/

section
variable {l : LimbId} {f : Nat} {s : State}

theorem sendsFrom_setFlow (l f : Nat) (x : Flow) : SendsFrom l f s (s.setFlow l f x) := ⟨portCounts_of_regs rfl, rfl, rfl⟩

theorem exec_ackSend_none (h : (s.flow l.val f).ackDue = 0) : exec (.ackSend l f) s = .next s := if_pos h

/-- The acknowledgment of what a flow has accepted (R477). -/
def ackPkt (x : Flow) : MPkt := { emptyPkt with typ := 2, ackv := true, ackseq := x.rnext, sack := sackOf x }

theorem exec_ackSend_due (h : (s.flow l.val f).ackDue ≠ 0) (hmay : MaySend l.val f s) : exec (.ackSend l f) s =
    .next (transmit l.val f (sealPkt s l.val f (ackPkt (s.flow l.val f))) (s.setFlow l.val f { s.flow l.val f with ackDue := 0 })) :=
  (if_neg h).trans (congrArg Host.Outcome.next (if_neg (by simp [hmay.going, hmay.service])))

/-- The addressing and the tag leave what a packet says. -/
theorem sealPkt_spec (s : State) (l f : Nat) (k : MPkt) : (sealPkt s l f k).typ = k.typ ∧ (sealPkt s l f k).ackv = k.ackv ∧ (sealPkt s l f k).ackseq = k.ackseq ∧
    (sealPkt s l f k).sack = k.sack ∧ (sealPkt s l f k).payload = k.payload := by
  unfold sealPkt
  dsimp only
  split <;> exact ⟨rfl, rfl, rfl, rfl, rfl⟩

theorem limbs_transmit (l f : Nat) (k : MPkt) (s : State) : (transmit l f k s).limbs = s.limbs := by
  unfold transmit
  dsimp only
  split <;> rfl

theorem ackSend_leaves (hf : f < 4096) (h : (s.flow l.val f).ackDue ≠ 0) (hmay : MaySend l.val f s) :
    ∃ t k, exec (.ackSend l f) s = .next t ∧ Sent l.val f k s t ∧ k.typ = 2 ∧ k.ackv = true ∧ k.ackseq = (s.flow l.val f).rnext ∧
      k.sack = (s.flow l.val f).rmap % 2 ^ 64 ∧ t.flow l.val f = { s.flow l.val f with ackDue := 0 } := by
  obtain ⟨hsent, -, -⟩ := transmit_spec hf hmay (sendsFrom_setFlow l.val f { s.flow l.val f with ackDue := 0 }) (sealPkt s l.val f (ackPkt (s.flow l.val f)))
  obtain ⟨htyp, hackv, hackseq, hsack, -⟩ := sealPkt_spec s l.val f (ackPkt (s.flow l.val f))
  refine ⟨_, _, exec_ackSend_due h hmay, hsent, htyp, hackv, hackseq, hsack, ?_⟩
  rw [State.flow, State.limb_congr (limbs_transmit ..)]
  exact State.flow_setFlow_self ..

end

/-! ### RESEND (R479) -/

section
variable {l : LimbId} {f seq : Nat} {u : Unack} {s : State}

theorem exec_resend_none (h : ∀ u ∈ (s.flow l.val f).unack, u.seq ≠ seq) : exec (.resend l f seq) s = .next s := by
  have hnone : (s.flow l.val f).unack.find? (fun u => u.seq == seq) = none := List.find?_eq_none.2 fun u hu => by simpa using h u hu
  change execResend l f seq s = _
  unfold execResend
  dsimp only
  rw [hnone]

/-- The state as a flow's only packet is about to leave again, its resend counted at the packet and at the port (R479). -/
def resendCounted (l f : Nat) (u : Unack) (s : State) : State :=
  portCount (flowPort s l f) 0x60 true (s.setFlow l f { s.flow l f with unack := [{ u with resends := u.resends + 1 }] })

theorem exec_resend (hu : (s.flow l.val f).unack = [u]) (hseq : u.seq = seq) (hmay : MaySend l.val f s) : exec (.resend l f seq) s =
    .next (transmit l.val f u.pkt (if u.resends + 1 = 64 then raise (.limb l) 1 (4 + flowPort s l.val f % 3) 0x0230 (wd f) (resendCounted l.val f u s) else resendCounted l.val f u s)) := by
  have hfind : (s.flow l.val f).unack.find? (fun u => u.seq == seq) = some u := by simp [hu, hseq]
  have hmap : (s.flow l.val f).unack.map (fun v => if v.seq = seq then { v with resends := v.resends + 1 } else v) = [{ u with resends := u.resends + 1 }] := by simp [hu, hseq]
  change execResend l f seq s = _
  unfold execResend
  dsimp only
  rw [hfind]
  dsimp only
  rw [if_neg (by simp [hmay.going, hmay.service, hmay.number, hmay.alive]), hmap, domLimb_val]
  rfl

theorem unack_resendCounted (l f : Nat) : ((resendCounted l f u s).flow l f).unack = [{ u with resends := u.resends + 1 }] :=
  congrArg Flow.unack (State.flow_setFlow_self ..)

theorem sendsFrom_resendCounted (l f : Nat) : SendsFrom l f s (resendCounted l f u s) :=
  ⟨(sendsFrom_setFlow ..).counts.trans (portCounts_portCount (by decide) (by decide) true _), rd_portCount_ne _ _ (by omega), rfl⟩

/-- The flow's packet leaves again, counted, below the 64th time. -/
theorem resend_leaves (hf : f < 4096) (hu : (s.flow l.val f).unack = [u]) (hseq : u.seq = seq) (hfew : u.resends ≠ 63) (hmay : MaySend l.val f s) :
    ∃ t, exec (.resend l f seq) s = .next t ∧ Sent l.val f u.pkt s t ∧ (t.flow l.val f).unack = [{ u with resends := u.resends + 1 }] ∧
      t.fld (portBase (flowPort s l.val f) + 0x60) 63 32 = oneMore (s.fld (portBase (flowPort s l.val f) + 0x60) 63 32) := by
  obtain ⟨hsent, -, hrd⟩ := transmit_spec hf hmay (sendsFrom_resendCounted l.val f) u.pkt (u := resendCounted l.val f u s)
  refine ⟨_, (exec_resend hu hseq hmay).trans (by rw [if_neg (by omega)]), hsent, ?unack, ?count⟩
  case unack =>
    rw [State.flow, State.limb_congr (limbs_transmit ..)]
    exact unack_resendCounted ..
  case count =>
    rw [State.fld_congr (hrd _ (by omega) (by omega))]
    exact fld_portCount_self _ 0x60 true _

/-- The 64th resend is reported before the packet leaves. -/
theorem resend_reported (hu : (s.flow l.val f).unack = [u]) (hseq : u.seq = seq) (hlast : u.resends = 63) (hmay : MaySend l.val f s) :
    ∃ v, exec (.resend l f seq) s = .next (transmit l.val f u.pkt (raise (.limb l) 1 (4 + flowPort s l.val f % 3) 0x0230 (wd f) v)) ∧
      (v.flow l.val f).unack = [{ u with resends := 64 }] ∧ v = { s with regs := v.regs, limbs := v.limbs } := by
  refine ⟨resendCounted l.val f u s, (exec_resend hu hseq hmay).trans (by rw [if_pos (by omega)]), ?_, rfl⟩
  rw [unack_resendCounted, hlast]

end

/-! ### ROLL_CALL_SEND (R483) -/

/-- Of the numbers of a list only one does anything, before it acts and after. -/
theorem forEach_eq_single {g : Nat → State → State} {p : Nat} {s : State} :
    ∀ {ls : List Nat}, ls.Nodup → p ∈ ls → (∀ q ∈ ls, q ≠ p → g q s = s) → (∀ q ∈ ls, q ≠ p → g q (g p s) = g p s) → forEach ls g s = g p s
  | q :: ls, hnd, hp, hbefore, hafter => by
    obtain ⟨hq, hnd⟩ := List.nodup_cons.1 hnd
    change forEach ls g (g q s) = _
    by_cases e : q = p
    · subst e
      exact forEach_eq_self fun r hr => hafter r (List.mem_cons_of_mem _ hr) fun e => hq (e ▸ hr)
    · rw [hbefore q List.mem_cons_self e]
      exact forEach_eq_single hnd ((List.mem_cons.1 hp).resolve_left (Ne.symm e)) (fun r hr => hbefore r (List.mem_cons_of_mem _ hr)) (fun r hr => hafter r (List.mem_cons_of_mem _ hr))

section
variable {l p q : Nat} {s t : State}

/-- Whom a limb calls is not changed by the counters of a port. -/
theorem rollFlows_portCounts (h : PortCounts p s t) (hlimbs : t.limbs = s.limbs) (hq : q < 1024) : rollFlows t l q = rollFlows s l q := by
  have hservice : ∀ w : Word, inService t l (bits w 27 16) = inService s l (bits w 27 16) ∧ inService t l (bits w 39 28) = inService s l (bits w 39 28) :=
    fun w => ⟨inService_portCounts h (bits_lt ..), inService_portCounts h (bits_lt ..)⟩
  have hflow : ∀ f, t.flow l f = s.flow l f := State.flow_congr (congrArg Limb.flows (State.limb_congr hlimbs l))
  unfold rollFlows
  dsimp only
  rw [rd_peer_portCounts h hq (by decide), (hservice _).1, (hservice _).2, funext fun f => show (!(t.flow l f).stopped) = !(s.flow l f).stopped by rw [hflow]]

end

/-- The roll-call of one peer (R483). -/
def rollCall (l p : Nat) (s : State) : State := forEach (rollFlows s l p) (fun f u => transmit l f (sealPkt u l f { emptyPkt with typ := 3 }) u) s

section
variable {l : LimbId} {f : Nat} {s : State}

theorem exec_rollCallSend : exec (.rollCallSend l) s = .next (forEach (List.range 1024) (rollCall l.val) s) := rfl

theorem rollCall_none {l p : Nat} (h : rollFlows s l p = []) : rollCall l p s = s := by
  rw [rollCall, h]
  rfl

theorem exec_rollCallSend_none (h : ∀ q < 1024, rollFlows s l.val q = []) : exec (.rollCallSend l) s = .next s := by
  rw [exec_rollCallSend, forEach_eq_self fun q hq => rollCall_none (h q (List.mem_range.1 hq))]

theorem rollCallSend_leaves (hf : f < 4096) (hmay : MaySend l.val f s) {p : Nat} (hp : p < 1024) (hcalled : rollFlows s l.val p = [f]) (hother : ∀ q < 1024, q ≠ p → rollFlows s l.val q = []) :
    ∃ t k, exec (.rollCallSend l) s = .next t ∧ Sent l.val f k s t ∧ k.typ = 3 ∧ k.payload = [] ∧ t.limbs = s.limbs := by
  have hcall : rollCall l.val p s = transmit l.val f (sealPkt s l.val f { emptyPkt with typ := 3 }) s := by
    rw [rollCall, hcalled]
    rfl
  obtain ⟨hsent, -, hrd⟩ := transmit_spec hf hmay ⟨portCounts_refl _ s, rfl, rfl⟩ (sealPkt s l.val f { emptyPkt with typ := 3 })
  have hcounts : PortCounts (flowPort s l.val f) s (rollCall l.val p s) := fun off ho => by rw [hcall, hrd off (by omega) (by omega)]
  have hlimbs : (rollCall l.val p s).limbs = s.limbs := by rw [hcall, limbs_transmit]
  obtain ⟨htyp, -, -, -, hpayload⟩ := sealPkt_spec s l.val f { emptyPkt with typ := 3 }
  refine ⟨rollCall l.val p s, _, ?exec, hcall ▸ hsent, htyp, hpayload, hlimbs⟩
  case exec =>
    rw [exec_rollCallSend, forEach_eq_single List.nodup_range (List.mem_range.2 hp) (fun q hq hne => rollCall_none (hother q (List.mem_range.1 hq) hne)) fun q hq hne =>
      rollCall_none ((rollFlows_portCounts hcounts hlimbs (List.mem_range.1 hq)).trans (hother q (List.mem_range.1 hq) hne))]

end

theorem packetsSent : PacketsSent := fun _ _ _ =>
  ⟨exec_ackSend_none, fun _ => exec_resend_none, exec_rollCallSend_none, fun hmay hf => ⟨fun h => ackSend_leaves hf h hmay, fun _ _ hu hseq hfew => resend_leaves hf hu hseq hfew hmay,
    fun _ _ hu hseq hlast => resend_reported hu hseq hlast hmay, fun _ hp => rollCallSend_leaves hf hmay hp⟩⟩

/-- Settles O50: a frame by the first of its checks that it fails, and a packet by the one frame with which it leaves. That the counters of frames and bytes received take every frame, one with a bad FCS too, is the model's choice (SPEC.md, entry 36). -/
theorem meridianFrames : Obligations.MeridianFrames := ⟨framesReceived, packetsSent⟩

end Sys2Proof.Machine
end

section
/-! Packets of Meridian that have come: what takes one off a limb's received packets, and what ROLL, ACK and DATA make of it (R472, R475 to R478, R481, R484, R485, R491, R494). -/

namespace Sys2Proof.Machine
open Sys2Proof.Claims

/-! ### LAST of a peer in every limb (R484) -/

/-- LAST of a peer in the copies of some limbs takes the sidereal time. -/
def touchedIn (ls : List Nat) (q : Nat) (s : State) : State := forEach ls (fun l t => t.wr (peerOff l q 1) (sidereal t)) s

section
variable {q : Nat} {s : State}

theorem touchPeer_eq : touchPeer q s = touchedIn (List.range 8) q s := rfl

theorem regsOnly_touchPeer (q : Nat) (s : State) : RegsOnly s (touchPeer q s) := forEach_induction (P := RegsOnly s) (fun _ t h => h.trans (regsOnly_wr t ..)) _ (regsOnly_refl s)

theorem peerOff_ne_module (l q w : Nat) {off : Nat} (h : off < 0x100000) : peerOff l q w ≠ off := by
  simp only [peerOff, limbBase]
  omega

theorem rd_touchedIn_ne {off : Nat} {ls : List Nat} (h : ∀ l ∈ ls, peerOff l q 1 ≠ off) : (touchedIn ls q s).rd off = s.rd off := by
  induction ls generalizing s with
  | nil => rfl
  | cons l ls ih =>
    change (touchedIn ls q (s.wr (peerOff l q 1) (sidereal s))).rd off = _
    rw [ih fun m hm => h m (List.mem_cons_of_mem _ hm), State.rd_wr_ne _ _ (h l List.mem_cons_self)]

theorem peerOff_injective {l m : Nat} (h : peerOff l q 1 = peerOff m q 1) : l = m := by
  simp only [peerOff, limbBase] at h
  omega

theorem rd_touchedIn_mem {m : Nat} {ls : List Nat} (hm : m ∈ ls) : (touchedIn ls q s).rd (peerOff m q 1) = sidereal s := by
  induction ls generalizing s with
  | nil => exact absurd hm List.not_mem_nil
  | cons l ls ih =>
    change (touchedIn ls q (s.wr (peerOff l q 1) (sidereal s))).rd (peerOff m q 1) = _
    by_cases hrest : m ∈ ls
    · rw [ih hrest]
      exact State.rd_wr_ne _ _ (peerOff_ne_module _ _ _ (by decide))
    · obtain rfl : m = l := (List.mem_cons.1 hm).resolve_right hrest
      rw [rd_touchedIn_ne fun k hk e => hrest ((show k = m from peerOff_injective e) ▸ hk), State.rd_wr_self]

theorem rd_touchPeer_last {m : Nat} (hm : m < 8) : (touchPeer q s).rd (peerOff m q 1) = sidereal s := rd_touchedIn_mem (List.mem_range.2 hm)

theorem sidereal_touchPeer : sidereal (touchPeer q s) = sidereal s := rd_touchedIn_ne fun _ _ => peerOff_ne_module _ _ _ (by decide)

/-- A port's registers stand apart from the peer tables. -/
theorem rd_touchPeer_port (hq : q < 1024) (p : Nat) {a : Nat} (ha : a < 0x100) : (touchPeer q s).rd (portBase p + a) = s.rd (portBase p + a) :=
  rd_touchedIn_ne fun l _ => by simp only [peerOff, portBase, limbBase]; omega

end

/-! ### The first received packet (R472, R481, R485) -/

/-- The state with limb l's first received packet taken off. -/
def rxTaken (l : Nat) (s : State) : State := s.modLimb l (fun m => { m with rxq := m.rxq.tail })

section
variable {l typ p : Nat} {k : MPkt} {s : State}

theorem limb_rxTaken : ((rxTaken l s).limb l).rxq = (s.limb l).rxq.tail ∧ ((rxTaken l s).limb l).flows = (s.limb l).flows := by
  rw [rxTaken, limb_modLimb_self]
  exact ⟨rfl, rfl⟩

theorem takeRx_empty (h : (s.limb l).rxq = []) : takeRx l typ s = (none, s) := by
  unfold takeRx
  rw [h]

/-- A packet of another type stays for its own engine. -/
theorem takeRx_other (h : (s.limb l).rxq.head? = some (p, k)) (hne : k.typ ≠ typ) (htyp : typ ≠ 1) : takeRx l typ s = (none, s) := by
  obtain ⟨r, hr⟩ := List.head?_eq_some_iff.1 h
  unfold takeRx
  rw [hr]
  exact if_pos ⟨hne, by simp [htyp]⟩

/-- A packet of the engine's type by the first of the three checks that it fails. -/
theorem takeRx_first (h : (s.limb l).rxq.head? = some (p, k)) (htyp : k.typ = typ) : takeRx l typ s =
    if okHeader s l k = false then (none, cntHdr p (rxTaken l s))
    else if okTag s l k = false then (none, portCount p 0x58 true (rxTaken l s))
    else if peerIsAbsent s l (flowPeer s l k.dflow) = true then (none, cntStale p (rxTaken l s))
    else (some (p, k), touchPeer (flowPeer s l k.dflow) (rxTaken l s)) := by
  obtain ⟨r, hr⟩ := List.head?_eq_some_iff.1 h
  have htaken : s.modLimb l (fun m => { m with rxq := r }) = rxTaken l s := by
    simp only [rxTaken, State.modLimb, hr, List.tail_cons]
  unfold takeRx
  rw [hr]
  dsimp only
  rw [if_neg (fun h => h.1 htyp), htaken]
  simp only [Bool.not_eq_true']

theorem takeRx_received (h : Received l typ p k s) : takeRx l typ s = (some (p, k), touchPeer (flowPeer s l k.dflow) (rxTaken l s)) := by
  rw [takeRx_first h.first h.type, if_neg (by simp [h.header]), if_neg (by simp [h.tag]), if_neg (by simp [h.present])]

/-- A packet that is dropped: it is the limb's first no more, and one counter of its port counts it. -/
theorem dropped_spec (l p a : Nat) (high : Bool) (s : State) : ∃ t, portCount p a high (rxTaken l s) = t ∧ (t.limb l).rxq = (s.limb l).rxq.tail ∧ (t.limb l).flows = (s.limb l).flows ∧
    t.fld (portBase p + a) (if high then 63 else 31) (if high then 32 else 0) = oneMore (s.fld (portBase p + a) (if high then 63 else 31) (if high then 32 else 0)) ∧
    t = { s with regs := t.regs, limbs := t.limbs } := by
  obtain ⟨hrxq, hflows⟩ := limb_rxTaken (l := l) (s := s)
  exact ⟨_, rfl, hrxq, hflows, fld_portCount_self .., rfl⟩

end

/-- The state once a packet's peer has been seen: the packet is taken, and LAST of the peer is the present time. -/
def peerSeen (l : Nat) (k : MPkt) (s : State) : State := touchPeer (flowPeer s l k.dflow) (rxTaken l s)

section
variable {l : Nat} {k : MPkt} {s : State}

theorem limb_peerSeen : ((peerSeen l k s).limb l).rxq = (s.limb l).rxq.tail ∧ ((peerSeen l k s).limb l).flows = (s.limb l).flows := by
  rw [peerSeen, State.limb_congr (regsOnly_touchPeer ..).limbs]
  exact limb_rxTaken

theorem flow_peerSeen (f : Nat) : (peerSeen l k s).flow l f = s.flow l f := State.flow_congr limb_peerSeen.2 f

theorem peerSeen_rest : peerSeen l k s = { s with regs := (peerSeen l k s).regs, limbs := (peerSeen l k s).limbs } := by
  unfold peerSeen
  rw [regsOnly_touchPeer]
  rfl

theorem noneWait_peerSeen (h : NoneWait s) : NoneWait (peerSeen l k s) := by
  intro m q hq
  rw [peerSeen, State.limb_congr (regsOnly_touchPeer ..).limbs] at hq
  by_cases e : m = l
  · subst e
    exact h m q (limb_rxTaken.2 ▸ hq)
  · rw [rxTaken, limb_modLimb_ne _ _ (Ne.symm e)] at hq
    exact h m q hq

theorem fld_peerSeen_port (p : Nat) {a : Nat} (ha : a < 0x100) (hi lo : Nat) : (peerSeen l k s).fld (portBase p + a) hi lo = s.fld (portBase p + a) hi lo :=
  State.fld_congr (rd_touchPeer_port (flowPeer_lt ..) p ha) hi lo

end

/-! ### ROLL and ACK of a packet that is dropped -/

section
variable {l : LimbId} {p : Nat} {k : MPkt} {s t : State} {i : Instr × Nat}

/-- ROLL and ACK without a packet of theirs leave what its taking leaves. -/
theorem exec_of_takeRx_none (hi : i ∈ [(Instr.roll l, 3), (.ack l, 2)]) (h : takeRx l.val i.2 s = (none, t)) : exec i.1 s = .next t := by
  simp only [List.mem_cons, List.not_mem_nil, or_false] at hi
  rcases hi with rfl | rfl
  · exact congrArg (fun r => Host.Outcome.next r.2) h
  · change execAck l s = _
    unfold execAck
    rw [h]

theorem exec_roll_received (h : Received l.val 3 p k s) : exec (.roll l) s = .next (peerSeen l.val k s) := by
  change Host.Outcome.next (takeRx l.val 3 s).2 = _
  rw [takeRx_received h]
  rfl

theorem exec_ack_received (h : Received l.val 2 p k s) (hack : k.ackv = true) : exec (.ack l) s = .next (takeAck l.val k.dflow p k.ackseq k.sack (peerSeen l.val k s)) := by
  change execAck l s = _
  unfold execAck
  rw [takeRx_received h]
  exact congrArg Host.Outcome.next (if_pos hack)

end

/-! ### Flows for which nothing waits -/

section
variable {l f : Nat} {s : State}

theorem mem_of_tfind {α : Type} {i : Nat} {v : α} : ∀ {t : Tab α}, tfind t i = some v → (i, v) ∈ t
  | (j, w) :: t, h => by
    unfold tfind at h
    split at h
    · next e => exact e ▸ Option.some.inj h ▸ List.mem_cons_self
    · exact List.mem_cons_of_mem _ (mem_of_tfind h)

theorem waitq_of_noneWait (h : NoneWait s) (l f : Nat) : (s.flow l f).waitq = [] := by
  unfold State.flow tget
  cases hfind : tfind (s.limb l).flows f with
  | none => rfl
  | some x => exact h l _ (mem_of_tfind hfind)

theorem pumpLimb_idle (h : ∀ p ∈ (s.limb l).flows, p.2.waitq = []) : pumpLimb l s = s := by
  have hidle : ∀ ps : List (Nat × Flow), (∀ p ∈ ps, p.2.waitq = []) → ps.foldl (fun t p => pumpFlow l p.1 p.2.waitq.length t) s = s := by
    intro ps hps
    induction ps with
    | nil => rfl
    | cons p ps ih =>
      rw [List.foldl_cons, hps p List.mem_cons_self]
      exact ih fun q hq => hps q (List.mem_cons_of_mem _ hq)
  exact hidle _ h

end

/-! ### An acknowledgment (R475, R477, R478) -/

/-- An acknowledgment of number a with map m covers number n of a flow whose SUNA is u. -/
def acksSeq (u a m n : Nat) : Bool := sub32 n u < sub32 a u || (sub32 n (a + 1) < 64 && m.testBit (sub32 n (a + 1)))

/-- A flow's state after an acknowledgment within its window. -/
def ackedFlow (a m : Nat) (x : Flow) : Flow := { x with suna := a % 2 ^ 32, unack := x.unack.filter (fun u => !acksSeq x.suna a m u.seq) }

section
variable {l f p a m : Nat} {s : State}

theorem takeAck_outside (h : sub32 (s.flow l f).snxt (s.flow l f).suna < sub32 a (s.flow l f).suna) : takeAck l f p a m s = cntOow p s := if_pos h

theorem takeAck_inside (h : sub32 a (s.flow l f).suna ≤ sub32 (s.flow l f).snxt (s.flow l f).suna) (hwait : NoneWait s) :
    takeAck l f p a m s = s.setFlow l f (ackedFlow a m (s.flow l f)) := by
  have hpump : ∀ q ∈ ((s.setFlow l f (ackedFlow a m (s.flow l f))).limb l).flows, q.2.waitq = [] := by
    intro q hq
    rw [State.setFlow, limb_modLimb_self] at hq
    rcases mem_tset hq with rfl | hq
    · exact waitq_of_noneWait hwait l f
    · exact hwait l q hq
  calc takeAck l f p a m s = pumpLimb l (pumpFlow l f (s.flow l f).waitq.length (s.setFlow l f (ackedFlow a m (s.flow l f)))) := if_neg (by omega)
    _ = pumpLimb l (s.setFlow l f (ackedFlow a m (s.flow l f))) := by rw [waitq_of_noneWait hwait l f]; rfl
    _ = s.setFlow l f (ackedFlow a m (s.flow l f)) := pumpLimb_idle hpump

theorem mem_unack_ackedFlow {x : Flow} {u : Unack} : u ∈ (ackedFlow a m x).unack ↔
    u ∈ x.unack ∧ sub32 a x.suna ≤ sub32 u.seq x.suna ∧ ¬ (sub32 u.seq (a + 1) < 64 ∧ m.testBit (sub32 u.seq (a + 1)) = true) := by
  simp only [ackedFlow, acksSeq, List.mem_filter, Bool.not_eq_true', Bool.or_eq_false_iff, Bool.and_eq_false_iff, decide_eq_false_iff_not, not_lt, not_and_or, Bool.not_eq_true]

end

/-! ### DATA in order of a run (R476, R491) -/

/-- A flow's state once the number that it expects has come, with no later one marked. -/
def numberTaken (x : Flow) : Flow := { x with rnext := (x.rnext + 1) % 2 ^ 32, ackDue := x.ackDue + 1 }

theorem markSeq_zero {x : Flow} (h : x.rmap = 0) : markSeq x 0 = numberTaken x := by
  simp [markSeq, advanceMap, numberTaken, h]

theorem sub32_self {n : Nat} (h : n < 2 ^ 32) : sub32 n n = 0 := by
  rw [sub32, Nat.mod_eq_of_lt h, Nat.add_sub_cancel_left, Nat.mod_self]

/-- The state with an in-order packet's number taken by its flow. -/
def dataTaken (l : Nat) (k : MPkt) (s : State) : State := (peerSeen l k s).setFlow l k.dflow (numberTaken (s.flow l k.dflow))

/-- The state as the packet's run is given it, its wait begun anew (R494). -/
def waitBegun (l : Nat) (k : MPkt) (s : State) : State := (dataTaken l k s).setPlan l k.plan { s.plan l k.plan with since := sidereal s }

section
variable {l p : Nat} {k : MPkt} {s : State}

theorem dataTaken_rest : dataTaken l k s = { s with regs := (dataTaken l k s).regs, limbs := (dataTaken l k s).limbs } := by
  unfold dataTaken State.setFlow State.modLimb
  rw [peerSeen_rest]

theorem plan_dataTaken (n : Nat) : (dataTaken l k s).plan l n = s.plan l n := by
  rw [State.plan, dataTaken_rest, State.plan]

theorem sidereal_dataTaken : sidereal (dataTaken l k s) = sidereal s := by
  rw [sidereal, dataTaken, State.setFlow, State.rd_modLimb, peerSeen]
  exact sidereal_touchPeer

theorem flow_dataTaken : (dataTaken l k s).flow l k.dflow = numberTaken (s.flow l k.dflow) := State.flow_setFlow_self ..

theorem rxq_dataTaken : ((dataTaken l k s).limb l).rxq = (s.limb l).rxq.tail := by
  rw [dataTaken, State.setFlow, limb_modLimb_self]
  exact limb_peerSeen.1

theorem flow_waitBegun : (waitBegun l k s).flow l k.dflow = numberTaken (s.flow l k.dflow) := by
  rw [waitBegun, State.flow_setPlan, flow_dataTaken]

theorem plan_waitBegun : (waitBegun l k s).plan l k.plan = { s.plan l k.plan with since := sidereal s } := by
  rw [waitBegun, State.plan_setPlan_self]

theorem mem_waitBegun : (waitBegun l k s).mem = s.mem := by
  rw [waitBegun, State.mem_setPlan, dataTaken_rest]

/-- In-order DATA that no run takes counts as stale, its number taken. -/
theorem cntStale_dataTaken : (cntStale p (dataTaken l k s)).flow l k.dflow = numberTaken (s.flow l k.dflow) ∧
    (cntStale p (dataTaken l k s)).fld (portBase p + 0x70) 63 32 = oneMore (s.fld (portBase p + 0x70) 63 32) ∧ ((cntStale p (dataTaken l k s)).limb l).rxq = (s.limb l).rxq.tail := by
  refine ⟨?flow, ?count, ?rxq⟩
  case flow => rw [cntStale, State.flow_portCount, flow_dataTaken]
  case count =>
    refine (fld_portCount_self p 0x70 true _).trans (congrArg oneMore ?_)
    rw [dataTaken, State.setFlow, State.fld_congr (State.rd_modLimb ..)]
    exact fld_peerSeen_port p (by decide) 63 32
  case rxq => rw [cntStale, State.limb_congr (regsOnly_portCount ..).limbs, rxq_dataTaken]

/-- An in-order packet of a plan's latest tag: its number is taken, and then it goes to its run or counts as stale. -/
theorem takeData_inOrder (h : Received l 1 p k s) (hack : k.ackv = false) (hgoing : (s.flow l k.dflow).stopped = false) (hseq : k.seq = (s.flow l k.dflow).rnext)
    (hmap : (s.flow l k.dflow).rmap = 0) (hnext : (s.flow l k.dflow).rnext < 2 ^ 32) (htag : k.rtag = (s.plan l k.plan).tag) {t : State}
    (ht : (if planActive s l k.plan = true then planPacket l k.plan p k (waitBegun l k s) else cntStale p (dataTaken l k s)) = t) :
    takeData l s = if 16 ≤ (t.flow l k.dflow).ackDue then sendAck l k.dflow t else t := by
  have hplan : (peerSeen l k s).plan l k.plan = s.plan l k.plan := by rw [State.plan, peerSeen_rest, State.plan]
  have hactive : planActive (peerSeen l k s) l k.plan = planActive s l k.plan := by rw [planActive, hplan, planActive]
  have hnear : sub32 k.seq (s.flow l k.dflow).rnext = 0 := hseq ▸ sub32_self (hseq ▸ hnext)
  have hlatest : (k.rtag + 65536 - (s.plan l k.plan).tag) % 65536 = 0 := by omega
  unfold takeData
  extract_lets t'
  rw [show t' = (some (p, k), peerSeen l k s) from takeRx_received h]
  change (if ((peerSeen l k s).flow l k.dflow).stopped = true then _ else _) = _
  rw [if_neg (by simp [flow_peerSeen, hgoing])]
  extract_lets s1 x d r run dt s2 latest s3
  have hs1 : s1 = peerSeen l k s := if_neg (by simp [hack])
  have hx : x = s.flow l k.dflow := by rw [show x = s1.flow l k.dflow from rfl, hs1, flow_peerSeen]
  have hd : d = 0 := by rw [show d = sub32 k.seq x.rnext from rfl, hx, hnear]
  have hdt : dt = 0 := by rw [show dt = (k.rtag + 65536 - (s1.plan l k.plan).tag) % 65536 from rfl, hs1, hplan, hlatest]
  have hs2 : s2 = dataTaken l k s := by rw [show s2 = s1.setFlow l k.dflow (markSeq x d) from rfl, hs1, hx, hd, markSeq_zero hmap, dataTaken]
  have hbegun : s2.setPlan l k.plan { latest with since := sidereal s2 } = waitBegun l k s := by
    rw [show latest = s2.plan l k.plan from rfl, hs2, plan_dataTaken, sidereal_dataTaken, waitBegun]
  have hs3 : s3 = t := by
    rw [← ht, show s3 = if run = true ∧ dt = 0 then planPacket l k.plan p k (s2.setPlan l k.plan { latest with since := sidereal s2 }) else cntStale p s2 from rfl, hbegun, hs2,
      show run = planActive s1 l k.plan from rfl, hs1, hactive]
    simp only [hdt, and_true]
  rw [hd, hdt, hs3, if_neg (by simp [marked]), if_neg (by decide), if_neg (by decide), if_neg (by decide)]

end

section
variable {l : LimbId} {p : Nat} {k : MPkt} {s : State} (h : Received l.val 1 p k s) (hack : k.ackv = false) (hgoing : (s.flow l.val k.dflow).stopped = false)
  (hseq : k.seq = (s.flow l.val k.dflow).rnext) (hmap : (s.flow l.val k.dflow).rmap = 0) (hnext : (s.flow l.val k.dflow).rnext < 2 ^ 32) (htag : k.rtag = (s.plan l.val k.plan).tag)
include h hack hgoing hseq hmap hnext htag

/-- In-order DATA that no run takes is owed an acknowledgment and counts as stale. -/
theorem exec_data_stale (hrun : planActive s l.val k.plan = false) (hfew : (s.flow l.val k.dflow).ackDue < 15) : exec (.data l) s = .next (cntStale p (dataTaken l.val k s)) := by
  have hdue : ((cntStale p (dataTaken l.val k s)).flow l.val k.dflow).ackDue = (s.flow l.val k.dflow).ackDue + 1 := congrArg Flow.ackDue cntStale_dataTaken.1
  have htaken : takeData l.val s = cntStale p (dataTaken l.val k s) := by
    rw [takeData_inOrder h hack hgoing hseq hmap hnext htag (if_neg (by simp [hrun])), if_neg (by omega)]
  have hreads : SameReads s (dataTaken l.val k s) := by
    rw [dataTaken_rest]
    exact ⟨rfl, rfl⟩
  change Host.Outcome.next (withReads (takeData l.val) s) = _
  rw [withReads_of_no_reads (by rw [htaken]; exact hreads.2) (by rw [htaken]; exact hreads.1), htaken]

/-- In-order DATA of the current run goes to the run. -/
theorem exec_data_current (hrun : planActive s l.val k.plan = true) : exec (.data l) s =
    .next (withReads (fun _ => if 16 ≤ ((planPacket l.val k.plan p k (waitBegun l.val k s)).flow l.val k.dflow).ackDue then sendAck l.val k.dflow (planPacket l.val k.plan p k (waitBegun l.val k s))
      else planPacket l.val k.plan p k (waitBegun l.val k s)) s) :=
  congrArg Host.Outcome.next (withReads_congr (takeData_inOrder h hack hgoing hseq hmap hnext htag (if_pos hrun)))

end

/-- Settles O25: a packet by the first check that it fails, and one that passes by what its engine makes of it. That LAST is set in every limb's copy, and that a DATA packet whose run reads the module range waits for those reads, are the model's choice (SPEC.md, entries 36 and 91). -/
theorem packetsReceived : Obligations.PacketsReceived := by
  refine fun l p k s _ => ⟨?idle, ?dropped, ?roll, ?inside, ?outside, ?data⟩
  case idle =>
    intro i hi h
    have hnone : ∀ typ ∈ [3, 2], takeRx l.val typ s = (none, s) := fun typ htyp => by
      rcases h with h | ⟨hfirst, h1⟩
      · exact takeRx_empty h
      · exact takeRx_other hfirst (by rintro rfl; exact absurd htyp (by rw [h1]; decide)) (by rintro rfl; exact absurd htyp (by decide))
    simp only [List.mem_cons, List.not_mem_nil, or_false] at hi
    rcases hi with rfl | rfl
    · exact exec_of_takeRx_none (i := (.roll l, 3)) (by simp) (hnone 3 (by decide))
    · exact exec_of_takeRx_none (i := (.ack l, 2)) (by simp) (hnone 2 (by decide))
  case dropped =>
    intro i hi hfirst htyp
    refine ⟨fun hheader => ?_, fun hheader htag => ?_, fun hheader htag habsent => ?_⟩
    · obtain ⟨t, rfl, hspec⟩ := dropped_spec l.val p 0x50 false s
      exact ⟨_, exec_of_takeRx_none hi ((takeRx_first hfirst htyp).trans (if_pos hheader)), hspec⟩
    · obtain ⟨t, rfl, hspec⟩ := dropped_spec l.val p 0x58 true s
      exact ⟨_, exec_of_takeRx_none hi ((takeRx_first hfirst htyp).trans (by rw [if_neg (by simp [hheader]), if_pos htag])), hspec⟩
    · obtain ⟨t, rfl, hspec⟩ := dropped_spec l.val p 0x70 true s
      exact ⟨_, exec_of_takeRx_none hi ((takeRx_first hfirst htyp).trans (by rw [if_neg (by simp [hheader]), if_neg (by simp [htag]), if_pos habsent]; rfl)), hspec⟩
  case roll =>
    exact fun h => ⟨_, exec_roll_received h, limb_peerSeen.1, fun m hm => rd_touchPeer_last hm, limb_peerSeen.2, peerSeen_rest⟩
  case inside =>
    intro h hwait hack hwindow
    have hflow : (peerSeen l.val k s).flow l.val k.dflow = s.flow l.val k.dflow := flow_peerSeen _
    have htaken := takeAck_inside (l := l.val) (f := k.dflow) (p := p) (m := k.sack) (hflow.symm ▸ hwindow) (noneWait_peerSeen hwait)
    rw [hflow] at htaken
    refine ⟨_, (exec_ack_received h hack).trans (congrArg Host.Outcome.next htaken), ?_, ?_, fun u => ?_, fun f hf => ?_, ?_⟩
    · rw [State.flow_setFlow_self]; rfl
    · rw [State.flow_setFlow_self]; rfl
    · rw [State.flow_setFlow_self]; exact mem_unack_ackedFlow
    · rw [State.flow_setFlow_ne _ _ _ (Ne.symm hf), flow_peerSeen]
    · rw [State.setFlow, limb_modLimb_self]; exact limb_peerSeen.1
  case outside =>
    intro h hack hbeyond
    have hflow : (peerSeen l.val k s).flow l.val k.dflow = s.flow l.val k.dflow := flow_peerSeen _
    refine ⟨_, (exec_ack_received h hack).trans (congrArg Host.Outcome.next (takeAck_outside (hflow.symm ▸ hbeyond))), ?_, ?_⟩
    · exact (fld_portCount_self p 0x60 false _).trans (congrArg oneMore (fld_peerSeen_port p (by decide) 31 0))
    · rw [cntOow, State.limb_congr (regsOnly_portCount ..).limbs]
      exact limb_peerSeen.2
  case data =>
    intro h hack hgoing hseq hmap hnext htag
    exact ⟨fun hrun hfew => ⟨_, exec_data_stale h hack hgoing hseq hmap hnext htag hrun hfew, cntStale_dataTaken⟩,
      fun hrun => ⟨_, exec_data_current h hack hgoing hseq hmap hnext htag hrun, flow_waitBegun, plan_waitBegun, mem_waitBegun⟩⟩

end Sys2Proof.Machine
end

section
/-! The sidereal counter and its discipline: what a phase or step measurement does to the servo and the lock, whatever gives it (R728 to R731). -/

namespace Sys2Proof.Machine
open Sys2Proof.Claims

/-! ### Night-log events (R633, R635) -/

section
variable {s t u : State} {j k : Nat}

theorem logged_zero (h : t.rd ringNlog.head = s.rd ringNlog.head) : Logged 0 s t := by
  rw [Logged, h]
  exact (BitVec.add_zero _).symm

theorem logged_trans (h : Logged j s t) (g : Logged k t u) : Logged (j + k) s u := by
  unfold Logged at *
  rw [g, h, wd, wd, wd, BitVec.ofNat_add, BitVec.add_assoc]

variable (dk code loc : Nat) (a b : Word) (s)

theorem logged_nlogEvent : Logged 1 s (nlogEvent dk code loc a b s) := rd_nlog_head ..

theorem nlogEvent_rest : nlogEvent dk code loc a b s = { s with regs := (nlogEvent dk code loc a b s).regs, rings := (nlogEvent dk code loc a b s).rings } := nlog_rest ..

theorem rd_nlogEvent_ne {off : Nat} (h : off < 0x8108 ∨ 0x8118 < off) : (nlogEvent dk code loc a b s).rd off = s.rd off := rd_nlog_ne _ _ _ _ _ _ _ _ _ _ _ h

@[simp] theorem fld_nlogEvent_stat (hi lo : Nat) : (nlogEvent dk code loc a b s).fld rChrSyncStat hi lo = s.fld rChrSyncStat hi lo := State.fld_congr (rd_nlogEvent_ne _ _ _ _ _ _ (by decide)) ..

@[simp] theorem flag_nlogEvent_stat (i : Nat) : (nlogEvent dk code loc a b s).flag rChrSyncStat i = s.flag rChrSyncStat i := State.flag_congr (rd_nlogEvent_ne _ _ _ _ _ _ (by decide)) _

@[simp] theorem rateOf_nlogEvent : rateOf (nlogEvent dk code loc a b s) = rateOf s := congrArg (sx 20) (fld_nlogEvent_stat ..)

@[simp] theorem sidereal_nlogEvent : sidereal (nlogEvent dk code loc a b s) = sidereal s := rd_nlogEvent_ne _ _ _ _ _ _ (by decide)

@[simp] theorem sync_nlogEvent : (nlogEvent dk code loc a b s).sync = s.sync := by rw [nlogEvent_rest]

end

/-! ### The discipline's own state -/

/-- The state with another state of the discipline. -/
def State.withSync (s : State) (x : Sync) : State := { s with sync := x }

@[simp] theorem State.sync_withSync (s : State) (x : Sync) : (s.withSync x).sync = x := rfl
@[simp] theorem State.rd_withSync (s : State) (x : Sync) (off : Nat) : (s.withSync x).rd off = s.rd off := rfl
@[simp] theorem State.fld_withSync (s : State) (x : Sync) (off hi lo : Nat) : (s.withSync x).fld off hi lo = s.fld off hi lo := rfl
@[simp] theorem State.flag_withSync (s : State) (x : Sync) (off i : Nat) : (s.withSync x).flag off i = s.flag off i := rfl
@[simp] theorem sidereal_withSync (s : State) (x : Sync) : sidereal (s.withSync x) = sidereal s := rfl
@[simp] theorem sidereal_setStat (s : State) (hi lo n : Nat) : sidereal (s.setFld rChrSyncStat hi lo n) = sidereal s := State.rd_setFld_ne _ _ _ _ (by decide)

/-- From s to t only the discipline's own state, the draws, the night log and the registers in offs change, and the log takes k records. -/
structure Disciplined (offs : List Nat) (k : Nat) (s t : State) : Prop where
  rest : t = { s with regs := t.regs, rings := t.rings, sync := t.sync, draws := t.draws }
  rd : ∀ off, off ∉ offs → (off < 0x8108 ∨ 0x8118 < off) → t.rd off = s.rd off
  logged : Logged k s t

section
variable {offs : List Nat} {j k : Nat} {s t u : State}

theorem disciplined_refl (offs : List Nat) (s : State) : Disciplined offs 0 s s := ⟨rfl, fun _ _ _ => rfl, logged_zero rfl⟩

theorem Disciplined.trans (h : Disciplined offs j s t) (g : Disciplined offs k t u) : Disciplined offs (j + k) s u :=
  ⟨by rw [g.rest, h.rest], fun off ho hlog => (g.rd off ho hlog).trans (h.rd off ho hlog), logged_trans h.logged g.logged⟩

theorem Disciplined.cores (h : Disciplined offs k s t) : t.cores = s.cores := by rw [h.rest]

theorem disciplined_wr {off : Nat} (ho : off ∈ offs) (hlog : ringNlog.head ≠ off) (w : Word) : Disciplined offs 0 s (s.wr off w) :=
  ⟨rfl, fun _ hq _ => State.rd_wr_ne _ _ fun e => hq (e ▸ ho), logged_zero (State.rd_wr_ne _ _ hlog.symm)⟩

theorem disciplined_setFld {off : Nat} (ho : off ∈ offs) (hlog : ringNlog.head ≠ off) (hi lo n : Nat) : Disciplined offs 0 s (s.setFld off hi lo n) := disciplined_wr ho hlog _

theorem disciplined_withSync (x : Sync) : Disciplined offs 0 s (s.withSync x) := ⟨rfl, fun _ _ _ => rfl, logged_zero rfl⟩

theorem disciplined_nlogEvent (dk code loc : Nat) (a b : Word) : Disciplined offs 1 s (nlogEvent dk code loc a b s) :=
  ⟨by rw [nlogEvent_rest], fun _ _ hlog => rd_nlogEvent_ne _ _ _ _ _ _ hlog, logged_nlogEvent ..⟩

end

/-! ### The lock (R731) -/

/-- The registers that a measurement may change: the servo's status and the counter. -/
def clockRegs : List Nat := [rChrSyncStat, rChrTime]

theorem disciplined_setStat (s : State) (hi lo n : Nat) : Disciplined clockRegs 0 s (s.setFld rChrSyncStat hi lo n) := disciplined_setFld (by decide) (by decide) ..

/-- From s to t only LOCK can differ in the servo's status, and the counter stands. -/
structure LockAlone (s t : State) : Prop where
  offset : t.fld rChrSyncStat 63 32 = s.fld rChrSyncStat 63 32
  rate : rateOf t = rateOf s
  slewing : t.flag rChrSyncStat 6 = s.flag rChrSyncStat 6
  used : t.flag rChrSyncStat 5 = s.flag rChrSyncStat 5
  counter : sidereal t = sidereal s

theorem lockAlone_refl (s : State) : LockAlone s s := ⟨rfl, rfl, rfl, rfl, rfl⟩

theorem lockAlone_withSync (s : State) (x : Sync) : LockAlone s (s.withSync x) := ⟨rfl, rfl, rfl, rfl, rfl⟩

theorem LockAlone.trans {s t u : State} (h : LockAlone s t) (g : LockAlone t u) : LockAlone s u :=
  ⟨g.offset.trans h.offset, g.rate.trans h.rate, g.slewing.trans h.slewing, g.used.trans h.used, g.counter.trans h.counter⟩

theorem lockAlone_setLock (s : State) (n : Nat) (dk code loc : Nat) (a b : Word) : LockAlone s (nlogEvent dk code loc a b (s.setFld rChrSyncStat 7 7 n)) := by
  constructor <;> simp (disch := omega) [rateOf, State.fld_setFld_ne, State.flag_setFld_ne]

section
variable (s : State)

theorem loseLock_locked (h : s.flag rChrSyncStat 7 = true) :
    loseLock s = nlogEvent 3 0x1305 0 (wd (s.fld rChrSync 1 0)) (wd (s.fld rChrSyncStat 63 32)) (s.setFld rChrSyncStat 7 7 0) := if_pos h

theorem loseLock_unlocked (h : s.flag rChrSyncStat 7 = false) : loseLock s = s := if_neg (by simp [h])

/-- The lock is lost, with an event where it was held. -/
theorem loseLock_spec : Disciplined clockRegs (if s.flag rChrSyncStat 7 then 1 else 0) s (loseLock s) ∧ LockAlone s (loseLock s) ∧ (loseLock s).flag rChrSyncStat 7 = false ∧ (loseLock s).sync = s.sync := by
  cases h : s.flag rChrSyncStat 7 with
  | false =>
    rw [loseLock_unlocked s h]
    exact ⟨disciplined_refl .., lockAlone_refl s, h, rfl⟩
  | true =>
    rw [loseLock_locked s h]
    refine ⟨(disciplined_setStat ..).trans (disciplined_nlogEvent ..), lockAlone_setLock .., ?_, by rw [sync_nlogEvent]; rfl⟩
    rw [flag_nlogEvent_stat, State.flag_setFld_mem _ _ _ _ _ _ (by decide) (by decide) (by decide)]
    rfl

/-- The discipline's state after a phase measurement of offset o (R731). -/
def phaseSeen (o : Int) (s : State) : Sync := { s.sync with good := if o.natAbs < 100 then s.sync.good + 1 else 0, lastPhase := some (sidereal s) }

theorem lockStep_far {o : Int} (h : 1000 ≤ o.natAbs) : lockStep o s = loseLock (s.withSync (phaseSeen o s)) := if_pos h

theorem lockStep_gained {o : Int} (hnear : ¬ 1000 ≤ o.natAbs) (h : 16 ≤ (phaseSeen o s).good ∧ s.flag rChrSyncStat 7 = false) :
    lockStep o s = nlogEvent 3 0x1304 0 (wd (s.fld rChrSync 1 0)) (wd (toBits 64 o)) ((s.withSync (phaseSeen o s)).setFld rChrSyncStat 7 7 1) := (if_neg hnear).trans (if_pos h)

theorem lockStep_kept {o : Int} (hnear : ¬ 1000 ≤ o.natAbs) (h : ¬ (16 ≤ (phaseSeen o s).good ∧ s.flag rChrSyncStat 7 = false)) :
    lockStep o s = s.withSync (phaseSeen o s) := (if_neg hnear).trans (if_neg h)

/-- LOCK follows a phase measurement, each change with one event. -/
theorem lockStep_spec (o : Int) : Disciplined clockRegs (if (lockStep o s).flag rChrSyncStat 7 = s.flag rChrSyncStat 7 then 0 else 1) s (lockStep o s) ∧ LockAlone s (lockStep o s) ∧
    (lockStep o s).flag rChrSyncStat 7 = (if 1000 ≤ o.natAbs then false else s.flag rChrSyncStat 7 || decide (16 ≤ (phaseSeen o s).good)) ∧ (lockStep o s).sync = phaseSeen o s := by
  by_cases hfar : 1000 ≤ o.natAbs
  · obtain ⟨hdisc, halone, hlock, hsync⟩ := loseLock_spec (s.withSync (phaseSeen o s))
    rw [lockStep_far s hfar, hlock, if_pos hfar]
    refine ⟨?_, (lockAlone_withSync ..).trans halone, rfl, hsync⟩
    have h := (disciplined_withSync (s := s) (phaseSeen o s)).trans hdisc
    rw [State.flag_withSync] at h
    cases hs : s.flag rChrSyncStat 7 with
    | false => simpa [hs] using h
    | true => simpa [hs] using h
  · by_cases hset : 16 ≤ (phaseSeen o s).good ∧ s.flag rChrSyncStat 7 = false
    · have hlock : (lockStep o s).flag rChrSyncStat 7 = true := by
        rw [lockStep_gained s hfar hset, flag_nlogEvent_stat, State.flag_setFld_mem _ _ _ _ _ _ (by decide) (by decide) (by decide)]
        rfl
      rw [hlock, hset.2, if_neg hfar, if_neg (by decide), lockStep_gained s hfar hset]
      exact ⟨(disciplined_withSync _).trans ((disciplined_setStat ..).trans (disciplined_nlogEvent ..)), (lockAlone_withSync ..).trans (lockAlone_setLock ..), by simp [hset.1], sync_nlogEvent ..⟩
    · rw [lockStep_kept s hfar hset, State.flag_withSync, if_pos rfl, if_neg hfar]
      refine ⟨disciplined_withSync _, lockAlone_withSync .., ?_, rfl⟩
      cases hs : s.flag rChrSyncStat 7 with
      | true => rfl
      | false => simpa [hs] using hset

/-- What a phase measurement of offset o leaves of the lock (R731). -/
theorem lockFollows_lockStep (o : Int) : LockFollows o s (lockStep o s) := by
  obtain ⟨-, halone, hlock, hsync⟩ := lockStep_spec s o
  exact ⟨by rw [hsync]; rfl, by rw [hlock, hsync], by rw [hsync, halone.counter]; rfl⟩

end

/-! ### A measurement before the lock follows it (R730, R731) -/

/-- The state with OFFSET as measured. -/
def offsetShown (o : Int) (s : State) : State := s.setFld rChrSyncStat 63 32 (offsetField o)

/-- The state with a measurement accepted at the present time. -/
def measurementTaken (s : State) : State := s.withSync { s.sync with lastAcc := some (sidereal s) }

/-- A step measurement that finds the counter behind by the step size or more. -/
def counterJumped (o : Int) (s : State) : State :=
  measurementTaken (nlogEvent 3 0x1301 0 (wd o.natAbs) 0
    ((setTime (sidereal (offsetShown o s) + wd o.natAbs) ((offsetShown o s).withSync { s.sync with integ := 0 })).setFld rChrSyncStat 6 6 0))

/-- The slowest rate, at which a counter ahead by the step size or more is held. -/
def rateSlowed (o : Int) (s : State) : State := ((offsetShown o s).setFld rChrSyncStat 31 12 (toBits 20 (-500000))).setFld rChrSyncStat 6 6 1

/-- A step measurement that finds the counter ahead by the step size or more. -/
def counterHeld (o : Int) (s : State) : State :=
  measurementTaken (if (offsetShown o s).flag rChrSyncStat 6 then rateSlowed o s else nlogEvent 3 0x1302 0 (wd o.natAbs) 0 (rateSlowed o s))

/-- A phase measurement inside the step size drives the servo. -/
def servoDriven (o : Int) (s : State) : State :=
  let integ := s.sync.integ + o.tdiv 16
  let r := servoRate o integ (offsetShown o s)
  measurementTaken (((r.2.withSync { r.2.sync with integ := integ }).setFld rChrSyncStat 31 12 (toBits 20 r.1)).setFld rChrSyncStat 6 6 0)

/-- The lock follows a measurement where it is one of phase. -/
def lockAfter (phaseM : Bool) (o : Int) (s : State) : State := if phaseM then lockStep o s else s

section
variable {phaseM : Bool} {o : Int} {s : State}

theorem stepNs_pos (s : State) : 0 < stepNs s := by
  unfold stepNs
  omega

/-- A measurement by its offset against the step size. -/
theorem measure_eq (stepM phaseM : Bool) (o : Int) (s : State) : measure stepM phaseM o s = lockAfter phaseM o
    (if o ≤ -stepNs s ∧ stepM = true then counterJumped o s
    else if stepNs s ≤ o ∧ stepM = true then counterHeld o s
    else if phaseM = true ∧ -stepNs s < o ∧ o < stepNs s then servoDriven o s
    else offsetShown o s) := rfl

theorem measure_behind (h : o ≤ -stepNs s) : measure true phaseM o s = lockAfter phaseM o (counterJumped o s) := by
  rw [measure_eq, if_pos ⟨h, rfl⟩]

theorem measure_ahead (h : stepNs s ≤ o) : measure true phaseM o s = lockAfter phaseM o (counterHeld o s) := by
  have hpos := stepNs_pos s
  rw [measure_eq, if_neg (by omega), if_pos ⟨h, rfl⟩]

theorem measure_inside (stepM : Bool) (hlow : -stepNs s < o) (hhigh : o < stepNs s) : measure stepM phaseM o s = lockAfter phaseM o (if phaseM = true then servoDriven o s else offsetShown o s) := by
  rw [measure_eq, if_neg (by omega), if_neg (by omega)]
  simp only [hlow, hhigh, and_true]

theorem measure_outside (h : o ≤ -stepNs s ∨ stepNs s ≤ o) : measure false phaseM o s = lockAfter phaseM o (offsetShown o s) := by
  rw [measure_eq, if_neg (by simp), if_neg (by simp), if_neg (by omega)]

end

/-! ### What a measurement leaves before the lock follows it -/

section
variable (s : State) (ns : Word)

@[simp] theorem fld_setTime_stat (hi lo : Nat) : (setTime ns s).fld rChrSyncStat hi lo = s.fld rChrSyncStat hi lo := State.fld_congr (State.rd_wr_ne _ _ (by decide)) ..
@[simp] theorem flag_setTime_stat (i : Nat) : (setTime ns s).flag rChrSyncStat i = s.flag rChrSyncStat i := State.flag_congr (State.rd_wr_ne _ _ (by decide)) _
@[simp] theorem sidereal_setTime : sidereal (setTime ns s) = ns := State.rd_wr_self ..
@[simp] theorem sync_setTime : (setTime ns s).sync = s.sync := rfl

end

section
variable (o integ : Int) (s : State)

/-- Where the manual gives no rate a value is drawn; nothing else changes. -/
theorem servoRate_rest : (servoRate o integ s).2 = { s with draws := (servoRate o integ s).2.draws } := by
  unfold servoRate
  extract_lets T d
  split <;> rfl

@[simp] theorem rd_servoRate (off : Nat) : (servoRate o integ s).2.rd off = s.rd off := by
  rw [servoRate_rest]
  rfl

@[simp] theorem fld_servoRate (off hi lo : Nat) : (servoRate o integ s).2.fld off hi lo = s.fld off hi lo := State.fld_congr (rd_servoRate ..) ..
@[simp] theorem flag_servoRate (off i : Nat) : (servoRate o integ s).2.flag off i = s.flag off i := State.flag_congr (rd_servoRate ..) _
@[simp] theorem sidereal_servoRate : sidereal (servoRate o integ s).2 = sidereal s := rd_servoRate ..
@[simp] theorem sync_servoRate : (servoRate o integ s).2.sync = s.sync := by rw [servoRate_rest]

theorem disciplined_servoRate (offs : List Nat) : Disciplined offs 0 s (servoRate o integ s).2 :=
  ⟨by rw [servoRate_rest], fun _ _ _ => rd_servoRate .., logged_zero (rd_servoRate ..)⟩

theorem servoRate_clamped : -500000 ≤ (servoRate o integ s).1 ∧ (servoRate o integ s).1 ≤ 500000 := by
  have hclamp : ∀ v, -500000 ≤ clampInt (-500000) 500000 v ∧ clampInt (-500000) 500000 v ≤ 500000 := fun v => by
    unfold clampInt
    omega
  unfold servoRate
  extract_lets T d
  split <;> exact hclamp _

/-- The rate by the time since the last accepted measurement (R730). -/
theorem servoRate_of_time {a : Word} (ha : s.sync.lastAcc = some a) (hne : a ≠ sidereal s) :
    (servoRate o integ s).1 = clampInt (-500000) 500000 ((-(o.tdiv 2 + integ) * 1000000000).tdiv (sidereal s - a).toNat) := by
  have htime : ((sidereal s - a).toNat : Int) ≠ 0 := by bv_omega
  unfold servoRate
  rw [ha]
  exact congrArg Prod.fst (if_neg htime)

end

/-- A rate inside its clamp reads as it was written. -/
theorem sx_toBits_rate {r : Int} (hlow : -500000 ≤ r) (hhigh : r ≤ 500000) : sx 20 (toBits 20 r % 2 ^ 20) = r := by
  unfold sx toBits
  split <;> omega

theorem rateOf_setRate {r : Int} (s : State) (hlow : -500000 ≤ r) (hhigh : r ≤ 500000) (n : Nat) : rateOf ((s.setFld rChrSyncStat 31 12 (toBits 20 r)).setFld rChrSyncStat 6 6 n) = r := by
  rw [rateOf, State.fld_setFld_ne _ _ _ _ _ _ _ _ (by decide) (by decide) (by decide), State.fld_setFld_self _ _ _ _ _ (by decide) (by decide)]
  exact sx_toBits_rate hlow hhigh

/-- From s to t a measurement of offset o has been shown and may have driven the servo, with k events; the lock has not followed it yet. -/
structure Measured (o : Int) (k : Nat) (s t : State) : Prop where
  disc : Disciplined clockRegs k s t
  offset : t.fld rChrSyncStat 63 32 = offsetField o
  used : t.flag rChrSyncStat 5 = s.flag rChrSyncStat 5
  lock : t.flag rChrSyncStat 7 = s.flag rChrSyncStat 7
  sync : t.sync = { s.sync with integ := t.sync.integ, lastAcc := t.sync.lastAcc }

section
variable (o : Int) (s : State)

@[simp] theorem sync_offsetShown : (offsetShown o s).sync = s.sync := rfl
@[simp] theorem sidereal_offsetShown : sidereal (offsetShown o s) = sidereal s := sidereal_setStat ..
@[simp] theorem flag_offsetShown {i : Nat} (h : i < 32) : (offsetShown o s).flag rChrSyncStat i = s.flag rChrSyncStat i := State.flag_setFld_ne _ _ _ _ _ _ _ (by decide) (by decide) (by omega)
@[simp] theorem rateOf_offsetShown : rateOf (offsetShown o s) = rateOf s := congrArg (sx 20) (State.fld_setFld_ne _ _ _ _ _ _ _ _ (by decide) (by decide) (by decide))

@[simp] theorem offset_offsetShown : (offsetShown o s).fld rChrSyncStat 63 32 = offsetField o :=
  (State.fld_setFld_self _ _ _ _ _ (by decide) (by decide)).trans (Nat.mod_eq_of_lt (toBits_lt ..))

theorem disciplined_offsetShown : Disciplined clockRegs 0 s (offsetShown o s) := disciplined_setStat ..

theorem measured_offsetShown : Measured o 0 s (offsetShown o s) :=
  ⟨disciplined_offsetShown .., offset_offsetShown .., flag_offsetShown _ _ (by decide), flag_offsetShown _ _ (by decide), rfl⟩

@[simp] theorem fld_measurementTaken (off hi lo : Nat) : (measurementTaken s).fld off hi lo = s.fld off hi lo := rfl
@[simp] theorem flag_measurementTaken (off i : Nat) : (measurementTaken s).flag off i = s.flag off i := rfl
@[simp] theorem sidereal_measurementTaken : sidereal (measurementTaken s) = sidereal s := rfl
@[simp] theorem rateOf_measurementTaken : rateOf (measurementTaken s) = rateOf s := rfl
@[simp] theorem sync_measurementTaken : (measurementTaken s).sync = { s.sync with lastAcc := some (sidereal s) } := rfl

theorem disciplined_measurementTaken : Disciplined clockRegs 0 s (measurementTaken s) := disciplined_withSync _

/-- A counter behind by the step size or more jumps to the time measured, with an event. -/
theorem measured_counterJumped : Measured o 1 s (counterJumped o s) := by
  refine ⟨?disc, ?offset, ?used, ?lock, ?sync⟩
  case disc =>
    exact (disciplined_offsetShown ..).trans ((disciplined_withSync _).trans ((disciplined_wr (by decide) (by decide) _).trans
      ((disciplined_setStat ..).trans ((disciplined_nlogEvent ..).trans (disciplined_measurementTaken _)))))
  case offset => simp (disch := omega) [counterJumped, measurementTaken, State.fld_setFld_ne]
  case used => simp (disch := omega) [counterJumped, measurementTaken, State.flag_setFld_ne]
  case lock => simp (disch := omega) [counterJumped, measurementTaken, State.flag_setFld_ne]
  case sync => simp [counterJumped, measurementTaken]

theorem counterJumped_spec : sidereal (counterJumped o s) = sidereal s + wd o.natAbs ∧ (counterJumped o s).flag rChrSyncStat 6 = false ∧ (counterJumped o s).sync.integ = 0 ∧
    (counterJumped o s).sync.lastAcc = some (sidereal (counterJumped o s)) ∧ rateOf (counterJumped o s) = rateOf s := by
  refine ⟨?counter, ?slewing, ?integ, ?taken, ?rate⟩
  case counter => simp [counterJumped, measurementTaken]
  case slewing => simp [counterJumped, measurementTaken, State.flag_setFld_mem]
  case integ => simp [counterJumped, measurementTaken]
  case taken => simp [counterJumped, measurementTaken]
  case rate => simp (disch := omega) [counterJumped, measurementTaken, rateOf, offsetShown, State.fld_setFld_ne]

theorem measured_rateSlowed : Measured o 0 s (rateSlowed o s) := by
  refine ⟨(disciplined_offsetShown ..).trans ((disciplined_setStat ..).trans (disciplined_setStat ..)), ?offset, ?used, ?lock, ?sync⟩
  case offset => simp (disch := omega) [rateSlowed, State.fld_setFld_ne]
  case used => simp (disch := omega) [rateSlowed, State.flag_setFld_ne]
  case lock => simp (disch := omega) [rateSlowed, State.flag_setFld_ne]
  case sync => simp [rateSlowed]

theorem rateSlowed_spec : sidereal (rateSlowed o s) = sidereal s ∧ (rateSlowed o s).flag rChrSyncStat 6 = true ∧ (rateSlowed o s).sync = s.sync ∧ rateOf (rateSlowed o s) = -500000 :=
  ⟨by simp [rateSlowed], by simp [rateSlowed, State.flag_setFld_mem], by simp [rateSlowed], rateOf_setRate _ (by decide) (by decide) 1⟩

variable {o s} in
theorem Measured.taken {k : Nat} {t : State} (h : Measured o k s t) : Measured o k s (measurementTaken t) :=
  ⟨h.disc.trans (disciplined_measurementTaken t), h.offset, h.used, h.lock, by rw [sync_measurementTaken, h.sync]⟩

variable {o s} in
theorem Measured.nlogEvent {k : Nat} {t : State} (h : Measured o k s t) (dk code loc : Nat) (a b : Word) : Measured o (k + 1) s (nlogEvent dk code loc a b t) :=
  ⟨h.disc.trans (disciplined_nlogEvent ..), by rw [fld_nlogEvent_stat, h.offset], by rw [flag_nlogEvent_stat, h.used], by rw [flag_nlogEvent_stat, h.lock], by rw [sync_nlogEvent, ← h.sync]⟩

/-- A counter ahead by the step size or more runs at the slowest rate, with an event unless it does already. -/
theorem measured_counterHeld : Measured o (if s.flag rChrSyncStat 6 then 0 else 1) s (counterHeld o s) := by
  unfold counterHeld
  rw [flag_offsetShown _ _ (by decide)]
  split
  · exact (measured_rateSlowed o s).taken
  · exact ((measured_rateSlowed o s).nlogEvent ..).taken

variable {s} in
theorem holds_measurementTaken {t : State} (hcounter : sidereal t = sidereal s) (hslewing : t.flag rChrSyncStat 6 = true) (hsync : t.sync = s.sync) (hrate : rateOf t = -500000) :
    sidereal (measurementTaken t) = sidereal s ∧ (measurementTaken t).flag rChrSyncStat 6 = true ∧ (measurementTaken t).sync.integ = s.sync.integ ∧
      (measurementTaken t).sync.lastAcc = some (sidereal s) ∧ rateOf (measurementTaken t) = -500000 :=
  ⟨hcounter, hslewing, show t.sync.integ = s.sync.integ by rw [hsync], congrArg some hcounter, hrate⟩

theorem counterHeld_spec : sidereal (counterHeld o s) = sidereal s ∧ (counterHeld o s).flag rChrSyncStat 6 = true ∧ (counterHeld o s).sync.integ = s.sync.integ ∧
    (counterHeld o s).sync.lastAcc = some (sidereal s) ∧ rateOf (counterHeld o s) = -500000 := by
  obtain ⟨hcounter, hslewing, hsync, hrate⟩ := rateSlowed_spec o s
  unfold counterHeld
  split
  · exact holds_measurementTaken hcounter hslewing hsync hrate
  · exact holds_measurementTaken ((sidereal_nlogEvent ..).trans hcounter) ((flag_nlogEvent_stat ..).trans hslewing) ((sync_nlogEvent ..).trans hsync) ((rateOf_nlogEvent ..).trans hrate)

/-- A phase measurement inside the step size sets the servo's integral and rate (R730). -/
theorem measured_servoDriven : Measured o 0 s (servoDriven o s) := by
  refine ⟨?disc, ?offset, ?used, ?lock, ?sync⟩
  case disc =>
    exact (disciplined_offsetShown ..).trans ((disciplined_servoRate ..).trans ((disciplined_withSync _).trans ((disciplined_setStat ..).trans ((disciplined_setStat ..).trans (disciplined_measurementTaken _)))))
  case offset => simp (disch := omega) [servoDriven, measurementTaken, State.fld_setFld_ne]
  case used => simp (disch := omega) [servoDriven, measurementTaken, State.flag_setFld_ne]
  case lock => simp (disch := omega) [servoDriven, measurementTaken, State.flag_setFld_ne]
  case sync => simp [servoDriven, measurementTaken]

theorem servoFollows_servoDriven : ServoFollows o s (servoDriven o s) := by
  have hclamped := servoRate_clamped o (s.sync.integ + o.tdiv 16) (offsetShown o s)
  refine ⟨?integ, fun a ha hne => ?rate, ?accepted, ?slewing, ?counter⟩
  case integ => simp [servoDriven, measurementTaken]
  case rate =>
    have hrate : rateOf (servoDriven o s) = (servoRate o (s.sync.integ + o.tdiv 16) (offsetShown o s)).1 := by
      rw [servoDriven, rateOf_measurementTaken, rateOf_setRate _ hclamped.1 hclamped.2]
    rw [hrate, servoRate_of_time o _ _ (show (offsetShown o s).sync.lastAcc = some a from ha) (by rwa [sidereal_offsetShown]), sidereal_offsetShown]
    simp [servoDriven, measurementTaken]
  case accepted => simp [servoDriven, measurementTaken]
  case slewing => simp [servoDriven, measurementTaken, State.flag_setFld_mem]
  case counter => simp [servoDriven, measurementTaken]

end

/-! ### A measurement with the lock -/

/-- From s by way of t, what its offset does, to u, once the lock has followed it where it is one of phase; t's own k events and one for a change of the lock are logged. -/
structure Settled (phaseM : Bool) (o : Int) (k : Nat) (s t u : State) : Prop where
  disc : Disciplined clockRegs (k + if u.flag rChrSyncStat 7 = s.flag rChrSyncStat 7 then 0 else 1) s u
  offset : u.fld rChrSyncStat 63 32 = offsetField o
  used : u.flag rChrSyncStat 5 = s.flag rChrSyncStat 5
  follows : phaseM = true → LockFollows o s u
  stays : phaseM = false → u.flag rChrSyncStat 7 = s.flag rChrSyncStat 7 ∧ u.sync.lastPhase = s.sync.lastPhase ∧ u.sync.good = s.sync.good
  integ : u.sync.integ = t.sync.integ
  taken : u.sync.lastAcc = t.sync.lastAcc
  rate : rateOf u = rateOf t
  slewing : u.flag rChrSyncStat 6 = t.flag rChrSyncStat 6
  counter : sidereal u = sidereal t
  pulse : u.sync.ppsLast = s.sync.ppsLast
  delay : u.sync.syncD = s.sync.syncD

section
variable {o : Int} {k : Nat} {s t u : State}

theorem Measured.settled (h : Measured o k s t) (phaseM : Bool) : Settled phaseM o k s t (lockAfter phaseM o t) := by
  have hsync := h.sync
  cases phaseM with
  | false =>
    change Settled false o k s t t
    exact ⟨by rw [if_pos h.lock]; exact h.disc, h.offset, h.used, nofun, fun _ => ⟨h.lock, by rw [hsync], by rw [hsync]⟩, rfl, rfl, rfl, rfl, rfl, by rw [hsync], by rw [hsync]⟩
  | true =>
    obtain ⟨hdisc, halone, hlock, hseen⟩ := lockStep_spec t o
    obtain ⟨hgood, hfollows, htime⟩ := lockFollows_lockStep t o
    change Settled true o k s t (lockStep o t)
    rw [h.lock] at hdisc hfollows
    have hsame : t.sync.good = s.sync.good := by rw [hsync]
    exact ⟨h.disc.trans hdisc, halone.offset.trans h.offset, halone.used.trans h.used, fun _ => ⟨hsame ▸ hgood, hfollows, htime⟩, nofun, by rw [hseen]; rfl, by rw [hseen]; rfl, halone.rate,
      halone.slewing, halone.counter, by rw [hseen, phaseSeen, hsync], by rw [hseen, phaseSeen, hsync]⟩

theorem Settled.servo {phaseM : Bool} (h : Settled phaseM o k s t u) (hservo : ServoFollows o s t) : ServoFollows o s u :=
  ⟨h.integ.trans hservo.integ, fun a ha hne => by rw [h.rate, h.integ, hservo.rate a ha hne], h.taken.trans hservo.accepted, h.slewing.trans hservo.slewing, h.counter.trans hservo.counter⟩

end

end Sys2Proof.Machine
end

section
/-! What gives the sidereal counter its measurements: sets and broadcasts, SYNC_1PPS, and PTP at the port that serves; and the Chronograph's two marks (R519, R520, R683, R686, R726 to R731, R736, R737). -/

namespace Sys2Proof.Machine
open Sys2Proof.Claims

/-! ### The counter (R726, R727, R731) -/

section
variable {s : State}

theorem tget_map_mem {α : Type} (d : α) (f : Nat → α) {ls : List Nat} {i : Nat} (h : i ∈ ls) : tget d (ls.map fun u => (u, f u)) i = f i := by
  induction ls with
  | nil => exact absurd h List.not_mem_nil
  | cons u ls ih =>
    by_cases e : u = i
    · simp [tget, tfind, e]
    · rw [← ih ((List.mem_cons.1 h).resolve_left (Ne.symm e)), List.map_cons, tget, tget, tfind, if_neg e]

/-- LOCK_LOST_TIMEOUT by the time of the last phase measurement. -/
theorem exec_lockLostTimeout_due (h : ∀ a, s.sync.lastPhase = some a → 4000000000 ≤ (sidereal s - a).toNat) : exec .lockLostTimeout s = .next (loseLock s) := by
  change execLockLostTimeout s = _
  unfold execLockLostTimeout
  cases ha : s.sync.lastPhase with
  | none => rfl
  | some a => exact congrArg Host.Outcome.next (if_pos (decide_eq_true (h a ha)))

theorem exec_lockLostTimeout_early {a : Word} (ha : s.sync.lastPhase = some a) (h : (sidereal s - a).toNat < 4000000000) : exec .lockLostTimeout s = .next s := by
  change execLockLostTimeout s = _
  unfold execLockLostTimeout
  rw [ha]
  exact congrArg Host.Outcome.next (if_neg (by simpa using h))

theorem exec_lockLostTimeout_unlocked (h : s.flag rChrSyncStat 7 = false) : exec .lockLostTimeout s = .next s := by
  refine congrArg Host.Outcome.next ?_
  rw [loseLock_unlocked s h, ite_self]

end

theorem siderealCounter : SiderealCounter := by
  refine fun s => ⟨fun ns h => congrArg Host.Outcome.next (if_pos h), fun ns h => congrArg Host.Outcome.next (if_neg (by omega)), ?broadcast, fun hlock hdue => ?lost, ?kept⟩
  case broadcast =>
    refine ⟨_, rfl, fun u hu => ?_, rfl⟩
    refine (congrArg BitVec.toNat (tget_map_mem 0 _ (List.mem_range.2 hu))).trans ?_
    dsimp only
    split <;> omega
  case lost =>
    obtain ⟨hdisc, halone, hoff, hsync⟩ := loseLock_spec s
    rw [hlock] at hdisc
    exact ⟨_, exec_lockLostTimeout_due hdue, hoff, hdisc.logged, halone.counter, hsync, hdisc.cores⟩
  case kept =>
    rintro (h | ⟨a, ha, h⟩)
    · exact exec_lockLostTimeout_unlocked h
    · exact exec_lockLostTimeout_early ha h

/-! ### SYNC_1PPS (R683, R686, R728, R729) -/

section
variable {s : State}

/-- The state as an edge is accepted: an absence ends with an event (R683, R686). -/
def pulsePresent (s : State) : State := if ppsPresent s then s else nlogEvent 3 0x110D 0 (wd (s.fld rDomeIn 39 24)) 0 (s.setFld rDomeIn 3 3 0)

/-- The state with an edge's time kept as the last one's. -/
def pulseKept (s : State) : State := (pulsePresent s).withSync { (pulsePresent s).sync with ppsLast := some (sidereal (pulsePresent s)) }

/-- The state with an edge accepted. -/
def pulseTaken (s : State) : State := ppsUsed (pulseKept s)

theorem exec_sync1ppsEdge_taken (hdome : domeState s ≠ 0) (hsoon : ppsTooSoon s = false) : exec .sync1ppsEdge s =
    if timeSrc (pulseTaken s) = 1 then
      .next (measure false true ((((sidereal (pulseTaken s)).toNat - sx 32 ((pulseTaken s).fld rChrSync 63 32)) % 1000000000 + 500000000) % 1000000000 - 500000000) (pulseTaken s))
    else .next (pulseTaken s) := if_neg (by simp [hdome, hsoon])

theorem exec_sync1ppsEdge_ignored (hsoon : ppsTooSoon s = true) : exec .sync1ppsEdge s = .next s := if_pos (.inr hsoon)

theorem exec_ppsAbsent_kept (h : ppsPresent s = false ∨ ∃ a, s.sync.ppsLast = some a ∧ (sidereal s - a).toNat < 3000000000) : exec .ppsAbsent s = .next s := by
  change execPpsAbsent s = _
  unfold execPpsAbsent
  rcases h with h | ⟨a, ha, h⟩
  · exact if_neg fun hc => absurd (h.symm.trans hc.2.1) (by decide)
  · rw [ha]
    exact if_neg fun hc => absurd (of_decide_eq_true hc.2.2) (by omega)

theorem exec_ppsAbsent_due (hdome : domeState s ≠ 0) (hpresent : ppsPresent s = true) (h : ∀ a, s.sync.ppsLast = some a → 3000000000 ≤ (sidereal s - a).toNat) :
    exec .ppsAbsent s = .next (ppsUsed (nlogEvent 3 0x110C 0 (wd (s.fld rDomeIn 39 24)) 0 (s.setFld rDomeIn 3 3 1))) := by
  change execPpsAbsent s = _
  unfold execPpsAbsent
  cases ha : s.sync.ppsLast with
  | none => exact if_pos ⟨hdome, hpresent, rfl⟩
  | some a => exact if_pos ⟨hdome, hpresent, decide_eq_true (h a ha)⟩

end

/-- The registers that SYNC_1PPS may change beside a measurement's. -/
def pulseRegs : List Nat := [rChrSyncStat, rDomeIn]

section
variable (s : State)

theorem testBit_toNat_zero (b : Bool) : b.toNat.testBit 0 = b := by cases b <;> rfl

/-- PPS_USED follows the source and the pulses, and nothing else changes (R728). -/
theorem ppsUsed_spec : Disciplined pulseRegs 0 s (ppsUsed s) ∧ ppsPresent (ppsUsed s) = ppsPresent s ∧ (ppsUsed s).flag rChrSyncStat 5 = (decide (timeSrc s = 1) && ppsPresent s) :=
  ⟨disciplined_setFld (by decide) (by decide) .., congrArg not (State.flag_congr (State.rd_setFld_ne _ _ _ _ (by decide)) _),
    (State.flag_setFld_mem _ _ _ _ _ _ (by decide) (by decide) (by decide)).trans (testBit_toNat_zero _)⟩

/-- The servo's status stands but for PPS_USED. -/
theorem stat_ppsUsed : (ppsUsed s).flag rChrSyncStat 7 = s.flag rChrSyncStat 7 ∧ (ppsUsed s).flag rChrSyncStat 6 = s.flag rChrSyncStat 6 ∧ rateOf (ppsUsed s) = rateOf s := by
  simp (disch := omega) [ppsUsed, rateOf, State.fld_setFld_ne, State.flag_setFld_ne]

theorem disciplined_setDome (hi lo n : Nat) : Disciplined pulseRegs 0 s (s.setFld rDomeIn hi lo n) := disciplined_setFld (by decide) (by decide) ..

/-- The pulses' presence written with an event: the presence is the one written, and the rest of the discipline stands. -/
theorem presence_written (n : Nat) (dk code loc : Nat) (a b : Word) : Disciplined pulseRegs 1 s (nlogEvent dk code loc a b (s.setFld rDomeIn 3 3 n)) ∧
    ppsPresent (nlogEvent dk code loc a b (s.setFld rDomeIn 3 3 n)) = !n.testBit 0 ∧ (nlogEvent dk code loc a b (s.setFld rDomeIn 3 3 n)).sync = s.sync ∧
    (nlogEvent dk code loc a b (s.setFld rDomeIn 3 3 n)).rd rChrSyncStat = s.rd rChrSyncStat := by
  refine ⟨(disciplined_setDome ..).trans (disciplined_nlogEvent ..), ?_, by rw [sync_nlogEvent]; rfl, ?_⟩
  · rw [ppsPresent, State.flag_congr (rd_nlogEvent_ne _ _ _ _ _ _ (by decide)), State.flag_setFld_mem _ _ _ _ _ _ (by decide) (by decide) (by decide)]
  · rw [rd_nlogEvent_ne _ _ _ _ _ _ (by decide), State.rd_setFld_ne _ _ _ _ (by decide)]

theorem pulsePresent_spec : Disciplined pulseRegs (if ppsPresent s then 0 else 1) s (pulsePresent s) ∧ ppsPresent (pulsePresent s) = true ∧ (pulsePresent s).sync = s.sync ∧
    (pulsePresent s).rd rChrSyncStat = s.rd rChrSyncStat := by
  unfold pulsePresent
  cases h : ppsPresent s with
  | true => exact ⟨disciplined_refl .., h, rfl, rfl⟩
  | false => exact presence_written ..

end

/-- From s to t an edge of SYNC_1PPS is accepted (R683, R686). -/
structure PulseTaken (s t : State) : Prop where
  disc : Disciplined pulseRegs (if ppsPresent s then 0 else 1) s t
  sync : t.sync = { s.sync with ppsLast := some (sidereal s) }
  present : ppsPresent t = true
  used : t.flag rChrSyncStat 5 = decide (timeSrc s = 1)
  lock : t.flag rChrSyncStat 7 = s.flag rChrSyncStat 7
  slewing : t.flag rChrSyncStat 6 = s.flag rChrSyncStat 6
  rate : rateOf t = rateOf s

section
variable {o : Int} {k : Nat} {s p t u : State}

/-- CHR_SYNC is no register that the discipline changes. -/
theorem Disciplined.config {offs : List Nat} (h : Disciplined offs k s t) (ho : rChrSync ∉ offs) : timeSrc t = timeSrc s ∧ stepNs t = stepNs s ∧ t.fld rChrSync 63 32 = s.fld rChrSync 63 32 := by
  have hrd : t.rd rChrSync = s.rd rChrSync := h.rd _ ho (by decide)
  exact ⟨congrArg (min · 2) (State.fld_congr hrd ..), by rw [stepNs, State.fld_congr hrd, stepNs], State.fld_congr hrd ..⟩

theorem pulseTaken_spec (s : State) : PulseTaken s (pulseTaken s) := by
  obtain ⟨hdisc, hpresent, hsync, hstat⟩ := pulsePresent_spec s
  have hcounter : sidereal (pulsePresent s) = sidereal s := hdisc.rd _ (by decide) (by decide)
  have hwith : Disciplined pulseRegs (if ppsPresent s then 0 else 1) s (pulseKept s) := hdisc.trans (disciplined_withSync _)
  have hthere : ppsPresent (pulseKept s) = true := hpresent
  have hstatus : (pulseKept s).rd rChrSyncStat = s.rd rChrSyncStat := hstat
  obtain ⟨hused, hkept, hflag⟩ := ppsUsed_spec (pulseKept s)
  obtain ⟨hlock, hslewing, hrate⟩ := stat_ppsUsed (pulseKept s)
  refine ⟨hwith.trans hused, ?sync, hkept.trans hthere, ?used, hlock.trans (State.flag_congr hstatus _), hslewing.trans (State.flag_congr hstatus _),
    hrate.trans (congrArg (sx 20) (State.fld_congr hstatus ..))⟩
  case sync => rw [← hcounter, ← hsync]; rfl
  case used => rw [pulseTaken, hflag, (hwith.config (by decide)).1, hthere, Bool.and_true]

/-- What an edge's phase measurement leaves, whether or not the servo takes it. -/
theorem PulseTaken.settled (hp : PulseTaken s p) (hsrc : timeSrc s = 1) (h : Settled true o 0 p t u) :
    u.sync.ppsLast = some (sidereal s) ∧ ppsPresent u = true ∧ u.flag rChrSyncStat 5 = true ∧ u.fld rChrSyncStat 63 32 = offsetField o ∧ LockFollows o s u ∧
      Logged ((if ppsPresent s then 0 else 1) + if u.flag rChrSyncStat 7 = s.flag rChrSyncStat 7 then 0 else 1) s u ∧ u.cores = s.cores := by
  obtain ⟨hgood, hlock, htime⟩ := h.follows rfl
  have hlogged := logged_trans hp.disc.logged h.disc.logged
  rw [hp.lock, Nat.zero_add] at hlogged
  rw [hp.sync] at hgood
  rw [hp.lock] at hlock
  exact ⟨by rw [h.pulse, hp.sync], (congrArg not (State.flag_congr (h.disc.rd _ (by decide) (by decide)) _)).trans hp.present, by rw [h.used, hp.used, hsrc]; rfl, h.offset, ⟨hgood, hlock, htime⟩, hlogged,
    h.disc.cores.trans hp.disc.cores⟩

theorem PulseTaken.counter (hp : PulseTaken s p) : sidereal p = sidereal s := hp.disc.rd _ (by decide) (by decide)

/-- The servo goes on from an accepted edge as from the state before it. -/
theorem PulseTaken.servo (hp : PulseTaken s p) (h : ServoFollows o p u) : ServoFollows o s u := by
  obtain ⟨hinteg, hrate, htaken, hslewing, hcounter⟩ := h
  rw [hp.sync] at hinteg hrate
  rw [hp.counter] at hrate htaken hcounter
  exact ⟨hinteg, hrate, htaken, hslewing, hcounter⟩

end

theorem pulsePerSecond : PulsePerSecond := by
  refine fun s hdome => ⟨fun hsoon => ⟨if_pos ⟨hdome, hsoon⟩, exec_sync1ppsEdge_ignored hsoon⟩, fun hsoon => if_neg (by simp [hsoon]), ?other, ?measured, ?absent, exec_ppsAbsent_kept⟩
  case other =>
    intro hsoon hsrc
    have hp := pulseTaken_spec s
    refine ⟨_, (exec_sync1ppsEdge_taken hdome hsoon).trans (if_neg (by rwa [(hp.disc.config (by decide)).1])), hp.sync, hp.present, ?_, hp.disc.logged, hp.counter, hp.disc.cores⟩
    rw [hp.used]
    exact decide_eq_false hsrc
  case measured =>
    intro hsoon hsrc c o hc ho
    have hp := pulseTaken_spec s
    obtain ⟨hsource, hstep, hdelay⟩ := hp.disc.config (by decide)
    have hexec : exec .sync1ppsEdge s = .next (measure false true o (pulseTaken s)) := by
      rw [exec_sync1ppsEdge_taken hdome hsoon, if_pos (hsource.trans hsrc), hp.counter, hdelay, ← hc, ← ho]
    by_cases hin : (o.natAbs : Int) < stepNs s
    · have h := (measured_servoDriven o (pulseTaken s)).settled true
      obtain ⟨hpulse, hpresent, hused, hoffset, hfollows, hlogged, hcores⟩ := hp.settled hsrc h
      have hservo := hp.servo (h.servo (servoFollows_servoDriven ..))
      exact ⟨_, hexec.trans (by rw [measure_inside false (by omega) (by omega), if_pos rfl]), hpulse, hpresent, hused, hoffset, hfollows, fun _ => hservo, fun hout => absurd hin (by omega), hlogged,
        hservo.counter, hcores⟩
    · have h := (measured_offsetShown o (pulseTaken s)).settled true
      obtain ⟨hpulse, hpresent, hused, hoffset, hfollows, hlogged, hcores⟩ := hp.settled hsrc h
      refine ⟨_, hexec.trans (by rw [measure_outside (by omega)]), hpulse, hpresent, hused, hoffset, hfollows, fun h => absurd h hin, fun _ => ⟨?integ, ?taken, ?rate, ?slewing⟩, hlogged, ?counter, hcores⟩
      case integ => rw [h.integ, sync_offsetShown, hp.sync]
      case taken => rw [h.taken, sync_offsetShown, hp.sync]
      case rate => rw [h.rate, rateOf_offsetShown, hp.rate]
      case slewing => rw [h.slewing, flag_offsetShown _ _ (by decide), hp.slewing]
      case counter => rw [h.counter, sidereal_offsetShown, hp.counter]
  case absent =>
    intro hpresent hdue
    obtain ⟨hdisc, habsent, hsync, -⟩ := presence_written s 1 3 0x110C 0 (wd (s.fld rDomeIn 39 24)) 0
    obtain ⟨hused, hkept, hflag⟩ := ppsUsed_spec (nlogEvent 3 0x110C 0 (wd (s.fld rDomeIn 39 24)) 0 (s.setFld rDomeIn 3 3 1))
    have hall := hdisc.trans hused
    exact ⟨_, exec_ppsAbsent_due hdome hpresent hdue, hkept.trans habsent, by rw [hflag, habsent]; exact Bool.and_false _, hall.logged, hsync, hall.cores⟩

/-! ### PTP (R519, R520, R728 to R730) -/

section
variable {o : Int} {s t : State}

/-- A Sync's measurement where SRC is 0 or 1: by its offset against the step size, and with the lock where it is one of phase. -/
theorem syncMeasured_measure {phaseM : Bool} (hphase : phaseM = true ↔ timeSrc s = 0 ∨ ppsPresent s = false) :
    SyncMeasured o s (measure true phaseM o s) ∧ (measure true phaseM o s).sync.syncD = s.sync.syncD := by
  have hpos := stepNs_pos s
  have hpulses : timeSrc s = 1 → ppsPresent s = true → phaseM = false := fun hsrc hpresent => by
    rw [← Bool.not_eq_true, hphase, hsrc, hpresent]
    decide
  by_cases hbehind : o ≤ -stepNs s
  · have h := (measured_counterJumped o s).settled phaseM
    obtain ⟨hcounter, hslewing, hinteg, htaken, hrate⟩ := counterJumped_spec o s
    rw [measure_behind hbehind]
    exact ⟨⟨h.offset, h.disc.cores, fun hc => h.follows (hphase.2 hc), fun hsrc hpresent => h.stays (hpulses hsrc hpresent),
      fun _ => ⟨h.counter.trans hcounter, h.slewing.trans hslewing, h.integ.trans hinteg, by rw [h.taken, htaken, h.counter], h.rate.trans hrate, h.disc.logged⟩,
      fun hc => absurd hc (by omega), fun hc => absurd hc (by omega)⟩, h.delay⟩
  · by_cases hahead : stepNs s ≤ o
    · have h := (measured_counterHeld o s).settled phaseM
      obtain ⟨hcounter, hslewing, hinteg, htaken, hrate⟩ := counterHeld_spec o s
      rw [measure_ahead hahead]
      exact ⟨⟨h.offset, h.disc.cores, fun hc => h.follows (hphase.2 hc), fun hsrc hpresent => h.stays (hpulses hsrc hpresent), fun hc => absurd hc hbehind,
        fun _ => ⟨h.counter.trans hcounter, h.slewing.trans hslewing, h.integ.trans hinteg, h.taken.trans htaken, h.rate.trans hrate, h.disc.logged⟩, fun _ hc => absurd hc (by omega)⟩, h.delay⟩
    · rw [measure_inside true (by omega) (by omega)]
      cases phaseM with
      | true =>
        have h := (measured_servoDriven o s).settled true
        have hlogged := h.disc.logged
        rw [Nat.zero_add] at hlogged
        exact ⟨⟨h.offset, h.disc.cores, fun _ => h.follows rfl, fun hsrc hpresent => h.stays (hpulses hsrc hpresent), fun hc => absurd hc hbehind, fun hc => absurd hc hahead,
          fun _ _ => ⟨hlogged, fun _ => h.servo (servoFollows_servoDriven o s), fun hsrc hpresent => absurd (hpulses hsrc hpresent) (by decide)⟩⟩, h.delay⟩
      | false =>
        have h := (measured_offsetShown o s).settled false
        have hlogged := h.disc.logged
        rw [Nat.zero_add] at hlogged
        exact ⟨⟨h.offset, h.disc.cores, fun hc => absurd (hphase.2 hc) (by decide), fun _ _ => h.stays rfl, fun hc => absurd hc hbehind, fun hc => absurd hc hahead,
          fun _ _ => ⟨hlogged, fun hc => absurd (hphase.2 hc) (by decide),
            fun _ _ => ⟨h.integ, h.taken, h.rate.trans (rateOf_offsetShown o s), h.counter.trans (sidereal_offsetShown o s)⟩⟩⟩, h.delay⟩

end

section
variable {s : State} {p : PortId} (hon : ptpOn s p.val = true)
include hon

theorem exec_pdelayReq : exec (.pdelayReq p) s = .next { s with out := .ptp p.val 3 :: .ptp p.val 2 :: s.out } := if_pos hon

theorem exec_announce : exec (.announce p) s = .next { s with sync := { s.sync with announces := tset s.sync.announces p.val (tget 0 s.sync.announces p.val + 1) } } := if_pos hon

variable (hserves : servingPort s = some p.val)
include hserves

/-- The state with a Sync's t2 − t1 − correction kept. -/
def syncKept (d : Int) (s : State) : State := s.withSync { s.sync with syncD := some d }

theorem exec_ptpSync_kept (hsrc : timeSrc s = 2) (t1 t2 c : Int) : exec (.ptpSync p t1 t2 c) s = .next (syncKept (t2 - t1 - c) s) := by
  change execPtpSync p t1 t2 c s = _
  unfold execPtpSync
  rw [if_pos ⟨hon, hserves⟩, hsrc]
  rfl

/-- With SRC 0 or 1 a Sync is a step measurement, and one of phase where the pulses give none (R728). -/
theorem exec_ptpSync_measured (hsrc : timeSrc s ≠ 2) (t1 t2 c : Int) : ∃ phaseM, (phaseM = true ↔ timeSrc s = 0 ∨ ppsPresent s = false) ∧
    exec (.ptpSync p t1 t2 c) s = .next (measure true phaseM (t2 - t1 - c - s.sync.mpd) (syncKept (t2 - t1 - c) s)) := by
  change ∃ _, _ ∧ execPtpSync p t1 t2 c s = _
  unfold execPtpSync
  rw [if_pos ⟨hon, hserves⟩]
  have hle : timeSrc s ≤ 2 := min_le_right ..
  obtain h0 | h1 : timeSrc s = 0 ∨ timeSrc s = 1 := by omega
  · rw [h0]
    exact ⟨true, by simp, rfl⟩
  · rw [h1]
    exact ⟨!ppsPresent s, by simp, rfl⟩

theorem exec_delayReqSend_due (h : ∀ a, s.sync.t3 = some a → delayInterval s ≤ (sidereal s - a).toNat) :
    exec (.delayReqSend p) s = .next { s with sync := { s.sync with t3 := some (sidereal s) }, out := .ptp p.val 1 :: s.out } := by
  change execDelayReqSend p s = _
  unfold execDelayReqSend
  cases ha : s.sync.t3 with
  | none => exact if_pos ⟨hon, hserves, rfl⟩
  | some a => exact if_pos ⟨hon, hserves, decide_eq_true (h a ha)⟩

theorem exec_delayResp_answer {d : Int} {t3 : Word} (hd : s.sync.syncD = some d) (ht : s.sync.t3 = some t3) (t4 c iv : Int) :
    exec (.delayResp p t4 c iv) s = .next { s with sync := { s.sync with mpd := (d + (t4 - (t3.toNat : Int) - c)).tdiv 2, logIv := iv } } := by
  change execDelayResp p t4 c iv s = _
  unfold execDelayResp
  rw [if_pos ⟨hon, hserves⟩, hd, ht]

theorem exec_delayResp_unasked (h : s.sync.syncD = none ∨ s.sync.t3 = none) (t4 c iv : Int) : exec (.delayResp p t4 c iv) s = .next s := by
  change execDelayResp p t4 c iv s = _
  unfold execDelayResp
  rw [if_pos ⟨hon, hserves⟩]
  rcases h with h | h
  · rw [h]
  · rw [h]
    cases s.sync.syncD <;> rfl

end

/-- What a measurement leaves does not depend on the last Sync. -/
theorem syncMeasured_of_kept {o d : Int} {s t : State} (h : SyncMeasured o (syncKept d s) t) : SyncMeasured o s t := by
  obtain ⟨hoffset, hcores, hfollows, hstays, hbehind, hahead, hinside⟩ := h
  refine ⟨hoffset, hcores, fun hc => ?_, hstays, hbehind, hahead, fun hlow hhigh => ⟨(hinside hlow hhigh).1, fun hc => ?_, (hinside hlow hhigh).2.2⟩⟩
  · obtain ⟨hgood, hlock, htime⟩ := hfollows hc
    exact ⟨hgood, hlock, htime⟩
  · obtain ⟨hinteg, hrate, haccepted, hslewing, hcounter⟩ := (hinside hlow hhigh).2.1 hc
    exact ⟨hinteg, hrate, haccepted, hslewing, hcounter⟩

theorem exec_delayReqSend_early {s : State} {p : PortId} {a : Word} (ha : s.sync.t3 = some a) (h : (sidereal s - a).toNat < delayInterval s) : exec (.delayReqSend p) s = .next s := by
  change execDelayReqSend p s = _
  unfold execDelayReqSend
  rw [ha]
  exact if_neg fun hc => absurd (of_decide_eq_true hc.2.2) (Nat.not_le.2 h)

theorem precisionTime : PrecisionTime := by
  refine fun s p hon => ⟨exec_pdelayReq hon, ⟨_, exec_announce hon, tget_tset_self .., rfl⟩, fun hserves =>
    ⟨exec_ptpSync_kept hon hserves, fun hsrc t1 t2 c => ?_, exec_delayReqSend_due hon hserves, fun a => exec_delayReqSend_early, fun d t3 => exec_delayResp_answer hon hserves,
      exec_delayResp_unasked hon hserves⟩⟩
  obtain ⟨phaseM, hphase, hexec⟩ := exec_ptpSync_measured hon hserves hsrc t1 t2 c
  obtain ⟨hmeasured, hdelay⟩ := syncMeasured_measure (o := t2 - t1 - c - s.sync.mpd) (s := syncKept (t2 - t1 - c) s) hphase
  exact ⟨_, hexec, hdelay, syncMeasured_of_kept hmeasured⟩

/-! ### The Chronograph's marks (R736, R737) -/

section
variable {s : State}

theorem State.rd_modChr (s : State) (u : Nat) (f : Chr → Chr) (off : Nat) : (s.modChr u f).rd off = s.rd off := rfl

theorem State.chrOf_modChr_ne (s : State) {u v : Nat} (f : Chr → Chr) (h : v ≠ u) : (s.modChr u f).chrOf v = s.chrOf v := tget_tset_ne _ _ _ h.symm

theorem State.chrOf_nlogEvent (dk code loc : Nat) (a b : Word) (s : State) (u : Nat) : (nlogEvent dk code loc a b s).chrOf u = s.chrOf u := by
  rw [State.chrOf, nlogEvent_rest, State.chrOf]

theorem cores_nlogEvent (dk code loc : Nat) (a b : Word) (s : State) : (nlogEvent dk code loc a b s).cores = s.cores := cores_nlog ..

/-- A late record: LATE and the stall measured, as a duration in ns (R736). -/
def lateRecord (stall : Nat) (k : Chr) : Chr := { k with late := true, dur := tset k.dur 3 ((stall * 160 + 10) / 11) }

theorem exec_stallExceededSlack_late {f : FieldId} {stall : Nat} (hopen : (s.chrOf f.val).isOpen = true) (hlate : (s.chrOf f.val).late = false) (hon : s.fld (rChrSlack f.val) 15 0 ≠ 0xFFFF)
    (hover : s.fld (rChrSlack f.val) 15 0 * 11000 < stall * 160) : exec (.stallExceededSlack f stall) s =
      .next (nlogEvent 1 0x1303 (locOf (.field f)) (wd f.val) (wd stall) ((s.modChr f.val (lateRecord stall)).setFld (rChrNow f.val) 63 32 stall)) :=
  if_pos (by simp only [hopen, hlate, hon, Bool.and_eq_true, Bool.not_false, bne_iff_ne, decide_eq_true_eq, ne_eq, not_false_eq_true, true_and]; omega)

theorem exec_stallExceededSlack_kept {f : FieldId} {stall : Nat}
    (h : (s.chrOf f.val).isOpen = false ∨ (s.chrOf f.val).late = true ∨ s.fld (rChrSlack f.val) 15 0 = 0xFFFF ∨ stall * 160 ≤ s.fld (rChrSlack f.val) 15 0 * 11000) :
    exec (.stallExceededSlack f stall) s = .next s := by
  refine if_neg fun hc => ?_
  simp only [Bool.and_eq_true, Bool.not_eq_true', bne_iff_ne, decide_eq_true_eq] at hc
  obtain ⟨⟨⟨hopen, hlate⟩, hon⟩, hover⟩ := hc
  rcases h with h | h | h | h
  · exact absurd (h.symm.trans hopen) (by decide)
  · exact absurd (h.symm.trans hlate) (by decide)
  · exact hon h
  · omega

end

/-- The record of a unit once a duration has saturated, at a word of it (R737). -/
def saturatedRecord (w : Nat) (k : Chr) : Chr := { k with satWord := some w }

theorem satDur_open {s : State} {u w : Nat} (h : (s.chrOf u).satWord = none) : satDur u w s =
    nlogEvent (if u = chrMod then 3 else 1) 0x1306 (if u = chrMod then 0 else locOf (domField u)) (wd u) (wd w) (s.modChr u (saturatedRecord w)) := if_pos (by simp [h])

theorem exec_durationSaturated_kept {s : State} {u w : Nat} (h : (s.chrOf u).isOpen = false ∨ (s.chrOf u).satWord ≠ none) : exec (.durationSaturated u w) s = .next s := by
  refine congrArg Host.Outcome.next ?_
  rcases h with h | h
  · exact if_neg (by simp [h])
  · have hmarked : satDur u w s = s := if_neg (by simpa using h)
    rw [hmarked, ite_self]

theorem chronographMarks : ChronographMarks := by
  refine fun s => ⟨fun f stall hopen hlate hon hover => ?late, fun f stall => exec_stallExceededSlack_kept, fun u w hopen hsat => ?saturated, fun u w => exec_durationSaturated_kept⟩
  case late =>
    have hself : (((s.modChr f.val (lateRecord stall)).setFld (rChrNow f.val) 63 32 stall).chrOf f.val) = lateRecord stall (s.chrOf f.val) := State.chrOf_modChr_self ..
    have hnow : 0x8118 < rChrNow f.val := by
      simp only [rChrNow, fieldBase]
      omega
    refine ⟨_, exec_stallExceededSlack_late hopen hlate hon hover, ?islate, ?isopen, ?stall, ?logged, fun u hu => ?other, cores_nlogEvent ..⟩
    case islate => rw [State.chrOf_nlogEvent, hself]; rfl
    case isopen => rw [State.chrOf_nlogEvent, hself]; exact hopen
    case stall => rw [State.fld_congr (rd_nlogEvent_ne _ _ _ _ _ _ (.inr hnow)), State.fld_setFld_self _ _ _ _ _ (by decide) (by decide)]
    case logged =>
      have hhead : rChrNow f.val ≠ ringNlog.head := fun e => absurd (e ▸ hnow) (by decide)
      exact logged_trans (logged_zero (State.rd_setFld_ne (s.modChr f.val (lateRecord stall)) _ _ _ hhead)) (logged_nlogEvent ..)
    case other =>
      rw [State.chrOf_nlogEvent]
      exact State.chrOf_modChr_ne s _ hu
  case saturated =>
    refine ⟨_, congrArg Host.Outcome.next ((if_pos hopen).trans (satDur_open hsat)), ?self, ?logged, fun v hv => ?other, cores_nlogEvent ..⟩
    case self => rw [State.chrOf_nlogEvent, State.chrOf_modChr_self]; rfl
    case logged => exact logged_trans (logged_zero (State.rd_modChr ..)) (logged_nlogEvent ..)
    case other => rw [State.chrOf_nlogEvent, State.chrOf_modChr_ne _ _ hv]

/-- Settles O40: a measurement by its offset against the step size and then by the lock, whatever gives it, and the marks by the record that is open. That the rate is an open value where no time has passed since an accepted measurement, that pulses beyond the step size drive no servo and that a copy ahead of a broadcast holds, and which ports pass PTP and when Delay_Req leaves before a first answer, are the model's choice (SPEC.md, entries 46 and 47). -/
theorem timekeeping : Obligations.Timekeeping := ⟨siderealCounter, pulsePerSecond, precisionTime, chronographMarks⟩

end Sys2Proof.Machine
end

section
/-! A limb's sweep: its batches of blocks, and its end (R549, R553, R555, R559, R617). -/

namespace Sys2Proof.Machine
open Sys2Proof.Claims

/-! ### Batches (R549, R553, R555) -/

/-- A command of an engine that takes the state to t, with what it read through the mesh at hand. -/
theorem withReads_of_eq {f : State → State} {s t : State} (h : f s = t) : withReads f s = withReads (fun _ => t) s := withReads_congr h

/-- A command that lacks no read has its whole effect; of the reads those that it used are dropped. -/
theorem withReads_const {s t : State} (h : t.engWant = s.engWant) : ∃ e, withReads (fun _ => t) s = { t with engReads := e } := ⟨_, if_pos h⟩

section
variable {l k : Nat} {s : State}

theorem exec_uProgramBatch (l : LimbId) (hk : k < 4096) (s : State) : exec (.uProgramBatch l k) s = .next (withReads (uBatch l.val k) s) := by
  rw [show exec (.uProgramBatch l k) s = .next (withReads (uBatch l.val (k % 4096)) s) from rfl, Nat.mod_eq_of_lt hk]

theorem uBatch_idle (h : launched s = false ∨ sweepOf s l ≠ 2 ∨ limbHeld s l = true ∨ segProg s l k = none) : uBatch l k s = s := by
  unfold uBatch
  rcases h with h | h | h | h
  · simp [h]
  · simp [h]
  · simp [h]
  · simp only [h, ite_self]

/-- The limb's counts after a batch of n blocks: those of its engine, and those of its segment (R549). -/
def batchCounted (l k n : Nat) (s u : State) : State :=
  (u.setFld (rUpdLstat l) 63 32 (s.fld (rUpdLstat l) 63 32 + n)).modLimb l fun m => { m with sweptBlocks := tset m.sweptBlocks k (tget 0 m.sweptBlocks k + n) }

section
variable {prog : List Word} {bs : List Nat} {v : State} (hl : launched s = true) (hw : sweepOf s l = 2) (hh : limbHeld s l = false) (hp : segProg s l k = some prog)
  (hn : nextBlocks l k s = (bs, v))
include hl hw hh hp hn

theorem uBatch_without_blocks (hb : bs = []) : uBatch l k s = v := by
  unfold uBatch
  simp [hl, hw, hh, hp, hn, hb]

theorem uBatch_blocks {ok : Bool} {u : State} (hb : bs ≠ [])
    (hr : runBlocks l (segN s l k) (planN s l (sgPlan (segN s l k))) (sgGroup (segN s l k)) prog (groupK s l (sgGroup (segN s l k))) bs v = (ok, u)) :
    uBatch l k s = if ok then batchCounted l k bs.length s u else engineFail l (sgGroup (segN s l k)) u := by
  unfold uBatch
  simp [hl, hw, hh, hp, hn, hb, hr, batchCounted]

end

theorem batchCounted_spec (l k n : Nat) (s u : State) : swept (batchCounted l k n s u) l k = swept u l k + n ∧
    (batchCounted l k n s u).fld (rUpdLstat l) 63 32 = (s.fld (rUpdLstat l) 63 32 + n) % 2 ^ 32 := by
  refine ⟨?_, State.fld_setFld_self _ _ _ _ _ (by decide) (by decide)⟩
  rw [swept, batchCounted, limb_modLimb_self]
  exact tget_tset_self ..

/-- Without lagged clipping the blocks are not looked at before they are run (R553). -/
theorem nextBlocks_unlagged (h : lagged s = false) : (nextBlocks l k s).2 = s ∧ (nextBlocks l k s).1.length ≤ 8 := by
  simp [nextBlocks, h]

end

/-! ### The sweep's end (R559, R617) -/

section
variable {l : LimbId} {s : State}

theorem exec_sweepComplete_idle (h : launched s = false ∨ sweepOf s l.val ≠ 2) : exec (.sweepComplete l) s = .next s := by
  refine if_neg ?_
  rcases h with h | h <;> simp [h]

theorem exec_sweepComplete (hl : launched s = true) (hw : sweepOf s l.val = 2) : exec (.sweepComplete l) s =
    if limbHeld s l.val then .next (engineFail l.val 0x3FF s) else if sweepDone s l.val then .next (sweepEnd l.val 0 0x3FF s) else .next s :=
  if_pos (by simp [hl, hw])

end

/-- A sweep that ends OK posts one completion record where HOST_CQ_ROUTE says (R559). -/
theorem rd_sweepEnd_head (l g : Nat) (s : State) : (sweepEnd l 0 g s).rd (ringCq s (routeCq s 3)).head = s.rd (ringCq s (routeCq s 3)).head + 1 := by
  have hge := rUpdLstat_ge l
  have hcq := routeCq_lt s 3
  have hroute : routeCq (s.setFld (rUpdLstat l) 2 0 (sweepCode 0)) 3 = routeCq s 3 := State.fld_congr (State.rd_setFld_ne _ _ _ _ (by omega)) ..
  have hrecord : (sweepRecorded l 0 g s).rd (ringCq s (routeCq s 3)).head = s.rd (ringCq s (routeCq s 3)).head + 1 := by
    rw [← State.rd_setFld_ne s 2 0 (sweepCode 0) (show rUpdLstat l ≠ (ringCq s (routeCq s 3)).head by simp only [ringCq]; omega)]
    have hpost := fun rec => rd_post_head 3 rec (s.setFld (rUpdLstat l) 2 0 (sweepCode 0))
    rw [hroute] at hpost
    exact hpost _
  rcases sweepEnd_cases (st := 0) (by decide) (by decide) g l s with h | h
  · rw [h, rd_modSpanEnd, hrecord]
  · rw [h, hrecord]

theorem sweepComplete_ends {l : LimbId} {s : State} (hl : launched s = true) (hw : sweepOf s l.val = 2) (hh : limbHeld s l.val = false) (hd : sweepDone s l.val = true) :
    ∃ t, exec (.sweepComplete l) s = .next t ∧ sweepOf t l.val = 3 ∧ (∀ j < 8, j ≠ l.val → sweepOf t j = sweepOf s j) ∧
      t.rd (ringCq s (routeCq s 3)).head = s.rd (ringCq s (routeCq s 3)).head + 1 ∧ t.mem = s.mem ∧ t.cores = s.cores := by
  have hset := sweepsSet_sweepEnd (st := 0) (by decide) (by decide) 0x3FF l.val s
  obtain ⟨hcores, hmem⟩ := sweepEnd_cores_mem (st := 0) (by decide) (by decide) 0x3FF l.val s
  refine ⟨sweepEnd l.val 0 0x3FF s, (exec_sweepComplete hl hw).trans (by simp [hh, hd]), hset.sweep _ List.mem_cons_self, fun j _ hj => ?_, rd_sweepEnd_head .., hmem, hcores⟩
  have hge := rUpdLstat_ge j
  exact sweepOf_congr (hset.rd _ (by omega) fun k hk e => hj ((rUpdLstat_inj e).symm.trans (List.mem_singleton.1 hk)))

theorem sweeps : Sweeps := by
  refine fun l k s hk => ⟨fun h => ?_, fun prog bs v hl hw hh hp hn => ⟨fun hb => ?_, fun ok u hb hr => ⟨?_, ?_⟩⟩, nextBlocks_unlagged, fun t => withReads_const, exec_sweepComplete_idle,
    fun hl hw hh => (exec_sweepComplete hl hw).trans (if_pos hh), fun hl hw hh => ⟨sweepComplete_ends hl hw hh, fun hd => (exec_sweepComplete hl hw).trans (by simp [hh, hd])⟩⟩
  · rw [exec_uProgramBatch l hk, withReads_of_eq_self (uBatch_idle h)]
  · rw [exec_uProgramBatch l hk, withReads_of_eq (uBatch_without_blocks hl hw hh hp hn hb)]
  · rintro rfl
    obtain ⟨hswept, hcount⟩ := batchCounted_spec l.val k bs.length s u
    refine ⟨batchCounted l.val k bs.length s u, ?_, hswept, hcount, rfl, rfl, rfl⟩
    rw [exec_uProgramBatch l hk, withReads_of_eq (uBatch_blocks hl hw hh hp hn hb hr), if_pos rfl]
  · rintro rfl
    rw [exec_uProgramBatch l hk, withReads_of_eq (uBatch_blocks hl hw hh hp hn hb hr), if_neg (by decide)]

end Sys2Proof.Machine
end

section
/-! What an error report changes of the state (R616 to R626), and what no error and no command of the store range changes: the launch's samples, the step's record and the registers below the Plate engine's (R380 to R404). -/

namespace Sys2Proof.Machine

/-! ### Error reports (R616 to R626) -/

/-- From s to t nothing changes but registers, record queues, the errors that go on to a parent, and the cores that halt. -/
def ReportsOnly (s t : State) : Prop := t = { s with regs := t.regs, rings := t.rings, escOut := t.escOut, cores := t.cores }

section
variable {s t u : State}

theorem ReportsOnly.trans (h : ReportsOnly s t) (k : ReportsOnly t u) : ReportsOnly s u := by
  unfold ReportsOnly at h k
  rw [h] at k
  exact k

theorem reportsOnly_ite {c : Prop} [Decidable c] (h : ReportsOnly s t) (k : ReportsOnly s u) : ReportsOnly s (if c then t else u) := by
  split <;> assumption

theorem reportsOnly_nlog (kind cls dk unit code rep loc : Nat) (a b x : Word) : ReportsOnly s (nlog kind cls dk unit code rep loc a b x s) := by
  rw [nlog_rest]
  rfl

theorem reportsOnly_errRefresh (d : Dom) : ReportsOnly s (errRefresh d s) := by
  unfold errRefresh errMaps
  cases d with
  | field f => exact reportsOnly_ite rfl rfl
  | core c => rfl
  | limb l => rfl
  | module => rfl

theorem reportsOnly_wr4 (off : Nat) (ws : List Word) : ReportsOnly s (wr4 off ws s) := rfl

theorem reportsOnly_takeRecord (d : Dom) (off cls unit cause : Nat) (info : Word) : ReportsOnly s (takeRecord d off cls unit cause info s) :=
  (reportsOnly_wr4 ..).trans (reportsOnly_nlog ..)

theorem reportsOnly_moduleEscalate (unit cause : Nat) : ReportsOnly s (moduleEscalate unit cause s) :=
  reportsOnly_ite rfl (ReportsOnly.trans (t := faultPin (s.setFld rModFault 1 1 1)) rfl ((reportsOnly_nlog ..).trans (reportsOnly_errRefresh _)))

theorem reportsOnly_recordError (d : Dom) (cls unit cause : Nat) (info : Word) : ReportsOnly s (recordError d cls unit cause info s) := by
  have htake : ∀ (off : Nat) (v : State), ReportsOnly s v → ReportsOnly s (errRefresh d (takeRecord d off cls unit cause info v)) := fun off v h =>
    h.trans ((reportsOnly_takeRecord ..).trans (reportsOnly_errRefresh d))
  unfold recordError
  refine reportsOnly_ite rfl (reportsOnly_ite rfl (reportsOnly_ite (htake _ _ rfl) (reportsOnly_ite (htake _ _ rfl) (reportsOnly_ite (htake _ _ rfl) (reportsOnly_ite ?_ ?_)))))
  · exact ReportsOnly.trans (t := s.satFld (errBase d) 47 32 1) rfl (reportsOnly_nlog ..)
  · cases d with
    | module => exact reportsOnly_moduleEscalate unit cause
    | core c => rfl
    | field f => rfl
    | limb l => rfl

theorem reportsOnly_reqHalt (c st : Nat) : ReportsOnly s (reqHalt c st s) := reportsOnly_ite (reportsOnly_ite rfl rfl) rfl

theorem reportsOnly_quiesceField (f : Nat) : ReportsOnly s (quiesceField f s) :=
  forEach_induction (P := ReportsOnly s) (fun c _ h => h.trans (reportsOnly_reqHalt c 7)) _ (ReportsOnly.trans (t := s.setFld (rFldStat f) 1 0 2) rfl rfl)

theorem reportsOnly_contain (d : Dom) : ReportsOnly s (contain d s) := by
  cases d with
  | core c => exact (reportsOnly_reqHalt c.val 6).trans (reportsOnly_quiesceField _)
  | field f => exact reportsOnly_quiesceField f.val
  | limb l => rfl
  | module => exact forEach_induction (P := ReportsOnly s) (fun f _ h => h.trans (reportsOnly_quiesceField f)) _ rfl

/-- An error that reaches a domain changes its records, the night log, and the cores that containment halts. -/
theorem reportsOnly_raise (d : Dom) (cls unit cause : Nat) (info : Word) : ReportsOnly s (raise d cls unit cause info s) := by
  have hrec : ReportsOnly s (recordError d cls unit cause info s) := reportsOnly_recordError ..
  have hfatal := reportsOnly_ite (c := cls = 3) (hrec.trans (ReportsOnly.trans (t := faultPin ((recordError d cls unit cause info s).setFld rModFault 1 1 1)) rfl
    ((reportsOnly_errRefresh .module).trans (reportsOnly_contain .module)))) hrec
  have hheld := reportsOnly_ite (c := 2 ≤ cls) (hfatal.trans (reportsOnly_contain d)) hfatal
  exact reportsOnly_ite (hheld.trans (reportsOnly_contain .module)) hheld

end

/-! ### The step and its launch -/

/-- From s to t the launch's samples, the record of the step in progress, and the registers below the Plate engine's stand: the step counter, the launch, the banks and the update engine's among them. -/
structure StepKept (s t : State) : Prop where
  samp : t.samp = s.samp
  step : t.step = s.step
  rd : ∀ off < 0x7000, t.rd off = s.rd off

section
variable {s t u : State}

theorem stepKept_refl (s : State) : StepKept s s := ⟨rfl, rfl, fun _ _ => rfl⟩

theorem StepKept.trans (h : StepKept s t) (k : StepKept t u) : StepKept s u := ⟨k.samp.trans h.samp, k.step.trans h.step, fun off ho => (k.rd off ho).trans (h.rd off ho)⟩

theorem stepKept_ite {c : Prop} [Decidable c] (h : StepKept s t) (k : StepKept s u) : StepKept s (if c then t else u) := by
  split <;> assumption

/-- A change of none of the three: the registers, the samples and the step's record are the same. -/
theorem StepKept.same (h : StepKept s t) (hsamp : u.samp = t.samp) (hstep : u.step = t.step) (hregs : u.regs = t.regs) : StepKept s u :=
  ⟨hsamp.trans h.samp, hstep.trans h.step, fun off ho => by rw [State.rd, hregs]; exact h.rd off ho⟩

theorem StepKept.wr (h : StepKept s t) {off : Nat} (ho : 0x7000 ≤ off) (w : Word) : StepKept s (t.wr off w) :=
  ⟨h.samp, h.step, fun q hq => (State.rd_wr_ne _ _ (by omega)).trans (h.rd q hq)⟩

theorem StepKept.setFld (h : StepKept s t) {off : Nat} (ho : 0x7000 ≤ off) (hi lo n : Nat) : StepKept s (t.setFld off hi lo n) := h.wr ho _

theorem StepKept.satFld (h : StepKept s t) {off : Nat} (ho : 0x7000 ≤ off) (hi lo n : Nat) : StepKept s (t.satFld off hi lo n) := h.wr ho _

theorem StepKept.modLimb (h : StepKept s t) (l : Nat) (f : Limb → Limb) : StepKept s (t.modLimb l f) := h.same rfl rfl rfl

theorem StepKept.setEntry (h : StepKept s t) (g : Nat) (w : Word) : StepKept s (t.setEntry g w) := h.same rfl rfl rfl

theorem StepKept.setMigs (h : StepKept s t) (m : Tab (Nat × Nat)) : StepKept s { t with migs := m } := h.same rfl rfl rfl

theorem StepKept.raise (h : StepKept s t) (d : Dom) (cls unit cause : Nat) (info : Word) : StepKept s (raise d cls unit cause info t) := by
  have hrest : ReportsOnly t (Machine.raise d cls unit cause info t) := reportsOnly_raise ..
  have herr : ErrorsOnly t (Machine.raise d cls unit cause info t) := errorsOnly_raise ..
  refine h.trans ⟨?_, ?_, fun off ho => herr.rd off (by omega)⟩
  · rw [hrest]
  · rw [hrest]

theorem stepKept_forEach {f : Nat → State → State} (hf : ∀ n t, StepKept s t → StepKept s (f n t)) (ns : List Nat) (h : StepKept s t) : StepKept s (forEach ns f t) := forEach_induction hf ns h

/-! ### Granules (R380 to R404) -/

theorem StepKept.capRefresh (h : StepKept s t) (l : Nat) : StepKept s (capRefresh l t) := by
  refine h.trans ⟨?_, ?_, fun off ho => (sameModule_capRefresh l t).2 off (by omega)⟩
  · rw [capRefresh_rest]
  · rw [capRefresh_rest]

theorem le_limbReg (l a : Nat) : 0x7000 ≤ limbBase l + a := by
  unfold limbBase
  omega

theorem StepKept.touch (h : StepKept s t) (g : Nat) : StepKept s (touch g t) := h.setEntry ..

theorem le_rMigStat (l : Nat) : 0x7000 ≤ rMigStat l := le_limbReg l _

theorem StepKept.migAbort (h : StepKept s t) (l g : Nat) : StepKept s (migAbort l g t) := by
  unfold Machine.migAbort
  refine stepKept_ite ?_ h
  refine StepKept.capRefresh ?_ l
  exact ((h.setMigs _).setEntry g _).satFld (le_rMigStat l) _ _ _

theorem StepKept.migDone (h : StepKept s t) (l g : Nat) : StepKept s (migDone l g t) := by
  unfold Machine.migDone
  split
  · exact h
  · exact ((h.setMigs _).setEntry g _).capRefresh l

theorem StepKept.migBegin (h : StepKept s t) {l g tier : Nat} (hm : migBegin l g tier t = some u) : StepKept s u := by
  obtain ⟨base, hu⟩ := migBegin_eq hm
  rw [hu]
  exact ((h.setMigs _).setEntry g _).capRefresh l

theorem StepKept.evictSweep (h : StepKept s t) (l : Nat) (anyAge : Bool) (ps : List (Nat × Word)) : StepKept s (evictSweep l anyAge ps t) := by
  induction ps generalizing t with
  | nil => exact h
  | cons p ps ih =>
    rw [Machine.evictSweep]
    refine stepKept_ite h (stepKept_ite ?_ (ih h))
    cases hm : Machine.migBegin l p.1 1 t with
    | none => exact ih h
    | some v => exact ih (((h.migBegin hm).migDone l p.1).modLimb l _)

theorem StepKept.retryPinned (h : StepKept s t) (l : Nat) : StepKept s (retryPinned l t) := by
  refine List.foldlRecOn (motive := StepKept s) _ _ h fun v hv p _ => stepKept_ite hv ?_
  cases hm : Machine.migBegin l p.1 (ePin p.2 - 1) v with
  | none => exact hv
  | some w => exact hv.migBegin hm

theorem StepKept.evict (h : StepKept s t) (l : Nat) : StepKept s (evict l t) :=
  stepKept_ite h (StepKept.retryPinned (stepKept_ite (h.evictSweep ..) ((h.evictSweep ..).evictSweep ..)) l)

theorem StepKept.allocate (h : StepKept s t) (l g n : Nat) : StepKept s (allocate l g n t).2 := by
  unfold Machine.allocate
  split
  · exact h
  · exact h.evict l

theorem StepKept.capFail (h : StepKept s t) (l g : Nat) : StepKept s (capFail l g t) := (h.satFld (le_rMigStat l) ..).raise ..

theorem StepKept.encodeGranule (h : StepKept s t) {l g : Nat} (he : encodeGranule l g t = some u) : StepKept s u := by
  have halloc := h.allocate l g (imageOf t g (eElem (t.entry g))).2
  unfold Machine.encodeGranule at he
  dsimp only at he
  split_ifs at he with hz
  · obtain rfl := Option.some.inj he
    exact (h.setEntry ..).capRefresh l
  · split at he
    · cases he
    · rename_i tier base v hv
      rw [hv] at halloc
      obtain rfl := Option.some.inj he
      refine StepKept.capRefresh ?_ l
      exact halloc.same rfl rfl rfl

theorem StepKept.closeSlot (h : StepKept s t) (l g : Nat) : StepKept s (closeSlot l g t) := by
  refine stepKept_ite ?_ h
  cases he : Machine.encodeGranule l g t with
  | none => exact h.capFail l g
  | some v => exact (h.encodeGranule he).modLimb l _

theorem StepKept.freeSlot (h : StepKept s t) (l n : Nat) : StepKept s (freeSlot l n t) := by
  induction n generalizing t with
  | zero => exact h
  | succ n ih =>
    rw [Machine.freeSlot]
    refine stepKept_ite h ?_
    cases (t.limb l).slots[31 - n]? with
    | none => exact h
    | some k => exact ih (h.closeSlot l k.g)

theorem StepKept.openSlot (h : StepKept s t) (l g : Nat) : StepKept s (openSlot l g t).2 := by
  unfold Machine.openSlot
  split
  · exact h.same rfl rfl rfl
  · dsimp only
    split
    · exact (h.freeSlot l 32).same rfl rfl rfl
    · exact h.freeSlot l 32

theorem StepKept.putWords (h : StepKept s t) (w : Nat) (ws : List PWord) : StepKept s (putWords w ws t) := by
  rw [onlyBytes_putWords]
  exact h.same rfl rfl rfl

theorem StepKept.writeGranule (h : StepKept s t) (g w : Nat) (ws : List PWord) : StepKept s (writeGranule g w ws t).2 := by
  unfold Machine.writeGranule
  split
  · exact h
  · rename_i l _
    have habort := h.migAbort l g
    dsimp only
    split
    · split
      · rename_i v hv
        exact ((habort.modLimb l _).putWords w ws).encodeGranule hv
      · exact habort.capFail l g
    · split
      · exact (habort.openSlot l g).putWords w ws
      · exact habort.openSlot l g

theorem StepKept.writeStore (h : StepKept s t) (engine : Bool) (w : Nat) (ws : List PWord) : StepKept s (writeStore engine w ws t).2 :=
  List.foldlRecOn (motive := fun r : Bool × State => StepKept s r.2) _ _ h fun _ hr _ _ => stepKept_ite ((hr.writeGranule ..).touch _) (hr.writeGranule ..)

theorem StepKept.writeBytes (h : StepKept s t) (engine : Bool) (a : Nat) (bs : List Byte) : StepKept s (writeBytes engine a bs t).2 := h.writeStore ..

theorem StepKept.zeroGranule (h : StepKept s t) (g : Nat) : StepKept s (zeroGranule g t) := by
  unfold Machine.zeroGranule
  split
  · exact h
  · rename_i l _
    refine StepKept.capRefresh ?_ l
    exact (h.migAbort l g).same rfl rfl rfl

theorem StepKept.pltZero (h : StepKept s t) (g : Nat) : StepKept s (pltZero g t) := stepKept_ite ((h.zeroGranule g).touch g) h

theorem StepKept.pltWrite (h : StepKept s t) (a : Nat) (bs : List Byte) : StepKept s (pltWrite a bs t).2 := h.writeBytes ..

/-! ### The Plate engine's trigger and the cursors (R449, R593, R594) -/

theorem StepKept.post (h : StepKept s t) (src lring : Nat) (rec : List Word) : StepKept s (post src lring rec t) := by
  refine h.trans ⟨?_, ?_, fun off ho => rd_post_ne src lring rec t (.inl (by omega))⟩
  · rw [post_rest]
  · rw [post_rest]

theorem StepKept.pltRecord (h : StepKept s t) (kind status slot : Nat) (rsel : Bool) (shard seq : Nat) (step : Word) (dig : List Byte) :
    StepKept s (pltRecord kind status slot rsel shard seq step dig t) := h.post ..

theorem StepKept.modSpan (h : StepKept s t) (d : Nat) : StepKept s (modSpan d t) := by
  rw [modSpan_rest]
  exact h.same rfl rfl rfl

theorem StepKept.modSpanEnd (h : StepKept s t) (d : Nat) : StepKept s (modSpanEnd d t) := h.same rfl rfl rfl

theorem StepKept.modPlate (h : StepKept s t) (f : Plate → Plate) : StepKept s (t.modPlate f) := h.same rfl rfl rfl

theorem StepKept.pltError (h : StepKept s t) (st : Nat) : StepKept s (pltError st t) :=
  have hdrawn : StepKept s t.draw.2 := h.same rfl rfl rfl
  stepKept_ite (hdrawn.raise ..) (stepKept_ite (hdrawn.raise ..) h)

theorem StepKept.quoteStart (h : StepKept s t) : StepKept s (quoteStart t) := stepKept_ite (h.same rfl rfl rfl) h

theorem le_rPltStat : 0x7000 ≤ rPltStat := by decide
theorem le_rPltSeq : 0x7000 ≤ rPltSeq := by decide

theorem StepKept.plateEnd (h : StepKept s t) (st : Nat) : StepKept s (plateEnd st t) := by
  have hended := fun step dig => (((((h.setFld le_rPltStat 19 16 st).setFld le_rPltStat 3 0 0).modSpanEnd 3).pltRecord 0 st (t.fld rPltStat 15 12) false 0x3FF
    ((Machine.modSpanEnd 3 ((t.setFld rPltStat 19 16 st).setFld rPltStat 3 0 0)).fld rPltSeq 31 0) step dig)).modPlate fun p => { p with shards := [], dirdig := [], signWait := false }
  exact StepKept.quoteStart (stepKept_ite (hended _ _) ((hended _ _).pltError st))

theorem StepKept.plateSkip (h : StepKept s t) : StepKept s (plateSkip t) := by
  have hdrawn : StepKept s t.draw.2.draw.2 := h.same rfl rfl rfl
  exact (hdrawn.satFld le_rPltStat ..).pltRecord ..

theorem StepKept.plateBegin (h : StepKept s t) (k : Nat) : StepKept s (plateBegin k t) := by
  unfold Machine.plateBegin
  dsimp only
  have hbegun := fun f n => (((((((h.setFld le_rPltSeq 31 0 (t.fld rPltSeq 31 0 + 1)).setFld le_rPltStat 3 0 1).setFld
    le_rPltStat 15 12 k).modPlate f).modSpan 3).setFld le_rPltSeq 63 32 n).pltZero (slotBase t false k))
  split
  · exact stepKept_ite ((hbegun _ _).pltWrite _ _) (((hbegun _ _).pltWrite _ _).plateEnd 2)
  · exact hbegun _ _

theorem StepKept.plateTrigger (h : StepKept s t) : StepKept s (plateTrigger t) := by
  unfold Machine.plateTrigger
  dsimp only
  split
  · exact (h.modPlate _).plateSkip
  · split
    · exact (h.modPlate _).plateBegin _
    · exact (h.modPlate _).plateSkip

theorem StepKept.plateAtCommit (h : StepKept s t) : StepKept s (plateAtCommit t) := stepKept_ite h.plateTrigger h

theorem StepKept.cursorAdvance (h : StepKept s t) : StepKept s (cursorAdvance t) := by
  have hwindow : ∀ l n, 0x7000 ≤ chanOff l n 6 := fun l n => by
    unfold chanOff limbBase
    omega
  exact stepKept_forEach (fun l _ hl => stepKept_forEach (fun n _ hn => (hn.setFld (hwindow l n) ..).setFld (hwindow l n) ..) _ hl) _ h

end

end Sys2Proof.Machine
end

section
/-! The Chronograph's records close: what that changes, and that no unit's record is open after it (R739 to R741, R776). -/

namespace Sys2Proof.Machine

/-- From s to t nothing changes but the Chronograph's records and their durations, the two queues that take records, and the registers of these queues. -/
structure ChrOnly (s t : State) : Prop where
  rest : t = { s with regs := t.regs, rings := t.rings, chr := t.chr }
  rd : ∀ off, off < 0x8108 ∨ 0xD000 ≤ off → t.rd off = s.rd off

section
variable {s t u : State}

theorem chrOnly_refl (s : State) : ChrOnly s s := ⟨rfl, fun _ _ => rfl⟩

theorem ChrOnly.trans (h : ChrOnly s t) (k : ChrOnly t u) : ChrOnly s u := by
  refine ⟨?_, fun off ho => (k.rd off ho).trans (h.rd off ho)⟩
  have hrest := k.rest
  rw [h.rest] at hrest
  exact hrest

theorem chrOnly_ite {c : Prop} [Decidable c] (h : ChrOnly s t) (k : ChrOnly s u) : ChrOnly s (if c then t else u) := by
  split <;> assumption

theorem ChrOnly.stepKept (h : ChrOnly s t) : StepKept s t := ⟨by rw [h.rest], by rw [h.rest], fun off ho => h.rd off (.inl (by omega))⟩

theorem ChrOnly.launched (h : ChrOnly s t) : launched t = launched s := State.flag_congr (h.rd _ (.inl (by decide))) _

theorem chrOnly_modChr (s : State) (v : Nat) (f : Chr → Chr) : ChrOnly s (s.modChr v f) := ⟨rfl, fun _ _ => rfl⟩

theorem chrOnly_nlogEvent (dk code loc : Nat) (a b : Word) (s : State) : ChrOnly s (nlogEvent dk code loc a b s) := by
  refine ⟨?_, fun off ho => rd_nlogEvent_ne _ _ _ _ _ _ (by omega)⟩
  rw [nlogEvent_rest]

theorem chrOnly_ringPush (body : List Word) (s : State) : ChrOnly s (ringPush ringChr body s) := by
  refine ⟨?_, fun off ho => rd_ringPush_ne _ _ (by simp only [ringChr]; omega) (by simp only [ringChr]; omega)⟩
  rw [ringPush_rest]

/-- A record closes without a duration that saturates, or with one, which is then marked (R737). -/
theorem chrClose_cases (v : Nat) (s : State) : (∃ w, chrClose v s = satDur v w (s.modChr v fun k => { chrStopAll (sidereal s) k with isOpen := false })) ∨
    chrClose v s = s.modChr v fun k => { chrStopAll (sidereal s) k with isOpen := false } := by
  unfold chrClose
  dsimp only
  split
  · exact .inl ⟨_, rfl⟩
  · exact .inr rfl

theorem chrOnly_satDur (v w : Nat) (s : State) : ChrOnly s (satDur v w s) := chrOnly_ite ((chrOnly_modChr ..).trans (chrOnly_nlogEvent ..)) (chrOnly_refl s)

theorem chrOf_satDur_ne (w : Nat) (s : State) {v x : Nat} (h : x ≠ v) : (satDur v w s).chrOf x = s.chrOf x := by
  unfold satDur
  split
  · rw [State.chrOf_nlogEvent, State.chrOf_modChr_ne _ _ h]
  · rfl

theorem isOpen_satDur (v w : Nat) (s : State) : ((satDur v w s).chrOf v).isOpen = (s.chrOf v).isOpen := by
  unfold satDur
  split
  · rw [State.chrOf_nlogEvent, State.chrOf_modChr_self]
  · rfl

/-! ### A record that closes (R739, R740) -/

/-- The state after unit v's record has closed and entered the queue with the words `body`. -/
def recordClosed (v : Nat) (body : State → List Word) (s : State) : State := ringPush ringChr (body (chrClose v s)) (chrClose v s)

theorem chrOnly_chrClose (v : Nat) (s : State) : ChrOnly s (chrClose v s) := by
  rcases chrClose_cases v s with ⟨w, h⟩ | h
  · rw [h]
    exact (chrOnly_modChr ..).trans (chrOnly_satDur ..)
  · rw [h]
    exact chrOnly_modChr ..

theorem chrOf_chrClose_ne (s : State) {v x : Nat} (h : x ≠ v) : (chrClose v s).chrOf x = s.chrOf x := by
  rcases chrClose_cases v s with ⟨w, hc⟩ | hc
  · rw [hc, chrOf_satDur_ne _ _ h, State.chrOf_modChr_ne _ _ h]
  · rw [hc, State.chrOf_modChr_ne _ _ h]

theorem isOpen_chrClose (v : Nat) (s : State) : ((chrClose v s).chrOf v).isOpen = false := by
  rcases chrClose_cases v s with ⟨w, hc⟩ | hc
  · rw [hc, isOpen_satDur, State.chrOf_modChr_self]
  · rw [hc, State.chrOf_modChr_self]

theorem chrOf_ringPush (r : Ring) (body : List Word) (s : State) (x : Nat) : (ringPush r body s).chrOf x = s.chrOf x := by
  rw [State.chrOf, ringPush_rest, State.chrOf]

/-- Unit v's record closes, if it is open: every other unit keeps its record. -/
structure Closes (v : Nat) (s t : State) : Prop where
  only : ChrOnly s t
  closed : (t.chrOf v).isOpen = false
  other : ∀ x, x ≠ v → t.chrOf x = s.chrOf x

theorem closes_recordClosed (v : Nat) (body : State → List Word) (s : State) : Closes v s (recordClosed v body s) :=
  ⟨(chrOnly_chrClose ..).trans (chrOnly_ringPush ..), (congrArg Chr.isOpen (chrOf_ringPush ..)).trans (isOpen_chrClose ..), fun _ h => (chrOf_ringPush ..).trans (chrOf_chrClose_ne _ h)⟩

theorem closes_ite (v : Nat) (body : State → List Word) (s : State) : Closes v s (if (s.chrOf v).isOpen then recordClosed v body s else s) := by
  split
  · exact closes_recordClosed ..
  · exact ⟨chrOnly_refl s, Bool.eq_false_of_not_eq_true ‹_›, fun _ _ => rfl⟩

theorem closes_closeFieldRecord (abort : Bool) (f : Nat) (s : State) : Closes f s (closeFieldRecord abort f s) := closes_ite f (fun t => fieldRecord t f abort (t.chrOf f)) s

theorem closes_closeModuleRecord (abort : Bool) (s : State) : Closes chrMod s (closeModuleRecord abort s) := closes_ite chrMod (fun t => moduleRecord t abort (t.chrOf chrMod)) s

/-! ### Every open record closes (R739, R776) -/

/-- The records of a list of fields close; a record that is closed stays so. -/
theorem closed_forEach (abort : Bool) (fs : List Nat) (s : State) : ChrOnly s (forEach fs (closeFieldRecord abort) s) ∧
    ∀ f, f ∈ fs ∨ (s.chrOf f).isOpen = false → ((forEach fs (closeFieldRecord abort) s).chrOf f).isOpen = false := by
  induction fs generalizing s with
  | nil => exact ⟨chrOnly_refl s, fun f h => h.resolve_left List.not_mem_nil⟩
  | cons g fs ih =>
    have hg := closes_closeFieldRecord abort g s
    obtain ⟨honly, hclosed⟩ := ih (closeFieldRecord abort g s)
    refine ⟨hg.only.trans honly, fun f h => hclosed f ?_⟩
    by_cases hf : f = g
    · exact .inr (hf ▸ hg.closed)
    · rw [hg.other f hf]
      exact h.imp_left fun hm => (List.mem_cons.1 hm).resolve_left hf

theorem chrOnly_closeRecords (abort : Bool) (s : State) : ChrOnly s (closeRecords abort s) := (closed_forEach ..).1.trans (closes_closeModuleRecord ..).only

theorem isOpen_closeRecords_field (abort : Bool) (s : State) {f : Nat} (h : f < 84) : ((closeRecords abort s).chrOf f).isOpen = false := by
  rw [closeRecords, (closes_closeModuleRecord ..).other f (show f ≠ 255 by omega)]
  exact (closed_forEach ..).2 f (.inl (List.mem_range.2 h))

theorem isOpen_closeRecords_module (abort : Bool) (s : State) : ((closeRecords abort s).chrOf chrMod).isOpen = false := (closes_closeModuleRecord ..).closed

end

end Sys2Proof.Machine
end

section
/-! COMMIT, INIT and the control bank (R533 to R537, R566, R569, R570). -/

namespace Sys2Proof.Machine
open Sys2Proof.Claims

/-! ### The control bank (R533, R569, R570) -/

section
variable {s : State}

theorem exec_controlBankWrite (s : State) : exec .controlBankWrite s = .next (withReads bankWrite s) := rfl

/-- The bank is due: in a launched step whose outcome is decided, and after an applied one whose observations are there, once. -/
def bankDue (s : State) : Bool := launched s && !s.step.cbWritten && (outcome s == 2 || (outcome s == 1 && s.step.obsU == some 0))

theorem bankDue_of (hl : launched s = true) (hc : s.step.cbWritten = false) (ho : outcome s = 2 ∨ (outcome s = 1 ∧ s.step.obsU = some 0)) : bankDue s = true := by
  rcases ho with ho | ⟨ho, hu⟩
  · simp [bankDue, hl, hc, ho]
  · simp [bankDue, hl, hc, ho, hu]

theorem bankDue_eq_false (h : launched s = false ∨ s.step.cbWritten = true ∨ (outcome s ≠ 2 ∧ (outcome s ≠ 1 ∨ s.step.obsU ≠ some 0))) : bankDue s = false := by
  rcases h with h | h | ⟨h2, h1 | hu⟩
  · simp [bankDue, h]
  · simp [bankDue, h]
  · simp [bankDue, h2, h1]
  · simp [bankDue, h2, hu]

theorem bankWrite_not_due (h : bankDue s = false) : bankWrite s = s := if_neg (Bool.eq_false_iff.1 h)

section
variable {old : Option (List Byte)} {u : State} (hdue : bankDue s = true) (hread : engRead (hostLimb s) (cbankBase s (curCbank s)) bankBytes s = (old, u))
include hdue hread

theorem bankWrite_unread (ho : old = none) : bankWrite s = engineFail (hostLimb s) 0x3FF u := by
  refine (if_pos hdue).trans ?_
  simp only [hread, ho]

theorem bankWrite_read {bs : List Byte} {ok : Bool} {v : State} (ho : old = some bs)
    (hw : (enabledGroups s (hostLimb s)).foldl (fun x g => seeWrite (outcome s == 1) g x) (engWrite (hostLimb s) (cbankBase s (1 - curCbank s)) none (nextBank s (outcome s == 1) bs) u) = (ok, v)) :
    bankWrite s = if ok then { v with step := { v.step with cbWritten := true } } else engineFail (hostLimb s) 0x3FF v := by
  refine (if_pos hdue).trans ?_
  simp only [hread, ho, hw]

end

end

/-! ### COMMIT (R534, R535) -/

/-- The bank flags of a step's end. -/
def flippedBanks (apply : Bool) (n j : Word) : Word := wd (bits n 47 0 * 2 ^ 16 + (1 - bits j 1 1) * 2 + (if apply then 1 - bits j 0 0 else bits j 0 0))

/-- The banks flip, the step counter becomes n, and the step is launched no more (R534). -/
def banksFlipped (apply : Bool) (n : Word) (s : State) : State := ((s.wr 0x6008 (flippedBanks apply n (s.rd 0x6008))).wr rStepCnt n).setFld rHostStep 0 0 0

/-- A step that was not applied is counted (R283). -/
def stepCounted (apply : Bool) (s : State) : State := if apply then s else s.satFld 0x2008 31 0 1

/-- Latches and held samples end, and late observations carry (R291, R566, R866). -/
def latchesEnded (s : State) : State :=
  let t := { s with samp := { s.samp with held := false, last := none }, step := { s.step with dirLat := [] }, obs := { Obs.reset with carried := s.obs.late, gClosed := true } }
  (t.wr 0x6048 0).setFld 0x6028 63 32 (bankLclip t)

/-- The state in which an accepted COMMIT advances the cursors and may trigger a plate. -/
def committed (s : State) : State := latchesEnded (stepCounted (outcome s == 1) (banksFlipped (outcome s == 1) (stepCnt s + 1) (closeRecords false s)))

section
variable {s : State}

theorem commitAccept_eq (s : State) : commitAccept s = plateAtCommit (cursorAdvance (committed s)) := rfl

theorem stepKept_commitAccept (s : State) : StepKept (committed s) (commitAccept s) := by
  rw [commitAccept_eq]
  exact (stepKept_refl _).cursorAdvance.plateAtCommit

theorem rd_latchesEnded {off : Nat} (h1 : off ≠ 0x6048) (h2 : off ≠ 0x6028) (s : State) : (latchesEnded s).rd off = s.rd off :=
  (State.rd_setFld_ne _ _ _ _ h2.symm).trans (State.rd_wr_ne _ _ h1.symm)

theorem rd_stepCounted {off : Nat} (h : off ≠ 0x2008) (apply : Bool) (s : State) : (stepCounted apply s).rd off = s.rd off := by
  cases apply with
  | true => rfl
  | false => exact rd_satFld_ne _ _ _ _ h.symm

theorem rd_committed {off : Nat} (h0 : off ≠ 0x2008) (h1 : off ≠ 0x6048) (h2 : off ≠ 0x6028) :
    (committed s).rd off = (banksFlipped (outcome s == 1) (stepCnt s + 1) (closeRecords false s)).rd off := (rd_latchesEnded h1 h2 _).trans (rd_stepCounted h0 _ _)

theorem rd_banksFlipped (apply : Bool) (n : Word) (s : State) :
    (banksFlipped apply n s).rd rStepCnt = n ∧ (banksFlipped apply n s).flag rHostStep 0 = false ∧ (banksFlipped apply n s).rd 0x6008 = flippedBanks apply n (s.rd 0x6008) := by
  refine ⟨?_, (State.flag_setFld_mem _ _ _ _ _ _ (by decide) (by decide) (by decide)).trans (Nat.zero_testBit 0), ?_⟩
  · exact (State.rd_setFld_ne _ _ _ _ (by decide)).trans (State.rd_wr_self ..)
  · exact (State.rd_setFld_ne _ _ _ _ (by decide)).trans ((State.rd_wr_ne _ _ (by decide)).trans (State.rd_wr_self ..))

theorem bits_flippedBanks (apply : Bool) (n j : Word) : bits (flippedBanks apply n j) 1 1 = 1 - bits j 1 1 ∧ bits (flippedBanks apply n j) 0 0 = if apply then 1 - bits j 0 0 else bits j 0 0 := by
  have h0 := bits_lt j 0 0
  have h1 := bits_lt j 1 1
  have hn := bits_lt n 47 0
  unfold flippedBanks
  generalize bits n 47 0 = x at *
  generalize bits j 1 1 = b at *
  generalize bits j 0 0 = a at *
  cases apply <;> simp [bits, nbits, wd] at * <;> omega

/-- What an accepted COMMIT leaves of the step: the counter advanced, no launch, the banks flipped, and no latch or sample held. -/
theorem commitAccept_spec (s : State) : stepCnt (commitAccept s) = stepCnt s + 1 ∧ launched (commitAccept s) = false ∧ (commitAccept s).rd 0x6008 = flippedBanks (outcome s == 1) (stepCnt s + 1) (s.rd 0x6008) ∧
    (commitAccept s).step.dirLat = [] ∧ (commitAccept s).samp.held = false ∧ (commitAccept s).samp.last = none := by
  have hkept := stepKept_commitAccept s
  obtain ⟨hcnt, hflag, hbanks⟩ := rd_banksFlipped (outcome s == 1) (stepCnt s + 1) (closeRecords false s)
  have hrd : ∀ off < 0x6000, off ≠ 0x2008 → (commitAccept s).rd off = (banksFlipped (outcome s == 1) (stepCnt s + 1) (closeRecords false s)).rd off := fun off ho hne =>
    (hkept.rd off (by omega)).trans (rd_committed hne (by omega) (by omega))
  refine ⟨(hrd _ (by decide) (by decide)).trans hcnt, (State.flag_congr (hrd _ (by decide) (by decide)) 0).trans hflag, ?_, by rw [hkept.step]; rfl, by rw [hkept.samp]; rfl, by rw [hkept.samp]; rfl⟩
  rw [hkept.rd _ (by decide), rd_committed (by decide) (by decide) (by decide), hbanks, (chrOnly_closeRecords false s).rd _ (.inl (by decide))]

theorem exec_init (s : State) : exec .init s = .next (updInit s) := rfl

theorem commitsAndBanks : CommitsAndBanks := by
  refine fun s tag => ⟨fun hl hc ho old u hread => ⟨fun hold => ?_, fun bs ok v hold hw => ⟨?_, ?_⟩⟩, fun h => ?_, fun h => ⟨commitAccept s, ?_⟩, fun h => congrArg Host.Outcome.next (if_neg (Bool.eq_false_iff.1 h)),
    fun h => congrArg Host.Outcome.next (if_pos h), fun h ok u hw => ?_⟩
  · rw [exec_controlBankWrite, withReads_of_eq (bankWrite_unread (bankDue_of hl hc ho) hread hold)]
  · rintro rfl
    rw [exec_controlBankWrite, withReads_of_eq (bankWrite_read (bankDue_of hl hc ho) hread hold hw), if_pos rfl]
  · rintro rfl
    rw [exec_controlBankWrite, withReads_of_eq (bankWrite_read (bankDue_of hl hc ho) hread hold hw), if_neg (by decide)]
  · rw [exec_controlBankWrite, withReads_of_eq_self (bankWrite_not_due (bankDue_eq_false h))]
  · obtain ⟨hcnt, hlaunched, hbanks, hlat, hheld, hlast⟩ := commitAccept_spec s
    obtain ⟨hcbank, hpbank⟩ := bits_flippedBanks (outcome s == 1) (stepCnt s + 1) (s.rd 0x6008)
    refine ⟨congrArg Host.Outcome.next (if_pos h), hcnt, hlaunched, ?_, ?_, hlat, hheld, hlast⟩
    · rw [State.fld, hbanks, hcbank, State.fld]
    · rw [State.fld, hbanks, hpbank, State.fld]
      simp only [beq_iff_eq]
  · rw [exec_init, updInit, if_neg (Bool.eq_false_iff.1 h), hw]

end

/-- Settles O54: a batch and a sweep's end by the branches of the model, COMMIT by what its last act, the cursors and a plate that it triggers, leaves of the step. That what a command reads through the mesh is waited for, that a held limb's sweep fails, and that INIT in a launched step is counted in REFUSED, are the model's choice (SPEC.md, entries 91, 99 and 42). -/
theorem updateSweeps : Obligations.UpdateSweeps := ⟨sweeps, commitsAndBanks⟩

end Sys2Proof.Machine
end

section
/-! Launch rings: doorbells, enabling, and the fetch of a command (R763, R765 to R768). -/

namespace Sys2Proof.Machine
open Sys2Proof.Claims

/-! ### Doorbells and enabling (R763, R766) -/

section
variable {ring : Nat} {s : State}

theorem exec_doorbell (hr : ring < 64) (hu : hostUp s = true) (hd : domeState s ≠ 3) (prod : Half) : exec (.doorbell ring prod) s = .next (s.setFld (rLrStat ring) 63 32 prod.toNat) :=
  congrArg Host.Outcome.next (if_pos (by simp [hr, hu, hd]))

theorem exec_doorbell_ignored (h : 64 ≤ ring ∨ hostUp s = false ∨ domeState s = 3) (prod : Half) : exec (.doorbell ring prod) s = .next s := by
  refine congrArg Host.Outcome.next (if_neg ?_)
  rcases h with h | h | h
  · simp [h]
  · simp [h]
  · simp [h]

theorem exec_launchRingEnable_ignored (h : 64 ≤ ring ∨ hostUp s = false ∨ writable s (rLrCtl ring) = false) : exec (.launchRingEnable ring) s = .next s := by
  refine congrArg Host.Outcome.next (if_neg ?_)
  rcases h with h | h | h
  · simp [h]
  · simp [h]
  · simp [h]

theorem exec_launchRingEnable (hr : ring < 64) (hu : hostUp s = true) (hw : writable s (rLrCtl ring) = true) :
    exec (.launchRingEnable ring) s = .next (lrCtlWrite ring (setBits (s.rd (rLrCtl ring)) 63 63 1) s) :=
  congrArg Host.Outcome.next (if_pos (by simp [hr, hu, hw]))

/-- The state after a ring has been enabled: EN stands, and PROD, CONS and what stopped the ring are cleared. -/
def ringEnabled (ring : Nat) (v : Word) (s : State) : State :=
  (((plainWrite s (rLrCtl ring) v).modHost fun h => { h with cmds := terase h.cmds ring }).wr (rLrStat ring) 0).wr (rLrErr ring) 0

theorem lrCtlWrite_enables {v : Word} (hen : s.flag (rLrCtl ring) 63 = false) (hv : bit v 63 = true) : lrCtlWrite ring v s = ringEnabled ring v s := by
  have hwas : s.flag (0x1008 + 0x40 * ring) 63 = false := hen
  rw [lrCtlWrite, hwas, hv]
  rfl

/-- The registers of a ring are four. -/
theorem lrRegs_ne (ring : Nat) : rLrCtl ring ≠ rLrStat ring ∧ rLrCtl ring ≠ rLrErr ring ∧ rLrStat ring ≠ rLrErr ring := by
  simp only [rLrCtl, rLrStat, rLrErr]
  omega

/-- EN of a ring is a field that a write stores. -/
theorem enable_mem_regFields (hr : ring < 64) : ⟨63, 63, .rw, 0, false⟩ ∈ regFields (rLrCtl ring) := by
  have hall : ∀ i < 64, (⟨63, 63, .rw, 0, false⟩ : RField) ∈ regFields (rLrCtl i) := by decide +kernel
  exact hall ring hr

theorem flag_plainWrite_enable (hr : ring < 64) (v : Word) (s : State) : (plainWrite s (rLrCtl ring) v).flag (rLrCtl ring) 63 = bit v 63 := by
  have hen : bits ((plainWrite s (rLrCtl ring) v).rd (rLrCtl ring)) 63 63 = bits v 63 63 := fld_plainWrite_of_rw _ (enable_mem_regFields hr) v (.inl rfl)
  rw [State.flag, bit_eq_testBit_bits _ le_rfl le_rfl, hen, ← bit_eq_testBit_bits _ le_rfl le_rfl]

theorem ringEnabled_spec (hr : ring < 64) {v : Word} (hv : bit v 63 = true) : (ringEnabled ring v s).flag (rLrCtl ring) 63 = true ∧ (ringEnabled ring v s).rd (rLrStat ring) = 0 ∧
    (ringEnabled ring v s).rd (rLrErr ring) = 0 ∧ ∀ off, off ≠ rLrCtl ring → off ≠ rLrStat ring → off ≠ rLrErr ring → (ringEnabled ring v s).rd off = s.rd off := by
  obtain ⟨hcs, hce, hse⟩ := lrRegs_ne ring
  have hother : ∀ off, off ≠ rLrStat ring → off ≠ rLrErr ring → (ringEnabled ring v s).rd off = (plainWrite s (rLrCtl ring) v).rd off := fun off h1 h2 =>
    (State.rd_wr_ne _ _ h2.symm).trans (State.rd_wr_ne _ _ h1.symm)
  exact ⟨(State.flag_congr (hother _ hcs hce) 63).trans ((flag_plainWrite_enable hr v s).trans hv), (State.rd_wr_ne _ _ hse.symm).trans (State.rd_wr_self ..), State.rd_wr_self ..,
    fun off hc hs he => (hother off hs he).trans (rd_plainWrite_ne _ _ hc)⟩

/-! ### The fetch of a command (R765 to R768) -/

/-- The host read of the command at CONS (R765). -/
def lrFetch (ring : Nat) (s : State) : Out := .hostRead (s.fld (rLrBase ring) 63 12 * 4096 + 64 * (lrCons s ring % lrEntries s ring)) 64 (freshTag s.hreqs) false

theorem exec_commandFetch_idle (h : lrRuns s ring = false ∨ hostUp s = false ∨ lrProd s ring = lrCons s ring) (ws : Option (List Word)) : exec (.commandFetch ring ws) s = .next s := by
  refine if_pos ?_
  rcases h with h | h | h
  · simp [h]
  · simp [h]
  · simp [h]

section
variable (hr : lrRuns s ring = true) (hu : hostUp s = true) (hp : lrProd s ring ≠ lrCons s ring) (hk : tfind s.host.cmds ring = none)
include hr hu hp hk

theorem exec_commandFetch_overrun (ho : lrEntries s ring < (lrProd s ring + 2 ^ 32 - lrCons s ring) % 2 ^ 32) (ws : Option (List Word)) : exec (.commandFetch ring ws) s = .next (lrStop ring 1 s) :=
  (if_neg (by simp [hr, hu, hp, hk])).trans (if_pos ho)

theorem exec_commandFetch (ho : (lrProd s ring + 2 ^ 32 - lrCons s ring) % 2 ^ 32 ≤ lrEntries s ring) (ws : Option (List Word)) :
    exec (.commandFetch ring ws) s = .next (match ws with | none => lrStop ring 2 (s.emit (lrFetch ring s)) | some ws => lrTake ring ws (s.emit (lrFetch ring s))) := by
  refine (if_neg (by simp [hr, hu, hp, hk])).trans ((if_neg (Nat.not_lt.2 ho)).trans ?_)
  cases ws with
  | none => rfl
  | some ws => rfl

end

theorem lrRuns_lt (h : lrRuns s ring = true) : ring < 64 := by
  simp only [lrRuns, Bool.and_eq_true, decide_eq_true_eq] at h
  exact h.1.1

/-- A ring that stops shows its cause, and keeps PROD and CONS. -/
theorem lrStop_spec (hr : ring < 64) {cause : Nat} (hc : cause < 256) (s : State) : (lrStop ring cause s).flag (rLrErr ring) 63 = true ∧ (lrStop ring cause s).fld (rLrErr ring) 55 48 = cause ∧
    lrCons (lrStop ring cause s) ring = lrCons s ring ∧ (lrStop ring cause s).out = s.out := by
  obtain ⟨-, -, hse⟩ := lrRegs_ne ring
  have hlt : rLrStat ring < 0x8000 ∧ rLrErr ring < 0x8000 := by
    simp only [rLrStat, rLrErr]
    omega
  have hrd : ∀ off < 0x8000, (lrStop ring cause s).rd off = ((s.setFld (rLrErr ring) 63 63 1).setFld (rLrErr ring) 55 48 cause).rd off := fun off ho =>
    (rd_nlogEvent_ne _ _ _ _ _ _ (.inl (by omega))).trans ((errorsOnly_raise ..).rd off ho)
  refine ⟨?_, ?_, ?_, ?_⟩
  · rw [State.flag_congr (hrd _ hlt.2), State.flag_setFld_ne _ _ _ _ _ _ _ (by decide) (by decide) (.inr (.inr (by decide))), State.flag_setFld_mem _ _ _ _ _ _ (by decide) (by decide) (by decide)]
    rfl
  · rw [State.fld_congr (hrd _ hlt.2), State.fld_setFld_self _ _ _ _ _ (by decide) (by decide)]
    exact Nat.mod_eq_of_lt hc
  · exact State.fld_congr ((hrd _ hlt.1).trans ((State.rd_setFld_ne _ _ _ _ hse.symm).trans (State.rd_setFld_ne _ _ _ _ hse.symm))) ..
  · have hraise : ReportsOnly ((s.setFld (rLrErr ring) 63 63 1).setFld (rLrErr ring) 55 48 cause) _ := reportsOnly_raise (domLimb (hostLimb s)) 1 10 0x0603 (wd (ring * 256 + cause))
    rw [lrStop, nlogEvent_rest, hraise]
    rfl

/-- Records of clamps change nothing but their queue, and its registers (R784). -/
structure ClampsOnly (s t : State) : Prop where
  rest : t = { s with regs := t.regs, rings := t.rings, report := t.report }
  rd : ∀ off, off < 0x900 ∨ 0x1000 ≤ off → t.rd off = s.rd off

theorem ClampsOnly.trans {t u : State} (h : ClampsOnly s t) (k : ClampsOnly t u) : ClampsOnly s u := by
  refine ⟨?_, fun off ho => (k.rd off ho).trans (h.rd off ho)⟩
  have hrest := k.rest
  rw [h.rest] at hrest
  exact hrest

theorem clampsOnly_clampRecord (source stype unit entry report nth : Nat) (c : Clamp) (s : State) : ClampsOnly s (clampRecord source stype unit entry report nth c s) := by
  refine ⟨?_, fun off ho => rd_ringPush_ne _ _ (by simp only [ringClamp]; omega) (by simp only [ringClamp]; omega)⟩
  rw [clampRecord, ringPush_rest]

theorem clampsOnly_clampRecords (source stype unit report nth : Nat) (cl : List (Nat × Clamp)) (s : State) : ClampsOnly s (clampRecords source stype unit report nth cl s) := by
  induction cl generalizing nth s with
  | nil => exact ⟨rfl, fun _ _ => rfl⟩
  | cons p cl ih => exact (clampsOnly_clampRecord ..).trans (ih ..)

theorem clampsOnly_clampReport (source stype unit : Nat) (cl : List (Nat × Clamp)) (s : State) : ClampsOnly s (clampReport source stype unit cl s).2 := by
  unfold clampReport
  split
  · exact ⟨rfl, fun _ _ => rfl⟩
  · exact ClampsOnly.trans (t := { s with report := (s.report + 1) % 2 ^ 32 }) ⟨rfl, fun _ _ => rfl⟩ (clampsOnly_clampRecords ..)

/-- A command that is taken stands, as it was checked, until it is issued. -/
theorem lrTake_spec (ring : Nat) (ws : List Word) (s : State) : (∃ k, tfind (lrTake ring ws s).host.cmds ring = some k ∧ k.words = nWords 8 (checkEntry (lrRules (wordsN (padWords 8 ws))) (wordsN (padWords 8 ws))).1) ∧
    lrCons (lrTake ring ws s) ring = lrCons s ring ∧ (lrTake ring ws s).out = s.out := by
  have hclamps := clampsOnly_clampReport 4 0x14 0xFF ((checkEntry (lrRules (wordsN (padWords 8 ws))) (wordsN (padWords 8 ws))).2.map fun k => (lrCons s ring, k)) s
  refine ⟨⟨_, tfind_tset_self .., rfl⟩, State.fld_congr (hclamps.rd _ (.inr (by simp only [rLrStat]; omega))) .., ?_⟩
  change (clampReport ..).2.out = _
  rw [hclamps.rest]

end

theorem launchRings : LaunchRings := by
  refine fun ring s => ⟨fun prod => ⟨fun hr hu hd => exec_doorbell hr hu hd prod, fun h => exec_doorbell_ignored h prod⟩, fun hr hu hw hen => ?_, exec_launchRingEnable_ignored,
    fun h ws => exec_commandFetch_idle h ws, fun hr hu hp hk => ⟨fun ho ws => ?_, fun ho => ⟨freshTag s.hreqs, ?_, fun ws => ?_⟩⟩⟩
  · have hv : bit (setBits (s.rd (rLrCtl ring)) 63 63 1) 63 = true := bit_setBits_mem _ _ _ _ _ (by decide) (by decide) (by decide)
    obtain ⟨hflag, hstat, herr, hother⟩ := ringEnabled_spec (s := s) hr hv
    refine ⟨_, (exec_launchRingEnable hr hu hw).trans (congrArg Host.Outcome.next (lrCtlWrite_enables hen hv)), hflag, ?_, ?_, herr, hother⟩
    · rw [lrProd, State.fld, hstat]
      rfl
    · rw [lrCons, State.fld, hstat]
      rfl
  · exact ⟨_, exec_commandFetch_overrun hr hu hp hk ho ws, lrStop_spec (lrRuns_lt hr) (by decide) s⟩
  · obtain ⟨hflag, hcause, hcons, hout⟩ := lrStop_spec (lrRuns_lt hr) (cause := 2) (by decide) (s.emit (lrFetch ring s))
    exact ⟨_, exec_commandFetch hr hu hp hk ho none, hflag, hcause, hcons, hout⟩
  · obtain ⟨⟨k, hfind, hwords⟩, hcons, hout⟩ := lrTake_spec ring ws (s.emit (lrFetch ring s))
    exact ⟨_, k, exec_commandFetch hr hu hp hk ho (some ws), hfind, hwords, hcons, hout⟩

end Sys2Proof.Machine
end

section
/-! The issue of a launch ring's command: CONS, the command's effect and its record (R769, R770, R776, R777). -/

namespace Sys2Proof.Machine
open Sys2Proof.Claims

section
variable {ring op : Nat} {s : State} {k : LrCmd} {act : LrCmd → State → Nat × State}

/-! ### Issue (R769) -/

theorem lrIssue_none (h : lrReady s ring op = none) (act : LrCmd → State → Nat × State) : lrIssue ring op act s = s := by
  rw [lrIssue, h]

/-- A command that is issued acts once CONS has moved on; its record names its own report, or that of a LOAD that clamped. -/
theorem lrIssue_some (h : lrReady s ring op = some k) (act : LrCmd → State → Nat × State) : ∃ report n,
    lrIssue ring op act s = lrRecord ring (lrCq s ring) (act k (issued ring s)).1 k (lrCons s ring) report n (sidereal s) (act k (issued ring s)).2 := by
  rw [lrIssue, h]
  exact ⟨_, _, rfl⟩

theorem lrIssue_some_of_ne (h : lrReady s ring op = some k) (ho : op ≠ 5) (act : LrCmd → State → Nat × State) :
    lrIssue ring op act s = lrRecord ring (lrCq s ring) (act k (issued ring s)).1 k (lrCons s ring) k.report k.nclamp (sidereal s) (act k (issued ring s)).2 := by
  have hown : (op == 5) = false := beq_false_of_ne ho
  rw [lrIssue, h]
  simp only [hown, Bool.false_and]
  rfl

theorem exec_lrPlan (ring : Nat) (s : State) : exec (.lrPlan ring) s = .next (withReads (lrIssue ring 4 (lrEffect 4 ring)) s) := rfl

theorem exec_lrWrite (ring : Nat) (s : State) : exec (.lrWrite ring) s = .next (withReads (lrIssue ring 8 (lrEffect 8 ring)) s) := rfl

theorem exec_load (ring : Nat) (x : Option (List Byte)) (s : State) :
    exec (.load ring x) s = .next (withReads (lrIssue ring 5 fun k t => doLoad (lrW k 1) (lrW k 2) (lrW k 3) x t) s) := rfl

/-- What LAUNCH answers: its status, and the launch where that is OK (R775). -/
def launchEffect (k : LrCmd) (t : State) : Nat × State := (launchStatus (lrW k 1) t, if launchStatus (lrW k 1) t = 0 then launchAccept t else t)

theorem exec_launch (ring : Nat) (s : State) : exec (.launch ring) s =
    if pltPhase s = 1 ∧ launchStatus (((lrReady s ring 1).map fun k => lrW k 1).getD 0) s = 0 then .next s else .next (lrIssue ring 1 launchEffect s) := rfl

/-- A command that is neither LAUNCH nor LOAD is issued with what its OP does; PLAN and WRITE wait for what they read. -/
theorem exec_ringCommand {i : Instr} (hi : RingCommand i ring op) (h1 : op ≠ 1) (h5 : op ≠ 5) (s : State) :
    exec i s = .next (if op = 4 ∨ op = 8 then withReads (lrIssue ring op (lrEffect op ring)) s else lrIssue ring op (lrEffect op ring) s) := by
  rcases hi with ⟨rfl, rfl⟩ | ⟨-, rfl⟩ | ⟨rfl, rfl⟩ | ⟨rfl, rfl⟩ | ⟨rfl, rfl⟩ | ⟨-, rfl⟩ | ⟨rfl, rfl⟩ | ⟨rfl, rfl⟩ | ⟨rfl, rfl⟩
  · rfl
  · exact absurd rfl h1
  · rfl
  · rfl
  · exact exec_lrPlan ring s
  · exact absurd rfl h5
  · rfl
  · rfl
  · exact exec_lrWrite ring s

/-- A ring without the command asked does nothing. -/
theorem exec_ringCommand_none {i : Instr} (hi : RingCommand i ring op) (h : lrReady s ring op = none) : exec i s = .next s := by
  by_cases h1 : op = 1
  · subst h1
    obtain rfl : i = .launch ring := by simpa [RingCommand] using hi
    rw [exec_launch, lrIssue_none h, ite_self]
  by_cases h5 : op = 5
  · subst h5
    obtain ⟨x, rfl⟩ : ∃ x, i = .load ring x := by simpa [RingCommand] using hi
    rw [exec_load, withReads_of_eq_self (lrIssue_none h _)]
  · rw [exec_ringCommand hi h1 h5, lrIssue_none h, withReads_of_eq_self (lrIssue_none h _), ite_self]

theorem exec_ringCommand_some {i : Instr} (hi : RingCommand i ring op) (h1 : op ≠ 1) (h5 : op ≠ 5) (h : lrReady s ring op = some k) {t : State}
    (ht : t = lrRecord ring (lrCq s ring) (lrEffect op ring k (issued ring s)).1 k (lrCons s ring) k.report k.nclamp (sidereal s) (lrEffect op ring k (issued ring s)).2) :
    exec i s = .next (if op = 4 ∨ op = 8 then withReads (fun _ => t) s else t) := by
  have hissue : lrIssue ring op (lrEffect op ring) s = t := (lrIssue_some_of_ne h h5 _).trans ht.symm
  rw [exec_ringCommand hi h1 h5, hissue, withReads_of_eq hissue]

theorem exec_ringCommand_at_once {i : Instr} (hi : RingCommand i ring op) (h1 : op ≠ 1) (h5 : op ≠ 5) (hn : ¬ (op = 4 ∨ op = 8)) (h : lrReady s ring op = some k) {st : Nat} {u : State}
    (he : lrEffect op ring k (issued ring s) = (st, u)) : exec i s = .next (lrRecord ring (lrCq s ring) st k (lrCons s ring) k.report k.nclamp (sidereal s) u) := by
  rw [exec_ringCommand_some hi h1 h5 h rfl, if_neg hn, he]

/-! ### The command's record (R777) -/

variable {cq st idx report n : Nat} {now : Word}

theorem lrRecord_rest (ring cq st : Nat) (k : LrCmd) (idx report n : Nat) (now : Word) (s : State) :
    lrRecord ring cq st k idx report n now s = { s with regs := (lrRecord ring cq st k idx report n now s).regs, rings := (lrRecord ring cq st k idx report n now s).rings } := by
  unfold lrRecord
  dsimp only
  split
  · exact ringPush_rest ..
  · rfl

theorem rd_lrRecord_ne {off : Nat} (h : off < 0xD000 ∨ 0xE000 ≤ off) : (lrRecord ring cq st k idx report n now s).rd off = s.rd off := by
  unfold lrRecord
  dsimp only
  split
  · exact rd_ringPush_ne _ _ (by simp only [ringCq]; omega) (by simp only [ringCq]; omega)
  · rfl

theorem rd_lrRecord_head (hcq : cq < 64) (u : State) : (lrRecord ring cq st k idx report n now s).rd (ringCq u cq).head =
    s.rd (ringCq u cq).head + if bit (lrW k 0) 55 = true ∨ st ≠ 0 then 1 else 0 := by
  unfold lrRecord
  dsimp only
  split
  · have hpush := rd_ringPush_head (r := ringCq s (cq % 64)) (wd (5 * 2 ^ 56 + ring * 2 ^ 48) ::
      padWords 14 (padWords 8 [wd (bits (lrW k 0) 63 56 * 2 ^ 56 + st * 2 ^ 52 + bits (lrW k 0) 31 0), wd (report * 2 ^ 32 + min n 65535 * 2 ^ 16), wd idx, now])) s (by simp only [ringCq]; omega)
    rw [Nat.mod_eq_of_lt hcq] at hpush
    rw [postTo, Nat.mod_eq_of_lt hcq, if_pos ‹_›]
    exact hpush
  · rw [if_neg ‹_›]
    exact (add_zero _).symm

theorem lrCq_lt (s : State) (ring : Nat) : lrCq s ring < 64 := bits_lt ..

/-! ### CONS (R766) -/

theorem lrReady_lt (h : lrReady s ring op = some k) : ring < 64 := by
  unfold lrReady at h
  split at h
  · split_ifs at h with hc
    exact lrRuns_lt (Bool.and_eq_true_iff.1 hc).1
  · cases h

theorem rd_issued_ne {off : Nat} (h : rLrStat ring ≠ off) (s : State) : (issued ring s).rd off = s.rd off := State.rd_setFld_ne _ _ _ _ h

theorem lrCons_issued (ring : Nat) (s : State) : lrCons (issued ring s) ring = (lrCons s ring + 1) % 2 ^ 32 := State.fld_setFld_self _ _ _ _ _ (by decide) (by decide)

theorem rLrStat_range (h : ring < 64) : 0x1010 ≤ rLrStat ring ∧ rLrStat ring < 0x2000 := by
  simp only [rLrStat]
  omega

theorem lrCons_lrRecord (h : ring < 64) : lrCons (lrRecord ring cq st k idx report n now s) ring = lrCons s ring :=
  State.fld_congr (rd_lrRecord_ne (.inl (by have := rLrStat_range h; omega))) ..

/-! ### NOP and ABANDON (R769, R776) -/

/-- A NOP moves CONS on and leaves its record where CQ asks for one. -/
theorem lrNop_spec (h : ring < 64) (s : State) (k : LrCmd) {t : State} (ht : t = lrRecord ring (lrCq s ring) 0 k (lrCons s ring) k.report k.nclamp (sidereal s) (issued ring s)) :
    lrCons t ring = (lrCons s ring + 1) % 2 ^ 32 ∧ tfind t.host.cmds ring = none ∧
      t.rd (ringCq s (lrCq s ring)).head = s.rd (ringCq s (lrCq s ring)).head + (if bit (lrW k 0) 55 then 1 else 0) ∧ t.mem = s.mem ∧ t.cores = s.cores := by
  have hstat := rLrStat_range h
  have hhost : t.host = (issued ring s).host := by rw [ht, lrRecord_rest]
  refine ⟨?_, ?_, ?_, by rw [ht, lrRecord_rest]; rfl, by rw [ht, lrRecord_rest]; rfl⟩
  · rw [ht, lrCons_lrRecord h, lrCons_issued]
  · rw [hhost]
    exact tfind_terase_self ..
  · rw [ht, rd_lrRecord_head (lrCq_lt s ring), rd_issued_ne (by simp only [ringCq]; omega)]
    simp only [ne_eq, not_true_eq_false, or_false]

/-- ABANDON ends the launch and closes every record (R776). -/
theorem abandon_spec (s : State) : launched (abandon s) = false ∧ (∀ f < 84, ((abandon s).chrOf f).isOpen = false) ∧ ((abandon s).chrOf chrMod).isOpen = false ∧
    ChrOnly (s.setFld rHostStep 0 0 0) (abandon s) := by
  have honly := chrOnly_closeRecords true (s.setFld rHostStep 0 0 0)
  refine ⟨honly.launched.trans ?_, fun f hf => isOpen_closeRecords_field _ _ hf, isOpen_closeRecords_module .., honly⟩
  exact (State.flag_setFld_mem _ _ _ _ _ _ (by decide) (by decide) (by decide)).trans (Nat.zero_testBit 0)

theorem chrOf_lrRecord (u : Nat) : (lrRecord ring cq st k idx report n now s).chrOf u = s.chrOf u := by
  rw [State.chrOf, lrRecord_rest, State.chrOf]

theorem lrAbandon_spec (h : ring < 64) (s : State) (k : LrCmd) {t : State} (ht : t = lrRecord ring (lrCq s ring) 0 k (lrCons s ring) k.report k.nclamp (sidereal s) (abandon (issued ring s))) :
    launched t = false ∧ (∀ f < 84, (t.chrOf f).isOpen = false) ∧ (t.chrOf chrMod).isOpen = false ∧ lrCons t ring = (lrCons s ring + 1) % 2 ^ 32 ∧ t.mem = s.mem ∧ t.cores = s.cores := by
  obtain ⟨hlaunched, hfields, hmodule, honly⟩ := abandon_spec (issued ring s)
  have hstat := rLrStat_range h
  refine ⟨?_, fun f hf => ?_, ?_, ?_, ?_, ?_⟩
  · rw [ht, launched, State.flag_congr (rd_lrRecord_ne (.inl (by decide)))]
    exact hlaunched
  · rw [ht, chrOf_lrRecord, hfields f hf]
  · rw [ht, chrOf_lrRecord, hmodule]
  · rw [ht, lrCons_lrRecord h, ← lrCons_issued ring s]
    exact State.fld_congr ((honly.rd _ (.inl (by omega))).trans (State.rd_setFld_ne _ _ _ _ (by change 0x20 ≠ _; omega))) ..
  · rw [ht, lrRecord_rest, honly.rest]
    rfl
  · rw [ht, lrRecord_rest, honly.rest]
    rfl

end

theorem ringCommands : RingCommands := by
  refine fun i ring op s hi => ⟨exec_ringCommand_none hi, fun k hk => ⟨fun h1 h5 t => exec_ringCommand_some hi h1 h5 hk, ?load, ?nop, ?abandon⟩⟩
  case load =>
    rintro rfl x rfl
    obtain ⟨report, n, hissue⟩ := lrIssue_some hk fun k t => doLoad (lrW k 1) (lrW k 2) (lrW k 3) x t
    exact ⟨report, n, by rw [exec_load, withReads_of_eq hissue]⟩
  case nop =>
    rintro rfl
    exact ⟨_, exec_ringCommand_at_once hi (by decide) (by decide) (by decide) hk rfl, lrNop_spec (lrReady_lt hk) s k rfl⟩
  case abandon =>
    rintro rfl
    have heffect : lrEffect 2 ring k (issued ring s) = (0, abandon (issued ring s)) := rfl
    exact ⟨_, exec_ringCommand_at_once hi (by decide) (by decide) (by decide) hk heffect, lrAbandon_spec (lrReady_lt hk) s k rfl⟩

end Sys2Proof.Machine
end

section
/-! A launch reaches the limbs and the fields: what each takes, and what it leaves unchanged (R553, R561, R573, R733, R739, R775, R781). -/

namespace Sys2Proof.Machine
open Sys2Proof.Claims

/-! ### What an engine's look at a byte leaves unchanged (R364, R383) -/

/-- An offset that no limb's error record holds, nor the module's error registers and night log. -/
def AwayFromErrors (off : Nat) : Prop := (off < 0x8090 ∨ 0x9000 ≤ off) ∧ ∀ l : LimbId, off < limbBase l.val + 0x5000 ∨ limbBase l.val + 0x5040 < off

/-- From s to t the launch's samples, the Chronograph's records and every register but those of errors stand. -/
structure LookOnly (s t : State) : Prop where
  samp : t.samp = s.samp
  chr : t.chr = s.chr
  rd : ∀ off, AwayFromErrors off → t.rd off = s.rd off

section
variable {s t u : State}

theorem lookOnly_refl (s : State) : LookOnly s s := ⟨rfl, rfl, fun _ _ => rfl⟩

theorem LookOnly.trans (h : LookOnly s t) (k : LookOnly t u) : LookOnly s u := ⟨k.samp.trans h.samp, k.chr.trans h.chr, fun off ho => (k.rd off ho).trans (h.rd off ho)⟩

theorem errBase_limb (l : LimbId) : errBase (.limb l) = limbBase l.val + 0x5000 := rfl

theorem rd_errRefresh_limb (l : LimbId) (s : State) {off : Nat} (h : AwayFromErrors off) : (errRefresh (.limb l) s).rd off = s.rd off := by
  obtain ⟨hmod, hlimb⟩ := h
  have hl := hlimb l
  refine (State.rd_setFld_ne _ _ _ _ ?_).trans (State.rd_setFld_ne _ _ _ _ ?_)
  · simp only [rErrSum1]
    omega
  · rw [errBase_limb]
    omega

theorem rd_takeRecord_limb (l : LimbId) {a : Nat} (ha : a ≤ 0x28) (cls unit cause : Nat) (info : Word) (s : State) {off : Nat} (h : AwayFromErrors off) :
    (takeRecord (.limb l) (errBase (.limb l) + a) cls unit cause info s).rd off = s.rd off := by
  obtain ⟨hmod, hlimb⟩ := h
  have hl := hlimb l
  refine (rd_nlog_ne _ _ _ _ _ _ _ _ _ _ _ (by omega)).trans (rd_wr4_ne _ _ fun k hk => ?_)
  rw [errBase_limb]
  omega

/-- An error at a limb changes of the registers those of its record and of the night log (R621). -/
theorem rd_recordError_limb (l : LimbId) (cls unit cause : Nat) (info : Word) (s : State) {off : Nat} (h : AwayFromErrors off) : (recordError (.limb l) cls unit cause info s).rd off = s.rd off := by
  have hbase : ∀ a ≤ 0x28, errBase (.limb l) + a ≠ off := fun a ha => by
    have hl := h.2 l
    rw [errBase_limb]
    omega
  have htake : ∀ a ≤ 0x28, ∀ v, (errRefresh (.limb l) (takeRecord (.limb l) (errBase (.limb l) + a) cls unit cause info v)).rd off = v.rd off := fun a ha v =>
    (rd_errRefresh_limb l _ h).trans (rd_takeRecord_limb l ha _ _ _ _ v h)
  have hcount : ∀ hi lo, (s.satFld (errBase (.limb l)) hi lo 1).rd off = s.rd off := fun hi lo => rd_satFld_ne _ _ _ _ (hbase 0 (by decide))
  obtain ⟨hmod, -⟩ := h
  unfold recordError
  dsimp only
  split_ifs
  · exact rd_satFld_ne _ _ _ _ (hbase 8 (by decide))
  · exact rd_satFld_ne _ _ _ _ (hbase 0x28 (by decide))
  · exact htake _ (by decide) s
  · exact htake _ (by decide) s
  · exact (htake _ (by decide) _).trans (hcount 47 32)
  · exact (rd_nlog_ne _ _ _ _ _ _ _ _ _ _ _ (by omega)).trans (hcount 47 32)
  · exact State.rd_addFld_ne _ _ _ _ (hbase 0 (by decide))

/-- A deferred error of a limb is recorded, and no more: a limb's record makes nothing fatal (R616, R622). -/
theorem raise_deferred_limb (l : LimbId) (unit cause : Nat) (info : Word) (s : State) : raise (.limb l) 1 unit cause info s = recordError (.limb l) 1 unit cause info s := by
  have haway : AwayFromErrors rModFault := ⟨.inl (by decide), fun l => .inl (by unfold limbBase rModFault; omega)⟩
  have hfatal : fatal (recordError (.limb l) 1 unit cause info s) = fatal s := State.flag_congr (rd_recordError_limb l _ _ _ _ s haway) 1
  unfold raise
  simp [hfatal]

theorem lookOnly_addrError (l a : Nat) (s : State) : LookOnly s (addrError l a s) := by
  have hrest : ReportsOnly s (addrError l a s) := reportsOnly_raise ..
  refine ⟨by rw [hrest], by rw [hrest], fun off ho => ?_⟩
  rw [addrError, domLimb, raise_deferred_limb]
  exact rd_recordError_limb _ _ _ _ _ s ho

theorem lookOnly_byteUse (l a : Nat) (s : State) : LookOnly s (byteUse l a s) := by
  unfold byteUse
  split
  · exact ⟨rfl, rfl, fun _ _ => rfl⟩
  · exact lookOnly_addrError l a s
  · exact lookOnly_refl s

/-- Staged loads fill the work area (R781). -/
theorem lookOnly_applyStaged (l : Nat) (s : State) : LookOnly s (applyStaged l s) :=
  List.foldlRecOn (motive := LookOnly s) _ _ ⟨rfl, rfl, fun _ _ => rfl⟩ fun _ ht _ _ => ht.trans ⟨rfl, rfl, fun _ _ => rfl⟩

end

/-! ### The launch reaches the limbs (R573, R775) -/

theorem awayFromErrors_limbOn (l : Nat) (hl : l < 8) : AwayFromErrors (limbBase l + 0x6000) := by
  refine ⟨.inr ?_, fun k => ?_⟩
  · unfold limbBase
    omega
  · unfold limbBase
    omega

theorem awayFromErrors_rUpdLstat {l : Nat} (hl : l < 8) : AwayFromErrors (rUpdLstat l) := by
  refine ⟨.inr ?_, fun k => ?_⟩
  · unfold rUpdLstat limbBase
    omega
  · unfold rUpdLstat limbBase
    omega

/-- From s to t the listed limbs' update engines await the step where the limb is powered, and idle elsewhere; samples, records and the other registers but those of errors stand. -/
structure LimbsLaunched (ls : List Nat) (s t : State) : Prop where
  samp : t.samp = s.samp
  chr : t.chr = s.chr
  rd : ∀ off, AwayFromErrors off → (∀ l ∈ ls, rUpdLstat l ≠ off) → t.rd off = s.rd off
  sweep : ∀ l ∈ ls, sweepOf t l = if limbOn s l then 1 else 0

section
variable {s t u : State} {l : Nat} {ls : List Nat}

theorem limbsLaunched_wr (h : LookOnly s t) {w : Word} (hw : bits w 2 0 = if limbOn s l then 1 else 0) : LimbsLaunched [l] s (t.wr (rUpdLstat l) w) where
  samp := h.samp
  chr := h.chr
  rd off ho hne := (State.rd_wr_ne _ _ (hne l List.mem_cons_self)).trans (h.rd off ho)
  sweep k hk := by
    rw [List.mem_singleton.1 hk, ← hw]
    exact congrArg (bits · 2 0) (State.rd_wr_self ..)

theorem LimbsLaunched.modLimb (h : LimbsLaunched ls s t) (k : Nat) (f : Limb → Limb) : LimbsLaunched ls s (t.modLimb k f) := ⟨h.samp, h.chr, h.rd, h.sweep⟩

theorem limbsLaunched_launchLimb (l : Nat) (s : State) : LimbsLaunched [l] s (launchLimb l s) := by
  unfold launchLimb
  split
  · exact (limbsLaunched_wr ((lookOnly_applyStaged l s).trans (lookOnly_byteUse ..)) (by rw [if_pos ‹_›]; decide)).modLimb l _
  · exact limbsLaunched_wr (lookOnly_refl s) (by rw [if_neg ‹_›]; decide)

theorem rUpdLstat_ne_limbOn (k l : Nat) : rUpdLstat k ≠ limbBase l + 0x6000 := by
  unfold rUpdLstat limbBase
  omega

theorem LimbsLaunched.cons (hls : ∀ k ∈ l :: ls, k < 8) (h : LimbsLaunched [l] s t) (h' : LimbsLaunched ls t u) : LimbsLaunched (l :: ls) s u where
  samp := h'.samp.trans h.samp
  chr := h'.chr.trans h.chr
  rd off ho hne := (h'.rd off ho fun k hk => hne k (List.mem_cons_of_mem _ hk)).trans (h.rd off ho fun k hk => hne k (by rw [List.mem_singleton.1 hk]; exact List.mem_cons_self))
  sweep k hk := by
    have hk8 := hls k hk
    by_cases hmem : k ∈ ls
    · rw [h'.sweep k hmem, limbOn_congr (h.rd _ (awayFromErrors_limbOn k hk8) fun j _ => rUpdLstat_ne_limbOn j k)]
    · obtain rfl : k = l := (List.mem_cons.1 hk).resolve_right hmem
      have hkept := h'.rd (rUpdLstat k) (awayFromErrors_rUpdLstat hk8) fun j hj e => hmem (rUpdLstat_inj e ▸ hj)
      exact (sweepOf_congr hkept).trans (h.sweep k List.mem_cons_self)

theorem limbsLaunched_forEach (ls : List Nat) (hls : ∀ k ∈ ls, k < 8) (s : State) : LimbsLaunched ls s (forEach ls launchLimb s) := by
  induction ls generalizing s with
  | nil => exact ⟨rfl, rfl, fun _ _ _ => rfl, fun _ h => absurd h List.not_mem_nil⟩
  | cons l ls ih => exact (limbsLaunched_launchLimb l s).cons hls (ih (fun k hk => hls k (List.mem_cons_of_mem _ hk)) _)

end

/-! ### The launch reaches the fields (R111, R733, R739) -/

/-- From s to t each listed field has an open record of the step and its mapped cores hold the step counter; the samples, the other fields' records, the cores' identities and the registers below the field blocks stand, but those of the
night log and of the Chronograph's queue. -/
structure FieldsLaunched (fs : List Nat) (s t : State) : Prop where
  samp : t.samp = s.samp
  rd : ∀ off, off < 0x8108 ∨ (0xD000 ≤ off ∧ off < 0x1000000) → t.rd off = s.rd off
  ids : ∀ c, t.rd (rCoreId c) = s.rd (rCoreId c)
  opened : ∀ f ∈ fs, (t.chrOf f).isOpen = true ∧ (t.chrOf f).step = stepCnt s
  other : ∀ f, f ∉ fs → t.chrOf f = s.chrOf f
  steps : ∀ f ∈ fs, ∀ c ∈ mappedOf s f, t.rd (rCoreStep c) = stepCnt s
  kept : ∀ c, t.rd (rCoreStep c) = s.rd (rCoreStep c) ∨ t.rd (rCoreStep c) = stepCnt s

theorem coreMapped_congr {s t : State} (h : ∀ c, t.rd (rCoreId c) = s.rd (rCoreId c)) : coreMapped t = coreMapped s := funext fun c => State.flag_congr (h c) 35

theorem mappedOf_congr {s t : State} (h : ∀ c, t.rd (rCoreId c) = s.rd (rCoreId c)) (f : Nat) : mappedOf t f = mappedOf s f := by rw [mappedOf, mappedOf, coreMapped_congr h]

theorem hasMapped_congr {s t : State} (h : ∀ c, t.rd (rCoreId c) = s.rd (rCoreId c)) (f : Nat) : hasMapped t f = hasMapped s f := by rw [hasMapped, hasMapped, coreMapped_congr h]

/-- CORE_STEP of the listed cores becomes w (R111). -/
def stepsSet (cs : List Nat) (w : Word) (s : State) : State := forEach cs (fun c t => t.wr (rCoreStep c) w) s

section
variable {s t u : State} {f : Nat} {fs : List Nat}

theorem stepsSet_rest (cs : List Nat) (w : Word) (s : State) : stepsSet cs w s = { s with regs := (stepsSet cs w s).regs } :=
  forEach_induction (P := fun t : State => t = { s with regs := t.regs }) (f := fun c t => t.wr (rCoreStep c) w) (fun _ t ht => by rw [ht]; rfl) cs rfl

theorem rd_stepsSet (cs : List Nat) (w : Word) (s : State) (off : Nat) : (stepsSet cs w s).rd off = if ∃ c ∈ cs, rCoreStep c = off then w else s.rd off := by
  induction cs generalizing s with
  | nil => exact (if_neg (by simp)).symm
  | cons c cs ih =>
    rw [show stepsSet (c :: cs) w s = stepsSet cs w (s.wr (rCoreStep c) w) from rfl, ih]
    by_cases hc : rCoreStep c = off
    · rw [hc, State.rd_wr_self, ite_self, if_pos ⟨c, List.mem_cons_self, hc⟩]
    · rw [State.rd_wr_ne _ _ hc]
      simp only [List.exists_mem_cons_iff, hc, false_or]

theorem launchOne_eq (f : Nat) (s : State) : launchOne f s = launchField f (stepsSet (mappedOf s f) (stepCnt s) s) := rfl

/-- A field that the launch reaches keeps every register but CHR_NOW and those of the queues that take records, and every other unit keeps its record. -/
theorem launchField_spec (f : Nat) (s : State) : (launchField f s).samp = s.samp ∧ (∀ off, off < 0x8108 ∨ 0xD000 ≤ off → rChrNow f ≠ off → (launchField f s).rd off = s.rd off) ∧
    ((launchField f s).chrOf f).isOpen = true ∧ ((launchField f s).chrOf f).step = stepCnt s ∧ ∀ g, g ≠ f → (launchField f s).chrOf g = s.chrOf g := by
  have hclose := closes_closeFieldRecord true f s
  have hself : ∀ (k : Chr → Chr) off w v, ((State.modChr v f k).wr off w).chrOf f = k (v.chrOf f) := fun k off w v => State.chrOf_modChr_self ..
  have hother : ∀ (k : Chr → Chr) off w v g, g ≠ f → ((State.modChr v f k).wr off w).chrOf g = v.chrOf g := fun k off w v g hg => State.chrOf_modChr_ne v k hg
  refine ⟨?_, fun off ho hne => (State.rd_wr_ne _ _ hne).trans (hclose.only.rd off ho), ?_, ?_, fun g hg => (hother _ _ _ _ g hg).trans (hclose.other g hg)⟩
  · change (closeFieldRecord true f s).samp = _
    rw [hclose.only.rest]
  · exact congrArg Chr.isOpen (hself ..)
  · exact (congrArg Chr.step (hself ..)).trans (hclose.only.rd _ (.inl (by decide)))

theorem rCoreStep_ne_rCoreId (c d : Nat) : rCoreStep c ≠ rCoreId d := coreReg_ne_of_offset d c (a := 0x30) (o := 0) (by decide) (by decide) (by decide)

theorem rChrNow_ne_coreReg (f c : Nat) {o : Nat} (ho : o < 0x800) : rChrNow f ≠ coreWin c + o := fieldReg_ne_coreReg f c (a := 0xA10) (by decide) ho

theorem fieldsLaunched_launchOne (f : Nat) (s : State) : FieldsLaunched [f] s (launchOne f s) := by
  have hsteps := rd_stepsSet (mappedOf s f) (stepCnt s) s
  have hlow : ∀ off < 0x1000000, (stepsSet (mappedOf s f) (stepCnt s) s).rd off = s.rd off := fun off ho => by
    rw [hsteps, if_neg]
    rintro ⟨c, -, hc⟩
    have := lt_coreReg c 0x30
    rw [← hc] at ho
    exact absurd ho (by change ¬ coreWin c + 0x30 < _; omega)
  obtain ⟨hsamp, hrd, hopen, hstep, hother⟩ := launchField_spec f (stepsSet (mappedOf s f) (stepCnt s) s)
  rw [launchOne_eq]
  have hcore : ∀ c {o : Nat}, o < 0x800 → (launchField f (stepsSet (mappedOf s f) (stepCnt s) s)).rd (coreWin c + o) = (stepsSet (mappedOf s f) (stepCnt s) s).rd (coreWin c + o) := fun c o ho => by
    have := lt_coreReg c o
    exact hrd _ (.inr (by omega)) (rChrNow_ne_coreReg f c ho)
  have hkept : ∀ c, (launchField f (stepsSet (mappedOf s f) (stepCnt s) s)).rd (rCoreStep c) = if ∃ d ∈ mappedOf s f, rCoreStep d = rCoreStep c then stepCnt s else s.rd (rCoreStep c) := fun c =>
    (hcore c (by decide)).trans (hsteps _)
  have hchr : ∀ g, (stepsSet (mappedOf s f) (stepCnt s) s).chrOf g = s.chrOf g := fun g => by
    rw [State.chrOf, stepsSet_rest, State.chrOf]
  refine ⟨hsamp.trans (by rw [stepsSet_rest]), fun off ho => (hrd off (by omega) ?_).trans (hlow off (by omega)), fun c => ?_, fun g hg => ?_, fun g hg => ?_, fun g hg c hc => ?_, fun c => ?_⟩
  · simp only [rChrNow, fieldBase]
    omega
  · refine (hcore c (o := 0) (by decide)).trans ((hsteps _).trans (if_neg ?_))
    rintro ⟨d, -, hd⟩
    exact rCoreStep_ne_rCoreId d c hd
  · rw [List.mem_singleton.1 hg]
    exact ⟨hopen, hstep.trans (hlow _ (by decide))⟩
  · exact (hother g fun e => hg (List.mem_singleton.2 e)).trans (hchr g)
  · rw [List.mem_singleton.1 hg] at hc
    exact (hkept c).trans (if_pos ⟨c, hc, rfl⟩)
  · rw [hkept]
    split
    · exact .inr rfl
    · exact .inl rfl

theorem FieldsLaunched.cons (h : FieldsLaunched [f] s t) (h' : FieldsLaunched fs t u) : FieldsLaunched (f :: fs) s u where
  samp := h'.samp.trans h.samp
  rd off ho := (h'.rd off ho).trans (h.rd off ho)
  ids c := (h'.ids c).trans (h.ids c)
  opened g hg := by
    have hcnt : stepCnt t = stepCnt s := h.rd _ (.inl (by decide))
    by_cases hmem : g ∈ fs
    · exact hcnt ▸ h'.opened g hmem
    · rw [h'.other g hmem]
      exact h.opened g (List.mem_singleton.2 ((List.mem_cons.1 hg).resolve_right hmem))
  other g hg := (h'.other g fun hm => hg (List.mem_cons_of_mem _ hm)).trans (h.other g fun hm => hg (List.mem_singleton.1 hm ▸ List.mem_cons_self))
  steps g hg c hc := by
    have hcnt : stepCnt t = stepCnt s := h.rd _ (.inl (by decide))
    by_cases hmem : g ∈ fs
    · rw [← hcnt]
      exact h'.steps g hmem c (by rwa [mappedOf_congr h.ids g])
    · have hself := h.steps g (List.mem_singleton.2 ((List.mem_cons.1 hg).resolve_right hmem)) c hc
      rcases h'.kept c with hk | hk
      · exact hk.trans hself
      · exact hk.trans hcnt
  kept c := by
    have hcnt : stepCnt t = stepCnt s := h.rd _ (.inl (by decide))
    rcases h'.kept c with hk | hk
    · rw [hk]
      exact h.kept c
    · exact .inr (hk.trans hcnt)

theorem fieldsLaunched_forEach (fs : List Nat) (s : State) : FieldsLaunched fs s (forEach fs launchOne s) := by
  induction fs generalizing s with
  | nil => exact ⟨rfl, fun _ _ => rfl, fun _ => rfl, fun _ h => absurd h List.not_mem_nil, fun _ _ => rfl, fun _ h => absurd h List.not_mem_nil, fun _ => .inl rfl⟩
  | cons f fs ih =>
    rw [forEach, List.foldl_cons]
    exact (fieldsLaunched_launchOne f s).cons (ih (launchOne f s))

end

end Sys2Proof.Machine
end

section
/-! LAUNCH, and a field's start and quiesce (R276, R532, R573, R578, R733, R771 to R775). -/

namespace Sys2Proof.Machine
open Sys2Proof.Claims

/-! ### An accepted LAUNCH (R775) -/

/-- The state in which an accepted LAUNCH reaches the limbs: ATTEMPTS counted, the step launched and undecided, the samples taken. -/
def launchBegun (s : State) : State :=
  State.setFld { (s.setFld rPltStat 31 24 (launchAttempts s)).setFld rHostStep 0 0 1 with
    samp := launchSamples s, step := { StepSt.reset with dirLat := s.step.dirLat }, obs := { Obs.reset with carried := obsCarried s } } rUpdStat 2 0 0

/-- The limbs reached, the update engine's clip takes that of the control bank (R553). -/
def limbsReached (s : State) : State := (forEach (List.range 8) launchLimb (launchBegun s)).setFld 0x6028 63 32 (bankLclip (forEach (List.range 8) launchLimb (launchBegun s)))

/-- The module's record has opened (R739). -/
def moduleReached (s : State) : State := launchModule (limbsReached s).samp.localmb (limbsReached s)

section
variable {s : State}

theorem launchAccept_eq (s : State) : launchAccept s = forEach ((List.range 84).filter (hasMapped (limbsReached s))) launchOne (moduleReached s) := by
  rw [launchAccept, moduleReached, limbsReached, launchBegun]

theorem rd_launchBegun {off : Nat} (h0 : off ≠ rPltStat) (h1 : off ≠ rHostStep) (h2 : off ≠ rUpdStat) (s : State) : (launchBegun s).rd off = s.rd off :=
  (State.rd_setFld_ne _ _ _ _ h2.symm).trans ((State.rd_setFld_ne _ _ _ _ h1.symm).trans (State.rd_setFld_ne _ _ _ _ h0.symm))

/-- Before the limbs are reached the step is launched and undecided, and ATTEMPTS counts the launch. -/
theorem launchBegun_spec (s : State) : launched (launchBegun s) = true ∧ outcome (launchBegun s) = 0 ∧ attempts (launchBegun s) = launchAttempts s % 256 := by
  refine ⟨?_, ?_, ?_⟩
  · exact (State.flag_congr (State.rd_setFld_ne _ _ _ _ (by decide)) 0).trans (State.flag_setFld_mem _ _ _ _ _ _ (by decide) (by decide) (by decide))
  · exact State.fld_setFld_self _ _ _ _ _ (by decide) (by decide)
  · exact (State.fld_congr ((State.rd_setFld_ne _ _ _ _ (by decide)).trans (State.rd_setFld_ne _ _ _ _ (by decide))) ..).trans (State.fld_setFld_self _ _ _ _ _ (by decide) (by decide))

theorem limbsLaunched_launchBegun (s : State) : LimbsLaunched (List.range 8) (launchBegun s) (forEach (List.range 8) launchLimb (launchBegun s)) :=
  limbsLaunched_forEach _ (fun _ => List.mem_range.1) _

theorem chrOnly_launchModule (n : Nat) (s : State) : ChrOnly s (launchModule n s) := by
  have hclose := (closes_closeModuleRecord true s).only
  exact hclose.trans ⟨rfl, fun _ _ => rfl⟩

theorem awayFromErrors_of_lt {off : Nat} (h : off < 0x8090) : AwayFromErrors off := ⟨.inl h, fun l => .inl (by unfold limbBase; omega)⟩

theorem awayFromErrors_of_ge {off : Nat} (h : 0x1000000 ≤ off) : AwayFromErrors off := ⟨.inr (by omega), fun l => .inr (by unfold limbBase; omega)⟩

theorem rUpdLstat_lt {l : Nat} (h : l < 8) : rUpdLstat l < 0x900000 := by
  unfold rUpdLstat limbBase
  omega

/-- The limbs' part of the launch leaves the registers of the module below the error block, and those of the fields and cores. -/
theorem rd_limbsReached {off : Nat} (h : off < 0x8000 ∧ off ≠ 0x6028 ∨ 0x1000000 ≤ off) (s : State) : (limbsReached s).rd off = (launchBegun s).rd off := by
  have haway : AwayFromErrors off := h.elim (fun h => awayFromErrors_of_lt (by omega)) awayFromErrors_of_ge
  refine (State.rd_setFld_ne _ _ _ _ (by omega)).trans ((limbsLaunched_launchBegun s).rd off haway fun l hl => ?_)
  have hlow := rUpdLstat_ge l
  have hhigh := rUpdLstat_lt (List.mem_range.1 hl)
  omega

theorem rd_moduleReached {off : Nat} (h : off < 0x8000 ∧ off ≠ 0x6028 ∨ 0x1000000 ≤ off) (s : State) : (moduleReached s).rd off = (launchBegun s).rd off :=
  ((chrOnly_launchModule _ (limbsReached s)).rd off (by omega)).trans (rd_limbsReached h s)

theorem fieldsLaunched_launchAccept (s : State) : FieldsLaunched ((List.range 84).filter (hasMapped (limbsReached s))) (moduleReached s) (launchAccept s) := by
  rw [launchAccept_eq]
  exact fieldsLaunched_forEach _ _

theorem rd_launchAccept {off : Nat} (h : off < 0x8000) (hne : off ≠ 0x6028) (s : State) : (launchAccept s).rd off = (launchBegun s).rd off :=
  ((fieldsLaunched_launchAccept s).rd off (.inl (by omega))).trans (rd_moduleReached (.inl ⟨h, hne⟩) s)

theorem State.samp_setFld (s : State) (off hi lo n : Nat) : (s.setFld off hi lo n).samp = s.samp := rfl

theorem samp_limbsReached (s : State) : (limbsReached s).samp = launchSamples s := by
  rw [limbsReached, State.samp_setFld, (limbsLaunched_launchBegun s).samp, launchBegun, State.samp_setFld]

theorem samp_launchAccept (s : State) : (launchAccept s).samp = launchSamples s := by
  rw [(fieldsLaunched_launchAccept s).samp, moduleReached, (chrOnly_launchModule _ (limbsReached s)).stepKept.samp, samp_limbsReached]

/-- Every powered limb's sweep waits, and every other limb's engine is idle (R573). -/
theorem sweepOf_launchAccept {l : Nat} (h : l < 8) (s : State) : sweepOf (launchAccept s) l = if limbOn s l then 1 else 0 := by
  have hlow := rUpdLstat_ge l
  have hhigh := rUpdLstat_lt h
  have hon : limbOn (launchBegun s) l = limbOn s l := limbOn_congr (rd_launchBegun (by unfold limbBase rPltStat; omega) (by unfold limbBase rHostStep; omega) (by unfold limbBase rUpdStat; omega) s)
  have hsweep := (limbsLaunched_launchBegun s).sweep l (List.mem_range.2 h)
  rw [hon] at hsweep
  rw [← hsweep]
  refine sweepOf_congr (((fieldsLaunched_launchAccept s).rd _ (.inr (by omega))).trans (((chrOnly_launchModule _ (limbsReached s)).rd _ (.inr (by omega))).trans (State.rd_setFld_ne _ _ _ _ (by omega))))

/-- Every field with a mapped core opens its record, and its cores take the step counter (R111, R733). -/
theorem fields_launchAccept (s : State) {f : Nat} (hf : f < 84) (hm : hasMapped s f = true) : ((launchAccept s).chrOf f).isOpen = true ∧ ((launchAccept s).chrOf f).step = stepCnt s ∧
    ∀ c ∈ mappedOf s f, (launchAccept s).rd (rCoreStep c) = stepCnt s := by
  have hids : ∀ c, (launchBegun s).rd (rCoreId c) = s.rd (rCoreId c) := fun c => by
    have := lt_coreReg c 0
    refine rd_launchBegun ?_ ?_ ?_ s
    · change coreWin c + 0 ≠ 0x7028
      omega
    · change coreWin c + 0 ≠ 0x20
      omega
    · change coreWin c + 0 ≠ 0x6018
      omega
  have hhigh : ∀ c, 0x1000000 ≤ rCoreId c := fun c => (lt_coreReg c 0).le
  have hlimbs : ∀ c, (limbsReached s).rd (rCoreId c) = s.rd (rCoreId c) := fun c => (rd_limbsReached (.inr (hhigh c)) s).trans (hids c)
  have hmodule : ∀ c, (moduleReached s).rd (rCoreId c) = s.rd (rCoreId c) := fun c => (rd_moduleReached (.inr (hhigh c)) s).trans (hids c)
  have hcnt : stepCnt (moduleReached s) = stepCnt s := (rd_moduleReached (.inl (by decide)) s).trans (rd_launchBegun (by decide) (by decide) (by decide) s)
  have hmem : f ∈ (List.range 84).filter (hasMapped (limbsReached s)) := List.mem_filter.2 ⟨List.mem_range.2 hf, (hasMapped_congr hlimbs f).trans hm⟩
  have hfields := fieldsLaunched_launchAccept s
  rw [← hcnt]
  exact ⟨(hfields.opened f hmem).1, (hfields.opened f hmem).2, fun c hc => hfields.steps f hmem c (by rwa [mappedOf_congr hmodule])⟩

/-! ### The issue of LAUNCH (R596, R769, R775) -/

section
variable {ring : Nat} {k : LrCmd}

theorem exec_launch_waits (hk : lrReady s ring 1 = some k) (hst : launchStatus (lrW k 1) s = 0) (hp : pltPhase s = 1) : exec (.launch ring) s = .next s := by
  rw [exec_launch, hk]
  exact if_pos ⟨hp, hst⟩

theorem exec_launch_issued (hk : lrReady s ring 1 = some k) (h : pltPhase s ≠ 1 ∨ launchStatus (lrW k 1) s ≠ 0) : exec (.launch ring) s =
    .next (lrRecord ring (lrCq s ring) (launchEffect k (issued ring s)).1 k (lrCons s ring) k.report k.nclamp (sidereal s) (launchEffect k (issued ring s)).2) := by
  rw [← lrIssue_some_of_ne hk (by decide), exec_launch, hk]
  exact if_neg fun hc => h.elim (· hc.1) (· hc.2)

/-- What a LAUNCH reads does not lie in its ring's registers. -/
theorem rd_issued (h : ring < 64) {off : Nat} (ho : off < 0x1010 ∨ 0x2000 ≤ off) (s : State) : (issued ring s).rd off = s.rd off := by
  have hstat := rLrStat_range h
  exact rd_issued_ne (by omega) s

theorem stepCnt_issued (h : ring < 64) (s : State) : stepCnt (issued ring s) = stepCnt s := rd_issued h (.inl (by decide)) s

theorem launchStatus_issued (h : ring < 64) (w : Word) (s : State) : launchStatus w (issued ring s) = launchStatus w s := by
  rw [launchStatus, launchStatus, stepCnt_issued h, State.fld_congr (rd_issued h (.inl (by decide)) s), fatal, fatal, State.flag_congr (rd_issued h (.inr (by decide)) s)]

theorem launchSamples_issued (h : ring < 64) (s : State) : launchSamples (issued ring s) = launchSamples s := by
  rw [launchSamples, launchSamples, stepCnt_issued h, State.fld_congr (rd_issued h (off := 0x2000) (.inr (by decide)) s), rd_issued h (off := 0x6000) (.inr (by decide)) s,
    State.fld_congr (rd_issued h (off := 0x6008) (.inr (by decide)) s), State.fld_congr (rd_issued h (off := 0x6008) (.inr (by decide)) s), State.fld_congr (rd_issued h (off := 0x5008) (.inr (by decide)) s)]
  rfl

theorem launchAttempts_issued (h : ring < 64) (s : State) : launchAttempts (issued ring s) = launchAttempts s := by
  rw [launchAttempts, launchAttempts, stepCnt_issued h, attempts, attempts, State.fld_congr (rd_issued h (.inr (by decide)) s)]
  rfl

theorem samp_lrRecord (ring cq st : Nat) (k : LrCmd) (idx report n : Nat) (now : Word) (s : State) : (lrRecord ring cq st k idx report n now s).samp = s.samp := by rw [lrRecord_rest]

/-- A LAUNCH that is refused leaves its record, and moves CONS on. -/
theorem launchRefused_spec (h : ring < 64) (k : LrCmd) {st : Nat} (hst : st ≠ 0) (s : State) {t : State} (ht : t = lrRecord ring (lrCq s ring) st k (lrCons s ring) k.report k.nclamp (sidereal s) (issued ring s)) :
    launched t = launched s ∧ t.samp = s.samp ∧ lrCons t ring = (lrCons s ring + 1) % 2 ^ 32 ∧ t.rd (ringCq s (lrCq s ring)).head = s.rd (ringCq s (lrCq s ring)).head + 1 ∧ t.mem = s.mem ∧ t.cores = s.cores := by
  refine ⟨?_, by rw [ht, samp_lrRecord]; rfl, by rw [ht, lrCons_lrRecord h, lrCons_issued], ?_, by rw [ht, lrRecord_rest]; rfl, by rw [ht, lrRecord_rest]; rfl⟩
  · rw [ht]
    exact State.flag_congr ((rd_lrRecord_ne (.inl (by decide))).trans (rd_issued h (.inl (by decide)) s)) 0
  · rw [ht, rd_lrRecord_head (lrCq_lt s ring), if_pos (.inr hst), rd_issued h (by simp only [ringCq]; omega)]

end

/-! ### Field starts and quiesces (R771 to R773) -/

theorem exec_fieldQuiesce (f : FieldId) (s : State) : exec (.fieldQuiesce f) s = .next ((quiesceField f.val s).setFld (rFldStat f.val) 15 8 3) := rfl

end

theorem launchAccepted_spec {ring : Nat} (h : ring < 64) (k : LrCmd) (s : State) {t : State}
    (ht : t = lrRecord ring (lrCq s ring) 0 k (lrCons s ring) k.report k.nclamp (sidereal s) (launchAccept (issued ring s))) :
    launched t = true ∧ outcome t = 0 ∧ attempts t = launchAttempts s % 256 ∧ lrCons t ring = (lrCons s ring + 1) % 2 ^ 32 ∧ t.samp = launchSamples s ∧ (∀ l < 8, sweepOf t l = if limbOn s l then 1 else 0) ∧
      ∀ f < 84, hasMapped s f = true → (t.chrOf f).isOpen = true ∧ (t.chrOf f).step = stepCnt s ∧ ∀ c ∈ mappedOf s f, t.rd (rCoreStep c) = stepCnt s := by
  subst ht
  have hlow : ∀ off < 0x8000, off ≠ 0x6028 → (lrRecord ring (lrCq s ring) 0 k (lrCons s ring) k.report k.nclamp (sidereal s) (launchAccept (issued ring s))).rd off = (launchBegun (issued ring s)).rd off :=
    fun off ho hne => (rd_lrRecord_ne (.inl (by omega))).trans (rd_launchAccept ho hne _)
  obtain ⟨hlaunched, houtcome, hattempts⟩ := launchBegun_spec (issued ring s)
  have hstat := rLrStat_range h
  refine ⟨(State.flag_congr (hlow _ (by decide) (by decide)) 0).trans hlaunched, (State.fld_congr (hlow _ (by decide) (by decide)) ..).trans houtcome,
    (State.fld_congr (hlow _ (by decide) (by decide)) ..).trans (hattempts.trans (by rw [launchAttempts_issued h])), ?_, ?_, fun l hl => ?_, fun f hf hm => ?_⟩
  · refine (State.fld_congr ((hlow _ (by omega) (by omega)).trans (rd_launchBegun ?_ ?_ ?_ _)) ..).trans (lrCons_issued ring s)
    · unfold rPltStat
      omega
    · unfold rHostStep
      omega
    · unfold rUpdStat
      omega
  · rw [samp_lrRecord, samp_launchAccept, launchSamples_issued h]
  · have hge := rUpdLstat_ge l
    rw [sweepOf_congr (rd_lrRecord_ne (.inr (by omega))), sweepOf_launchAccept hl, limbOn_congr (rd_issued h (.inr (by unfold limbBase; omega)) s)]
  · have hids : ∀ c, (issued ring s).rd (rCoreId c) = s.rd (rCoreId c) := fun c => by
      have := lt_coreReg c 0
      exact rd_issued h (.inr (by change 0x2000 ≤ coreWin c + 0; omega)) s
    obtain ⟨hopen, hstep, hsteps⟩ := fields_launchAccept (issued ring s) hf ((hasMapped_congr hids f).trans hm)
    rw [stepCnt_issued h] at hstep hsteps
    refine ⟨by rw [chrOf_lrRecord, hopen], by rw [chrOf_lrRecord, hstep], fun c hc => ?_⟩
    have := lt_coreReg c 0x30
    rw [rd_lrRecord_ne (.inr (by change 0xE000 ≤ coreWin c + 0x30; omega))]
    exact hsteps c (by rwa [mappedOf_congr hids])

theorem launches : Launches := by
  refine fun ring s => ⟨fun k hk hst hp => ?_, fun k => exec_launch_waits, fun k hk hst => ?_, fun f => ⟨fun h => congrArg Host.Outcome.next (if_pos h), fun h => congrArg Host.Outcome.next (if_neg (Bool.eq_false_iff.1 h)), ?_⟩⟩
  · have heffect : launchEffect k (issued ring s) = (0, launchAccept (issued ring s)) := by
      rw [launchEffect, launchStatus_issued (lrReady_lt hk), hst, if_pos rfl]
    have hexec := exec_launch_issued hk (.inl hp)
    simp only [heffect] at hexec
    exact ⟨_, hexec, launchAccepted_spec (lrReady_lt hk) k s rfl⟩
  · have heffect : launchEffect k (issued ring s) = (launchStatus (lrW k 1) s, issued ring s) := by
      rw [launchEffect, launchStatus_issued (lrReady_lt hk), if_neg hst]
    have hexec := exec_launch_issued hk (.inr hst)
    simp only [heffect] at hexec
    exact ⟨_, hexec, launchRefused_spec (lrReady_lt hk) k hst s rfl⟩
  · exact ⟨_, exec_fieldQuiesce f s, State.fld_setFld_self _ _ _ _ _ (by decide) (by decide), rfl⟩

/-- Settles O57: rings and their commands by the branches of the model; a launch by what it does to the module, to each limb and to each field, none of which touches what another has set. The corners of BAR2 and the rings, PLAN's two fields of one word, the corners of LAUNCH, and that a command waits for what it reads through the mesh, are the model's choice (SPEC.md, entries 59, 60, 68 and 91). -/
theorem hostCommands : Obligations.HostCommands := ⟨launchRings, ringCommands, launches⟩

end Sys2Proof.Machine
end

section
/-! What work on the store range is made of, and so what it keeps whatever it does to granules, slots and sectors (R363 to R404). -/

namespace Sys2Proof.Machine

/-- P is kept by each change that work on the store range is made of: entries, bytes, migrations, element formats, a limb's record, its capacity registers, its count of migrations and its errors. -/
structure StoreClosed (P : State → Prop) : Prop where
  entry : ∀ {s}, P s → ∀ g w, P (s.setEntry g w)
  bytes : ∀ {s : State}, P s → ∀ m x, P { s with mem := m, memX := x }
  migs : ∀ {s : State}, P s → ∀ m, P { s with migs := m }
  felem : ∀ {s : State}, P s → ∀ e, P { s with felem := e }
  limb : ∀ {s}, P s → ∀ l f, P (s.modLimb l f)
  refresh : ∀ {s}, P s → ∀ l, P (capRefresh l s)
  count : ∀ {s}, P s → ∀ l hi lo, P (s.satFld (rMigStat l) hi lo 1)
  error : ∀ {s}, P s → ∀ d cls unit cause info, P (raise d cls unit cause info s)

namespace StoreClosed
variable {P : State → Prop} (hP : StoreClosed P) {s t : State}
include hP

/-! ### Migrations and eviction (R383 to R390, R403) -/

theorem touch (h : P s) (g : Nat) : P (touch g s) := hP.entry h ..

theorem capFail (h : P s) (l g : Nat) : P (capFail l g s) := hP.error (hP.count h ..) ..

theorem migAbort (h : P s) (l g : Nat) : P (migAbort l g s) := by
  unfold Machine.migAbort
  split
  · exact hP.refresh (hP.count (hP.entry (hP.migs h _) ..) ..) l
  · exact h

theorem migDone (h : P s) (l g : Nat) : P (migDone l g s) := by
  unfold Machine.migDone
  split
  · exact h
  · exact hP.refresh (hP.entry (hP.migs h _) ..) l

theorem migBegin (h : P s) {l g tier : Nat} (hm : migBegin l g tier s = some t) : P t := by
  obtain ⟨base, rfl⟩ := migBegin_eq hm
  exact hP.refresh (hP.entry (hP.migs h _) ..) l

theorem evictSweep (h : P s) (l : Nat) (anyAge : Bool) (ps : List (Nat × Word)) : P (evictSweep l anyAge ps s) := by
  induction ps generalizing s with
  | nil => exact h
  | cons p ps ih =>
    unfold Machine.evictSweep
    split
    · exact h
    · split
      · cases hm : Machine.migBegin l p.1 1 s with
        | none => exact ih h
        | some t => exact ih (hP.limb (hP.migDone (hP.migBegin h hm) ..) ..)
      · exact ih h

theorem retryPinned (h : P s) (l : Nat) : P (retryPinned l s) := by
  refine List.foldlRecOn (motive := P) _ _ h fun t ht p _ => ?_
  dsimp only
  split
  · exact ht
  · cases hm : Machine.migBegin l p.1 (ePin p.2 - 1) t with
    | none => exact ht
    | some u => exact hP.migBegin ht hm

theorem evict (h : P s) (l : Nat) : P (evict l s) := by
  unfold Machine.evict
  dsimp only
  split_ifs
  · exact h
  · exact hP.retryPinned (hP.evictSweep h ..) l
  · exact hP.retryPinned (hP.evictSweep (hP.evictSweep h ..) ..) l

theorem allocate (h : P s) (l g n : Nat) : P (allocate l g n s).2 := by
  unfold Machine.allocate
  split
  · exact h
  · exact hP.evict h l

/-! ### Encoding and slots (R380 to R384) -/

theorem encodeGranule (h : P s) {l g : Nat} (he : encodeGranule l g s = some t) : P t := by
  have halloc := hP.allocate h l g (imageOf s g (eElem (s.entry g))).2
  unfold Machine.encodeGranule at he
  dsimp only at he
  split_ifs at he with hz
  · obtain rfl := Option.some.inj he
    exact hP.refresh (hP.entry h ..) l
  · split at he
    · cases he
    · rename_i hv
      rw [hv] at halloc
      obtain rfl := Option.some.inj he
      exact hP.refresh (hP.entry (hP.felem halloc _) ..) l

theorem closeSlot (h : P s) (l g : Nat) : P (closeSlot l g s) := by
  unfold Machine.closeSlot
  split
  · cases he : Machine.encodeGranule l g s with
    | none => exact hP.capFail h l g
    | some t => exact hP.limb (hP.encodeGranule h he) ..
  · exact h

theorem freeSlot (h : P s) (l n : Nat) : P (freeSlot l n s) := by
  induction n generalizing s with
  | zero => exact h
  | succ n ih =>
    unfold Machine.freeSlot
    split
    · exact h
    · cases (s.limb l).slots[31 - n]? with
      | none => exact h
      | some k => exact ih (hP.closeSlot h l k.g)

theorem openSlot (h : P s) (l g : Nat) : P (openSlot l g s).2 := by
  unfold Machine.openSlot
  split
  · dsimp only
    exact hP.limb h ..
  · dsimp only
    split
    · dsimp only
      exact hP.limb (hP.freeSlot h l 32) ..
    · exact hP.freeSlot h l 32

/-! ### Writes (R378 to R383) -/

theorem writeGranule (h : P s) (g w : Nat) (ws : List PWord) : P (writeGranule g w ws s).2 := by
  unfold Machine.writeGranule
  split
  · exact h
  · rename_i l _
    have habort := hP.migAbort h l g
    have hput : ∀ u, P u → P (putWords w ws u) := fun u hu => onlyBytes_putWords w ws u ▸ hP.bytes hu ..
    dsimp only
    split
    · split
      · rename_i he
        exact hP.encodeGranule (hput _ (hP.limb habort ..)) he
      · exact hP.capFail habort l g
    · split
      · exact hput _ (hP.openSlot habort l g)
      · exact hP.openSlot habort l g

theorem writeStore (h : P s) (engine : Bool) (w : Nat) (ws : List PWord) : P (writeStore engine w ws s).2 :=
  List.foldlRecOn (motive := fun r : Bool × State => P r.2) _ _ h fun r hr p _ => by
    have hwrite := hP.writeGranule hr (p.1 / 8192) p.1 p.2
    dsimp only
    split
    · exact hP.touch hwrite _
    · exact hwrite

theorem pltWrite (h : P s) (a : Nat) (bs : List Byte) : P (pltWrite a bs s).2 := hP.writeStore h ..

theorem zeroGranule (h : P s) (g : Nat) : P (zeroGranule g s) := by
  unfold Machine.zeroGranule
  split
  · exact h
  · rename_i l _
    exact hP.refresh (hP.entry (hP.limb (hP.bytes (hP.migAbort h l g) ..) ..) ..) l

theorem pltZero (h : P s) (g : Nat) : P (pltZero g s) := by
  unfold Machine.pltZero
  split
  · exact hP.touch (hP.zeroGranule h g) g
  · exact h

end StoreClosed

end Sys2Proof.Machine
end

section
/-! What the Plate engine's records, errors and reads leave unchanged, and what its endings leave of PLT_STAT (R383, R599, R612, R613). -/

namespace Sys2Proof.Machine

/-- From s to t the Plate engine's record and the registers below the module's error block stand. -/
structure SamePlate (s t : State) : Prop where
  plate : t.plate = s.plate
  rd : ∀ off < 0x8000, t.rd off = s.rd off

/-- From s to t the Plate engine's record, the registers below the module's error block, the bytes of the store range and the cores stand. -/
structure ReportsPlate (s t : State) : Prop extends SamePlate s t where
  mem : t.mem = s.mem
  cores : t.cores = s.cores

section
variable {s t u : State}

theorem SamePlate.trans (h : SamePlate s t) (k : SamePlate t u) : SamePlate s u := ⟨k.plate.trans h.plate, fun off ho => (k.rd off ho).trans (h.rd off ho)⟩

theorem SamePlate.fld (h : SamePlate s t) {off : Nat} (ho : off < 0x8000) (hi lo : Nat) : t.fld off hi lo = s.fld off hi lo := State.fld_congr (h.rd off ho) ..

theorem reportsPlate_refl (s : State) : ReportsPlate s s := ⟨⟨rfl, fun _ _ => rfl⟩, rfl, rfl⟩

theorem ReportsPlate.trans (h : ReportsPlate s t) (k : ReportsPlate t u) : ReportsPlate s u := ⟨h.toSamePlate.trans k.toSamePlate, k.mem.trans h.mem, k.cores.trans h.cores⟩

theorem reportsPlate_ite {c : Prop} [Decidable c] (h : ReportsPlate s t) (k : ReportsPlate s u) : ReportsPlate s (if c then t else u) := by
  split <;> assumption

/-- A change of no register and of none of the three. -/
theorem reportsPlate_of_rest (hr : t.regs = s.regs) (hp : t.plate = s.plate) (hm : t.mem = s.mem) (hc : t.cores = s.cores) : ReportsPlate s t :=
  ⟨⟨hp, fun off _ => by rw [State.rd, hr, State.rd]⟩, hm, hc⟩

/-! ### Work on the store range -/

theorem samePlate_raise (d : Dom) (cls unit cause : Nat) (info : Word) (s : State) : SamePlate s (raise d cls unit cause info s) := by
  have hrest : ReportsOnly s (raise d cls unit cause info s) := reportsOnly_raise ..
  exact ⟨by rw [hrest], (errorsOnly_raise d cls unit cause info).rd⟩

/-- Work on the store range leaves the Plate engine and the module's registers (R363 to R404). -/
theorem storeClosed_samePlate (s : State) : StoreClosed (SamePlate s) where
  entry h _ _ := ⟨h.plate, h.rd⟩
  bytes h _ _ := ⟨h.plate, h.rd⟩
  migs h _ := ⟨h.plate, h.rd⟩
  felem h _ := ⟨h.plate, h.rd⟩
  limb h _ _ := ⟨h.plate, h.rd⟩
  refresh {t} h l := h.trans ⟨by rw [capRefresh_rest], (sameModule_capRefresh l t).2⟩
  count h l _ _ := h.trans ⟨rfl, fun off ho => rd_satFld_ne _ _ _ _ (by unfold rMigStat limbBase; omega)⟩
  error h _ _ _ _ _ := h.trans (samePlate_raise ..)

/-! ### Errors at the host limb and records -/

/-- An error of a limb that is not fatal is recorded, and no more: neither the limb's own hold nor another domain stops a core (R616, R617, R622). -/
theorem raise_limb (l : LimbId) {cls : Nat} (hc : cls ≠ 3) (unit cause : Nat) (info : Word) (s : State) : raise (.limb l) cls unit cause info s = recordError (.limb l) cls unit cause info s := by
  have haway : AwayFromErrors rModFault := ⟨.inl (by decide), fun l => .inl (by unfold limbBase rModFault; omega)⟩
  have hfatal : fatal (recordError (.limb l) cls unit cause info s) = fatal s := State.flag_congr (rd_recordError_limb l _ _ _ _ s haway) 1
  unfold raise
  simp [hc, contain, hfatal]

/-- The record of an error of a limb changes no core. -/
theorem cores_recordError_limb (l : LimbId) (cls unit cause : Nat) (info : Word) (s : State) : (recordError (.limb l) cls unit cause info s).cores = s.cores := by
  have htake : ∀ a v, (errRefresh (.limb l) (takeRecord (.limb l) a cls unit cause info v)).cores = v.cores := fun a v => by
    change (nlog _ _ _ _ _ _ _ _ _ _ _).cores = v.cores
    rw [nlog_rest]
    rfl
  unfold recordError
  dsimp only
  split_ifs
  · rfl
  · rfl
  · exact htake _ _
  · exact htake _ _
  · exact htake _ _
  · rw [nlog_rest]
    rfl
  · rfl

theorem reportsPlate_raise_limb (l : Nat) {cls : Nat} (hc : cls ≠ 3) (unit cause : Nat) (info : Word) (s : State) : ReportsPlate s (raise (domLimb l) cls unit cause info s) := by
  have hrest : ReportsOnly s (raise (domLimb l) cls unit cause info s) := reportsOnly_raise ..
  refine ⟨samePlate_raise .., by rw [hrest], ?_⟩
  rw [domLimb, raise_limb _ hc]
  exact cores_recordError_limb ..

theorem reportsPlate_pltError (st : Nat) (s : State) : ReportsPlate s (pltError st s) := by
  have hdrawn : ReportsPlate s s.draw.2 := reportsPlate_of_rest rfl rfl rfl rfl
  exact reportsPlate_ite (hdrawn.trans (reportsPlate_raise_limb _ (by decide) ..)) (reportsPlate_ite (hdrawn.trans (reportsPlate_raise_limb _ (by decide) ..)) (reportsPlate_refl s))

theorem reportsPlate_post (src lring : Nat) (rec : List Word) (s : State) : ReportsPlate s (post src lring rec s) := by
  refine ⟨⟨?_, fun off ho => rd_post_ne _ _ _ s (.inl (by omega))⟩, ?_, ?_⟩
  · rw [post_rest]
  · rw [post_rest]
  · rw [post_rest]

theorem reportsPlate_quoteStart (s : State) : ReportsPlate s (quoteStart s) := reportsPlate_ite (reportsPlate_of_rest rfl rfl rfl rfl) (reportsPlate_refl s)

/-! ### Reads of the store range (R383) -/

theorem reportsPlate_pltUse (a n : Nat) (s : State) : ReportsPlate s (pltUse a n s) := by
  unfold pltUse
  split
  · exact forEach_induction (f := touch) (fun _ t h => h.trans (reportsPlate_of_rest rfl rfl rfl rfl)) _ (reportsPlate_refl s)
  · exact reportsPlate_raise_limb _ (by decide) ..
  · exact reportsPlate_refl s

theorem reportsPlate_slotUse (rsel : Bool) (k : Nat) (s : State) : ReportsPlate s (slotUse rsel k s) := reportsPlate_pltUse ..

/-! ### The end of a plate (R599, R612) -/

/-- A plate's end in PLT_STAT: its status, and PHASE idle. -/
def plateEnded (st : Nat) (s : State) : State := (s.setFld rPltStat 19 16 st).setFld rPltStat 3 0 0

/-- The record of a plate's end (R612). -/
def plateRecorded (st : Nat) (s : State) : State :=
  pltRecord 0 st (s.fld rPltStat 15 12) false 0x3FF ((plateEnded st s).fld rPltSeq 31 0) s.plate.hStep s.plate.dirdig (modSpanEnd 3 (plateEnded st s))

theorem reportsPlate_plateRecorded (st : Nat) (s : State) : ReportsPlate (plateEnded st s) (plateRecorded st s) :=
  have hspan : ReportsPlate (plateEnded st s) (modSpanEnd 3 (plateEnded st s)) := reportsPlate_of_rest rfl rfl rfl rfl
  hspan.trans (reportsPlate_post ..)

/-- Past its record a plate's end drops the plate's shards and digest, and writes errors. -/
theorem reportsPlate_plateEnd (st : Nat) (s : State) :
    ReportsPlate ((plateRecorded st s).modPlate fun p => { p with shards := [], dirdig := [], signWait := false }) (plateEnd st s) :=
  (reportsPlate_ite (reportsPlate_refl _) (reportsPlate_pltError ..)).trans (reportsPlate_quoteStart _)

/-- What the end of a plate leaves of the registers, the Plate engine's record and the store range. -/
theorem plateEnd_spec (st : Nat) (s : State) : (∀ off < 0x8000, (plateEnd st s).rd off = (plateEnded st s).rd off) ∧
    (plateEnd st s).plate = { s.plate with shards := [], dirdig := [], signWait := false } ∧ (plateEnd st s).mem = s.mem := by
  have hrec := reportsPlate_plateRecorded st s
  have hend := reportsPlate_plateEnd st s
  refine ⟨fun off ho => (hend.rd off ho).trans (hrec.rd off ho), hend.plate.trans ?_, hend.mem.trans hrec.mem⟩
  rw [State.modPlate, hrec.plate]
  rfl

/-- PLT_STAT at the end of a plate: PHASE idle and STATUS. -/
theorem plateEnd_stat {st : Nat} (hst : st < 16) (s : State) : pltPhase (plateEnd st s) = 0 ∧ (plateEnd st s).fld rPltStat 19 16 = st := by
  have hfld : ∀ hi lo, (plateEnd st s).fld rPltStat hi lo = (plateEnded st s).fld rPltStat hi lo := fun hi lo => State.fld_congr ((plateEnd_spec st s).1 _ (by decide)) hi lo
  refine ⟨(hfld 3 0).trans (State.fld_setFld_self _ _ _ _ _ (by decide) (by decide)), (hfld 19 16).trans ?_⟩
  rw [plateEnded, State.fld_setFld_ne _ _ _ _ _ _ _ _ (by decide) (by decide) (by decide), State.fld_setFld_self _ _ _ _ _ (by decide) (by decide)]
  exact Nat.mod_eq_of_lt hst

/-! ### The end of a command (R612, R613) -/

/-- A command's end in PLT_STAT, after the read of the slot's header: its status, and CMD none. -/
def cmdEnded (st : Nat) (s : State) : State := ((slotUse s.plate.rsel s.plate.slot s).setFld rPltStat 23 20 st).setFld rPltStat 11 8 0

theorem reportsPlate_cmdEnd (st : Nat) (dig : List Byte) (s : State) : ReportsPlate (cmdEnded st s) (cmdEnd st dig s) := (reportsPlate_post ..).trans (reportsPlate_pltError ..)

theorem pltCmd_cmdEnd (st : Nat) (dig : List Byte) (s : State) : pltCmd (cmdEnd st dig s) = 0 :=
  ((reportsPlate_cmdEnd st dig s).fld (by decide) ..).trans (State.fld_setFld_self _ _ _ _ _ (by decide) (by decide))

theorem status_cmdEnd {st : Nat} (hst : st < 16) (dig : List Byte) (s : State) : (cmdEnd st dig s).fld rPltStat 23 20 = st := by
  rw [(reportsPlate_cmdEnd st dig s).fld (by decide), cmdEnded, State.fld_setFld_ne _ _ _ _ _ _ _ _ (by decide) (by decide) (by decide), State.fld_setFld_self _ _ _ _ _ (by decide) (by decide)]
  exact Nat.mod_eq_of_lt hst

theorem plate_cmdEnd (st : Nat) (dig : List Byte) (s : State) : (cmdEnd st dig s).plate = s.plate := (reportsPlate_cmdEnd st dig s).plate.trans (reportsPlate_slotUse ..).plate

theorem mem_cmdEnd (st : Nat) (dig : List Byte) (s : State) : (cmdEnd st dig s).mem = s.mem := (reportsPlate_cmdEnd st dig s).mem.trans (reportsPlate_slotUse ..).mem

end

end Sys2Proof.Machine
end

section
/-! How a plate begins: the slot that it takes, and what stands once it has one (R584, R594, R595). -/

namespace Sys2Proof.Machine

/-- A plate takes one of the slots of PLT_CFG, of which there are at most 15. -/
theorem pickSlot_lt {s : State} {k : Nat} (h : pickSlot s = some k) : k < 16 := by
  have hslots : pltSlots s < 16 := max_lt (by decide) (nbits_lt (s.rd rPltCfg).toNat 47 44)
  have hfree : ∀ (q : Nat → Bool) {j}, j ∈ (List.range (pltSlots s)).filter q → j < 16 := fun q j hj => (List.mem_range.1 (List.mem_filter.1 hj).1).trans hslots
  unfold pickSlot at h
  dsimp only at h
  split at h
  · rename_i j hfind
    obtain rfl := Option.some.inj h
    exact hfree _ (List.mem_of_find?_eq_some hfind)
  · refine List.foldlRecOn (motive := fun m : Option Nat => ∀ j, m = some j → j < 16) _ _ (fun j hj => (Option.some_ne_none j hj.symm).elim) (fun m hm i hi j hj => ?_) k h
    have hi16 := hfree _ hi
    cases m with
    | none => exact Option.some.inj hj ▸ hi16
    | some o =>
      dsimp only at hj
      split at hj
      · exact Option.some.inj hj ▸ hi16
      · exact hm j hj

/-- The Plate engine's record as a plate begins in slot k (R584, R594). -/
def plateStart (k : Nat) (s : State) (p : Plate) : Plate :=
  { p with
    takePend := false, known := terase p.known k, marked := terase p.marked k, shards := placed (shardList s), fits := decide (usedGran (placed (shardList s)) ≤ slotGran s) && inStore (slotBase s false k) (slotGran s)
    pbank := curPbank s, cbank := curCbank s, dirdig := [], hModule := s.fld 0x5000 15 0, hK := s.fld rPltCfg 63 48, hStep := stepCnt s, hTime := sidereal s }

/-- A plate that begins, before its work on the store range: SEQ, PHASE SNAP, its slot, its record and the time of PLATE. -/
def plateBegun (k : Nat) (s : State) : State := modSpan 3 ((((s.setFld rPltSeq 31 0 (s.fld rPltSeq 31 0 + 1)).setFld rPltStat 3 0 1).setFld rPltStat 15 12 k).modPlate (plateStart k s))

theorem plate_plateBegun (k : Nat) (s : State) : (plateBegun k s).plate = plateStart k s s.plate := by
  rw [plateBegun, modSpan_rest]
  rfl

theorem rd_plateBegun (k : Nat) (s : State) (off : Nat) : (plateBegun k s).rd off = (((s.setFld rPltSeq 31 0 (s.fld rPltSeq 31 0 + 1)).setFld rPltStat 3 0 1).setFld rPltStat 15 12 k).rd off := by
  rw [plateBegun, modSpan_rest]
  rfl

/-- PLT_STAT and PLT_SEQ of a plate that begins. -/
theorem plateBegun_stat {k : Nat} (hk : k < 16) (s : State) :
    pltPhase (plateBegun k s) = 1 ∧ (plateBegun k s).fld rPltStat 15 12 = k ∧ (plateBegun k s).fld rPltSeq 31 0 = (s.fld rPltSeq 31 0 + 1) % 2 ^ 32 := by
  have hfld := fun off hi lo => State.fld_congr (rd_plateBegun k s off) hi lo
  refine ⟨(hfld ..).trans ?_, (hfld ..).trans ?_, (hfld ..).trans ?_⟩
  · rw [State.fld_setFld_ne _ _ _ _ _ _ _ _ (by decide) (by decide) (by decide), State.fld_setFld_self _ _ _ _ _ (by decide) (by decide)]
    rfl
  · rw [State.fld_setFld_self _ _ _ _ _ (by decide) (by decide)]
    exact Nat.mod_eq_of_lt hk
  · rw [State.fld_setFld_ne _ _ _ _ _ _ _ _ (by decide) (by decide) (by decide), State.fld_setFld_ne _ _ _ _ _ _ _ _ (by decide) (by decide) (by decide),
      State.fld_setFld_self _ _ _ _ _ (by decide) (by decide)]

/-- The newest marked slot's SEQ stands in PLT_SEQ, and the header is zeroed and the STATE shard written, or the plate ends CAPACITY (R584, R587, R599). -/
theorem plateBegin_eq (k : Nat) (s : State) : ∃ n w, SamePlate ((plateBegun k s).setFld rPltSeq 63 32 n) w ∧ (plateBegin k s = w ∨ plateBegin k s = plateEnd 2 w) := by
  have hstore := fun n => storeClosed_samePlate ((plateBegun k s).setFld rPltSeq 63 32 n)
  have hzero := fun n => (hstore n).pltZero (reportsPlate_refl _).toSamePlate (slotBase s false k)
  unfold plateBegin
  dsimp only
  split_ifs
  · exact ⟨_, _, (hstore _).pltWrite (hzero _) .., .inl rfl⟩
  · exact ⟨_, _, (hstore _).pltWrite (hzero _) .., .inr rfl⟩
  · exact ⟨_, _, hzero _, .inl rfl⟩

/-- A plate begins in slot k, and stands in SNAP, or has ended CAPACITY. -/
theorem plateBegin_spec {k : Nat} (hk : k < 16) (s : State) :
    (pltPhase (plateBegin k s) = 1 ∨ (pltPhase (plateBegin k s) = 0 ∧ (plateBegin k s).fld rPltStat 19 16 = 2)) ∧ (plateBegin k s).fld rPltStat 15 12 = k ∧
      (plateBegin k s).fld rPltSeq 31 0 = (s.fld rPltSeq 31 0 + 1) % 2 ^ 32 ∧ (plateBegin k s).plate.hStep = stepCnt s ∧ (plateBegin k s).plate.hTime = sidereal s ∧
      tfind (plateBegin k s).plate.known k = none := by
  obtain ⟨n, w, hsame, heq⟩ := plateBegin_eq k s
  obtain ⟨hphase, hslot, hseq⟩ := plateBegun_stat hk s
  have hplate : w.plate = plateStart k s s.plate := hsame.plate.trans (plate_plateBegun k s)
  have hstat : ∀ hi lo, w.fld rPltStat hi lo = (plateBegun k s).fld rPltStat hi lo := fun hi lo =>
    (hsame.fld (by decide) hi lo).trans (State.fld_congr (State.rd_setFld_ne _ _ _ _ (by decide)) hi lo)
  have hwseq : w.fld rPltSeq 31 0 = (s.fld rPltSeq 31 0 + 1) % 2 ^ 32 :=
    ((hsame.fld (by decide) 31 0).trans (State.fld_setFld_ne _ _ _ _ _ _ _ _ (by decide) (by decide) (by decide))).trans hseq
  have hknown : tfind (plateStart k s s.plate).known k = none := tfind_terase_self ..
  rcases heq with heq | heq
  · rw [heq, hplate]
    exact ⟨.inl ((hstat 3 0).trans hphase), (hstat 15 12).trans hslot, hwseq, rfl, rfl, hknown⟩
  · obtain ⟨hrd, hend, -⟩ := plateEnd_spec 2 w
    rw [heq, hend, hplate]
    refine ⟨.inr (plateEnd_stat (by decide) w), ?_, ?_, rfl, rfl, hknown⟩
    · rw [State.fld_congr (hrd _ (by decide)), plateEnded, State.fld_setFld_ne _ _ _ _ _ _ _ _ (by decide) (by decide) (by decide),
        State.fld_setFld_ne _ _ _ _ _ _ _ _ (by decide) (by decide) (by decide), hstat, hslot]
    · rw [State.fld_congr (hrd _ (by decide)), plateEnded, State.fld_setFld_ne _ _ _ _ _ _ _ _ (by decide) (by decide) (by decide),
        State.fld_setFld_ne _ _ _ _ _ _ _ _ (by decide) (by decide) (by decide), hwseq]

/-- A plate point that is skipped counts, and one record is posted (R594). -/
theorem plateSkip_spec (s : State) : pltPhase (plateSkip s) = pltPhase s ∧ (plateSkip s).fld rPltStat 63 48 = min (s.fld rPltStat 63 48 + 1) 65535 ∧
    (plateSkip s).rd (ringCq s (routeCq s 4)).head = s.rd (ringCq s (routeCq s 4)).head + 1 ∧ (plateSkip s).mem = s.mem ∧ (plateSkip s).cores = s.cores := by
  obtain ⟨rec, heq⟩ : ∃ rec, plateSkip s = post 4 0xFF rec (s.draw.2.draw.2.satFld rPltStat 63 48 1) := ⟨_, rfl⟩
  have hpost := reportsPlate_post 4 0xFF rec (s.draw.2.draw.2.satFld rPltStat 63 48 1)
  have hhead := rd_post_head 4 rec (s.draw.2.draw.2.satFld rPltStat 63 48 1)
  have hroute : routeCq (s.draw.2.draw.2.satFld rPltStat 63 48 1) 4 = routeCq s 4 := State.fld_congr (rd_satFld_ne _ _ _ _ (by decide)) ..
  rw [hroute] at hhead
  rw [heq]
  refine ⟨(hpost.fld (by decide) 3 0).trans ?_, (hpost.fld (by decide) 63 48).trans ?_, hhead.trans (congrArg (· + 1) (rd_satFld_ne _ _ _ _ ?_)), hpost.mem, hpost.cores⟩
  · exact State.fld_setFld_ne _ _ _ _ _ _ _ _ (by decide) (by decide) (by decide)
  · exact State.fld_satFld_self _ _ _ _ _ (by decide) (by decide)
  · simp only [ringCq, rPltStat]
    omega

end Sys2Proof.Machine
end

section
/-! The Plate engine's commands: what begins, what a phase's end leaves, and what a running command ends in (R593 to R600, R602, R610, R611). -/

namespace Sys2Proof.Machine
open Sys2Proof.Claims

/-! ### TAKE and the commands begin (R593, R600) -/

theorem exec_take (s : State) : exec .take s = .next (pltTake s) := rfl

/-- A trigger for which a slot is free begins a plate; another is skipped (R594). -/
theorem pltTake_idle {s : State} (hfree : pltFree s = true) (hl : launched s = false) : pltTake s = plateTrigger s := by
  simp [pltTake, hfree, hl]

theorem plateTrigger_begins {s : State} {k : Nat} (hp : pltPhase s = 0) (hk : pickSlot s = some k) : plateTrigger s = plateBegin k (s.modPlate fun p => { p with takePend := false }) := by
  simp [plateTrigger, hp, hk]

theorem plateTrigger_skips {s : State} (h : pltPhase s = 4 ∨ pickSlot s = none) : plateTrigger s = plateSkip (s.modPlate fun p => { p with takePend := false }) := by
  unfold plateTrigger
  rcases h with h | h
  · simp [h]
  · simp [h]

/-- The beginning of a command by its code, with the slot and the status that its check gives. -/
theorem exec_plateCommand {i : Instr} {cmd slot : Nat} {use : State → State} (h : PlateCommand i cmd slot use) (s : State) :
    cmd < 8 ∧ ∃ rsel bslot shard st, exec i s = .next (pltBegin cmd rsel slot bslot shard st s) ∧ (cmd = 4 → launched s = true → st = 7) ∧
      use s = slotUse rsel (slot % 16) (if cmd = 5 then slotUse false (bslot % 16) s else s) := by
  rcases h with ⟨r, k, rfl, rfl, rfl⟩ | ⟨r, k, rfl, rfl, rfl⟩ | ⟨b, rfl, rfl, rfl⟩ | ⟨rfl, rfl, rfl⟩ | ⟨rfl, rfl, rfl⟩
  · exact ⟨by decide, r, 0, k, _, rfl, fun h => absurd h (by decide), rfl⟩
  · exact ⟨by decide, r, 0, k, _, rfl, fun _ hl => if_pos hl, rfl⟩
  · exact ⟨by decide, false, b, _, _, rfl, fun h => absurd h (by decide), rfl⟩
  · exact ⟨by decide, true, 0, _, _, rfl, fun h => absurd h (by decide), rfl⟩
  · exact ⟨by decide, false, 0, _, _, rfl, fun h => absurd h (by decide), rfl⟩

theorem pltBegin_busy {s : State} (h : pltFree s = false) (cmd : Nat) (rsel : Bool) (slot bslot shard st : Nat) : pltBegin cmd rsel slot bslot shard st s = pltDrop s := by
  simp [pltBegin, h]

theorem pltBegin_free {s : State} (h : pltFree s = true) (cmd : Nat) (rsel : Bool) (slot bslot shard st : Nat) : pltBegin cmd rsel slot bslot shard st s =
    ((slotUse rsel (slot % 16) (if cmd = 5 then slotUse false (bslot % 16) s else s)).setFld rPltStat 11 8 cmd).modPlate (fun p => { p with
      rsel := rsel, slot := slot % 16, bslot := bslot % 16, shard := min (shard % 1024) 257, cmdPbank := curPbank s, cmdCbank := curCbank s, cmdStatus := st }) := by
  simp [pltBegin, h]

theorem plateBegins : PlateBegins := by
  intro s
  refine ⟨fun hf => ⟨?_, fun i cmd slot use hi => ?_⟩, fun hf hl => ?_, fun hf hl hp k hk => ?_, fun hf hl h => ?_, fun hf i cmd slot use hi => ?_⟩
  · rw [exec_take, pltTake, hf]
    rfl
  · obtain ⟨-, rsel, bslot, shard, st, hexec, -⟩ := exec_plateCommand hi s
    rw [hexec, pltBegin_busy hf]
    rfl
  · rw [exec_take, pltTake, hf, hl]
    rfl
  · refine ⟨_, by rw [exec_take, pltTake_idle hf hl, plateTrigger_begins hp hk], ?_⟩
    exact plateBegin_spec (pickSlot_lt hk) _
  · refine ⟨_, by rw [exec_take, pltTake_idle hf hl, plateTrigger_skips h], ?_⟩
    exact plateSkip_spec _
  · obtain ⟨hcmd, rsel, bslot, shard, st, hexec, hst, huse⟩ := exec_plateCommand hi s
    rw [pltBegin_free hf, ← huse] at hexec
    refine ⟨_, hexec, ?_, rfl, ?_, hst, fun off ho => State.rd_setFld_ne _ _ _ _ ho.symm, rfl⟩
    · exact (State.fld_setFld_self _ _ _ _ _ (by decide) (by decide)).trans (Nat.mod_eq_of_lt (hcmd.trans (by decide)))
    · exact State.fld_setFld_ne _ _ _ _ _ _ _ _ (by decide) (by decide) (by decide)

/-! ### The phases of a plate (R584, R590 to R592, R595, R598, R599) -/

section
variable {s : State}

/-- PHASE as a phase's end sets it. -/
theorem pltPhase_setFld (s : State) {n : Nat} (hn : n < 16) : pltPhase (s.setFld rPltStat 3 0 n) = n :=
  (State.fld_setFld_self _ _ _ _ _ (by decide) (by decide)).trans (Nat.mod_eq_of_lt hn)

theorem exec_snapDone (hp : pltPhase s = 1) (hs : pltStopped s = false) : exec .snapDone s = .next (if s.plate.fits then s.setFld rPltStat 3 0 2 else plateEnd 8 s) := if_pos ⟨hp, hs⟩

theorem exec_copyDone (hp : pltPhase s = 2) (hs : pltStopped s = false) {x : Bool × List ShardRec × State}
    (hx : s.plate.shards.foldl (copyShard (slotBase s false (s.fld rPltStat 15 12))) (true, [], s) = x) :
    exec .copyDone s = if x.1 then .next ((x.2.2.modPlate (fun p => { p with shards := x.2.1 })).setFld rPltStat 3 0 3) else .next (plateEnd 2 x.2.2) := by
  subst hx
  exact if_pos ⟨hp, hs⟩

theorem exec_digestDone (hp : pltPhase s = 3) (hc : pltCmd s = 0) (hs : pltStopped s = false) {x : Bool × State}
    (hx : writeDigests (slotBase s false (s.fld rPltStat 15 12)) s.plate.shards s = x) :
    exec .digestDone s = if x.1 then .next ((x.2.setFld rPltStat 3 0 4).modPlate (fun p => { p with signWait := s.flag rPltCfg 2 && quoteSigns s })) else .next (plateEnd 2 x.2) := by
  subst hx
  exact if_pos ⟨hp, hc, hs⟩

theorem exec_signDone (hp : pltPhase s = 4) (hw : s.plate.signWait = false) (hs : pltStopped s = false) {sig : List Byte}
    (hsig : sig = if s.flag rPltCfg 2 then Config.ecdsaSign (hostLimb s == 4) (headerBytes s) else List.replicate 96 0) {x : Bool × State}
    (hx : pltWrite (slotByte s false (s.fld rPltStat 15 12) 0) (headerBytes s ++ sig ++ List.replicate (granule - 256 - sig.length) 0) s = x) :
    exec .signDone s = if x.1 then .next (plateEnd (if s.plate.shards.any (·.poison) then 1 else 0) (x.2.modPlate (fun p => { p with known := tset p.known (s.fld rPltStat 15 12) (s.fld rPltSeq 31 0) })))
      else .next (plateEnd 2 x.2) := by
  subst hsig hx
  exact if_pos ⟨hp, hw, hs⟩

theorem exec_snapDone_idle (h : pltPhase s ≠ 1 ∨ pltStopped s = true) : exec .snapDone s = .next s := if_neg (by rcases h with h | h <;> simp [h])

theorem exec_copyDone_idle (h : pltPhase s ≠ 2 ∨ pltStopped s = true) : exec .copyDone s = .next s := if_neg (by rcases h with h | h <;> simp [h])

theorem exec_digestDone_idle (h : pltPhase s ≠ 3 ∨ pltCmd s ≠ 0 ∨ pltStopped s = true) : exec .digestDone s = .next s := if_neg (by rcases h with h | h | h <;> simp [h])

theorem exec_signDone_idle (h : pltPhase s ≠ 4 ∨ s.plate.signWait = true ∨ pltStopped s = true) : exec .signDone s = .next s := if_neg (by rcases h with h | h | h <;> simp [h])

/-- A header written: the plate ends OK, or POISONED where a shard was, and its slot is known by its SEQ (R584, R599). -/
theorem plateEnd_signed (u : State) (k seq : Nat) (poisoned : Bool) :
    pltPhase (plateEnd (if poisoned then 1 else 0) (u.modPlate fun p => { p with known := tset p.known k seq })) = 0 ∧
      (plateEnd (if poisoned then 1 else 0) (u.modPlate fun p => { p with known := tset p.known k seq })).fld rPltStat 19 16 = (if poisoned then 1 else 0) ∧
      tfind (plateEnd (if poisoned then 1 else 0) (u.modPlate fun p => { p with known := tset p.known k seq })).plate.known k = some seq ∧
      (plateEnd (if poisoned then 1 else 0) (u.modPlate fun p => { p with known := tset p.known k seq })).mem = u.mem := by
  have hst : (if poisoned then 1 else 0) < 16 := by split <;> decide
  obtain ⟨hphase, hstat⟩ := plateEnd_stat hst (u.modPlate fun p => { p with known := tset p.known k seq })
  obtain ⟨-, hplate, hmem⟩ := plateEnd_spec (if poisoned then 1 else 0) (u.modPlate fun p => { p with known := tset p.known k seq })
  exact ⟨hphase, hstat, by rw [hplate]; exact tfind_tset_self .., hmem⟩

end

theorem platePhases : PlatePhases := by
  refine fun s => ⟨fun hs i hi => ?_, fun hs => ⟨fun hp => ⟨fun hf => ?_, fun hf => ?_⟩, fun hp x hx => ⟨fun h => ?_, fun h => ?_⟩, fun hp hc x hx => ⟨fun h => ?_, fun h => ?_⟩,
    fun hp hw sig hsig x hx => ⟨fun h => ?_, fun h => ?_⟩, fun h => exec_snapDone_idle (.inl h), fun h => exec_copyDone_idle (.inl h), fun h => exec_digestDone_idle (h.imp_right .inl),
    fun h => exec_signDone_idle (h.imp_right .inl)⟩⟩
  · simp only [List.mem_cons, List.not_mem_nil, or_false] at hi
    rcases hi with rfl | rfl | rfl | rfl
    · exact exec_snapDone_idle (.inr hs)
    · exact exec_copyDone_idle (.inr hs)
    · exact exec_digestDone_idle (.inr (.inr hs))
    · exact exec_signDone_idle (.inr (.inr hs))
  · rw [exec_snapDone hp hs, if_pos hf]
  · exact ⟨_, by rw [exec_snapDone hp hs, if_neg (by simp [hf])], plateEnd_stat (by decide) s⟩
  · exact ⟨_, (exec_copyDone hp hs hx).trans (if_pos h), pltPhase_setFld _ (by decide), rfl, rfl, rfl⟩
  · exact ⟨_, (exec_copyDone hp hs hx).trans (if_neg (by simp [h])), plateEnd_stat (by decide) _⟩
  · exact ⟨_, (exec_digestDone hp hc hs hx).trans (if_pos h), pltPhase_setFld x.2 (by decide), rfl, rfl⟩
  · exact ⟨_, (exec_digestDone hp hc hs hx).trans (if_neg (by simp [h])), plateEnd_stat (by decide) _⟩
  · exact ⟨_, (exec_signDone hp hw hs hsig hx).trans (if_pos h), plateEnd_signed ..⟩
  · exact ⟨_, (exec_signDone hp hw hs hsig hx).trans (if_neg (by simp [h])), plateEnd_stat (by decide) _⟩

/-! ### What a running command ends in (R602 to R605, R610) -/

section
variable (s : State)

theorem pltCmd_ite {c : Prop} [Decidable c] {t u : State} (h : pltCmd t = 0) (k : pltCmd u = 0) : pltCmd (if c then t else u) = 0 := by
  split <;> assumption

theorem pltCmd_doVerify : pltCmd (doVerify s) = 0 := by
  unfold doVerify
  dsimp only
  split
  · exact pltCmd_cmdEnd ..
  · exact pltCmd_ite (pltCmd_cmdEnd ..) (pltCmd_cmdEnd ..)

theorem pltCmd_doRestore : pltCmd (doRestore s) = 0 := by
  unfold doRestore
  dsimp only
  split
  · exact pltCmd_cmdEnd ..
  · exact pltCmd_ite (pltCmd_cmdEnd ..) (pltCmd_ite (pltCmd_cmdEnd ..) (pltCmd_ite (pltCmd_cmdEnd ..) (pltCmd_cmdEnd ..)))

theorem pltCmd_doDelta : pltCmd (doDelta s) = 0 := pltCmd_ite (pltCmd_cmdEnd ..) (pltCmd_cmdEnd ..)

theorem pltCmd_doApply : pltCmd (doApply s) = 0 := pltCmd_ite (pltCmd_cmdEnd ..) (pltCmd_ite (pltCmd_cmdEnd ..) (pltCmd_cmdEnd ..))

theorem pltCmd_doMark : pltCmd (doMark s) = 0 := pltCmd_cmdEnd ..

theorem pltCmd_plateWork (cmd : Nat) : pltCmd (plateWork cmd s) = 0 := by
  unfold plateWork
  split_ifs
  · exact pltCmd_doVerify s
  · exact pltCmd_doRestore s
  · exact pltCmd_doDelta s
  · exact pltCmd_doApply s
  · exact pltCmd_doMark s

end

section
variable {s : State}

/-- A command that does not run, one behind SNAP or COPY, and any in a FATAL module, waits (R600, R622). -/
theorem exec_plateCommandDone_idle (h : pltCmd s = 0 ∨ pltPhase s = 1 ∨ pltPhase s = 2 ∨ pltStopped s = true) : exec .plateCommandDone s = .next s := if_pos h

/-- A command that its check refused ends with the status; another has its work done (R600). -/
theorem exec_plateCommandDone (hc : pltCmd s ≠ 0) (h1 : pltPhase s ≠ 1) (h2 : pltPhase s ≠ 2) (hs : pltStopped s = false) :
    exec .plateCommandDone s = .next (if s.plate.cmdStatus ≠ 0 then cmdEnd s.plate.cmdStatus [] s else plateWork (pltCmd s) s) := by
  change execPlateCommandDone s = _
  unfold execPlateCommandDone plateWork
  rw [if_neg (by simp [hc, h1, h2, hs])]
  split
  · rfl
  · split
    · rename_i h
      rw [h]
      rfl
    · rename_i h
      rw [h]
      rfl
    · rename_i h
      rw [h]
      rfl
    · rename_i h
      rw [h]
      rfl
    · rename_i h3 h4 h5 h6
      rw [if_neg h3, if_neg h4, if_neg h5, if_neg h6]

/-- MARK ends OK and keeps SEQ of the slot (R610). -/
theorem doMark_spec (s : State) : pltCmd (doMark s) = 0 ∧ (doMark s).fld rPltStat 23 20 = 0 ∧ tfind (doMark s).plate.marked s.plate.slot = some (slotSeq s false s.plate.slot) ∧ (doMark s).mem = s.mem := by
  refine ⟨pltCmd_doMark s, status_cmdEnd (by decide) _ _, ?_, mem_cmdEnd ..⟩
  rw [doMark, plate_cmdEnd]
  exact tfind_tset_self ..

theorem exec_plateCancel (s : State) : exec .plateCancel s = .next (pltCancel s) := rfl

end

/-! ### The slots are read again (R611) -/

theorem exec_plateConfigWrite (off : Nat) (v : Word) (s : State) :
    exec (.plateConfigWrite off v) s = .next (if off = 0x7000 ∨ off = 0x7008 ∨ off = 0x7010 ∨ off = 0x7018 then pltConfigWrite off v s else s) := rfl

theorem regsOnly_plainWrite (s : State) (off : Nat) (v : Word) : RegsOnly s (plainWrite s off v) := by
  unfold plainWrite
  split
  · exact regsOnly_refl s
  · exact regsOnly_wr ..

/-- The engine's read of the slot headers leaves the registers below the error block, the bytes and the cores. -/
theorem learnSlots_spec (s : State) : (∀ off < 0x8000, (learnSlots s).rd off = s.rd off) ∧ (learnSlots s).mem = s.mem ∧ (learnSlots s).cores = s.cores := by
  have hread : ReportsPlate s (forEach (List.range (pltSlots s)) (fun k t => pltUse (slotByte s false k 0) 12 t) s) :=
    forEach_induction (f := fun k t => pltUse (slotByte s false k 0) 12 t) (fun _ _ h => h.trans (reportsPlate_pltUse ..)) _ (reportsPlate_refl s)
  exact ⟨hread.rd, hread.mem, hread.cores⟩

theorem plateCommands : PlateCommands := by
  refine fun s => ⟨exec_plateCommandDone_idle, fun hc h1 h2 hs => ⟨fun hst => ?_, fun hst => ?_, ?_⟩, fun e he hin => ?_, fun he => ⟨?_, ?_⟩, doMark_spec s, fun hp => ?_, fun hp hc => ?_, fun hp hc => ?_,
    fun off v ho => ?_, fun off v ho => ?_⟩
  · rw [exec_plateCommandDone hc h1 h2 hs, if_pos hst]
  · rw [exec_plateCommandDone hc h1 h2 hs, if_neg (by simp [hst])]
  · refine ⟨_, exec_plateCommandDone hc h1 h2 hs, ?_⟩
    exact pltCmd_ite (pltCmd_cmdEnd ..) (pltCmd_plateWork s _)
  · rw [doVerify, he]
    exact if_pos hin
  · rw [doVerify, he]
  · rw [doRestore, he]
  · exact ⟨_, by rw [exec_plateCancel, pltCancel, if_pos hp], plateEnd_stat (by decide) s⟩
  · exact ⟨_, by rw [exec_plateCancel, pltCancel, if_neg (by simp [hp]), if_pos hc], pltCmd_cmdEnd .., status_cmdEnd (by decide) ..⟩
  · rw [exec_plateCancel, pltCancel, if_neg (by simp [hp]), if_neg (by simp [hc])]
  · rw [exec_plateConfigWrite, if_neg (by simpa using ho)]
  · have hoff : off = 0x7000 ∨ off = 0x7008 ∨ off = 0x7010 ∨ off = 0x7018 := by simpa using ho
    have hwrite := regsOnly_plainWrite s off v
    obtain ⟨hrd, hmem, hcores⟩ := learnSlots_spec (plainWrite s off v)
    refine ⟨_, by rw [exec_plateConfigWrite, if_pos hoff, pltConfigWrite], hrd off (by omega), rfl, hmem.trans ?_, hcores.trans ?_⟩
    · rw [hwrite]
    · rw [hwrite]

/-- Settles O55: a plate by what its slot, its phases and its end leave of PLT_STAT and of the slots that are known, a command by how it begins and by the one end that every command's work comes to. The corners of slots and phases (a complete slot that is not marked stays, a trigger while a plate has not ended is skipped, a plate that does not fit ends at SNAP_DONE, CANCEL takes the plate before the command), and of the engine's own work (a shard that the directory does not name is REFUSED, so is a RESTORE of a launched module, and a FATAL module stops the engine), are the model's choice (SPEC.md, entries 51 and 52). -/
theorem plateEngine : Obligations.PlateEngine := ⟨plateBegins, platePhases, plateCommands⟩

end Sys2Proof.Machine
end
